-- ==== Sys2Proof/Word.lean ====
section
/-! DEFINITION. The word types of the module: registers are 32 bits wide (spec/00_scope.md, Notation), strand registers
are 64 bits wide (R31), and every on-chip structure is a sequence of bytes, little-endian (R5). -/

namespace Sys2Proof

/-- One byte. -/
abbrev Byte := BitVec 8

/-- One register of the register fabric (R6). -/
abbrev Word32 := BitVec 32

/-- One general register of a strand (R31). -/
abbrev Word64 := BitVec 64

/-- A sparse table: keys strictly rising, and no entry equal to what an unlisted key reads as. -/
abbrev Table (α : Type) := List (Nat × α)

end Sys2Proof
end

