-- ==== Sys2Proof/Machine/Flags.lean ====
section
/-! DEFINITION. The results that instructions compute from operand values: ALU results (R74, R75) and the predicates of
compares (R76). Results wrap modulo 2^64. -/

namespace Sys2Proof.Machine

/-- An immediate, sign-extended to 64 bits. -/
def sext64 {w : Nat} (x : BitVec w) : Word64 := x.signExtend 64

/-! ## ALU (R74) -/

/-- Shift and rotate counts use the low 6 bits of the count. -/
def shiftCount (b : Word64) : Nat := b.toNat % 64

def aluShl (a b : Word64) : Word64 := a <<< shiftCount b
def aluShr (a b : Word64) : Word64 := a >>> shiftCount b
def aluSar (a b : Word64) : Word64 := a.sshiftRight (shiftCount b)
def aluRol (a b : Word64) : Word64 := a.rotateLeft (shiftCount b)
def aluMulhu (a b : Word64) : Word64 := BitVec.ofNat 64 (a.toNat * b.toNat / 2 ^ 64)
def aluMulhs (a b : Word64) : Word64 := BitVec.ofInt 64 (a.toInt * b.toInt / 2 ^ 64)
def aluMin (a b : Word64) : Word64 := if a.slt b then a else b
def aluMax (a b : Word64) : Word64 := if a.slt b then b else a
def aluMinu (a b : Word64) : Word64 := if a.ult b then a else b
def aluMaxu (a b : Word64) : Word64 := if a.ult b then b else a

/-- Leading zeros, 0 to 64. -/
def aluClz (a : Word64) : Word64 := BitVec.ofNat 64 (if a.toNat = 0 then 64 else 63 - a.toNat.log2)

/-- Set bits. -/
def aluPopc (a : Word64) : Word64 :=
  BitVec.ofNat 64 ((List.range 64).foldl (fun n i => n + bnat (bitOf a.toNat i)) 0)

/-- The 8 bytes reversed. -/
def aluBswap (a : Word64) : Word64 := BitVec.ofNat 64 (ofBytes (bytesOf 8 a.toNat).reverse)

/-- `bfx`: (ra >> pos) AND (2^len − 1). -/
def aluBfx (a : Word64) (pos len : Nat) : Word64 := BitVec.ofNat 64 (a.toNat / 2 ^ pos % 2 ^ len)

/-- `bfi`: rd[pos+len−1:pos] := ra[len−1:0], the other bits of rd kept. -/
def aluBfi (d a : Word64) (pos len : Nat) : Word64 :=
  BitVec.ofNat 64 (withBits d.toNat (pos + len - 1) pos (a.toNat % 2 ^ len))

/-- A len outside 1 to 64, or pos + len above 64, makes the word of bfx and bfi undefined. -/
def fieldOk (pos len : Nat) : Bool := decide (1 ≤ len ∧ len ≤ 64 ∧ pos + len ≤ 64)

/-- `lih`: rd[63:32] := imm, rd[31:0] kept. -/
def aluLih (d : Word64) (imm : BitVec 32) : Word64 := BitVec.ofNat 64 (d.toNat % 2 ^ 32 + imm.toNat * 2 ^ 32)

/-! ## Predicates (R76) -/

def cmpEq (a b : Word64) : Bool := a == b
def cmpNe (a b : Word64) : Bool := a != b
def cmpLt (a b : Word64) : Bool := a.slt b
def cmpLe (a b : Word64) : Bool := a.sle b
def cmpLtu (a b : Word64) : Bool := a.ult b
def cmpLeu (a b : Word64) : Bool := a.ule b
def cmpTst (a b : Word64) : Bool := (a &&& b) != 0

/-- `plog`: tt[2 × p[pa] + p[pb]]. -/
def cmpPlog (tt : BitVec 4) (a b : Bool) : Bool := bitOf tt.toNat (2 * bnat a + bnat b)

end Sys2Proof.Machine
end

