-- ==== Sys2Proof/Config.lean ====
section
/-! DEFINITION. What the spec leaves open: free values, each an opaque constant of the model, so that nothing can be proved
of its value. `ctr` is the counter of free values that State holds; each use reads it and advances it. -/

namespace Sys2Proof.Config

/-- A free 64-bit value: the value number `ctr` that the spec leaves open (the output of the entropy source of R90, a
read that R507 or R540 leaves open, a result the spec does not state). -/
opaque free64 : Nat → BitVec 64

/-- A free answer yes or no, number `ctr`, where the spec says that a happening may or may not take place (R536). -/
opaque freeBool : Nat → Bool

/-- A free natural number, number `ctr`, below any bound that its use states. -/
opaque freeNat : Nat → Nat

/-- The 8 bytes of CM private data with which the peer of a queue pair offered or accepted spray mode (R292), by queue pair number: they pass
between the connection managers and stand in no register. -/
opaque sprayOffer : Nat → List (BitVec 8)

/-- What R300 leaves open of a CM datagram that the module sends, by its destination address: source address, class, DSCP and PSN. -/
opaque cmFields : Nat → Nat

/-- What a byte of HBM holds that nothing has written since Kindle reset number `era`, by its address: arbitrary and stable (R547). -/
opaque openHbm : Nat → Nat → BitVec 8

/-- What a read of HBM finds at an address under the enabled STRP aperture, whose bytes no requester reaches (R144); what it gets instead
is not stated. -/
opaque coveredHbm : Nat → BitVec 8

/-- Whether a 64-byte unit of HBM not written since Kindle reset number `era` holds a pattern that its ECC finds uncorrectable (R547). -/
opaque openHbmBad : Nat → Nat → Bool

/-- What a byte of the buffer cells holds that nothing has written since Kindle reset number `era` (R96, R547). -/
opaque openBuf : Nat → Nat → BitVec 8

/-- Whether a 64-byte unit of the buffer not written since Kindle reset number `era` holds an uncorrectable pattern (R547). -/
opaque openBufBad : Nat → Nat → Bool

/-- What a byte of a member block holds on a drive that the program library has not written there, by serial number, LBA and place in the
block (assumption 15). -/
opaque driveByte : Nat → Nat → Nat → BitVec 8

/-- The data unit number that the program library gives XTS for an LBA of a namespace, by NSID and LBA (R106 states none). -/
opaque xtsNumber : Nat → Nat → Nat

/-- A metadata byte that the program library writes beside a block, by protection type, namespace block and place, for the block's bytes
(R105 states how PI is coded, no rule states which guard and tags the library asks for). -/
opaque metaByte : Nat → Nat → Nat → List (BitVec 8) → BitVec 8

/-- The bytes of a pool record that holds the given numbers: R118, R127 and R137 say what it carries, and not where. -/
opaque poolRecord : List Nat → List (BitVec 8)

end Sys2Proof.Config
end

