-- ==== Sys2Proof/Syntax.lean ====
section
/-! DEFINITION. The commands of the module: one constructor per row of spec/opcode_table.json, in the table's order, each
with the operands that say which happening it is. The table gives its rows no fields, so the operands are the model's
(assumption 2): the unit a row acts on, the values a rule leaves to the world outside the module (a voltage, a frame, an
accessor's address and data), and for a Seam instruction its strand, guard and operand fields (R66). -/

namespace Sys2Proof

/-- Who makes a register access (R508): the management processor's two cores, a strand, or the local computer by BAR0. -/
inductive Accessor where
  | core0
  | core1
  | strand (e : Fin 64) (s : Fin 8)
  | bar0
  deriving DecidableEq, Repr

/-- The strand on which a Seam instruction comes up for issue, and its guard (R66, R70). -/
structure Issue where
  /-- Engine. -/
  e : Fin 64
  /-- Strand. -/
  s : Fin 8
  /-- psel: the guarding predicate. -/
  psel : Fin 8
  /-- pneg: the guard is the inverse of the predicate. -/
  pneg : Bool
  deriving DecidableEq, Repr

/-- The optional second destination of a compare (R76): `cen` and `pc`. -/
structure Inv where
  cen : Bool
  pc : Fin 8
  deriving DecidableEq, Repr

/-- A pool's layout (R118, R121): its parameters and its table, one 1,024-byte record a row, as bytes. -/
structure Layout where
  k : Nat
  m : Nat
  n : Nat
  s : Nat
  /-- Strip size in bytes. -/
  u : Nat
  /-- Rows in the table. -/
  rowCount : Nat
  rows : List (List Nat)
  deriving DecidableEq, Repr

/-- A namespace table entry (R126). -/
structure NsRec where
  nsid : Nat
  writeBack : Bool
  encrypted : Bool
  /-- LBA data size 4,096; otherwise 512. -/
  big : Bool
  zeroed : Bool
  pi : Nat
  ms : Nat
  aus : Nat
  xslot : Nat
  nguid : Nat
  gen : Nat
  deriving DecidableEq, Repr

/-- A member table entry of the label: serial number, state (R172) and LBA count. -/
structure LabelMember where
  serial : Nat
  state : Nat
  lbas : Nat
  deriving DecidableEq, Repr

/-- A member's own copy of what its label holds beside the pool record, as bytes: the namespace table, its entries in use by slot (R126); the
allocation map (R127); the round records, the reshape record, the copy-back cursor and the lost-extent list (R179, R184, R187, R195). -/
structure LabelCopy where
  /-- Slot and 64 bytes of each entry that is in use; every other slot holds an unused entry. -/
  ns : List (Nat × List Nat)
  map : List Nat
  rounds : List (List Nat)
  reshape : List Nat
  /-- The copy-back cursor: 256 × member + 1, and the next stripe; (0, 0) with no copy-back. -/
  cursor : Nat × Nat
  lostList : List (List Nat)
  deriving DecidableEq, Repr

/-- A pool record as a label holds it (R118, R137, R177), with the copies of the members that carry its generation. -/
structure Label where
  uuid : Nat
  gen : Nat
  /-- The CRC-32C of the whole namespace table and of the whole map at this generation (R127). -/
  nsCrc : Nat
  mapCrc : Nat
  ms : Nat
  /-- Protection type of the pool's blocks (R123). -/
  pi : Nat
  /-- Rejoin window in seconds, where the record gives one (R118). -/
  window : Option Nat
  portable : Bool
  /-- The two members of the journal copies. -/
  jx0 : Nat
  jx1 : Nat
  layout : Layout
  reps : Nat
  /-- Pool blocks of an allocation unit, as the pool was created (R189). -/
  kau : Nat
  /-- The new layout of a reshape in progress. -/
  next : Option Layout
  members : List LabelMember
  copies : List LabelCopy
  /-- Relocation entries (R177), of the layout below and above a reshape boundary. -/
  reloc : List Nat
  relocAbove : List Nat
  deriving DecidableEq, Repr

/-- A drive that POOL_ASSEMBLY finds, or that a request names, with what its label says. -/
structure Found where
  port : Nat
  uuid : Nat
  member : Nat
  gen : Nat
  serial : Nat
  lbas : Nat
  /-- Formatted and able as R120 and R153 require. -/
  fit : Bool
  /-- Trained as dual-port x2 (R21). -/
  dual : Bool
  deriving DecidableEq, Repr

/-- What the library learns of a drive as it enumerates it (R204): serial number, its label's pool UUID and generation, LBA
bytes, BAR0, DRV_MDTS units, CAP.DSTRD, and of Identify the warning and critical composite temperature thresholds in °C and
the highest-numbered operational power state (R455). -/
structure DriveInfo where
  serial : Nat
  uuid : Nat
  gen : Nat
  lbaBytes : Nat
  bar : Nat
  mdts : Nat
  dstrd : Nat
  warn : Nat
  crit : Nat
  top : Nat
  deriving DecidableEq, Repr

/-- How a frame arrives at a MAC: whole with a good FCS, whole with a bad one, or cut off. -/
inductive FrameEnd where
  | good
  | badFcs
  | cut
  deriving DecidableEq, Repr

/-- What makes a fault of a slot (R220). -/
inductive LinkFault where
  | align
  | loc
  | remote
  | fec
  deriving DecidableEq, Repr

/-- The placement extension of spray mode (R293). -/
structure PlaceExt where
  /-- Version and reserved bits are as the table gives. -/
  fits : Bool
  /-- Packets in the message less 1, 0 to 1,023. -/
  count : Nat
  index : Nat
  msn : Nat
  deriving DecidableEq, Repr

/-- The headers of a transport packet as it stands in an XRX queue (R279). -/
structure PktHead where
  /-- XRX0 or XRX1. -/
  xrx : Fin 2
  /-- The stored frame that carries it, where one still stands in the XRX queue: its number. -/
  frame : Option Nat
  /-- Ingress slot, and the cluster that the lookup chose (R256). -/
  slot : Nat
  cluster : Fin 16
  qpn : Nat
  pkey : Nat
  psn : Nat
  /-- UDP port 4791, BTH version 0, UDP checksum and ICRC are right (R273, R279). -/
  good : Bool
  /-- The packet carries ECN CE. -/
  ce : Bool
  /-- The packet opens and ends its message, by its opcode. -/
  first : Bool
  last : Bool
  ackReq : Bool
  solicited : Bool
  /-- The sealed engine's input buffer is full (R327). -/
  busy : Bool
  /-- Of a packet of a sealed queue pair: its BTH and extended transport headers in wire order, and its tag (R326). -/
  raw : List Byte
  tag : List Byte
  ext : Option PlaceExt
  deriving DecidableEq, Repr

/-- The placement type of a FLUSH (R320, R321). -/
inductive FlushType where
  | visibility
  | persistence
  | other
  deriving DecidableEq, Repr

/-- The selectivity of a FLUSH (R320). -/
inductive FlushSel where
  | range
  | region
  | other
  deriving DecidableEq, Repr

/-- What makes a conventional reset of the attach endpoint (R342). -/
inductive AttReset where
  | perst
  | hot
  | dlDown
  deriving DecidableEq, Repr

/-- How a completion of an attach request arrives (R340). -/
inductive CplStatus where
  | ok
  | ur
  | ca
  | poisoned
  deriving DecidableEq, Repr
/-- What a bay channel's comparators and converters show (R427, R428, R434, R441): the bus and BAY_VS in 10 mV, the current in
mA, the auxiliary current in mA and voltage in 10 mV, its switch at 150 °C, and the filtered PRSNT_N as presence. -/
structure BayInput where
  v12 : BitVec 12
  vs : BitVec 14
  i : BitVec 16
  auxI : BitVec 12
  auxV : BitVec 10
  auxHot : Bool
  present : Bool
  deriving DecidableEq, Repr


/-- What a transport packet asks or answers (R273, R289). Data stands beside it. -/
inductive PktKind where
  | send (inv : Option Nat)
  | write (va key len : Nat) (imm : Option Nat)
  | read (va key len : Nat)
  | cas (va key swap cmp : Nat)
  | faa (va key add : Nat)
  | flush (va key len : Nat) (type : FlushType) (sel : FlushSel)
  | awrite (va key : Nat)
  /-- An opcode that names an unsupported operation (R273). -/
  | unsupported
  | ack
  | nakSeq
  | rnr (timer : Nat)
  | nakAccess
  | nakInvalid
  | nakOperational
  | response
  | cnp
  /-- A datagram for QP1: source address, queue pair and UDP port, and Q_Key (R300). -/
  | cm (srcIp srcQpn srcPort qkey : Nat)
  deriving DecidableEq, Repr

/-- A transport packet. -/
structure Pkt where
  head : PktHead
  kind : PktKind
  data : List Byte
  deriving DecidableEq, Repr

/-- The header of a log record as a trailing twin receives it (R356): sequence number, target, and round for an engine
target. -/
structure LogHead where
  seq : Nat
  target : Nat
  round : Nat
  deriving DecidableEq, Repr

/-- The payload of a log record (R356), by kind. -/
inductive LogBody where
  | frame (k : Pkt)
  /-- A FRAME that carries a CM datagram (R300). -/
  | cm (srcIp srcQpn srcPort : Nat) (mad : List Byte)
  /-- Strand, slot, work kind, the item's full bytes, and one print for each 4 KiB block after them. -/
  | item (strand slot kind : Nat) (full : List Byte) (prints : List Nat)
  /-- Port, completion entry as 4 dwords, and prints of the blocks that a read wrote. -/
  | dcomp (port : Nat) (entry : List Nat) (prints : List Nat)
  /-- Descriptor, fields of its status word, prints of its output blocks, and a HASH's 128-byte state. -/
  | xcomp (desc code detail epstat result : Nat) (prints : List Nat) (hash : List Byte)
  | attrec (f kind reg value : Nat)
  /-- 0 strand timer; 1 gap, 2 acknowledgement, 3 retransmission, 4 RNR, 5 RNR wait, 6 spray; 7 aging tick; 8 Damper period;
  and the strand, context or XRX queue. -/
  | timer (kind ctx : Nat)
  /-- Class, and the strand (8 × engine + strand) or the descriptor that is granted. -/
  | grant (cls : Nat) (desc : Bool) (who : Nat)
  /-- Strand of the engine, destination register, and the result. -/
  | value (strand rd v : Nat)
  | event (e tag : Nat)
  /-- A register write; a write of TOP_BRST is a Block reset. -/
  | cmd (addr value : Nat)
  /-- 0 slot, 1 drive port, 2 attach function; its number; in service or up, and a status or state. -/
  | link (what unit : Nat) (up : Bool) (state : Nat)
  | mirror (addr : Nat) (data : List Byte)
  | epoch (n : Nat) (rounds : List Nat)
  | digest (n v : Nat)
  | horizon (round : Nat)
  | swap
  deriving DecidableEq, Repr

/-- What a resync copies, and where it goes on the trailing twin (R377). -/
inductive CopySpace where
  | mram
  | hbm
  /-- A 4 KiB block of HBM as its print. -/
  | hbmPrint
  | program
  | localMem
  | forwarding
  | vlan
  /-- A word of a cached context. -/
  | context
  | register
  | lock
  deriving DecidableEq, Repr

/-- One copied range: its space, its first address there, and its bytes or words. -/
structure CopyItem where
  space : CopySpace
  addr : Nat
  vals : List Nat
  deriving DecidableEq, Repr

/-- What the peer presents at pairing (R353, R354): its serial number, whether it serves and prefers to lead, and the values
that it draws, one for each time step 3 runs. -/
structure PeerInfo where
  serial : Nat
  serving : Bool
  prefer : Bool
  draws : List Nat
  deriving DecidableEq, Repr

/-- What a NAMESPACE request of the mailbox asks (R123, R124, R467). -/
inductive NsReq where
  | create (pool : Fin 4) (lbas : Nat) (writeBack big : Bool) (pi xslot nguid : Nat)
  | delete (nsid : Nat)
  deriving DecidableEq, Repr

/-- What a KEY request asks (R308, R467): the entry's bytes as 8 words, the key, or the index. -/
inductive KeyReq where
  | register (data : List Word32)
  | revoke (key : Word32)
  | release (index : BitVec 20)
  deriving DecidableEq, Repr

/-- What a POOL request asks (R141, R187, R188, R467): the record of a new pool or of a new layout, and the drives named. -/
inductive PoolReq where
  | create (pool : Fin 4) (record : Label) (drives : List Found)
  | fail (pool : Fin 4) (member : Fin 24)
  | replace (pool : Fin 4) (member : Fin 24) (drive : Found)
  | reshape (pool : Fin 4) (layout : Layout) (drives : List Found)
  deriving DecidableEq, Repr

/-- What a SLATE request asks (R317, R319, R467). -/
inductive SlateReq where
  | create (slate : BitVec 10) (nsid pages : Nat) (mirror : Bool)
  | resize (slate : BitVec 10) (pages : Nat)
  | mirror (slate : BitVec 10) (on : Bool)
  deriving DecidableEq, Repr

/-- What is lost of the clocks (R504): a reference, or the lock of a PLL. -/
inductive ClockLoss where
  | refEth
  | refDrv
  | refAtt
  | pllMgmt
  | pllSeam
  | pllDrv0
  | pllDrv1
  | pllAtt
  deriving DecidableEq, Repr

/-- What the twin link gives a host write: whether its rate is high enough for write-back (R135), and whether the
MIRROR records of the data were acknowledged in time (R156). -/
structure TwinAnswers where
  rateOk : Bool
  fenceOk : Bool
  deriving DecidableEq, Repr

/-- The pins of a bay that the port samples (R201): presence and CLKREQ_N, each true when it is asserted. -/
structure DrivePins where
  present : Bool
  clkreq : Bool
  deriving DecidableEq, Repr

/-- The body of a VALUE record (R91): the strand of the engine, the register and the value. -/
structure ValueRec where
  strand : Fin 8
  /-- The register that receives the result; 32 for a range print (R359). -/
  rd : Fin 33
  v : Word64
  deriving DecidableEq, Repr

/-- What a scrub pass corrected: in the on-chip memories that have no count of their own, in the payload buffer
(R114) and in the forwarding tables. -/
structure ScrubCounts where
  others : Nat
  buf : Nat
  fwd : Nat
  deriving DecidableEq, Repr

/-- The commands. -/
inductive Instr where
  -- Register access (R6, R8, R10, R508)
  | registerWrite (who : Accessor) (addr : Word32) (val : Word32)
  | misalignedRegisterAccess (who : Accessor) (write : Bool) (addr : Word32)
  | accessIntoStoppedDomain (who : Accessor) (write : Bool) (addr : Word32)
  | readClear (who : Accessor) (addr : Word32)
  | wideValueLowWordRead (who : Accessor) (addr : Word32)
  | sealSet (who : Accessor) (addr : Word32)
  -- Hearth, resets and boot (spec/16)
  | feedOn
  | hearthRstNAssert
  | hearthResetDone
  | strapSample (pins : BitVec 4)
  | powerOff
  | xtalFail
  | kindleNFall
  | hearthAlarmMatch
  | serve
  | bank
  | sleep
  | krst
  | hrst
  | railEnableNext
  | railFailure
  | railFault (n : Fin 6)
  | railDisableNext
  | railRetry
  | managementPllLock
  | bootHandoff
  | recoveryImageReceive (bytes : List Byte)
  | recoveryTransferTimeout
  | thermalShutdown (i : Fin 16) (t : BitVec 11)
  | thermalRestart (t : BitVec 11)
  | watchdogKick
  | watchdogStage1Expiry
  | watchdogStage2Expiry
  | watchdogStage3Expiry
  | managementReset
  | blockResetNetp (slot : Fin 32)
  | blockResetSwc (port : Fin 40)
  | blockResetFwd
  | blockResetXport
  | blockResetThim
  | blockResetSeam (e : Fin 64)
  | blockResetMngl (g : Fin 16)
  | blockResetStrp
  | blockResetDarn
  | blockResetDrv (p : Fin 24)
  | blockResetAtt
  | blockResetTwin
  | blockResetEvt
  | blockResetPmon
  | blockResetDamp
  | otpProgram (gen : Fin 4) (word : BitVec 10) (data : Word32)
  | otpSeal (gen : Fin 4)
  | otpArb
  | otpCommandDone (stuck : Word32)
  -- The Seam instruction set, ALU (R74, R75)
  | add (i : Issue) (rd ra rb : Fin 32)
  | sub (i : Issue) (rd ra rb : Fin 32)
  | and (i : Issue) (rd ra rb : Fin 32)
  | or (i : Issue) (rd ra rb : Fin 32)
  | xor (i : Issue) (rd ra rb : Fin 32)
  | andn (i : Issue) (rd ra rb : Fin 32)
  | shl (i : Issue) (rd ra rb : Fin 32)
  | shr (i : Issue) (rd ra rb : Fin 32)
  | sar (i : Issue) (rd ra rb : Fin 32)
  | rol (i : Issue) (rd ra rb : Fin 32)
  | mul (i : Issue) (rd ra rb : Fin 32)
  | mulhu (i : Issue) (rd ra rb : Fin 32)
  | mulhs (i : Issue) (rd ra rb : Fin 32)
  | min (i : Issue) (rd ra rb : Fin 32)
  | max (i : Issue) (rd ra rb : Fin 32)
  | minu (i : Issue) (rd ra rb : Fin 32)
  | maxu (i : Issue) (rd ra rb : Fin 32)
  | clz (i : Issue) (rd ra : Fin 32)
  | popc (i : Issue) (rd ra : Fin 32)
  | bswap (i : Issue) (rd ra : Fin 32)
  | sel (i : Issue) (rd ra rb : Fin 32) (pn : Fin 8)
  | bfx (i : Issue) (rd ra : Fin 32) (pos : BitVec 6) (len : BitVec 7)
  | bfi (i : Issue) (rd ra : Fin 32) (pos : BitVec 6) (len : BitVec 7)
  | gfmul (i : Issue) (rd ra rb : Fin 32)
  | crc32c (i : Issue) (rd ra : Fin 32)
  | addi (i : Issue) (rd ra : Fin 32) (imm : BitVec 39)
  | andi (i : Issue) (rd ra : Fin 32) (imm : BitVec 39)
  | ori (i : Issue) (rd ra : Fin 32) (imm : BitVec 39)
  | xori (i : Issue) (rd ra : Fin 32) (imm : BitVec 39)
  | shli (i : Issue) (rd ra : Fin 32) (n : BitVec 6)
  | shri (i : Issue) (rd ra : Fin 32) (n : BitVec 6)
  | sari (i : Issue) (rd ra : Fin 32) (n : BitVec 6)
  | li (i : Issue) (rd : Fin 32) (imm : BitVec 39)
  | lih (i : Issue) (rd : Fin 32) (imm : BitVec 32)
  -- Compare (R76)
  | cmpeq (i : Issue) (pd : Fin 8) (ra rb : Fin 32) (v : Inv)
  | cmpne (i : Issue) (pd : Fin 8) (ra rb : Fin 32) (v : Inv)
  | cmplt (i : Issue) (pd : Fin 8) (ra rb : Fin 32) (v : Inv)
  | cmple (i : Issue) (pd : Fin 8) (ra rb : Fin 32) (v : Inv)
  | cmpltu (i : Issue) (pd : Fin 8) (ra rb : Fin 32) (v : Inv)
  | cmpleu (i : Issue) (pd : Fin 8) (ra rb : Fin 32) (v : Inv)
  | tst (i : Issue) (pd : Fin 8) (ra rb : Fin 32) (v : Inv)
  | cmpeqi (i : Issue) (pd : Fin 8) (ra : Fin 32) (imm : BitVec 32) (v : Inv)
  | cmplti (i : Issue) (pd : Fin 8) (ra : Fin 32) (imm : BitVec 32) (v : Inv)
  | cmpltui (i : Issue) (pd : Fin 8) (ra : Fin 32) (imm : BitVec 32) (v : Inv)
  | plog (i : Issue) (pd pa pb : Fin 8) (tt : BitVec 4)
  -- Branch and call (R77)
  | br (i : Issue) (off : BitVec 13)
  | call (i : Issue) (target : BitVec 13)
  | brr (i : Issue) (ra : Fin 32)
  | callr (i : Issue) (ra : Fin 32)
  | ret (i : Issue)
  | jtab (i : Issue) (ra : Fin 32) (base bound : BitVec 13)
  | loop (i : Issue) (rd : Fin 32) (off : BitVec 13)
  -- Local load and store (R78)
  | ldb (i : Issue) (rd ra : Fin 32) (off : BitVec 18)
  | ldh (i : Issue) (rd ra : Fin 32) (off : BitVec 18)
  | ldw (i : Issue) (rd ra : Fin 32) (off : BitVec 18)
  | ldd (i : Issue) (rd ra : Fin 32) (off : BitVec 18)
  | ldbs (i : Issue) (rd ra : Fin 32) (off : BitVec 18)
  | ldhs (i : Issue) (rd ra : Fin 32) (off : BitVec 18)
  | ldws (i : Issue) (rd ra : Fin 32) (off : BitVec 18)
  | stb (i : Issue) (ra rb : Fin 32) (off : BitVec 18)
  | sth (i : Issue) (ra rb : Fin 32) (off : BitVec 18)
  | stw (i : Issue) (ra rb : Fin 32) (off : BitVec 18)
  | std (i : Issue) (ra rb : Fin 32) (off : BitVec 18)
  | lcas (i : Issue) (rd ra rb : Fin 32) (off : BitVec 18)
  | lfadd (i : Issue) (rd ra rb : Fin 32) (off : BitVec 18)
  -- Global access (R79 to R83)
  | hld (i : Issue) (rd ra : Fin 32) (off : BitVec 24) (pe : Fin 8)
  | hst (i : Issue) (ra rb : Fin 32) (off : BitVec 24)
  | hcas (i : Issue) (rd ra rb : Fin 32) (off : BitVec 24) (pe : Fin 8)
  | hfadd (i : Issue) (rd ra rb : Fin 32) (off : BitVec 24) (pe : Fin 8)
  | lease (i : Issue) (rd ra : Fin 32)
  | lsize (i : Issue) (rd ra : Fin 32)
  | lrel (i : Issue) (ra : Fin 32)
  | bld (i : Issue) (rd ra rb : Fin 32) (off : BitVec 22) (pe : Fin 8)
  | bst (i : Issue) (rd ra rb : Fin 32) (off : BitVec 22)
  | rld (i : Issue) (rd ra : Fin 32) (off : BitVec 24)
  | rst (i : Issue) (ra rb : Fin 32) (off : BitVec 24)
  -- Bulk issue (R84)
  | bulk (i : Issue) (ra : Fin 32)
  | tbulk (i : Issue) (rd ra : Fin 32)
  | bqfree (i : Issue) (rd : Fin 32)
  -- Event (R85, R86)
  | wait (i : Issue) (rd ra : Fin 32)
  | post (i : Issue) (rd ra rb : Fin 32)
  | timer (i : Issue) (ra : Fin 32)
  | tagcnt (i : Issue) (rd : Fin 32) (tag : BitVec 10)
  | waiti (i : Issue) (rd : Fin 32) (n : BitVec 2) (t0 t1 t2 : BitVec 10)
  -- Budget (R87)
  | draw (i : Issue) (rd ra : Fin 32) (try_ : Bool)
  | refund (i : Issue) (ra : Fin 32)
  | classSet (i : Issue) (ra : Fin 32) (immEn : Bool) (n : BitVec 3)
  -- Twin (R88)
  | note (i : Issue) (rd ra : Fin 32)
  | fence (i : Issue) (rd : Fin 32)
  -- Context (R89)
  | qld (i : Issue) (rd ra : Fin 32) (off : BitVec 9)
  | qst (i : Issue) (ra rb : Fin 32) (off : BitVec 9)
  | qcas (i : Issue) (rd ra rb : Fin 32) (off : BitVec 9)
  | kld (i : Issue) (rd ra : Fin 32) (off : BitVec 9)
  | kst (i : Issue) (ra rb : Fin 32) (off : BitVec 9)
  | qrate (i : Issue) (ra rb : Fin 32)
  | qpref (i : Issue) (ra : Fin 32)
  -- System (R90)
  | nop (i : Issue)
  | yieldScan (i : Issue)
  | rdtime (i : Issue) (rd : Fin 32)
  | rdcnt (i : Issue) (rd : Fin 32) (n : BitVec 4)
  | rdid (i : Issue) (rd : Fin 32)
  | rand (i : Issue) (rd : Fin 32)
  | mfence (i : Issue)
  | evset (i : Issue) (rd ra : Fin 32)
  -- Strands, engines and the loader
  | accessComplete (e : Fin 64) (s : Fin 8) (k : Fin 8) (mramUe : Bool)
  | tagPostArrival (k : Nat)
  | strandTimerExpiry (e : Fin 64) (s : Fin 8)
  | strandReset (e : Fin 64) (s : Fin 8)
  | strandResetRestart (e : Fin 64) (s : Fin 8)
  | engineResetRestart (e : Fin 64)
  | groupDrainWrite (g : Fin 16) (drain : Bool)
  | groupDrainTimeout (g : Fin 16)
  | enginePark (e : Fin 64) (park : Bool)
  | instepEnable
  | instepDisable
  | loaderVerify
  | loaderVerifyDone
  | loaderCommit (gmask : BitVec 16)
  | loaderGroupWritten
  | loaderAbandon
  | supervisorStrandRecovery (e : Fin 64) (s : Fin 8) (cmds : List Nat)
  -- Bulk operations (R97 to R115)
  | descriptorHeadCheck (g : Fin 16) (c : Fin 6)
  | bulkMove (id : Nat)
  | bulkGfmac (id : Nat)
  | bulkXor (id : Nat)
  | bulkFprint (id : Nat)
  | bulkPi (id : Nat)
  | bulkXts (id : Nat)
  | bulkHash (id : Nat)
  | bulkFill (id : Nat)
  | bulkCompare (id : Nat)
  | descriptorComplete (id : Nat)
  | xtsKeyLoad (slot : BitVec 10)
  | xtsKeyErase (slot : BitVec 10)
  | xtsKeyCommandDone
  | fpzCommit (hi : Word32)
  -- Pools, the stripe journal and Darn (R117 to R198)
  | hostRead (cmd nsid lba count : Nat)
  | hostWrite (e : Fin 64) (s : Fin 8) (cmd nsid lba count : Nat) (fua : Bool) (twin : TwinAnswers) (failed : List Nat)
      (data : List Byte)
  | nvmeFlush (cmd nsid : Nat)
  | destage (e : Fin 64) (s : Fin 8) (pool : Fin 4) (stripe : Nat) (failed : List Nat)
  | cacheFill
  | retirementTimeout (pool : Fin 4)
  | namespaceZeroingDone (nsid : Nat)
  | poolAssembly (pool : Fin 4) (labels : List Label) (found : List Found) (extents : List (Nat × List Nat))
      (unread : List (Nat × Nat))
  | rejoinWindowExpiry (pool : Fin 4) (member : Fin 24)
  | resyncRegion (pool : Fin 4) (member : Fin 24)
  | remirrorDone (pool : Fin 4)
  | rebuildStep (pool : Fin 4) (unreadable : List (Nat × Nat)) (failed : Option Nat)
  | cursorCheckpoint (pool : Fin 4) (toLabels : Bool)
  | copyBackBatch (pool : Fin 4) (stripes : Nat)
  | reshapeUnitMove (pool : Fin 4) (half : Bool)
  | c3Starved (p : Fin 24)
  -- Drive ports (R200 to R216)
  | perstDeassert (p : Fin 24)
  | portDisable (p : Fin 24)
  | portRelease (p : Fin 24)
  | driveLinkUp (p : Fin 24) (width speed : Nat)
  | driveEnumeration (p : Fin 24) (info : DriveInfo)
  | drivePresenceChange (p : Fin 24) (pins : DrivePins)
  | driveLinkDown (p : Fin 24)
  | driveTempPoll (h : Fin 2) (reads : List (Option (BitVec 8)))
  | driveInboundRequest (p : Fin 24) (write : Bool) (addr len : Nat) (data : List Byte) (poisoned : Bool)
  | msiReceiverWrite (p : Fin 24) (y : Nat)
  | completionPollTimer (p : Fin 24)
  | rawCommand (p : Fin 24) (q : Bool)
  | driveCommandTimeout (p : Fin 24)
  | powerStateRequest (p : Fin 24) (ps : Fin 32)
  | fenceGo
  | fenceClear
  | fenceTimeout (p : Fin 24)
  | aerMessage (p : Fin 24) (severity : Fin 3)
  | drvConfigAccess (p : Fin 24) (write : Option Word32) (answer : Word32)
  -- Network ports (R218 to R229)
  | slotEnable (s : Fin 32)
  | slotDisable (s : Fin 32)
  | quadModeWrite (q : Fin 8) (mode : Fin 16)
  | quadModeChangeDone (q : Fin 8)
  | lanesOn (s : Fin 32)
  | linkAligned (s : Fin 32)
  | linkQualified (s : Fin 32)
  | linkFault (s : Fin 32) (kind : LinkFault)
  | linkFaultClear (s : Fin 32)
  | linkDown (s : Fin 32) (sending : Bool)
  -- Switch core (R231 to R249)
  | frameReceive (port : Fin 40) (cls : Fin 8) (ending : FrameEnd) (frame : List Byte) (feccw fecucw : Nat)
  | pauseReceive (s : Fin 32) (quanta : BitVec 16)
  | pfcReceive (s : Fin 32) (enable : BitVec 8) (quanta : List Nat)
  | pauseExpiry (s : Fin 32) (c : Fin 8)
  | xoffRepeat (s : Fin 32)
  | pfcWatchdogRelease (s : Fin 32) (c : Fin 8)
  /-- `looped` says how the frame arrives back where its slot's lanes are looped (R229). -/
  | egressDequeue (port : Fin 40) (looped : FrameEnd)
  | holdTimerExpiry (s : Fin 32)
  | multicastAgeExpiry (frame : Nat)
  | internalCopyRetry (port : Fin 40)
  | boundaryWrite (cells : BitVec 19)
  | boundaryCellMove
  | loopbackReentry
  -- Forwarding tables (R251 to R271)
  | fwdInsert (i : Fin 2)
  | fwdReplace (i : Fin 2)
  | fwdDelete (i : Fin 2)
  | fwdFind (i : Fin 2)
  | fwdRead (i : Fin 2)
  | fwdWrite (i : Fin 2)
  | vlanEntryLoad (vid : BitVec 12)
  | vlanEntryCommit (hi : Word32)
  | agingTick
  | rinseVisit
  | agingLogPop
  -- RDMA transport (R273 to R300)
  | send (h : PktHead) (data : List Byte)
  | sendWithInvalidate (h : PktHead) (key : Word32) (data : List Byte)
  | rdmaWrite (h : PktHead) (va : Word64) (key : Word32) (len : Nat) (data : List Byte)
  | rdmaWriteWithImmediate (h : PktHead) (va : Word64) (key : Word32) (len : Nat) (imm : Word32) (data : List Byte)
  | rdmaRead (h : PktHead) (va : Word64) (key : Word32) (len : Nat)
  | atomicCompareAndSwap (h : PktHead) (va : Word64) (key : Word32) (swap cmp : Word64)
  | atomicFetchAndAdd (h : PktHead) (va : Word64) (key : Word32) (add : Word64)
  | flush (h : PktHead) (va : Word64) (key : Word32) (len : Nat) (type : FlushType) (sel : FlushSel)
  | atomicWrite (h : PktHead) (va : Word64) (key : Word32) (data : Word64)
  | acknowledgement (h : PktHead)
  | sequenceNak (h : PktHead)
  | rnrNak (h : PktHead) (timer : Nat)
  | nakRemoteAccessError (h : PktHead)
  | nakInvalidRequest (h : PktHead)
  | nakRemoteOperationalError (h : PktHead)
  | readResponse (h : PktHead) (data : List Byte)
  | cnp (h : PktHead)
  | cmDatagram (h : PktHead) (srcIp : Nat) (srcQpn srcPort : Nat) (qkey : Word32) (mad : List Byte)
  | reorderGapTimeout (ctx : BitVec 16)
  | ackTimer (ctx : BitVec 16)
  | retransmissionTimeout (ctx : BitVec 16)
  | rnrTimerExpiry (ctx : BitVec 16)
  | rnrWaitExpiry (xrx : Fin 2)
  | sprayTimeout (ctx : BitVec 16)
  | contextLoadComplete (ctx : BitVec 16)
  | shaperRelease (ctx : BitVec 16)
  | qpAlloc
  | qpFree (qpn : BitVec 24)
  | cmTransmit (slot : BitVec 10)
  | ccRingConsume (g : Fin 16) (ci : BitVec 11)
  -- Memory keys, Thimble and slates (R305 to R328)
  | keyAlloc
  | keyRegister (index : BitVec 20)
  | keyRevoke
  | keyRead (index : BitVec 20)
  | keyRelease (index : BitVec 20)
  | slateAccessComplete (id : Nat)
  | revocationLogPop
  | slateDescriptorReload (slate : BitVec 10)
  | flushRequestService
  | flushDone (id : Word32)
  | mirrorAck (id : Nat)
  | sealedKeyLoad (qpn : BitVec 24)
  | sealedKeyErase (qpn : BitVec 24)
  -- The attach endpoint (R330 to R346)
  | attLinkUp (speed : Fin 4) (width : Fin 17) (flit : Bool)
  | bar0Access (write : Bool) (x : BitVec 26) (data : Word32) (whole : Bool)
  | bar0AccessTimeout (write : Bool) (x : BitVec 26) (data : Word32)
  | doorbellWrite (f : Fin 64) (reg : BitVec 14) (value : Word64)
  | doorbellRingConsume (g : Fin 16) (ci : BitVec 9)
  | busMasterDisable (f : Fin 64)
  | busMasterEnable (f : Fin 64)
  | flr (f : Fin 64)
  | flrComplete (f : Fin 64)
  | conventionalReset (cause : AttReset)
  | d3hotEntry
  | d0Entry
  | pciConfigWrite (f : Fin 64) (off : BitVec 12) (value : Word32)
  | attCompletion (tag : BitVec 14) (status : CplStatus) (data : List Byte)
  | completionTimeout (tag : BitVec 14)
  | quarantineEnd (tag : BitVec 14)
  | interruptRaise (f : Fin 64) (vec : BitVec 11)
  | intxStatusClear (bits : Word32)
  | wakeRequest
  | pmeRepeat
  -- Twin operation (R349 to R382)
  | pair (peer : PeerInfo)
  | break_
  | swap
  | resync (asked : Bool)
  | resyncCopyDone
  | resyncFreezeDrained (copy : List CopyItem)
  | resyncFreezeTimeout
  | resyncRetry
  | autoresync
  | heartbeatToggle (railFault inputHeld : Bool)
  | heartbeatLoss
  | takeoverReplayEnd (unread : List (Nat × Nat))
  | cede
  | twinLinkDown (group : Fin 4)
  | twinLinkUp
  | logFrame (h : LogHead) (k : Pkt)
  | logItem (h : LogHead) (strand : Fin 8) (slot : Fin 4) (kind : Nat) (full : List Byte) (prints : List Nat)
  | logDcomp (h : LogHead) (p : Fin 24) (entry : List Nat) (prints : List Nat)
  | logXcomp (h : LogHead) (desc code detail epstat result : Nat) (prints : List Nat) (hash : List Byte)
  | logAttrec (h : LogHead) (f : Fin 64) (kind reg value : Nat)
  | logTimer (h : LogHead) (kind ctx : Nat)
  | logGrant (h : LogHead) (cls : Fin 6) (desc : Bool) (who : Nat)
  | logValue (h : LogHead) (r : ValueRec)
  | logEvent (h : LogHead) (e : Fin 512) (tag : BitVec 10)
  | logCmd (h : LogHead) (addr : BitVec 22) (value : Word32)
  | logLink (h : LogHead) (what : Fin 3) (unit : Fin 64) (up : Bool) (state : Nat)
  | logMirror (h : LogHead) (addr : Nat) (data : List Byte)
  | logEpoch (h : LogHead) (n : Nat) (rounds : List Nat)
  | logDigest (h : LogHead) (n v : Nat)
  | logHorizon (h : LogHead) (round : Nat)
  | logSwap (h : LogHead)
  | logAck (seq : Nat) (digests : List (Nat × Nat))
  | backlogBreak
  | epochRecord
  | epochClose
  | selfCheckResult (own peer : BitVec 8)
  | selfCheckTimeout
  | digestTimeout
  | healthReport (cw ucw retx : Nat) (peer : Option (List Word32))
  | peerEvent (e : Fin 512)
  -- Feed (spec/17): voltages in 10 mV, currents in 10 mA, temperatures in 0.5 °C
  | feedCmdOn
  | feedCmdOff
  | feedCmdClr
  | feedCmdHtest
  | feedTick (vin vout : BitVec 14) (i : BitVec 16)
  | feedPrechargeDone
  | feedRampDone
  | feedFullyOn
  | feedFaultTimerExpiry
  | feedFastTrip
  | feedModelTrip
  | feedDiodeRead (t : Option (BitVec 10))
  | feedLoss
  | feedLossEnd
  | feedOvervoltage
  | feedOvervoltageEnd
  | feedPgAssert
  | feedRetry
  | feedRetryCountReset
  | holdupTestPeriodic
  | holdupTestMeasure (peer : Int)
  -- Bays (spec/18)
  | bayCmdOn (b : Fin 24)
  | bayCmdOff (b : Fin 24)
  | bayCmdClr (b : Fin 24)
  | bayTick (b : Fin 24) (x : BayInput)
  | bayRampStart (b : Fin 24)
  | bayFullEnhancement (b : Fin 24)
  | bayFullyOn (b : Fin 24)
  | bayPowerGood (b : Fin 24)
  | bayFaultTimerExpiry (b : Fin 24)
  | bayFastTrip (b : Fin 24)
  | bayModelTrip (b : Fin 24)
  | bayAuxFault (b : Fin 24)
  | bayPresenceDebounced (b : Fin 24) (present : Bool)
  | bayRetryTimerExpiry (b : Fin 24)
  | bayRetryCountReset (b : Fin 24)
  | bayMeasure (b : Fin 24) (x : BayInput)
  | bayCalibration (b : Fin 24) (steady : Bool)
  -- The Damper and SENSE (spec/19): temperatures in 0.25 °C, powers in mW
  | damperPeriod
  | policyStall
  | grantWrite (tokens : BitVec 20)
  | senseRefresh (reads : List (BitVec 11)) (stuck : BitVec 16) (rails : List (BitVec 20))
  | thermalClampRelease
  | dvfsRequest (req : BitVec 2)
  | dvfsStepDone
  | policyTick
  | costCalibration (per4k : List Nat)
  | selfTestStrandKnownAnswer (e : Fin 64)
  | selfTestMemoryMarch (g : Fin 16)
  | selfTestMangleKnownAnswer (g : Fin 16)
  | selfTestCellMarch (g : Fin 16)
  | selfTestHbmPatrol (r : BitVec 16)
  | selfTestStart
  | selfTestDone (result : Byte) (image : Nat)
  -- Management (R465 to R476)
  | mailboxRequestPost (pi : BitVec 9) (bytes : List Byte)
  | mailboxReplyPost (pi : BitVec 9)
  | mailboxQuiesce
  | mailboxResume
  | mailboxNamespace (req : NsReq)
  | mailboxKey (req : KeyReq)
  | mailboxPool (req : PoolReq)
  | mailboxStatus
  | mailboxSlate (req : SlateReq)
  | softwareLogRecord
  | eventRaise (e : Fin 512)
  | mctpMessage (vdm whole : Bool) (tag : Nat) (type : BitVec 7)
  | mctpReassemblyTimeout (tag : Nat)
  | healthStatusPoll (used : Byte)
  | requestUpdate (component : BitVec 16) (base : Nat)
  | requestFirmwareData (data : List Byte)
  | verifyComplete
  | applyComplete
  | activateFirmware
  | trialConfirm
  | fanFailsafe
  | fanFault (f : Fin 6) (rpm : BitVec 16)
  | ledShift
  -- Counters, samples and epochs (R488 to R497)
  | sampleNoIssueTimeout (e : Fin 64)
  | engineCounterSnapshot (e : Fin 64)
  | epochBoundary
  | epochLengthWrite (v : Word32)
  -- Clock domains (R504 to R512)
  | clockLost (what : ClockLoss)
  | domainRestart (d : Fin 14)
  | commandedStopDone (d : Fin 14)
  | hangRecordRead (who : Accessor)
  -- Happenings that the rules of other sections name
  | hbmPatrol (ce : Nat) (bad : List Nat)
  | sramScrub (ce : ScrubCounts) (badL badProg badFwd badBuf : List Nat)
  | strandCrossCheck (fails : BitVec 64)
  | hearthRstNRelease
  | bootRecoveryEntry
  | recoveryWatchdogKick
  | thimbleCacheLoadComplete (index : BitVec 20)
  | horizonRecord
  | pfcReleaseEnd (s : Fin 32) (c : Fin 8)
  | serdesMarginSample (lane : Fin 48) (margin : BitVec 16)
  | msixTableWrite (f : Fin 64) (vec : BitVec 11) (addr : Word64) (data : Word32) (mask : Bool)
  | heartbeatEdge
  | logUndefinedKind (h : LogHead) (kind : Nat)
  | unsupportedRequestOpcode (h : PktHead)
  | undefinedWord (e : Fin 64) (s : Fin 8)
  deriving DecidableEq, Repr

end Sys2Proof
end

