-- ==== Sys2Proof/Machine/State.lean ====
section
/-! DEFINITION. The state of the module, as plain data: the register fabric, the memories, what each block holds beside its
registers, the OTP cells, and the queue of commands that wait. Collections are sparse tables in canonical form
(Machine/Store.lean). The rule that names each piece of state stands in INVENTORY.md, State. -/

namespace Sys2Proof.Machine

/-! ## What leaves the module -/

/-- A message or an action that leaves the module, kept in the order of creation. -/
inductive OutMsg where
  /-- A transport packet handed to the switch core: queue pair, operation code, PSN, further header fields, payload. -/
  | packet (qpn op psn : Nat) (fields : List Nat) (payload : List Byte)
  /-- A frame that leaves on a switch port, as bytes without the FCS. -/
  | frame (port : Nat) (bytes : List Byte)
  /-- A MAC control frame: slot, class mask, quanta, source address (R223, R225). -/
  | pause (slot mask quanta src : Nat)
  /-- The remote fault indication of a slot begins or ends (R221). -/
  | remoteFault (slot : Nat) (on : Bool)
  /-- A submission queue entry written for a drive: port, queue, dwords of the entry. -/
  | drive (port queue : Nat) (entry : List Nat)
  /-- A configuration access to a drive: port, dword, data written if any. -/
  | driveCfg (port reg : Nat) (write : Option Nat)
  /-- A submission queue tail doorbell: port, drive address, tail (R207). -/
  | driveTail (port addr tail : Nat)
  /-- A completion queue head doorbell. -/
  | driveHead (port queue head : Nat)
  /-- A completion returned to a drive for an inbound request: success or not, poisoned or not, and bytes read. -/
  | driveReply (port : Nat) (ok ep : Bool) (data : List Byte)
  /-- A request TLP on the attach link: function, write or read, poisoned, address, length, tag of a read, bytes. -/
  | attTlp (fn : Nat) (write ep : Bool) (addr len tag : Nat) (data : List Byte)
  /-- A completion on the attach link: unsupported request, completer abort, or data. -/
  | attUr
  | attCa
  | attData (v : Nat)
  /-- An MSI-X memory write. -/
  | msix (fn addr data : Nat)
  | inta (asserted : Bool)
  | pme
  /-- An event on the twin route (R481). -/
  | twinEvent (e : Nat)
  /-- Twin link traffic outside the log: digest, acknowledgement, self-check result, resync request. -/
  | twinMsg (code : Nat) (args : List Nat)
  /-- Bytes on the recovery UART (R473). -/
  | uart (b : Nat)
  /-- A management protocol response: protocol code and fields. -/
  | mgmt (proto : Nat) (args : List Nat)
  /-- The value that a register read returns to its accessor: address and value. -/
  | read (addr v : Nat)
  /-- An operation on a member that the program library issues (R129, R130): pool, member, operation (0 read, 1 write with
  FUA, 2 Write Zeroes, 3 Deallocate), first LBA and count, and the blocks written. -/
  | member (pool member op lba count : Nat) (data : List Byte)
  /-- Set Features, Autonomous Power State Transition off, to the drive on a port (R200). -/
  | apstOff (port : Nat)
  /-- The library registers its key on a drive's member namespace, or acquires the Write Exclusive reservation with it (R214). -/
  | reservation (port nsid key : Nat) (acquire : Bool)
  /-- The data of a host read, as RDMA WRITEs take it to the host (R15): handle and bytes. -/
  | nvmeData (handle : Nat) (data : List Byte)
  /-- A response capsule that the program library sends (R125 to R135): handle and status. -/
  | nvme (handle status : Nat)
  deriving DecidableEq, Repr

/-! ## Seam engines and strands (spec/02, spec/03) -/

/-- The states of a strand (R32), in the order of their codes. -/
inductive StrandMode where
  | idle | ready | wait | stall | fault | resetting
  deriving DecidableEq, Repr

/-- What an outstanding access of a strand does when it completes (R79, R82, R83, R89). -/
inductive AccessKind where
  | hld | hst | hcas | hfadd | bld | bst | rld | rst | qld | qst | qcas | kld | qrate
  deriving DecidableEq, Repr

/-- An outstanding H, B, Q or R access of a strand (R73), with the operand values read at issue. -/
structure Access where
  kind : AccessKind
  /-- Destination register, 0 for a store. -/
  rd : Nat
  /-- Error predicate of R80. -/
  pe : Nat
  /-- H address, buffer byte address, register offset, or context number. -/
  addr : Nat
  /-- Context byte offset; 0 otherwise. -/
  off : Nat
  /-- rb: the data of a store, the new value or the addend of an atomic. -/
  data : Word64
  /-- The compare value of hcas and qcas. -/
  cmp : Word64
  /-- The access waits in the crossing of a stopped domain and never completes (R508). -/
  hung : Bool
  deriving DecidableEq, Repr

/-- Why a strand is in WAIT (R37, R87, R88). -/
inductive WaitFor where
  | nothing
  /-- On the tags of its slots. -/
  | tags (rd : Nat)
  /-- On tokens of a class. -/
  | tokens
  /-- On the acknowledgement of the log up to a sequence number, and on twin-bound MOVEs, by descriptor, that have no record in
  the log yet (`fence`). -/
  | ack (rd seq : Nat) (moves : List Nat)
  deriving DecidableEq, Repr

/-- What a strand in STALL waits for, beside an R access and `mfence` (R73, R84). -/
inductive StallFor where
  /-- An access to complete. -/
  | access
  /-- The loads that write any of these uses (see `Strand.loading`). -/
  | loads (uses : List Nat)
  /-- Room in the cluster's bulk queue. -/
  | queue
  deriving DecidableEq, Repr

/-- A strand (R31 to R47, R73). -/
structure Strand where
  g : Table Word64
  /-- Predicates p1 to p7 in bits 7 to 1; bit 0 is not used. -/
  p : BitVec 8
  pc : BitVec 13
  /-- The return stack, the latest push first. -/
  rets : List (BitVec 13)
  cls : BitVec 3
  /-- Image generation stamp. -/
  gen : Nat
  /-- The four wait slots. -/
  slots : List (Option Nat)
  mode : StrandMode
  waitFor : WaitFor
  stallFor : StallFor
  /-- The order in which waiting strands began to wait. -/
  since : Nat
  accs : List Access
  /-- Registers whose `post` verdict has not returned (R86). -/
  posts : List Nat
  /-- Ticks of 20 ns left on the armed timer, 0 when none is armed. -/
  timer : Nat
  cause : Nat
  fpc : Nat
  /-- `mfence` holds the strand (R90). -/
  fencing : Bool
  deriving DecidableEq, Repr

/-- A work item of a dispatch queue (R39, R286). -/
structure WorkItem where
  handle : Nat
  kind : Nat
  /-- The order in which items first entered a dispatch queue (R52). -/
  age : Nat
  deriving DecidableEq, Repr

/-- A posted tag on its way to an engine (R86). -/
structure TagPost where
  tag : Nat
  engine : Nat
  /-- The strand and register that wait for the verdict. -/
  verdict : Option (Nat × Nat × Nat)
  /-- In in-step mode, the round of its engine before which a post from outside takes effect (R56). -/
  due : Option Nat := none
  deriving DecidableEq, Repr

/-- A strand reset or a park change that waits for the end of its engine's round (R56). -/
inductive RoundAct where
  | reset (k : Nat)
  | park (e : Nat) (v : Bool)
  deriving DecidableEq, Repr

/-- A logged result that a trailing twin has received (R91): the instruction that it belongs to, and the round that the record
names. -/
structure Logged where
  /-- 8 × engine + strand, and the destination register. -/
  strand : Nat
  rd : Nat
  round : Nat
  val : Nat
  deriving DecidableEq, Repr

/-- What the loader is doing (R49, R50). -/
inductive LoaderOp where
  | idle
  | verifying
  /-- Groups still to write, ascending. -/
  | committing (groups : List Nat)
  deriving DecidableEq, Repr

/-- The SEAM block beside its registers. -/
structure Seam where
  /-- Strands by 8 × engine + strand. -/
  strands : Table Strand
  /-- L memory by 2^18 × engine + address. -/
  lmem : Table Byte
  /-- Uncorrectable words of L, by 2^15 × engine + word (R42). -/
  lue : Table Bool
  /-- Program memory by 2^13 × engine + program index. -/
  prog : Table Word64
  /-- Uncorrectable words of program memory (R42). -/
  progue : Table Bool
  /-- Pending-tag counts by 2^10 × engine + tag (R38). -/
  tags : Table Nat
  /-- Dispatch queues by cluster, oldest first (R39). -/
  queues : Table (List WorkItem)
  /-- Items, by the cluster they came for, that wait in the transport's receive queues because no dispatch queue takes them (R39,
  R50, R52), oldest first. -/
  waits : List (Nat × WorkItem)
  /-- Tags on their way, oldest first. -/
  flight : List TagPost
  /-- Entry points by 8 × group + strand; 0xFFFF: none (R48). -/
  entry : Table Nat
  /-- Initial classes by 8 × group + strand. -/
  iclass : Table Nat
  /-- Groups held by a commit (R50). -/
  held : Table Bool
  /-- Engines whose Block reset waits for started descriptors (R65). -/
  resetting : Table Bool
  loader : LoaderOp
  /-- HBM address and staging base latched at VERIFY (R49). -/
  ldrAddr : Nat
  ldrStage : Nat
  /-- The protected staging region, by its base address, while one is protected. -/
  prot : Option Nat
  /-- The strand that last issued, by engine (R34). -/
  last : Table Nat
  /-- Issue rounds by engine, and the strands issued in the round in progress (R55). -/
  rounds : Table Nat
  offered : Table Nat
  /-- Strand resets and park changes that wait for the end of a round (R56), in the order they came. -/
  acts : List RoundAct
  /-- Logged results that a trailing twin has received, oldest first (R56, R91). -/
  values : List Logged
  /-- Order stamps given so far, to waits and items. -/
  stamp : Nat
  deriving DecidableEq, Repr

/-! ## Leases, descriptors and tokens (spec/04, spec/19) -/

/-- A lease table entry (R94, R95). -/
structure Lease where
  /-- Reuse count modulo 64. -/
  seq : Nat
  /-- The handle is live: given and not released. -/
  live : Bool
  /-- The entry is in use: live, or its cells wait for started descriptors. -/
  used : Bool
  /-- Owner: 8 × engine + strand; 512 + 32 × cluster while the transport stages an item (R285). -/
  owner : Nat
  /-- Buffer cells, in lease order. -/
  cells : List Nat
  deriving DecidableEq, Repr

/-- The progress of a descriptor (R108, R109, R112). -/
inductive DescPhase where
  /-- In its sub-queue, not yet checked. -/
  | waiting
  /-- At its sub-queue's head, checked, its draw queued. -/
  | drawing
  /-- Tokens drawn: started. -/
  | started
  /-- The operation has acted; the outside world owes its completion. -/
  | running
  /-- At its completion point. -/
  | done
  /-- Parked on the attach endpoint (R338). -/
  | parked
  deriving DecidableEq, Repr

/-- A bulk descriptor (R97). -/
structure Desc where
  id : Nat
  engine : Nat
  strand : Nat
  cls : Nat
  /-- w0 to w7. -/
  words : List Nat
  phase : DescPhase
  /-- What the descriptor read at its start: the GFMAC parameter block (R101), the key pair (R106) or z (R115). -/
  params : List Nat
  /-- Result fields of the status word (R113). -/
  code : Nat
  detail : Nat
  epstat : Nat
  result : Nat
  /-- Bytes or packets handed on so far, and failures by offset (R207). -/
  sent : Nat
  fails : List (Nat × Nat)
  /-- The strand was reset: the completion tag is discarded (R47). -/
  orphan : Bool
  deriving DecidableEq, Repr

/-- Who asks for tokens (R87, R109). -/
inductive Drawer where
  | strand (k : Nat)
  | desc (id : Nat)
  deriving DecidableEq, Repr

/-- A queued draw (R87). -/
structure Draw where
  who : Drawer
  tokens : Nat
  deriving DecidableEq, Repr

/-- The MNGL block beside its registers. -/
structure Mngl where
  /-- The key store command in progress is a load (R106). -/
  xkLoad : Bool
  leases : Table Lease
  /-- Cells returned to the staging region, the latest first; then cells never leased, from `fresh` up. -/
  freed : List Nat
  fresh : Nat
  /-- Buffer contents by 256 × cell + byte. -/
  buf : Table Byte
  /-- Poisoned or uncorrectable 64-byte units of the buffer (R114), and those whose error is not yet detected. -/
  poison : Table Word64
  undetected : Table Word64
  descs : List Desc
  nextId : Nat
  /-- Evaluation point z (R104). -/
  fpz : Nat
  fpzLo : Nat
  /-- XTS key slots: key 1 then key 2, 64 bytes as one number (R106). -/
  xkeys : Table Nat
  xdata : Table Nat
  /-- Fingerprints of blocks held as prints on a trailing twin, by 1024 × lease + block (R359). -/
  prints : Table Nat
  deriving DecidableEq, Repr

/-- A self-test of R459, queued or running. -/
structure SelfTest where
  kind : Nat
  target : Nat
  deriving DecidableEq, Repr

/-- The DAMP block beside its registers. -/
structure Damp where
  /-- Bucket levels by class, signed (R448). C2 has none. -/
  level : Table Int
  debt : Nat
  /-- Queued draws by class, oldest first. -/
  draws : Table (List Draw)
  /-- Tokens taken less tokens refunded in the period (R447). -/
  spent : Int
  base : Nat
  /-- Whole periods since the last write of DAMP_GRANT, and whether the period in progress has one (R451). -/
  silent : Nat
  wrote : Bool
  /-- m of the period just computed, and periods of the ladder's calm (R447, R454). -/
  meas : Nat
  calm : Nat
  /-- The limit published is below the dirty bytes: the episode of event 484 (R458). -/
  below : Bool
  /-- The reading at which each failed sensor failed (R445). -/
  failAt : Table Nat
  /-- Microseconds below the clamp's release threshold (R452). -/
  coolUs : Nat
  /-- The clock step that takes effect when the change in progress ends (R453). -/
  dvfsNext : Nat
  tests : List SelfTest
  running : Option SelfTest
  deriving DecidableEq, Repr

/-- The PMON block beside its registers: the samples that wait for the next instruction to issue, by engine, as counter
numbers (R492). -/
structure Pmon where
  pend : Table (List Nat)
  deriving DecidableEq, Repr

/-! ## The program library's pools (spec/05, spec/06, spec/07) -/

/-- A member of a pool (R137, R172). -/
structure Member where
  serial : Nat
  /-- 0 OPTIMAL, 1 ABSENT, 2 FAILED, 3 RELOCATED, 4 REPLACING, 5 JOINING. -/
  state : Nat
  lbas : Nat
  port : Option Nat
  /-- The 8-bit count of R133. -/
  epoch : BitVec 8
  /-- Returned, with regions still to resync (R142). -/
  resync : Bool
  /-- The number of its entry in the absence map (R139). -/
  entry : Nat
  deriving DecidableEq, Repr

/-- A pool (R118, R137). -/
structure Pool where
  uuid : Nat
  gen : Nat
  ms : Nat
  /-- Protection type (R123). -/
  pi : Nat
  window : Nat
  portable : Bool
  jx0 : Option Nat
  jx1 : Option Nat
  /-- The members that a re-mirror copies to: one, or two where no copy is left (R166, R167). -/
  jtargets : List Nat
  /-- The open records came from the journal extents at assembly (R160, R166). -/
  adopted : Bool
  layout : Layout
  reps : Nat
  /-- Pool blocks of an allocation unit, as the pool was created (R189). -/
  kau : Nat
  next : Option Layout
  nextReps : Nat
  members : List Member
  ns : Table NsRec
  map : Table Nat
  reloc : List Nat
  relocAbove : List Nat
  online : Bool
  reason : Nat
  /-- The refusal that a drive or a request met last (R120, R153, R188). -/
  refused : Nat
  /-- The live cursor of the active round: bucket and stripe (R179). -/
  live : Nat × Nat
  liveAbove : Nat × Nat
  /-- In-flight windows by round: the stripes done above the round's cursor, in its bucket (R175, R179, R181). -/
  windows : Table (List Nat)
  /-- A round waits for a re-mirror (R173), or for the unit of a reshape (R196). -/
  roundDue : Bool
  /-- A host write waits on the unit that a reshape moves (R192). -/
  unitWait : Bool
  /-- Write Zeroes (2) and Deallocate (3) of AUs that wait while their blocks stand in the unit being moved (R124, R192): AU and operation. -/
  auWait : List (Nat × Nat)
  /-- Members whose scratch strips of the unit in progress were not written (R191, R196). -/
  scratchGone : List Nat
  /-- Stripes of a full parity resync not yet done: the next one (R165). -/
  parity : Option Nat
  /-- The copy-back cursor (R187). -/
  copied : Nat
  /-- Next commit group and retirements not yet carried (R151, R152). -/
  group : Nat
  retq : List Nat
  /-- The commit group of each open record, by seq. -/
  groupOf : Table Nat
  deriving DecidableEq, Repr

/-- A read cache entry (R133). -/
structure CacheBlock where
  pool : Nat
  member : Nat
  epoch : Nat
  lba : Nat
  dirty : Bool
  /-- The clock sweep's mark. -/
  used : Bool
  /-- The place in the cache area of HBM where the block stands, as it lies on the member, with its metadata (R15). -/
  slot : Nat
  deriving DecidableEq, Repr

/-- A queued cache fill (R17, R134). -/
structure Fill where
  pool : Nat
  member : Nat
  epoch : Nat
  lba : Nat
  stripe : Nat
  wcount : Nat
  /-- The lease whose cells hold the block. -/
  lease : Nat
  deriving DecidableEq, Repr

/-- A stripe whose lock a strand keeps while it waits for room in the journal (R150); of a host write, also its command, its range and the
leases whose cells hold its data (R18). -/
structure HeldOp where
  strand : Nat
  pool : Nat
  stripe : Nat
  cmd : Nat
  nsid : Nat
  lba : Nat
  count : Nat
  leases : List Nat
  deriving DecidableEq, Repr

/-- A library write that a trailing twin has issued in step and whose completion the lead has not logged yet (R164). -/
structure Awaited where
  port : Nat
  pool : Nat
  seq : Nat
  strip : Nat
  /-- The offsets that it writes. -/
  offs : List Nat
  deriving DecidableEq, Repr

/-- What the program library keeps in HBM, and the state of the STRP and DARN blocks beside their registers. -/
structure Lib where
  pools : Table (Option Pool)
  cache : List CacheBlock
  cacheBlocks : Nat
  fills : List Fill
  /-- Write counts by 2^47 × pool + stripe (R134). -/
  wcount : Table Nat
  /-- The next record sequence number, and the head-full episode (R150). -/
  seq : Nat
  full : Bool
  /-- QUIESCE holds the dirty limit at 0 (R159, R467). -/
  quiesce : Bool
  /-- STRP_DIRTY_LO as last written, which takes effect with STRP_DIRTY_HI (R169). -/
  dirtyLo : Option Nat
  /-- C3 credit by port, in bytes (R180). -/
  credit : Table Nat
  /-- What the library has written on the drives: blocks by 2^36 × serial number + LBA; ranges that read zeros, as serial number, LBA and
  count; and blocks that their drives cannot read (assumption 15). -/
  media : Table (List Byte)
  zeroes : List (Nat × Nat × Nat)
  unread : List Nat
  /-- Blocks repaired by Darn (R182). -/
  repaired : Nat
  /-- The pool status words in the management HBM region, as last stored (R138). -/
  status : Table Nat
  /-- Drives being identified, by port, with the time at which they appeared (R140). -/
  identify : Table Nat
  held : List HeldOp
  awaited : List Awaited
  /-- Of DIRTY records that recovery holds open for want of room in the lost-extent list: the blocks found durable, by seq (R161, R186). -/
  durable : List (Nat × List (Nat × Nat))
  deriving DecidableEq, Repr

/-! ## Drive ports (spec/08) -/

/-- What a command slot carries (R207, R208, R213, R214). -/
inductive SlotUse where
  /-- A part of a descriptor: its id, offset and length. -/
  | data (desc off len : Nat)
  | raw
  | power (ps : Nat)
  | fence
  /-- A descriptor ended by a Block reset of MNGL: the completion is discarded (R116). -/
  | dead
  deriving DecidableEq, Repr

/-- A command outstanding at a drive. -/
structure Slot where
  slot : Nat
  queue : Nat
  use : SlotUse
  deriving DecidableEq, Repr

/-- A drive port beside its registers (R201 to R214). -/
structure DrvPort where
  /-- PERST_N[p] as driven: true is deasserted. -/
  perst : Bool
  slots : List Slot
  /-- Submission tails, completion heads and completion phases by queue. -/
  tails : Table Nat
  heads : Table Nat
  phases : Table Bool
  /-- Set Features outstanding, and the held value of DRV_PSCTL.ps. -/
  psOut : Bool
  psHeld : Option Nat
  /-- A fence is issued and not complete. -/
  fencing : Bool
  /-- SMBus reads failed in a row (R204). -/
  tempFails : Nat
  /-- I/O queues exist (R213). -/
  queues : Bool
  /-- The link is disabled since service ended, until `disable` is written 0 (R211). -/
  linkOff : Bool
  /-- Commands that the port places itself and that found no slot, oldest first: queue, entry and use (R207, R208, R214). -/
  waiting : List (Nat × List Nat × SlotUse)
  /-- The slot that the library has aborted, and when (R210). -/
  aborted : Option (Nat × Nat)
  deriving DecidableEq, Repr

/-- The DRV block beside its registers. -/
structure Drv where
  ports : Table DrvPort
  /-- LBA size of the drive on each port, as identified. -/
  lba : Table Nat
  /-- Warning and critical composite temperature thresholds in °C and the highest-numbered operational power state of the
  drive on each port, as identified (R455). -/
  limits : Table (Nat × Nat × Nat)
  /-- Drive configuration space as last read or written, by 1024 × port + dword. -/
  cfg : Table Nat
  deriving DecidableEq, Repr

/-! ## Network ports, switch core and forwarding (spec/09, spec/10, spec/11) -/

/-- The NETP block beside its registers. -/
structure Netp where
  /-- Classes whose pauses are ignored after a release, by slot (R226). -/
  released : Table Nat
  /-- A fault is in force on a slot (R220). -/
  faults : Table Bool
  deriving DecidableEq, Repr

/-- What a route does to a frame on a network slot (R256): the next hop's MAC and the egress VLAN. -/
structure Route where
  hop : List Byte
  vlan : Nat
  deriving DecidableEq, Repr

/-- A stored frame (R233, R234). Its bytes stand without the FCS. -/
structure Frame where
  id : Nat
  bytes : List Byte
  cells : Nat
  cls : Nat
  ingress : Nat
  stored : Nat
  loop : Bool
  mcast : Bool
  /-- Its first copy has left: it stands on the residue list while copies are queued (R243). -/
  left : Bool
  /-- Its cells come from headroom (R238). -/
  headroom : Bool
  route : Option Route
  cluster : Option Nat
  deriving DecidableEq, Repr

/-- A copy in a queue. -/
structure Copy where
  frame : Nat
  marked : Bool
  /-- It stood in a port-down hold (R246). -/
  held : Bool
  deriving DecidableEq, Repr

/-- The SWC block beside its registers. -/
structure Swc where
  frames : List Frame
  /-- Queues by 8 × port + class, oldest first. -/
  queues : Table (List Copy)
  deficit : Table Nat
  /-- Where the round robin of a port stands: 2 × class, plus 1 inside that class's turn. -/
  rotor : Table Nat
  /-- Ports in hold, the earliest hold first. -/
  holds : List Nat
  /-- Cells that an ingress port's reservation is short of its 36 (R233). -/
  short : Table Nat
  /-- Copies that wait at the head of an internal source, by port: frame, ports still to check, and class. -/
  waiting : Table (List (Nat × List Nat × Nat))
  nextFrame : Nat
  deriving DecidableEq, Repr

/-- A forwarding entry (R252). -/
structure FwdEntry where
  kind : Nat
  flags : Nat
  ts : Nat
  key : List Nat
  result : List Nat
  deriving DecidableEq, Repr

/-- The FWD block beside its registers. -/
structure Fwd where
  /-- Entries by location. -/
  ents : Table FwdEntry
  /-- VLAN entries: _LO plus 2^32 times _HI. -/
  vlans : Table Nat
  /-- Bucket versions. -/
  vers : Table Nat
  /-- Locations with an uncorrectable word, and VLAN entries with one at 266,368 plus their ID (R269). -/
  ue : Table Bool
  /-- The operation in progress on an update interface, 0 where there is none (R259). -/
  pending : Table Nat
  /-- The aging log: location and kind, oldest first. -/
  agelog : List (Nat × Nat)
  /-- The bucket of the next Rinse visit, and visits paid for (R266). -/
  bucket : Nat
  paid : Nat
  deriving DecidableEq, Repr

/-! ## RDMA transport and Thimble (spec/12, spec/13) -/

/-- A message being received: standard mode holds one at a time (R285), spray mode one for each open MSN (R294). -/
structure RxMsg where
  /-- The kind of its packets, from the first one that arrived. -/
  kind : PktKind
  /-- PSN of its first packet, and its MSN and packet count less 1 in spray mode. -/
  psn : Nat
  msn : Nat
  count : Nat
  /-- Positions received in spray mode: the arrival bitmap. -/
  got : List Nat
  /-- Bytes received so far. -/
  bytes : Nat
  /-- The staging lease of a SEND or of an item without payload. -/
  lease : Option Nat
  cluster : Nat
  ce : Bool
  solicited : Bool
  /-- Slate accesses of its packets. -/
  accs : List Nat
  /-- Complete in spray mode, and not yet acknowledged in MSN order. -/
  complete : Bool
  /-- The PSNs that it covers. -/
  span : Nat
  deriving DecidableEq, Repr

/-- A response that the responder owes, in PSN order: a READ, an atomic, a FLUSH, or a mirrored write whose acknowledgement is
withheld (R283, R321, R323). -/
structure Owed where
  psn : Nat
  /-- What it waits for: slate accesses by number, mirror copies by 2^40 + number, flush records by 2^41 + id. -/
  waits : List Nat
  /-- 0 an acknowledgement, 1 a READ, 2 an atomic. -/
  kind : Nat
  data : List Byte
  /-- Response packets sent so far. -/
  sent : Nat
  /-- The key entry whose use count falls as a FLUSH is acknowledged (R311). -/
  key : Option Nat
  /-- The MSN that an acknowledgement short of this request carries, and the one that covers it (R284). -/
  before : Nat
  after : Nat
  /-- The message number that the extension of its READ responses carries in spray mode (R293). -/
  msn : Nat
  deriving DecidableEq, Repr

/-- A finished message whose item waits for its data's placement (R286). -/
structure DueItem where
  waits : List Nat
  lease : Nat
  cluster : Nat
  kind : Nat
  deriving DecidableEq, Repr

/-- A request of the module: one N descriptor (R287). -/
structure TxReq where
  desc : Nat
  read : Bool
  /-- PSN of its first packet once it has one, and its message number in spray mode. -/
  psn : Option Nat
  msn : Nat
  /-- PSNs that it covers, request packets sent since the last return, and PSNs acknowledged or answered. -/
  span : Nat
  sent : Nat
  acked : Nat
  /-- Positions answered in spray mode. -/
  got : List Nat
  deriving DecidableEq, Repr

/-- What the transport keeps of a context beside its open words (R274 to R299). -/
structure Qp where
  reuse : Nat
  alloc : Bool
  /-- Cause of ERROR (R291). -/
  cause : Nat
  held : List Pkt
  msg : Option RxMsg
  spray : List RxMsg
  /-- The sequence NAK sent for the expected PSN in force, and when (R282). -/
  nak : Option (Nat × Nat)
  /-- Packets executed since the last acknowledgement, an acknowledgement that waits for what is owed, and the highest PSN
  acknowledged. -/
  unacked : Nat
  ackDue : Bool
  ackSent : Option Nat
  owed : List Owed
  due : List DueItem
  /-- Results of the last 16 atomics by PSN, the latest first (R283). -/
  saved : List (Nat × Nat)
  tx : List TxReq
  txMsn : Nat
  retries : Nat
  rnrs : Nat
  /-- The PSN from which to go on after an RNR timer. -/
  rnrFrom : Option Nat
  /-- The shaper's bucket in 1/8,000 of a byte as it stood at a time, and a packet that waits on it (R299). -/
  bucket : Nat
  bucketAt : Nat
  blocked : Bool
  /-- Time of the last CNP sent (R296), the round-trip sample running and the last one (R298). -/
  cnpAt : Option Nat
  rtt : Option (Nat × Nat)
  rttAt : Option Nat
  /-- PSN wraps since RTR or RTS, sent and received (R326). -/
  wrapTx : Nat
  wrapRx : Nat
  /-- Time of the last packet received (R373). -/
  lastRx : Nat
  deriving DecidableEq, Repr

/-- The XPORT block beside its registers. -/
structure Xport where
  qps : Table Qp
  /-- Words of the cached contexts by 64 × context + word, and the cached contexts, the least recently used first (R278). -/
  lines : Table Word64
  cached : List Nat
  loading : List Nat
  /-- Contexts whose load every pin holds up, a wait that has been counted (R278). -/
  refused : List Nat
  /-- The head of an XRX queue has been counted for its CE (R279). -/
  ceDone : Table Bool
  /-- Packets at the head of XRX0 and XRX1, oldest first (R278, R285, R307). -/
  xrx : Table (List Pkt)
  /-- The event ring of a cluster takes a tag post at its next record (R297). -/
  ccArmed : Table Bool
  /-- The next slot of the CM receive ring (R300). -/
  cmNext : Nat
  deriving DecidableEq, Repr

/-- What an admitted slate access does in HBM (R311, R312). -/
inductive SlateOp where
  | write
  | read
  | cas (swap cmp : Nat)
  | faa (add : Nat)
  | awrite
  deriving DecidableEq, Repr

/-- An admitted slate access (R310, R311). -/
structure SlateAcc where
  id : Nat
  ctx : Nat
  key : Nat
  slate : Nat
  op : SlateOp
  /-- HBM address, offset in the slate, and length. -/
  addr : Nat
  off : Nat
  len : Nat
  psn : Nat
  data : List Byte
  deriving DecidableEq, Repr

/-- A slate descriptor as Thimble caches it (R317). -/
structure SlateDesc where
  state : Nat
  flags : Nat
  pages : Nat
  hbase : Nat
  dbase : Nat
  deriving DecidableEq, Repr

/-- A FLUSH of persistence that waits for the library (R321). -/
structure FlushReq where
  id : Nat
  ctx : Nat
  key : Nat
  deriving DecidableEq, Repr

/-- The THIM block beside its registers. -/
structure Thim where
  /-- State and use count of the key entries, which hardware alone writes (R306) and a Kindle reset makes FREE (R328). -/
  states : Table Nat
  uses : Table Nat
  /-- Key entries in the cache, the least recently used first, loads in progress, and uncorrectable entries (R307). -/
  cached : List Nat
  /-- The 32 bytes of each entry in the cache (R307). -/
  lines : List (Nat × List Byte)
  loading : List Nat
  bad : List Nat
  /-- Completed revocations not yet read, the oldest first (R328). -/
  revLog : List Nat
  slates : Table SlateDesc
  accs : List SlateAcc
  nextAcc : Nat
  flushes : List FlushReq
  /-- Flush records written (R321). -/
  flushSeq : Nat
  /-- Copies that the trailing twin has not acknowledged, by access number (R323). -/
  copies : List Nat
  /-- Sealed keys and salts: QPN, key, salt (R325), and the data registers. -/
  sealKeys : List (Nat × Nat × Nat)
  skdata : Table Nat
  deriving DecidableEq, Repr

/-! ## The attach endpoint (spec/14) -/

/-- One attach function's configuration and controller state (R331, R334, R338, R345). -/
structure AttFn where
  bme : Bool
  mem : Bool
  /-- D-state: 0 or 3. VFs follow the PF. -/
  dst : Nat
  flr : Bool
  msixEn : Bool
  fmask : Bool
  intxDis : Bool
  /-- Max_Payload_Size, Max_Read_Request_Size codes, Completion Timeout Value and Disable (R337, R339). -/
  mps : Nat
  mrrs : Nat
  ctoVal : Nat
  ctoDis : Bool
  /-- AER uncorrectable status. -/
  aer : Nat
  pmeEn : Bool
  pmeSt : Bool
  /-- The stored controller registers CC, AQA, ASQ and ACQ (R334). -/
  cc : Nat
  aqa : Nat
  asq : Nat
  acq : Nat
  ovr : Bool
  deriving DecidableEq, Repr

/-- A vector of an MSI-X table (R343). -/
structure Msix where
  addr : Nat
  data : Nat
  mask : Bool
  deriving DecidableEq, Repr

/-- An outstanding or quarantined non-posted request (R337, R340). -/
structure AttReq where
  tag : Nat
  fn : Nat
  /-- The descriptor, or none where the data is to be discarded (R338). -/
  desc : Option Nat
  /-- Byte offset within the descriptor's data, and length. -/
  off : Nat
  len : Nat
  quarantined : Bool
  deriving DecidableEq, Repr

/-- The ATT block beside its registers. -/
structure Att where
  fns : Table AttFn
  /-- Other configuration dwords by 1024 × function + dword. -/
  cfg : Table Nat
  /-- Doorbells by 128 × function + 2 × queue, the head at the odd place (R335). -/
  bells : Table Nat
  msix : Table Msix
  pba : Table Bool
  reqs : List AttReq
  /-- Tags freed by an FLR or a parking whose completions are still to arrive. -/
  late : List Nat
  /-- Rings whose consumer index was written since the last post (R335). -/
  armed : Table Bool
  /-- INTA stands asserted. -/
  inta : Bool
  /-- ATT_WAKE_N is driven low. -/
  wakeLow : Bool
  /-- ATT_PERST_N is asserted. -/
  perst : Bool
  d3cold : Bool
  deriving DecidableEq, Repr

/-! ## Twin operation (spec/15) -/

/-- A record of the twin log as the lead writes it (R356). -/
structure LogRec where
  kind : Nat
  target : Nat
  round : Nat
  seq : Nat
  payload : List Nat
  deriving DecidableEq, Repr

/-- An item of a trailing twin's digest that waits for the lead's print of the parts of print blocks in its payload (R359): the strand whose
descriptor sends the payload, the epoch, the item without its print, and the print of the rest. -/
structure PartItem where
  strand : Nat
  epoch : Nat
  item : List Nat
  print : Nat
  deriving DecidableEq, Repr

/-- A record that the trailing twin holds in its ring, with the time of its arrival (R357). -/
structure LogIn where
  head : LogHead
  body : LogBody
  at_ : Nat
  deriving DecidableEq, Repr

/-- The TWIN block beside its registers. -/
structure Twin where
  /-- The digest key H (R353). -/
  hkey : Nat
  /-- Lead: the next seq, the records not acknowledged oldest first, and the last seq acknowledged (R357). -/
  nextSeq : Nat
  log : List LogRec
  acked : Nat
  /-- Trailing: the last seq received, and the records held and not replayed, oldest first. -/
  recvSeq : Nat
  ring : List LogIn
  /-- Horizon by engine: rounds before it may be passed (R357). -/
  horizon : Table Nat
  /-- The epoch in force, the rounds that each open epoch's record lists, and the next epoch to close (R365). -/
  epoch : Nat
  epochRounds : Table (List Nat)
  closed : Nat
  /-- Digests of epochs not yet compared: own, the peer's plus 1 (0: not received), and the epochs closed and not compared
  (R367). -/
  own : Table Nat
  peer : Table Nat
  uncompared : List Nat
  /-- Outputs held: by the log seq they depend on (R358), or by a freeze (R371). -/
  held : List (Nat × OutMsg)
  frozen : Bool
  /-- Prints of HBM blocks held as prints, by 4 KiB block (R359). On a lead: which blocks the trailing twin holds so. -/
  shadow : Table Nat
  /-- Trailing: items that wait for a print of part of a print block (R359, R366). -/
  partItems : List PartItem
  /-- Trailing: what stands against a TLP of each function of the lead, as the log shows it (R336, R347). -/
  leadFns : Table Nat
  /-- TWIN_CEDE is asserted; TWIN_CEDE_IN is asserted. -/
  cedeOut : Bool
  cedeIn : Bool
  /-- The level of TWIN_HB. -/
  hbOut : Bool
  /-- The module is a trailing twin that is not in step: it issues nothing and makes no output (R57, R372). -/
  stopped : Bool
  /-- Resync: attempts failed, a retry that waits 1 s, the pages rewritten since they were copied, and a freeze that stops
  dispatch (R377). -/
  tries : Nat
  retryDue : Bool
  rewritten : List Nat
  dispatchStopped : Bool
  /-- A planned swap drains; the seq of its SWAP record once that is written (R379). -/
  swapping : Bool
  swapSeq : Option Nat
  /-- Absent 64-byte units after a takeover: buffer units, and HBM units from 2^29 up; and the descriptors that wait for
  them (R373). -/
  absent : Table Bool
  waiters : List Nat
  /-- The lead's ports in service, as the log shows them (R363). -/
  leadPorts : Nat
  /-- Divergences since the pairing, and the sequence of the health report (R381). -/
  diverged : Nat
  healthSeq : Nat
  /-- Figures of the self-tests of R380: ECC scrub, patrol, the cross-check's failing engines, and the last eye margin of each
  lane plus 1 (0: none taken). -/
  scrubCe : Nat
  scrubUe : Nat
  patrolErrs : Nat
  xcheckMask : Nat
  margins : Table Nat
  deriving DecidableEq, Repr

/-! ## The Hearth (spec/16) -/

/-- The HEARTH, TOP and OTP blocks beside their registers and the OTP cells. -/
structure Hearth where
  /-- The module is OFF (R384). -/
  off : Bool
  /-- HEARTH_RST_N is held low after causing a Hearth reset (R390). -/
  rstLow : Bool
  /-- The Hearth reset has run to its end (R397 step 3). -/
  ready : Bool
  /-- The cause of the Hearth reset has ended, so the time base counts (R386). -/
  counting : Bool
  sampled : Bool
  /-- The time at which 0x5A was written, while no other value has been written since (R396). -/
  kickAt : Option Nat
  /-- Slow-clock steps of the time base: the fraction of a nanosecond in 64ths (R386). -/
  slowAcc : Nat
  /-- Retries since the last Hearth reset, and a retry that waits 1 s (R398). -/
  retries : Nat
  retryDue : Bool
  /-- What runs on the management core: 0 nothing, 1 the boot ROM, 2 a verified image, 3 recovery (R399). -/
  core : Nat
  /-- The slot selection of this boot reverted a trial (R399). -/
  reverted : Bool
  /-- Cores of the management processor that wait on an access into a stopped domain, one bit each (R509). -/
  coresHung : Nat
  /-- The OTP command in progress (R402): its result code so far, the cell that it programs, by 1024 × generation + word or
  4096 for the anti-rollback row, and the bits that it sets there. -/
  otpDue : Option (Nat × Nat × Nat)
  /-- Cells programmed by the command of the queue in progress, and bits: the model's own, empty between commands. -/
  burn : List (Nat × Nat)
  /-- Records of accesses into stopped domains that wait for a read of CLK_HANG (R512). -/
  hangs : List Nat
  /-- The SPI NOR (R399): slot A from byte 0, slot B from byte 0x0400_0000. -/
  spi : Table Byte
  /-- The recovery transfer over the UART (R473): bytes received so far. -/
  uart : List Byte
  /-- Domains whose commanded stop is in progress, and domains stopped by a loss, one bit each (R504, R508). -/
  stopping : Nat
  lost : Nat
  /-- Domains lost with the management domain, whose events wait for it (R504). -/
  lostHeld : Nat
  unlockHeld : Bool
  deriving DecidableEq, Repr

/-! ## Feed and bays (spec/17, spec/18) -/

/-- A hold-up test that runs (R420). Currents in 10 mA, voltages in 10 mV, charge in units of 10 mA × 10 µs. -/
structure HoldTest where
  i0 : Nat
  vs : Nat
  charge : Int
  ticks : Nat
  /-- Step 3 has computed its result, and the bank recharges. -/
  measured : Bool
  code : Nat
  deriving DecidableEq, Repr

/-- The FEED block beside its registers (R407 to R421). Times count ticks of 10 µs. -/
structure Feed where
  /-- The gate: 0 off, 1 precharge, 2 ramp, 3 driven full. -/
  gate : Nat
  /-- The gate is fully on; ticks since it was driven full. -/
  full : Bool
  driven : Nat
  /-- The state that a stage with its gate off shows: 0 OFF, 5 FAULT, 6 RETRY. -/
  rest : Nat
  /-- The limit loop is engaged. -/
  limited : Bool
  /-- The fault timer, and ticks below the limit since. -/
  timer : Option Nat
  below : Nat
  /-- HOLD_SENSE as the sequence started, in 10 mV. -/
  v0 : Nat
  /-- An ON is held; the stage was on as a loss or an overvoltage began (R409, R414, R415). -/
  held : Bool
  resume : Bool
  /-- Ticks: with Vds below 150 mV, fully on with FEED_PG, of the retry delay left, of feed below the threshold, of feed
  restored, of feed below 62 V. -/
  pgq : Nat
  good : Nat
  wait : Nat
  lossq : Nat
  lossok : Nat
  ovok : Nat
  /-- The poles of the model in 10^-9 °C (R413). -/
  dt1 : Int
  dt2 : Int
  /-- The last 100 currents, the latest first. -/
  hist : List Nat
  /-- The charge since the bus passed 10 % of FEED, while R419 measures. -/
  cap : Option Nat
  /-- The ramp started below 10 % of FEED and the limit has not engaged. -/
  capArmed : Bool
  test : Option HoldTest
  /-- A bay channel changed during steps 1 to 3. -/
  touched : Bool
  deriving DecidableEq, Repr

/-- A bay channel beside its registers (R425 to R442). Times count ticks of 1 µs. -/
structure Bay where
  /-- The 12 V gate: 0 off, 1 waiting on the auxiliary output, 2 slewing, 3 driven full. -/
  gate : Nat
  /-- Ticks since the auxiliary switch turned on, and since the gate was driven full. -/
  auxAge : Nat
  driven : Nat
  /-- Qualifying ticks (R431). -/
  qual : Nat
  /-- The fault timer, and ticks below the limit since. -/
  timer : Option Nat
  below : Nat
  /-- Ticks of the auxiliary switch at its limit. -/
  auxq : Nat
  /-- Ticks left of the retry timer; the wait's `used` was cleared by a removal (R438). -/
  wait : Nat
  fresh : Bool
  /-- Ticks in ON. -/
  onAge : Nat
  /-- Ticks that the presence level has differed from the debounced one (R434). -/
  debounce : Nat
  /-- The poles of the model and the calibration offset, in 10^-9 °C (R430, R442). -/
  dt1 : Int
  dt2 : Int
  dt3 : Int
  cofs : Int
  deriving DecidableEq, Repr

/-! ## Management (spec/20) -/

/-- A PLDM firmware update that runs (R472). -/
structure Update where
  /-- 1 the Fjoek image, 2 the program library image. -/
  component : Nat
  /-- Where it is written: a byte of the SPI NOR, or an HBM address. -/
  base : Nat
  /-- Bytes received, verified, applied. -/
  got : Nat
  verified : Bool
  applied : Bool
  deriving DecidableEq, Repr

/-- The MGMT block beside its registers, and what the firmware keeps. -/
structure Mgmt where
  /-- The management memory, 2 MiB (R13, R464): every location written since the last management reset; the others hold values that
  nothing fixes. The management processor's own programs alone use it, and they are no commands of this block (assumption 64). -/
  sram : Table Byte
  upd : Option Update
  /-- Fan duties drive the outputs; false while the outputs are high-impedance (R475). -/
  fans : Bool
  /-- LED codes as last shifted out, the most significant LED first (R476). -/
  leds : List Nat
  /-- MCTP messages whose reassembly runs, by tag (R470). -/
  partials : List Nat
  /-- While the logger scans its ring: the latches it can still buffer (R469). -/
  logRoom : Option Nat
  /-- A latch found the logger's buffer full since the last record (R468, R469). -/
  logGap : Bool
  deriving DecidableEq, Repr

/-! ## The module -/

/-- Everything the module holds but its OTP cells and the queue of commands. -/
structure Fjoek where
  /-- Registers that do not read their reset value, by address. -/
  regs : Table Word32
  /-- Latched higher words of wide registers, by the address of the higher word (R10). -/
  wide : Table Word32
  /-- Epoch snapshots of the epoch counters, by register address (R495). -/
  snap : Table Word32
  /-- Kindle resets so far: the number that names the arbitrary contents of HBM and the buffer cells (R547); the model's own. -/
  era : Nat
  /-- HBM by byte address: every location written since the last Kindle reset. -/
  hbm : Table Byte
  /-- MRAM by byte offset (R14). -/
  mram : Table Byte
  /-- The lock table by 2 × entry + word (R146). -/
  locks : Table Word64
  /-- Poisoned 64-byte units of HBM, and uncorrectable ones not yet detected (R114): for each, its bytes not written since. -/
  hbmPoison : Table Word64
  hbmHidden : Table Word64
  /-- The counter of free values (assumption 3): the model's own, no register of the module. -/
  free : Nat
  /-- Module events that happened in the command in progress, by event number (R489): the model's own, empty between
  commands. -/
  tally : Table Nat
  /-- What has left the module, oldest first. -/
  out : List OutMsg
  seam : Seam
  mngl : Mngl
  damp : Damp
  pmon : Pmon
  att : Att
  twin : Twin
  hearth : Hearth
  feed : Feed
  bay : Table Bay
  mgmt : Mgmt
  drv : Drv
  lib : Lib
  netp : Netp
  swc : Swc
  fwd : Fwd
  xport : Xport
  thim : Thim
  deriving DecidableEq, Repr

/-- The OTP cells (R400, R401): four generations of 1,024 words, by 1024 × generation + word, and the anti-rollback row by
the number of fuses blown. -/
structure Fuses where
  words : Table Word32
  arb : Nat
  deriving DecidableEq, Repr

/-- The state of the block: OTP cells, everything else, and the commands that wait, first in, first out. -/
structure State where
  fuses : Fuses
  m : Fjoek
  pending : List Instr
  deriving DecidableEq, Repr

/-- Faults of the block itself, which stop it. No meaning of this model raises one: what the spec calls a fault of a strand, a
drive or a link is a state change of the module (safe: the type exists only for the host's interface). -/
inductive Fault where
  /-- Raised by nothing (safe). -/
  | unreachable
  deriving DecidableEq, Repr

/-- Refusals. -/
inductive Refusal where
  /-- Raised by an arm of `exec` whose command has no meaning yet; no such arm is left (safe). -/
  | notModelled (mnemonic : String)
  deriving DecidableEq, Repr

/-! ## Right after a reset -/

/-- SEAM beside its registers as a reset leaves it. -/
def seamInit : Seam :=
  { strands := [], lmem := [], lue := [], prog := [], progue := [], tags := [], queues := [], waits := [], flight := [],
    entry := [], iclass := [], held := [], resetting := [], loader := .idle, ldrAddr := 0, ldrStage := 0,
    prot := none, last := [], rounds := [], offered := [], acts := [], values := [], stamp := 0 }

/-- MNGL beside its registers as a reset leaves it. -/
def mnglInit : Mngl :=
  { leases := [], freed := [], fresh := 0, buf := [], poison := [], undetected := [], descs := [], nextId := 0,
    fpz := 0, fpzLo := 0, xkeys := [], xdata := [], xkLoad := false, prints := [] }

/-- DAMP and SENSE beside its registers as a reset leaves it. -/
def dampInit : Damp :=
  { level := [], debt := 0, draws := [], spent := 0, base := 0, silent := 0, wrote := false, meas := 0, calm := 0,
    below := false, failAt := [], coolUs := 0, dvfsNext := 0, tests := [], running := none }

/-- PMON beside its registers as a reset leaves it. -/
def pmonInit : Pmon :=
  { pend := [] }

/-- The program library, STRP and DARN: the read cache at its default size of 16 GiB (spec/05). -/
def libInit : Lib :=
  { pools := [], cache := [], cacheBlocks := 4194304, fills := [], wcount := [], seq := 0, full := false,
    quiesce := false, dirtyLo := none, credit := [], media := [], zeroes := [], unread := [], repaired := 0, status := [],
    identify := [], held := [], awaited := [], durable := [] }

/-- DRV beside its registers as a reset leaves it. -/
def drvInit : Drv :=
  { ports := [], lba := [], limits := [], cfg := [] }

/-- NETP beside its registers as a reset leaves it. -/
def netpInit : Netp :=
  { released := [], faults := [] }

/-- SWC beside its registers as a reset leaves it. -/
def swcInit : Swc :=
  { frames := [], queues := [], deficit := [], rotor := [], holds := [], short := [], waiting := [], nextFrame := 0 }

/-- FWD beside its registers as a reset leaves it. -/
def fwdInit : Fwd :=
  { ents := [], vlans := [], vers := [], ue := [], pending := [], agelog := [], bucket := 0, paid := 0 }

/-- XPORT beside its registers as a reset leaves it. -/
def xportInit : Xport :=
  { qps := [], lines := [], cached := [], loading := [], refused := [], ceDone := [], xrx := [], ccArmed := [], cmNext := 0 }

/-- THIM beside its registers as a reset leaves it. -/
def thimInit : Thim :=
  { states := [], uses := [], cached := [], lines := [], loading := [], bad := [], revLog := [], slates := [], accs := [], nextAcc := 0, flushes := [],
    flushSeq := 0, copies := [], sealKeys := [], skdata := [] }

/-- ATT beside its registers as a reset leaves it. -/
def attInit : Att :=
  { fns := [], cfg := [], bells := [], msix := [], pba := [], reqs := [], late := [], armed := [], inta := false,
    wakeLow := false, perst := false, d3cold := false }

/-- TWIN beside its registers as a reset leaves it. -/
def twinInit : Twin :=
  { hkey := 0, nextSeq := 1, log := [], acked := 0, recvSeq := 0, ring := [], horizon := [], epoch := 0,
    epochRounds := [], closed := 0, own := [], peer := [], uncompared := [], held := [], frozen := false,
    shadow := [], partItems := [], leadFns := [], cedeOut := false, cedeIn := false, hbOut := false, stopped := false, tries := 0, retryDue := false,
    rewritten := [], dispatchStopped := false, swapping := false, swapSeq := none, absent := [], waiters := [],
    leadPorts := 0, diverged := 0, healthSeq := 0, scrubCe := 0, scrubUe := 0, patrolErrs := 0, xcheckMask := 0,
    margins := [] }

/-- HEARTH beside its registers as a reset leaves it. -/
def hearthInit : Hearth :=
  { off := false, rstLow := false, ready := false, counting := false, sampled := false, kickAt := none, slowAcc := 0,
    retries := 0, retryDue := false, core := 0, reverted := false, coresHung := 0, otpDue := none, burn := [],
    hangs := [], spi := [], uart := [], stopping := 0, lost := 0, lostHeld := 0, unlockHeld := false }

/-- FEED beside its registers as a reset leaves it. -/
def feedInit : Feed :=
  { gate := 0, full := false, driven := 0, rest := 0, limited := false, timer := none, below := 0, v0 := 0,
    held := false, resume := false, pgq := 0, good := 0, wait := 0, lossq := 0, lossok := 0, ovok := 0, dt1 := 0,
    dt2 := 0, hist := [], cap := none, capArmed := false, test := none, touched := false }

/-- MGMT beside its registers as a reset leaves it. -/
def mgmtInit : Mgmt :=
  { sram := [], upd := none, fans := false, leds := [], partials := [], logRoom := none, logGap := false }

/-! ## The module right after reset -/

/-- The OTP cells at State.reset: generation 0 holds a valid record with every field that the spec leaves to manufacture at 0, and
maccount at its least (R400, R401; the contents are the model's, assumption 6). -/
def fusesReset : Fuses :=
  { words := [(0, 0x4C50544F#32), (1, 0x00010000#32), (7, 0x00220000#32), (1022, 0x1A681B5C#32), (1023, 0xA5A5A5A5#32)]
    arb := 0 }

/-- Every part of the module right after a Hearth reset has begun with the feed present (R383, R390, R394): registers at their
reset values but for HEARTH_STAT.state, HEARTH_RSTC and the two domains that run, MRAM and the SPI NOR with nothing listed. -/
def fjoekReset : Fjoek :=
  { regs := [(0x10004, 0x10000000#32), (0x10014, 0x00000601#32), (0xA0004, 3#32)]
    wide := [], snap := [], era := 0, hbm := [], mram := [], locks := [], hbmPoison := [], hbmHidden := [], free := 0, tally := []
    out := [], seam := seamInit, mngl := mnglInit, damp := dampInit, pmon := pmonInit, att := attInit, twin := twinInit
    hearth := { hearthInit with counting := true }, feed := feedInit, bay := [], mgmt := mgmtInit, drv := drvInit
    lib := libInit, netp := netpInit, swc := swcInit, fwd := fwdInit, xport := xportInit, thim := thimInit }

/-- The block right after reset: no command waits. -/
def State.reset : State := { fuses := fusesReset, m := fjoekReset, pending := [] }

end Sys2Proof.Machine
end

