-- ==== Sys2Proof/Decode.lean ====
section
/-! DEFINITION. The decoder over the opcode table's words, and the decoder of a strand's instruction words (R66 to R69). The table gives
none of its 462 rows a field or a bit: commands reach the block as happenings, not as words, so no word spells one. A word of program
memory spells an instruction of the strand that holds it. -/

namespace Sys2Proof

open Sys2Proof.Machine

/-- The command that a word of `nbits` bits spells: none, as no row of the table has bits. -/
def decodeTableWord (nbits w : Nat) : Option Instr :=
  match nbits, w with
  | _, _ => none

/-! ## Instruction words -/

/-- A defined instruction: its major, its function or op code in place, the bits that its class table leaves to its operands, and the
instruction that the strand of `i` then has. -/
structure WordRow where
  major : Nat
  fn : Nat
  free : Nat
  make : Issue → Nat → Instr

/-- Register fields of a word (R66), a predicate field's three bits, and the low `n` bits. -/
def fRd : Nat := 31 * 2 ^ 49
def fPd : Nat := 7 * 2 ^ 49
def fRa : Nat := 31 * 2 ^ 44
def fPa : Nat := 7 * 2 ^ 44
def fRb : Nat := 31 * 2 ^ 39
def fPb : Nat := 7 * 2 ^ 39
def fPe : Nat := 7 * 2 ^ 33
def fLow (n : Nat) : Nat := 2 ^ n - 1

/-- What those fields hold. -/
def wRd (w : Nat) : Fin 32 := Fin.ofNat 32 (w / 2 ^ 49)
def wPd (w : Nat) : Fin 8 := Fin.ofNat 8 (w / 2 ^ 49)
def wRa (w : Nat) : Fin 32 := Fin.ofNat 32 (w / 2 ^ 44)
def wRb (w : Nat) : Fin 32 := Fin.ofNat 32 (w / 2 ^ 39)

/-- The ALU class (R74). -/
def wordsAlu : List WordRow :=
  [⟨0, 0 * 2 ^ 33, fRd + fRa + fRb, fun i w => .add i (wRd w) (wRa w) (wRb w)⟩,
   ⟨0, 1 * 2 ^ 33, fRd + fRa + fRb, fun i w => .sub i (wRd w) (wRa w) (wRb w)⟩,
   ⟨0, 2 * 2 ^ 33, fRd + fRa + fRb, fun i w => .and i (wRd w) (wRa w) (wRb w)⟩,
   ⟨0, 3 * 2 ^ 33, fRd + fRa + fRb, fun i w => .or i (wRd w) (wRa w) (wRb w)⟩,
   ⟨0, 4 * 2 ^ 33, fRd + fRa + fRb, fun i w => .xor i (wRd w) (wRa w) (wRb w)⟩,
   ⟨0, 5 * 2 ^ 33, fRd + fRa + fRb, fun i w => .andn i (wRd w) (wRa w) (wRb w)⟩,
   ⟨0, 6 * 2 ^ 33, fRd + fRa + fRb, fun i w => .shl i (wRd w) (wRa w) (wRb w)⟩,
   ⟨0, 7 * 2 ^ 33, fRd + fRa + fRb, fun i w => .shr i (wRd w) (wRa w) (wRb w)⟩,
   ⟨0, 8 * 2 ^ 33, fRd + fRa + fRb, fun i w => .sar i (wRd w) (wRa w) (wRb w)⟩,
   ⟨0, 9 * 2 ^ 33, fRd + fRa + fRb, fun i w => .rol i (wRd w) (wRa w) (wRb w)⟩,
   ⟨0, 10 * 2 ^ 33, fRd + fRa + fRb, fun i w => .mul i (wRd w) (wRa w) (wRb w)⟩,
   ⟨0, 11 * 2 ^ 33, fRd + fRa + fRb, fun i w => .mulhu i (wRd w) (wRa w) (wRb w)⟩,
   ⟨0, 12 * 2 ^ 33, fRd + fRa + fRb, fun i w => .mulhs i (wRd w) (wRa w) (wRb w)⟩,
   ⟨0, 13 * 2 ^ 33, fRd + fRa + fRb, fun i w => .min i (wRd w) (wRa w) (wRb w)⟩,
   ⟨0, 14 * 2 ^ 33, fRd + fRa + fRb, fun i w => .max i (wRd w) (wRa w) (wRb w)⟩,
   ⟨0, 15 * 2 ^ 33, fRd + fRa + fRb, fun i w => .minu i (wRd w) (wRa w) (wRb w)⟩,
   ⟨0, 16 * 2 ^ 33, fRd + fRa + fRb, fun i w => .maxu i (wRd w) (wRa w) (wRb w)⟩,
   ⟨0, 17 * 2 ^ 33, fRd + fRa, fun i w => .clz i (wRd w) (wRa w)⟩,
   ⟨0, 18 * 2 ^ 33, fRd + fRa, fun i w => .popc i (wRd w) (wRa w)⟩,
   ⟨0, 19 * 2 ^ 33, fRd + fRa, fun i w => .bswap i (wRd w) (wRa w)⟩] ++
  [⟨0, 20 * 2 ^ 33, fRd + fRa + fRb + 7, fun i w => .sel i (wRd w) (wRa w) (wRb w) (Fin.ofNat 8 w)⟩,
   ⟨0, 21 * 2 ^ 33, fRd + fRa + fLow 13, fun i w => .bfx i (wRd w) (wRa w) (.ofNat 6 w) (.ofNat 7 (w / 64))⟩,
   ⟨0, 22 * 2 ^ 33, fRd + fRa + fLow 13, fun i w => .bfi i (wRd w) (wRa w) (.ofNat 6 w) (.ofNat 7 (w / 64))⟩,
   ⟨0, 23 * 2 ^ 33, fRd + fRa + fRb, fun i w => .gfmul i (wRd w) (wRa w) (wRb w)⟩,
   ⟨0, 24 * 2 ^ 33, fRd + fRa, fun i w => .crc32c i (wRd w) (wRa w)⟩,
   ⟨1, 0, fRd + fRa + fLow 39, fun i w => .addi i (wRd w) (wRa w) (.ofNat 39 w)⟩,
   ⟨2, 0, fRd + fRa + fLow 39, fun i w => .andi i (wRd w) (wRa w) (.ofNat 39 w)⟩,
   ⟨3, 0, fRd + fRa + fLow 39, fun i w => .ori i (wRd w) (wRa w) (.ofNat 39 w)⟩,
   ⟨4, 0, fRd + fRa + fLow 39, fun i w => .xori i (wRd w) (wRa w) (.ofNat 39 w)⟩,
   ⟨5, 0, fRd + fRa + fLow 6, fun i w => .shli i (wRd w) (wRa w) (.ofNat 6 w)⟩,
   ⟨6, 0, fRd + fRa + fLow 6, fun i w => .shri i (wRd w) (wRa w) (.ofNat 6 w)⟩,
   ⟨7, 0, fRd + fRa + fLow 6, fun i w => .sari i (wRd w) (wRa w) (.ofNat 6 w)⟩,
   ⟨8, 0, fRd + fLow 39, fun i w => .li i (wRd w) (.ofNat 39 w)⟩,
   ⟨9, 0, fRd + fLow 32, fun i w => .lih i (wRd w) (.ofNat 32 w)⟩]

/-- Compare, branch and call (R76, R77). -/
def wordsFlow : List WordRow :=
  [⟨0x0A, 0 * 2 ^ 35, fPd + fRa + fRb + fLow 4, fun i w => .cmpeq i (wPd w) (wRa w) (wRb w) ⟨bitOf w 3, Fin.ofNat 8 w⟩⟩,
   ⟨0x0A, 1 * 2 ^ 35, fPd + fRa + fRb + fLow 4, fun i w => .cmpne i (wPd w) (wRa w) (wRb w) ⟨bitOf w 3, Fin.ofNat 8 w⟩⟩,
   ⟨0x0A, 2 * 2 ^ 35, fPd + fRa + fRb + fLow 4, fun i w => .cmplt i (wPd w) (wRa w) (wRb w) ⟨bitOf w 3, Fin.ofNat 8 w⟩⟩,
   ⟨0x0A, 3 * 2 ^ 35, fPd + fRa + fRb + fLow 4, fun i w => .cmple i (wPd w) (wRa w) (wRb w) ⟨bitOf w 3, Fin.ofNat 8 w⟩⟩,
   ⟨0x0A, 4 * 2 ^ 35, fPd + fRa + fRb + fLow 4, fun i w => .cmpltu i (wPd w) (wRa w) (wRb w) ⟨bitOf w 3, Fin.ofNat 8 w⟩⟩,
   ⟨0x0A, 5 * 2 ^ 35, fPd + fRa + fRb + fLow 4, fun i w => .cmpleu i (wPd w) (wRa w) (wRb w) ⟨bitOf w 3, Fin.ofNat 8 w⟩⟩,
   ⟨0x0A, 6 * 2 ^ 35, fPd + fRa + fRb + fLow 4, fun i w => .tst i (wPd w) (wRa w) (wRb w) ⟨bitOf w 3, Fin.ofNat 8 w⟩⟩,
   ⟨0xb, 0, fPd + fRa + fLow 36, fun i w => .cmpeqi i (wPd w) (wRa w) (.ofNat 32 w) ⟨bitOf w 35, Fin.ofNat 8 (w / 2 ^ 32)⟩⟩,
   ⟨0xc, 0, fPd + fRa + fLow 36, fun i w => .cmplti i (wPd w) (wRa w) (.ofNat 32 w) ⟨bitOf w 35, Fin.ofNat 8 (w / 2 ^ 32)⟩⟩,
   ⟨0xd, 0, fPd + fRa + fLow 36, fun i w => .cmpltui i (wPd w) (wRa w) (.ofNat 32 w) ⟨bitOf w 35, Fin.ofNat 8 (w / 2 ^ 32)⟩⟩,
   ⟨0x0E, 0, fPd + fPa + fPb + fLow 4, fun i w => .plog i (wPd w) (Fin.ofNat 8 (w / 2 ^ 44)) (Fin.ofNat 8 (w / 2 ^ 39)) (.ofNat 4 w)⟩,
   ⟨0x10, 0, fLow 13, fun i w => .br i (.ofNat 13 w)⟩,
   ⟨0x11, 0, fLow 13, fun i w => .call i (.ofNat 13 w)⟩,
   ⟨0x12, 0, fRa, fun i w => .brr i (wRa w)⟩,
   ⟨0x12, 2 ^ 36, fRa, fun i w => .callr i (wRa w)⟩,
   ⟨0x12, 2 * 2 ^ 36, 0, fun i _ => .ret i⟩,
   ⟨0x12, 3 * 2 ^ 36, fRa + fLow 26, fun i w => .jtab i (wRa w) (.ofNat 13 w) (.ofNat 13 (w / 2 ^ 13))⟩,
   ⟨0x13, 0, fRd + fLow 13, fun i w => .loop i (wRd w) (.ofNat 13 w)⟩]

/-- Local and global accesses (R78, R79, R81 to R83). -/
def wordsMem : List WordRow :=
  [⟨0x14, 0 * 2 ^ 36, fRd + fRa + fLow 18, fun i w => .ldb i (wRd w) (wRa w) (.ofNat 18 w)⟩,
   ⟨0x14, 1 * 2 ^ 36, fRd + fRa + fLow 18, fun i w => .ldh i (wRd w) (wRa w) (.ofNat 18 w)⟩,
   ⟨0x14, 2 * 2 ^ 36, fRd + fRa + fLow 18, fun i w => .ldw i (wRd w) (wRa w) (.ofNat 18 w)⟩,
   ⟨0x14, 3 * 2 ^ 36, fRd + fRa + fLow 18, fun i w => .ldd i (wRd w) (wRa w) (.ofNat 18 w)⟩,
   ⟨0x14, 4 * 2 ^ 36, fRd + fRa + fLow 18, fun i w => .ldbs i (wRd w) (wRa w) (.ofNat 18 w)⟩,
   ⟨0x14, 5 * 2 ^ 36, fRd + fRa + fLow 18, fun i w => .ldhs i (wRd w) (wRa w) (.ofNat 18 w)⟩,
   ⟨0x14, 6 * 2 ^ 36, fRd + fRa + fLow 18, fun i w => .ldws i (wRd w) (wRa w) (.ofNat 18 w)⟩,
   ⟨0x15, 0 * 2 ^ 36, fRa + fRb + fLow 18, fun i w => .stb i (wRa w) (wRb w) (.ofNat 18 w)⟩,
   ⟨0x15, 1 * 2 ^ 36, fRa + fRb + fLow 18, fun i w => .sth i (wRa w) (wRb w) (.ofNat 18 w)⟩,
   ⟨0x15, 2 * 2 ^ 36, fRa + fRb + fLow 18, fun i w => .stw i (wRa w) (wRb w) (.ofNat 18 w)⟩,
   ⟨0x15, 3 * 2 ^ 36, fRa + fRb + fLow 18, fun i w => .std i (wRa w) (wRb w) (.ofNat 18 w)⟩,
   ⟨0x16, 0 * 2 ^ 36, fRd + fRa + fRb + fLow 18, fun i w => .lcas i (wRd w) (wRa w) (wRb w) (.ofNat 18 w)⟩,
   ⟨0x16, 1 * 2 ^ 36, fRd + fRa + fRb + fLow 18, fun i w => .lfadd i (wRd w) (wRa w) (wRb w) (.ofNat 18 w)⟩,
   ⟨0x18, 0, fRd + fRa + fPe + fLow 24, fun i w => .hld i (wRd w) (wRa w) (.ofNat 24 w) (Fin.ofNat 8 (w / 2 ^ 33))⟩,
   ⟨0x18, 2 ^ 36, fRa + fRb + fLow 24, fun i w => .hst i (wRa w) (wRb w) (.ofNat 24 w)⟩,
   ⟨0x18, 2 * 2 ^ 36, fRd + fRa + fRb + fPe + fLow 24, fun i w => .hcas i (wRd w) (wRa w) (wRb w) (.ofNat 24 w) (Fin.ofNat 8 (w / 2 ^ 33))⟩,
   ⟨0x18, 3 * 2 ^ 36, fRd + fRa + fRb + fPe + fLow 24, fun i w => .hfadd i (wRd w) (wRa w) (wRb w) (.ofNat 24 w) (Fin.ofNat 8 (w / 2 ^ 33))⟩,
   ⟨0x19, 0, fRd + fRa, fun i w => .lease i (wRd w) (wRa w)⟩,
   ⟨0x19, 2 ^ 36, fRd + fRa, fun i w => .lsize i (wRd w) (wRa w)⟩,
   ⟨0x19, 2 * 2 ^ 36, fRa, fun i w => .lrel i (wRa w)⟩] ++
  [⟨0x1A, 0, fRd + fRa + fRb + fPe + fLow 22, fun i w => .bld i (wRd w) (wRa w) (wRb w) (.ofNat 22 w) (Fin.ofNat 8 (w / 2 ^ 33))⟩,
   ⟨0x1A, 2 ^ 36, fRd + fRa + fRb + fLow 22, fun i w => .bst i (wRd w) (wRa w) (wRb w) (.ofNat 22 w)⟩,
   ⟨0x1B, 0, fRd + fRa + fLow 24, fun i w => .rld i (wRd w) (wRa w) (.ofNat 24 w)⟩,
   ⟨0x1B, 2 ^ 36, fRa + fRb + fLow 24, fun i w => .rst i (wRa w) (wRb w) (.ofNat 24 w)⟩]

/-- Bulk issue, events, budget and twin (R84, R85, R87, R88). -/
def wordsEvent : List WordRow :=
  [⟨0x1C, 0, fRa, fun i w => .bulk i (wRa w)⟩,
   ⟨0x1C, 2 ^ 36, fRd + fRa, fun i w => .tbulk i (wRd w) (wRa w)⟩,
   ⟨0x1C, 2 * 2 ^ 36, fRd, fun i w => .bqfree i (wRd w)⟩,
   ⟨0x1D, 0, fRd + fRa, fun i w => .wait i (wRd w) (wRa w)⟩,
   ⟨0x1D, 2 ^ 36, fRd + fRa + fRb, fun i w => .post i (wRd w) (wRa w) (wRb w)⟩,
   ⟨0x1D, 2 * 2 ^ 36, fRa, fun i w => .timer i (wRa w)⟩,
   ⟨0x1D, 3 * 2 ^ 36, fRd + fLow 10, fun i w => .tagcnt i (wRd w) (.ofNat 10 w)⟩,
   ⟨0x1E, 0, fRd + fLow 32, fun i w =>
    .waiti i (wRd w) (.ofNat 2 (w / 2 ^ 30)) (.ofNat 10 w) (.ofNat 10 (w / 2 ^ 10)) (.ofNat 10 (w / 2 ^ 20))⟩,
   ⟨0x20, 0, fRa, fun i w => .draw i 0 (wRa w) false⟩,
   ⟨0x20, 8, fRd + fRa, fun i w => .draw i (wRd w) (wRa w) true⟩,
   ⟨0x20, 2 ^ 36, fRa, fun i w => .refund i (wRa w)⟩,
   ⟨0x20, 2 * 2 ^ 36, fRa, fun i w => .classSet i (wRa w) false 0⟩,
   ⟨0x20, 2 * 2 ^ 36 + 2 ^ 35, 7, fun i w => .classSet i 0 true (.ofNat 3 w)⟩,
   ⟨0x21, 0, fRd + fRa, fun i w => .note i (wRd w) (wRa w)⟩,
   ⟨0x21, 2 ^ 36, fRd, fun i w => .fence i (wRd w)⟩]

/-- Contexts and system (R89, R90). -/
def wordsSystem : List WordRow :=
  [⟨0x22, 0, fRd + fRa + fLow 9, fun i w => .qld i (wRd w) (wRa w) (.ofNat 9 w)⟩,
   ⟨0x22, 2 ^ 36, fRa + fRb + fLow 9, fun i w => .qst i (wRa w) (wRb w) (.ofNat 9 w)⟩,
   ⟨0x22, 2 * 2 ^ 36, fRd + fRa + fRb + fLow 9, fun i w => .qcas i (wRd w) (wRa w) (wRb w) (.ofNat 9 w)⟩,
   ⟨0x22, 3 * 2 ^ 36, fRd + fRa + fLow 9, fun i w => .kld i (wRd w) (wRa w) (.ofNat 9 w)⟩,
   ⟨0x22, 4 * 2 ^ 36, fRa + fRb + fLow 9, fun i w => .kst i (wRa w) (wRb w) (.ofNat 9 w)⟩,
   ⟨0x22, 5 * 2 ^ 36, fRa + fRb, fun i w => .qrate i (wRa w) (wRb w)⟩,
   ⟨0x22, 6 * 2 ^ 36, fRa, fun i w => .qpref i (wRa w)⟩,
   ⟨0x30, 0, 0, fun i _ => .nop i⟩,
   ⟨0x30, 2 ^ 35, 0, fun i _ => .yieldScan i⟩,
   ⟨0x30, 2 * 2 ^ 35, fRd, fun i w => .rdtime i (wRd w)⟩,
   ⟨0x30, 3 * 2 ^ 35, fRd + fLow 4, fun i w => .rdcnt i (wRd w) (.ofNat 4 w)⟩,
   ⟨0x30, 4 * 2 ^ 35, fRd, fun i w => .rdid i (wRd w)⟩,
   ⟨0x30, 5 * 2 ^ 35, fRd, fun i w => .rand i (wRd w)⟩,
   ⟨0x30, 6 * 2 ^ 35, 0, fun i _ => .mfence i⟩,
   ⟨0x30, 7 * 2 ^ 35, fRd + fRa, fun i w => .evset i (wRd w) (wRa w)⟩]

/-- The 104 instructions (R69), `draw` and `class` with two forms each. -/
def wordRows : List WordRow := wordsAlu ++ wordsFlow ++ wordsMem ++ wordsEvent ++ wordsSystem

/-- The word fits a row, and its field values are in range where the table limits them (bfx, bfi, waiti, rdcnt). -/
def WordRow.fits (r : WordRow) (w : Nat) : Bool :=
  let b := w % 2 ^ 54
  w / 2 ^ 58 == r.major && (b - (b &&& r.free)) == r.fn &&
    (if r.major = 0 ∧ 21 * 2 ^ 33 ≤ r.fn ∧ r.fn ≤ 22 * 2 ^ 33 then fieldOk (w % 64) (bitsOf w 12 6) else true) &&
    (if r.major = 0x1E then bitsOf w 31 30 != 0 else true) &&
    (if r.major = 0x30 ∧ r.fn = 3 * 2 ^ 35 then decide (w % 16 < 9) else true)

/-- The instruction that a 64-bit word spells for strand `s` of engine `e`: its guard from psel and pneg, its operands from the register
fields and the minor field. None where the word is undefined (R67). -/
def decodeWord (e : Fin 64) (s : Fin 8) (w : Nat) : Option Instr :=
  (wordRows.find? fun r => r.fits w).map fun r => r.make ⟨e, s, Fin.ofNat 8 (w / 2 ^ 55), bitOf w 54⟩ w

/-- An instruction word is defined (R67). -/
def wordDefined (w : Nat) : Bool := wordRows.any fun r => r.fits w

end Sys2Proof
end

