-- ==== Sys2Proof/Machine/Crypto.lean ====
section
/-! DEFINITION. The published algorithms that the spec names and does not restate: SHA-384 (FIPS 180-4; R49, R107), ECDSA
P-384 verification (SEC 1; R49, R399), AES-256 (FIPS 197; R106, R325), and the fields that the spec does define:
GF(2^8) modulo 0x11D (R75), GF(2^64) (R104), CRC-32C (R75) and the GF(2^128) product of GHASH (R325, R367). -/

namespace Sys2Proof.Machine

/-- The round constants of SHA-384. -/
def shaK : List Nat :=
  ([0x428a2f98d728ae22, 0x7137449123ef65cd, 0xb5c0fbcfec4d3b2f, 0xe9b5dba58189dbbc] ++
   [0x3956c25bf348b538, 0x59f111f1b605d019, 0x923f82a4af194f9b, 0xab1c5ed5da6d8118] ++
   [0xd807aa98a3030242, 0x12835b0145706fbe, 0x243185be4ee4b28c, 0x550c7dc3d5ffb4e2] ++
   [0x72be5d74f27b896f, 0x80deb1fe3b1696b1, 0x9bdc06a725c71235, 0xc19bf174cf692694] ++
   [0xe49b69c19ef14ad2, 0xefbe4786384f25e3, 0x0fc19dc68b8cd5b5, 0x240ca1cc77ac9c65] ++
   [0x2de92c6f592b0275, 0x4a7484aa6ea6e483, 0x5cb0a9dcbd41fbd4, 0x76f988da831153b5] ++
   [0x983e5152ee66dfab, 0xa831c66d2db43210, 0xb00327c898fb213f, 0xbf597fc7beef0ee4] ++
   [0xc6e00bf33da88fc2, 0xd5a79147930aa725, 0x06ca6351e003826f, 0x142929670a0e6e70] ++
   [0x27b70a8546d22ffc, 0x2e1b21385c26c926, 0x4d2c6dfc5ac42aed, 0x53380d139d95b3df] ++
   [0x650a73548baf63de, 0x766a0abb3c77b2a8, 0x81c2c92e47edaee6, 0x92722c851482353b] ++
   [0xa2bfe8a14cf10364, 0xa81a664bbc423001, 0xc24b8b70d0f89791, 0xc76c51a30654be30] ++
   [0xd192e819d6ef5218, 0xd69906245565a910, 0xf40e35855771202a, 0x106aa07032bbd1b8] ++
   [0x19a4c116b8d2d0c8, 0x1e376c085141ab53, 0x2748774cdf8eeb99, 0x34b0bcb5e19b48a8] ++
   [0x391c0cb3c5c95a63, 0x4ed8aa4ae3418acb, 0x5b9cca4f7763e373, 0x682e6ff3d6b2b8a3] ++
   [0x748f82ee5defb2fc, 0x78a5636f43172f60, 0x84c87814a1f0ab72, 0x8cc702081a6439ec] ++
   [0x90befffa23631e28, 0xa4506cebde82bde9, 0xbef9a3f7b2c67915, 0xc67178f2e372532b] ++
   [0xca273eceea26619c, 0xd186b8c721c0c207, 0xeada7dd6cde0eb1e, 0xf57d4f7fee6ed178] ++
   [0x06f067aa72176fba, 0x0a637dc5a2c898a6, 0x113f9804bef90dae, 0x1b710b35131c471b] ++
   [0x28db77f523047d84, 0x32caab7b40c72493, 0x3c9ebe0a15c9bebc, 0x431d67c49c100d4c] ++
   [0x4cc5d4becb3e42b6, 0x597f299cfc657e2a, 0x5fcb6fab3ad6faec, 0x6c44198c4a475817])

/-- The initial values of SHA-384. -/
def shaInit : List Nat :=
  ([0xcbbb9d5dc1059ed8, 0x629a292a367cd507, 0x9159015a3070dd17, 0x152fecd8f70e5939] ++
   [0x67332667ffc00b31, 0x8eb44a8768581511, 0xdb0c2e0d64f98fa7, 0x47b5481dbefa4fa4])

/-- The AES substitution box. -/
def aesBox : List Nat :=
  ([0x63, 0x7c, 0x77, 0x7b, 0xf2, 0x6b, 0x6f, 0xc5, 0x30, 0x01, 0x67, 0x2b, 0xfe, 0xd7, 0xab, 0x76] ++
   [0xca, 0x82, 0xc9, 0x7d, 0xfa, 0x59, 0x47, 0xf0, 0xad, 0xd4, 0xa2, 0xaf, 0x9c, 0xa4, 0x72, 0xc0] ++
   [0xb7, 0xfd, 0x93, 0x26, 0x36, 0x3f, 0xf7, 0xcc, 0x34, 0xa5, 0xe5, 0xf1, 0x71, 0xd8, 0x31, 0x15] ++
   [0x04, 0xc7, 0x23, 0xc3, 0x18, 0x96, 0x05, 0x9a, 0x07, 0x12, 0x80, 0xe2, 0xeb, 0x27, 0xb2, 0x75] ++
   [0x09, 0x83, 0x2c, 0x1a, 0x1b, 0x6e, 0x5a, 0xa0, 0x52, 0x3b, 0xd6, 0xb3, 0x29, 0xe3, 0x2f, 0x84] ++
   [0x53, 0xd1, 0x00, 0xed, 0x20, 0xfc, 0xb1, 0x5b, 0x6a, 0xcb, 0xbe, 0x39, 0x4a, 0x4c, 0x58, 0xcf] ++
   [0xd0, 0xef, 0xaa, 0xfb, 0x43, 0x4d, 0x33, 0x85, 0x45, 0xf9, 0x02, 0x7f, 0x50, 0x3c, 0x9f, 0xa8] ++
   [0x51, 0xa3, 0x40, 0x8f, 0x92, 0x9d, 0x38, 0xf5, 0xbc, 0xb6, 0xda, 0x21, 0x10, 0xff, 0xf3, 0xd2] ++
   [0xcd, 0x0c, 0x13, 0xec, 0x5f, 0x97, 0x44, 0x17, 0xc4, 0xa7, 0x7e, 0x3d, 0x64, 0x5d, 0x19, 0x73] ++
   [0x60, 0x81, 0x4f, 0xdc, 0x22, 0x2a, 0x90, 0x88, 0x46, 0xee, 0xb8, 0x14, 0xde, 0x5e, 0x0b, 0xdb] ++
   [0xe0, 0x32, 0x3a, 0x0a, 0x49, 0x06, 0x24, 0x5c, 0xc2, 0xd3, 0xac, 0x62, 0x91, 0x95, 0xe4, 0x79] ++
   [0xe7, 0xc8, 0x37, 0x6d, 0x8d, 0xd5, 0x4e, 0xa9, 0x6c, 0x56, 0xf4, 0xea, 0x65, 0x7a, 0xae, 0x08] ++
   [0xba, 0x78, 0x25, 0x2e, 0x1c, 0xa6, 0xb4, 0xc6, 0xe8, 0xdd, 0x74, 0x1f, 0x4b, 0xbd, 0x8b, 0x8a] ++
   [0x70, 0x3e, 0xb5, 0x66, 0x48, 0x03, 0xf6, 0x0e, 0x61, 0x35, 0x57, 0xb9, 0x86, 0xc1, 0x1d, 0x9e] ++
   [0xe1, 0xf8, 0x98, 0x11, 0x69, 0xd9, 0x8e, 0x94, 0x9b, 0x1e, 0x87, 0xe9, 0xce, 0x55, 0x28, 0xdf] ++
   [0x8c, 0xa1, 0x89, 0x0d, 0xbf, 0xe6, 0x42, 0x68, 0x41, 0x99, 0x2d, 0x0f, 0xb0, 0x54, 0xbb, 0x16])

/-- The inverse of the AES substitution box. -/
def aesBoxInv : List Nat :=
  ([0x52, 0x09, 0x6a, 0xd5, 0x30, 0x36, 0xa5, 0x38, 0xbf, 0x40, 0xa3, 0x9e, 0x81, 0xf3, 0xd7, 0xfb] ++
   [0x7c, 0xe3, 0x39, 0x82, 0x9b, 0x2f, 0xff, 0x87, 0x34, 0x8e, 0x43, 0x44, 0xc4, 0xde, 0xe9, 0xcb] ++
   [0x54, 0x7b, 0x94, 0x32, 0xa6, 0xc2, 0x23, 0x3d, 0xee, 0x4c, 0x95, 0x0b, 0x42, 0xfa, 0xc3, 0x4e] ++
   [0x08, 0x2e, 0xa1, 0x66, 0x28, 0xd9, 0x24, 0xb2, 0x76, 0x5b, 0xa2, 0x49, 0x6d, 0x8b, 0xd1, 0x25] ++
   [0x72, 0xf8, 0xf6, 0x64, 0x86, 0x68, 0x98, 0x16, 0xd4, 0xa4, 0x5c, 0xcc, 0x5d, 0x65, 0xb6, 0x92] ++
   [0x6c, 0x70, 0x48, 0x50, 0xfd, 0xed, 0xb9, 0xda, 0x5e, 0x15, 0x46, 0x57, 0xa7, 0x8d, 0x9d, 0x84] ++
   [0x90, 0xd8, 0xab, 0x00, 0x8c, 0xbc, 0xd3, 0x0a, 0xf7, 0xe4, 0x58, 0x05, 0xb8, 0xb3, 0x45, 0x06] ++
   [0xd0, 0x2c, 0x1e, 0x8f, 0xca, 0x3f, 0x0f, 0x02, 0xc1, 0xaf, 0xbd, 0x03, 0x01, 0x13, 0x8a, 0x6b] ++
   [0x3a, 0x91, 0x11, 0x41, 0x4f, 0x67, 0xdc, 0xea, 0x97, 0xf2, 0xcf, 0xce, 0xf0, 0xb4, 0xe6, 0x73] ++
   [0x96, 0xac, 0x74, 0x22, 0xe7, 0xad, 0x35, 0x85, 0xe2, 0xf9, 0x37, 0xe8, 0x1c, 0x75, 0xdf, 0x6e] ++
   [0x47, 0xf1, 0x1a, 0x71, 0x1d, 0x29, 0xc5, 0x89, 0x6f, 0xb7, 0x62, 0x0e, 0xaa, 0x18, 0xbe, 0x1b] ++
   [0xfc, 0x56, 0x3e, 0x4b, 0xc6, 0xd2, 0x79, 0x20, 0x9a, 0xdb, 0xc0, 0xfe, 0x78, 0xcd, 0x5a, 0xf4] ++
   [0x1f, 0xdd, 0xa8, 0x33, 0x88, 0x07, 0xc7, 0x31, 0xb1, 0x12, 0x10, 0x59, 0x27, 0x80, 0xec, 0x5f] ++
   [0x60, 0x51, 0x7f, 0xa9, 0x19, 0xb5, 0x4a, 0x0d, 0x2d, 0xe5, 0x7a, 0x9f, 0x93, 0xc9, 0x9c, 0xef] ++
   [0xa0, 0xe0, 0x3b, 0x4d, 0xae, 0x2a, 0xf5, 0xb0, 0xc8, 0xeb, 0xbb, 0x3c, 0x83, 0x53, 0x99, 0x61] ++
   [0x17, 0x2b, 0x04, 0x7e, 0xba, 0x77, 0xd6, 0x26, 0xe1, 0x69, 0x14, 0x63, 0x55, 0x21, 0x0c, 0x7d])

/-! SHA-384 -/

def ror64 (x n : Nat) : Nat := (x / 2 ^ n + x % 2 ^ n * 2 ^ (64 - n)) % 2 ^ 64

def add64 (a b : Nat) : Nat := (a + b) % 2 ^ 64

def not64 (a : Nat) : Nat := 2 ^ 64 - 1 - a % 2 ^ 64

/-- A number spelt by bytes, most significant first. -/
def ofBytesBe (l : List Nat) : Nat := l.foldl (fun a b => a * 256 + b) 0

/-- The `n` bytes of `v`, most significant first. -/
def bytesBe (n v : Nat) : List Nat := ((List.range n).map fun i => v / 256 ^ i % 256).reverse

/-- The first sixteen words of a block. -/
def shaWords : Nat → List Nat → List Nat
  | 0, _ => []
  | n + 1, l => ofBytesBe (l.take 8) :: shaWords n (l.drop 8)

/-- One step of the message schedule, the latest word first. -/
def shaNext (w : List Nat) : Nat :=
  let a := nth w 14 0
  let b := nth w 1 0
  let s0 := (ror64 a 1 ^^^ ror64 a 8) ^^^ a / 2 ^ 7
  let s1 := (ror64 b 19 ^^^ ror64 b 61) ^^^ b / 2 ^ 6
  add64 (add64 s1 (nth w 6 0)) (add64 s0 (nth w 15 0))

/-- The schedule extended by `n` words, the latest word first. -/
def shaExtend : Nat → List Nat → List Nat
  | 0, w => w
  | n + 1, w => shaExtend n (shaNext w :: w)

/-- One round on the eight working words. -/
def shaRound (v : List Nat) (kw : Nat) : List Nat :=
  match v with
  | [a, b, c, d, e, f, g, h] =>
    let s1 := (ror64 e 14 ^^^ ror64 e 18) ^^^ ror64 e 41
    let ch := (e &&& f) ^^^ (not64 e &&& g)
    let t1 := add64 (add64 h s1) (add64 ch kw)
    let s0 := (ror64 a 28 ^^^ ror64 a 34) ^^^ ror64 a 39
    let mj := ((a &&& b) ^^^ (a &&& c)) ^^^ (b &&& c)
    [add64 t1 (add64 s0 mj), a, b, c, add64 d t1, e, f, g]
  | _ => v

/-- The state after one 128-byte block. -/
def shaBlock (h : List Nat) (blk : List Nat) : List Nat :=
  let w := (shaExtend 64 (shaWords 16 blk).reverse).reverse
  let v := (w.zip shaK).foldl (fun v p => shaRound v (add64 p.1 p.2)) h
  (h.zip v).map fun p => add64 p.1 p.2

/-- The state after `n` whole blocks. -/
def shaBlocks : Nat → List Nat → List Nat → List Nat
  | 0, h, _ => h
  | n + 1, h, m => shaBlocks n (shaBlock h (m.take 128)) (m.drop 128)

/-- The message padding for a message of `len` bytes whose tail not yet hashed is `t`. -/
def shaPad (len : Nat) (t : List Nat) : List Nat :=
  let z := (128 - (t.length + 17) % 128) % 128
  t ++ [0x80] ++ List.replicate z 0 ++ bytesBe 16 (8 * len)

/-- The 48-byte digest of a state. -/
def shaDigest (h : List Nat) : List Nat := ((h.map (bytesBe 8)).flatten).take 48

/-- SHA-384 of a message. -/
def sha384 (m : List Nat) : List Nat :=
  let p := shaPad m.length m
  shaDigest (shaBlocks (p.length / 128) shaInit p)

/-! AES-256 -/

/-- The product in GF(2^8) modulo `m`, over the low `n` bits of `b`. -/
def gfMulMod (m : Nat) : Nat → Nat → Nat → Nat
  | 0, _, _ => 0
  | n + 1, a, b =>
    let a2 := if 2 * a < 256 then 2 * a else (2 * a) ^^^ m
    (if b % 2 = 1 then a else 0) ^^^ gfMulMod m n a2 (b / 2)

/-- The product of R75, in GF(2^8) modulo 0x11D. -/
def gfMul (a b : Nat) : Nat := gfMulMod 0x11D 8 (a % 256) (b % 256)

def aesMul (a b : Nat) : Nat := gfMulMod 0x11B 8 a b

def xorList (a b : List Nat) : List Nat := (a.zip b).map fun p => p.1 ^^^ p.2

/-- Key expansion: `i` counts words done, the key words stand latest first. -/
def aesExpand : Nat → Nat → Nat → List (List Nat) → List (List Nat)
  | 0, _, _, w => w
  | n + 1, i, rc, w =>
    let t := nth w 0 []
    let t' :=
      if i % 8 = 0 then
        xorList ((t.drop 1 ++ t.take 1).map fun x => nth aesBox x 0) [rc, 0, 0, 0]
      else if i % 8 = 4 then t.map fun x => nth aesBox x 0
      else t
    let rc' := if i % 8 = 0 then aesMul rc 2 else rc
    aesExpand n (i + 1) rc' (xorList (nth w 7 []) t' :: w)

def chunks4 : Nat → List Nat → List (List Nat)
  | 0, _ => []
  | n + 1, l => l.take 4 :: chunks4 n (l.drop 4)

/-- The fifteen round keys of a 32-byte key, 16 bytes each. -/
def aesKeys (k : List Nat) : List (List Nat) :=
  let w := (aesExpand 52 8 1 (chunks4 8 k).reverse).reverse.flatten
  (List.range 15).map fun i => (w.drop (16 * i)).take 16

def aesShift (s : List Nat) : List Nat :=
  (List.range 16).map fun i => nth s ((i + 4 * (i % 4)) % 16) 0

def aesShiftInv (s : List Nat) : List Nat :=
  (List.range 16).map fun i => nth s ((i + 16 - 4 * (i % 4)) % 16) 0

def aesMixWith (a b c d : Nat) (s : List Nat) : List Nat :=
  (List.range 16).map fun i =>
    let q := i / 4 * 4
    let x (k : Nat) := nth s (q + (i + k) % 4) 0
    ((aesMul (x 0) a ^^^ aesMul (x 1) b) ^^^ aesMul (x 2) c) ^^^ aesMul (x 3) d

/-- AES-256 of one 16-byte block. -/
def aesEnc (key blk : List Nat) : List Nat :=
  let ks := aesKeys key
  let s := ((ks.drop 1).take 13).foldl
    (fun s k => xorList (aesMixWith 2 3 1 1 (aesShift (s.map fun x => nth aesBox x 0))) k)
    (xorList blk (nth ks 0 []))
  xorList (aesShift (s.map fun x => nth aesBox x 0)) (nth ks 14 [])

/-- The inverse of `aesEnc`. -/
def aesDec (key blk : List Nat) : List Nat :=
  let ks := (aesKeys key).reverse
  let s := ((ks.drop 1).take 13).foldl
    (fun s k => aesMixWith 14 11 13 9 (xorList ((aesShiftInv s).map fun x => nth aesBoxInv x 0) k))
    (xorList blk (nth ks 0 []))
  xorList ((aesShiftInv s).map fun x => nth aesBoxInv x 0) (nth ks 14 [])

/-- Multiply a 16-byte tweak by x, as IEEE 1619 orders its bytes. -/
def xtsDouble (t : List Nat) : List Nat :=
  let v := ofBytesBe t.reverse * 2
  let v' := if v < 2 ^ 128 then v else (v - 2 ^ 128) ^^^ 0x87
  (bytesBe 16 v').reverse

/-- The `n` blocks of one XTS data unit. -/
def xtsUnit (dec : Bool) (k1 : List Nat) : Nat → List Nat → List Nat → List Nat
  | 0, _, _ => []
  | n + 1, t, d =>
    let b := xorList (d.take 16) t
    xorList (if dec then aesDec k1 b else aesEnc k1 b) t ++ xtsUnit dec k1 n (xtsDouble t) (d.drop 16)

/-- AES-256-XTS over `n` data units of `u` bytes, the first numbered `dun` (R106). -/
def xtsUnits (dec : Bool) (k1 k2 : List Nat) (u : Nat) : Nat → Nat → List Nat → List Nat
  | 0, _, _ => []
  | n + 1, dun, d =>
    xtsUnit dec k1 (u / 16) (aesEnc k2 ((bytesBe 16 dun).reverse)) (d.take u) ++
      xtsUnits dec k1 k2 u n (dun + 1) (d.drop u)

/-! GF(2^128) and AES-256-GCM -/

/-- The GHASH product: numbers whose most significant bit is the coefficient of x^0. -/
def ghashMulAux : Nat → Nat → Nat → Nat
  | 0, _, _ => 0
  | n + 1, x, v =>
    let v' := if v % 2 = 1 then (v / 2) ^^^ (0xE1 * 2 ^ 120) else v / 2
    (if x.testBit n then v else 0) ^^^ ghashMulAux n x v'

def ghashMul (x y : Nat) : Nat := ghashMulAux 128 x y

/-- GHASH over `n` 16-byte blocks of `d`, the last padded with zeros. -/
def ghashBlocks (h : Nat) : Nat → Nat → List Nat → Nat
  | 0, y, _ => y
  | n + 1, y, d =>
    let b := d.take 16
    ghashBlocks h n (ghashMul (y ^^^ ofBytesBe (b ++ List.replicate (16 - b.length) 0)) h) (d.drop 16)

/-- The keystream of counter mode, `n` blocks from counter `c` under the 12-byte nonce `iv`. -/
def gcmStream (key iv : List Nat) : Nat → Nat → List Nat
  | 0, _ => []
  | n + 1, c => aesEnc key (iv ++ bytesBe 4 c) ++ gcmStream key iv n (c + 1)

/-- The AES-256-GCM tag of associated data and ciphertext. -/
def gcmTag (key iv aad ct : List Nat) : List Nat :=
  let h := ofBytesBe (aesEnc key (List.replicate 16 0))
  let y := ghashBlocks h (ceilDiv aad.length 16) 0 aad
  let y := ghashBlocks h (ceilDiv ct.length 16) y ct
  let y := ghashMul (y ^^^ (8 * aad.length * 2 ^ 64 + 8 * ct.length)) h
  xorList (bytesBe 16 y) (aesEnc key (iv ++ [0, 0, 0, 1]))

/-- Encrypt or decrypt by counter mode. -/
def gcmCrypt (key iv d : List Nat) : List Nat :=
  xorList d (gcmStream key iv (ceilDiv d.length 16) 2)

/-! GF(2^64) of R104 -/

/-- The product in GF(2^64) modulo x^64 + x^4 + x^3 + x + 1. -/
def gf64MulAux : Nat → Nat → Nat → Nat
  | 0, _, _ => 0
  | n + 1, a, b =>
    let a2 := if 2 * a < 2 ^ 64 then 2 * a else (2 * a - 2 ^ 64) ^^^ 0x1B
    (if b % 2 = 1 then a else 0) ^^^ gf64MulAux n a2 (b / 2)

def gf64Mul (a b : Nat) : Nat := gf64MulAux 64 a b

/-- β of R104, the smallest of the eight roots of x^8 + x^4 + x^3 + x^2 + 1 in GF(2^64). -/
def fpBeta : Nat := 0x033ce8beddc8a657

/-- φ of R104: a byte as an element of GF(2^64). -/
def fpPhiAux : Nat → Nat → Nat → Nat
  | 0, _, _ => 0
  | n + 1, b, p => (if b % 2 = 1 then p else 0) ^^^ fpPhiAux n (b / 2) (gf64Mul p fpBeta)

def fpPhi (b : Nat) : Nat := fpPhiAux 8 b 1

/-- The fingerprint of R104 of a run of bytes at evaluation point `z`. -/
def fprint (z : Nat) (d : List Nat) : Nat := d.foldl (fun f b => gf64Mul (f ^^^ fpPhi b) z) 0

/-! CRC -/

/-- The reflected CRC state `c` of polynomial `poly` after one byte. -/
def crcByte (poly c b : Nat) : Nat :=
  (List.range 8).foldl (fun c _ => if c % 2 = 1 then (c / 2) ^^^ poly else c / 2) (c ^^^ b)

/-- The CRC-32C state after bytes, with no initial or final inversion (R75). -/
def crc32cRun (c : Nat) (d : List Nat) : Nat := d.foldl (crcByte 0x82F63B78) c

/-- CRC-32C of a record: initial and final inversion. -/
def crc32c (d : List Nat) : Nat := crc32cRun 0xFFFFFFFF d ^^^ 0xFFFFFFFF

/-- The 16-bit guard of NVMe protection information (polynomial 0x8BB7, most significant bit first). -/
def crc16Dif (d : List Nat) : Nat :=
  d.foldl (fun c b => (List.range 8).foldl
    (fun c _ => if 2 * c < 65536 then 2 * c else (2 * c - 65536) ^^^ 0x8BB7) (c ^^^ (b * 256))) 0

/-- The 64-bit guard of NVMe protection information (reflected 0x9A6C9329AC4BC9B5, inverted in and out). -/
def crc64Nvme (d : List Nat) : Nat :=
  d.foldl (crcByte 0x9A6C9329AC4BC9B5) (2 ^ 64 - 1) ^^^ (2 ^ 64 - 1)

/-! ECDSA P-384 -/

def p384p : Nat := 2 ^ 384 - 2 ^ 128 - 2 ^ 96 + 2 ^ 32 - 1
def p384b : Nat := 0xb3312fa7e23ee7e4988e056be3f82d19181d9c6efe8141120314088f5013875ac656398d8a2ed19d2a85c8edd3ec2aef
def p384n : Nat := 0xffffffffffffffffffffffffffffffffffffffffffffffffc7634d81f4372ddf581a0db248b0a77aecec196accc52973
def p384gx : Nat := 0xaa87ca22be8b05378eb1c71ef320ad746e1d3b628ba79b9859f741e082542a385502f25dbf55296c3a545e3872760ab7
def p384gy : Nat := 0x3617de4a96262c6f5d9e98bf9292dc29f8f41dbd289a147ce9da3113b5f0b8c00a60b1ce1d7e819d7a431d7c90ea0e5f

/-- `b` to the power `e` modulo `m`, over the low `n` bytes of `e`. -/
def powMod (m : Nat) : Nat → Nat → Nat → Nat
  | 0, _, _ => 1 % m
  | n + 1, b, e => powMod m n b (e / 256) ^ 256 % m * (b ^ (e % 256)) % m

/-- The sum of two points of the curve y² = x³ − 3x + b in projective coordinates (X : Y : Z), the point (0 : 1 : 0) lying at infinity: the
addition law that holds for every pair of points of a curve of odd order. -/
def ecAdd (u v : Nat × Nat × Nat) : Nat × Nat × Nat :=
  let p := p384p
  let c := 3 * p384b % p
  let xx := u.1 * v.1 % p
  let yy := u.2.1 * v.2.1 % p
  let zz := u.2.2 * v.2.2 % p
  let xy := (u.1 * v.2.1 + v.1 * u.2.1) % p
  let xz := (u.1 * v.2.2 + v.1 * u.2.2) % p
  let yz := (u.2.1 * v.2.2 + v.2.1 * u.2.2) % p
  let t := (c * zz + (p - 3) * xz) % p
  let w := (c * xz + (p - 3) * xx + (p - 9) * zz) % p
  let q := (3 * xx + (p - 3) * zz) % p
  ((xy * (yy + p - t) + yz * (p - w)) % p, (q * w + (yy + t) * (yy + p - t)) % p, (yz * (yy + t) + xy * q) % p)

/-- `k` times a point, over the low `n` bits of `k`. -/
def ecMul : Nat → Nat → Nat × Nat × Nat → Nat × Nat × Nat
  | 0, _, _ => (0, 1, 0)
  | n + 1, k, q => ecAdd (if k % 2 = 1 then q else (0, 1, 0)) (ecMul n (k / 2) (ecAdd q q))

/-- ECDSA P-384 verification: a 97-byte uncompressed public key, a 96-byte signature, a 48-byte digest. -/
def ecdsaOk (pub sig dig : List Nat) : Bool :=
  let x := ofBytesBe ((pub.drop 1).take 48)
  let y := ofBytesBe ((pub.drop 49).take 48)
  let r := ofBytesBe (sig.take 48)
  let s := ofBytesBe ((sig.drop 48).take 48)
  let e := ofBytesBe dig % p384n
  let w := powMod p384n 48 (s % p384n) (p384n - 2)
  let u1 := e * w % p384n
  let u2 := r * w % p384n
  let sum := ecAdd (ecMul 384 u1 (p384gx, p384gy, 1)) (ecMul 384 u2 (x, y, 1))
  nth pub 0 0 == 4 && decide (x < p384p) && decide (y < p384p) &&
    decide (y * y % p384p = (x * x % p384p * x + (p384p - 3) * x + p384b) % p384p) &&
    decide (0 < r) && decide (r < p384n) && decide (0 < s) && decide (s < p384n) &&
    decide (sum.2.2 ≠ 0) && decide (sum.1 * powMod p384p 48 sum.2.2 (p384p - 2) % p384p % p384n = r)

end Sys2Proof.Machine
end

