-- ==== Sys2Proof/Machine/Registers.lean ====
section
/-! DEFINITION. The registers of the module, one descriptor per row of the spec's register maps and field tables:
address, instances, and for each field its bits, access code (R8), reset (R11) and reset value. The block of each table
and the rule of its field table stand above it. Below them, every field by name. -/

namespace Sys2Proof.Machine

/-- The access codes of R8. -/
inductive AccessCode where
  | ro | rw | wo | w1c | w1s | rc | rwl | otp
  deriving DecidableEq, Repr

/-- The resets that a field table can name (R11); `none` is the dash: no reset changes the field. -/
inductive Reset where
  | hearth | kindle | block | mgmt | strand | flr | none
  deriving DecidableEq, Repr

/-- One row of a field table. -/
structure FieldDesc where
  hi : Nat
  lo : Nat
  acc : AccessCode
  rst : Reset
  dflt : Nat
  deriving DecidableEq, Repr

/-- One register: the address of its first instance, the count and the stride of each index, and its fields. -/
structure RegDesc where
  base : Nat
  dims : List (Nat × Nat)
  fields : List FieldDesc
  deriving DecidableEq, Repr

/-- One field of one register: the register's address and the field's bits. -/
structure Fld where
  addr : Nat
  hi : Nat
  lo : Nat
  deriving DecidableEq, Repr

/-- The registers of TOP (16_hearth_reset_boot.md R405). -/
def regsTOP : List RegDesc :=
  [⟨0x0, [], [⟨31, 16, .ro, .none, 9366⟩, ⟨3, 0, .ro, .none, 1⟩]⟩,
   ⟨0x4, [], [⟨11, 8, .ro, .hearth, 0⟩, ⟨3, 3, .ro, .hearth, 0⟩, ⟨2, 2, .ro, .hearth, 0⟩, ⟨1, 1, .ro, .hearth, 0⟩, ⟨0, 0, .ro, .hearth, 0⟩]⟩,
   ⟨0x10, [], [⟨31, 31, .wo, .none, 0⟩, ⟨12, 8, .wo, .none, 0⟩, ⟨6, 0, .wo, .none, 0⟩]⟩,
   ⟨0x14, [], [⟨31, 31, .ro, .kindle, 0⟩, ⟨1, 0, .ro, .kindle, 0⟩]⟩,
   ⟨0x18, [], [⟨31, 16, .wo, .none, 0⟩, ⟨0, 0, .wo, .none, 0⟩]⟩,
   ⟨0x1c, [], [⟨31, 28, .ro, .kindle, 0⟩, ⟨17, 17, .ro, .kindle, 0⟩, ⟨16, 16, .ro, .kindle, 0⟩, ⟨15, 8, .ro, .kindle, 255⟩, ⟨7, 0, .ro, .kindle, 255⟩]⟩]

/-- The registers of HEARTH (16_hearth_reset_boot.md R405). -/
def regsHEARTH : List RegDesc :=
  [⟨0x10000, [], [⟨7, 7, .w1s, .kindle, 0⟩, ⟨6, 4, .rwl, .hearth, 3⟩, ⟨0, 0, .rwl, .hearth, 1⟩]⟩,
   ⟨0x10004, [], [⟨31, 28, .ro, .hearth, 0⟩, ⟨10, 8, .ro, .hearth, 0⟩, ⟨3, 3, .ro, .hearth, 0⟩, ⟨2, 2, .ro, .hearth, 0⟩, ⟨1, 1, .ro, .hearth, 0⟩, ⟨0, 0, .ro, .hearth, 0⟩]⟩,
   ⟨0x10008, [], [⟨5, 5, .w1c, .hearth, 0⟩, ⟨4, 4, .w1c, .hearth, 0⟩, ⟨3, 3, .w1c, .hearth, 0⟩, ⟨2, 2, .w1c, .hearth, 0⟩, ⟨1, 1, .w1c, .hearth, 0⟩, ⟨0, 0, .w1c, .hearth, 0⟩]⟩,
   ⟨0x1000c, [], [⟨31, 16, .wo, .none, 0⟩, ⟨2, 0, .wo, .none, 0⟩]⟩,
   ⟨0x10010, [], [⟨7, 0, .ro, .kindle, 0⟩]⟩,
   ⟨0x10014, [], [⟨31, 24, .ro, .hearth, 0⟩, ⟨16, 16, .ro, .hearth, 0⟩, ⟨11, 8, .ro, .hearth, 0⟩, ⟨3, 0, .ro, .hearth, 0⟩]⟩,
   ⟨0x10018, [], [⟨15, 8, .rwl, .hearth, 5⟩, ⟨7, 0, .rwl, .hearth, 10⟩]⟩,
   ⟨0x1001c, [], [⟨13, 8, .ro, .hearth, 0⟩, ⟨5, 0, .ro, .hearth, 0⟩]⟩,
   ⟨0x10020, [], [⟨31, 31, .rwl, .hearth, 1⟩, ⟨26, 24, .ro, .hearth, 0⟩, ⟨23, 16, .rwl, .hearth, 64⟩, ⟨15, 8, .rwl, .hearth, 16⟩, ⟨7, 0, .rwl, .hearth, 16⟩]⟩,
   ⟨0x10024, [], [⟨7, 0, .wo, .none, 0⟩]⟩,
   ⟨0x10028, [], [⟨7, 0, .rwl, .hearth, 110⟩]⟩,
   ⟨0x1002c, [], [⟨31, 0, .ro, .hearth, 0⟩]⟩,
   ⟨0x10030, [], [⟨31, 0, .ro, .hearth, 0⟩]⟩,
   ⟨0x10034, [], [⟨31, 0, .rw, .hearth, 0⟩]⟩]

/-- The registers of OTP (16_hearth_reset_boot.md R405). -/
def regsOTP : List RegDesc :=
  [⟨0x20000, [], [⟨1, 1, .w1s, .kindle, 0⟩, ⟨0, 0, .rwl, .kindle, 0⟩]⟩,
   ⟨0x20004, [], [⟨30, 28, .otp, .none, 0⟩, ⟨25, 24, .otp, .none, 0⟩, ⟨22, 16, .otp, .none, 0⟩, ⟨11, 8, .otp, .none, 0⟩, ⟨7, 4, .otp, .none, 0⟩, ⟨1, 0, .otp, .none, 0⟩]⟩,
   ⟨0x20008, [], [⟨1, 0, .rw, .kindle, 0⟩]⟩,
   ⟨0x2000c, [], [⟨9, 0, .rw, .kindle, 0⟩]⟩,
   ⟨0x20010, [], [⟨31, 0, .rw, .kindle, 0⟩]⟩,
   ⟨0x20014, [], [⟨1, 0, .wo, .none, 0⟩]⟩,
   ⟨0x20018, [], [⟨31, 31, .ro, .kindle, 0⟩, ⟨9, 9, .w1c, .kindle, 0⟩, ⟨8, 8, .w1c, .kindle, 0⟩, ⟨2, 0, .ro, .kindle, 0⟩]⟩,
   ⟨0x21000, [(1024, 0x4)], [⟨31, 0, .otp, .none, 0⟩]⟩]

/-- The registers of FEED (17_feed_protection.md R423). -/
def regsFEED : List RegDesc :=
  [⟨0x30000, [], [⟨7, 7, .w1s, .kindle, 0⟩, ⟨2, 1, .rwl, .hearth, 0⟩, ⟨0, 0, .rwl, .hearth, 0⟩]⟩,
   ⟨0x30004, [], [⟨10, 0, .rwl, .hearth, 0⟩]⟩,
   ⟨0x30008, [], [⟨25, 24, .rwl, .hearth, 0⟩, ⟨10, 0, .rwl, .hearth, 0⟩]⟩,
   ⟨0x3000c, [], [⟨9, 0, .rwl, .hearth, 0⟩]⟩,
   ⟨0x30010, [], [⟨11, 8, .rwl, .hearth, 0⟩, ⟨7, 0, .rwl, .hearth, 0⟩]⟩,
   ⟨0x30014, [], [⟨23, 16, .rwl, .hearth, 0⟩, ⟨9, 0, .rwl, .hearth, 0⟩]⟩,
   ⟨0x30018, [], [⟨11, 0, .rwl, .hearth, 0⟩]⟩,
   ⟨0x3001c, [], [⟨23, 16, .rwl, .hearth, 0⟩, ⟨15, 8, .rwl, .hearth, 0⟩, ⟨7, 0, .rwl, .hearth, 0⟩]⟩,
   ⟨0x30020, [], [⟨31, 16, .rwl, .hearth, 0⟩, ⟨15, 0, .rwl, .hearth, 0⟩]⟩,
   ⟨0x30024, [], [⟨31, 16, .rwl, .hearth, 0⟩, ⟨15, 0, .rwl, .hearth, 0⟩]⟩,
   ⟨0x30028, [], [⟨7, 0, .rw, .hearth, 0⟩]⟩,
   ⟨0x30040, [], [⟨31, 16, .wo, .none, 0⟩, ⟨2, 0, .wo, .none, 0⟩]⟩,
   ⟨0x30044, [], [⟨7, 0, .ro, .kindle, 0⟩]⟩,
   ⟨0x30048, [], [⟨31, 28, .ro, .hearth, 0⟩, ⟨15, 12, .ro, .hearth, 0⟩, ⟨8, 8, .ro, .hearth, 0⟩, ⟨7, 7, .ro, .hearth, 0⟩, ⟨5, 5, .ro, .hearth, 0⟩, ⟨4, 4, .ro, .hearth, 0⟩, ⟨3, 3, .ro, .hearth, 0⟩]⟩,
   ⟨0x3004c, [], [⟨3, 3, .w1c, .hearth, 0⟩, ⟨2, 2, .w1c, .hearth, 0⟩, ⟨1, 1, .w1c, .hearth, 0⟩, ⟨0, 0, .w1c, .hearth, 0⟩]⟩,
   ⟨0x30050, [], [⟨15, 0, .ro, .hearth, 0⟩]⟩,
   ⟨0x30054, [], [⟨13, 0, .ro, .hearth, 0⟩]⟩,
   ⟨0x30058, [], [⟨13, 0, .ro, .hearth, 0⟩]⟩,
   ⟨0x3005c, [], [⟨25, 16, .ro, .hearth, 0⟩, ⟨9, 0, .ro, .hearth, 0⟩]⟩,
   ⟨0x30060, [], [⟨31, 30, .ro, .hearth, 0⟩, ⟨23, 0, .ro, .hearth, 0⟩]⟩,
   ⟨0x30064, [], [⟨31, 31, .ro, .hearth, 0⟩, ⟨3, 0, .ro, .hearth, 0⟩]⟩,
   ⟨0x30068, [], [⟨15, 8, .ro, .hearth, 0⟩, ⟨7, 0, .rc, .hearth, 0⟩]⟩]

/-- The registers of BAY (18_bay_power.md R443). -/
def regsBAY : List RegDesc :=
  [⟨0x40000, [(24, 0x800)], [⟨31, 31, .rwl, .hearth, 0⟩, ⟨23, 16, .rwl, .hearth, 0⟩, ⟨15, 15, .rwl, .hearth, 0⟩, ⟨14, 12, .rwl, .hearth, 0⟩, ⟨9, 0, .rwl, .hearth, 0⟩]⟩,
   ⟨0x40004, [(24, 0x800)], [⟨31, 28, .rwl, .hearth, 0⟩, ⟨25, 16, .rwl, .hearth, 0⟩, ⟨9, 0, .rwl, .hearth, 0⟩]⟩,
   ⟨0x40010, [(24, 0x800)], [⟨31, 16, .wo, .none, 0⟩, ⟨1, 0, .wo, .none, 0⟩]⟩,
   ⟨0x40014, [(24, 0x800)], [⟨7, 0, .ro, .kindle, 0⟩]⟩,
   ⟨0x40018, [(24, 0x800)], [⟨31, 28, .ro, .hearth, 0⟩, ⟨15, 12, .ro, .hearth, 0⟩, ⟨5, 5, .ro, .hearth, 0⟩, ⟨4, 4, .ro, .hearth, 0⟩, ⟨3, 3, .ro, .hearth, 0⟩, ⟨2, 2, .ro, .hearth, 0⟩, ⟨1, 1, .ro, .hearth, 0⟩, ⟨0, 0, .ro, .hearth, 0⟩]⟩,
   ⟨0x4001c, [(24, 0x800)], [⟨3, 3, .w1c, .hearth, 0⟩, ⟨2, 2, .w1c, .hearth, 0⟩, ⟨1, 1, .w1c, .hearth, 0⟩, ⟨0, 0, .w1c, .hearth, 0⟩]⟩,
   ⟨0x40020, [(24, 0x800)], [⟨15, 0, .ro, .hearth, 0⟩]⟩,
   ⟨0x40024, [(24, 0x800)], [⟨13, 0, .ro, .hearth, 0⟩]⟩,
   ⟨0x40028, [(24, 0x800)], [⟨27, 16, .ro, .hearth, 0⟩, ⟨9, 0, .ro, .hearth, 0⟩]⟩,
   ⟨0x4002c, [(24, 0x800)], [⟨25, 16, .ro, .hearth, 0⟩, ⟨9, 0, .ro, .hearth, 0⟩]⟩,
   ⟨0x40030, [(24, 0x800)], [⟨15, 8, .ro, .hearth, 0⟩, ⟨7, 0, .rc, .hearth, 0⟩]⟩,
   ⟨0x40034, [(24, 0x800)], [⟨16, 0, .ro, .hearth, 0⟩]⟩,
   ⟨0x4c000, [], [⟨7, 7, .w1s, .kindle, 0⟩, ⟨0, 0, .rw, .hearth, 0⟩]⟩,
   ⟨0x4c004, [], [⟨12, 0, .rwl, .hearth, 2000⟩]⟩,
   ⟨0x4c008, [], [⟨15, 8, .rwl, .hearth, 125⟩, ⟨7, 0, .rwl, .hearth, 85⟩]⟩,
   ⟨0x4c00c, [], [⟨31, 16, .rwl, .hearth, 0⟩, ⟨15, 0, .rwl, .hearth, 0⟩]⟩,
   ⟨0x4c010, [], [⟨31, 16, .rwl, .hearth, 0⟩, ⟨15, 0, .rwl, .hearth, 0⟩]⟩,
   ⟨0x4c014, [], [⟨31, 16, .rwl, .hearth, 0⟩, ⟨15, 0, .rwl, .hearth, 0⟩]⟩,
   ⟨0x4c018, [], [⟨31, 31, .rwl, .hearth, 1⟩, ⟨27, 16, .rwl, .hearth, 500⟩, ⟨15, 0, .rwl, .hearth, 0⟩]⟩,
   ⟨0x4c01c, [], [⟨20, 16, .ro, .hearth, 0⟩, ⟨9, 0, .ro, .hearth, 0⟩]⟩,
   ⟨0x4c020, [], [⟨11, 0, .ro, .hearth, 0⟩]⟩,
   ⟨0x4c024, [], [⟨23, 0, .ro, .hearth, 0⟩]⟩,
   ⟨0x4c028, [], [⟨23, 0, .ro, .hearth, 0⟩]⟩]

/-- The registers of DAMP (19_damper.md R462). -/
def regsDAMP : List RegDesc :=
  [⟨0x50000, [], [⟨1, 1, .w1s, .kindle, 0⟩, ⟨0, 0, .rwl, .kindle, 1⟩]⟩,
   ⟨0x50004, [], [⟨3, 3, .ro, .block, 0⟩, ⟨2, 2, .ro, .block, 0⟩, ⟨1, 1, .ro, .block, 0⟩, ⟨0, 0, .ro, .block, 0⟩]⟩,
   ⟨0x50008, [], [⟨10, 10, .w1c, .block, 0⟩, ⟨9, 9, .w1c, .block, 0⟩, ⟨6, 6, .w1c, .block, 0⟩, ⟨5, 5, .w1c, .block, 0⟩, ⟨4, 4, .w1c, .block, 0⟩, ⟨3, 3, .w1c, .block, 0⟩, ⟨2, 2, .w1c, .block, 0⟩, ⟨1, 1, .w1c, .block, 0⟩]⟩,
   ⟨0x5000c, [], [⟨31, 24, .rw, .kindle, 10⟩, ⟨23, 16, .rw, .kindle, 20⟩, ⟨9, 0, .rw, .kindle, 800⟩]⟩,
   ⟨0x50010, [], [⟨19, 0, .rw, .kindle, 1048575⟩]⟩,
   ⟨0x50014, [], [⟨19, 0, .rw, .kindle, 1000⟩]⟩,
   ⟨0x50018, [], [⟨11, 8, .rw, .kindle, 2⟩, ⟨5, 0, .rw, .kindle, 15⟩]⟩,
   ⟨0x5001c, [], [⟨11, 8, .rw, .kindle, 1⟩, ⟨7, 4, .rw, .kindle, 6⟩, ⟨3, 0, .rw, .kindle, 8⟩]⟩,
   ⟨0x50020, [(6, 0x4)], [⟨19, 0, .rw, .kindle, 0⟩]⟩,
   ⟨0x50040, [(6, 0x4)], [⟨20, 0, .ro, .kindle, 0⟩]⟩,
   ⟨0x50060, [(6, 0x4)], [⟨31, 12, .ro, .kindle, 0⟩, ⟨11, 0, .ro, .kindle, 0⟩]⟩,
   ⟨0x50080, [], [⟨23, 0, .ro, .kindle, 0⟩]⟩,
   ⟨0x50084, [], [⟨23, 0, .ro, .kindle, 0⟩]⟩,
   ⟨0x50088, [], [⟨23, 0, .ro, .kindle, 0⟩]⟩,
   ⟨0x5008c, [], [⟨23, 0, .ro, .kindle, 0⟩]⟩,
   ⟨0x50094, [], [⟨5, 4, .ro, .kindle, 0⟩, ⟨1, 0, .rw, .kindle, 0⟩]⟩,
   ⟨0x50098, [], [⟨7, 0, .rw, .kindle, 118⟩]⟩,
   ⟨0x5009c, [], [⟨23, 0, .rw, .kindle, 0⟩]⟩,
   ⟨0x500a0, [], [⟨22, 16, .rw, .kindle, 90⟩, ⟨9, 0, .rw, .kindle, 80⟩]⟩,
   ⟨0x500a4, [], [⟨31, 16, .rw, .kindle, 2000⟩, ⟨15, 0, .rw, .kindle, 500⟩]⟩,
   ⟨0x500a8, [], [⟨2, 0, .rw, .kindle, 0⟩]⟩,
   ⟨0x500b0, [], [⟨31, 28, .wo, .none, 0⟩, ⟨15, 0, .wo, .none, 0⟩]⟩,
   ⟨0x500b4, [], [⟨31, 28, .ro, .kindle, 0⟩, ⟨19, 16, .ro, .kindle, 0⟩, ⟨15, 8, .ro, .kindle, 0⟩, ⟨3, 0, .ro, .kindle, 0⟩]⟩,
   ⟨0x500b8, [], [⟨31, 0, .ro, .kindle, 0⟩]⟩,
   ⟨0x50100, [(14, 0x4)], [⟨31, 0, .rc, .kindle, 0⟩]⟩,
   ⟨0x50140, [], [⟨31, 0, .ro, .block, 0⟩]⟩,
   ⟨0x50144, [], [⟨31, 0, .ro, .block, 0⟩]⟩,
   ⟨0x50148, [], [⟨31, 0, .ro, .block, 0⟩]⟩,
   ⟨0x5014c, [], [⟨31, 0, .ro, .block, 0⟩]⟩,
   ⟨0x50150, [], [⟨31, 0, .ro, .block, 0⟩]⟩,
   ⟨0x50154, [], [⟨31, 0, .ro, .block, 0⟩]⟩,
   ⟨0x50158, [], [⟨31, 0, .ro, .block, 0⟩]⟩,
   ⟨0x5015c, [], [⟨31, 0, .ro, .block, 0⟩]⟩]

/-- The registers of SENSE (19_damper.md R462). -/
def regsSENSE : List RegDesc :=
  [⟨0x60000, [], [⟨0, 0, .w1s, .kindle, 0⟩]⟩,
   ⟨0x60004, [], [⟨0, 0, .w1c, .block, 0⟩]⟩,
   ⟨0x60008, [], [⟨27, 24, .ro, .block, 0⟩, ⟨16, 16, .ro, .block, 0⟩, ⟨10, 0, .ro, .block, 0⟩]⟩,
   ⟨0x60040, [(16, 0x4)], [⟨16, 16, .ro, .block, 0⟩, ⟨10, 0, .ro, .block, 0⟩]⟩,
   ⟨0x60080, [(8, 0x4)], [⟨19, 0, .ro, .block, 0⟩]⟩,
   ⟨0x600a0, [], [⟨19, 0, .ro, .block, 0⟩]⟩]

/-- The registers of EVT (21_events_and_counters.md R499). -/
def regsEVT : List RegDesc :=
  [⟨0x70000, [], [⟨0, 0, .w1s, .kindle, 0⟩]⟩,
   ⟨0x70008, [], [⟨8, 0, .wo, .none, 0⟩]⟩,
   ⟨0x7000c, [], [⟨31, 0, .rc, .kindle, 0⟩]⟩,
   ⟨0x70010, [], [⟨0, 0, .ro, .kindle, 0⟩]⟩,
   ⟨0x70040, [(16, 0x4)], [⟨31, 0, .w1c, .kindle, 0⟩]⟩,
   ⟨0x70080, [(16, 0x4)], [⟨31, 0, .rw, .kindle, 4294967295⟩]⟩,
   ⟨0x700c0, [(16, 0x4)], [⟨31, 0, .w1c, .kindle, 0⟩]⟩,
   ⟨0x71000, [(512, 0x4)], [⟨31, 31, .rwl, .kindle, 1⟩, ⟨30, 30, .rwl, .kindle, 0⟩, ⟨29, 29, .rwl, .kindle, 0⟩, ⟨28, 28, .rwl, .kindle, 0⟩, ⟨21, 16, .rwl, .kindle, 0⟩, ⟨9, 0, .rwl, .kindle, 0⟩]⟩,
   ⟨0x70200, [], [⟨31, 0, .ro, .kindle, 0⟩]⟩,
   ⟨0x70204, [], [⟨31, 0, .ro, .kindle, 0⟩]⟩]

/-- The registers of PMON (21_events_and_counters.md R500). -/
def regsPMON : List RegDesc :=
  [⟨0x80000, [], [⟨1, 1, .w1s, .kindle, 0⟩, ⟨0, 0, .rw, .block, 0⟩]⟩,
   ⟨0x80004, [], [⟨3, 3, .w1c, .block, 0⟩, ⟨2, 2, .w1c, .block, 0⟩, ⟨1, 1, .w1c, .block, 0⟩, ⟨0, 0, .w1c, .block, 0⟩]⟩,
   ⟨0x80008, [], [⟨14, 0, .rwl, .kindle, 0⟩]⟩,
   ⟨0x8000c, [], [⟨15, 0, .rw, .kindle, 1000⟩]⟩,
   ⟨0x80010, [], [⟨31, 0, .ro, .kindle, 0⟩]⟩,
   ⟨0x80014, [], [⟨31, 0, .ro, .kindle, 0⟩]⟩,
   ⟨0x80018, [], [⟨0, 0, .rw, .kindle, 0⟩]⟩,
   ⟨0x8001c, [], [⟨4, 0, .ro, .kindle, 0⟩]⟩,
   ⟨0x80020, [], [⟨31, 0, .rc, .block, 0⟩]⟩,
   ⟨0x80100, [], [⟨31, 0, .rw, .block, 0⟩]⟩,
   ⟨0x80104, [], [⟨31, 0, .w1c, .block, 0⟩]⟩,
   ⟨0x80200, [(32, 0x4)], [⟨24, 16, .rw, .block, 0⟩, ⟨8, 0, .rw, .block, 0⟩]⟩,
   ⟨0x80400, [(32, 0x8)], [⟨31, 0, .rw, .block, 0⟩]⟩,
   ⟨0x80404, [(32, 0x8)], [⟨15, 0, .rw, .block, 0⟩]⟩,
   ⟨0x81000, [(64, 0x100)], [⟨17, 9, .rw, .block, 0⟩, ⟨8, 0, .rw, .block, 1⟩]⟩,
   ⟨0x81004, [(64, 0x100)], [⟨8, 0, .w1c, .block, 0⟩]⟩,
   ⟨0x8100c, [(64, 0x100), (8, 0x4)], [⟨23, 16, .rw, .block, 0⟩, ⟨8, 0, .rw, .block, 0⟩]⟩,
   ⟨0x81040, [(64, 0x100)], [⟨31, 0, .rw, .block, 0⟩]⟩,
   ⟨0x81044, [(64, 0x100)], [⟨15, 0, .rw, .block, 0⟩]⟩,
   ⟨0x81048, [(64, 0x100), (8, 0x8)], [⟨31, 0, .rw, .block, 0⟩]⟩,
   ⟨0x8104c, [(64, 0x100), (8, 0x8)], [⟨15, 0, .rw, .block, 0⟩]⟩,
   ⟨0x81090, [(64, 0x100)], [⟨9, 0, .ro, .block, 0⟩]⟩,
   ⟨0x81094, [(64, 0x100)], [⟨9, 0, .rw, .block, 0⟩]⟩]

/-- The registers of MGMT (20_management.md R478). -/
def regsMGMT : List RegDesc :=
  [⟨0x90000, [], [⟨0, 0, .w1s, .kindle, 0⟩]⟩,
   ⟨0x90004, [], [⟨4, 4, .w1c, .kindle, 0⟩, ⟨3, 3, .w1c, .kindle, 0⟩, ⟨2, 2, .w1c, .kindle, 0⟩, ⟨1, 1, .w1c, .kindle, 0⟩, ⟨0, 0, .w1c, .kindle, 0⟩]⟩,
   ⟨0x90010, [], [⟨8, 0, .rw, .kindle, 0⟩]⟩,
   ⟨0x90014, [], [⟨8, 0, .rw, .kindle, 0⟩]⟩,
   ⟨0x90018, [], [⟨8, 0, .rw, .kindle, 0⟩]⟩,
   ⟨0x9001c, [], [⟨8, 0, .rw, .kindle, 0⟩]⟩,
   ⟨0x90020, [], [⟨21, 16, .rwl, .kindle, 4⟩, ⟨9, 0, .rwl, .kindle, 1001⟩]⟩,
   ⟨0x90030, [], [⟨31, 0, .ro, .none, 0⟩]⟩,
   ⟨0x90034, [], [⟨31, 0, .ro, .none, 0⟩]⟩,
   ⟨0x90038, [], [⟨0, 0, .wo, .none, 0⟩]⟩,
   ⟨0x9003c, [], [⟨31, 0, .rc, .kindle, 0⟩]⟩,
   ⟨0x90040, [(9, 0x4)], [⟨31, 0, .rw, .mgmt, 0⟩]⟩,
   ⟨0x90080, [], [⟨8, 8, .rw, .kindle, 0⟩, ⟨6, 0, .rwl, .kindle, 29⟩]⟩,
   ⟨0x90084, [], [⟨2, 0, .rw, .kindle, 6⟩]⟩,
   ⟨0x90088, [], [⟨31, 0, .rc, .kindle, 0⟩]⟩,
   ⟨0x90100, [(6, 0x4)], [⟨7, 0, .rw, .kindle, 0⟩]⟩,
   ⟨0x90120, [(6, 0x4)], [⟨15, 0, .ro, .kindle, 0⟩]⟩,
   ⟨0x90140, [], [⟨31, 16, .rw, .kindle, 1000⟩, ⟨7, 0, .rw, .kindle, 20⟩]⟩,
   ⟨0x90160, [(8, 0x4)], [⟨3, 0, .rw, .kindle, 0⟩, ⟨7, 4, .rw, .kindle, 0⟩, ⟨11, 8, .rw, .kindle, 0⟩, ⟨15, 12, .rw, .kindle, 0⟩, ⟨19, 16, .rw, .kindle, 0⟩, ⟨23, 20, .rw, .kindle, 0⟩, ⟨27, 24, .rw, .kindle, 0⟩, ⟨31, 28, .rw, .kindle, 0⟩]⟩,
   ⟨0x90180, [], [⟨6, 0, .rw, .kindle, 0⟩]⟩,
   ⟨0x90184, [], [⟨1, 1, .ro, .kindle, 0⟩, ⟨0, 0, .rw, .kindle, 1⟩]⟩]

/-- The registers of CLK (22_clock_domains.md R512). -/
def regsCLK : List RegDesc :=
  [⟨0xa0000, [], [⟨0, 0, .w1s, .kindle, 0⟩]⟩,
   ⟨0xa0004, [], [⟨13, 0, .ro, .kindle, 0⟩]⟩,
   ⟨0xa0008, [], [⟨7, 0, .ro, .kindle, 0⟩]⟩,
   ⟨0xa000c, [], [⟨4, 4, .w1c, .kindle, 0⟩, ⟨3, 3, .w1c, .kindle, 0⟩, ⟨2, 2, .w1c, .kindle, 0⟩, ⟨1, 1, .w1c, .kindle, 0⟩, ⟨0, 0, .w1c, .kindle, 0⟩]⟩,
   ⟨0xa0010, [], [⟨13, 0, .rc, .kindle, 0⟩]⟩,
   ⟨0xa0014, [], [⟨31, 31, .rc, .kindle, 0⟩, ⟨30, 28, .rc, .kindle, 0⟩, ⟨27, 24, .rc, .kindle, 0⟩, ⟨23, 0, .rc, .kindle, 0⟩]⟩,
   ⟨0xa0018, [], [⟨31, 0, .rc, .kindle, 0⟩]⟩,
   ⟨0xa001c, [], [⟨31, 0, .rc, .kindle, 0⟩]⟩,
   ⟨0xa0020, [], [⟨4, 4, .ro, .kindle, 0⟩, ⟨3, 3, .ro, .kindle, 0⟩, ⟨2, 2, .ro, .kindle, 0⟩, ⟨1, 1, .ro, .kindle, 0⟩, ⟨0, 0, .ro, .kindle, 0⟩]⟩]

/-- The registers of NETP (09_network_ports.md R229, 09_network_ports.md R228). -/
def regsNETP : List RegDesc :=
  [⟨0x100000, [(32, 0x1000)], [⟨6, 5, .rw, .block, 0⟩, ⟨4, 4, .rw, .block, 0⟩, ⟨3, 2, .rw, .block, 0⟩, ⟨0, 0, .rw, .kindle, 0⟩]⟩,
   ⟨0x100004, [(32, 0x1000)], [⟨8, 8, .ro, .block, 0⟩, ⟨7, 7, .ro, .block, 0⟩, ⟨6, 6, .ro, .block, 0⟩, ⟨5, 5, .ro, .block, 0⟩, ⟨3, 1, .ro, .block, 0⟩, ⟨0, 0, .ro, .block, 0⟩]⟩,
   ⟨0x100008, [(32, 0x1000)], [⟨4, 4, .w1c, .block, 0⟩, ⟨3, 3, .w1c, .block, 0⟩, ⟨2, 2, .w1c, .block, 0⟩, ⟨1, 1, .w1c, .block, 0⟩, ⟨0, 0, .w1c, .block, 0⟩]⟩,
   ⟨0x10000c, [(32, 0x1000)], [⟨25, 16, .rw, .block, 100⟩, ⟨7, 0, .rw, .block, 10⟩]⟩,
   ⟨0x100010, [(32, 0x1000)], [⟨13, 0, .rw, .block, 9216⟩]⟩,
   ⟨0x100014, [(32, 0x1000)], [⟨31, 16, .rw, .block, 65535⟩, ⟨15, 8, .rw, .block, 100⟩, ⟨7, 0, .rw, .block, 255⟩]⟩,
   ⟨0x100018, [(32, 0x1000)], [⟨31, 31, .rw, .block, 0⟩, ⟨15, 0, .rw, .block, 1000⟩]⟩,
   ⟨0x100020, [(32, 0x1000)], [⟨31, 0, .rwl, .kindle, 0⟩]⟩,
   ⟨0x100024, [(32, 0x1000)], [⟨15, 0, .rwl, .kindle, 0⟩]⟩,
   ⟨0x100c00, [(8, 0x4000)], [⟨3, 0, .rw, .kindle, 0⟩]⟩,
   ⟨0x100c04, [(8, 0x4000)], [⟨1, 1, .ro, .block, 0⟩, ⟨0, 0, .w1s, .kindle, 0⟩]⟩,
   ⟨0x100c40, [(8, 0x4000), (4, 0x4)], [⟨25, 16, .ro, .block, 0⟩, ⟨2, 2, .rw, .block, 0⟩, ⟨1, 1, .rw, .block, 0⟩, ⟨0, 0, .rw, .block, 0⟩]⟩,
   ⟨0x100100, [(32, 0x1000)], [⟨31, 0, .ro, .block, 0⟩]⟩,
   ⟨0x100104, [(32, 0x1000)], [⟨31, 0, .ro, .block, 0⟩]⟩,
   ⟨0x100108, [(32, 0x1000)], [⟨31, 0, .ro, .block, 0⟩]⟩,
   ⟨0x10010c, [(32, 0x1000)], [⟨31, 0, .ro, .block, 0⟩]⟩,
   ⟨0x100110, [(32, 0x1000)], [⟨31, 0, .ro, .block, 0⟩]⟩,
   ⟨0x100114, [(32, 0x1000)], [⟨31, 0, .ro, .block, 0⟩]⟩,
   ⟨0x100118, [(32, 0x1000)], [⟨31, 0, .ro, .block, 0⟩]⟩,
   ⟨0x10011c, [(32, 0x1000)], [⟨31, 0, .ro, .block, 0⟩]⟩,
   ⟨0x100120, [(32, 0x1000)], [⟨31, 0, .ro, .block, 0⟩]⟩,
   ⟨0x100124, [(32, 0x1000)], [⟨31, 0, .ro, .block, 0⟩]⟩,
   ⟨0x100128, [(32, 0x1000)], [⟨31, 0, .ro, .block, 0⟩]⟩,
   ⟨0x10012c, [(32, 0x1000)], [⟨31, 0, .ro, .block, 0⟩]⟩,
   ⟨0x100130, [(32, 0x1000)], [⟨31, 0, .ro, .block, 0⟩]⟩,
   ⟨0x100134, [(32, 0x1000)], [⟨31, 0, .ro, .block, 0⟩]⟩,
   ⟨0x100138, [(32, 0x1000)], [⟨31, 0, .ro, .block, 0⟩]⟩,
   ⟨0x10013c, [(32, 0x1000)], [⟨31, 0, .ro, .block, 0⟩]⟩,
   ⟨0x100140, [(32, 0x1000)], [⟨31, 0, .ro, .block, 0⟩]⟩,
   ⟨0x100144, [(32, 0x1000)], [⟨31, 0, .ro, .block, 0⟩]⟩,
   ⟨0x100148, [(32, 0x1000)], [⟨31, 0, .ro, .block, 0⟩]⟩,
   ⟨0x10014c, [(32, 0x1000)], [⟨31, 0, .ro, .block, 0⟩]⟩,
   ⟨0x100150, [(32, 0x1000)], [⟨31, 0, .ro, .block, 0⟩]⟩,
   ⟨0x100154, [(32, 0x1000)], [⟨31, 0, .ro, .block, 0⟩]⟩,
   ⟨0x100158, [(32, 0x1000)], [⟨31, 0, .ro, .block, 0⟩]⟩,
   ⟨0x10015c, [(32, 0x1000)], [⟨31, 0, .ro, .block, 0⟩]⟩,
   ⟨0x100160, [(32, 0x1000)], [⟨31, 0, .ro, .block, 0⟩]⟩,
   ⟨0x100164, [(32, 0x1000)], [⟨31, 0, .ro, .block, 0⟩]⟩,
   ⟨0x100168, [(32, 0x1000)], [⟨31, 0, .ro, .block, 0⟩]⟩,
   ⟨0x10016c, [(32, 0x1000)], [⟨31, 0, .ro, .block, 0⟩]⟩] ++
  [⟨0x100170, [(32, 0x1000)], [⟨31, 0, .ro, .block, 0⟩]⟩,
   ⟨0x100174, [(32, 0x1000)], [⟨31, 0, .ro, .block, 0⟩]⟩,
   ⟨0x100178, [(32, 0x1000)], [⟨31, 0, .ro, .block, 0⟩]⟩,
   ⟨0x10017c, [(32, 0x1000)], [⟨31, 0, .ro, .block, 0⟩]⟩,
   ⟨0x100180, [(32, 0x1000), (8, 0x8)], [⟨31, 0, .ro, .block, 0⟩]⟩,
   ⟨0x100184, [(32, 0x1000), (8, 0x8)], [⟨31, 0, .ro, .block, 0⟩]⟩,
   ⟨0x1001c0, [(32, 0x1000), (8, 0x8)], [⟨31, 0, .ro, .block, 0⟩]⟩,
   ⟨0x1001c4, [(32, 0x1000), (8, 0x8)], [⟨31, 0, .ro, .block, 0⟩]⟩]

/-- The registers of SWC (10_switch_core.md R249). -/
def regsSWC : List RegDesc :=
  [⟨0x140000, [], [⟨0, 0, .w1s, .kindle, 0⟩]⟩,
   ⟨0x140004, [], [⟨4, 4, .w1c, .block, 0⟩, ⟨3, 3, .w1c, .block, 0⟩, ⟨2, 2, .w1c, .block, 0⟩, ⟨1, 1, .w1c, .block, 0⟩, ⟨0, 0, .w1c, .block, 0⟩]⟩,
   ⟨0x140008, [], [⟨18, 0, .rw, .kindle, 196608⟩]⟩,
   ⟨0x14000c, [], [⟨31, 31, .ro, .kindle, 0⟩, ⟨18, 0, .ro, .kindle, 0⟩]⟩,
   ⟨0x140010, [], [⟨18, 0, .ro, .kindle, 0⟩]⟩,
   ⟨0x140014, [], [⟨18, 0, .ro, .kindle, 0⟩]⟩,
   ⟨0x140018, [], [⟨18, 0, .rw, .kindle, 131072⟩]⟩,
   ⟨0x14001c, [], [⟨7, 0, .rw, .kindle, 20⟩]⟩,
   ⟨0x140020, [], [⟨13, 0, .ro, .kindle, 0⟩]⟩,
   ⟨0x140024, [], [⟨23, 16, .rw, .kindle, 40⟩, ⟨7, 0, .rw, .kindle, 10⟩]⟩,
   ⟨0x140028, [], [⟨31, 31, .rwl, .kindle, 0⟩, ⟨30, 29, .rwl, .kindle, 0⟩, ⟨13, 8, .rwl, .kindle, 0⟩, ⟨4, 0, .rwl, .kindle, 0⟩]⟩,
   ⟨0x140040, [(8, 0x4)], [⟨2, 0, .rw, .kindle, 0⟩, ⟨6, 4, .rw, .kindle, 0⟩, ⟨10, 8, .rw, .kindle, 0⟩, ⟨14, 12, .rw, .kindle, 0⟩, ⟨18, 16, .rw, .kindle, 0⟩, ⟨22, 20, .rw, .kindle, 0⟩, ⟨26, 24, .rw, .kindle, 0⟩, ⟨30, 28, .rw, .kindle, 0⟩]⟩,
   ⟨0x141000, [(40, 0x200)], [⟨9, 8, .rw, .block, 0⟩, ⟨6, 4, .rw, .block, 0⟩]⟩,
   ⟨0x141004, [(40, 0x200)], [⟨31, 24, .ro, .block, 0⟩, ⟨23, 16, .ro, .block, 0⟩, ⟨1, 1, .ro, .block, 0⟩, ⟨0, 0, .ro, .block, 0⟩]⟩,
   ⟨0x141008, [(40, 0x200)], [⟨7, 0, .rw, .block, 192⟩]⟩,
   ⟨0x14100c, [(40, 0x200)], [⟨3, 0, .rw, .block, 1⟩, ⟨7, 4, .rw, .block, 1⟩, ⟨11, 8, .rw, .block, 1⟩, ⟨15, 12, .rw, .block, 1⟩, ⟨19, 16, .rw, .block, 1⟩, ⟨23, 20, .rw, .block, 1⟩, ⟨27, 24, .rw, .block, 1⟩, ⟨31, 28, .rw, .block, 1⟩]⟩,
   ⟨0x141010, [(40, 0x200)], [⟨18, 0, .ro, .block, 0⟩]⟩,
   ⟨0x141020, [(40, 0x200), (8, 0x4)], [⟨31, 31, .rw, .block, 0⟩, ⟨14, 12, .rw, .block, 3⟩, ⟨11, 0, .rw, .block, 0⟩]⟩,
   ⟨0x141040, [(40, 0x200), (8, 0x4)], [⟨31, 16, .rw, .block, 8192⟩, ⟨15, 0, .rw, .block, 1024⟩]⟩,
   ⟨0x141060, [(40, 0x200), (8, 0x4)], [⟨31, 24, .rw, .block, 40⟩, ⟨23, 12, .rw, .block, 128⟩, ⟨11, 0, .rw, .block, 256⟩]⟩,
   ⟨0x141080, [(40, 0x200), (8, 0x4)], [⟨18, 0, .ro, .block, 0⟩]⟩,
   ⟨0x1410a0, [(40, 0x200), (8, 0x4)], [⟨18, 0, .ro, .block, 0⟩]⟩,
   ⟨0x1410c0, [(40, 0x200)], [⟨31, 0, .ro, .block, 0⟩]⟩,
   ⟨0x1410c4, [(40, 0x200)], [⟨31, 0, .ro, .block, 0⟩]⟩,
   ⟨0x1410c8, [(40, 0x200)], [⟨31, 0, .ro, .block, 0⟩]⟩,
   ⟨0x1410cc, [(40, 0x200)], [⟨31, 0, .ro, .block, 0⟩]⟩,
   ⟨0x1410d0, [(40, 0x200)], [⟨31, 0, .ro, .block, 0⟩]⟩,
   ⟨0x1410d4, [(40, 0x200)], [⟨31, 0, .ro, .block, 0⟩]⟩,
   ⟨0x1410d8, [(40, 0x200)], [⟨31, 0, .ro, .block, 0⟩]⟩,
   ⟨0x1410dc, [(40, 0x200)], [⟨31, 0, .ro, .block, 0⟩]⟩,
   ⟨0x1410e0, [(40, 0x200)], [⟨31, 0, .ro, .block, 0⟩]⟩,
   ⟨0x1410e4, [(40, 0x200)], [⟨31, 0, .ro, .block, 0⟩]⟩,
   ⟨0x1410e8, [(40, 0x200)], [⟨31, 0, .ro, .block, 0⟩]⟩,
   ⟨0x1410ec, [(40, 0x200)], [⟨31, 0, .ro, .block, 0⟩]⟩,
   ⟨0x1410f0, [(40, 0x200)], [⟨31, 0, .ro, .block, 0⟩]⟩,
   ⟨0x1410f4, [(40, 0x200)], [⟨31, 0, .ro, .block, 0⟩]⟩,
   ⟨0x1410f8, [(40, 0x200)], [⟨31, 0, .ro, .block, 0⟩]⟩,
   ⟨0x1410fc, [(40, 0x200)], [⟨31, 0, .ro, .block, 0⟩]⟩,
   ⟨0x141100, [(40, 0x200)], [⟨31, 0, .ro, .block, 0⟩]⟩,
   ⟨0x141104, [(40, 0x200)], [⟨31, 0, .ro, .block, 0⟩]⟩] ++
  [⟨0x141108, [(40, 0x200)], [⟨31, 0, .ro, .block, 0⟩]⟩,
   ⟨0x14110c, [(40, 0x200)], [⟨31, 0, .ro, .block, 0⟩]⟩,
   ⟨0x141110, [(40, 0x200)], [⟨31, 0, .ro, .block, 0⟩]⟩,
   ⟨0x141114, [(40, 0x200)], [⟨31, 0, .ro, .block, 0⟩]⟩,
   ⟨0x140080, [], [⟨31, 0, .ro, .kindle, 0⟩]⟩,
   ⟨0x140084, [], [⟨31, 0, .ro, .kindle, 0⟩]⟩,
   ⟨0x140088, [], [⟨31, 0, .ro, .kindle, 0⟩]⟩,
   ⟨0x14008c, [], [⟨31, 0, .ro, .kindle, 0⟩]⟩]

/-- The registers of FWD (11_forwarding_tables.md R271). -/
def regsFWD : List RegDesc :=
  [⟨0x160000, [], [⟨1, 1, .w1s, .kindle, 0⟩, ⟨0, 0, .rw, .kindle, 0⟩]⟩,
   ⟨0x160004, [], [⟨4, 4, .w1c, .block, 0⟩, ⟨3, 3, .w1c, .block, 0⟩, ⟨2, 2, .w1c, .block, 0⟩, ⟨1, 1, .w1c, .block, 0⟩, ⟨0, 0, .w1c, .block, 0⟩]⟩,
   ⟨0x160008, [], [⟨31, 0, .rwl, .kindle, 4294967295⟩]⟩,
   ⟨0x16000c, [], [⟨31, 0, .rwl, .kindle, 0⟩]⟩,
   ⟨0x160010, [], [⟨15, 0, .rwl, .kindle, 0⟩]⟩,
   ⟨0x160014, [], [⟨31, 0, .ro, .kindle, 0⟩]⟩,
   ⟨0x160018, [], [⟨31, 0, .rw, .kindle, 0⟩]⟩,
   ⟨0x16001c, [], [⟨14, 0, .rwl, .kindle, 0⟩]⟩,
   ⟨0x160020, [], [⟨31, 31, .rw, .kindle, 0⟩, ⟨16, 16, .rw, .kindle, 0⟩, ⟨15, 0, .rw, .kindle, 60000⟩]⟩,
   ⟨0x160024, [], [⟨16, 0, .ro, .kindle, 0⟩]⟩,
   ⟨0x160028, [], [⟨31, 16, .ro, .kindle, 0⟩, ⟨15, 0, .rw, .kindle, 1000⟩]⟩,
   ⟨0x160030, [(3, 0x4)], [⟨31, 30, .rw, .kindle, 0⟩, ⟨15, 0, .rw, .kindle, 300⟩]⟩,
   ⟨0x160040, [(2, 0x100)], [⟨31, 31, .ro, .block, 0⟩, ⟨3, 0, .wo, .none, 0⟩]⟩,
   ⟨0x160044, [(2, 0x100)], [⟨31, 24, .ro, .block, 0⟩, ⟨18, 0, .ro, .block, 0⟩]⟩,
   ⟨0x160048, [(2, 0x100)], [⟨18, 0, .rw, .block, 0⟩]⟩,
   ⟨0x160080, [(2, 0x100), (12, 0x4)], [⟨31, 0, .rw, .block, 0⟩]⟩,
   ⟨0x1600c0, [], [⟨11, 0, .rw, .block, 0⟩]⟩,
   ⟨0x1600c4, [], [⟨31, 0, .rw, .block, 0⟩]⟩,
   ⟨0x1600c8, [], [⟨31, 31, .rw, .block, 0⟩, ⟨10, 8, .rw, .block, 0⟩, ⟨7, 0, .rw, .block, 0⟩]⟩,
   ⟨0x160200, [(40, 0x4)], [⟨11, 0, .rw, .block, 1⟩]⟩,
   ⟨0x160300, [], [⟨18, 0, .ro, .block, 0⟩]⟩,
   ⟨0x160304, [], [⟨12, 0, .ro, .block, 0⟩]⟩,
   ⟨0x160308, [], [⟨31, 31, .rc, .block, 0⟩, ⟨23, 21, .rc, .block, 0⟩, ⟨18, 0, .rc, .block, 0⟩]⟩,
   ⟨0x16030c, [], [⟨8, 0, .ro, .block, 0⟩]⟩,
   ⟨0x160400, [], [⟨31, 0, .ro, .block, 0⟩]⟩,
   ⟨0x160404, [], [⟨31, 0, .ro, .block, 0⟩]⟩,
   ⟨0x160408, [], [⟨31, 0, .ro, .block, 0⟩]⟩,
   ⟨0x16040c, [], [⟨31, 0, .ro, .block, 0⟩]⟩,
   ⟨0x160410, [], [⟨31, 0, .ro, .block, 0⟩]⟩,
   ⟨0x160414, [], [⟨31, 0, .ro, .block, 0⟩]⟩,
   ⟨0x160418, [], [⟨31, 0, .ro, .block, 0⟩]⟩,
   ⟨0x16041c, [], [⟨31, 0, .ro, .block, 0⟩]⟩,
   ⟨0x160420, [], [⟨31, 0, .ro, .block, 0⟩]⟩,
   ⟨0x160424, [], [⟨31, 0, .ro, .block, 0⟩]⟩,
   ⟨0x160428, [], [⟨31, 0, .ro, .block, 0⟩]⟩,
   ⟨0x16042c, [], [⟨31, 0, .ro, .block, 0⟩]⟩,
   ⟨0x160430, [], [⟨31, 0, .ro, .block, 0⟩]⟩,
   ⟨0x160434, [], [⟨31, 0, .ro, .block, 0⟩]⟩,
   ⟨0x160438, [], [⟨31, 0, .ro, .block, 0⟩]⟩,
   ⟨0x16043c, [], [⟨31, 0, .ro, .block, 0⟩]⟩] ++
  [⟨0x160440, [], [⟨31, 0, .ro, .block, 0⟩]⟩,
   ⟨0x160444, [], [⟨31, 0, .ro, .block, 0⟩]⟩,
   ⟨0x160448, [], [⟨31, 0, .ro, .block, 0⟩]⟩,
   ⟨0x16044c, [], [⟨31, 0, .ro, .block, 0⟩]⟩,
   ⟨0x160450, [], [⟨31, 0, .ro, .block, 0⟩]⟩,
   ⟨0x160454, [], [⟨31, 0, .ro, .block, 0⟩]⟩,
   ⟨0x160458, [], [⟨31, 0, .ro, .block, 0⟩]⟩,
   ⟨0x16045c, [], [⟨31, 0, .ro, .block, 0⟩]⟩,
   ⟨0x160460, [], [⟨31, 0, .ro, .block, 0⟩]⟩,
   ⟨0x160464, [], [⟨31, 0, .ro, .block, 0⟩]⟩,
   ⟨0x160468, [], [⟨31, 0, .ro, .block, 0⟩]⟩,
   ⟨0x16046c, [], [⟨31, 0, .ro, .block, 0⟩]⟩,
   ⟨0x160470, [], [⟨31, 0, .ro, .block, 0⟩]⟩,
   ⟨0x160474, [], [⟨31, 0, .ro, .block, 0⟩]⟩,
   ⟨0x160478, [], [⟨31, 0, .ro, .block, 0⟩]⟩,
   ⟨0x16047c, [], [⟨31, 0, .ro, .block, 0⟩]⟩,
   ⟨0x160480, [], [⟨31, 0, .ro, .block, 0⟩]⟩,
   ⟨0x160484, [], [⟨31, 0, .ro, .block, 0⟩]⟩]

/-- The registers of XPORT (12_rdma_transport.md R303). -/
def regsXPORT : List RegDesc :=
  [⟨0x180000, [], [⟨2, 2, .w1s, .kindle, 0⟩, ⟨1, 1, .rwl, .kindle, 0⟩, ⟨0, 0, .rwl, .kindle, 0⟩]⟩,
   ⟨0x180004, [], [⟨5, 5, .w1c, .block, 0⟩, ⟨4, 4, .w1c, .block, 0⟩, ⟨3, 3, .w1c, .block, 0⟩, ⟨2, 2, .w1c, .block, 0⟩, ⟨1, 1, .w1c, .block, 0⟩, ⟨0, 0, .w1c, .block, 0⟩]⟩,
   ⟨0x180008, [], [⟨14, 0, .rwl, .kindle, 0⟩]⟩,
   ⟨0x18000c, [], [⟨31, 31, .rc, .kindle, 0⟩, ⟨23, 0, .rc, .kindle, 0⟩]⟩,
   ⟨0x180010, [], [⟨23, 0, .wo, .none, 0⟩]⟩,
   ⟨0x180014, [], [⟨16, 0, .ro, .kindle, 0⟩]⟩,
   ⟨0x180018, [], [⟨31, 27, .rw, .kindle, 14⟩, ⟨26, 16, .rw, .kindle, 50⟩, ⟨15, 0, .rw, .kindle, 129⟩]⟩,
   ⟨0x18001c, [], [⟨15, 8, .rw, .kindle, 2⟩, ⟨7, 0, .rw, .kindle, 16⟩]⟩,
   ⟨0x180020, [], [⟨4, 0, .rw, .kindle, 10⟩]⟩,
   ⟨0x180024, [], [⟨19, 16, .rw, .kindle, 4⟩, ⟨11, 0, .rw, .kindle, 20⟩]⟩,
   ⟨0x180028, [], [⟨15, 0, .rw, .kindle, 200⟩]⟩,
   ⟨0x18002c, [], [⟨31, 22, .rw, .kindle, 1005⟩, ⟨20, 18, .rw, .kindle, 6⟩, ⟨17, 8, .rw, .kindle, 10⟩, ⟨7, 0, .rw, .kindle, 50⟩]⟩,
   ⟨0x180030, [], [⟨14, 0, .rwl, .kindle, 0⟩]⟩,
   ⟨0x180034, [], [⟨21, 16, .rwl, .kindle, 0⟩, ⟨9, 0, .rwl, .kindle, 1004⟩]⟩,
   ⟨0x180038, [], [⟨14, 0, .rwl, .kindle, 0⟩]⟩,
   ⟨0x18003c, [], [⟨9, 0, .wo, .none, 0⟩]⟩,
   ⟨0x180040, [], [⟨29, 16, .ro, .kindle, 0⟩, ⟨13, 0, .ro, .kindle, 0⟩]⟩,
   ⟨0x180044, [], [⟨16, 0, .ro, .kindle, 0⟩]⟩,
   ⟨0x180080, [(16, 0x4)], [⟨10, 0, .ro, .kindle, 0⟩]⟩,
   ⟨0x1800c0, [(16, 0x4)], [⟨10, 0, .rw, .kindle, 0⟩]⟩,
   ⟨0x180100, [], [⟨31, 0, .ro, .block, 0⟩]⟩,
   ⟨0x180104, [], [⟨31, 0, .ro, .block, 0⟩]⟩,
   ⟨0x180108, [], [⟨31, 0, .ro, .block, 0⟩]⟩,
   ⟨0x18010c, [], [⟨31, 0, .ro, .block, 0⟩]⟩,
   ⟨0x180110, [], [⟨31, 0, .ro, .block, 0⟩]⟩,
   ⟨0x180114, [], [⟨31, 0, .ro, .block, 0⟩]⟩,
   ⟨0x180118, [], [⟨31, 0, .ro, .block, 0⟩]⟩,
   ⟨0x18011c, [], [⟨31, 0, .ro, .block, 0⟩]⟩,
   ⟨0x180120, [], [⟨31, 0, .ro, .block, 0⟩]⟩,
   ⟨0x180124, [], [⟨31, 0, .ro, .block, 0⟩]⟩,
   ⟨0x180128, [], [⟨31, 0, .ro, .block, 0⟩]⟩,
   ⟨0x18012c, [], [⟨31, 0, .ro, .block, 0⟩]⟩,
   ⟨0x180130, [], [⟨31, 0, .ro, .block, 0⟩]⟩,
   ⟨0x180134, [], [⟨31, 0, .ro, .block, 0⟩]⟩,
   ⟨0x180138, [], [⟨31, 0, .ro, .block, 0⟩]⟩,
   ⟨0x18013c, [], [⟨31, 0, .ro, .block, 0⟩]⟩,
   ⟨0x180140, [], [⟨31, 0, .ro, .block, 0⟩]⟩,
   ⟨0x180144, [], [⟨31, 0, .ro, .block, 0⟩]⟩,
   ⟨0x180148, [], [⟨31, 0, .ro, .block, 0⟩]⟩,
   ⟨0x18014c, [], [⟨31, 0, .ro, .block, 0⟩]⟩] ++
  [⟨0x180150, [], [⟨31, 0, .ro, .block, 0⟩]⟩,
   ⟨0x180154, [], [⟨31, 0, .ro, .block, 0⟩]⟩,
   ⟨0x180158, [], [⟨31, 0, .ro, .block, 0⟩]⟩,
   ⟨0x18015c, [], [⟨31, 0, .ro, .block, 0⟩]⟩,
   ⟨0x180160, [], [⟨31, 0, .ro, .block, 0⟩]⟩,
   ⟨0x180164, [], [⟨31, 0, .ro, .block, 0⟩]⟩,
   ⟨0x180168, [], [⟨31, 0, .ro, .block, 0⟩]⟩,
   ⟨0x18016c, [], [⟨31, 0, .ro, .block, 0⟩]⟩,
   ⟨0x180170, [], [⟨31, 0, .ro, .block, 0⟩]⟩,
   ⟨0x180174, [], [⟨31, 0, .ro, .block, 0⟩]⟩,
   ⟨0x180178, [], [⟨31, 0, .ro, .block, 0⟩]⟩,
   ⟨0x18017c, [], [⟨31, 0, .ro, .block, 0⟩]⟩,
   ⟨0x180180, [], [⟨31, 0, .ro, .block, 0⟩]⟩,
   ⟨0x180184, [], [⟨31, 0, .ro, .block, 0⟩]⟩,
   ⟨0x180188, [], [⟨31, 0, .ro, .block, 0⟩]⟩,
   ⟨0x18018c, [], [⟨31, 0, .ro, .block, 0⟩]⟩,
   ⟨0x180190, [], [⟨31, 0, .ro, .block, 0⟩]⟩,
   ⟨0x180194, [], [⟨31, 0, .ro, .block, 0⟩]⟩,
   ⟨0x180198, [], [⟨31, 0, .ro, .block, 0⟩]⟩,
   ⟨0x18019c, [], [⟨31, 0, .ro, .block, 0⟩]⟩,
   ⟨0x1801a0, [], [⟨31, 0, .ro, .block, 0⟩]⟩,
   ⟨0x1801a4, [], [⟨31, 0, .ro, .block, 0⟩]⟩]

/-- The registers of THIM (13_memory_keys_and_slates.md R328). -/
def regsTHIM : List RegDesc :=
  [⟨0x1c0000, [], [⟨1, 1, .w1s, .kindle, 0⟩, ⟨0, 0, .rwl, .kindle, 0⟩]⟩,
   ⟨0x1c0004, [], [⟨6, 6, .w1c, .block, 0⟩, ⟨5, 5, .w1c, .block, 0⟩, ⟨4, 4, .w1c, .block, 0⟩, ⟨3, 3, .w1c, .block, 0⟩, ⟨2, 2, .w1c, .block, 0⟩, ⟨1, 1, .w1c, .block, 0⟩, ⟨0, 0, .w1c, .block, 0⟩]⟩,
   ⟨0x1c0008, [], [⟨14, 0, .rwl, .kindle, 0⟩]⟩,
   ⟨0x1c000c, [], [⟨31, 31, .rc, .kindle, 0⟩, ⟨27, 20, .rc, .kindle, 0⟩, ⟨19, 0, .rc, .kindle, 0⟩]⟩,
   ⟨0x1c0010, [], [⟨31, 28, .wo, .none, 0⟩, ⟨19, 0, .wo, .none, 0⟩]⟩,
   ⟨0x1c0014, [], [⟨31, 31, .ro, .kindle, 0⟩, ⟨27, 24, .ro, .kindle, 0⟩]⟩,
   ⟨0x1c0018, [], [⟨31, 0, .ro, .kindle, 0⟩]⟩,
   ⟨0x1c001c, [], [⟨31, 31, .rc, .kindle, 0⟩, ⟨30, 30, .rc, .kindle, 0⟩, ⟨19, 0, .rc, .kindle, 0⟩]⟩,
   ⟨0x1c0020, [(8, 0x4)], [⟨31, 0, .rw, .block, 0⟩]⟩,
   ⟨0x1c0040, [], [⟨20, 0, .ro, .kindle, 0⟩]⟩,
   ⟨0x1c0044, [], [⟨20, 0, .ro, .kindle, 0⟩]⟩,
   ⟨0x1c0048, [], [⟨31, 0, .ro, .kindle, 0⟩]⟩,
   ⟨0x1c004c, [], [⟨31, 28, .ro, .kindle, 0⟩, ⟨23, 0, .ro, .kindle, 0⟩]⟩,
   ⟨0x1c0050, [], [⟨14, 0, .rwl, .kindle, 0⟩]⟩,
   ⟨0x1c0054, [], [⟨9, 0, .wo, .none, 0⟩]⟩,
   ⟨0x1c0058, [], [⟨14, 0, .rwl, .kindle, 0⟩]⟩,
   ⟨0x1c005c, [], [⟨21, 16, .rwl, .kindle, 0⟩, ⟨9, 0, .rwl, .kindle, 1003⟩]⟩,
   ⟨0x1c0060, [], [⟨10, 0, .ro, .kindle, 0⟩]⟩,
   ⟨0x1c0064, [], [⟨10, 0, .rw, .kindle, 0⟩]⟩,
   ⟨0x1c0068, [], [⟨31, 0, .wo, .none, 0⟩]⟩,
   ⟨0x1c0070, [], [⟨31, 31, .wo, .none, 0⟩, ⟨30, 30, .wo, .none, 0⟩, ⟨23, 0, .wo, .none, 0⟩]⟩,
   ⟨0x1c0074, [], [⟨31, 31, .ro, .kindle, 0⟩, ⟨26, 16, .ro, .kindle, 0⟩, ⟨1, 1, .ro, .kindle, 0⟩]⟩,
   ⟨0x1c0080, [(9, 0x4)], [⟨31, 0, .wo, .kindle, 0⟩]⟩,
   ⟨0x1c0100, [], [⟨31, 0, .ro, .block, 0⟩]⟩,
   ⟨0x1c0104, [], [⟨31, 0, .ro, .block, 0⟩]⟩,
   ⟨0x1c0108, [], [⟨31, 0, .ro, .block, 0⟩]⟩,
   ⟨0x1c010c, [], [⟨31, 0, .ro, .block, 0⟩]⟩,
   ⟨0x1c0110, [], [⟨31, 0, .ro, .block, 0⟩]⟩,
   ⟨0x1c0114, [], [⟨31, 0, .ro, .block, 0⟩]⟩,
   ⟨0x1c0118, [], [⟨31, 0, .ro, .block, 0⟩]⟩,
   ⟨0x1c011c, [], [⟨31, 0, .ro, .block, 0⟩]⟩,
   ⟨0x1c0120, [], [⟨31, 0, .ro, .block, 0⟩]⟩,
   ⟨0x1c0124, [], [⟨31, 0, .ro, .block, 0⟩]⟩,
   ⟨0x1c0128, [], [⟨31, 0, .ro, .block, 0⟩]⟩,
   ⟨0x1c012c, [], [⟨31, 0, .ro, .block, 0⟩]⟩,
   ⟨0x1c0130, [], [⟨31, 0, .ro, .block, 0⟩]⟩,
   ⟨0x1c0134, [], [⟨31, 0, .ro, .block, 0⟩]⟩,
   ⟨0x1c0138, [], [⟨31, 0, .ro, .block, 0⟩]⟩,
   ⟨0x1c013c, [], [⟨31, 0, .ro, .block, 0⟩]⟩,
   ⟨0x1c0140, [], [⟨31, 0, .ro, .block, 0⟩]⟩] ++
  [⟨0x1c0144, [], [⟨31, 0, .ro, .block, 0⟩]⟩,
   ⟨0x1c0148, [], [⟨31, 0, .ro, .block, 0⟩]⟩,
   ⟨0x1c014c, [], [⟨31, 0, .ro, .block, 0⟩]⟩,
   ⟨0x1c0150, [], [⟨31, 0, .ro, .block, 0⟩]⟩,
   ⟨0x1c0154, [], [⟨31, 0, .ro, .block, 0⟩]⟩,
   ⟨0x1c0158, [], [⟨31, 0, .ro, .block, 0⟩]⟩,
   ⟨0x1c015c, [], [⟨31, 0, .ro, .block, 0⟩]⟩]

/-- The registers of SEAM (02_seam_engines.md R58, 02_seam_engines.md R59, 02_seam_engines.md R60, 02_seam_engines.md R61, 02_seam_engines.md R62, 02_seam_engines.md R63). -/
def regsSEAM : List RegDesc :=
  [⟨0x200000, [(64, 0x1000)], [⟨0, 0, .rw, .block, 0⟩]⟩,
   ⟨0x200004, [(64, 0x1000)], [⟨31, 24, .ro, .block, 0⟩, ⟨6, 6, .w1c, .block, 0⟩, ⟨5, 5, .w1c, .block, 0⟩, ⟨4, 4, .w1c, .block, 0⟩, ⟨3, 3, .w1c, .block, 0⟩, ⟨2, 2, .w1c, .block, 0⟩, ⟨1, 1, .w1c, .block, 0⟩, ⟨0, 0, .ro, .block, 0⟩]⟩,
   ⟨0x200008, [(64, 0x1000)], [⟨31, 31, .rwl, .kindle, 0⟩, ⟨30, 16, .rwl, .kindle, 0⟩, ⟨14, 0, .rwl, .kindle, 0⟩]⟩,
   ⟨0x200100, [(64, 0x1000), (8, 0x20)], [⟨7, 7, .rwl, .kindle, 0⟩, ⟨4, 4, .rw, .block, 0⟩, ⟨0, 0, .wo, .none, 0⟩]⟩,
   ⟨0x200104, [(64, 0x1000), (8, 0x20)], [⟨31, 29, .ro, .strand, 0⟩, ⟨28, 26, .ro, .strand, 0⟩, ⟨25, 25, .ro, .strand, 0⟩, ⟨12, 0, .ro, .strand, 0⟩]⟩,
   ⟨0x200108, [(64, 0x1000), (8, 0x20)], [⟨31, 16, .ro, .strand, 0⟩, ⟨15, 0, .ro, .strand, 0⟩]⟩,
   ⟨0x20010c, [(64, 0x1000), (8, 0x20)], [⟨31, 24, .ro, .strand, 0⟩, ⟨12, 0, .ro, .strand, 0⟩]⟩,
   ⟨0x200c00, [(16, 0x4000)], [⟨23, 16, .rw, .kindle, 50⟩, ⟨8, 8, .rw, .kindle, 0⟩, ⟨7, 4, .rw, .kindle, 0⟩, ⟨0, 0, .rw, .kindle, 0⟩]⟩,
   ⟨0x200c04, [(16, 0x4000)], [⟨31, 16, .ro, .kindle, 0⟩, ⟨2, 2, .ro, .kindle, 0⟩, ⟨1, 1, .ro, .kindle, 0⟩, ⟨0, 0, .ro, .kindle, 0⟩]⟩,
   ⟨0x200c08, [(16, 0x4000)], [⟨31, 0, .ro, .kindle, 0⟩]⟩,
   ⟨0x200e00, [], [⟨1, 1, .w1s, .kindle, 0⟩, ⟨0, 0, .rw, .kindle, 0⟩]⟩,
   ⟨0x200e04, [], [⟨31, 16, .wo, .none, 0⟩, ⟨1, 0, .wo, .none, 0⟩]⟩,
   ⟨0x200e08, [], [⟨31, 12, .rw, .kindle, 0⟩]⟩,
   ⟨0x200e0c, [], [⟨2, 0, .rw, .kindle, 0⟩]⟩,
   ⟨0x200e10, [], [⟨31, 24, .ro, .kindle, 0⟩, ⟨1, 1, .ro, .kindle, 0⟩, ⟨0, 0, .ro, .kindle, 0⟩]⟩,
   ⟨0x200e14, [], [⟨31, 0, .rwl, .kindle, 0⟩]⟩,
   ⟨0x200e18, [], [⟨16, 0, .rwl, .kindle, 0⟩]⟩]

/-- The registers of MNGL (04_bulk_operations.md R115). -/
def regsMNGL : List RegDesc :=
  [⟨0x240000, [], [⟨1, 1, .w1s, .kindle, 0⟩, ⟨0, 0, .rw, .kindle, 0⟩]⟩,
   ⟨0x240004, [], [⟨3, 3, .w1c, .kindle, 0⟩, ⟨2, 2, .w1c, .kindle, 0⟩, ⟨1, 1, .w1c, .kindle, 0⟩]⟩,
   ⟨0x240010, [], [⟨18, 0, .ro, .kindle, 0⟩]⟩,
   ⟨0x240014, [], [⟨18, 0, .rwl, .kindle, 2048⟩]⟩,
   ⟨0x240018, [], [⟨16, 0, .ro, .kindle, 0⟩]⟩,
   ⟨0x240040, [(16, 0x4)], [⟨18, 0, .rwl, .kindle, 0⟩]⟩,
   ⟨0x240080, [(16, 0x4)], [⟨24, 16, .ro, .block, 0⟩, ⟨8, 0, .ro, .block, 0⟩]⟩,
   ⟨0x2400c0, [(16, 0x4)], [⟨1, 1, .w1c, .block, 0⟩, ⟨0, 0, .w1c, .block, 0⟩]⟩,
   ⟨0x240100, [(14, 0x4)], [⟨31, 16, .rw, .kindle, 0⟩, ⟨11, 0, .rw, .kindle, 0⟩]⟩,
   ⟨0x240180, [], [⟨31, 0, .wo, .none, 0⟩]⟩,
   ⟨0x240184, [], [⟨31, 0, .wo, .none, 0⟩]⟩,
   ⟨0x240188, [], [⟨31, 0, .ro, .none, 0⟩]⟩,
   ⟨0x24018c, [], [⟨31, 0, .ro, .none, 0⟩]⟩,
   ⟨0x240190, [], [⟨0, 0, .ro, .kindle, 0⟩]⟩,
   ⟨0x240200, [], [⟨31, 31, .wo, .none, 0⟩, ⟨30, 30, .wo, .none, 0⟩, ⟨9, 0, .wo, .none, 0⟩]⟩,
   ⟨0x240204, [], [⟨31, 31, .ro, .kindle, 0⟩, ⟨0, 0, .ro, .kindle, 0⟩]⟩,
   ⟨0x240240, [(16, 0x4)], [⟨31, 0, .wo, .kindle, 0⟩]⟩,
   ⟨0x240300, [], [⟨31, 0, .rc, .kindle, 0⟩]⟩,
   ⟨0x240304, [], [⟨31, 0, .rc, .kindle, 0⟩]⟩,
   ⟨0x240308, [], [⟨31, 0, .rc, .kindle, 0⟩]⟩,
   ⟨0x24030c, [], [⟨31, 0, .rc, .kindle, 0⟩]⟩]

/-- The registers of STRP (06_stripe_journal.md R168). -/
def regsSTRP : List RegDesc :=
  [⟨0x250000, [], [⟨1, 1, .w1s, .kindle, 0⟩, ⟨0, 0, .rwl, .kindle, 0⟩]⟩,
   ⟨0x250004, [], [⟨7, 0, .rwl, .kindle, 0⟩]⟩,
   ⟨0x250008, [], [⟨9, 0, .rwl, .kindle, 1006⟩]⟩,
   ⟨0x25000c, [], [⟨2, 2, .w1c, .kindle, 0⟩, ⟨1, 1, .w1c, .kindle, 0⟩, ⟨0, 0, .ro, .kindle, 0⟩]⟩,
   ⟨0x250010, [], [⟨31, 0, .rw, .kindle, 0⟩]⟩,
   ⟨0x250014, [], [⟨31, 0, .rw, .kindle, 0⟩]⟩,
   ⟨0x250018, [], [⟨16, 0, .ro, .kindle, 0⟩]⟩,
   ⟨0x25001c, [], [⟨31, 0, .rc, .kindle, 0⟩]⟩,
   ⟨0x250020, [], [⟨3, 0, .rw, .kindle, 0⟩]⟩]

/-- The registers of DARN (07_rebuild_and_reshape.md R197). -/
def regsDARN : List RegDesc :=
  [⟨0x260000, [], [⟨1, 1, .w1s, .kindle, 0⟩, ⟨0, 0, .rwl, .kindle, 1⟩]⟩,
   ⟨0x260004, [], [⟨21, 16, .rw, .kindle, 4⟩, ⟨6, 0, .rw, .kindle, 15⟩]⟩,
   ⟨0x260008, [], [⟨1, 1, .w1c, .kindle, 0⟩, ⟨0, 0, .w1c, .kindle, 0⟩]⟩,
   ⟨0x26000c, [], [⟨23, 0, .ro, .kindle, 0⟩]⟩,
   ⟨0x260100, [(24, 0x4)], [⟨31, 0, .rc, .kindle, 0⟩]⟩,
   ⟨0x260180, [(24, 0x4)], [⟨31, 0, .rc, .kindle, 0⟩]⟩,
   ⟨0x260200, [(4, 0x4)], [⟨31, 28, .rw, .kindle, 0⟩, ⟨9, 0, .rw, .kindle, 0⟩]⟩]

/-- The registers of DRV (08_drive_ports.md R216). -/
def regsDRV : List RegDesc :=
  [⟨0x280000, [(24, 0x2000)], [⟨5, 5, .rw, .block, 0⟩, ⟨4, 3, .rw, .block, 0⟩, ⟨2, 2, .rw, .block, 1⟩, ⟨0, 0, .rw, .kindle, 1⟩]⟩,
   ⟨0x280004, [(24, 0x2000)], [⟨12, 12, .ro, .block, 0⟩, ⟨11, 11, .ro, .block, 0⟩, ⟨10, 10, .ro, .block, 0⟩, ⟨9, 8, .ro, .block, 0⟩, ⟨7, 5, .ro, .block, 0⟩, ⟨4, 4, .ro, .block, 0⟩, ⟨0, 0, .ro, .block, 0⟩]⟩,
   ⟨0x280008, [(24, 0x2000)], [⟨6, 4, .rw, .block, 0⟩, ⟨1, 1, .rw, .hearth, 1⟩, ⟨0, 0, .rw, .kindle, 0⟩]⟩,
   ⟨0x28000c, [(24, 0x2000)], [⟨7, 7, .w1c, .block, 0⟩, ⟨6, 6, .w1c, .block, 0⟩, ⟨5, 5, .w1c, .block, 0⟩, ⟨4, 4, .w1c, .block, 0⟩, ⟨3, 3, .w1c, .block, 0⟩, ⟨2, 2, .w1c, .block, 0⟩, ⟨1, 1, .w1c, .block, 0⟩, ⟨0, 0, .w1c, .block, 0⟩]⟩,
   ⟨0x280010, [(24, 0x2000)], [⟨15, 0, .rw, .block, 8000⟩]⟩,
   ⟨0x280014, [(24, 0x2000)], [⟨7, 0, .rw, .block, 0⟩]⟩,
   ⟨0x280018, [(24, 0x2000)], [⟨20, 12, .rw, .block, 32⟩]⟩,
   ⟨0x28001c, [(24, 0x2000)], [⟨3, 0, .rw, .block, 0⟩]⟩,
   ⟨0x280020, [(24, 0x2000)], [⟨31, 0, .rw, .block, 0⟩]⟩,
   ⟨0x280024, [(24, 0x2000)], [⟨31, 0, .rw, .block, 0⟩]⟩,
   ⟨0x280028, [(24, 0x2000)], [⟨8, 8, .ro, .block, 0⟩, ⟨7, 0, .ro, .block, 0⟩]⟩,
   ⟨0x28002c, [(24, 0x2000)], [⟨15, 15, .w1c, .block, 0⟩, ⟨12, 8, .ro, .block, 0⟩, ⟨4, 0, .rw, .block, 0⟩]⟩,
   ⟨0x280030, [(24, 0x2000)], [⟨31, 0, .rw, .block, 0⟩]⟩,
   ⟨0x280040, [(24, 0x2000)], [⟨11, 2, .rw, .block, 0⟩]⟩,
   ⟨0x280044, [(24, 0x2000)], [⟨31, 0, .rw, .none, 0⟩]⟩,
   ⟨0x280100, [(24, 0x2000), (16, 0x4)], [⟨31, 0, .rw, .block, 0⟩]⟩,
   ⟨0x280140, [(24, 0x2000)], [⟨31, 31, .ro, .block, 0⟩, ⟨6, 6, .wo, .none, 0⟩]⟩,
   ⟨0x280150, [(24, 0x2000), (4, 0x4)], [⟨31, 0, .ro, .block, 0⟩]⟩,
   ⟨0x280200, [(24, 0x2000)], [⟨31, 0, .rc, .block, 0⟩]⟩,
   ⟨0x280204, [(24, 0x2000)], [⟨31, 0, .rc, .block, 0⟩]⟩,
   ⟨0x280208, [(24, 0x2000)], [⟨31, 0, .rc, .block, 0⟩]⟩,
   ⟨0x28020c, [(24, 0x2000)], [⟨31, 16, .rc, .block, 0⟩, ⟨15, 8, .rc, .block, 0⟩, ⟨7, 0, .rc, .block, 0⟩]⟩,
   ⟨0x281f00, [], [⟨0, 0, .w1s, .kindle, 0⟩]⟩,
   ⟨0x281f04, [], [⟨8, 0, .rwl, .kindle, 0⟩]⟩,
   ⟨0x281f08, [], [⟨31, 0, .rwl, .kindle, 0⟩]⟩,
   ⟨0x281f0c, [], [⟨31, 0, .rwl, .kindle, 0⟩]⟩,
   ⟨0x281f10, [], [⟨31, 0, .rwl, .kindle, 0⟩]⟩,
   ⟨0x281f14, [], [⟨31, 0, .rwl, .kindle, 0⟩]⟩,
   ⟨0x281f18, [], [⟨31, 24, .rw, .kindle, 100⟩, ⟨23, 0, .rw, .kindle, 0⟩]⟩,
   ⟨0x281f1c, [], [⟨23, 0, .ro, .kindle, 0⟩]⟩,
   ⟨0x281f20, [], [⟨23, 0, .ro, .kindle, 0⟩]⟩,
   ⟨0x281f24, [], [⟨31, 31, .wo, .none, 0⟩, ⟨30, 30, .wo, .none, 0⟩]⟩]

/-- The registers of ATT (14_attach_endpoint.md R348). -/
def regsATT : List RegDesc :=
  [⟨0x300000, [], [⟨1, 1, .w1s, .kindle, 0⟩, ⟨0, 0, .rwl, .kindle, 1⟩]⟩,
   ⟨0x300004, [], [⟨6, 6, .w1c, .block, 0⟩, ⟨5, 5, .w1c, .block, 0⟩, ⟨4, 4, .w1c, .block, 0⟩, ⟨3, 3, .w1c, .block, 0⟩, ⟨2, 2, .w1c, .block, 0⟩, ⟨1, 1, .w1c, .block, 0⟩, ⟨0, 0, .w1c, .block, 0⟩]⟩,
   ⟨0x300008, [], [⟨9, 8, .ro, .block, 0⟩, ⟨7, 3, .ro, .block, 0⟩, ⟨1, 1, .ro, .block, 0⟩, ⟨0, 0, .ro, .block, 0⟩]⟩,
   ⟨0x30000c, [], [⟨31, 16, .otp, .none, 0⟩, ⟨15, 0, .otp, .none, 0⟩]⟩,
   ⟨0x300010, [], [⟨8, 8, .ro, .block, 0⟩, ⟨5, 0, .ro, .block, 0⟩]⟩,
   ⟨0x300014, [], [⟨14, 0, .rwl, .kindle, 0⟩]⟩,
   ⟨0x300018, [], [⟨9, 0, .rwl, .kindle, 1002⟩]⟩,
   ⟨0x30001c, [], [⟨26, 16, .ro, .block, 0⟩, ⟨10, 0, .ro, .block, 0⟩]⟩,
   ⟨0x300020, [], [⟨21, 16, .wo, .none, 0⟩, ⟨10, 0, .wo, .none, 0⟩]⟩,
   ⟨0x300024, [], [⟨31, 0, .w1c, .block, 0⟩]⟩,
   ⟨0x300028, [], [⟨1, 1, .ro, .kindle, 0⟩, ⟨0, 0, .wo, .none, 0⟩]⟩,
   ⟨0x300040, [(16, 0x4)], [⟨8, 0, .ro, .kindle, 0⟩]⟩,
   ⟨0x300080, [(16, 0x4)], [⟨8, 0, .rw, .kindle, 0⟩]⟩,
   ⟨0x300100, [(64, 0x4)], [⟨15, 8, .ro, .block, 0⟩, ⟨6, 6, .ro, .block, 0⟩, ⟨5, 5, .ro, .block, 0⟩, ⟨4, 3, .ro, .block, 0⟩, ⟨2, 2, .ro, .block, 0⟩, ⟨1, 1, .ro, .block, 0⟩, ⟨0, 0, .ro, .block, 0⟩]⟩,
   ⟨0x300200, [(64, 0x4)], [⟨3, 0, .rw, .kindle, 0⟩]⟩,
   ⟨0x300400, [(64, 0x4)], [⟨31, 0, .rw, .flr, 0⟩]⟩,
   ⟨0x300600, [], [⟨31, 0, .ro, .block, 0⟩]⟩,
   ⟨0x300604, [], [⟨31, 0, .ro, .block, 0⟩]⟩,
   ⟨0x300608, [], [⟨31, 0, .ro, .block, 0⟩]⟩,
   ⟨0x30060c, [], [⟨31, 0, .ro, .block, 0⟩]⟩,
   ⟨0x300610, [], [⟨31, 0, .ro, .block, 0⟩]⟩,
   ⟨0x300614, [], [⟨31, 0, .ro, .block, 0⟩]⟩,
   ⟨0x300618, [], [⟨31, 0, .ro, .block, 0⟩]⟩,
   ⟨0x30061c, [], [⟨31, 0, .ro, .block, 0⟩]⟩,
   ⟨0x300620, [], [⟨31, 0, .ro, .block, 0⟩]⟩,
   ⟨0x300624, [], [⟨31, 0, .ro, .block, 0⟩]⟩,
   ⟨0x300628, [], [⟨31, 0, .ro, .block, 0⟩]⟩,
   ⟨0x30062c, [], [⟨31, 0, .ro, .block, 0⟩]⟩,
   ⟨0x300630, [], [⟨31, 0, .ro, .block, 0⟩]⟩,
   ⟨0x300634, [], [⟨31, 0, .ro, .block, 0⟩]⟩,
   ⟨0x300638, [], [⟨31, 0, .ro, .block, 0⟩]⟩,
   ⟨0x30063c, [], [⟨31, 0, .ro, .block, 0⟩]⟩,
   ⟨0x300500, [(64, 0x4)], [⟨3, 0, .rw, .flr, 0⟩]⟩]

/-- The registers of TWIN (15_twin_operation.md R382). -/
def regsTWIN : List RegDesc :=
  [⟨0x310000, [], [⟨4, 4, .rw, .kindle, 0⟩, ⟨3, 3, .w1s, .kindle, 0⟩, ⟨2, 2, .rw, .kindle, 1⟩, ⟨1, 1, .rwl, .kindle, 0⟩, ⟨0, 0, .rwl, .kindle, 0⟩]⟩,
   ⟨0x310004, [], [⟨31, 28, .ro, .kindle, 0⟩, ⟨9, 9, .ro, .kindle, 0⟩, ⟨8, 8, .ro, .kindle, 0⟩, ⟨7, 4, .ro, .kindle, 0⟩, ⟨3, 3, .ro, .kindle, 0⟩, ⟨2, 2, .ro, .kindle, 0⟩, ⟨1, 1, .ro, .kindle, 0⟩, ⟨0, 0, .ro, .kindle, 0⟩]⟩,
   ⟨0x310008, [], [⟨11, 11, .w1c, .block, 0⟩, ⟨10, 10, .w1c, .block, 0⟩, ⟨9, 9, .w1c, .block, 0⟩, ⟨8, 8, .w1c, .block, 0⟩, ⟨7, 7, .w1c, .block, 0⟩, ⟨6, 6, .w1c, .block, 0⟩, ⟨5, 5, .w1c, .block, 0⟩, ⟨4, 4, .w1c, .block, 0⟩, ⟨3, 3, .w1c, .block, 0⟩, ⟨2, 2, .w1c, .block, 0⟩, ⟨1, 1, .w1c, .block, 0⟩, ⟨0, 0, .w1c, .block, 0⟩]⟩,
   ⟨0x31000c, [], [⟨31, 24, .rw, .kindle, 10⟩, ⟨23, 16, .rw, .kindle, 8⟩, ⟨7, 0, .rw, .kindle, 20⟩]⟩,
   ⟨0x310010, [], [⟨2, 0, .wo, .none, 0⟩]⟩,
   ⟨0x310014, [], [⟨31, 31, .ro, .kindle, 0⟩, ⟨7, 0, .ro, .kindle, 0⟩]⟩,
   ⟨0x310018, [], [⟨31, 31, .rwl, .kindle, 0⟩, ⟨30, 16, .rwl, .kindle, 0⟩, ⟨14, 0, .rwl, .kindle, 0⟩]⟩,
   ⟨0x31001c, [], [⟨31, 16, .ro, .kindle, 0⟩, ⟨7, 0, .ro, .kindle, 0⟩]⟩,
   ⟨0x310020, [], [⟨31, 24, .ro, .kindle, 0⟩, ⟨15, 8, .ro, .kindle, 0⟩, ⟨0, 0, .ro, .kindle, 0⟩]⟩,
   ⟨0x310024, [], [⟨31, 0, .ro, .kindle, 0⟩]⟩,
   ⟨0x310028, [], [⟨31, 0, .ro, .kindle, 0⟩]⟩,
   ⟨0x31002c, [], [⟨23, 0, .ro, .kindle, 0⟩]⟩,
   ⟨0x310030, [], [⟨14, 0, .rwl, .kindle, 0⟩]⟩,
   ⟨0x310034, [], [⟨14, 0, .rwl, .kindle, 0⟩]⟩,
   ⟨0x310038, [], [⟨15, 0, .ro, .kindle, 0⟩]⟩,
   ⟨0x310100, [], [⟨31, 0, .ro, .block, 0⟩]⟩,
   ⟨0x310104, [], [⟨31, 0, .ro, .block, 0⟩]⟩,
   ⟨0x310108, [], [⟨31, 0, .ro, .block, 0⟩]⟩,
   ⟨0x31010c, [], [⟨31, 0, .ro, .block, 0⟩]⟩,
   ⟨0x310110, [], [⟨31, 0, .ro, .block, 0⟩]⟩,
   ⟨0x310114, [], [⟨31, 0, .ro, .block, 0⟩]⟩,
   ⟨0x310118, [], [⟨31, 0, .ro, .block, 0⟩]⟩,
   ⟨0x31011c, [], [⟨31, 0, .ro, .block, 0⟩]⟩,
   ⟨0x310120, [], [⟨31, 0, .ro, .block, 0⟩]⟩,
   ⟨0x310124, [], [⟨31, 0, .ro, .block, 0⟩]⟩,
   ⟨0x310128, [], [⟨31, 0, .ro, .block, 0⟩]⟩,
   ⟨0x31012c, [], [⟨31, 0, .ro, .block, 0⟩]⟩,
   ⟨0x310130, [], [⟨31, 0, .ro, .block, 0⟩]⟩,
   ⟨0x310134, [], [⟨31, 0, .ro, .block, 0⟩]⟩,
   ⟨0x310138, [], [⟨31, 0, .ro, .block, 0⟩]⟩,
   ⟨0x31013c, [], [⟨31, 0, .ro, .block, 0⟩]⟩,
   ⟨0x310140, [], [⟨31, 0, .ro, .block, 0⟩]⟩,
   ⟨0x310144, [], [⟨31, 0, .ro, .block, 0⟩]⟩,
   ⟨0x310148, [], [⟨31, 0, .ro, .block, 0⟩]⟩,
   ⟨0x31014c, [], [⟨31, 0, .ro, .block, 0⟩]⟩,
   ⟨0x310150, [], [⟨31, 0, .ro, .block, 0⟩]⟩,
   ⟨0x310154, [], [⟨31, 0, .ro, .block, 0⟩]⟩]

/-- The registers of HBMC (25_register_index.md R543). -/
def regsHBMC : List RegDesc :=
  [⟨0x320000, [], [⟨1, 1, .w1s, .kindle, 0⟩, ⟨0, 0, .rwl, .kindle, 1⟩]⟩,
   ⟨0x320004, [], [⟨1, 0, .ro, .kindle, 0⟩]⟩,
   ⟨0x320008, [], [⟨7, 0, .rw, .kindle, 60⟩]⟩,
   ⟨0x320010, [(2, 0x4)], [⟨10, 0, .ro, .kindle, 0⟩]⟩,
   ⟨0x320020, [], [⟨31, 0, .rc, .kindle, 0⟩]⟩,
   ⟨0x320024, [], [⟨31, 0, .rc, .kindle, 0⟩]⟩]

/-- The registers of MRAMC (25_register_index.md R544). -/
def regsMRAMC : List RegDesc :=
  [⟨0x330000, [], [⟨0, 0, .w1s, .kindle, 0⟩]⟩,
   ⟨0x330004, [], [⟨1, 1, .ro, .kindle, 0⟩, ⟨0, 0, .ro, .kindle, 0⟩]⟩,
   ⟨0x330008, [], [⟨31, 0, .rc, .kindle, 0⟩]⟩,
   ⟨0x33000c, [], [⟨31, 0, .rc, .kindle, 0⟩]⟩]

/-! Fields and registers of TOP. -/

def TOP_ID : Nat := 0x0
def TOP_ID_part : Fld := ⟨0x0, 31, 16⟩
def TOP_ID_modrev : Fld := ⟨0x0, 3, 0⟩
def TOP_STRAP : Nat := 0x4
def TOP_STRAP_pins : Fld := ⟨0x4, 11, 8⟩
def TOP_STRAP_recovery : Fld := ⟨0x4, 3, 3⟩
def TOP_STRAP_pos : Fld := ⟨0x4, 2, 2⟩
def TOP_STRAP_autostart : Fld := ⟨0x4, 1, 1⟩
def TOP_STRAP_twin : Fld := ⟨0x4, 0, 0⟩
def TOP_BRST : Nat := 0x10
def TOP_BRST_go : Fld := ⟨0x10, 31, 31⟩
def TOP_BRST_block : Fld := ⟨0x10, 12, 8⟩
def TOP_BRST_unit : Fld := ⟨0x10, 6, 0⟩
def TOP_BRSTAT : Nat := 0x14
def TOP_BRSTAT_busy : Fld := ⟨0x14, 31, 31⟩
def TOP_BRSTAT_code : Fld := ⟨0x14, 1, 0⟩
def TOP_MRST : Nat := 0x18
def TOP_MRST_key : Fld := ⟨0x18, 31, 16⟩
def TOP_MRST_go : Fld := ⟨0x18, 0, 0⟩
def TOP_BOOT : Nat := 0x1c
def TOP_BOOT_slot : Fld := ⟨0x1c, 31, 28⟩
def TOP_BOOT_reverted : Fld := ⟨0x1c, 17, 17⟩
def TOP_BOOT_trial : Fld := ⟨0x1c, 16, 16⟩
def TOP_BOOT_codeb : Fld := ⟨0x1c, 15, 8⟩
def TOP_BOOT_codea : Fld := ⟨0x1c, 7, 0⟩

/-! Fields and registers of HEARTH. -/

def HEARTH_CTL : Nat := 0x10000
def HEARTH_CTL_seal : Fld := ⟨0x10000, 7, 7⟩
def HEARTH_CTL_railretry : Fld := ⟨0x10000, 6, 4⟩
def HEARTH_CTL_tsd_auto : Fld := ⟨0x10000, 0, 0⟩
def HEARTH_STAT : Nat := 0x10004
def HEARTH_STAT_state : Fld := ⟨0x10004, 31, 28⟩
def HEARTH_STAT_rail : Fld := ⟨0x10004, 10, 8⟩
def HEARTH_STAT_tsd : Fld := ⟨0x10004, 3, 3⟩
def HEARTH_STAT_otpbad : Fld := ⟨0x10004, 2, 2⟩
def HEARTH_STAT_xtalfail : Fld := ⟨0x10004, 1, 1⟩
def HEARTH_STAT_railfail : Fld := ⟨0x10004, 0, 0⟩
def HEARTH_ESTAT : Nat := 0x10008
def HEARTH_ESTAT_alarm : Fld := ⟨0x10008, 5, 5⟩
def HEARTH_ESTAT_twarn : Fld := ⟨0x10008, 4, 4⟩
def HEARTH_ESTAT_kreset : Fld := ⟨0x10008, 3, 3⟩
def HEARTH_ESTAT_pstate : Fld := ⟨0x10008, 2, 2⟩
def HEARTH_ESTAT_wd1 : Fld := ⟨0x10008, 1, 1⟩
def HEARTH_ESTAT_hstat : Fld := ⟨0x10008, 0, 0⟩
def HEARTH_CMD : Nat := 0x1000c
def HEARTH_CMD_key : Fld := ⟨0x1000c, 31, 16⟩
def HEARTH_CMD_op : Fld := ⟨0x1000c, 2, 0⟩
def HEARTH_CMDSTAT : Nat := 0x10010
def HEARTH_CMDSTAT_code : Fld := ⟨0x10010, 7, 0⟩
def HEARTH_RSTC : Nat := 0x10014
def HEARTH_RSTC_kcount : Fld := ⟨0x10014, 31, 24⟩
def HEARTH_RSTC_wdk : Fld := ⟨0x10014, 16, 16⟩
def HEARTH_RSTC_kcause : Fld := ⟨0x10014, 11, 8⟩
def HEARTH_RSTC_hcause : Fld := ⟨0x10014, 3, 0⟩
def HEARTH_RAILCFG : Nat := 0x10018
def HEARTH_RAILCFG_gap : Fld := ⟨0x10018, 15, 8⟩
def HEARTH_RAILCFG_tmo : Fld := ⟨0x10018, 7, 0⟩
def HEARTH_RAILSTAT : Nat := 0x1001c
def HEARTH_RAILSTAT_pg : Fld := ⟨0x1001c, 13, 8⟩
def HEARTH_RAILSTAT_en : Fld := ⟨0x1001c, 5, 0⟩
def HEARTH_WDT : Nat := 0x10020
def HEARTH_WDT_en : Fld := ⟨0x10020, 31, 31⟩
def HEARTH_WDT_stage : Fld := ⟨0x10020, 26, 24⟩
def HEARTH_WDT_t3 : Fld := ⟨0x10020, 23, 16⟩
def HEARTH_WDT_t2 : Fld := ⟨0x10020, 15, 8⟩
def HEARTH_WDT_t1 : Fld := ⟨0x10020, 7, 0⟩
def HEARTH_WDKICK : Nat := 0x10024
def HEARTH_WDKICK_val : Fld := ⟨0x10024, 7, 0⟩
def HEARTH_TSD : Nat := 0x10028
def HEARTH_TSD_restart : Fld := ⟨0x10028, 7, 0⟩
def HEARTH_TIME_LO : Nat := 0x1002c
def HEARTH_TIME_LO_ns : Fld := ⟨0x1002c, 31, 0⟩
def HEARTH_TIME_HI : Nat := 0x10030
def HEARTH_TIME_HI_ns : Fld := ⟨0x10030, 31, 0⟩
def HEARTH_ALARM : Nat := 0x10034
def HEARTH_ALARM_s : Fld := ⟨0x10034, 31, 0⟩

/-! Fields and registers of OTP. -/

def OTP_CTL : Nat := 0x20000
def OTP_CTL_seal : Fld := ⟨0x20000, 1, 1⟩
def OTP_CTL_pen : Fld := ⟨0x20000, 0, 0⟩
def OTP_STAT : Nat := 0x20004
def OTP_STAT_revoked : Fld := ⟨0x20004, 30, 28⟩
def OTP_STAT_jtag : Fld := ⟨0x20004, 25, 24⟩
def OTP_STAT_arb : Fld := ⟨0x20004, 22, 16⟩
def OTP_STAT_sealed : Fld := ⟨0x20004, 11, 8⟩
def OTP_STAT_valid : Fld := ⟨0x20004, 7, 4⟩
def OTP_STAT_gen : Fld := ⟨0x20004, 1, 0⟩
def OTP_PGEN : Nat := 0x20008
def OTP_PGEN_gen : Fld := ⟨0x20008, 1, 0⟩
def OTP_PADDR : Nat := 0x2000c
def OTP_PADDR_word : Fld := ⟨0x2000c, 9, 0⟩
def OTP_PDATA : Nat := 0x20010
def OTP_PDATA_data : Fld := ⟨0x20010, 31, 0⟩
def OTP_PCMD : Nat := 0x20014
def OTP_PCMD_op : Fld := ⟨0x20014, 1, 0⟩
def OTP_PSTAT : Nat := 0x20018
def OTP_PSTAT_busy : Fld := ⟨0x20018, 31, 31⟩
def OTP_PSTAT_ref : Fld := ⟨0x20018, 9, 9⟩
def OTP_PSTAT_done : Fld := ⟨0x20018, 8, 8⟩
def OTP_PSTAT_code : Fld := ⟨0x20018, 2, 0⟩
def OTP_REC (w : Nat) : Nat := 0x21000 + 0x4 * w
def OTP_REC_dw (w : Nat) : Fld := ⟨0x21000 + 0x4 * w, 31, 0⟩

/-! Fields and registers of FEED. -/

def FEED_CTL : Nat := 0x30000
def FEED_CTL_seal : Fld := ⟨0x30000, 7, 7⟩
def FEED_CTL_nfet : Fld := ⟨0x30000, 2, 1⟩
def FEED_CTL_revblk : Fld := ⟨0x30000, 0, 0⟩
def FEED_RAMP : Nat := 0x30004
def FEED_RAMP_slope : Fld := ⟨0x30004, 10, 0⟩
def FEED_ILIM : Nat := 0x30008
def FEED_ILIM_trip : Fld := ⟨0x30008, 25, 24⟩
def FEED_ILIM_lim : Fld := ⟨0x30008, 10, 0⟩
def FEED_FTMR : Nat := 0x3000c
def FEED_FTMR_ms : Fld := ⟨0x3000c, 9, 0⟩
def FEED_RETRY : Nat := 0x30010
def FEED_RETRY_count : Fld := ⟨0x30010, 11, 8⟩
def FEED_RETRY_delay : Fld := ⟨0x30010, 7, 0⟩
def FEED_UV : Nat := 0x30014
def FEED_UV_filt : Fld := ⟨0x30014, 23, 16⟩
def FEED_UV_th : Fld := ⟨0x30014, 9, 0⟩
def FEED_SNS : Nat := 0x30018
def FEED_SNS_shunt : Fld := ⟨0x30018, 11, 0⟩
def FEED_TJ : Nat := 0x3001c
def FEED_TJ_tjmax : Fld := ⟨0x3001c, 23, 16⟩
def FEED_TJ_tsmax : Fld := ⟨0x3001c, 15, 8⟩
def FEED_TJ_tamb : Fld := ⟨0x3001c, 7, 0⟩
def FEED_ZTH1 : Nat := 0x30020
def FEED_ZTH1_tau : Fld := ⟨0x30020, 31, 16⟩
def FEED_ZTH1_r : Fld := ⟨0x30020, 15, 0⟩
def FEED_ZTH2 : Nat := 0x30024
def FEED_ZTH2_tau : Fld := ⟨0x30024, 31, 16⟩
def FEED_ZTH2_r : Fld := ⟨0x30024, 15, 0⟩
def FEED_HCFG : Nat := 0x30028
def FEED_HCFG_period : Fld := ⟨0x30028, 7, 0⟩
def FEED_CMD : Nat := 0x30040
def FEED_CMD_key : Fld := ⟨0x30040, 31, 16⟩
def FEED_CMD_op : Fld := ⟨0x30040, 2, 0⟩
def FEED_CMDSTAT : Nat := 0x30044
def FEED_CMDSTAT_code : Fld := ⟨0x30044, 7, 0⟩
def FEED_STAT : Nat := 0x30048
def FEED_STAT_state : Fld := ⟨0x30048, 31, 28⟩
def FEED_STAT_cause : Fld := ⟨0x30048, 15, 12⟩
def FEED_STAT_pg : Fld := ⟨0x30048, 8, 8⟩
def FEED_STAT_loss : Fld := ⟨0x30048, 7, 7⟩
def FEED_STAT_ov : Fld := ⟨0x30048, 5, 5⟩
def FEED_STAT_uv : Fld := ⟨0x30048, 4, 4⟩
def FEED_STAT_tsfail : Fld := ⟨0x30048, 3, 3⟩
def FEED_ESTAT : Nat := 0x3004c
def FEED_ESTAT_htest : Fld := ⟨0x3004c, 3, 3⟩
def FEED_ESTAT_loss : Fld := ⟨0x3004c, 2, 2⟩
def FEED_ESTAT_fault : Fld := ⟨0x3004c, 1, 1⟩
def FEED_ESTAT_stat : Fld := ⟨0x3004c, 0, 0⟩
def FEED_I : Nat := 0x30050
def FEED_I_ma10 : Fld := ⟨0x30050, 15, 0⟩
def FEED_VIN : Nat := 0x30054
def FEED_VIN_mv10 : Fld := ⟨0x30054, 13, 0⟩
def FEED_VOUT : Nat := 0x30058
def FEED_VOUT_mv10 : Fld := ⟨0x30058, 13, 0⟩
def FEED_TEMP : Nat := 0x3005c
def FEED_TEMP_tj : Fld := ⟨0x3005c, 25, 16⟩
def FEED_TEMP_diode : Fld := ⟨0x3005c, 9, 0⟩
def FEED_HOLDC : Nat := 0x30060
def FEED_HOLDC_src : Fld := ⟨0x30060, 31, 30⟩
def FEED_HOLDC_uf : Fld := ⟨0x30060, 23, 0⟩
def FEED_HTSTAT : Nat := 0x30064
def FEED_HTSTAT_busy : Fld := ⟨0x30064, 31, 31⟩
def FEED_HTSTAT_code : Fld := ⟨0x30064, 3, 0⟩
def FEED_FCNT : Nat := 0x30068
def FEED_FCNT_retries : Fld := ⟨0x30068, 15, 8⟩
def FEED_FCNT_faults : Fld := ⟨0x30068, 7, 0⟩

/-! Fields and registers of BAY. -/

def BAY_LIM (b : Nat) : Nat := 0x40000 + 0x800 * b
def BAY_LIM_hotplug (b : Nat) : Fld := ⟨0x40000 + 0x800 * b, 31, 31⟩
def BAY_LIM_slope (b : Nat) : Fld := ⟨0x40000 + 0x800 * b, 23, 16⟩
def BAY_LIM_pg_drop_on_limit (b : Nat) : Fld := ⟨0x40000 + 0x800 * b, 15, 15⟩
def BAY_LIM_trip (b : Nat) : Fld := ⟨0x40000 + 0x800 * b, 14, 12⟩
def BAY_LIM_lim (b : Nat) : Fld := ⟨0x40000 + 0x800 * b, 9, 0⟩
def BAY_TMR (b : Nat) : Nat := 0x40004 + 0x800 * b
def BAY_TMR_count (b : Nat) : Fld := ⟨0x40004 + 0x800 * b, 31, 28⟩
def BAY_TMR_retry (b : Nat) : Fld := ⟨0x40004 + 0x800 * b, 25, 16⟩
def BAY_TMR_fault (b : Nat) : Fld := ⟨0x40004 + 0x800 * b, 9, 0⟩
def BAY_CMD (b : Nat) : Nat := 0x40010 + 0x800 * b
def BAY_CMD_key (b : Nat) : Fld := ⟨0x40010 + 0x800 * b, 31, 16⟩
def BAY_CMD_op (b : Nat) : Fld := ⟨0x40010 + 0x800 * b, 1, 0⟩
def BAY_CMDSTAT (b : Nat) : Nat := 0x40014 + 0x800 * b
def BAY_CMDSTAT_code (b : Nat) : Fld := ⟨0x40014 + 0x800 * b, 7, 0⟩
def BAY_STAT (b : Nat) : Nat := 0x40018 + 0x800 * b
def BAY_STAT_state (b : Nat) : Fld := ⟨0x40018 + 0x800 * b, 31, 28⟩
def BAY_STAT_cause (b : Nat) : Fld := ⟨0x40018 + 0x800 * b, 15, 12⟩
def BAY_STAT_present (b : Nat) : Fld := ⟨0x40018 + 0x800 * b, 5, 5⟩
def BAY_STAT_auxlim (b : Nat) : Fld := ⟨0x40018 + 0x800 * b, 4, 4⟩
def BAY_STAT_limit (b : Nat) : Fld := ⟨0x40018 + 0x800 * b, 3, 3⟩
def BAY_STAT_fullon (b : Nat) : Fld := ⟨0x40018 + 0x800 * b, 2, 2⟩
def BAY_STAT_auxon (b : Nat) : Fld := ⟨0x40018 + 0x800 * b, 1, 1⟩
def BAY_STAT_pg (b : Nat) : Fld := ⟨0x40018 + 0x800 * b, 0, 0⟩
def BAY_ESTAT (b : Nat) : Nat := 0x4001c + 0x800 * b
def BAY_ESTAT_presence (b : Nat) : Fld := ⟨0x4001c + 0x800 * b, 3, 3⟩
def BAY_ESTAT_pgchg (b : Nat) : Fld := ⟨0x4001c + 0x800 * b, 2, 2⟩
def BAY_ESTAT_limit (b : Nat) : Fld := ⟨0x4001c + 0x800 * b, 1, 1⟩
def BAY_ESTAT_fault (b : Nat) : Fld := ⟨0x4001c + 0x800 * b, 0, 0⟩
def BAY_I (b : Nat) : Nat := 0x40020 + 0x800 * b
def BAY_I_ma (b : Nat) : Fld := ⟨0x40020 + 0x800 * b, 15, 0⟩
def BAY_VOUT (b : Nat) : Nat := 0x40024 + 0x800 * b
def BAY_VOUT_mv10 (b : Nat) : Fld := ⟨0x40024 + 0x800 * b, 13, 0⟩
def BAY_AUX (b : Nat) : Nat := 0x40028 + 0x800 * b
def BAY_AUX_ma (b : Nat) : Fld := ⟨0x40028 + 0x800 * b, 27, 16⟩
def BAY_AUX_mv10 (b : Nat) : Fld := ⟨0x40028 + 0x800 * b, 9, 0⟩
def BAY_TJ (b : Nat) : Nat := 0x4002c + 0x800 * b
def BAY_TJ_dev (b : Nat) : Fld := ⟨0x4002c + 0x800 * b, 25, 16⟩
def BAY_TJ_tj (b : Nat) : Fld := ⟨0x4002c + 0x800 * b, 9, 0⟩
def BAY_FCNT (b : Nat) : Nat := 0x40030 + 0x800 * b
def BAY_FCNT_used (b : Nat) : Fld := ⟨0x40030 + 0x800 * b, 15, 8⟩
def BAY_FCNT_faults (b : Nat) : Fld := ⟨0x40030 + 0x800 * b, 7, 0⟩
def BAY_PWR (b : Nat) : Nat := 0x40034 + 0x800 * b
def BAY_PWR_mw (b : Nat) : Fld := ⟨0x40034 + 0x800 * b, 16, 0⟩
def BAY_CTL : Nat := 0x4c000
def BAY_CTL_seal : Fld := ⟨0x4c000, 7, 7⟩
def BAY_CTL_hpen : Fld := ⟨0x4c000, 0, 0⟩
def BAY_SNS : Nat := 0x4c004
def BAY_SNS_shunt : Fld := ⟨0x4c004, 12, 0⟩
def BAY_TJCFG : Nat := 0x4c008
def BAY_TJCFG_tjmax : Fld := ⟨0x4c008, 15, 8⟩
def BAY_TJCFG_tamb : Fld := ⟨0x4c008, 7, 0⟩
def BAY_ZTH1 : Nat := 0x4c00c
def BAY_ZTH1_tau : Fld := ⟨0x4c00c, 31, 16⟩
def BAY_ZTH1_r : Fld := ⟨0x4c00c, 15, 0⟩
def BAY_ZTH2 : Nat := 0x4c010
def BAY_ZTH2_tau : Fld := ⟨0x4c010, 31, 16⟩
def BAY_ZTH2_r : Fld := ⟨0x4c010, 15, 0⟩
def BAY_ZTH3 : Nat := 0x4c014
def BAY_ZTH3_tau : Fld := ⟨0x4c014, 31, 16⟩
def BAY_ZTH3_r : Fld := ⟨0x4c014, 15, 0⟩
def BAY_RCAL : Nat := 0x4c018
def BAY_RCAL_adapt : Fld := ⟨0x4c018, 31, 31⟩
def BAY_RCAL_tc : Fld := ⟨0x4c018, 27, 16⟩
def BAY_RCAL_r25 : Fld := ⟨0x4c018, 15, 0⟩
def BAY_CALW : Nat := 0x4c01c
def BAY_CALW_bay : Fld := ⟨0x4c01c, 20, 16⟩
def BAY_CALW_dev : Fld := ⟨0x4c01c, 9, 0⟩
def BAY_V12 : Nat := 0x4c020
def BAY_V12_mv10 : Fld := ⟨0x4c020, 11, 0⟩
def BAY_PRES : Nat := 0x4c024
def BAY_PRES_present : Fld := ⟨0x4c024, 23, 0⟩
def BAY_PGS : Nat := 0x4c028
def BAY_PGS_pg : Fld := ⟨0x4c028, 23, 0⟩

/-! Fields and registers of DAMP. -/

def DAMP_CTL : Nat := 0x50000
def DAMP_CTL_seal : Fld := ⟨0x50000, 1, 1⟩
def DAMP_CTL_en : Fld := ⟨0x50000, 0, 0⟩
def DAMP_STAT : Nat := 0x50004
def DAMP_STAT_busy : Fld := ⟨0x50004, 3, 3⟩
def DAMP_STAT_clamp : Fld := ⟨0x50004, 2, 2⟩
def DAMP_STAT_stall : Fld := ⟨0x50004, 1, 1⟩
def DAMP_STAT_short : Fld := ⟨0x50004, 0, 0⟩
def DAMP_ESTAT : Nat := 0x50008
def DAMP_ESTAT_cal : Fld := ⟨0x50008, 10, 10⟩
def DAMP_ESTAT_selftest : Fld := ⟨0x50008, 9, 9⟩
def DAMP_ESTAT_step : Fld := ⟨0x50008, 6, 6⟩
def DAMP_ESTAT_debtsat : Fld := ⟨0x50008, 5, 5⟩
def DAMP_ESTAT_dirty : Fld := ⟨0x50008, 4, 4⟩
def DAMP_ESTAT_clamp : Fld := ⟨0x50008, 3, 3⟩
def DAMP_ESTAT_stall : Fld := ⟨0x50008, 2, 2⟩
def DAMP_ESTAT_short : Fld := ⟨0x50008, 1, 1⟩
def DAMP_CFG : Nat := 0x5000c
def DAMP_CFG_ptick : Fld := ⟨0x5000c, 31, 24⟩
def DAMP_CFG_wdg : Fld := ⟨0x5000c, 23, 16⟩
def DAMP_CFG_derate : Fld := ⟨0x5000c, 9, 0⟩
def DAMP_GRANT : Nat := 0x50010
def DAMP_GRANT_tokens : Fld := ⟨0x50010, 19, 0⟩
def DAMP_SAFE : Nat := 0x50014
def DAMP_SAFE_tokens : Fld := ⟨0x50014, 19, 0⟩
def DAMP_FLOOR : Nat := 0x50018
def DAMP_FLOOR_c4 : Fld := ⟨0x50018, 11, 8⟩
def DAMP_FLOOR_c3 : Fld := ⟨0x50018, 5, 0⟩
def DAMP_WEIGHT : Nat := 0x5001c
def DAMP_WEIGHT_w5 : Fld := ⟨0x5001c, 11, 8⟩
def DAMP_WEIGHT_w1 : Fld := ⟨0x5001c, 7, 4⟩
def DAMP_WEIGHT_w0 : Fld := ⟨0x5001c, 3, 0⟩
def DAMP_DEPTH (c : Nat) : Nat := 0x50020 + 0x4 * c
def DAMP_DEPTH_depth (c : Nat) : Fld := ⟨0x50020 + 0x4 * c, 19, 0⟩
def DAMP_LEVEL (c : Nat) : Nat := 0x50040 + 0x4 * c
def DAMP_LEVEL_level (c : Nat) : Fld := ⟨0x50040 + 0x4 * c, 20, 0⟩
def DAMP_QUEUE (c : Nat) : Nat := 0x50060 + 0x4 * c
def DAMP_QUEUE_head (c : Nat) : Fld := ⟨0x50060 + 0x4 * c, 31, 12⟩
def DAMP_QUEUE_n (c : Nat) : Fld := ⟨0x50060 + 0x4 * c, 11, 0⟩
def DAMP_DEBT : Nat := 0x50080
def DAMP_DEBT_debt : Fld := ⟨0x50080, 23, 0⟩
def DAMP_AVAIL : Nat := 0x50084
def DAMP_AVAIL_uj : Fld := ⟨0x50084, 23, 0⟩
def DAMP_BASE : Nat := 0x50088
def DAMP_BASE_uj : Fld := ⟨0x50088, 23, 0⟩
def DAMP_G : Nat := 0x5008c
def DAMP_G_uj : Fld := ⟨0x5008c, 23, 0⟩
def DAMP_DVFS : Nat := 0x50094
def DAMP_DVFS_cur : Fld := ⟨0x50094, 5, 4⟩
def DAMP_DVFS_req : Fld := ⟨0x50094, 1, 0⟩
def DAMP_TCLAMP : Nat := 0x50098
def DAMP_TCLAMP_t : Fld := ⟨0x50098, 7, 0⟩
def DAMP_DIRTY : Nat := 0x5009c
def DAMP_DIRTY_blocks : Fld := ⟨0x5009c, 23, 0⟩
def DAMP_HOLD0 : Nat := 0x500a0
def DAMP_HOLD0_eff : Fld := ⟨0x500a0, 22, 16⟩
def DAMP_HOLD0_vmin : Fld := ⟨0x500a0, 9, 0⟩
def DAMP_HOLD1 : Nat := 0x500a4
def DAMP_HOLD1_rate : Fld := ⟨0x500a4, 31, 16⟩
def DAMP_HOLD1_resv : Fld := ⟨0x500a4, 15, 0⟩
def DAMP_LVL : Nat := 0x500a8
def DAMP_LVL_level : Fld := ⟨0x500a8, 2, 0⟩
def DAMP_STREQ : Nat := 0x500b0
def DAMP_STREQ_kind : Fld := ⟨0x500b0, 31, 28⟩
def DAMP_STREQ_target : Fld := ⟨0x500b0, 15, 0⟩
def DAMP_STSTAT : Nat := 0x500b4
def DAMP_STSTAT_state : Fld := ⟨0x500b4, 31, 28⟩
def DAMP_STSTAT_pos : Fld := ⟨0x500b4, 19, 16⟩
def DAMP_STSTAT_result : Fld := ⟨0x500b4, 15, 8⟩
def DAMP_STSTAT_code : Fld := ⟨0x500b4, 3, 0⟩
def DAMP_STSTART : Nat := 0x500b8
def DAMP_STSTART_ms : Fld := ⟨0x500b8, 31, 0⟩
def DAMP_CALN (i : Nat) : Nat := 0x50100 + 0x4 * i
def DAMP_CALN_n (i : Nat) : Fld := ⟨0x50100 + 0x4 * i, 31, 0⟩
def DAMP_GRANTED_LO : Nat := 0x50140
def DAMP_GRANTED_LO_count : Fld := ⟨0x50140, 31, 0⟩
def DAMP_GRANTED_HI : Nat := 0x50144
def DAMP_GRANTED_HI_count : Fld := ⟨0x50144, 31, 0⟩
def DAMP_SPENT_LO : Nat := 0x50148
def DAMP_SPENT_LO_count : Fld := ⟨0x50148, 31, 0⟩
def DAMP_SPENT_HI : Nat := 0x5014c
def DAMP_SPENT_HI_count : Fld := ⟨0x5014c, 31, 0⟩
def DAMP_C2USE_LO : Nat := 0x50150
def DAMP_C2USE_LO_count : Fld := ⟨0x50150, 31, 0⟩
def DAMP_C2USE_HI : Nat := 0x50154
def DAMP_C2USE_HI_count : Fld := ⟨0x50154, 31, 0⟩
def DAMP_WASTE_LO : Nat := 0x50158
def DAMP_WASTE_LO_count : Fld := ⟨0x50158, 31, 0⟩
def DAMP_WASTE_HI : Nat := 0x5015c
def DAMP_WASTE_HI_count : Fld := ⟨0x5015c, 31, 0⟩

/-! Fields and registers of SENSE. -/

def SENSE_CTL : Nat := 0x60000
def SENSE_CTL_seal : Fld := ⟨0x60000, 0, 0⟩
def SENSE_ESTAT : Nat := 0x60004
def SENSE_ESTAT_sfail : Fld := ⟨0x60004, 0, 0⟩
def SENSE_TMAX : Nat := 0x60008
def SENSE_TMAX_sensor : Fld := ⟨0x60008, 27, 24⟩
def SENSE_TMAX_forced : Fld := ⟨0x60008, 16, 16⟩
def SENSE_TMAX_t : Fld := ⟨0x60008, 10, 0⟩
def SENSE_TDIE (i : Nat) : Nat := 0x60040 + 0x4 * i
def SENSE_TDIE_failed (i : Nat) : Fld := ⟨0x60040 + 0x4 * i, 16, 16⟩
def SENSE_TDIE_t (i : Nat) : Fld := ⟨0x60040 + 0x4 * i, 10, 0⟩
def SENSE_PRAIL (r : Nat) : Nat := 0x60080 + 0x4 * r
def SENSE_PRAIL_mw (r : Nat) : Fld := ⟨0x60080 + 0x4 * r, 19, 0⟩
def SENSE_PMOD : Nat := 0x600a0
def SENSE_PMOD_mw : Fld := ⟨0x600a0, 19, 0⟩

/-! Fields and registers of EVT. -/

def EVT_CTL : Nat := 0x70000
def EVT_CTL_seal : Fld := ⟨0x70000, 0, 0⟩
def EVT_SWSET : Nat := 0x70008
def EVT_SWSET_src : Fld := ⟨0x70008, 8, 0⟩
def EVT_SWREJ : Nat := 0x7000c
def EVT_SWREJ_count : Fld := ⟨0x7000c, 31, 0⟩
def EVT_MGMTIRQ : Nat := 0x70010
def EVT_MGMTIRQ_level : Fld := ⟨0x70010, 0, 0⟩
def EVT_PEND (i : Nat) : Nat := 0x70040 + 0x4 * i
def EVT_PEND_pend (i : Nat) : Fld := ⟨0x70040 + 0x4 * i, 31, 0⟩
def EVT_EN (i : Nat) : Nat := 0x70080 + 0x4 * i
def EVT_EN_en (i : Nat) : Fld := ⟨0x70080 + 0x4 * i, 31, 0⟩
def EVT_PEER (i : Nat) : Nat := 0x700c0 + 0x4 * i
def EVT_PEER_peer (i : Nat) : Fld := ⟨0x700c0 + 0x4 * i, 31, 0⟩
def EVT_ROUTE (e : Nat) : Nat := 0x71000 + 0x4 * e
def EVT_ROUTE_mgmt (e : Nat) : Fld := ⟨0x71000 + 0x4 * e, 31, 31⟩
def EVT_ROUTE_att (e : Nat) : Fld := ⟨0x71000 + 0x4 * e, 30, 30⟩
def EVT_ROUTE_twin (e : Nat) : Fld := ⟨0x71000 + 0x4 * e, 29, 29⟩
def EVT_ROUTE_wake (e : Nat) : Fld := ⟨0x71000 + 0x4 * e, 28, 28⟩
def EVT_ROUTE_engine (e : Nat) : Fld := ⟨0x71000 + 0x4 * e, 21, 16⟩
def EVT_ROUTE_tag (e : Nat) : Fld := ⟨0x71000 + 0x4 * e, 9, 0⟩
def EVT_LATCHES_LO : Nat := 0x70200
def EVT_LATCHES_LO_count : Fld := ⟨0x70200, 31, 0⟩
def EVT_LATCHES_HI : Nat := 0x70204
def EVT_LATCHES_HI_count : Fld := ⟨0x70204, 31, 0⟩

/-! Fields and registers of PMON. -/

def PMON_CTL : Nat := 0x80000
def PMON_CTL_seal : Fld := ⟨0x80000, 1, 1⟩
def PMON_CTL_freeze : Fld := ⟨0x80000, 0, 0⟩
def PMON_STAT : Nat := 0x80004
def PMON_STAT_epstop : Fld := ⟨0x80004, 3, 3⟩
def PMON_STAT_epoch : Fld := ⟨0x80004, 2, 2⟩
def PMON_STAT_sdrop : Fld := ⟨0x80004, 1, 1⟩
def PMON_STAT_shalf : Fld := ⟨0x80004, 0, 0⟩
def PMON_SBASE : Nat := 0x80008
def PMON_SBASE_base : Fld := ⟨0x80008, 14, 0⟩
def PMON_EPOCH : Nat := 0x8000c
def PMON_EPOCH_ms : Fld := ⟨0x8000c, 15, 0⟩
def PMON_EPSEQ_LO : Nat := 0x80010
def PMON_EPSEQ_LO_seq : Fld := ⟨0x80010, 31, 0⟩
def PMON_EPSEQ_HI : Nat := 0x80014
def PMON_EPSEQ_HI_seq : Fld := ⟨0x80014, 31, 0⟩
def PMON_EPCTL : Nat := 0x80018
def PMON_EPCTL_view : Fld := ⟨0x80018, 0, 0⟩
def PMON_EPSTOP : Nat := 0x8001c
def PMON_EPSTOP_dom : Fld := ⟨0x8001c, 4, 0⟩
def PMON_SDROP : Nat := 0x80020
def PMON_SDROP_count : Fld := ⟨0x80020, 31, 0⟩
def PMON_GCTL : Nat := 0x80100
def PMON_GCTL_en : Fld := ⟨0x80100, 31, 0⟩
def PMON_GOVF : Nat := 0x80104
def PMON_GOVF_ovf : Fld := ⟨0x80104, 31, 0⟩
def PMON_GSEL (j : Nat) : Nat := 0x80200 + 0x4 * j
def PMON_GSEL_src (j : Nat) : Fld := ⟨0x80200 + 0x4 * j, 24, 16⟩
def PMON_GSEL_event (j : Nat) : Fld := ⟨0x80200 + 0x4 * j, 8, 0⟩
def PMON_GCNT_LO (j : Nat) : Nat := 0x80400 + 0x8 * j
def PMON_GCNT_LO_count (j : Nat) : Fld := ⟨0x80400 + 0x8 * j, 31, 0⟩
def PMON_GCNT_HI (j : Nat) : Nat := 0x80404 + 0x8 * j
def PMON_GCNT_HI_count (j : Nat) : Fld := ⟨0x80404 + 0x8 * j, 15, 0⟩
def PMON_ECTL (e : Nat) : Nat := 0x81000 + 0x100 * e
def PMON_ECTL_samp (e : Nat) : Fld := ⟨0x81000 + 0x100 * e, 17, 9⟩
def PMON_ECTL_en (e : Nat) : Fld := ⟨0x81000 + 0x100 * e, 8, 0⟩
def PMON_ESTAT (e : Nat) : Nat := 0x81004 + 0x100 * e
def PMON_ESTAT_ovf (e : Nat) : Fld := ⟨0x81004 + 0x100 * e, 8, 0⟩
def PMON_ESEL (e k : Nat) : Nat := 0x81008 + 0x100 * e + 0x4 * k
def PMON_ESEL_smask (e k : Nat) : Fld := ⟨0x81008 + 0x100 * e + 0x4 * k, 23, 16⟩
def PMON_ESEL_event (e k : Nat) : Fld := ⟨0x81008 + 0x100 * e + 0x4 * k, 8, 0⟩
def PMON_ECYC_LO (e : Nat) : Nat := 0x81040 + 0x100 * e
def PMON_ECYC_LO_count (e : Nat) : Fld := ⟨0x81040 + 0x100 * e, 31, 0⟩
def PMON_ECYC_HI (e : Nat) : Nat := 0x81044 + 0x100 * e
def PMON_ECYC_HI_count (e : Nat) : Fld := ⟨0x81044 + 0x100 * e, 15, 0⟩
def PMON_ECNT_LO (e k : Nat) : Nat := 0x81040 + 0x100 * e + 0x8 * k
def PMON_ECNT_LO_count (e k : Nat) : Fld := ⟨0x81040 + 0x100 * e + 0x8 * k, 31, 0⟩
def PMON_ECNT_HI (e k : Nat) : Nat := 0x81044 + 0x100 * e + 0x8 * k
def PMON_ECNT_HI_count (e k : Nat) : Fld := ⟨0x81044 + 0x100 * e + 0x8 * k, 15, 0⟩
def PMON_SPI (e : Nat) : Nat := 0x81090 + 0x100 * e
def PMON_SPI_pi (e : Nat) : Fld := ⟨0x81090 + 0x100 * e, 9, 0⟩
def PMON_SCI (e : Nat) : Nat := 0x81094 + 0x100 * e
def PMON_SCI_ci (e : Nat) : Fld := ⟨0x81094 + 0x100 * e, 9, 0⟩

/-! Fields and registers of MGMT. -/

def MGMT_CTL : Nat := 0x90000
def MGMT_CTL_seal : Fld := ⟨0x90000, 0, 0⟩
def MGMT_ESTAT : Nat := 0x90004
def MGMT_ESTAT_failsafe : Fld := ⟨0x90004, 4, 4⟩
def MGMT_ESTAT_fan : Fld := ⟨0x90004, 3, 3⟩
def MGMT_ESTAT_mbrej : Fld := ⟨0x90004, 2, 2⟩
def MGMT_ESTAT_reply : Fld := ⟨0x90004, 1, 1⟩
def MGMT_ESTAT_regerr : Fld := ⟨0x90004, 0, 0⟩
def MGMT_MBTXPI : Nat := 0x90010
def MGMT_MBTXPI_idx : Fld := ⟨0x90010, 8, 0⟩
def MGMT_MBTXCI : Nat := 0x90014
def MGMT_MBTXCI_idx : Fld := ⟨0x90014, 8, 0⟩
def MGMT_MBRXPI : Nat := 0x90018
def MGMT_MBRXPI_idx : Fld := ⟨0x90018, 8, 0⟩
def MGMT_MBRXCI : Nat := 0x9001c
def MGMT_MBRXCI_idx : Fld := ⟨0x9001c, 8, 0⟩
def MGMT_MBCFG : Nat := 0x90020
def MGMT_MBCFG_engine : Fld := ⟨0x90020, 21, 16⟩
def MGMT_MBCFG_tag : Fld := ⟨0x90020, 9, 0⟩
def MGMT_LOGSEQ_LO : Nat := 0x90030
def MGMT_LOGSEQ_LO_seq : Fld := ⟨0x90030, 31, 0⟩
def MGMT_LOGSEQ_HI : Nat := 0x90034
def MGMT_LOGSEQ_HI_seq : Fld := ⟨0x90034, 31, 0⟩
def MGMT_LOGW : Nat := 0x90038
def MGMT_LOGW_go : Fld := ⟨0x90038, 0, 0⟩
def MGMT_LOGLOST : Nat := 0x9003c
def MGMT_LOGLOST_count : Fld := ⟨0x9003c, 31, 0⟩
def MGMT_LOGDATA (w : Nat) : Nat := 0x90040 + 0x4 * w
def MGMT_LOGDATA_dw (w : Nat) : Fld := ⟨0x90040 + 0x4 * w, 31, 0⟩
def MGMT_SMBT : Nat := 0x90080
def MGMT_SMBT_fast : Fld := ⟨0x90080, 8, 8⟩
def MGMT_SMBT_addr : Fld := ⟨0x90080, 6, 0⟩
def MGMT_NICCFG : Nat := 0x90084
def MGMT_NICCFG_class : Fld := ⟨0x90084, 2, 0⟩
def MGMT_VDMDROP : Nat := 0x90088
def MGMT_VDMDROP_count : Fld := ⟨0x90088, 31, 0⟩
def MGMT_FAN (f : Nat) : Nat := 0x90100 + 0x4 * f
def MGMT_FAN_duty (f : Nat) : Fld := ⟨0x90100 + 0x4 * f, 7, 0⟩
def MGMT_TACH (f : Nat) : Nat := 0x90120 + 0x4 * f
def MGMT_TACH_rpm (f : Nat) : Fld := ⟨0x90120 + 0x4 * f, 15, 0⟩
def MGMT_FANCFG : Nat := 0x90140
def MGMT_FANCFG_minrpm : Fld := ⟨0x90140, 31, 16⟩
def MGMT_FANCFG_tmo : Fld := ⟨0x90140, 7, 0⟩
def MGMT_LED (i : Nat) : Nat := 0x90160 + 0x4 * i
def MGMT_LED_led (i j : Nat) : Fld := ⟨0x90160 + 0x4 * i, 4 * j + 3, 4 * j⟩
def MGMT_LEDCFG : Nat := 0x90180
def MGMT_LEDCFG_n : Fld := ⟨0x90180, 6, 0⟩
def MGMT_GPIO : Nat := 0x90184
def MGMT_GPIO_in : Fld := ⟨0x90184, 1, 1⟩
def MGMT_GPIO_out : Fld := ⟨0x90184, 0, 0⟩

/-! Fields and registers of CLK. -/

def CLK_CTL : Nat := 0xa0000
def CLK_CTL_seal : Fld := ⟨0xa0000, 0, 0⟩
def CLK_DOMSTAT : Nat := 0xa0004
def CLK_DOMSTAT_run : Fld := ⟨0xa0004, 13, 0⟩
def CLK_QSTAT : Nat := 0xa0008
def CLK_QSTAT_run : Fld := ⟨0xa0008, 7, 0⟩
def CLK_ESTAT : Nat := 0xa000c
def CLK_ESTAT_hang : Fld := ⟨0xa000c, 4, 4⟩
def CLK_ESTAT_unlock : Fld := ⟨0xa000c, 3, 3⟩
def CLK_ESTAT_abandon : Fld := ⟨0xa000c, 2, 2⟩
def CLK_ESTAT_change : Fld := ⟨0xa000c, 1, 1⟩
def CLK_ESTAT_lost : Fld := ⟨0xa000c, 0, 0⟩
def CLK_STOPC : Nat := 0xa0010
def CLK_STOPC_stopped : Fld := ⟨0xa0010, 13, 0⟩
def CLK_HANG : Nat := 0xa0014
def CLK_HANG_valid : Fld := ⟨0xa0014, 31, 31⟩
def CLK_HANG_acc : Fld := ⟨0xa0014, 30, 28⟩
def CLK_HANG_dom : Fld := ⟨0xa0014, 27, 24⟩
def CLK_HANG_offset : Fld := ⟨0xa0014, 23, 0⟩
def CLK_HANGN : Nat := 0xa0018
def CLK_HANGN_count : Fld := ⟨0xa0018, 31, 0⟩
def CLK_ABANDON : Nat := 0xa001c
def CLK_ABANDON_count : Fld := ⟨0xa001c, 31, 0⟩
def CLK_PLL : Nat := 0xa0020
def CLK_PLL_att : Fld := ⟨0xa0020, 4, 4⟩
def CLK_PLL_drv1 : Fld := ⟨0xa0020, 3, 3⟩
def CLK_PLL_drv0 : Fld := ⟨0xa0020, 2, 2⟩
def CLK_PLL_seam : Fld := ⟨0xa0020, 1, 1⟩
def CLK_PLL_mgmt : Fld := ⟨0xa0020, 0, 0⟩

/-! Fields and registers of NETP. -/

def NETP_SCTL (s : Nat) : Nat := 0x100000 + 0x1000 * s
def NETP_SCTL_fec25 (s : Nat) : Fld := ⟨0x100000 + 0x1000 * s, 6, 5⟩
def NETP_SCTL_an (s : Nat) : Fld := ⟨0x100000 + 0x1000 * s, 4, 4⟩
def NETP_SCTL_fc (s : Nat) : Fld := ⟨0x100000 + 0x1000 * s, 3, 2⟩
def NETP_SCTL_admin (s : Nat) : Fld := ⟨0x100000 + 0x1000 * s, 0, 0⟩
def NETP_SSTAT (s : Nat) : Nat := 0x100004 + 0x1000 * s
def NETP_SSTAT_txsup (s : Nat) : Fld := ⟨0x100004 + 0x1000 * s, 8, 8⟩
def NETP_SSTAT_rfault (s : Nat) : Fld := ⟨0x100004 + 0x1000 * s, 7, 7⟩
def NETP_SSTAT_lfault (s : Nat) : Fld := ⟨0x100004 + 0x1000 * s, 6, 6⟩
def NETP_SSTAT_align (s : Nat) : Fld := ⟨0x100004 + 0x1000 * s, 5, 5⟩
def NETP_SSTAT_state (s : Nat) : Fld := ⟨0x100004 + 0x1000 * s, 3, 1⟩
def NETP_SSTAT_up (s : Nat) : Fld := ⟨0x100004 + 0x1000 * s, 0, 0⟩
def NETP_ESTAT (s : Nat) : Nat := 0x100008 + 0x1000 * s
def NETP_ESTAT_pfcwd (s : Nat) : Fld := ⟨0x100008 + 0x1000 * s, 4, 4⟩
def NETP_ESTAT_fecdeg (s : Nat) : Fld := ⟨0x100008 + 0x1000 * s, 3, 3⟩
def NETP_ESTAT_flap (s : Nat) : Fld := ⟨0x100008 + 0x1000 * s, 2, 2⟩
def NETP_ESTAT_rej (s : Nat) : Fld := ⟨0x100008 + 0x1000 * s, 1, 1⟩
def NETP_ESTAT_link (s : Nat) : Fld := ⟨0x100008 + 0x1000 * s, 0, 0⟩
def NETP_LCFG (s : Nat) : Nat := 0x10000c + 0x1000 * s
def NETP_LCFG_dn_us (s : Nat) : Fld := ⟨0x10000c + 0x1000 * s, 25, 16⟩
def NETP_LCFG_upq (s : Nat) : Fld := ⟨0x10000c + 0x1000 * s, 7, 0⟩
def NETP_MCFG (s : Nat) : Nat := 0x100010 + 0x1000 * s
def NETP_MCFG_maxlen (s : Nat) : Fld := ⟨0x100010 + 0x1000 * s, 13, 0⟩
def NETP_PFCCFG (s : Nat) : Nat := 0x100014 + 0x1000 * s
def NETP_PFCCFG_quanta (s : Nat) : Fld := ⟨0x100014 + 0x1000 * s, 31, 16⟩
def NETP_PFCCFG_wd (s : Nat) : Fld := ⟨0x100014 + 0x1000 * s, 15, 8⟩
def NETP_PFCCFG_pmask (s : Nat) : Fld := ⟨0x100014 + 0x1000 * s, 7, 0⟩
def NETP_FECTHR (s : Nat) : Nat := 0x100018 + 0x1000 * s
def NETP_FECTHR_en (s : Nat) : Fld := ⟨0x100018 + 0x1000 * s, 31, 31⟩
def NETP_FECTHR_ucw (s : Nat) : Fld := ⟨0x100018 + 0x1000 * s, 15, 0⟩
def NETP_MAC_LO (s : Nat) : Nat := 0x100020 + 0x1000 * s
def NETP_MAC_LO_mac (s : Nat) : Fld := ⟨0x100020 + 0x1000 * s, 31, 0⟩
def NETP_MAC_HI (s : Nat) : Nat := 0x100024 + 0x1000 * s
def NETP_MAC_HI_mac (s : Nat) : Fld := ⟨0x100024 + 0x1000 * s, 15, 0⟩
def NETP_QCFG (q : Nat) : Nat := 0x100c00 + 0x4000 * q
def NETP_QCFG_mode (q : Nat) : Fld := ⟨0x100c00 + 0x4000 * q, 3, 0⟩
def NETP_QSTAT (q : Nat) : Nat := 0x100c04 + 0x4000 * q
def NETP_QSTAT_busy (q : Nat) : Fld := ⟨0x100c04 + 0x4000 * q, 1, 1⟩
def NETP_QSTAT_seal (q : Nat) : Fld := ⟨0x100c04 + 0x4000 * q, 0, 0⟩
def NETP_LANE (q l : Nat) : Nat := 0x100c40 + 0x4000 * q + 0x4 * l
def NETP_LANE_snr (q l : Nat) : Fld := ⟨0x100c40 + 0x4000 * q + 0x4 * l, 25, 16⟩
def NETP_LANE_lpbk (q l : Nat) : Fld := ⟨0x100c40 + 0x4000 * q + 0x4 * l, 2, 2⟩
def NETP_LANE_rxinv (q l : Nat) : Fld := ⟨0x100c40 + 0x4000 * q + 0x4 * l, 1, 1⟩
def NETP_LANE_txinv (q l : Nat) : Fld := ⟨0x100c40 + 0x4000 * q + 0x4 * l, 0, 0⟩
def NETP_RXFRM_LO (s : Nat) : Nat := 0x100100 + 0x1000 * s
def NETP_RXFRM_LO_count (s : Nat) : Fld := ⟨0x100100 + 0x1000 * s, 31, 0⟩
def NETP_RXFRM_HI (s : Nat) : Nat := 0x100104 + 0x1000 * s
def NETP_RXFRM_HI_count (s : Nat) : Fld := ⟨0x100104 + 0x1000 * s, 31, 0⟩
def NETP_RXOCT_LO (s : Nat) : Nat := 0x100108 + 0x1000 * s
def NETP_RXOCT_LO_count (s : Nat) : Fld := ⟨0x100108 + 0x1000 * s, 31, 0⟩
def NETP_RXOCT_HI (s : Nat) : Nat := 0x10010c + 0x1000 * s
def NETP_RXOCT_HI_count (s : Nat) : Fld := ⟨0x10010c + 0x1000 * s, 31, 0⟩
def NETP_TXFRM_LO (s : Nat) : Nat := 0x100110 + 0x1000 * s
def NETP_TXFRM_LO_count (s : Nat) : Fld := ⟨0x100110 + 0x1000 * s, 31, 0⟩
def NETP_TXFRM_HI (s : Nat) : Nat := 0x100114 + 0x1000 * s
def NETP_TXFRM_HI_count (s : Nat) : Fld := ⟨0x100114 + 0x1000 * s, 31, 0⟩
def NETP_TXOCT_LO (s : Nat) : Nat := 0x100118 + 0x1000 * s
def NETP_TXOCT_LO_count (s : Nat) : Fld := ⟨0x100118 + 0x1000 * s, 31, 0⟩
def NETP_TXOCT_HI (s : Nat) : Nat := 0x10011c + 0x1000 * s
def NETP_TXOCT_HI_count (s : Nat) : Fld := ⟨0x10011c + 0x1000 * s, 31, 0⟩
def NETP_RXFCS_LO (s : Nat) : Nat := 0x100120 + 0x1000 * s
def NETP_RXFCS_LO_count (s : Nat) : Fld := ⟨0x100120 + 0x1000 * s, 31, 0⟩
def NETP_RXFCS_HI (s : Nat) : Nat := 0x100124 + 0x1000 * s
def NETP_RXFCS_HI_count (s : Nat) : Fld := ⟨0x100124 + 0x1000 * s, 31, 0⟩
def NETP_RXRUNT_LO (s : Nat) : Nat := 0x100128 + 0x1000 * s
def NETP_RXRUNT_LO_count (s : Nat) : Fld := ⟨0x100128 + 0x1000 * s, 31, 0⟩
def NETP_RXRUNT_HI (s : Nat) : Nat := 0x10012c + 0x1000 * s
def NETP_RXRUNT_HI_count (s : Nat) : Fld := ⟨0x10012c + 0x1000 * s, 31, 0⟩
def NETP_RXOVER_LO (s : Nat) : Nat := 0x100130 + 0x1000 * s
def NETP_RXOVER_LO_count (s : Nat) : Fld := ⟨0x100130 + 0x1000 * s, 31, 0⟩
def NETP_RXOVER_HI (s : Nat) : Nat := 0x100134 + 0x1000 * s
def NETP_RXOVER_HI_count (s : Nat) : Fld := ⟨0x100134 + 0x1000 * s, 31, 0⟩
def NETP_TXABORT_LO (s : Nat) : Nat := 0x100138 + 0x1000 * s
def NETP_TXABORT_LO_count (s : Nat) : Fld := ⟨0x100138 + 0x1000 * s, 31, 0⟩
def NETP_TXABORT_HI (s : Nat) : Nat := 0x10013c + 0x1000 * s
def NETP_TXABORT_HI_count (s : Nat) : Fld := ⟨0x10013c + 0x1000 * s, 31, 0⟩
def NETP_FECCW_LO (s : Nat) : Nat := 0x100140 + 0x1000 * s
def NETP_FECCW_LO_count (s : Nat) : Fld := ⟨0x100140 + 0x1000 * s, 31, 0⟩
def NETP_FECCW_HI (s : Nat) : Nat := 0x100144 + 0x1000 * s
def NETP_FECCW_HI_count (s : Nat) : Fld := ⟨0x100144 + 0x1000 * s, 31, 0⟩
def NETP_FECUCW_LO (s : Nat) : Nat := 0x100148 + 0x1000 * s
def NETP_FECUCW_LO_count (s : Nat) : Fld := ⟨0x100148 + 0x1000 * s, 31, 0⟩
def NETP_FECUCW_HI (s : Nat) : Nat := 0x10014c + 0x1000 * s
def NETP_FECUCW_HI_count (s : Nat) : Fld := ⟨0x10014c + 0x1000 * s, 31, 0⟩
def NETP_FLAPS_LO (s : Nat) : Nat := 0x100150 + 0x1000 * s
def NETP_FLAPS_LO_count (s : Nat) : Fld := ⟨0x100150 + 0x1000 * s, 31, 0⟩
def NETP_FLAPS_HI (s : Nat) : Nat := 0x100154 + 0x1000 * s
def NETP_FLAPS_HI_count (s : Nat) : Fld := ⟨0x100154 + 0x1000 * s, 31, 0⟩
def NETP_LINKDN_LO (s : Nat) : Nat := 0x100158 + 0x1000 * s
def NETP_LINKDN_LO_count (s : Nat) : Fld := ⟨0x100158 + 0x1000 * s, 31, 0⟩
def NETP_LINKDN_HI (s : Nat) : Nat := 0x10015c + 0x1000 * s
def NETP_LINKDN_HI_count (s : Nat) : Fld := ⟨0x10015c + 0x1000 * s, 31, 0⟩
def NETP_RXCTL_LO (s : Nat) : Nat := 0x100160 + 0x1000 * s
def NETP_RXCTL_LO_count (s : Nat) : Fld := ⟨0x100160 + 0x1000 * s, 31, 0⟩
def NETP_RXCTL_HI (s : Nat) : Nat := 0x100164 + 0x1000 * s
def NETP_RXCTL_HI_count (s : Nat) : Fld := ⟨0x100164 + 0x1000 * s, 31, 0⟩
def NETP_PFCWD_LO (s : Nat) : Nat := 0x100168 + 0x1000 * s
def NETP_PFCWD_LO_count (s : Nat) : Fld := ⟨0x100168 + 0x1000 * s, 31, 0⟩
def NETP_PFCWD_HI (s : Nat) : Nat := 0x10016c + 0x1000 * s
def NETP_PFCWD_HI_count (s : Nat) : Fld := ⟨0x10016c + 0x1000 * s, 31, 0⟩
def NETP_PAUSERX_LO (s : Nat) : Nat := 0x100170 + 0x1000 * s
def NETP_PAUSERX_LO_count (s : Nat) : Fld := ⟨0x100170 + 0x1000 * s, 31, 0⟩
def NETP_PAUSERX_HI (s : Nat) : Nat := 0x100174 + 0x1000 * s
def NETP_PAUSERX_HI_count (s : Nat) : Fld := ⟨0x100174 + 0x1000 * s, 31, 0⟩
def NETP_PAUSETX_LO (s : Nat) : Nat := 0x100178 + 0x1000 * s
def NETP_PAUSETX_LO_count (s : Nat) : Fld := ⟨0x100178 + 0x1000 * s, 31, 0⟩
def NETP_PAUSETX_HI (s : Nat) : Nat := 0x10017c + 0x1000 * s
def NETP_PAUSETX_HI_count (s : Nat) : Fld := ⟨0x10017c + 0x1000 * s, 31, 0⟩
def NETP_PFCRX_LO (s c : Nat) : Nat := 0x100180 + 0x1000 * s + 0x8 * c
def NETP_PFCRX_LO_count (s c : Nat) : Fld := ⟨0x100180 + 0x1000 * s + 0x8 * c, 31, 0⟩
def NETP_PFCRX_HI (s c : Nat) : Nat := 0x100184 + 0x1000 * s + 0x8 * c
def NETP_PFCRX_HI_count (s c : Nat) : Fld := ⟨0x100184 + 0x1000 * s + 0x8 * c, 31, 0⟩
def NETP_PFCTX_LO (s c : Nat) : Nat := 0x1001c0 + 0x1000 * s + 0x8 * c
def NETP_PFCTX_LO_count (s c : Nat) : Fld := ⟨0x1001c0 + 0x1000 * s + 0x8 * c, 31, 0⟩
def NETP_PFCTX_HI (s c : Nat) : Nat := 0x1001c4 + 0x1000 * s + 0x8 * c
def NETP_PFCTX_HI_count (s c : Nat) : Fld := ⟨0x1001c4 + 0x1000 * s + 0x8 * c, 31, 0⟩

/-! Fields and registers of SWC. -/

def SWC_CTL : Nat := 0x140000
def SWC_CTL_seal : Fld := ⟨0x140000, 0, 0⟩
def SWC_STAT : Nat := 0x140004
def SWC_STAT_resovf : Fld := ⟨0x140004, 4, 4⟩
def SWC_STAT_press : Fld := ⟨0x140004, 3, 3⟩
def SWC_STAT_cfgerr : Fld := ⟨0x140004, 2, 2⟩
def SWC_STAT_loopdrop : Fld := ⟨0x140004, 1, 1⟩
def SWC_STAT_bmove : Fld := ⟨0x140004, 0, 0⟩
def SWC_BOUND : Nat := 0x140008
def SWC_BOUND_cells : Fld := ⟨0x140008, 18, 0⟩
def SWC_BSTAT : Nat := 0x14000c
def SWC_BSTAT_pending : Fld := ⟨0x14000c, 31, 31⟩
def SWC_BSTAT_cur : Fld := ⟨0x14000c, 18, 0⟩
def SWC_SHARED : Nat := 0x140010
def SWC_SHARED_s : Fld := ⟨0x140010, 18, 0⟩
def SWC_SUSED : Nat := 0x140014
def SWC_SUSED_u : Fld := ⟨0x140014, 18, 0⟩
def SWC_PRESS : Nat := 0x140018
def SWC_PRESS_cells : Fld := ⟨0x140018, 18, 0⟩
def SWC_MCAST : Nat := 0x14001c
def SWC_MCAST_age : Fld := ⟨0x14001c, 7, 0⟩
def SWC_RESID : Nat := 0x140020
def SWC_RESID_used : Fld := ⟨0x140020, 13, 0⟩
def SWC_HOLD : Nat := 0x140024
def SWC_HOLD_maxres : Fld := ⟨0x140024, 23, 16⟩
def SWC_HOLD_hold : Fld := ⟨0x140024, 7, 0⟩
def SWC_MIRROR : Nat := 0x140028
def SWC_MIRROR_en : Fld := ⟨0x140028, 31, 31⟩
def SWC_MIRROR_dir : Fld := ⟨0x140028, 30, 29⟩
def SWC_MIRROR_src : Fld := ⟨0x140028, 13, 8⟩
def SWC_MIRROR_dst : Fld := ⟨0x140028, 4, 0⟩
def SWC_DSCP (i : Nat) : Nat := 0x140040 + 0x4 * i
def SWC_DSCP_class (i j : Nat) : Fld := ⟨0x140040 + 0x4 * i, 4 * j + 2, 4 * j⟩
def SWC_PCFG (p : Nat) : Nat := 0x141000 + 0x200 * p
def SWC_PCFG_csel (p : Nat) : Fld := ⟨0x141000 + 0x200 * p, 9, 8⟩
def SWC_PCFG_dclass (p : Nat) : Fld := ⟨0x141000 + 0x200 * p, 6, 4⟩
def SWC_PSTAT (p : Nat) : Nat := 0x141004 + 0x200 * p
def SWC_PSTAT_xoff (p : Nat) : Fld := ⟨0x141004 + 0x200 * p, 31, 24⟩
def SWC_PSTAT_paused (p : Nat) : Fld := ⟨0x141004 + 0x200 * p, 23, 16⟩
def SWC_PSTAT_hold (p : Nat) : Fld := ⟨0x141004 + 0x200 * p, 1, 1⟩
def SWC_PSTAT_up (p : Nat) : Fld := ⟨0x141004 + 0x200 * p, 0, 0⟩
def SWC_SCHED (p : Nat) : Nat := 0x141008 + 0x200 * p
def SWC_SCHED_sp (p : Nat) : Fld := ⟨0x141008 + 0x200 * p, 7, 0⟩
def SWC_WEIGHT (p : Nat) : Nat := 0x14100c + 0x200 * p
def SWC_WEIGHT_w (p j : Nat) : Fld := ⟨0x14100c + 0x200 * p, 4 * j + 3, 4 * j⟩
def SWC_HELD (p : Nat) : Nat := 0x141010 + 0x200 * p
def SWC_HELD_cells (p : Nat) : Fld := ⟨0x141010 + 0x200 * p, 18, 0⟩
def SWC_QCFG (p c : Nat) : Nat := 0x141020 + 0x200 * p + 0x4 * c
def SWC_QCFG_ll (p c : Nat) : Fld := ⟨0x141020 + 0x200 * p + 0x4 * c, 31, 31⟩
def SWC_QCFG_alpha (p c : Nat) : Fld := ⟨0x141020 + 0x200 * p + 0x4 * c, 14, 12⟩
def SWC_QCFG_min (p c : Nat) : Fld := ⟨0x141020 + 0x200 * p + 0x4 * c, 11, 0⟩
def SWC_QECN (p c : Nat) : Nat := 0x141040 + 0x200 * p + 0x4 * c
def SWC_QECN_hard (p c : Nat) : Fld := ⟨0x141040 + 0x200 * p + 0x4 * c, 31, 16⟩
def SWC_QECN_kmark (p c : Nat) : Fld := ⟨0x141040 + 0x200 * p + 0x4 * c, 15, 0⟩
def SWC_QPFC (p c : Nat) : Nat := 0x141060 + 0x200 * p + 0x4 * c
def SWC_QPFC_hdrm (p c : Nat) : Fld := ⟨0x141060 + 0x200 * p + 0x4 * c, 31, 24⟩
def SWC_QPFC_xon (p c : Nat) : Fld := ⟨0x141060 + 0x200 * p + 0x4 * c, 23, 12⟩
def SWC_QPFC_xoff (p c : Nat) : Fld := ⟨0x141060 + 0x200 * p + 0x4 * c, 11, 0⟩
def SWC_QDEPTH (p c : Nat) : Nat := 0x141080 + 0x200 * p + 0x4 * c
def SWC_QDEPTH_d (p c : Nat) : Fld := ⟨0x141080 + 0x200 * p + 0x4 * c, 18, 0⟩
def SWC_IACCT (p c : Nat) : Nat := 0x1410a0 + 0x200 * p + 0x4 * c
def SWC_IACCT_i (p c : Nat) : Fld := ⟨0x1410a0 + 0x200 * p + 0x4 * c, 18, 0⟩
def SWC_ENQ_LO (p : Nat) : Nat := 0x1410c0 + 0x200 * p
def SWC_ENQ_LO_count (p : Nat) : Fld := ⟨0x1410c0 + 0x200 * p, 31, 0⟩
def SWC_ENQ_HI (p : Nat) : Nat := 0x1410c4 + 0x200 * p
def SWC_ENQ_HI_count (p : Nat) : Fld := ⟨0x1410c4 + 0x200 * p, 31, 0⟩
def SWC_DEQ_LO (p : Nat) : Nat := 0x1410c8 + 0x200 * p
def SWC_DEQ_LO_count (p : Nat) : Fld := ⟨0x1410c8 + 0x200 * p, 31, 0⟩
def SWC_DEQ_HI (p : Nat) : Nat := 0x1410cc + 0x200 * p
def SWC_DEQ_HI_count (p : Nat) : Fld := ⟨0x1410cc + 0x200 * p, 31, 0⟩
def SWC_DROP_ADM_LO (p : Nat) : Nat := 0x1410d0 + 0x200 * p
def SWC_DROP_ADM_LO_count (p : Nat) : Fld := ⟨0x1410d0 + 0x200 * p, 31, 0⟩
def SWC_DROP_ADM_HI (p : Nat) : Nat := 0x1410d4 + 0x200 * p
def SWC_DROP_ADM_HI_count (p : Nat) : Fld := ⟨0x1410d4 + 0x200 * p, 31, 0⟩
def SWC_DROP_HARD_LO (p : Nat) : Nat := 0x1410d8 + 0x200 * p
def SWC_DROP_HARD_LO_count (p : Nat) : Fld := ⟨0x1410d8 + 0x200 * p, 31, 0⟩
def SWC_DROP_HARD_HI (p : Nat) : Nat := 0x1410dc + 0x200 * p
def SWC_DROP_HARD_HI_count (p : Nat) : Fld := ⟨0x1410dc + 0x200 * p, 31, 0⟩
def SWC_DROP_HDRM_LO (p : Nat) : Nat := 0x1410e0 + 0x200 * p
def SWC_DROP_HDRM_LO_count (p : Nat) : Fld := ⟨0x1410e0 + 0x200 * p, 31, 0⟩
def SWC_DROP_HDRM_HI (p : Nat) : Nat := 0x1410e4 + 0x200 * p
def SWC_DROP_HDRM_HI_count (p : Nat) : Fld := ⟨0x1410e4 + 0x200 * p, 31, 0⟩
def SWC_DROP_DOWN_LO (p : Nat) : Nat := 0x1410e8 + 0x200 * p
def SWC_DROP_DOWN_LO_count (p : Nat) : Fld := ⟨0x1410e8 + 0x200 * p, 31, 0⟩
def SWC_DROP_DOWN_HI (p : Nat) : Nat := 0x1410ec + 0x200 * p
def SWC_DROP_DOWN_HI_count (p : Nat) : Fld := ⟨0x1410ec + 0x200 * p, 31, 0⟩
def SWC_DROP_AGE_LO (p : Nat) : Nat := 0x1410f0 + 0x200 * p
def SWC_DROP_AGE_LO_count (p : Nat) : Fld := ⟨0x1410f0 + 0x200 * p, 31, 0⟩
def SWC_DROP_AGE_HI (p : Nat) : Nat := 0x1410f4 + 0x200 * p
def SWC_DROP_AGE_HI_count (p : Nat) : Fld := ⟨0x1410f4 + 0x200 * p, 31, 0⟩
def SWC_DROP_MCAGE_LO (p : Nat) : Nat := 0x1410f8 + 0x200 * p
def SWC_DROP_MCAGE_LO_count (p : Nat) : Fld := ⟨0x1410f8 + 0x200 * p, 31, 0⟩
def SWC_DROP_MCAGE_HI (p : Nat) : Nat := 0x1410fc + 0x200 * p
def SWC_DROP_MCAGE_HI_count (p : Nat) : Fld := ⟨0x1410fc + 0x200 * p, 31, 0⟩
def SWC_FLUSH_LO (p : Nat) : Nat := 0x141100 + 0x200 * p
def SWC_FLUSH_LO_count (p : Nat) : Fld := ⟨0x141100 + 0x200 * p, 31, 0⟩
def SWC_FLUSH_HI (p : Nat) : Nat := 0x141104 + 0x200 * p
def SWC_FLUSH_HI_count (p : Nat) : Fld := ⟨0x141104 + 0x200 * p, 31, 0⟩
def SWC_ECNMARK_LO (p : Nat) : Nat := 0x141108 + 0x200 * p
def SWC_ECNMARK_LO_count (p : Nat) : Fld := ⟨0x141108 + 0x200 * p, 31, 0⟩
def SWC_ECNMARK_HI (p : Nat) : Nat := 0x14110c + 0x200 * p
def SWC_ECNMARK_HI_count (p : Nat) : Fld := ⟨0x14110c + 0x200 * p, 31, 0⟩
def SWC_NOCELL_LO (p : Nat) : Nat := 0x141110 + 0x200 * p
def SWC_NOCELL_LO_count (p : Nat) : Fld := ⟨0x141110 + 0x200 * p, 31, 0⟩
def SWC_NOCELL_HI (p : Nat) : Nat := 0x141114 + 0x200 * p
def SWC_NOCELL_HI_count (p : Nat) : Fld := ⟨0x141114 + 0x200 * p, 31, 0⟩
def SWC_RESOVF_LO : Nat := 0x140080
def SWC_RESOVF_LO_count : Fld := ⟨0x140080, 31, 0⟩
def SWC_RESOVF_HI : Nat := 0x140084
def SWC_RESOVF_HI_count : Fld := ⟨0x140084, 31, 0⟩
def SWC_LOOPDROP_LO : Nat := 0x140088
def SWC_LOOPDROP_LO_count : Fld := ⟨0x140088, 31, 0⟩
def SWC_LOOPDROP_HI : Nat := 0x14008c
def SWC_LOOPDROP_HI_count : Fld := ⟨0x14008c, 31, 0⟩

/-! Fields and registers of FWD. -/

def FWD_CTL : Nat := 0x160000
def FWD_CTL_seal : Fld := ⟨0x160000, 1, 1⟩
def FWD_CTL_en : Fld := ⟨0x160000, 0, 0⟩
def FWD_STAT : Nat := 0x160004
def FWD_STAT_badshadow : Fld := ⟨0x160004, 4, 4⟩
def FWD_STAT_agelog : Fld := ⟨0x160004, 3, 3⟩
def FWD_STAT_crcerr : Fld := ⟨0x160004, 2, 2⟩
def FWD_STAT_ue : Fld := ⟨0x160004, 1, 1⟩
def FWD_STAT_insfail : Fld := ⟨0x160004, 0, 0⟩
def FWD_HSEED : Nat := 0x160008
def FWD_HSEED_seed : Fld := ⟨0x160008, 31, 0⟩
def FWD_RMAC_LO : Nat := 0x16000c
def FWD_RMAC_LO_mac : Fld := ⟨0x16000c, 31, 0⟩
def FWD_RMAC_HI : Nat := 0x160010
def FWD_RMAC_HI_mac : Fld := ⟨0x160010, 15, 0⟩
def FWD_VERSION : Nat := 0x160014
def FWD_VERSION_ver : Fld := ⟨0x160014, 31, 0⟩
def FWD_SHVER : Nat := 0x160018
def FWD_SHVER_ver : Fld := ⟨0x160018, 31, 0⟩
def FWD_SHBASE : Nat := 0x16001c
def FWD_SHBASE_base : Fld := ⟨0x16001c, 14, 0⟩
def FWD_RINSE : Nat := 0x160020
def FWD_RINSE_en : Fld := ⟨0x160020, 31, 31⟩
def FWD_RINSE_repair : Fld := ⟨0x160020, 16, 16⟩
def FWD_RINSE_sweep : Fld := ⟨0x160020, 15, 0⟩
def FWD_RBAD : Nat := 0x160024
def FWD_RBAD_bucket : Fld := ⟨0x160024, 16, 0⟩
def FWD_TICKCFG : Nat := 0x160028
def FWD_TICKCFG_tick : Fld := ⟨0x160028, 31, 16⟩
def FWD_TICKCFG_period : Fld := ⟨0x160028, 15, 0⟩
def FWD_AGE (k : Nat) : Nat := 0x160030 + 0x4 * k
def FWD_AGE_mode (k : Nat) : Fld := ⟨0x160030 + 0x4 * k, 31, 30⟩
def FWD_AGE_limit (k : Nat) : Fld := ⟨0x160030 + 0x4 * k, 15, 0⟩
def FWD_UPD_CMD (i : Nat) : Nat := 0x160040 + 0x100 * i
def FWD_UPD_CMD_busy (i : Nat) : Fld := ⟨0x160040 + 0x100 * i, 31, 31⟩
def FWD_UPD_CMD_op (i : Nat) : Fld := ⟨0x160040 + 0x100 * i, 3, 0⟩
def FWD_UPD_STAT (i : Nat) : Nat := 0x160044 + 0x100 * i
def FWD_UPD_STAT_code (i : Nat) : Fld := ⟨0x160044 + 0x100 * i, 31, 24⟩
def FWD_UPD_STAT_loc (i : Nat) : Fld := ⟨0x160044 + 0x100 * i, 18, 0⟩
def FWD_UPD_LOC (i : Nat) : Nat := 0x160048 + 0x100 * i
def FWD_UPD_LOC_loc (i : Nat) : Fld := ⟨0x160048 + 0x100 * i, 18, 0⟩
def FWD_UPD_DATA (i j : Nat) : Nat := 0x160080 + 0x100 * i + 0x4 * j
def FWD_UPD_DATA_dw (i j : Nat) : Fld := ⟨0x160080 + 0x100 * i + 0x4 * j, 31, 0⟩
def FWD_VL_IDX : Nat := 0x1600c0
def FWD_VL_IDX_vid : Fld := ⟨0x1600c0, 11, 0⟩
def FWD_VL_LO : Nat := 0x1600c4
def FWD_VL_LO_ports : Fld := ⟨0x1600c4, 31, 0⟩
def FWD_VL_HI : Nat := 0x1600c8
def FWD_VL_HI_valid : Fld := ⟨0x1600c8, 31, 31⟩
def FWD_VL_HI_vrf : Fld := ⟨0x1600c8, 10, 8⟩
def FWD_VL_HI_ports : Fld := ⟨0x1600c8, 7, 0⟩
def FWD_PVID (p : Nat) : Nat := 0x160200 + 0x4 * p
def FWD_PVID_vid (p : Nat) : Fld := ⟨0x160200 + 0x4 * p, 11, 0⟩
def FWD_USED : Nat := 0x160300
def FWD_USED_n : Fld := ⟨0x160300, 18, 0⟩
def FWD_OVUSED : Nat := 0x160304
def FWD_OVUSED_n : Fld := ⟨0x160304, 12, 0⟩
def FWD_AGELOG : Nat := 0x160308
def FWD_AGELOG_valid : Fld := ⟨0x160308, 31, 31⟩
def FWD_AGELOG_kind : Fld := ⟨0x160308, 23, 21⟩
def FWD_AGELOG_loc : Fld := ⟨0x160308, 18, 0⟩
def FWD_AGELOGN : Nat := 0x16030c
def FWD_AGELOGN_n : Fld := ⟨0x16030c, 8, 0⟩
def FWD_LOOKUPS_LO : Nat := 0x160400
def FWD_LOOKUPS_LO_count : Fld := ⟨0x160400, 31, 0⟩
def FWD_LOOKUPS_HI : Nat := 0x160404
def FWD_LOOKUPS_HI_count : Fld := ⟨0x160404, 31, 0⟩
def FWD_L2MISS_LO : Nat := 0x160408
def FWD_L2MISS_LO_count : Fld := ⟨0x160408, 31, 0⟩
def FWD_L2MISS_HI : Nat := 0x16040c
def FWD_L2MISS_HI_count : Fld := ⟨0x16040c, 31, 0⟩
def FWD_RTMISS_LO : Nat := 0x160410
def FWD_RTMISS_LO_count : Fld := ⟨0x160410, 31, 0⟩
def FWD_RTMISS_HI : Nat := 0x160414
def FWD_RTMISS_HI_count : Fld := ⟨0x160414, 31, 0⟩
def FWD_DEFHIT_LO : Nat := 0x160418
def FWD_DEFHIT_LO_count : Fld := ⟨0x160418, 31, 0⟩
def FWD_DEFHIT_HI : Nat := 0x16041c
def FWD_DEFHIT_HI_count : Fld := ⟨0x16041c, 31, 0⟩
def FWD_FLOOD_LO : Nat := 0x160420
def FWD_FLOOD_LO_count : Fld := ⟨0x160420, 31, 0⟩
def FWD_FLOOD_HI : Nat := 0x160424
def FWD_FLOOD_HI_count : Fld := ⟨0x160424, 31, 0⟩
def FWD_INSFAIL_LO : Nat := 0x160428
def FWD_INSFAIL_LO_count : Fld := ⟨0x160428, 31, 0⟩
def FWD_INSFAIL_HI : Nat := 0x16042c
def FWD_INSFAIL_HI_count : Fld := ⟨0x16042c, 31, 0⟩
def FWD_AGED_LO : Nat := 0x160430
def FWD_AGED_LO_count : Fld := ⟨0x160430, 31, 0⟩
def FWD_AGED_HI : Nat := 0x160434
def FWD_AGED_HI_count : Fld := ⟨0x160434, 31, 0⟩
def FWD_AGEDEF_LO : Nat := 0x160438
def FWD_AGEDEF_LO_count : Fld := ⟨0x160438, 31, 0⟩
def FWD_AGEDEF_HI : Nat := 0x16043c
def FWD_AGEDEF_HI_count : Fld := ⟨0x16043c, 31, 0⟩
def FWD_CRCERR_LO : Nat := 0x160440
def FWD_CRCERR_LO_count : Fld := ⟨0x160440, 31, 0⟩
def FWD_CRCERR_HI : Nat := 0x160444
def FWD_CRCERR_HI_count : Fld := ⟨0x160444, 31, 0⟩
def FWD_REPAIR_LO : Nat := 0x160448
def FWD_REPAIR_LO_count : Fld := ⟨0x160448, 31, 0⟩
def FWD_REPAIR_HI : Nat := 0x16044c
def FWD_REPAIR_HI_count : Fld := ⟨0x16044c, 31, 0⟩
def FWD_RDEFER_LO : Nat := 0x160450
def FWD_RDEFER_LO_count : Fld := ⟨0x160450, 31, 0⟩
def FWD_RDEFER_HI : Nat := 0x160454
def FWD_RDEFER_HI_count : Fld := ⟨0x160454, 31, 0⟩
def FWD_CE_LO : Nat := 0x160458
def FWD_CE_LO_count : Fld := ⟨0x160458, 31, 0⟩
def FWD_CE_HI : Nat := 0x16045c
def FWD_CE_HI_count : Fld := ⟨0x16045c, 31, 0⟩
def FWD_UE_LO : Nat := 0x160460
def FWD_UE_LO_count : Fld := ⟨0x160460, 31, 0⟩
def FWD_UE_HI : Nat := 0x160464
def FWD_UE_HI_count : Fld := ⟨0x160464, 31, 0⟩
def FWD_VLDROP_LO : Nat := 0x160468
def FWD_VLDROP_LO_count : Fld := ⟨0x160468, 31, 0⟩
def FWD_VLDROP_HI : Nat := 0x16046c
def FWD_VLDROP_HI_count : Fld := ⟨0x16046c, 31, 0⟩
def FWD_TTLX_LO : Nat := 0x160470
def FWD_TTLX_LO_count : Fld := ⟨0x160470, 31, 0⟩
def FWD_TTLX_HI : Nat := 0x160474
def FWD_TTLX_HI_count : Fld := ⟨0x160474, 31, 0⟩
def FWD_ENTDROP_LO : Nat := 0x160478
def FWD_ENTDROP_LO_count : Fld := ⟨0x160478, 31, 0⟩
def FWD_ENTDROP_HI : Nat := 0x16047c
def FWD_ENTDROP_HI_count : Fld := ⟨0x16047c, 31, 0⟩
def FWD_QPDEF_LO : Nat := 0x160480
def FWD_QPDEF_LO_count : Fld := ⟨0x160480, 31, 0⟩
def FWD_QPDEF_HI : Nat := 0x160484
def FWD_QPDEF_HI_count : Fld := ⟨0x160484, 31, 0⟩

/-! Fields and registers of XPORT. -/

def XPORT_CTL : Nat := 0x180000
def XPORT_CTL_seal : Fld := ⟨0x180000, 2, 2⟩
def XPORT_CTL_spray : Fld := ⟨0x180000, 1, 1⟩
def XPORT_CTL_en : Fld := ⟨0x180000, 0, 0⟩
def XPORT_STAT : Nat := 0x180004
def XPORT_STAT_freerej : Fld := ⟨0x180004, 5, 5⟩
def XPORT_STAT_qperr : Fld := ⟨0x180004, 4, 4⟩
def XPORT_STAT_hcap : Fld := ⟨0x180004, 3, 3⟩
def XPORT_STAT_cfull : Fld := ⟨0x180004, 2, 2⟩
def XPORT_STAT_ccdrop : Fld := ⟨0x180004, 1, 1⟩
def XPORT_STAT_cmdrop : Fld := ⟨0x180004, 0, 0⟩
def XPORT_CTXBASE : Nat := 0x180008
def XPORT_CTXBASE_base : Fld := ⟨0x180008, 14, 0⟩
def XPORT_QPALLOC : Nat := 0x18000c
def XPORT_QPALLOC_valid : Fld := ⟨0x18000c, 31, 31⟩
def XPORT_QPALLOC_qpn : Fld := ⟨0x18000c, 23, 0⟩
def XPORT_QPFREE : Nat := 0x180010
def XPORT_QPFREE_qpn : Fld := ⟨0x180010, 23, 0⟩
def XPORT_QPUSED : Nat := 0x180014
def XPORT_QPUSED_n : Fld := ⟨0x180014, 16, 0⟩
def XPORT_RXCFG : Nat := 0x180018
def XPORT_RXCFG_rnrtmr : Fld := ⟨0x180018, 31, 27⟩
def XPORT_RXCFG_rnrwait : Fld := ⟨0x180018, 26, 16⟩
def XPORT_RXCFG_sendmax : Fld := ⟨0x180018, 15, 0⟩
def XPORT_ACKCFG : Nat := 0x18001c
def XPORT_ACKCFG_us : Fld := ⟨0x18001c, 15, 8⟩
def XPORT_ACKCFG_n : Fld := ⟨0x18001c, 7, 0⟩
def XPORT_RETRY : Nat := 0x180020
def XPORT_RETRY_minexp : Fld := ⟨0x180020, 4, 0⟩
def XPORT_ROCFG : Nat := 0x180024
def XPORT_ROCFG_renak : Fld := ⟨0x180024, 19, 16⟩
def XPORT_ROCFG_gap : Fld := ⟨0x180024, 11, 0⟩
def XPORT_SPRAY : Nat := 0x180028
def XPORT_SPRAY_tmo : Fld := ⟨0x180028, 15, 0⟩
def XPORT_CCCFG : Nat := 0x18002c
def XPORT_CCCFG_tag : Fld := ⟨0x18002c, 31, 22⟩
def XPORT_CCCFG_cnpclass : Fld := ⟨0x18002c, 20, 18⟩
def XPORT_CCCFG_rttint : Fld := ⟨0x18002c, 17, 8⟩
def XPORT_CCCFG_cnpint : Fld := ⟨0x18002c, 7, 0⟩
def XPORT_CCBASE : Nat := 0x180030
def XPORT_CCBASE_base : Fld := ⟨0x180030, 14, 0⟩
def XPORT_CMCFG : Nat := 0x180034
def XPORT_CMCFG_engine : Fld := ⟨0x180034, 21, 16⟩
def XPORT_CMCFG_tag : Fld := ⟨0x180034, 9, 0⟩
def XPORT_CMBASE : Nat := 0x180038
def XPORT_CMBASE_base : Fld := ⟨0x180038, 14, 0⟩
def XPORT_CMTXDB : Nat := 0x18003c
def XPORT_CMTXDB_slot : Fld := ⟨0x18003c, 9, 0⟩
def XPORT_CACHE : Nat := 0x180040
def XPORT_CACHE_pinned : Fld := ⟨0x180040, 29, 16⟩
def XPORT_CACHE_cached : Fld := ⟨0x180040, 13, 0⟩
def XPORT_HELD : Nat := 0x180044
def XPORT_HELD_n : Fld := ⟨0x180044, 16, 0⟩
def XPORT_CCPI (g : Nat) : Nat := 0x180080 + 0x4 * g
def XPORT_CCPI_pi (g : Nat) : Fld := ⟨0x180080 + 0x4 * g, 10, 0⟩
def XPORT_CCCI (g : Nat) : Nat := 0x1800c0 + 0x4 * g
def XPORT_CCCI_ci (g : Nat) : Fld := ⟨0x1800c0 + 0x4 * g, 10, 0⟩
def XPORT_RXPKT_LO : Nat := 0x180100
def XPORT_RXPKT_LO_count : Fld := ⟨0x180100, 31, 0⟩
def XPORT_RXPKT_HI : Nat := 0x180104
def XPORT_RXPKT_HI_count : Fld := ⟨0x180104, 31, 0⟩
def XPORT_TXPKT_LO : Nat := 0x180108
def XPORT_TXPKT_LO_count : Fld := ⟨0x180108, 31, 0⟩
def XPORT_TXPKT_HI : Nat := 0x18010c
def XPORT_TXPKT_HI_count : Fld := ⟨0x18010c, 31, 0⟩
def XPORT_BADPKT_LO : Nat := 0x180110
def XPORT_BADPKT_LO_count : Fld := ⟨0x180110, 31, 0⟩
def XPORT_BADPKT_HI : Nat := 0x180114
def XPORT_BADPKT_HI_count : Fld := ⟨0x180114, 31, 0⟩
def XPORT_BADQP_LO : Nat := 0x180118
def XPORT_BADQP_LO_count : Fld := ⟨0x180118, 31, 0⟩
def XPORT_BADQP_HI : Nat := 0x18011c
def XPORT_BADQP_HI_count : Fld := ⟨0x18011c, 31, 0⟩
def XPORT_ERRDROP_LO : Nat := 0x180120
def XPORT_ERRDROP_LO_count : Fld := ⟨0x180120, 31, 0⟩
def XPORT_ERRDROP_HI : Nat := 0x180124
def XPORT_ERRDROP_HI_count : Fld := ⟨0x180124, 31, 0⟩
def XPORT_CMISS_LO : Nat := 0x180128
def XPORT_CMISS_LO_count : Fld := ⟨0x180128, 31, 0⟩
def XPORT_CMISS_HI : Nat := 0x18012c
def XPORT_CMISS_HI_count : Fld := ⟨0x18012c, 31, 0⟩
def XPORT_CFULL_LO : Nat := 0x180130
def XPORT_CFULL_LO_count : Fld := ⟨0x180130, 31, 0⟩
def XPORT_CFULL_HI : Nat := 0x180134
def XPORT_CFULL_HI_count : Fld := ⟨0x180134, 31, 0⟩
def XPORT_DUP_LO : Nat := 0x180138
def XPORT_DUP_LO_count : Fld := ⟨0x180138, 31, 0⟩
def XPORT_DUP_HI : Nat := 0x18013c
def XPORT_DUP_HI_count : Fld := ⟨0x18013c, 31, 0⟩
def XPORT_OOODROP_LO : Nat := 0x180140
def XPORT_OOODROP_LO_count : Fld := ⟨0x180140, 31, 0⟩
def XPORT_OOODROP_HI : Nat := 0x180144
def XPORT_OOODROP_HI_count : Fld := ⟨0x180144, 31, 0⟩
def XPORT_NAKSEQ_TX_LO : Nat := 0x180148
def XPORT_NAKSEQ_TX_LO_count : Fld := ⟨0x180148, 31, 0⟩
def XPORT_NAKSEQ_TX_HI : Nat := 0x18014c
def XPORT_NAKSEQ_TX_HI_count : Fld := ⟨0x18014c, 31, 0⟩
def XPORT_NAKSEQ_RX_LO : Nat := 0x180150
def XPORT_NAKSEQ_RX_LO_count : Fld := ⟨0x180150, 31, 0⟩
def XPORT_NAKSEQ_RX_HI : Nat := 0x180154
def XPORT_NAKSEQ_RX_HI_count : Fld := ⟨0x180154, 31, 0⟩
def XPORT_TMO_LO : Nat := 0x180158
def XPORT_TMO_LO_count : Fld := ⟨0x180158, 31, 0⟩
def XPORT_TMO_HI : Nat := 0x18015c
def XPORT_TMO_HI_count : Fld := ⟨0x18015c, 31, 0⟩
def XPORT_RNR_TX_LO : Nat := 0x180160
def XPORT_RNR_TX_LO_count : Fld := ⟨0x180160, 31, 0⟩
def XPORT_RNR_TX_HI : Nat := 0x180164
def XPORT_RNR_TX_HI_count : Fld := ⟨0x180164, 31, 0⟩
def XPORT_RNR_RX_LO : Nat := 0x180168
def XPORT_RNR_RX_LO_count : Fld := ⟨0x180168, 31, 0⟩
def XPORT_RNR_RX_HI : Nat := 0x18016c
def XPORT_RNR_RX_HI_count : Fld := ⟨0x18016c, 31, 0⟩
def XPORT_CNP_TX_LO : Nat := 0x180170
def XPORT_CNP_TX_LO_count : Fld := ⟨0x180170, 31, 0⟩
def XPORT_CNP_TX_HI : Nat := 0x180174
def XPORT_CNP_TX_HI_count : Fld := ⟨0x180174, 31, 0⟩
def XPORT_CNP_RX_LO : Nat := 0x180178
def XPORT_CNP_RX_LO_count : Fld := ⟨0x180178, 31, 0⟩
def XPORT_CNP_RX_HI : Nat := 0x18017c
def XPORT_CNP_RX_HI_count : Fld := ⟨0x18017c, 31, 0⟩
def XPORT_SPRAYTMO_LO : Nat := 0x180180
def XPORT_SPRAYTMO_LO_count : Fld := ⟨0x180180, 31, 0⟩
def XPORT_SPRAYTMO_HI : Nat := 0x180184
def XPORT_SPRAYTMO_HI_count : Fld := ⟨0x180184, 31, 0⟩
def XPORT_CCDROP_LO : Nat := 0x180188
def XPORT_CCDROP_LO_count : Fld := ⟨0x180188, 31, 0⟩
def XPORT_CCDROP_HI : Nat := 0x18018c
def XPORT_CCDROP_HI_count : Fld := ⟨0x18018c, 31, 0⟩
def XPORT_CMDROP_LO : Nat := 0x180190
def XPORT_CMDROP_LO_count : Fld := ⟨0x180190, 31, 0⟩
def XPORT_CMDROP_HI : Nat := 0x180194
def XPORT_CMDROP_HI_count : Fld := ⟨0x180194, 31, 0⟩
def XPORT_ALLOCFAIL_LO : Nat := 0x180198
def XPORT_ALLOCFAIL_LO_count : Fld := ⟨0x180198, 31, 0⟩
def XPORT_ALLOCFAIL_HI : Nat := 0x18019c
def XPORT_ALLOCFAIL_HI_count : Fld := ⟨0x18019c, 31, 0⟩
def XPORT_QPERR_LO : Nat := 0x1801a0
def XPORT_QPERR_LO_count : Fld := ⟨0x1801a0, 31, 0⟩
def XPORT_QPERR_HI : Nat := 0x1801a4
def XPORT_QPERR_HI_count : Fld := ⟨0x1801a4, 31, 0⟩

/-! Fields and registers of THIM. -/

def THIM_CTL : Nat := 0x1c0000
def THIM_CTL_seal : Fld := ⟨0x1c0000, 1, 1⟩
def THIM_CTL_en : Fld := ⟨0x1c0000, 0, 0⟩
def THIM_STAT : Nat := 0x1c0004
def THIM_STAT_ue : Fld := ⟨0x1c0004, 6, 6⟩
def THIM_STAT_seal_err : Fld := ⟨0x1c0004, 5, 5⟩
def THIM_STAT_unmir : Fld := ⟨0x1c0004, 4, 4⟩
def THIM_STAT_flreq : Fld := ⟨0x1c0004, 3, 3⟩
def THIM_STAT_rdone : Fld := ⟨0x1c0004, 2, 2⟩
def THIM_STAT_ref : Fld := ⟨0x1c0004, 1, 1⟩
def THIM_STAT_flfull : Fld := ⟨0x1c0004, 0, 0⟩
def THIM_KTBASE : Nat := 0x1c0008
def THIM_KTBASE_base : Fld := ⟨0x1c0008, 14, 0⟩
def THIM_KALLOC : Nat := 0x1c000c
def THIM_KALLOC_valid : Fld := ⟨0x1c000c, 31, 31⟩
def THIM_KALLOC_tag : Fld := ⟨0x1c000c, 27, 20⟩
def THIM_KALLOC_index : Fld := ⟨0x1c000c, 19, 0⟩
def THIM_KCMD : Nat := 0x1c0010
def THIM_KCMD_op : Fld := ⟨0x1c0010, 31, 28⟩
def THIM_KCMD_index : Fld := ⟨0x1c0010, 19, 0⟩
def THIM_KSTAT : Nat := 0x1c0014
def THIM_KSTAT_busy : Fld := ⟨0x1c0014, 31, 31⟩
def THIM_KSTAT_code : Fld := ⟨0x1c0014, 27, 24⟩
def THIM_KRES : Nat := 0x1c0018
def THIM_KRES_key : Fld := ⟨0x1c0018, 31, 0⟩
def THIM_KREV : Nat := 0x1c001c
def THIM_KREV_valid : Fld := ⟨0x1c001c, 31, 31⟩
def THIM_KREV_lost : Fld := ⟨0x1c001c, 30, 30⟩
def THIM_KREV_index : Fld := ⟨0x1c001c, 19, 0⟩
def THIM_KDATA (j : Nat) : Nat := 0x1c0020 + 0x4 * j
def THIM_KDATA_dw (j : Nat) : Fld := ⟨0x1c0020 + 0x4 * j, 31, 0⟩
def THIM_KUSED : Nat := 0x1c0040
def THIM_KUSED_n : Fld := ⟨0x1c0040, 20, 0⟩
def THIM_REVOKING : Nat := 0x1c0044
def THIM_REVOKING_n : Fld := ⟨0x1c0044, 20, 0⟩
def THIM_LASTREF_LO : Nat := 0x1c0048
def THIM_LASTREF_LO_key : Fld := ⟨0x1c0048, 31, 0⟩
def THIM_LASTREF_HI : Nat := 0x1c004c
def THIM_LASTREF_HI_code : Fld := ⟨0x1c004c, 31, 28⟩
def THIM_LASTREF_HI_qpn : Fld := ⟨0x1c004c, 23, 0⟩
def THIM_SLBASE : Nat := 0x1c0050
def THIM_SLBASE_base : Fld := ⟨0x1c0050, 14, 0⟩
def THIM_SLCTL : Nat := 0x1c0054
def THIM_SLCTL_slate : Fld := ⟨0x1c0054, 9, 0⟩
def THIM_FLBASE : Nat := 0x1c0058
def THIM_FLBASE_base : Fld := ⟨0x1c0058, 14, 0⟩
def THIM_FLCFG : Nat := 0x1c005c
def THIM_FLCFG_engine : Fld := ⟨0x1c005c, 21, 16⟩
def THIM_FLCFG_tag : Fld := ⟨0x1c005c, 9, 0⟩
def THIM_FLPI : Nat := 0x1c0060
def THIM_FLPI_pi : Fld := ⟨0x1c0060, 10, 0⟩
def THIM_FLCI : Nat := 0x1c0064
def THIM_FLCI_ci : Fld := ⟨0x1c0064, 10, 0⟩
def THIM_FLDONE : Nat := 0x1c0068
def THIM_FLDONE_id : Fld := ⟨0x1c0068, 31, 0⟩
def THIM_SKCTL : Nat := 0x1c0070
def THIM_SKCTL_load : Fld := ⟨0x1c0070, 31, 31⟩
def THIM_SKCTL_erase : Fld := ⟨0x1c0070, 30, 30⟩
def THIM_SKCTL_qpn : Fld := ⟨0x1c0070, 23, 0⟩
def THIM_SKSTAT : Nat := 0x1c0074
def THIM_SKSTAT_busy : Fld := ⟨0x1c0074, 31, 31⟩
def THIM_SKSTAT_held : Fld := ⟨0x1c0074, 26, 16⟩
def THIM_SKSTAT_full : Fld := ⟨0x1c0074, 1, 1⟩
def THIM_SKDATA (w : Nat) : Nat := 0x1c0080 + 0x4 * w
def THIM_SKDATA_data (w : Nat) : Fld := ⟨0x1c0080 + 0x4 * w, 31, 0⟩
def THIM_CHECKS_LO : Nat := 0x1c0100
def THIM_CHECKS_LO_count : Fld := ⟨0x1c0100, 31, 0⟩
def THIM_CHECKS_HI : Nat := 0x1c0104
def THIM_CHECKS_HI_count : Fld := ⟨0x1c0104, 31, 0⟩
def THIM_REFUSED_LO : Nat := 0x1c0108
def THIM_REFUSED_LO_count : Fld := ⟨0x1c0108, 31, 0⟩
def THIM_REFUSED_HI : Nat := 0x1c010c
def THIM_REFUSED_HI_count : Fld := ⟨0x1c010c, 31, 0⟩
def THIM_CMISS_LO : Nat := 0x1c0110
def THIM_CMISS_LO_count : Fld := ⟨0x1c0110, 31, 0⟩
def THIM_CMISS_HI : Nat := 0x1c0114
def THIM_CMISS_HI_count : Fld := ⟨0x1c0114, 31, 0⟩
def THIM_ALLOCFAIL_LO : Nat := 0x1c0118
def THIM_ALLOCFAIL_LO_count : Fld := ⟨0x1c0118, 31, 0⟩
def THIM_ALLOCFAIL_HI : Nat := 0x1c011c
def THIM_ALLOCFAIL_HI_count : Fld := ⟨0x1c011c, 31, 0⟩
def THIM_REVOKED_LO : Nat := 0x1c0120
def THIM_REVOKED_LO_count : Fld := ⟨0x1c0120, 31, 0⟩
def THIM_REVOKED_HI : Nat := 0x1c0124
def THIM_REVOKED_HI_count : Fld := ⟨0x1c0124, 31, 0⟩
def THIM_FLUSHES_LO : Nat := 0x1c0128
def THIM_FLUSHES_LO_count : Fld := ⟨0x1c0128, 31, 0⟩
def THIM_FLUSHES_HI : Nat := 0x1c012c
def THIM_FLUSHES_HI_count : Fld := ⟨0x1c012c, 31, 0⟩
def THIM_FLFULL_LO : Nat := 0x1c0130
def THIM_FLFULL_LO_count : Fld := ⟨0x1c0130, 31, 0⟩
def THIM_FLFULL_HI : Nat := 0x1c0134
def THIM_FLFULL_HI_count : Fld := ⟨0x1c0134, 31, 0⟩
def THIM_MIRWAIT_LO : Nat := 0x1c0138
def THIM_MIRWAIT_LO_count : Fld := ⟨0x1c0138, 31, 0⟩
def THIM_MIRWAIT_HI : Nat := 0x1c013c
def THIM_MIRWAIT_HI_count : Fld := ⟨0x1c013c, 31, 0⟩
def THIM_UNMIRPG_LO : Nat := 0x1c0140
def THIM_UNMIRPG_LO_count : Fld := ⟨0x1c0140, 31, 0⟩
def THIM_UNMIRPG_HI : Nat := 0x1c0144
def THIM_UNMIRPG_HI_count : Fld := ⟨0x1c0144, 31, 0⟩
def THIM_SEALDROP_LO : Nat := 0x1c0148
def THIM_SEALDROP_LO_count : Fld := ⟨0x1c0148, 31, 0⟩
def THIM_SEALDROP_HI : Nat := 0x1c014c
def THIM_SEALDROP_HI_count : Fld := ⟨0x1c014c, 31, 0⟩
def THIM_SEALAUTH_LO : Nat := 0x1c0150
def THIM_SEALAUTH_LO_count : Fld := ⟨0x1c0150, 31, 0⟩
def THIM_SEALAUTH_HI : Nat := 0x1c0154
def THIM_SEALAUTH_HI_count : Fld := ⟨0x1c0154, 31, 0⟩
def THIM_SEALBUSY_LO : Nat := 0x1c0158
def THIM_SEALBUSY_LO_count : Fld := ⟨0x1c0158, 31, 0⟩
def THIM_SEALBUSY_HI : Nat := 0x1c015c
def THIM_SEALBUSY_HI_count : Fld := ⟨0x1c015c, 31, 0⟩

/-! Fields and registers of SEAM. -/

def SEAM_ECTL (e : Nat) : Nat := 0x200000 + 0x1000 * e
def SEAM_ECTL_park (e : Nat) : Fld := ⟨0x200000 + 0x1000 * e, 0, 0⟩
def SEAM_ESTAT (e : Nat) : Nat := 0x200004 + 0x1000 * e
def SEAM_ESTAT_sfault (e : Nat) : Fld := ⟨0x200004 + 0x1000 * e, 31, 24⟩
def SEAM_ESTAT_mode_rej (e : Nat) : Fld := ⟨0x200004 + 0x1000 * e, 6, 6⟩
def SEAM_ESTAT_ldr_done (e : Nat) : Fld := ⟨0x200004 + 0x1000 * e, 5, 5⟩
def SEAM_ESTAT_gdrain (e : Nat) : Fld := ⟨0x200004 + 0x1000 * e, 4, 4⟩
def SEAM_ESTAT_gdrain_to (e : Nat) : Fld := ⟨0x200004 + 0x1000 * e, 3, 3⟩
def SEAM_ESTAT_tag_sat (e : Nat) : Fld := ⟨0x200004 + 0x1000 * e, 2, 2⟩
def SEAM_ESTAT_fault (e : Nat) : Fld := ⟨0x200004 + 0x1000 * e, 1, 1⟩
def SEAM_ESTAT_gated (e : Nat) : Fld := ⟨0x200004 + 0x1000 * e, 0, 0⟩
def SEAM_HWIN (e : Nat) : Nat := 0x200008 + 0x1000 * e
def SEAM_HWIN_en (e : Nat) : Fld := ⟨0x200008 + 0x1000 * e, 31, 31⟩
def SEAM_HWIN_limit (e : Nat) : Fld := ⟨0x200008 + 0x1000 * e, 30, 16⟩
def SEAM_HWIN_base (e : Nat) : Fld := ⟨0x200008 + 0x1000 * e, 14, 0⟩
def SEAM_STRCTL (e s : Nat) : Nat := 0x200100 + 0x1000 * e + 0x20 * s
def SEAM_STRCTL_priv (e s : Nat) : Fld := ⟨0x200100 + 0x1000 * e + 0x20 * s, 7, 7⟩
def SEAM_STRCTL_drain (e s : Nat) : Fld := ⟨0x200100 + 0x1000 * e + 0x20 * s, 4, 4⟩
def SEAM_STRCTL_reset (e s : Nat) : Fld := ⟨0x200100 + 0x1000 * e + 0x20 * s, 0, 0⟩
def SEAM_STRSTAT (e s : Nat) : Nat := 0x200104 + 0x1000 * e + 0x20 * s
def SEAM_STRSTAT_state (e s : Nat) : Fld := ⟨0x200104 + 0x1000 * e + 0x20 * s, 31, 29⟩
def SEAM_STRSTAT_class (e s : Nat) : Fld := ⟨0x200104 + 0x1000 * e + 0x20 * s, 28, 26⟩
def SEAM_STRSTAT_drained (e s : Nat) : Fld := ⟨0x200104 + 0x1000 * e + 0x20 * s, 25, 25⟩
def SEAM_STRSTAT_pc (e s : Nat) : Fld := ⟨0x200104 + 0x1000 * e + 0x20 * s, 12, 0⟩
def SEAM_STRUSE (e s : Nat) : Nat := 0x200108 + 0x1000 * e + 0x20 * s
def SEAM_STRUSE_leases (e s : Nat) : Fld := ⟨0x200108 + 0x1000 * e + 0x20 * s, 31, 16⟩
def SEAM_STRUSE_desc (e s : Nat) : Fld := ⟨0x200108 + 0x1000 * e + 0x20 * s, 15, 0⟩
def SEAM_STRFAULT (e s : Nat) : Nat := 0x20010c + 0x1000 * e + 0x20 * s
def SEAM_STRFAULT_cause (e s : Nat) : Fld := ⟨0x20010c + 0x1000 * e + 0x20 * s, 31, 24⟩
def SEAM_STRFAULT_fpc (e s : Nat) : Fld := ⟨0x20010c + 0x1000 * e + 0x20 * s, 12, 0⟩
def SEAM_GCTL (g : Nat) : Nat := 0x200c00 + 0x4000 * g
def SEAM_GCTL_drtmr (g : Nat) : Fld := ⟨0x200c00 + 0x4000 * g, 23, 16⟩
def SEAM_GCTL_redir_en (g : Nat) : Fld := ⟨0x200c00 + 0x4000 * g, 8, 8⟩
def SEAM_GCTL_redir (g : Nat) : Fld := ⟨0x200c00 + 0x4000 * g, 7, 4⟩
def SEAM_GCTL_drain (g : Nat) : Fld := ⟨0x200c00 + 0x4000 * g, 0, 0⟩
def SEAM_GSTAT (g : Nat) : Nat := 0x200c04 + 0x4000 * g
def SEAM_GSTAT_gen (g : Nat) : Fld := ⟨0x200c04 + 0x4000 * g, 31, 16⟩
def SEAM_GSTAT_busy (g : Nat) : Fld := ⟨0x200c04 + 0x4000 * g, 2, 2⟩
def SEAM_GSTAT_drained (g : Nat) : Fld := ⟨0x200c04 + 0x4000 * g, 1, 1⟩
def SEAM_GSTAT_hasimg (g : Nat) : Fld := ⟨0x200c04 + 0x4000 * g, 0, 0⟩
def SEAM_GVER (g : Nat) : Nat := 0x200c08 + 0x4000 * g
def SEAM_GVER_version (g : Nat) : Fld := ⟨0x200c08 + 0x4000 * g, 31, 0⟩
def SEAM_CTL : Nat := 0x200e00
def SEAM_CTL_seal : Fld := ⟨0x200e00, 1, 1⟩
def SEAM_CTL_instep : Fld := ⟨0x200e00, 0, 0⟩
def SEAM_LDR_CMD : Nat := 0x200e04
def SEAM_LDR_CMD_gmask : Fld := ⟨0x200e04, 31, 16⟩
def SEAM_LDR_CMD_op : Fld := ⟨0x200e04, 1, 0⟩
def SEAM_LDR_ADDR_LO : Nat := 0x200e08
def SEAM_LDR_ADDR_LO_addr : Fld := ⟨0x200e08, 31, 12⟩
def SEAM_LDR_ADDR_HI : Nat := 0x200e0c
def SEAM_LDR_ADDR_HI_addr : Fld := ⟨0x200e0c, 2, 0⟩
def SEAM_LDR_STAT : Nat := 0x200e10
def SEAM_LDR_STAT_code : Fld := ⟨0x200e10, 31, 24⟩
def SEAM_LDR_STAT_verified : Fld := ⟨0x200e10, 1, 1⟩
def SEAM_LDR_STAT_busy : Fld := ⟨0x200e10, 0, 0⟩
def SEAM_LDR_MINVER : Nat := 0x200e14
def SEAM_LDR_MINVER_minver : Fld := ⟨0x200e14, 31, 0⟩
def SEAM_LDR_STG : Nat := 0x200e18
def SEAM_LDR_STG_base : Fld := ⟨0x200e18, 16, 0⟩

/-! Fields and registers of MNGL. -/

def MNGL_CTL : Nat := 0x240000
def MNGL_CTL_seal : Fld := ⟨0x240000, 1, 1⟩
def MNGL_CTL_evt_ue : Fld := ⟨0x240000, 0, 0⟩
def MNGL_STAT : Nat := 0x240004
def MNGL_STAT_cnt_sat : Fld := ⟨0x240004, 3, 3⟩
def MNGL_STAT_xk_rej : Fld := ⟨0x240004, 2, 2⟩
def MNGL_STAT_fpz_miss : Fld := ⟨0x240004, 1, 1⟩
def MNGL_LFREE : Nat := 0x240010
def MNGL_LFREE_free : Fld := ⟨0x240010, 18, 0⟩
def MNGL_LRSV : Nat := 0x240014
def MNGL_LRSV_rsv : Fld := ⟨0x240014, 18, 0⟩
def MNGL_LTAB : Nat := 0x240018
def MNGL_LTAB_used : Fld := ⟨0x240018, 16, 0⟩
def MNGL_LCAP (g : Nat) : Nat := 0x240040 + 0x4 * g
def MNGL_LCAP_cap (g : Nat) : Fld := ⟨0x240040 + 0x4 * g, 18, 0⟩
def MNGL_QSTAT (g : Nat) : Nat := 0x240080 + 0x4 * g
def MNGL_QSTAT_started (g : Nat) : Fld := ⟨0x240080 + 0x4 * g, 24, 16⟩
def MNGL_QSTAT_waiting (g : Nat) : Fld := ⟨0x240080 + 0x4 * g, 8, 0⟩
def MNGL_GSTAT (g : Nat) : Nat := 0x2400c0 + 0x4 * g
def MNGL_GSTAT_ue (g : Nat) : Fld := ⟨0x2400c0 + 0x4 * g, 1, 1⟩
def MNGL_GSTAT_dinv (g : Nat) : Fld := ⟨0x2400c0 + 0x4 * g, 0, 0⟩
def MNGL_COST (i : Nat) : Nat := 0x240100 + 0x4 * i
def MNGL_COST_per4k (i : Nat) : Fld := ⟨0x240100 + 0x4 * i, 31, 16⟩
def MNGL_COST_base (i : Nat) : Fld := ⟨0x240100 + 0x4 * i, 11, 0⟩
def MNGL_FPZ_LO : Nat := 0x240180
def MNGL_FPZ_LO_z : Fld := ⟨0x240180, 31, 0⟩
def MNGL_FPZ_HI : Nat := 0x240184
def MNGL_FPZ_HI_z : Fld := ⟨0x240184, 31, 0⟩
def MNGL_FPBETA_LO : Nat := 0x240188
def MNGL_FPBETA_LO_beta : Fld := ⟨0x240188, 31, 0⟩
def MNGL_FPBETA_HI : Nat := 0x24018c
def MNGL_FPBETA_HI_beta : Fld := ⟨0x24018c, 31, 0⟩
def MNGL_FPSTAT : Nat := 0x240190
def MNGL_FPSTAT_zset : Fld := ⟨0x240190, 0, 0⟩
def MNGL_XKCTL : Nat := 0x240200
def MNGL_XKCTL_load : Fld := ⟨0x240200, 31, 31⟩
def MNGL_XKCTL_erase : Fld := ⟨0x240200, 30, 30⟩
def MNGL_XKCTL_slot : Fld := ⟨0x240200, 9, 0⟩
def MNGL_XKSTAT : Nat := 0x240204
def MNGL_XKSTAT_busy : Fld := ⟨0x240204, 31, 31⟩
def MNGL_XKSTAT_refused : Fld := ⟨0x240204, 0, 0⟩
def MNGL_XKDATA (w : Nat) : Nat := 0x240240 + 0x4 * w
def MNGL_XKDATA_key (w : Nat) : Fld := ⟨0x240240 + 0x4 * w, 31, 0⟩
def MNGL_CE_BUF : Nat := 0x240300
def MNGL_CE_BUF_count : Fld := ⟨0x240300, 31, 0⟩
def MNGL_UE_BUF : Nat := 0x240304
def MNGL_UE_BUF_count : Fld := ⟨0x240304, 31, 0⟩
def MNGL_UE_HBM : Nat := 0x240308
def MNGL_UE_HBM_count : Fld := ⟨0x240308, 31, 0⟩
def MNGL_DINV : Nat := 0x24030c
def MNGL_DINV_count : Fld := ⟨0x24030c, 31, 0⟩

/-! Fields and registers of STRP. -/

def STRP_CTL : Nat := 0x250000
def STRP_CTL_seal : Fld := ⟨0x250000, 1, 1⟩
def STRP_CTL_apen : Fld := ⟨0x250000, 0, 0⟩
def STRP_APBASE : Nat := 0x250004
def STRP_APBASE_base : Fld := ⟨0x250004, 7, 0⟩
def STRP_LKTAG : Nat := 0x250008
def STRP_LKTAG_tag : Fld := ⟨0x250008, 9, 0⟩
def STRP_STAT : Nat := 0x25000c
def STRP_STAT_jdeg : Fld := ⟨0x25000c, 2, 2⟩
def STRP_STAT_aprej : Fld := ⟨0x25000c, 1, 1⟩
def STRP_STAT_lkpost : Fld := ⟨0x25000c, 0, 0⟩
def STRP_DIRTY_LO : Nat := 0x250010
def STRP_DIRTY_LO_bytes : Fld := ⟨0x250010, 31, 0⟩
def STRP_DIRTY_HI : Nat := 0x250014
def STRP_DIRTY_HI_bytes : Fld := ⟨0x250014, 31, 0⟩
def STRP_LKUSE : Nat := 0x250018
def STRP_LKUSE_used : Fld := ⟨0x250018, 16, 0⟩
def STRP_APREJ : Nat := 0x25001c
def STRP_APREJ_count : Fld := ⟨0x25001c, 31, 0⟩
def STRP_JDEG : Nat := 0x250020
def STRP_JDEG_pools : Fld := ⟨0x250020, 3, 0⟩

/-! Fields and registers of DARN. -/

def DARN_CTL : Nat := 0x260000
def DARN_CTL_seal : Fld := ⟨0x260000, 1, 1⟩
def DARN_CTL_en : Fld := ⟨0x260000, 0, 0⟩
def DARN_FLOOR : Nat := 0x260004
def DARN_FLOOR_cap : Fld := ⟨0x260004, 21, 16⟩
def DARN_FLOOR_pct : Fld := ⟨0x260004, 6, 0⟩
def DARN_STAT : Nat := 0x260008
def DARN_STAT_cnt_sat : Fld := ⟨0x260008, 1, 1⟩
def DARN_STAT_starved : Fld := ⟨0x260008, 0, 0⟩
def DARN_WAITP : Nat := 0x26000c
def DARN_WAITP_wait : Fld := ⟨0x26000c, 23, 0⟩
def DARN_C3B (p : Nat) : Nat := 0x260100 + 0x4 * p
def DARN_C3B_count (p : Nat) : Fld := ⟨0x260100 + 0x4 * p, 31, 0⟩
def DARN_OTB (p : Nat) : Nat := 0x260180 + 0x4 * p
def DARN_OTB_count (p : Nat) : Fld := ⟨0x260180 + 0x4 * p, 31, 0⟩
def DARN_PROG (q : Nat) : Nat := 0x260200 + 0x4 * q
def DARN_PROG_state (q : Nat) : Fld := ⟨0x260200 + 0x4 * q, 31, 28⟩
def DARN_PROG_permille (q : Nat) : Fld := ⟨0x260200 + 0x4 * q, 9, 0⟩

/-! Fields and registers of DRV. -/

def DRV_PCTL (p : Nat) : Nat := 0x280000 + 0x2000 * p
def DRV_PCTL_sgl (p : Nat) : Fld := ⟨0x280000 + 0x2000 * p, 5, 5⟩
def DRV_PCTL_maxspd (p : Nat) : Fld := ⟨0x280000 + 0x2000 * p, 4, 3⟩
def DRV_PCTL_auto (p : Nat) : Fld := ⟨0x280000 + 0x2000 * p, 2, 2⟩
def DRV_PCTL_disable (p : Nat) : Fld := ⟨0x280000 + 0x2000 * p, 0, 0⟩
def DRV_PSTAT (p : Nat) : Nat := 0x280004 + 0x2000 * p
def DRV_PSTAT_clkreq (p : Nat) : Fld := ⟨0x280004 + 0x2000 * p, 12, 12⟩
def DRV_PSTAT_present (p : Nat) : Fld := ⟨0x280004 + 0x2000 * p, 11, 11⟩
def DRV_PSTAT_slow (p : Nat) : Fld := ⟨0x280004 + 0x2000 * p, 10, 10⟩
def DRV_PSTAT_speed (p : Nat) : Fld := ⟨0x280004 + 0x2000 * p, 9, 8⟩
def DRV_PSTAT_width (p : Nat) : Fld := ⟨0x280004 + 0x2000 * p, 7, 5⟩
def DRV_PSTAT_flit (p : Nat) : Fld := ⟨0x280004 + 0x2000 * p, 4, 4⟩
def DRV_PSTAT_up (p : Nat) : Fld := ⟨0x280004 + 0x2000 * p, 0, 0⟩
def DRV_SB (p : Nat) : Nat := 0x280008 + 0x2000 * p
def DRV_SB_led (p : Nat) : Fld := ⟨0x280008 + 0x2000 * p, 6, 4⟩
def DRV_SB_pwrdis (p : Nat) : Fld := ⟨0x280008 + 0x2000 * p, 1, 1⟩
def DRV_SB_perst (p : Nat) : Fld := ⟨0x280008 + 0x2000 * p, 0, 0⟩
def DRV_ESTAT (p : Nat) : Nat := 0x28000c + 0x2000 * p
def DRV_ESTAT_psfail (p : Nat) : Fld := ⟨0x28000c + 0x2000 * p, 7, 7⟩
def DRV_ESTAT_ps_done (p : Nat) : Fld := ⟨0x28000c + 0x2000 * p, 6, 6⟩
def DRV_ESTAT_raw (p : Nat) : Fld := ⟨0x28000c + 0x2000 * p, 5, 5⟩
def DRV_ESTAT_fence (p : Nat) : Fld := ⟨0x28000c + 0x2000 * p, 4, 4⟩
def DRV_ESTAT_aer (p : Nat) : Fld := ⟨0x28000c + 0x2000 * p, 3, 3⟩
def DRV_ESTAT_invacc (p : Nat) : Fld := ⟨0x28000c + 0x2000 * p, 2, 2⟩
def DRV_ESTAT_tmo (p : Nat) : Fld := ⟨0x28000c + 0x2000 * p, 1, 1⟩
def DRV_ESTAT_slow (p : Nat) : Fld := ⟨0x28000c + 0x2000 * p, 0, 0⟩
def DRV_TMO (p : Nat) : Nat := 0x280010 + 0x2000 * p
def DRV_TMO_ms (p : Nat) : Fld := ⟨0x280010 + 0x2000 * p, 15, 0⟩
def DRV_POLL (p : Nat) : Nat := 0x280014 + 0x2000 * p
def DRV_POLL_us (p : Nat) : Fld := ⟨0x280014 + 0x2000 * p, 7, 0⟩
def DRV_MDTS (p : Nat) : Nat := 0x280018 + 0x2000 * p
def DRV_MDTS_units (p : Nat) : Fld := ⟨0x280018 + 0x2000 * p, 20, 12⟩
def DRV_DBCFG (p : Nat) : Nat := 0x28001c + 0x2000 * p
def DRV_DBCFG_dstrd (p : Nat) : Fld := ⟨0x28001c + 0x2000 * p, 3, 0⟩
def DRV_BAR_LO (p : Nat) : Nat := 0x280020 + 0x2000 * p
def DRV_BAR_LO_addr (p : Nat) : Fld := ⟨0x280020 + 0x2000 * p, 31, 0⟩
def DRV_BAR_HI (p : Nat) : Nat := 0x280024 + 0x2000 * p
def DRV_BAR_HI_addr (p : Nat) : Fld := ⟨0x280024 + 0x2000 * p, 31, 0⟩
def DRV_TEMP (p : Nat) : Nat := 0x280028 + 0x2000 * p
def DRV_TEMP_valid (p : Nat) : Fld := ⟨0x280028 + 0x2000 * p, 8, 8⟩
def DRV_TEMP_temp (p : Nat) : Fld := ⟨0x280028 + 0x2000 * p, 7, 0⟩
def DRV_PSCTL (p : Nat) : Nat := 0x28002c + 0x2000 * p
def DRV_PSCTL_done (p : Nat) : Fld := ⟨0x28002c + 0x2000 * p, 15, 15⟩
def DRV_PSCTL_cur (p : Nat) : Fld := ⟨0x28002c + 0x2000 * p, 12, 8⟩
def DRV_PSCTL_ps (p : Nat) : Fld := ⟨0x28002c + 0x2000 * p, 4, 0⟩
def DRV_FNSID (p : Nat) : Nat := 0x280030 + 0x2000 * p
def DRV_FNSID_nsid (p : Nat) : Fld := ⟨0x280030 + 0x2000 * p, 31, 0⟩
def DRV_CFGADDR (p : Nat) : Nat := 0x280040 + 0x2000 * p
def DRV_CFGADDR_reg (p : Nat) : Fld := ⟨0x280040 + 0x2000 * p, 11, 2⟩
def DRV_CFGDATA (p : Nat) : Nat := 0x280044 + 0x2000 * p
def DRV_CFGDATA_data (p : Nat) : Fld := ⟨0x280044 + 0x2000 * p, 31, 0⟩
def DRV_RSQ (p i : Nat) : Nat := 0x280100 + 0x2000 * p + 0x4 * i
def DRV_RSQ_dw (p i : Nat) : Fld := ⟨0x280100 + 0x2000 * p + 0x4 * i, 31, 0⟩
def DRV_RCMD (p : Nat) : Nat := 0x280140 + 0x2000 * p
def DRV_RCMD_busy (p : Nat) : Fld := ⟨0x280140 + 0x2000 * p, 31, 31⟩
def DRV_RCMD_q (p : Nat) : Fld := ⟨0x280140 + 0x2000 * p, 6, 6⟩
def DRV_RCQE (p i : Nat) : Nat := 0x280150 + 0x2000 * p + 0x4 * i
def DRV_RCQE_dw (p i : Nat) : Fld := ⟨0x280150 + 0x2000 * p + 0x4 * i, 31, 0⟩
def DRV_CMDS (p : Nat) : Nat := 0x280200 + 0x2000 * p
def DRV_CMDS_count (p : Nat) : Fld := ⟨0x280200 + 0x2000 * p, 31, 0⟩
def DRV_INVACC (p : Nat) : Nat := 0x280204 + 0x2000 * p
def DRV_INVACC_count (p : Nat) : Fld := ⟨0x280204 + 0x2000 * p, 31, 0⟩
def DRV_LATE (p : Nat) : Nat := 0x280208 + 0x2000 * p
def DRV_LATE_count (p : Nat) : Fld := ⟨0x280208 + 0x2000 * p, 31, 0⟩
def DRV_AERCNT (p : Nat) : Nat := 0x28020c + 0x2000 * p
def DRV_AERCNT_cor (p : Nat) : Fld := ⟨0x28020c + 0x2000 * p, 31, 16⟩
def DRV_AERCNT_nf (p : Nat) : Fld := ⟨0x28020c + 0x2000 * p, 15, 8⟩
def DRV_AERCNT_fatal (p : Nat) : Fld := ⟨0x28020c + 0x2000 * p, 7, 0⟩
def DRV_CTL : Nat := 0x281f00
def DRV_CTL_seal : Fld := ⟨0x281f00, 0, 0⟩
def DRV_QBASE : Nat := 0x281f04
def DRV_QBASE_base : Fld := ⟨0x281f04, 8, 0⟩
def DRV_RKEY_LO : Nat := 0x281f08
def DRV_RKEY_LO_key : Fld := ⟨0x281f08, 31, 0⟩
def DRV_RKEY_HI : Nat := 0x281f0c
def DRV_RKEY_HI_key : Fld := ⟨0x281f0c, 31, 0⟩
def DRV_PKEY_LO : Nat := 0x281f10
def DRV_PKEY_LO_key : Fld := ⟨0x281f10, 31, 0⟩
def DRV_PKEY_HI : Nat := 0x281f14
def DRV_PKEY_HI_key : Fld := ⟨0x281f14, 31, 0⟩
def DRV_FENCE : Nat := 0x281f18
def DRV_FENCE_tmo : Fld := ⟨0x281f18, 31, 24⟩
def DRV_FENCE_pmask : Fld := ⟨0x281f18, 23, 0⟩
def DRV_FSTAT : Nat := 0x281f1c
def DRV_FSTAT_done : Fld := ⟨0x281f1c, 23, 0⟩
def DRV_FFAIL : Nat := 0x281f20
def DRV_FFAIL_fail : Fld := ⟨0x281f20, 23, 0⟩
def DRV_FCMD : Nat := 0x281f24
def DRV_FCMD_go : Fld := ⟨0x281f24, 31, 31⟩
def DRV_FCMD_clr : Fld := ⟨0x281f24, 30, 30⟩

/-! Fields and registers of ATT. -/

def ATT_CTL : Nat := 0x300000
def ATT_CTL_seal : Fld := ⟨0x300000, 1, 1⟩
def ATT_CTL_bar0en : Fld := ⟨0x300000, 0, 0⟩
def ATT_STAT : Nat := 0x300004
def ATT_STAT_bar0ref : Fld := ⟨0x300004, 6, 6⟩
def ATT_STAT_dstate : Fld := ⟨0x300004, 5, 5⟩
def ATT_STAT_cto : Fld := ⟨0x300004, 4, 4⟩
def ATT_STAT_flr : Fld := ⟨0x300004, 3, 3⟩
def ATT_STAT_bme : Fld := ⟨0x300004, 2, 2⟩
def ATT_STAT_ovr : Fld := ⟨0x300004, 1, 1⟩
def ATT_STAT_link : Fld := ⟨0x300004, 0, 0⟩
def ATT_LINK : Nat := 0x300008
def ATT_LINK_speed : Fld := ⟨0x300008, 9, 8⟩
def ATT_LINK_width : Fld := ⟨0x300008, 7, 3⟩
def ATT_LINK_flit : Fld := ⟨0x300008, 1, 1⟩
def ATT_LINK_up : Fld := ⟨0x300008, 0, 0⟩
def ATT_ID : Nat := 0x30000c
def ATT_ID_did : Fld := ⟨0x30000c, 31, 16⟩
def ATT_ID_vid : Fld := ⟨0x30000c, 15, 0⟩
def ATT_VFST : Nat := 0x300010
def ATT_VFST_vfen : Fld := ⟨0x300010, 8, 8⟩
def ATT_VFST_numvf : Fld := ⟨0x300010, 5, 0⟩
def ATT_DBBASE : Nat := 0x300014
def ATT_DBBASE_base : Fld := ⟨0x300014, 14, 0⟩
def ATT_DBCFG : Nat := 0x300018
def ATT_DBCFG_tag : Fld := ⟨0x300018, 9, 0⟩
def ATT_TAGS : Nat := 0x30001c
def ATT_TAGS_quar : Fld := ⟨0x30001c, 26, 16⟩
def ATT_TAGS_used : Fld := ⟨0x30001c, 10, 0⟩
def ATT_IRQ : Nat := 0x300020
def ATT_IRQ_fn : Fld := ⟨0x300020, 21, 16⟩
def ATT_IRQ_vec : Fld := ⟨0x300020, 10, 0⟩
def ATT_INTXST : Nat := 0x300024
def ATT_INTXST_st : Fld := ⟨0x300024, 31, 0⟩
def ATT_WAKE : Nat := 0x300028
def ATT_WAKE_pend : Fld := ⟨0x300028, 1, 1⟩
def ATT_WAKE_req : Fld := ⟨0x300028, 0, 0⟩
def ATT_DBPI (g : Nat) : Nat := 0x300040 + 0x4 * g
def ATT_DBPI_pi (g : Nat) : Fld := ⟨0x300040 + 0x4 * g, 8, 0⟩
def ATT_DBCI (g : Nat) : Nat := 0x300080 + 0x4 * g
def ATT_DBCI_ci (g : Nat) : Fld := ⟨0x300080 + 0x4 * g, 8, 0⟩
def ATT_FNST (f : Nat) : Nat := 0x300100 + 0x4 * f
def ATT_FNST_parked (f : Nat) : Fld := ⟨0x300100 + 0x4 * f, 15, 8⟩
def ATT_FNST_ovr (f : Nat) : Fld := ⟨0x300100 + 0x4 * f, 6, 6⟩
def ATT_FNST_flr (f : Nat) : Fld := ⟨0x300100 + 0x4 * f, 5, 5⟩
def ATT_FNST_dst (f : Nat) : Fld := ⟨0x300100 + 0x4 * f, 4, 3⟩
def ATT_FNST_msixen (f : Nat) : Fld := ⟨0x300100 + 0x4 * f, 2, 2⟩
def ATT_FNST_mem (f : Nat) : Fld := ⟨0x300100 + 0x4 * f, 1, 1⟩
def ATT_FNST_bme (f : Nat) : Fld := ⟨0x300100 + 0x4 * f, 0, 0⟩
def ATT_FNCL (f : Nat) : Nat := 0x300200 + 0x4 * f
def ATT_FNCL_cluster (f : Nat) : Fld := ⟨0x300200 + 0x4 * f, 3, 0⟩
def ATT_INTMS (f : Nat) : Nat := 0x300400 + 0x4 * f
def ATT_INTMS_intms (f : Nat) : Fld := ⟨0x300400 + 0x4 * f, 31, 0⟩
def ATT_RXTLP_LO : Nat := 0x300600
def ATT_RXTLP_LO_count : Fld := ⟨0x300600, 31, 0⟩
def ATT_RXTLP_HI : Nat := 0x300604
def ATT_RXTLP_HI_count : Fld := ⟨0x300604, 31, 0⟩
def ATT_TXTLP_LO : Nat := 0x300608
def ATT_TXTLP_LO_count : Fld := ⟨0x300608, 31, 0⟩
def ATT_TXTLP_HI : Nat := 0x30060c
def ATT_TXTLP_HI_count : Fld := ⟨0x30060c, 31, 0⟩
def ATT_CTO_LO : Nat := 0x300610
def ATT_CTO_LO_count : Fld := ⟨0x300610, 31, 0⟩
def ATT_CTO_HI : Nat := 0x300614
def ATT_CTO_HI_count : Fld := ⟨0x300614, 31, 0⟩
def ATT_LATE_LO : Nat := 0x300618
def ATT_LATE_LO_count : Fld := ⟨0x300618, 31, 0⟩
def ATT_LATE_HI : Nat := 0x30061c
def ATT_LATE_HI_count : Fld := ⟨0x30061c, 31, 0⟩
def ATT_UNEXP_LO : Nat := 0x300620
def ATT_UNEXP_LO_count : Fld := ⟨0x300620, 31, 0⟩
def ATT_UNEXP_HI : Nat := 0x300624
def ATT_UNEXP_HI_count : Fld := ⟨0x300624, 31, 0⟩
def ATT_PARKED_LO : Nat := 0x300628
def ATT_PARKED_LO_count : Fld := ⟨0x300628, 31, 0⟩
def ATT_PARKED_HI : Nat := 0x30062c
def ATT_PARKED_HI_count : Fld := ⟨0x30062c, 31, 0⟩
def ATT_BAR0REF_LO : Nat := 0x300630
def ATT_BAR0REF_LO_count : Fld := ⟨0x300630, 31, 0⟩
def ATT_BAR0REF_HI : Nat := 0x300634
def ATT_BAR0REF_HI_count : Fld := ⟨0x300634, 31, 0⟩
def ATT_IRQDROP_LO : Nat := 0x300638
def ATT_IRQDROP_LO_count : Fld := ⟨0x300638, 31, 0⟩
def ATT_IRQDROP_HI : Nat := 0x30063c
def ATT_IRQDROP_HI_count : Fld := ⟨0x30063c, 31, 0⟩
def ATT_CSTS (f : Nat) : Nat := 0x300500 + 0x4 * f
def ATT_CSTS_csts (f : Nat) : Fld := ⟨0x300500 + 0x4 * f, 3, 0⟩

/-! Fields and registers of TWIN. -/

def TWIN_CTL : Nat := 0x310000
def TWIN_CTL_hbstop : Fld := ⟨0x310000, 4, 4⟩
def TWIN_CTL_seal : Fld := ⟨0x310000, 3, 3⟩
def TWIN_CTL_autoresync : Fld := ⟨0x310000, 2, 2⟩
def TWIN_CTL_prefer : Fld := ⟨0x310000, 1, 1⟩
def TWIN_CTL_en : Fld := ⟨0x310000, 0, 0⟩
def TWIN_STAT : Nat := 0x310004
def TWIN_STAT_phase : Fld := ⟨0x310004, 31, 28⟩
def TWIN_STAT_ceded : Fld := ⟨0x310004, 9, 9⟩
def TWIN_STAT_hb : Fld := ⟨0x310004, 8, 8⟩
def TWIN_STAT_groups : Fld := ⟨0x310004, 7, 4⟩
def TWIN_STAT_link : Fld := ⟨0x310004, 3, 3⟩
def TWIN_STAT_sync : Fld := ⟨0x310004, 2, 2⟩
def TWIN_STAT_solo : Fld := ⟨0x310004, 1, 1⟩
def TWIN_STAT_role : Fld := ⟨0x310004, 0, 0⟩
def TWIN_ESTAT : Nat := 0x310008
def TWIN_ESTAT_localrej : Fld := ⟨0x310008, 11, 11⟩
def TWIN_ESTAT_swap : Fld := ⟨0x310008, 10, 10⟩
def TWIN_ESTAT_health : Fld := ⟨0x310008, 9, 9⟩
def TWIN_ESTAT_portdiff : Fld := ⟨0x310008, 8, 8⟩
def TWIN_ESTAT_lag : Fld := ⟨0x310008, 7, 7⟩
def TWIN_ESTAT_resync : Fld := ⟨0x310008, 6, 6⟩
def TWIN_ESTAT_cede : Fld := ⟨0x310008, 5, 5⟩
def TWIN_ESTAT_rolechg : Fld := ⟨0x310008, 4, 4⟩
def TWIN_ESTAT_hbloss : Fld := ⟨0x310008, 3, 3⟩
def TWIN_ESTAT_schk : Fld := ⟨0x310008, 2, 2⟩
def TWIN_ESTAT_diverge : Fld := ⟨0x310008, 1, 1⟩
def TWIN_ESTAT_link : Fld := ⟨0x310008, 0, 0⟩
def TWIN_CFG : Nat := 0x31000c
def TWIN_CFG_frzmax : Fld := ⟨0x31000c, 31, 24⟩
def TWIN_CFG_sendfull : Fld := ⟨0x31000c, 23, 16⟩
def TWIN_CFG_lagmax : Fld := ⟨0x31000c, 7, 0⟩
def TWIN_CMD : Nat := 0x310010
def TWIN_CMD_op : Fld := ⟨0x310010, 2, 0⟩
def TWIN_CMDSTAT : Nat := 0x310014
def TWIN_CMDSTAT_busy : Fld := ⟨0x310014, 31, 31⟩
def TWIN_CMDSTAT_code : Fld := ⟨0x310014, 7, 0⟩
def TWIN_MIRWIN : Nat := 0x310018
def TWIN_MIRWIN_en : Fld := ⟨0x310018, 31, 31⟩
def TWIN_MIRWIN_limit : Fld := ⟨0x310018, 30, 16⟩
def TWIN_MIRWIN_base : Fld := ⟨0x310018, 14, 0⟩
def TWIN_LAG : Nat := 0x31001c
def TWIN_LAG_backlog : Fld := ⟨0x31001c, 31, 16⟩
def TWIN_LAG_lag : Fld := ⟨0x31001c, 7, 0⟩
def TWIN_SCHK : Nat := 0x310020
def TWIN_SCHK_peer : Fld := ⟨0x310020, 31, 24⟩
def TWIN_SCHK_own : Fld := ⟨0x310020, 15, 8⟩
def TWIN_SCHK_done : Fld := ⟨0x310020, 0, 0⟩
def TWIN_DIVEP_LO : Nat := 0x310024
def TWIN_DIVEP_LO_epoch : Fld := ⟨0x310024, 31, 0⟩
def TWIN_DIVEP_HI : Nat := 0x310028
def TWIN_DIVEP_HI_epoch : Fld := ⟨0x310028, 31, 0⟩
def TWIN_PORTDIFF : Nat := 0x31002c
def TWIN_PORTDIFF_ports : Fld := ⟨0x31002c, 23, 0⟩
def TWIN_STMAP : Nat := 0x310030
def TWIN_STMAP_base : Fld := ⟨0x310030, 14, 0⟩
def TWIN_HREP : Nat := 0x310034
def TWIN_HREP_base : Fld := ⟨0x310034, 14, 0⟩
def TWIN_TOLIST : Nat := 0x310038
def TWIN_TOLIST_n : Fld := ⟨0x310038, 15, 0⟩
def TWIN_LOGREC_LO : Nat := 0x310100
def TWIN_LOGREC_LO_count : Fld := ⟨0x310100, 31, 0⟩
def TWIN_LOGREC_HI : Nat := 0x310104
def TWIN_LOGREC_HI_count : Fld := ⟨0x310104, 31, 0⟩
def TWIN_LOGBYTES_LO : Nat := 0x310108
def TWIN_LOGBYTES_LO_count : Fld := ⟨0x310108, 31, 0⟩
def TWIN_LOGBYTES_HI : Nat := 0x31010c
def TWIN_LOGBYTES_HI_count : Fld := ⟨0x31010c, 31, 0⟩
def TWIN_MIRBYTES_LO : Nat := 0x310110
def TWIN_MIRBYTES_LO_count : Fld := ⟨0x310110, 31, 0⟩
def TWIN_MIRBYTES_HI : Nat := 0x310114
def TWIN_MIRBYTES_HI_count : Fld := ⟨0x310114, 31, 0⟩
def TWIN_EPOCHS_LO : Nat := 0x310118
def TWIN_EPOCHS_LO_count : Fld := ⟨0x310118, 31, 0⟩
def TWIN_EPOCHS_HI : Nat := 0x31011c
def TWIN_EPOCHS_HI_count : Fld := ⟨0x31011c, 31, 0⟩
def TWIN_DIVERGE_LO : Nat := 0x310120
def TWIN_DIVERGE_LO_count : Fld := ⟨0x310120, 31, 0⟩
def TWIN_DIVERGE_HI : Nat := 0x310124
def TWIN_DIVERGE_HI_count : Fld := ⟨0x310124, 31, 0⟩
def TWIN_TAKEOVER_LO : Nat := 0x310128
def TWIN_TAKEOVER_LO_count : Fld := ⟨0x310128, 31, 0⟩
def TWIN_TAKEOVER_HI : Nat := 0x31012c
def TWIN_TAKEOVER_HI_count : Fld := ⟨0x31012c, 31, 0⟩
def TWIN_RESYNCS_LO : Nat := 0x310130
def TWIN_RESYNCS_LO_count : Fld := ⟨0x310130, 31, 0⟩
def TWIN_RESYNCS_HI : Nat := 0x310134
def TWIN_RESYNCS_HI_count : Fld := ⟨0x310134, 31, 0⟩
def TWIN_LOCALREJ_LO : Nat := 0x310138
def TWIN_LOCALREJ_LO_count : Fld := ⟨0x310138, 31, 0⟩
def TWIN_LOCALREJ_HI : Nat := 0x31013c
def TWIN_LOCALREJ_HI_count : Fld := ⟨0x31013c, 31, 0⟩
def TWIN_LINKCW_LO : Nat := 0x310140
def TWIN_LINKCW_LO_count : Fld := ⟨0x310140, 31, 0⟩
def TWIN_LINKCW_HI : Nat := 0x310144
def TWIN_LINKCW_HI_count : Fld := ⟨0x310144, 31, 0⟩
def TWIN_LINKUCW_LO : Nat := 0x310148
def TWIN_LINKUCW_LO_count : Fld := ⟨0x310148, 31, 0⟩
def TWIN_LINKUCW_HI : Nat := 0x31014c
def TWIN_LINKUCW_HI_count : Fld := ⟨0x31014c, 31, 0⟩
def TWIN_RETX_LO : Nat := 0x310150
def TWIN_RETX_LO_count : Fld := ⟨0x310150, 31, 0⟩
def TWIN_RETX_HI : Nat := 0x310154
def TWIN_RETX_HI_count : Fld := ⟨0x310154, 31, 0⟩

/-! Fields and registers of HBMC. -/

def HBMC_CTL : Nat := 0x320000
def HBMC_CTL_seal : Fld := ⟨0x320000, 1, 1⟩
def HBMC_CTL_patrol : Fld := ⟨0x320000, 0, 0⟩
def HBMC_STAT : Nat := 0x320004
def HBMC_STAT_ready : Fld := ⟨0x320004, 1, 0⟩
def HBMC_PATROL : Nat := 0x320008
def HBMC_PATROL_s : Fld := ⟨0x320008, 7, 0⟩
def HBMC_TEMP (s : Nat) : Nat := 0x320010 + 0x4 * s
def HBMC_TEMP_t (s : Nat) : Fld := ⟨0x320010 + 0x4 * s, 10, 0⟩
def HBMC_CE : Nat := 0x320020
def HBMC_CE_count : Fld := ⟨0x320020, 31, 0⟩
def HBMC_PATERR : Nat := 0x320024
def HBMC_PATERR_count : Fld := ⟨0x320024, 31, 0⟩

/-! Fields and registers of MRAMC. -/

def MRAMC_CTL : Nat := 0x330000
def MRAMC_CTL_seal : Fld := ⟨0x330000, 0, 0⟩
def MRAMC_STAT : Nat := 0x330004
def MRAMC_STAT_busy : Fld := ⟨0x330004, 1, 1⟩
def MRAMC_STAT_ready : Fld := ⟨0x330004, 0, 0⟩
def MRAMC_CE : Nat := 0x330008
def MRAMC_CE_count : Fld := ⟨0x330008, 31, 0⟩
def MRAMC_UE : Nat := 0x33000c
def MRAMC_UE_count : Fld := ⟨0x33000c, 31, 0⟩

end Sys2Proof.Machine
end

