-- ==== Sys2Proof/Machine/Store.lean ====
section
/-! DEFINITION. Sparse tables: how every register file, memory and numbered collection of the module is held. A table
lists keys in strictly rising order and lists no entry equal to what an unlisted key reads as, so equal contents are
equal data. -/

namespace Sys2Proof.Machine

/-- The entry listed for key `k`, if one is. -/
def tableFind {α : Type} : Table α → Nat → Option α
  | [], _ => none
  | (j, v) :: r, k => if j = k then some v else tableFind r k

/-- What key `k` reads as, an unlisted key reading `d k`. -/
def tableGet {α : Type} (d : Nat → α) (t : Table α) (k : Nat) : α :=
  match tableFind t k with
  | some v => v
  | none => d k

/-- List `v` for key `k`, keeping the keys in rising order. -/
def tableInsert {α : Type} : Table α → Nat → α → Table α
  | [], k, v => [(k, v)]
  | (j, u) :: r, k, v =>
    if j = k then (k, v) :: r
    else if k < j then (k, v) :: (j, u) :: r
    else (j, u) :: tableInsert r k v

/-- Unlist key `k`. -/
def tableErase {α : Type} (t : Table α) (k : Nat) : Table α := t.filter fun e => e.1 != k

/-- Make key `k` read `v`; a value equal to what the unlisted key reads as is not listed. -/
def tableSet {α : Type} [DecidableEq α] (d : Nat → α) (t : Table α) (k : Nat) (v : α) : Table α :=
  if v = d k then tableErase t k else tableInsert t k v

/-- The keys rise strictly and stand above `lo` where a bound is given. -/
def tableRising {α : Type} : Table α → Bool
  | [] => true
  | [_] => true
  | (j, _) :: (k, v) :: r => decide (j < k) && tableRising ((k, v) :: r)

/-- The canonical form of a table. -/
def tableWf {α : Type} [DecidableEq α] (d : Nat → α) (t : Table α) : Bool :=
  tableRising t && t.all fun e => decide (e.2 ≠ d e.1)

/-- Key `k` is listed. -/
def tableHas {α : Type} (t : Table α) (k : Nat) : Bool := (tableFind t k).isSome

/-- Keep the entries whose key satisfies `p`. -/
def tableKeep {α : Type} (p : Nat → Bool) (t : Table α) : Table α := t.filter fun e => p e.1

end Sys2Proof.Machine
end

