-- ==== Sys2Proof/Machine/Ops.lean ====
section
/-! DEFINITION. The named operations over registers, counters and memories, and event latching with its routes (R480 to
R485). Every command's meaning is written over these. -/

namespace Sys2Proof.Machine

/-! ## Register descriptors -/

/-- The descriptors of the block whose window holds address `a` (R540); none where no window does. -/
def blockRegs (a : Nat) : List RegDesc :=
  let p := a / 0x10000
  if 0x34 ≤ p then []
  else match p with
  | 0x00 => regsTOP | 0x01 => regsHEARTH | 0x02 => regsOTP | 0x03 => regsFEED | 0x04 => regsBAY | 0x05 => regsDAMP
  | 0x06 => regsSENSE | 0x07 => regsEVT | 0x08 => regsPMON | 0x09 => regsMGMT | 0x0A => regsCLK
  | 0x10 => regsNETP | 0x11 => regsNETP | 0x14 => regsSWC | 0x15 => regsSWC | 0x16 => regsFWD | 0x17 => regsFWD
  | 0x18 => regsXPORT | 0x19 => regsXPORT | 0x1A => regsXPORT | 0x1B => regsXPORT
  | 0x1C => regsTHIM | 0x1D => regsTHIM | 0x1E => regsTHIM | 0x1F => regsTHIM
  | 0x20 => regsSEAM | 0x21 => regsSEAM | 0x22 => regsSEAM | 0x23 => regsSEAM
  | 0x24 => regsMNGL | 0x25 => regsSTRP | 0x26 => regsDARN | 0x27 => regsDARN
  | 0x28 => regsDRV | 0x29 => regsDRV | 0x2A => regsDRV | 0x2B => regsDRV
  | 0x2C => regsDRV | 0x2D => regsDRV | 0x2E => regsDRV | 0x2F => regsDRV
  | 0x30 => regsATT | 0x31 => regsTWIN | 0x32 => regsHBMC | 0x33 => regsMRAMC
  | _ => []

/-- The instance of `d` at address `a`: its indexes, outermost first. -/
def descIndex (d : RegDesc) (a : Nat) : Option (List Nat) :=
  if a < d.base then none
  else
    let o := a - d.base
    match d.dims with
    | [] => if o = 0 then some [] else none
    | [(n, s)] => if o % s = 0 ∧ o / s < n then some [o / s] else none
    | (n, s) :: (k, t) :: _ =>
      if o / s < n ∧ o % s % t = 0 ∧ o % s / t < k then some [o / s, o % s / t] else none

/-- The four windows of a group or a quad show one set of registers: the address of the one register (spec/02, spec/09,
Registers). -/
def canonAddr (a : Nat) : Nat :=
  if 0x200000 ≤ a ∧ a < 0x240000 ∧ 0xC00 ≤ a % 0x1000 ∧ a % 0x1000 ≤ 0xC08 then
    a - (a / 0x1000) % 4 * 0x1000
  else if 0x100000 ≤ a ∧ a < 0x120000 ∧ 0xC00 ≤ a % 0x1000 ∧ a % 0x1000 ≤ 0xC4C then
    a - (a / 0x1000) % 4 * 0x1000
  else a

/-- The descriptor of the register at address `a`, and the register's indexes. -/
def regDesc (a : Nat) : Option (RegDesc × List Nat) :=
  (blockRegs a).findSome? fun d => (descIndex d a).map fun i => (d, i)

/-- The reset value that a descriptor's fields give. -/
def fieldsDflt (l : List FieldDesc) : Nat := l.foldl (fun v f => v + f.dflt * 2 ^ f.lo) 0

/-- Reset values that depend on a register's index: the cost table of R110, the poles of R443, the depths of R462, the
guaranteed cells and the regions of R235 and R249, the aging modes of R271 and the clusters of R348; after a
reset every strand is IDLE, and so every group drained (R51, R53). -/
def indexDflt (a : Nat) : Nat :=
  let i := a % 0x100 / 4
  if 0x240100 ≤ a ∧ a < 0x240138 then
    nth [4, 8, 16, 16, 384 + 0, 1280 + 0, 8, 4, 4, 4, 8, 16, 2, 4] i 0 * 65536 +
      nth [0, 0, 0, 0, 2, 2, 0, 0, 0, 0, 0, 0, 0, 0] i 0
  else if a = 0x4C00C then 20 * 65536 + 1000
  else if a = 0x4C010 then 500 * 65536 + 3000
  else if a = 0x4C014 then 20000 * 65536 + 40000
  else if 0x50020 ≤ a ∧ a < 0x50038 then nth [8000, 8000, 0, 2000, 500, 2000] ((a - 0x50020) / 4) 0
  else if 0x141000 ≤ a ∧ a < 0x146000 ∧ 0x20 ≤ a % 0x200 ∧ a % 0x200 < 0x40 then
    if (a - 0x141000) / 0x200 < 32 then 16 else 64
  else if a = 0x160030 then 2 ^ 30
  else if a = 0x14000C ∨ a = 0x240010 then 196608
  else if 0x300200 ≤ a ∧ a < 0x300300 then (a - 0x300200) / 4 % 16
  else if 0x200000 ≤ a ∧ a < 0x240000 ∧ a % 0x1000 = 0xC04 then 2
  else 0

/-- What the register at address `a` reads right after reset. -/
def regDflt (a : Nat) : Word32 :=
  match regDesc a with
  | none => 0
  | some (d, _) => BitVec.ofNat 32 (fieldsDflt d.fields + indexDflt a)

/-! ## Reading and writing registers from inside the module -/

/-- The register at address `a`. -/
def Fjoek.reg (m : Fjoek) (a : Nat) : Nat := (tableGet regDflt m.regs a).toNat

/-- Make the register at address `a` hold `v`. -/
def Fjoek.setReg (m : Fjoek) (a v : Nat) : Fjoek :=
  { m with regs := tableSet regDflt m.regs a (BitVec.ofNat 32 v) }

/-- A field. -/
def Fjoek.get (m : Fjoek) (f : Fld) : Nat := bitsOf (m.reg f.addr) f.hi f.lo

/-- A one-bit field as a flag. -/
def Fjoek.isOn (m : Fjoek) (f : Fld) : Bool := m.get f != 0

/-- Make a field hold `v`. -/
def Fjoek.put (m : Fjoek) (f : Fld) (v : Nat) : Fjoek :=
  m.setReg f.addr (withBits (m.reg f.addr) f.hi f.lo v)

/-- A signed field. -/
def Fjoek.getS (m : Fjoek) (f : Fld) : Int := signed (f.hi - f.lo + 1) (m.get f)

/-- Make a signed field hold `v`. -/
def Fjoek.putS (m : Fjoek) (f : Fld) (v : Int) : Fjoek := m.put f (unsigned (f.hi - f.lo + 1) v)

/-- Add to a field, saturating at its largest value (the RC counters of R8). -/
def Fjoek.bump (m : Fjoek) (f : Fld) (n : Nat) : Fjoek := m.put f (satAdd (f.hi - f.lo + 1) (m.get f) n)

/-- The 64-bit value whose low word stands at `a` (R10, R541). -/
def Fjoek.reg64 (m : Fjoek) (a : Nat) : Nat := m.reg a + 2 ^ 32 * m.reg (a + 4)

def Fjoek.setReg64 (m : Fjoek) (a v : Nat) : Fjoek :=
  (m.setReg a (v % 2 ^ 32)).setReg (a + 4) (v / 2 ^ 32 % 2 ^ 32)

/-- Add to a 64-bit counter, wrapping modulo 2^64 (R228, R480). -/
def Fjoek.count (m : Fjoek) (a n : Nat) : Fjoek := m.setReg64 a ((m.reg64 a + n) % 2 ^ 64)

/-- Apply `f` when `c` holds. -/
def Fjoek.when (m : Fjoek) (c : Bool) (f : Fjoek → Fjoek) : Fjoek := if c then f m else m

/-- Apply `f` for each element of a list, in order. -/
def Fjoek.each {α : Type} (m : Fjoek) (l : List α) (f : α → Fjoek → Fjoek) : Fjoek := l.foldl (fun m x => f x m) m

/-- `n` happenings of a module event (R489). -/
def Fjoek.happen (m : Fjoek) (event n : Nat) : Fjoek :=
  { m with tally := tableSet (fun _ => 0) m.tally event (tableGet (fun _ => 0) m.tally event + n) }

/-- Create a message that leaves the module. -/
def Fjoek.send (m : Fjoek) (o : OutMsg) : Fjoek := { m with out := m.out ++ [o] }

/-- The next free 64-bit value and the state that has used it. -/
def Fjoek.free64 (m : Fjoek) : Word64 × Fjoek := (Config.free64 m.free, { m with free := m.free + 1 })

def Fjoek.freeBool (m : Fjoek) : Bool × Fjoek :=
  (Config.freeBool m.free, { m with free := m.free + 1 })

def Fjoek.freeNat (m : Fjoek) : Nat × Fjoek := (Config.freeNat m.free, { m with free := m.free + 1 })

/-- A fuse once programmed stays programmed: bits are only ever set, and fuses of the anti-rollback row only ever blown (R400,
R402). -/
def Fuses.burn (f : Fuses) (c : Nat × Nat) : Fuses :=
  if c.1 = 4096 then { f with arb := Nat.min 64 (f.arb + c.2) }
  else
    let w := tableSet (fun _ => 0) f.words c.1 (tableGet (fun _ => 0) f.words c.1 ||| BitVec.ofNat 32 c.2)
    { f with words := w }

/-! ## The time base (R386) -/

def Fjoek.time (m : Fjoek) : Nat := m.reg64 HEARTH_TIME_LO

/-! ## Memories -/

/-- A range of H addresses touches the STRP aperture while it is enabled (R144). -/
def Fjoek.inAperture (m : Fjoek) (a n : Nat) : Bool :=
  m.isOn STRP_CTL_apen && decide (a < (m.get STRP_APBASE_base + 1) * 2 ^ 27 ∧ m.get STRP_APBASE_base * 2 ^ 27 < a + n)

/-- What a location of HBM holds; one not written since the last Kindle reset holds a free value, the same at every read (R547). -/
def Fjoek.hbmCell (m : Fjoek) (a : Nat) : Byte := tableGet (Config.openHbm m.era) m.hbm a

/-- A byte of HBM as a requester reads it. None reaches a byte under the aperture (R144): what reading it gives is free (assumption 87). -/
def Fjoek.hbmByte (m : Fjoek) (a : Nat) : Byte := if m.inAperture a 1 then Config.coveredHbm a else m.hbmCell a

/-- Unit `u` of HBM has not been written whole since the last Kindle reset and holds an uncorrectable pattern (R547). -/
def Fjoek.hbmOpenBad (m : Fjoek) (u : Nat) : Bool :=
  !((List.range 64).all fun i => tableHas m.hbm (64 * u + i)) && Config.openHbmBad m.era u

/-- `n` bytes of HBM from address `a`. -/
def Fjoek.hbmBytes (m : Fjoek) (a n : Nat) : List Byte := (List.range n).map fun i => m.hbmByte (a + i)

/-- A little-endian number of `n` bytes in HBM. -/
def Fjoek.hbmNat (m : Fjoek) (a n : Nat) : Nat := ofBytes (m.hbmBytes a n)

/-- List bytes in a table that lists every location written (HBM and the buffer cells, R547). -/
def listBytes (t : Table Byte) : Nat → List Byte → Table Byte
  | _, [] => t
  | a, b :: r => listBytes (tableInsert t a b) (a + 1) r

/-- Write bytes into a table of bytes whose unlisted locations read 0. -/
def writeBytes (t : Table Byte) : Nat → List Byte → Table Byte
  | _, [] => t
  | a, b :: r => writeBytes (tableSet (fun _ => 0) t a b) (a + 1) r

/-- The 64-byte units that `n` bytes from `a` cover whole, and those that they touch. -/
def unitsWhole (a n : Nat) : List Nat := (List.range (n / 64 + 1)).filterMap fun i =>
  let u := ceilDiv a 64 + i
  if u * 64 + 64 ≤ a + n then some u else none

def unitsTouched (a n : Nat) : List Nat :=
  if n = 0 then [] else (List.range ((a + n - 1) / 64 - a / 64 + 1)).map fun i => a / 64 + i

/-- A byte range touches the loader's protected staging region (R49). -/
def Fjoek.inStaging (m : Fjoek) (a n : Nat) : Bool :=
  match m.seam.prot with
  | none => false
  | some b => decide (0 < n ∧ a < b + 0x40000 ∧ b < a + n)

/-! Poison (R114): a table of units, each with a bit for every byte not yet written again. -/

/-- Unit `u` is marked. -/
def marked (t : Table Word64) (u : Nat) : Bool := tableGet (fun _ => 0) t u != 0

/-- Mark unit `u`: none of its 64 bytes has been written again. -/
def mark (t : Table Word64) (u : Nat) : Table Word64 := tableSet (fun _ => 0) t u (BitVec.ofNat 64 (2 ^ 64 - 1))

/-- `n` bytes from address `a` are written, unit `u` of them being the unit `key u` of the table: a unit all of whose 64 bytes have
been written again, by one write or by several, is whole. -/
def rewriteUnits (t : Table Word64) (key : Nat → Nat) (a n : Nat) : Table Word64 :=
  if t.isEmpty then t
  else (unitsTouched a n).foldl (fun t u =>
    let gone := BitVec.ofNat 64 (2 ^ (Nat.min (64 * u + 64) (a + n) - 64 * u) - 2 ^ (Nat.max (64 * u) a - 64 * u))
    tableSet (fun _ => 0) t (key u) (tableGet (fun _ => 0) t (key u) &&& ~~~gone)) t

/-- Unmark the units that a write covers whole (R373). -/
def clearUnits (t : Table Bool) (a n : Nat) : Table Bool :=
  let u := unitsWhole a n
  t.filter fun e => !u.contains e.1

/-- Store bytes in HBM. Units written again whole are no longer poisoned (R114), and a tracked page counts as rewritten during a resync
copy (R377). -/
def Fjoek.hbmStore (m : Fjoek) (a : Nat) (b : List Byte) : Fjoek :=
  Fjoek.happen (event := 0x10E) (n := (unitsTouched a b.length).length) { m with
    hbm := listBytes m.hbm a b
    hbmPoison := rewriteUnits m.hbmPoison id a b.length
    hbmHidden := rewriteUnits m.hbmHidden id a b.length
    twin := { m.twin with
      absent := clearUnits m.twin.absent (2 ^ 35 + a) b.length
      shadow := m.twin.shadow.filter fun e => !(decide (a ≤ 4096 * e.1 ∧ 4096 * e.1 + 4096 ≤ a + b.length))
      rewritten :=
        if bitsOf (m.reg TWIN_STAT_phase.addr) 31 28 = 2 ∧ b ≠ [] then
          (List.range (ceilDiv (a % 4096 + b.length) 4096)).foldl (fun l i =>
            if l.contains (a / 4096 + i) then l else l ++ [a / 4096 + i]) m.twin.rewritten
        else m.twin.rewritten } }

/-- Write bytes to HBM, whoever asks: the bytes under an enabled aperture are reached by no requester (R144), and of a range that touches
them the parts below and above are stored. No other protection is applied. -/
def Fjoek.hbmPut (m : Fjoek) (a : Nat) (b : List Byte) : Fjoek :=
  if !m.inAperture a b.length then m.hbmStore a b
  else
    let from_ := m.get STRP_APBASE_base * 2 ^ 27
    (m.hbmStore a (b.take (from_ - a))).hbmStore (from_ + 2 ^ 27) (b.drop (from_ + 2 ^ 27 - a))

/-- Write bytes to HBM as any requester but the loader: HBMC refuses a range that touches the protected staging region
whole, without report (R49), and addresses wrap nowhere: a range past 2^35 does not exist. -/
def Fjoek.hbmWrite (m : Fjoek) (a : Nat) (b : List Byte) : Fjoek :=
  if m.inStaging a b.length ∨ 2 ^ 35 < a + b.length then m else m.hbmPut a b

/-- Write a little-endian number of `n` bytes to HBM. -/
def Fjoek.hbmWriteNat (m : Fjoek) (a n v : Nat) : Fjoek := m.hbmWrite a (bytesOf n v)

/-- A byte of MRAM; the reserved region reads 0 (R14). -/
def Fjoek.mramByte (m : Fjoek) (a : Nat) : Byte :=
  if a < 0x5600000 then tableGet (fun _ => 0) m.mram a else 0

def Fjoek.mramBytes (m : Fjoek) (a n : Nat) : List Byte := (List.range n).map fun i => m.mramByte (a + i)

def Fjoek.mramNat (m : Fjoek) (a n : Nat) : Nat := ofBytes (m.mramBytes a n)

/-- Store bytes in MRAM; writes to the reserved region are discarded (R14). -/
def Fjoek.mramPut (m : Fjoek) (a : Nat) (b : List Byte) : Fjoek :=
  if 0x5600000 < a + b.length then m else Fjoek.happen { m with mram := writeBytes m.mram a b } 0x113 1

/-! ## Clock domains and roles -/

/-- Domain `d` runs (R502). -/
def Fjoek.runs (m : Fjoek) (d : Nat) : Bool := bitOf (m.get CLK_DOMSTAT_run) d

/-- The power state (R387). -/
def Fjoek.power (m : Fjoek) : Nat := m.get HEARTH_STAT_state

/-- The module replays as the trailing twin of a pair in step (R355), up to the end of a takeover's replay (R373). -/
def Fjoek.trailing (m : Fjoek) : Bool :=
  m.isOn TOP_STRAP_twin && m.isOn SEAM_CTL_instep && (!m.isOn TWIN_STAT_role || m.get TWIN_STAT_phase == 6)

/-- The module is the lead of a pair in step, so inputs are logged (R355). -/
def Fjoek.leads (m : Fjoek) : Bool :=
  m.isOn TOP_STRAP_twin && m.isOn TWIN_STAT_role && m.isOn TWIN_STAT_sync && !m.isOn TWIN_STAT_solo &&
    m.get TWIN_STAT_phase != 6

/-- The current round of engine `e` (R55). -/
def Fjoek.round (m : Fjoek) (e : Nat) : Nat := tableGet (fun _ => 0) m.seam.rounds e

/-- The round of engine `e` that begins next: records that a lead writes inside a round take effect at its end (R56, R365). -/
def Fjoek.nextRound (m : Fjoek) (e : Nat) : Nat := m.round e + bnat (tableGet (fun _ => 0) m.seam.offered e != 0)

/-- The length of a record in bytes, in whole units of 16 after the 16-byte header (R356). The widths of payload fields are
the model's (assumption 12). -/
def logBytes (kind : Nat) (payload : List Nat) : Nat :=
  16 + 16 * ceilDiv (payload.length * if kind = 1 ∨ kind = 2 ∨ kind = 0x0C then 1 else 8) 16

/-- The lead writes a log record (R356), its payload kept here as a list of fields. -/
def Fjoek.logTwin (m : Fjoek) (kind target : Nat) (payload : List Nat) : Fjoek :=
  if m.leads then
    let r : LogRec := ⟨kind, target, if target < 64 then m.nextRound target else 0, m.twin.nextSeq, payload⟩
    let t : Twin := { m.twin with nextSeq := m.twin.nextSeq + 1, log := m.twin.log ++ [r] }
    Fjoek.happen ((Fjoek.count { m with twin := t } TWIN_LOGREC_LO 1).count TWIN_LOGBYTES_LO (logBytes kind payload)) 0x112 1
  else m

/-- The target of the CMD record of a write at `a` (R356): an engine of SEAM, or the block. -/
def cmdTarget (a : Nat) : Nat :=
  let p := a / 0x10000
  if 0x20 ≤ p ∧ p ≤ 0x23 then (a - 0x200000) / 0x1000
  else if 0x18 ≤ p ∧ p ≤ 0x1B then 0x80
  else if 0x1C ≤ p ∧ p ≤ 0x1F then 0x81
  else if p = 0x25 then 0x82
  else if 0x28 ≤ p ∧ p ≤ 0x2F then 0x83
  else if p = 0x30 then 0x84
  else if 0x14 ≤ p ∧ p ≤ 0x17 then 0x85
  else if p = 0x24 then 0x86
  else 0xFF

/-- The lead logs a register write as a CMD record (R356, R362). A loader command that finds its loader busy is ignored and changes
nothing (R64): it is no input of the trailing twin. -/
def Fjoek.logCmd (m : Fjoek) (a v : Nat) : Fjoek :=
  if a = SEAM_LDR_CMD ∧ m.isOn SEAM_LDR_STAT_busy then m else m.logTwin 0x0A (cmdTarget a) [a, v]

/-! ## Outputs of a twin (R358, R366, R374) -/

/-- A ceded module's outputs are suppressed (R374). -/
def Fjoek.ceded (m : Fjoek) : Bool := m.isOn TWIN_STAT_ceded

/-- An output that R358 holds: a trailing, stopped or ceded module suppresses it; a lead holds it until the trailing twin has
acknowledged every record that precedes it, and while its egress is frozen. -/
def Fjoek.output (m : Fjoek) (o : OutMsg) : Fjoek :=
  if m.trailing ∨ m.ceded ∨ m.twin.stopped then m
  else if m.twin.frozen ∨ (m.leads ∧ m.twin.acked + 1 < m.twin.nextSeq) then
    { m with twin := { m.twin with held := m.twin.held ++ [(m.twin.nextSeq - 1, o)] } }
  else m.send o

/-- One item of the digest of epoch `ep`, given as its bytes: padded, followed by its length in bits, reduced by GHASH under
H and added to the digest (R366, R367). Widths of numbers in an item are the model's (assumption 12). -/
def Fjoek.digestAt (m : Fjoek) (ep : Nat) (b : List Nat) : Fjoek :=
  if m.leads ∨ m.trailing then
    let n := ceilDiv b.length 16
    let y := ghashBlocks m.twin.hkey n 0 b
    let h := ghashBlocks m.twin.hkey 1 y (bytesBe 16 (8 * b.length))
    let v := (tableGet (fun _ => 0) m.twin.own ep + h) % 2 ^ 128
    let t : Twin := { m.twin with own := tableSet (fun _ => 0) m.twin.own ep v }
    { m with twin := t }
  else m

/-- An item of a block's own making belongs to the epoch of the last EPOCH record (R365). -/
def Fjoek.digestItem (m : Fjoek) (b : List Nat) : Fjoek := m.digestAt m.twin.epoch b

/-- The epoch in which an instruction of engine `e` stands: that of the last EPOCH record whose round for `e` is at or below
the round in progress (R365). -/
def Fjoek.engineEpoch (m : Fjoek) (e : Nat) : Nat :=
  m.twin.epochRounds.foldl (fun b p => if nth p.2 e 0 ≤ m.round e then Nat.max b p.1 else b) m.twin.closed

/-- Numbers of an item as 8 little-endian bytes each, after its kind byte. -/
def itemBytes (kind : Nat) (l : List Nat) : List Nat := kind :: ((l.map (bytesOf 8)).flatten.map BitVec.toNat)

/-! ## Tags on their way (R86) -/

/-- The round of engine `e` before which a post that is made now from outside takes effect, in in-step mode (R56). -/
def Fjoek.postDue (m : Fjoek) (e : Nat) : Option Nat := if m.isOn SEAM_CTL_instep then some (m.nextRound e) else none

/-- Put a tag on its way to an engine. Tags 0x000 and 0x3F0 to 0x3FF are discarded. -/
def Fjoek.postTag (m : Fjoek) (e tag : Nat) : Fjoek :=
  if tag % 1024 = 0 ∨ 0x3F0 ≤ tag % 1024 then m
  else { m with seam := { m.seam with flight := m.seam.flight ++ [⟨tag % 1024, e % 64, none, m.postDue (e % 64)⟩] } }

/-- Post one of a strand's private tags: its budget wake or its timer (R86, R87). -/
def Fjoek.postPrivate (m : Fjoek) (e tag : Nat) : Fjoek :=
  { m with seam := { m.seam with flight := m.seam.flight ++ [⟨tag, e, none, m.postDue e⟩] } }

/-! ## Attach interrupts (R343, R344), which an event route can raise -/

def attFnReset (f : Nat) : AttFn :=
  { bme := false, mem := false, dst := 0, flr := false, msixEn := false, fmask := false, intxDis := false, mps := 0,
    mrrs := 2, ctoVal := 0, ctoDis := false, aer := 0, pmeEn := false, pmeSt := false, cc := 0, aqa := 0, asq := 0,
    acq := 0 * f, ovr := false }

def Fjoek.attFn (m : Fjoek) (f : Nat) : AttFn := tableGet attFnReset m.att.fns f

def Fjoek.setAttFn (m : Fjoek) (f : Nat) (x : AttFn) : Fjoek :=
  { m with att := { m.att with fns := tableSet attFnReset m.att.fns f x } }

def msixReset (_ : Nat) : Msix := { addr := 0, data := 0, mask := true }

/-- The D-state of a function: VFs follow the PF (R331). -/
def Fjoek.attDst (m : Fjoek) : Nat := (m.attFn 0).dst

/-- Vector `v` of function `f` can be sent now (R343). -/
def Fjoek.msixSendable (m : Fjoek) (f v : Nat) : Bool :=
  let x := m.attFn f
  x.msixEn && !x.fmask && x.bme && !x.flr && m.attDst == 0 && !(tableGet msixReset m.att.msix (f * 2048 + v)).mask

/-- The PF's INTx level (R344). -/
def Fjoek.intxLevel (m : Fjoek) : Bool :=
  let x := m.attFn 0
  !x.msixEn && !x.intxDis && (m.reg (ATT_INTXST_st).addr &&& (2 ^ 32 - 1 - m.reg (ATT_INTMS_intms 0).addr)) != 0

/-- Send Assert_INTA or Deassert_INTA on a change of level (R344). A trailing twin sends no interrupt message (R347). -/
def Fjoek.intxUpdate (m : Fjoek) : Fjoek :=
  let l := m.intxLevel
  if l = m.att.inta then m
  else
    let m : Fjoek := { m with att := { m.att with inta := l } }
    m.output (.inta l)

/-- Vectors of function `f`'s table (R332). -/
def attVectors (f : Nat) : Nat := if f = 0 then 2048 else 64

/-- Raise vector `v` of function `f` (R343). -/
def Fjoek.attRaise (m : Fjoek) (f v : Nat) : Fjoek :=
  let x := m.attFn f
  if attVectors f ≤ v then m
  else if x.msixEn then
    if m.msixSendable f v then
      let t := tableGet msixReset m.att.msix (f * 2048 + v)
      (m.digestItem (3 :: itemBytes 1 [f, t.addr, 4, t.data])).output (.msix f t.addr t.data)
    else
      let b := tableSet (fun _ => false) m.att.pba (f * 2048 + v) true
      { m with att := { m.att with pba := b } }
  else if f = 0 then
    (m.setReg ATT_INTXST_st.addr (m.reg ATT_INTXST_st.addr ||| 2 ^ (v % 32))).intxUpdate
  else m.count ATT_IRQDROP_LO 1

/-- Act on a wake request by the PF's state (R346). -/
def Fjoek.attWake (m : Fjoek) : Fjoek :=
  let x := m.attFn 0
  if !x.pmeEn then m.put ATT_WAKE_pend 1
  else if m.att.d3cold then
    let m := m.setAttFn 0 { x with pmeSt := true }
    { m with att := { m.att with wakeLow := true } }
  else if x.dst = 3 then (m.setAttFn 0 { x with pmeSt := true }).send .pme
  else m

/-! ## The event logger (R468, R469) -/

/-- The W1C status register of event source `e`, by R486 and the field tables of the owning chapters. -/
def statusReg (e : Nat) : Nat :=
  if e = 5 ∨ e = 6 then 0x20018
  else if e < 8 then 0x10008
  else if e < 12 then 0x3004C
  else if e < 32 then 0xA000C
  else if e < 128 then 0x4001C + 0x800 * ((e - 32) / 4)
  else if e < 192 then 0x100008 + 0x1000 * ((e - 128) / 2)
  else if e < 194 then 0x140004
  else if e < 224 then 0x160004
  else if e < 256 then 0x180004
  else if e < 272 then 0x1C0004
  else if e < 336 then 0x200004 + 0x1000 * (e - 272)
  else if e < 352 then 0x2400C0 + 4 * (e - 336)
  else if e = 356 then 0x25000C
  else if e = 358 then 0x260008
  else if e < 384 then 0x70040 + 4 * (e / 32)
  else if e < 432 then 0x28000C + 0x2000 * ((e - 384) / 2)
  else if e < 464 then 0x300004
  else if e < 480 then 0x310008
  else if e = 488 then 0x60004
  else if e < 496 then 0x50008
  else if e < 501 then 0x90004
  else if e = 502 then 0x80104
  else if e < 507 then 0x80004
  else 0x70040 + 4 * (e / 32)

/-- Append a record to the MRAM event log: event number, status word and the 36 data bytes of a software record. -/
def Fjoek.logStore (m : Fjoek) (e status : Nat) (data : List Nat) : Fjoek :=
  let seq := m.reg64 MGMT_LOGSEQ_LO + 1
  let flags := 2 * bnat (decide (m.hearth.core < 2)) + bnat m.mgmt.logGap
  let b := bytesOf 8 seq ++ bytesOf 8 m.time ++ bytesOf 2 e ++ bytesOf 1 flags ++
    bytesOf 1 (m.get HEARTH_RSTC_kcount) ++ bytesOf 4 status ++ (data.map (bytesOf 4)).flatten
  let crc := crc32c (b.map BitVec.toNat)
  let m := (m.mramPut (0x5000000 + 64 * (seq % 32768)) (b ++ bytesOf 4 crc)).setReg64 MGMT_LOGSEQ_LO seq
  { m with mgmt := { m.mgmt with logGap := false } }

/-- A latch or a software record reaches the logger. During the scan at a Kindle its buffer takes 64; one that finds it full is
lost, counted, and flagged in the next record taken. -/
def Fjoek.logRecord (m : Fjoek) (e status : Nat) (data : List Nat) : Fjoek :=
  match m.mgmt.logRoom with
  | none => m.logStore e status data
  | some 0 => (Fjoek.bump { m with mgmt := { m.mgmt with logGap := true } } MGMT_LOGLOST_count 1)
  | some (n + 1) => Fjoek.logStore { m with mgmt := { m.mgmt with logRoom := some n } } e status data

/-! ## Event latching -/

/-- EVT_MGMTIRQ follows the latches, enables and routes (R482). -/
def Fjoek.mgmtIrq (m : Fjoek) : Bool :=
  (List.range 16).any fun i =>
    m.reg (EVT_PEER i) != 0 ||
    (let p := m.reg (EVT_PEND i) &&& m.reg (EVT_EN i)
     p != 0 && (List.range 32).any fun j => bitOf p j && m.isOn (EVT_ROUTE_mgmt (32 * i + j)))

/-- Deliver a latch on the routes of R481. -/
def Fjoek.deliver (m : Fjoek) (e : Nat) : Fjoek :=
  let r := EVT_ROUTE e
  let v := m.reg r
  let wake := bitOf v 28
  let twin := bitOf v 29
  let m := m.when (bitOf v 31) fun m => m.logRecord e (m.reg (statusReg e)) (List.replicate 9 0)
  let m := m.when (wake && !m.trailing) fun m => m.postTag (bitsOf v 21 16) (bitsOf v 9 0)
  let m := m.when (bitOf v 30) fun m =>
    let m := m.attRaise 0 (1024 + e)
    m.when (m.attDst != 0 || m.att.d3cold) Fjoek.attWake
  let m := m.when (twin && m.isOn TWIN_STAT_link && m.isOn TOP_STRAP_twin) fun m => m.send (.twinEvent e)
  m.when (wake || twin) fun m => m.logTwin 0x09 (if wake then bitsOf v 21 16 else 0xFF) [e, bitsOf v 9 0]

/-- The effects of one latch of source `e` (R480). EVT lies in the management domain; while that domain is stopped nothing
latches (R483). -/
def Fjoek.latchBase (m : Fjoek) (e : Nat) : Fjoek :=
  if !m.runs 2 then m
  else
    let a := EVT_PEND (e / 32)
    let m := m.setReg a (m.reg a ||| 2 ^ (e % 32))
    let m := m.count EVT_LATCHES_LO 1
    m.when (bitOf (m.reg (EVT_EN (e / 32))) (e % 32)) fun m => m.deliver e

/-- Source `e` latches (R480), and the global counters that select its latches count it (R489, event 0x1FF). -/
def Fjoek.latch (m : Fjoek) (e : Nat) : Fjoek :=
  let ran := m.runs 2
  let m := m.latchBase e
  let g := m.reg PMON_GCTL
  if g = 0 ∨ !ran ∨ m.isOn PMON_CTL_freeze then m else
    m.each (List.range 32) fun j m =>
      m.when (bitOf g j && m.get (PMON_GSEL_event j) == 0x1FF && m.get (PMON_GSEL_src j) == e) fun m =>
        let lo := PMON_GCNT_LO j
        let v := m.reg64 lo + 1
        if v < 2 ^ 48 then m.setReg64 lo v
        else
          let m := m.setReg64 lo 0
          let f : Fld := ⟨PMON_GOVF, j, j⟩
          if m.isOn f then m else (m.put f 1).latchBase 502

/-- A cause sets a W1C bit that latches source `e`; a bit that stays 1 latches nothing more (R480). -/
def Fjoek.cause (m : Fjoek) (f : Fld) (e : Nat) : Fjoek :=
  if m.isOn f then m else (m.put f 1).latch e

/-! ## Errors counted by requester (R114) -/

/-- Count in a MNGL error counter, setting cnt_sat as it saturates (R115). -/
def Fjoek.mnglCount (m : Fjoek) (f : Fld) (n : Nat) : Fjoek :=
  let m := m.bump f n
  m.when (m.get f == 2 ^ 32 - 1) fun m => m.cause MNGL_STAT_cnt_sat 336

/-- A first detection of uncorrectable data by a requester: cluster g, or none (R114). -/
def Fjoek.ueEvent (m : Fjoek) (g : Option Nat) : Fjoek :=
  let m := match g with
    | some g => m.put (MNGL_GSTAT_ue g) 1
    | none => m
  m.when (m.isOn MNGL_CTL_evt_ue) fun m => m.latch (336 + g.getD 0)

/-- A requester reads the HBM units of a range: hidden errors become poison marks, each counted once (R80, R114). The
answer says whether the data is uncorrectable. -/
def Fjoek.hbmDetect (m : Fjoek) (g : Option Nat) (a n : Nat) : Bool × Fjoek :=
  let u := unitsTouched a n
  let bad := u.any fun k => marked m.hbmPoison k || marked m.hbmHidden k ||
    tableGet (fun _ => false) m.twin.absent (2 ^ 29 + k) || m.hbmOpenBad k
  let new := u.filter fun k => marked m.hbmHidden k || (!marked m.hbmPoison k && m.hbmOpenBad k)
  let m := m.each new fun k m =>
    ({ m with hbmHidden := tableErase m.hbmHidden k
              hbmPoison := mark m.hbmPoison k }).mnglCount MNGL_UE_HBM_count 1 |>.ueEvent g
  (bad, m)

end Sys2Proof.Machine
end

