-- ==== Sys2Proof/Machine/Perf.lean ====
section
/-! DEFINITION. Performance counters and overflow sampling (R488 to R494). A meaning counts its happenings here; cycle
counts are timing and are not counted (assumption 7). -/

namespace Sys2Proof.Machine

/-- Write one sample record of engine `e` (R491, R493). -/
def Fjoek.writeSample (m : Fjoek) (e counter event strand pc gen : Nat) (skid noIssue : Bool) : Fjoek :=
  if m.isOn PMON_CTL_freeze then m
  else
    let pi := m.get (PMON_SPI_pi e)
    let ci := m.get (PMON_SCI_ci e)
    let unread := (pi + 1024 - ci) % 1024
    if 512 ≤ unread then (m.bump PMON_SDROP_count 1).cause PMON_STAT_sdrop 504
    else
      let b := bytesOf 8 m.time ++ bytesOf 2 (pc % 8192 + 32768 * bnat skid) ++
        bytesOf 1 (strand % 8 + 128 * bnat noIssue) ++ bytesOf 1 counter ++ bytesOf 2 e ++ bytesOf 2 gen ++
        bytesOf 4 event ++ bytesOf 8 0 ++ bytesOf 4 0
      let a := m.get PMON_SBASE_base * 2 ^ 20 + 0x4000 * e + 32 * (pi % 512)
      let m := (m.hbmWrite a b).put (PMON_SPI_pi e) (pi + 1)
      m.when (unread + 1 == 256) fun m => m.cause PMON_STAT_shalf 503

/-- Add 1 to counter `k` of engine `e`, with its wrap (R488, R491): an instruction caused the happening or none did. -/
def Fjoek.bumpEngine (m : Fjoek) (e k event : Nat) (by_ : Option (Nat × Nat × Nat)) : Fjoek :=
  let lo := PMON_ECYC_LO e + 8 * k
  let v := m.reg64 lo + 1
  if v < 2 ^ 48 then m.setReg64 lo v
  else
    let m := m.setReg64 lo 0
    let f : Fld := ⟨PMON_ESTAT e, k, k⟩
    let m := m.cause f 501
    if bitOf (m.get (PMON_ECTL_samp e)) k then
      match by_ with
      | some (s, pc, gen) => m.writeSample e k event s pc gen false false
      | none =>
        let l := tableGet (fun _ => []) m.pmon.pend e ++ [k]
        { m with pmon := { pend := tableSet (fun _ => []) m.pmon.pend e l } }
    else m

/-- The counters of engine `e` that select the event count it (R488, R489). -/
def Fjoek.perfEngine (m : Fjoek) (e s event : Nat) (by_ : Option (Nat × Nat × Nat)) : Fjoek :=
  let en := m.get (PMON_ECTL_en e)
  if en < 2 then m else
    m.each [1, 2, 3, 4, 5, 6, 7, 8] fun k m =>
      let mask := m.get (PMON_ESEL_smask e k)
      m.when (bitOf en k && m.get (PMON_ESEL_event e k) == event && (mask == 0 || bitOf mask s)) fun m =>
        m.bumpEngine e k event by_

/-- Add `n` to global counter `j`, with its wrap at 2^48 (R489, R490). -/
def Fjoek.bumpGlobal (m : Fjoek) (j n : Nat) : Fjoek :=
  let lo := PMON_GCNT_LO j
  let v := m.reg64 lo + n
  if v < 2 ^ 48 then m.setReg64 lo v else (m.setReg64 lo (v - 2 ^ 48)).cause ⟨PMON_GOVF, j, j⟩ 502

/-- The global counters that select the event count `n` happenings of it. -/
def Fjoek.perfGlobal (m : Fjoek) (event n : Nat) : Fjoek :=
  let g := m.reg PMON_GCTL
  if g = 0 then m else
    m.each (List.range 32) fun j m => m.when (bitOf g j && m.get (PMON_GSEL_event j) == event) fun m => m.bumpGlobal j n

/-- One happening of an engine event (R489): engine, strand, event number, and whether an instruction caused it. -/
def Fjoek.perf (m : Fjoek) (e s event : Nat) (by_ : Option (Nat × Nat × Nat)) : Fjoek :=
  if m.isOn PMON_CTL_freeze then m else (m.perfEngine e s event by_).perfGlobal event 1

/-- The global counters count the module events of a command as it ends (R490). -/
def Fjoek.flush (m : Fjoek) : Fjoek :=
  let t := m.tally
  if t = [] then m
  else
    let m : Fjoek := { m with tally := [] }
    let m := if m.isOn PMON_CTL_freeze then m else m.each t fun p m => m.perfGlobal p.1 p.2
    { m with tally := [] }

/-- Engine `e` refreshes the snapshot of its counters that the PMON window reads (R488). -/
def Fjoek.snapCounters (m : Fjoek) (e : Nat) : Fjoek :=
  { m with snap := (List.range 18).foldl (fun t i =>
      tableSet (fun _ => 0) t (PMON_ECYC_LO e + 4 * i) (BitVec.ofNat 32 (m.reg (PMON_ECYC_LO e + 4 * i)))) m.snap }

/-- The samples that wait for the next instruction of engine `e` name this one, with skid (R492). -/
def Fjoek.skidSamples (m : Fjoek) (e s pc gen : Nat) : Fjoek :=
  let l := tableGet (fun _ => []) m.pmon.pend e
  if l = [] then m else
    let m : Fjoek := { m with pmon := { pend := tableSet (fun _ => []) m.pmon.pend e [] } }
    m.each l fun k m =>
      m.writeSample e k (if k = 0 then 0 else m.get (PMON_ESEL_event e k)) s pc gen true false

end Sys2Proof.Machine
end

