-- ==== Sys2Proof/Machine/Operands.lean ====
section
/-! DEFINITION. Strands and how an instruction reads and writes its operands: registers and predicates, its faults (R45, R71), rounds
(R55, R57), logged results (R91), addresses and L memory. -/

namespace Sys2Proof.Machine

/-! ## Strands -/

/-- A strand as a Kindle reset leaves it: IDLE, with no image (R51). -/
def strandReset (_ : Nat) : Strand :=
  { g := [], p := 0, pc := 0, rets := [], cls := 0, gen := 0, slots := [none, none, none, none], mode := .idle,
    waitFor := .nothing, stallFor := .access, since := 0, accs := [], posts := [], timer := 0, cause := 0, fpc := 0, fencing := false }

/-- Strand `k`, numbered 8 × engine + strand. -/
def Fjoek.strand (m : Fjoek) (k : Nat) : Strand := tableGet strandReset m.seam.strands k

def Fjoek.setStrand (m : Fjoek) (k : Nat) (x : Strand) : Fjoek :=
  { m with seam := { m.seam with strands := tableSet strandReset m.seam.strands k x } }

/-- Strand number of an issue. -/
def issueKey (i : Issue) : Nat := 8 * i.e.val + i.s.val

/-- A general register; g0 reads as 0 (R31). -/
def Strand.rd (x : Strand) (r : Nat) : Word64 := if r = 0 then 0 else tableGet (fun _ => 0) x.g r

/-- Write a general register; a write to g0 is discarded (R31). A `post` verdict that was to write the register later no longer does
(assumption 71, DESIGN CHOICE). -/
def Strand.wr (x : Strand) (r : Nat) (v : Word64) : Strand :=
  if r = 0 then x else { x with g := tableSet (fun _ => 0) x.g r v, posts := x.posts.filter (· != r) }

/-- A predicate; p0 reads as true (R31). -/
def Strand.pred (x : Strand) (i : Nat) : Bool := i == 0 || x.p.getLsbD i

/-- Write a predicate; a write to p0 is discarded (R31). -/
def Strand.setPred (x : Strand) (i : Nat) (b : Bool) : Strand :=
  if i = 0 then x else { x with p := BitVec.ofNat 8 (withBits x.p.toNat i i (bnat b)) }

/-- The strand's program index moves to the next instruction, wrapping from 8,191 to 0 (R68). -/
def Strand.next (x : Strand) : Strand := { x with pc := x.pc + 1 }

/-- The strand is privileged (R43). -/
def Fjoek.privileged (m : Fjoek) (k : Nat) : Bool := m.isOn (SEAM_STRCTL_priv (k / 8) (k % 8))

/-! An instruction names what it uses by numbers: r for a register that it reads, 64 + r for one that it only writes, 32 + p for a
predicate that it reads. -/

/-- The use of register `r` by an instruction that writes it and does not read it. -/
def onlyWrites (r : Fin 32) : Nat := 64 + r.val

/-- The use of predicate `p`. -/
def readsPred (p : Fin 8) : Nat := 32 + p.val

/-- The uses that wait for an outstanding load: its register, read or written, and its error predicate, read (R70, R73). -/
def Strand.loading (x : Strand) : List Nat :=
  x.accs.flatMap fun a => (if a.rd = 0 then [] else [a.rd, 64 + a.rd]) ++ (if a.pe = 0 then [] else [32 + a.pe])

/-! ## Faults (R45) -/

/-- The strand stops at the faulting instruction with a cause; the engine's event latches. -/
def Fjoek.faultStrand (m : Fjoek) (k cause : Nat) : Fjoek :=
  let x := m.strand k
  let m := m.setStrand k { x with mode := .fault, cause := cause, fpc := x.pc.toNat, waitFor := .nothing }
  let m := m.put ⟨SEAM_ESTAT (k / 8), 24 + k % 8, 24 + k % 8⟩ 1
  let m := m.perf (k / 8) (k % 8) 0x017 (some (k % 8, x.pc.toNat, x.gen))
  m.cause (SEAM_ESTAT_fault (k / 8)) (272 + k / 8)

/-! ## Rounds (R55) -/

/-- Strands of engine `e` in state READY or STALL that do not stand in the bitmap `o`. -/
def Fjoek.roundRest (m : Fjoek) (e o : Nat) : List Nat :=
  (List.range 8).filter fun s =>
    !bitOf o s && (let x := m.strand (8 * e + s); decide (x.mode = .ready ∨ x.mode = .stall))

/-- The round of engine `e` and the strands that have had their place in it. A round that has no strand left to offer, because
the last one left READY and STALL, is over. -/
def Fjoek.roundNow (m : Fjoek) (e : Nat) : Nat × Nat :=
  let o := tableGet (fun _ => 0) m.seam.offered e
  if o ≠ 0 ∧ m.roundRest e o = [] then (m.round e + 1, 0) else (m.round e, o)

/-- A round of engine `e` is in progress. -/
def Fjoek.inRound (m : Fjoek) (e : Nat) : Bool := (m.roundNow e).2 != 0

/-- Engine `e` issues in rounds: in-step mode is on, or the round during which it was switched off is not over (R57). -/
def Fjoek.stepping (m : Fjoek) (e : Nat) : Bool := m.isOn SEAM_CTL_instep || m.inRound e

/-- Strands of engine `e` that the round in progress still has to offer an instruction. -/
def Fjoek.roundLeft (m : Fjoek) (e : Nat) : List Nat := m.roundRest e (m.roundNow e).2

/-- A round that is over because its last strands left READY and STALL is counted. -/
def Fjoek.closeRound (m : Fjoek) (e : Nat) : Fjoek :=
  if tableGet (fun _ => 0) m.seam.offered e = 0 ∨ m.inRound e then m
  else
    { m with seam := { m.seam with
        offered := tableSet (fun _ => 0) m.seam.offered e 0
        rounds := tableSet (fun _ => 0) m.seam.rounds e (m.round e + 1) } }

/-- A strand that something outside its engine makes READY enters with the next round (R56). -/
def Fjoek.sitOut (m : Fjoek) (k : Nat) : Fjoek :=
  let o := tableGet (fun _ => 0) m.seam.offered (k / 8)
  if o = 0 then m
  else { m with seam := { m.seam with offered := tableSet (fun _ => 0) m.seam.offered (k / 8) (o ||| 2 ^ (k % 8)) } }

/-- A record held in the ring takes effect on engine `e` at a round it has reached. -/
def Fjoek.recordDue (m : Fjoek) (e : Nat) : Bool := m.twin.ring.any fun r => 
  r.head.target == e && decide (r.head.round ≤ (m.roundNow e).1)

/-- A post from outside engine `e` that has not arrived takes effect before the round in progress or next (R56). -/
def Fjoek.postOwed (m : Fjoek) (e : Nat) : Bool := m.seam.flight.any fun p =>
  p.engine == e && (p.due.map fun r => decide (r ≤ (m.roundNow e).1)).getD false

/-- A trailing twin holds a logged result, of a round that engine `e` has reached, for an access or a `post` of it that has not
completed: it completes at that round (R91). -/
def Fjoek.resultOwed (m : Fjoek) (e : Nat) : Bool := m.trailing && m.seam.values.any fun v =>
  v.strand / 8 == e && decide (v.round ≤ (m.roundNow e).1) &&
    (let x := m.strand v.strand; x.accs.any (fun a => a.rd == v.rd) || x.posts.contains v.rd)

/-- In in-step mode an engine issues in rounds, in ascending strand number, and a trailing engine waits at a round for its
horizon and for the records of that round (R55, R56, R357). What takes effect before a round holds the round. A stopped trailing twin
issues nothing. -/
def Fjoek.mayIssue (m : Fjoek) (k : Nat) : Bool :=
  !m.twin.stopped && (!m.stepping (k / 8) ||
    ((m.roundLeft (k / 8)).head? == some (k % 8) && !m.postOwed (k / 8) && !m.resultOwed (k / 8) &&
      (!m.trailing || (decide ((m.roundNow (k / 8)).1 < tableGet (fun _ => 0) m.twin.horizon (k / 8)) && !m.recordDue (k / 8)))))

/-- The strand has taken its place in the round; a finished round begins the next (R55). -/
def Fjoek.roundTaken (m : Fjoek) (k : Nat) : Fjoek :=
  if !m.stepping (k / 8) then m
  else
    let e := k / 8
    let (r, o) := m.roundNow e
    let o := o ||| 2 ^ (k % 8)
    let ended := m.roundRest e o == []
    { m with seam := { m.seam with
        offered := tableSet (fun _ => 0) m.seam.offered e (if ended then 0 else o)
        rounds := tableSet (fun _ => 0) m.seam.rounds e (if ended then r + 1 else r) } }

/-! ## Logged results (R91) -/

/-- The oldest logged result that the trailing twin holds for register `rd` of strand `k`, at a round that the engine has reached, and
the state without it. -/
def Fjoek.takeValue (m : Fjoek) (k rd : Nat) : Option (Nat × Fjoek) :=
  match m.seam.values.find? fun p => p.strand == k && p.rd == rd && decide (p.round ≤ m.nextRound (k / 8)) with
  | none => none
  | some p => some (p.val, { m with seam := { m.seam with values := m.seam.values.erase p } })

/-- The lead logs the result that register `rd` of strand `k` receives. -/
def Fjoek.logValue (m : Fjoek) (k rd v : Nat) : Fjoek := m.logTwin 0x08 (k / 8) [k % 8, rd, v]

/-- Give an instruction its logged result: the lead logs its own value; the trailing twin takes the lead's, and the
instruction does not complete until it holds one. -/
def Fjoek.logged (m : Fjoek) (k rd v : Nat) (f : Nat → Fjoek → Fjoek) (wait : Fjoek) : Fjoek :=
  if m.trailing then
    match m.takeValue k rd with
    | none => wait
    | some (w, m) => f w m
  else f v (m.logValue k rd v)

/-! ## Addresses -/

/-- ra + sext(off), computed in 64 bits (R78, R79). -/
def address {w : Nat} (x : Strand) (ra : Fin 32) (off : BitVec w) : Nat := (x.rd ra.val + sext64 off).toNat

/-- ra + off with an unsigned offset, computed in 64 bits (R83). -/
def addressU {w : Nat} (x : Strand) (ra : Fin 32) (off : BitVec w) : Nat :=
  (x.rd ra.val + off.setWidth 64).toNat

/-! ## L memory (R41, R42, R78) -/

def Fjoek.lBytes (m : Fjoek) (e a n : Nat) : List Byte :=
  (List.range n).map fun j => tableGet (fun _ => 0) m.seam.lmem (0x40000 * e + a + j)

def Fjoek.lNat (m : Fjoek) (e a n : Nat) : Nat := ofBytes (m.lBytes e a n)

/-- Store bytes in L; a word written whole is whole again (R42). -/
def Fjoek.lPut (m : Fjoek) (e a : Nat) (b : List Byte) : Fjoek :=
  { m with seam := { m.seam with
      lmem := writeBytes m.seam.lmem (0x40000 * e + a) b
      lue := if b.length = 8 ∧ a % 8 = 0 then tableSet (fun _ => false) m.seam.lue (32768 * e + a / 8) false
        else m.seam.lue } }

/-- The fault of an L access, if it has one (R71, R78, R42): out of range, misaligned, or an uncorrectable word that it must read. The
table of R71 gives cause 0x0A of a load no place; the model puts it after the misaligned address (assumption 70, DESIGN CHOICE). -/
def Fjoek.lFault (m : Fjoek) (e a n : Nat) (reads : Bool) : Option Nat :=
  if 0x40000 ≤ a then some 0x03
  else if a % n ≠ 0 then some 0x06
  else if reads && tableGet (fun _ => false) m.seam.lue (32768 * e + a / 8) then some 0x0A
  else none

/-- The H window of engine `e` holds the byte range (R41, R60, R79). -/
def Fjoek.inHwin (m : Fjoek) (e a n : Nat) : Bool :=
  m.isOn (SEAM_HWIN_en e) && decide (a + n ≤ 2 ^ 35) && decide (m.get (SEAM_HWIN_base e) * 2 ^ 20 ≤ a) &&
    decide (a + n ≤ (m.get (SEAM_HWIN_limit e) + 1) * 2 ^ 20)

end Sys2Proof.Machine
end

