-- ==== Sys2Proof/Machine/Leases.lean ====
section
/-! DEFINITION. Leases and the buffer cells they hold (R94 to R96), B-space addressing (R81, R82) and the bulk queues
(R84, R97, R108). -/

namespace Sys2Proof.Machine

def leaseReset (_ : Nat) : Lease := { seq := 0, live := false, used := false, owner := 0, cells := [] }

def Fjoek.leaseAt (m : Fjoek) (x : Nat) : Lease := tableGet leaseReset m.mngl.leases x

def Fjoek.setLease (m : Fjoek) (x : Nat) (l : Lease) : Fjoek :=
  { m with mngl := { m.mngl with leases := tableSet leaseReset m.mngl.leases x l } }

/-- A handle names a live lease of strand `k` (R81, R94): the answer is its table index. -/
def Fjoek.leaseOf (m : Fjoek) (k h : Nat) : Option Nat :=
  let x := h % 65536
  let l := m.leaseAt x
  if h < 2 ^ 32 ∧ 2 ^ 31 ≤ h ∧ bitsOf h 30 22 = k ∧ bitsOf h 21 16 = l.seq ∧ l.live ∧ l.owner = k then some x else none

/-- Leases in use, and cells that the leases of cluster `g` hold. A lease that the transport stages for cluster `g` has the
owner number 512 + 32 × g until its item is dispatched (R285). -/
def Fjoek.leasesUsed (m : Fjoek) : Nat := (m.mngl.leases.filter fun e => e.2.used).length

def Fjoek.clusterCells (m : Fjoek) (g : Nat) : Nat :=
  m.mngl.leases.foldl (fun n e => if e.2.used ∧ e.2.owner / 32 % 16 = g then n + e.2.cells.length else n) 0

/-- The lowest lease table entry not in use, of the first `n`. -/
def freeLease (m : Fjoek) : Nat → Nat → Option Nat
  | 0, _ => none
  | n + 1, x => if (m.leaseAt x).used then freeLease m n (x + 1) else if x < 65536 then some x else none

/-- Which `n` staging cells a lease takes: those returned last, then cells never leased (assumption 8). -/
def Fjoek.takeCells (m : Fjoek) (n : Nat) : List Nat × Fjoek :=
  let a := m.mngl.freed.take n
  let b := (List.range (n - a.length)).map fun i => m.mngl.fresh + i
  (a ++ b, { m with mngl := { m.mngl with freed := m.mngl.freed.drop n, fresh := m.mngl.fresh + b.length } })

/-- A lease of `n` cells for strand `k` of class `c` can be given (R95). -/
def Fjoek.canLease (m : Fjoek) (k c n : Nat) : Bool :=
  let f := m.get MNGL_LFREE_free
  let cap := m.get (MNGL_LCAP_cap (k / 32))
  decide (1 ≤ n ∧ n ≤ 4096) && decide (m.leasesUsed < 65536) &&
    (if c = 2 then decide (n ≤ f) else decide (n + m.get MNGL_LRSV_rsv ≤ f)) &&
    (cap == 0 || decide (m.clusterCells (k / 32) + n ≤ cap))

/-- Give a lease: its handle, or 0 with nothing taken (R95). -/
def Fjoek.giveLease (m : Fjoek) (k c n : Nat) : Nat × Fjoek :=
  if !m.canLease k c n then (0, m)
  else
    match freeLease m (m.mngl.leases.length + 1) 0 with
    | none => (0, m)
    | some x =>
      let seq := (m.leaseAt x).seq
      let (cells, m) := m.takeCells n
      let m := m.setLease x { seq := seq, live := true, used := true, owner := k, cells := cells }
      let m := m.put MNGL_LFREE_free (m.get MNGL_LFREE_free - n)
      let m := m.put MNGL_LTAB_used m.leasesUsed
      (2 ^ 31 + k * 2 ^ 22 + seq * 65536 + x, m)

/-! ## Fields of a descriptor (R97 to R99) -/

def Desc.w (d : Desc) (i : Nat) : Nat := nth d.words i 0
def Desc.op (d : Desc) : Nat := d.w 0 % 16
def Desc.dsp (d : Desc) : Nat := bitsOf (d.w 0) 6 4
def Desc.ssp (d : Desc) : Nat := bitsOf (d.w 0) 9 7
def Desc.len (d : Desc) : Nat := d.w 3 % 2 ^ 32
def Desc.hi (d : Desc) : Nat := d.w 3 / 2 ^ 32
def Desc.key (d : Desc) : Nat := 8 * d.engine + d.strand
def Desc.fpx (d : Desc) : Bool := d.op == 0 && bitOf d.hi 1
def Desc.verb (d : Desc) : Nat := bitsOf d.hi 3 2
/-- Sources of a GFMAC or XOR, and outputs of a GFMAC. -/
def Desc.nsrc (d : Desc) : Nat := if d.op = 1 then bitsOf d.hi 3 0 + 1 else if d.op = 2 then bitsOf d.hi 1 0 + 1 else 1
def Desc.nout (d : Desc) : Nat := bitsOf d.hi 5 4 + 1
/-- PI: mode, guard, type, data bytes, metadata bytes, PI bytes (R105). -/
def Desc.piMode (d : Desc) : Nat := bitsOf d.hi 1 0
def Desc.piGuard (d : Desc) : Nat := bitsOf d.hi 3 2
def Desc.piType (d : Desc) : Nat := bitsOf d.hi 5 4
def Desc.piData (d : Desc) : Nat := if bitOf d.hi 6 then 4096 else 512
def Desc.piMeta (d : Desc) : Nat := 8 * bitsOf d.hi 15 11
def Desc.piSize (d : Desc) : Nat := if d.piGuard = 0 then 8 else 16
/-- XTS: bytes of a data unit. -/
def Desc.unit (d : Desc) : Nat := if bitOf d.hi 1 then 4096 else 512

/-- The row of the cost table that a descriptor draws by (R110). -/
def Desc.costIndex (d : Desc) : Nat :=
  match d.op with
  | 0 =>
    if d.dsp = 4 then 5 else if d.ssp = 4 then 4 else if d.dsp = 3 ∨ d.ssp = 3 then 3
    else if d.dsp = 2 ∨ d.ssp = 2 then 2 else if d.dsp = 1 ∨ d.ssp = 1 then 1 else 0
  | o => o + 5

/-- The 4 KiB units that the cost counts. -/
def Desc.units4k (d : Desc) : Nat :=
  if d.op = 4 then ceilDiv (d.len * d.piData) 4096 else ceilDiv d.len 4096 * d.nsrc

/-- The lease handles that a descriptor names: its B address words and its parameter block's (R98, R101). -/
def Desc.handles (d : Desc) : List Nat :=
  let w := fun i => nth d.words i 0
  let op := w 0 % 16
  let ds := bitsOf (w 0) 6 4
  let ss := bitsOf (w 0) 9 7
  let b := fun i => [w i % 2 ^ 32]
  (match op with
  | 0 => (if ds = 0 then b 1 else []) ++ (if ss = 0 then b 2 else []) ++ (if bitOf (w 3) 33 then b 5 else [])
  | 1 => b 1
  | 2 => b 1 ++ b 2 ++ (if bitsOf (w 3) 33 32 ≥ 1 then b 4 else []) ++ (if bitsOf (w 3) 33 32 ≥ 2 then b 5 else []) ++
      (if bitsOf (w 3) 33 32 ≥ 3 then b 6 else [])
  | 3 => b 1 ++ b 2
  | 4 => (if 2 ≤ bitsOf (w 3) 33 32 then b 1 else []) ++ b 2
  | 5 => b 1 ++ b 2
  | 6 => b 1 ++ b 2
  | 7 => if ds = 0 then b 1 else []
  | 8 => (if ds = 0 then b 1 else []) ++ (if ss = 0 then b 2 else [])
  | _ => []) ++
    if op = 1 then ((d.params.take 16).take (bitsOf (w 3) 35 32 + 1) ++
      ((d.params.drop 16).take 4).take (bitsOf (w 3) 37 36 + 1)).map (· % 2 ^ 32)
    else []

/-- A descriptor has started and is not complete (R111, R112). -/
def Desc.inFlight (d : Desc) : Bool := d.phase == .started || d.phase == .running || d.phase == .done || d.phase == .parked

/-- A descriptor keeps the leases that it names: from its check on, while it waits for its tokens too, it uses the cells that were checked
(assumption 74). -/
def Desc.holds (d : Desc) : Bool := d.inFlight || d.phase == .drawing

/-- Return the cells of a released lease once no descriptor that holds its leases names it (R81). -/
def Fjoek.settleLease (m : Fjoek) (x : Nat) : Fjoek :=
  let l := m.leaseAt x
  if l.used ∧ !l.live ∧ !(m.mngl.descs.any fun d => d.holds && d.handles.any fun h => h % 65536 == x) then
    let m := m.setLease x { l with seq := (l.seq + 1) % 64, used := false, cells := [] }
    let q : Mngl := { m.mngl with
      freed := l.cells ++ m.mngl.freed
      prints := m.mngl.prints.filter fun p => p.1 / 1024 != x }
    let m : Fjoek := { m with mngl := q }
    let m := m.put MNGL_LFREE_free (m.get MNGL_LFREE_free + l.cells.length)
    m.put MNGL_LTAB_used m.leasesUsed
  else m

/-- Release lease `x`: its handle is invalid at once (R81). -/
def Fjoek.releaseLease (m : Fjoek) (x : Nat) : Fjoek :=
  (m.setLease x { m.leaseAt x with live := false }).settleLease x

/-- Release every lease of strand `k` (R47 step 5). Library operations that the strand held end with it, and so do the fills whose cells it
held. -/
def Fjoek.releaseAll (m : Fjoek) (k : Nat) : Fjoek :=
  let l := (m.mngl.leases.filter fun e => e.2.live && e.2.owner == k).map fun e => e.1
  let b : Lib := { m.lib with
    held := m.lib.held.filter fun h => h.strand != k
    fills := m.lib.fills.filter fun f => !l.contains f.lease }
  Fjoek.each { m with lib := b } l fun x m => m.releaseLease x

/-- Settle every lease that waits for started descriptors. -/
def Fjoek.settleAll (m : Fjoek) : Fjoek :=
  m.each ((m.mngl.leases.filter fun e => e.2.used && !e.2.live).map fun e => e.1) fun x m => m.settleLease x

/-! ## Buffer bytes -/

/-- The buffer address of byte `o` of a lease: its cell and byte (spec/04, Leases and cells). -/
def Lease.byteAddr (l : Lease) (o : Nat) : Nat := 256 * nth l.cells (o / 256) 0 + o % 256

/-- A byte of the buffer cells: what it last held (R96), a free value where nothing has written it since the last Kindle reset (R547). -/
def Fjoek.bufByte (m : Fjoek) (a : Nat) : Byte := tableGet (Config.openBuf m.era) m.mngl.buf a

/-- Unit `u` of the buffer has not been written whole since the last Kindle reset and holds an uncorrectable pattern (R547). -/
def Fjoek.bufOpenBad (m : Fjoek) (u : Nat) : Bool :=
  !((List.range 64).all fun i => tableHas m.mngl.buf (64 * u + i)) && Config.openBufBad m.era u

/-- `n` bytes of lease `x` from offset `o`. -/
def Fjoek.leaseBytes (m : Fjoek) (x o n : Nat) : List Byte :=
  let l := m.leaseAt x
  (List.range n).map fun i => m.bufByte (l.byteAddr (o + i))

/-- Write bytes into lease `x` at offset `o`; units written again whole are no longer poisoned or absent (R114, R373), and a
block written in full on a trailing twin is full (R359). -/
def Fjoek.leasePut (m : Fjoek) (x o : Nat) (b : List Byte) : Fjoek :=
  let l := m.leaseAt x
  let buf := (b.zipIdx).foldl (fun t p => tableInsert t (l.byteAddr (o + p.2)) p.1) m.mngl.buf
  let unit := fun u => l.byteAddr (64 * u) / 64
  let whole := (unitsWhole o b.length).map unit
  let blocks := (List.range (b.length / 4096 + 1)).map fun i => ceilDiv o 4096 + i
  let full := blocks.filter fun j => decide ((j + 1) * 4096 ≤ o + b.length)
  { m with
    mngl := { m.mngl with
      buf := buf
      poison := rewriteUnits m.mngl.poison unit o b.length
      undetected := rewriteUnits m.mngl.undetected unit o b.length
      prints := m.mngl.prints.filter fun e => !(e.1 / 1024 == x && full.contains (e.1 % 1024)) }
    twin := { m.twin with absent := m.twin.absent.filter fun e => !whole.contains e.1 } }

/-- Buffer units that a range of a lease touches. -/
def Lease.units (l : Lease) (o n : Nat) : List Nat := (unitsTouched o n).map fun u => l.byteAddr (64 * u) / 64

/-- A requester reads units of the buffer: hidden errors become poison marks, each counted once (R114). -/
def Fjoek.bufDetect (m : Fjoek) (g : Option Nat) (u : List Nat) : Bool × Fjoek :=
  let bad := u.any fun k => marked m.mngl.poison k || marked m.mngl.undetected k ||
    tableGet (fun _ => false) m.twin.absent k || m.bufOpenBad k
  let new := u.filter fun k => marked m.mngl.undetected k || (!marked m.mngl.poison k && m.bufOpenBad k)
  let m := m.each new fun k m =>
    let q : Mngl := { m.mngl with
      undetected := tableErase m.mngl.undetected k
      poison := mark m.mngl.poison k }
    (Fjoek.mnglCount { m with mngl := q } MNGL_UE_BUF_count 1).ueEvent g
  (bad, m)

/-- Mark units of a lease's range poisoned (R114). -/
def Fjoek.poisonLease (m : Fjoek) (x o n : Nat) : Fjoek :=
  let p := ((m.leaseAt x).units o n).foldl mark m.mngl.poison
  { m with mngl := { m.mngl with poison := p } }

/-! ## Bulk queues (R84, R108) -/

/-- Descriptors of cluster `g`, waiting and started. -/
def Fjoek.clusterDescs (m : Fjoek) (g : Nat) : List Desc := m.mngl.descs.filter fun d => d.engine / 4 == g

def Fjoek.queueFree (m : Fjoek) (g : Nat) : Nat := 256 - (m.clusterDescs g).length

/-- The handles in w1, w2 and w4 to w6 belong to the issuing strand (R108), else the strand faults with cause 0x05. -/
def Fjoek.handlesOk (m : Fjoek) (k : Nat) (d : Desc) : Bool := d.handles.all fun h => (m.leaseOf k h).isSome

/-- Queue a descriptor whose words stand in L, with the strand's class in w0 (R84). -/
def Fjoek.descFrom (m : Fjoek) (k : Nat) (x : Strand) (a : Nat) : Desc :=
  let w := (List.range 8).map fun j => m.lNat (k / 8) (a + 8 * j) 8
  { id := m.mngl.nextId, engine := k / 8, strand := k % 8, cls := x.cls.toNat
    words := setNth w 0 (withBits (nth w 0 0) 12 10 x.cls.toNat), phase := .waiting, params := [], code := 0, detail := 0
    epstat := 0, result := 0, sent := 0, fails := [], orphan := false }

def Fjoek.queueDesc (m : Fjoek) (d : Desc) : Fjoek :=
  { m with mngl := { m.mngl with descs := m.mngl.descs ++ [d], nextId := m.mngl.nextId + 1 } }

/-- Replace a descriptor by its id. -/
def Fjoek.setDesc (m : Fjoek) (d : Desc) : Fjoek :=
  { m with mngl := { m.mngl with descs := m.mngl.descs.map fun e => if e.id = d.id then d else e } }

def Fjoek.findDesc (m : Fjoek) (id : Nat) : Option Desc := m.mngl.descs.find? fun d => d.id == id

end Sys2Proof.Machine
end

