-- ==== Sys2Proof/Machine/Tokens.lean ====
section
/-! DEFINITION. Token buckets and queued draws (R87, R109, R448 to R450), shared by the Budget instructions, the bulk
dispatcher, the token generator and the self-tests. -/

namespace Sys2Proof.Machine

/-- The reset level of a bucket is its depth's reset value (R462). -/
def levelReset (c : Nat) : Int := nth [8000, 8000, 0, 2000, 500, 2000] c 0

/-- The level of class `c`'s bucket. -/
def Fjoek.level (m : Fjoek) (c : Nat) : Int := tableGet levelReset m.damp.level c

/-- Levels run from −1,048,575 to the depth (R449). -/
def Fjoek.setLevel (m : Fjoek) (c : Nat) (v : Int) : Fjoek :=
  { m with damp := { m.damp with level := tableSet levelReset m.damp.level c (if v < -1048575 then -1048575 else v) } }

/-- The depth in force; 0 acts as 1 (R462). -/
def Fjoek.depth (m : Fjoek) (c : Nat) : Nat := Nat.max 1 (m.get (DAMP_DEPTH_depth c))

/-- The queued draws of class `c`, oldest first. -/
def Fjoek.draws (m : Fjoek) (c : Nat) : List Draw := tableGet (fun _ => []) m.damp.draws c

def Fjoek.setDraws (m : Fjoek) (c : Nat) (l : List Draw) : Fjoek :=
  { m with damp := { m.damp with draws := tableSet (fun _ => []) m.damp.draws c l } }

/-- Tokens count as spent in the period and in DAMP_SPENT (R447). -/
def Fjoek.spend (m : Fjoek) (n : Nat) : Fjoek :=
  Fjoek.happen (Fjoek.count { m with damp := { m.damp with spent := m.damp.spent + n } } DAMP_SPENT_LO n) 0x111 n

/-- Add to the C2 debt, saturating at 16,777,215 (R450). -/
def Fjoek.addDebt (m : Fjoek) (n : Nat) : Fjoek :=
  let d := m.damp.debt + n
  let m : Fjoek := { m with damp := { m.damp with debt := Nat.min d 16777215 } }
  let m := m.put DAMP_DEBT_debt m.damp.debt
  m.when (decide (16777215 ≤ d)) fun m => m.cause DAMP_ESTAT_debtsat 485

/-- Take tokens that the rules of class `c` grant. -/
def Fjoek.take (m : Fjoek) (c n : Nat) : Fjoek :=
  if c = 2 then
    let m := (m.spend n).count DAMP_C2USE_LO n
    m.when (m.isOn DAMP_CTL_en) fun m => m.addDebt n
  else (m.setLevel c (m.level c - n)).spend n

/-- A request of `n` tokens can be served at class `c`'s level: 0 always, C2 always, otherwise at min(n, depth) (R449). -/
def Fjoek.canTake (m : Fjoek) (c n : Nat) : Bool :=
  n == 0 || c == 2 || decide (((Nat.min n (m.depth c) : Nat) : Int) ≤ m.level c)

/-- What a descriptor keeps beside its words: the GFMAC parameter block (R101), which it reads as it is checked (R108), the XTS key
pair (R106) or the evaluation point (R115), as they stand when it starts. -/
def Fjoek.startParams (m : Fjoek) (d : Desc) : List Nat :=
  let w := fun i => nth d.words i 0
  match w 0 % 16 with
  | 1 =>
    let b := m.leaseBytes (w 1 % 65536) (w 1 / 2 ^ 32) 256
    (List.range 32).map fun i => ofBytes ((b.drop (8 * i)).take 8)
  | 5 => [tableGet (fun _ => 0) m.mngl.xkeys (bitsOf (w 3) 43 34)]
  | _ => [m.mngl.fpz]

/-- Start the descriptor whose draw is served (R109); DAMP_CALN counts its units by cost index (R456). Of an XTS descriptor whose key slot
was erased since its check the spec says nothing: it starts with the slot as it stands, a key pair of zeros (DESIGN CHOICE, assumption
102). -/
def Fjoek.startDesc (m : Fjoek) (id : Nat) : Fjoek :=
  let m := match m.mngl.descs.find? fun d => d.id == id with
    | some d => m.bump (DAMP_CALN_n d.costIndex) d.units4k
    | none => m
  let l := m.mngl.descs.map fun d =>
    if d.id = id then { d with phase := .started, params := if d.op = 1 then d.params else m.startParams d } else d
  Fjoek.happen { m with mngl := { m.mngl with descs := l } } 0x108 1

/-- A queued draw is served: a strand's completes by its budget wake tag (R87), a descriptor starts. The lead logs it. -/
def Fjoek.grant (m : Fjoek) (c : Nat) (d : Draw) : Fjoek :=
  match d.who with
  | .strand k => (m.logTwin 0x07 (k / 8) [c, k]).postPrivate (k / 8) (0x3F0 + k % 8)
  | .desc id => (m.logTwin 0x07 0x86 [c, id]).startDesc id

/-- Serve class `c`'s queue from the head while its level allows (R449). -/
def serveQueue (c : Nat) : Nat → Fjoek → Fjoek
  | 0, m => m
  | n + 1, m =>
    match m.draws c with
    | [] => m
    | d :: r =>
      if m.canTake c d.tokens then
        serveQueue c n (((m.setDraws c r).take c d.tokens).grant c d)
      else m

/-- Serve the whole queue of class `c` as far as its level goes. On a trailing twin grants come from the log alone
(R355). -/
def Fjoek.serve (m : Fjoek) (c : Nat) : Fjoek :=
  if m.trailing then m else serveQueue c (m.draws c).length m

/-- Draw `n` tokens of class `c`: taken at once when the class's queue is empty and the level allows, otherwise queued in
arrival order (R87, R449). Answers whether they were taken. -/
def Fjoek.request (m : Fjoek) (c n : Nat) (who : Drawer) : Bool × Fjoek :=
  if n = 0 then (true, m)
  else if !m.trailing && m.canTake c n && (c == 2 || m.draws c == []) then (true, m.take c n)
  else (false, m.setDraws c (m.draws c ++ [⟨who, n⟩]))

/-- `draw.try`: take or take nothing (R449). -/
def Fjoek.tryTake (m : Fjoek) (c n : Nat) : Bool × Fjoek :=
  if n = 0 then (true, m)
  else if m.canTake c n && (c == 2 || m.draws c == []) then (true, m.take c n)
  else (false, m)

/-- Return tokens: serve the class's queue under the rule of R449, cutting the level at the depth; in C2 reduce the debt
(R87, R450). -/
def Fjoek.refundTokens (m : Fjoek) (c n : Nat) : Fjoek :=
  let m : Fjoek := { m with damp := { m.damp with spent := m.damp.spent - n } }
  if c = 2 then
    let m : Fjoek := { m with damp := { m.damp with debt := m.damp.debt - n } }
    m.put DAMP_DEBT_debt m.damp.debt
  else
    let m := (m.setLevel c (m.level c + n)).serve c
    m.setLevel c (if (m.depth c : Int) < m.level c then m.depth c else m.level c)

/-- Withdraw a strand's queued draws (R47, R87). -/
def Fjoek.withdraw (m : Fjoek) (k : Nat) : Fjoek :=
  m.each [0, 1, 3, 4, 5] fun c m =>
    let l := m.draws c
    let l' := l.filter fun d => d.who ≠ .strand k
    if l = l' then m else (m.setDraws c l').serve c

end Sys2Proof.Machine
end

