-- ==== Sys2Proof/Machine/Tags.lean ====
section
/-! DEFINITION. Tags, waits, dispatch and drain (R36 to R40, R46, R52 to R54, R85, R86), shared by the Event
instructions, descriptor completions and everything that posts a tag. -/

namespace Sys2Proof.Machine

/-! ## Drain conditions (R46, R53) -/

/-- Leases that strand `k` holds. -/
def Fjoek.leasesOf (m : Fjoek) (k : Nat) : Nat := (m.mngl.leases.filter fun e => e.2.live && e.2.owner == k).length

/-- Descriptors of strand `k` from issue to completion. -/
def Fjoek.descsOf (m : Fjoek) (k : Nat) : Nat :=
  (m.mngl.descs.filter fun d => 8 * d.engine + d.strand == k && !d.orphan).length

/-- The strand is drained (R46). A strand in WAIT on tokens or on a fence has no occupied slot, so that the rule's words hold of it
without saying anything; the model counts it as not drained, since it waits for no work item (assumption 70, DESIGN CHOICE). -/
def Fjoek.drained (m : Fjoek) (k : Nat) : Bool :=
  let x := m.strand k
  match x.mode with
  | .idle => true
  | .wait =>
    (match x.waitFor with
     | .tags _ => true
     | _ => false) &&
    (x.slots.all fun t => t == none || t == some 0) && m.descsOf k == 0 && m.leasesOf k == 0
  | _ => false

/-- Group `g` is drained (R53). -/
def Fjoek.groupDrained (m : Fjoek) (g : Nat) : Bool := (List.range 32).all fun j => m.drained (32 * g + j)

/-- Group `g` takes no new work item: it drains or a commit holds it (R52). -/
def Fjoek.closed (m : Fjoek) (g : Nat) : Bool :=
  m.isOn (SEAM_GCTL_drain g) || tableGet (fun _ => false) m.seam.held g

/-- SEAM_GSTAT.drained follows the condition of R53; as a group that drains or is held becomes drained, gdrain latches. R53 names no such
condition: a group that is drained because it has no work latches nothing (DESIGN CHOICE, assumption 107). -/
def Fjoek.settleGroup (m : Fjoek) (g : Nat) : Fjoek :=
  let d := m.groupDrained g
  let was := m.isOn (SEAM_GSTAT_drained g)
  let m := m.put (SEAM_GSTAT_drained g) (bnat d)
  m.when (d && !was && m.closed g) fun m => m.cause (SEAM_ESTAT_gdrain (4 * g)) (272 + 4 * g)

/-! ## Dispatch (R39, R40, R52) -/

/-- The dispatch queue of cluster `g`. -/
def Fjoek.queue (m : Fjoek) (g : Nat) : List WorkItem := tableGet (fun _ => []) m.seam.queues g

def Fjoek.setQueue (m : Fjoek) (g : Nat) (l : List WorkItem) : Fjoek :=
  { m with seam := { m.seam with queues := tableSet (fun _ => []) m.seam.queues g l } }

/-- Group `g` passes its items to another group (R52). -/
def Fjoek.redirectOf (m : Fjoek) (g : Nat) : Option Nat :=
  if m.closed g && m.isOn (SEAM_GCTL_redir_en g) then some (m.get (SEAM_GCTL_redir g)) else none

/-- The group whose dispatch queue takes the items that arrive for group `g`: its own while it takes work items or only drains; its
redirect target while that is open. Where there is none, they wait in the transport's receive queues (R50, R52). -/
def Fjoek.homeOf (m : Fjoek) (g : Nat) : Option Nat :=
  if !m.closed g then some g
  else
    match m.redirectOf g with
    | some t => if m.closed t then none else some t
    | none => if tableGet (fun _ => false) m.seam.held g then none else some g

/-- The queues whose items group `g` offers: its own, and what its own had no room for of those that redirect to it. -/
def Fjoek.sourcesOf (m : Fjoek) (g : Nat) : List Nat :=
  (if m.redirectOf g = none ∨ m.redirectOf g = some g then [g] else []) ++
    (List.range 16).filter fun h => h != g && m.redirectOf h == some g

/-- The oldest item that group `g` offers, and its queue (R52). -/
def Fjoek.offer (m : Fjoek) (g : Nat) : Option (Nat × WorkItem) :=
  (m.sourcesOf g).foldl (fun best h =>
    match m.queue h, best with
    | [], _ => best
    | i :: _, none => some (h, i)
    | i :: _, some (h', i') => if i.age < i'.age then some (h, i) else some (h', i')) none

/-- Strand `k` may take a work item of its cluster (R39, R46, R54, R65). -/
def Fjoek.takesItems (m : Fjoek) (k : Nat) : Bool :=
  !m.closed (k / 32) && !m.isOn (SEAM_ECTL_park (k / 8)) && !m.isOn (SEAM_STRCTL_drain (k / 8) (k % 8)) &&
    !tableGet (fun _ => false) m.seam.resetting (k / 8)

/-- Strand `k` waits on tag `t`: the slot that holds it. -/
def Strand.slotOf (x : Strand) (t : Nat) : Option Nat :=
  match x.mode, x.waitFor with
  | .wait, .tags _ => x.slots.findIdx? fun u => u == some t
  | _, _ => none

/-- Of some strands, the one that has waited longest. -/
def Fjoek.longest (m : Fjoek) (l : List Nat) : Option Nat :=
  l.foldl (fun b k =>
    match b with
    | none => some k
    | some j => if (m.strand k).since < (m.strand j).since then some k else some j) none

/-- The tag-0 waiter of cluster `g` that takes the next item. -/
def Fjoek.taker (m : Fjoek) (g : Nat) : Option Nat :=
  m.longest (((List.range 32).map fun j => 32 * g + j).filter fun k =>
    ((m.strand k).slotOf 0).isSome && m.takesItems k)

/-- A wait completes: rd[1:0] is the slot, rd[63:32] the item's handle (R86), and the strand goes on, not drained. -/
def Fjoek.endWait (m : Fjoek) (k rd slot handle : Nat) : Fjoek :=
  let x := m.strand k
  let x := x.wr rd (BitVec.ofNat 64 (slot + handle * 2 ^ 32))
  (m.setStrand k { x with mode := .ready, waitFor := .nothing, slots := [none, none, none, none] }).put (SEAM_GSTAT_drained (k / 32)) 0

/-- A waiting strand's register. -/
def Strand.waitReg (x : Strand) : Nat :=
  match x.waitFor with
  | .tags rd => rd
  | .ack rd _ _ => rd
  | _ => 0

/-- The item's lease becomes the strand's (R285): its handle. -/
def Fjoek.ownLease (m : Fjoek) (k h : Nat) : Nat × Fjoek :=
  let l := m.leaseAt h
  (2 ^ 31 + k * 2 ^ 22 + l.seq * 65536 + h, m.setLease h { l with owner := k, live := true })

/-- The lead notes which blocks of an item's lease are prints on the trailing twin (R359). -/
def Fjoek.noteItem (m : Fjoek) (x : Nat) (blocks : List Nat) : Fjoek :=
  let t := blocks.foldl (fun t b => tableInsert t (1024 * (x % 65536) + b) 0) m.mngl.prints
  let q : Mngl := { m.mngl with prints := t }
  { m with mngl := q }

/-- Give an item, taken from queue `h`, to strand `k` in slot `j`; the lead logs it. -/
def Fjoek.assign (m : Fjoek) (h : Nat) (i : WorkItem) (k j : Nat) : Fjoek :=
  let m := m.setQueue h ((m.queue h).erase i)
  let (a, m) := m.ownLease k i.handle
  let m := m.when m.leads fun m =>
    let l := m.leaseAt i.handle
    let n := Nat.min (256 * l.cells.length) (64 + 16 * m.get TWIN_CFG_sendfull)
    let full := (m.leaseBytes i.handle 0 n).map BitVec.toNat
    let size := 256 * l.cells.length
    let rest := (List.range (if n < size then ceilDiv size 4096 - n / 4096 else 0)).map (n / 4096 + ·)
    let prints := rest.map fun b =>
      fprint m.mngl.fpz ((m.leaseBytes i.handle (4096 * b) (Nat.min 4096 (size - 4096 * b))).map BitVec.toNat)
    (m.logTwin 0x02 (k / 8) ([k % 8, j, i.kind] ++ full ++ prints)).noteItem i.handle rest
  let m := m.perf (k / 8) (k % 8) 0x016 none
  (m.endWait k (m.strand k).waitReg j a).sitOut k

/-- Dispatch in cluster `g` as long as it has an item and a waiter. On a trailing twin the log dispatches (R355), and a
resync's freeze dispatches nothing (R377). -/
def dispatchGroup (g : Nat) : Nat → Fjoek → Fjoek
  | 0, m => m
  | n + 1, m =>
    match m.offer g, m.taker g with
    | some (h, i), some k => dispatchGroup g n (m.assign h i k (((m.strand k).slotOf 0).getD 0))
    | _, _ => m

/-- An act waits for the end of its engine's round (R56). -/
def Fjoek.defer (m : Fjoek) (a : RoundAct) : Fjoek := { m with seam := { m.seam with acts := m.seam.acts ++ [a] } }

/-- Park override (R40): items queued while every engine of cluster `g` is parked. Inside a round of its engine the change of the
park state waits for the end of the round (R56). The lead logs it as the write that it stands for. -/
def Fjoek.parkOverride (m : Fjoek) (g : Nat) : Fjoek :=
  let es := (List.range 4).map fun j => 4 * g + j
  let a : RoundAct := .park (4 * g) false
  if (m.offer g).isSome && es.all (fun e => m.isOn (SEAM_ECTL_park e)) && !m.closed g && !m.seam.acts.contains a then
    let m := m.logCmd (SEAM_ECTL (4 * g)) 0
    (if m.inRound (4 * g) then m.defer a else m.put (SEAM_ECTL_park (4 * g)) 0).latch 480
  else m

/-! ## Items and their queues (R39, R50, R52) -/

/-- The dispatch queue of cluster `g` is full (R39). -/
def Fjoek.queueFull (m : Fjoek) (g : Nat) : Bool := decide (4096 ≤ (m.queue g).length)

/-- Put an item that was queued before into a queue, by age. -/
def insertAged (i : WorkItem) : List WorkItem → List WorkItem
  | [] => [i]
  | j :: r => if i.age < j.age then i :: j :: r else j :: insertAged i r

/-- The queue of a closed group passes to its redirect target, as far as that has room; the rest stays, and the target offers it
all the same. -/
def Fjoek.passQueue (m : Fjoek) (g : Nat) : Fjoek :=
  match m.homeOf g with
  | some t =>
    if t = g ∨ m.queue g = [] then m
    else
      let n := 4096 - (m.queue t).length
      (m.setQueue t (((m.queue g).take n).foldl (fun q i => insertAged i q) (m.queue t))).setQueue g ((m.queue g).drop n)
  | none => m

/-- An item enters the queue that takes it, and its age begins, or it waits. -/
def Fjoek.enter (m : Fjoek) (w : Nat × WorkItem) : Fjoek :=
  match m.homeOf w.1 with
  | some t =>
    if m.queueFull t then { m with seam := { m.seam with waits := m.seam.waits ++ [w] } }
    else
      let i : WorkItem := { w.2 with age := m.seam.stamp }
      Fjoek.setQueue { m with seam := { m.seam with stamp := m.seam.stamp + 1 } } t (m.queue t ++ [i])
  | none => { m with seam := { m.seam with waits := m.seam.waits ++ [w] } }

/-- Queues pass on, and items that wait enter as far as there is room. -/
def Fjoek.settleQueues (m : Fjoek) : Fjoek :=
  let m := m.each (m.seam.queues.map (·.1)) fun g m => m.passQueue g
  if m.seam.waits = [] then m
  else Fjoek.each { m with seam := { m.seam with waits := [] } } m.seam.waits fun w m => m.enter w

/-- Dispatch in every cluster. -/
def Fjoek.dispatch (m : Fjoek) : Fjoek :=
  let m := m.settleQueues
  if m.trailing ∨ m.twin.dispatchStopped then m
  else
    let m := m.each (List.range 16) fun g m =>
      if (m.offer g).isSome then dispatchGroup g 32 (m.parkOverride g) else m
    m.settleQueues

/-- An item for cluster `g` is whole: it enters a dispatch queue, or waits for one (R285, R39, R52). -/
def Fjoek.enqueue (m : Fjoek) (g handle kind : Nat) : Fjoek :=
  let i : WorkItem := { handle := handle, kind := kind, age := 0 }
  Fjoek.dispatch { m with seam := { m.seam with waits := m.seam.waits ++ [(g, i)] } }

/-! ## Tag delivery (R38) -/

/-- Pending count of tag `t` of engine `e`. -/
def Fjoek.tagCount (m : Fjoek) (e t : Nat) : Nat := tableGet (fun _ => 0) m.seam.tags (1024 * e + t)

def Fjoek.setTagCount (m : Fjoek) (e t n : Nat) : Fjoek :=
  { m with seam := { m.seam with tags := tableSet (fun _ => 0) m.seam.tags (1024 * e + t) n } }

/-- The strand of engine `e` that a post of tag `t` wakes: the longest waiter. -/
def Fjoek.waiter (m : Fjoek) (e t : Nat) : Option Nat :=
  m.longest (((List.range 8).map fun s => 8 * e + s).filter fun k => ((m.strand k).slotOf t).isSome)

/-- A tag reaches engine `e`: it wakes one strand, adds to the count, or is discarded at 255. The answer is the verdict
that `post` receives (R86). A budget wake completes the draw of its strand (R87). -/
def Fjoek.deliverTag (m : Fjoek) (e t : Nat) : Bool × Fjoek :=
  let m := (m.closeRound e).perf e 0 0x015 none
  let k := 8 * e + t % 8
  let x := m.strand k
  if 0x3F0 ≤ t ∧ t < 0x3F8 ∧ x.mode = .wait ∧ x.waitFor = .tokens then
    (true, m.setStrand k { x with mode := .ready, waitFor := .nothing })
  else
    match m.waiter e t with
    | some k => (true, (m.endWait k (m.strand k).waitReg (((m.strand k).slotOf t).getD 0) 0))
    | none =>
      if m.tagCount e t < 255 then (true, m.setTagCount e t (m.tagCount e t + 1))
      else (false, m.cause (SEAM_ESTAT_tag_sat e) (272 + e))

/-! ## Fences (R88) -/

/-- A descriptor from issue to start: it has handed nothing on. -/
def Desc.ahead (d : Desc) : Bool := d.phase == .waiting || d.phase == .drawing || d.phase == .started

/-- A MOVE whose destination lies in the mirror window (R367): it is bound for the twin. -/
def Fjoek.mirrorBound (m : Fjoek) (d : Desc) : Bool :=
  d.op == 0 && d.dsp == 1 && m.isOn TWIN_MIRWIN_en && decide (m.get TWIN_MIRWIN_base * 2 ^ 20 ≤ d.w 1 ∧
    d.w 1 + d.len ≤ (m.get TWIN_MIRWIN_limit + 1) * 2 ^ 20)

/-- Twin-bound MOVEs of strand `k` that have no record in the log yet. -/
def Fjoek.twinMoves (m : Fjoek) (k : Nat) : List Nat :=
  (m.mngl.descs.filter fun d => 8 * d.engine + d.strand == k && d.ahead && m.mirrorBound d).map (·.id)

/-- A twin-bound MOVE is about to get the next record: fences that wait for the MOVE wait for that record. -/
def Fjoek.fenceOn (m : Fjoek) (id : Nat) : Fjoek :=
  m.each (m.seam.strands.map (·.1)) fun k m =>
    let x := m.strand k
    match x.mode, x.waitFor with
    | .wait, .ack rd _ l =>
      if l.contains id then m.setStrand k { x with waitFor := .ack rd m.twin.nextSeq (l.erase id) } else m
    | _, _ => m

/-- Fences whose records are acknowledged, and whose MOVEs have none to come, end with 1; on a module that became solo every waiting
fence ends with 0. -/
def Fjoek.settleFences (m : Fjoek) : Fjoek :=
  m.each (m.seam.strands.map (·.1)) fun k m =>
    let x := m.strand k
    match x.mode, x.waitFor with
    | .wait, .ack rd q l =>
      let ends := fun (v : Nat) (m : Fjoek) =>
        (m.setStrand k { x.wr rd (BitVec.ofNat 64 v) with mode := .ready, waitFor := .nothing }).sitOut k
      if m.trailing then m
      else if !m.leads then ends 0 m
      else if q ≤ m.twin.acked ∧ !(m.mngl.descs.any fun d => l.contains d.id && d.ahead) then ends 1 (m.logValue k rd 1)
      else m
    | _, _ => m

/-! ## Waiting (R37, R85, R86) -/

/-- A slot that names another strand's private tag is empty (R86). -/
def ownTag (k : Nat) (t : Option Nat) : Option Nat :=
  match t with
  | some t => if 0x3F0 ≤ t ∧ t % 8 ≠ k % 8 then none else some t
  | none => none

/-- The first slot whose tag is pending; for tag 0, whose strand can have an item now. -/
def Fjoek.pendingSlot (m : Fjoek) (k : Nat) (l : List (Option Nat)) : Option Nat :=
  l.findIdx? fun t =>
    match t with
    | none => false
    | some 0 => m.takesItems k && (m.offer (k / 32)).isSome && !m.trailing && !m.twin.dispatchStopped
    | some t => decide (0 < m.tagCount (k / 8) t)

/-- A wait issues on strand `k` with register `rd` and slots `l`. -/
def Fjoek.beginWait (m : Fjoek) (k rd : Nat) (l : List (Option Nat)) : Fjoek :=
  let l := l.map (ownTag k)
  let x := m.strand k
  if l.all (· == none) then m.setStrand k (x.wr rd (BitVec.ofNat 64 (2 ^ 64 - 1))).next
  else
    match m.pendingSlot k l with
    | some j =>
      match nth l j none with
      | some 0 =>
        match m.offer (k / 32) with
        | some (h, i) =>
          (m.setStrand k { x.next with mode := .wait, waitFor := .tags rd, slots := l }).assign h i k j
        | none => m
      | some t =>
        let m := m.setTagCount (k / 8) t (m.tagCount (k / 8) t - 1)
        m.setStrand k (x.wr rd (BitVec.ofNat 64 j)).next
      | none => m
    | none =>
      let y : Strand := { x.next with mode := .wait, waitFor := .tags rd, slots := l, since := m.seam.stamp }
      let m := m.setStrand k y
      let m : Fjoek := { m with seam := { m.seam with stamp := m.seam.stamp + 1 } }
      (m.settleGroup (k / 32)).dispatch

end Sys2Proof.Machine
end

