-- ==== Sys2Proof/Machine/Twinning.lean ====
section
/-! DEFINITION. What other blocks use of twin operation: output commit (R358), divergence (R369, R371) and leaving in-step
mode (R57). -/

namespace Sys2Proof.Machine

/-- Held outputs whose records are all acknowledged take effect, in order (R358). -/
def Fjoek.commitOutputs (m : Fjoek) : Fjoek :=
  if m.twin.frozen then m
  else
    let go := m.twin.held.filter fun p => !m.leads || decide (p.1 ≤ m.twin.acked)
    let stay := m.twin.held.filter fun p => m.leads && decide (m.twin.acked < p.1)
    { m with out := m.out ++ go.map (fun p => p.2), twin := { m.twin with held := stay } }

/-- A divergence: the epoch is recorded, event 465 latches, and the self-check starts with the lead's egress frozen
(R369, R371). -/
def Fjoek.diverge (m : Fjoek) (epoch : Nat) : Fjoek :=
  let m := m.setReg64 TWIN_DIVEP_LO epoch
  let m := (m.count TWIN_DIVERGE_LO 1).cause TWIN_ESTAT_diverge 465
  let m := (m.put TWIN_STAT_phase 5).put TWIN_SCHK_done 0
  let t : Twin := { m.twin with diverged := m.twin.diverged + 1, frozen := m.twin.frozen || m.isOn TWIN_STAT_role }
  { m with twin := t }

/-- The TWIN block writes 0 to SEAM_CTL.instep (R57): in each engine it acts at the end of the round in progress, and no
order of rounds binds issue from then on. -/
def Fjoek.leaveInstep (m : Fjoek) : Fjoek :=
  m.put SEAM_CTL_instep 0

/-- TXSUP of every slot (R224). -/
def Fjoek.setTxsup (m : Fjoek) (v : Bool) : Fjoek := m.each (List.range 32) fun s m => m.put (NETP_SSTAT_txsup s) (bnat v)

/-- The module cedes: every slot's frames are suppressed, no doorbell or attach TLP starts, and held outputs are discarded
(R374). -/
def Fjoek.cede (m : Fjoek) : Fjoek :=
  let m := m.setTxsup true
  let t : Twin := { m.twin with held := [], frozen := false, log := [] }
  let m : Fjoek := { m with twin := t }
  let m := (((m.put TWIN_STAT_ceded 1).put TWIN_STAT_sync 0).put TWIN_STAT_phase 7).leaveInstep
  m.cause TWIN_ESTAT_cede 469

end Sys2Proof.Machine
end

