-- ==== Sys2Proof/Machine/Clocks.lean ====
section
/-! DEFINITION. Clock domains (R502, R504, R508): which domain a register lies in, what a change of a domain's run bit does, how
a commanded stop begins, and the record of an access into a stopped domain. -/

namespace Sys2Proof.Machine

/-- The clock domain of the block whose window holds register address `a` (R502); 0, which always runs, where no window
does. The registers that the drive ports share lie in port 0's window and are taken with domain 7. -/
def blockDomain (a : Nat) : Nat :=
  let p := a / 0x10000
  if p ≤ 0x04 then 1
  else if p ≤ 0x0A then 2
  else if p = 0x10 ∨ p = 0x11 ∨ (0x14 ≤ p ∧ p ≤ 0x1F) then 4
  else if 0x20 ≤ p ∧ p ≤ 0x23 then 3
  else if 0x24 ≤ p ∧ p ≤ 0x27 then 5
  else if 0x28 ≤ p ∧ p ≤ 0x2F then
    let q := (a - 0x280000) / 0x2000
    if 12 ≤ q ∧ q < 24 then 8 else 7
  else match p with
    | 0x30 => 9 | 0x31 => 13 | 0x32 => 10 | 0x33 => 12 | _ => 0

/-- The domain that an outstanding access of a strand crosses into. -/
def Access.domain (a : Access) : Nat :=
  match a.kind with
  | .hld => 10 | .hst => 10 | .hcas => 10 | .hfadd => 10
  | .bld => 5 | .bst => 5
  | .rld => blockDomain a.addr | .rst => blockDomain a.addr
  | .qld => 4 | .qst => 4 | .qcas => 4 | .kld => 4 | .qrate => 4

/-- CLK_PLL shows a PLL locked while the domain that it clocks runs (R503, R512). -/
def Fjoek.setPll (m : Fjoek) (d : Nat) (v : Bool) : Fjoek :=
  match d with
  | 2 => m.put CLK_PLL_mgmt (bnat v)
  | 3 => m.put CLK_PLL_seam (bnat v)
  | 7 => m.put CLK_PLL_drv0 (bnat v)
  | 8 => m.put CLK_PLL_drv1 (bnat v)
  | 9 => m.put CLK_PLL_att (bnat v)
  | _ => m

/-- A bit of CLK_DOMSTAT changes: event 13, and CLK_STOPC for a stop (R504, R512). -/
def Fjoek.setDomain (m : Fjoek) (d : Nat) (v : Bool) : Fjoek :=
  if m.runs d = v then m
  else
    let m : Fjoek := { m with hearth := { m.hearth with stopping := withBits m.hearth.stopping d d 0 } }
    let m := (m.put ⟨CLK_DOMSTAT, d, d⟩ (bnat v)).setPll d v
    let m := m.when (!v) fun m => m.put ⟨CLK_STOPC, d, d⟩ 1
    let m := m.when (!v && d == 3) fun m => m.each (List.range 64) fun e m => m.snapCounters e
    m.cause CLK_ESTAT_change 13

/-- A domain may run again, and a stop of it in progress is over: it runs unless it is lost. -/
def Fjoek.startDomain (m : Fjoek) (d : Nat) : Fjoek :=
  let m : Fjoek := { m with hearth := { m.hearth with stopping := withBits m.hearth.stopping d d 0 } }
  if bitOf m.hearth.lost d then m else m.setDomain d true

/-- A commanded stop of a running domain begins (R508); it takes effect at COMMANDED_STOP_DONE. -/
def Fjoek.beginStop (m : Fjoek) (d : Nat) : Fjoek :=
  if !m.runs d then m
  else { m with hearth := { m.hearth with stopping := withBits m.hearth.stopping d d 1 } }

/-- Quad `q` runs in SERVE while its mode is not 0, and bit 6 follows the quads (R502). -/
def Fjoek.settleQuads (m : Fjoek) : Fjoek :=
  let v := (List.range 8).foldl (fun v q =>
    if m.power = 4 ∧ !bitOf m.hearth.lost 6 ∧ m.get (NETP_QCFG_mode q) ≠ 0 ∧
        m.get (NETP_QCFG_mode q) ≤ 8 then v + 2 ^ q else v) 0
  (m.put CLK_QSTAT_run v).setDomain 6 (v != 0)

/-- The record of an access into a stopped domain: accessor, domain, register offset (R508, R512). -/
def Fjoek.hang (m : Fjoek) (acc dom off : Nat) : Fjoek :=
  if !m.runs 2 then m
  else
    let m := m.bump CLK_HANGN_count 1
    let v := 2 ^ 31 + acc * 2 ^ 28 + dom * 2 ^ 24 + off % 2 ^ 24
    let m : Fjoek := if m.isOn CLK_HANG_valid then { m with hearth := { m.hearth with hangs := m.hearth.hangs ++ [v] } }
      else m.setReg CLK_HANG v
    m.cause CLK_ESTAT_hang 16

/-- `n` accesses are abandoned at a crossing: CLK_ABANDON and event 14 (R507). -/
def Fjoek.abandoned (m : Fjoek) (n : Nat) : Fjoek :=
  if n = 0 then m else (m.bump CLK_ABANDON_count n).cause CLK_ESTAT_abandon 14

end Sys2Proof.Machine
end

