-- ==== Sys2Proof/Machine/Issue.lean ====
section
/-! DEFINITION. What an engine does between and at its issues: the reset of a strand (R47), resets and park changes at round boundaries
(R56), and the issue of an instruction (R33 to R35, R55, R70 to R73). -/

namespace Sys2Proof.Machine

/-- The access is on R space. -/
def Access.onR (a : Access) : Bool := a.kind == .rld || a.kind == .rst

/-! ## The end of a STALL (R73, R84, R90) -/

/-- What a strand in STALL waits for has come: the completion that `unstall` follows is enough for a ninth access. -/
def Strand.stallOver (x : Strand) : Bool :=
  !x.accs.any Access.onR && (!x.fencing || x.accs == []) &&
    match x.stallFor with
    | .access => true
    | .loads l => !l.any fun r => x.loading.contains r
    | .queue => false

/-- An access of strand `k` has completed: a STALL that waited on it ends. -/
def Fjoek.unstall (m : Fjoek) (k : Nat) : Fjoek :=
  let x := m.strand k
  if x.mode = .stall ∧ x.stallOver then m.setStrand k { x with mode := .ready, stallFor := .access, fencing := false } else m

/-- Room in the bulk queue of cluster `g` ends the STALL of strands that wait for it. -/
def Fjoek.wakeQueue (m : Fjoek) (g : Nat) : Fjoek :=
  if m.queueFree g = 0 then m
  else
    m.each (List.range 32) fun j m =>
      let x := m.strand (32 * g + j)
      if x.mode = .stall ∧ x.stallFor = .queue then m.setStrand (32 * g + j) { x with mode := .ready, stallFor := .access } else m

/-! ## Strand reset (R47) -/

/-- Steps 1 to 4 for strand `k`. Accesses to H, B and Q already issued complete, without a register to write. -/
def Fjoek.clearStrand (m : Fjoek) (k : Nat) : Fjoek :=
  let e := k / 8
  let x := m.strand k
  let rs := x.accs.filter Access.onR
  let mine := fun (d : Desc) => 8 * d.engine + d.strand == k && !d.orphan
  let gone := m.mngl.descs.filter fun d => mine d && !d.inFlight
  let q : Mngl := { m.mngl with
    descs := (m.mngl.descs.filter fun d => !(mine d && !d.inFlight)).map fun d =>
      if mine d then { d with orphan := true } else d }
  let m : Fjoek := { m with mngl := q }
  let m := m.each [0, 1, 3, 4, 5] fun c m =>
    let l := m.draws c
    let l' := l.filter fun d => d.who != .strand k && !(gone.any fun g => d.who == .desc g.id)
    if l = l' then m else (m.setDraws c l').serve c
  let t := tableSet (fun _ => 0) (tableSet (fun _ => 0) m.seam.tags (1024 * e + 0x3F0 + k % 8) 0) (1024 * e + 0x3F8 + k % 8) 0
  let fl := (m.seam.flight.filter fun p => !(p.engine == e && (p.tag == 0x3F0 + k % 8 || p.tag == 0x3F8 + k % 8))).map fun p =>
    match p.verdict with
    | some (e', s', _) => if 8 * e' + s' = k then { p with verdict := none } else p
    | none => p
  let m : Fjoek := { m with seam := { m.seam with tags := t, flight := fl } }
  let keep := (x.accs.filter fun a => !a.onR).map fun a => { a with rd := 0, pe := 0 }
  let m := m.setStrand k { strandReset k with mode := .resetting, gen := x.gen, cls := x.cls, pc := x.pc, accs := keep }
  (m.put ⟨SEAM_ESTAT e, 24 + k % 8, 24 + k % 8⟩ 0).abandoned rs.length

/-- No started descriptor of strand `k` is left. -/
def Fjoek.quiet (m : Fjoek) (k : Nat) : Bool :=
  !m.mngl.descs.any fun d => 8 * d.engine + d.strand == k && d.inFlight

/-- Steps 5 and 6: the leases are released, and the strand stands at its image's entry point, or is IDLE without one. A commit starts
its strands by the same operation (R50): their registers, predicates, return stack, timer and wait slots are 0 and empty, which the
spec says of a reset alone, and an entry point of 0x2000 to 0xFFFE, which no check of R49 refuses, stands for its low 13 bits
(assumption 70, DESIGN CHOICE). -/
def Fjoek.restartStrand (m : Fjoek) (k : Nat) : Fjoek :=
  let m := m.releaseAll k
  let i := k / 32 * 8 + k % 8
  let ent := tableGet (fun _ => 0xFFFF) m.seam.entry i
  let run := ent != 0xFFFF && m.isOn (SEAM_GSTAT_hasimg (k / 32))
  let x := m.strand k
  let y : Strand := { strandReset k with
    mode := if run then .ready else .idle, gen := x.gen, accs := x.accs
    cls := BitVec.ofNat 3 (tableGet (fun _ => 0) m.seam.iclass i), pc := if ent = 0xFFFF then 0 else BitVec.ofNat 13 ent }
  (m.setStrand k y).sitOut k

/-! ## What waits for a round boundary (R56) -/

/-- A fence of strand `k` on which it waits ends with its logged result, where that has come. -/
def Fjoek.takeFence (m : Fjoek) (k : Nat) : Fjoek :=
  let x := m.strand k
  match x.mode, x.waitFor with
  | .wait, .ack rd _ _ =>
    match m.takeValue k rd with
    | some (v, m) => m.setStrand k { x.wr rd (BitVec.ofNat 64 v) with mode := .ready, waitFor := .nothing }
    | none => m
  | _, _ => m

/-- On a trailing twin a fence that waits ends between rounds, at the round of its logged result (R88, R91). -/
def Fjoek.takeFences (m : Fjoek) (e : Nat) : Fjoek :=
  if !m.trailing ∨ m.inRound e then m else m.each (List.range 8) fun t m => m.takeFence (8 * e + t)

/-- The engine that an act concerns. -/
def RoundAct.engine : RoundAct → Nat
  | .reset k => k / 8
  | .park e _ => e

/-- R47 for strand `k`, at once. Where the strand's engine has a Block reset that still waits for its descriptors (R65), the strand
restarts here as soon as it is itself quiet: the spec does not say which of the two holds (assumption 70, DESIGN CHOICE). -/
def Fjoek.strandResetNow (m : Fjoek) (k : Nat) : Fjoek :=
  let m := m.clearStrand k
  let m := if m.quiet k then m.restartStrand k else m
  ((m.settleGroup (k / 32)).wakeQueue (k / 32)).dispatch

/-- An act takes effect. -/
def Fjoek.doAct (m : Fjoek) (a : RoundAct) : Fjoek :=
  match a with
  | .reset k => m.strandResetNow k
  | .park e v => (m.put (SEAM_ECTL_park e) (bnat v)).dispatch

/-- An act takes effect at once, or at the end of its engine's round in progress. -/
def Fjoek.act (m : Fjoek) (a : RoundAct) : Fjoek := if m.inRound a.engine then m.defer a else m.doAct a

/-- Between rounds of engine `e`, what waits for that takes effect. -/
def Fjoek.roundActs (m : Fjoek) (e : Nat) : Fjoek :=
  let m := m.takeFences e
  let mine := m.seam.acts.filter fun a => a.engine == e
  if mine = [] ∨ m.inRound e then m
  else
    let m : Fjoek := { m with seam := { m.seam with acts := m.seam.acts.filter fun a => a.engine != e } }
    m.each mine fun a m => m.doAct a

/-- A write of 1 to SEAM_STRCTL.reset (R47). -/
def Fjoek.strandResetWrite (m : Fjoek) (k : Nat) : Fjoek := m.act (.reset k)

/-- A write of SEAM_ECTL.park (R54). -/
def Fjoek.parkWrite (m : Fjoek) (e : Nat) (p : Bool) : Fjoek := m.act (.park e p)

/-! ## Issue -/

/-- What every issued instruction does beside its own effect: the scan position, the round, samples and counts. -/
def Fjoek.issued (m : Fjoek) (k : Nat) (executed : Bool) : Fjoek :=
  let x := m.strand k
  let e := k / 8
  let s := k % 8
  let by_ := some (s, x.pc.toNat, x.gen)
  let m : Fjoek := { m with seam := { m.seam with last := tableSet (fun _ => 7) m.seam.last e s } }
  let m := m.skidSamples e s x.pc.toNat x.gen
  let m := m.perf e s 0x001 by_
  let m := m.perf e s (if executed then 0x002 else 0x003) by_
  let m := m.perf e s (0x020 + s) by_
  (m.perf e s (0x028 + x.cls.toNat) by_).roundTaken k

/-- The strand could issue its next instruction now: the Seam domain runs, the strand is READY in its turn, and no `mfence`
holds it. -/
def Fjoek.canIssue (m : Fjoek) (k : Nat) : Bool :=
  let x := m.strand k
  m.runs 3 && x.mode == .ready && m.mayIssue k && !(x.fencing && x.accs != [])

/-- An instruction comes up for issue on a strand (R70 to R73). `uses` says what it reads and writes; `hold`, what it waits for where it
cannot issue for want of room. An uncorrectable fetch faults first (R71); a register or predicate that a load is to write puts the
strand in STALL (R70, R73; that a predicate does so too, for which the spec names no state, is the model's: DESIGN CHOICE, assumption
108); a register read whose verdict has not returned passes the strand over (R72); a false guard skips; an
access without room puts the strand in STALL (R73, R84). -/
def Fjoek.issueOne (m : Fjoek) (i : Issue) (uses : List Nat) (hold : Fjoek → Strand → Option StallFor)
    (body : Nat → Strand → Fjoek → Fjoek) : Fjoek :=
  let k := issueKey i
  let x := m.strand k
  let uses := readsPred i.psel :: uses
  if !m.canIssue k then m
  else if tableGet (fun _ => false) m.seam.progue (8192 * i.e.val + x.pc.toNat) then
    (m.issued k true).faultStrand k 0x0A
  else if uses.any fun r => x.loading.contains r then m.setStrand k { x with mode := .stall, stallFor := .loads uses }
  else if uses.any fun r => x.posts.contains r then m
  else
    let x := { x with fencing := false }
    if x.pred i.psel.val == i.pneg then ((m.setStrand k x).issued k false).setStrand k x.next
    else
      match hold m x with
      | some q => m.setStrand k { x with mode := .stall, stallFor := q }
      | none => body k x ((m.setStrand k x).issued k true)

/-- The same, with what waits for the end of the engine's round before and after it (R56). -/
def Fjoek.issueHold (m : Fjoek) (i : Issue) (uses : List Nat) (hold : Fjoek → Strand → Option StallFor)
    (body : Nat → Strand → Fjoek → Fjoek) : Fjoek :=
  ((m.roundActs i.e.val).issueOne i uses hold body).roundActs i.e.val

/-- An instruction that always has room. -/
def Fjoek.issue (m : Fjoek) (i : Issue) (uses : List Nat) (body : Nat → Strand → Fjoek → Fjoek) : Fjoek :=
  m.issueHold i uses (fun _ _ => none) body

/-- An undefined word faults whatever its guard, before it is read (R67, R71); otherwise `f`. -/
def Fjoek.issueDefined (m : Fjoek) (i : Issue) (ok : Bool) (f : Fjoek → Fjoek) : Fjoek :=
  if ok then f m
  else
    let k := issueKey i
    let m := m.roundActs i.e.val
    if !m.canIssue k then m
    else
      let bad := tableGet (fun _ => false) m.seam.progue (8192 * i.e.val + (m.strand k).pc.toNat)
      ((m.issued k true).faultStrand k (if bad then 0x0A else 0x01)).roundActs i.e.val

/-- An instruction that only computes: it writes the strand and advances. -/
def Fjoek.compute (m : Fjoek) (i : Issue) (uses : List Nat) (f : Strand → Strand) : Fjoek :=
  m.issue i uses fun k x m => m.setStrand k (f x).next

/-- rd := f ra rb. -/
def Fjoek.alu2 (m : Fjoek) (i : Issue) (rd ra rb : Fin 32) (f : Word64 → Word64 → Word64) : Fjoek :=
  m.compute i [onlyWrites rd, ra.val, rb.val] fun x => x.wr rd.val (f (x.rd ra.val) (x.rd rb.val))

/-- rd := f ra. -/
def Fjoek.alu1 (m : Fjoek) (i : Issue) (rd ra : Fin 32) (f : Word64 → Word64) : Fjoek :=
  m.compute i [onlyWrites rd, ra.val] fun x => x.wr rd.val (f (x.rd ra.val))

/-- A compare: p[pd] := f ra rb, and the inverse to the second destination when `cen` is set; the direct result prevails
(R76). -/
def Strand.compareWr (x : Strand) (pd : Fin 8) (v : Inv) (b : Bool) : Strand :=
  (if v.cen then x.setPred v.pc.val (!b) else x).setPred pd.val b

def Fjoek.cmp2 (m : Fjoek) (i : Issue) (pd : Fin 8) (ra rb : Fin 32) (v : Inv) (f : Word64 → Word64 → Bool) : Fjoek :=
  m.compute i [ra.val, rb.val] fun x => x.compareWr pd v (f (x.rd ra.val) (x.rd rb.val))

def Fjoek.cmp1 (m : Fjoek) (i : Issue) (pd : Fin 8) (ra : Fin 32) (imm : BitVec 32) (v : Inv)
    (f : Word64 → Word64 → Bool) : Fjoek :=
  m.compute i [ra.val] fun x => x.compareWr pd v (f (x.rd ra.val) (sext64 imm))

end Sys2Proof.Machine
end

