-- ==== Sys2Proof/Machine/SeamCore.lean ====
section
/-! DEFINITION. The ALU, Compare, Branch/call and Local load/store classes of the Seam instruction set (R74 to R78), one
definition for each instruction. -/

namespace Sys2Proof.Machine

/-- A command has had its effect: the counters count what happened in it, and OTP cells that it programs are programmed. -/
def State.settle (s : State) (m : Fjoek) : State :=
  let m := m.flush
  { s with fuses := m.hearth.burn.foldl Fuses.burn s.fuses, m := { m with hearth := { m.hearth with burn := [] } } }

/-- A command's effect on the module, in the block's outcome: it completes. -/
def State.on (s : State) (f : Fjoek → Fjoek) : Host.Outcome State Fault Refusal := .next (s.settle (f s.m))

/-- The same for a command that reads the OTP cells. -/
def State.onFuses (s : State) (f : Fuses → Fjoek → Fjoek) : Host.Outcome State Fault Refusal := s.on (f s.fuses)

/-! ## ALU (R74, R75) -/

/-- `add`: rd := ra + rb. -/
def execAdd (i : Issue) (rd ra rb : Fin 32) (s : State) := s.on fun m => m.alu2 i rd ra rb (· + ·)
/-- `sub`: rd := ra − rb. -/
def execSub (i : Issue) (rd ra rb : Fin 32) (s : State) := s.on fun m => m.alu2 i rd ra rb (· - ·)
/-- `and`. -/
def execAnd (i : Issue) (rd ra rb : Fin 32) (s : State) := s.on fun m => m.alu2 i rd ra rb (· &&& ·)
/-- `or`. -/
def execOr (i : Issue) (rd ra rb : Fin 32) (s : State) := s.on fun m => m.alu2 i rd ra rb (· ||| ·)
/-- `xor`. -/
def execXor (i : Issue) (rd ra rb : Fin 32) (s : State) := s.on fun m => m.alu2 i rd ra rb (· ^^^ ·)
/-- `andn`: rd := ra AND NOT rb. -/
def execAndn (i : Issue) (rd ra rb : Fin 32) (s : State) := s.on fun m => m.alu2 i rd ra rb fun a b => a &&& ~~~b
/-- `shl`. -/
def execShl (i : Issue) (rd ra rb : Fin 32) (s : State) := s.on fun m => m.alu2 i rd ra rb aluShl
/-- `shr`. -/
def execShr (i : Issue) (rd ra rb : Fin 32) (s : State) := s.on fun m => m.alu2 i rd ra rb aluShr
/-- `sar`. -/
def execSar (i : Issue) (rd ra rb : Fin 32) (s : State) := s.on fun m => m.alu2 i rd ra rb aluSar
/-- `rol`. -/
def execRol (i : Issue) (rd ra rb : Fin 32) (s : State) := s.on fun m => m.alu2 i rd ra rb aluRol
/-- `mul`: the low 64 bits. -/
def execMul (i : Issue) (rd ra rb : Fin 32) (s : State) := s.on fun m => m.alu2 i rd ra rb (· * ·)
/-- `mulhu`. -/
def execMulhu (i : Issue) (rd ra rb : Fin 32) (s : State) := s.on fun m => m.alu2 i rd ra rb aluMulhu
/-- `mulhs`. -/
def execMulhs (i : Issue) (rd ra rb : Fin 32) (s : State) := s.on fun m => m.alu2 i rd ra rb aluMulhs
/-- `min`, signed. -/
def execMin (i : Issue) (rd ra rb : Fin 32) (s : State) := s.on fun m => m.alu2 i rd ra rb aluMin
/-- `max`, signed. -/
def execMax (i : Issue) (rd ra rb : Fin 32) (s : State) := s.on fun m => m.alu2 i rd ra rb aluMax
/-- `minu`. -/
def execMinu (i : Issue) (rd ra rb : Fin 32) (s : State) := s.on fun m => m.alu2 i rd ra rb aluMinu
/-- `maxu`. -/
def execMaxu (i : Issue) (rd ra rb : Fin 32) (s : State) := s.on fun m => m.alu2 i rd ra rb aluMaxu
/-- `clz`. -/
def execClz (i : Issue) (rd ra : Fin 32) (s : State) := s.on fun m => m.alu1 i rd ra aluClz
/-- `popc`. -/
def execPopc (i : Issue) (rd ra : Fin 32) (s : State) := s.on fun m => m.alu1 i rd ra aluPopc
/-- `bswap`. -/
def execBswap (i : Issue) (rd ra : Fin 32) (s : State) := s.on fun m => m.alu1 i rd ra aluBswap
/-- `sel`: rd := ra if p[n] else rb. -/
def execSel (i : Issue) (rd ra rb : Fin 32) (pn : Fin 8) (s : State) := s.on fun m =>
  m.compute i [onlyWrites rd, ra.val, rb.val, readsPred pn] fun x =>
    x.wr rd.val (if x.pred pn.val then x.rd ra.val else x.rd rb.val)

/-- `bfx`. -/
def execBfx (i : Issue) (rd ra : Fin 32) (pos : BitVec 6) (len : BitVec 7) (s : State) := s.on fun m =>
  m.issueDefined i (fieldOk pos.toNat len.toNat) fun m =>
    m.alu1 i rd ra fun a => aluBfx a pos.toNat len.toNat
/-- `bfi`. -/
def execBfi (i : Issue) (rd ra : Fin 32) (pos : BitVec 6) (len : BitVec 7) (s : State) := s.on fun m =>
  m.issueDefined i (fieldOk pos.toNat len.toNat) fun m =>
    m.compute i [rd.val, ra.val] fun x => x.wr rd.val (aluBfi (x.rd rd.val) (x.rd ra.val) pos.toNat len.toNat)
/-- `gfmul`: eight byte-wise products in GF(2^8) modulo 0x11D (R75). -/
def execGfmul (i : Issue) (rd ra rb : Fin 32) (s : State) := s.on fun m =>
  m.alu2 i rd ra rb fun a b =>
    BitVec.ofNat 64 (ofBytes (((bytesOf 8 a.toNat).zip (bytesOf 8 b.toNat)).map fun p =>
      BitVec.ofNat 8 (gfMul p.1.toNat p.2.toNat)))
/-- `crc32c`: advance the state in rd[31:0] over the 8 bytes of ra (R75). -/
def execCrc32c (i : Issue) (rd ra : Fin 32) (s : State) := s.on fun m =>
  m.compute i [rd.val, ra.val] fun x =>
    x.wr rd.val (BitVec.ofNat 64 (crc32cRun ((x.rd rd.val).toNat % 2 ^ 32)
      ((bytesOf 8 (x.rd ra.val).toNat).map BitVec.toNat)))
/-- `addi`. -/
def execAddi (i : Issue) (rd ra : Fin 32) (imm : BitVec 39) (s : State) := s.on fun m =>
  m.alu1 i rd ra (· + sext64 imm)
/-- `andi`. -/
def execAndi (i : Issue) (rd ra : Fin 32) (imm : BitVec 39) (s : State) := s.on fun m =>
  m.alu1 i rd ra (· &&& sext64 imm)
/-- `ori`. -/
def execOri (i : Issue) (rd ra : Fin 32) (imm : BitVec 39) (s : State) := s.on fun m =>
  m.alu1 i rd ra (· ||| sext64 imm)
/-- `xori`. -/
def execXori (i : Issue) (rd ra : Fin 32) (imm : BitVec 39) (s : State) := s.on fun m =>
  m.alu1 i rd ra (· ^^^ sext64 imm)
/-- `shli`. -/
def execShli (i : Issue) (rd ra : Fin 32) (n : BitVec 6) (s : State) := s.on fun m =>
  m.alu1 i rd ra (· <<< n.toNat)
/-- `shri`. -/
def execShri (i : Issue) (rd ra : Fin 32) (n : BitVec 6) (s : State) := s.on fun m =>
  m.alu1 i rd ra (· >>> n.toNat)
/-- `sari`. -/
def execSari (i : Issue) (rd ra : Fin 32) (n : BitVec 6) (s : State) := s.on fun m =>
  m.alu1 i rd ra (·.sshiftRight n.toNat)
/-- `li`. -/
def execLi (i : Issue) (rd : Fin 32) (imm : BitVec 39) (s : State) := s.on fun m =>
  m.compute i [onlyWrites rd] fun x => x.wr rd.val (sext64 imm)
/-- `lih`. -/
def execLih (i : Issue) (rd : Fin 32) (imm : BitVec 32) (s : State) := s.on fun m =>
  m.compute i [rd.val] fun x => x.wr rd.val (aluLih (x.rd rd.val) imm)

/-! ## Compare (R76) -/

/-- `cmpeq`. -/
def execCmpeq (i : Issue) (pd : Fin 8) (ra rb : Fin 32) (v : Inv) (s : State) := s.on fun m => m.cmp2 i pd ra rb v cmpEq
/-- `cmpne`. -/
def execCmpne (i : Issue) (pd : Fin 8) (ra rb : Fin 32) (v : Inv) (s : State) := s.on fun m => m.cmp2 i pd ra rb v cmpNe
/-- `cmplt`. -/
def execCmplt (i : Issue) (pd : Fin 8) (ra rb : Fin 32) (v : Inv) (s : State) := s.on fun m => m.cmp2 i pd ra rb v cmpLt
/-- `cmple`. -/
def execCmple (i : Issue) (pd : Fin 8) (ra rb : Fin 32) (v : Inv) (s : State) := s.on fun m => m.cmp2 i pd ra rb v cmpLe
/-- `cmpltu`. -/
def execCmpltu (i : Issue) (pd : Fin 8) (ra rb : Fin 32) (v : Inv) (s : State) := s.on fun m => m.cmp2 i pd ra rb v cmpLtu
/-- `cmpleu`. -/
def execCmpleu (i : Issue) (pd : Fin 8) (ra rb : Fin 32) (v : Inv) (s : State) := s.on fun m => m.cmp2 i pd ra rb v cmpLeu
/-- `tst`. -/
def execTst (i : Issue) (pd : Fin 8) (ra rb : Fin 32) (v : Inv) (s : State) := s.on fun m => m.cmp2 i pd ra rb v cmpTst
/-- `cmpeqi`. -/
def execCmpeqi (i : Issue) (pd : Fin 8) (ra : Fin 32) (imm : BitVec 32) (v : Inv) (s : State) := s.on fun m =>
  m.cmp1 i pd ra imm v cmpEq
/-- `cmplti`. -/
def execCmplti (i : Issue) (pd : Fin 8) (ra : Fin 32) (imm : BitVec 32) (v : Inv) (s : State) := s.on fun m =>
  m.cmp1 i pd ra imm v cmpLt
/-- `cmpltui`. -/
def execCmpltui (i : Issue) (pd : Fin 8) (ra : Fin 32) (imm : BitVec 32) (v : Inv) (s : State) := s.on fun m =>
  m.cmp1 i pd ra imm v cmpLtu
/-- `plog`. -/
def execPlog (i : Issue) (pd pa pb : Fin 8) (tt : BitVec 4) (s : State) := s.on fun m =>
  m.compute i [readsPred pa, readsPred pb] fun x => x.setPred pd.val (cmpPlog tt (x.pred pa.val) (x.pred pb.val))

/-! ## Branch and call (R77) -/

/-- The strand branches, and the branch counts as taken (R489). -/
def Fjoek.branchTo (m : Fjoek) (k : Nat) (x : Strand) (t : BitVec 13) : Fjoek :=
  (m.perf (k / 8) (k % 8) 0x007 (some (k % 8, x.pc.toNat, x.gen))).setStrand k { x with pc := t }

/-- Push the next index and branch; a ninth push faults with cause 0x09. -/
def Fjoek.callTo (m : Fjoek) (k : Nat) (x : Strand) (t : BitVec 13) : Fjoek :=
  if 8 ≤ x.rets.length then m.faultStrand k 0x09
  else m.branchTo k { x with rets := (x.pc + 1) :: x.rets } t

/-- `br`: pc := pc + sext(off). -/
def execBr (i : Issue) (off : BitVec 13) (s : State) := s.on fun m =>
  m.issue i [] fun k x m => m.branchTo k x (x.pc + off)
/-- `call`. -/
def execCall (i : Issue) (target : BitVec 13) (s : State) := s.on fun m =>
  m.issue i [] fun k x m => m.callTo k x target
/-- `brr`: pc := ra[12:0]. -/
def execBrr (i : Issue) (ra : Fin 32) (s : State) := s.on fun m =>
  m.issue i [ra.val] fun k x m => m.branchTo k x ((x.rd ra.val).setWidth 13)
/-- `callr`. -/
def execCallr (i : Issue) (ra : Fin 32) (s : State) := s.on fun m =>
  m.issue i [ra.val] fun k x m => m.callTo k x ((x.rd ra.val).setWidth 13)
/-- `ret`: pc := pop; an empty stack faults with cause 0x09. -/
def execRet (i : Issue) (s : State) := s.on fun m =>
  m.issue i [] fun k x m =>
    match x.rets with
    | [] => m.faultStrand k 0x09
    | t :: r => m.branchTo k { x with rets := r } t
/-- `jtab`: if ra < bound, pc := base + ra. -/
def execJtab (i : Issue) (ra : Fin 32) (base bound : BitVec 13) (s : State) := s.on fun m =>
  m.issue i [ra.val] fun k x m =>
    if (x.rd ra.val).toNat < bound.toNat then m.branchTo k x (base + (x.rd ra.val).setWidth 13)
    else m.setStrand k x.next
/-- `loop`: rd := rd − 1, and branch while it is not zero. With rd = g0 nothing is written, and the branch goes by the value computed, −1:
the spec does not say which value is tested (assumption 70, DESIGN CHOICE). -/
def execLoop (i : Issue) (rd : Fin 32) (off : BitVec 13) (s : State) := s.on fun m =>
  m.issue i [rd.val] fun k x m =>
    let v := x.rd rd.val - 1
    let x := x.wr rd.val v
    if v ≠ 0 then m.branchTo k x (x.pc + off) else m.setStrand k x.next

/-! ## Local load and store (R78) -/

/-- A load of `n` bytes: rd := f of the bytes' value. -/
def Fjoek.lLoad (m : Fjoek) (i : Issue) (rd ra : Fin 32) (off : BitVec 18) (n : Nat) (f : Nat → Word64) : Fjoek :=
  m.issue i [onlyWrites rd, ra.val] fun k x m =>
    let a := address x ra off
    match m.lFault i.e.val a n true with
    | some c => m.faultStrand k c
    | none =>
      (m.perf i.e.val i.s.val 0x008 (some (i.s.val, x.pc.toNat, x.gen))).setStrand k
        (x.wr rd.val (f (m.lNat i.e.val a n))).next

/-- A store of the low `n` bytes of rb; fewer than 8 bytes must merge into the word (R42). -/
def Fjoek.lStore (m : Fjoek) (i : Issue) (ra rb : Fin 32) (off : BitVec 18) (n : Nat) : Fjoek :=
  m.issue i [ra.val, rb.val] fun k x m =>
    let a := address x ra off
    match m.lFault i.e.val a n (decide (n < 8)) with
    | some c => m.faultStrand k c
    | none =>
      ((m.perf i.e.val i.s.val 0x009 (some (i.s.val, x.pc.toNat, x.gen))).lPut i.e.val a
        (bytesOf n (x.rd rb.val).toNat)).setStrand k x.next

/-- An atomic on 8 aligned bytes of L: the new value is `f old rd rb`. `use` is the use of rd. -/
def Fjoek.lAtomic (m : Fjoek) (i : Issue) (use : Nat) (rd ra rb : Fin 32) (off : BitVec 18)
    (f : Word64 → Word64 → Word64 → Word64) : Fjoek :=
  m.issue i [use, ra.val, rb.val] fun k x m =>
    let a := address x ra off
    match m.lFault i.e.val a 8 true with
    | some c => m.faultStrand k c
    | none =>
      let old : Word64 := BitVec.ofNat 64 (m.lNat i.e.val a 8)
      (m.lPut i.e.val a (bytesOf 8 (f old (x.rd rd.val) (x.rd rb.val)).toNat)).setStrand k (x.wr rd.val old).next

/-- `ldb`. -/
def execLdb (i : Issue) (rd ra : Fin 32) (off : BitVec 18) (s : State) := s.on fun m =>
  m.lLoad i rd ra off 1 (BitVec.ofNat 64)
/-- `ldh`. -/
def execLdh (i : Issue) (rd ra : Fin 32) (off : BitVec 18) (s : State) := s.on fun m =>
  m.lLoad i rd ra off 2 (BitVec.ofNat 64)
/-- `ldw`. -/
def execLdw (i : Issue) (rd ra : Fin 32) (off : BitVec 18) (s : State) := s.on fun m =>
  m.lLoad i rd ra off 4 (BitVec.ofNat 64)
/-- `ldd`. -/
def execLdd (i : Issue) (rd ra : Fin 32) (off : BitVec 18) (s : State) := s.on fun m =>
  m.lLoad i rd ra off 8 (BitVec.ofNat 64)
/-- `ldbs`. -/
def execLdbs (i : Issue) (rd ra : Fin 32) (off : BitVec 18) (s : State) := s.on fun m =>
  m.lLoad i rd ra off 1 fun v => sext64 (BitVec.ofNat 8 v)
/-- `ldhs`. -/
def execLdhs (i : Issue) (rd ra : Fin 32) (off : BitVec 18) (s : State) := s.on fun m =>
  m.lLoad i rd ra off 2 fun v => sext64 (BitVec.ofNat 16 v)
/-- `ldws`. -/
def execLdws (i : Issue) (rd ra : Fin 32) (off : BitVec 18) (s : State) := s.on fun m =>
  m.lLoad i rd ra off 4 fun v => sext64 (BitVec.ofNat 32 v)
/-- `stb`. -/
def execStb (i : Issue) (ra rb : Fin 32) (off : BitVec 18) (s : State) := s.on fun m => m.lStore i ra rb off 1
/-- `sth`. -/
def execSth (i : Issue) (ra rb : Fin 32) (off : BitVec 18) (s : State) := s.on fun m => m.lStore i ra rb off 2
/-- `stw`. -/
def execStw (i : Issue) (ra rb : Fin 32) (off : BitVec 18) (s : State) := s.on fun m => m.lStore i ra rb off 4
/-- `std`: also makes an uncorrectable word whole (R42). -/
def execStd (i : Issue) (ra rb : Fin 32) (off : BitVec 18) (s : State) := s.on fun m => m.lStore i ra rb off 8
/-- `lcas`: if L[a] = rd then L[a] := rb; rd := old. -/
def execLcas (i : Issue) (rd ra rb : Fin 32) (off : BitVec 18) (s : State) := s.on fun m =>
  m.lAtomic i rd.val rd ra rb off fun old c d => if old = c then d else old
/-- `lfadd`: L[a] := old + rb; rd := old. -/
def execLfadd (i : Issue) (rd ra rb : Fin 32) (off : BitVec 18) (s : State) := s.on fun m =>
  m.lAtomic i (onlyWrites rd) rd ra rb off fun old _ d => old + d

end Sys2Proof.Machine
end

