-- ==== Sys2Proof/Machine/SeamAccess.lean ====
section
/-! DEFINITION. The Global access, Bulk issue, Event, Budget, Twin and System classes of the Seam instruction set (R79 to
R88, R90): what each does at issue. An H, B, Q or R access takes effect when it completes (ACCESS_COMPLETE). -/

namespace Sys2Proof.Machine

/-! ## Outstanding accesses (R73) -/

/-- Eight accesses are outstanding: a ninth does not issue. -/
def Strand.accsFull (_ : Fjoek) (x : Strand) : Option StallFor := if 8 ≤ x.accs.length then some .access else none

/-- Add an access to the strand and go on. -/
def Fjoek.startAccess (m : Fjoek) (k event : Nat) (x : Strand) (a : Access) : Fjoek :=
  (m.perf (k / 8) (k % 8) event (some (k % 8, x.pc.toNat, x.gen))).setStrand k
    { x.next with accs := x.accs ++ [a] }

/-- The access of an H instruction: window, staging region for a write, then alignment (R71, R79). -/
def Fjoek.hAccess (m : Fjoek) (i : Issue) (uses : List Nat) (ra : Fin 32) (off : BitVec 24) (writes : Bool)
    (mk : Strand → Nat → Access) : Fjoek :=
  m.issueHold i (ra.val :: uses) Strand.accsFull fun k x m =>
    let a := address x ra off
    if !m.inHwin i.e.val a 1 then m.faultStrand k 0x04
    else if writes && m.inStaging a 8 then m.faultStrand k 0x04
    else if a % 8 ≠ 0 then m.faultStrand k 0x06
    else m.startAccess k 0x00A x (mk x a)

/-- `hld`. -/
def execHld (i : Issue) (rd ra : Fin 32) (off : BitVec 24) (pe : Fin 8) (s : State) := s.on fun m =>
  m.hAccess i [onlyWrites rd] ra off false fun _ a =>
    { kind := .hld, rd := rd.val, pe := pe.val, addr := a, off := 0, data := 0, cmp := 0, hung := false }
/-- `hst`. -/
def execHst (i : Issue) (ra rb : Fin 32) (off : BitVec 24) (s : State) := s.on fun m =>
  m.hAccess i [rb.val] ra off true fun x a =>
    { kind := .hst, rd := 0, pe := 0, addr := a, off := 0, data := x.rd rb.val, cmp := 0, hung := false }
/-- `hcas`. -/
def execHcas (i : Issue) (rd ra rb : Fin 32) (off : BitVec 24) (pe : Fin 8) (s : State) := s.on fun m =>
  m.hAccess i [rd.val, rb.val] ra off true fun x a =>
    { kind := .hcas, rd := rd.val, pe := pe.val, addr := a, off := 0, data := x.rd rb.val, cmp := x.rd rd.val,
      hung := false }
/-- `hfadd`. -/
def execHfadd (i : Issue) (rd ra rb : Fin 32) (off : BitVec 24) (pe : Fin 8) (s : State) := s.on fun m =>
  m.hAccess i [onlyWrites rd, rb.val] ra off true fun x a =>
    { kind := .hfadd, rd := rd.val, pe := pe.val, addr := a, off := 0, data := x.rd rb.val, cmp := 0, hung := false }

/-! ## Leases (R81, R95) -/

/-- Give the strand its answer of `lease`. On a trailing twin the lead's answer decides, and a handle that cannot be given
is a divergence (R360). Until it holds the lead's answer the instruction does not issue, and `m0` stands. -/
def Fjoek.doLease (m m0 : Fjoek) (k rd : Nat) (x : Strand) (n : Nat) : Fjoek :=
  if m.trailing then
    match m.takeValue k rd with
    | none => m0
    | some (0, m) => m.setStrand k (x.wr rd 0).next
    | some (_, m) =>
      let (h, m) := m.giveLease k x.cls.toNat n
      let m := m.when (h == 0) fun m => m.diverge m.twin.epoch
      m.setStrand k (x.wr rd (BitVec.ofNat 64 h)).next
  else
    let (h, m) := m.giveLease k x.cls.toNat n
    (m.logValue k rd (bnat (h != 0))).setStrand k (x.wr rd (BitVec.ofNat 64 h)).next

/-- `lease`. -/
def execLease (i : Issue) (rd ra : Fin 32) (s : State) := s.on fun m0 =>
  m0.issue i [onlyWrites rd, ra.val] fun k x m => m.doLease m0 k rd.val x (x.rd ra.val).toNat

/-- `lsize`. -/
def execLsize (i : Issue) (rd ra : Fin 32) (s : State) := s.on fun m =>
  m.issue i [onlyWrites rd, ra.val] fun k x m =>
    match m.leaseOf k (x.rd ra.val).toNat with
    | none => m.faultStrand k 0x05
    | some l => m.setStrand k (x.wr rd.val (BitVec.ofNat 64 (m.leaseAt l).cells.length)).next
/-- `lrel`. -/
def execLrel (i : Issue) (ra : Fin 32) (s : State) := s.on fun m =>
  m.issue i [ra.val] fun k x m =>
    match m.leaseOf k (x.rd ra.val).toNat with
    | none => m.faultStrand k 0x05
    | some l => ((m.releaseLease l).setStrand k x.next).settleGroup (k / 32)

/-! ## B accesses (R82) -/

/-- A B access of 8 bytes: handle and bounds, then alignment. The sum rb + off wraps at 64 bits before the bounds are checked, as the
sums of R78 and R79 do: R82 gives the sum and no width (assumption 70, DEDUCED). `use` is the use of rd. -/
def Fjoek.bAccess (m : Fjoek) (i : Issue) (use : Nat) (ra rb : Fin 32) (off : BitVec 22) (mk : Strand → Nat → Nat → Access) :
    Fjoek :=
  m.issueHold i [use, ra.val, rb.val] Strand.accsFull fun k x m =>
    match m.leaseOf k (x.rd ra.val).toNat with
    | none => m.faultStrand k 0x05
    | some l =>
      let o := addressU x rb off
      let q := m.leaseAt l
      if 256 * q.cells.length < o + 8 then m.faultStrand k 0x05
      else if o % 8 ≠ 0 then m.faultStrand k 0x06
      else m.startAccess k 0x00B x (mk x l o)

/-- `bld`. -/
def execBld (i : Issue) (rd ra rb : Fin 32) (off : BitVec 22) (pe : Fin 8) (s : State) := s.on fun m =>
  m.bAccess i (onlyWrites rd) ra rb off fun _ l o =>
    { kind := .bld, rd := rd.val, pe := pe.val, addr := o, off := l, data := 0, cmp := 0, hung := false }
/-- `bst`: its data is rd. -/
def execBst (i : Issue) (rd ra rb : Fin 32) (off : BitVec 22) (s : State) := s.on fun m =>
  m.bAccess i rd.val ra rb off fun x l o =>
    { kind := .bst, rd := 0, pe := 0, addr := o, off := l, data := x.rd rd.val, cmp := 0, hung := false }

/-! ## R accesses (R83) -/

/-- An R access: privileged strands only; the strand is in STALL until it completes. -/
def Fjoek.rAccess (m : Fjoek) (i : Issue) (uses : List Nat) (ra : Fin 32) (off : BitVec 24) (mk : Strand → Nat → Access) :
    Fjoek :=
  m.issue i (ra.val :: uses) fun k x m =>
    if !m.privileged k then m.faultStrand k 0x02
    else
      let a := mk x (addressU x ra off)
      let m := if a.kind = .rst then m.digestAt (m.engineEpoch (k / 8)) (itemBytes 4 [a.addr, a.data.toNat % 2 ^ 32]) else m
      m.startAccess k 0x00C { x with mode := .stall } a

/-- `rld`. -/
def execRld (i : Issue) (rd ra : Fin 32) (off : BitVec 24) (s : State) := s.on fun m =>
  m.rAccess i [onlyWrites rd] ra off fun _ a =>
    { kind := .rld, rd := rd.val, pe := 0, addr := a, off := 0, data := 0, cmp := 0, hung := false }
/-- `rst`: it enters the digest at issue (R366). -/
def execRst (i : Issue) (ra rb : Fin 32) (off : BitVec 24) (s : State) := s.on fun m =>
  m.rAccess i [rb.val] ra off fun x a =>
    { kind := .rst, rd := 0, pe := 0, addr := a, off := 0, data := x.rd rb.val, cmp := 0, hung := false }

/-! ## Bulk issue (R84) -/

/-- The fault of a descriptor at L address `a`, if it has one, in the order of R71: an address outside L, a wrong handle, a misaligned
address, lost bytes. A misaligned descriptor that runs past the end of L spells no handles (assumption 65). -/
def Fjoek.bulkFault (m : Fjoek) (k : Nat) (x : Strand) (a : Nat) : Option Nat :=
  let e := k / 8
  if 0x40000 ≤ a then some 0x03
  else if a + 64 ≤ 0x40000 ∧ !m.handlesOk k (m.descFrom k x a) then some 0x05
  else if a % 64 ≠ 0 then some 0x06
  else if (List.range 8).any fun j => tableGet (fun _ => false) m.seam.lue (32768 * e + a / 8 + j) then some 0x0A
  else none

/-- The descriptor at L address `a` joins the cluster's queue, and the strand goes on as `y`. -/
def Fjoek.bulkQueue (m : Fjoek) (k : Nat) (x : Strand) (a : Nat) (y : Strand) : Fjoek :=
  ((m.perf (k / 8) (k % 8) 0x011 (some (k % 8, x.pc.toNat, x.gen))).queueDesc (m.descFrom k x a)).setStrand k y

/-- `bulk`: STALL while the cluster queue is full. -/
def execBulk (i : Issue) (ra : Fin 32) (s : State) := s.on fun m =>
  m.issueHold i [ra.val] (fun m _ => if m.queueFree (i.e.val / 4) = 0 then some .queue else none) fun k x m =>
    let a := (x.rd ra.val).toNat
    match m.bulkFault k x a with
    | some c => m.faultStrand k c
    | none => m.bulkQueue k x a x.next
/-- `tbulk`: a right descriptor is queued where the queue has room, and rd says whether it was. -/
def execTbulk (i : Issue) (rd ra : Fin 32) (s : State) := s.on fun m0 =>
  m0.issue i [onlyWrites rd, ra.val] fun k x m =>
    let a := (x.rd ra.val).toNat
    match m.bulkFault k x a with
    | some c => m.faultStrand k c
    | none =>
      m.logged k rd.val (bnat (m.queueFree (i.e.val / 4) != 0)) (fun v m =>
        if v = 0 then m.setStrand k (x.wr rd.val 0).next else m.bulkQueue k x a (x.wr rd.val 1).next) m0

/-- `bqfree`. -/
def execBqfree (i : Issue) (rd : Fin 32) (s : State) := s.on fun m0 =>
  m0.issue i [onlyWrites rd] fun k x m =>
    m.logged k rd.val (m.queueFree (i.e.val / 4)) (fun v m => m.setStrand k (x.wr rd.val (BitVec.ofNat 64 v)).next) m0

/-! ## Events (R85, R86) -/

/-- The slots that `wait` packs in a register. -/
def waitSlots (v : Nat) : List (Option Nat) :=
  [0, 1, 2, 3].map fun i => if bitOf v (16 * i + 15) then some (bitsOf v (16 * i + 9) (16 * i)) else none

/-- `wait`. -/
def execWait (i : Issue) (rd ra : Fin 32) (s : State) := s.on fun m =>
  m.issue i [onlyWrites rd, ra.val] fun k x m => m.beginWait k rd.val (waitSlots (x.rd ra.val).toNat)
/-- `waiti`: an n of 0 makes the word undefined. -/
def execWaiti (i : Issue) (rd : Fin 32) (n : BitVec 2) (t0 t1 t2 : BitVec 10) (s : State) := s.on fun m =>
  m.issueDefined i (decide (n ≠ 0)) fun m =>
    m.issue i [onlyWrites rd] fun k _ m =>
      m.beginWait k rd.val ([some t0.toNat, if 2 ≤ n.toNat then some t1.toNat else none,
        if 3 ≤ n.toNat then some t2.toNat else none, none])
/-- A post on its way whose verdict a later write of the same register has overtaken. -/
def TagPost.overtaken (p : TagPost) (k rd : Nat) : TagPost :=
  match p.verdict with
  | some (e, s, r) => if 8 * e + s = k ∧ r = rd then { p with verdict := some (e, s, 0) } else p
  | none => p

/-- `post`: a tag its own engine discards answers 0 at once; otherwise the verdict follows the tag (R86). -/
def execPost (i : Issue) (rd ra rb : Fin 32) (s : State) := s.on fun m =>
  m.issue i [onlyWrites rd, ra.val, rb.val] fun k x m =>
    let t := (x.rd rb.val).toNat % 1024
    let e := (x.rd ra.val).toNat % 64
    if t = 0 ∨ 0x3F0 ≤ t then m.setStrand k (x.wr rd.val 0).next
    else
      let p : TagPost := { tag := t, engine := e, verdict := some (i.e.val, i.s.val, rd.val) }
      let y : Strand := { x.next with posts := if rd.val = 0 then x.posts else x.posts.filter (· != rd.val) ++ [rd.val] }
      Fjoek.setStrand { m with seam := { m.seam with flight := m.seam.flight.map (·.overtaken k rd.val) ++ [p] } } k y
/-- `timer`: arm or cancel the strand's timer. -/
def execTimer (i : Issue) (ra : Fin 32) (s : State) := s.on fun m =>
  m.compute i [ra.val] fun x => { x with timer := (x.rd ra.val).toNat % 2 ^ 32 }
/-- `tagcnt`: for tag 0, the items in the cluster's dispatch queue. -/
def execTagcnt (i : Issue) (rd : Fin 32) (tag : BitVec 10) (s : State) := s.on fun m =>
  m.issue i [onlyWrites rd] fun k x m =>
    let v := if tag = 0 then (m.queue (i.e.val / 4)).length else m.tagCount i.e.val tag.toNat
    m.setStrand k (x.wr rd.val (BitVec.ofNat 64 v)).next

/-! ## Budget (R87) -/

/-- `draw` and `draw.try`; without `try` the rd field is unused and must be 0 (R67). -/
def execDraw (i : Issue) (rd ra : Fin 32) (try_ : Bool) (s : State) := s.on fun m0 =>
  m0.issueDefined i (try_ || decide (rd.val = 0)) fun m1 => m1.issue i [onlyWrites rd, ra.val] fun k x m =>
    let n := (x.rd ra.val).toNat % 2 ^ 20
    let by_ := some (i.s.val, x.pc.toNat, x.gen)
    let m := m.perf i.e.val i.s.val 0x013 by_
    if try_ then
      if m.trailing then
        match m.takeValue k rd.val with
        | none => m0
        | some (v, m) => (if v = 0 then m else m.take x.cls.toNat n).setStrand k (x.wr rd.val (BitVec.ofNat 64 v)).next
      else
        let (ok, m) := m.tryTake x.cls.toNat n
        (m.logValue k rd.val (bnat ok)).setStrand k (x.wr rd.val (BitVec.ofNat 64 (bnat ok))).next
    else
      let (ok, m) := m.request x.cls.toNat n (.strand k)
      if ok then (if n = 0 then m else m.logTwin 0x07 i.e.val [x.cls.toNat, k]).setStrand k x.next
      else (m.perf i.e.val i.s.val 0x014 by_).setStrand k { x.next with mode := .wait, waitFor := .tokens }

/-- `refund`. -/
def execRefund (i : Issue) (ra : Fin 32) (s : State) := s.on fun m =>
  m.issue i [ra.val] fun k x m => (m.setStrand k x.next).refundTokens x.cls.toNat ((x.rd ra.val).toNat % 2 ^ 20)
/-- `class`: 6 and 7 fault with cause 0x08. With `imm_en` = 0 the immediate field is reserved, and with it set ra is
(R67). -/
def execClassSet (i : Issue) (ra : Fin 32) (immEn : Bool) (n : BitVec 3) (s : State) := s.on fun m =>
  m.issueDefined i (if immEn then decide (ra.val = 0) else decide (n = 0)) fun m =>
    m.issue i (if immEn then [] else [ra.val]) fun k x m =>
      let v := if immEn then n.toNat else (x.rd ra.val).toNat % 8
      if 6 ≤ v then m.faultStrand k 0x08 else m.setStrand k { x.next with cls := BitVec.ofNat 3 v }

/-! ## Twin (R88) -/

/-- `note`. -/
def execNote (i : Issue) (rd ra : Fin 32) (s : State) := s.on fun m0 =>
  m0.issue i [onlyWrites rd, ra.val] fun k x m =>
    m.logged k rd.val (x.rd ra.val).toNat (fun v m => m.setStrand k (x.wr rd.val (BitVec.ofNat 64 v)).next) m0

/-- `fence`: on a lead, wait for the acknowledgement of every earlier record and of every twin-bound MOVE that the strand has issued. A
trailing twin takes the lead's result, at the round that the log names; until then the strand waits as the lead's did. -/
def execFence (i : Issue) (rd : Fin 32) (s : State) := s.on fun m =>
  m.issue i [onlyWrites rd] fun k x m =>
    if m.trailing then
      match m.takeValue k rd.val with
      | none => m.setStrand k { x.next with mode := .wait, waitFor := .ack rd.val 0 [] }
      | some (v, m) => m.setStrand k (x.wr rd.val (BitVec.ofNat 64 v)).next
    else if !m.leads then m.setStrand k (x.wr rd.val 0).next
    else if m.twin.nextSeq ≤ m.twin.acked + 1 ∧ m.twinMoves k = [] then
      (m.logValue k rd.val 1).setStrand k (x.wr rd.val 1).next
    else
      let q := m.twin.nextSeq - 1
      m.setStrand k { x.next with mode := .wait, waitFor := .ack rd.val q (m.twinMoves k) }

/-! ## System (R90) -/

/-- `nop`. -/
def execNop (i : Issue) (s : State) := s.on fun m => m.compute i [] id
/-- `yield`: the next scan starts after this strand, as after every instruction (R34). -/
def execYieldScan (i : Issue) (s : State) := s.on fun m => m.compute i [] id
/-- `rdtime`. -/
def execRdtime (i : Issue) (rd : Fin 32) (s : State) := s.on fun m0 =>
  m0.issue i [onlyWrites rd] fun k x m =>
    m.logged k rd.val m.time (fun v m => m.setStrand k (x.wr rd.val (BitVec.ofNat 64 v)).next) m0

/-- `rdcnt`: counters 9 to 15 are undefined. -/
def execRdcnt (i : Issue) (rd : Fin 32) (n : BitVec 4) (s : State) := s.on fun m0 =>
  m0.issueDefined i (decide (n.toNat < 9)) fun m1 =>
    m1.issue i [onlyWrites rd] fun k x m =>
      m.logged k rd.val (m.reg64 (PMON_ECYC_LO i.e.val + 8 * n.toNat)) (fun v m =>
        m.setStrand k (x.wr rd.val (BitVec.ofNat 64 v)).next) m0

/-- The identity of strand `k`. -/
def Fjoek.identity (m : Fjoek) (k : Nat) (x : Strand) : Nat :=
  bnat (m.privileged k) * 2 ^ 50 + m.get TOP_STRAP_twin * 2 ^ 49 + m.get SEAM_CTL_instep * 2 ^ 48 + x.gen * 2 ^ 32 +
    k / 32 * 2 ^ 16 + k % 8 * 2 ^ 8 + k / 8
/-- `rdid`. -/
def execRdid (i : Issue) (rd : Fin 32) (s : State) := s.on fun m =>
  m.issue i [onlyWrites rd] fun k x m => m.setStrand k (x.wr rd.val (BitVec.ofNat 64 (m.identity k x))).next
/-- `rand`: 64 bits of the entropy source, a free value. -/
def execRand (i : Issue) (rd : Fin 32) (s : State) := s.on fun m0 =>
  m0.issue i [onlyWrites rd] fun k x m =>
    let (r, m) := m.free64
    m.logged k rd.val r.toNat (fun v m => m.setStrand k (x.wr rd.val (BitVec.ofNat 64 v)).next) m0

/-- `mfence`: nothing further issues until the strand's accesses have completed. -/
def execMfence (i : Issue) (s : State) := s.on fun m =>
  m.issue i [] fun k x m =>
    if x.accs = [] then m.setStrand k x.next else m.setStrand k { x.next with mode := .stall, fencing := true }

/-- Sources that a program can raise (R485). -/
def raisable (e : Nat) : Bool :=
  decide ((352 ≤ e ∧ e ≤ 355) ∨ e = 357 ∨ (359 ≤ e ∧ e ≤ 383) ∨ e = 484 ∨ e = 489 ∨ e = 490 ∨ (507 ≤ e ∧ e ≤ 511))

/-- A program raises source `e`: its cause bit, where it has one, is set, and it latches in any case (R485). -/
def Fjoek.raiseEvent (m : Fjoek) (e : Nat) : Bool × Fjoek :=
  if !raisable e then (false, m)
  else
    let m := if e = 484 ∨ e = 489 ∨ e = 490 then m.put ⟨DAMP_ESTAT, e - 480, e - 480⟩ 1 else m
    (true, m.latch e)

/-- `evset`: privileged. -/
def execEvset (i : Issue) (rd ra : Fin 32) (s : State) := s.on fun m =>
  m.issue i [onlyWrites rd, ra.val] fun k x m =>
    if !m.privileged k then m.faultStrand k 0x02
    else
      let (ok, m) := m.raiseEvent ((x.rd ra.val).toNat % 512)
      m.setStrand k (x.wr rd.val (BitVec.ofNat 64 (bnat ok))).next

end Sys2Proof.Machine
end

