-- ==== Sys2Proof/Machine/Signing.lean ====
section
/-! DEFINITION. Signed images: the key hashes of the OTP shadow (R400, R401) and checks 3 to 5 that the Seam loader (R49) and
the boot ROM (R399, R473) share. -/

namespace Sys2Proof.Machine

/-- Bytes `o` to `o + n − 1` of the OTP shadow. -/
def Fjoek.otpBytes (m : Fjoek) (o n : Nat) : List Nat :=
  (List.range n).map fun i => bitsOf (m.reg (OTP_REC ((o + i) / 4))) (8 * ((o + i) % 4) + 7) (8 * ((o + i) % 4))

/-- The key hash of slot `k`, if the slot holds one that is not revoked. -/
def Fjoek.keyHash (m : Fjoek) (k : Nat) : Option (List Nat) :=
  let h := m.otpBytes (0x140 + 48 * k) 48
  if 2 < k ∨ h.all (· == 0) ∨ bitOf (m.get OTP_STAT_revoked) k then none else some h

/-- Checks 3, 4 and 5 of a signed image, from its 512-byte header and its body: 0 when all pass. -/
def Fjoek.signCheck (m : Fjoek) (hdr body : List Nat) : Nat :=
  match m.keyHash (nth hdr 0x40 0) with
  | none => 3
  | some h =>
    let pub := (hdr.drop 0x80).take 97
    if sha384 pub ≠ h then 4
    else if !ecdsaOk pub ((hdr.drop 0x100).take 96) (sha384 (hdr.take 0x100 ++ body)) then 5
    else 0

/-- The little-endian number of `n` header bytes at `o`. -/
def hdrNat (hdr : List Nat) (o n : Nat) : Nat := ofBytes (((hdr.drop o).take n).map (BitVec.ofNat 8))

/-- Header bytes `o` to `o + n − 1` are all 0. -/
def hdrZero (hdr : List Nat) (o n : Nat) : Bool := ((hdr.drop o).take n).all (· == 0)

end Sys2Proof.Machine
end

