-- ==== Sys2Proof/Machine/SeamControl.lean ====
section
/-! DEFINITION. Strand and engine resets, drain, parking, in-step mode, tag arrival and timers, and the SEAM loader (R38, R47
to R57, R64, R65), and undefined words (R67). -/

namespace Sys2Proof.Machine

/-! ## Tags on their way and timers -/

/-- A post from outside an engine takes effect between the engine's rounds (R56). -/
def Fjoek.boundary (m : Fjoek) (e : Nat) (p : TagPost) : Bool :=
  !m.inRound e ||
    (match p.verdict with
     | some (e', _, _) => e' == e
     | none => false)

/-- The verdict of a `post` returns to its register (R86). -/
def Fjoek.verdict (m : Fjoek) (v : Option (Nat × Nat × Nat)) (ok : Nat) : Fjoek :=
  match v with
  | none => m
  | some (e, s, rd) =>
    let x := m.strand (8 * e + s)
    if x.posts.contains rd then m.setStrand (8 * e + s) (x.wr rd (BitVec.ofNat 64 ok)) else m

/-- TAG_POST_ARRIVAL: the post at place `n` of those on their way reaches its engine. -/
def execTagPostArrival (n : Nat) (s : State) := s.on fun m0 =>
  match m0.seam.flight[n]? with
  | none => m0
  | some p =>
    if !m0.runs 3 ∨ !m0.boundary p.engine p then m0
    else
      let m : Fjoek := { m0 with seam := { m0.seam with flight := dropNth m0.seam.flight n } }
      let (ok, m) := m.deliverTag p.engine p.tag
      match p.verdict with
      | none => m
      | some (e, t, rd) => m.logged (8 * e + t) rd (bnat ok) (fun v m => m.verdict p.verdict v) m0

/-- The strand's timer expires and posts its private tag once (R86); on a trailing twin only by the log (R355). -/
def Fjoek.timerExpire (m : Fjoek) (k : Nat) : Fjoek :=
  let x := m.strand k
  if x.timer = 0 then m else (m.setStrand k { x with timer := 0 }).postPrivate (k / 8) (0x3F8 + k % 8)

/-- STRAND_TIMER_EXPIRY. -/
def execStrandTimerExpiry (e : Fin 64) (t : Fin 8) (s : State) := s.on fun m =>
  let k := 8 * e.val + t.val
  if !m.runs 3 ∨ m.trailing ∨ (m.strand k).timer = 0 then m
  else (m.logTwin 0x06 e.val [0, k]).timerExpire k

/-! ## Commands that software gives to SEAM (R64) -/

/-- The register write of value `v` at `a` that a row of SEAM stands for, by a core: a lead logs it, and a trailing twin takes it
from the log alone (R56, R64, R362). `act` is its effect. -/
def Fjoek.seamWrite (m : Fjoek) (a v : Nat) (act : Fjoek → Fjoek) : Fjoek :=
  if m.trailing then (m.count TWIN_LOCALREJ_LO 1).cause TWIN_ESTAT_localrej 475
  else act (m.logCmd a v)

/-- The same for a write that changes one field of a register. -/
def Fjoek.seamPut (m : Fjoek) (f : Fld) (v : Nat) (act : Fjoek → Fjoek) : Fjoek :=
  m.seamWrite f.addr (withBits (m.reg f.addr) f.hi f.lo v) act

/-! ## Strand reset (R47) -/

/-- STRAND_RESET. -/
def execStrandReset (e : Fin 64) (t : Fin 8) (s : State) := s.on fun m =>
  m.seamPut (SEAM_STRCTL_reset e.val t.val) 1 fun m => m.strandResetWrite (8 * e.val + t.val)

/-- STRAND_RESET_RESTART: the reset strand's last started descriptor has completed. -/
def execStrandResetRestart (e : Fin 64) (t : Fin 8) (s : State) := s.on fun m =>
  let k := 8 * e.val + t.val
  if (m.strand k).mode = .resetting ∧ m.quiet k ∧ !tableGet (fun _ => false) m.seam.resetting e.val then
    ((m.restartStrand k).settleGroup (k / 32)).dispatch
  else m

/-! ## Engine Block reset (R65) -/

/-- Step 5: every strand of engine `e` restarts with the group's stamp. -/
def Fjoek.restartEngine (m : Fjoek) (e : Nat) : Fjoek :=
  let m : Fjoek := { m with seam := { m.seam with resetting := tableSet (fun _ => false) m.seam.resetting e false } }
  let m := m.each (List.range 8) fun t m =>
    let m := m.restartStrand (8 * e + t)
    m.setStrand (8 * e + t) { m.strand (8 * e + t) with gen := m.get (SEAM_GSTAT_gen (e / 4)) }
  (m.settleGroup (e / 4)).dispatch

/-- Steps 1 to 3 for engine `e`, and 4 and 5 at once where no descriptor had started. -/
def Fjoek.engineReset (m : Fjoek) (e : Nat) : Fjoek :=
  let m := Fjoek.put { m with seam := { m.seam with acts := m.seam.acts.filter fun a => a.engine != e } } (SEAM_ECTL_park e) 0
  let m := m.each (List.range 8) fun t m => (m.clearStrand (8 * e + t)).put (SEAM_STRCTL_drain e t) 0
  let t := m.seam.tags.filter fun p => p.1 / 1024 != e
  let m : Fjoek := { m with seam := { m.seam with
    tags := t, resetting := tableSet (fun _ => false) m.seam.resetting e true } }
  let m := m.setReg (SEAM_ESTAT e) 0
  if (List.range 8).all fun t => m.quiet (8 * e + t) then m.restartEngine e else m

/-- ENGINE_RESET_RESTART: the last started descriptor of a reset engine has completed. -/
def execEngineResetRestart (e : Fin 64) (s : State) := s.on fun m =>
  if tableGet (fun _ => false) m.seam.resetting e.val ∧ (List.range 8).all fun t => m.quiet (8 * e.val + t) then
    m.restartEngine e.val
  else m

/-! ## Drain and parking (R52 to R54) -/

/-- A write of SEAM_GCTL.drain of group `g`; the loader ignores it while it writes or holds the group (R50). -/
def Fjoek.drainWrite (m : Fjoek) (g : Nat) (d : Bool) : Fjoek :=
  if m.isOn (SEAM_GSTAT_busy g) ∨ tableGet (fun _ => false) m.seam.held g then m
  else
    let was := m.isOn (SEAM_GCTL_drain g)
    let m := m.put (SEAM_GCTL_drain g) (bnat d)
    let m := m.put (SEAM_GSTAT_drained g) (bnat (m.groupDrained g))
    let m := m.when (d && !was && m.groupDrained g) fun m => m.cause (SEAM_ESTAT_gdrain (4 * g)) (272 + 4 * g)
    m.dispatch

/-- GROUP_DRAIN_WRITE. -/
def execGroupDrainWrite (g : Fin 16) (drain : Bool) (s : State) := s.on fun m =>
  m.seamPut (SEAM_GCTL_drain g.val) (bnat drain) fun m => m.drainWrite g.val drain

/-- GROUP_DRAIN_TIMEOUT: the drain timer runs out before the group is drained. -/
def execGroupDrainTimeout (g : Fin 16) (s : State) := s.on fun m =>
  if m.isOn (SEAM_GCTL_drain g.val) ∧ m.get (SEAM_GCTL_drtmr g.val) ≠ 0 ∧ !m.groupDrained g.val then
    m.cause (SEAM_ESTAT_gdrain_to (4 * g.val)) (272 + 4 * g.val)
  else m

/-- ENGINE_PARK. -/
def execEnginePark (e : Fin 64) (park : Bool) (s : State) := s.on fun m =>
  m.seamPut (SEAM_ECTL_park e.val) (bnat park) fun m => m.parkWrite e.val park

/-! ## In-step mode (R57) -/

/-- A write of SEAM_CTL.instep. In-step mode that is already on goes on with its rounds. -/
def Fjoek.instepWrite (m : Fjoek) (v : Bool) : Fjoek :=
  if !v then m.leaveInstep
  else if (List.range 512).all fun k => m.drained k then
    if m.isOn SEAM_CTL_instep then m
    else
      let m := m.put SEAM_CTL_instep 1
      { m with seam := { m.seam with rounds := [], offered := [] } }
  else m.cause (SEAM_ESTAT_mode_rej 0) 272

/-- INSTEP_ENABLE. -/
def execInstepEnable (s : State) := s.on fun m => m.seamPut SEAM_CTL_instep 1 fun m => m.instepWrite true
/-- INSTEP_DISABLE. -/
def execInstepDisable (s : State) := s.on fun m => m.seamPut SEAM_CTL_instep 0 fun m => m.instepWrite false

/-! ## The loader (R48 to R50, R64) -/

/-- A loader command finishes with a code. -/
def Fjoek.ldrDone (m : Fjoek) (code : Nat) : Fjoek :=
  let m := (m.put SEAM_LDR_STAT_code code).put SEAM_LDR_STAT_busy 0
  Fjoek.cause { m with seam := { m.seam with loader := .idle } } (SEAM_ESTAT_ldr_done 0) 272

/-- The bytes of an image that its header gives. -/
def imageLen (h : List Nat) : Nat := 512 + 8 * hdrNat h 0xC 2 + 64 * hdrNat h 0xE 2

/-- Checks 1 and 2 of R49. -/
def headCheck (h : List Nat) (addr : Nat) : Nat :=
  let p := hdrNat h 0xC 2
  if hdrNat h 0 4 ≠ 0x4D414553 ∨ hdrNat h 4 2 ≠ 1 then 1
  else if p = 0 ∨ 8192 < p ∨ 1024 < hdrNat h 0xE 2 ∨ ((h.drop 0x20).take 8).any (fun c => decide (5 < c)) ∨
      2 ^ 35 < addr + imageLen h ∨ 1 < hdrNat h 6 2 ∨ !hdrZero h 0x28 24 ∨ !hdrZero h 0x41 63 ∨ !hdrZero h 0xE1 31 ∨
      !hdrZero h 0x160 160 then 2
  else 0

/-- LOADER_VERIFY: latch, protect, and copy what stands at the image address. -/
def Fjoek.ldrVerify (m : Fjoek) : Fjoek :=
  if m.isOn SEAM_LDR_STAT_busy then m
  else
    let a := m.get SEAM_LDR_ADDR_HI_addr * 2 ^ 32 + m.get SEAM_LDR_ADDR_LO_addr * 4096
    let b := m.get SEAM_LDR_STG_base * 0x40000
    let m := (m.put SEAM_LDR_STAT_busy 1).put SEAM_LDR_STAT_verified 0
    let m : Fjoek := { m with seam := { m.seam with loader := .verifying, ldrAddr := a, ldrStage := b, prot := some b } }
    let h := (m.hbmBytes a 512).map BitVec.toNat
    m.hbmPut b (m.hbmBytes a (if headCheck h a = 0 then imageLen h else 512))

def execLoaderVerify (s : State) := s.on fun m => m.seamWrite SEAM_LDR_CMD 1 Fjoek.ldrVerify

/-- LOADER_VERIFY_DONE: a byte that changed at the source while the copy ran is staged old or new, freely; then the checks
of R49 on the staged copy. -/
def Fjoek.ldrVerifyDone (m : Fjoek) : Fjoek :=
  if m.seam.loader ≠ .verifying then m
  else
    let a := m.seam.ldrAddr
    let b := m.seam.ldrStage
    let c := m.free
    let mix := fun (m : Fjoek) (o n : Nat) => (List.range n).map fun i =>
      let old := m.hbmByte (b + o + i)
      let new := m.hbmByte (a + o + i)
      if old = new then old else if Config.freeBool (c + o + i) then new else old
    let h := mix m 0 512
    let m := m.hbmPut b h
    let hn := h.map BitVec.toNat
    let n := imageLen hn
    let code := headCheck hn a
    let (bad, m) := m.hbmDetect none a (if code = 0 then n else 512)
    let m : Fjoek := { m with free := c + 2 ^ 18 }
    if bad then m.ldrDone 0x0A
    else if code ≠ 0 then m.ldrDone code
    else
      let t := mix m 512 (n - 512)
      let m := m.hbmPut (b + 512) t
      let code := m.signCheck hn (t.map BitVec.toNat)
      let code := if code = 0 ∧ hdrNat hn 8 4 < m.get SEAM_LDR_MINVER_minver then 6 else code
      (m.put SEAM_LDR_STAT_verified (bnat (code == 0))).ldrDone code

def execLoaderVerifyDone (s : State) := s.on Fjoek.ldrVerifyDone

/-- Take or drop the hold of a commit on group `g`. -/
def Fjoek.hold (m : Fjoek) (g : Nat) (v : Bool) : Fjoek :=
  { m with seam := { m.seam with held := tableSet (fun _ => false) m.seam.held g v } }

/-- LOADER_COMMIT: refuse the whole command, or hold the named groups. -/
def Fjoek.ldrCommit (m : Fjoek) (gmask : Nat) : Fjoek :=
  let gs := (List.range 16).filter fun g => bitOf gmask g
  let h := (m.hbmBytes m.seam.ldrStage 512).map BitVec.toNat
  if m.isOn SEAM_LDR_STAT_busy then m
  else if !m.isOn SEAM_LDR_STAT_verified then m.ldrDone 0x07
  else if gs.any fun g => !m.groupDrained g then m.ldrDone 0x08
  else if hdrNat h 6 2 = 0 ∧ gs.any (fun g => (List.range 32).any fun j =>
      m.privileged (32 * g + j) && hdrNat h (0x10 + 2 * (j % 8)) 2 != 0xFFFF) then m.ldrDone 0x09
  else
    match gs with
    | [] => m.ldrDone 0x00
    | g :: _ =>
      let m := (m.each gs fun g m => m.hold g true).put SEAM_LDR_STAT_busy 1
      let m := m.put (SEAM_GSTAT_busy g) 1
      let m : Fjoek := { m with seam := { m.seam with loader := .committing gs } }
      m.dispatch

def execLoaderCommit (gmask : BitVec 16) (s : State) := s.on fun m =>
  m.seamWrite SEAM_LDR_CMD (gmask.toNat * 2 ^ 16 + 2) fun m => m.ldrCommit gmask.toNat

/-- Steps 2 to 7 of R50 for group `g`, from the staged image. -/
def Fjoek.writeGroup (m : Fjoek) (g : Nat) : Fjoek :=
  let b := m.seam.ldrStage
  let p := m.hbmNat (b + 0xC) 2
  let words := (List.range p).map fun i => BitVec.ofNat 64 (m.hbmNat (b + 512 + 8 * i) 8)
  let data := m.hbmBytes (b + 512 + 8 * p) (64 * m.hbmNat (b + 0xE) 2)
  let gen := m.get (SEAM_GSTAT_gen g)
  let gen := if gen = 0xFFFF then 1 else gen + 1
  let ones : Nat → Word64 := fun _ => BitVec.ofNat 64 (2 ^ 64 - 1)
  let out := fun (k : Nat) => k / 4 != g
  let prog := (List.range 4).foldl (fun t j => (words.zipIdx).foldl (fun t w =>
    tableSet ones t (8192 * (4 * g + j) + w.2) w.1) t) (m.seam.prog.filter fun q => out (q.1 / 8192))
  let lmem := (List.range 4).foldl (fun t j => writeBytes t (0x40000 * (4 * g + j)) data)
    (m.seam.lmem.filter fun q => out (q.1 / 0x40000))
  let entry := (List.range 8).foldl (fun t i => tableSet (fun _ => 0xFFFF) t (8 * g + i) (m.hbmNat (b + 0x10 + 2 * i) 2))
    m.seam.entry
  let icls := (List.range 8).foldl (fun t i => tableSet (fun _ => 0) t (8 * g + i) (m.hbmNat (b + 0x20 + i) 1)) m.seam.iclass
  let sm : Seam := { m.seam with
    prog := prog, lmem := lmem, entry := entry, iclass := icls
    progue := m.seam.progue.filter fun q => out (q.1 / 8192)
    lue := m.seam.lue.filter fun q => out (q.1 / 32768)
    tags := m.seam.tags.filter fun q => out (q.1 / 1024) }
  let m : Fjoek := { m with seam := sm }
  let ver := m.hbmNat (b + 8) 4
  let m := ((m.put (SEAM_GSTAT_gen g) gen).put (SEAM_GSTAT_hasimg g) 1).setReg (SEAM_GVER g) ver
  let m := m.each (List.range 32) fun j m =>
    let m := m.restartStrand (32 * g + j)
    m.setStrand (32 * g + j) { m.strand (32 * g + j) with gen := gen }
  let m := ((m.put (SEAM_GCTL_drain g) 0).put (SEAM_GSTAT_busy g) 0).hold g false
  m.settleGroup g

/-- The commit ends with a code: the groups still to come are released. -/
def Fjoek.commitEnd (m : Fjoek) (gs : List Nat) (code : Nat) : Fjoek :=
  ((m.each gs fun g m => (m.hold g false).put (SEAM_GSTAT_busy g) 0).ldrDone code).dispatch

/-- LOADER_GROUP_WRITTEN: the loader has reached the end of one group. R50 checks that the named groups are drained when it takes the
command, and says that a held group then stays drained. A group that is no longer drained at its turn, as a strand reset makes it, ends
the commit with code 0x08, with it and the groups after it unwritten and free (assumption 70, DESIGN CHOICE). -/
def Fjoek.ldrGroup (m : Fjoek) : Fjoek :=
  match m.seam.loader with
  | .committing (g :: gs) =>
    if !m.groupDrained g then m.commitEnd (g :: gs) 0x08
    else
      let n := imageLen ((m.hbmBytes m.seam.ldrStage 512).map BitVec.toNat)
      let (bad, m) := m.hbmDetect none m.seam.ldrStage n
      if bad then
        let m := (m.put (SEAM_GSTAT_hasimg g) 0).put (SEAM_GSTAT_gen g) 0
        let m := m.each (List.range 32) fun j m =>
          let x := m.strand (32 * g + j)
          m.setStrand (32 * g + j) { x with mode := .idle, slots := [none, none, none, none], waitFor := .nothing }
        m.commitEnd (g :: gs) 0x0A
      else
        let m := m.writeGroup g
        match gs with
        | [] => (m.ldrDone 0x00).dispatch
        | h :: _ =>
          let m := m.put (SEAM_GSTAT_busy h) 1
          Fjoek.dispatch { m with seam := { m.seam with loader := .committing gs } }
  | _ => m

def execLoaderGroupWritten (s : State) := s.on Fjoek.ldrGroup

/-- LOADER_ABANDON: the staging region is free again, and nothing is verified. -/
def Fjoek.ldrAbandon (m : Fjoek) : Fjoek :=
  if m.isOn SEAM_LDR_STAT_busy then m
  else
    let m := m.put SEAM_LDR_STAT_verified 0
    Fjoek.ldrDone { m with seam := { m.seam with prot := none } } 0x00

def execLoaderAbandon (s : State) := s.on fun m => m.seamWrite SEAM_LDR_CMD 3 Fjoek.ldrAbandon

/-! ## What the management firmware does with groups (R52, R53, R459, R485) -/

/-- Group `g` is drained, its work redirected to the next group. -/
def Fjoek.drainAway (m : Fjoek) (g : Nat) : Fjoek :=
  let v := withBits (withBits (m.reg (SEAM_GCTL g)) (SEAM_GCTL_redir g).hi (SEAM_GCTL_redir g).lo ((g + 1) % 16))
    (SEAM_GCTL_redir_en g).hi (SEAM_GCTL_redir_en g).lo 1
  m.seamWrite (SEAM_GCTL g) (withBits v 0 0 1) fun m =>
    ((m.put (SEAM_GCTL_redir g) ((g + 1) % 16)).put (SEAM_GCTL_redir_en g) 1).drainWrite g true

/-- The image at `base` is staged and verified. -/
def Fjoek.stageImage (m : Fjoek) (base : Nat) : Fjoek :=
  let m := m.seamWrite SEAM_LDR_ADDR_LO (base % 2 ^ 32) fun m => m.setReg SEAM_LDR_ADDR_LO (base % 2 ^ 32)
  let m := m.seamWrite (SEAM_LDR_ADDR_LO + 4) (base / 2 ^ 32) fun m => m.setReg (SEAM_LDR_ADDR_LO + 4) (base / 2 ^ 32 % 2 ^ 32)
  m.seamWrite SEAM_LDR_CMD 1 fun m => m.ldrVerify.ldrVerifyDone

/-- The staged image is committed to group `g`, which takes its work again. -/
def Fjoek.reloadGroup (m : Fjoek) (g : Nat) : Fjoek :=
  let m := m.seamWrite SEAM_LDR_CMD (2 ^ g * 2 ^ 16 + 2) fun m => (m.ldrCommit (2 ^ g)).ldrGroup
  m.seamPut (SEAM_GCTL_redir_en g) 0 fun m => m.put (SEAM_GCTL_redir_en g) 0

/-! ## Undefined words (R67, R68) -/

/-- The word of engine `e` at program index `i`; words beyond the image hold all ones (R68). -/
def Fjoek.word (m : Fjoek) (e i : Nat) : Nat :=
  (tableGet (fun _ => BitVec.ofNat 64 (2 ^ 64 - 1)) m.seam.prog (8192 * e + i)).toNat

/-- UNDEFINED_WORD: the strand's next word is undefined and comes up for issue. -/
def execUndefinedWord (e : Fin 64) (t : Fin 8) (s : State) := s.on fun m =>
  let i : Issue := { e := e, s := t, psel := 0, pneg := false }
  if wordDefined (m.word e.val (m.strand (issueKey i)).pc.toNat) then m else m.issueDefined i false id

end Sys2Proof.Machine
end

