-- ==== Sys2Proof/Machine/Mangle.lean ====
section
/-! DEFINITION. Bulk descriptors: their checks and cost (R97 to R99, R108 to R110), the operations on cells and HBM (R100 to
R107), completion (R112, R113), poison (R114), the key store (R106) and the Block reset of MNGL (R116). -/

namespace Sys2Proof.Machine

/-! ## Places: where a descriptor's bytes lie -/

/-- A lease offset or an HBM address. -/
inductive Place where
  | cell (handle off : Nat)
  | mem (addr : Nat)
  deriving DecidableEq, Repr

/-- The place that an address word names in space 0 or 1 (R98). -/
def placeOf (space w : Nat) : Place := if space = 0 then .cell (w % 2 ^ 32) (w / 2 ^ 32) else .mem w

/-- The place `n` bytes further on. -/
def Place.at (p : Place) (n : Nat) : Place :=
  match p with
  | .cell h o => .cell h (o + n)
  | .mem a => .mem (a + n)

def Place.off : Place → Nat
  | .cell _ o => o
  | .mem a => a

/-- The range of `n` bytes lies in bounds and is aligned; an H range may lie anywhere (order 3 checks it). -/
def Place.inBounds (m : Fjoek) (k n al : Nat) : Place → Bool
  | .cell h o =>
    (match m.leaseOf k h with
     | none => false
     | some x => decide (o + n ≤ 256 * (m.leaseAt x).cells.length) && o % al == 0)
  | .mem a => a % al == 0 && decide (a < 2 ^ 35)

/-- Two ranges of `n` and `k` bytes overlap without covering each other exactly (R99); an empty range overlaps nothing. -/
def Place.partly (p q : Place) (n k : Nat) : Bool :=
  match p, q with
  | .cell h o, .cell h' o' => h % 65536 == h' % 65536 && decide (o < o' + k ∧ o' < o + n ∧ n ≠ 0 ∧ k ≠ 0) && !(o == o' && n == k)
  | .mem a, .mem a' => decide (a < a' + k ∧ a' < a + n ∧ n ≠ 0 ∧ k ≠ 0) && !(a == a' && n == k)
  | _, _ => false

def Place.bytes (m : Fjoek) (n : Nat) : Place → List Byte
  | .cell h o => m.leaseBytes (h % 65536) o n
  | .mem a => m.hbmBytes a n

def Fjoek.putAt (m : Fjoek) (p : Place) (b : List Byte) : Fjoek :=
  match p with
  | .cell h o => m.leasePut (h % 65536) o b
  | .mem a => m.hbmWrite a b

/-- A reader of a place meets its uncorrectable units: the parts of the range that they hold, as offset and length. -/
def Fjoek.spans (m : Fjoek) (g : Option Nat) (p : Place) (n : Nat) : List (Nat × Nat) × Fjoek :=
  let o := p.off
  let us := unitsTouched o n
  let one := fun (u : Nat) => (Nat.max (64 * u) o - o, Nat.min (64 * u + 64) (o + n) - Nat.max (64 * u) o)
  match p with
  | .cell h _ =>
    let l := m.leaseAt (h % 65536)
    us.foldl (fun r u =>
      let (bad, m) := r.2.bufDetect g [l.byteAddr (64 * u) / 64]
      (if bad then r.1 ++ [one u] else r.1, m)) ([], m)
  | .mem _ =>
    us.foldl (fun r u =>
      let (bad, m) := r.2.hbmDetect g (64 * u) 64
      (if bad then r.1 ++ [one u] else r.1, m)) ([], m.happen 0x10D us.length)

/-- The uncorrectable parts of a range, as they stand: no reader meets them here. -/
def Fjoek.badSpans (m : Fjoek) (p : Place) (n : Nat) : List (Nat × Nat) := (m.spans none p n).1

/-- Poison `n` bytes' units at a place (R114). -/
def Fjoek.poisonAt (m : Fjoek) (p : Place) (o n : Nat) : Fjoek :=
  match p with
  | .cell h b => m.poisonLease (h % 65536) (b + o) n
  | .mem a =>
    { m with hbmPoison := (unitsTouched (a + o) n).foldl mark m.hbmPoison }

/-! ## Print blocks of a trailing twin (R359) -/

/-- The print that stands for block `j` of a range, if the block is held as a print. -/
def Fjoek.printAt (m : Fjoek) (p : Place) (j : Nat) : Option Nat :=
  if p.off % 4096 ≠ 0 then none
  else match p with
  | .cell h o => tableFind m.mngl.prints (1024 * (h % 65536) + o / 4096 + j)
  | .mem a => tableFind m.twin.shadow (a / 4096 + j)

/-- Hold block `j` of a range as a print, or no longer. -/
def Fjoek.setPrint (m : Fjoek) (p : Place) (j : Nat) (v : Option Nat) : Fjoek :=
  if p.off % 4096 ≠ 0 then m
  else match p with
  | .cell h o =>
    let k := 1024 * (h % 65536) + o / 4096 + j
    let t := (match v with
      | none => tableErase m.mngl.prints k
      | some f => tableInsert m.mngl.prints k f)
    { m with mngl := { m.mngl with prints := t } }
  | .mem a =>
    let k := a / 4096 + j
    let t := (match v with
      | none => tableErase m.twin.shadow k
      | some f => tableInsert m.twin.shadow k f)
    { m with twin := { m.twin with shadow := t } }

/-- Block `j` of a range is held as a print from here on: its bytes read 0 (R359). -/
def Fjoek.becomePrint (m : Fjoek) (p : Place) (j v : Nat) : Fjoek :=
  if p.off % 4096 ≠ 0 then m else
  (match p with
  | .cell h o =>
    let x := h % 65536
    m.leasePut x (o + 4096 * j) (List.replicate (Nat.min 4096 (256 * (m.leaseAt x).cells.length - (o + 4096 * j))) 0)
  | .mem a => m.hbmPut (a + 4096 * j) (List.replicate 4096 0)).setPrint p j (some v)

/-- The print that a trailing twin holds in place of block `j`. A lead holds every block in full, and knows which of them the trailing twin
does not. -/
def Fjoek.heldPrint (m : Fjoek) (p : Place) (j : Nat) : Option Nat := if m.trailing then m.printAt p j else none

/-- The lead notes that `n` blocks of a place from block `j` on are prints on the trailing twin (R359). -/
def Fjoek.notePrints (m : Fjoek) (p : Place) (j n : Nat) : Fjoek :=
  if m.leads then m.each (List.range n) fun i m => m.setPrint p (j + i) (some 0) else m

/-- The print of block `j`: the one held, or that of its bytes. -/
def Fjoek.blockPrint (m : Fjoek) (p : Place) (j : Nat) : Nat :=
  match m.heldPrint p j with
  | some f => f
  | none =>
    let q : Place := p.at (4096 * j)
    fprint m.mngl.fpz ((q.bytes m 4096).map BitVec.toNat)

/-! ## Payload prints (R366) -/

/-- The place where the 4 KiB block begins that holds the first byte of a place. -/
def Place.block : Place → Place
  | .cell h o => .cell h (o / 4096 * 4096)
  | .mem a => .mem (a / 4096 * 4096)

/-- The payload print of `n` bytes at a place but for the parts of print blocks, and the print of those parts by this module's bytes
where there are any (R359, R366). -/
def Fjoek.payloadPrint (m : Fjoek) (p : Place) (n : Nat) : Nat × Option Nat :=
  let s := p.off % 4096
  let b := p.bytes m n
  (List.range (if n = 0 then 0 else ceilDiv (s + n) 4096)).foldl (fun r j =>
    let lo := Nat.max (4096 * j) s
    let hi := Nat.min (4096 * j + 4096) (s + n)
    if hi - lo = 4096 then (r.1 ^^^ m.blockPrint p.block j, r.2)
    else
      let f := fprint m.mngl.fpz
        (List.replicate (lo - 4096 * j) 0 ++ ((b.drop (lo - s)).take (hi - lo)).map BitVec.toNat)
      if (m.printAt p.block j).isSome then (r.1, some (r.2.getD 0 ^^^ f)) else (r.1 ^^^ f, r.2)) (0, none)

/-- The register number that a VALUE record gives a range print (assumption 50). -/
def rangePrintReg : Nat := 32

/-- An item that ends with the payload print of `n` bytes that a descriptor of strand `k` sends from a place. The print of parts of
print blocks is logged by the lead, and the trailing twin uses that value as it comes (R359, R366). -/
def Fjoek.digestPayload (m : Fjoek) (item : List Nat) (k : Nat) (p : Place) (n : Nat) : Fjoek :=
  if !(m.leads ∨ m.trailing) then m
  else
    let pr := m.payloadPrint p n
    let whole := fun (v : Nat) => item ++ (bytesOf 8 v).map BitVec.toNat
    match pr.2 with
    | none => m.digestItem (whole pr.1)
    | some f =>
      if !m.trailing then (m.digestItem (whole (pr.1 ^^^ f))).logTwin 0x08 (k / 8) [k % 8, rangePrintReg, f]
      else
        match m.seam.values.find? fun v => v.strand == k && v.rd == rangePrintReg with
        | some v =>
          let q : Seam := { m.seam with values := m.seam.values.erase v }
          Fjoek.digestItem { m with seam := q } (whole (pr.1 ^^^ v.val))
        | none => { m with twin := { m.twin with partItems := m.twin.partItems ++ [⟨k, m.twin.epoch, item, pr.1⟩] } }

/-! ## Checks (R108) -/

/-- Order 1: the operation, its reserved fields and its pair of spaces (R97 to R100, R105, R205). -/
def Desc.check1 (d : Desc) : Bool :=
  let w := d.w
  let z := fun (l : List Nat) => l.all fun i => w i == 0
  let hOk := (d.dsp != 1 || w 1 / 2 ^ 35 == 0) && (d.ssp != 1 || w 2 / 2 ^ 35 == 0)
  (w 0 / 2 ^ 62 == 0 && !bitOf (w 0) 15) &&
  match d.op with
  | 0 =>
    let ext := if d.dsp = 0 then d.ssp else d.dsp
    let dst := d.dsp != 0
    decide (d.dsp ≤ 4 ∧ d.ssp ≤ 4) && (d.dsp == 0 || d.ssp == 0) && hOk && d.hi / 16 == 0 &&
    (d.verb == 0 || (ext == 2 && dst)) && (!bitOf d.hi 0 || (ext == 4 && dst)) && (d.fpx || w 5 == 0) &&
    w 6 / 2 ^ 32 == 0 && (w 6 == 0 || (ext == 2 && dst && d.verb % 2 == 1)) && w 7 == 0 &&
    (match ext with
     | 2 => bitsOf (w 4) 31 16 == 0 && (d.verb < 2 || (w 1 == 0 && w 4 / 2 ^ 32 == 0))
     | 3 => w 4 / 64 == 0
     | 4 => decide (w 4 % 32 < 24) && bitsOf (w 4) 7 5 == 0 && bitsOf (w 4) 31 16 == 0 &&
        decide (1 ≤ bitsOf (w 4) 15 8 ∧ bitsOf (w 4) 15 8 ≤ 63)
     | _ => w 4 == 0)
  | 1 => d.dsp == 0 && d.ssp == 0 && d.hi / 64 == 0 && z [2, 4, 5, 6, 7]
  | 2 => d.dsp == 0 && d.ssp == 0 && d.hi / 4 == 0 && z [7] && z ([4, 5, 6].drop (d.nsrc - 1))
  | 3 => d.dsp == 0 && d.ssp == 0 && d.hi == 0 && z [4, 5, 6, 7]
  | 4 =>
    d.dsp == 0 && d.ssp == 0 && d.hi / 2 ^ 16 == 0 && d.piType != 0 && d.piGuard != 3 &&
    decide (1 ≤ bitsOf d.hi 15 11 ∧ bitsOf d.hi 15 11 ≤ 16 ∧ d.piSize ≤ d.piMeta) && w 6 / 2 ^ 32 == 0 && z [4, 7] &&
    (2 ≤ d.piMode || w 1 == 0)
  | 5 => d.dsp == 0 && d.ssp == 0 && d.hi / 2 ^ 12 == 0 && z [4, 6, 7]
  | 6 => d.dsp == 0 && d.ssp == 0 && d.hi / 4 == 0 && z [4, 5, 6, 7]
  | 7 => decide (d.dsp ≤ 1) && d.ssp == 0 && hOk && d.hi == 0 && z [2, 4, 6, 7]
  | 8 => decide (d.dsp ≤ 1 ∧ d.ssp ≤ 1) && (d.dsp == 0 || d.ssp == 0) && hOk && d.hi == 0 && z [4, 5, 6, 7]
  | _ => false

/-- The ranges that the descriptor reads and writes in B and H, each with its bytes and alignment (R99, R101). -/
def Desc.reads (d : Desc) : List (Place × Nat × Nat) :=
  let n := d.len
  match d.op with
  | 0 => if d.ssp ≤ 1 then [(placeOf d.ssp (d.w 2), n, if d.dsp = 4 then 4 else 1)] else []
  | 1 => [(placeOf 0 (d.w 1), 256, 256)]
  | 2 => ([2, 4, 5, 6].take d.nsrc).map fun i => (placeOf 0 (d.w i), n, 64)
  | 3 => [(placeOf 0 (d.w 2), n, 64)]
  | 4 => [(placeOf 0 (d.w 2), n * (if d.piMode = 3 then d.piData else d.piData + d.piMeta), 64)]
  | 5 => [(placeOf 0 (d.w 2), n, 64)]
  | 6 => [(placeOf 0 (d.w 2), n, 64)]
  | 8 => [(placeOf d.dsp (d.w 1), n, 1), (placeOf d.ssp (d.w 2), n, 1)]
  | _ => []

def Desc.writes (d : Desc) : List (Place × Nat × Nat) :=
  let n := d.len
  match d.op with
  | 0 => (if d.dsp ≤ 1 then [(placeOf d.dsp (d.w 1), n, if d.ssp = 4 then 4 else 1)] else []) ++
      (if d.fpx then [(placeOf 0 (d.w 5), n / 4096 * 8, if d.dsp = 4 ∨ d.ssp = 4 then 4 else 1)] else [])
  | 2 => [(placeOf 0 (d.w 1), n, 64)]
  | 3 => [(placeOf 0 (d.w 1), n / 4096 * 8, 64)]
  | 4 => match d.piMode with
    | 2 => [(placeOf 0 (d.w 1), n * d.piData, 64)]
    | 3 => [(placeOf 0 (d.w 1), n * (d.piData + d.piMeta), 64)]
    | _ => []
  | 5 => [(placeOf 0 (d.w 1), n, 64)]
  | 6 => [(placeOf 0 (d.w 1), 128, 64)]
  | 7 => [(placeOf d.dsp (d.w 1), n, 1)]
  | _ => []

/-- Order 2: length, alignment, bounds and partial overlap. `lba` is the LBA size of the drive that a D endpoint names. -/
def Desc.check2 (m : Fjoek) (d : Desc) (lba : Nat) : Bool :=
  let n := d.len
  (match d.op with
   | 0 => decide (1 ≤ n ∧ n ≤ 1048576) && ((d.dsp != 4 && d.ssp != 4) || n % lba == 0) && (!d.fpx || n % 4096 == 0)
   | 1 => decide (64 ≤ n ∧ n ≤ 1048576) && n % 64 == 0
   | 2 => decide (64 ≤ n ∧ n ≤ 1048576) && n % 64 == 0
   | 3 => decide (4096 ≤ n ∧ n ≤ 1048576) && n % 4096 == 0
   | 4 => decide (1 ≤ n ∧ n ≤ 2048)
   | 5 => decide (1 ≤ n ∧ n ≤ 1048576) && n % d.unit == 0
   | 6 => decide (n ≤ 1048576) && (bitOf d.hi 1 || n % 128 == 0)
   | _ => decide (1 ≤ n ∧ n ≤ 1048576)) &&
  ((d.reads ++ d.writes).all fun p => p.1.inBounds m d.key p.2.1 p.2.2) &&
  !(d.writes.any fun p => d.reads.any fun q => p.1.partly q.1 p.2.1 q.2.1)

/-- Order 3: H ranges inside the engine's window, outside the aperture, and no write of the staging region. -/
def Desc.check3 (m : Fjoek) (d : Desc) : Bool :=
  ((d.reads ++ d.writes).all fun p =>
    match p.1 with
    | .mem a => m.inHwin d.engine a p.2.1 && !m.inAperture a p.2.1
    | _ => true) &&
  d.writes.all fun p =>
    match p.1 with
    | .mem a => !m.inStaging a p.2.1
    | _ => true

/-- The parameter block as 32 words (R101): its fields, alignment and overlap under orders 1 and 2, then its handles under order 4. The
answer is 0 when it is right, else the code. -/
def Desc.check4 (m : Fjoek) (d : Desc) (p : List Nat) : Nat :=
  let n := d.len
  let src := (p.take d.nsrc).map (placeOf 0)
  let out := ((p.drop 16).take d.nout).map (placeOf 0)
  if ((p.take 16).drop d.nsrc).any (· != 0) ∨ (((p.drop 16).take 4).drop d.nout).any (· != 0) ∨
      (p.drop 28).any (· != 0) then 1
  else if (src ++ out).any (fun q => q.off % 64 != 0) ∨ out.any (fun o => src.any fun q => o.partly q n n) then 1
  else if !((src ++ out).all fun q => q.inBounds m d.key n 1) then 2
  else 0

/-- Order 5: an evaluation point or a key is missing. -/
def Desc.check5 (m : Fjoek) (d : Desc) : Bool :=
  ((d.op != 3 && !d.fpx) || m.isOn MNGL_FPSTAT_zset) &&
    (d.op != 5 || tableGet (fun _ => 0) m.mngl.xkeys (bitsOf d.hi 11 2) != 0)

/-- The code of the first check of orders 1 to 4 that fails, 0 when all pass. -/
def Desc.check14 (m : Fjoek) (d : Desc) : Nat :=
  let lba := tableGet (fun _ => 4096) m.drv.lba (d.w 4 % 32)
  if !d.check1 ∨ !d.check2 m lba then 1
  else if !d.check3 m then 3
  else if d.op = 1 then d.check4 m (m.startParams d) else 0

/-- The code of the first check that fails, 0 when all pass. -/
def Desc.check (m : Fjoek) (d : Desc) : Nat :=
  let c := d.check14 m
  if c ≠ 0 then c else if !d.check5 m then 1 else 0

/-! ## Cost (R109, R110) -/

/-- The tokens that the dispatcher draws. -/
def Fjoek.descCost (m : Fjoek) (d : Desc) : Nat :=
  if bitOf (d.w 0) 13 then
    m.get (MNGL_COST_base d.costIndex) + ceilDiv (m.get (MNGL_COST_per4k d.costIndex) * d.units4k) 64
  else bitsOf (d.w 0) 61 42

/-! ## Completion (R112, R113) -/

/-- The status word of a descriptor. -/
def Desc.status (d : Desc) : Nat := d.code + d.detail * 256 + d.epstat % 2 ^ 15 * 2 ^ 16 + d.result % 2 ^ 32 * 2 ^ 32

/-- A descriptor whose completion the lead logs as XCOMP (R356). -/
def Desc.xcomp (d : Desc) : Bool :=
  (d.op == 0 && (d.ssp == 2 || d.ssp == 3)) || d.op == 5 || (d.op == 4 && decide (2 ≤ d.piMode)) || d.op == 6 || d.op == 8

/-- Prints of the whole output blocks of a descriptor. -/
def Fjoek.outPrints (m : Fjoek) (d : Desc) : List Nat :=
  (d.writes.map fun p => (List.range (p.2.1 / 4096)).map fun j => m.blockPrint p.1 j).flatten

/-- The status word is written, the entry frees, and the tag is posted unless the strand was reset. -/
def Fjoek.completeDesc (m : Fjoek) (d : Desc) : Fjoek :=
  let ds := m.mngl.descs.filter fun e => e.id != d.id
  let m := m.when (d.xcomp && d.inFlight) fun m =>
    (m.logTwin 0x04 d.engine (d.id :: d.status :: m.outPrints d)).each (if d.op = 6 then [] else d.writes) fun p m =>
      m.notePrints p.1 0 (p.2.1 / 4096)
  let m : Fjoek := { m with mngl := { m.mngl with descs := ds } }
  let m := m.when (bitOf (d.w 0) 26) fun m => m.lPut d.engine (8 * bitsOf (d.w 0) 41 27) (bytesOf 8 d.status)
  let m := m.settleAll.happen 0x109 1
  let m := (m.wakeQueue (d.engine / 4)).settleFences
  let m := if d.orphan then m else m.postTag d.engine (bitsOf (d.w 0) 25 16)
  (m.settleGroup (d.engine / 4)).dispatch

/-- A descriptor fails a check of R108 and completes with a code. -/
def Fjoek.failCheck (m : Fjoek) (d : Desc) (code : Nat) : Fjoek :=
  let m := (m.mnglCount MNGL_DINV_count 1).cause (MNGL_GSTAT_dinv (d.engine / 4)) (336 + d.engine / 4)
  m.completeDesc { d with code := code }

/-- An earlier descriptor of the same strand is not complete (R97, order). -/
def Fjoek.earlier (m : Fjoek) (d : Desc) : Bool := m.mngl.descs.any fun e => e.key == d.key && decide (e.id < d.id)

/-- DESCRIPTOR_HEAD_CHECK: the head of class `c`'s sub-queue of cluster `g`. -/
def execDescriptorHeadCheck (g : Fin 16) (c : Fin 6) (s : State) := s.on fun m =>
  match (m.clusterDescs g.val).find? fun d => d.cls == c.val && !d.inFlight with
  | none => m
  | some d =>
    if !m.runs 3 ∨ d.phase ≠ .waiting ∨ (bitOf (d.w 0) 14 ∧ m.earlier d) then m
    else
      let code := d.check m
      let miss := d.check14 m == 0 && !d.check5 m && d.op != 5
      let m := m.when miss fun m => m.cause MNGL_STAT_fpz_miss 336
      if code ≠ 0 then m.failCheck d code
      else
        let d : Desc := if d.op = 1 then { d with params := m.startParams d } else d
        let (ok, m) := (m.setDesc d).request d.cls (m.descCost d) (.desc d.id)
        if ok then (m.logTwin 0x07 0x86 [d.cls, d.id]).startDesc d.id
        else m.setDesc { d with phase := .drawing }

/-! ## Operations -/

/-- `n` bytes at a place touch an absent unit (R373). -/
def Fjoek.absentAt (m : Fjoek) (p : Place) (n : Nat) : Bool :=
  match p with
  | .cell h o => ((m.leaseAt (h % 65536)).units o n).any fun k => tableGet (fun _ => false) m.twin.absent k
  | .mem a => (unitsTouched a n).any fun k => tableGet (fun _ => false) m.twin.absent (2 ^ 29 + k)

/-- A descriptor from before a takeover waits while it would read an absent unit (R373 step 4). -/
def Fjoek.awaits (m : Fjoek) (d : Desc) : Bool :=
  m.twin.waiters.contains d.id &&
    ((d.reads.any fun p => m.absentAt p.1 p.2.1) ||
      (d.op == 1 && (d.params.take d.nsrc).any fun w => m.absentAt (placeOf 0 w) d.len))

/-- A started descriptor of the given operation on a running module. -/
def Fjoek.startedDesc (m : Fjoek) (id op : Nat) : Option Desc :=
  match m.findDesc id with
  | some d => if d.phase = .started ∧ d.op = op ∧ m.runs 3 ∧ !m.awaits d then some d else none
  | none => none

/-- Code and result for uncorrectable source parts: the offset of the first poisoned unit (R113). -/
def spanCode (sp : List (Nat × Nat)) : Nat × Nat :=
  match sp with
  | [] => (0, 0)
  | s :: t => (4, t.foldl (fun a q => min a q.1) s.1)

/-- Poison the parts of a destination that uncorrectable source parts reach. -/
def Fjoek.poisonSpans (m : Fjoek) (p : Place) (sp : List (Nat × Nat)) : Fjoek := m.each sp fun s m => m.poisonAt p s.1 s.2

/-- The cluster of a descriptor, as a requester of R114. -/
def Desc.req (d : Desc) : Option Nat := some (d.engine / 4)

/-- Poison what bad parts of a source reach of an output that holds `w` bytes for each `r` bytes of the source: a bad part that straddles
two of those reaches both (R114). -/
def Fjoek.poisonScaled (m : Fjoek) (out : Place) (r w : Nat) (sp : List (Nat × Nat)) : Fjoek :=
  m.each sp fun s m => m.poisonAt out (s.1 / r * w) (((s.1 + s.2 - 1) / r - s.1 / r + 1) * w)

/-- Write the fingerprints that `fpx` and FPRINT ask for (R100, R104); `sp` are the uncorrectable parts of the source. -/
def Fjoek.writePrints (m : Fjoek) (d : Desc) (src : Place) (out : Place) (sp : List (Nat × Nat)) : Fjoek :=
  let z := nth d.params 0 0
  let n := d.len / 4096
  let fs := (List.range n).map fun j =>
    match m.heldPrint src j with
    | some f => f
    | none =>
      let q : Place := src.at (4096 * j)
      fprint z ((q.bytes m 4096).map BitVec.toNat)
  (m.putAt out ((fs.map (bytesOf 8)).flatten)).poisonScaled out 4096 8 sp

/-- The fingerprints that `fpx` asks for, of data that has come from outside into its cells: they are taken as it passes, with no further
read (R100). -/
def Fjoek.printsIn (m : Fjoek) (d : Desc) : Fjoek :=
  if d.fpx ∧ 2 ≤ d.ssp then
    let dst := placeOf 0 (d.w 1)
    m.writePrints d dst (placeOf 0 (d.w 5)) (m.badSpans dst d.len)
  else m

/-- The same of a MOVE whose data goes out of its cells. -/
def Fjoek.printsOut (m : Fjoek) (d : Desc) : Fjoek :=
  if d.fpx ∧ 2 ≤ d.dsp then
    let src := placeOf 0 (d.w 2)
    m.writePrints d src (placeOf 0 (d.w 5)) (m.badSpans src d.len)
  else m

/-- The operation has acted: its result codes stand, and its completion point is reached. -/
def Fjoek.acted (m : Fjoek) (d : Desc) (code result : Nat) : Fjoek :=
  let m := if code = 7 then m else m.printsIn d
  (m.setDesc { d with phase := .done, code := code, result := result }).happen 0x10A (ceilDiv (d.len * d.nsrc) 64)

/-- A MOVE between B and B or H (R100), with the mirror of R364 on a lead. -/
def Fjoek.moveLocal (m : Fjoek) (d : Desc) : Fjoek :=
  let src := placeOf d.ssp (d.w 2)
  let dst := placeOf d.dsp (d.w 1)
  let n := d.len
  let b := src.bytes m n
  let (sp, m) := m.spans d.req src n
  let prints := (List.range (n / 4096)).map fun j => m.printAt src j
  let m := if d.fpx then m.writePrints d src (placeOf 0 (d.w 5)) sp else m
  let m := (m.putAt dst b).poisonSpans dst sp
  let m := if (m.trailing ∨ m.leads) ∧ src.off % 4096 = 0 then
      m.each prints.zipIdx fun p m => m.setPrint dst p.2 p.1
    else m
  let m := m.when (m.mirrorBound d && m.leads) fun m =>
    ((m.fenceOn d.id).logTwin 0x0C 0xFF (d.w 1 :: n :: b.map BitVec.toNat)).count TWIN_MIRBYTES_LO n
  m.acted d (spanCode sp).1 (spanCode sp).2

/-- XOR of a list of byte lists, each scaled by a coefficient of GF(2^8). -/
def gfSum (n : Nat) (l : List (Nat × List Byte)) : List Byte :=
  (l.foldl (fun acc p => (acc.zip (p.2.map BitVec.toNat)).map fun q => q.1 ^^^ gfMul p.1 q.2)
    (List.replicate n 0)).map (BitVec.ofNat 8)

/-- Outputs of a GFMAC or XOR: each place with its coefficients; a coefficient 0 leaves its source, and its
poison, out of that output (R102). -/
def Fjoek.macDesc (m : Fjoek) (d : Desc) (src : List Place) (out : List (Place × List Nat)) : Fjoek :=
  let n := d.len
  let data := src.map fun p => p.bytes m n
  let (parts, m) := src.foldl (fun r p =>
    let (s, m) := r.2.spans d.req p n
    (r.1 ++ [s], m)) (([] : List (List (Nat × Nat))), m)
  let fs := out.map fun o => (List.range (n / 4096)).map fun j =>
    (src.zip o.2).foldl (fun f q => f ^^^ gf64Mul (fpPhi q.2) (m.blockPrint q.1 j)) 0
  let any := src.any fun p => (List.range (n / 4096)).any fun j => (m.printAt p j).isSome
  let m := m.each (out.zip fs) fun o m =>
    let used := ((o.1.2.zip parts).filter fun q => q.1 != 0).map Prod.snd
    let m := (m.putAt o.1.1 (gfSum n (o.1.2.zip data))).poisonSpans o.1.1 used.flatten
    if m.trailing ∧ any then m.each o.2.zipIdx fun f m => m.becomePrint o.1.1 f.2 f.1
    else if any then m.notePrints o.1.1 0 (n / 4096)
    else m
  m.acted d (spanCode parts.flatten).1 (spanCode parts.flatten).2

/-- BULK_GFMAC. -/
def execBulkGfmac (id : Nat) (s : State) := s.on fun m =>
  match m.startedDesc id 1 with
  | none => m
  | some d =>
    let cs := ((d.params.drop 20).take 8).map (bytesOf 8) |>.flatten |>.map BitVec.toNat
    let out := (((d.params.drop 16).take d.nout).zipIdx).map fun p => (placeOf 0 p.1, (cs.drop (16 * p.2)).take 16)
    m.macDesc d ((d.params.take d.nsrc).map (placeOf 0)) out

/-- BULK_XOR. -/
def execBulkXor (id : Nat) (s : State) := s.on fun m =>
  match m.startedDesc id 2 with
  | none => m
  | some d =>
    m.macDesc d (([2, 4, 5, 6].take d.nsrc).map fun i => placeOf 0 (d.w i)) [(placeOf 0 (d.w 1), [1, 1, 1, 1])]

/-- BULK_FPRINT. -/
def execBulkFprint (id : Nat) (s : State) := s.on fun m =>
  match m.startedDesc id 3 with
  | none => m
  | some d =>
    let src := placeOf 0 (d.w 2)
    let out := placeOf 0 (d.w 1)
    let (sp, m) := m.spans d.req src d.len
    (m.writePrints d src out sp).acted d (spanCode sp).1 (spanCode sp).2

/-! ### PI (R105) -/

/-- Big-endian bytes of a number, and back. -/
def beBytes (n v : Nat) : List Byte := (bytesOf n v).reverse
def beNat (l : List Byte) : Nat := ofBytes l.reverse

/-- The guard over the bytes it covers. -/
def piGuardOf (g : Nat) (b : List Byte) : Nat :=
  let l := b.map BitVec.toNat
  if g = 0 then crc16Dif l else if g = 1 then crc32c l else crc64Nvme l

/-- Widths in bytes of the guard and the reference tag. -/
def piWidths (g : Nat) : Nat × Nat := if g = 0 then (2, 4) else if g = 1 then (4, 10) else (8, 6)

/-- The PI field's place within the metadata. -/
def Desc.piAt (d : Desc) : Nat := if bitOf d.hi 10 then 0 else d.piMeta - d.piSize

/-- The expected reference tag of block `i`. The spec does not say that bits of w5 above the tag's width must be 0: they are ignored
(DESIGN CHOICE, assumption 101). -/
def Desc.piRef (d : Desc) (i : Nat) : Nat :=
  (d.w 5 + if d.piType = 3 then 0 else i) % 2 ^ (8 * (piWidths d.piGuard).2)

/-- The PI field of a block: guard, application tag, reference tag. -/
def Desc.piField (d : Desc) (i : Nat) (covered : List Byte) : List Byte :=
  beBytes (piWidths d.piGuard).1 (piGuardOf d.piGuard covered) ++ beBytes 2 (d.w 6 % 65536) ++
    beBytes (piWidths d.piGuard).2 (d.piRef i)

/-- Which of guard, application tag and reference tag fail for block `i`: bits 2, 1 and 0. -/
def Desc.piFails (d : Desc) (i : Nat) (blk : List Byte) : Nat :=
  let a := d.piData + d.piAt
  let (gw, rw) := piWidths d.piGuard
  let p := (blk.drop a).take d.piSize
  let app := beNat ((p.drop gw).take 2)
  let ref := beNat ((p.drop (gw + 2)).take rw)
  let esc := app = 0xFFFF ∧ (d.piType ≠ 3 ∨ ref = 2 ^ (8 * rw) - 1)
  let mask := bitsOf (d.w 6) 31 16
  if esc then 0
  else
    4 * bnat (bitOf d.hi 9 && beNat (p.take gw) != piGuardOf d.piGuard (blk.take (if bitOf d.hi 10 then d.piData else a))) +
    2 * bnat (bitOf d.hi 8 && (app &&& mask) != ((d.w 6 % 65536) &&& mask)) +
    bnat (bitOf d.hi 7 && d.piType != 3 && ref != d.piRef i)

/-- A block of mode 3 or 1: metadata with the PI field in its place. -/
def Desc.piMade (d : Desc) (i : Nat) (data old : List Byte) : List Byte :=
  let before := old.take d.piAt
  let f := d.piField i (data ++ if bitOf d.hi 10 then [] else before)
  data ++ before ++ f ++ old.drop (d.piAt + d.piSize)

/-- Blocks that verify from block `i` on: how many, and the failure that ends them. -/
def Desc.piVerify (d : Desc) : Nat → Nat → List Byte → Nat × Nat
  | 0, i, _ => (i, 0)
  | n + 1, i, b =>
    let sz := d.piData + d.piMeta
    match d.piFails i (b.take sz) with
    | 0 => piVerify d n (i + 1) (b.drop sz)
    | f => (i, f)

/-- The parts of the output that uncorrectable parts of the source reach, of the first `n` blocks (R114). Mode 2 passes on data alone;
the other modes keep every byte at its place in its block, and the PI field follows from the bytes that its guard covers. -/
def Desc.piReach (d : Desc) (rd wr n : Nat) (sp : List (Nat × Nat)) : List (Nat × Nat) :=
  let covered := d.piData + if bitOf d.hi 10 then 0 else d.piAt
  (sp.map fun s => ((List.range' (s.1 / rd) ((s.1 + s.2 - 1) / rd - s.1 / rd + 1)).filter fun b => decide (b < n)).flatMap fun b =>
    let lo := Nat.max s.1 (b * rd) - b * rd
    let hi := Nat.min (s.1 + s.2) (b * rd + rd) - b * rd
    if d.piMode = 2 then (if lo < d.piData then [(b * wr + lo, Nat.min hi d.piData - lo)] else [])
    else (b * wr + lo, hi - lo) :: if lo < covered then [(b * wr + d.piData + d.piAt, d.piSize)] else []).flatten

/-- BULK_PI. -/
def execBulkPi (id : Nat) (s : State) := s.on fun m =>
  match m.startedDesc id 4 with
  | none => m
  | some d =>
    let sz := d.piData + d.piMeta
    let src := placeOf 0 (d.w 2)
    let dst := placeOf 0 (d.w 1)
    let rd := if d.piMode = 3 then d.piData else sz
    let wr := if d.piMode = 2 then d.piData else sz
    let b := src.bytes m (d.len * rd)
    let (sp, m) := m.spans d.req src (d.len * rd)
    let blk := fun i => (b.drop (i * rd)).take rd
    let bad := fun (p : Place) (n : Nat) (m : Fjoek) => m.poisonSpans p (d.piReach rd wr n sp)
    match d.piMode with
    | 1 =>
      let o := ((List.range d.len).map fun i => d.piMade i ((blk i).take d.piData) ((blk i).drop d.piData)).flatten
      (bad src d.len (m.putAt src o)).acted d (spanCode sp).1 (spanCode sp).2
    | 3 =>
      let o := ((List.range d.len).map fun i => d.piMade i (blk i) (List.replicate d.piMeta 0)).flatten
      (bad dst d.len (m.putAt dst o)).acted d (spanCode sp).1 (spanCode sp).2
    | _ =>
      let (n, f) := d.piVerify d.len 0 b
      let m := if d.piMode = 2 then
          bad dst n (m.putAt dst (((List.range n).map fun i => (blk i).take d.piData).flatten))
        else m
      if sp ≠ [] then m.acted d 4 (spanCode sp).2
      else m.acted { d with detail := f } (if f = 0 then 0 else 6) (if f = 0 then 0 else n)

/-! ### XTS, HASH, FILL, COMPARE -/

/-- BULK_XTS. -/
def execBulkXts (id : Nat) (s : State) := s.on fun m =>
  match m.startedDesc id 5 with
  | none => m
  | some d =>
    let k := (bytesOf 64 (nth d.params 0 0)).map BitVec.toNat
    let src := placeOf 0 (d.w 2)
    let dst := placeOf 0 (d.w 1)
    let b := (src.bytes m d.len).map BitVec.toNat
    let (sp, m) := m.spans d.req src d.len
    let o := xtsUnits (bitOf d.hi 0) (k.take 32) (k.drop 32) d.unit (d.len / d.unit) (d.w 5) b
    ((m.putAt dst (o.map (BitVec.ofNat 8))).poisonSpans dst sp).acted d (spanCode sp).1 (spanCode sp).2

/-- BULK_HASH: the 128-byte state holds eight working words and the message length (R107), which the model counts in bytes, as the spec does
not say (assumption 70, DESIGN CHOICE). -/
def execBulkHash (id : Nat) (s : State) := s.on fun m =>
  match m.startedDesc id 6 with
  | none => m
  | some d =>
    let src := placeOf 0 (d.w 2)
    let dst := placeOf 0 (d.w 1)
    let b := (src.bytes m d.len).map BitVec.toNat
    let st := dst.bytes m 128
    let (sp, m) := m.spans d.req src d.len
    let (sq, m) := if bitOf d.hi 0 then ([], m) else m.spans d.req dst 128
    let h := if bitOf d.hi 0 then shaInit else (List.range 8).map fun i => ofBytes ((st.drop (8 * i)).take 8)
    let n := if bitOf d.hi 0 then 0 else ofBytes ((st.drop 64).take 16)
    let len := n + d.len
    let o : List Byte :=
      if bitOf d.hi 1 then
        let q := b.length / 128
        let t := shaPad len (b.drop (128 * q))
        (shaDigest (shaBlocks (t.length / 128) (shaBlocks q h b) t)).map (BitVec.ofNat 8) ++ List.replicate 80 0
      else ((shaBlocks (d.len / 128) h b).map (bytesOf 8)).flatten ++ bytesOf 16 len ++ List.replicate 48 0
    let all := sp ++ sq
    let m := m.putAt dst o
    let m := if all = [] then m else m.poisonAt dst 0 128
    m.acted d (spanCode all).1 (spanCode all).2

/-- BULK_FILL: w5, repeated little-endian from the first byte. -/
def execBulkFill (id : Nat) (s : State) := s.on fun m =>
  match m.startedDesc id 7 with
  | none => m
  | some d =>
    let dst := placeOf d.dsp (d.w 1)
    let p := bytesOf 8 (d.w 5)
    (m.putAt dst ((List.range d.len).map fun i => nth p (i % 8) 0)).acted d 0 0

/-- The offset of the first difference. -/
def firstDiff : Nat → List Byte → List Byte → Option Nat
  | i, a :: r, b :: t => if a = b then firstDiff (i + 1) r t else some i
  | _, _, _ => none

/-- BULK_COMPARE. -/
def execBulkCompare (id : Nat) (s : State) := s.on fun m =>
  match m.startedDesc id 8 with
  | none => m
  | some d =>
    let p := placeOf d.dsp (d.w 1)
    let q := placeOf d.ssp (d.w 2)
    let r := firstDiff 0 (p.bytes m d.len) (q.bytes m d.len)
    let (sp, m) := m.spans d.req p d.len
    let (sq, m) := m.spans d.req q d.len
    let all := sp ++ sq
    if all ≠ [] then m.acted d 4 (spanCode all).2
    else
      match r with
      | none => m.acted d 0 0
      | some i => m.acted d 5 i

/-- A write TLP of the descriptor is still held back by output commit (R358). -/
def Fjoek.tlpHeld (m : Fjoek) (d : Desc) : Bool := d.op == 0 && d.dsp == 3 && m.twin.held.any fun p =>
  match p.2 with
  | .attTlp f true _ a _ _ _ => f == d.w 4 % 64 && decide (d.w 1 ≤ a ∧ a < d.w 1 + d.len)
  | _ => false

/-- DESCRIPTOR_COMPLETE: the completion point is reached; for destination A, the last write TLP has been transmitted. On a trailing twin,
a descriptor that the lead logs completes by its XCOMP or DCOMP record alone. -/
def execDescriptorComplete (id : Nat) (s : State) := s.on fun m =>
  match m.findDesc id with
  | some d =>
    if d.phase = .done ∧ !(m.trailing ∧ d.xcomp) ∧ !m.tlpHeld d then m.completeDesc d else m
  | none => m

/-! ## The key store and the evaluation point (R106, R115) -/

/-- A write of MNGL_XKCTL. Commands written while one runs are ignored. With load and erase both 1 the command loads: the spec does not say
which it is (assumption 70, DESIGN CHOICE). -/
def Fjoek.xkWrite (m : Fjoek) (load erase : Bool) (slot : Nat) : Fjoek :=
  if m.isOn MNGL_XKSTAT_busy ∨ (!load ∧ !erase) then m
  else
    let k := (List.range 16).foldl (fun v i => v + tableGet (fun _ => 0) m.mngl.xdata i * 2 ^ (32 * i)) 0
    let m := Fjoek.put { m with mngl := { m.mngl with xkLoad := load } } MNGL_XKSTAT_busy 1
    let setKey := fun (m : Fjoek) (v : Nat) =>
      { m with mngl := { m.mngl with xkeys := tableSet (fun _ => 0) m.mngl.xkeys slot v } }
    if load then
      if k % 2 ^ 256 = k / 2 ^ 256 then (m.put MNGL_XKSTAT_refused 1).cause MNGL_STAT_xk_rej 336
      else (setKey m k).put MNGL_XKSTAT_refused 0
    else setKey m 0

/-- XTS_KEY_LOAD. -/
def execXtsKeyLoad (slot : BitVec 10) (s : State) := s.on fun m => m.xkWrite true false slot.toNat
/-- XTS_KEY_ERASE. -/
def execXtsKeyErase (slot : BitVec 10) (s : State) := s.on fun m => m.xkWrite false true slot.toNat
/-- XTS_KEY_COMMAND_DONE: a load clears the data registers. -/
def execXtsKeyCommandDone (s : State) := s.on fun m =>
  if m.isOn MNGL_XKSTAT_busy then
    let m := m.put MNGL_XKSTAT_busy 0
    if m.mngl.xkLoad then { m with mngl := { m.mngl with xdata := [], xkLoad := false } } else m
  else m

/-- A write of MNGL_FPZ_HI commits z with the last value written to MNGL_FPZ_LO. -/
def Fjoek.fpzCommit (m : Fjoek) (hi : Nat) : Fjoek :=
  let z := m.mngl.fpzLo + 2 ^ 32 * hi
  let m : Fjoek := { m with mngl := { m.mngl with fpz := z } }
  m.put MNGL_FPSTAT_zset (bnat (z != 0))

/-- FPZ_COMMIT. -/
def execFpzCommit (hi : Word32) (s : State) := s.on fun m => m.fpzCommit hi.toNat

/-! ## Block reset (R116) -/

/-- Descriptors of cluster `g` complete with code 0x08: those waiting leave the queue, those started stop. `ends` does what
their endpoints need. -/
def Fjoek.mnglReset (m : Fjoek) (g : Nat) (ends : Desc → Fjoek → Fjoek) : Fjoek :=
  let l := m.clusterDescs g
  let m := m.each l fun d m =>
    let m := m.each [0, 1, 3, 4, 5] fun c m =>
      let q := m.draws c
      let q' := q.filter fun w => w.who != .desc d.id
      if q = q' then m else (m.setDraws c q').serve c
    m.completeDesc { d with code := 8, epstat := 0, detail := 0, result := 0 }
  let m := m.each l ends
  m.setReg (MNGL_GSTAT g) 0

end Sys2Proof.Machine
end

