-- ==== Sys2Proof/Machine/Drives.lean ====
section
/-! DEFINITION. The drive ports: slots and queues (R205 to R208), inbound requests (R206), completion, end of service (R209,
R211), power states and fences (R213, R214). The commands of the family stand in Machine/DriveCmds.lean. -/

namespace Sys2Proof.Machine

def portReset (_ : Nat) : DrvPort :=
  { perst := false, slots := [], tails := [], heads := [], phases := [], psOut := false, psHeld := none, fencing := false
    tempFails := 0, queues := false, linkOff := false, waiting := [], aborted := none }

def Fjoek.port (m : Fjoek) (p : Nat) : DrvPort := tableGet portReset m.drv.ports p

def Fjoek.setPort (m : Fjoek) (p : Nat) (x : DrvPort) : Fjoek :=
  { m with drv := { m.drv with ports := tableSet portReset m.drv.ports p x } }

/-- A cause bit of DRV_ESTAT of port `p` (R216). -/
def Fjoek.drvCause (m : Fjoek) (p : Nat) (f : Nat → Fld) : Fjoek := m.cause (f p) (385 + 2 * p)

def Fjoek.drvUp (m : Fjoek) (p : Nat) : Bool := m.isOn (DRV_PSTAT_up p)

/-- HBM address of queue `y` of port `p` (R205). -/
def Fjoek.queueMem (m : Fjoek) (p y : Nat) : Nat := m.get DRV_QBASE_base * 2 ^ 26 + p * 2 ^ 21 + y * 20480

/-- The port refuses submissions: a fence is under way or has failed (R214). -/
def Fjoek.refusing (m : Fjoek) (p : Nat) : Bool := (m.port p).fencing || bitOf (m.reg DRV_FFAIL_fail.addr) p

/-- NVMe status field of a command that the port ends: Status Code Type 7h and a status code (R209). -/
def portStatus (sc : Nat) : Nat := 0x700 + sc

/-- The lowest free slot number of 4,096. -/
def freeSlot (l : List Slot) : Nat → Nat → Option Nat
  | 0, _ => none
  | n + 1, i => if l.any fun s => s.slot == i then freeSlot l n (i + 1) else if i < 4096 then some i else none

/-- PERST_N of port `p` follows its settings (R202, R203): it stays asserted while `disable` is 1, and has the level of DRV_SB.perst while
`auto` is 0; else it falls without power-good or presence, and PERST_DEASSERT raises it. -/
def Fjoek.settlePerst (m : Fjoek) (p : Nat) : Fjoek :=
  let x := m.port p
  m.setPort p { x with perst := !m.isOn (DRV_PCTL_disable p) &&
    (if m.isOn (DRV_PCTL_auto p) then x.perst && m.isOn (DRV_PSTAT_present p) && m.isOn (BAY_STAT_pg p) else m.isOn (DRV_SB_perst p)) }

/-- A write of 0 to DRV_PCTL.disable releases the port: its link may train again (R203, R211). -/
def Fjoek.releasePort (m : Fjoek) (p : Nat) : Fjoek :=
  let m := m.put (DRV_PCTL_disable p) 0
  (m.setPort p { m.port p with linkOff := false }).settlePerst p

/-- The ports whose bay channels have power-good are released: by the library at its start, and by Fjoek on a trailing twin (R203). -/
def Fjoek.releaseBays (m : Fjoek) : Fjoek :=
  m.each ((List.range 24).filter fun p => m.isOn (BAY_STAT_pg p) && m.isOn (DRV_PCTL_disable p)) fun p m => m.releasePort p

/-- The tail doorbells of the queues on which entries stand that did not in `was`: one for all of a queue's entries (R207). -/
def Fjoek.bells (m : Fjoek) (p : Nat) (was : Fjoek) : Fjoek :=
  let tail := fun (m : Fjoek) (y : Nat) => tableGet (fun _ => 0) (m.port p).tails y
  m.each ((List.range 65).filter fun y => tail m y != tail was y) fun y m =>
    m.output (.driveTail p (m.reg64 (DRV_BAR_LO p) + 0x1000 + 2 * y * (4 * 2 ^ m.get (DRV_DBCFG_dstrd p))) (tail m y))

/-- Place an entry of 16 dwords in submission queue `y`: the slot it took, if there was one. A
trailing twin takes the slot and submits nothing (R215). `print` is the payload print of the digest item (R366). -/
def Fjoek.submit (m : Fjoek) (p y : Nat) (e : List Nat) (use : SlotUse) (own : Option (Nat × Place × Nat)) : Option (Nat × Fjoek) :=
  let x := m.port p
  if 255 ≤ (x.slots.filter fun s => s.queue == y).length then none
  else
    match freeSlot x.slots (x.slots.length + 1) 0 with
    | none => none
    | some n =>
      let e := setNth e 0 (nth e 0 0 % 65536 + n * 65536)
      let tail := tableGet (fun _ => 0) x.tails y
      let bare := ((e.zipIdx).map fun q => if q.2 = 0 then q.1 % 65536 else if 6 ≤ q.2 ∧ q.2 ≤ 9 then 0 else q.1)
      let item := 2 :: p :: y :: ((bare.map (bytesOf 4)).flatten.map BitVec.toNat)
      let m := match own with
        | some o => m.digestPayload item o.1 o.2.1 o.2.2
        | none => m.digestItem (item ++ List.replicate 8 0)
      let m := m.setPort p { x with
        slots := x.slots ++ [{ slot := n, queue := y, use := use }]
        tails := tableSet (fun _ => 0) x.tails y ((tail + 1) % 256) }
      let m := if m.trailing then m
        else ((m.hbmWrite (m.queueMem p y + 64 * tail) ((e.map (bytesOf 4)).flatten)).output (.drive p y e)).happen 0x10B 1
      some (n, m)

/-! ## Data commands (R207) -/

/-- The drive address of a lease byte (R206). -/
def leaseWindow (h off : Nat) : Nat := 0x4000000000 + h % 65536 * 0x100000 + off

/-- PRP1 and PRP2 for `n` bytes at drive address `a`, the list standing in slot `s`'s window. -/
def prps (a n s : Nat) : Nat × Nat :=
  let first := 4096 - a % 4096
  (a, if n ≤ first then 0 else if n ≤ first + 4096 then (a / 4096 + 1) * 4096 else 0x5100000000 + s * 0x1000)

/-- The submission entry of one part of a D descriptor: `n` bytes from offset `o`. -/
def Fjoek.dataEntry (m : Fjoek) (p : Nat) (d : Desc) (o n s : Nat) : List Nat :=
  let wr := d.dsp == 4
  let lba := tableGet (fun _ => 4096) m.drv.lba p
  let local_ := if wr then d.w 2 else d.w 1
  let a := leaseWindow local_ (local_ / 2 ^ 32 + o)
  let slba := (if wr then d.w 1 else d.w 2) + o / lba
  let sgl := m.isOn (DRV_PCTL_sgl p)
  let (p1, p2) := if sgl then (a, n) else prps a n s
  [(if wr then 1 else 2) + (if sgl then 0x4000 else 0), d.w 4 / 2 ^ 32, 0, 0, 0, 0, p1 % 2 ^ 32, p1 / 2 ^ 32,
    p2 % 2 ^ 32, p2 / 2 ^ 32, slba % 2 ^ 32, slba / 2 ^ 32, n / lba - 1 + (if wr && bitOf d.hi 0 then 2 ^ 30 else 0),
    0, 0, 0]

/-- The drive port that a descriptor names, for a D endpoint. -/
def Desc.drive (d : Desc) : Option Nat :=
  if d.op = 0 ∧ (d.dsp = 4 ∨ d.ssp = 4) then some (d.w 4 % 32) else none

/-- A D descriptor whose parts have all ended reaches its completion point, with the status of its first failing part in
LBA order (R207). -/
def Fjoek.settleDrive (m : Fjoek) (id p : Nat) : Fjoek :=
  match m.findDesc id with
  | none => m
  | some d =>
    let open_ := (m.port p).slots.any fun s =>
      match s.use with
      | .data i _ _ => i == id
      | _ => false
    if d.phase ≠ .running ∨ d.sent < d.len ∨ open_ then m
    else
      match d.fails with
      | [] => (m.printsIn d).setDesc { d with phase := .done }
      | f :: r =>
        let b := r.foldl (fun b q => if q.1 < b.1 then q else b) f
        m.setDesc { d with phase := .done, code := if d.code = 4 then 4 else 7, epstat := b.2 }

/-- The running D descriptors of port `p`, in order. -/
def Fjoek.driveDescs (m : Fjoek) (p : Nat) : List Desc :=
  m.mngl.descs.filter fun d => d.phase == .running && d.drive == some p

/-- The length of a descriptor's next part (R207). -/
def Fjoek.partLen (m : Fjoek) (p : Nat) (d : Desc) : Nat :=
  Nat.min (4096 * Nat.max 1 (m.get (DRV_MDTS_units p))) (d.len - d.sent)

/-- C3 credit of port `p`, and the cap of R180. -/
def Fjoek.credit (m : Fjoek) (p : Nat) : Nat := tableGet (fun _ => 0) m.lib.credit p
def Fjoek.setCredit (m : Fjoek) (p v : Nat) : Fjoek :=
  { m with lib := { m.lib with credit := tableSet (fun _ => 0) m.lib.credit p v } }
def Fjoek.creditCap (m : Fjoek) : Nat := Nat.max 1 (m.get DARN_FLOOR_cap) * 2 ^ 20

/-- The descriptor whose next part the arbiter submits (R180): in descriptor order, but a C3 part goes ahead when the credit
covers it, and otherwise waits for every other class. -/
def Fjoek.nextPart (m : Fjoek) (p : Nat) : Option Desc :=
  let ds := (m.driveDescs p).filter fun d => decide (d.sent < d.len) && !m.awaits d
  if !m.isOn DARN_CTL_en then ds.head?
  else
    match ds.find? (·.cls == 3), ds.find? (·.cls != 3) with
    | some c, some o => if m.partLen p c ≤ m.credit p then some c else some o
    | some c, none => some c
    | none, o => o

/-- Count the bytes of a submitted part, in 4 KiB units, and keep the credit, from which a C3 part is deducted when it covers it (R180,
R197). -/
def Fjoek.countPart (m : Fjoek) (p c n : Nat) : Fjoek :=
  let f := if c = 3 then DARN_C3B_count p else DARN_OTB_count p
  let m := m.bump f (ceilDiv n 4096)
  let m := m.when (m.get f == 2 ^ 32 - 1) fun m => m.cause DARN_STAT_cnt_sat 358
  if c = 3 then m.setCredit p (if n ≤ m.credit p then m.credit p - n else m.credit p)
  else
    let pct := Nat.min 50 (m.get DARN_FLOOR_pct)
    m.setCredit p (Nat.min m.creditCap (m.credit p + n * pct / (100 - pct)))

/-- Submit part after part as far as slots allow (R207). A port that refuses ends each part with SC 0xC4. -/
def feedParts (p : Nat) : Nat → Fjoek → Fjoek
  | 0, m => m
  | k + 1, m =>
    match m.nextPart p with
    | none => m
    | some d =>
      let n := m.partLen p d
      if m.refusing p then
        let m := m.setDesc { d with sent := d.sent + n, fails := d.fails ++ [(d.sent, portStatus 0xC4)] }
        feedParts p k (m.settleDrive d.id p)
      else
        let slot := (freeSlot (m.port p).slots ((m.port p).slots.length + 1) 0).getD 0
        let own := if d.dsp = 4 then some (d.key, (placeOf 0 (d.w 2)).at d.sent, n) else none
        match m.submit p (bitsOf (d.w 4) 15 8) (m.dataEntry p d d.sent n slot) (.data d.id d.sent n) own with
        | none => m
        | some (_, m) => feedParts p k ((m.setDesc { d with sent := d.sent + n }).countPart p d.cls n)

/-- A raw command's completion is copied to DRV_RCQE, and its event latches (R208). -/
def Fjoek.rawEnd (m : Fjoek) (p : Nat) (e : List Nat) : Fjoek :=
  let m := m.each e.zipIdx fun q m => m.setReg (DRV_RCQE p q.2) q.1
  (m.put (DRV_RCMD_busy p) 0).drvCause p DRV_ESTAT_raw

/-- Issue the held power state: Set Features, Power Management, on the admin queue (R213). On a trailing twin it takes its slot alone
(R215). -/
def Fjoek.issuePower (m : Fjoek) (p : Nat) : Fjoek :=
  let x := m.port p
  match x.psHeld with
  | none => m
  | some ps =>
    if x.psOut ∨ !m.drvUp p ∨ !x.queues then m
    else
      match m.submit p 0 [0x09, 0, 0, 0, 0, 0, 0, 0, 0, 0, 0x02, ps, 0, 0, 0, 0] (.power ps) none with
      | none => m
      | some (_, m) => m.setPort p { m.port p with psOut := true, psHeld := none }

/-- The port's own commands that wait for a slot take one; a raw command that waits when the port refuses ends with SC 0xC4 (R208, R214). -/
def Fjoek.placeWaiting (m : Fjoek) (p : Nat) : Fjoek :=
  m.each (m.port p).waiting fun w m =>
    let gone := fun (m : Fjoek) => m.setPort p { m.port p with waiting := (m.port p).waiting.filter (· != w) }
    if w.2.2 = .raw ∧ m.refusing p then (gone m).rawEnd p [0, 0, 0, portStatus 0xC4 * 2 ^ 17]
    else
      match m.submit p w.1 w.2.1 w.2.2 none with
      | none => m
      | some (_, m) => gone m

/-- Give slots to what waits on the port: its own commands, a held power state, and parts. -/
def Fjoek.fillPort (m : Fjoek) (p : Nat) : Fjoek :=
  let n := (m.placeWaiting p).issuePower p
  (feedParts p (((m.driveDescs p).map fun d => d.len / 512 + 1).sum) n).bells p m

/-- A command of the port's own is placed, or waits for a slot. -/
def Fjoek.placeCommand (m : Fjoek) (p y : Nat) (e : List Nat) (use : SlotUse) : Fjoek :=
  match m.submit p y e use none with
  | none => m.setPort p { m.port p with waiting := (m.port p).waiting ++ [(y, e, use)] }
  | some (_, n) => n.bells p m

/-- End one descriptor of the port with an NVMe status (R209). -/
def Fjoek.endDrive (m : Fjoek) (d : Desc) (status : Nat) : Fjoek :=
  m.completeDesc { d with code := 7, epstat := status, result := 0 }

/-- A started D descriptor goes to its port; a port out of service ends it (R209, R211). -/
def Fjoek.startDrive (m : Fjoek) (d : Desc) (p : Nat) : Fjoek :=
  if !m.drvUp p then
    m.setDesc { d with phase := .done, code := 7, epstat := portStatus (if m.isOn (DRV_PCTL_disable p) then 0xC2 else 0xC1) }
  else (m.setDesc { d with phase := .running }).fillPort p

/-! ## Completions (R207, R208, R213, R214) -/

/-- A fence ends on port `p` (R214). -/
def Fjoek.fenceEnd (m : Fjoek) (p : Nat) (ok : Bool) : Fjoek :=
  let m := m.setPort p { m.port p with fencing := false }
  let m :=
    if ok then m.put ⟨DRV_FSTAT, p, p⟩ 1
    else (m.put ⟨DRV_FFAIL, p, p⟩ 1).drvCause p DRV_ESTAT_fence
  m.fillPort p

/-- A completion entry of 4 dwords is taken on port `p`: it is matched to its slot by its command identifier. -/
def Fjoek.takeCompletion (m : Fjoek) (p : Nat) (e : List Nat) : Fjoek :=
  let x := m.port p
  let cid := nth e 3 0 % 65536
  let st := nth e 3 0 / 2 ^ 17
  match x.slots.find? fun s => s.slot == cid with
  | none => m.bump (DRV_LATE_count p) 1
  | some s =>
    let m := m.setPort p { x with
      slots := x.slots.filter fun t => t.slot != cid
      aborted := if x.aborted.map (·.1) = some cid then none else x.aborted }
    let m := (m.bump (DRV_CMDS_count p) 1).happen 0x10C 1
    match s.use with
    | .dead => (m.bump (DRV_LATE_count p) 1).fillPort p
    | .raw => ((m.logTwin 0x03 0x83 (p :: cid :: e)).rawEnd p e).fillPort p
    | .power ps =>
      let m := m.logTwin 0x03 0x83 (p :: cid :: e)
      let m := m.setPort p { m.port p with psOut := false }
      let m :=
        if st = 0 then ((m.put (DRV_PSCTL_cur p) ps).put (DRV_PSCTL_done p) 1).drvCause p DRV_ESTAT_ps_done
        else m.drvCause p DRV_ESTAT_psfail
      m.fillPort p
    | .fence => m.fenceEnd p (st == 0)
    | .data id off n =>
      match m.findDesc id with
      | none => m.fillPort p
      | some d =>
        let pr := if d.ssp = 4 then (List.range (n / 4096)).map fun j => m.blockPrint (placeOf 0 (d.w 1)) (off / 4096 + j) else []
        let m := (m.logTwin 0x03 0x83 (p :: cid :: e ++ pr)).when (d.ssp == 4) fun m =>
          m.notePrints (placeOf 0 (d.w 1)) (off / 4096) (n / 4096)
        let m := m.when (d.dsp == 4 && st % 2 ^ 11 == 0x83 && m.isOn TOP_STRAP_twin && m.isOn TWIN_STAT_role && !m.trailing) Fjoek.cede
        let m := m.setDesc { d with fails := if st = 0 then d.fails else d.fails ++ [(off, st % 2 ^ 15)] }
        (m.settleDrive id p).fillPort p

/-- Take the entries of completion queue `y` whose phase is new. -/
def scanQueue (p y : Nat) : Nat → Fjoek → Fjoek
  | 0, m => m
  | k + 1, m =>
    let x := m.port p
    let head := tableGet (fun _ => 0) x.heads y
    let ph := tableGet (fun _ => true) x.phases y
    let e := (List.range 4).map fun i => m.hbmNat (m.queueMem p y + 16384 + 16 * head + 4 * i) 4
    if bitOf (nth e 3 0) 16 ≠ ph then m
    else
      let m := m.setPort p { x with
        heads := tableSet (fun _ => 0) x.heads y ((head + 1) % 256)
        phases := if head = 255 then tableSet (fun _ => true) x.phases y (!ph) else x.phases }
      scanQueue p y k (m.takeCompletion p e)

/-- Scan completion queue `y` and write its head doorbell (R207). -/
def Fjoek.scan (m : Fjoek) (p y : Nat) : Fjoek :=
  if !m.drvUp p ∨ 64 < y ∨ m.trailing then m
  else
    let m := scanQueue p y 256 m
    m.output (.driveHead p y (tableGet (fun _ => 0) (m.port p).heads y))

/-! ## Inbound requests (R206) -/

/-- A refused inbound request. -/
def Fjoek.refuseInbound (m : Fjoek) (p : Nat) (write : Bool) : Fjoek :=
  let m := (m.bump (DRV_INVACC_count p) 1).drvCause p DRV_ESTAT_invacc
  if write then m else m.send (.driveReply p false false [])

/-- A started, incomplete descriptor of the port names lease `x`. -/
def Fjoek.namesLease (m : Fjoek) (p x : Nat) : Option Desc :=
  (m.driveDescs p).find? fun d => (if d.dsp = 4 then d.w 2 else d.w 1) % 65536 == x

/-- A drive's request: `data` for a write, `n` bytes for a read; `ep` marks a poisoned write, which the port counts as a non-fatal error
(R212; assumption 84, PRESUMED). Uncorrectable data that a drive reads gives its descriptor code 0x04 with the offset of the first poisoned
unit (R113, R114). -/
def Fjoek.inbound (m : Fjoek) (p : Nat) (write : Bool) (a n : Nat) (data : List Byte) (ep : Bool) : Fjoek :=
  let len := if write then data.length else n
  let m := m.when (write && ep && m.drvUp p) fun m => (m.bump (DRV_AERCNT_nf p) 1).drvCause p DRV_ESTAT_aer
  if !m.drvUp p ∨ m.trailing then m.refuseInbound p write
  else if 0x4000000000 ≤ a ∧ a < 0x5000000000 then
    let x := bitsOf a 35 20
    let o := bitsOf a 19 0
    match m.namesLease p x with
    | none => m.refuseInbound p write
    | some d =>
      if 256 * (m.leaseAt x).cells.length < o + len then m.refuseInbound p write
      else if write then
        let m := m.leasePut x o data
        if ep then m.poisonLease x o len else m
      else
        let (sp, m) := m.spans d.req (.cell x o) len
        let at_ := o + (spanCode sp).2 - d.w 2 / 2 ^ 32
        let m := if sp = [] then m else m.setDesc { d with code := 4, result := if d.code = 4 then Nat.min d.result at_ else at_ }
        m.send (.driveReply p true (sp != []) (m.leaseBytes x o len))
  else if 0x5000000000 ≤ a ∧ a + len ≤ 0x5000200000 then
    let h := m.get DRV_QBASE_base * 2 ^ 26 + p * 2 ^ 21 + (a - 0x5000000000)
    if write then m.hbmWrite h data
    else
      let (bad, m) := m.hbmDetect none h len
      m.send (.driveReply p true bad (m.hbmBytes h len))
  else if !write ∧ 0x5100000000 ≤ a ∧ a < 0x5101000000 then
    match (m.port p).slots.find? fun s => s.slot == (a - 0x5100000000) / 4096 with
    | some ⟨_, _, .data id off _⟩ =>
      match m.findDesc id with
      | some d =>
        let w := if d.dsp = 4 then d.w 2 else d.w 1
        let base := (leaseWindow w (w / 2 ^ 32 + off)) / 4096
        let list := (List.range 512).map fun i => bytesOf 8 ((base + 1 + i) * 4096)
        m.send (.driveReply p true false ((list.flatten.drop (a % 4096)).take len))
      | none => m.refuseInbound p write
    | _ => m.refuseInbound p write
  else if write ∧ 0x6000000000 ≤ a ∧ a % 4 = 0 ∧ a ≤ 0x6000000000 + 4 * 64 then m.scan p ((a - 0x6000000000) / 4)
  else m.refuseInbound p write

/-! ## End of service (R211) -/

/-- Service ends on port `p` with status code `sc`: every descriptor of the port and its raw command end, the port keeps no queue state, and
its link is disabled until the port is released; a trailing twin's Fjoek keeps its ports released (R203, R211). -/
def Fjoek.endService (m : Fjoek) (p sc : Nat) : Fjoek :=
  let x := m.port p
  let was := m.drvUp p
  let auto := m.isOn (DRV_PCTL_auto p)
  let m := m.setPort p { portReset p with
    perst := if auto ∨ m.isOn (DRV_PCTL_disable p) then false else x.perst
    psHeld := x.psHeld, tempFails := x.tempFails, linkOff := !m.trailing }
  let m := m.put (DRV_PSTAT_up p) 0
  let m := m.each (m.driveDescs p) fun d m => m.endDrive d (portStatus sc)
  let m :=
    if m.isOn (DRV_RCMD_busy p) then m.rawEnd p [0, 0, 0, portStatus sc * 2 ^ 17] else m
  let m := if x.fencing then (m.put ⟨DRV_FFAIL, p, p⟩ 1).drvCause p DRV_ESTAT_fence else m
  let m := m.when (was && m.leads) fun m => m.logTwin 0x0B 0x83 [1, p, sc]
  if was then m.latch (384 + 2 * p) else m

/-- Ports that this twin has lost while the lead's stay in service (R363). -/
def Fjoek.settlePortDiff (m : Fjoek) : Fjoek :=
  if !m.trailing then m
  else
    let d := (List.range 24).foldl (fun v p => v + bnat (bitOf m.twin.leadPorts p && !m.drvUp p) * 2 ^ p) 0
    let new := d &&& (2 ^ 24 - 1 - m.get TWIN_PORTDIFF_ports)
    (m.put TWIN_PORTDIFF_ports d).when (new != 0) fun m => m.cause TWIN_ESTAT_portdiff 472

/-! ## Fences (R214) -/

/-- The port waits no longer for its fence's completion, which is unmatched when it comes (R210, R214). -/
def Fjoek.dropFence (m : Fjoek) (p : Nat) : Fjoek :=
  let x := m.port p
  m.setPort p { x with
    slots := x.slots.map fun s => if s.use = .fence then { s with use := .dead } else s
    waiting := x.waiting.filter fun w => w.2.2 != .fence }

/-- Issue the fence on port `p`: Reservation Acquire, preempt, on queue 64. Its 16 data bytes stand at the end of the
port's queue memory (assumption 14). A fence still out is given up. -/
def Fjoek.fencePort (m : Fjoek) (p : Nat) : Fjoek :=
  if m.trailing then m
  else
    let off := 0x1FF000
    let key := bytesOf 8 (m.reg64 DRV_RKEY_LO) ++ bytesOf 8 (m.reg64 DRV_PKEY_LO)
    let m := m.hbmWrite (m.get DRV_QBASE_base * 2 ^ 26 + p * 2 ^ 21 + off) key
    let a := 0x5000000000 + off
    let e := [0x11, m.reg (DRV_FNSID p), 0, 0, 0, 0, a % 2 ^ 32, a / 2 ^ 32, 0, 0, 0x101, 0, 0, 0, 0, 0]
    let m := m.dropFence p
    let m := m.setPort p { m.port p with fencing := true }
    if !m.drvUp p then m.fenceEnd p false else m.placeCommand p 64 e .fence

/-- DRV_FCMD.go, or the TWIN block at takeover. -/
def Fjoek.fenceGo (m : Fjoek) : Fjoek :=
  let mask := m.get DRV_FENCE_pmask
  let ps := (List.range 24).filter fun p => bitOf mask p
  let m := m.each ps fun p m => (m.put ⟨DRV_FSTAT, p, p⟩ 0).put ⟨DRV_FFAIL, p, p⟩ 0
  m.each ps fun p m => m.fencePort p

/-- DRV_FCMD.clr. -/
def Fjoek.fenceClear (m : Fjoek) : Fjoek :=
  let f := m.get DRV_FFAIL_fail
  (m.put DRV_FFAIL_fail 0).each ((List.range 24).filter fun p => bitOf f p) fun p m => m.fillPort p

/-- What a Block reset of MNGL does to a started D descriptor (R116 step 4). -/
def Fjoek.killDrive (m : Fjoek) (d : Desc) : Fjoek :=
  match d.drive with
  | none => m
  | some p =>
    let x := m.port p
    m.setPort p { x with slots := x.slots.map fun s =>
      match s.use with
      | .data i _ _ => if i = d.id then { s with use := .dead } else s
      | _ => s }

end Sys2Proof.Machine
end

