-- ==== Sys2Proof/Machine/Layout.lean ====
section
/-! DEFINITION. The declustered layout (R118 to R122), the rounds of Darn as MRAM holds them (R174, R175), and the arithmetic
from namespace LBA to member LBA (R128), and what a label holds (R126, R127, R137, R177). The library's records in MRAM have their one
home there and are read from it. -/

namespace Sys2Proof.Machine

/-- A list in rising order of a key. -/
def insertBy {α : Type} (f : α → Nat) (a : α) : List α → List α
  | [] => [a]
  | b :: r => if f a ≤ f b then a :: b :: r else b :: insertBy f a r
def sortBy {α : Type} (f : α → Nat) (l : List α) : List α := l.foldr (insertBy f) []

/-! ## Parameters (R118) -/

def Lw (l : Layout) : Nat := l.k + l.m
/-- Row depth d, stripes of a row q, stripes of a period Q, member LBAs of a strip U, pool blocks of a stripe K. -/
def Ld (l : Layout) : Nat := Lw l / Nat.gcd (l.n - l.s) (Lw l)
def Lq (l : Layout) : Nat := (l.n - l.s) * Ld l / Lw l
def LQ (l : Layout) : Nat := l.rowCount * Lq l
def LU (l : Layout) : Nat := l.u / 4096
def LK (l : Layout) : Nat := l.k * LU l
/-- Pool blocks of an allocation unit. -/
def Lau (l : Layout) : Nat := ceilDiv (2 ^ 30) (l.k * l.u) * l.k * LU l

/-- The limits of R118. -/
def layoutLimits (l : Layout) : Bool :=
  decide (2 ≤ l.k ∧ l.k ≤ 16 ∧ 1 ≤ l.m ∧ l.m ≤ 4 ∧ 3 ≤ Lw l ∧ Lw l ≤ 20 ∧ l.s ≤ 4 ∧ Lw l + l.s ≤ l.n ∧ l.n ≤ 24 ∧
    16384 ≤ l.u ∧ l.u ≤ 2 ^ 20 ∧ 1 ≤ l.rowCount ∧ l.rowCount ≤ 4096) && l.u == 2 ^ l.u.log2

/-- A little-endian field of a row record. -/
def rowField (r : List Nat) (o n : Nat) : Nat := hdrNat r o n

def rowOf (l : Layout) (r : Nat) : List Nat := nth l.rows r []

/-- Entry `j` of row `r`: member and depth (R121). -/
def entryMember (l : Layout) (r j : Nat) : Nat := bitsOf (rowField (rowOf l r) (0x10 + 2 * j) 2) 15 11
def entryDepth (l : Layout) (r j : Nat) : Nat := bitsOf (rowField (rowOf l r) (0x10 + 2 * j) 2) 10 6

/-- The subsets of a list with exactly `n` elements. -/
def chooseN : Nat → List Nat → List (List Nat)
  | 0, _ => [[]]
  | _ + 1, [] => []
  | n + 1, x :: r => (chooseN n r).map (x :: ·) ++ chooseN (n + 1) r

/-- The strips, as entry numbers, can all be placed on different spare entries without two strips of a stripe on one
member; `held` lists (stripe, member) pairs already taken. -/
def placeAll (l : Layout) (r : Nat) : List Nat → List Nat → List (Nat × Nat) → Bool
  | [], _, _ => true
  | j :: js, spares, held =>
    let x := j / Lw l
    spares.any fun p =>
      let mem := entryMember l r p
      !held.contains (x, mem) && placeAll l r js (spares.filter (· != p)) ((x, mem) :: held)

/-- The strips of row `r`, as entry numbers, and its spare entries. -/
def rowStrips (l : Layout) : List Nat := List.range (Lq l * Lw l)
def rowSpares (l : Layout) : List Nat := (List.range (l.s * Ld l)).map fun i => Lq l * Lw l + i

/-- The (stripe, member) pairs of the strips that are not in `lost`. -/
def heldPairs (l : Layout) (r : Nat) (lost : List Nat) : List (Nat × Nat) :=
  ((rowStrips l).filter fun j => !lost.contains j).map fun j => (j / Lw l, entryMember l r j)

/-- The checks of R122 on row `r`. -/
def rowOk (l : Layout) (r : Nat) : Bool :=
  let b := rowOf l r
  let slots := l.n * Ld l
  let pairs := (List.range slots).map fun j => (entryMember l r j, entryDepth l r j)
  b.length == 1024 && rowField b 0 2 == r && rowField b 2 2 == slots && rowField b 4 2 == Lq l &&
  rowField b 6 2 == l.s * Ld l && rowField b 12 4 == 0 && rowField b 8 4 == crc32c (b.drop 16) &&
  (pairs.all fun p => decide (p.1 < l.n ∧ p.2 < Ld l)) && decide pairs.Nodup &&
  ((List.range (Lq l)).all fun x => decide ((List.range (Lw l)).map fun i => entryMember l r (x * Lw l + i)).Nodup) &&
  (List.range (l.s + 1)).all fun c => (chooseN c (List.range l.n)).all fun f =>
    let lost := (rowStrips l).filter fun j => f.contains (entryMember l r j)
    placeAll l r lost ((rowSpares l).filter fun j => !f.contains (entryMember l r j)) (heldPairs l r lost)

/-- A layout that R118 and R122 accept. -/
def layoutOk (l : Layout) : Bool := layoutLimits l && l.rows.length == l.rowCount && (List.range l.rowCount).all (rowOk l)

/-- The repetition count for a smallest member of `n` LBAs (R120). -/
def layoutReps (l : Layout) (n : Nat) : Nat := (Nat.min n (2 ^ 35) - 409600) / (LU l * l.rowCount * Ld l)

/-- Pool capacity in AUs (R127). -/
def layoutAus (l : Layout) (reps : Nat) : Nat := reps * LQ l * LK l / Lau l

/-! ## Pools -/

def Fjoek.pool? (m : Fjoek) (p : Nat) : Option Pool := tableGet (fun _ => none) m.lib.pools p

def Fjoek.setPool (m : Fjoek) (p : Nat) (x : Pool) : Fjoek :=
  { m with lib := { m.lib with pools := tableSet (fun _ => none) m.lib.pools p (some x) } }

/-- Apply `f` to pool `p`, if it exists. -/
def Fjoek.onPool (m : Fjoek) (p : Nat) (f : Pool → Fjoek → Fjoek) : Fjoek :=
  match m.pool? p with
  | none => m
  | some x => f x m

def noMember : Member := { serial := 0, state := 2, lbas := 0, port := none, epoch := 0, resync := false, entry := 23 }

def Pool.mem (x : Pool) (i : Nat) : Member := nth x.members i noMember

/-- The layout below (side 0) or above (side 1) a reshape boundary; without a reshape both are the pool's (R149). -/
def Pool.lay (x : Pool) (side : Nat) : Layout :=
  match x.next with
  | some l => if side = 0 then l else x.layout
  | none => x.layout

def Pool.rel (x : Pool) (side : Nat) : List Nat := if side = 0 then x.reloc else x.relocAbove

/-- Pool capacity in stripes of a layout. -/
def Pool.stripes (x : Pool) (side : Nat) : Nat :=
  (if side = 0 ∧ x.next.isSome then x.nextReps else x.reps) * LQ (x.lay side)

/-- A member operation leaves the library (assumption 15). -/
def Fjoek.member (m : Fjoek) (p i op lba n : Nat) (data : List Byte) : Fjoek := m.output (.member p i op lba n data)

/-! ## Labels (R119, R126, R127, R137) -/

/-- Whole blocks go to LBA `lba` of every present member with FUA (R137). -/
def Fjoek.toLabels (m : Fjoek) (p lba : Nat) (data : List Byte) : Fjoek :=
  m.onPool p fun x m => m.each x.members.zipIdx fun q m =>
    m.when q.1.port.isSome fun m => m.member p q.2 1 lba (ceilDiv data.length 4096) data

/-- Bytes filled up with zeros to `n`. -/
def padTo (n : Nat) (b : List Byte) : List Byte := b ++ List.replicate (n - b.length) 0

/-- A namespace table entry (R126): its 60 bytes and their CRC. -/
def nsEntry (b : List Byte) : List Byte := b ++ bytesOf 4 (crc32c (b.map BitVec.toNat))
def nsBytesOf (r : NsRec) : List Byte :=
  let flags := 1 + 2 * bnat r.writeBack + 4 * bnat r.encrypted + 8 * bnat r.big + 16 * bnat r.zeroed
  nsEntry (bytesOf 4 r.nsid ++ bytesOf 1 flags ++ bytesOf 1 r.pi ++ bytesOf 2 r.ms ++ bytesOf 4 r.aus ++ bytesOf 2 r.xslot ++
    bytesOf 2 0 ++ bytesOf 16 r.nguid ++ bytesOf 4 r.gen ++ bytesOf 24 0)

/-- An entry in an unused slot: NSID 0, and its CRC too (R126). -/
def nsUnused : List Byte := nsEntry (bytesOf 60 0)

/-- The entry that 64 bytes hold, if it is valid and its CRC is right. -/
def nsOfBytes (b : List Nat) : Option NsRec :=
  let f := hdrNat b
  if !bitOf (f 4 1) 0 ∨ f 0 4 = 0 ∨ f 0x3C 4 ≠ crc32c (b.take 0x3C) then none
  else some { nsid := f 0 4, writeBack := bitOf (f 4 1) 1, encrypted := bitOf (f 4 1) 2, big := bitOf (f 4 1) 3
              zeroed := bitOf (f 4 1) 4, pi := f 5 1, ms := f 6 2, aus := f 8 4, xslot := f 0xC 2, nguid := f 0x10 16, gen := f 0x20 4 }

/-- Entries `i` to `i + n − 1` of the namespace table, and of the allocation map (R126, R127). -/
def Pool.nsBytes (x : Pool) (i n : Nat) : List Byte :=
  ((List.range n).map fun j => match tableFind x.ns (i + j) with
    | some r => nsBytesOf r
    | none => nsUnused).flatten
def Pool.mapBytes (x : Pool) (i n : Nat) : List Byte :=
  ((List.range n).map fun j => bytesOf 2 (match tableFind x.map (i + j) with
    | some s => 2 ^ 15 + s
    | none => 0)).flatten

/-- What the pool record carries: the parameters of R118, the UUID, the generation, the members, the journal copies (R151), the CRCs of the
namespace table and of the map (R127), the round records (R179), the copy-back cursor (R187) and the reshape record (R194). -/
def Pool.recordFields (x : Pool) (progress : List Byte) : List Nat :=
  let l := fun (l : Layout) => [l.k, l.m, l.n, l.s, l.u, l.rowCount]
  let crc := fun (b : List Byte) => crc32c (b.map BitVec.toNat)
  [x.uuid, x.gen, x.ms, x.pi, x.window, bnat x.portable, x.jx0.getD 24, x.jx1.getD 24, x.reps, x.kau] ++ l x.layout ++
    (x.next.map l).getD [] ++ (x.members.map fun q => [q.serial, q.state, q.lbas]).flatten ++
    [crc (x.nsBytes 0 4096), crc (x.mapBytes 0 (x.reps * LQ x.layout * LK x.layout / Nat.max 1 x.kau))] ++ progress.map BitVec.toNat

/-- MRAM addresses of the reshape record and of the copy-back cursor of pool `p` (R187, R194). -/
def reshapeAt (p : Nat) : Nat := 0x5201400 + 0x1000 * p
def cursorAt (p : Nat) : Nat := 0x5201200 + 0x1000 * p

/-- The pool record as it stands goes to every present member's label. -/
def Fjoek.writeRecord (m : Fjoek) (p : Nat) : Fjoek :=
  m.onPool p fun x m =>
    let progress := m.mramBytes (0x5201000 + 0x1000 * p) 0x210 ++ m.mramBytes (reshapeAt p) 64
    m.toLabels p 0 (padTo 4096 ((Config.poolRecord (x.recordFields progress)).take 1024))

/-- A layout table as it stands in a label (R121). -/
def layoutBytes (l : Layout) : List Byte := padTo (4096 * ceilDiv l.rows.flatten.length 4096) (l.rows.flatten.map (BitVec.ofNat 8))

/-- The layout table goes to every present member's label at byte 0x1000 (R121), and that of a reshape beside it, at an LBA that is the model's
choice (assumption 16). -/
def Fjoek.tableToLabels (m : Fjoek) (p : Nat) : Fjoek :=
  m.onPool p fun x m =>
    let m := m.toLabels p 1 (layoutBytes x.layout)
    match x.next with
    | some l => m.toLabels p 5120 (layoutBytes l)
    | none => m

/-- The relocation table of a side (R177): the label has a place for one table, at byte 0x0080_0000; where the second stands that a paused
reshape has (R196) is the model's choice, after the greatest first one (assumption 16). -/
def relocLba (side : Nat) : Nat := 2048 + 640 * side
def Pool.relocBytes (x : Pool) (side : Nat) : List Byte :=
  let b := ((x.rel side).map (bytesOf 8)).flatten
  padTo (4096 * ceilDiv (b.length + 1) 4096) b

/-- The pool's journal header entry (R150): pool UUID, mode, last commit group, last label generation. The places of these
fields within the 64 bytes, and that of the clean mark (R158), are the model's (assumption 16). -/
def jheadAt (p : Nat) : Nat := 0x5200000 + 64 * p

def Fjoek.storeHead (m : Fjoek) (p : Nat) (x : Pool) (clean : Bool) : Fjoek :=
  m.mramPut (jheadAt p) (bytesOf 16 x.uuid ++ bytesOf 1 (bnat x.portable) ++ bytesOf 7 (bnat clean) ++ bytesOf 8 (x.group - 1) ++
    bytesOf 8 x.gen ++ bytesOf 24 0)

def Fjoek.headClean (m : Fjoek) (p : Nat) : Bool := m.mramNat (jheadAt p + 17) 7 != 0

/-- While a reshape runs, its record names the generation that the new pool record will carry: the one after the pool's present one (R194). -/
def Fjoek.stampReshape (m : Fjoek) (p gen : Nat) : Fjoek :=
  let b := m.mramBytes (reshapeAt p) 0x38
  if b.headD 0 = 0 then m
  else
    let r := b.take 0x18 ++ bytesOf 8 (m.mramNat (reshapeAt p + 0x18) 8 + 1) ++ (b.drop 0x20).take 4 ++ bytesOf 4 gen ++ b.drop 0x28
    m.mramPut (reshapeAt p) (r ++ bytesOf 4 (crc32c (r.map BitVec.toNat)) ++ bytesOf 4 0)

/-- The label generation advances, in the journal header too, and the pool record goes to every present member (R137, R150). -/
def Fjoek.newGen (m : Fjoek) (p : Nat) : Fjoek :=
  m.onPool p fun x m =>
    let y : Pool := { x with gen := x.gen + 1 }
    let m := m.setPool p y
    let m := m.when x.next.isSome fun m => m.stampReshape p ((y.gen + 1) % 2 ^ 32)
    (m.when (m.mramNat (jheadAt p) 16 == x.uuid) fun m => m.storeHead p y (m.headClean p)).writeRecord p

/-! ## Rounds (R174, R175) -/

/-- MRAM address of round record `j` of pool `p`. -/
def roundAt (p j : Nat) : Nat := 0x5201000 + 0x1000 * p + 64 * j

/-- A round record that passes its CRC. -/
structure Round where
  kind : Nat
  j : Nat
  paused : Bool
  side : Nat
  fmask : Nat
  amask : Nat
  gen : Nat
  start : Nat
  cbucket : Nat
  csig : Nat
  deriving DecidableEq, Repr

def emptyRound (j : Nat) : Round :=
  { kind := 0, j := j, paused := false, side := 0, fmask := 0, amask := 0, gen := 0, start := 0, cbucket := 0, csig := 0 }

def Fjoek.roundRec (m : Fjoek) (p j : Nat) : Round :=
  let a := roundAt p j
  let f := fun o n => m.mramNat (a + o) n
  if f 0 1 = 0 ∨ f 0x28 4 ≠ crc32c ((m.mramBytes a 0x28).map BitVec.toNat) then emptyRound j
  else { kind := f 0 1, j := f 1 1, paused := bitOf (f 2 1) 0, side := bitsOf (f 2 1) 1 1, fmask := f 4 4 % 2 ^ 24
         amask := f 8 4 % 2 ^ 24, gen := f 0xC 4, start := f 0x10 8, cbucket := f 0x30 1, csig := f 0x31 7 }

def Round.bytes (r : Round) : List Byte :=
  let b := bytesOf 1 r.kind ++ bytesOf 1 r.j ++ bytesOf 1 (bnat r.paused + 2 * r.side) ++ bytesOf 1 0 ++ bytesOf 4 r.fmask ++
    bytesOf 4 r.amask ++ bytesOf 4 r.gen ++ bytesOf 8 r.start ++ bytesOf 16 0
  b ++ bytesOf 4 (crc32c (b.map BitVec.toNat)) ++ bytesOf 4 0 ++ bytesOf 1 r.cbucket ++ bytesOf 7 r.csig ++ bytesOf 8 0

def Fjoek.setRound (m : Fjoek) (p : Nat) (r : Round) : Fjoek := m.mramPut (roundAt p r.j) r.bytes

/-- The record of pool `p`'s active round on a side. -/
def Fjoek.activeRound (m : Fjoek) (p side : Nat) : Option Round :=
  ((List.range 8).map (m.roundRec p)).find? fun r => r.kind == 1 && r.side == side

/-- The cursor of a round: that of the active round is the live one (R179). -/
def Fjoek.cursor (m : Fjoek) (x : Pool) (p : Nat) (r : Round) : Nat × Nat :=
  if r.kind = 1 ∧ (m.activeRound p r.side).isSome then (if r.side = 0 then x.live else x.liveAbove) else (r.cbucket, r.csig)

/-! ## Relocation (R176, R177) -/

/-- The relocation entry of a lost strip: member, row and entry number. -/
def findReloc (t : List Nat) (mem r j : Nat) : Option Nat :=
  t.find? fun e => bitOf e 0 && bitsOf e 33 29 == mem && bitsOf e 63 52 == r && bitsOf e 51 43 == j

def relocSpare (e : Nat) : Nat := bitsOf e 42 34
def relocRound (e : Nat) : Nat := bitsOf e 28 26

def makeReloc (r j sp mem rd : Nat) : Nat :=
  r * 2 ^ 52 + j * 2 ^ 43 + sp * 2 ^ 34 + mem * 2 ^ 29 + rd % 8 * 2 ^ 26 + 1

/-- Row and stripe in the row of stripe `sig`, and its repetition. -/
def stripeRow (l : Layout) (sig : Nat) : Nat := sig % LQ l / Lq l
def stripeIn (l : Layout) (sig : Nat) : Nat := sig % LQ l % Lq l
def stripeRep (l : Layout) (sig : Nat) : Nat := sig / LQ l

/-- The entry number of strip `i` of stripe `sig`. -/
def stripEntry (l : Layout) (sig i : Nat) : Nat := stripeIn l sig * Lw l + i

/-- Whether strip `i` counts as done, given rounds in order of start with whether each passed the stripe (R175). A round counts for the members
that it was for: once a member is REPLACING its entries stop counting in later rounds (R187; assumption 96). -/
def doneBy (x : Pool) (side sig i : Nat) (passed : List (Round × Bool)) : Bool :=
  let l := x.lay side
  let r := stripeRow l sig
  let e := stripEntry l sig i
  let mem := entryMember l r e
  match findReloc (x.rel side) mem r e with
  | none => false
  | some a => (passed.dropWhile fun q => q.1.j != relocRound a).any fun q => q.2 && bitOf q.1.fmask mem

/-- The bucket of stripe `sig` in a round, given the rounds before it (R175). -/
def bucketOf (x : Pool) (side sig fmask : Nat) (passed : List (Round × Bool)) : Nat :=
  let l := x.lay side
  let c := ((List.range (Lw l)).filter fun i =>
    bitOf fmask (entryMember l (stripeRow l sig) (stripEntry l sig i)) && !doneBy x side sig i passed).length
  Nat.min c (l.m + 1)

/-- The in-flight window of round `j` (R175, R179). -/
def Pool.windowOf (x : Pool) (j : Nat) : List Nat := tableGet (fun _ => []) x.windows j

/-- The rounds of a side in order of start (R174): a record that is used again counts by its new start. -/
def Fjoek.sideRounds (m : Fjoek) (p side : Nat) : List Round :=
  sortBy (fun r => r.start * 2 ^ 32 + r.gen) (((List.range 8).map (m.roundRec p)).filter fun r => r.kind != 0 && r.side == side)

/-- Which of rounds, in order of start, have passed stripe `sig`, after those of `l`. -/
def Fjoek.passedAll (m : Fjoek) (x : Pool) (p side sig : Nat) : List Round → List (Round × Bool) → List (Round × Bool)
  | [], l => l
  | r :: t, l =>
    let (cb, cs) := m.cursor x p r
    let b := bucketOf x side sig r.fmask l
    let v := r.kind == 3 || decide (cb < b) || (b == cb && (decide (sig < cs) || (x.windowOf r.j).contains sig))
    m.passedAll x p side sig t (l ++ [(r, v)])

/-- The bucket of stripe `sig` in round `r`. -/
def Fjoek.bucketIn (m : Fjoek) (x : Pool) (p side sig : Nat) (r : Round) : Nat :=
  bucketOf x side sig r.fmask (m.passedAll x p side sig ((m.sideRounds p side).takeWhile fun q => q.j != r.j) [])

def Fjoek.done (m : Fjoek) (x : Pool) (p side sig i : Nat) : Bool :=
  doneBy x side sig i (m.passedAll x p side sig (m.sideRounds p side) [])

/-! ## The absence map (R139) -/

/-- The number of a member's entry. -/
def Fjoek.absEntry (m : Fjoek) (p i : Nat) : Nat :=
  match m.pool? p with
  | none => i
  | some x => (x.mem i).entry

/-- The entries of the members of every pool but `p`. -/
def Fjoek.entriesBut (m : Fjoek) (p : Nat) : List Nat :=
  ((List.range 4).map fun q => if q = p then [] else match m.pool? q with
    | none => []
    | some x => x.members.map (·.entry)).flatten

/-- The entry for member `i` of pool `p`: its member index where that is free, else the lowest free one, as 24 entries serve the members
of every pool (assumption 16, DESIGN CHOICE). -/
def newEntry (used : List Nat) (i : Nat) : Nat :=
  if used.contains i then ((List.range 24).find? fun e => !used.contains e).getD 23 else i

/-- The entry that MRAM holds for a drive of a pool, if one does. -/
def Fjoek.entryOf (m : Fjoek) (serial uuid : Nat) : Option Nat :=
  (List.range 24).find? fun e => m.mramNat (0x4000000 + 0x5000 * e) 32 == serial && m.mramNat (0x4000000 + 0x5000 * e + 32) 16 == uuid

/-- Entries for the members of pool `p` from index `i` on: those that MRAM holds for them, else new ones. -/
def Fjoek.giveEntries (m : Fjoek) (uuid : Nat) : List Nat → Nat → List Member → List Member
  | _, _, [] => []
  | used, i, q :: r =>
    let e := match m.entryOf q.serial uuid with
      | some e => if used.contains e then newEntry used i else e
      | none => newEntry used i
    { q with entry := e } :: m.giveEntries uuid (e :: used) (i + 1) r

def Fjoek.absAt (m : Fjoek) (p i : Nat) : Nat := 0x4000000 + 0x5000 * m.absEntry p i

/-- Region `g` of a member is set. -/
def Fjoek.absBit (m : Fjoek) (p i g : Nat) : Bool :=
  decide (g < 131072) && bitOf (m.mramByte (m.absAt p i + 0x1000 + g / 8)).toNat (g % 8)

def Fjoek.setAbsBit (m : Fjoek) (p i g : Nat) (v : Bool) : Fjoek :=
  let a := m.absAt p i + 0x1000 + g / 8
  m.mramPut a (bytesOf 1 (withBits (m.mramByte a).toNat (g % 8) (g % 8) (bnat v)))

/-- Set regions of a member, in ascending order. -/
def Fjoek.absRegions (m : Fjoek) (p i : Nat) : List Nat :=
  let a := m.absAt p i + 0x1000
  ((m.mram.filter fun e => decide (a ≤ e.1 ∧ e.1 < a + 16384)).map fun e =>
    ((List.range 8).filter fun j => bitOf e.2.toNat j).map fun j => 8 * (e.1 - a) + j).flatten

/-- Write the entry's header: serial number, pool UUID, label generation, time, window left in ms. The places of these fields
are the model's (assumption 16). -/
def Fjoek.absHeader (m : Fjoek) (p i serial uuid gen left : Nat) : Fjoek :=
  m.mramPut (m.absAt p i) (bytesOf 32 serial ++ bytesOf 16 uuid ++ bytesOf 8 gen ++ bytesOf 8 m.time ++ bytesOf 8 left)

/-- Clear an entry's bitmap. -/
def Fjoek.absClear (m : Fjoek) (p i : Nat) : Fjoek :=
  m.each (m.absRegions p i) fun g m => m.setAbsBit p i g false

/-! ## Places of strips (R128) -/

/-- First member LBA of chunk slot `c`. -/
def slotLba (l : Layout) (c : Nat) : Nat := 409600 + c * LU l

/-- Chunk slot of entry `j` of row `r` in repetition `t`. -/
def entrySlot (l : Layout) (t r j : Nat) : Nat := t * l.rowCount * Ld l + r * Ld l + entryDepth l r j

/-- The round that assigned a relocation entry still sweeps for its member: the strip is pending again (R181). -/
def Fjoek.pendingAgain (m : Fjoek) (p mem a : Nat) : Bool :=
  let r := m.roundRec p (relocRound a)
  (r.kind == 1 || r.kind == 2) && bitOf r.amask mem

/-- The stripes of a side of a reshape boundary: from, and up to (R190, R196). While a unit stands in scratch, its old stripes are in force no
more (R193). -/
def Fjoek.sideRange (m : Fjoek) (x : Pool) (p side : Nat) : Nat × Nat :=
  let n := x.stripes side
  if x.next = none then (0, n)
  else
    let b := m.mramNat (reshapeAt p + 8) 8
    if side = 0 then (0, Nat.min n (b / LK (x.lay 0)))
    else ((b + if m.mramNat (reshapeAt p) 1 = 2 then m.mramNat (reshapeAt p + 4) 4 else 0) / LK (x.lay 1), n)

/-- A stripe's place in the sweep of copy-back: below a reshape boundary first (R187, R196). -/
def Fjoek.sweepAt (m : Fjoek) (x : Pool) (p side sig : Nat) : Nat :=
  if side = 0 then sig else (m.sideRange x p 0).2 + (sig - (m.sideRange x p 1).1)

/-- A strip lies at its relocation target (R128, R175, R181, R187). -/
def Fjoek.relocated (m : Fjoek) (x : Pool) (p side sig i : Nat) : Bool :=
  let l := x.lay side
  let r := stripeRow l sig
  let e := stripEntry l sig i
  let mem := entryMember l r e
  match (x.mem mem).state with
  | 2 => m.done x p side sig i
  | 3 => (match findReloc (x.rel side) mem r e with
    | some a => !m.pendingAgain p mem a || m.done x p side sig i
    | none => true)
  | 4 => decide (x.copied ≤ m.sweepAt x p side sig) && m.done x p side sig i
  | _ => false

/-- Member and first member LBA of strip `i` of stripe `sig`. -/
def Fjoek.stripPlace (m : Fjoek) (x : Pool) (p side sig i : Nat) : Nat × Nat :=
  let l := x.lay side
  let r := stripeRow l sig
  let e := stripEntry l sig i
  let mem := entryMember l r e
  let e' := if m.relocated x p side sig i then
    match findReloc (x.rel side) mem r e with
    | some a => relocSpare a
    | none => e
    else e
  (entryMember l r e', slotLba l (entrySlot l (stripeRep l sig) r e'))

/-- A strip is lost (R129): the member that holds it is absent, failed or unpopulated, its region of the absence map is
set, or it awaits rebuild. -/
def Fjoek.stripLost (m : Fjoek) (x : Pool) (p side sig i : Nat) : Bool :=
  let l := x.lay side
  let home := x.mem (entryMember l (stripeRow l sig) (stripEntry l sig i))
  let (mem, lba) := m.stripPlace x p side sig i
  let q := x.mem mem
  (decide (2 ≤ home.state ∧ home.state ≤ 4) && !m.relocated x p side sig i &&
    !(home.state == 4 && decide (m.sweepAt x p side sig < x.copied))) ||
  q.port == none || (q.state != 0 && q.state != 4 && q.state != 5 && !q.resync) || (q.resync && m.absBit p mem (lba / 262144))

def Fjoek.lostStrips (m : Fjoek) (x : Pool) (p side sig : Nat) : List Nat :=
  (List.range (Lw (x.lay side))).filter (m.stripLost x p side sig)

/-- A lost strip is lost to absence: its member may return. -/
def Fjoek.stripAbsent (m : Fjoek) (x : Pool) (p side sig i : Nat) : Bool :=
  let q := x.mem (m.stripPlace x p side sig i).1
  q.state == 1 || q.resync

/-- The k readable strips with the lowest entry numbers. -/
def Fjoek.sourceStrips (m : Fjoek) (x : Pool) (p side sig : Nat) : List Nat :=
  ((List.range (Lw (x.lay side))).filter fun i => !m.stripLost x p side sig i).take (x.lay side).k

/-! ## Pool status (R138) -/

/-- The reshape record of pool `p` (R194). -/
def Fjoek.reshapeOk (m : Fjoek) (p : Nat) : Bool :=
  m.mramNat (reshapeAt p + 0x38) 4 == crc32c ((m.mramBytes (reshapeAt p) 0x38).map BitVec.toNat)
def Fjoek.reshapePhase (m : Fjoek) (p : Nat) : Nat := if m.reshapeOk p then m.mramNat (reshapeAt p) 1 else 0
def Fjoek.reshapeE (m : Fjoek) (p : Nat) : Nat := m.mramNat (reshapeAt p + 4) 4
def Fjoek.reshapeB (m : Fjoek) (p : Nat) : Nat := m.mramNat (reshapeAt p + 8) 8

/-- Store the reshape record and write it to the label of every present member (R192). -/
def Fjoek.storeReshape (m : Fjoek) (p phase e b a g0 g1 : Nat) : Fjoek :=
  let seq := m.mramNat (reshapeAt p + 0x18) 8 + 1
  let r := bytesOf 1 phase ++ bytesOf 3 0 ++ bytesOf 4 e ++ bytesOf 8 b ++ bytesOf 8 a ++ bytesOf 8 seq ++ bytesOf 4 g0 ++
    bytesOf 4 g1 ++ bytesOf 16 0
  (m.mramPut (reshapeAt p) (r ++ bytesOf 4 (crc32c (r.map BitVec.toNat)) ++ bytesOf 4 0)).writeRecord p

/-- The side of a stripe's pool blocks: below or above the boundary. -/
def Fjoek.sides (x : Pool) : List Nat := if x.next.isSome then [0, 1] else [0]

/-- The stripes in force on a side. -/
def Fjoek.sideStripes (m : Fjoek) (x : Pool) (p side : Nat) : List Nat :=
  let (lo, hi) := m.sideRange x p side
  (List.range (hi - lo)).map (lo + ·)

/-- Some stripe in force in the pool has lost strips that satisfy `f`. -/
def Fjoek.someStripe (m : Fjoek) (x : Pool) (p : Nat) (f : Nat → List Nat → Nat → Bool) : Bool :=
  (Fjoek.sides x).any fun side => (m.sideStripes x p side).any fun sig => f side (m.lostStrips x p side sig) sig

/-- The lost-extent list entry `i` (R184), as its fields. -/
def lostAt (i : Nat) : Nat := 0x5300000 + 48 * i

/-- The numbers of the valid entries. -/
def Fjoek.lostEntries (m : Fjoek) : List Nat :=
  (m.mram.filter fun e => decide (0x5300000 ≤ e.1 ∧ e.1 < 0x5600000) && (e.1 - 0x5300000) % 48 == 1 && bitOf e.2.toNat 7).map
    fun e => (e.1 - 0x5300000) / 48

/-- The pool status word (R138). -/
def Fjoek.poolStatus (m : Fjoek) (p : Nat) : Nat :=
  match m.pool? p with
  | none => 0
  | some x =>
    if !x.online then x.reason * 2 ^ 28
    else
      let lost := m.lostEntries.any fun i => m.mramNat (lostAt i) 2 % 4 == p
      let w := fun side => (x.lay side).m
      let blocked := m.someStripe x p fun side l sig => decide (w side < l.length) && l.any (m.stripAbsent x p side sig)
      bnat lost * 128 + bnat blocked * 64 + bnat (m.someStripe x p fun side l _ => l.length == w side) * 32 +
        bnat (m.someStripe x p fun _ l _ => l != []) * 16 +
        bnat (x.members.any (·.resync) || x.parity.isSome) * 8 + bnat ((m.activeRound p 0).isSome || (m.activeRound p 1).isSome) * 4 +
        bnat (m.reshapePhase p != 0) * 2 + 1

/-- The cause of the refusal that stands in the pool status (R120, R153, R188): beside the status word, whose reason is 0 while the pool is
assembled (assumption 75, DEDUCED). -/
def Fjoek.poolRefusal (m : Fjoek) (p : Nat) : Nat := ((m.pool? p).map (·.refused)).getD 0

/-- A state change of the pool: its status word, and the cause after the four words, stand in the management HBM region, and event 352 is
raised to the management core (R138). -/
def Fjoek.poolEvent (m : Fjoek) (p : Nat) : Fjoek :=
  let t := tableSet (fun _ => 0) m.lib.status p (m.poolStatus p)
  Fjoek.latch { m with lib := { m.lib with status := tableSet (fun _ => 0) t (4 + p) (m.poolRefusal p) } } 352

/-- The pool's state may have changed: a status word that differs from the one that stands is a change. -/
def Fjoek.settleStatus (m : Fjoek) (p : Nat) : Fjoek :=
  if tableGet (fun _ => 0) m.lib.status p = m.poolStatus p then m else m.poolEvent p

end Sys2Proof.Machine
end

