-- ==== Sys2Proof/Machine/Coding.lean ====
section
/-! DEFINITION. The code of a pool's stripes (R102, R103), what its members hold and the read cache (R129, R133), and runs of blocks. A
member block is its 4,096 data bytes and then the pool's metadata bytes (R120). -/

namespace Sys2Proof.Machine

/-- The bytes of a member block. -/
abbrev Block := List Byte

/-! ## Coefficients (R103) -/

/-- The inverse in GF(2^8) modulo 0x11D. -/
def gfInv (a : Nat) : Nat := ((List.range 256).find? fun x => gfMul a x == 1).getD 0

/-- y_i, y'_{ji} and c[j][i]. -/
def codeY (i : Nat) : Nat := i + 4
def codeInv (j i : Nat) : Nat := gfInv (j ^^^ codeY i)
def codeCoef (j i : Nat) : Nat := gfMul (codeY i) (codeInv j i)

/-- Parity `j` of a row of data blocks of `n` bytes each (R102). -/
def encodeBlock (n j : Nat) (data : List Block) : Block := gfSum n (data.zipIdx.map fun d => (codeCoef j d.2, d.1))

/-- A strip of a row as a combination of the k data strips. -/
def codeRow (k s : Nat) : List Nat := (List.range k).map fun i => if s < k then bnat (s == i) else codeCoef (s - k) i

/-- A row of the system that decoding solves: coefficients of the data strips, and the block that they sum to. -/
abbrev CodeRow := List Nat × Block

/-- `a` times a row, and the sum of two rows. -/
def rowScale (a : Nat) (r : CodeRow) : CodeRow := (r.1.map (gfMul a), r.2.map fun b => BitVec.ofNat 8 (gfMul a b.toNat))
def rowAdd (r t : CodeRow) : CodeRow := (List.zipWith (· ^^^ ·) r.1 t.1, List.zipWith (· ^^^ ·) r.2 t.2)

/-- Elimination of column `c` and the `n` − 1 after it: `done` rows are solved, `todo` rows are not. -/
def solveRows : Nat → Nat → List CodeRow → List CodeRow → List CodeRow
  | 0, _, done, _ => done
  | n + 1, c, done, todo =>
    match todo.find? fun r => nth r.1 c 0 != 0 with
    | none => done
    | some p =>
      let p := rowScale (gfInv (nth p.1 c 0)) p
      let clear := fun (r : CodeRow) => rowAdd r (rowScale (nth r.1 c 0) p)
      solveRows n (c + 1) (done.map clear ++ [p]) ((todo.eraseP fun r => nth r.1 c 0 != 0).map clear)

/-- The data blocks of a row, decoded from k of its strips, each given with its number. -/
def decodeBlocks (k : Nat) (src : List (Nat × Block)) : List Block :=
  (solveRows k 0 [] (src.map fun q => (codeRow k q.1, q.2))).map (·.2)

/-- Strip `s` of the row with the given data blocks of `n` bytes. -/
def rowStrip (k n s : Nat) (data : List Block) : Block := if s < k then nth data s (List.replicate n 0) else encodeBlock n (s - k) data

/-! ## What the members hold (assumption 15) -/

def mediaKey (serial lba : Nat) : Nat := serial * 2 ^ 36 + lba

/-- LBA `lba` of a drive: what the library wrote there last, else what the drive held before, which is free. -/
def Fjoek.driveBlock (m : Fjoek) (serial lba n : Nat) : Block :=
  match tableFind m.lib.media (mediaKey serial lba) with
  | some b => b
  | none =>
    if m.lib.zeroes.any fun z => z.1 == serial && decide (z.2.1 ≤ lba ∧ lba < z.2.1 + z.2.2) then List.replicate n 0
    else (List.range n).map (Config.driveByte serial lba)

/-- Bytes of a pool's member blocks. -/
def Pool.blockLen (x : Pool) : Nat := 4096 + x.ms

def Fjoek.memBlock (m : Fjoek) (x : Pool) (i lba : Nat) : Block := m.driveBlock (x.mem i).serial lba x.blockLen

/-- A member's drive cannot read a block. -/
def Fjoek.unreadable (m : Fjoek) (x : Pool) (i lba : Nat) : Bool := m.lib.unread.contains (mediaKey (x.mem i).serial lba)

/-- Blocks from `lba` on stand on a drive, and are readable there. -/
def Fjoek.driveStore (m : Fjoek) (serial : Nat) : Nat → List Block → Fjoek
  | _, [] => m
  | lba, b :: r =>
    Fjoek.driveStore { m with lib := { m.lib with
      media := tableInsert m.lib.media (mediaKey serial lba) b
      unread := m.lib.unread.filter (· != mediaKey serial lba) } } serial (lba + 1) r

/-- A range of a drive reads zeros from here on (R124). -/
def Fjoek.driveZero (m : Fjoek) (serial lba n : Nat) : Fjoek :=
  let inside := fun (k : Nat) => decide (mediaKey serial lba ≤ k ∧ k < mediaKey serial (lba + n))
  { m with lib := { m.lib with
    media := tableKeep (fun k => !inside k) m.lib.media
    unread := m.lib.unread.filter fun k => !inside k
    zeroes := if m.lib.zeroes.contains (serial, lba, n) then m.lib.zeroes else (serial, lba, n) :: m.lib.zeroes } }

/-- Drives report blocks that they cannot read: serial numbers and LBAs. -/
def Fjoek.noteUnread (m : Fjoek) (l : List (Nat × Nat)) : Fjoek :=
  let keys := l.map fun q => mediaKey q.1 q.2
  { m with lib := { m.lib with unread := keys.foldl (fun u k => if u.contains k then u else u ++ [k]) m.lib.unread } }

/-! ## Runs of consecutive LBAs on one member (R129) -/

/-- Put a place into a list in rising order, once. -/
def insertPlace (a : Nat × Nat) : List (Nat × Nat) → List (Nat × Nat)
  | [] => [a]
  | b :: r => if a = b then b :: r else if a.1 < b.1 ∨ (a.1 = b.1 ∧ a.2 < b.2) then a :: b :: r else b :: insertPlace a r

def lbaRuns : List (Nat × Nat) → List (Nat × Nat × Nat)
  | [] => []
  | (i, a) :: r =>
    match lbaRuns r with
    | (j, b, n) :: t => if i = j ∧ b = a + 1 then (i, a, n + 1) :: t else (i, a, 1) :: (j, b, n) :: t
    | [] => [(i, a, 1)]

/-- The runs that cover a set of member blocks, each once. -/
def runsOf (l : List (Nat × Nat)) : List (Nat × Nat × Nat) := lbaRuns (l.foldr insertPlace [])

/-- Read member blocks: one Read for each run. -/
def Fjoek.readMembers (m : Fjoek) (p : Nat) (l : List (Nat × Nat)) : Fjoek :=
  m.each (runsOf l) fun r m => m.member p r.1 0 r.2.1 r.2.2 []

/-- The same joining of neighbours for blocks that are written. -/
def blockRuns : List (Nat × Nat × Block) → List (Nat × Nat × List Block)
  | [] => []
  | (i, a, b) :: r =>
    match blockRuns r with
    | (j, c, bs) :: t => if i = j ∧ c = a + 1 then (i, a, b :: bs) :: t else (i, a, [b]) :: (j, c, bs) :: t
    | [] => [(i, a, [b])]

/-- Write member blocks with FUA, on the members that are here; they stand on the drives. -/
def Fjoek.writeMembers (m : Fjoek) (p : Nat) (x : Pool) (l : List (Nat × Nat × Block)) : Fjoek :=
  m.each (blockRuns (l.filter fun b => (x.mem b.1).port.isSome)) fun r m =>
    (m.member p r.1 1 r.2.1 r.2.2.length r.2.2.flatten).driveStore (x.mem r.1).serial r.2.1 r.2.2

/-! ## The read cache (R133) -/

def Fjoek.cached (m : Fjoek) (p : Nat) (x : Pool) (mem lba : Nat) : Option CacheBlock :=
  m.lib.cache.find? fun b => b.pool == p && b.member == mem && b.epoch == (x.mem mem).epoch.toNat && b.lba == lba

def Fjoek.setCache (m : Fjoek) (l : List CacheBlock) : Fjoek := { m with lib := { m.lib with cache := l } }

/-- Where in HBM a place of the cache stands. The spec gives the cache no addresses: this area is the model's (assumption 93, DESIGN CHOICE). -/
def cacheAt (slot : Nat) : Nat := 15 * 2 ^ 30 + 4160 * slot

/-- The bytes of a cached block of pool `x`. -/
def Fjoek.cacheBytes (m : Fjoek) (x : Pool) (c : CacheBlock) : Block := m.hbmBytes (cacheAt c.slot) x.blockLen

/-- The lowest place that no block of a list takes. -/
def cachePlace (l : List CacheBlock) : Nat :=
  ((List.range (l.length + 1)).find? fun s => !l.any fun c => c.slot == s).getD l.length

/-- One turn of the clock sweep: blocks that are dirty or marked go round, the first other one is evicted. -/
def sweep : Nat → List CacheBlock → List CacheBlock
  | 0, l => l
  | _ + 1, [] => []
  | n + 1, b :: r => if b.dirty ∨ b.used then sweep n (r ++ [{ b with used := false }]) else r

/-- Enter a block in the cache, evicting one where it is full and one can go: its bytes are moved to a free place of the cache area. -/
def Fjoek.cachePut (m : Fjoek) (b : CacheBlock) (data : Block) : Fjoek :=
  let l := m.lib.cache.filter fun c => !(c.pool == b.pool && c.member == b.member && c.epoch == b.epoch && c.lba == b.lba)
  let l := if l.length < m.lib.cacheBlocks then l else sweep (2 * l.length) l
  if l.length < m.lib.cacheBlocks ∨ b.dirty then
    (m.setCache (l ++ [{ b with slot := cachePlace l }])).hbmWrite (cacheAt (cachePlace l)) data
  else m

def Fjoek.invalidate (m : Fjoek) (p mem lba : Nat) : Fjoek :=
  m.setCache (m.lib.cache.filter fun c => !(c.pool == p && c.member == mem && c.lba == lba))

/-! ## Dirty blocks whose strips move (R128, R136) -/

/-- The strip that a chunk slot of a member holds in the table: stripe and strip number. -/
def slotStrip (l : Layout) (i c : Nat) : Option (Nat × Nat) :=
  let t := c / (l.rowCount * Ld l)
  let r := c % (l.rowCount * Ld l) / Ld l
  match (rowStrips l).find? fun j => entryMember l r j == i && entryDepth l r j == c % Ld l with
  | none => none
  | some j => some (t * LQ l + r * Lq l + j / Lw l, j % Lw l)

/-- The strips of a side that stand in a chunk slot of a member now, in the slot's own place or relocated there (R128). -/
def Fjoek.slotHolds (m : Fjoek) (x : Pool) (p side i c : Nat) : List (Nat × Nat) :=
  let l := x.lay side
  let t := c / (l.rowCount * Ld l)
  let r := c % (l.rowCount * Ld l) / Ld l
  let own := (slotStrip l i c).toList
  let moved := ((x.rel side).filter fun e => bitsOf e 63 52 == r && entryMember l r (relocSpare e) == i &&
    entryDepth l r (relocSpare e) == c % Ld l).map fun e => (t * LQ l + r * Lq l + bitsOf e 51 43 / Lw l, bitsOf e 51 43 % Lw l)
  let (lo, hi) := m.sideRange x p side
  (own ++ moved).filter fun q => decide (lo ≤ q.1 ∧ q.1 < hi) && m.stripPlace x p side q.1 q.2 == (i, slotLba l c)

/-- The block that a member block is: side, stripe, strip and offset. -/
def Fjoek.blockHome (m : Fjoek) (x : Pool) (p mem lba : Nat) : Option (Nat × Nat × Nat × Nat) :=
  (Fjoek.sides x).findSome? fun side =>
    let u := LU (x.lay side)
    ((m.slotHolds x p side mem ((lba - 409600) / u)).head?).map fun q => (side, q.1, q.2, (lba - 409600) % u)

/-- A change `f` of where strips lie: the dirty blocks of the pool go on standing for the same blocks, at the new places (R136). -/
def Fjoek.keepDirty (m : Fjoek) (p : Nat) (f : Fjoek → Fjoek) : Fjoek :=
  match m.pool? p with
  | none => f m
  | some x =>
    let ids := (m.lib.cache.filter fun c => c.dirty && c.pool == p).filterMap fun c =>
      (m.blockHome x p c.member c.lba).map fun h => ((c.member, c.lba), h)
    (f m).onPool p fun y n => n.setCache (n.lib.cache.map fun c =>
      match if c.dirty && c.pool == p then ids.find? fun q => q.1 == (c.member, c.lba) else none with
      | none => c
      | some (_, side, sig, i, e) =>
        let (mem, lba) := n.stripPlace y p side sig i
        { c with member := mem, lba := lba + e, epoch := (y.mem mem).epoch.toNat })

/-! ## The content of a stripe (R129, R131) -/

/-- A member's block as it lies there, from the cache where a clean copy is held. -/
def Fjoek.stored (m : Fjoek) (x : Pool) (p i lba : Nat) : Block :=
  match m.cached p x i lba with
  | some c => if c.dirty then m.memBlock x i lba else m.cacheBytes x c
  | none => m.memBlock x i lba

/-- Offset `e` of strip `i` of a stripe as its member holds it. -/
def Fjoek.stripBlock (m : Fjoek) (x : Pool) (p side sig e i : Nat) : Block :=
  let (mem, lba) := m.stripPlace x p side sig i
  m.stored x p mem (lba + e)

/-- The k readable strips at offset `e` with the lowest entry numbers. -/
def Fjoek.readableAt (m : Fjoek) (x : Pool) (p side sig e : Nat) : List Nat :=
  ((List.range (Lw (x.lay side))).filter fun i => !m.stripLost x p side sig i &&
    !(m.unreadable x (m.stripPlace x p side sig i).1 ((m.stripPlace x p side sig i).2 + e)))

/-- The data blocks of offset `e` of a stripe, decoded from the given strips. -/
def Fjoek.dataFrom (m : Fjoek) (x : Pool) (p side sig e : Nat) (src : List Nat) : List Block :=
  decodeBlocks (x.lay side).k ((src.take (x.lay side).k).map fun i => (i, m.stripBlock x p side sig e i))

/-- The data blocks of offset `e` as the members hold them: in place where no data strip is lost, else decoded. -/
def Fjoek.rowData (m : Fjoek) (x : Pool) (p side sig e : Nat) : List Block :=
  let src := m.readableAt x p side sig e
  let k := (x.lay side).k
  if (List.range k).all src.contains then (List.range k).map (m.stripBlock x p side sig e) else m.dataFrom x p side sig e src

/-- Offset `e` of strip `i` as a host reads it: a cached copy, dirty or clean, else what the members hold. -/
def Fjoek.currentBlock (m : Fjoek) (x : Pool) (p side sig i e : Nat) : Block :=
  let (mem, lba) := m.stripPlace x p side sig i
  match m.cached p x mem (lba + e) with
  | some c => m.cacheBytes x c
  | none => rowStrip (x.lay side).k x.blockLen i (m.rowData x p side sig e)

end Sys2Proof.Machine
end

