-- ==== Sys2Proof/Machine/Journal.lean ====
section
/-! DEFINITION. The stripe journal (R146 to R166), the loss of a member (R139, R141, R172), rounds and spare assignment (R173,
R176), and the lost-extent list (R184, R185). Member operations that the library issues succeed unless the command that
issues them says otherwise (assumption 15). -/

namespace Sys2Proof.Machine

/-! ## The lock table (R146, R147) -/

/-- Word `w` of entry `x`. -/
def Fjoek.lockWord (m : Fjoek) (x w : Nat) : Word64 := tableGet (fun _ => 0) m.locks (2 * x + w)

def Fjoek.setLockWord (m : Fjoek) (x w : Nat) (v : Word64) : Fjoek :=
  { m with locks := tableSet (fun _ => 0) m.locks (2 * x + w) v }

def lockHeld (v : Word64) : Bool := bitOf v.toNat 63

/-- Release posts: every engine of the waiter mask, in ascending order; on a trailing twin they come from the log, and the
lead logs them (R146, R356). -/
def Fjoek.lockPosts (m : Fjoek) (mask : Nat) : Fjoek :=
  if m.trailing then m
  else m.each ((List.range 64).filter fun e => bitOf mask e) fun e m =>
    (m.logTwin 0x09 e [356, m.get STRP_LKTAG_tag]).postTag e (m.get STRP_LKTAG_tag)

/-- A store or compare-and-swap writes a word of the lock table: STRP counts the held entries, and bit 63 of word 0 falling
reads and clears the waiter mask and posts. -/
def Fjoek.lockStore (m : Fjoek) (x w : Nat) (v : Word64) : Fjoek :=
  let old := m.lockWord x w
  let m := m.setLockWord x w v
  if w ≠ 0 then m
  else
    let m := if lockHeld v && !lockHeld old then m.put STRP_LKUSE_used (m.get STRP_LKUSE_used + 1) else m
    if lockHeld old && !lockHeld v then
      let m := m.put STRP_LKUSE_used (m.get STRP_LKUSE_used - 1)
      let mask := (m.lockWord x 1).toNat
      (m.setLockWord x 1 0).lockPosts mask
    else m

/-- The lock entry of a stripe. -/
def lockOf (p sig : Nat) : Nat := (sig ^^^ (p * 2 ^ 14)) % 65536

/-- The word that a holder writes: held, owner, key. -/
def lockValue (p sig k : Nat) : Word64 :=
  BitVec.ofNat 64 (2 ^ 63 + k / 8 % 64 * 2 ^ 50 + k % 8 * 2 ^ 47 + (p * 2 ^ 40 + sig) % 2 ^ 47)

def Fjoek.stripeLocked (m : Fjoek) (p sig : Nat) : Bool := lockHeld (m.lockWord (lockOf p sig) 0)

/-- The entries that strand `k` holds. -/
def Fjoek.locksOf (m : Fjoek) (k : Nat) : List Nat :=
  (m.locks.filter fun e => e.1 % 2 == 0 && lockHeld e.2 && bitsOf e.2.toNat 55 50 == k / 8 && bitsOf e.2.toNat 49 47 == k % 8).map
    fun e => e.1 / 2

/-- Place `j` of the list of held locks in a strand's engine (R147), and the entry that it lists. -/
def lockListAt (k j : Nat) : Nat := 0x3FE00 + 0x40 * (k % 8) + 4 * j
def Fjoek.lockListed (m : Fjoek) (k j : Nat) : Nat := m.lNat (k / 8) (lockListAt k j) 4

/-- Place `j` is in use: it lists a lock that the strand holds, and no earlier place lists that. -/
def Fjoek.placeUsed (m : Fjoek) (k j : Nat) (held : List Nat) : Bool :=
  held.contains (m.lockListed k j) && !((List.range j).any fun i => m.lockListed k i == m.lockListed k j)

/-- Take a stripe's lock, and list it at the first of the 16 places that is not in use. -/
def Fjoek.lockStripe (m : Fjoek) (p sig k : Nat) : Fjoek :=
  let x := lockOf p sig
  let held := m.locksOf k
  let m := m.lockStore x 0 (lockValue p sig k)
  if held.contains x then m
  else
    match (List.range 16).find? fun j => !m.placeUsed k j held with
    | some j => m.lPut (k / 8) (lockListAt k j) (bytesOf 4 x)
    | none => m

def Fjoek.unlockStripe (m : Fjoek) (p sig : Nat) : Fjoek := m.lockStore (lockOf p sig) 0 0

/-- Strand `k` keeps a stripe's lock for an operation that waits for room in the journal (R150). -/
def Fjoek.holds (m : Fjoek) (p sig k : Nat) : Bool :=
  m.lib.held.any fun h => h.strand == k && h.pool == p && h.stripe == sig

/-- Strand `k` may take a stripe's lock now: it is free and the strand holds fewer than 16 (R147), or the strand keeps it for an operation that
waits for the journal (R150). -/
def Fjoek.lockFree (m : Fjoek) (p sig k : Nat) : Bool :=
  let w := m.lockWord (lockOf p sig) 0
  (w == lockValue p sig k && m.holds p sig k) || (!lockHeld w && decide ((m.locksOf k).length < 16))

/-- The operation that keeps a stripe's lock for strand `k` goes on, or ends. -/
def Fjoek.unhold (m : Fjoek) (p sig k : Nat) : Fjoek :=
  { m with lib := { m.lib with held := m.lib.held.filter fun h => !(h.strand == k && h.pool == p && h.stripe == sig) } }

/-- A strand that finds stripes' locks held sets its engine's bit in their waiter masks and waits for the release (R147). -/
def Fjoek.waitLocks (m : Fjoek) (p k : Nat) (sigs : List Nat) : Fjoek :=
  m.each (sigs.filter fun g => m.stripeLocked p g && !m.lockFree p g k) fun g m =>
    m.setLockWord (lockOf p g) 1 (m.lockWord (lockOf p g) 1 ||| BitVec.ofNat 64 (2 ^ (k / 8 % 64)))

/-- Stripe numbers in the order in which their locks are taken: ascending entries (R147). -/
def lockOrder (p : Nat) (sigs : List Nat) : List Nat :=
  sigs.foldr (fun g l => (l.filter fun h => decide (lockOf p h < lockOf p g)) ++ [g] ++ l.filter fun h => decide (lockOf p g ≤ lockOf p h)) []

/-! ## Records (R149, R150) -/

/-- A journal record. -/
structure JRec where
  kind : Nat
  pool : Nat
  portable : Bool
  destage : Bool
  path : Nat
  gen : Nat
  seq : Nat
  tail : Nat
  stripe : Nat
  efirst : Nat
  ecount : Nat
  wmask : Nat
  layout : Nat
  gcount : Nat
  gidx : Nat
  owner : Nat
  wcount : Nat
  dmask : Nat
  deriving DecidableEq, Repr

def JRec.body (r : JRec) : List Byte :=
  bytesOf 1 r.kind ++ bytesOf 1 (r.pool % 4 + 4 * bnat r.portable + 8 * bnat r.destage + 16 * r.path) ++ bytesOf 2 0 ++
  bytesOf 4 r.gen ++ bytesOf 8 r.seq ++ bytesOf 8 r.tail ++ bytesOf 8 r.stripe ++ bytesOf 2 r.efirst ++ bytesOf 2 r.ecount ++
  bytesOf 4 r.wmask ++ bytesOf 1 r.layout ++ bytesOf 1 r.gcount ++ bytesOf 1 r.gidx ++ bytesOf 1 0 ++
  bytesOf 4 (r.owner / 8 % 64 + r.owner % 8 * 64) ++ bytesOf 8 r.wcount

def JRec.bytes (r : JRec) : List Byte := r.body ++ bytesOf 4 r.dmask ++ bytesOf 4 (crc32c (r.body.map BitVec.toNat))

/-- The record that 64 bytes hold, if their CRC is right and the kind is a kind. -/
def JRec.ofBytes (b : List Nat) : Option JRec :=
  let f := hdrNat b
  if f 0 1 = 0 ∨ 3 < f 0 1 ∨ f 0x3C 4 ≠ crc32c (b.take 0x38) ∨ 4 < bitsOf (f 1 1) 7 4 then none
  else some { kind := f 0 1, pool := f 1 1 % 4, portable := bitOf (f 1 1) 2, destage := bitOf (f 1 1) 3
              path := bitsOf (f 1 1) 7 4, gen := f 4 4, seq := f 8 8, tail := f 0x10 8, stripe := f 0x18 8, efirst := f 0x20 2
              ecount := f 0x22 2, wmask := f 0x24 4 % 2 ^ 20, layout := f 0x28 1, gcount := f 0x29 1, gidx := f 0x2A 1
              owner := f 0x2C 4 % 64 * 8 + bitsOf (f 0x2C 4) 8 6, wcount := f 0x30 8, dmask := f 0x38 4 % 2 ^ 20 }

def jslot (seq : Nat) : Nat := 64 * (seq % 1048576)

/-- The slots of the ring whose kind is not 0. -/
def Fjoek.openSlots (m : Fjoek) : List Nat :=
  (m.mram.filter fun e => decide (e.1 < 0x4000000) && e.1 % 64 == 0 && e.2 != 0).map fun e => e.1 / 64

/-- The open records, in ascending seq. -/
def insertRec (r : JRec) : List JRec → List JRec
  | [] => [r]
  | q :: l => if r.seq < q.seq then r :: q :: l else q :: insertRec r l

def Fjoek.openRecs (m : Fjoek) : List JRec :=
  (m.openSlots.filterMap fun s => JRec.ofBytes ((m.mramBytes (64 * s) 64).map BitVec.toNat)).foldl (fun l r => insertRec r l) []

def Fjoek.openOf (m : Fjoek) (p : Nat) : List JRec := m.openRecs.filter fun r => r.pool == p

/-- The trailing twin waits for the lead's completion of a write of a record (R164). -/
def Fjoek.writesOut (m : Fjoek) (seq : Nat) : Bool := m.lib.awaited.any fun a => a.seq == seq

/-- An open INTENT names the stripe; and one that recovery holds open, or a failed update leaves, and none whose writes are under way. -/
def Fjoek.intentOpen (m : Fjoek) (p side sig : Nat) : Bool :=
  (m.openOf p).any fun r => r.kind == 1 && r.layout == side && r.stripe == sig
def Fjoek.intentHeld (m : Fjoek) (p side sig : Nat) : Bool :=
  (m.openOf p).any fun r => r.kind == 1 && r.layout == side && r.stripe == sig && !m.writesOut r.seq

/-- The lock is released, unless an open record of the stripe keeps it (R154, R163). -/
def Fjoek.leaveStripe (m : Fjoek) (p sig : Nat) : Fjoek :=
  if (m.openOf p).any fun r => r.kind == 1 && r.stripe == sig then m else m.unlockStripe p sig

/-- The lowest open seq; the next seq when none is open. -/
def Fjoek.tail (m : Fjoek) : Nat := ((m.openRecs.head?).map (·.seq)).getD m.lib.seq

/-- `n` new records can be stored now (R150). -/
def Fjoek.jroom (m : Fjoek) (n : Nat) : Bool :=
  decide (m.lib.seq + n - m.tail ≤ 1048576) && (List.range n).all fun i => !m.openSlots.contains ((m.lib.seq + i) % 1048576)

/-- A record waits for room: event 353, once an episode (R150). -/
def Fjoek.waitRoom (m : Fjoek) : Fjoek :=
  if m.lib.full then m else Fjoek.latch { m with lib := { m.lib with full := true } } 353

/-- The stripe of an operation of strand `k` stays locked while its record waits; `h` names the operation. -/
def Fjoek.holdStripe (m : Fjoek) (h : HeldOp) : Fjoek :=
  let m := m.unhold h.pool h.stripe h.strand
  Fjoek.waitRoom { m with lib := { m.lib with held := m.lib.held ++ [h] } }

/-- An operation with no command of a host. -/
def HeldOp.own (k p sig : Nat) : HeldOp := ⟨k, p, sig, 0, 0, 0, 0, []⟩

/-! ## Commit groups (R151, R152) -/

/-- The members that hold a journal copy or are given one. -/
def Pool.copies (x : Pool) : List Nat :=
  ([x.jx0, x.jx1].filterMap id).filter fun i => (x.mem i).port.isSome

/-- A portable pool keeps at least one whole journal copy; otherwise it runs as local (R151, R167). -/
def Pool.mirrors (x : Pool) : Bool := x.portable && x.copies.any fun i => !x.jtargets.contains i

/-- A pool's bit of STRP_JDEG follows whether it runs with no journal copy; a rise latches jdeg (R151). -/
def Fjoek.setJdeg (m : Fjoek) (p : Nat) (v : Bool) : Fjoek :=
  let f : Fld := ⟨STRP_JDEG_pools.addr, p, p⟩
  let was := m.isOn f
  let m := m.put f (bnat v)
  m.when (v && !was) fun m => m.cause STRP_STAT_jdeg 356

/-- The retirements of a list of sequence numbers, as base and 192-bit map each (R149). -/
def packRetired (l : List Nat) : List (Nat × Nat) :=
  (sortBy id l).foldl (fun acc s =>
    match acc.getLast? with
    | some (b, mp) => if s < b + 192 then acc.dropLast ++ [(b, mp ||| 2 ^ (s - b))] else acc ++ [(s, 1)]
    | none => [(s, 1)]) []

/-- Group `g` may be written: no record of group g − 262,144 is open (R151). -/
def Pool.groupFree (x : Pool) (g : Nat) : Bool := !x.groupOf.any fun e => e.2 + 262144 == g

/-- RETIRE records that the next group carries. -/
def Pool.retireSpans (x : Pool) : Nat := Nat.min 63 (packRetired x.retq).length

/-- `n` new records of pool `x` can be stored now, with the RETIRE records of their commit groups: each group but the first carries at most the
retirement of the record before it (R150 to R152). -/
def Fjoek.recRoom (m : Fjoek) (x : Pool) (n : Nat) : Bool :=
  m.jroom (if x.mirrors then n + x.retireSpans + (n - 1) else n) && (List.range n).all fun i => x.groupFree (x.group + i)

/-- A RETIRE record (R149): its map stands at bytes 0x20 to 0x37. -/
def retireBytes (p gen seq tail : Nat) (r : Nat × Nat) : List Byte :=
  let b := bytesOf 1 3 ++ bytesOf 1 (p % 4 + 4) ++ bytesOf 2 0 ++ bytesOf 4 gen ++ bytesOf 8 seq ++ bytesOf 8 tail ++ bytesOf 8 r.1 ++
    bytesOf 24 r.2
  b ++ bytesOf 4 0 ++ bytesOf 4 (crc32c (b.map BitVec.toNat))

/-- Member LBA of a commit group. -/
def groupLba (g : Nat) : Nat := 16384 + g % 262144

/-- A commit group of the record given, if any, and of RETIRE records for up to 63 retired spans goes to the journal copies with FUA: one
4 KiB block on each, its unused slots 0 (R151, R152). -/
def Fjoek.commitGroup (m : Fjoek) (p : Nat) (rec : List (List Byte)) : Fjoek :=
  m.onPool p fun x m =>
    if !x.mirrors then m
    else
      let spans := packRetired x.retq
      let now := spans.take 63
      let tail := m.tail
      let rs := now.zipIdx.map fun r => retireBytes p (x.gen % 2 ^ 32) (m.lib.seq + r.2) tail r.1
      let block := padTo 4096 (rec ++ rs).flatten
      let m : Fjoek := { m with lib := { m.lib with seq := m.lib.seq + now.length } }
      let m := m.each x.copies fun i m => m.member p i 1 (groupLba x.group) 1 block
      let left := x.retq.filter fun s => (spans.drop 63).any fun r => decide (r.1 ≤ s ∧ s < r.1 + 192)
      let y : Pool := { x with group := x.group + 1, retq := left }
      (m.setPool p y).storeHead p y false

/-- Store a record, and its commit group where the pool is portable; RETIRE records of waiting retirements travel in it
(R151, R152). -/
def Fjoek.storeRec (m : Fjoek) (r : JRec) : Fjoek :=
  m.onPool r.pool fun x m =>
    let spans := x.retireSpans
    let r := { r with seq := m.lib.seq, tail := m.tail, gen := x.gen % 2 ^ 32, portable := x.mirrors
                      gcount := if x.mirrors then 1 + spans else 0, gidx := 0 }
    let m := m.mramPut (jslot r.seq) r.bytes
    let m : Fjoek := { m with lib := { m.lib with seq := m.lib.seq + 1, full := false } }
    let m := m.when (m.headClean r.pool) fun m => m.storeHead r.pool x false
    let m := if x.mirrors then m.setPool r.pool { x with groupOf := tableInsert x.groupOf r.seq x.group } else m
    m.commitGroup r.pool [r.bytes]

/-- Set a bit of a record's dmask, with one store that writes the CRC back (R149). -/
def Fjoek.setDmask (m : Fjoek) (seq i : Nat) : Fjoek :=
  let a := jslot seq + 0x38
  m.mramPut a (bytesOf 4 (m.mramNat a 4 ||| 2 ^ i) ++ m.mramBytes (a + 4) 4)

/-- Retire a record: 0 at its first 8 bytes; in portable mode the retirement waits for the next group. -/
def Fjoek.retire (m : Fjoek) (p seq : Nat) : Fjoek :=
  let m := m.mramPut (jslot seq) (bytesOf 8 0)
  m.onPool p fun x m =>
    m.setPool p { x with groupOf := tableErase x.groupOf seq, retq := if x.mirrors then x.retq ++ [seq] else x.retq }

/-! ## Known-bad blocks (R184, R185) -/

/-- The list entry of a strip. -/
def Fjoek.lostEntry (m : Fjoek) (p i side sig : Nat) : Option Nat :=
  m.lostEntries.find? fun e =>
    let a := lostAt e
    m.mramNat a 2 % 4 == p && m.mramNat (a + 2) 2 == i && m.mramNat (a + 4) 4 == side && m.mramNat (a + 8) 8 == sig

/-- Offset `e` of a strip is known-bad. -/
def Fjoek.knownBad (m : Fjoek) (p i side sig e : Nat) : Bool :=
  match m.lostEntry p i side sig with
  | none => false
  | some j => bitOf (m.mramNat (lostAt j + 16) 32) e

/-- The lowest free entry of the list. -/
def freeLost (used : List Nat) : Nat → Nat → Option Nat
  | 0, _ => none
  | n + 1, i => if used.contains i then freeLost used n (i + 1) else if i < 65536 then some i else none

/-- The entries for strips of a stripe can be had, all of them. -/
def Fjoek.lostRoom (m : Fjoek) (p side sig : Nat) (strips : List Nat) : Bool :=
  decide ((strips.dedup.filter fun i => (m.lostEntry p i side sig).isNone).length + m.lostEntries.length ≤ 65536)

/-- The 4 KiB label blocks that hold entry `j` of the list go to every present member (R184). -/
def Fjoek.lostToLabels (m : Fjoek) (p j : Nat) : Fjoek :=
  m.each ([48 * j / 4096, (48 * j + 47) / 4096].dedup) fun b m => m.toLabels p (4096 + b) (m.mramBytes (0x5300000 + 4096 * b) 4096)

/-- Mark offsets of a strip known-bad: bitmap first, head last; then the label's block goes to every present member. -/
def Fjoek.markBad (m : Fjoek) (p i side sig bits : Nat) : Fjoek :=
  let put := fun (m : Fjoek) (j bits : Nat) =>
    let a := lostAt j
    let m := m.mramPut (a + 16) (bytesOf 32 bits)
    (m.mramPut a (bytesOf 2 (2 ^ 15 + p) ++ bytesOf 2 i ++ bytesOf 4 side ++ bytesOf 8 sig)).lostToLabels p j
  match m.lostEntry p i side sig with
  | some j => put m j (m.mramNat (lostAt j + 16) 32 ||| bits)
  | none => match freeLost m.lostEntries (m.lostEntries.length + 1) 0 with
    | some j => (put m j bits).poolEvent p
    | none => m

/-- Clear offsets of a strip; an entry with no bit set is freed. -/
def Fjoek.clearBad (m : Fjoek) (p i side sig bits : Nat) : Fjoek :=
  match m.lostEntry p i side sig with
  | none => m
  | some j =>
    let a := lostAt j
    let b := m.mramNat (a + 16) 32
    let b := b - (b &&& bits)
    let m := m.mramPut (a + 16) (bytesOf 32 b)
    if b = 0 then ((m.mramPut a (bytesOf 2 0)).lostToLabels p j).poolEvent p else m

/-- The bits of offsets `e` to `e + n − 1`. -/
def offsetBits (e n : Nat) : Nat := (2 ^ n - 1) * 2 ^ e

/-! ## Absence bits (R139) -/

/-- Blocks of a member that is absent are written, or would be: their regions are set, before any member write. -/
def Fjoek.noteAbsent (m : Fjoek) (p : Nat) (x : Pool) (mem lba n : Nat) : Fjoek :=
  if (x.mem mem).state = 1 ∧ (x.mem mem).port = none then
    m.each [lba / 262144, (lba + n - 1) / 262144] fun g m => m.setAbsBit p mem g true
  else m

/-- A write is admitted to offsets of a stripe: the regions of its strips on absent members are set. -/
def Fjoek.noteAbsence (m : Fjoek) (p : Nat) (x : Pool) (side sig e n : Nat) : Fjoek :=
  m.each (List.range (Lw (x.lay side))) fun i m =>
    let (mem, lba) := m.stripPlace x p side sig i
    m.noteAbsent p x mem (lba + e) n

/-- The stripe write count of R134. -/
def Fjoek.wcountOf (m : Fjoek) (p sig : Nat) : Nat := tableGet (fun _ => 0) m.lib.wcount (p * 2 ^ 47 + sig)

/-! ## Writes under a record (R153, R154) -/

/-- A member write: strip, member, LBA and block. -/
abbrev StripWrite := Nat × Nat × Nat × Block

/-- The writes of strips at offsets from `e` on, `n` of them. -/
def Fjoek.stripWrites (m : Fjoek) (x : Pool) (p side sig e n : Nat) (strips : List Nat) (f : Nat → Nat → Block) : List StripWrite :=
  (strips.map fun i =>
    let (mem, lba) := m.stripPlace x p side sig i
    (List.range n).map fun j => (i, mem, lba + e + j, f i (e + j))).flatten

/-- Cached clean copies of blocks that are written anew are dropped (R136). -/
def Fjoek.dropCopies (m : Fjoek) (p : Nat) (l : List (Nat × Nat)) : Fjoek :=
  m.setCache (m.lib.cache.filter fun c => c.dirty || !(c.pool == p && l.contains (c.member, c.lba)))

/-- A library write has completed: the lead logs it (R164, R356). The slot that it held is the lowest free one, and the status of a failed one is
free (assumption 94). -/
def Fjoek.logWrite (m : Fjoek) (port : Option Nat) (ok : Bool) : Fjoek :=
  match port with
  | none => m
  | some q =>
    if !m.leads then m
    else
      let slot := (freeSlot (m.port q).slots 4096 0).getD 0
      let (r, m) := if ok then (0, m) else let (r, m) := m.freeNat; (1 + r % 0x7FFF, m)
      m.logTwin 0x03 0x83 [q, slot, 0, 0, 0, slot + 2 ^ 17 * r]

/-- Steps 4 to 7 of R154: the INTENT is stored, regions of absent members are set, the member writes go out together, and each that
completes sets its strip's dmask bit. A block whose write fails holds its old or its new content (R161). On a trailing twin the completions are
the lead's, and come with its log (R164). -/
def Fjoek.journaled (m : Fjoek) (x : Pool) (p side sig k path e n : Nat) (destage : Bool) (ws : List StripWrite) (failed : List Nat) :
    Fjoek :=
  let strips := (ws.map (·.1)).dedup
  let seq := m.lib.seq
  let m := m.storeRec { kind := 1, pool := p, portable := false, destage := destage, path := path, gen := 0, seq := 0, tail := 0
                        stripe := sig, efirst := e, ecount := n, wmask := (strips.map (2 ^ ·)).sum, layout := side
                        gcount := 0, gidx := 0, owner := k, wcount := m.wcountOf p sig, dmask := 0 }
  let m := m.noteAbsence p x side sig e n
  m.each strips fun i m =>
    let l := (ws.filter fun w => w.1 == i).map (·.2)
    let base := (m.stripPlace x p side sig i).2
    if m.trailing then
      let new := (blockRuns l).filterMap fun r => (x.mem r.1).port.map fun q =>
        (⟨q, p, seq, i, (List.range r.2.2.length).map (r.2.1 - base + ·)⟩ : Awaited)
      let m := m.writeMembers p x l
      { m with lib := { m.lib with awaited := m.lib.awaited ++ new } }
    else
      let ok := !failed.contains i
      let (b, m) := if ok then (true, m) else m.freeBool
      let m := if b then m.writeMembers p x l else m.each (blockRuns l) fun r m => m.member p r.1 1 r.2.1 r.2.2.length r.2.2.flatten
      let m := m.each (blockRuns l) fun r m => m.logWrite (x.mem r.1).port ok
      if ok then m.setDmask seq i else m

/-- A record whose writes have all completed retires; on a trailing twin that follows the lead's log (R164). -/
def Fjoek.retireDone (m : Fjoek) (p seq : Nat) : Fjoek := if m.writesOut seq then m else m.retire p seq

/-- Writes of recovery, resync and repair under an INTENT of their own, which retires (R153, R161, R182). -/
def Fjoek.intentWrite (m : Fjoek) (x : Pool) (p side sig k path e n : Nat) (ws : List StripWrite) : Fjoek :=
  if ws = [] then m
  else
    let seq := m.lib.seq
    let m := m.dropCopies p (ws.map fun w => (w.2.1, w.2.2.1))
    (m.journaled x p side sig k path e n false ws []).retireDone p seq

/-! ## Recovery of one record (R161) -/

/-- Resolve one open INTENT. Its stripe is locked by its owner. A record that recovery's own INTENT finds no room for stays open. -/
def Fjoek.resolve (m : Fjoek) (r : JRec) : Fjoek :=
  m.onPool r.pool fun x m =>
    let p := r.pool
    let side := r.layout
    let l := x.lay side
    let n := x.blockLen
    let all := List.range (Lw l)
    let offs := (List.range r.ecount).map (r.efirst + ·)
    let lost := all.filter fun i => m.stripLost x p side r.stripe i ||
      offs.any fun e => !(m.readableAt x p side r.stripe e).contains i
    let settled := all.filter fun i => !bitOf r.wmask i || bitOf r.dmask i
    let can := settled.filter fun i => !lost.contains i
    let read := fun (m : Fjoek) (src : List Nat) => m.readMembers p ((src.map fun i =>
      let (mem, lba) := m.stripPlace x p side r.stripe i
      offs.map fun e => (mem, lba + e)).flatten)
    let write := fun (m : Fjoek) (src strips : List Nat) =>
      let f := fun i e => rowStrip l.k n i (m.dataFrom x p side r.stripe e src)
      ((read m src).intentWrite x p side r.stripe r.owner 3 r.efirst r.ecount
        (m.stripWrites x p side r.stripe r.efirst r.ecount strips f)).retire p r.seq |>.leaveStripe p r.stripe
    if !m.recRoom x 1 then m.waitRoom
    else if !lost.any (· < l.k) then write m (List.range l.k) (all.filter fun i => decide (l.k ≤ i) && !lost.contains i)
    else if l.k ≤ can.length then write m (can.take l.k) (all.filter fun i => !settled.contains i && !lost.contains i)
    else if lost.all (m.stripAbsent x p side r.stripe) then m
    else
      let bad := lost.filter (· < l.k)
      if !m.lostRoom p side r.stripe bad then m
      else
        let m := m.each bad fun i m => m.markBad p i side r.stripe (offsetBits r.efirst r.ecount)
        ((m.latch 355).retire p r.seq).leaveStripe p r.stripe

/-- The blocks of a DIRTY record: strip and offset. -/
def JRec.blocks (r : JRec) (k : Nat) : List (Nat × Nat) :=
  (((List.range k).filter (bitOf r.wmask)).map fun i => (List.range r.ecount).map fun e => (i, r.efirst + e)).flatten

/-- HBM holds block (i, e) of a record's stripe dirty. -/
def Fjoek.dirtyAt (m : Fjoek) (x : Pool) (r : JRec) (i e : Nat) : Bool :=
  let (mem, lba) := m.stripPlace x r.pool r.layout r.stripe i
  m.lib.cache.any fun b => b.dirty && b.pool == r.pool && b.member == mem && b.lba == lba + e

/-- The blocks of a DIRTY record held open that recovery found durable. -/
def Fjoek.durableOf (m : Fjoek) (seq : Nat) : Option (List (Nat × Nat)) := (m.lib.durable.find? fun d => d.1 == seq).map (·.2)
def Fjoek.setDurable (m : Fjoek) (seq : Nat) (l : Option (List (Nat × Nat))) : Fjoek :=
  { m with lib := { m.lib with durable := (m.lib.durable.filter fun d => d.1 != seq) ++ (l.map fun b => (seq, b)).toList } }

/-- A DIRTY record whose blocks HBM no longer holds: each block that no destage INTENT made durable is known-bad, event 355 is raised, and the
record retires; without room in the list it stays open (R161, R186). `destaged` are the destage INTENTs that recovery found. -/
def Fjoek.resolveDirty (m : Fjoek) (destaged : List JRec) (r : JRec) : Fjoek :=
  m.onPool r.pool fun x m =>
    let bs := r.blocks (x.lay r.layout).k
    let open_ := (m.openOf r.pool).map (·.seq)
    let durable := fun (q : Nat × Nat) => ((m.durableOf r.seq).getD []).contains q ||
      destaged.any fun d => d.layout == r.layout && d.stripe == r.stripe && decide (r.seq < d.seq) &&
        !open_.contains d.seq && bitOf d.wmask q.1 && decide (d.efirst ≤ q.2 ∧ q.2 < d.efirst + d.ecount)
    let gone := bs.filter fun q => !durable q
    if bs.any fun q => m.dirtyAt x r q.1 q.2 then m
    else if !m.lostRoom r.pool r.layout r.stripe (gone.map (·.1)) then m.setDurable r.seq (some (bs.filter durable))
    else
      let m := m.each gone fun q m => m.markBad r.pool q.1 r.layout r.stripe (2 ^ q.2)
      ((m.latch 355).retire r.pool r.seq).setDurable r.seq none

/-- Records held open on a pool are resolved again, INTENTs and then DIRTY ones (R163, R186). -/
def Fjoek.resolveHeld (m : Fjoek) (p : Nat) : Fjoek :=
  let m := m.each ((m.openOf p).filter fun r => r.kind == 1 && !m.writesOut r.seq) fun r m => m.resolve r
  m.each ((m.openOf p).filter fun r => r.kind == 2 && (m.durableOf r.seq).isSome) fun r m => m.resolveDirty [] r

/-- Entries of a full lost-extent list have been freed: records of every pool that wait for one are resolved again (R186). -/
def Fjoek.listFreed (m : Fjoek) (before : Nat) : Fjoek :=
  if 65536 ≤ before ∧ m.lostEntries.length < before then m.each (List.range 4) fun p m => m.resolveHeld p else m

/-! ## Rounds (R173, R174, R176) -/

/-- The first spare entry that strip `j` of row `r` may take, such that the rest of the row can still be placed (R176). -/
def chooseSpare (x : Pool) (l : Layout) (r j : Nat) (rest : List Nat) (free : List Nat) (held : List (Nat × Nat)) :
    Option Nat :=
  free.find? fun p =>
    let mem := entryMember l r p
    decide ((x.mem mem).state ≤ 1) && !held.contains (j / Lw l, mem) &&
      placeAll l r rest ((free.filter (· != p)).filter fun q => decide ((x.mem (entryMember l r q)).state ≤ 1))
        ((j / Lw l, mem) :: held)

/-- Assign spares to strips in ascending entry number. -/
def assignRow (x : Pool) (l : Layout) (r rd : Nat) : List Nat → List Nat → List (Nat × Nat) → Option (List Nat)
  | [], _, _ => some []
  | j :: js, free, held =>
    match chooseSpare x l r j js free held with
    | none => none
    | some p =>
      let mem := entryMember l r p
      (assignRow x l r rd js (free.filter (· != p)) ((j / Lw l, mem) :: held)).map
        (makeReloc r j p (entryMember l r j) rd :: ·)

/-- The entries of row `r` after round `rd` starts: surviving entries stay if the row can be completed with them, else the
whole row is assigned again. -/
def assignOneRow (x : Pool) (side rd : Nat) (amask : List Nat) (r : Nat) : List Nat :=
  let l := x.lay side
  let here := (x.rel side).filter fun e => bitsOf e 63 52 == r
  let live := here.filter fun e => decide ((x.mem (entryMember l r (relocSpare e))).state ≤ 1)
  let lost := (rowStrips l).filter fun j => amask.contains (entryMember l r j)
  let try_ := fun (keep : List Nat) =>
    let todo := lost.filter fun j => !keep.any fun e => bitsOf e 51 43 == j
    let free := (rowSpares l).filter fun q => !keep.any fun e => relocSpare e == q
    let held := heldPairs l r lost ++ keep.map fun e => (bitsOf e 51 43 / Lw l, entryMember l r (relocSpare e))
    (assignRow x l r rd todo free held).map (keep ++ ·)
  match try_ live with
  | some t => t
  | none => (try_ []).getD []

/-- The first round record that can be used: an empty one, else the oldest whose members are all RELOCATED, REPLACING or
OPTIMAL (R174). -/
def Fjoek.freeRound (m : Fjoek) (p : Nat) (x : Pool) : Nat :=
  let l := (List.range 8).map (m.roundRec p)
  match l.find? fun r => r.kind == 0 with
  | some r => (l.findIdx? (· == r)).getD 0
  | none =>
    let ok := l.filter fun r => (r.kind == 2 || r.kind == 3) &&
      (List.range 24).all fun i => !bitOf r.fmask i || (x.mem i).state == 3 || (x.mem i).state == 4 || (x.mem i).state == 0
    match ok with
    | [] => 0
    | r :: t => (t.foldl (fun b q => if q.start < b.start then q else b) r).j

/-- Relocation entries in the label's order: by member, then row, then lost entry (R177). -/
def relocKey (e : Nat) : Nat := bitsOf e 33 29 * 2 ^ 21 + bitsOf e 63 52 * 2 ^ 9 + bitsOf e 51 43
def sortReloc (t : List Nat) : List Nat := sortBy relocKey t

/-- The relocation table of a side goes to every present member's label, at byte 0x0080_0000 where it is the only one (R177). -/
def Fjoek.relocToLabels (m : Fjoek) (p side : Nat) : Fjoek :=
  m.onPool p fun x m => m.toLabels p (relocLba side) (x.relocBytes side)

/-- Round record `j` is used again: relocation entries that name its old round, of strips that are in their spare slots, name a complete round
of the side that was for their members, where there is one (R174, R181). -/
def Fjoek.reuseRound (m : Fjoek) (p side j : Nat) : Fjoek :=
  m.onPool p fun x m =>
    let l := x.lay side
    let whole := fun mem => (m.sideRounds p side).find? fun q => q.kind == 3 && q.j != j && bitOf q.fmask mem
    let t := (x.rel side).map fun e =>
      if relocRound e != j then e
      else
        let r := bitsOf e 63 52
        let mem := entryMember l r (bitsOf e 51 43)
        match whole mem with
        | some q => makeReloc r (bitsOf e 51 43) (relocSpare e) mem q.j
        | none => e
    let y : Pool := { x with windows := tableErase x.windows j }
    m.setPool p (if side = 0 then { y with reloc := t } else { y with relocAbove := t })

/-- A new journal copy's place: `n` targets, the lowest-index present members other than the survivor (R166 step 1, R167). -/
def Pool.newTargets (x : Pool) (n : Nat) (survivor : Option Nat) : List Nat :=
  ((List.range x.members.length).filter fun i => (x.mem i).port.isSome && some i != survivor).take n

/-- A member that holds a journal copy is lost: re-mirroring starts, or with no copy left the pool runs as local and two new
targets are taken (R166, R167). -/
def Fjoek.startRemirror (m : Fjoek) (p i : Nat) : Fjoek :=
  m.onPool p fun x m =>
    if !x.portable ∨ (x.jx0 ≠ some i ∧ x.jx1 ≠ some i) then m
    else
      let left := ([x.jx0, x.jx1].filterMap id).filter fun j => j != i && !x.jtargets.contains j
      match left with
      | s :: _ =>
        let t := x.newTargets 1 (some s)
        let m := m.setPool p { x with jx0 := some s, jx1 := t.head?, jtargets := t }
        (m.newGen p).latch 354
      | [] =>
        let t := x.newTargets 2 none
        let m := (m.setPool p { x with jx0 := t.head?, jx1 := t[1]?, jtargets := t }).setJdeg p true
        (m.newGen p).latch 354

/-- Start a round on each side that the pool has: the active one is superseded, spares are assigned, and the table and the record go to
every label. A round due while a journal copy is re-mirrored, or while a unit of a reshape moves, waits (R173, R196). -/
def Fjoek.startRound (m : Fjoek) (p : Nat) : Fjoek :=
  m.onPool p fun x m =>
    if x.jtargets ≠ [] ∨ m.reshapePhase p = 1 ∨ m.reshapePhase p = 2 then m.setPool p { x with roundDue := true }
    else
      m.keepDirty p fun m => m.each (Fjoek.sides x) fun side m =>
        m.onPool p fun x m =>
          let failed := (List.range x.members.length).filter fun i => (x.mem i).state == 2 || (x.mem i).state == 3
          if failed = [] then m
          else
            let amask := failed.take (x.lay side).s
            let j := m.freeRound p x
            let m := match m.activeRound p side with
              | some r => m.setRound p { r with kind := 2, cbucket := (m.cursor x p r).1, csig := (m.cursor x p r).2 }
              | none => m
            (m.reuseRound p side j).onPool p fun x m =>
              let l := x.lay side
              let t := sortReloc ((List.range l.rowCount).map (assignOneRow x side j amask)).flatten
              let mask := fun (l : List Nat) => (l.map (2 ^ ·)).sum
              let r : Round := { kind := 1, j := j, paused := false, side := side, fmask := mask failed, amask := mask amask
                                 gen := x.gen % 2 ^ 32, start := m.time, cbucket := l.m + 1, csig := 0 }
              let y : Pool := if side = 0 then { x with reloc := t, live := (l.m + 1, 0), roundDue := false }
                else { x with relocAbove := t, liveAbove := (l.m + 1, 0), roundDue := false }
              (((m.setPool p y).relocToLabels p side).setRound p r).newGen p

/-! ## Loss of a member (R139, R141, R166, R172, R196) -/

/-- A member enters FAILED: the label generation advances, Darn begins, and records held open on it are resolved (R141, R163, R173). -/
def Fjoek.failMember (m : Fjoek) (p i : Nat) : Fjoek :=
  let m := m.keepDirty p fun m => m.onPool p fun x m =>
    let m := m.setPool p { x with members := setNth x.members i { x.mem i with state := 2, port := none, resync := false } }
    (((m.absClear p i).startRemirror p i).newGen p).startRound p
  m.onPool p fun _ m => (m.resolveHeld p).poolEvent p

/-- A member is lost (R139): it becomes absent, its window starts, and writes to it that were outstanding set their regions. A
window of 0 fails it at once, and so does the loss of a replacement, whose copy-back cannot go on. -/
def Fjoek.memberLost (m : Fjoek) (p i : Nat) (writes : List (Nat × Nat)) : Fjoek :=
  m.onPool p fun x m =>
    let q := x.mem i
    if q.port = none then m
    else
      let gone : Member := { q with port := none, resync := false, state := if q.state = 4 then 4 else 1 }
      let m := m.setPool p { x with members := setNth x.members i gone }
      let m := m.absHeader p i q.serial x.uuid x.gen (1000 * x.window)
      let m := m.each writes fun w m => m.each [w.1 / 262144, (w.1 + w.2 - 1) / 262144] fun g m => m.setAbsBit p i g true
      let m := (m.newGen p).startRemirror p i
      let m := m.poolEvent p
      if q.state = 4 ∨ x.window = 0 then m.failMember p i else m

/-- Every pool whose member stands on port `p` loses that member; `writes` are the LBA ranges outstanding to it. -/
def Fjoek.portLost (m : Fjoek) (port : Nat) (writes : List (Nat × Nat)) : Fjoek :=
  m.each (List.range 4) fun p m =>
    m.onPool p fun x m =>
      match x.members.findIdx? fun q => q.port == some port with
      | none => m
      | some i => m.memberLost p i writes

/-! ## Recovery (R160 to R165) -/

/-- Recovery of a pool: lock every stripe that an open record names, resolve the INTENTs in ascending seq, then the DIRTY records, whose
stripes need no lock afterwards (R161). -/
def Fjoek.recover (m : Fjoek) (p : Nat) : Fjoek :=
  let l := m.openOf p
  let ints := l.filter fun r => r.kind == 1
  let m := m.each l fun r m => m.lockStripe p r.stripe r.owner
  let m := m.each ints fun r m => m.resolve r
  let m := m.each (l.filter fun r => r.kind == 2) fun r m => m.resolveDirty (ints.filter (·.destage)) r
  let held := ((m.openOf p).filter fun r => r.kind == 1).map (·.stripe)
  m.each (l.filter fun r => r.kind == 2 && !held.contains r.stripe) fun r m => m.unlockStripe p r.stripe

/-! ## Dirty bytes (R157) -/

def Fjoek.dirtyBytes (m : Fjoek) : Nat := 4096 * (m.lib.cache.filter (·.dirty)).length

def Fjoek.settleDirty (m : Fjoek) : Fjoek := m.setReg64 STRP_DIRTY_LO m.dirtyBytes

/-- Stripe `sig` has been destaged: its dirty blocks are clean, and its DIRTY records, whose blocks are all clean, retire (R155). -/
def Fjoek.afterDestage (m : Fjoek) (p side sig : Nat) : Fjoek :=
  m.onPool p fun x m =>
    let l := x.lay side
    let at_ := (List.range l.k).map (m.stripPlace x p side sig)
    let m := m.setCache (m.lib.cache.map fun c =>
      if c.pool == p && at_.any fun a => c.member == a.1 && decide (a.2 ≤ c.lba ∧ c.lba < a.2 + LU l) then { c with dirty := false } else c)
    (m.each ((m.openOf p).filter fun r => r.kind == 2 && r.layout == side && r.stripe == sig) fun r m => m.retire p r.seq).settleDirty

/-! ## The lead's completions on a trailing twin (R164) -/

/-- The oldest library write that waits on port `port` has completed as the lead's did: a success sets its strip's dmask bit once all its writes
are there, the record whose strips are all durable retires, and its lock is released; a failure leaves the record to recovery. -/
def Fjoek.libComp (m : Fjoek) (port : Nat) (ok : Bool) : Fjoek :=
  match m.lib.awaited.find? fun a => a.port == port with
  | none => m
  | some a =>
    let m : Fjoek := { m with lib := { m.lib with awaited := m.lib.awaited.erase a } }
    match (m.openOf a.pool).find? fun r => r.seq == a.seq with
    | none => m
    | some r => m.onPool a.pool fun x m =>
      let more := m.lib.awaited.any fun b => b.seq == a.seq && b.strip == a.strip
      let m := if ok ∧ !more then m.setDmask a.seq a.strip else m
      let m := m.when (ok && decide (a.strip < (x.lay r.layout).k)) fun m =>
        m.clearBad a.pool a.strip r.layout r.stripe ((a.offs.map (2 ^ ·)).sum)
      let m := if ok then m else
        m.memberLost a.pool (m.stripPlace x a.pool r.layout r.stripe a.strip).1 [((m.stripPlace x a.pool r.layout r.stripe a.strip).2, LU (x.lay r.layout))]
      if m.writesOut a.seq then m
      else match (m.openOf a.pool).find? fun q => q.seq == a.seq with
        | none => m
        | some q =>
          if q.wmask = q.dmask then
            let m := m.retire a.pool a.seq
            (if r.destage then m.afterDestage a.pool r.layout r.stripe else m).leaveStripe a.pool r.stripe
          else m.resolve q

end Sys2Proof.Machine
end

