-- ==== Sys2Proof/Machine/HostIO.lean ====
section
/-! DEFINITION. What the program library does for host commands: reads (R129, R132), writes through and back (R130, R131, R135,
R136, R154 to R156), destage, cache fills (R17, R133, R134), flush and namespace zeroing (R124, R125). -/

namespace Sys2Proof.Machine

/-! ## NVMe status values that the library answers with -/

def stOk : Nat := 0
def stNotReady : Nat := 0x82
def stRange : Nat := 0x80
def stUnrecovered : Nat := 0x281
def stWriteFault : Nat := 0x280
/-- Invalid Namespace or Format (PRESUMED: NVMe's value; the spec names none for an NSID that no namespace has). -/
def stNoNamespace : Nat := 0x0B

def Fjoek.respond (m : Fjoek) (cmd status : Nat) : Fjoek := m.output (.nvme cmd status)

/-! ## Namespaces -/

/-- The namespace with an NSID: pool, slot and record. -/
def Fjoek.nsFind (m : Fjoek) (nsid : Nat) : Option (Nat × Nat × NsRec) :=
  (List.range 4).findSome? fun p =>
    match m.pool? p with
    | none => none
    | some x => (x.ns.find? fun e => e.2.nsid == nsid).map fun e => (p, e.1, e.2)

/-- A namespace's extent list: its AUs in ascending order (R127). -/
def Pool.extents (x : Pool) (slot : Nat) : List Nat := (x.map.filter fun e => e.2 == slot).map (·.1)

/-- The namespace serves: its pool is online, zeroing is complete and its key is loaded (R124, R126, R160). -/
def Fjoek.nsReady (m : Fjoek) (x : Pool) (r : NsRec) : Bool :=
  x.online && r.zeroed && (r.xslot == 0xFFFF || tableGet (fun _ => 0) m.mngl.xkeys r.xslot != 0)

/-- LBA data size. -/
def nsSize (r : NsRec) : Nat := if r.big then 4096 else 512

/-- XTS over the 4,096 data bytes of namespace block `nb`: each LBA is one data unit under the namespace's key (R106). -/
def Fjoek.nsCrypt (m : Fjoek) (r : NsRec) (dec : Bool) (nb : Nat) (b : List Byte) : List Byte :=
  if r.xslot = 0xFFFF then b
  else
    let k := (bytesOf 64 (tableGet (fun _ => 0) m.mngl.xkeys r.xslot)).map BitVec.toNat
    let u := nsSize r
    ((List.range (4096 / u)).map fun j =>
      (xtsUnits dec (k.take 32) (k.drop 32) u 1 (Config.xtsNumber r.nsid (nb * (4096 / u) + j))
        (((b.drop (u * j)).take u).map BitVec.toNat)).map (BitVec.ofNat 8)).flatten

/-- The member block for plain bytes of namespace block `nb`, and the plain bytes of a member block: a member holds ciphertext, and then its
metadata (R133). -/
def Fjoek.sealBlock (m : Fjoek) (x : Pool) (r : NsRec) (nb : Nat) (plain : List Byte) : Block :=
  let c := m.nsCrypt r false nb plain
  c ++ (List.range x.ms).map fun j => Config.metaByte x.pi nb j c
def Fjoek.openBlock (m : Fjoek) (r : NsRec) (nb : Nat) (b : Block) : List Byte := m.nsCrypt r true nb (b.take 4096)

/-! ## From namespace block to stripe (R128, R193) -/

/-- A pool block's stripe, strip and offset, on its side of the boundary, or its scratch stripe, strip and offset (R191). -/
inductive BlockAt where
  | strip (side sig i e : Nat)
  | scratch (z i e : Nat)
  deriving DecidableEq, Repr

/-- The strips of a scratch stripe, k_s + m_s, where each lies, and the first LBA (R191). -/
def scratchParity (x : Pool) : Nat := Nat.max x.layout.m (x.lay 0).m
def scratchWidth (x : Pool) : Nat := x.layout.k + scratchParity x
def scratchMem (x : Pool) (z i : Nat) : Nat := (z + i) % (x.lay 0).n
def scratchLba (z : Nat) : Nat := 278528 + 16 * z

/-- The scratch place of pool block `b`. -/
def scratchAt (x : Pool) (bnd b : Nat) : BlockAt :=
  let ks := x.layout.k
  let v := b - bnd
  .scratch (v / (16 * ks)) (v % (16 * ks) / 16) (v % 16)

def Fjoek.blockAt (m : Fjoek) (x : Pool) (p b : Nat) : BlockAt :=
  let ph := m.reshapePhase p
  let bnd := m.reshapeB p
  let at_ := fun side =>
    let l := x.lay side
    BlockAt.strip side (b / LK l) (b % LK l / LU l) (b % LK l % LU l)
  if x.next = none ∨ ph = 0 then at_ 0
  else if b < bnd then at_ 0
  else if b < bnd + m.reshapeE p ∧ ph = 2 then scratchAt x bnd b
  else at_ 1

/-- A write to the unit being moved waits (R192). -/
def Fjoek.inUnit (m : Fjoek) (x : Pool) (p b : Nat) : Bool :=
  let ph := m.reshapePhase p
  x.next.isSome && (ph == 1 || ph == 2) && decide (m.reshapeB p ≤ b ∧ b < m.reshapeB p + m.reshapeE p)

/-- What a command covers of one 4 KiB block: pool block, namespace block, and its bytes there. -/
structure Piece where
  b : Nat
  nb : Nat
  first : Nat
  last : Nat
  deriving DecidableEq, Repr

/-- The piece covers its block whole. -/
def Piece.whole (q : Piece) : Bool := q.first == 0 && q.last == 4096

/-- The pieces of a command, or none where it passes the end. -/
def nsPieces (x : Pool) (slot : Nat) (r : NsRec) (lba count : Nat) : Option (List Piece) :=
  let first := lba * nsSize r
  let last := (lba + count) * nsSize r
  let ext := x.extents slot
  let au := x.kau
  if ext.length * au * 4096 < last then none
  else some ((List.range (ceilDiv last 4096 - first / 4096)).map fun j =>
    let nb := first / 4096 + j
    { b := nth ext (nb / au) 0 * au + nb % au, nb := nb, first := first - nb * 4096, last := Nat.min 4096 (last - nb * 4096) })

/-! ## Tokens (R110) -/

/-- Tokens of an operation of cost index `i` over `n` 4 KiB units (R109). -/
def Fjoek.opCost (m : Fjoek) (q : Nat × Nat) : Nat :=
  if q.2 = 0 then 0 else m.get (MNGL_COST_base q.1) + ceilDiv (m.get (MNGL_COST_per4k q.1) * q.2) 64
def Fjoek.cost (m : Fjoek) (l : List (Nat × Nat)) : Nat := (l.map m.opCost).sum

/-- One MOVE for each run of members' blocks: index 4 for reads, 5 for writes. -/
def runCosts (i : Nat) (l : List (Nat × Nat)) : List (Nat × Nat) := (runsOf l).map fun r => (i, r.2.2)

/-- What a namespace's blocks cost beside their MOVEs: PI and XTS. -/
def hostCosts (x : Pool) (r : NsRec) (n : Nat) : List (Nat × Nat) :=
  [(2, n), (9, if x.ms = 0 then 0 else n), (10, if r.xslot = 0xFFFF then 0 else n)]

/-- The library draws an operation's whole cost when it admits it; on a trailing twin the lead's grant stands in the log, and the tokens
are spent (R110, R355; which operations a command's cost counts is assumption 76, DEDUCED). -/
def Fjoek.libDraw (m : Fjoek) (c n : Nat) : Bool × Fjoek := if m.trailing then (true, m.take c n) else m.tryTake c n

/-! ## Buffer cells (R15) -/

/-- The strand for which reads, fills and rebuild steps lease cells; the spec names none (assumption 94). -/
def libStrand : Nat := 0

/-- Payload in parts of at most a lease: 4,096 cells (R94). -/
def slices (data : List Byte) : List (List Byte) :=
  (List.range (ceilDiv data.length (2 ^ 20))).map fun i => (data.drop (2 ^ 20 * i)).take (2 ^ 20)

/-- Strand `k`, in class `c`, can lease the cells through which `n` bytes of payload pass, a lease at a time. -/
def Fjoek.canPass (m : Fjoek) (k c n : Nat) : Bool := n == 0 || m.canLease k c (Nat.min (ceilDiv n 256) 4096)

/-- Payload passes through buffer cells: it is written into leased cells, which are then released (R15). -/
def Fjoek.passCells (m : Fjoek) (k c : Nat) (data : List Byte) : Fjoek :=
  m.each (slices data) fun b m =>
    let (h, n) := m.giveLease k c (ceilDiv b.length 256)
    if h = 0 then m else (n.leasePut (h % 65536) 0 b).releaseLease (h % 65536)

/-- Payload that stays in cells: its leases, or none where it does not find room whole. -/
def Fjoek.holdData (m : Fjoek) (k : Nat) (data : List Byte) : List Nat × Fjoek :=
  let r := (slices data).foldl (fun (q : List Nat × Fjoek) b =>
    let (h, n) := q.2.giveLease k 1 (ceilDiv b.length 256)
    if h = 0 then q else (q.1 ++ [h % 65536], n.leasePut (h % 65536) 0 b)) ([], m)
  if r.1.length = (slices data).length then r else ([], m)

/-- The first `n` bytes of the data of a held operation. -/
def Fjoek.heldBytes (m : Fjoek) (h : HeldOp) (n : Nat) : List Byte :=
  (h.leases.zipIdx.map fun l => m.leaseBytes l.1 0 (Nat.min (2 ^ 20) (n - 2 ^ 20 * l.2))).flatten

/-- The write of command `cmd` that strand `k` holds, with its data in cells. -/
def Fjoek.heldWrite (m : Fjoek) (k cmd : Nat) : Option HeldOp :=
  m.lib.held.find? fun h => h.strand == k && h.cmd == cmd && h.leases != []

/-- A write of strand `k` that was held ends: its cells are released, and its lock. -/
def Fjoek.endHeld (m : Fjoek) (k cmd : Nat) : Fjoek :=
  m.each (m.lib.held.filter fun h => h.strand == k && h.cmd == cmd && h.count != 0) fun h m =>
    ((m.each h.leases fun x m => m.releaseLease x).unhold h.pool h.stripe k).leaveStripe h.pool h.stripe

/-- A held write within which a read lies (R18). -/
def Fjoek.heldOver (m : Fjoek) (nsid lba count : Nat) : Option HeldOp :=
  m.lib.held.find? fun h => h.nsid == nsid && h.leases != [] && decide (h.lba ≤ lba ∧ lba + count ≤ h.lba + h.count)

/-! ## Cache fills (R17, R134) -/

/-- A fill of a block that the operation holds in cells: they stay held until the fill. -/
def Fjoek.queueFill (m : Fjoek) (p : Nat) (x : Pool) (mem lba sig : Nat) (data : Block) : Fjoek :=
  let (h, n) := m.giveLease libStrand 5 (ceilDiv data.length 256)
  if h = 0 then m
  else
    let m := n.leasePut (h % 65536) 0 data
    let f : Fill := { pool := p, member := mem, epoch := (x.mem mem).epoch.toNat, lba := lba, stripe := sig
                      wcount := m.wcountOf p sig, lease := h % 65536 }
    { m with lib := { m.lib with fills := m.lib.fills ++ [f] } }

/-- CACHE_FILL: the fill at the head of its queue is a MOVE from cells to HBM; it is dropped for want of C5 tokens or on a write count that
no longer matches. Its cells are released. -/
def execCacheFill (s : State) := s.on fun m =>
  match m.lib.fills with
  | [] => m
  | f :: r =>
    let m : Fjoek := { m with lib := { m.lib with fills := r } }
    let (ok, m) := m.libDraw 5 (m.opCost (1, 1))
    let m := m.onPool f.pool fun x m =>
      if ok ∧ m.wcountOf f.pool f.stripe = f.wcount then
        m.cachePut { pool := f.pool, member := f.member, epoch := f.epoch, lba := f.lba, dirty := false, used := true, slot := 0 }
          (m.leaseBytes f.lease 0 x.blockLen)
      else m
    m.releaseLease f.lease

/-! ## Reads (R129, R132) -/

/-- A record held open covers offset `e` of a stripe (R163). -/
def Fjoek.heldOpen (m : Fjoek) (p side sig e : Nat) : Bool :=
  m.stripeLocked p sig && m.openRecs.any fun r => r.kind == 1 && r.pool == p && r.layout == side && r.stripe == sig && !m.writesOut r.seq &&
    decide (r.efirst ≤ e ∧ e < r.efirst + r.ecount)

/-- A stripe with more lost strips than parities: 1 when the excess comes from absence, 2 when from failed members, else 0
(R132). -/
def Fjoek.excess (m : Fjoek) (x : Pool) (p side sig : Nat) : Nat :=
  let l := m.lostStrips x p side sig
  let gone := l.filter fun i => !m.stripAbsent x p side sig i
  let q := (x.lay side).m
  if l.length ≤ q then 0 else if gone.length ≤ q then 1 else 2

/-- A stripe that a parity resync has not reached (R165). -/
def Fjoek.unsynced (m : Fjoek) (x : Pool) (p side sig : Nat) : Bool :=
  match x.parity with
  | some n => decide (n ≤ m.sweepAt x p side sig)
  | none => false

/-- Strip `i` of a stripe does not give offset `e`: it is lost, or its drive cannot read the block. -/
def Fjoek.notRead (m : Fjoek) (x : Pool) (p side sig e i : Nat) : Bool := !(m.readableAt x p side sig e).contains i

/-- The strips of a scratch stripe that can be read, and its data blocks at offset `e` (R191, R196): a member that was not written when the unit
went to scratch holds none of it. -/
def scratchHere (x : Pool) (z : Nat) : List Nat :=
  (List.range (scratchWidth x)).filter fun i =>
    let q := x.mem (scratchMem x z i)
    q.port.isSome && !q.resync && !x.scratchGone.contains (scratchMem x z i)
def Fjoek.scratchBlock (m : Fjoek) (x : Pool) (z e i : Nat) : Block := m.memBlock x (scratchMem x z i) (scratchLba z + e)
def Fjoek.scratchData (m : Fjoek) (x : Pool) (z e : Nat) : List Block :=
  let k := x.layout.k
  let src := scratchHere x z
  if (List.range k).all src.contains then (List.range k).map (m.scratchBlock x z e)
  else decodeBlocks k ((src.take k).map fun i => (i, m.scratchBlock x z e i))

/-- The cached copy of the place of a block, dirty or clean. -/
def Fjoek.copyOf (m : Fjoek) (x : Pool) (p : Nat) (b : BlockAt) : Option CacheBlock :=
  match b with
  | .scratch _ _ _ => none
  | .strip side sig i e => let (mem, lba) := m.stripPlace x p side sig i; m.cached p x mem (lba + e)

/-- The status with which a read of a block fails, 0 when it is served. A dirty copy hits (R136); a block that its drive cannot read is served
like a lost one (assumption 77, DEDUCED). -/
def Fjoek.readStatus (m : Fjoek) (x : Pool) (p : Nat) (b : BlockAt) : Nat :=
  match b with
  | .scratch z _ _ => if (scratchHere x z).length < x.layout.k then stNotReady else 0
  | .strip side sig i e =>
    let gone := m.notRead x p side sig e i
    let ex := m.excess x p side sig
    if m.heldOpen p side sig e ∨ ex = 1 then stNotReady
    else if (m.copyOf x p b).any (·.dirty) then 0
    else if m.knownBad p i side sig e ∨ (m.stripLost x p side sig i ∧ ex = 2) then stUnrecovered
    else if gone ∧ (m.unsynced x p side sig ∨ (m.readableAt x p side sig e).length < (x.lay side).k) then stUnrecovered
    else 0

/-- A source block stands clean in the cache. -/
def Fjoek.cleanAt (m : Fjoek) (x : Pool) (p : Nat) (a : Nat × Nat) : Bool :=
  match m.cached p x a.1 a.2 with
  | some c => !c.dirty
  | none => false

/-- The member blocks that are read to serve a block. -/
def Fjoek.readPlaces (m : Fjoek) (x : Pool) (p : Nat) (b : BlockAt) : List (Nat × Nat) :=
  match b with
  | .scratch z i e =>
    let src := scratchHere x z
    (if src.contains i then [i] else src.take x.layout.k).map fun i => (scratchMem x z i, scratchLba z + e)
  | .strip side sig i e =>
    let at_ := fun i => let (mem, lba) := m.stripPlace x p side sig i; (mem, lba + e)
    if (m.copyOf x p b).isSome then []
    else if !m.notRead x p side sig e i then [at_ i]
    else (((m.readableAt x p side sig e).take (x.lay side).k).map at_).filter fun a => !m.cleanAt x p a

/-- A block as the host reads it, dirty or clean in the cache, on the members, or in scratch. -/
def Fjoek.content (m : Fjoek) (x : Pool) (p : Nat) (b : BlockAt) : Block :=
  match b with
  | .scratch z i e => nth (m.scratchData x z e) i []
  | .strip side sig i e => m.currentBlock x p side sig i e

/-- Blocks are read: one Read for each run of what the cache does not hold, and a fill for each missed block that lies on its member. -/
def Fjoek.serveRead (m : Fjoek) (x : Pool) (p : Nat) (bs : List BlockAt) : Fjoek :=
  let hits := (bs.filterMap (m.copyOf x p)).map fun c => (c.member, c.lba)
  let fills := (bs.filter fun b => (m.copyOf x p b).isNone).filterMap fun b =>
    match b with
    | .strip side sig i e =>
      let (mem, lba) := m.stripPlace x p side sig i
      if m.notRead x p side sig e i then none else some (mem, lba + e, sig, m.content x p b)
    | .scratch _ _ _ => none
  let m := m.setCache (m.lib.cache.map fun c => if c.pool == p && hits.contains (c.member, c.lba) then { c with used := true } else c)
  let m := m.readMembers p (bs.map (m.readPlaces x p)).flatten
  m.each fills fun f m => m.queueFill p x f.1 f.2.1 f.2.2.1 f.2.2.2

/-- What serving a read costs (R110): its reads, MOVEs from HBM for hits, decoding, and the host's side. -/
def Fjoek.readCosts (m : Fjoek) (x : Pool) (p : Nat) (r : NsRec) (bs : List BlockAt) : List (Nat × Nat) :=
  let decoded := bs.filter fun b => match b with
    | .strip side sig i e => (m.copyOf x p b).isNone && m.notRead x p side sig e i
    | .scratch z i _ => !(scratchHere x z).contains i
  runCosts 4 (bs.map (m.readPlaces x p)).flatten ++ [(1, (bs.filterMap (m.copyOf x p)).length), (6, x.layout.k * decoded.length)] ++
    hostCosts x r bs.length

/-- HOST_READ: command `cmd` reads `count` blocks from `lba`: from the cells of a write in progress where it lies within that (R18), else from the
cache and the members, through buffer cells (R15). It waits for C0 tokens and for cells. -/
def execHostRead (cmd nsid lba count : Nat) (s : State) := s.on fun m =>
  match m.nsFind nsid with
  | none => m.respond cmd stNoNamespace
  | some (p, slot, r) => m.onPool p fun x m =>
    if !m.nsReady x r then m.respond cmd stNotReady
    else
      match nsPieces x slot r lba count with
      | none => m.respond cmd stRange
      | some l =>
        let bs := l.map fun q => m.blockAt x p q.b
        match m.heldOver nsid lba count with
        | some h =>
          let u := nsSize r
          let data := ((m.heldBytes h (u * h.count)).drop (u * (lba - h.lba))).take (u * count)
          let (ok, n) := m.libDraw 0 (m.cost (hostCosts x r l.length))
          if ok then (n.output (.nvmeData cmd data)).respond cmd stOk else m
        | none =>
          match (bs.map (m.readStatus x p)).find? (· != 0) with
          | some st => m.respond cmd st
          | none =>
            let data := (l.map fun q => ((m.openBlock r q.nb (m.content x p (m.blockAt x p q.b))).take q.last).drop q.first).flatten
            let (ok, n) := m.libDraw 0 (m.cost (m.readCosts x p r bs))
            if ok ∧ m.canPass libStrand 0 data.length then
              (((n.passCells libStrand 0 data).serveRead x p bs).output (.nvmeData cmd data)).respond cmd stOk
            else m

/-! ## Stripe updates (R130, R131, R154) -/

/-- The blocks of a stripe that an update writes: strip, offset and new content. -/
abbrev Blocks := List (Nat × Nat × Block)

def Blocks.offsets (b : Blocks) : List Nat := sortBy id ((b.map (·.2.1)).dedup)
def Blocks.first (b : Blocks) : Nat := b.offsets.headD 0
def Blocks.last (b : Blocks) : Nat := b.offsets.getLastD 0
def Blocks.new (b : Blocks) (i e : Nat) : Option Block := (b.find? fun q => q.1 == i && q.2.1 == e).map (·.2.2)

/-- The path of an update: 0 full stripe, 1 read-modify-write, 2 reconstruct-write (R130, R165). -/
def Fjoek.writePath (m : Fjoek) (x : Pool) (p side sig : Nat) (b : Blocks) : Nat :=
  let l := x.lay side
  let w := b.length
  let e := b.offsets.length
  if w = l.k * LU l then 0
  else if l.k * e - w < w + l.m * e ∨ m.lostStrips x p side sig ≠ [] ∨ m.unsynced x p side sig ∨
      b.offsets.any fun e => (m.readableAt x p side sig e).length != Lw l then 2
  else 1

/-- The member blocks that the path reads. -/
def Fjoek.oldPlaces (m : Fjoek) (x : Pool) (p side sig path : Nat) (b : Blocks) : List (Nat × Nat) :=
  let l := x.lay side
  let need : List (Nat × Nat) := match path with
    | 0 => []
    | 1 => b.map (fun q => (q.1, q.2.1)) ++ ((List.range l.m).map fun j => b.offsets.map fun e => (l.k + j, e)).flatten
    | _ => ((List.range l.k).map fun i => (b.offsets.filter fun e => (b.new i e).isNone).map fun e => (i, e)).flatten
  let one := fun (q : Nat × Nat) => if m.notRead x p side sig q.2 q.1 then
    ((m.readableAt x p side sig q.2).take l.k).map fun i => (i, q.2) else [q]
  (((need.map one).flatten.dedup).map fun q =>
    let (mem, lba) := m.stripPlace x p side sig q.1
    (mem, lba + q.2)).filter fun a => !m.cleanAt x p a

/-- Parity `j` of offset `e` after the update: from the old parity and the changed blocks, or afresh (R102, R130). -/
def Fjoek.newParity (m : Fjoek) (x : Pool) (p side sig path : Nat) (b : Blocks) (e j : Nat) : Block :=
  let k := (x.lay side).k
  let n := x.blockLen
  let old := m.stripBlock x p side sig e
  if path = 1 then
    gfSum n ((1, old (k + j)) ::
      ((b.filter fun q => q.2.1 == e).map fun q => [(codeCoef j q.1, old q.1), (codeCoef j q.1, q.2.2)]).flatten)
  else
    let was := m.rowData x p side sig e
    encodeBlock n j ((List.range k).map fun i => (b.new i e).getD (nth was i (List.replicate n 0)))

/-- Strip `i` is written: it is not lost, or it is lost only to a region that awaits resync on a member that is here (R131, R142). -/
def Fjoek.stripWritable (m : Fjoek) (x : Pool) (p side sig i : Nat) : Bool :=
  let q := x.mem (m.stripPlace x p side sig i).1
  let home := x.mem (entryMember (x.lay side) (stripeRow (x.lay side) sig) (stripEntry (x.lay side) sig i))
  !m.stripLost x p side sig i || (q.resync && q.port.isSome && (decide (home.state < 2) || m.relocated x p side sig i))

/-- The member writes of an update: data and parity of the strips that are written. -/
def Fjoek.updateWrites (m : Fjoek) (x : Pool) (p side sig path : Nat) (b : Blocks) : List StripWrite :=
  let l := x.lay side
  let all : Blocks := b ++ ((List.range l.m).map fun j => b.offsets.map fun e => (l.k + j, e, m.newParity x p side sig path b e j)).flatten
  (all.filter fun q => m.stripWritable x p side sig q.1).map fun q =>
    let (mem, lba) := m.stripPlace x p side sig q.1
    (q.1, mem, lba + q.2.1, q.2.2)

/-- The places of an update's data and parity blocks, written or not. -/
def Fjoek.touched (m : Fjoek) (x : Pool) (p side sig : Nat) (b : Blocks) : List (Nat × Nat) :=
  let l := x.lay side
  (b.map (fun q => (q.1, q.2.1)) ++ ((List.range l.m).map fun j => b.offsets.map fun e => (l.k + j, e)).flatten).map fun q =>
    let (mem, lba) := m.stripPlace x p side sig q.1
    (mem, lba + q.2)

/-- What an update costs (R110): its reads and writes, and its coding. -/
def Fjoek.updateCosts (m : Fjoek) (x : Pool) (p side sig : Nat) (b : Blocks) : List (Nat × Nat) :=
  let l := x.lay side
  let path := m.writePath x p side sig b
  runCosts 4 (m.oldPlaces x p side sig path b) ++ runCosts 5 (m.touched x p side sig b) ++ [(6, l.k * b.offsets.length)]

/-- The stripe's lock is taken, or kept where it was held for the journal, and its write count advances (R134). -/
def Fjoek.takeStripe (m : Fjoek) (p sig k : Nat) : Fjoek :=
  let m := (m.lockStripe p sig k).unhold p sig k
  { m with lib := { m.lib with wcount := tableSet (fun _ => 0) m.lib.wcount (p * 2 ^ 47 + sig) (m.wcountOf p sig + 1) } }

/-- A stripe update by strand `k` under the lock that it holds: reads, coding, INTENT, absence bits, member writes, dmask, retirement
(R154). `failed` are the strips whose member write fails: their members are lost, and recovery resolves the record. -/
def Fjoek.updateStripe (m : Fjoek) (p side sig k : Nat) (b : Blocks) (destage : Bool) (failed : List Nat) : Fjoek :=
  m.onPool p fun x m =>
    let path := m.writePath x p side sig b
    let ws := m.updateWrites x p side sig path b
    let m := m.readMembers p (m.oldPlaces x p side sig path b)
    let m := m.dropCopies p (m.touched x p side sig b)
    let seq := m.lib.seq
    let entries := m.lostEntries.length
    let m := m.journaled x p side sig k path b.first (b.last - b.first + 1) destage ws failed
    let bad := ((ws.map (·.1)).dedup).filter failed.contains
    if m.writesOut seq then m
    else if bad = [] then
      let m := m.each b fun q m => m.clearBad p q.1 side sig (2 ^ q.2.1)
      (m.retire p seq).listFreed entries
    else
      let m := m.each bad fun i m => m.memberLost p (m.stripPlace x p side sig i).1
        ((ws.filter fun w => w.1 == i).map fun w => (w.2.2.1, 1))
      match (m.openOf p).find? fun r => r.seq == seq with
      | some r => m.resolve r
      | none => m

/-- The dirty blocks of a stripe. -/
def Fjoek.dirtyBlocks (m : Fjoek) (x : Pool) (p side sig : Nat) : Blocks :=
  let l := x.lay side
  ((List.range l.k).map fun i =>
    let (mem, lba) := m.stripPlace x p side sig i
    sortBy (·.2.1) ((m.lib.cache.filter fun c =>
      c.dirty && c.pool == p && c.member == mem && decide (lba ≤ c.lba ∧ c.lba < lba + LU l)).map fun c =>
        (i, c.lba - lba, m.cacheBytes x c))).flatten

/-- Write a stripe's dirty blocks to its members under the lock that strand `k` holds: once the INTENT retires they are clean, and DIRTY
records whose blocks are all clean retire (R155, R136). -/
def Fjoek.destageStripe (m : Fjoek) (p side sig k : Nat) (failed : List Nat) : Fjoek :=
  m.onPool p fun x m =>
    let b := m.dirtyBlocks x p side sig
    if b = [] then m
    else
      let m := m.updateStripe p side sig k b true failed
      if m.intentOpen p side sig then m else m.afterDestage p side sig

/-- The dirty limit in bytes (R157, R159, R457). -/
def Fjoek.dirtyLimit (m : Fjoek) : Nat := if m.lib.quiesce then 0 else 4096 * m.get DAMP_DIRTY_blocks

/-- The class of destage: C2 while dirty bytes stand above the limit and after loss of feed, else C1 (R157, R158). -/
def Fjoek.destageClass (m : Fjoek) : Nat := if m.isOn FEED_STAT_loss ∨ m.dirtyLimit < m.dirtyBytes then 2 else 1

/-- Nothing is dirty after loss of feed or in quiesce: the clean state stands in every journal header entry (R158). DESTAGE ends so, also one
that finds nothing to write. -/
def Fjoek.noteClean (m : Fjoek) : Fjoek :=
  if (m.isOn FEED_STAT_loss ∨ m.lib.quiesce) ∧ m.dirtyBytes = 0 then
    m.each (List.range 4) fun p m => m.onPool p fun x m => m.when x.online fun m => m.storeHead p x true
  else m

/-- The sides of a stripe number that hold dirty blocks. -/
def Fjoek.dirtySides (m : Fjoek) (x : Pool) (p sig : Nat) : List Nat :=
  (Fjoek.sides x).filter fun side => m.dirtyBlocks x p side sig != []

/-- What the destage of a stripe costs. -/
def Fjoek.destageCosts (m : Fjoek) (x : Pool) (p sig : Nat) : List (Nat × Nat) :=
  ((m.dirtySides x p sig).map fun side => m.updateCosts x p side sig (m.dirtyBlocks x p side sig)).flatten

/-- A destage of a stripe by strand `k`: it waits for the stripe's lock, for room in the journal and for tokens, and while
more strips of the stripe are lost than it has parities (R132). -/
def Fjoek.destage (m : Fjoek) (k p stripe : Nat) (failed : List Nat) : Fjoek :=
  m.onPool p fun x m =>
    let sides := m.dirtySides x p stripe
    if !x.online then m
    else if sides = [] then m.noteClean
    else if sides.any fun side => m.excess x p side stripe != 0 then m
    else if !m.lockFree p stripe k then m.waitLocks p k [stripe]
    else if !m.recRoom x (2 * sides.length) then (m.lockStripe p stripe k).holdStripe (HeldOp.own k p stripe)
    else
      let (ok, n) := m.libDraw m.destageClass (m.cost (m.destageCosts x p stripe))
      if !ok then m
      else
        let m := n.takeStripe p stripe k
        let m := m.each sides fun side m => m.destageStripe p side stripe k failed
        (m.leaveStripe p stripe).noteClean

/-- DESTAGE of a stripe of a pool, by strand `t` of engine `e`. -/
def execDestage (e : Fin 64) (t : Fin 8) (pool : Fin 4) (stripe : Nat) (failed : List Nat) (s : State) := s.on fun m =>
  m.destage (8 * e.val + t.val) pool.val stripe failed

/-! ## Writes (R131, R132, R135, R155, R156, R158) -/

/-- The status with which a write of a block fails, 0 when it is served. -/
def Fjoek.writeStatus (m : Fjoek) (x : Pool) (p : Nat) (b : BlockAt) (whole : Bool) : Nat :=
  match b with
  | .scratch _ _ _ => 0
  | .strip side sig i e =>
    let ex := m.excess x p side sig
    if m.heldOpen p side sig e ∨ ex = 1 then stNotReady
    else if ex = 2 ∨ (m.knownBad p i side sig e ∧ !whole) then stWriteFault
    else if (m.readableAt x p side sig e).length < (x.lay side).k ∨ (!whole ∧ m.readStatus x p b ≠ 0) then stWriteFault
    else 0

/-- The command runs write-back (R135): in twin configuration only while it is mirrored, so a trailing twin in step and the mirror window take it
(R20). -/
def Fjoek.writesBack (m : Fjoek) (x : Pool) (p : Nat) (r : NsRec) (fua rateOk : Bool) (bytes : Nat) : Bool :=
  r.writeBack && !fua && decide (m.dirtyBytes + bytes ≤ m.dirtyLimit) &&
    !(m.someStripe x p fun side l _ => decide ((x.lay side).m ≤ l.length)) &&
    !(m.lostEntries.any fun i => m.mramNat (lostAt i) 2 % 4 == p) &&
    (!m.isOn TOP_STRAP_twin || (!m.isOn TWIN_STAT_solo && rateOk && m.isOn TWIN_MIRWIN_en && (m.leads || m.trailing)))

/-- Runs of offsets: first and count. -/
def offsetRuns : List Nat → List (Nat × Nat)
  | [] => []
  | e :: r =>
    match offsetRuns r with
    | (f, n) :: t => if f = e + 1 then (e, n + 1) :: t else (e, 1) :: (f, n) :: t
    | [] => [(e, 1)]

/-- The DIRTY records that name exactly the blocks given: runs of offsets, each with the strips that have it (R149). -/
def dirtySpans (b : Blocks) : List ((Nat × Nat) × List Nat) :=
  let all := (((b.map (·.1)).dedup).map fun i =>
    (offsetRuns (sortBy id ((b.filter fun q => q.1 == i).map (·.2.1)))).map fun q => (q, i)).flatten
  ((all.map (·.1)).dedup).map fun q => (q, (all.filter fun a => a.1 == q).map (·.2))

/-- The twin-bound MOVE of a dirty block (R155 step 5, R367): a MIRROR record that carries it. Where in the mirror window the library keeps
the block is free. -/
def Fjoek.mirrorBlock (m : Fjoek) (b : Block) : Fjoek :=
  if !(m.leads && m.isOn TWIN_MIRWIN_en) then m
  else
    let base := m.get TWIN_MIRWIN_base * 2 ^ 20
    let n := (m.get TWIN_MIRWIN_limit + 1) * 2 ^ 20 - base
    let (r, m) := m.freeNat
    (m.logTwin 0x0C 0xFF ((base + 64 * (r % Nat.max 1 ((n - b.length) / 64))) :: b.length :: b.map BitVec.toNat)).count
      TWIN_MIRBYTES_LO b.length

/-- A write-back update of one stripe under its lock (R155): its blocks are dirty in the cache, under DIRTY records, and mirrored. -/
def Fjoek.backStripe (m : Fjoek) (p side sig k : Nat) (b : Blocks) : Fjoek :=
  m.onPool p fun x m =>
    let m := m.each b fun q m =>
      let (mem, lba) := m.stripPlace x p side sig q.1
      (m.invalidate p mem (lba + q.2.1)).cachePut { pool := p, member := mem, epoch := (x.mem mem).epoch.toNat, lba := lba + q.2.1
                                                    dirty := true, used := true, slot := 0 } q.2.2
    let m := m.each (dirtySpans b) fun d m =>
      (m.storeRec { kind := 2, pool := p, portable := false, destage := false, path := 0, gen := 0, seq := 0, tail := 0
                    stripe := sig, efirst := d.1.1, ecount := d.1.2, wmask := (d.2.map (2 ^ ·)).sum, layout := side, gcount := 0
                    gidx := 0, owner := k, wcount := m.wcountOf p sig, dmask := 0 })
    let m := m.noteAbsence p x side sig b.first (b.last - b.first + 1)
    (m.each b fun q m => m.mirrorBlock q.2.2).settleDirty

/-- The stripes that blocks touch, each with its blocks in order of strip and offset. -/
def byStripe (l : List (BlockAt × Block)) : List ((Nat × Nat) × Blocks) :=
  let keys := (l.filterMap fun b => match b.1 with
    | .strip side sig _ _ => some (side, sig)
    | .scratch _ _ _ => none).dedup
  keys.map fun k => (k, l.filterMap fun b => match b.1 with
    | .strip side sig i e => if (side, sig) = k then some (i, e, b.2) else none
    | .scratch _ _ _ => none)

/-- The new member blocks of a write: bytes merged into what a partly covered block holds (R131). -/
def Fjoek.mergePieces (m : Fjoek) (x : Pool) (p : Nat) (r : NsRec) (l : List Piece) (data : List Byte) : List (BlockAt × Block) :=
  let base := match l.head? with
    | some q => 4096 * q.nb + q.first
    | none => 0
  l.map fun q =>
    let at_ := m.blockAt x p q.b
    let new := (data.drop (4096 * q.nb + q.first - base)).take (q.last - q.first)
    let old := if q.whole then [] else m.openBlock r q.nb (m.content x p at_)
    (at_, m.sealBlock x r q.nb (old.take q.first ++ new ++ old.drop q.last))

/-- Write one stripe through: its dirty blocks go first (R136), then the update; fills follow a small write (R134). -/
def Fjoek.throughStripe (m : Fjoek) (p side sig k : Nat) (b : Blocks) (failed : List Nat) : Fjoek :=
  let m := m.destageStripe p side sig k []
  if m.intentHeld p side sig then m
  else
    let m := m.updateStripe p side sig k b false failed
    if m.intentHeld p side sig then m
    else m.onPool p fun x m =>
      if b.length = (x.lay side).k * LU (x.lay side) then m
      else
        let l := x.lay side
        let at_ := fun (i e : Nat) => let (mem, lba) := m.stripPlace x p side sig i; (mem, lba + e)
        let fills := (b.map fun q => (q.1, at_ q.1 q.2.1, q.2.2)) ++ ((List.range l.m).map fun j => b.offsets.map fun e =>
          (l.k + j, at_ (l.k + j) e, m.stripBlock x p side sig e (l.k + j))).flatten
        m.each (fills.filter fun f => !m.stripLost x p side sig f.1) fun f m => m.queueFill p x f.2.1.1 f.2.1.2 sig f.2.2

/-- The response of a write that has run: offsets of a record held open are not ready, and blocks that were lost with their members are not
written. -/
def Fjoek.writeResult (m : Fjoek) (p : Nat) (stripes : List ((Nat × Nat) × Blocks)) : Nat :=
  if stripes.any fun q => q.2.any fun b => m.heldOpen p q.1.1 q.1.2 b.2.1 then stNotReady
  else if stripes.any fun q => q.2.any fun b => m.knownBad p b.1 q.1.1 q.1.2 b.2.1 then stWriteFault
  else stOk

/-- The blocks that a write covers in part. -/
def Fjoek.partBlocks (m : Fjoek) (x : Pool) (p : Nat) (l : List Piece) : List BlockAt :=
  (l.filter fun q => !q.whole).map fun q => m.blockAt x p q.b

/-- What a write costs (R110): the reads of partly covered blocks, and, write-back, the MOVEs to HBM and a destage at once where the mirror's fence
fails (R156), else the destage of dirty blocks that go first (R136) and the updates. -/
def Fjoek.writeCosts (m : Fjoek) (x : Pool) (p : Nat) (r : NsRec) (back fenced : Bool) (l : List Piece)
    (stripes : List ((Nat × Nat) × Blocks)) : List (Nat × Nat) :=
  let update := (stripes.map fun q => m.updateCosts x p q.1.1 q.1.2 q.2).flatten
  hostCosts x r l.length ++ runCosts 4 ((m.partBlocks x p l).map (m.readPlaces x p)).flatten ++
    if back then (1, l.length) :: (if fenced then [] else update)
    else (((stripes.map (·.1.2)).dedup).map (m.destageCosts x p)).flatten ++ update

/-- Records that a write stores at most. -/
def Fjoek.writeRecs (m : Fjoek) (x : Pool) (p : Nat) (back : Bool) (stripes : List ((Nat × Nat) × Blocks)) : Nat :=
  if back then (stripes.map fun q => (dirtySpans q.2).length + 2).sum
  else (stripes.map fun q => 2 + 2 * bnat (m.dirtyBlocks x p q.1.1 q.1.2 != [])).sum

/-- One stripe of a write under its lock: its status, found again as members may have been lost since the command was admitted (R132), and the
update. -/
def Fjoek.writeStripe (m : Fjoek) (p k : Nat) (back fenced : Bool) (failed : List Nat) (q : (Nat × Nat) × Blocks) : Nat × Fjoek :=
  let m := m.takeStripe p q.1.2 k
  match m.pool? p with
  | none => (stNotReady, m)
  | some x =>
    let st := ((q.2.map fun b => m.writeStatus x p (.strip q.1.1 q.1.2 b.1 b.2.1) true).find? (· != 0)).getD 0
    let m :=
      if st ≠ 0 then m
      else if back then
        let m := m.backStripe p q.1.1 q.1.2 k q.2
        if fenced then m else m.destageStripe p q.1.1 q.1.2 k failed
      else m.throughStripe p q.1.1 q.1.2 k q.2 failed
    (st, m.leaveStripe p q.1.2)

/-- Stripes are written one at a time (R130); the first status that is not success is kept. -/
def Fjoek.writeStripes (m : Fjoek) (p k : Nat) (back fenced : Bool) (failed : List Nat) (l : List ((Nat × Nat) × Blocks)) : Nat × Fjoek :=
  l.foldl (fun q s => let r := q.2.writeStripe p k back fenced failed s; (if q.1 = 0 then r.1 else q.1, r.2)) (0, m)

/-- A write waits for room in the journal: its first stripe stays locked, and its data in cells. -/
def Fjoek.holdWrite (m : Fjoek) (k p cmd nsid lba count : Nat) (sigs : List Nat) (data : List Byte) : Fjoek :=
  if m.lib.held.any fun h => h.strand == k && h.cmd == cmd && h.count != 0 then m.waitRoom
  else
    let (leases, m) := m.holdData k data
    m.each (sigs.take 1) fun g m => (m.lockStripe p g k).holdStripe ⟨k, p, g, cmd, nsid, lba, count, leases⟩

/-- The data of a write passes through cells, or leaves those that held it. -/
def Fjoek.cellsDone (m : Fjoek) (k cmd : Nat) (data : List Byte) : Fjoek :=
  match m.heldWrite k cmd with
  | some h => m.each h.leases fun x m => m.releaseLease x
  | none => m.passCells k 1 data

/-- HOST_WRITE by the strand that runs the command, with its data. A write waits, with no effect, until its data is whole, while the feed is
lost and while its unit is being moved; it waits for a stripe's lock with its engine in the waiter mask; for cells; with its first stripe locked and
its data in cells, for room in the journal (event 353 once an episode); and for tokens of C1. That a command's bytes are counted against the dirty
limit as the blocks it touches, whole, is the model's choice (assumption 95, DESIGN CHOICE). -/
def execHostWrite (e : Fin 64) (t : Fin 8) (cmd nsid lba count : Nat) (fua : Bool) (twin : TwinAnswers) (failed : List Nat)
    (data : List Byte) (s : State) := s.on fun m =>
  let k := 8 * e.val + t.val
  let fail := fun (st : Nat) => (m.endHeld k cmd).respond cmd st
  match m.nsFind nsid with
  | none => fail stNoNamespace
  | some (p, slot, r) => m.onPool p fun x m =>
    if m.isOn FEED_STAT_loss ∨ data.length ≠ count * nsSize r then m
    else if !m.nsReady x r then fail stNotReady
    else
      match nsPieces x slot r lba count with
      | none => fail stRange
      | some l =>
        let st := (l.map fun q => m.writeStatus x p (m.blockAt x p q.b) q.whole).find? (· != 0)
        let stripes := byStripe (m.mergePieces x p r l data)
        let sigs := (stripes.map (·.1.2)).dedup
        if l.any fun q => m.inUnit x p q.b then m.setPool p { x with unitWait := true }
        else if st ≠ none then fail (st.getD 0)
        else if sigs.any fun g => !m.lockFree p g k then m.waitLocks p k sigs
        else if (m.heldWrite k cmd).isNone ∧ !m.canPass k 1 data.length then m
        else
          let back := m.writesBack x p r fua twin.rateOk (4096 * l.length)
          let fenced := !m.isOn TOP_STRAP_twin || twin.fenceOk
          if !m.recRoom x (m.writeRecs x p back stripes) then m.holdWrite k p cmd nsid lba count sigs data
          else
            let (ok, n) := m.libDraw 1 (m.cost (m.writeCosts x p r back fenced l stripes))
            if !ok then m
            else
              let m := (n.cellsDone k cmd data).readMembers p ((n.partBlocks x p l).map (n.readPlaces x p)).flatten
              let (st, m) := m.writeStripes p k back fenced failed stripes
              m.respond cmd (if st = 0 then m.writeResult p stripes else st)

/-- NVME_FLUSH: no volatile write cache, so success at once (R125); a namespace that is not ready answers as every command to it does (R124,
R126, R160). -/
def execNvmeFlush (cmd nsid : Nat) (s : State) := s.on fun m =>
  match m.nsFind nsid with
  | none => m.respond cmd stNoNamespace
  | some (p, _, r) => m.onPool p fun x m => m.respond cmd (if m.nsReady x r then stOk else stNotReady)

/-- RETIREMENT_TIMEOUT: retirements that found no group for 1 ms go out in a group of RETIRE records (R152), once there is room for those and the
group may be written (R150, R151). -/
def execRetirementTimeout (pool : Fin 4) (s : State) := s.on fun m =>
  m.onPool pool.val fun x m =>
    if x.retq = [] then m
    else if !m.jroom x.retireSpans ∨ !x.groupFree x.group then m.waitRoom
    else m.commitGroup pool.val []

/-! ## The namespace table and the map in the labels (R126, R127) -/

/-- The label blocks that hold a namespace slot, and an AU's map entry, go to every present member. -/
def Fjoek.nsToLabels (m : Fjoek) (p slot : Nat) : Fjoek :=
  m.onPool p fun x m => m.toLabels p (8192 + slot / 64) (x.nsBytes (slot / 64 * 64) 64)
def Fjoek.mapToLabels (m : Fjoek) (p : Nat) (aus : List Nat) : Fjoek :=
  m.onPool p fun x m => m.each ((aus.map (· / 2048)).dedup) fun j m => m.toLabels p (8448 + j) (x.mapBytes (2048 * j) 2048)

end Sys2Proof.Machine
end

