-- ==== Sys2Proof/Machine/Darn.lean ====
section
/-! DEFINITION. Allocation units over their members (R124, R185), assembly, rejoin and resync (R137 to R142), re-mirroring (R166), Darn's
rounds (R178 to R186), copy-back (R187), reshape (R191 to R196) and the supervisor's recovery of a strand (R148). -/

namespace Sys2Proof.Machine

/-- The strand that runs Darn, as records and locks name it; the spec names none (assumption 16). -/
def darnStrand : Nat := 0

/-- An operation of Darn keeps a stripe's lock while its record waits for room in the journal (R150). -/
def Fjoek.darnWait (m : Fjoek) (p sig : Nat) : Fjoek := (m.lockStripe p sig darnStrand).holdStripe (HeldOp.own darnStrand p sig)

/-- Darn takes a stripe's lock, or goes on under the one that it kept. -/
def Fjoek.darnLock (m : Fjoek) (p sig : Nat) : Fjoek := (m.lockStripe p sig darnStrand).unhold p sig darnStrand

/-! ## Write Zeroes and Deallocate over an AU (R124, R185) -/

/-- The stripes of an AU, each on its side of a reshape boundary with the AU's blocks there, as zeros; blocks in a unit that is being moved are
not among them. -/
def Fjoek.auStripes (m : Fjoek) (x : Pool) (p a : Nat) : List ((Nat × Nat) × Blocks) :=
  let zero : Block := List.replicate x.blockLen 0
  byStripe ((((List.range x.kau).map (a * x.kau + ·)).filter fun b => !m.inUnit x p b).map fun b => (m.blockAt x p b, zero))

/-- Another AU that is allocated has blocks in a stripe of AU `a`. -/
def edgeShared (x : Pool) (side sig a : Nat) : Bool :=
  let k := LK (x.lay side)
  let au := Nat.max 1 x.kau
  x.map.any fun q => q.1 != a && decide (sig * k / au ≤ q.1 ∧ q.1 ≤ (sig * k + k - 1) / au)

/-- Work on an AU that waits. -/
def Fjoek.auLater (m : Fjoek) (p a op : Nat) : Fjoek :=
  m.onPool p fun x m => m.setPool p { x with auWait := x.auWait.filter (· != (a, op)) ++ [(a, op)] }

/-- Blocks of a drive hold nothing known from here on. -/
def Fjoek.driveFree (m : Fjoek) (serial lba n : Nat) : Fjoek :=
  { m with lib := { m.lib with
    media := tableKeep (fun k => !decide (mediaKey serial lba ≤ k ∧ k < mediaKey serial (lba + n))) m.lib.media
    zeroes := m.lib.zeroes.filter (· != (serial, lba, n)) } }

/-- Write Zeroes (2) or Deallocate (3) over every chunk slot of a stripe, parity included: cached copies go, dirty ones with their DIRTY
records, regions of absent members are set, and known-bad bits clear (R124, R139, R185). -/
def Fjoek.overStripe (m : Fjoek) (p side sig op : Nat) : Fjoek :=
  m.onPool p fun x m =>
    let l := x.lay side
    let u := LU l
    let m := m.each (List.range (Lw l)) fun i m =>
      let (mem, lba) := m.stripPlace x p side sig i
      let m := m.setCache (m.lib.cache.filter fun c => !(c.pool == p && c.member == mem && decide (lba ≤ c.lba ∧ c.lba < lba + u)))
      let m := m.noteAbsent p x mem lba u
      let m := if i < l.k then m.clearBad p i side sig (offsetBits 0 u) else m
      if (x.mem mem).port.isNone then m
      else
        let m := m.member p mem op lba u []
        if op = 2 then m.driveZero (x.mem mem).serial lba u else m.driveFree (x.mem mem).serial lba u
    (m.each ((m.openOf p).filter fun r => r.kind == 2 && r.layout == side && r.stripe == sig) fun r m => m.retire p r.seq).settleDirty

/-- An edge stripe that another AU shares after a reshape: only the AU's own blocks are zeroed, as a write under the stripe's lock; it is not
deallocated. R124 speaks of whole chunk slots and leaves such stripes open (assumption 97, DESIGN CHOICE). -/
def Fjoek.overEdge (m : Fjoek) (p a side sig op : Nat) (b : Blocks) : Fjoek :=
  m.onPool p fun x m =>
    if op ≠ 2 then m
    else if !m.lockFree p sig darnStrand ∨ !m.recRoom x 4 then m.auLater p a op
    else (((m.takeStripe p sig darnStrand).destageStripe p side sig darnStrand []).updateStripe p side sig darnStrand b false []).leaveStripe p sig

/-- Write Zeroes or Deallocate over an AU. What stands in a unit that is being moved waits until it is in the new layout (R192). -/
def Fjoek.overAu (m : Fjoek) (p a op : Nat) : Fjoek :=
  m.onPool p fun x m =>
    let entries := m.lostEntries.length
    let m := if (List.range x.kau).any fun o => m.inUnit x p (a * x.kau + o) then m.auLater p a op else m
    (m.each (m.auStripes x p a) fun q m =>
      if edgeShared x q.1.1 q.1.2 a then m.overEdge p a q.1.1 q.1.2 op q.2 else m.overStripe p q.1.1 q.1.2 op).listFreed entries

/-- Work on AUs that waited is taken up again; an AU that has been allocated since is not deallocated. -/
def Fjoek.runAuWait (m : Fjoek) (p : Nat) : Fjoek :=
  m.onPool p fun x m =>
    let m := m.setPool p { x with auWait := [] }
    m.each (x.auWait.filter fun w => w.2 == 2 || !tableHas x.map w.1) fun w m => m.overAu p w.1 w.2

/-- NAMESPACE_ZEROING_DONE: `zeroed` is set, and the entry and then the pool record are written (R124, R127). Work on the namespace's AUs that
waited is taken up first; while some still waits, nothing is set. -/
def execNamespaceZeroingDone (nsid : Nat) (s : State) := s.on fun m =>
  match m.nsFind nsid with
  | none => m
  | some (p, slot, r) => (m.runAuWait p).onPool p fun x m =>
    if (x.extents slot).any fun a => x.auWait.contains (a, 2) then m
    else
      let y : NsRec := { r with zeroed := true, gen := (x.gen + 1) % 2 ^ 32 }
      ((m.setPool p { x with ns := tableInsert x.ns slot y }).nsToLabels p slot).newGen p

/-! ## Assembly (R118, R137, R160, R165, R195) -/

/-- LBAs that a member must hold: label, journal, scratch, and its chunk slots (R120). -/
def memberNeed (l : Layout) (reps : Nat) : Nat := 409600 + reps * l.rowCount * Ld l * LU l

/-- A drive on a port may be a member in this configuration: in twin configuration its port must have trained as x2, to one port of a
dual-port drive (R21). -/
def Fjoek.portFit (m : Fjoek) (f : Found) : Bool := !m.isOn TOP_STRAP_twin || (f.dual && m.get (DRV_PSTAT_width f.port) == 2)

/-- The members of every pool but `p`. -/
def Fjoek.othersThan (m : Fjoek) (p : Nat) : List Member :=
  ((List.range 4).map fun q => if q = p then [] else match m.pool? q with
    | none => []
    | some x => x.members).flatten

/-- The drive belongs to no pool but `p` (R118). A failed member has no drive any more. -/
def Fjoek.unowned (m : Fjoek) (p : Nat) (f : Found) : Bool :=
  (m.othersThan p).all fun q => q.state == 2 || q.state == 3 || (q.port != some f.port && q.serial != f.serial)

/-- A found drive counts as a current member. -/
def foundOk (m : Fjoek) (p : Nat) (l : Label) (f : Found) : Bool :=
  f.gen == l.gen && f.fit && decide (f.port < 24) && m.portFit f && m.unowned p f && decide (memberNeed l.layout l.reps ≤ f.lbas)

/-- The bytes of a copy's namespace table: every slot that it does not list holds an unused entry (R126). -/
def copyTable (c : LabelCopy) : List Nat :=
  ((List.range 4096).map fun i => (c.ns.lookup i).getD (nsUnused.map BitVec.toNat)).flatten

/-- The first copy whose namespace table and map match the CRCs of the pool record (R127). -/
def goodCopy (l : Label) : Option LabelCopy :=
  l.copies.find? fun c => crc32c (copyTable c) == l.nsCrc && crc32c c.map == l.mapCrc

/-- What a copy's table and map say: the valid entries by slot, and the allocated AUs with their slots. -/
def copyRecords (c : LabelCopy) : Table NsRec :=
  c.ns.foldl (fun t e => (nsOfBytes e.2).elim t (tableInsert t e.1)) []
def copyOwners (c : LabelCopy) : Table Nat :=
  ((List.range (c.map.length / 2)).filter fun a => bitOf (hdrNat c.map (2 * a) 2) 15).map fun a => (a, hdrNat c.map (2 * a) 2 % 4096)

/-- A member's state as assembly finds it: a current one that is missing is absent, a replacement that is missing has failed. -/
def stateAt (found : Bool) (st : Nat) : Nat :=
  if found ∨ st = 1 ∨ st = 2 ∨ st = 3 then st else if st = 4 then 2 else 1

/-- The pool that a label and the found drives make, before it is known to assemble. Epochs go on from the pool's earlier members, whose
copies in the cache can then not hit (R133). -/
def Fjoek.poolOf (m : Fjoek) (p : Nat) (l : Label) (found : List Found) : Pool :=
  let was := (m.pool? p).map (·.members)
  let mem := fun (q : LabelMember × Nat) =>
    let f := found.find? fun f => f.member == q.2 && foundOk m p l f && q.1.state != 2 && q.1.state != 3
    ({ serial := q.1.serial, state := stateAt f.isSome q.1.state, lbas := q.1.lbas, port := f.map (·.port)
       epoch := (nth (was.getD []) q.2 noMember).epoch + 1, resync := f.isSome && q.1.state == 1, entry := 0 } : Member)
  { uuid := l.uuid, gen := l.gen, ms := l.ms, pi := l.pi, window := l.window.getD 30, portable := l.portable, jx0 := some l.jx0
    jx1 := some l.jx1, jtargets := [], adopted := false, layout := l.layout, reps := l.reps, kau := l.kau, next := l.next
    nextReps := match l.next with
      | some q => layoutReps q ((l.members.map (·.lbas)).foldl Nat.min (2 ^ 35))
      | none => 0
    members := m.giveEntries l.uuid (m.entriesBut p) 0 (l.members.zipIdx.map mem)
    ns := ((goodCopy l).map copyRecords).getD [], map := ((goodCopy l).map copyOwners).getD []
    reloc := l.reloc, relocAbove := l.relocAbove
    online := false, reason := 0, refused := 0, live := (0, 0), liveAbove := (0, 0), windows := []
    roundDue := false, unitWait := false, auWait := [], scratchGone := [], parity := none, copied := 0, group := 1, retq := [], groupOf := [] }

/-- A pool record that breaks a limit (R118, R122, R127), for reason 4. -/
def Fjoek.recordBad (m : Fjoek) (p : Nat) (l : Label) : Bool :=
  !layoutOk l.layout || l.next.any (fun q => !layoutOk q) || (goodCopy l).isNone ||
    l.members.length != (l.next.map (·.n)).getD l.layout.n || decide (600 < l.window.getD 30) ||
    decide (24 < (m.othersThan p).length + l.members.length)

/-- MRAM names the pool: its journal header entry carries the pool's UUID and a generation no older than the label's (R160). -/
def Fjoek.mramNames (m : Fjoek) (p : Nat) (l : Label) : Bool :=
  m.mramNat (jheadAt p) 16 == l.uuid && decide (l.gen ≤ m.mramNat (jheadAt p + 32) 8)

/-- The records of one journal extent block, if those in it pass their CRC and those that carry a gcount agree on it (R149, R160: at that byte a
RETIRE record has its map): each with its 64 bytes. -/
def blockRecs (b : List Nat) : List (JRec × List Nat) :=
  let slots := ((List.range 64).map fun i => (b.drop (64 * i)).take 64).filter fun s => nth s 0 0 != 0
  let recs := slots.filterMap fun s => (JRec.ofBytes s).map fun r => (r, s)
  let counts := (recs.filter fun r => r.1.kind != 3).map (·.1.gcount)
  if recs.length = slots.length ∧ counts.all (· == counts.headD 0) then recs else []

/-- The open set of journal extents, given as blocks with their group places: INTENT and DIRTY records from the greatest tail found on,
each with its place, less those of RETIRE maps; every dmask reads 0 (R160). -/
def extentRecs (ext : List (Nat × List Nat)) : List (Nat × JRec) :=
  let l := (ext.map fun e => (blockRecs e.2).map fun r => (e.1, r)).flatten
  let tail := (l.map (·.2.1.tail)).foldl Nat.max 0
  let retired := ((l.filter fun r => r.2.1.kind == 3).map fun r =>
    ((List.range 192).filter fun i => bitOf (hdrNat r.2.2 0x20 24) i).map (r.2.1.stripe + ·)).flatten
  (l.filter fun r => (r.2.1.kind == 1 || r.2.1.kind == 2) && decide (tail ≤ r.2.1.seq) && !retired.contains r.2.1.seq).map
    fun r => (r.1, { r.2.1 with dmask := 0 })

/-- The groups of the open records of pool `p`, as far as the extents show them (R151). -/
def Fjoek.extentGroups (m : Fjoek) (p : Nat) (ext : List (Nat × List Nat)) : Table Nat :=
  let l := (ext.map fun e => (blockRecs e.2).map fun r => (r.1.seq, e.1)).flatten
  (m.openOf p).foldl (fun t r => (l.lookup r.seq).elim t (tableInsert t r.seq)) []

/-- The group after the newest one found in the extents. -/
def nextGroup (ext : List (Nat × List Nat)) : Nat :=
  let l := (ext.map fun e => (blockRecs e.2).map fun r => (e.1, r.1.seq)).flatten
  match l with
  | [] => 1
  | q :: r => (r.foldl (fun b e => if b.2 < e.2 then e else b) q).1 + 1

/-- How far a round record that passes its CRC has come: start, completion, bucket and stripe; none for one that does not pass. -/
def roundKey (b : List Nat) : Option Nat :=
  if hdrNat b 0 1 = 0 ∨ hdrNat b 0x28 4 ≠ crc32c (b.take 0x28) then none
  else some (((hdrNat b 0x10 8 * 2 + bnat (hdrNat b 0 1 == 3)) * 256 + (255 - hdrNat b 0x30 1)) * 2 ^ 56 + hdrNat b 0x31 7)

/-- The copy with the highest key among byte lists. -/
def bestBytes (key : List Nat → Option Nat) (l : List (List Nat)) : List Nat :=
  (l.foldl (fun (b : Option (Nat × List Nat)) c => match key c, b with
    | none, _ => b
    | some k, none => some (k, c)
    | some k, some (j, d) => if j < k then some (k, c) else some (j, d)) none).elim [] (·.2)

/-- The seq of a reshape record that passes its CRC (R194). -/
def reshapeKey (b : List Nat) : Option Nat := if hdrNat b 0x38 4 = crc32c (b.take 0x38) then some (hdrNat b 0x18 8) else none

/-- The copy-back cursor that has come farthest. -/
def bestCursor (l : Label) : Nat × Nat :=
  (l.copies.map (·.cursor)).foldl (fun b c => if c.1 ≠ 0 ∧ (b.1 = 0 ∨ b.2 < c.2) then c else b) (0, 0)

/-- Regions of a member's whole data area. -/
def Pool.regionCount (x : Pool) : Nat := ceilDiv (memberNeed x.layout x.reps) 262144

/-- Where MRAM does not name the pool, its records come from the labels, each from the copy that has come farthest, and from the extents; a
local pool then needs a full parity resync (R160, R165, R179, R184, R187, R195). -/
def Fjoek.adoptPool (m : Fjoek) (p : Nat) (l : Label) (ext : List (Nat × List Nat)) : Fjoek :=
  let bytes := fun (b : List Nat) => ((b.map (BitVec.ofNat 8)) ++ bytesOf 64 0).take 64
  let m := m.each (m.openOf p) fun r m => m.mramPut (jslot r.seq) (bytesOf 8 0)
  let m := m.each (List.range 8) fun j m =>
    m.mramPut (roundAt p j) (bytes (bestBytes roundKey (l.copies.map fun c => nth c.rounds j [])))
  let m := m.mramPut (reshapeAt p) (bytes (bestBytes reshapeKey (l.copies.map (·.reshape))))
  let m := m.mramPut (cursorAt p) (bytesOf 8 (bestCursor l).1 ++ bytesOf 8 (bestCursor l).2)
  let m := m.each (m.lostEntries.filter fun i => m.mramNat (lostAt i) 2 % 4 == p) fun i m => m.mramPut (lostAt i) (bytesOf 2 0)
  let m := m.each (((goodCopy l).map (·.lostList)).getD []) fun b m =>
    match freeLost m.lostEntries (m.lostEntries.length + 1) 0 with
    | some i => m.mramPut (lostAt i) (bytesOf 2 (2 ^ 15 + p) ++ ((bytes b).take 48).drop 2)
    | none => m
  m.onPool p fun x m =>
    if !l.portable then m.setPool p { x with parity := some 0 }
    else
      let open_ := extentRecs ext
      let m := m.each open_ fun r m => m.mramPut (jslot r.2.seq) { r.2 with pool := p }.bytes
      m.setPool p { x with adopted := true, group := nextGroup ext
                           groupOf := open_.foldl (fun t r => tableInsert t r.2.seq r.1) [] }

/-- The sequence number after the greatest in the ring. -/
def Fjoek.ringSeq (m : Fjoek) : Nat :=
  ((m.mram.filter fun e => decide (e.1 < 0x4000000) && decide (8 ≤ e.1 % 64 ∧ e.1 % 64 < 16)).map fun e =>
    m.mramNat (e.1 / 64 * 64 + 8) 8).foldl Nat.max 0 + 1

/-- The live cursors of the active rounds resume at the records', with nothing done above them (R179), and copy-back at its own (R187). -/
def Fjoek.resumeRounds (m : Fjoek) (p : Nat) : Fjoek :=
  m.keepDirty p fun m =>
  let m := m.each [0, 1] fun side m => m.onPool p fun x m =>
    match m.activeRound p side with
    | none => m
    | some r =>
      let y : Pool := { x with windows := tableErase x.windows r.j }
      m.setPool p (if side = 0 then { y with live := (r.cbucket, r.csig) } else { y with liveAbove := (r.cbucket, r.csig) })
  m.onPool p fun x m =>
    m.setPool p { x with copied := if m.mramNat (cursorAt p) 1 = 0 then 0 else m.mramNat (cursorAt p + 8) 8 }

/-- Members found in mid-resync go on with the regions that MRAM holds set for them, or are whole; where MRAM holds none for them, every
region is resynced (R142; assumption 78, DESIGN CHOICE for the last). -/
def Fjoek.resumeResync (m : Fjoek) (p : Nat) : Fjoek :=
  m.onPool p fun x m => m.each x.members.zipIdx fun q m =>
    if !q.1.resync then m
    else
      let known := (m.entryOf q.1.serial x.uuid).isSome
      let m := if known then m
        else (m.absHeader p q.2 q.1.serial x.uuid x.gen 0).each (List.range x.regionCount) fun g m => m.setAbsBit p q.2 g true
      if m.absRegions p q.2 ≠ [] then m
      else m.onPool p fun x m => m.setPool p { x with members := setNth x.members q.2 { q.1 with state := 0, resync := false } }

/-- A strip lies neither on a found member nor in a spare slot with its rebuilt content (R137). -/
def Fjoek.stripGone (m : Fjoek) (x : Pool) (p side sig i : Nat) : Bool :=
  let l := x.lay side
  let home := x.mem (entryMember l (stripeRow l sig) (stripEntry l sig i))
  (decide (2 ≤ home.state ∧ home.state ≤ 4) && !m.relocated x p side sig i &&
    !(home.state == 4 && decide (m.sweepAt x p side sig < x.copied))) ||
  (x.mem (m.stripPlace x p side sig i).1).port == none

/-- Some stripe in force has more than m strips gone. -/
def Fjoek.tooShort (m : Fjoek) (x : Pool) (p : Nat) : Bool :=
  (Fjoek.sides x).any fun side => (m.sideStripes x p side).any fun sig =>
    decide ((x.lay side).m < ((List.range (Lw (x.lay side))).filter (m.stripGone x p side sig)).length)

/-- The members of pool `p` that are not here. -/
def Pool.missing (x : Pool) : List Nat := (List.range x.members.length).filter fun i => (x.mem i).port.isNone

/-- The windows of the members not found start at the moment of assembly (R137): a member that the label already has as absent keeps the
generation in its entry. -/
def Fjoek.startWindows (m : Fjoek) (p : Nat) (l : Label) : Fjoek :=
  m.onPool p fun x m => m.each (x.missing.filter fun i => (x.mem i).state == 1) fun i m =>
    let old := (nth l.members i ⟨0, 0, 0⟩).state == 1 && (m.entryOf (x.mem i).serial x.uuid).isSome
    m.absHeader p i (x.mem i).serial x.uuid (if old then m.mramNat (m.absAt p i + 48) 8 else l.gen) (1000 * x.window)

/-- Namespaces whose zeroing did not complete are zeroed again from their start (R127). -/
def Fjoek.zeroAgain (m : Fjoek) (p : Nat) : Fjoek :=
  m.onPool p fun x m => m.each (x.ns.filter fun e => !e.2.zeroed) fun e m => m.each (x.extents e.1) fun a m => m.overAu p a 2

/-- The label at the highest generation among those of one pool, whose UUID the first one gives (R137). -/
def newestLabel : List Label → Option Label
  | [] => none
  | l :: r => some ((r.filter fun q => q.uuid == l.uuid).foldl (fun b q => if b.gen < q.gen then q else b) l)

/-- Why a drive is not a member, as the pool status shows it beside the status word: its port (3), or the drive itself (5) (R120, R153). -/
def Fjoek.driveCause (m : Fjoek) (lbas : Nat) (f : Found) : Option Nat :=
  if !m.portFit f then some 3 else if !f.fit ∨ f.lbas < lbas then some 5 else none

/-- Assembly of pool `p` from a label and the drives found with its UUID. Where several reasons apply to a pool that cannot assemble, which is
recorded is the model's choice: 4, then 2, then 3, 5 and 1 (assumption 98, DESIGN CHOICE). -/
def Fjoek.assembleFrom (m : Fjoek) (p : Nat) (label : Label) (found : List Found) (extents : List (Nat × List Nat))
    (unread : List (Nat × Nat)) : Fjoek :=
  let x := m.poolOf p label found
  let need := memberNeed label.layout label.reps
  let now := found.filter fun f => f.gen == label.gen
  let m := m.setCache (m.lib.cache.filter fun c => c.pool != p)
  let off := fun (m : Fjoek) (r : Nat) => m.onPool p fun x m => (m.setPool p { x with reason := r }).poolEvent p
  if m.recordBad p label then off (m.setPool p x) 4
  else if (now.map Found.member).dedup.length ≠ now.length then off (m.setPool p x) 2
  else
    let m := m.setPool p x
    let m := if m.mramNames p label then m.onPool p fun x m =>
        m.setPool p { x with group := m.mramNat (jheadAt p + 24) 8 + 1, groupOf := m.extentGroups p extents }
      else m.adoptPool p label extents
    let m := ((m.resumeRounds p).resumeResync p).noteUnread unread
    m.onPool p fun x m =>
      if m.tooShort x p then
        off m (if now.any (fun f => !m.portFit f) then 3 else if now.any (fun f => m.driveCause need f == some 5) then 5 else 1)
      else
        let m : Fjoek := { m with lib := { m.lib with seq := Nat.max m.lib.seq m.ringSeq } }
        let m := m.startWindows p label
        let changed := x.members.zipIdx.any fun q => q.1.state != (nth label.members q.2 ⟨0, 0, 0⟩).state
        let m := if changed then m.newGen p else m
        let m := m.recover p
        let m := m.onPool p fun x m =>
          let y : Pool := { x with
            online := true
            refused := (now.findSome? (m.driveCause need)).getD 0
            scratchGone := (List.range x.members.length).filter fun i => let q := x.mem i; q.port.isNone || q.resync || decide (1 ≤ q.state ∧ q.state ≤ 4) }
          (m.setPool p y).storeHead p y false
        let m := m.each x.missing fun i m => m.startRemirror p i
        let m := m.each (x.missing.filter fun i => (x.mem i).state == 2 && (nth label.members i ⟨0, 0, 0⟩).state == 4) fun i m =>
          m.failMember p i
        let m := m.each (x.missing.filter fun i => (x.mem i).state == 1 && x.window == 0) fun i m => m.failMember p i
        (m.zeroAgain p).poolEvent p

/-- POOL_ASSEMBLY's work: the labels and drives of one pool, by its UUID, and of those the highest generation (R137). A pool that serves is
assembled already. -/
def Fjoek.poolAssembly (m : Fjoek) (p : Nat) (labels : List Label) (found : List Found) (extents : List (Nat × List Nat))
    (unread : List (Nat × Nat)) : Fjoek :=
  match newestLabel labels with
  | none => m
  | some label =>
    if ((m.pool? p).map (·.online)).getD false then m
    else m.assembleFrom p label (found.filter fun f => f.uuid == label.uuid) extents unread

/-! ## Rejoin, window end, resync (R140 to R142, R163) -/

/-- The windows of every absent member, by pool and member. -/
def Fjoek.absentees (m : Fjoek) : List (Nat × Nat) :=
  ((List.range 4).map fun p => match m.pool? p with
    | none => []
    | some x => (x.missing.filter fun i => (x.mem i).state == 1).map fun i => (p, i)).flatten

/-- A drive is being identified, since less than 30 s: windows stand still (R140). -/
def Fjoek.identifying (m : Fjoek) : Bool := m.lib.identify.any fun e => decide (m.time < e.2 + 30000000000)

/-- The time at which the identifications known stop holding windows, 30 s after the last began. -/
def Fjoek.stoppedUntil (m : Fjoek) : Nat := (m.lib.identify.map fun e => e.2 + 30000000000).foldl Nat.max 0

/-- The time left of a window, in ms, is kept in its entry's header, from now on. A window that was held runs from the end of the hold on. -/
def Fjoek.restampWindows (m : Fjoek) (running : Bool) : Fjoek :=
  m.each m.absentees fun q m =>
    let a := m.absAt q.1 q.2
    let since := Nat.max (m.mramNat (a + 56) 8) m.stoppedUntil
    let left := m.mramNat (a + 64) 8 - if running then (m.time - since) / 1000000 else 0
    m.mramPut (a + 56) (bytesOf 8 m.time ++ bytesOf 8 left)

/-- A drive has appeared on a port: it is being identified, and windows stop. -/
def Fjoek.beginIdentify (m : Fjoek) (port : Nat) : Fjoek :=
  let m := if m.identifying then m else m.restampWindows true
  { m with lib := { m.lib with identify := tableInsert m.lib.identify port m.time } }

/-- It has been identified, or has gone: windows that were stopped go on with the time they had left, those of an identification that took longer
since 30 s after it began. -/
def Fjoek.endIdentify (m : Fjoek) (port : Nat) : Fjoek :=
  let was := m.identifying
  let m := if was then m else m.restampWindows true
  let m : Fjoek := { m with lib := { m.lib with identify := tableErase m.lib.identify port } }
  if was ∧ !m.identifying then m.restampWindows false else m

/-- A drive that matches an absence entry rejoins as the same member (R140): its regions that are set are resynced. -/
def Fjoek.rejoin (m : Fjoek) (port serial uuid gen : Nat) : Fjoek :=
  m.each (List.range 4) fun p m =>
    m.onPool p fun x m =>
      match (List.range x.members.length).find? fun i =>
          (x.mem i).state == 1 && (x.mem i).port == none && (x.mem i).serial == serial && x.uuid == uuid &&
            m.mramNat (m.absAt p i) 32 == serial && m.mramNat (m.absAt p i + 32) 16 == uuid &&
            m.mramNat (m.absAt p i + 48) 8 == gen with
      | none => m
      | some i =>
        let sync := m.absRegions p i ≠ []
        let q : Member := { x.mem i with port := some port, state := if sync then 1 else 0, resync := sync }
        (((m.setPool p { x with members := setNth x.members i q }).newGen p).resolveHeld p).poolEvent p

/-- The window of an absent member ends (R141): it fails. A window that stands still does not end (R140). -/
def Fjoek.windowEnd (m : Fjoek) (p i : Nat) : Fjoek :=
  m.onPool p fun x m =>
    if (x.mem i).state ≠ 1 ∨ (x.mem i).port ≠ none ∨ m.identifying then m else m.failMember p i

/-- REJOIN_WINDOW_EXPIRY. -/
def execRejoinWindowExpiry (pool : Fin 4) (member : Fin 24) (s : State) := s.on fun m => m.windowEnd pool.val member.val

/-- The strips of a member in region `g`: side, stripe and strip, by the chunk slots that the member has there. -/
def Fjoek.regionStrips (m : Fjoek) (x : Pool) (p i g : Nat) : List (Nat × Nat × Nat) :=
  ((Fjoek.sides x).map fun side =>
    let l := x.lay side
    let first := (g * 262144 - 409600) / LU l
    let last := Nat.min ((g * 262144 + 262144 - 409600) / LU l) (x.stripes side / LQ l * (l.rowCount * Ld l))
    (((List.range (last - first)).map (first + ·)).map fun c => (m.slotHolds x p side i c).map fun q => (side, q.1, q.2)).flatten).flatten

/-- Every offset of a strip can be decoded from its stripe. -/
def Fjoek.canDecode (m : Fjoek) (x : Pool) (p side sig : Nat) : Bool :=
  (List.range (LU (x.lay side))).all fun e => decide ((x.lay side).k ≤ (m.readableAt x p side sig e).length)

/-- The sources that decoding a whole stripe reads, and the content of strip `i` at offset `e` from them. -/
def Fjoek.wholeSources (m : Fjoek) (x : Pool) (p side sig : Nat) : List (Nat × Nat) :=
  ((List.range (LU (x.lay side))).map fun e => ((m.readableAt x p side sig e).take (x.lay side).k).map fun i =>
    let (mem, lba) := m.stripPlace x p side sig i
    (mem, lba + e)).flatten
def Fjoek.decoded (m : Fjoek) (x : Pool) (p side sig i e : Nat) : Block :=
  rowStrip (x.lay side).k x.blockLen i (m.dataFrom x p side sig e (m.readableAt x p side sig e))

/-- What rewriting strips of a stripe costs. -/
def Fjoek.rebuildCosts (m : Fjoek) (x : Pool) (p side sig n : Nat) : List (Nat × Nat) :=
  runCosts 4 (m.wholeSources x p side sig) ++ List.replicate n (5, LU (x.lay side)) ++ [(6, (x.lay side).k * LU (x.lay side))]

/-- Strips of a stripe are reconstructed and written under a path 4 INTENT (R142, R153, R165). -/
def Fjoek.resyncStrips (m : Fjoek) (p side sig : Nat) (strips : List Nat) : Fjoek :=
  m.onPool p fun x m =>
    let u := LU (x.lay side)
    let m := m.darnLock p sig
    let m := m.readMembers p (m.wholeSources x p side sig)
    let m := m.intentWrite x p side sig darnStrand 4 0 u (m.stripWrites x p side sig 0 u strips (m.decoded x p side sig))
    m.leaveStripe p sig

/-- Stripes that a sweep of both sides of a reshape boundary visits, and the stripe at a place of the sweep: side and number. -/
def Fjoek.sweepLen (m : Fjoek) (x : Pool) (p : Nat) : Nat :=
  ((Fjoek.sides x).map fun side => let (lo, hi) := m.sideRange x p side; hi - lo).sum
def Fjoek.sweepStripe (m : Fjoek) (x : Pool) (p n : Nat) : Nat × Nat :=
  let (lo, hi) := m.sideRange x p 0
  if n < hi - lo then (0, lo + n) else (1, (m.sideRange x p 1).1 + (n - (hi - lo)))

/-- The stripe at place `n` of a full parity resync (R165): its data strips are read and its parity written. It waits while a data strip is lost
(assumption 80, DESIGN CHOICE). -/
def Fjoek.parityStep (m : Fjoek) (p n : Nat) : Fjoek :=
  m.onPool p fun x m =>
    let (side, sig) := m.sweepStripe x p n
    let l := x.lay side
    let lost := m.lostStrips x p side sig
    let (ok, q) := m.libDraw 3 (m.cost (m.rebuildCosts x p side sig l.m))
    if !m.lockFree p sig darnStrand then m.waitLocks p darnStrand [sig]
    else if lost.any (· < l.k) then m
    else if !m.recRoom x 1 then m.darnWait p sig
    else if !ok then m
    else
      let m := q.resyncStrips p side sig (((List.range l.m).map (l.k + ·)).filter fun i => !lost.contains i)
      let done := decide (m.sweepLen x p ≤ n + 1)
      let m := m.onPool p fun x m => m.setPool p { x with parity := if done then none else some (n + 1) }
      if done then m.poolEvent p else m

/-- RESYNC_REGION: the lowest set region of a returned member is reconstructed and written, strip by strip, and its bit cleared. In a pool
that runs a full parity resync, a member that needs none lets that go on by a stripe. -/
def execResyncRegion (pool : Fin 4) (member : Fin 24) (s : State) := s.on fun m =>
  let p := pool.val
  let i := member.val
  m.onPool p fun x m =>
    if !(x.mem i).resync then
      match x.parity with
      | some n => if x.online then m.parityStep p n else m
      | none => m
    else
      match (m.absRegions p i).head? with
      | none => m
      | some g =>
        let strips := m.regionStrips x p i g
        let sigs := (strips.map (·.2.1)).dedup
        if (x.mem i).port.isNone ∨ strips.any (fun q => !m.canDecode x p q.1 q.2.1) then m
        else if sigs.any fun q => !m.lockFree p q darnStrand then m.waitLocks p darnStrand sigs
        else if !m.recRoom x strips.length then m.each (sigs.take 1) fun g m => m.darnWait p g
        else
          let (ok, n) := m.libDraw 3 (m.cost ((strips.map fun q => m.rebuildCosts x p q.1 q.2.1 1).flatten))
          if !ok then m
          else
            let m := n.each strips fun q m => m.resyncStrips p q.1 q.2.1 [q.2.2]
            let m := m.setAbsBit p i g false
            if m.absRegions p i ≠ [] then m.settleStatus p
            else m.onPool p fun x m =>
              let q : Member := { x.mem i with state := 0, resync := false }
              ((m.setPool p { x with members := setNth x.members i q }).newGen p).poolEvent p

/-! ## Re-mirroring (R166, R167) -/

/-- Each open record's group stands on the new copies: read from the survivor where the records came from the extents, else from MRAM. A
record whose group is not known takes a new one, once that may be written (R151). -/
def Fjoek.copyGroups (m : Fjoek) (p : Nat) (targets : List Nat) : Fjoek :=
  m.each (m.openOf p) fun r m => m.onPool p fun x m =>
    match tableFind x.groupOf r.seq with
    | some g =>
      let from_ := x.copies.filter fun i => !targets.contains i
      let m := if x.adopted then m.each (from_.take 1) fun i m => m.member p i 0 (groupLba g) 1 [] else m
      m.each targets fun t m => m.member p t 1 (groupLba g) 1 (padTo 4096 r.bytes)
    | none =>
      if !x.groupFree x.group ∨ !m.jroom x.retireSpans then m.waitRoom
      else
        let m := m.setPool p { x with groupOf := tableInsert x.groupOf r.seq x.group, jtargets := [] }
        (m.commitGroup p [r.bytes]).onPool p fun x m => m.setPool p { x with jtargets := targets }

/-- REMIRROR_DONE: the open groups stand on the new copies; event 354; a round that waited starts. -/
def execRemirrorDone (pool : Fin 4) (s : State) := s.on fun m =>
  let p := pool.val
  m.onPool p fun x m =>
    if x.jtargets = [] then m
    else
      let m := m.copyGroups p x.jtargets
      m.onPool p fun x m =>
        if (m.openOf p).any fun r => !tableHas x.groupOf r.seq then m
        else
          let m := ((m.setPool p { x with jtargets := [] }).setJdeg p false).latch 354
          if x.roundDue then (m.startRound p).poolEvent p else m

/-! ## Darn (R178, R179, R182, R183, R186) -/

/-- The first stripe from `sig` on, of `n`, whose bucket in the round is `b` and that `f` takes. -/
def seekStripe (m : Fjoek) (x : Pool) (p side b : Nat) (r : Round) (f : Nat → Bool) : Nat → Nat → Option Nat
  | 0, _ => none
  | n + 1, sig =>
    if f sig ∧ m.bucketIn x p side sig r = b then some sig
    else seekStripe m x p side b r f n (sig + 1)

/-- The lowest stripe of a round that is not done: bucket by bucket downward, from the live cursor. -/
def nextStripe (m : Fjoek) (x : Pool) (p side : Nat) (r : Round) : Nat → Nat → Option (Nat × Nat)
  | 0, _ => none
  | b + 1, from_ =>
    let (lo, hi) := m.sideRange x p side
    let f := Nat.max lo from_
    match seekStripe m x p side (b + 1) r (fun g => !(x.windowOf r.j).contains g) (hi - f) f with
    | some sig => some (b + 1, sig)
    | none => nextStripe m x p side r b 0

/-- The stripe that Darn takes: the lowest not done, or with its lock held the next one within 4,096 of it, while the window holds fewer
than 64 (R179). Stripes of bucket m + 1 are taken strictly in order: the cursor that is stored with each then stands above every stripe that has
been reformed (R183). -/
def Fjoek.pickStripe (m : Fjoek) (x : Pool) (p side : Nat) (r : Round) (b low : Nat) : Option Nat :=
  let free := fun g => !(x.windowOf r.j).contains g && m.lockFree p g darnStrand
  if free low then some low
  else if 63 ≤ (x.windowOf r.j).length ∨ b = (x.lay side).m + 1 then none
  else seekStripe m x p side b r free (Nat.min 4096 ((m.sideRange x p side).2 - low)) low

/-- Move the live cursor and the window of a side's round `j`. -/
def Fjoek.setLive (m : Fjoek) (p side j : Nat) (c : Nat × Nat) (flight : List Nat) : Fjoek :=
  m.onPool p fun x m =>
    let y : Pool := { x with windows := tableSet (fun _ => []) x.windows j flight }
    m.setPool p (if side = 0 then { y with live := c } else { y with liveAbove := c })

/-- A stripe is done: the live cursor is the lowest stripe not done, and the window holds those done above it (R175, R179). -/
def Fjoek.stripeDone (m : Fjoek) (p side : Nat) (r : Round) (b sig : Nat) : Fjoek :=
  m.onPool p fun x m =>
    let c := m.cursor x p r
    let flight := sig :: if c.1 = b then x.windowOf r.j else []
    let (lo, hi) := m.sideRange x p side
    let from_ := Nat.max lo (if c.1 = b then c.2 else 0)
    let low := (seekStripe m x p side b r (fun g => !flight.contains g) (hi - from_) from_).getD hi
    m.setLive p side r.j (b, low) (flight.filter fun g => decide (low < g))

/-- Store the live cursor of a round in MRAM (R174, R179). -/
def Fjoek.storeCursor (m : Fjoek) (p : Nat) (r : Round) : Fjoek :=
  m.onPool p fun x m =>
    let c := m.cursor x p r
    m.mramPut (roundAt p r.j + 0x30) (bytesOf 1 c.1 ++ bytesOf 7 c.2)

/-- Pause a round, or let a paused one go on; a pause raises its event once. -/
def Fjoek.setPaused (m : Fjoek) (p : Nat) (r : Round) (v : Bool) (event : Nat) : Fjoek :=
  if r.paused = v then m
  else
    let m := (m.storeCursor p r)
    let q := m.roundRec p r.j
    let m := m.setRound p { q with paused := v }
    if v then (m.put (DARN_PROG_state p) 2).latch event else m.put (DARN_PROG_state p) 1

/-- The relocation target of strip `i` of a stripe: member and LBA. -/
def sparePlace (x : Pool) (side sig i : Nat) : Option (Nat × Nat) :=
  let l := x.lay side
  let row := stripeRow l sig
  (findReloc (x.rel side) (entryMember l row (stripEntry l sig i)) row (stripEntry l sig i)).map fun a =>
    (entryMember l row (relocSpare a), slotLba l (entrySlot l (stripeRep l sig) row (relocSpare a)))

/-- The strips of a stripe that the round rebuilds: lost strips of its members with an entry. -/
def pendingStrips (m : Fjoek) (x : Pool) (p side sig : Nat) (r : Round) : List Nat :=
  let l := x.lay side
  let row := stripeRow l sig
  (List.range (Lw l)).filter fun i =>
    bitOf r.fmask (entryMember l row (stripEntry l sig i)) && !m.done x p side sig i && (sparePlace x side sig i).isSome

/-- Data blocks of offset `e` of a stripe that cannot be recovered: those that cannot be read where fewer than k strips can, and lost ones
that the list already names (R182, R183). -/
def Fjoek.goneAt (m : Fjoek) (x : Pool) (p side sig e : Nat) : List Nat :=
  let l := x.lay side
  let here := m.readableAt x p side sig e
  (List.range l.k).filter fun i => !here.contains i && (decide (here.length < l.k) || m.knownBad p i side sig e)

/-- The cursor of a round that MRAM holds is 1,024 stripes or a bucket behind the live one (R179). -/
def Fjoek.cursorStale (m : Fjoek) (p : Nat) (r : Round) : Bool :=
  match m.pool? p with
  | none => false
  | some x =>
    let q := m.roundRec p r.j
    let c := m.cursor x p r
    c.1 != q.cbucket || decide (q.csig + 1024 ≤ c.2)

/-- Reform offset `e` of a stripe (R183): the blocks named are known-bad and written as zeros, and every parity block is rewritten from the
data, under a path 3 INTENT; every strip that awaits rebuild is written to its spare slot, and a survivor's block that cannot be read is rewritten
in place, and counted where its content is known (R178, R182). -/
def Fjoek.reform (m : Fjoek) (p side sig k e : Nat) (todo bad : List Nat) : Fjoek :=
  m.onPool p fun x m =>
    let l := x.lay side
    let n := x.blockLen
    let m := m.each bad fun i m => m.markBad p i side sig (2 ^ e)
    let zero : Block := List.replicate n 0
    let read := (List.range l.k).filter fun i => !bad.contains i
    let here := m.readableAt x p side sig e
    let row := if read.all here.contains then (List.range l.k).map fun i => if bad.contains i then zero else m.stripBlock x p side sig e i
      else (m.dataFrom x p side sig e here).zipIdx.map fun q => if bad.contains q.2 then zero else q.1
    let mend := (List.range (Lw l)).filter fun i => !todo.contains i && !m.stripLost x p side sig i && !here.contains i && !bad.contains i
    let ws : List StripWrite := (List.range (Lw l)).filterMap fun i =>
      let b := rowStrip l.k n i row
      if todo.contains i then (sparePlace x side sig i).map fun a => (i, a.1, a.2 + e, b)
      else if m.stripLost x p side sig i ∨ !(bad.contains i || mend.contains i || decide (l.k ≤ i)) then none
      else let (mem, lba) := m.stripPlace x p side sig i; some (i, mem, lba + e, b)
    let m := m.readMembers p (read.map fun i => let (mem, lba) := m.stripPlace x p side sig i; (mem, lba + e))
    let m := m.each ws fun w m => m.noteAbsent p x w.2.1 w.2.2.1 1
    let m := (m.intentWrite x p side sig k 3 e 1 (ws.filter fun w => (x.mem w.2.1).port.isSome)).latch 355
    { m with lib := { m.lib with repaired := m.lib.repaired + if l.k ≤ here.length then mend.length else 0 } }

/-- Rebuilt strips are written to their spare slots at the offsets given, with FUA and no INTENT (R178); of a spare slot on an absent member the
regions are set (R139). -/
def Fjoek.writeSpares (m : Fjoek) (p side sig : Nat) (todo offs : List Nat) : Fjoek :=
  m.onPool p fun x m =>
    let ws := (todo.map fun i => match sparePlace x side sig i with
      | none => []
      | some a => offs.map fun e => (a.1, a.2 + e, m.decoded x p side sig i e)).flatten
    let m := m.each (todo.filterMap (sparePlace x side sig)) fun a m => m.noteAbsent p x a.1 a.2 (LU (x.lay side))
    (m.dropCopies p (ws.map fun w => (w.1, w.2.1))).writeMembers p x ws

/-- Blocks that their drives could not read are rewritten in place under a path 3 INTENT, and counted as repaired (R182). -/
def Fjoek.repair (m : Fjoek) (p side sig k : Nat) (l : List (Nat × Nat)) : Fjoek :=
  m.each l fun q m => m.onPool p fun x m =>
    let m := m.intentWrite x p side sig k 3 q.2 1 (m.stripWrites x p side sig q.2 1 [q.1] (m.decoded x p side sig))
    { m with lib := { m.lib with repaired := m.lib.repaired + 1 } }

/-- The rounds of no side sweep for member `i` any more. -/
def Fjoek.sweptAll (m : Fjoek) (x : Pool) (p i : Nat) : Bool :=
  (Fjoek.sides x).all fun side => match m.activeRound p side with
    | none => true
    | some r => !bitOf r.fmask i

/-- A round has swept every stripe of its side: its record is complete, and members whose strips all have spares are RELOCATED (R172). -/
def Fjoek.endRound (m : Fjoek) (p : Nat) (r : Round) : Fjoek :=
  m.keepDirty p fun m =>
    let m := m.storeCursor p r
    let q := m.roundRec p r.j
    let m := m.setRound p { q with kind := 3 }
    m.onPool p fun x m =>
      let ms := x.members.zipIdx.map fun y =>
        if y.1.state = 2 ∧ bitOf r.amask y.2 ∧ m.sweptAll x p y.2 then { y.1 with state := 3 } else y.1
      let m := (m.setPool p { x with members := ms }).put (DARN_PROG_state p) 0
      ((m.put (DARN_PROG_permille p) 1000).newGen p).poolEvent p

/-- One step of a round on a side (R178). `failed` is a member whose write fails. -/
def Fjoek.rebuildSide (m : Fjoek) (p side : Nat) (r : Round) (failed : Option Nat) : Fjoek :=
  m.onPool p fun x m =>
    let l := x.lay side
    let c := m.cursor x p r
    match nextStripe m x p side r c.1 c.2 with
    | none => m.endRound p r
    | some (b, low) =>
      match m.pickStripe x p side r b low with
      | none => m.waitLocks p darnStrand [low]
      | some sig =>
        let offs := List.range (LU l)
        let todo := pendingStrips m x p side sig r
        let here := (List.range (Lw l)).filter fun i => !m.stripLost x p side sig i
        let hurt := (offs.map fun e => (e, m.goneAt x p side sig e)).filter fun q =>
          q.2 != [] || decide ((m.readableAt x p side sig q.1).length < l.k)
        let full := !m.lostRoom p side sig (hurt.map (·.2)).flatten
        let (ok, n) := m.libDraw 3 (m.cost (m.rebuildCosts x p side sig todo.length))
        let spares := todo.filterMap (sparePlace x side sig)
        let bytes := LU l * x.blockLen * todo.length
        if failed.any (fun i => i < x.members.length) then
          m.memberLost p (failed.getD 0) ((spares.filter fun a => a.1 == failed.getD 0).map fun a => (a.2, LU l))
        else if b ≤ l.m ∧ here.length < l.k then m.setPaused p r true 357
        else if full then m.setPaused p r true 360
        else if !m.recRoom x (hurt.length + (offs.map fun e => Lw l - (m.readableAt x p side sig e).length).sum) then m.darnWait p sig
        else if !ok ∨ !m.canPass libStrand 3 bytes then m
        else
          let good := offs.filter fun e => !hurt.any fun q => q.1 == e
          let m := n.darnLock p sig
          let m := m.readMembers p (m.wholeSources x p side sig)
          let m := m.passCells libStrand 3 ((todo.map fun i => (good.map (m.decoded x p side sig i)).flatten).flatten)
          let m := m.repair p side sig darnStrand ((good.map fun e =>
            (here.filter fun i => m.notRead x p side sig e i).map fun i => (i, e)).flatten)
          let m := m.writeSpares p side sig todo good
          let m := m.each hurt fun q m => m.reform p side sig darnStrand q.1 todo q.2
          let m := m.keepDirty p fun m => (m.setPaused p r false 357).stripeDone p side r b sig
          let m := if b = l.m + 1 ∨ m.cursorStale p r then m.storeCursor p r else m
          let (lo, hi) := m.sideRange x p side
          let m := m.put (DARN_PROG_permille p) (1000 * (sig - lo) / Nat.max 1 (hi - lo)) |>.put (DARN_PROG_state p) 1
          m.leaveStripe p sig

/-- REBUILD_STEP: the active round's next stripe; `unreadable` are blocks of it, as member and LBA, that their drives report they cannot
read. Regions of a returned member are resynced first (R180), and while a journal copy is re-mirrored no round sweeps (R166, R173). -/
def execRebuildStep (pool : Fin 4) (unreadable : List (Nat × Nat)) (failed : Option Nat) (s : State) := s.on fun m =>
  let p := pool.val
  m.onPool p fun x m =>
    if x.members.any (·.resync) ∨ x.jtargets ≠ [] then m
    else
      let m := m.noteUnread (unreadable.map fun q => ((x.mem q.1).serial, q.2))
      match m.activeRound p 0, m.activeRound p 1 with
      | some r, _ => (m.rebuildSide p 0 r failed).settleStatus p
      | none, some r => (m.rebuildSide p 1 r failed).settleStatus p
      | none, none => m

/-- CURSOR_CHECKPOINT: the live cursor to MRAM, and the record to every label where the second is due. -/
def execCursorCheckpoint (pool : Fin 4) (toLabels : Bool) (s : State) := s.on fun m =>
  let p := pool.val
  m.each [0, 1] fun side m =>
    match m.activeRound p side with
    | none => m
    | some r => (m.storeCursor p r).when toLabels fun m => m.writeRecord p

/-! ## Copy-back (R187) -/

/-- The strips of a stripe whose home is member `i`. -/
def homeStrips (x : Pool) (side sig i : Nat) : List Nat :=
  let l := x.lay side
  (List.range (Lw l)).filter fun j => entryMember l (stripeRow l sig) (stripEntry l sig j) == i

/-- A block of a strip as copy-back writes it: from its spare slot, decoded, or zeros where it is known-bad; none where it cannot be had
yet. -/
def Fjoek.backBlock (m : Fjoek) (x : Pool) (p side sig j e : Nat) : Option Block :=
  if !m.notRead x p side sig e j then some (m.stripBlock x p side sig e j)
  else if (x.lay side).k ≤ (m.readableAt x p side sig e).length then some (m.decoded x p side sig j e)
  else if m.knownBad p j side sig e then some (List.replicate x.blockLen 0)
  else none

/-- The strips of one stripe of a batch go to the replacement's own chunk slots, under a path 4 INTENT (R153, R187; which path number they carry
is assumption 81, DEDUCED). -/
def Fjoek.backStrips (m : Fjoek) (p i side sig : Nat) : Fjoek :=
  m.onPool p fun x m =>
    let l := x.lay side
    let ws : List StripWrite := ((homeStrips x side sig i).map fun j =>
      let lba := slotLba l (entrySlot l (stripeRep l sig) (stripeRow l sig) (stripEntry l sig j))
      (List.range (LU l)).filterMap fun e => (m.backBlock x p side sig j e).map fun b => (j, i, lba + e, b)).flatten
    let reads := ((homeStrips x side sig i).map fun j => ((List.range (LU l)).map fun e =>
      if m.notRead x p side sig e j then ((m.readableAt x p side sig e).take l.k).map fun s => (s, e) else [(j, e)]).flatten).flatten
    let m := m.readMembers p (reads.map fun q => let (mem, lba) := m.stripPlace x p side sig q.1; (mem, lba + q.2))
    m.intentWrite x p side sig darnStrand 4 0 (LU l) ws

/-- COPY_BACK_BATCH: up to 64 stripes of the replacing member, whose locks strands of Darn's engine hold, 16 each (R147). It waits for the
locks, for C3 tokens, and for blocks that cannot be had yet. -/
def execCopyBackBatch (pool : Fin 4) (stripes : Nat) (s : State) := s.on fun m =>
  let p := pool.val
  m.onPool p fun x m =>
    match (List.range x.members.length).find? fun i => (x.mem i).state == 4 && (x.mem i).port.isSome with
    | none => m
    | some i =>
      let all := m.sweepLen x p
      let n := Nat.min (Nat.min (Nat.max 1 stripes) 64) (all - x.copied)
      let sigs := (List.range n).map fun j => m.sweepStripe x p (x.copied + j)
      let order := (lockOrder p ((sigs.map (·.2)).dedup)).zipIdx
      let had := sigs.all fun g => (homeStrips x g.1 g.2 i).all fun j => (List.range (LU (x.lay g.1))).all fun e =>
        (m.backBlock x p g.1 g.2 j e).isSome
      let (ok, q) := m.libDraw 3 (m.cost ((sigs.map fun g =>
        m.rebuildCosts x p g.1 g.2 (homeStrips x g.1 g.2 i).length).flatten))
      if order.any fun g => !m.lockFree p g.1 (darnStrand + g.2 / 16) then m.waitLocks p darnStrand (order.map (·.1))
      else if !had then m
      else if !m.recRoom x n then m.each (order.take 1) fun g m => m.darnWait p g.1
      else if !ok then m
      else
        let m := q.each order fun g m => (m.lockStripe p g.1 (darnStrand + g.2 / 16)).unhold p g.1 darnStrand
        let m := m.each sigs fun g m => m.backStrips p i g.1 g.2
        let next := x.copied + n
        let m := m.mramPut (cursorAt p) (bytesOf 8 (256 * i + 1) ++ bytesOf 8 next)
        let m := m.keepDirty p fun m => m.onPool p fun x m => m.setPool p { x with copied := next }
        let m := m.writeRecord p
        let m := m.each order fun g m => m.leaveStripe p g.1
        let m := (m.put (DARN_PROG_state p) 3).put (DARN_PROG_permille p) (1000 * next / Nat.max 1 all)
        if next < all then m.settleStatus p
        else m.keepDirty p fun m => m.onPool p fun x m =>
          let y : Pool := { x with
            copied := 0
            reloc := x.reloc.filter fun e => bitsOf e 33 29 != i
            relocAbove := x.relocAbove.filter fun e => bitsOf e 33 29 != i
            members := setNth x.members i { x.mem i with state := 0 } }
          let m := (m.setPool p y).mramPut (cursorAt p) (bytesOf 16 0)
          let m := m.each (Fjoek.sides y) fun side m => m.relocToLabels p side
          ((m.put (DARN_PROG_state p) 0).newGen p).poolEvent p

/-! ## Reshape (R189 to R196) -/

/-- The first condition of R188: every member OPTIMAL or JOINING, and no round, resync or copy-back. -/
def Fjoek.reshapeFit (m : Fjoek) (x : Pool) (p : Nat) : Bool :=
  (x.members.all fun q => (q.state == 0 || q.state == 5) && !q.resync && q.port.isSome) && x.parity.isNone &&
    (m.activeRound p 0).isNone && (m.activeRound p 1).isNone

/-- A field of the reshape record. -/
def Fjoek.reshapeField (m : Fjoek) (p o n : Nat) : Nat := m.mramNat (reshapeAt p + o) n

/-- The record with its other fields kept. -/
def Fjoek.reshapeTo (m : Fjoek) (p phase b : Nat) : Fjoek :=
  m.storeReshape p phase (m.reshapeE p) b (m.reshapeField p 0x10 8) (m.reshapeField p 0x20 4) (m.reshapeField p 0x24 4)

/-- After the last unit the pool has its new layout, and every JOINING member is OPTIMAL (R192). -/
def Fjoek.reshapeDone (m : Fjoek) (p : Nat) : Fjoek :=
  m.onPool p fun x m =>
    let y : Pool := { x with
      layout := x.lay 0, reps := x.nextReps, next := none, nextReps := 0, relocAbove := []
      members := x.members.map fun q => if q.state = 5 then { q with state := 0 } else q }
    ((((m.setPool p y).tableToLabels p).put (DARN_PROG_state p) 0).newGen p).poolEvent p

/-- The unit's pool blocks at place `e` of scratch stripe `z`, one a data strip; past the unit's end, zeros. -/
def unitRow (n b e z row ks : Nat) (at_ : Nat → Block) : List Block :=
  (List.range ks).map fun i =>
    let v := 16 * ks * z + 16 * i + row
    if v < e then at_ (b + v) else List.replicate n 0

/-- The old stripes of the unit being moved. -/
def Fjoek.unitOld (m : Fjoek) (x : Pool) (p : Nat) : List Nat :=
  (List.range (m.reshapeE p / LK (x.lay 1))).map (m.reshapeB p / LK (x.lay 1) + ·)

/-- Steps 1 to 3 of R192, once no stripe of the unit is locked: dirty blocks of its stripes are written, and the unit goes to scratch, coded
(R191); phase WRITE is stored. Scratch strips of members that are not here are not written, and their regions are set (R139, R196). The scratch
writes carry no INTENT, as they are of no stripe (assumption 81, DEDUCED). -/
def Fjoek.unitToScratch (m : Fjoek) (p : Nat) : Fjoek :=
  m.onPool p fun x m =>
    let old := x.lay 1
    let b := m.reshapeB p
    let e := m.reshapeE p
    let sigs := m.unitOld x p
    let m := m.each (sigs.filter fun g => m.dirtyBlocks x p 1 g != []) fun g m =>
      ((m.takeStripe p g darnStrand).destageStripe p 1 g darnStrand []).leaveStripe p g
    m.onPool p fun x m =>
      if sigs.any fun g => m.dirtyBlocks x p 1 g != [] then m else
      let gone := (List.range (x.lay 0).n).filter fun i => (x.mem i).port.isNone
      let n := x.blockLen
      let places := (sigs.map fun g => ((List.range (LU old)).map fun o => ((List.range old.k).map fun i =>
        m.readPlaces x p (.strip 1 g i o)).flatten).flatten).flatten
      let at_ := fun c => m.content x p (.strip 1 (c / LK old) (c % LK old / LU old) (c % LK old % LU old))
      let ws := ((List.range (ceilDiv e (16 * old.k))).map fun z => ((List.range (scratchWidth x)).map fun i =>
        (List.range 16).map fun row =>
          (scratchMem x z i, scratchLba z + row, rowStrip old.k n i (unitRow n b e z row old.k at_))).flatten).flatten
      let m := m.each gone fun i m => m.noteAbsent p x i (scratchLba 0) (16 * ceilDiv e (16 * old.k))
      let m := (m.readMembers p places).writeMembers p x ws
      (m.onPool p fun x m => m.setPool p { x with scratchGone := gone }).reshapeTo p 2 b

/-- Steps 4 and 5: the unit is written in the new layout from scratch, each stripe under its lock and a path 0 INTENT (R153), and the boundary
advances; the last unit ends the reshape. A reshape that lost a member goes to PAUSED after its unit, and a round that is due starts (R173, R196);
Write Zeroes that waited for the unit follow in the new layout. -/
def Fjoek.unitToNew (m : Fjoek) (p : Nat) : Fjoek :=
  m.onPool p fun x m =>
    let new := x.lay 0
    let n := x.blockLen
    let b := m.reshapeB p
    let e := m.reshapeE p
    let a := m.reshapeField p 0x10 8
    let sigs := (List.range (e / LK new)).map (b / LK new + ·)
    let at_ := fun c => m.content x p (scratchAt x b c)
    let places := ((List.range e).map fun v => m.readPlaces x p (scratchAt x b (b + v))).flatten
    let ws := fun g : Nat => (((List.range (Lw new)).filter fun i => !m.stripLost x p 0 g i).map fun i =>
      let (mem, lba) := m.stripPlace x p 0 g i
      (List.range (LU new)).map fun o => ((i, mem, lba + o, rowStrip new.k n i ((List.range new.k).map fun d =>
        at_ (g * LK new + d * LU new + o))) : StripWrite)).flatten
    let m := m.readMembers p places
    let m := m.each sigs fun g m => ((m.darnLock p g).intentWrite x p 0 g darnStrand 0 0 (LU new) (ws g)).leaveStripe p g
    let m := m.onPool p fun x m => m.setPool p { x with unitWait := false, scratchGone := [] }
    let b' := b + e
    let m := m.put (DARN_PROG_permille p) (1000 * (b' / Nat.max 1 e) / Nat.max 1 a) |>.put (DARN_PROG_state p) 4
    let m :=
      if a * e ≤ b' then (m.reshapeTo p 0 b').reshapeDone p
      else if m.reshapeFit x p then m.reshapeTo p 1 b'
      else (((m.reshapeTo p 3 b').put (DARN_PROG_state p) 5).latch 359).poolEvent p
    (if x.roundDue then (m.startRound p).poolEvent p else m).runAuWait p

/-- The class of a unit's move: C1 while a host write waits on the unit, else C5 (R192). -/
def Pool.moveClass (x : Pool) : Nat := if x.unitWait then 1 else 5

/-- What half of a unit's move costs: reading `k` and writing `w` strips for each `k` of data. -/
def Fjoek.moveCost (m : Fjoek) (e k w : Nat) : Nat := m.cost [(4, e), (5, e * w / Nat.max 1 k), (6, e)]

/-- RESHAPE_UNIT_MOVE: with `half` the unit stops in phase WRITE; otherwise it is moved whole, from the phase found. A paused
reshape resumes when its members allow. Each half draws its tokens first. -/
def execReshapeUnitMove (pool : Fin 4) (half : Bool) (s : State) := s.on fun m =>
  let p := pool.val
  let m := m.onPool p fun x m =>
    if x.next.isSome ∧ m.reshapePhase p = 3 ∧ m.reshapeFit x p then
      ((m.reshapeTo p 1 (m.reshapeB p)).put (DARN_PROG_state p) 4).poolEvent p
    else m
  m.onPool p fun x m =>
    if x.next = none then m
    else
      let old := x.lay 1
      let new := x.lay 0
      let m :=
        if m.reshapePhase p ≠ 1 then m
        else if (m.unitOld x p).any fun g => !m.lockFree p g darnStrand then m.waitLocks p darnStrand (m.unitOld x p)
        else if !m.recRoom x (2 * ((m.unitOld x p).filter fun g => m.dirtyBlocks x p 1 g != []).length) then m.waitRoom
        else
          let (ok, n) := m.libDraw x.moveClass (m.moveCost (m.reshapeE p) old.k (scratchWidth x))
          if ok then n.unitToScratch p else m
      let sigs := (List.range (m.reshapeE p / LK new)).map (m.reshapeB p / LK new + ·)
      if m.reshapePhase p ≠ 2 ∨ half then m
      else if sigs.any fun g => !m.lockFree p g darnStrand then m.waitLocks p darnStrand sigs
      else if !m.recRoom x sigs.length then m.waitRoom
      else
        let (ok, n) := m.libDraw x.moveClass (m.moveCost (m.reshapeE p) new.k (Lw new))
        if ok then (n.unitToNew p).settleStatus p else m

/-! ## C3 on a port (R180, R197) -/

/-- Ports with C3 commands waiting. -/
def Fjoek.waitPorts (m : Fjoek) : Nat :=
  ((List.range 24).map fun p => bnat ((m.driveDescs p).any fun d => d.cls == 3 && decide (d.sent < d.len)) * 2 ^ p).sum

/-- C3_STARVED: a C3 command has waited over 100 ms on the port. -/
def execC3Starved (p : Fin 24) (s : State) := s.on fun m =>
  if bitOf m.waitPorts p.val then m.cause DARN_STAT_starved 358 else m

/-! ## The supervisor (R12, R148) -/

/-- One lock that a reset strand left held: open records of the strand that name its stripe are resolved, and the lock is released. -/
def Fjoek.superviseLock (m : Fjoek) (k x : Nat) : Fjoek :=
  let key := (m.lockWord x 0).toNat % 2 ^ 47
  let p := key / 2 ^ 40
  let mine := m.openRecs.filter fun r => r.owner == k && r.pool == p && r.stripe == key % 2 ^ 40
  let ints := mine.filter fun r => r.kind == 1
  let m := m.each ints fun r m => m.resolve r
  let m := m.each (mine.filter fun r => r.kind == 2) fun r m => m.resolveDirty ints r
  if (m.openOf p).any (fun r => r.kind == 1 && r.stripe == key % 2 ^ 40) then m else m.lockStore x 0 0

/-- The supervisor resets a faulted strand: the lead logs it, and a trailing twin takes it from the log (R64). -/
def Fjoek.superviseReset (m : Fjoek) (e t : Nat) : Fjoek :=
  if m.trailing then m
  else (m.logCmd (SEAM_STRCTL e t) (withBits (m.reg (SEAM_STRCTL e t)) 0 0 1)).strandResetWrite (8 * e + t)

/-- SUPERVISOR_STRAND_RECOVERY of a strand that has faulted, and is reset first, or that a reset has left with locks (R47, R53, R65): what it
lists as held and still holds is resolved or released. The commands that it owned are named by `cmds`; each completes with Command Abort
Requested (0x07). -/
def execSupervisorStrandRecovery (e : Fin 64) (t : Fin 8) (cmds : List Nat) (s : State) := s.on fun m =>
  let k := 8 * e.val + t.val
  let mine := m.locksOf k
  let held := (((List.range 16).map fun j => m.lockListed k j % 65536).dedup).filter mine.contains
  let faulted := (m.strand k).mode = .fault
  if !faulted ∧ held = [] then m
  else
    let m := if faulted then m.superviseReset e.val t.val else m
    let m := m.each held fun x m => m.superviseLock k x
    m.each cmds fun c m => m.respond c 0x07

end Sys2Proof.Machine
end

