-- ==== Sys2Proof/Machine/DriveCmds.lean ====
section
/-! DEFINITION. The commands of the drive ports (R200 to R216). -/

namespace Sys2Proof.Machine

/-- Member LBA ranges of the writes outstanding on port `p` (R139). -/
def Fjoek.portWrites (m : Fjoek) (p : Nat) : List (Nat × Nat) :=
  let lba := tableGet (fun _ => 4096) m.drv.lba p
  (m.port p).slots.filterMap fun s =>
    match s.use with
    | .data id off n => (m.findDesc id).bind fun d => if d.dsp = 4 then some (d.w 1 + off / lba, Nat.max 1 (n / lba)) else none
    | _ => none

/-- Service ends on port `p` (R211), and a member that stood on it is absent from the first detection. -/
def Fjoek.portEnd (m : Fjoek) (p sc : Nat) : Fjoek :=
  if m.drvUp p then
    let w := m.portWrites p
    ((m.endService p sc).portLost p w).settlePortDiff
  else m.settlePerst p

/-- A write of DRV_PCTL.disable (R203, R211). -/
def Fjoek.disableWrite (m : Fjoek) (p : Nat) (v : Bool) : Fjoek :=
  if v then ((m.put (DRV_PCTL_disable p) 1).portEnd p 0xC2).settlePerst p else m.releasePort p

/-- PORT_DISABLE. -/
def execPortDisable (p : Fin 24) (s : State) := s.on fun m => m.disableWrite p.val true
/-- PORT_RELEASE. -/
def execPortRelease (p : Fin 24) (s : State) := s.on fun m => m.disableWrite p.val false

/-- PERST_DEASSERT: 100 ms after power-good, presence and release (R202, R203). -/
def execPerstDeassert (p : Fin 24) (s : State) := s.on fun m =>
  let p := p.val
  if m.isOn (DRV_PCTL_auto p) ∧ !m.isOn (DRV_PCTL_disable p) ∧ m.isOn (DRV_PSTAT_present p) ∧ m.isOn (BAY_STAT_pg p) then
    m.setPort p { m.port p with perst := true }
  else m

/-- DRIVE_LINK_UP: the link trains at `width` lanes and rate code `speed` (R200). A link that was downed does not train before the port is
released (R211). -/
def execDriveLinkUp (p : Fin 24) (width speed : Nat) (s : State) := s.on fun m =>
  let p := p.val
  if m.drvUp p ∨ m.isOn (DRV_PCTL_disable p) ∨ (m.port p).linkOff ∨ !(m.port p).perst ∨ !m.runs 7 && p < 12 ∨ !m.runs 8 && 12 ≤ p then m
  else
    let need := if m.isOn TOP_STRAP_twin then 2 else 4
    let w := Nat.min width need
    let sp := Nat.min 3 (Nat.max speed (Nat.min 2 (m.get (DRV_PCTL_maxspd p))))
    let slow := w < need ∨ sp = 3
    let m := (m.put (DRV_PSTAT_width p) w).put (DRV_PSTAT_speed p) sp
    let m := (m.put (DRV_PSTAT_flit p) (bnat (sp == 0))).put (DRV_PSTAT_slow p) (bnat slow)
    let m := (m.put (DRV_PSTAT_up p) 1).latch (384 + 2 * p)
    let m := m.when slow fun m => m.drvCause p DRV_ESTAT_slow
    (m.when m.leads fun m => m.logTwin 0x0B 0x83 [0, p, 0]).settlePortDiff

/-- DRIVE_ENUMERATION: BAR0, doorbell stride, command size and queues are set, the library disables APST (R200) and in twin configuration
registers its key, and the lead alone acquires the reservation (R214; that a trailing twin registers too, although it submits nothing
else by R215, is DEDUCED, assumption 104), and a drive that matches an absence entry rejoins (R204, R140); a held power state
is issued once queues exist (R213). -/
def execDriveEnumeration (p : Fin 24) (info : DriveInfo) (s : State) := s.on fun m =>
  let p := p.val
  if !m.drvUp p then m
  else
    let m := m.setReg64 (DRV_BAR_LO p) (info.bar % 2 ^ 64)
    let m := (m.put (DRV_DBCFG_dstrd p) info.dstrd).put (DRV_MDTS_units p) info.mdts
    let c := tableSet (fun _ => 0) (tableSet (fun _ => 0) m.drv.cfg (1024 * p + 4) (info.bar % 2 ^ 32)) (1024 * p + 5)
      (info.bar / 2 ^ 32 % 2 ^ 32)
    let m : Fjoek := { m with drv := { m.drv with
      lba := tableSet (fun _ => 4096) m.drv.lba p info.lbaBytes, cfg := c
      limits := tableSet (fun _ => (0, 0, 0)) m.drv.limits p (info.warn, info.crit, info.top) } }
    let m := (m.output (.driveCfg p 4 (some (info.bar % 2 ^ 32)))).output (.driveCfg p 5 (some (info.bar / 2 ^ 32 % 2 ^ 32)))
    let m := m.setPort p { m.port p with queues := true }
    let m := (m.issuePower p).bells p m
    let m := m.when (!m.trailing) fun m => m.output (.apstOff p)
    let key := fun acquire => OutMsg.reservation p (m.reg (DRV_FNSID p)) (m.reg64 DRV_RKEY_LO) acquire
    let m := m.when (m.isOn TOP_STRAP_twin) fun m => if m.trailing then m.send (key false) else m.output (key false)
    let m := m.when (m.isOn TOP_STRAP_twin && m.isOn TWIN_STAT_role && !m.trailing) fun m => m.output (key true)
    let m := if m.isOn TOP_STRAP_twin ∧ m.get (DRV_PSTAT_width p) ≠ 2 then m else m.rejoin p info.serial info.uuid info.gen
    m.endIdentify p

/-- DRIVE_PRESENCE_CHANGE: the filtered level of PRSNT_N, and CLKREQ_N's (R201, R211). A drive that appears is being identified (R140). -/
def execDrivePresenceChange (p : Fin 24) (pins : DrivePins) (s : State) := s.on fun m =>
  let was := m.isOn (DRV_PSTAT_present p.val)
  let m := (m.put (DRV_PSTAT_present p.val) (bnat pins.present)).put (DRV_PSTAT_clkreq p.val) (bnat pins.clkreq)
  if !pins.present then (m.endIdentify p.val).portEnd p.val 0xC0
  else if was then m else m.beginIdentify p.val

/-- DRIVE_LINK_DOWN: the link leaves L0. -/
def execDriveLinkDown (p : Fin 24) (s : State) := s.on fun m => if m.drvUp p.val then m.portEnd p.val 0xC1 else m

/-- One poll read of a bay's composite temperature: a third failure in a row clears `valid` (R204). -/
def Fjoek.tempRead (m : Fjoek) (p : Nat) (r : Option (BitVec 8)) : Fjoek :=
  if !m.isOn (BAY_STAT_pg p) then m
  else
    let x := m.port p
    match r with
    | some t => ((m.setPort p { x with tempFails := 0 }).put (DRV_TEMP_temp p) t.toNat).put (DRV_TEMP_valid p) 1
    | none =>
      let n := x.tempFails + 1
      (m.setPort p { x with tempFails := n }).when (decide (3 ≤ n)) fun m => m.put (DRV_TEMP_valid p) 0

/-- DRIVE_TEMP_POLL: SMBus master `h` polls its twelve bays. -/
def execDriveTempPoll (h : Fin 2) (reads : List (Option (BitVec 8))) (s : State) := s.on fun m =>
  m.each ((reads.take 12).zipIdx) fun q m => m.tempRead (12 * h.val + q.2) q.1

/-- DRIVE_INBOUND_REQUEST (R206, R212). -/
def execDriveInboundRequest (p : Fin 24) (write : Bool) (addr len : Nat) (data : List Byte) (poisoned : Bool) (s : State) :=
  s.on fun m => m.inbound p.val write addr len data poisoned

/-- MSI_RECEIVER_WRITE: any data to the receiver of queue `y` (R206). -/
def execMsiReceiverWrite (p : Fin 24) (y : Nat) (s : State) := s.on fun m =>
  m.inbound p.val true (0x6000000000 + 4 * y) 4 (bytesOf 4 0) false

/-- COMPLETION_POLL_TIMER (R207). -/
def execCompletionPollTimer (p : Fin 24) (s : State) := s.on fun m =>
  if m.get (DRV_POLL_us p.val) = 0 then m else m.each (List.range 65) fun y m => m.scan p.val y

/-- A write of DRV_RCMD (R208): ignored while busy. A trailing twin's command completes from the log (R215). -/
def Fjoek.rawWrite (m : Fjoek) (p : Nat) (q : Bool) : Fjoek :=
  if m.isOn (DRV_RCMD_busy p) then m
  else
    let m := m.put (DRV_RCMD_busy p) 1
    let e := (List.range 16).map fun i => m.reg (DRV_RSQ p i)
    if !m.drvUp p then m.rawEnd p [0, 0, 0, portStatus (if m.isOn (DRV_PCTL_disable p) then 0xC2 else 0xC1) * 2 ^ 17]
    else if m.refusing p then m.rawEnd p [0, 0, 0, portStatus 0xC4 * 2 ^ 17]
    else
      m.placeCommand p (if q then 64 else 0) e .raw

def execRawCommand (p : Fin 24) (q : Bool) (s : State) := s.on fun m => m.rawWrite p.val q

/-- What the library does about the oldest command on a port, which has timed out (R210): it sends an Abort (PRESUMED: NVMe's opcode 0x08,
with queue and command identifier in its tenth dword; assumption 85) through the raw channel, and resets the port when a second passes with
no completion. -/
def Fjoek.abortOldest (m : Fjoek) (p : Nat) : Fjoek :=
  let x := m.port p
  match x.aborted, x.slots.head? with
  | some (_, t), _ => if t + 1000000000 ≤ m.time then (m.disableWrite p true).disableWrite p false else m
  | none, none => m
  | none, some s =>
    let m := m.setPort p { x with aborted := some (s.slot, m.time) }
    let e := [8, 0, 0, 0, 0, 0, 0, 0, 0, 0, s.queue + 65536 * s.slot, 0, 0, 0, 0, 0]
    if m.isOn (DRV_RCMD_busy p) then m else (m.each e.zipIdx fun q m => m.setReg (DRV_RSQ p q.2) q.1).rawWrite p false

/-- DRIVE_COMMAND_TIMEOUT: a command outstanding longer than DRV_TMO; on a trailing twin the library's writes are suppressed (R210). -/
def execDriveCommandTimeout (p : Fin 24) (s : State) := s.on fun m =>
  if m.get (DRV_TMO_ms p.val) = 0 ∨ (m.port p.val).slots = [] then m
  else (m.drvCause p.val DRV_ESTAT_tmo).when (!m.trailing) fun m => m.abortOldest p.val

/-- A write of DRV_PSCTL.ps (R213). -/
def Fjoek.psWrite (m : Fjoek) (p ps : Nat) : Fjoek :=
  let m := m.put (DRV_PSCTL_ps p) ps
  let m := m.setPort p { m.port p with psHeld := some ps }
  (m.issuePower p).bells p m

def execPowerStateRequest (p : Fin 24) (ps : Fin 32) (s : State) := s.on fun m => m.psWrite p.val ps.val

/-- FENCE_GO (R214). -/
def execFenceGo (s : State) := s.on Fjoek.fenceGo
/-- FENCE_CLEAR. -/
def execFenceClear (s : State) := s.on Fjoek.fenceClear
/-- FENCE_TIMEOUT: no completion within DRV_FENCE.tmo; a later one is unmatched. -/
def execFenceTimeout (p : Fin 24) (s : State) := s.on fun m => if (m.port p.val).fencing then (m.dropFence p.val).fenceEnd p.val false else m

/-- AER_MESSAGE: 0 correctable, 1 non-fatal, 2 fatal; a fatal error ends service as link down (R212). -/
def execAerMessage (p : Fin 24) (severity : Fin 3) (s : State) := s.on fun m =>
  let p := p.val
  let m := m.bump (match severity.val with
    | 0 => DRV_AERCNT_cor p
    | 1 => DRV_AERCNT_nf p
    | _ => DRV_AERCNT_fatal p) 1
  let m := m.drvCause p DRV_ESTAT_aer
  if severity.val = 2 ∧ m.drvUp p then m.portEnd p 0xC1 else m

/-- DRV_CONFIG_ACCESS: a configuration access to the dword of DRV_CFGADDR. `answer` is what the drive returns to a read; with
the link down the spec states no answer, and the value is free. -/
def Fjoek.cfgAccess (m : Fjoek) (p : Nat) (write : Option Word32) (answer : Word32) : Fjoek :=
  let r := m.get (DRV_CFGADDR_reg p)
  match write with
  | some v =>
    if !m.drvUp p then m
    else
      let m : Fjoek := { m with drv := { m.drv with cfg := tableSet (fun _ => 0) m.drv.cfg (1024 * p + r) v.toNat } }
      (m.setReg (DRV_CFGDATA p) v.toNat).output (.driveCfg p r (some v.toNat))
  | none =>
    if m.drvUp p then
      let m : Fjoek := { m with drv := { m.drv with cfg := tableSet (fun _ => 0) m.drv.cfg (1024 * p + r) answer.toNat } }
      (m.setReg (DRV_CFGDATA p) answer.toNat).output (.driveCfg p r none)
    else
      let (v, m) := m.free64
      m.setReg (DRV_CFGDATA p) (v.toNat % 2 ^ 32)

def execDrvConfigAccess (p : Fin 24) (write : Option Word32) (answer : Word32) (s : State) := s.on fun m =>
  m.cfgAccess p.val write answer

end Sys2Proof.Machine
end

