-- ==== Sys2Proof/Machine/Fwd.lean ====
section
/-! DEFINITION. Forwarding tables (R251 to R271): entries and their locations, the lookup, updates, aging and Rinse. -/

namespace Sys2Proof.Machine

/-! ## Headers of a frame

A MAC address in a register has its first byte on the wire at its top (assumption 17). -/

abbrev Bytes := List Nat

def frameBe (b : Bytes) (o n : Nat) : Nat := ((b.drop o).take n).foldl (fun v x => v * 256 + x) 0

def tagged (b : Bytes) : Bool := frameBe b 12 2 == 0x8100
def l3At (b : Bytes) : Nat := if tagged b then 18 else 14
def etherType (b : Bytes) : Nat := frameBe b (l3At b - 2) 2
def isIp4 (b : Bytes) : Bool := etherType b == 0x0800
def isIp6 (b : Bytes) : Bool := etherType b == 0x86DD
/-- The DS field or traffic class: DSCP in bits 7 to 2, ECN in bits 1 and 0. -/
def trafficByte (b : Bytes) : Nat := if isIp4 b then frameBe b (l3At b + 1) 1 else if isIp6 b then bitsOf (frameBe b (l3At b) 2) 11 4 else 0
def timeToLive (b : Bytes) : Nat := frameBe b (l3At b + if isIp4 b then 8 else 7) 1
def ipProto (b : Bytes) : Nat := frameBe b (l3At b + if isIp4 b then 9 else 6) 1
def l4At (b : Bytes) : Nat := l3At b + if isIp4 b then 4 * (frameBe b (l3At b) 1 % 16) else 40
/-- UDP destination port 4791 (RoCEv2). -/
def isRoce (b : Bytes) : Bool := (isIp4 b || isIp6 b) && ipProto b == 17 && frameBe b (l4At b + 2) 2 == 4791
/-- The destination QPN of the base transport header. -/
def bthQpn (b : Bytes) : Nat := frameBe b (l4At b + 13) 3
/-- ECN 0b01 or 0b10 (R240). -/
def isEct (b : Bytes) : Bool := (isIp4 b || isIp6 b) && (trafficByte b % 4 == 1 || trafficByte b % 4 == 2)

/-! ## Stores (R251 to R254) -/

def emptyEntry (_ : Nat) : FwdEntry := { kind := 0, flags := 0, ts := 0, key := List.replicate 20 0, result := List.replicate 16 0 }

def Fjoek.fwdAt (m : Fjoek) (l : Nat) : FwdEntry := tableGet emptyEntry m.fwd.ents l

/-- The 48 bytes of an entry; `masked` takes hit, stale and ts as 0 (R267). -/
def FwdEntry.bytes (e : FwdEntry) (masked : Bool) : Bytes :=
  let fl := if masked then e.flags - (e.flags &&& 6) else e.flags
  let ts := if masked then 0 else e.ts
  [e.kind, fl, ts % 256, ts / 256, 0, 0, 0, 0] ++ e.key ++ e.result ++ [0, 0, 0, 0]

def FwdEntry.ofBytes (b : Bytes) : FwdEntry :=
  { kind := nth b 0 0, flags := nth b 1 0, ts := nth b 2 0 + 256 * nth b 3 0, key := (b.drop 8).take 20
    result := (b.drop 28).take 16 }

/-- Prefix bits beyond the length are 0. -/
def prefixOk (p : Bytes) (len : Nat) : Bool := frameBe p 0 p.length % 2 ^ (8 * p.length - len) == 0

def portByteOk (v : Nat) : Bool := decide (v ≤ 39) || v == 0xFE

/-- Bytes that an entry keeps 0: header byte 4 to 7, the tail, flags [7:5]. -/
def entryReserved (b : Bytes) : Bool := ((b.drop 4).take 4 ++ (b.drop 44).take 4).all (· == 0) && decide (nth b 1 0 < 32)

/-- The key and result keep their layouts (R253, R254). -/
def FwdEntry.valid (e : FwdEntry) : Bool :=
  let k := fun i => nth e.key i 0
  let r := fun i => nth e.result i 0
  let kz := fun n => (e.key.drop n).all (· == 0)
  let rz := fun n => (e.result.drop n).all (· == 0)
  match e.kind with
  | 1 => decide (k 1 < 16) && kz 8 && portByteOk (r 0) && rz 2
  | 2 => decide (k 0 < 8) && k 1 == 0 && k 2 == 0 && k 3 == 0 && kz 8 && portByteOk (r 0) && rz 10
  | 3 => decide (k 0 < 8) && k 1 == 0 && k 2 == 0 && k 3 == 0 && portByteOk (r 0) && rz 10
  | 4 => kz 3 && decide (r 0 < 16) && rz 2
  | 6 => decide (k 0 < 8 ∧ k 1 ≤ 32) && k 2 == 0 && k 3 == 0 && prefixOk ((e.key.drop 4).take 4) (k 1) && kz 8 &&
      portByteOk (r 0) && rz 10
  | 7 => decide (k 0 < 8 ∧ k 1 ≤ 128) && k 2 == 0 && k 3 == 0 && prefixOk ((e.key.drop 4).take 16) (k 1) && portByteOk (r 0) && rz 10
  | _ => false

def ovBase : Nat := 262144
def dfBase : Nat := 266240

/-- The bucket of a key (R255). -/
def Fjoek.bucket (m : Fjoek) (kind : Nat) (key : Bytes) : Nat := crc32cRun (m.reg FWD_HSEED) (kind :: key) % 65536

/-- The location of a key, among entries that are readable: its bucket first, then the overflow store (R256). -/
def Fjoek.fwdFind (m : Fjoek) (kind : Nat) (key : Bytes) : Option Nat :=
  let b := 4 * m.bucket kind key
  (m.fwd.ents.find? fun e => ((decide (b ≤ e.1 ∧ e.1 < b + 4)) || decide (ovBase ≤ e.1 ∧ e.1 < dfBase)) && e.2.kind == kind &&
    e.2.key == key && !tableGet (fun _ => false) m.fwd.ue e.1).map (·.1)

/-- Uncorrectable words that a search of a key meets. -/
def Fjoek.fwdUe (m : Fjoek) (kind : Nat) (key : Bytes) : Nat :=
  let b := 4 * m.bucket kind key
  (m.fwd.ue.filter fun e => e.2 && (decide (b ≤ e.1 ∧ e.1 < b + 4) || decide (ovBase ≤ e.1 ∧ e.1 < dfBase))).length

def Fjoek.tick (m : Fjoek) : Nat := m.get FWD_TICKCFG_tick

/-- A commit replaces an entry whole, with hit 1, stale 0 and the current tick (R252), and its version becomes the bucket's (R262). -/
def Fjoek.commit (m : Fjoek) (l : Nat) (e : FwdEntry) : Fjoek :=
  let e := if e.kind = 0 then { emptyEntry 0 with flags := 2, ts := m.tick }
    else { e with flags := (e.flags - (e.flags &&& 6)) + 2, ts := m.tick }
  let v := (m.reg FWD_VERSION + 1) % 2 ^ 32
  let f : Fwd := { m.fwd with
    ents := tableSet emptyEntry m.fwd.ents l e
    vers := tableSet (fun _ => 0) m.fwd.vers (l / 4) v
    ue := tableSet (fun _ => false) m.fwd.ue l false }
  Fjoek.setReg { m with fwd := f } FWD_VERSION v

/-! ## Updates (R259 to R261) -/

def Fjoek.updBytes (m : Fjoek) (i : Nat) : Bytes :=
  (((List.range 12).map fun j => bytesOf 4 (m.reg (FWD_UPD_DATA i j))).flatten).map BitVec.toNat

def Fjoek.updDone (m : Fjoek) (i code loc : Nat) : Fjoek :=
  (m.put (FWD_UPD_STAT_code i) code).put (FWD_UPD_STAT_loc i) loc

/-- The lowest free way of a key's bucket, else the lowest free overflow index (R260). -/
def freeOver (t : Table FwdEntry) : Nat → Nat → Option Nat
  | 0, _ => none
  | n + 1, i =>
    if (tableGet emptyEntry t (ovBase + i)).kind ≠ 0 then freeOver t n (i + 1) else if i < 4096 then some (ovBase + i) else none

def Fjoek.freeLoc (m : Fjoek) (e : FwdEntry) : Option Nat :=
  let b := 4 * m.bucket e.kind e.key
  match [b, b + 1, b + 2, b + 3].find? fun l => (m.fwdAt l).kind == 0 with
  | some l => some l
  | none => freeOver m.fwd.ents (m.fwd.ents.length + 1) 0

/-- A command of interface `i` on a key: the entry is checked, then `f` acts with its location, if it has one. -/
def Fjoek.updKey (m : Fjoek) (i : Nat) (f : FwdEntry → Option Nat → Fjoek → Fjoek) : Fjoek :=
  let b := m.updBytes i
  let e := FwdEntry.ofBytes b
  if !entryReserved b ∨ !e.valid ∨ 6 ≤ e.kind then m.updDone i 4 0 else f e (m.fwdFind e.kind e.key) m

def Fjoek.updInsert (m : Fjoek) (i : Nat) : Fjoek :=
  m.updKey i fun e at_ m =>
    match at_ with
    | some l => m.updDone i 2 l
    | none =>
      match m.freeLoc e with
      | some l => (m.commit l e).updDone i 0 l
      | none => ((m.count FWD_INSFAIL_LO 1).cause FWD_STAT_insfail 194).updDone i 1 0

def Fjoek.updReplace (m : Fjoek) (i : Nat) : Fjoek :=
  m.updKey i fun e at_ m =>
    match at_ with
    | some l => (m.commit l e).updDone i 0 l
    | none => m.updDone i 3 0

def Fjoek.updDelete (m : Fjoek) (i : Nat) : Fjoek :=
  m.updKey i fun _ at_ m =>
    match at_ with
    | some l => (m.commit l (emptyEntry 0)).updDone i 0 l
    | none => m.updDone i 3 0

def Fjoek.updFind (m : Fjoek) (i : Nat) : Fjoek :=
  m.updKey i fun _ at_ m =>
    match at_ with
    | some l => m.updDone i 0 l
    | none => m.updDone i 3 0

def Fjoek.updRead (m : Fjoek) (i : Nat) : Fjoek :=
  let l := m.get (FWD_UPD_LOC_loc i)
  if 266367 < l then m.updDone i 5 l
  else
    let b := (m.fwdAt l).bytes false
    let m := m.each (List.range 12) fun j m => m.setReg (FWD_UPD_DATA i j) (hdrNat b (4 * j) 4)
    m.updDone i 0 l

def Fjoek.updWrite (m : Fjoek) (i : Nat) : Fjoek :=
  let l := m.get (FWD_UPD_LOC_loc i)
  let b := m.updBytes i
  let e := FwdEntry.ofBytes b
  if 266367 < l then m.updDone i 5 l
  else if e.kind = 0 then (m.commit l (emptyEntry 0)).updDone i 0 l
  else if !entryReserved b ∨ !e.valid then m.updDone i 4 l
  else if (6 ≤ e.kind ∧ l < dfBase) ∨ (e.kind < 6 ∧ dfBase ≤ l) ∨ (l < ovBase ∧ l / 4 ≠ m.bucket e.kind e.key) then m.updDone i 5 l
  else if dfBase ≤ l ∧ nth e.key 0 0 ≠ (l - dfBase) / 16 then m.updDone i 4 l
  else (m.commit l e).updDone i 0 l

/-- What operation `op` does (R260). -/
def Fjoek.updRun (m : Fjoek) (i op : Nat) : Fjoek :=
  match op with
  | 1 => m.updInsert i
  | 2 => m.updReplace i
  | 3 => m.updDelete i
  | 4 => m.updFind i
  | 5 => m.updRead i
  | 6 => m.updWrite i
  | _ => m

/-- A write of FWD_UPD_CMD: operations 0 and 7 to 15 are ignored (R271), and so is a command written while one is in progress (R259). -/
def Fjoek.updCommand (m : Fjoek) (i op : Nat) : Fjoek :=
  if op = 0 ∨ 6 < op ∨ m.isOn (FWD_UPD_CMD_busy i) then m
  else Fjoek.put { m with fwd := { m.fwd with pending := tableSet (fun _ => 0) m.fwd.pending i op } } (FWD_UPD_CMD_busy i) 1

/-- Operation `op` of interface `i` completes: the one in progress, or, on an idle interface, one written and completed at once. Another than
the one in progress was written while busy, and is ignored (assumption 45, DESIGN CHOICE). -/
def Fjoek.updComplete (m : Fjoek) (i op : Nat) : Fjoek :=
  if m.isOn (FWD_UPD_CMD_busy i) ∧ tableGet (fun _ => 0) m.fwd.pending i ≠ op then m
  else
    let m : Fjoek := { m with fwd := { m.fwd with pending := tableSet (fun _ => 0) m.fwd.pending i 0 } }
    (m.put (FWD_UPD_CMD_busy i) 0).updRun i op

def execFwdInsert (i : Fin 2) (s : State) := s.on fun m => m.updComplete i.val 1
def execFwdReplace (i : Fin 2) (s : State) := s.on fun m => m.updComplete i.val 2
def execFwdDelete (i : Fin 2) (s : State) := s.on fun m => m.updComplete i.val 3
def execFwdFind (i : Fin 2) (s : State) := s.on fun m => m.updComplete i.val 4
def execFwdRead (i : Fin 2) (s : State) := s.on fun m => m.updComplete i.val 5
def execFwdWrite (i : Fin 2) (s : State) := s.on fun m => m.updComplete i.val 6

/-! ## VLAN entries (R271) -/

def Fjoek.vlan (m : Fjoek) (v : Nat) : Nat := tableGet (fun _ => 0) m.fwd.vlans v

/-- Where the marks of uncorrectable VLAN entries stand: behind the last location. -/
def vlBase : Nat := 266368

/-- A write of FWD_VL_IDX loads the entry. -/
def Fjoek.vlanLoad (m : Fjoek) (v : Nat) : Fjoek :=
  let e := m.vlan (v % 4096)
  ((m.put FWD_VL_IDX_vid v).setReg FWD_VL_LO (e % 2 ^ 32)).setReg FWD_VL_HI (e / 2 ^ 32)

/-- A write of FWD_VL_HI commits the entry whole. -/
def Fjoek.vlanCommit (m : Fjoek) (hi : Nat) : Fjoek :=
  let hi := hi &&& 0x800007FF
  let m := m.setReg FWD_VL_HI hi
  let v := m.reg FWD_VL_LO + hi * 2 ^ 32
  let i := m.get FWD_VL_IDX_vid
  { m with fwd := { m.fwd with vlans := tableSet (fun _ => 0) m.fwd.vlans i v
                               ue := tableSet (fun _ => false) m.fwd.ue (vlBase + i) false } }

def execVlanEntryLoad (vid : BitVec 12) (s : State) := s.on fun m => m.vlanLoad vid.toNat
def execVlanEntryCommit (hi : Word32) (s : State) := s.on fun m => m.vlanCommit hi.toNat

def vlanMember (e p : Nat) : Bool := bitOf e p && decide (p < 40)
def vlanValid (e : Nat) : Bool := bitOf e 63
def vlanVrf (e : Nat) : Nat := bitsOf e 42 40

/-! ## The lookup (R256 to R258, R269) -/

/-- What a lookup gives a frame. -/
structure FwdRes where
  ports : List Nat
  mcast : Bool
  cls : Option Nat
  route : Option Route
  cluster : Option Nat
  mnic : Bool
  deriving DecidableEq, Repr

def noPorts : FwdRes := { ports := [], mcast := false, cls := none, route := none, cluster := none, mnic := false }

/-- The lookup uses the entry at a location: hit, and in timestamp mode ts, are set. A trailing twin sets no hit bit (R270). -/
def Fjoek.useEntry (m : Fjoek) (l : Nat) : Fjoek :=
  if m.trailing then m
  else
    let e := m.fwdAt l
    let k := if e.kind = 1 then 0 else if e.kind = 4 then 2 else 1
    let e := { e with flags := e.flags ||| 2, ts := if m.get (FWD_AGE_mode k) = 2 then m.tick else e.ts }
    { m with fwd := { m.fwd with ents := tableSet emptyEntry m.fwd.ents l e } }

/-- A search that meets uncorrectable words counts them, and takes their entries as absent (R269). -/
def Fjoek.countUe (m : Fjoek) (u : Nat) : Fjoek := m.when (decide (0 < u)) fun m => (m.count FWD_UE_LO u).cause FWD_STAT_ue 194

/-- Search a key and use what is found. -/
def Fjoek.seek (m : Fjoek) (kind : Nat) (key : Bytes) : Option FwdEntry × Fjoek :=
  let m := m.countUe (m.fwdUe kind key)
  match m.fwdFind kind key with
  | some l => (some (m.fwdAt l), m.useEntry l)
  | none => (none, m)

/-- Uncorrectable default entries of a VRF. -/
def Fjoek.defaultUe (m : Fjoek) (vrf : Nat) : Nat :=
  (m.fwd.ue.filter fun e => e.2 && decide (dfBase + 16 * vrf ≤ e.1 ∧ e.1 < dfBase + 16 * vrf + 16)).length

/-- The default of R257: the longest matching prefix, the lowest index among equals. -/
def Fjoek.defaultFor (m : Fjoek) (vrf kind : Nat) (addr : Bytes) : Option FwdEntry :=
  let base := dfBase + 16 * vrf
  let n := 8 * addr.length
  let fits := fun (e : FwdEntry) => e.kind == kind &&
    frameBe addr 0 addr.length / 2 ^ (n - nth e.key 1 0) == frameBe ((e.key.drop 4).take addr.length) 0 addr.length / 2 ^ (n - nth e.key 1 0)
  ((m.fwd.ents.filter fun e => decide (base ≤ e.1 ∧ e.1 < base + 16) && fits e.2 && !tableGet (fun _ => false) m.fwd.ue e.1)).foldl
    (fun b e => match b with
      | none => some e.2
      | some q => if nth q.key 1 0 < nth e.2.key 1 0 then some e.2 else b) none

def clsOf (e : FwdEntry) : Option Nat := if bitOf (nth e.result 1 0) 7 then some (nth e.result 1 0 % 8) else none

/-- A flood within a VLAN: every member but the ingress port. -/
def Fjoek.flood (m : Fjoek) (v port : Nat) (r : FwdRes) : FwdRes × Fjoek :=
  let e := if tableGet (fun _ => false) m.fwd.ue (vlBase + v) then 0 else m.vlan v
  ({ r with ports := (List.range 40).filter fun p => vlanMember e p && p != port, mcast := true }, m.count FWD_FLOOD_LO 1)

/-- Steps 5 to 9 of R256, in their order, for the result of an entry. A result that names port 39 again is the switch core's to drop
(R244). -/
def Fjoek.lookupPort (m : Fjoek) (port v : Nat) (b : Bytes) (e : FwdEntry) (routed : Bool) : FwdRes × Fjoek :=
  let q := nth e.result 0 0
  let r : FwdRes := { noPorts with
    cls := clsOf e, mnic := bitOf e.flags 4
    route := if routed then some ⟨((e.result.drop 4).take 6).map (BitVec.ofNat 8), nth e.result 2 0 + 256 * nth e.result 3 0⟩ else none }
  let drop := fun (m : Fjoek) => (noPorts, m.count FWD_ENTDROP_LO 1)
  let gone := bitOf e.flags 3
  if q = 0xFE then if gone then drop m else m.flood v port r
  else
    let ttl := routed && decide (q < 32 ∧ timeToLive b ≤ 1)
    let m := m.when ttl fun m => m.count FWD_TTLX_LO 1
    let q := if ttl then 37 else q
    let r := if ttl then { r with route := none } else r
    if (q = 32 ∨ q = 33) ∧ isRoce b then
      let n := bthQpn b
      let key := [n % 256, n / 256 % 256, n / 65536] ++ List.replicate 17 0
      let (s, m) := m.seek 4 key
      match s with
      | none =>
        let c := n % 16
        let m := m.count FWD_QPDEF_LO 1
        if gone then drop m else ({ r with ports := [if c < 8 then 32 else 33], cluster := some c, route := none }, m)
      | some t =>
        if gone ∨ bitOf t.flags 3 then drop m
        else
          let c := nth t.result 0 0
          ({ r with ports := [if c < 8 then 32 else 33], cluster := some c, route := none
                    cls := match clsOf t with
                      | some x => some x
                      | none => r.cls
                    mnic := r.mnic || bitOf t.flags 4 }, m)
    else
      let q := if q = 32 ∨ q = 33 then 37 else q
      if gone ∨ (q = port ∧ q ≠ 39) then drop m else ({ r with ports := [q] }, m)

/-- The VLAN entry that a lookup meets: one with an uncorrectable word counts and is taken as absent (R269). -/
def Fjoek.vlanSeek (m : Fjoek) (v : Nat) : Nat × Fjoek :=
  if tableGet (fun _ => false) m.fwd.ue (vlBase + v) then (0, m.countUe 1) else (m.vlan v, m)

/-- The lookup of a stored frame from an ingress port (R256). A disabled block looks nothing up and floods every frame in its VLAN
(R271). -/
def Fjoek.lookup (m : Fjoek) (port : Nat) (b : Bytes) : FwdRes × Fjoek :=
  let v := if tagged b then frameBe b 14 2 % 4096 else m.get (FWD_PVID_vid port)
  if !m.isOn FWD_CTL_en then m.flood v port noPorts
  else
  let (e, m) := (m.count FWD_LOOKUPS_LO 1).vlanSeek v
  if port < 32 ∧ (!vlanValid e ∨ !vlanMember e port) then (noPorts, m.count FWD_VLDROP_LO 1)
  else if frameBe b 0 6 = m.reg FWD_RMAC_LO + 2 ^ 32 * m.reg FWD_RMAC_HI ∧ (isIp4 b ∨ isIp6 b) then
    let vrf := vlanVrf e
    let addr := if isIp4 b then (b.drop (l3At b + 16)).take 4 else (b.drop (l3At b + 24)).take 16
    let key := ([vrf, 0, 0, 0] ++ addr ++ List.replicate 16 0).take 20
    let (h, m) := m.seek (if isIp4 b then 2 else 3) key
    match h with
    | some t => m.lookupPort port v b t true
    | none =>
      let m := m.countUe (m.defaultUe vrf)
      match m.defaultFor vrf (if isIp4 b then 6 else 7) addr with
      | some t => (m.count FWD_DEFHIT_LO 1).lookupPort port v b t true
      | none => (m.count FWD_RTMISS_LO 1).flood v port noPorts
  else if bitOf (nth b 0 0) 0 then m.flood v port noPorts
  else
    let (h, m) := m.seek 1 ([v % 256, v / 256] ++ b.take 6 ++ List.replicate 12 0)
    match h with
    | some t => m.lookupPort port v b t false
    | none => (m.count FWD_L2MISS_LO 1).flood v port noPorts

/-! ## Aging (R264, R265) -/

/-- AGING_TICK. -/
def execAgingTick (s : State) := s.on fun m =>
  if m.trailing then m else (m.logTwin 0x06 0x85 [7, 0]).put FWD_TICKCFG_tick (m.tick + 1)

/-- An entry that is due leaves, if the aging log has room. -/
def Fjoek.ageOut (m : Fjoek) (l : Nat) : Fjoek :=
  if 256 ≤ m.fwd.agelog.length then m.count FWD_AGEDEF_LO 1
  else
    let first := m.fwd.agelog.isEmpty
    let k := (m.fwdAt l).kind
    let m := (m.commit l (emptyEntry 0)).count FWD_AGED_LO 1
    let m : Fjoek := { m with fwd := { m.fwd with agelog := m.fwd.agelog ++ [(l, k)] } }
    m.when first fun m => m.cause FWD_STAT_agelog 196

/-- Aging at a visit of the entry at location `l`. On a trailing twin no lookup sets a hit bit, and aging acts by timestamps alone
(R270). -/
def Fjoek.ageEntry (m : Fjoek) (l : Nat) : Fjoek :=
  let e := m.fwdAt l
  let set := fun (fl : Nat) => { m with fwd := { m.fwd with ents := tableSet emptyEntry m.fwd.ents l { e with flags := fl } } }
  if e.kind = 0 ∨ 6 ≤ e.kind ∨ bitOf e.flags 0 then m
  else
    let k := if e.kind = 1 then 0 else if e.kind = 4 then 2 else 1
    match m.get (FWD_AGE_mode k) with
    | 1 =>
      if m.trailing then m
      else if bitOf e.flags 1 then set (e.flags - (e.flags &&& 6))
      else if !bitOf e.flags 2 then set (e.flags ||| 4)
      else m.ageOut l
    | 2 => if Nat.max 1 (m.get (FWD_AGE_limit k)) ≤ (m.tick + 65536 - e.ts) % 65536 then m.ageOut l else m
    | _ => m

/-- A read of FWD_AGELOG pops one removal. -/
def Fjoek.popAging (m : Fjoek) : Nat × Fjoek :=
  match m.fwd.agelog with
  | [] => (0, m)
  | (l, k) :: r => (2 ^ 31 + k * 2 ^ 21 + l, { m with fwd := { m.fwd with agelog := r } })

def execAgingLogPop (s : State) := s.on fun m =>
  let (v, m) := m.popAging
  m.send (.read FWD_AGELOG v)

/-! ## Rinse (R266 to R269) -/

/-- The comparison of bucket `b` with the shadow, and its repair. -/
def Fjoek.compareBucket (m : Fjoek) (b : Nat) : Fjoek :=
  let ls := [4 * b, 4 * b + 1, 4 * b + 2, 4 * b + 3]
  let ver := tableGet (fun _ => 0) m.fwd.vers b
  if 2 ^ 31 ≤ (m.reg FWD_SHVER + 2 ^ 32 - ver) % 2 ^ 32 then m.count FWD_RDEFER_LO 1
  else
    let live := (ls.map fun l => (m.fwdAt l).bytes true).flatten
    let base := m.get FWD_SHBASE_base * 2 ^ 20 + 256 * b
    let ue := ls.any fun l => tableGet (fun _ => false) m.fwd.ue l
    if crc32c live = m.hbmNat (base + 0xC0) 4 ∧ !ue then m
    else
      let m := (m.count FWD_CRCERR_LO 1).put FWD_RBAD_bucket b
      let m := m.cause FWD_STAT_crcerr 195
      if !m.isOn FWD_RINSE_repair then m
      else
        let sh := ls.zipIdx.map fun q => (q.1, (m.hbmBytes (base + 48 * q.2) 48).map BitVec.toNat)
        let empty := fun (b : Bytes) => nth b 0 0 == 0 && (b.drop 8).all (· == 0)
        let bad := fun (q : Nat × Bytes) => !entryReserved q.2 || !(empty q.2) && (!(FwdEntry.ofBytes q.2).valid ||
          (decide (6 ≤ nth q.2 0 0 ∧ dfBase ≤ q.1) && nth q.2 8 0 != (q.1 - dfBase) / 16))
        let m := m.when (sh.any bad) fun m => m.cause FWD_STAT_badshadow 194
        let v := m.reg FWD_VERSION
        let m := m.each sh fun q m => m.commit q.1 (if bad q then emptyEntry 0 else FwdEntry.ofBytes q.2)
        let v := (v + 1) % 2 ^ 32
        let m : Fjoek := { m with fwd := { m.fwd with vers := tableSet (fun _ => 0) m.fwd.vers b v } }
        (m.setReg FWD_VERSION v).count FWD_REPAIR_LO 1

/-- RINSE_VISIT: the next bucket is aged and compared. It waits for a C4 token before each 4,096 visits. -/
def execRinseVisit (s : State) := s.on fun m =>
  if !m.isOn FWD_RINSE_en then m
  else
    let (ok, m) := if m.fwd.paid = 0 then m.tryTake 4 1 else (true, m)
    if !ok then m
    else
      let b := m.fwd.bucket
      let paid := if m.fwd.paid = 0 then 4095 else m.fwd.paid - 1
      let m : Fjoek := { m with fwd := { m.fwd with paid := paid, bucket := if b = 66591 then 0 else b + 1 } }
      let m := m.each [4 * b, 4 * b + 1, 4 * b + 2, 4 * b + 3] fun l m => m.ageEntry l
      m.compareBucket b

end Sys2Proof.Machine
end

