-- ==== Sys2Proof/Machine/Switch.lean ====
section
/-! DEFINITION. The switch core (R231 to R249): storing, admission, queues, egress order, multicast, mirror, loopback, hold,
pressure and the boundary. Depths, S, U and the other figures of R236 are computed from the stored frames and the queues. -/

namespace Sys2Proof.Machine

/-! ## Queues and figures -/

/-- Count a dropped copy in its counter, and as a module event (R489). -/
def Fjoek.dropped (m : Fjoek) (a n : Nat) : Fjoek := (m.count a n).happen 0x101 n

def Fjoek.queueOf (m : Fjoek) (p c : Nat) : List Copy := tableGet (fun _ => []) m.swc.queues (8 * p + c)

def Fjoek.setQueueOf (m : Fjoek) (p c : Nat) (l : List Copy) : Fjoek :=
  { m with swc := { m.swc with queues := tableSet (fun _ => []) m.swc.queues (8 * p + c) l } }

def Fjoek.frame (m : Fjoek) (id : Nat) : Option Frame := m.swc.frames.find? fun f => f.id == id

def Fjoek.setFrame (m : Fjoek) (f : Frame) : Fjoek :=
  { m with swc := { m.swc with frames := m.swc.frames.map fun g => if g.id = f.id then f else g } }

/-- Cells of the copies of a queue whose frames satisfy `f`. -/
def Fjoek.cellsOf (m : Fjoek) (p c : Nat) (f : Frame → Bool) : Nat :=
  ((m.queueOf p c).map fun q => match m.frame q.frame with
    | some g => if f g then g.cells else 0
    | none => 0).sum

/-- D(q): depth in cells. -/
def Fjoek.qdepth (m : Fjoek) (p c : Nat) : Nat := m.cellsOf p c fun _ => true

def Fjoek.gmin (m : Fjoek) (p c : Nat) : Nat := m.get (SWC_QCFG_min p c)

/-- Shared use s(q): unicast cells above the guaranteed minimum, and every multicast cell (R242). -/
def Fjoek.sharedOf (m : Fjoek) (p c : Nat) : Nat := m.cellsOf p c (fun g => !g.mcast) - m.gmin p c + m.cellsOf p c (·.mcast)

def allQueues : List (Nat × Nat) := ((List.range 40).map fun p => (List.range 8).map fun c => (p, c)).flatten

/-- A copy of frame `id` stands in a queue. -/
def Fjoek.queued (m : Fjoek) (id : Nat) : Bool := m.swc.queues.any fun e => e.2.any fun q => q.frame == id

/-- U: shared cells in use. A multicast frame's cells count once, from its first admitted copy on; cells from headroom do not count. -/
def Fjoek.usedShared (m : Fjoek) : Nat :=
  (m.swc.queues.map fun e => m.cellsOf (e.1 / 8) (e.1 % 8) (fun g => !g.mcast && !g.headroom) - m.gmin (e.1 / 8) (e.1 % 8)).sum +
    ((m.swc.frames.filter fun g => g.mcast && !g.headroom && m.queued g.id).map (·.cells)).sum

/-- Class `c` is lossless on slot `p` (R238). -/
def Fjoek.lossless (m : Fjoek) (p c : Nat) : Bool :=
  decide (p < 32) && m.get (NETP_SCTL_fc p) == 2 && m.isOn (SWC_QCFG_ll p c)

/-- S before it is taken as 0 (R236). -/
def Fjoek.sharedSize (m : Fjoek) : Int :=
  let g := (allQueues.map fun q => m.gmin q.1 q.2).sum
  let h := (allQueues.map fun q => if m.lossless q.1 q.2 then 4 * m.get (SWC_QPFC_hdrm q.1 q.2) else 0).sum
  (m.get SWC_BSTAT_cur : Int) - 1440 - g - h

def Fjoek.sharedPool (m : Fjoek) : Nat := m.sharedSize.toNat

/-- A configuration that makes S negative latches cfgerr (R236). -/
def Fjoek.checkShared (m : Fjoek) : Fjoek := m.when (decide (m.sharedSize < 0)) fun m => m.cause SWC_STAT_cfgerr 192

/-- Cells that the reservation of ingress port `p` is short of its 36 (R233). -/
def Fjoek.shortOf (m : Fjoek) (p : Nat) : Nat := tableGet (fun _ => 0) m.swc.short p

/-- Free network cells outside the reservations: 40 of 36 cells each, less what they are short of (R233). -/
def Fjoek.freeNet (m : Fjoek) : Nat :=
  m.get SWC_BSTAT_cur + (m.swc.short.map (·.2)).sum - (1440 + (m.swc.frames.map (·.cells)).sum)

/-- Reservations refill from free network cells, in ascending port number (R233; the order is the model's, assumption 88). -/
def Fjoek.refill (m : Fjoek) : Fjoek :=
  m.each (m.swc.short.map (·.1)) fun p m =>
    let k := Nat.min (m.shortOf p) m.freeNet
    { m with swc := { m.swc with short := tableSet (fun _ => 0) m.swc.short p (m.shortOf p - k) } }

/-- A frame of `n` cells stands in the reservation of its ingress port, which refills as the frame leaves it (R233). -/
def Fjoek.takeReserved (m : Fjoek) (p n : Nat) : Fjoek :=
  Fjoek.refill { m with swc := { m.swc with short := tableSet (fun _ => 0) m.swc.short p (m.shortOf p + n) } }

/-- I(p, c): cells of the frames received on slot `p` in class `c`. -/
def Fjoek.iacct (m : Fjoek) (p c : Nat) : Nat :=
  ((m.swc.frames.filter fun g => g.ingress == p && g.cls == c).map (·.cells)).sum

/-! ## Ports (R231, R245) -/

def Fjoek.inHold (m : Fjoek) (p : Nat) : Bool := m.swc.holds.contains p

/-- The core sees a port up. -/
def Fjoek.portUp (m : Fjoek) (p : Nat) : Bool :=
  if p < 32 then m.isOn (NETP_SSTAT_up p)
  else if p = 36 then m.isOn TWIN_STAT_link
  else if p = 37 then decide (m.hearth.core ≠ 0)
  else true

/-- Classes of a port that the peer has paused. -/
def Fjoek.pausedMask (m : Fjoek) (p : Nat) : Nat := if p < 32 then m.get (SWC_PSTAT_paused p) else 0

/-! ## MAC control frames (R225) -/

/-- Classes of slot `p` whose received pauses are ignored after a release (R226). -/
def Fjoek.released (m : Fjoek) (p : Nat) : Nat := tableGet (fun _ => 0) m.netp.released p

/-- A slot takes frames. -/
def Fjoek.slotOpen (m : Fjoek) (p : Nat) : Bool := m.isOn (NETP_SSTAT_up p) && m.isOn (NETP_SCTL_admin p)

/-- A quanta value arrives for the classes of `mask`: 0 resumes them, any other pauses them. A slot out of service counts the frame and
acts on nothing (R227, R228). -/
def Fjoek.pauseClasses (m : Fjoek) (p mask : Nat) (on : Bool) : Fjoek :=
  let old := m.get (SWC_PSTAT_paused p)
  let mask := mask - (mask &&& m.released p)
  if !m.slotOpen p then m
  else m.put (SWC_PSTAT_paused p) (if on then old ||| mask else old - (old &&& mask))

/-- A PAUSE frame; one of a kind not selected is discarded and counted. -/
def Fjoek.pauseFrame (m : Fjoek) (p quanta : Nat) : Fjoek :=
  if m.get (NETP_SCTL_fc p) = 1 then (m.count (NETP_PAUSERX_LO p) 1).pauseClasses p 0xFF (quanta != 0)
  else m.count (NETP_RXCTL_LO p) 1

/-- A PFC frame: an enable vector and a quanta value per class. -/
def Fjoek.pfcFrame (m : Fjoek) (p enable : Nat) (quanta : List Nat) : Fjoek :=
  if m.get (NETP_SCTL_fc p) = 2 then
    m.each ((List.range 8).filter fun c => bitOf enable c) fun c m =>
      let m := m.count (NETP_PFCRX_LO p c) 1
      if bitOf (m.get (NETP_PFCCFG_pmask p)) c then m.pauseClasses p (2 ^ c) (nth quanta c 0 != 0) else m
  else m.count (NETP_RXCTL_LO p) 1

/-- A MAC control frame given as bytes: consumed here, whatever its opcode. -/
def Fjoek.controlFrame (m : Fjoek) (p : Nat) (b : Bytes) : Fjoek :=
  match frameBe b 14 2 with
  | 0x0001 => m.pauseFrame p (frameBe b 16 2)
  | 0x0101 => m.pfcFrame p (frameBe b 16 2 % 256) ((List.range 8).map fun c => frameBe b (18 + 2 * c) 2)
  | _ => m.count (NETP_RXCTL_LO p) 1

/-- The lanes that slot `s` uses in its quad's mode (R218). -/
def Fjoek.slotLanes (m : Fjoek) (s : Nat) : List Nat :=
  match m.get (NETP_QCFG_mode (s / 4)) with
  | 1 => [0, 1, 2, 3]
  | 4 => [0, 1, 2, 3]
  | 7 => [0, 1, 2, 3]
  | 2 => [s % 4 / 2 * 2, s % 4 / 2 * 2 + 1]
  | 5 => [s % 4 / 2 * 2, s % 4 / 2 * 2 + 1]
  | _ => [s % 4]

/-- Every lane of slot `s` loops its transmitter back to its receiver (R229). -/
def Fjoek.looped (m : Fjoek) (s : Nat) : Bool := (m.slotLanes s).all fun l => m.isOn (NETP_LANE_lpbk (s / 4) l)

/-- The source address of frames that the module originates on slot `s` (R223). -/
def Fjoek.slotMac (m : Fjoek) (s : Nat) : Nat := m.reg (NETP_MAC_LO s) + 2 ^ 32 * m.reg (NETP_MAC_HI s)

/-! ## Flow control towards the peer (R225, R238) -/

/-- Send XOFF or XON under the flow control selected: a quanta for the classes of `mask`. On looped lanes the slot receives it. -/
def Fjoek.sendPause (m : Fjoek) (p mask quanta : Nat) : Fjoek :=
  if m.isOn (NETP_SSTAT_txsup p) ∨ !m.isOn (NETP_SSTAT_up p) ∨ (m.get (NETP_SCTL_fc p) ≠ 1 ∧ m.get (NETP_SCTL_fc p) ≠ 2) then m
  else
    let m := m.send (.pause p mask quanta (m.slotMac p))
    if m.get (NETP_SCTL_fc p) = 1 then
      let m := m.count (NETP_PAUSETX_LO p) 1
      if m.looped p then m.pauseFrame p quanta else m
    else
      let m := m.each ((List.range 8).filter fun c => bitOf mask c) fun c m => m.count (NETP_PFCTX_LO p c) 1
      if m.looped p then m.pfcFrame p mask (List.replicate 8 quanta) else m

/-- The signal for a port's classes follows its accounts. -/
def Fjoek.settleXoff (m : Fjoek) (p : Nat) : Fjoek :=
  if 32 ≤ p then m
  else
    let was := m.get (SWC_PSTAT_xoff p)
    let step := fun (i on off : Nat) (w : Bool) => if on ≤ i then true else if i ≤ off then false else w
    let now := match m.get (NETP_SCTL_fc p) with
      | 1 =>
        let i := ((List.range 8).map (m.iacct p)).sum
        if step i (m.get (SWC_QPFC_xoff p 0)) (m.get (SWC_QPFC_xon p 0)) (was != 0) then 0xFF else 0
      | 2 => ((List.range 8).map fun c =>
          if m.lossless p c && step (m.iacct p c) (m.get (SWC_QPFC_xoff p c)) (m.get (SWC_QPFC_xon p c)) (bitOf was c)
          then 2 ^ c else 0).sum
      | _ => 0
    if now = was then m
    else
      let m := m.put (SWC_PSTAT_xoff p) now
      let m := m.when (now - (now &&& was) != 0) fun m => m.sendPause p (now - (now &&& was)) (m.get (NETP_PFCCFG_quanta p))
      m.when (was - (now &&& was) != 0) fun m => m.sendPause p (was - (now &&& was)) 0

/-- Flow control of slot `p` follows a change of `fc`: with none selected no class stays paused and nothing is signalled (R225). -/
def Fjoek.settleFc (m : Fjoek) (p : Nat) : Fjoek :=
  let fc := m.get (NETP_SCTL_fc p)
  (if fc = 1 ∨ fc = 2 then m else m.put (SWC_PSTAT_paused p) 0).settleXoff p

/-! ## Leaving the buffer -/

/-- A frame none of whose copies is queued or waits gives its cells back, and reservations refill from them. -/
def Fjoek.settleFrame (m : Fjoek) (id : Nat) : Fjoek :=
  match m.frame id with
  | none => m
  | some f =>
    if m.queued id || (m.swc.waiting.any fun e => e.2.any fun w => w.1 == id) then m
    else (Fjoek.refill { m with swc := { m.swc with frames := m.swc.frames.filter fun g => g.id != id } }).settleXoff f.ingress

/-- The queues in which copies of frame `id` stand, one for each copy: 8 × port + class. -/
def Fjoek.copiesOf (m : Fjoek) (id : Nat) : List Nat :=
  (m.swc.queues.map fun e => (e.2.filter fun q => q.frame == id).map fun _ => e.1).flatten

/-- Remove the oldest copy of a frame from a queue; a queue that empties loses its deficit (R241). -/
def Fjoek.dropCopy (m : Fjoek) (p c id : Nat) : Fjoek :=
  let l := (m.queueOf p c).eraseP fun q => q.frame == id
  let m := m.setQueueOf p c l
  let m : Fjoek := if l = [] then { m with swc := { m.swc with deficit := tableSet (fun _ => 0) m.swc.deficit (8 * p + c) 0 } } else m
  m.settleFrame id

/-- Flush every queue of a port, counting each copy (R246). -/
def Fjoek.flushPort (m : Fjoek) (p : Nat) : Fjoek :=
  let m : Fjoek := { m with swc := { m.swc with holds := m.swc.holds.filter (· != p) } }
  m.each (List.range 8) fun c m =>
    m.each (m.queueOf p c) fun q m => (m.dropped (SWC_FLUSH_LO p) 1).dropCopy p c q.frame

/-- Pressure: while U stands at the threshold, flush the port whose hold began earliest (R247). -/
def pressLoop : Nat → Fjoek → Fjoek
  | 0, m => m
  | n + 1, m =>
    if m.get SWC_PRESS_cells ≤ m.usedShared then
      match m.swc.holds with
      | [] => m
      | p :: _ => pressLoop n (m.flushPort p)
    else m

def Fjoek.pressure (m : Fjoek) : Fjoek :=
  if m.get SWC_PRESS_cells ≠ 0 ∧ m.get SWC_PRESS_cells ≤ m.usedShared ∧ m.swc.holds ≠ [] then
    (pressLoop m.swc.holds.length m).cause SWC_STAT_press 193
  else m

/-! ## Admission (R237 to R240) -/

/-- What the checks of R239 decide for a copy. -/
inductive Admit where
  | yes (headroom : Bool)
  | waits
  | down
  | hdrm
  | hard
  | adm
  deriving DecidableEq, Repr

/-- Cells of headroom of (p, c) in use. -/
def Fjoek.hdrmUsed (m : Fjoek) (p c : Nat) : Nat :=
  ((m.swc.frames.filter fun g => g.ingress == p && g.cls == c && g.headroom).map (·.cells)).sum

def Fjoek.admission (m : Fjoek) (f : Frame) (p c : Nat) (first : Bool) : Admit :=
  let d := m.qdepth p c
  let s := m.sharedOf p c
  let u := m.usedShared
  let pool := m.sharedPool
  let du := m.cellsOf p c fun g => !g.mcast
  let g := m.gmin p c
  let xs := if f.mcast then f.cells else (du + f.cells - g) - (du - g)
  let xu := if f.mcast then (if first then f.cells else 0) else xs
  let t := 2 ^ m.get (SWC_QCFG_alpha p c) * (pool - u) / 16
  let internal := f.ingress = 34 ∨ f.ingress = 35 ∨ f.ingress = 37
  if !m.portUp p ∨ m.inHold p then .down
  else if m.lossless f.ingress f.cls then
    if u + xu ≤ pool ∨ (f.mcast ∧ !first) then .yes false
    else if m.hdrmUsed f.ingress f.cls + f.cells ≤ 4 * m.get (SWC_QPFC_hdrm f.ingress f.cls) then .yes true
    else .hdrm
  else if !isEct (f.bytes.map BitVec.toNat) ∧ m.get (SWC_QECN_hard p c) < d + f.cells then
    if internal then .waits else .hard
  else if xs = 0 ∨ (s + xs ≤ t ∧ u + xu ≤ pool) then .yes false
  else if internal then .waits else .adm

/-- Queue an admitted copy, marked when its queue is deeper than kmark (R240). -/
def Fjoek.pushCopy (m : Fjoek) (f : Frame) (p c : Nat) (headroom : Bool) : Fjoek :=
  let mark := isEct (f.bytes.map BitVec.toNat) && decide (m.get (SWC_QECN_kmark p c) < m.qdepth p c)
  let m := m.setFrame { f with headroom := f.headroom || headroom }
  let m := m.setQueueOf p c (m.queueOf p c ++ [{ frame := f.id, marked := mark, held := false }])
  let m := m.count (SWC_ENQ_LO p) 1
  m.when mark fun m => (m.count (SWC_ECNMARK_LO p) 1).happen 0x102 1

/-- Check the copies of a frame one at a time; copies that wait are returned (R239, R242). -/
def enqueueCopies (c : Nat) : List Nat → Frame → Bool → Fjoek → List Nat × Fjoek
  | [], _, _, m => ([], m)
  | p :: ps, f, first, m =>
    match m.admission f p c first with
    | .yes h => enqueueCopies c ps { f with headroom := f.headroom || h } false (m.pushCopy f p c h)
    | .waits => (p :: ps, m)
    | .down => enqueueCopies c ps f first (m.dropped (SWC_DROP_DOWN_LO p) 1)
    | .hdrm => enqueueCopies c ps f first (m.dropped (SWC_DROP_HDRM_LO f.ingress) 1)
    | .hard => enqueueCopies c ps f first (m.dropped (SWC_DROP_HARD_LO p) 1)
    | .adm => enqueueCopies c ps f first (m.dropped (SWC_DROP_ADM_LO p) 1)

/-- The order of R242: ready ports first, each pass in ascending port number. -/
def Fjoek.copyOrder (m : Fjoek) (c : Nat) (ps : List Nat) : List Nat :=
  let ready := fun p => m.portUp p && !m.inHold p && !bitOf (m.pausedMask p) c
  let ps := sortBy id ps
  ps.filter ready ++ ps.filter fun p => !ready p

/-- A mirror copy, in class 0 of port 38: it never waits, and counts there when it is dropped (R244). It is stored as a frame of its own
(assumption 88, DESIGN CHOICE). -/
def Fjoek.mirror (m : Fjoek) (dir port : Nat) (b : List Byte) : Fjoek :=
  if !m.isOn SWC_MIRROR_en ∨ !bitOf (m.get SWC_MIRROR_dir) dir ∨ m.get SWC_MIRROR_src ≠ port then m
  else
    let f : Frame := { id := m.swc.nextFrame, bytes := b, cells := ceilDiv (b.length + 4) 256, cls := 0, ingress := 38
                       stored := m.time, loop := false, mcast := false, left := false, headroom := false, route := none
                       cluster := none }
    let m : Fjoek := { m with swc := { m.swc with nextFrame := f.id + 1, frames := m.swc.frames ++ [f] } }
    (((enqueueCopies 0 [38] f true (m.takeReserved 38 f.cells)).2).settleFrame f.id).pressure

/-- A stored frame with its lookup result is enqueued; copies of an internal source that must wait stand at its head, and a
source whose head waits holds this one behind it (R239). -/
def Fjoek.enqueueFrame (m : Fjoek) (f : Frame) (c : Nat) (ps : List Nat) : Fjoek :=
  let m : Fjoek := { m with swc := { m.swc with nextFrame := f.id + 1, frames := m.swc.frames ++ [f] } }
  let m := m.takeReserved f.ingress f.cells
  let w := tableGet (fun _ => []) m.swc.waiting f.ingress
  let wait := fun (m : Fjoek) (l : List Nat) =>
    { m with swc := { m.swc with waiting := tableSet (fun _ => []) m.swc.waiting f.ingress (w ++ [(f.id, l, c)]) } }
  let m := if w ≠ [] then wait m ps
    else
      let (l, m) := enqueueCopies c (m.copyOrder c ps) f true m
      if l = [] then m else wait m l
  ((m.settleFrame f.id).settleXoff f.ingress).pressure

/-! ## Receiving (R222, R232 to R234) -/

/-- The class of a frame received on a slot (R232). -/
def Fjoek.frameClass (m : Fjoek) (p : Nat) (b : Bytes) : Nat :=
  let d := m.get (SWC_PCFG_dclass p)
  match m.get (SWC_PCFG_csel p) with
  | 0 => if tagged b then frameBe b 14 2 / 2 ^ 13 else d
  | 1 => if isIp4 b ∨ isIp6 b then m.get (SWC_DSCP_class (trafficByte b / 4 / 8) (trafficByte b / 4 % 8)) else d
  | _ => d

/-- Look a stored frame up and queue its copies (R234, R256). While S is negative, a port whose reservation could not refill truncates its
next frame, which is dropped (R236). The copy flag makes one further copy to port 37, unless the frame came from there (R256 step 9,
R258). -/
def Fjoek.storeFrame (m : Fjoek) (port cls : Nat) (loop : Bool) (b : List Byte) : Fjoek :=
  if m.sharedSize < 0 ∧ 0 < m.shortOf port then m.dropped (SWC_NOCELL_LO port) 1
  else
  let m := m.pressure.happen 0x100 1
  let n := b.map BitVec.toNat
  let (r, m) := m.lookup port n
  let c := r.cls.getD cls
  let ps := r.ports ++ (if r.mnic && port != 37 then [37] else [])
  let loops := loop && ps.contains 39
  let m := m.when loops fun m => (m.dropped SWC_LOOPDROP_LO 1).cause SWC_STAT_loopdrop 192
  let m := m.mirror 0 port b
  if ps = [] ∨ loops then m
  else
    m.enqueueFrame { id := m.swc.nextFrame, bytes := b, cells := ceilDiv (b.length + 4) 256, cls := cls, ingress := port
                     stored := m.time, loop := loop, mcast := r.mcast || decide (1 < ps.length), left := false
                     headroom := false, route := r.route, cluster := r.cluster } c ps

/-- The receive MAC of slot `p` takes a frame, without its FCS (R222). A frame that is cut off or has a bad FCS counts as that alone. With
txsup set (R224), on a trailing twin (R270) and out of service (R227, R228) frames are counted and discarded. -/
def Fjoek.macReceive (m : Fjoek) (p : Nat) (ending : FrameEnd) (frame : List Byte) : Fjoek :=
  let len := frame.length + 4
  if ending = .cut then m.count (NETP_RXRUNT_LO p) 1
  else if ending = .badFcs then m.count (NETP_RXFCS_LO p) 1
  else if len < 64 then m.count (NETP_RXRUNT_LO p) 1
  else if clampTo 1518 9216 (m.get (NETP_MCFG_maxlen p)) < len then m.count (NETP_RXOVER_LO p) 1
  else if frameBe (frame.map BitVec.toNat) 12 2 = 0x8808 then m.controlFrame p (frame.map BitVec.toNat)
  else
    let m := (m.count (NETP_RXFRM_LO p) 1).count (NETP_RXOCT_LO p) len
    if !m.slotOpen p ∨ m.isOn (NETP_SSTAT_txsup p) ∨ m.trailing then m
    else m.storeFrame p (m.frameClass p (frame.map BitVec.toNat)) false frame

/-- FRAME_RECEIVE: a frame arrives on an ingress port. Frames of MNIC take the class of MGMT_NICCFG (R232, R477), and those of the twin link
bring theirs. The transport's own ports and LOOP take their frames inside the module. -/
def execFrameReceive (port : Fin 40) (cls : Fin 8) (ending : FrameEnd) (frame : List Byte) (feccw fecucw : Nat) (s : State) :=
  s.on fun m =>
  let p := port.val
  if p < 32 then ((m.count (NETP_FECCW_LO p) feccw).count (NETP_FECUCW_LO p) fecucw).macReceive p ending frame
  else if p = 36 then m.storeFrame 36 cls.val false frame
  else if p = 37 then m.storeFrame 37 (m.get MGMT_NICCFG_class) false frame
  else m

/-- INTERNAL_COPY_RETRY: the head of an internal source is checked again; those behind it follow as far as they go. -/
def retryLoop (port : Nat) : Nat → Fjoek → Fjoek
  | 0, m => m
  | n + 1, m =>
    match tableGet (fun _ => []) m.swc.waiting port with
    | [] => m
    | (id, ps, c) :: r =>
      let set := fun (m : Fjoek) (l : List (Nat × List Nat × Nat)) =>
        { m with swc := { m.swc with waiting := tableSet (fun _ => []) m.swc.waiting port l } }
      match m.frame id with
      | none => retryLoop port n (set m r)
      | some f =>
        let (l, m) := enqueueCopies c (m.copyOrder c ps) f (!m.queued id) m
        if l = [] then retryLoop port n ((set m r).settleFrame id) else set m ((id, l, c) :: r)

def execInternalCopyRetry (port : Fin 40) (s : State) := s.on fun m =>
  (retryLoop port.val (tableGet (fun _ => []) m.swc.waiting port.val).length m).pressure

/-! ## Egress (R240, R241, R256) -/

/-- The one's complement checksum of an IPv4 header of `n` bytes at `o`, its checksum field taken as 0. -/
def ip4Sum (b : Bytes) (o n : Nat) : Nat :=
  let s := ((List.range (n / 2)).map fun i => if i = 5 then 0 else frameBe b (o + 2 * i) 2).sum
  let s := s % 65536 + s / 65536
  65535 - (s % 65536 + s / 65536)

def putBytes (b : Bytes) (o : Nat) (v : Bytes) : Bytes := b.take o ++ v ++ b.drop (o + v.length)

/-- Recompute the IPv4 header checksum, where there is one. -/
def fixSum (b : Bytes) : Bytes :=
  if isIp4 b then
    let n := 4 * (frameBe b (l3At b) 1 % 16)
    let s := ip4Sum b (l3At b) n
    putBytes b (l3At b + 10) [s / 256, s % 256]
  else b

/-- Set the ECN field to CE. -/
def setCe (b : Bytes) : Bytes :=
  if isIp4 b then fixSum (putBytes b (l3At b + 1) [nth b (l3At b + 1) 0 ||| 3])
  else if isIp6 b then putBytes b (l3At b + 1) [nth b (l3At b + 1) 0 ||| 0x30]
  else b

/-- A routed frame on a network slot: next hop, source address, TTL or hop limit less 1, egress VLAN (R256). -/
def Fjoek.rewrite (m : Fjoek) (p : Nat) (r : Route) (b : Bytes) : Bytes :=
  let src := bytesBe 6 (m.slotMac p)
  let ttl := l3At b + if isIp4 b then 8 else 7
  let b := fixSum (putBytes b ttl [nth b ttl 0 - 1])
  let rest := b.drop (if tagged b then 16 else 12)
  let pcp := if tagged b then frameBe b 14 2 / 4096 * 4096 else 0
  let tag := if r.vlan = 0xFFFF then [] else [0x81, 0, (pcp + r.vlan % 4096) / 256, r.vlan % 256]
  r.hop.map BitVec.toNat ++ src ++ tag ++ rest

/-- A frame of the transport takes the address of the slot on which it leaves as its source (R223). -/
def Fjoek.originate (m : Fjoek) (p : Nat) (f : Frame) (b : Bytes) : Bytes :=
  if f.ingress = 34 ∨ f.ingress = 35 then putBytes b 6 (bytesBe 6 (m.slotMac p)) else b

/-- The copy of a frame as it leaves on a port. -/
def Fjoek.leaving (m : Fjoek) (p : Nat) (f : Frame) (q : Copy) : List Byte :=
  let b := f.bytes.map BitVec.toNat
  let b := match f.route with
    | some r => if p < 32 then m.rewrite p r b else b
    | none => if p < 32 then m.originate p f b else b
  (if q.marked then setCe b else b).map (BitVec.ofNat 8)

/-- A port sends class `c` now: it has a copy and the peer has not paused the class. -/
def Fjoek.sendable (m : Fjoek) (p c : Nat) : Bool := (m.queueOf p c) != [] && !bitOf (m.pausedMask p) c

/-- The deficit round robin of R241: the class that sends next, and the deficits and rotor after its choice. -/
def drr (m : Fjoek) (p sp : Nat) : Nat → Nat → Table Nat → Option (Nat × Nat × Table Nat)
  | 0, _, _ => none
  | n + 1, rot, def_ =>
    let c := rot / 2
    let next := 2 * ((c + 1) % 8)
    if bitOf sp c ∨ !m.sendable p c then drr m p sp n next def_
    else
      let k := 8 * p + c
      let d := tableGet (fun _ => 0) def_ k
      let d := if rot % 2 = 1 then d else d + 1024 * Nat.max 1 (m.get (SWC_WEIGHT_w p c))
      let len := match (m.queueOf p c).head? with
        | none => 0
        | some q => match m.frame q.frame with
          | none => 0
          | some f => f.bytes.length + 4
      if len ≤ d then some (c, 2 * c + 1, tableSet (fun _ => 0) def_ k (d - len))
      else drr m p sp n next (tableSet (fun _ => 0) def_ k d)

/-- The class that a port serves next: strict priority, then round robin. -/
def Fjoek.nextClass (m : Fjoek) (p : Nat) : Option (Nat × Fjoek) :=
  let sp := m.get (SWC_SCHED_sp p)
  match ([7, 6, 5, 4, 3, 2, 1, 0].filter fun c => bitOf sp c && m.sendable p c).head? with
  | some c => some (c, m)
  | none =>
    match drr m p sp 400 (tableGet (fun _ => 0) m.swc.rotor p) m.swc.deficit with
    | none => none
    | some (c, rot, d) =>
      some (c, { m with swc := { m.swc with deficit := d, rotor := tableSet (fun _ => 0) m.swc.rotor p rot } })

/-- Frames on the residue list. -/
def Fjoek.residue (m : Fjoek) : Nat := (m.swc.frames.filter (·.left)).length

/-- A copy has left: a frame with copies still queued joins the residue list, or loses them when the list is full (R243). -/
def Fjoek.afterLeaving (m : Fjoek) (id : Nat) : Fjoek :=
  match m.frame id with
  | none => m
  | some f =>
    if f.left then m
    else if m.residue < 8192 then m.setFrame { f with left := true }
    else
      let m := m.each (m.copiesOf id) fun k m => (m.dropped SWC_RESOVF_LO 1).dropCopy (k / 8) (k % 8) id
      m.cause SWC_STAT_resovf 192

/-- A slot's MAC can start a frame (R223); with txsup the slot's own queues drain into the TWIN block's digest (R241), and the mirror port,
which sends on a slot, waits (R224, R244). -/
def Fjoek.portReady (m : Fjoek) (p : Nat) : Bool :=
  if p < 32 then m.get (NETP_SSTAT_state p) == 4 && m.isOn (NETP_SCTL_admin p)
  else if p = 38 then
    let d := m.get SWC_MIRROR_dst
    m.get (NETP_SSTAT_state d) == 4 && m.isOn (NETP_SCTL_admin d) && !m.isOn (NETP_SSTAT_txsup d) &&
      !(List.range 8).any fun c => m.sendable d c
  else m.portUp p

/-- A frame's age, counted from store completion, has passed `n` units of 100 µs, of which 0 acts as 1 (R243, R246). -/
def Fjoek.older (m : Fjoek) (f : Frame) (n : Nat) : Bool := decide (f.stored + 100000 * Nat.max 1 n < m.time)

/-- EGRESS_DEQUEUE: a port starts its next frame; a transport frame is held as an output until it is committed (R358). A held frame older
than maxres is dropped (R246). A frame sent on looped lanes is received by its slot, as `looped` says (R229). -/
def execEgressDequeue (port : Fin 40) (looped : FrameEnd) (s : State) := s.on fun m =>
  let p := port.val
  if !m.portReady p ∨ m.inHold p ∨ p = 39 then m
  else
    match m.nextClass p with
    | none => m
    | some (c, m) =>
      match (m.queueOf p c).head? with
      | none => m
      | some q =>
        match m.frame q.frame with
        | none => m.dropCopy p c q.frame
        | some f =>
          if q.held ∧ m.older f (m.get SWC_HOLD_maxres) then (m.dropped (SWC_DROP_AGE_LO p) 1).dropCopy p c f.id
          else
            let b := m.leaving p f q
            let m := (m.count (SWC_DEQ_LO p) 1).dropCopy p c f.id
            let m := m.afterLeaving f.id
            let sup := p < 32 && m.isOn (NETP_SSTAT_txsup p)
            let m := if sup then m
              else
                let o := OutMsg.frame (if p = 38 then m.get SWC_MIRROR_dst else p) b
                let m := if p < 32 ∧ (f.ingress = 34 ∨ f.ingress = 35) then m.output o else m.send o
                let t := if p = 38 then m.get SWC_MIRROR_dst else p
                if t < 32 then
                  let m := (m.count (NETP_TXFRM_LO t) 1).count (NETP_TXOCT_LO t) (b.length + 4)
                  if m.looped t then m.macReceive t looped b else m
                else m
            if p = 38 then m else m.mirror 1 p b

/-- LOOPBACK_REENTRY: the frame at the head of port 39 re-enters ingress with a loop mark and the class it had (R232, R244). -/
def execLoopbackReentry (s : State) := s.on fun m =>
  match m.nextClass 39 with
  | none => m
  | some (c, m) =>
    match (m.queueOf 39 c).head? with
    | none => m
    | some q =>
      match m.frame q.frame with
      | none => m.dropCopy 39 c q.frame
      | some f =>
        let b := m.leaving 39 f q
        let m := ((m.count (SWC_DEQ_LO 39) 1).dropCopy 39 c f.id).afterLeaving f.id
        (m.mirror 1 39 b).storeFrame 39 c true b

/-- MULTICAST_AGE_EXPIRY: the copies still queued of a frame on the residue list whose age has passed the limit leave (R243). -/
def execMulticastAgeExpiry (frame : Nat) (s : State) := s.on fun m =>
  match m.frame frame with
  | none => m
  | some f =>
    if !f.left ∨ !m.older f (m.get SWC_MCAST_age) then m
    else
      m.each (m.copiesOf frame) fun k m => (m.dropped (SWC_DROP_MCAGE_LO (k / 8)) 1).dropCopy (k / 8) (k % 8) frame

/-! ## Hold (R245, R246) -/

/-- A slot's port goes down: it is in hold, or its queues are flushed at once. -/
def Fjoek.startHold (m : Fjoek) (p : Nat) : Fjoek :=
  if m.get SWC_HOLD_hold = 0 then m.flushPort p
  else
    let m : Fjoek := { m with swc := { m.swc with holds := m.swc.holds.filter (· != p) ++ [p] } }
    (m.each (List.range 8) fun c m => m.setQueueOf p c ((m.queueOf p c).map fun q => { q with held := true })).pressure

/-- The port leaves hold, its frames kept. -/
def Fjoek.endHold (m : Fjoek) (p : Nat) : Fjoek := { m with swc := { m.swc with holds := m.swc.holds.filter (· != p) } }

/-- HOLD_TIMER_EXPIRY. -/
def execHoldTimerExpiry (t : Fin 32) (s : State) := s.on fun m => if m.inHold t.val then m.flushPort t.val else m

/-! ## The boundary (R235) -/

/-- A write of SWC_BOUND: a value out of range takes the nearer limit. A new target that a pending move stands at completes that move. -/
def Fjoek.boundWrite (m : Fjoek) (v : Nat) : Fjoek :=
  let t := clampTo 65536 327680 v
  let m := m.put SWC_BOUND_cells t
  if t ≠ m.get SWC_BSTAT_cur then m.put SWC_BSTAT_pending 1
  else if m.isOn SWC_BSTAT_pending then (m.put SWC_BSTAT_pending 0).cause SWC_STAT_bmove 192
  else m

def execBoundaryWrite (cells : BitVec 19) (s : State) := s.on fun m => m.boundWrite cells.toNat

/-- BOUNDARY_CELL_MOVE: one cell changes region, if one is free to. -/
def execBoundaryCellMove (s : State) := s.on fun m =>
  let t := m.get SWC_BOUND_cells
  let cur := m.get SWC_BSTAT_cur
  let free := m.get MNGL_LFREE_free
  let go := fun (c f : Nat) =>
    let m := ((m.put SWC_BSTAT_cur c).put MNGL_LFREE_free f).refill.checkShared
    if c = t then (m.put SWC_BSTAT_pending 0).cause SWC_STAT_bmove 192 else m
  if !m.isOn SWC_BSTAT_pending then m
  else if cur < t then (if m.get MNGL_LRSV_rsv < free then go (cur + 1) (free - 1) else m)
  else if t < cur then
    (if 0 < m.freeNet ∧ (m.usedShared : Int) < m.sharedSize then go (cur - 1) (free + 1) else m)
  else m.put SWC_BSTAT_pending 0

/-- A Block reset of SWC, besides the register fields: the port's queues are flushed (R249). -/
def Fjoek.swcReset (m : Fjoek) (p : Nat) : Fjoek := m.flushPort p

end Sys2Proof.Machine
end

