-- ==== Sys2Proof/Machine/NetPorts.lean ====
section
/-! DEFINITION. The port slots: their states, quad modes, faults, PAUSE and PFC (R218 to R229). -/

namespace Sys2Proof.Machine

/-- A NETP_ESTAT cause but `link` latches the port slot error event (R220). -/
def Fjoek.slotError (m : Fjoek) (s : Nat) (f : Nat → Fld) : Fjoek := m.cause (f s) (128 + 2 * s)

/-- The mode of R218 uses slot `s`. -/
def Fjoek.slotInUse (m : Fjoek) (s : Nat) : Bool :=
  match m.get (NETP_QCFG_mode (s / 4)) with
  | 1 => s % 4 == 0
  | 2 => s % 2 == 0
  | 3 => true
  | 4 => s % 4 == 0
  | 5 => s % 2 == 0
  | 6 => true
  | 7 => s % 4 == 0
  | 8 => true
  | _ => false

/-- `up` changes: the link event latches, and in twin operation a LINK record is written (R220, R356). -/
def Fjoek.setUp (m : Fjoek) (s : Nat) (v : Bool) : Fjoek :=
  if m.isOn (NETP_SSTAT_up s) = v then m
  else
    let m := (m.put (NETP_SSTAT_up s) (bnat v)).cause (NETP_ESTAT_link s) (129 + 2 * s)
    let m := m.when (!v) fun m => m.count (NETP_LINKDN_LO s) 1
    m.logTwin 0x0B 0x85 [bnat (!v), s, 0]

def Fjoek.setFault (m : Fjoek) (s : Nat) (v : Bool) : Fjoek :=
  { m with netp := { m.netp with faults := tableSet (fun _ => false) m.netp.faults s v } }

def Fjoek.faulty (m : Fjoek) (s : Nat) : Bool := tableGet (fun _ => false) m.netp.faults s

/-- Slot `s` sends the remote fault indication: in state 2, its own side is not aligned and the partner's is, which it is taken to be while
it sends no such indication (R221; assumption 91, DEDUCED). -/
def Fjoek.indicates (m : Fjoek) (s : Nat) : Bool :=
  m.get (NETP_SSTAT_state s) == 2 && (!m.isOn (NETP_SSTAT_align s) || m.isOn (NETP_SSTAT_lfault s)) && !m.isOn (NETP_SSTAT_rfault s)

/-- A happening at the link of slot `s`, and what it changes of the remote fault indication sent (R221). -/
def Fjoek.onLink (m : Fjoek) (s : Nat) (f : Fjoek → Fjoek) : Fjoek :=
  let n := f m
  if n.indicates s = m.indicates s then n else n.send (.remoteFault s (n.indicates s))

/-- The receivers of a slot's lanes take new SNR estimates, which nothing in the spec gives: free values (R229; assumption 13). -/
def Fjoek.senseSnr (m : Fjoek) (s : Nat) : Fjoek :=
  m.each (m.slotLanes s) fun l m =>
    let (v, m) := m.freeNat
    m.put (NETP_LANE_snr (s / 4) l) v

/-- A write of NETP_SCTL.admin = 1: ignored on a slot not in use (R218). -/
def Fjoek.slotEnable (m : Fjoek) (s : Nat) : Fjoek :=
  if !m.slotInUse s then m
  else
    let m := m.put (NETP_SCTL_admin s) 1
    if m.get (NETP_SSTAT_state s) = 0 then m.put (NETP_SSTAT_state s) 1 else m

/-- The end of a slot's service (R227): the queues are flushed without a hold, and every copy is counted. -/
def Fjoek.slotDisable (m : Fjoek) (s : Nat) : Fjoek :=
  if !m.slotInUse s then m
  else m.onLink s fun m =>
    let m := m.put (NETP_SCTL_admin s) 0
    if m.get (NETP_SSTAT_state s) = 0 then m
    else
      let m := (m.put (NETP_SSTAT_state s) 0).put (NETP_SSTAT_align s) 0
      let m := ((m.put (NETP_SSTAT_lfault s) 0).put (NETP_SSTAT_rfault s) 0).setFault s false
      (m.setUp s false).flushPort s

/-- SLOT_ENABLE. -/
def execSlotEnable (s : Fin 32) (st : State) := st.on fun m => m.slotEnable s.val
/-- SLOT_DISABLE. -/
def execSlotDisable (s : Fin 32) (st : State) := st.on fun m => m.slotDisable s.val

/-- A write of NETP_QCFG.mode (R219). -/
def Fjoek.quadMode (m : Fjoek) (q mode : Nat) : Fjoek :=
  if (List.range 4).all fun i => !m.isOn (NETP_SCTL_admin (4 * q + i)) && m.get (NETP_SSTAT_state (4 * q + i)) == 0 then
    (m.put (NETP_QCFG_mode q) mode).put (NETP_QSTAT_busy q) 1
  else m.slotError (4 * q) NETP_ESTAT_rej

/-- QUAD_MODE_WRITE. -/
def execQuadModeWrite (q : Fin 8) (mode : Fin 16) (s : State) := s.on fun m => m.quadMode q.val mode.val
/-- QUAD_MODE_CHANGE_DONE. -/
def execQuadModeChangeDone (q : Fin 8) (s : State) := s.on fun m => (m.put (NETP_QSTAT_busy q.val) 0).settleQuads

/-- LANES_ON: within 200 µs of `admin`; a mode change in progress keeps the lanes off. -/
def execLanesOn (s : Fin 32) (st : State) := st.on fun m =>
  let s := s.val
  if m.get (NETP_SSTAT_state s) = 1 ∧ !m.isOn (NETP_QSTAT_busy (s / 4)) then
    m.onLink s fun m => (m.put (NETP_SSTAT_state s) 2).senseSnr s
  else m

/-- LINK_ALIGNED: FEC and PCS aligned, no local or remote fault. -/
def execLinkAligned (s : Fin 32) (st : State) := st.on fun m =>
  let s := s.val
  if m.get (NETP_SSTAT_state s) = 2 then m.onLink s fun m =>
    let m := m.senseSnr s
    let m := (m.put (NETP_SSTAT_align s) 1).put (NETP_SSTAT_lfault s) 0
    ((m.put (NETP_SSTAT_rfault s) 0).put (NETP_SSTAT_state s) 3).setFault s false
  else m

/-- LINK_QUALIFIED: upq ms without fault; a port that comes up keeps the frames of its hold (R246). -/
def execLinkQualified (s : Fin 32) (st : State) := st.on fun m =>
  let s := s.val
  if m.get (NETP_SSTAT_state s) = 3 then ((m.put (NETP_SSTAT_state s) 4).setUp s true).endHold s else m

/-- LINK_FAULT: a fault arises. One that passes the FEC threshold is a fault only with NETP_FECTHR.en (R220). -/
def execLinkFault (s : Fin 32) (kind : LinkFault) (st : State) := st.on fun m =>
  let s := s.val
  if m.get (NETP_SSTAT_state s) < 2 then m
  else m.onLink s fun m =>
    let m := m.senseSnr s
    let m := match kind with
      | .align => m.put (NETP_SSTAT_align s) 0
      | .loc => m.put (NETP_SSTAT_lfault s) 1
      | .remote => m.put (NETP_SSTAT_rfault s) 1
      | .fec => m.slotError s NETP_ESTAT_fecdeg
    if kind = .fec ∧ !m.isOn (NETP_FECTHR_en s) then m
    else
      let m := m.setFault s true
      if m.get (NETP_SSTAT_state s) = 3 then m.put (NETP_SSTAT_state s) 2 else m

/-- LINK_FAULT_CLEAR: a fault in UP clears before dn_us and counts a flap (R221). -/
def execLinkFaultClear (s : Fin 32) (st : State) := st.on fun m =>
  let s := s.val
  if m.get (NETP_SSTAT_state s) = 4 ∧ m.faulty s then
    let m := (m.put (NETP_SSTAT_align s) 1).put (NETP_SSTAT_lfault s) 0
    let m := (m.put (NETP_SSTAT_rfault s) 0).setFault s false
    (m.count (NETP_FLAPS_LO s) 1).slotError s NETP_ESTAT_flap
  else m

/-- LINK_DOWN: the fault has lasted dn_us; the switch core sees the port down in the same cycle and starts its hold. `sending`
says that a frame was being sent, which is cut off (R221, R223). -/
def execLinkDown (s : Fin 32) (sending : Bool) (st : State) := st.on fun m =>
  let s := s.val
  if m.get (NETP_SSTAT_state s) = 4 ∧ m.faulty s then
    let m := m.when sending fun m => m.count (NETP_TXABORT_LO s) 1
    m.onLink s fun m => ((m.put (NETP_SSTAT_state s) 2).setUp s false).startHold s
  else m

/-! ## PAUSE and PFC (R225, R226) -/

/-- PAUSE_RECEIVE. A slot out of service counts the frame (R228). -/
def execPauseReceive (s : Fin 32) (quanta : BitVec 16) (st : State) := st.on fun m => m.pauseFrame s.val quanta.toNat

/-- PFC_RECEIVE. -/
def execPfcReceive (s : Fin 32) (enable : BitVec 8) (quanta : List Nat) (st : State) := st.on fun m =>
  m.pfcFrame s.val enable.toNat quanta

/-- The classes that a pause or a release of class `c` covers: the whole port in PAUSE mode. -/
def Fjoek.pauseGroup (m : Fjoek) (s c : Nat) : Nat := if m.get (NETP_SCTL_fc s) = 1 then 0xFF else 2 ^ c

/-- PAUSE_EXPIRY: the time of a class runs out and it resumes. -/
def execPauseExpiry (s : Fin 32) (c : Fin 8) (st : State) := st.on fun m =>
  let old := m.get (SWC_PSTAT_paused s.val)
  m.put (SWC_PSTAT_paused s.val) (old - (old &&& m.pauseGroup s.val c.val))

/-- XOFF_REPEAT: while the signal holds, XOFF is sent again. -/
def execXoffRepeat (s : Fin 32) (st : State) := st.on fun m =>
  let x := m.get (SWC_PSTAT_xoff s.val)
  if x = 0 then m else m.sendPause s.val x (m.get (NETP_PFCCFG_quanta s.val))

/-- PFC_WATCHDOG_RELEASE: a class paused without a break for wd ms is released (R226). -/
def execPfcWatchdogRelease (s : Fin 32) (c : Fin 8) (st : State) := st.on fun m =>
  let s := s.val
  let old := m.get (SWC_PSTAT_paused s)
  if m.get (NETP_PFCCFG_wd s) = 0 ∨ !bitOf old c.val then m
  else
    let g := m.pauseGroup s c.val
    let m := m.put (SWC_PSTAT_paused s) (old - (old &&& g))
    let m : Fjoek := { m with netp := { m.netp with
      released := tableSet (fun _ => 0) m.netp.released s (m.released s ||| g) } }
    (m.count (NETP_PFCWD_LO s) 1).slotError s NETP_ESTAT_pfcwd

/-- PFC_RELEASE_END: the released time has passed, and pauses of the class are honoured again. -/
def execPfcReleaseEnd (s : Fin 32) (c : Fin 8) (st : State) := st.on fun m =>
  let r := m.released s.val
  { m with netp := { m.netp with
    released := tableSet (fun _ => 0) m.netp.released s.val (r - (r &&& m.pauseGroup s.val c.val)) } }

end Sys2Proof.Machine
end

