-- ==== Sys2Proof/Machine/Thimble.lean ====
section
/-! DEFINITION. Thimble: the key table (R305 to R309), the check (R310), revocation (R313 to R316), slate descriptors (R317,
R318), flush records (R321, R322) and sealed keys (R325). -/

namespace Sys2Proof.Machine

/-! ## Key entries (R306). They stand in HBM, and an entry of the cache in the block as well; a change is written to both at once (assumption
18). Hardware alone writes state and use count, and a Kindle reset makes every entry FREE (R328), so the block holds these two itself. -/

def Fjoek.keyAddr (m : Fjoek) (x : Nat) : Nat := m.get THIM_KTBASE_base * 2 ^ 20 + 32 * x

def Fjoek.keyState (m : Fjoek) (x : Nat) : Nat := tableGet (fun _ => 0) m.thim.states x
def Fjoek.keyUse (m : Fjoek) (x : Nat) : Nat := tableGet (fun _ => 0) m.thim.uses x

/-- Byte `i` of entry `x`. -/
def Fjoek.keyByte (m : Fjoek) (x i : Nat) : Byte :=
  if i = 0 then BitVec.ofNat 8 (m.keyState x)
  else if 0x1D ≤ i then BitVec.ofNat 8 (m.keyUse x / 256 ^ (i - 0x1D))
  else match m.thim.lines.find? fun e => e.1 == x with
    | some e => e.2.getD i 0
    | none => m.hbmByte (m.keyAddr x + i)

/-- A field of entry `x`: `n` bytes at offset `o`. -/
def Fjoek.keyNat (m : Fjoek) (x o n : Nat) : Nat := ofBytes ((List.range n).map fun i => m.keyByte x (o + i))

def Fjoek.keyTag (m : Fjoek) (x : Nat) : Nat := m.keyNat x 1 1

/-- Bytes of entry `x` from offset `o` on, in HBM and in the cache. -/
def Fjoek.keyWrite (m : Fjoek) (x o : Nat) (b : List Byte) : Fjoek :=
  let m := m.hbmWrite (m.keyAddr x + o) b
  let line := fun (e : Nat × List Byte) => if e.1 = x then (x, e.2.take o ++ b ++ e.2.drop (o + b.length)) else e
  { m with thim := { m.thim with lines := m.thim.lines.map line } }

def Fjoek.setKeyState (m : Fjoek) (x v : Nat) : Fjoek :=
  Fjoek.hbmWriteNat { m with thim := { m.thim with states := tableSet (fun _ => 0) m.thim.states x v } } (m.keyAddr x) 1 v

def Fjoek.setKeyUse (m : Fjoek) (x v : Nat) : Fjoek :=
  Fjoek.hbmWriteNat { m with thim := { m.thim with uses := tableSet (fun _ => 0) m.thim.uses x v } } (m.keyAddr x + 0x1D) 3 v

/-- Rights of R306, by bit. -/
def Fjoek.keyRight (m : Fjoek) (x b : Nat) : Bool := bitOf (m.keyNat x 2 1) b

/-! ## The cache (R307) -/

/-- An entry pinned in the cache: a strand's started access, a use count above 0 or REVOKING. -/
def Fjoek.keyPinned (m : Fjoek) (x : Nat) : Bool :=
  m.keyUse x != 0 || m.keyState x == 3 ||
    m.seam.strands.any fun e => e.2.accs.any fun a => a.kind == .kld && a.addr == x

def Fjoek.setThim (m : Fjoek) (t : Thim) : Fjoek := { m with thim := t }

/-- Entry `x`, which the cache holds, is the one used last. -/
def Fjoek.keyUsed (m : Fjoek) (x : Nat) : Fjoek := m.setThim { m.thim with cached := m.thim.cached.filter (· != x) ++ [x] }

/-- Entry `x` comes into the cache as it stands in HBM. -/
def Fjoek.keyCache (m : Fjoek) (x : Nat) : Fjoek :=
  (m.setThim { m.thim with lines := m.thim.lines.filter (·.1 != x) ++ [(x, m.hbmBytes (m.keyAddr x) 32)] }).keyUsed x

/-- The load of entry `x` starts. In a full cache the least recently used of the unpinned entries makes room; while every entry is pinned no
load can begin. -/
def Fjoek.keyLoad (m : Fjoek) (x : Nat) : Fjoek :=
  let begin_ := fun (m : Fjoek) =>
    let m := (m.count THIM_CMISS_LO 1).happen 0x107 1
    m.setThim { m.thim with loading := m.thim.loading ++ [x] }
  if m.thim.cached.length + m.thim.loading.length < 16384 then begin_ m
  else match m.thim.cached.find? fun y => !m.keyPinned y with
    | some y => begin_ (m.setThim { m.thim with cached := m.thim.cached.filter (· != y), lines := m.thim.lines.filter (·.1 != y) })
    | none => m

/-- The entry is in the cache; else its load starts (R307). -/
def Fjoek.keyReady (m : Fjoek) (x : Nat) : Bool × Fjoek :=
  if m.thim.cached.contains x then (true, m.keyUsed x)
  else if m.thim.loading.contains x then (false, m)
  else (false, m.keyLoad x)

/-- A load ends: an uncorrectable word is found now, and stays until a REGISTER rewrites the entry. -/
def Fjoek.keyLoaded (m : Fjoek) (x : Nat) : Fjoek :=
  if !m.thim.loading.contains x then m
  else
    let m := m.setThim { m.thim with loading := m.thim.loading.filter (· != x) }
    let (bad, m) := m.hbmDetect none (m.keyAddr x) 32
    let m := m.keyCache x
    if bad ∧ !m.thim.bad.contains x then
      (m.setThim { m.thim with bad := m.thim.bad ++ [x] }).cause THIM_STAT_ue 261
    else m

/-! ## Revocation (R313 to R316) -/

/-- Step 3 of R315: the entry is FREE and the revocation complete. -/
def Fjoek.revoked (m : Fjoek) (x : Nat) : Fjoek :=
  let m := m.setKeyState x 0
  let m := m.put THIM_REVOKING_n (m.get THIM_REVOKING_n - 1)
  let m := m.put THIM_KUSED_n (m.get THIM_KUSED_n - 1)
  let m := if m.thim.revLog.length < 64 then m.setThim { m.thim with revLog := m.thim.revLog ++ [x] }
    else m.put THIM_KREV_lost 1
  (m.count THIM_REVOKED_LO 1).cause THIM_STAT_rdone 257

/-- Step 1: REVOKING from this cycle on; complete at once when no admitted access is left. -/
def Fjoek.revoke (m : Fjoek) (x : Nat) : Fjoek :=
  let m := m.setKeyState x 3
  let m := m.put THIM_REVOKING_n (m.get THIM_REVOKING_n + 1)
  if m.keyUse x = 0 then m.revoked x else m

/-- The use count rises as an access passes. -/
def Fjoek.useKey (m : Fjoek) (x : Nat) : Fjoek := m.setKeyUse x (m.keyUse x + 1)

/-- The use count falls (R311). -/
def Fjoek.unuseKey (m : Fjoek) (x : Nat) : Fjoek :=
  let n := m.keyUse x - 1
  let m := m.setKeyUse x n
  if n = 0 ∧ m.keyState x = 3 then m.revoked x else m

/-! ## Key commands (R308, R309) -/

/-- The first FREE entry from `x` on, over `n` entries. -/
def freeKey (m : Fjoek) : Nat → Nat → Option Nat
  | 0, _ => none
  | n + 1, x => if m.keyState (x % 1048576) = 0 then some (x % 1048576) else freeKey m n (x + 1)

/-- Entry `x` is allocated, with the next tag. -/
def Fjoek.keyTake (m : Fjoek) (x : Nat) : Nat × Fjoek :=
  let tag := if m.keyTag x = 255 then 1 else m.keyTag x + 1
  let m := ((m.setKeyState x 1).keyWrite x 1 [BitVec.ofNat 8 tag]).put THIM_KUSED_n (m.get THIM_KUSED_n + 1)
  (2 ^ 31 + tag * 2 ^ 20 + x, m)

/-- A read of THIM_KALLOC. Which FREE entry it takes is not stated: the search starts at a free value. -/
def Fjoek.keyAlloc (m : Fjoek) : Nat × Fjoek :=
  let (r, m) := m.freeNat
  let found := if 1048576 ≤ m.get THIM_KUSED_n then none else freeKey m (m.thim.states.length + 1) r
  match found with
  | none => (0, m.count THIM_ALLOCFAIL_LO 1)
  | some x => m.keyTake x

/-- The command ends with a code. -/
def Fjoek.keyCode (m : Fjoek) (c : Nat) : Fjoek := (m.put THIM_KSTAT_busy 0).put THIM_KSTAT_code c

def Fjoek.slate (m : Fjoek) (n : Nat) : SlateDesc := tableGet (fun _ => ⟨0, 0, 0, 0, 0⟩) m.thim.slates n

/-- Entry `x` is rewritten whole and is correctable again. The other entry of its 64-byte unit keeps its bytes, and its uncorrectable word if
it had one (R307; assumption 18). -/
def Fjoek.keyRewrite (m : Fjoek) (x : Nat) (b : List Byte) : Fjoek :=
  let bad := (m.hbmDetect none (m.keyAddr x) 32).1
  let y := if x % 2 = 0 then x + 1 else x - 1
  let m := m.keyWrite x 0 b
  let l := m.thim.bad.filter (· != x)
  if !bad then m.setThim { m.thim with bad := l }
  else
    (m.hbmWrite (m.keyAddr y) (m.hbmBytes (m.keyAddr y) 32)).setThim { m.thim with bad := if l.contains y then l else l ++ [y] }

/-- REGISTER: the conditions in the order of their codes. -/
def Fjoek.keyRegister (m : Fjoek) (x : Nat) : Fjoek :=
  let w := fun j => m.reg (THIM_KDATA j)
  let rights := bitsOf (w 0) 23 16
  let slate := m.slate (bitsOf (w 1) 25 16)
  let len := w 4 + 2 ^ 32 * w 5
  let soff := w 6 + 2 ^ 32 * (w 7 % 8)
  if m.keyState x ≠ 1 then m.keyCode 1
  else if len = 0 ∨ 2 ^ 35 < len then m.keyCode 2
  else if slate.state = 0 ∨ 4096 * slate.pages < soff + len then m.keyCode 3
  else if ((bitOf rights 3 || bitOf rights 4) && !bitOf rights 1) || w 0 / 2 ^ 24 != 0 || bitsOf (w 1) 31 26 != 0 ||
      bitsOf (w 7) 7 3 != 0 then m.keyCode 4
  else
    let b := bytesOf 1 0 ++ bytesOf 1 (m.keyTag x) ++ bytesOf 1 rights ++ bytesOf 1 0 ++ bytesOf 4 (w 1) ++
      bytesOf 4 (w 2) ++ bytesOf 4 (w 3) ++ bytesOf 8 len ++ bytesOf 8 soff
    let key := m.keyTag x * 2 ^ 24 + x
    (((m.keyRewrite x b).setKeyState x 2).setReg THIM_KRES key).keyCode 0

/-- REVOKE of the key in THIM_KDATA[0]. -/
def Fjoek.keyRevoke (m : Fjoek) : Fjoek :=
  let k := m.reg (THIM_KDATA 0)
  let x := k % 2 ^ 24
  if 1048576 ≤ x ∨ k / 2 ^ 24 = 0 ∨ m.keyState x ≠ 2 ∨ m.keyTag x ≠ k / 2 ^ 24 then m.keyCode 1
  else (m.revoke x).keyCode 0

/-- READ: the entry as it stands. -/
def Fjoek.keyRead (m : Fjoek) (x : Nat) : Fjoek :=
  (m.each (List.range 8) fun j m => m.setReg (THIM_KDATA j) (m.keyNat x (4 * j) 4)).keyCode 0

/-- RELEASE: an ALLOC entry is FREE again, its tag kept. -/
def Fjoek.keyRelease (m : Fjoek) (x : Nat) : Fjoek :=
  if m.keyState x ≠ 1 then m.keyCode 1
  else ((m.setKeyState x 0).put THIM_KUSED_n (m.get THIM_KUSED_n - 1)).keyCode 0

/-- KEY_ALLOC. -/
def execKeyAlloc (s : State) := s.on fun m =>
  let (v, m) := m.keyAlloc
  m.send (.read THIM_KALLOC v)

/-- A write of THIM_KCMD; ignored while a command runs (R308). -/
def Fjoek.keyCommand (m : Fjoek) (op x : Nat) : Fjoek :=
  if m.isOn THIM_KSTAT_busy then m
  else match op with
    | 1 => m.keyRegister x
    | 2 => m.keyRevoke
    | 3 => m.keyRead x
    | 4 => m.keyRelease x
    | _ => m

/-- KEY_REGISTER. -/
def execKeyRegister (x : BitVec 20) (s : State) := s.on fun m => m.keyCommand 1 x.toNat
/-- KEY_REVOKE. -/
def execKeyRevoke (s : State) := s.on fun m => m.keyCommand 2 0
/-- KEY_READ. -/
def execKeyRead (x : BitVec 20) (s : State) := s.on fun m => m.keyCommand 3 x.toNat
/-- KEY_RELEASE. -/
def execKeyRelease (x : BitVec 20) (s : State) := s.on fun m => m.keyCommand 4 x.toNat

/-- A read of THIM_KREV pops the oldest completed revocation and clears `lost` (R328). -/
def Fjoek.revPop (m : Fjoek) : Nat × Fjoek :=
  let lost := 2 ^ 30 * m.get THIM_KREV_lost
  let m := m.put THIM_KREV_lost 0
  match m.thim.revLog with
  | [] => (lost, m)
  | x :: r => (2 ^ 31 + lost + x, m.setThim { m.thim with revLog := r })

/-- REVOCATION_LOG_POP. -/
def execRevocationLogPop (s : State) := s.on fun m =>
  let (v, m) := m.revPop
  m.send (.read THIM_KREV v)

/-! ## The check (R310) -/

/-- What an access needs of the check. -/
structure SlateAsk where
  qpn : Nat
  pd : Nat
  key : Nat
  va : Nat
  len : Nat
  /-- The right, by its bit of R306. -/
  right : Nat
  aligned : Bool
  /-- The whole range of the key is meant (R320). -/
  whole : Bool
  deriving DecidableEq, Repr

/-- Base of the key's virtual addresses. -/
def Fjoek.keyBase (m : Fjoek) (x : Nat) : Nat := if m.keyRight x 7 then 0 else m.keyNat x 8 8

/-- The code of the first check that fails in orders 1 to 8; 0 when the access passes. -/
def Fjoek.keyCheck (m : Fjoek) (q : SlateAsk) : Nat :=
  let x := q.key % 2 ^ 24
  let b := m.keyBase x
  if 1048576 ≤ x ∨ q.key / 2 ^ 24 = 0 then 1
  else if m.thim.bad.contains x then 7
  else if !m.isOn THIM_CTL_en ∨ m.keyState x ≠ 2 ∨ m.keyTag x ≠ q.key / 2 ^ 24 then 1
  else if m.keyNat x 4 2 ≠ q.pd then 2
  else if !m.keyRight x q.right then 3
  else if !q.whole ∧ (q.va < b ∨ b + m.keyNat x 0x10 8 < q.va + q.len) then 4
  else if q.aligned ∧ q.va % 8 ≠ 0 then 5
  else if (m.slate (m.keyNat x 6 2 % 1024)).state ≠ 2 then 6
  else 0

/-- A check is made and counted; a refusal is recorded, and one that ends the queue pair raises event 256. -/
def Fjoek.thimble (m : Fjoek) (q : SlateAsk) : Nat × Fjoek :=
  let c := m.keyCheck q
  let m := (m.count THIM_CHECKS_LO 1).happen 0x106 1
  if c = 0 then (0, m)
  else
    let m := (m.setReg THIM_LASTREF_LO q.key).setReg THIM_LASTREF_HI (c * 2 ^ 28 + q.qpn % 2 ^ 24)
    (c, if c = 6 then m else (m.count THIM_REFUSED_LO 1).cause THIM_STAT_ref 256)

/-- The access has passed: it counts in the entry and starts. The answer is its number. -/
def Fjoek.slateStart (m : Fjoek) (q : SlateAsk) (ctx psn : Nat) (op : SlateOp) (data : List Byte) : Nat × Fjoek :=
  let x := q.key % 2 ^ 24
  let m := m.useKey x
  let n := m.keyNat x 6 2 % 1024
  let off := m.keyNat x 0x18 8 % 2 ^ 35 + (q.va - m.keyBase x)
  let a : SlateAcc := { id := m.thim.nextAcc, ctx := ctx, key := x, slate := n, op := op, addr := (m.slate n).hbase + off
                        off := off, len := q.len, psn := psn, data := data }
  (a.id, m.setThim { m.thim with accs := m.thim.accs ++ [a], nextAcc := a.id + 1 })

/-- The dirty bits of the pages that a write touched (R318). -/
def Fjoek.markDirty (m : Fjoek) (a : SlateAcc) : Fjoek :=
  let d := (m.slate a.slate).dbase
  let n := if a.len = 0 then 0 else (a.off + a.len - 1) / 4096 - a.off / 4096 + 1
  m.each (List.range n) fun i m =>
    let g := a.off / 4096 + i
    m.hbmWriteNat (d + g / 8) 1 (m.hbmNat (d + g / 8) 1 ||| 2 ^ (g % 8))

/-- Slate writes are mirrored now (R323), or counted as unmirrored (R324). -/
def Fjoek.mirrors (m : Fjoek) (n : Nat) : Bool := m.isOn TOP_STRAP_twin && bitOf (m.slate n).flags 0 && m.leads

/-- R22 and R324 speak of slate writes and name no flag: only pages of a slate whose mirror flag is 1 count, since no other is mirrored
(DESIGN CHOICE, assumption 106). -/
def Fjoek.unmirrored (m : Fjoek) (a : SlateAcc) : Fjoek :=
  if m.isOn TOP_STRAP_twin && bitOf (m.slate a.slate).flags 0 && m.isOn TWIN_STAT_solo then
    let n := if a.len = 0 then 0 else (a.off + a.len - 1) / 4096 - a.off / 4096 + 1
    (m.count THIM_UNMIRPG_LO n).cause THIM_STAT_unmir 259
  else m

/-- The copy sent to the trailing twin: HBM address and bytes (R323). -/
def Fjoek.sendCopy (m : Fjoek) (a : SlateAcc) (b : List Byte) : Fjoek :=
  if m.mirrors a.slate then
    (m.send (.twinMsg 0x0D (a.id :: a.addr :: b.map BitVec.toNat))).count TWIN_MIRBYTES_LO b.length
  else m

/-! ## Slate descriptors (R317) -/

/-- Reload one cached slate descriptor. -/
def Fjoek.slateReload (m : Fjoek) (n : Nat) : Fjoek :=
  let a := m.get THIM_SLBASE_base * 2 ^ 20 + 64 * n
  let d : SlateDesc := { state := m.hbmNat a 1, flags := m.hbmNat (a + 1) 1, pages := m.hbmNat (a + 4) 4
                         hbase := m.hbmNat (a + 8) 8, dbase := m.hbmNat (a + 16) 8 }
  m.setThim { m.thim with slates := tableSet (fun _ => ⟨0, 0, 0, 0, 0⟩) m.thim.slates n d }

/-- SLATE_DESCRIPTOR_RELOAD. -/
def execSlateDescriptorReload (n : BitVec 10) (s : State) := s.on fun m => m.slateReload n.toNat

/-- The library changes a descriptor's state in HBM and has Thimble reload it. -/
def Fjoek.slateSet (m : Fjoek) (n : Nat) (d : SlateDesc) : Fjoek :=
  let a := m.get THIM_SLBASE_base * 2 ^ 20 + 64 * n
  (m.hbmWrite a (bytesOf 1 d.state ++ bytesOf 1 d.flags ++ bytesOf 2 0 ++ bytesOf 4 d.pages ++ bytesOf 8 d.hbase ++
    bytesOf 8 d.dbase ++ List.replicate 40 0)).slateReload n

/-! ## Flush records (R321, R322) -/

def Fjoek.flushRingFull (m : Fjoek) : Bool := (m.get THIM_FLPI_pi + 2048 - m.get THIM_FLCI_ci) % 2048 == 1024

/-- Write a flush record: its id. -/
def Fjoek.flushRecord (m : Fjoek) (ctx qpn key slate start len : Nat) : Nat × Fjoek :=
  let id := m.thim.flushSeq % 2 ^ 32
  let pi := m.get THIM_FLPI_pi
  let empty := pi = m.get THIM_FLCI_ci
  let a := m.get THIM_FLBASE_base * 2 ^ 20 + 32 * (pi % 1024)
  let m := m.hbmWrite a (bytesOf 4 id ++ bytesOf 4 qpn ++ bytesOf 4 key ++ bytesOf 4 slate ++ bytesOf 8 start ++ bytesOf 8 len)
  let m := m.put THIM_FLPI_pi (pi + 1)
  let m := m.setThim { m.thim with
    flushes := m.thim.flushes ++ [⟨id, ctx, key % 2 ^ 24⟩]
    flushSeq := m.thim.flushSeq + 1 }
  let m := m.count THIM_FLUSHES_LO 1
  (id, m.when empty fun m =>
    (m.postTag (m.get THIM_FLCFG_engine) (m.get THIM_FLCFG_tag)).cause THIM_STAT_flreq 258)

/-! ## Sealed keys (R325) -/

def Fjoek.sealKey (m : Fjoek) (qpn : Nat) : Option (Nat × Nat) :=
  (m.thim.sealKeys.find? fun e => e.1 == qpn).map (·.2)

def Fjoek.setSealKeys (m : Fjoek) (l : List (Nat × Nat × Nat)) : Fjoek :=
  (m.setThim { m.thim with sealKeys := l }).put THIM_SKSTAT_held l.length

/-- A write of THIM_SKCTL: a load clears the data registers; a load with 1,024 keys held is refused. -/
def Fjoek.sealCommand (m : Fjoek) (load erase : Bool) (qpn : Nat) : Fjoek :=
  let rest := m.thim.sealKeys.filter fun e => e.1 != qpn
  if load then
    let key := (List.range 8).foldl (fun v i => v + tableGet (fun _ => 0) m.thim.skdata i * 2 ^ (32 * i)) 0
    let salt := tableGet (fun _ => 0) m.thim.skdata 8
    let m := m.setThim { m.thim with skdata := [] }
    if 1024 ≤ rest.length then m.put THIM_SKSTAT_full 1
    else (m.setSealKeys (rest ++ [(qpn, key, salt)])).put THIM_SKSTAT_full 0
  else if erase then m.setSealKeys rest
  else m

/-- SEALED_KEY_LOAD. -/
def execSealedKeyLoad (qpn : BitVec 24) (s : State) := s.on fun m => m.sealCommand true false qpn.toNat
/-- SEALED_KEY_ERASE. -/
def execSealedKeyErase (qpn : BitVec 24) (s : State) := s.on fun m => m.sealCommand false true qpn.toNat

/-- A Block reset of THIM cancels a command in progress and clears the Block fields (R328). -/
def Fjoek.thimReset (m : Fjoek) : Fjoek :=
  (m.each (List.range 8) fun j m => m.setReg (THIM_KDATA j) 0).setReg THIM_STAT 0

end Sys2Proof.Machine
end

