-- ==== Sys2Proof/Machine/Contexts.lean ====
section
/-! DEFINITION. Queue pair contexts: their words, the on-die cache, allocation, the event and CM rings, transmission and the
error state (R274 to R278, R287 to R291, R296 to R300). -/

namespace Sys2Proof.Machine

/-! ## IBTA operation codes of the reliable connected service (PRESUMED; assumption 19) -/

def opAck : Nat := 0x11
def opAtomicAck : Nat := 0x12
def opRead : Nat := 0x0C
def opCnp : Nat := 0x81
def opCm : Nat := 0x64

/-- AETH syndromes: an acknowledgement, an RNR NAK with its timer code, a NAK with its code. -/
def synAck : Nat := 0x1F
def synRnr (t : Nat) : Nat := 0x20 + t
def synNak (c : Nat) : Nat := 0x60 + c
def nakSequence : Nat := 0
def nakInvalidReq : Nat := 1
def nakAccessErr : Nat := 2

/-! ## Private state -/

def qpReset (_ : Nat) : Qp :=
  { reuse := 0, alloc := false, cause := 0, held := [], msg := none, spray := [], nak := none, unacked := 0, ackDue := false
    ackSent := none, owed := [], due := [], saved := [], tx := [], txMsn := 0, retries := 0, rnrs := 0, rnrFrom := none, bucket := 0
    bucketAt := 0, blocked := false, cnpAt := none, rtt := none, rttAt := none, wrapTx := 0, wrapRx := 0, lastRx := 0 }

def Fjoek.qp (m : Fjoek) (n : Nat) : Qp := tableGet qpReset m.xport.qps n

def Fjoek.setXport (m : Fjoek) (x : Xport) : Fjoek := { m with xport := x }

def Fjoek.setQp (m : Fjoek) (n : Nat) (q : Qp) : Fjoek :=
  m.setXport { m.xport with qps := tableSet qpReset m.xport.qps n q }

/-! ## Context words (R277): the cached copy where there is one, else HBM -/

def Fjoek.ctxAddr (m : Fjoek) (n : Nat) : Nat := m.get XPORT_CTXBASE_base * 2 ^ 20 + 512 * n

def Fjoek.ctxW (m : Fjoek) (n w : Nat) : Nat :=
  if m.xport.cached.contains n then (tableGet (fun _ => 0) m.xport.lines (64 * n + w)).toNat
  else m.hbmNat (m.ctxAddr n + 8 * w) 8

def Fjoek.setCtxW (m : Fjoek) (n w v : Nat) : Fjoek :=
  if m.xport.cached.contains n then
    m.setXport { m.xport with lines := tableSet (fun _ => 0) m.xport.lines (64 * n + w) (BitVec.ofNat 64 v) }
  else m.hbmWriteNat (m.ctxAddr n + 8 * w) 8 v

def Fjoek.ctxF (m : Fjoek) (n w hi lo : Nat) : Nat := bitsOf (m.ctxW n w) hi lo

def Fjoek.setCtxF (m : Fjoek) (n w hi lo v : Nat) : Fjoek := m.setCtxW n w (withBits (m.ctxW n w) hi lo v)

def Fjoek.qpState (m : Fjoek) (n : Nat) : Nat := m.ctxF n 0 2 0
def Fjoek.qpClass (m : Fjoek) (n : Nat) : Nat := m.ctxF n 0 10 8
def Fjoek.remoteQpn (m : Fjoek) (n : Nat) : Nat := m.ctxF n 0 47 24
def Fjoek.qpPd (m : Fjoek) (n : Nat) : Nat := m.ctxF n 0 63 48
def Fjoek.qpn (m : Fjoek) (n : Nat) : Nat := m.ctxF n 1 23 0
def Fjoek.qpCluster (m : Fjoek) (n : Nat) : Nat := m.ctxF n 1 27 24
def Fjoek.sendPsn (m : Fjoek) (n : Nat) : Nat := m.ctxF n 8 23 0
def Fjoek.ackedPsn (m : Fjoek) (n : Nat) : Nat := m.ctxF n 8 47 24
def Fjoek.expPsn (m : Fjoek) (n : Nat) : Nat := m.ctxF n 9 23 0
def Fjoek.msn (m : Fjoek) (n : Nat) : Nat := m.ctxF n 9 47 24
/-- The path MTU in bytes: codes 3, 4 and 5. -/
def Fjoek.pmtu (m : Fjoek) (n : Nat) : Nat := 128 * 2 ^ m.ctxF n 0 7 5
def Fjoek.isSealed (m : Fjoek) (n : Nat) : Bool := m.ctxF n 0 4 4 == 1
/-- The queue pair runs in spray mode (R292, R325). -/
def Fjoek.isSpray (m : Fjoek) (n : Nat) : Bool := m.ctxF n 0 3 3 == 1 && m.isOn XPORT_CTL_spray && !m.isSealed n
/-- The messages in flight that an offer or acceptance of spray mode names: none where its content is any other than R292 gives. -/
def spraySaid (b : List Byte) : Option Nat :=
  let v := b.map BitVec.toNat
  let n := nth v 5 0
  if v.take 5 = [0x59, 0x53, 0x50, 0x52, 1] ∧ 1 ≤ n ∧ n ≤ 8 ∧ v.drop 6 = [0, 0] then some n else none

/-- The message count in force: the lower of the peer's and the 8 that program library 1.0 offers. The library sets the spray bit only where
both are valid (assumption 20). -/
def Fjoek.sprayLimit (m : Fjoek) (n : Nat) : Nat := Nat.min 8 ((spraySaid (Config.sprayOffer (m.qpn n))).getD 1)

/-- p − e modulo 2^24. -/
def psnDist (p e : Nat) : Nat := (p + 2 ^ 24 - e % 2 ^ 24) % 2 ^ 24

/-! ## The cache (R278) -/

/-- A context that is not evicted. -/
def Fjoek.ctxPinned (m : Fjoek) (n : Nat) : Bool :=
  let q := m.qp n
  q.held != [] || q.spray != [] || q.tx != [] ||
    m.seam.strands.any fun e => e.2.accs.any fun a =>
      (a.kind == .qld || a.kind == .qst || a.kind == .qcas || a.kind == .qrate) && a.addr == n

/-- The context becomes the one used last. -/
def Fjoek.ctxTouch (m : Fjoek) (n : Nat) : Fjoek :=
  m.setXport { m.xport with cached := m.xport.cached.filter (· != n) ++ [n] }

/-- Write a context back and drop it from the cache. -/
def Fjoek.ctxEvict (m : Fjoek) (n : Nat) : Fjoek :=
  let b := ((List.range 64).map fun w => bytesOf 8 (m.ctxW n w)).flatten
  let m := m.hbmWrite (m.ctxAddr n) b
  m.setXport { m.xport with
    cached := m.xport.cached.filter (· != n)
    lines := m.xport.lines.filter fun e => e.1 / 64 != n }

/-- The load of a context begins. -/
def Fjoek.ctxBegin (m : Fjoek) (n : Nat) : Fjoek :=
  let m := m.setXport { m.xport with loading := m.xport.loading ++ [n], refused := m.xport.refused.filter (· != n) }
  (m.count XPORT_CMISS_LO 1).happen 0x105 1

/-- The load of a context cannot begin: the start of the wait is counted once. -/
def Fjoek.ctxRefuse (m : Fjoek) (n : Nat) : Fjoek :=
  if m.xport.refused.contains n then m
  else ((m.setXport { m.xport with refused := m.xport.refused ++ [n] }).count XPORT_CFULL_LO 1).cause XPORT_STAT_cfull 228

/-- Start loading a context. In a full cache the least recently used of the unpinned contexts makes room; with every cached context pinned the
load cannot begin. -/
def Fjoek.ctxLoad (m : Fjoek) (n : Nat) : Fjoek :=
  if m.xport.cached.contains n ∨ m.xport.loading.contains n then m
  else if m.xport.cached.length + m.xport.loading.length < 8192 then m.ctxBegin n
  else match m.xport.cached.find? fun y => !m.ctxPinned y with
    | some y => (m.ctxEvict y).ctxBegin n
    | none => m.ctxRefuse n

/-- A load ends: the answer says whether the HBM copy was uncorrectable. -/
def Fjoek.ctxFill (m : Fjoek) (n : Nat) : Bool × Fjoek :=
  let (bad, m) := m.hbmDetect none (m.ctxAddr n) 512
  let w := (List.range 64).map fun w => m.hbmNat (m.ctxAddr n + 8 * w) 8
  let lines := (w.zipIdx).foldl (fun t p => tableSet (fun _ => 0) t (64 * n + p.2) (BitVec.ofNat 64 p.1)) m.xport.lines
  (bad, m.setXport { m.xport with
    lines := lines
    cached := m.xport.cached ++ [n]
    loading := m.xport.loading.filter (· != n) })

/-- The context is in the cache, or its load starts. -/
def Fjoek.ctxReady (m : Fjoek) (n : Nat) : Bool × Fjoek :=
  if m.xport.cached.contains n then (true, m.ctxTouch n) else (false, m.ctxLoad n)

/-! ## Packets out (R284, R298, R299) -/

/-- The payload print of R366 over bytes that both twins hold in full, from offset `o` of a block. -/
def Fjoek.bytesPrint (m : Fjoek) (o : Nat) (b : List Byte) : Nat :=
  if b = [] ∨ !(m.leads ∨ m.trailing) then 0
  else
    let l := List.replicate (o % 4096) 0 ++ b.map BitVec.toNat
    (List.range (ceilDiv l.length 4096)).foldl (fun f j => f ^^^ fprint m.mngl.fpz ((l.drop (4096 * j)).take 4096)) 0

/-- What the Ethernet, IP and UDP headers before a transport packet say: next hop, VLAN (0xFFF untagged) and class, addresses of 16 bytes,
DSCP, ECN and UDP source port (R273, R277). -/
structure NetPath where
  hop : Bytes
  vlan : Nat
  pcp : Nat
  src : Bytes
  dst : Bytes
  dscp : Nat
  ecn : Nat
  sport : Nat
  deriving DecidableEq, Repr

/-- An IPv4 address in the form of an IPv6 one. -/
def ip4Mapped (a : Bytes) : Bool := a.take 12 == List.replicate 10 0 ++ [0xFF, 0xFF]

/-- The headers before `len` bytes of UDP payload. The MAC sets the source address as the frame leaves (R223). What R277 does not give follows
the protocols themselves (assumption 92, PRESUMED). -/
def NetPath.headers (p : NetPath) (len : Nat) : Bytes :=
  let tag := if p.vlan = 0xFFF then [] else [0x81, 0] ++ bytesBe 2 (p.pcp * 8192 + p.vlan)
  let udp := bytesBe 2 p.sport ++ bytesBe 2 4791 ++ bytesBe 2 (8 + len) ++ [0, 0]
  let tc := 4 * p.dscp + p.ecn
  p.hop ++ List.replicate 6 0 ++ tag ++
    if ip4Mapped p.src && ip4Mapped p.dst then
      [8, 0, 0x45, tc] ++ bytesBe 2 (28 + len) ++ [0, 0, 0x40, 0, 64, 17, 0, 0] ++ p.src.drop 12 ++ p.dst.drop 12 ++ udp
    else [0x86, 0xDD, 0x60 + tc / 16, tc % 16 * 16, 0, 0] ++ bytesBe 2 (8 + len) ++ [17, 64] ++ p.src ++ p.dst ++ udp

/-- The base transport header. -/
def bth (op pkey dest psn pad : Nat) (ack : Bool) : Bytes :=
  [op, 16 * pad] ++ bytesBe 2 pkey ++ [0] ++ bytesBe 3 dest ++ [128 * bnat ack] ++ bytesBe 3 psn

/-- The invariant CRC of a frame given without it: fields that change on the way count as ones. -/
def icrc (b : Bytes) : Nat :=
  let o := l3At b
  let l4 := l4At b
  let ones := fun (l : List Nat) (b : Bytes) => l.foldl (fun b i => putBytes b i [0xFF]) b
  let b := ones [l4 + 6, l4 + 7, l4 + 12] (if isIp4 b then ones [o + 1, o + 8, o + 10, o + 11] b
    else ones [o + 1, o + 2, o + 3, o + 7] (putBytes b o [nth b o 0 ||| 0x0F]))
  (List.replicate 8 0xFF ++ b.drop o).foldl (crcByte 0xEDB88320) 0xFFFFFFFF ^^^ 0xFFFFFFFF

/-- The frame of a transport packet, without FCS: its headers, payload with pad and tag, and ICRC. -/
def roceFrame (p : NetPath) (hdr payload : Bytes) : Bytes :=
  let f := fixSum (p.headers (hdr.length + payload.length + 4) ++ hdr ++ payload)
  f ++ (bytesOf 4 (icrc f)).map BitVec.toNat

/-- Words `w` and `w` + 1 of a context as the 16 bytes of an address. -/
def Fjoek.ctxIp (m : Fjoek) (n w : Nat) : Bytes := (bytesOf 8 (m.ctxW n w) ++ bytesOf 8 (m.ctxW n (w + 1))).map BitVec.toNat

/-- The path of context `n`'s packets (R277). -/
def Fjoek.ctxPath (m : Fjoek) (n cls ecn : Nat) : NetPath :=
  { hop := (bytesOf 6 (m.ctxW n 7)).map BitVec.toNat, vlan := m.ctxF n 7 59 48, pcp := cls, src := m.ctxIp n 4, dst := m.ctxIp n 2
    dscp := m.ctxF n 6 37 32, ecn := ecn, sport := m.ctxF n 6 15 0 }

/-- The transport hands a frame to the switch core on XTX0 or XTX1, by cluster (R231, R256; assumption 92). -/
def Fjoek.transmit (m : Fjoek) (g cls : Nat) (f : Bytes) : Fjoek :=
  ((m.count XPORT_TXPKT_LO 1).happen 0x104 1).storeFrame (if g < 8 then 34 else 35) cls false (f.map (BitVec.ofNat 8))

/-- PSN wraps since RTS as PSN `p` counts, when `base` stands `n` wraps on. -/
def wrapsAt (n base p : Nat) : Nat :=
  if psnDist p base < 2 ^ 23 then n + (base + psnDist p base) / 2 ^ 24 else n - bnat (decide (base < p))

/-- The 12-byte nonce of a sealed packet (R326): `sent` says that the module sends it, and `answer` that it answers a request of its sender's
peer, whose PSNs it carries. -/
def Fjoek.nonce (m : Fjoek) (n salt psn : Nat) (sent answer : Bool) : Bytes :=
  let q := m.qp n
  let w := if sent = answer then wrapsAt q.wrapRx (m.expPsn n) psn else wrapsAt q.wrapTx (m.sendPsn n) psn
  bytesBe 4 salt ++ bytesBe 4 (2 ^ 31 * bnat sent + w % 2 ^ 31) ++ [0] ++ bytesBe 3 psn

/-- A response or acknowledgement, by its operation code. -/
def opAnswers (op : Nat) : Bool := decide (0x0D ≤ op ∧ op ≤ 0x12)

/-- What follows the headers of a packet: its payload, or under a sealed queue pair's key the ciphertext and its tag; then the pad. -/
def Fjoek.sealPayload (m : Fjoek) (n op psn : Nat) (hdr d : Bytes) : Bytes :=
  let pad := List.replicate ((4 - d.length % 4) % 4) 0
  match if m.isSealed n then m.sealKey (m.qpn n) else none with
  | none => d ++ pad
  | some (key, salt) =>
    let k := (bytesOf 32 key).map BitVec.toNat
    let iv := m.nonce n salt psn true (opAnswers op)
    let c := gcmCrypt k iv d
    c ++ gcmTag k iv hdr c ++ pad

/-- Send a packet with its extended headers `ext`; `own` are the strand and the place of a payload that a descriptor sends. Its item, the bytes
up to the end of the transport headers, enters the digest at the hand-off to the switch core (R366). A sealed queue pair without a key sends
nothing, and the packet counts as dropped (R325). -/
def Fjoek.sendPacket (m : Fjoek) (n op psn : Nat) (ack : Bool) (ext : Bytes) (off : Nat) (data : List Byte)
    (own : Option (Nat × Place) := none) : Fjoek :=
  if m.isSealed n ∧ (m.sealKey (m.qpn n)).isNone then (m.count THIM_SEALDROP_LO 1).cause THIM_STAT_seal_err 260
  else
    let d := data.map BitVec.toNat
    let c := m.qpClass n
    let hdr := bth op (m.ctxF n 6 31 16) (m.remoteQpn n) psn ((4 - d.length % 4) % 4) ack ++ ext
    let payload := m.sealPayload n op psn hdr d
    let f := roceFrame (m.ctxPath n c 2) hdr payload
    let item := 1 :: c :: f.take (f.length - payload.length - 4)
    let m := match own with
      | some o => m.digestPayload item o.1 o.2 data.length
      | none => m.digestItem (item ++ (bytesOf 8 (m.bytesPrint off data)).map BitVec.toNat)
    m.transmit (m.qpCluster n) c f

/-- The ACK extended transport header. -/
def aeth (syndrome msn : Nat) : Bytes := syndrome :: bytesBe 3 msn

/-- The placement extension of R293. -/
def placement (count index msn : Nat) : Bytes := bytesBe 8 (2 ^ 60 + count * 2 ^ 48 + index * 2 ^ 38 + msn % 2 ^ 24)

/-- Bytes of a data packet's frame, preamble and gap excluded (R299). -/
def Fjoek.frameLen (m : Fjoek) (n ext len : Nat) : Nat :=
  let v4 := m.ctxF n 2 63 0 == 0 && m.ctxF n 3 31 0 == 0xFFFF0000
  14 + (if m.ctxF n 7 59 48 = 0xFFF then 0 else 4) + (if v4 then 20 else 40) + 8 + 12 + ext + ceilDiv len 4 * 4 + 8 +
    (if m.isSpray n then 8 else 0) + (if m.isSealed n then 16 else 0)

/-- The bucket's depth in bytes. -/
def Fjoek.shaperDepth (m : Fjoek) (n : Nat) : Nat := 1024 * Nat.max 1 (m.ctxF n 10 39 32)

/-- The bucket's level now, in 1/8,000 of a byte: it refills at the rate of Mbit/s, up to its depth (R299). -/
def Fjoek.shaperLevel (m : Fjoek) (n : Nat) : Nat :=
  let q := m.qp n
  Nat.min (8000 * m.shaperDepth n) (q.bucket + m.ctxF n 10 23 0 * (m.time - q.bucketAt))

/-- The shaper lets a data packet of `len` bytes start, and pays for it (R299). On a trailing twin, which transmits nothing, no packet waits
(R302; assumption 46). -/
def Fjoek.shape (m : Fjoek) (n len : Nat) : Bool × Fjoek :=
  let q := m.qp n
  let l := m.shaperLevel n
  if m.ctxF n 10 23 0 = 0 ∨ m.trailing then (true, m.setQp n { q with blocked := false })
  else if 8000 * len ≤ l then (true, m.setQp n { q with bucket := l - 8000 * len, bucketAt := m.time, blocked := false })
  else (false, m.setQp n { q with bucket := l, bucketAt := m.time, blocked := true })

/-- A new rate register value: the bucket keeps its level, cut at the new depth. -/
def Fjoek.setRate (m : Fjoek) (n v : Nat) : Fjoek :=
  let l := m.shaperLevel n
  let m := m.setCtxW n 10 v
  m.setQp n { m.qp n with bucket := Nat.min l (8000 * m.shaperDepth n), bucketAt := m.time }

/-! ## Congestion events (R296 to R298) -/

/-- Write an event record of cluster `g`. -/
def Fjoek.ccPut (m : Fjoek) (kind n value pi : Nat) (full : Bool) : Fjoek :=
  let g := m.qpCluster n
  let ci := m.get (XPORT_CCCI_ci g)
  if full then (m.count XPORT_CCDROP_LO 1).cause XPORT_STAT_ccdrop 224
  else
    let a := m.get XPORT_CCBASE_base * 2 ^ 20 + 0x4000 * g + 16 * (pi % 1024)
    let m := m.hbmWrite a (bytesOf 4 kind ++ bytesOf 4 (m.qpn n) ++ bytesOf 4 value ++ bytesOf 4 m.time)
    let m := m.put (XPORT_CCPI_pi g) (pi + 1)
    let armed := tableGet (fun _ => false) m.xport.ccArmed g
    let m := m.setXport { m.xport with ccArmed := tableSet (fun _ => false) m.xport.ccArmed g false }
    if pi = ci ∨ armed then m.postTag (4 * g) (m.get XPORT_CCCFG_tag) else m

/-- A congestion event of context `n`. A trailing twin writes the records that the lead logged, at the lead's ring indexes and with its
round-trip samples (R302). How the VALUE record spells them is the model's choice (assumption 50): kind in bits 2:0, context in bits 18:3, a full
ring in bit 19, the index in bits 30:20, the value from bit 32 up. -/
def Fjoek.ccEvent (m : Fjoek) (kind n value : Nat) : Fjoek :=
  if m.trailing then m
  else
    let g := m.qpCluster n
    let pi := m.get (XPORT_CCPI_pi g)
    let full := (pi + 2048 - m.get (XPORT_CCCI_ci g)) % 2048 == 1024
    (m.logTwin 0x08 0x80 [0, 0, kind % 8 + 8 * (n % 65536) + 2 ^ 19 * bnat full + 2 ^ 20 * (pi % 2048) + 2 ^ 32 * value]).ccPut kind n value pi
      full

/-- VALUE for the transport: the lead's congestion event. -/
def Fjoek.ccReplay (m : Fjoek) (v : Nat) : Fjoek := m.ccPut (v % 8) (bitsOf v 18 3) (v / 2 ^ 32) (bitsOf v 30 20) (bitOf v 19)

/-- A write of XPORT_CCCI. -/
def Fjoek.ccConsume (m : Fjoek) (g ci : Nat) : Fjoek :=
  let m := m.put (XPORT_CCCI_ci g) ci
  m.setXport { m.xport with ccArmed := tableSet (fun _ => false) m.xport.ccArmed g true }

/-- CC_RING_CONSUME. -/
def execCcRingConsume (g : Fin 16) (ci : BitVec 11) (s : State) := s.on fun m => m.ccConsume g.val ci.toNat

/-- A request packet that carries CE draws a CNP, not more often than cnpint allows (R296). -/
def Fjoek.answerCe (m : Fjoek) (n : Nat) : Fjoek :=
  let q := m.qp n
  let free := match q.cnpAt with
    | none => true
    | some t => decide (t + 1000 * m.get XPORT_CCCFG_cnpint ≤ m.time)
  if !free ∨ (m.qpState n ≠ 2 ∧ m.qpState n ≠ 3) then m
  else
    let m := (m.count XPORT_CNP_TX_LO 1).setQp n { q with cnpAt := some m.time }
    let c := m.get XPORT_CCCFG_cnpclass
    let f := roceFrame (m.ctxPath n c 0) (bth opCnp (m.ctxF n 6 31 16) (m.remoteQpn n) 0 0 false) (List.replicate 16 0)
    (m.digestItem (1 :: c :: f.take (f.length - 20) ++ List.replicate 8 0)).transmit (m.qpCluster n) c f

/-! ## Acknowledgements and NAKs (R282, R284, R289) -/

/-- How far an acknowledgement can reach, and the MSN that it carries: everything executed, short of what is still owed (R321, R323). -/
def Fjoek.ackReach (m : Fjoek) (n : Nat) : Nat × Nat :=
  match (m.qp n).owed with
  | [] => ((m.expPsn n + 2 ^ 24 - 1) % 2 ^ 24, m.msn n)
  | o :: _ => ((o.psn + 2 ^ 24 - 1) % 2 ^ 24, o.before)

/-- Send an acknowledgement as far as it can reach; one for the rest stays due. -/
def Fjoek.sendAck (m : Fjoek) (n : Nat) : Fjoek :=
  let (p, msn) := m.ackReach n
  let q := m.qp n
  let m := m.setQp n { q with unacked := 0, ackDue := q.owed != [], ackSent := some p }
  m.sendPacket n opAck p false (aeth synAck msn) 0 []

/-- An acknowledgement is due: what is owed withholds the part from there on, and one that would say nothing new waits whole. -/
def Fjoek.ackNow (m : Fjoek) (n : Nat) : Fjoek :=
  let q := m.qp n
  let p := (m.ackReach n).1
  let news : Bool := match q.ackSent with
    | none => false
    | some s => decide (psnDist p s ≠ 0 ∧ psnDist p s < 2 ^ 23)
  if q.owed = [] ∨ news then m.sendAck n else m.setQp n { q with ackDue := true }

/-- A packet was executed: acknowledge under R284. In spray mode acknowledgements follow complete messages (R294). -/
def Fjoek.ackAfter (m : Fjoek) (n : Nat) (req : Bool) : Fjoek :=
  if m.isSpray n then m else
  let q := m.qp n
  let m := m.setQp n { q with unacked := q.unacked + 1 }
  if req ∨ Nat.max 1 (m.get XPORT_ACKCFG_n) ≤ q.unacked + 1 then m.ackNow n else m

/-- A NAK other than a sequence NAK. -/
def Fjoek.sendNak (m : Fjoek) (n psn syndrome : Nat) : Fjoek := m.sendPacket n opAck psn false (aeth syndrome (m.msn n)) 0 []

/-- A sequence NAK with the expected PSN, once for each expected PSN unless renak × gap µs have passed (R282). -/
def Fjoek.seqNak (m : Fjoek) (n : Nat) : Fjoek :=
  let e := m.expPsn n
  let again := 1000 * Nat.max 1 (m.get XPORT_ROCFG_renak) * Nat.max 1 (m.get XPORT_ROCFG_gap)
  let free := match (m.qp n).nak with
    | none => true
    | some (p, t) => p != e || decide (t + again ≤ m.time)
  if free then
    ((m.count XPORT_NAKSEQ_TX_LO 1).setQp n { m.qp n with nak := some (e, m.time) }).sendNak n e (synNak nakSequence)
  else m

/-- An RNR NAK with the timer code of XPORT_RXCFG. -/
def Fjoek.sendRnr (m : Fjoek) (n psn : Nat) : Fjoek :=
  (m.count XPORT_RNR_TX_LO 1).sendNak n psn (synRnr (m.get XPORT_RXCFG_rnrtmr))

/-! ## Staging leases (R285) -/

/-- The owner number of a lease staged for cluster `g`. -/
def stagedOwner (g : Nat) : Nat := 512 + 32 * g

/-- `n` cells can be staged for cluster `g` under the non-C2 rule of R95 and the cluster's cap. -/
def Fjoek.canStage (m : Fjoek) (g n : Nat) : Bool :=
  let cap := m.get (MNGL_LCAP_cap g)
  decide (m.leasesUsed < 65536) && decide (n + m.get MNGL_LRSV_rsv ≤ m.get MNGL_LFREE_free) &&
    (cap == 0 || decide (m.clusterCells g + n ≤ cap))

/-- Stage a lease of `n` cells for cluster `g`: its table index. -/
def Fjoek.stage (m : Fjoek) (g n : Nat) : Option (Nat × Fjoek) :=
  match freeLease m (m.mngl.leases.length + 1) 0 with
  | none => none
  | some x =>
    let seq := (m.leaseAt x).seq
    let (cells, m) := m.takeCells n
    let m := m.setLease x { seq := seq, live := true, used := true, owner := stagedOwner g, cells := cells }
    let m := m.put MNGL_LFREE_free (m.get MNGL_LFREE_free - n)
    some (x, m.put MNGL_LTAB_used m.leasesUsed)

/-- Cells are added to a staged lease up to `n`, beyond the reserve where need be; false where no cell is left. -/
def Fjoek.growTo (m : Fjoek) (x n : Nat) : Bool × Fjoek :=
  let l := m.leaseAt x
  let k := n - l.cells.length
  if m.get MNGL_LFREE_free < k then (false, m)
  else
    let (cells, m) := m.takeCells k
    (true, (m.setLease x { l with cells := l.cells ++ cells }).put MNGL_LFREE_free (m.get MNGL_LFREE_free - k))

/-- Cells for `n` bytes of payload after the item header. -/
def itemCells (n : Nat) : Nat := ceilDiv (64 + n) 256

/-- The item header (R286). -/
def Fjoek.itemHeader (m : Fjoek) (kind flags len qpn imm rkey psn : Nat) : List Byte :=
  bytesOf 1 kind ++ bytesOf 1 flags ++ bytesOf 2 0 ++ bytesOf 4 len ++ bytesOf 4 qpn ++ (bytesOf 4 imm).reverse ++
    bytesOf 4 rkey ++ bytesOf 4 psn ++ bytesOf 8 m.time ++ List.replicate 32 0

/-- Cells for an item of cluster `g` beyond the reserve, for a message that has begun (R285): none where no cell is left. -/
def Fjoek.stageLate (m : Fjoek) (g n : Nat) : Option (Nat × Fjoek) := if m.get MNGL_LFREE_free < n then none else m.stage g n

/-- Items whose data is placed are dispatched in order (R286). -/
def dueLoop (n : Nat) : Nat → Fjoek → Fjoek
  | 0, m => m
  | k + 1, m =>
    match (m.qp n).due with
    | d :: r =>
      if d.waits = [] then dueLoop n k ((m.setQp n { m.qp n with due := r }).enqueue d.cluster d.lease d.kind) else m
    | [] => m

def Fjoek.dispatchDue (m : Fjoek) (n : Nat) : Fjoek := dueLoop n (m.qp n).due.length m

/-! ## The frame behind a packet (R281) -/

/-- A packet leaves its XRX queue: its copy is dequeued and its cells are given back. -/
def Fjoek.leaveXrx (m : Fjoek) (h : PktHead) : Fjoek :=
  match h.frame with
  | none => m
  | some id =>
    let p := 32 + h.xrx.val
    m.each (List.range 8) fun c m =>
      if (m.queueOf p c).any fun q => q.frame == id then
        ((m.count (SWC_DEQ_LO p) 1).dropCopy p c id).afterLeaving id
      else m

/-! ## The error state (R291) -/

/-- An N descriptor of context `n`. -/
def Desc.onQp (d : Desc) (n : Nat) : Bool := d.op == 0 && (d.dsp == 2 || d.ssp == 2) && d.w 4 % 65536 == n

/-- End N descriptors: the first carries `first`, the others 0x06. -/
def endDescs : List Nat → Nat → Fjoek → Fjoek
  | [], _, m => m
  | id :: r, c, m =>
    match m.findDesc id with
    | none => endDescs r c m
    | some d =>
      let m := m.each [0, 1, 3, 4, 5] fun k m =>
        let q := m.draws k
        let q' := q.filter fun w => w.who != .desc id
        if q = q' then m else (m.setDraws k q').serve k
      endDescs r 6 (m.completeDesc { d with code := 7, epstat := c, detail := 0, result := 0 })

/-- The packets held for all contexts (XPORT_HELD). -/
def Fjoek.heldCount (m : Fjoek) : Nat := (m.xport.qps.map fun e => e.2.held.length).sum

/-- A context enters ERROR; one already there ignores later causes. -/
def Fjoek.qpError (m : Fjoek) (n cause : Nat) : Fjoek :=
  if m.qpState n = 5 then m
  else
    let q := m.qp n
    let m := m.setCtxF n 0 2 0 5
    let m := m.each q.held fun k m => (m.count XPORT_ERRDROP_LO 1).leaveXrx k.head
    let leases := (q.msg.toList ++ q.spray.filter fun r => !r.complete).filterMap (·.lease)
    let m := m.setQp n { q with
      cause := cause, held := [], msg := none, spray := [], owed := [], ackDue := false, unacked := 0, tx := []
      rnrFrom := none, blocked := false, rtt := none }
    let m := m.each leases fun x m => m.releaseLease x
    let m := m.setThim { m.thim with flushes := m.thim.flushes.filter fun f => f.ctx != n }
    let m := m.each (q.owed.filterMap (·.key)) fun x m => m.unuseKey x
    let m := endDescs ((m.mngl.descs.filter fun d => d.onQp n && d.phase != .done).map (·.id)) cause m
    let m := match m.stage (m.qpCluster n) 1 with
      | none => m
      | some (x, m) =>
        (m.leasePut x 0 (m.itemHeader 5 0 0 (m.qpn n) 0 cause 0)).enqueue (m.qpCluster n) x 5
    (m.count XPORT_QPERR_LO 1).cause XPORT_STAT_qperr 227

/-! ## Requests (R287 to R289) -/

/-- The other end of an N descriptor in B space. -/
def Desc.place (d : Desc) : Place := if d.dsp = 2 then placeOf 0 (d.w 2) else placeOf 0 (d.w 1)

/-- The remote virtual address. -/
def Desc.rva (d : Desc) : Nat := if d.dsp = 2 then d.w 1 else d.w 2

/-- Packets that a length takes at an MTU. -/
def packets (mtu len : Nat) : Nat := Nat.max 1 (ceilDiv len mtu)

/-- The operation code of packet `i` of `k`. -/
def reqOp (verb i k : Nat) : Nat :=
  let first := i = 0
  let last := i + 1 = k
  if verb ≤ 1 then
    if first ∧ last then (if verb = 1 then 0x0B else 0x0A)
    else if first then 6 else if last then (if verb = 1 then 9 else 8) else 7
  else
    if first ∧ last then (if verb = 3 then 0x17 else 4) else if first then 0 else if last then (if verb = 3 then 0x16 else 2) else 1

def Fjoek.setReq (m : Fjoek) (n : Nat) (r : TxReq) : Fjoek :=
  m.setQp n { m.qp n with tx := (m.qp n).tx.map fun t => if t.desc = r.desc then r else t }

def Fjoek.dropReq (m : Fjoek) (n desc : Nat) : Fjoek :=
  m.setQp n { m.qp n with tx := (m.qp n).tx.filter fun t => t.desc != desc }

/-- The oldest unacknowledged PSN follows the requests. -/
def Fjoek.settlePsn (m : Fjoek) (n : Nat) : Fjoek :=
  let p := match (m.qp n).tx.find? fun t => t.psn.isSome with
    | some t => t.psn.getD 0 + t.acked
    | none => m.sendPsn n
  m.setCtxF n 8 47 24 p

/-- A request ends with a code and a result: its descriptor is at its completion point. -/
def Fjoek.endReq (m : Fjoek) (n desc code result : Nat) : Fjoek :=
  let m := m.dropReq n desc
  match m.findDesc desc with
  | none => m
  | some d => m.acted d code result

/-- The packet timed is covered as far as PSN `p`: a round-trip sample (R298). On a trailing twin the lead's value arrives in the log (R302). -/
def Fjoek.closeRtt (m : Fjoek) (n p : Nat) : Fjoek :=
  match (m.qp n).rtt with
  | some (s, t) =>
    if psnDist p s < 2 ^ 23 then
      let m := m.setQp n { m.qp n with rtt := none }
      m.ccEvent 2 n (m.time - t)
    else m
  | none => m

/-- Time a packet that asks for an acknowledgement (R298). -/
def Fjoek.sampleRtt (m : Fjoek) (n psn : Nat) : Fjoek :=
  let q := m.qp n
  let i := m.get XPORT_CCCFG_rttint
  let due := match q.rttAt with
    | none => true
    | some t => decide (t + 1000 * i ≤ m.time)
  if i = 0 ∨ q.rtt.isSome ∨ !due then m else m.setQp n { q with rtt := some (psn, m.time), rttAt := some m.time }

/-- Send the next packet of request `r`, whose descriptor is `d`: the answer says whether sending can go on. -/
def Fjoek.sendReqPacket (m : Fjoek) (n : Nat) (r : TxReq) (d : Desc) : Bool × Fjoek :=
  let mtu := m.pmtu n
  let fresh := r.psn.isNone
  let psn0 := r.psn.getD (m.sendPsn n)
  let ext := fun (c i : Nat) => if m.isSpray n then placement c i r.msn else []
  let start := fun (m : Fjoek) (r : TxReq) =>
    let m := m.setReq n r
    if fresh then
      let q := m.qp n
      let m := m.setQp n { q with wrapTx := q.wrapTx + (psn0 + r.span) / 2 ^ 24 }
      (m.setCtxF n 8 23 0 (psn0 + r.span)).settlePsn n
    else m
  if m.awaits d then (false, m)
  else if r.read then
    let psn := (psn0 + r.acked) % 2 ^ 24
    let va := d.rva + mtu * r.acked
    let m := m.sendPacket n opRead psn true (ext 0 0 ++ bytesBe 8 va ++ bytesBe 4 (d.w 4 / 2 ^ 32) ++ bytesBe 4 (d.len - mtu * r.acked)) 0 []
    (true, (start m { r with psn := some psn0, sent := r.span }).sampleRtt n psn)
  else
    let i := r.sent
    let o := mtu * i
    let len := Nat.min mtu (d.len - o)
    let (sp, m) := m.spans d.req (d.place.at o) len
    if sp ≠ [] then
      let psn := psn0 + i
      let m := if fresh then m else m.setCtxF n 8 23 0 psn
      (true, (m.endReq n d.id 4 (o + (spanCode sp).2)).settlePsn n)
    else
      let last := i + 1 = r.span
      let reth := if d.verb < 2 ∧ (i = 0 ∨ m.isSpray n) then
          bytesBe 8 (if m.isSpray n then d.rva + o else d.rva) ++ bytesBe 4 (d.w 4 / 2 ^ 32) ++ bytesBe 4 d.len else []
      let tail := if last ∧ d.verb % 2 = 1 then bytesBe 4 (d.w 6) else []
      let (go, m) := m.shape n (m.frameLen n (reth.length + tail.length) len)
      if !go then (false, m)
      else
        let psn := (psn0 + i) % 2 ^ 24
        let req := last || (i + 1) % 32 == 0
        let b := (d.place.at o).bytes m len
        let m := m.sendPacket n (reqOp d.verb i r.span) psn req (ext (r.span - 1) i ++ reth ++ tail) 0 b
          (some (d.key, d.place.at o))
        let m := start m { r with psn := some psn0, sent := i + 1 }
        (true, m.when req fun m => m.sampleRtt n psn)

/-- The next request that has something to send: requests of a queue pair leave in order, and a READ waits while the peer
serves as many as offset 0x008 allows (R287). -/
def Fjoek.nextReq (m : Fjoek) (n : Nat) : Option TxReq :=
  let q := m.qp n
  match q.tx.find? fun t => decide (t.sent < t.span) with
  | none => none
  | some t =>
    let busy := (q.tx.filter fun u => u.read && u.psn.isSome && u.sent == u.span).length
    if t.read ∧ Nat.max 1 (m.ctxF n 1 43 36) ≤ busy then none else some t

/-- Send requests as far as the state, the shaper and the limits let them go. -/
def pumpLoop (n : Nat) : Nat → Fjoek → Fjoek
  | 0, m => m
  | k + 1, m =>
    if m.qpState n ≠ 3 ∨ (m.qp n).rnrFrom.isSome ∨ !m.xport.cached.contains n then m
    else
      match m.nextReq n with
      | none => m
      | some r =>
        match m.findDesc r.desc with
        | none => pumpLoop n k (m.dropReq n r.desc)
        | some d =>
          let (go, m) := m.sendReqPacket n r d
          if go then pumpLoop n k m else m

def Fjoek.pump (m : Fjoek) (n : Nat) : Fjoek :=
  pumpLoop n (((m.qp n).tx.map fun t => t.span + 1).sum) m

/-- A MOVE with an N endpoint starts (R287). A context in ERROR flushes it (R290). -/
def Fjoek.startTransport (m : Fjoek) (d : Desc) : Fjoek :=
  let n := d.w 4 % 65536
  let m := m.setDesc { d with phase := .running }
  let (_, m) := m.ctxReady n
  if m.qpState n = 5 then m.acted { d with epstat := 6 } 7 0
  else
    let q := m.qp n
    let k := packets (m.pmtu n) d.len
    let r : TxReq := { desc := d.id, read := d.ssp == 2, psn := none, msn := q.txMsn, span := k, sent := 0, acked := 0
                       got := [] }
    (m.setQp n { q with tx := q.tx ++ [r], txMsn := (q.txMsn + 1) % 2 ^ 24 }).pump n

/-- Go back to PSN `q` (R288, R289): requests from there on are sent again; a retransmission voids the sample it covers. -/
def Fjoek.goBack (m : Fjoek) (n psn : Nat) : Fjoek :=
  let q := m.qp n
  let back := fun (t : TxReq) => match t.psn with
    | none => t
    | some p =>
      let keep := if psnDist psn p < 2 ^ 23 then psnDist psn p else 0
      if t.read then (if t.span ≤ keep then t else { t with sent := 0 }) else { t with sent := Nat.min t.sent keep }
  (m.setQp n { q with tx := q.tx.map back, rtt := none }).pump n

/-- Every request up to PSN `p` is complete; the answer says whether the PSN was outstanding. -/
def Fjoek.ackUpTo (m : Fjoek) (n p : Nat) : Bool × Fjoek :=
  let old := m.ackedPsn n
  let out := psnDist (m.sendPsn n) old
  let k := psnDist p old + 1
  if out < k then (false, m)
  else
    let m := m.closeRtt n p
    let m := m.setQp n { m.qp n with retries := 0, rnrs := 0 }
    let m := m.each ((m.qp n).tx.filter fun t => t.psn.isSome && !t.read) fun t m =>
      let got := if psnDist p (t.psn.getD 0) < 2 ^ 23 then psnDist p (t.psn.getD 0) + 1 else 0
      if t.span ≤ got then m.endReq n t.desc 0 0 else m.setReq n { t with acked := Nat.max t.acked got }
    (true, (m.settlePsn n).pump n)

end Sys2Proof.Machine
end

