-- ==== Sys2Proof/Machine/Transport.lean ====
section
/-! DEFINITION. The transport's receive side: the checks of R279, order, reorder and duplicates (R280 to R283), SEND (R285,
R286), slate requests (R310 to R312, R320 to R324), spray mode (R293 to R295), and the peer's responses (R287, R289). -/

namespace Sys2Proof.Machine

/-- What became of a packet at the head of its XRX queue. -/
inductive Fate where
  | done
  /-- It stays at the head. -/
  | waits
  deriving DecidableEq, Repr

/-! ## Responses that are owed (R283, R284, R321, R323) -/

/-- Send the response packets of a READ, as far as the shaper lets them go. -/
def readLoop (n : Nat) : Nat → Owed → Fjoek → Owed × Fjoek
  | 0, o, m => (o, m)
  | k + 1, o, m =>
    let mtu := m.pmtu n
    let all := packets mtu o.data.length
    if all ≤ o.sent then (o, m)
    else
      let b := (o.data.drop (mtu * o.sent)).take mtu
      let op := if all = 1 then 0x10 else if o.sent = 0 then 0x0D else if o.sent + 1 = all then 0x0F else 0x0E
      let head := if op = 0x0E then [] else aeth synAck o.after
      let (go, m) := m.shape n (m.frameLen n head.length b.length)
      if !go then (o, m)
      else
        let ext := if m.isSpray n then placement (all - 1) o.sent o.msn else []
        let m := m.sendPacket n op ((o.psn + o.sent) % 2 ^ 24) false (ext ++ head) (mtu * o.sent) b
        readLoop n k { o with sent := o.sent + 1 } m

/-- A response acknowledges every earlier PSN (R284), so in spray mode it waits for the messages before it (R294). -/
def Fjoek.owedEarly (m : Fjoek) (n : Nat) (o : Owed) : Bool := m.isSpray n && decide (psnDist o.psn (m.expPsn n) < 2 ^ 23)

/-- What was owed has left: it and every earlier PSN are acknowledged. -/
def Fjoek.owedLeft (m : Fjoek) (n : Nat) (r : List Owed) (last : Nat) : Fjoek :=
  m.setQp n { m.qp n with owed := r, unacked := 0, ackSent := some (last % 2 ^ 24) }

/-- What is owed leaves in PSN order. A FLUSH is acknowledged as its turn comes, and its use count falls then (R311, R321); so is what an
acknowledged copy had withheld (R323). -/
def owedLoop (n : Nat) : Nat → Fjoek → Fjoek
  | 0, m => m
  | k + 1, m =>
    match (m.qp n).owed with
    | [] => if (m.qp n).ackDue then m.sendAck n else m
    | o :: r =>
      if o.waits ≠ [] ∨ m.owedEarly n o then m
      else if o.kind = 1 then
        let all := packets (m.pmtu n) o.data.length
        let (o, m) := readLoop n all o m
        if all ≤ o.sent then owedLoop n k (m.owedLeft n r (o.psn + all - 1))
        else m.setQp n { m.qp n with owed := o :: r }
      else if o.kind = 2 then
        let m := m.sendPacket n opAtomicAck o.psn false (aeth synAck o.after ++ o.data.map BitVec.toNat) 0 []
        owedLoop n k (m.owedLeft n r o.psn)
      else
        let m := m.setQp n { m.qp n with owed := r }
        owedLoop n k (match o.key with
          | some x => (m.sendAck n).unuseKey x
          | none => if (m.qp n).ackDue then m.sendAck n else m)

def Fjoek.settleOwed (m : Fjoek) (n : Nat) : Fjoek := owedLoop n ((m.qp n).owed.length + 1) m

/-- A response or acknowledgement is owed. In spray mode requests are executed in any order, and what they are owed stands in PSN order. -/
def Fjoek.owe (m : Fjoek) (n : Nat) (o : Owed) : Fjoek :=
  let l := (m.qp n).owed
  let key := fun (p : Owed) => psnDist p.psn ((m.expPsn n + 2 ^ 23) % 2 ^ 24)
  (m.setQp n { m.qp n with owed := if m.isSpray n then sortBy key (l ++ [o]) else l ++ [o] }).settleOwed n

/-- Something that responses and items of context `n` wait for has come: access, copy or flush `w`, with data of a response. -/
def Fjoek.arrived (m : Fjoek) (n w : Nat) (data : Option (List Byte)) : Fjoek :=
  let q := m.qp n
  let o := q.owed.map fun o =>
    if o.waits.contains w then { o with waits := o.waits.filter (· != w), data := data.getD o.data } else o
  let d := q.due.map fun d => { d with waits := d.waits.filter (· != w) }
  ((m.setQp n { q with owed := o, due := d }).settleOwed n).dispatchDue n

/-! ## Slate accesses in HBM (R311, R312) -/

/-- SLATE_ACCESS_COMPLETE: access `id` reaches HBM. Atomics act on a little-endian word; the original value is returned in the
byte order of the IBTA specification. -/
def Fjoek.slateDone (m : Fjoek) (a : SlateAcc) : Fjoek :=
  let m := m.setThim { m.thim with accs := m.thim.accs.filter fun b => b.id != a.id }
  let old := m.hbmNat a.addr 8
  let (bad, m) := if a.op = .write ∨ a.op = .awrite then (false, m) else m.hbmDetect none a.addr a.len
  let put := fun (m : Fjoek) (b : List Byte) => ((m.hbmWrite a.addr b).markDirty a).sendCopy a b |>.unmirrored a
  let m := match a.op with
    | .write => put m a.data
    | .awrite => put m a.data
    | .read => m.happen 0x10D (ceilDiv a.len 64)
    | .cas swap cmp => put m (bytesOf 8 (if old = cmp then swap else old))
    | .faa add => put m (bytesOf 8 ((old + add) % 2 ^ 64))
  let m := m.unuseKey a.key
  if bad then m.qpError a.ctx 7
  else
    let q := m.qp a.ctx
    match a.op with
    | .read => m.arrived a.ctx a.id (some (m.hbmBytes a.addr a.len))
    | .cas _ _ => (m.setQp a.ctx { q with saved := ((a.psn, old) :: q.saved).take 16 }).arrived a.ctx a.id (some (beBytes 8 old))
    | .faa _ => (m.setQp a.ctx { q with saved := ((a.psn, old) :: q.saved).take 16 }).arrived a.ctx a.id (some (beBytes 8 old))
    | _ => m.arrived a.ctx a.id none

/-- Bytes of a READ in hand do not change between its check and its completion: the data of an access that reads is read as it
completes. -/
def execSlateAccessComplete (id : Nat) (s : State) := s.on fun m =>
  match m.thim.accs.find? fun a => a.id == id with
  | none => m
  | some a => m.slateDone a

/-- The trailing twin has acknowledged the copy of access `id` (R323). -/
def Fjoek.mirrorAcked (m : Fjoek) (id : Nat) : Fjoek :=
  let m := m.setThim { m.thim with copies := m.thim.copies.filter (· != id) }
  m.each (m.xport.qps.map (·.1)) fun n m =>
    if (m.qp n).owed.any fun o => o.waits.contains (2 ^ 40 + id) then m.arrived n (2 ^ 40 + id) none else m

/-- MIRROR_ACK. -/
def execMirrorAck (id : Nat) (s : State) := s.on fun m => m.mirrorAcked id

/-- The flush record `id` is done: its FLUSH can be acknowledged (R321). -/
def Fjoek.flushEnd (m : Fjoek) (id : Nat) : Fjoek :=
  match m.thim.flushes.find? fun f => f.id == id with
  | none => m
  | some f =>
    let m := m.setThim { m.thim with flushes := m.thim.flushes.filter fun g => g.id != id }
    m.arrived f.ctx (2 ^ 41 + id) none

/-- FLUSH_DONE. -/
def execFlushDone (id : Word32) (s : State) := s.on fun m => m.flushEnd id.toNat

/-! ## NAKs that end the queue pair -/

/-- NAK Invalid Request, and ERROR with cause 0x07. -/
def Fjoek.invalidReq (m : Fjoek) (n psn : Nat) : Fjoek := (m.sendNak n psn (synNak nakInvalidReq)).qpError n 7

/-- What a Thimble code answers (R310). -/
def Fjoek.refuse (m : Fjoek) (n psn code : Nat) : Fjoek :=
  if code = 6 then m.sendRnr n psn
  else if code = 5 then m.invalidReq n psn
  else (m.sendNak n psn (synNak nakAccessErr)).qpError n 7

/-! ## Execution (R279 orders 6 and 7, R285) -/

/-- The key that a packet needs checked; none where Thimble has nothing to check. -/
def pktKey (k : Pkt) (msg : Option RxMsg) : Option Nat :=
  match k.kind with
  | .send inv => inv
  | .write _ key _ _ => (match msg with
    | some r => (match r.kind with
      | .write _ key' _ _ => some key'
      | _ => some key)
    | none => some key)
  | .read _ key _ => some key
  | .cas _ key _ _ => some key
  | .faa _ key _ => some key
  | .flush _ key _ _ _ => some key
  | .awrite _ key => some key
  | _ => none

/-- PSNs that a request takes (R280). -/
def Fjoek.psnSpan (m : Fjoek) (n : Nat) (k : Pkt) : Nat :=
  match k.kind with
  | .read _ _ len => packets (m.pmtu n) len
  | _ => 1

/-- The expected PSN advances past a request, and a request message that ends counts in the MSN. In spray mode both follow the
messages as they complete in order (R294). -/
def Fjoek.advance (m : Fjoek) (n span : Nat) (ends : Bool) : Fjoek :=
  if m.isSpray n then m else
  let e := m.expPsn n
  let q := m.qp n
  let m := m.setQp n { q with nak := none, ackSent := some (q.ackSent.getD ((e + 2 ^ 24 - 1) % 2 ^ 24)), wrapRx := q.wrapRx + (e + span) / 2 ^ 24 }
  let m := m.setCtxF n 9 23 0 (e + span)
  if ends then m.setCtxF n 9 47 24 (m.msn n + 1) else m

/-- The responder resources in use: READs and atomics owed. -/
def Fjoek.resources (m : Fjoek) (n : Nat) : Nat := ((m.qp n).owed.filter fun o => o.kind != 0).length

/-- Slate accesses of context `n` still to reach HBM. -/
def Fjoek.openAccs (m : Fjoek) (n : Nat) : List Nat := (m.thim.accs.filter fun a => a.ctx == n).map (·.id)

/-- A mirrored write owes its acknowledgement until the copy is acknowledged (R323). -/
def Fjoek.oweMirror (m : Fjoek) (n psn acc slate before : Nat) : Fjoek :=
  if m.mirrors slate then
    let m := m.setThim { m.thim with copies := m.thim.copies ++ [acc] }
    (m.count THIM_MIRWAIT_LO 1).owe n { psn := psn, waits := [2 ^ 40 + acc], kind := 0, data := [], sent := 0, key := none, msn := 0,
                                              before := before, after := m.msn n }
  else m

def Fjoek.ask (m : Fjoek) (n key va len right : Nat) (aligned whole : Bool) : SlateAsk :=
  { qpn := m.qpn n, pd := m.qpPd n, key := key, va := va, len := len, right := right, aligned := aligned, whole := whole }

/-- Flags of an item (R286). -/
def RxMsg.flags (r : RxMsg) (spray : Bool) : Nat := bnat r.solicited + 2 * bnat r.ce + 4 * bnat spray

/-- Checks of a SEND with Invalidate (R313): orders 1 to 4 and remote invalidate; 0 when they pass. -/
def Fjoek.invalidateCheck (m : Fjoek) (n key : Nat) : Nat × Fjoek :=
  let q := m.ask n key 0 0 6 false true
  let c := m.keyCheck q
  let c := if c = 6 then 0 else c
  let m := (m.count THIM_CHECKS_LO 1).happen 0x106 1
  if c = 0 then (0, m)
  else
    let m := (m.setReg THIM_LASTREF_LO key).setReg THIM_LASTREF_HI (c * 2 ^ 28 + m.qpn n % 2 ^ 24)
    (c, (m.count THIM_REFUSED_LO 1).cause THIM_STAT_ref 256)

/-- A message that carries an item is whole: its header is written, and its item waits for `waits` (R286). -/
def Fjoek.finishItem (m : Fjoek) (n : Nat) (r : RxMsg) (kind imm rkey : Nat) (waits : List Nat) : Fjoek :=
  match r.lease with
  | none => m
  | some x =>
    let len := if kind = 3 then 0 else r.bytes
    let m := m.leasePut x 0 (m.itemHeader kind (r.flags (m.isSpray n)) len (m.qpn n) imm rkey r.psn)
    let d : DueItem := { waits := waits, lease := x, cluster := r.cluster, kind := kind }
    (m.setQp n { m.qp n with due := (m.qp n).due ++ [d] }).dispatchDue n

/-- Room for a new item of cluster `g` with `bytes` of payload: cells under R95 and the cap, and a dispatch queue that takes its items and
is not full (R39, R50, R52). -/
def Fjoek.itemRoom (m : Fjoek) (g bytes : Nat) : Bool :=
  m.canStage g (itemCells bytes) &&
    match m.homeOf g with
    | some t => !m.queueFull t
    | none => false

/-- Largest SEND in bytes. -/
def Fjoek.sendMax (m : Fjoek) : Nat := 64 * Nat.max 1 (m.get XPORT_RXCFG_sendmax)

/-- A SEND packet in order (R285). -/
def Fjoek.execSend (m : Fjoek) (n : Nat) (k : Pkt) (inv : Option Nat) : Fate × Fjoek :=
  let q := m.qp n
  let h := k.head
  let g := h.cluster.val
  let had := (match q.msg with
    | some r => r.bytes
    | none => 0)
  let total := had + k.data.length
  if m.sendMax < total then (.done, m.invalidReq n h.psn)
  else if q.msg.isNone ∧ !m.itemRoom g k.data.length then (.waits, m)
  else
    let opened : Option (RxMsg × Fjoek) := match q.msg with
      | some r => some (r, m)
      | none => (m.stage g (itemCells k.data.length)).map fun (p : Nat × Fjoek) =>
          ({ kind := k.kind, psn := h.psn, msn := 0, count := 0, got := [], bytes := 0, lease := some p.1, cluster := g, ce := false
             solicited := false, accs := [], complete := false, span := 0 }, p.2)
    match opened with
    | none => (.waits, m)
    | some (r, m) =>
      let x := r.lease.getD 0
      let (ok, m) := m.growTo x (itemCells total)
      if !ok then (.done, (m.count XPORT_OOODROP_LO 1).seqNak n)
      else
        let m := m.leasePut x (64 + had) k.data
        let r := { r with bytes := total, ce := r.ce || h.ce, solicited := r.solicited || h.solicited }
        if !h.last then
          (.done, ((m.setQp n { m.qp n with msg := some r }).advance n 1 false).ackAfter n h.ackReq)
        else
          match inv with
          | none =>
            let m := (m.setQp n { m.qp n with msg := none }).advance n 1 true
            (.done, (m.finishItem n r 1 0 0 []).ackAfter n h.ackReq)
          | some key =>
            let (c, m) := m.invalidateCheck n key
            let m := m.setQp n { m.qp n with msg := if c = 0 then none else some r }
            if c ≠ 0 then (.done, m.refuse n h.psn c)
            else
              let m := (m.revoke (key % 2 ^ 24)).advance n 1 true
              (.done, (m.finishItem n r 2 0 key []).ackAfter n h.ackReq)

/-- A WRITE packet in order: its own bytes are checked, and its item waits for the placement of the message (R286, R310). -/
def Fjoek.execWrite (m : Fjoek) (n : Nat) (k : Pkt) (va key : Nat) (imm : Option Nat) : Fate × Fjoek :=
  let q := m.qp n
  let h := k.head
  let g := h.cluster.val
  let r : RxMsg := match q.msg with
    | some r => r
    | none => { kind := k.kind, psn := h.psn, msn := 0, count := 0, got := [], bytes := 0, lease := none, cluster := g, ce := false
                solicited := false, accs := [], complete := false, span := 0 }
  let (va, key) := match r.kind with
    | .write va' key' _ _ => (va', key')
    | _ => (va, key)
  let item := h.last && imm.isSome
  if item ∧ q.msg.isNone ∧ !m.itemRoom g 0 then (.waits, m)
  else if item ∧ m.get MNGL_LFREE_free = 0 then (.done, (m.count XPORT_OOODROP_LO 1).seqNak n)
  else
    let a := m.ask n key (va + r.bytes) k.data.length 3 false false
    let (c, m) := m.thimble a
    if c ≠ 0 then (.done, m.refuse n h.psn c)
    else
      let (id, m) := m.slateStart a n h.psn .write k.data
      let slate := m.keyNat (key % 2 ^ 24) 6 2 % 1024
      let r := { r with bytes := r.bytes + k.data.length, accs := r.accs ++ [id], ce := r.ce || h.ce
                        solicited := r.solicited || h.solicited }
      let m := m.setQp n { m.qp n with msg := if h.last then none else some r }
      let before := m.msn n
      let m := (m.advance n 1 h.last).oweMirror n h.psn id slate before
      let m := if item then
          match m.stageLate g 1 with
          | none => m
          | some (x, m) =>
            let live := r.accs.filter fun i => m.thim.accs.any fun b => b.id == i
            m.finishItem n { r with lease := some x } 3 (imm.getD 0) 0 live
        else m
      (.done, m.ackAfter n h.ackReq)

/-- The message number of a packet in spray mode (R293). -/
def sprayMsn (h : PktHead) : Nat := (h.ext.map (·.msn)).getD 0

/-- A READ, atomic or ATOMIC WRITE in order (R283, R310, R312): whether it was admitted. -/
def Fjoek.execAccess (m : Fjoek) (n : Nat) (k : Pkt) (q : SlateAsk) (op : SlateOp) (span kind : Nat) : Bool × Fjoek :=
  let h := k.head
  if kind ≠ 0 ∧ Nat.max 1 (m.ctxF n 1 35 28) ≤ m.resources n then (false, m.invalidReq n h.psn)
  else
    let (c, m) := m.thimble q
    if c ≠ 0 then (false, m.refuse n h.psn c)
    else
      let (id, m) := m.slateStart q n h.psn op k.data
      let slate := m.keyNat (q.key % 2 ^ 24) 6 2 % 1024
      let before := m.msn n
      let m := m.advance n span true
      let o : Owed := { psn := h.psn, waits := [], kind := kind, data := [], sent := 0, key := none, msn := sprayMsn h, before := before
                        after := m.msn n }
      let mir := if op ≠ .read ∧ m.mirrors slate then [2 ^ 40 + id] else []
      let m := if mir = [] then m
        else (m.setThim { m.thim with copies := m.thim.copies ++ [id] }).count THIM_MIRWAIT_LO 1
      if kind = 0 then
        (true, (if mir = [] then m else m.owe n { o with waits := mir }).ackAfter n h.ackReq)
      else (true, m.owe n { o with waits := id :: mir })

/-- A FLUSH in order (R320 to R322): whether it was admitted. -/
def Fjoek.execFlush (m : Fjoek) (n : Nat) (k : Pkt) (va key len : Nat) (type : FlushType) (sel : FlushSel) : Bool × Fjoek :=
  let h := k.head
  if type = .other ∨ sel = .other then (false, m.invalidReq n h.psn)
  else
    let q := m.ask n key va len 5 false (sel == .region)
    let (c, m) := m.thimble q
    let x := key % 2 ^ 24
    if c ≠ 0 then (false, m.refuse n h.psn c)
    else if type = .persistence ∧ m.flushRingFull then
      (false, ((m.count THIM_FLFULL_LO 1).cause THIM_STAT_flfull 261).sendRnr n h.psn)
    else
      let soff := m.keyNat x 0x18 8 % 2 ^ 35
      let start := if sel = .region then soff else soff + (va - m.keyBase x)
      let n' := if sel = .region then m.keyNat x 0x10 8 else len
      let before := m.msn n
      let m := (m.useKey x).advance n 1 true
      let o : Owed := { psn := h.psn, waits := m.openAccs n, kind := 0, data := [], sent := 0, key := some x, msn := (sprayMsn h)
                        before := before, after := m.msn n }
      if type = .visibility then (true, m.owe n o)
      else
        let (id, m) := m.flushRecord n (m.qpn n) key (m.keyNat x 6 2 % 1024) start n'
        (true, m.owe n { o with waits := [2 ^ 41 + id] })

/-- The packet fits the message in progress (R279 order 6). -/
def pktSequenceOk (k : Pkt) (msg : Option RxMsg) : Bool :=
  match msg, k.kind with
  | none, .send _ => k.head.first
  | none, .write _ _ _ _ => k.head.first
  | none, _ => true
  | some r, .send _ => !k.head.first && (match r.kind with
    | .send _ => true
    | _ => false)
  | some r, .write _ _ _ _ => !k.head.first && (match r.kind with
    | .write _ _ _ _ => true
    | _ => false)
  | some _, _ => false

/-- Execute a request at the expected PSN: orders 6 and 7, then its effect. -/
def Fjoek.execute (m : Fjoek) (n : Nat) (k : Pkt) : Fate × Fjoek :=
  let q := m.qp n
  let h := k.head
  if k.kind = .unsupported ∨ !pktSequenceOk k q.msg then (.done, m.invalidReq n h.psn)
  else
    let x := (pktKey k q.msg).map (· % 2 ^ 24)
    let (ready, m) := match x with
      | some x => if x < 1048576 then m.keyReady x else (true, m)
      | none => (true, m)
    if !ready then (.waits, m)
    else match k.kind with
      | .send inv => m.execSend n k inv
      | .write va key _ imm => m.execWrite n k va key imm
      | .read va key len => (.done, (m.execAccess n k (m.ask n key va len 2 false false) .read (m.psnSpan n k) 1).2)
      | .cas va key swap cmp => (.done, (m.execAccess n k (m.ask n key va 8 4 true false) (.cas swap cmp) 1 2).2)
      | .faa va key add => (.done, (m.execAccess n k (m.ask n key va 8 4 true false) (.faa add) 1 2).2)
      | .awrite va key => (.done, (m.execAccess n k (m.ask n key va 8 3 true false) .awrite 1 0).2)
      | .flush va key len type sel => (.done, (m.execFlush n k va key len type sel).2)
      | _ => (.done, m)

/-! ## Duplicates (R283) -/

/-- A duplicate atomic: its saved result is sent again. One whose first execution has still to be answered is answered when that one
is; one older than the 16 saved ends the queue pair. -/
def Fjoek.savedAgain (m : Fjoek) (n psn : Nat) : Fjoek :=
  match (m.qp n).owed.find? fun o => o.kind == 2 && o.psn == psn with
  | some o => m.owe n o
  | none =>
    match (m.qp n).saved.find? fun e => e.1 == psn with
    | some e => m.sendPacket n opAtomicAck psn false (aeth synAck (m.msn n) ++ bytesBe 8 e.2) 0 []
    | none => m.invalidReq n psn

def Fjoek.duplicate (m : Fjoek) (n : Nat) (k : Pkt) : Fate × Fjoek :=
  let h := k.head
  match k.kind with
  | .read va key len =>
    let (ready, m) := if key % 2 ^ 24 < 1048576 then m.keyReady (key % 2 ^ 24) else (true, m)
    if !ready then (.waits, m)
    else if Nat.max 1 (m.ctxF n 1 35 28) ≤ m.resources n then (.done, m.invalidReq n h.psn)
    else
      let q := m.ask n key va len 2 false false
      let (c, m) := m.thimble q
      if c ≠ 0 then (.done, m.refuse n h.psn c)
      else
        let (id, m) := m.slateStart q n h.psn .read []
        (.done, m.owe n { psn := h.psn, waits := [id], kind := 1, data := [], sent := 0, key := none, msn := (sprayMsn h)
                          before := m.msn n, after := m.msn n })
  | .cas _ _ _ _ => (.done, m.savedAgain n h.psn)
  | .faa _ _ _ => (.done, m.savedAgain n h.psn)
  | .unsupported => (.done, m.invalidReq n h.psn)
  | _ => (.done, (m.count XPORT_DUP_LO 1).ackNow n)

/-! ## Standard mode (R280 to R282) -/

/-- Held packets are executed while they are consecutive. -/
def heldLoop (n : Nat) : Nat → Fjoek → Fjoek
  | 0, m => m
  | f + 1, m =>
    match (m.qp n).held.find? fun k => k.head.psn == m.expPsn n with
    | none => m
    | some k =>
      let (fate, m) := m.execute n k
      match fate with
      | .waits => m
      | .done =>
        let q := m.qp n
        let m := m.setQp n { q with held := q.held.filter fun j => j.head.psn != k.head.psn }
        heldLoop n f (m.leaveXrx k.head)

def Fjoek.runHeld (m : Fjoek) (n : Nat) : Fjoek := heldLoop n (m.qp n).held.length m

/-- A request ahead of the expected PSN, with nothing to hold it. -/
def Fjoek.farAhead (m : Fjoek) (n : Nat) : Fjoek := (m.count XPORT_OOODROP_LO 1).seqNak n

/-- Classify a request in standard mode: the fate, and whether the packet is held. -/
def Fjoek.standard (m : Fjoek) (n : Nat) (k : Pkt) : Fate × Bool × Fjoek :=
  let d := psnDist k.head.psn (m.expPsn n)
  if d = 0 then
    let (fate, m) := m.execute n k
    (fate, false, if fate = .done then m.runHeld n else m)
  else if d ≤ 64 then
    let q := m.qp n
    if q.held.any fun j => j.head.psn == k.head.psn then (.done, false, m.farAhead n)
    else if 65536 ≤ m.heldCount then (.done, false, (m.cause XPORT_STAT_hcap 229).farAhead n)
    else (.done, true, m.setQp n { q with held := q.held ++ [k] })
  else if d < 2 ^ 23 then (.done, false, m.farAhead n)
  else
    let (fate, m) := m.duplicate n k
    (fate, false, m)

/-! ## Spray mode (R293 to R295) -/

/-- The oldest open MSN: that of the next message to acknowledge. -/
def Fjoek.sprayBase (m : Fjoek) (n : Nat) : Nat := m.msn n

/-- Complete messages at the head are acknowledged in MSN order, and responses that waited for them leave. -/
def sprayLoop (n : Nat) : Nat → Fjoek → Fjoek
  | 0, m => m
  | f + 1, m =>
    match (m.qp n).spray.find? fun r => r.msn == m.sprayBase n && r.complete with
    | none => m
    | some r =>
      let q := m.qp n
      let e := m.expPsn n
      let m := m.setQp n { q with
        spray := q.spray.filter fun t => t.msn != r.msn
        nak := none
        ackSent := some (q.ackSent.getD ((e + 2 ^ 24 - 1) % 2 ^ 24)) }
      let m := (m.setCtxF n 9 23 0 (r.psn + r.span)).setCtxF n 9 47 24 (r.msn + 1)
      sprayLoop n f ((m.settleOwed n).ackNow n)

def Fjoek.setSpray (m : Fjoek) (n : Nat) (r : RxMsg) : Fjoek :=
  let q := m.qp n
  m.setQp n { q with spray := q.spray.filter (fun t => t.msn != r.msn) ++ [r] }

/-- A spray message is complete: its immediate data, invalidation and item take effect now. -/
def Fjoek.sprayEnd (m : Fjoek) (n : Nat) (r : RxMsg) : Fjoek :=
  let m := m.setSpray n { r with complete := true }
  let live := r.accs.filter fun i => m.thim.accs.any fun b => b.id == i
  let m := match r.kind with
    | .send none => m.finishItem n r 1 0 0 []
    | .send (some key) =>
      let (c, m) := m.invalidateCheck n key
      if c ≠ 0 then m.refuse n r.psn c else (m.revoke (key % 2 ^ 24)).finishItem n r 2 0 key []
    | .write _ _ _ (some imm) => m.finishItem n r 3 imm 0 live
    | _ => m
  sprayLoop n 8 m

/-- The packet fits the open message it names (R279 order 6): the opcode of each says where it stands, and what the message is. -/
def sprayFits (k : Pkt) (e : PlaceExt) (r : RxMsg) : Bool :=
  let shape := k.head.first == (e.index == 0) && k.head.last == (e.index == e.count)
  match k.kind, r.kind with
  | .send _, .send _ => shape
  | .send _, _ => false
  | .write _ _ _ _, .write _ _ _ _ => shape
  | .write _ _ _ _, _ => false
  | .unsupported, _ => false
  | a, b => a == b

/-- A packet of an open or new message: checked by Thimble with its own RETH, placed, and its bit set (R294). The last packet says whether
the message carries immediate data or an invalidation. A message takes cells as its packets arrive; a packet of one that has begun waits
for none and takes them beyond the reserve (R285). -/
def Fjoek.sprayPlace (m : Fjoek) (n : Nat) (k : Pkt) (e : PlaceExt) (r : RxMsg) (fresh : Bool) : Fate × Fjoek :=
  let h := k.head
  let mtu := m.pmtu n
  let go := fun (m : Fjoek) (r : RxMsg) =>
    let r := { r with got := r.got ++ [e.index], bytes := r.bytes + k.data.length, ce := r.ce || h.ce
                      solicited := r.solicited || h.solicited, kind := if h.last then k.kind else r.kind }
    if r.got.length = r.count + 1 then m.sprayEnd n r else m.setSpray n r
  let item : Bool := match k.kind with
    | .send _ => true
    | .write _ _ _ (some _) => true
    | _ => false
  let payload := match k.kind with
    | .send _ => mtu * e.index + k.data.length
    | _ => 0
  if item ∧ fresh ∧ !m.itemRoom r.cluster payload then (.waits, m)
  else
    let (room, r, m) := if !item then (true, r, m)
      else match r.lease with
        | some x =>
          let p := m.growTo x (itemCells payload)
          (p.1, r, p.2)
        | none =>
          match m.stageLate r.cluster (itemCells payload) with
          | some (x, m) => (true, { r with lease := some x }, m)
          | none => (false, r, m)
    if !room then (.done, (m.count XPORT_OOODROP_LO 1).seqNak n)
    else match k.kind with
    | .send _ =>
      if m.sendMax < r.bytes + k.data.length then (.done, (m.setSpray n r).invalidReq n h.psn)
      else (.done, go (m.leasePut (r.lease.getD 0) (64 + mtu * e.index) k.data) r)
    | .write va key _ _ =>
      let a := m.ask n key va k.data.length 3 false false
      let (c, m) := m.thimble a
      if c ≠ 0 then (.done, m.refuse n h.psn c)
      else
        let (id, m) := m.slateStart a n h.psn .write k.data
        let m := m.oweMirror n h.psn id (m.keyNat (key % 2 ^ 24) 6 2 % 1024) (m.msn n)
        (.done, go m { r with accs := r.accs ++ [id] })
    | .flush va key len type sel =>
      let (ok, m) := m.execFlush n k va key len type sel
      (.done, if ok then go m r else m)
    | .read va key len =>
      let (ok, m) := m.execAccess n k (m.ask n key va len 2 false false) .read 0 1
      (.done, if !ok then m else go m { r with span := m.psnSpan n k })
    | .cas va key swap cmp =>
      let (ok, m) := m.execAccess n k (m.ask n key va 8 4 true false) (.cas swap cmp) 0 2
      (.done, if ok then go m r else m)
    | .faa va key add =>
      let (ok, m) := m.execAccess n k (m.ask n key va 8 4 true false) (.faa add) 0 2
      (.done, if ok then go m r else m)
    | .awrite va key =>
      let (ok, m) := m.execAccess n k (m.ask n key va 8 3 true false) .awrite 0 0
      (.done, if ok then go m r else m)
    | _ => (.done, m.invalidReq n h.psn)

/-- A request in spray mode (R293, R294). -/
def Fjoek.sprayed (m : Fjoek) (n : Nat) (k : Pkt) : Fate × Fjoek :=
  let h := k.head
  match h.ext with
  | none => (.done, m.qpError n 7)
  | some e =>
    let single : Bool := match k.kind with
      | .send _ => false
      | .write _ _ _ _ => false
      | _ => true
    if !e.fits ∨ 1023 < e.count ∨ e.count < e.index ∨ (single ∧ e.count ≠ 0) then (.done, m.qpError n 7)
    else
      let d := psnDist e.msn (m.sprayBase n)
      if 2 ^ 23 ≤ d then m.duplicate n k
      else if m.sprayLimit n ≤ d then (.done, m.count XPORT_OOODROP_LO 1)
      else
        let old := (m.qp n).spray.find? fun r => r.msn == e.msn
        let psn0 := psnDist h.psn e.index
        let r : RxMsg := old.getD
          { kind := k.kind, psn := psn0, msn := e.msn, count := e.count, got := [], bytes := 0, lease := none
            cluster := h.cluster.val, ce := false, solicited := false, accs := [], complete := false, span := e.count + 1 }
        if r.psn ≠ psn0 ∨ r.count ≠ e.count then (.done, m.count XPORT_BADPKT_LO 1)
        else if r.complete ∨ r.got.contains e.index then (.done, m.count XPORT_DUP_LO 1)
        else if !sprayFits k e r then (.done, m.invalidReq n h.psn)
        else
          let (ready, m) := match pktKey k none with
            | some x => if x % 2 ^ 24 < 1048576 then m.keyReady (x % 2 ^ 24) else (true, m)
            | none => (true, m)
          if !ready then (.waits, m) else m.sprayPlace n k e r old.isNone

/-! ## Responses of the peer (R287, R289) -/

/-- A READ response at PSN p: placed by its PSN, in order only in standard mode, by index in spray mode (R287, R295). -/
def Fjoek.readResponse (m : Fjoek) (n : Nat) (k : Pkt) : Fjoek :=
  let p := k.head.psn
  let mtu := m.pmtu n
  match (m.qp n).tx.find? fun t => t.read && t.psn.isSome && decide (psnDist p (t.psn.getD 0) < t.span) with
  | none => m.count XPORT_DUP_LO 1
  | some t =>
    let i := psnDist p (t.psn.getD 0)
    match m.findDesc t.desc with
    | none => m.dropReq n t.desc
    | some d =>
      let put := fun (m : Fjoek) => (m.putAt (d.place.at (mtu * i)) (k.data.take (d.len - mtu * i))).closeRtt n p
      let fits := match k.head.ext with
        | none => false
        | some e => e.fits && e.count == t.span - 1 && e.index == i && e.msn == t.msn
      if m.isSpray n then
        if !fits then m.qpError n 7
        else if t.got.contains i then m.count XPORT_DUP_LO 1
        else
          let m := put m
          let g := t.got ++ [i]
          if g.length = t.span then ((m.endReq n d.id 0 0).settlePsn n).pump n else m.setReq n { t with got := g }
      else if i < t.acked then m.count XPORT_DUP_LO 1
      else if t.acked < i then m.goBack n ((t.psn.getD 0 + t.acked) % 2 ^ 24)
      else
        let m := put m
        let (_, m) := if p = t.psn.getD 0 then m.ackUpTo n ((p + 2 ^ 24 - 1) % 2 ^ 24) else (true, m)
        let m := m.setQp n { m.qp n with retries := 0, rnrs := 0 }
        if i + 1 = t.span then ((m.endReq n d.id 0 0).settlePsn n).pump n
        else (m.setReq n { t with acked := i + 1 }).settlePsn n

/-- A NAK that ends the queue pair, for an outstanding PSN. -/
def Fjoek.fatalNak (m : Fjoek) (n p cause : Nat) : Fjoek :=
  if psnDist (m.sendPsn n) (m.ackedPsn n) ≤ psnDist p (m.ackedPsn n) then m.count XPORT_DUP_LO 1
  else ((m.ackUpTo n ((p + 2 ^ 24 - 1) % 2 ^ 24)).2).qpError n cause

def Fjoek.response (m : Fjoek) (n : Nat) (k : Pkt) : Fjoek :=
  let p := k.head.psn
  let out := decide (psnDist p (m.ackedPsn n) < psnDist (m.sendPsn n) (m.ackedPsn n))
  match k.kind with
  | .ack =>
    let (ok, m) := m.ackUpTo n p
    if ok then m else m.count XPORT_DUP_LO 1
  | .nakSeq =>
    if !out then m.count XPORT_DUP_LO 1
    else
      let m := (m.count XPORT_NAKSEQ_RX_LO 1).ccEvent 4 n 0
      ((m.ackUpTo n ((p + 2 ^ 24 - 1) % 2 ^ 24)).2).goBack n p
  | .rnr _ =>
    if !out then m.count XPORT_DUP_LO 1
    else
      let m := ((m.count XPORT_RNR_RX_LO 1).ackUpTo n ((p + 2 ^ 24 - 1) % 2 ^ 24)).2
      let q := m.qp n
      let lim := m.ctxF n 0 21 19
      if lim ≠ 7 ∧ lim < q.rnrs + 1 then m.qpError n 2
      else m.setQp n { q with rnrs := q.rnrs + 1, rnrFrom := some p }
  | .nakAccess => m.fatalNak n p 3
  | .nakInvalid => m.fatalNak n p 4
  | .nakOperational => m.fatalNak n p 5
  | .response => m.readResponse n k
  | .cnp => if m.qpState n = 3 then (m.count XPORT_CNP_RX_LO 1).ccEvent 1 n 0 else m
  | _ => m

/-- A request, as against a response of the peer. -/
def pktIsRequest : PktKind → Bool
  | .ack => false
  | .nakSeq => false
  | .rnr _ => false
  | .nakAccess => false
  | .nakInvalid => false
  | .nakOperational => false
  | .response => false
  | .cnp => false
  | _ => true

/-! ## The CM receive ring (R300) -/

/-- A CM datagram: ICRC and Q_Key are checked. A slot whose length is not 0 has not been read, so the ring is full
(assumption 21). -/
def Fjoek.cmReceive (m : Fjoek) (srcIp srcQpn srcPort : Nat) (mad : List Byte) : Fjoek :=
  let a := m.get XPORT_CMBASE_base * 2 ^ 20 + 256 * m.xport.cmNext
  if m.hbmNat a 4 ≠ 0 then (m.count XPORT_CMDROP_LO 1).cause XPORT_STAT_cmdrop 224
  else
    let b := mad.take 224
    let m := m.hbmWrite a (bytesOf 4 b.length ++ bytesOf 16 srcIp ++ bytesOf 2 srcQpn ++ bytesOf 2 srcPort ++
      List.replicate 8 0 ++ b)
    let m := m.setXport { m.xport with cmNext := (m.xport.cmNext + 1) % 1024 }
    m.postTag (m.get XPORT_CMCFG_engine) (m.get XPORT_CMCFG_tag)

/-! ## The checks of R279 -/

/-- A packet whose CE has still to be counted for R296 is counted, whatever becomes of it from order 5 on. -/
def Fjoek.noteCe (m : Fjoek) (n : Nat) (h : PktHead) : Fjoek :=
  if !h.ce ∨ tableGet (fun _ => false) m.xport.ceDone h.xrx.val then m
  else Fjoek.answerCe (m.setXport { m.xport with ceDone := tableSet (fun _ => false) m.xport.ceDone h.xrx.val true }) n

/-- The packet of a sealed queue pair with its payload decrypted: none where its tag fails (R326). -/
def Fjoek.unseal (m : Fjoek) (n : Nat) (k : Pkt) : Option Pkt :=
  match if m.isSealed n then m.sealKey (m.qpn n) else none with
  | none => some k
  | some (key, salt) =>
    let kb := (bytesOf 32 key).map BitVec.toNat
    let iv := m.nonce n salt k.head.psn false (!pktIsRequest k.kind)
    let c := k.data.map BitVec.toNat
    if gcmTag kb iv (k.head.raw.map BitVec.toNat) c = k.head.tag.map BitVec.toNat then
      some { k with data := (gcmCrypt kb iv c).map (BitVec.ofNat 8) }
    else none

/-- Take one packet: what becomes of it, whether it is held, in which form, and the state. -/
def Fjoek.takePacket (m : Fjoek) (k : Pkt) : Fate × Bool × Fjoek :=
  let h := k.head
  let n := h.qpn % 65536
  let drop := fun (a : Nat) (m : Fjoek) => (Fate.done, false, m.count a 1)
  match k.kind with
  | .cm srcIp srcQpn srcPort qkey =>
    if !h.good ∨ qkey ≠ 0x80010000 then drop XPORT_BADPKT_LO m
    else if !m.isOn XPORT_CTL_en then drop XPORT_BADQP_LO m
    else (.done, false, m.cmReceive srcIp srcQpn srcPort k.data)
  | _ =>
  if !h.good then drop XPORT_BADPKT_LO m
  else if !m.isOn XPORT_CTL_en ∨ (m.qp n).reuse ≠ h.qpn / 65536 ∨ !(m.qp n).alloc then drop XPORT_BADQP_LO m
  else
    let (ready, m) := m.ctxReady n
    if !ready then (.waits, false, m)
    else if m.qpState n = 5 then drop XPORT_ERRDROP_LO m
    else if m.qpState n < 2 then drop XPORT_BADQP_LO m
    else if h.pkey ≠ m.ctxF n 6 31 16 then drop XPORT_BADPKT_LO m
    else
      let sealing := m.isSealed n
      let bad := fun (a : Nat) (m : Fjoek) => (Fate.done, false, (m.count a 1).cause THIM_STAT_seal_err 260)
      if sealing ∧ (m.sealKey h.qpn).isNone then bad THIM_SEALDROP_LO m
      else if sealing ∧ h.busy then bad THIM_SEALBUSY_LO m
      else match m.unseal n k with
      | none => bad THIM_SEALAUTH_LO m
      | some k =>
        let m := m.setQp n { m.qp n with lastRx := m.time }
        if pktIsRequest k.kind then
          let m := m.noteCe n h
          if m.isSpray n then
            let (f, m) := m.sprayed n k
            (f, false, m)
          else m.standard n k
        else (.done, false, m.response n k)

/-! ## The XRX queues -/

def Fjoek.xrx (m : Fjoek) (x : Nat) : List Pkt := tableGet (fun _ => []) m.xport.xrx x

def Fjoek.setXrx (m : Fjoek) (x : Nat) (l : List Pkt) : Fjoek :=
  m.setXport { m.xport with xrx := tableSet (fun _ => []) m.xport.xrx x l }

/-- The head of XRX queue `x` leaves it. -/
def Fjoek.popXrx (m : Fjoek) (x : Nat) (r : List Pkt) : Fjoek :=
  let m := m.setXrx x r
  m.setXport { m.xport with ceDone := tableSet (fun _ => false) m.xport.ceDone x false }

/-- Take packets from XRX queue `x` as far as its head does not wait (R278, R285, R307). -/
def xrxLoop (x : Nat) : Nat → Fjoek → Fjoek
  | 0, m => m
  | f + 1, m =>
    match m.xrx x with
    | [] => m
    | k :: r =>
      let (fate, held, m) := m.takePacket k
      match fate with
      | .waits => m
      | .done =>
        let m := m.popXrx x r
        xrxLoop x f (if held then m else m.leaveXrx k.head)

def Fjoek.runXrx (m : Fjoek) (x : Nat) : Fjoek := xrxLoop x (m.xrx x).length m

/-- A packet reaches the transport. -/
def Fjoek.arrive (m : Fjoek) (k : Pkt) : Fjoek :=
  let x := k.head.xrx.val
  let m := (m.count XPORT_RXPKT_LO 1).happen 0x103 1
  (m.setXrx x (m.xrx x ++ [k])).runXrx x

/-- The lead's FRAME record of a packet: its headers, and for a slate request its payload (R356). -/
def Fjoek.logFrame (m : Fjoek) (k : Pkt) : Fjoek :=
  m.logTwin 0x01 0x80 ([k.head.xrx.val, k.head.slot, k.head.cluster.val, k.head.qpn, k.head.pkey, k.head.psn] ++
    match k.kind with
    | .send _ => []
    | .response => []
    | .cm srcIp srcQpn srcPort _ => [srcIp, srcQpn, srcPort] ++ k.data.map BitVec.toNat
    | _ => k.data.map BitVec.toNat)

/-- A packet taken from an XRX queue. On a trailing twin packets come from the log alone (R302, R355). -/
def Fjoek.receive (m : Fjoek) (k : Pkt) : Fjoek :=
  if m.trailing ∨ !m.runs 4 then m else (m.logFrame k).arrive k

/-! ## The packet commands -/

/-- SEND. -/
def execSend (h : PktHead) (data : List Byte) (s : State) := s.on fun m => m.receive ⟨h, .send none, data⟩
/-- SEND_WITH_INVALIDATE. -/
def execSendWithInvalidate (h : PktHead) (key : Word32) (data : List Byte) (s : State) := s.on fun m =>
  m.receive ⟨h, .send (some key.toNat), data⟩
/-- RDMA_WRITE. -/
def execRdmaWrite (h : PktHead) (va : Word64) (key : Word32) (len : Nat) (data : List Byte) (s : State) := s.on fun m =>
  m.receive ⟨h, .write va.toNat key.toNat len none, data⟩
/-- RDMA_WRITE_WITH_IMMEDIATE. -/
def execRdmaWriteWithImmediate (h : PktHead) (va : Word64) (key : Word32) (len : Nat) (imm : Word32) (data : List Byte)
    (s : State) := s.on fun m => m.receive ⟨h, .write va.toNat key.toNat len (some imm.toNat), data⟩
/-- RDMA_READ. -/
def execRdmaRead (h : PktHead) (va : Word64) (key : Word32) (len : Nat) (s : State) := s.on fun m =>
  m.receive ⟨h, .read va.toNat key.toNat len, []⟩
/-- ATOMIC_COMPARE_AND_SWAP. -/
def execAtomicCompareAndSwap (h : PktHead) (va : Word64) (key : Word32) (swap cmp : Word64) (s : State) := s.on fun m =>
  m.receive ⟨h, .cas va.toNat key.toNat swap.toNat cmp.toNat, []⟩
/-- ATOMIC_FETCH_AND_ADD. -/
def execAtomicFetchAndAdd (h : PktHead) (va : Word64) (key : Word32) (add : Word64) (s : State) := s.on fun m =>
  m.receive ⟨h, .faa va.toNat key.toNat add.toNat, []⟩
/-- FLUSH. -/
def execRdmaFlush (h : PktHead) (va : Word64) (key : Word32) (len : Nat) (type : FlushType) (sel : FlushSel) (s : State) :=
  s.on fun m => m.receive ⟨h, .flush va.toNat key.toNat len type sel, []⟩
/-- ATOMIC_WRITE: the 8 bytes as one unit. -/
def execAtomicWrite (h : PktHead) (va : Word64) (key : Word32) (data : Word64) (s : State) := s.on fun m =>
  m.receive ⟨h, .awrite va.toNat key.toNat, bytesOf 8 data.toNat⟩
/-- ACKNOWLEDGEMENT. -/
def execAcknowledgement (h : PktHead) (s : State) := s.on fun m => m.receive ⟨h, .ack, []⟩
/-- SEQUENCE_NAK. -/
def execSequenceNak (h : PktHead) (s : State) := s.on fun m => m.receive ⟨h, .nakSeq, []⟩
/-- RNR_NAK. -/
def execRnrNak (h : PktHead) (timer : Nat) (s : State) := s.on fun m => m.receive ⟨h, .rnr timer, []⟩
/-- NAK_REMOTE_ACCESS_ERROR. -/
def execNakRemoteAccessError (h : PktHead) (s : State) := s.on fun m => m.receive ⟨h, .nakAccess, []⟩
/-- NAK_INVALID_REQUEST. -/
def execNakInvalidRequest (h : PktHead) (s : State) := s.on fun m => m.receive ⟨h, .nakInvalid, []⟩
/-- NAK_REMOTE_OPERATIONAL_ERROR. -/
def execNakRemoteOperationalError (h : PktHead) (s : State) := s.on fun m => m.receive ⟨h, .nakOperational, []⟩
/-- READ_RESPONSE. -/
def execReadResponse (h : PktHead) (data : List Byte) (s : State) := s.on fun m => m.receive ⟨h, .response, data⟩
/-- CNP. -/
def execCnp (h : PktHead) (s : State) := s.on fun m => m.receive ⟨h, .cnp, []⟩
/-- UNSUPPORTED_REQUEST_OPCODE. -/
def execUnsupportedRequestOpcode (h : PktHead) (s : State) := s.on fun m => m.receive ⟨h, .unsupported, []⟩

/-! ## Connection management (R300) -/

/-- CM_DATAGRAM: it takes its turn in its XRX queue as every packet does (R279). -/
def execCmDatagram (h : PktHead) (srcIp srcQpn srcPort : Nat) (qkey : Word32) (mad : List Byte) (s : State) := s.on fun m =>
  m.receive ⟨{ h with qpn := 1 }, .cm srcIp srcQpn srcPort qkey.toNat, mad⟩

/-- A write of XPORT_CMTXDB sends the MAD of a transmit slot, as a datagram for the queue pair and UDP port that the slot names. It is addressed
to the router MAC, by which the lookup routes it to its IP address; what the slot does not give is free (assumption 92). -/
def Fjoek.cmSend (m : Fjoek) (slot : Nat) : Fjoek :=
  if !m.isOn XPORT_CTL_en then m
  else
    let a := m.get XPORT_CMBASE_base * 2 ^ 20 + 0x40000 + 256 * slot
    let mad := m.hbmBytes (a + 32) (Nat.min 224 (m.hbmNat a 4))
    let dst := (m.hbmBytes (a + 4) 16).map BitVec.toNat
    let r := Config.cmFields (m.hbmNat (a + 4) 16)
    let src := if ip4Mapped dst then dst.take 12 ++ bytesBe 4 (r / 2 ^ 33) else bytesBe 16 (r / 2 ^ 33)
    let path : NetPath := { hop := bytesBe 6 (m.reg FWD_RMAC_LO + 2 ^ 32 * m.reg FWD_RMAC_HI), vlan := 0xFFF, pcp := 0, src := src, dst := dst
                            dscp := r / 8 % 64, ecn := 2, sport := m.hbmNat (a + 22) 2 }
    let d := mad.map BitVec.toNat
    let pad := List.replicate ((4 - d.length % 4) % 4) 0
    let hdr := bth opCm 0xFFFF (m.hbmNat (a + 20) 2) (r / 512 % 2 ^ 24) pad.length false ++ bytesBe 4 0x80010000 ++ [0, 0, 0, 1]
    let f := roceFrame path hdr (d ++ pad)
    let item := 1 :: r % 8 :: f.take (f.length - d.length - pad.length - 4)
    (m.digestItem (item ++ (bytesOf 8 (m.bytesPrint 32 mad)).map BitVec.toNat)).transmit 0 (r % 8) f

/-- CM_TRANSMIT. -/
def execCmTransmit (slot : BitVec 10) (s : State) := s.on fun m => m.cmSend slot.toNat

/-! ## Timers (R282, R284, R285, R288, R289, R295, R299) -/

/-- A timer of context `n` expires on a lead or solo module, logged as TIMER (R356). -/
def Fjoek.onTimer (m : Fjoek) (kind n : Nat) (f : Fjoek → Fjoek) : Fjoek :=
  if m.trailing ∨ !m.runs 4 then m else f (m.logTwin 0x06 0x80 [kind, n])

/-- A held packet has waited gap µs with e unchanged. -/
def Fjoek.gapTimeout (m : Fjoek) (n : Nat) : Fjoek := if (m.qp n).held = [] ∨ m.isSpray n then m else m.seqNak n

/-- REORDER_GAP_TIMEOUT. -/
def execReorderGapTimeout (n : BitVec 16) (s : State) := s.on fun m => m.onTimer 1 n.toNat fun m => m.gapTimeout n.toNat

def Fjoek.ackTimeout (m : Fjoek) (n : Nat) : Fjoek :=
  if (m.qp n).unacked = 0 ∨ (m.qpState n ≠ 2 ∧ m.qpState n ≠ 3) then m else m.ackNow n

/-- ACK_TIMER. -/
def execAckTimer (n : BitVec 16) (s : State) := s.on fun m => m.onTimer 2 n.toNat fun m => m.ackTimeout n.toNat

/-- The retransmission timer (R288): it runs while a request packet is unacknowledged and the exponent is not 0. An expiry during an RNR wait
retransmits as any does, and ends that wait (assumption 46, DESIGN CHOICE). -/
def Fjoek.retryTimeout (m : Fjoek) (n : Nat) : Fjoek :=
  let q := m.qp n
  if m.qpState n ≠ 3 ∨ m.ctxF n 0 15 11 = 0 ∨ m.sendPsn n = m.ackedPsn n then m
  else
    let m := (m.count XPORT_TMO_LO 1).ccEvent 3 n 0
    if m.ctxF n 0 18 16 < q.retries + 1 then m.qpError n 1
    else (m.setQp n { m.qp n with retries := q.retries + 1, rnrFrom := none }).goBack n (m.ackedPsn n)

/-- RETRANSMISSION_TIMEOUT. -/
def execRetransmissionTimeout (n : BitVec 16) (s : State) := s.on fun m => m.onTimer 3 n.toNat fun m => m.retryTimeout n.toNat

def Fjoek.rnrExpiry (m : Fjoek) (n : Nat) : Fjoek :=
  match (m.qp n).rnrFrom with
  | none => m
  | some p => (m.setQp n { m.qp n with rnrFrom := none }).goBack n p

/-- RNR_TIMER_EXPIRY. -/
def execRnrTimerExpiry (n : BitVec 16) (s : State) := s.on fun m => m.onTimer 4 n.toNat fun m => m.rnrExpiry n.toNat

/-- Packet `k` waits for cells or for a full queue of its cluster: not for a load, and not as one that finds cells and whose cluster's items no
queue takes (R50, R52). -/
def Fjoek.wantsCells (m : Fjoek) (k : Pkt) : Bool :=
  let n := k.head.qpn % 65536
  let loading := !m.xport.cached.contains n || (match pktKey k (m.qp n).msg with
    | some y => decide (y % 2 ^ 24 < 1048576) && !m.thim.cached.contains (y % 2 ^ 24)
    | none => false)
  let shut := (m.homeOf k.head.cluster.val).isNone && m.canStage k.head.cluster.val (itemCells k.data.length)
  !loading && !shut

/-- RNR_WAIT_EXPIRY: the head still finds no cells, or its cluster's queue is still full: it is dropped, with an RNR NAK (R285). So are packets
held for order (R281) that came to their turn and wait so. -/
def Fjoek.rnrWait (m : Fjoek) (x : Nat) : Fjoek :=
  let m := m.runXrx x
  let m := match m.xrx x with
    | [] => m
    | k :: r =>
      if !m.wantsCells k then m
      else (((m.popXrx x r).sendRnr (k.head.qpn % 65536) k.head.psn).leaveXrx k.head).runXrx x
  m.each (m.xport.qps.map (·.1)) fun n m =>
    match (m.qp n).held.find? fun k => k.head.psn == m.expPsn n with
    | none => m
    | some k =>
      let m := m.runHeld n
      if k.head.xrx.val ≠ x ∨ !(m.qp n).held.contains k ∨ !m.wantsCells k then m
      else
        let m := m.setQp n { m.qp n with held := (m.qp n).held.filter fun j => j.head.psn != k.head.psn }
        (m.sendRnr n k.head.psn).leaveXrx k.head

/-- RNR_WAIT_EXPIRY. -/
def execRnrWaitExpiry (x : Fin 2) (s : State) := s.on fun m => m.onTimer 5 x.val fun m => m.rnrWait x.val

/-- An open spray message has made no progress: a sequence NAK with the lowest PSN not yet set (R295). -/
def Fjoek.sprayStall (m : Fjoek) (n : Nat) : Fjoek :=
  match (m.qp n).spray.find? fun r => !r.complete with
  | none => m
  | some _ =>
    let base := m.sprayBase n
    let low := match (m.qp n).spray.find? fun r => r.msn == base with
      | some r => (r.psn + ((List.range (r.count + 1)).find? fun i => !r.got.contains i).getD 0) % 2 ^ 24
      | none => m.expPsn n
    ((m.count XPORT_SPRAYTMO_LO 1).count XPORT_NAKSEQ_TX_LO 1).sendNak n low (synNak nakSequence)

/-- SPRAY_TIMEOUT. -/
def execSprayTimeout (n : BitVec 16) (s : State) := s.on fun m => m.onTimer 6 n.toNat fun m => m.sprayStall n.toNat

/-- SHAPER_RELEASE: the packet that waits on the shaper is tried against the bucket's level, which the time since its last change has raised
(R299). -/
def execShaperRelease (n : BitVec 16) (s : State) := s.on fun m =>
  let n := n.toNat
  if !(m.qp n).blocked then m else (m.settleOwed n).pump n

/-! ## Loads (R278, R307) -/

/-- A packet at the head of an XRX queue or a descriptor waits for context `n`. -/
def Fjoek.ctxWanted (m : Fjoek) (n : Nat) : Bool :=
  !m.xport.cached.contains n && ((m.qp n).tx != [] ||
      [0, 1].any fun x => (m.xrx x).head?.any fun k => k.head.qpn % 65536 == n)

/-- CONTEXT_LOAD_COMPLETE: an uncorrectable context enters ERROR and the packet that waits for it is dropped. A load that every
cached context's pin held up has begun since one of them was unpinned. -/
def Fjoek.ctxLoaded (m : Fjoek) (n : Nat) : Fjoek :=
  let m := m.when (m.ctxWanted n) (·.ctxLoad n)
  if !m.xport.loading.contains n then m
  else
    let (bad, m) := m.ctxFill n
    let m := if bad then m.qpError n 9 else m
    (((m.runXrx 0).runXrx 1).runHeld n).pump n

/-- CONTEXT_LOAD_COMPLETE. -/
def execContextLoadComplete (n : BitVec 16) (s : State) := s.on fun m => m.ctxLoaded n.toNat

/-- THIMBLE_CACHE_LOAD_COMPLETE. -/
def execThimbleCacheLoadComplete (x : BitVec 20) (s : State) := s.on fun m =>
  let m := m.keyLoaded x.toNat
  let m := m.each ((m.xport.qps.filter fun e => e.2.held != []).map (·.1)) fun n m => m.runHeld n
  (m.runXrx 0).runXrx 1

/-! ## Allocation (R275) -/

def freeQp (m : Fjoek) : Nat → Nat → Option Nat
  | 0, _ => none
  | k + 1, n => if (m.qp (n % 65536)).alloc then freeQp m k (n + 1) else some (n % 65536)

/-- Context `n` is allocated, with the next reuse count: it stands in RESET, its sequence words and its rate register 0 (R275, R276, R299). -/
def Fjoek.qpTake (m : Fjoek) (n : Nat) : Nat × Fjoek :=
  let reuse := if (m.qp n).reuse = 255 then 1 else (m.qp n).reuse + 1
  let qpn := reuse * 65536 + n
  let m := m.setQp n { qpReset n with reuse := reuse, alloc := true }
  let m := ((m.setCtxF n 0 2 0 0).setCtxW n 8 0).setCtxW n 9 0
  let m := (m.setCtxF n 1 23 0 qpn).setCtxW n 10 0
  (2 ^ 31 + qpn, m.put XPORT_QPUSED_n (m.get XPORT_QPUSED_n + 1))

/-- A read of XPORT_QPALLOC. Which free context it takes is not stated: the search starts at a free value. -/
def Fjoek.qpAlloc (m : Fjoek) : Nat × Fjoek :=
  let (r, m) := m.freeNat
  let used := m.get XPORT_QPUSED_n
  match if 65536 ≤ used then none else freeQp m (used + 1) r with
  | none => (0, m.count XPORT_ALLOCFAIL_LO 1)
  | some n => m.qpTake n

/-- QP_ALLOC. -/
def execQpAlloc (s : State) := s.on fun m =>
  let (v, m) := m.qpAlloc
  m.send (.read XPORT_QPALLOC v)

/-- A queue pair still has a descriptor, a held packet or an undispatched item (R275). -/
def Fjoek.qpBusy (m : Fjoek) (n : Nat) : Bool :=
  (m.mngl.descs.any fun d => d.onQp n) || (m.qp n).held != [] || (m.qp n).due != [] ||
    ((m.seam.queues.map (·.2)).flatten ++ m.seam.waits.map (·.2)).any fun i => ofBytes (m.leaseBytes i.handle 8 2) == n

/-- The sequence words are cleared, and a sealed key goes, as a context enters RESET (R276, R325). -/
def Fjoek.qpToReset (m : Fjoek) (n : Nat) : Fjoek :=
  let m := ((m.setCtxF n 0 2 0 0).setCtxW n 8 0).setCtxW n 9 0
  let m := if (m.sealKey (m.qpn n)).isSome then m.setSealKeys (m.thim.sealKeys.filter fun e => e.1 != m.qpn n) else m
  m.setQp n { qpReset n with reuse := (m.qp n).reuse, alloc := (m.qp n).alloc }

/-- A write of XPORT_QPFREE. -/
def Fjoek.qpFree (m : Fjoek) (qpn : Nat) : Fjoek :=
  let n := qpn % 65536
  let q := m.qp n
  let st := m.qpState n
  if !q.alloc ∨ q.reuse ≠ qpn / 65536 ∨ (st ≠ 0 ∧ st ≠ 5) ∨ (st = 5 ∧ m.qpBusy n) then m.cause XPORT_STAT_freerej 224
  else
    let m := m.qpToReset n
    (m.setQp n { m.qp n with alloc := false }).put XPORT_QPUSED_n (m.get XPORT_QPUSED_n - 1)

/-- QP_FREE. -/
def execQpFree (qpn : BitVec 24) (s : State) := s.on fun m => m.qpFree qpn.toNat

/-- A Block reset of XPORT: every allocated context enters ERROR with cause 0x08 (R303). -/
def Fjoek.xportReset (m : Fjoek) : Fjoek :=
  m.each ((m.xport.qps.filter fun e => e.2.alloc).map (·.1)) fun n m => m.qpError n 8

end Sys2Proof.Machine
end

