-- ==== Sys2Proof/Machine/Slates.lean ====
section
/-! DEFINITION. What the program library does for slates (R319, R321): their records in MRAM, loading after assembly, and the
flush service. -/

namespace Sys2Proof.Machine

/-! ## Slate records (R319): NSID, size in pages, flush generation, state, flags (their places are the model's; assumption 22) -/

def slateRecAt (n : Nat) : Nat := 0x4080000 + 64 * n

def Fjoek.slateNsid (m : Fjoek) (n : Nat) : Nat := m.mramNat (slateRecAt n) 4
def Fjoek.slatePages (m : Fjoek) (n : Nat) : Nat := m.mramNat (slateRecAt n + 4) 4
def Fjoek.slateGen (m : Fjoek) (n : Nat) : Nat := m.mramNat (slateRecAt n + 8) 8
def Fjoek.slateRecState (m : Fjoek) (n : Nat) : Nat := m.mramNat (slateRecAt n + 16) 1
def Fjoek.slateFlags (m : Fjoek) (n : Nat) : Nat := m.mramNat (slateRecAt n + 17) 1

def Fjoek.setSlateRec (m : Fjoek) (n nsid pages gen state flags : Nat) : Fjoek :=
  m.mramPut (slateRecAt n) (bytesOf 4 nsid ++ bytesOf 4 pages ++ bytesOf 8 gen ++ bytesOf 1 state ++ bytesOf 1 flags ++
    List.replicate 46 0)

/-- A slate's record and descriptor take a state. -/
def Fjoek.slateState (m : Fjoek) (n st : Nat) : Fjoek :=
  (m.setSlateRec n (m.slateNsid n) (m.slatePages n) (m.slateGen n) st (m.slateFlags n)).slateSet n { m.slate n with state := st }

/-! ## Loading (R319) -/

/-- Where in HBM the library places a slate and its bitmap is not stated: free values, aligned as R317 asks. -/
def Fjoek.slatePlace (m : Fjoek) (n : Nat) : Fjoek :=
  let (a, m) := m.freeNat
  let (b, m) := m.freeNat
  m.slateSet n { state := 1, flags := m.slateFlags n, pages := m.slatePages n, hbase := a % 2 ^ 23 * 4096
                 dbase := b % 2 ^ 32 * 8 }

/-- LBAs of a 4 KiB page of a namespace. -/
def pageLbas (r : NsRec) : Nat := 4096 / nsSize r

/-- Read a slate's backing namespace into HBM and set the slate READY. A slate whose namespace does not serve, or has a block that cannot be
read, stays LOADING. -/
def Fjoek.slateLoad (m : Fjoek) (n : Nat) : Fjoek :=
  match m.nsFind (m.slateNsid n) with
  | none => m
  | some (p, slot, r) => m.onPool p fun x m =>
    if !m.nsReady x r then m
    else
      match nsPieces x slot r 0 (m.slatePages n * pageLbas r) with
      | none => m
      | some l =>
        let bs := l.map fun q => m.blockAt x p q.b
        if bs.any fun b => m.readStatus x p b != 0 then m
        else
        let data := (l.map fun q => m.openBlock r q.nb (m.content x p (m.blockAt x p q.b))).flatten
        let m := m.serveRead x p bs
        let d := m.slate n
        let m := m.hbmWrite d.hbase data
        let m := m.hbmWrite d.dbase (List.replicate (ceilDiv d.pages 64 * 8) 0)
        m.slateState n 2

/-- The slates that have a record with a namespace of pool `p`. -/
def Fjoek.slatesOf (m : Fjoek) (p : Nat) : List Nat :=
  (List.range 1024).filter fun n => m.slateRecState n != 0 &&
    (match m.nsFind (m.slateNsid n) with
     | some (q, _, _) => q == p
     | none => false)

/-- After assembly each slate of the pool goes LOADING and is loaded. -/
def Fjoek.slatesLoad (m : Fjoek) (p : Nat) : Fjoek :=
  m.each (m.slatesOf p) fun n m => ((m.slatePlace n).slateState n 1).slateLoad n

/-- The slates that have a record and whose namespace no pool serves. -/
def Fjoek.slatesIdle (m : Fjoek) : List Nat :=
  (List.range 1024).filter fun n => m.slateRecState n != 0 &&
    !((m.nsFind (m.slateNsid n)).any fun q => ((m.pool? q.1).map (·.online)).getD false)

/-- POOL_ASSEMBLY; `unread` are blocks, by serial number and LBA, that drives report they cannot read. Slates with a record are LOADING whether or
not the pool assembles (R319). -/
def execPoolAssembly (pool : Fin 4) (labels : List Label) (found : List Found) (extents : List (Nat × List Nat))
    (unread : List (Nat × Nat)) (s : State) := s.on fun m =>
  let p := pool.val
  if ((m.pool? p).map (·.online)).getD false then m
  else
    let m := m.each m.slatesIdle fun n m => m.slateState n 1
    let m := m.poolAssembly p labels found extents unread
    m.onPool p fun x m => if x.online then m.slatesLoad p else m

/-! ## The flush service (R321 steps 4 and 5) -/

/-- Pages of a range whose dirty bit is set. -/
def Fjoek.dirtyPages (m : Fjoek) (n start len : Nat) : List Nat :=
  let first := start / 4096
  let count := if len = 0 then 0 else (start + len - 1) / 4096 - first + 1
  ((List.range count).map (first + ·)).filter fun g => bitOf (m.hbmNat ((m.slate n).dbase + g / 8) 1) (g % 8)

def Fjoek.clearDirty (m : Fjoek) (n g : Nat) : Fjoek :=
  let a := (m.slate n).dbase + g / 8
  let v := m.hbmNat a 1
  m.hbmWriteNat a 1 (v - (v &&& 2 ^ (g % 8)))

/-- Write page `g` of a slate from HBM through to its namespace, with FUA. -/
def Fjoek.flushPage (m : Fjoek) (n p slot : Nat) (r : NsRec) (k g : Nat) : Fjoek :=
  m.onPool p fun x m =>
    match nsPieces x slot r (g * pageLbas r) (pageLbas r) with
    | none => m
    | some l =>
      let data := m.hbmBytes ((m.slate n).hbase + 4096 * g) 4096
      (m.passCells k 1 data).each (byStripe (m.mergePieces x p r l data)) fun q m =>
        ((m.takeStripe p q.1.2 k).throughStripe p q.1.1 q.1.2 k q.2 []).leaveStripe p q.1.2

/-- FLUSH_REQUEST_SERVICE: the record at the consumer index. It waits while a stripe is locked, a unit moves or the journal has
no room. -/
def execFlushRequestService (s : State) := s.on fun m =>
  let ci := m.get THIM_FLCI_ci
  if ci = m.get THIM_FLPI_pi then m
  else
    let a := m.get THIM_FLBASE_base * 2 ^ 20 + 32 * (ci % 1024)
    let n := m.hbmNat (a + 12) 4 % 1024
    let pages := m.dirtyPages n (m.hbmNat (a + 16) 8) (m.hbmNat (a + 24) 8)
    let k := 8 * m.get THIM_FLCFG_engine
    let finish := fun (m : Fjoek) =>
      (m.setSlateRec n (m.slateNsid n) (m.slatePages n) (m.slateGen n + 1) (m.slateRecState n) (m.slateFlags n)).put
        THIM_FLCI_ci (ci + 1)
    match m.nsFind (m.slateNsid n) with
    | none => finish m
    | some (p, slot, r) =>
      match m.pool? p with
      | none => m
      | some x =>
        let l := (pages.filterMap fun g => nsPieces x slot r (g * pageLbas r) (pageLbas r)).flatten
        let stripes := byStripe (l.map fun q => (m.blockAt x p q.b, []))
        let sigs := (stripes.map (·.1.2)).dedup
        let bad := l.any fun q => m.inUnit x p q.b || m.writeStatus x p (m.blockAt x p q.b) q.whole != 0
        if !m.nsReady x r ∨ bad then m
        else if sigs.any fun g => !m.lockFree p g k then m.waitLocks p k sigs
        else if !m.recRoom x (4 * l.length) then m.waitRoom
        else
          let (ok, n') := m.libDraw 1 (m.cost (m.writeCosts x p r false true l stripes))
          if !ok ∨ !m.canPass k 1 (4096 * pages.length.min 1) then m else finish (n'.each pages fun g m => (m.clearDirty n g).flushPage n p slot r k g)

end Sys2Proof.Machine
end

