-- ==== Sys2Proof/Machine/Attach.lean ====
section
/-! DEFINITION. The attach endpoint (R330 to R348): functions, doorbell records, A-endpoint descriptors and their requests, Bus
Master Enable, completion timeouts, resets, interrupts, D-states and wake. The places of fields inside PCI capabilities and of
NVMe controller registers are those of the PCI Express and NVMe specifications (PRESUMED; assumption 23). -/

namespace Sys2Proof.Machine

def Fjoek.setAtt (m : Fjoek) (a : Att) : Fjoek := { m with att := a }

/-- A function exists: the PF, or a VF that is enabled (R330, R336). -/
def Fjoek.fnEnabled (m : Fjoek) (f : Nat) : Bool := f == 0 || (m.isOn ATT_VFST_vfen && decide (f ≤ m.get ATT_VFST_numvf))

/-- A function answers its BARs: enabled, memory space on, in D0, no reset in progress, link up (R332, R341). -/
def Fjoek.barsOpen (m : Fjoek) (f : Nat) : Bool :=
  m.isOn ATT_LINK_up && m.fnEnabled f && (m.attFn f).mem && !(m.attFn f).flr && m.attDst == 0

/-- What stands against a request TLP of function `f`: 4 not enabled, 3 or 7 a reset or a link that is down, 1 parked, 0 nothing (R336). A
trailing twin goes by the lead's functions as the log shows them (R347). -/
def Fjoek.fnGate (m : Fjoek) (f : Nat) : Nat :=
  let own := if !m.fnEnabled f then 4 else if (m.attFn f).flr then 3 else if !m.isOn ATT_LINK_up then 7
    else if !(m.attFn f).bme ∨ m.attDst ≠ 0 then 1 else 0
  if m.trailing then (tableFind m.twin.leadFns f).getD own else own

/-- The lead logs the state of function `f` that the datapath sees (R356). -/
def Fjoek.logFn (m : Fjoek) (f gate : Nat) : Fjoek := m.logTwin 0x0B 0x84 [bnat (gate == 0), f, gate]

/-- A descriptor with an A endpoint of function `f` (R98). -/
def Desc.onFn (d : Desc) (f : Nat) : Bool := d.op == 0 && (d.dsp == 3 || d.ssp == 3) && d.w 4 % 64 == f

/-- ATT_FNST[f] (R348). -/
def Fjoek.fnst (m : Fjoek) (f : Nat) : Nat :=
  let x := m.attFn f
  let parked := (m.mngl.descs.filter fun d => d.onFn f && d.phase == .parked).length
  bnat x.bme + 2 * bnat x.mem + 4 * bnat x.msixEn + 8 * m.attDst + 32 * bnat x.flr + 64 * bnat x.ovr + 256 * Nat.min 255 parked

/-- ATT_TAGS (R340). -/
def Fjoek.tagsView (m : Fjoek) : Nat :=
  (m.att.reqs.filter fun r => !r.quarantined).length + 65536 * (m.att.reqs.filter (·.quarantined)).length

/-! ## Doorbell records (R335) -/

def Fjoek.dbFull (m : Fjoek) (g : Nat) : Bool := (m.get (ATT_DBPI_pi g) + 512 - m.get (ATT_DBCI_ci g)) % 512 == 256

/-- Put a record into ring `g`, which has room. -/
def Fjoek.dbPut (m : Fjoek) (g f kind reg value : Nat) : Fjoek :=
  let pi := m.get (ATT_DBPI_pi g)
  let a := m.get ATT_DBBASE_base * 2 ^ 20 + 4096 * g + 16 * (pi % 256)
  let m := m.hbmWrite a (bytesOf 1 f ++ bytesOf 1 kind ++ bytesOf 2 reg ++ bytesOf 4 0 ++ bytesOf 8 value)
  let armed := tableGet (fun _ => false) m.att.armed g
  let empty := pi = m.get (ATT_DBCI_ci g)
  let m := (m.put (ATT_DBPI_pi g) (pi + 1)).setAtt { m.att with armed := tableSet (fun _ => false) m.att.armed g false }
  m.when (empty || armed) fun m => m.postTag (4 * g) (m.get ATT_DBCFG_tag)

/-- A record of function `f`; one that finds its ring full is not written and sets `ovr`. -/
def Fjoek.dbRecord (m : Fjoek) (f kind reg value : Nat) : Fjoek :=
  let g := m.get (ATT_FNCL_cluster f)
  if m.dbFull g then (m.setAttFn f { m.attFn f with ovr := true }).cause ATT_STAT_ovr 432
  else m.dbPut g f kind reg value

/-- A record made by the local computer's side: logged by a lead, and on a trailing twin made by the log alone (R355). -/
def Fjoek.attRecord (m : Fjoek) (f kind reg value : Nat) : Fjoek :=
  if m.trailing then m else (m.logTwin 0x05 0x84 [f, kind, reg, value]).dbRecord f kind reg value

/-- The state record of kinds 4 to 7. -/
def Fjoek.stateRecord (m : Fjoek) (f kind : Nat) : Fjoek := m.attRecord f kind 0 (m.fnst f)

/-- A write of ATT_DBCI: overrun records go out as far as there is room, and the tag post is armed. -/
def Fjoek.dbConsume (m : Fjoek) (g ci : Nat) : Fjoek :=
  let m := m.put (ATT_DBCI_ci g) ci
  let m := m.setAtt { m.att with armed := tableSet (fun _ => false) m.att.armed g true }
  m.each (List.range 64) fun f m =>
    if (m.attFn f).ovr ∧ m.get (ATT_FNCL_cluster f) = g ∧ !m.dbFull g then
      let m := m.setAttFn f { m.attFn f with ovr := false }
      m.dbPut g f 7 0 (m.fnst f)
    else m

/-- DOORBELL_RING_CONSUME. -/
def execDoorbellRingConsume (g : Fin 16) (ci : BitVec 9) (s : State) := s.on fun m => m.dbConsume g.val ci.toNat

/-! ## NVMe controller registers (R334) -/

/-- A read of BAR2: CAP, VS, INTMS, INTMC, CC, CSTS, AQA, ASQ and ACQ, and 0 elsewhere. -/
def Fjoek.bar2Read (m : Fjoek) (f o : Nat) : Nat :=
  let x := m.attFn f
  match o with
  | 0x00 => 1023 + 65536 + 20 * 2 ^ 24
  | 0x04 => 2 ^ 5 + 4 * 2 ^ 20
  | 0x08 => 0x20000
  | 0x0C => m.reg (ATT_INTMS f)
  | 0x10 => m.reg (ATT_INTMS f)
  | 0x14 => x.cc
  | 0x1C => m.reg (ATT_CSTS f)
  | 0x24 => x.aqa
  | 0x28 => x.asq % 2 ^ 32
  | 0x2C => x.asq / 2 ^ 32
  | 0x30 => x.acq % 2 ^ 32
  | 0x34 => x.acq / 2 ^ 32
  | _ => 0

/-- The doorbell view at ATT offset 0x8000 + 0x200 × f (R335): dword `i`. -/
def Fjoek.bell (m : Fjoek) (f i : Nat) : Nat := tableGet (fun _ => 0) m.att.bells (128 * f + i)

/-- DOORBELL_WRITE: a write of the local computer to a register of BAR2 (R335); ASQ and ACQ are written whole or by their upper half. -/
def execDoorbellWrite (f : Fin 64) (reg : BitVec 14) (value : Word64) (s : State) := s.on fun m =>
  let f := f.val
  let r := reg.toNat
  let v := value.toNat
  let m := m.count ATT_RXTLP_LO 1
  if !m.barsOpen f then m.send .attUr
  else
    let x := m.attFn f
    match r with
    | 0x14 => (m.setAttFn f { x with cc := v % 2 ^ 32 }).attRecord f 2 r v
    | 0x24 => (m.setAttFn f { x with aqa := v % 2 ^ 32 }).attRecord f 3 r v
    | 0x28 => (m.setAttFn f { x with asq := v }).attRecord f 3 r v
    | 0x2C => (m.setAttFn f { x with asq := x.asq % 2 ^ 32 + v % 2 ^ 32 * 2 ^ 32 }).attRecord f 3 r v
    | 0x30 => (m.setAttFn f { x with acq := v }).attRecord f 3 r v
    | 0x34 => (m.setAttFn f { x with acq := x.acq % 2 ^ 32 + v % 2 ^ 32 * 2 ^ 32 }).attRecord f 3 r v
    | _ =>
      if 0x1000 ≤ r ∧ r < 0x1200 ∧ r % 4 = 0 then
        let b := tableSet (fun _ => 0) m.att.bells (128 * f + (r - 0x1000) / 4) (v % 2 ^ 32)
        (m.setAtt { m.att with bells := b }).attRecord f 1 r v
      else m

/-! ## Descriptors that stop (R336, R338, R340, R341) -/

/-- An A descriptor completes with code 0x07 and an epstat; its outstanding requests' data is discarded. -/
def Fjoek.attFail (m : Fjoek) (d : Desc) (epstat : Nat) : Fjoek :=
  let l := m.att.reqs.map fun r => if r.desc = some d.id then { r with desc := none } else r
  let m := m.setAtt { m.att with reqs := l }
  let m := m.each [0, 1, 3, 4, 5] fun k m =>
    let q := m.draws k
    let q' := q.filter fun w => w.who != .desc d.id
    if q = q' then m else (m.setDraws k q').serve k
  m.completeDesc { d with code := 7, epstat := epstat, detail := 0, result := 0 }

/-- Started and waiting A descriptors of function `f`, in the order of issue. -/
def Fjoek.fnDescs (m : Fjoek) (f : Nat) : List Desc := m.mngl.descs.filter fun d => d.onFn f && d.phase != .done

/-- Park one descriptor: it keeps its leases and issues nothing; data of outstanding reads is discarded (R338). -/
def Fjoek.parkDesc (m : Fjoek) (d : Desc) : Fjoek :=
  if d.phase = .parked then m
  else
    let l := m.att.reqs.map fun r => if r.desc = some d.id then { r with desc := none } else r
    let m := m.setAtt { m.att with reqs := l }
    let m := m.each [0, 1, 3, 4, 5] fun k m =>
      let q := m.draws k
      let q' := q.filter fun w => w.who != .desc d.id
      if q = q' then m else (m.setDraws k q').serve k
    (m.setDesc { d with phase := .parked }).count ATT_PARKED_LO 1

def Fjoek.parkFn (m : Fjoek) (f : Nat) : Fjoek := m.each (m.fnDescs f) fun d m => m.parkDesc d

/-- Parked descriptors complete in the order of issue with epstat 0x0001 (R338). -/
def Fjoek.unparkFn (m : Fjoek) (f : Nat) : Fjoek :=
  m.each ((m.fnDescs f).filter fun d => d.phase == .parked) fun d m => m.attFail d 1

/-- Pending vectors of function `f` that can be sent now are sent, and their bits clear (R343). -/
def Fjoek.sendPending (m : Fjoek) (f : Nat) : Fjoek :=
  m.each ((m.att.pba.filter fun e => e.1 / 2048 == f).map fun e => e.1 % 2048) fun v m =>
    if m.msixSendable f v then
      let m := m.setAtt { m.att with pba := tableSet (fun _ => false) m.att.pba (2048 * f + v) false }
      m.attRaise f v
    else m

/-! ## Bus Master Enable (R338) -/

def Fjoek.bmeClear (m : Fjoek) (f : Nat) : Fjoek :=
  let x := m.attFn f
  if !x.bme then m
  else
    let m := (m.setAttFn f { x with bme := false }).when (!m.trailing) fun m => m.parkFn f
    let m := (m.stateRecord f 5).cause ATT_STAT_bme 433
    m.logFn f (m.fnGate f)

def Fjoek.bmeSet (m : Fjoek) (f : Nat) : Fjoek :=
  let x := m.attFn f
  if x.bme then m
  else
    let m := m.setAttFn f { x with bme := true }
    let m := m.when (m.attDst == 0 && !m.trailing) fun m => m.unparkFn f
    let m := (m.stateRecord f 5).cause ATT_STAT_bme 433
    (m.logFn f (m.fnGate f)).sendPending f

/-- BUS_MASTER_DISABLE: a configuration write clears Bus Master Enable of an enabled function. -/
def execBusMasterDisable (f : Fin 64) (s : State) := s.on fun m =>
  if m.fnEnabled f.val ∧ m.isOn ATT_LINK_up then m.bmeClear f.val else m
/-- BUS_MASTER_ENABLE. -/
def execBusMasterEnable (f : Fin 64) (s : State) := s.on fun m =>
  if m.fnEnabled f.val ∧ m.isOn ATT_LINK_up then m.bmeSet f.val else m

/-! ## D-states (R345) -/

/-- Enabled functions. -/
def Fjoek.fnsOn (m : Fjoek) : List Nat := (List.range 64).filter m.fnEnabled

def Fjoek.setDst (m : Fjoek) (d : Nat) : Fjoek :=
  if m.attDst = d then m
  else
    let m := m.setAttFn 0 { m.attFn 0 with dst := d }
    let m := m.each m.fnsOn fun f m =>
      if d = 0 then (if (m.attFn f).bme then (m.when (!m.trailing) fun m => m.unparkFn f).sendPending f else m)
      else m.when (!m.trailing) fun m => m.parkFn f
    let m := m.each m.fnsOn fun f m => (m.stateRecord f 6).logFn f (m.fnGate f)
    m.cause ATT_STAT_dstate 436

/-- D3HOT_ENTRY. -/
def execD3hotEntry (s : State) := s.on fun m => if m.isOn ATT_LINK_up then m.setDst 3 else m
/-- D0_ENTRY. -/
def execD0Entry (s : State) := s.on fun m => if m.isOn ATT_LINK_up then m.setDst 0 else m

/-! ## Resets (R341, R342) -/

/-- Steps 1 to 3 for one function: its descriptors complete with `epstat`, and its tags are freed without quarantine. -/
def Fjoek.flrStart (m : Fjoek) (epstat f : Nat) : Fjoek :=
  let m := m.setAttFn f { m.attFn f with flr := true }
  let mine := m.att.reqs.filter fun r => r.fn == f
  let m := m.setAtt { m.att with
    reqs := m.att.reqs.filter fun r => r.fn != f
    late := m.att.late ++ (mine.filter fun r => !r.quarantined).map (·.tag) }
  let m := m.when (!m.trailing) fun m => m.each (m.fnDescs f) fun d m => m.attFail d epstat
  m.logFn f epstat

/-- Initiate FLR of function `f`; that of the PF takes every VF with it, enabled or not, and clears VF Enable and NumVFs. -/
def Fjoek.flrOf (m : Fjoek) (epstat f : Nat) : Fjoek :=
  if f = 0 then
    let m := m.each (List.range 64) fun g m => m.flrStart epstat g
    (m.put ATT_VFST_vfen 0).put ATT_VFST_numvf 0
  else m.flrStart epstat f

/-- FLR. -/
def execFlr (f : Fin 64) (s : State) := s.on fun m =>
  if m.fnEnabled f.val ∧ m.isOn ATT_LINK_up then m.flrOf 3 f.val else m

/-- Step 4: configuration space, BAR2 registers, MSI-X table and PBA and INTx state at their reset values. The PF's sticky bits
stay (R342, R346). -/
def Fjoek.fnClear (m : Fjoek) (f : Nat) : Fjoek :=
  let x := m.attFn f
  let y : AttFn := if f = 0 then { attFnReset 0 with pmeEn := x.pmeEn, pmeSt := x.pmeSt, aer := x.aer, ovr := x.ovr }
    else { attFnReset f with ovr := x.ovr }
  let m := m.setAttFn f y
  let m := m.setAtt { m.att with
    cfg := m.att.cfg.filter fun e => e.1 / 1024 != f
    bells := m.att.bells.filter fun e => e.1 / 128 != f
    msix := m.att.msix.filter fun e => e.1 / 2048 != f
    pba := m.att.pba.filter fun e => e.1 / 2048 != f }
  let m := (m.setReg (ATT_INTMS f) 0).setReg (ATT_CSTS f) 0
  if f = 0 then (m.setReg ATT_INTXST 0).intxUpdate else m

/-- Steps 4 and 5. -/
def Fjoek.flrEnd (m : Fjoek) (f : Nat) : Fjoek :=
  if !(m.attFn f).flr then m
  else
    let m := ((m.fnClear f).stateRecord f 4).cause ATT_STAT_flr 434
    m.logFn f (m.fnGate f)

/-- FLR_COMPLETE: within 10 ms. VFs that went with an FLR of the PF end with it. -/
def execFlrComplete (f : Fin 64) (s : State) := s.on fun m =>
  if f.val = 0 then m.each (List.range 64) fun g m => m.flrEnd g else m.flrEnd f.val

/-- A conventional reset: every function as an FLR of the PF, and the link (R342). -/
def Fjoek.attReset (m : Fjoek) (epstat : Nat) : Fjoek :=
  let up := m.isOn ATT_LINK_up
  let m := m.flrOf epstat 0
  let m := (m.put ATT_LINK_up 0).put ATT_LINK_flit 0
  let m := (m.put ATT_LINK_width 0).put ATT_LINK_speed 0
  m.when up fun m => m.cause ATT_STAT_link 432

/-- CONVENTIONAL_RESET. ATT_PERST_N asserted in D3hot is the entry to D3cold (R345). -/
def execConventionalReset (cause : AttReset) (s : State) := s.on fun m =>
  match cause with
  | .perst =>
    let cold := m.attDst = 3
    let m := m.attReset 3
    (m.setAtt { m.att with perst := true, d3cold := m.att.d3cold || cold }).beginStop 9
  | .hot => m.attReset 3
  | .dlDown => m.attReset 7

/-- ATT_LINK_UP: ATT_PERST_N has deasserted and the link has trained (R330). ATT_WAKE_N is released as ATT_PERST_N deasserts. -/
def execAttLinkUp (speed : Fin 4) (width : Fin 17) (flit : Bool) (s : State) := s.on fun m =>
  let m := m.setAtt { m.att with perst := false, wakeLow := false, d3cold := false }
  let m := m.when (m.power == 3 || m.power == 4) fun m => m.startDomain 9
  if !m.runs 9 ∨ m.isOn ATT_LINK_up then m
  else
    let m := (m.put ATT_LINK_up 1).put ATT_LINK_speed speed.val
    ((m.put ATT_LINK_width width.val).put ATT_LINK_flit (bnat flit)).cause ATT_STAT_link 432

/-! ## Interrupts and wake (R343, R344, R346) -/

/-- INTERRUPT_RAISE: a write of ATT_IRQ. -/
def execInterruptRaise (f : Fin 64) (vec : BitVec 11) (s : State) := s.on fun m => m.attRaise f.val vec.toNat

/-- A W1C of ATT_INTXST. -/
def Fjoek.intxClear (m : Fjoek) (bits : Nat) : Fjoek :=
  let v := m.reg ATT_INTXST
  (m.setReg ATT_INTXST (v - (v &&& bits))).intxUpdate

/-- INTX_STATUS_CLEAR. -/
def execIntxStatusClear (bits : Word32) (s : State) := s.on fun m => m.intxClear bits.toNat

/-- WAKE_REQUEST: a write of 1 to ATT_WAKE.req. -/
def execWakeRequest (s : State) := s.on fun m => m.attWake

/-- PME_REPEAT: every 100 ms PM_PME is sent again until PME_Status is cleared. -/
def execPmeRepeat (s : State) := s.on fun m =>
  let x := m.attFn 0
  if x.dst = 3 ∧ x.pmeSt ∧ x.pmeEn ∧ !m.att.d3cold then m.send .pme else m

/-- MSIX_TABLE_WRITE: a vector's entry is written; a pending vector that can now be sent is sent. -/
def execMsixTableWrite (f : Fin 64) (vec : BitVec 11) (addr : Word64) (data : Word32) (mask : Bool) (s : State) := s.on fun m =>
  let f := f.val
  let v := vec.toNat
  if !m.barsOpen f then m.send .attUr
  else if attVectors f ≤ v then m
  else
    let t := tableSet msixReset m.att.msix (2048 * f + v) { addr := addr.toNat, data := data.toNat, mask := mask }
    (m.setAtt { m.att with msix := t }).sendPending f

/-! ## Configuration writes (R331) -/

/-- VF Enable and NumVFs; the lead logs what changes for a function. -/
def Fjoek.enableVfs (m : Fjoek) (en n : Nat) : Fjoek :=
  let fs := (List.range 64).filter fun f => m.fnEnabled f != (f == 0 || (en == 1 && decide (f ≤ n)))
  ((m.put ATT_VFST_vfen en).put ATT_VFST_numvf n).each fs fun f m => m.logFn f (m.fnGate f)

/-- A configuration write of a dword of function `f`. -/
def Fjoek.cfgWrite (m : Fjoek) (f o v : Nat) : Fjoek :=
  let x := m.attFn f
  match o with
  | 0x04 =>
    let m := (m.setAttFn f { x with mem := bitOf v 1, intxDis := bitOf v 10 })
    let m := if bitOf v 2 then m.bmeSet f else m.bmeClear f
    if f = 0 then m.intxUpdate else m
  | 0x44 =>
    if f ≠ 0 then m
    else
      let st := x.pmeSt && !bitOf v 15
      let m := m.setAttFn 0 { x with pmeEn := bitOf v 8, pmeSt := st }
      let m := if bitOf v 8 ∧ m.isOn ATT_WAKE_pend then (m.put ATT_WAKE_pend 0).attWake else m
      if v % 4 = 3 then m.setDst 3 else if v % 4 = 0 then m.setDst 0 else m
  | 0x50 =>
    let m := m.setAttFn f { x with msixEn := bitOf v 31, fmask := bitOf v 30 }
    let m := if f = 0 then m.intxUpdate else m
    m.sendPending f
  | 0x78 =>
    let m := m.setAttFn f { x with mps := Nat.min 2 (bitsOf v 7 5), mrrs := Nat.min 5 (bitsOf v 14 12) }
    if bitOf v 15 then m.flrOf 3 f else m
  | 0x98 => m.setAttFn f { x with ctoVal := v % 16, ctoDis := bitOf v 4 }
  | 0x104 => m.setAttFn f { x with aer := x.aer - (x.aer &&& v) }
  | 0x170 => if f ≠ 0 then m else m.enableVfs (v % 2) (m.get ATT_VFST_numvf)
  | 0x178 => if f ≠ 0 then m else m.enableVfs (m.get ATT_VFST_vfen) (Nat.min 63 (v % 65536))
  | _ => m.setAtt { m.att with cfg := tableSet (fun _ => 0) m.att.cfg (1024 * f + o / 4) v }

/-- PCI_CONFIG_WRITE. -/
def execPciConfigWrite (f : Fin 64) (off : BitVec 12) (value : Word32) (s : State) := s.on fun m =>
  if m.isOn ATT_LINK_up ∧ m.fnEnabled f.val ∧ off.toNat % 4 = 0 then m.cfgWrite f.val off.toNat value.toNat else m

/-! ## Requests (R336, R337) -/

def Desc.attFn (d : Desc) : Nat := d.w 4 % 64

/-- The lowest tag free: 14 bits in FLIT mode, 10 otherwise; at most 1,024 are outstanding. -/
def freeTag (l : List AttReq) : Nat → Nat → Option Nat
  | 0, _ => none
  | n + 1, t => if l.any fun r => r.tag == t then freeTag l n (t + 1) else some t

def Fjoek.attTag (m : Fjoek) : Option Nat :=
  if 1024 ≤ (m.att.reqs.filter fun r => !r.quarantined).length then none
  else freeTag m.att.reqs (if m.isOn ATT_LINK_flit then 16384 else 1024) 0

/-- A request TLP is created: its item enters the digest, and it leaves as an output (R358, R366). -/
def Fjoek.attSend (m : Fjoek) (f : Nat) (write ep : Bool) (addr len tag : Nat) (data : List Byte)
    (own : Option (Nat × Place)) : Fjoek :=
  let item := 3 :: itemBytes (bnat write) [f, addr, len]
  let m := match own with
    | some o => m.digestPayload item o.1 o.2 len
    | none => m.digestItem (item ++ List.replicate 8 0)
  (m.count ATT_TXTLP_LO 1).output (.attTlp f write ep addr len tag data)

/-- Read requests of a descriptor are sent from `d.sent` on, as long as a tag is free and its function enabled (R336). A trailing twin sends
none, so its requests take no tag. -/
def readTlps : Nat → Desc → Fjoek → Fjoek
  | 0, d, m => m.setDesc d
  | n + 1, d, m =>
    if d.len ≤ d.sent then m.setDesc d
    else if !m.trailing ∧ !m.fnEnabled d.attFn then (m.setDesc d).attFail d 4
    else
      match (if m.trailing then some 0 else m.attTag) with
      | none => m.setDesc d
      | some t =>
        let f := d.attFn
        let len := Nat.min (128 * 2 ^ (m.attFn f).mrrs) (d.len - d.sent)
        let r : AttReq := { tag := t, fn := f, desc := some d.id, off := d.sent, len := len, quarantined := false }
        let m := m.when (!m.trailing) fun m => m.setAtt { m.att with reqs := m.att.reqs ++ [r] }
        readTlps n { d with sent := d.sent + len } (m.attSend f false false (d.w 2 + d.sent) len t [] none)

/-- Write TLPs of a descriptor: poisoned where the source is uncorrectable (R114). -/
def writeTlps (bad : List (Nat × Nat)) : Nat → Nat → Desc → Fjoek → Fjoek
  | 0, _, _, m => m
  | n + 1, o, d, m =>
    if d.len ≤ o then m
    else
      let f := d.attFn
      let src := placeOf 0 (d.w 2)
      let len := Nat.min (128 * 2 ^ (m.attFn f).mps) (d.len - o)
      let ep := bad.any fun b => decide (b.1 < o + len ∧ o < b.1 + b.2)
      let b := (src.at o).bytes m len
      writeTlps bad n (o + len) d (m.attSend f true ep (d.w 1 + o) len 0 b (some (d.key, src.at o)))

/-- A MOVE with an A endpoint starts (R336). -/
def Fjoek.startAttach (m : Fjoek) (d : Desc) : Fjoek :=
  let g := m.fnGate d.attFn
  if g = 1 then m.parkDesc d
  else if g ≠ 0 then m.acted { d with epstat := g } 7 0
  else if d.dsp = 3 then
    let src := placeOf 0 (d.w 2)
    let (sp, m) := m.spans d.req src d.len
    (writeTlps sp (d.len + 1) 0 d m).acted d (spanCode sp).1 (spanCode sp).2
  else readTlps (d.len + 1) { d with phase := .running } m

/-- Descriptors with reads still to send go on, in order, as tags come free. -/
def Fjoek.moreReads (m : Fjoek) : Fjoek :=
  m.each (m.mngl.descs.filter fun d => d.op == 0 && d.ssp == 3 && d.phase == .running && decide (d.sent < d.len))
    fun d m => readTlps (d.len + 1) d m

/-- ATT_COMPLETION (R338, R340, R341). -/
def execAttCompletion (tag : BitVec 14) (status : CplStatus) (data : List Byte) (s : State) := s.on fun m =>
  let t := tag.toNat
  let m := m.count ATT_RXTLP_LO 1
  match m.att.reqs.find? fun r => r.tag == t with
  | none =>
    if m.att.late.contains t then (m.setAtt { m.att with late := m.att.late.erase t }).count ATT_LATE_LO 1
    else
      let m := m.setAttFn 0 { m.attFn 0 with aer := (m.attFn 0).aer ||| 2 ^ 16 }
      m.count ATT_UNEXP_LO 1
  | some r =>
    let m := m.setAtt { m.att with reqs := m.att.reqs.filter fun q => q.tag != t }
    if r.quarantined then (m.count ATT_LATE_LO 1).moreReads
    else
      match r.desc.bind m.findDesc with
      | none => m.moreReads
      | some d =>
        let dst := placeOf 0 (d.w 1)
        if m.trailing then m
        else match status with
        | .ok =>
          let m := m.putAt (dst.at r.off) (data.take r.len)
          if d.len ≤ d.sent ∧ !(m.att.reqs.any fun q => q.desc == some d.id) then
            (m.acted d 0 0).moreReads
          else m.moreReads
        | .poisoned =>
          let m := (m.putAt (dst.at r.off) (data.take r.len)).poisonAt dst r.off r.len
          (m.attFail d 6).moreReads
        | _ => (m.attFail d 5).moreReads

/-- COMPLETION_TIMEOUT: not with Completion Timeout Disable, and not for a parked descriptor's request. -/
def execCompletionTimeout (tag : BitVec 14) (s : State) := s.on fun m =>
  let t := tag.toNat
  match m.att.reqs.find? fun r => r.tag == t && !r.quarantined with
  | none => m
  | some r =>
    match r.desc.bind m.findDesc with
    | none => m
    | some d =>
      let x := m.attFn r.fn
      if x.ctoDis then m
      else
        let m := m.setAttFn r.fn { x with aer := x.aer ||| 2 ^ 14 }
        let l := m.att.reqs.map fun q => if q.tag = t then { q with quarantined := true, desc := none } else q
        let m := m.setAtt { m.att with reqs := l }
        ((m.count ATT_CTO_LO 1).cause ATT_STAT_cto 435).attFail d 2

/-- QUARANTINE_END: twice the timeout has passed since the request's transmission. -/
def execQuarantineEnd (tag : BitVec 14) (s : State) := s.on fun m =>
  (m.setAtt { m.att with reqs := m.att.reqs.filter fun r => !(r.tag == tag.toNat && r.quarantined) }).moreReads

end Sys2Proof.Machine
end

