-- ==== Sys2Proof/Machine/SeamContext.lean ====
section
/-! DEFINITION. The Context class of the Seam instruction set (R89): its checks at issue, which follow the word tables of R277
and R306 and the state rules of R276, and what a context access does when it completes. -/

namespace Sys2Proof.Machine

/-! ## Which words a strand may read and write (R277) -/

/-- Words up to 0x0FF are open to reads; the rest is private to the hardware. -/
def ctxReadable (w : Nat) : Bool := decide (w < 32)

/-- The bits of words 0, 1, 8 and 9 that strands write; the others keep their value (assumption 24). -/
def ctxMask (w : Nat) : Nat :=
  match w with
  | 0 => 2 ^ 64 - 1 - 0xC00000
  | 1 => 2 ^ 44 - 2 ^ 24
  | 8 => 2 ^ 24 - 1
  | 9 => 2 ^ 24 - 1
  | _ => 2 ^ 64 - 1

/-- The permitted writes of the state (R276). -/
def stateStep (old new : Nat) : Bool :=
  new == 5 || (old == 0 && new == 1) || (old == 1 && new == 2) || (old == 2 && new == 3) || (old == 5 && new == 0)

/-- Strand `k` may write `v` to word `w` of context `n` now (R276, R277). -/
def Fjoek.ctxWritable (m : Fjoek) (k n w v : Nat) : Bool :=
  let st := m.qpState n
  let open_ := st == 0 || st == 1
  match w with
  | 0 =>
    let same := bitsOf v 21 3 == bitsOf (m.ctxW n 0) 21 3 && v / 2 ^ 24 == m.ctxW n 0 / 2 ^ 24
    m.privileged k && stateStep st (v % 8) && (if open_ then decide (3 ≤ bitsOf v 7 5 ∧ bitsOf v 7 5 ≤ 5) else same)
  | 8 => m.privileged k && (st == 1 || st == 2)
  | 9 => m.privileged k && st == 1
  | 10 => false
  | _ => if w < 8 then m.privileged k && open_ else decide (w < 32)

/-- Write a word as R277 gives: the state's own effects follow (R276, R291). -/
def Fjoek.ctxWrite (m : Fjoek) (n w v : Nat) : Fjoek :=
  let mask := ctxMask w
  let old := m.ctxW n w
  let new := (v &&& mask) + (old - (old &&& mask))
  match w with
  | 0 =>
    if v % 8 = 5 then m.qpError n 8
    else
      let m := m.setCtxW n 0 new
      if v % 8 = 0 then m.qpToReset n
      else if v % 8 = 3 then (m.setQp n { m.qp n with wrapTx := 0, wrapRx := 0 }).pump n
      else m
  | 8 => (m.setCtxW n 8 new).settlePsn n
  | _ => m.setCtxW n w new

/-! ## Issue -/

/-- The 512 bytes of a context, or the 32 of a key entry, hold uncorrectable data. -/
def Fjoek.ctxBad (m : Fjoek) (n : Nat) : Bool × Fjoek :=
  if m.xport.cached.contains n then (false, m) else m.hbmDetect none (m.ctxAddr n) 512

/-- An access to a queue pair context: number, refused words, uncorrectable data, then alignment (R71, R89). -/
def Fjoek.qAccess (m : Fjoek) (i : Issue) (uses : List Nat) (ra : Fin 32) (off : BitVec 9) (ok : Strand → Nat → Nat → Bool)
    (mk : Strand → Nat → Nat → Access) : Fjoek :=
  m.issueHold i (ra.val :: uses) Strand.accsFull fun k x m =>
    let n := (x.rd ra.val).toNat
    let o := off.toNat
    if 65536 ≤ n ∨ !ok x n (o / 8) then m.faultStrand k 0x07
    else
      let (bad, m) := m.ctxBad n
      if bad then m.faultStrand k 0x07
      else if o % 8 ≠ 0 then m.faultStrand k 0x06
      else
        let hit := m.xport.cached.contains n
        let m := m.when (!hit) fun m => m.perf (k / 8) (k % 8) 0x00E (some (k % 8, x.pc.toNat, x.gen))
        (m.ctxReady n).2.startAccess k 0x00D x (mk x n o)

/-- `qld`. -/
def execQld (i : Issue) (rd ra : Fin 32) (off : BitVec 9) (s : State) := s.on fun m =>
  m.qAccess i [onlyWrites rd] ra off (fun _ _ w => ctxReadable w) fun _ n o =>
    { kind := .qld, rd := rd.val, pe := 0, addr := n, off := o, data := 0, cmp := 0, hung := false }
/-- `qst`. -/
def execQst (i : Issue) (ra rb : Fin 32) (off : BitVec 9) (s : State) := s.on fun m =>
  m.qAccess i [rb.val] ra off (fun x n w => m.ctxWritable (issueKey i) n w (x.rd rb.val).toNat) fun x n o =>
    { kind := .qst, rd := 0, pe := 0, addr := n, off := o, data := x.rd rb.val, cmp := 0, hung := false }
/-- `qcas`: refused where its word or its new value is. A new value that R277 forbids faults at issue, before it is known whether the
compare succeeds: R89 and R277 do not say which comes first (DESIGN CHOICE, assumption 103). -/
def execQcas (i : Issue) (rd ra rb : Fin 32) (off : BitVec 9) (s : State) := s.on fun m =>
  m.qAccess i [rd.val, rb.val] ra off (fun x n w => m.ctxWritable (issueKey i) n w (x.rd rb.val).toNat) fun x n o =>
    { kind := .qcas, rd := rd.val, pe := 0, addr := n, off := o, data := x.rd rb.val, cmp := x.rd rd.val, hung := false }

/-- `kld`: index and offset, uncorrectable entries, then alignment. The entry comes into Thimble's cache where it does not stand there (R89,
R307), and is read there, whatever has become of its bytes in HBM. -/
def execKld (i : Issue) (rd ra : Fin 32) (off : BitVec 9) (s : State) := s.on fun m =>
  m.issueHold i [onlyWrites rd, ra.val] Strand.accsFull fun k x m =>
    let n := (x.rd ra.val).toNat
    let o := off.toNat
    if 1048576 ≤ n ∨ 32 ≤ o then m.faultStrand k 0x07
    else
      let (bad, m) := if m.thim.cached.contains n then (false, m) else m.hbmDetect none (m.keyAddr n) 32
      if bad ∨ m.thim.bad.contains n then m.faultStrand k 0x07
      else if o % 8 ≠ 0 then m.faultStrand k 0x06
      else
        let m := (m.keyReady n).2
        m.startAccess k 0x00D x { kind := .kld, rd := rd.val, pe := 0, addr := n, off := o, data := 0, cmp := 0, hung := false }

/-- `kst`: always refused (R89, R306). -/
def execKst (i : Issue) (ra rb : Fin 32) (off : BitVec 9) (s : State) := s.on fun m =>
  m.issueHold i (if off.toNat < 512 then [ra.val, rb.val] else []) Strand.accsFull fun k _ m => m.faultStrand k 0x07

/-- `qrate`. -/
def execQrate (i : Issue) (ra rb : Fin 32) (s : State) := s.on fun m =>
  m.issueHold i [ra.val, rb.val] Strand.accsFull fun k x m =>
    let n := (x.rd ra.val).toNat
    if 65536 ≤ n then m.faultStrand k 0x07
    else
      let (bad, m) := m.ctxBad n
      if bad then m.faultStrand k 0x07
      else (m.ctxReady n).2.startAccess k 0x00D x
        { kind := .qrate, rd := 0, pe := 0, addr := n, off := 0, data := x.rd rb.val, cmp := 0, hung := false }

/-- `qpref`: start a load without waiting (R278); it is refused as every context instruction is (R89). -/
def execQpref (i : Issue) (ra : Fin 32) (s : State) := s.on fun m =>
  m.issue i [ra.val] fun k x m =>
    let n := (x.rd ra.val).toNat
    if 65536 ≤ n then m.faultStrand k 0x07
    else
      let (bad, m) := m.ctxBad n
      if bad then m.faultStrand k 0x07 else (m.ctxReady n).2.setStrand k x.next

/-! ## Completion -/

/-- The context or key entry of an access is in its cache, where it must be for the access to complete. -/
def Fjoek.ctxHere (m : Fjoek) (a : Access) : Bool :=
  if a.kind = .kld then m.thim.cached.contains a.addr else m.xport.cached.contains a.addr

/-- A load of what the access names starts, where none runs. -/
def Fjoek.ctxFetch (m : Fjoek) (a : Access) : Fjoek := if a.kind = .kld then (m.keyReady a.addr).2 else m.ctxLoad a.addr

/-- A context access of strand `k` takes effect: the value for its destination register, and the state. R89 refuses a write of a word that is
closed to strands at issue; where the word became closed between issue and completion, the write is dropped and the strand goes on
(assumption 70, DESIGN CHOICE). -/
def Fjoek.ctxPerform (m : Fjoek) (k : Nat) (a : Access) : Nat × Fjoek :=
  let n := a.addr
  let w := a.off / 8
  let v := a.data.toNat
  match a.kind with
  | .qld => (m.ctxW n w, m.ctxTouch n)
  | .qst => (0, if m.ctxWritable k n w v then (m.ctxWrite n w v).ctxTouch n else m)
  | .qcas =>
    let old := m.ctxW n w
    (old, if old = a.cmp.toNat ∧ m.ctxWritable k n w v then (m.ctxWrite n w v).ctxTouch n else m)
  | .kld => (m.keyNat n a.off 8, m.keyUsed n)
  | .qrate => (0, ((m.setRate n v).settleOwed n).pump n)
  | _ => (0, m)

end Sys2Proof.Machine
end

