-- ==== Sys2Proof/Machine/Bulk.lean ====
section
/-! DEFINITION. BULK_MOVE (R98, R100), which hands a descriptor to the endpoint that its space names, and what a Block reset
of MNGL does at the endpoints (R116). -/

namespace Sys2Proof.Machine

/-- An earlier descriptor that names the same queue pair has not reached the transport: it transmits first (R100, R111). -/
def Fjoek.qpTurn (m : Fjoek) (d : Desc) : Bool :=
  !m.mngl.descs.any fun e => decide (e.id < d.id) && e.ahead && e.onQp (d.w 4 % 65536)

/-- BULK_MOVE: spaces B and H move at once; drives, queue pairs and the local computer's memory are driven by their
endpoints. -/
def execBulkMove (id : Nat) (s : State) := s.on fun m =>
  match m.startedDesc id 0 with
  | none => m
  | some d =>
    match d.drive with
    | some p => (m.printsOut d).startDrive d p
    | none =>
      if d.dsp = 2 ∨ d.ssp = 2 then (if m.qpTurn d then (m.printsOut d).startTransport d else m)
      else if d.dsp = 3 ∨ d.ssp = 3 then (m.printsOut d).startAttach d
      else m.moveLocal d

/-- What a Block reset of MNGL does at a started descriptor's endpoint: slots of a drive are dead, a queue pair goes to ERROR
with cause 0x08, an attach completion is discarded (R116 step 4). -/
def Fjoek.endAtPort (d : Desc) (m : Fjoek) : Fjoek :=
  if !d.inFlight ∨ d.op ≠ 0 then m
  else
    let m := m.killDrive d
    if d.dsp = 2 ∨ d.ssp = 2 then m.qpError (d.w 4 % 65536) 8
    else if d.dsp = 3 ∨ d.ssp = 3 then
      m.setAtt { m.att with reqs := m.att.reqs.map fun r => if r.desc = some d.id then { r with desc := none } else r }
    else m

end Sys2Proof.Machine
end

