-- ==== Sys2Proof/Machine/Twin.lean ====
section
/-! DEFINITION. Twin operation: pairing and roles (R353, R354), the lead's side of the log (R355 to R358), epochs and their
digests (R365 to R369), self-check (R371, R372), resync (R377, R378), planned swap (R379), heartbeat and link (R351, R352) and
the health report (R380, R381). -/

namespace Sys2Proof.Machine

def Fjoek.setTwin (m : Fjoek) (t : Twin) : Fjoek := { m with twin := t }

def Fjoek.inTwin (m : Fjoek) : Bool := m.isOn TOP_STRAP_twin

/-- The module serves hosts: SERVE, and neither ceded nor stopped. -/
def Fjoek.serving (m : Fjoek) : Bool := m.power == 4 && !m.ceded && !m.twin.stopped

/-! ## Solo and stop (R22, R57) -/

/-- A lead goes solo: nothing waits for a trailing twin any more (R22, R57, R323, R372). -/
def Fjoek.goSolo (m : Fjoek) : Fjoek :=
  let m := ((((m.put TWIN_STAT_role 1).put TWIN_STAT_sync 0).put TWIN_STAT_solo 1).put TWIN_STAT_phase 0).leaveInstep
  let m := m.setTwin { m.twin with
    log := [], frozen := false, swapping := false, swapSeq := none, dispatchStopped := false, retryDue := false, own := []
    peer := [], uncompared := [], stopped := false, shadow := [] }
  let m : Fjoek := { m with mngl := { m.mngl with prints := [] } }
  let m := m.commitOutputs.settleFences
  (m.each m.thim.copies fun id m => m.mirrorAcked id).dispatch

/-- A trailing twin stops (R57, R357, R372). -/
def Fjoek.twinStop (m : Fjoek) : Fjoek :=
  let m := ((m.put TWIN_STAT_sync 0).put TWIN_STAT_phase 0).leaveInstep
  m.setTwin { m.twin with ring := [], held := [], stopped := true, own := [], peer := [], uncompared := [] }

/-- A twin command ends with a code; failed pairings and resyncs latch event 470 (R353, R377). -/
def Fjoek.twinEnd (m : Fjoek) (code : Nat) (event : Bool) : Fjoek :=
  ((m.put TWIN_CMDSTAT_busy 0).put TWIN_CMDSTAT_code code).when event fun m => m.cause TWIN_ESTAT_resync 470

/-! ## The state map and the copy (R377, R378) -/

/-- Entries of the state map up to the one with length 0: mode, base and length in pages. -/
def stateMap (m : Fjoek) (base : Nat) : Nat → Nat → List (List Nat)
  | 0, _ => []
  | k + 1, i =>
    let w := m.hbmNat (base + 16 * i) 16
    let n := bitsOf w 93 64
    if n = 0 then [] else [bitsOf w 95 94, bitsOf w 34 0, n] :: stateMap m base k (i + 1)

/-- The mode in which page `p` is copied: that of the first range of the map that holds it, none where it is not copied. -/
def pageMode (map : List (List Nat)) (p : Nat) : Option Nat :=
  ((map.find? fun e => decide (nth e 1 0 / 4096 ≤ p ∧ p < nth e 1 0 / 4096 + nth e 2 0)).map fun e => nth e 0 0).filter (· != 2)

/-- The pages that the map gives as prints. -/
def printPages (map : List (List Nat)) : Table Nat :=
  (map.filter fun e => nth e 0 0 == 1).foldl (fun t e =>
    (List.range (nth e 2 0)).foldl (fun t i => tableInsert t (nth e 1 0 / 4096 + i) 0) t) []

/-- Phase 1: MRAM and every range of the state map that is not skipped are sent, and pages written later are tracked. A copy
message names its range; the bytes are the memory's. -/
def Fjoek.startCopy (m : Fjoek) : Fjoek :=
  let l := (stateMap m (m.get TWIN_STMAP_base * 2 ^ 20) 4096 0).filter fun e => nth e 0 0 != 2
  let m := (m.put TWIN_STAT_phase 2).setTwin { m.twin with rewritten := [], retryDue := false }
  (m.send (.twinMsg 0x10 [4])).each l fun e m => m.send (.twinMsg 0x10 e)

/-- Write one copied range (R377). -/
def Fjoek.applyCopy (m : Fjoek) (c : CopyItem) : Fjoek :=
  let bytes := c.vals.map (BitVec.ofNat 8)
  match c.space with
  | .mram => m.mramPut c.addr bytes
  | .hbm => m.hbmPut c.addr bytes
  | .hbmPrint =>
    m.each c.vals.zipIdx fun v m => m.setTwin { m.twin with shadow := tableInsert m.twin.shadow (c.addr / 4096 + v.2) v.1 }
  | .program =>
    { m with seam := { m.seam with prog := c.vals.zipIdx.foldl (fun t v =>
        tableSet (fun _ => BitVec.ofNat 64 (2 ^ 64 - 1)) t (c.addr + v.2) (BitVec.ofNat 64 v.1)) m.seam.prog } }
  | .localMem => { m with seam := { m.seam with lmem := writeBytes m.seam.lmem c.addr bytes } }
  | .forwarding =>
    { m with fwd := { m.fwd with ents := tableSet emptyEntry m.fwd.ents c.addr (FwdEntry.ofBytes c.vals) } }
  | .vlan =>
    { m with fwd := { m.fwd with vlans := c.vals.zipIdx.foldl (fun t v => tableSet (fun _ => 0) t (c.addr + v.2) v.1) m.fwd.vlans } }
  | .context =>
    let n := c.addr / 64
    let m := if m.xport.cached.contains n then m else m.setXport { m.xport with cached := m.xport.cached ++ [n] }
    m.each c.vals.zipIdx fun v m => m.setXport { m.xport with
      lines := tableSet (fun _ => 0) m.xport.lines (c.addr + v.2) (BitVec.ofNat 64 v.1) }
  | .register => m.each c.vals.zipIdx fun v m => m.setReg (c.addr + 4 * v.2) v.1
  | .lock =>
    { m with locks := c.vals.zipIdx.foldl (fun t v => tableSet (fun _ => 0) t (c.addr + v.2) (BitVec.ofNat 64 v.1)) m.locks }

/-! ## Pairing (R353, R354) -/

/-- Step 3 and 4: each module draws 128 bits until S serves as z and H. -/
def drawKey : List Nat → Fjoek → Option Nat × Fjoek
  | [], m => (none, m)
  | p :: r, m =>
    let (a, m) := m.free64
    let (b, m) := m.free64
    let s := (a.toNat + 2 ^ 64 * b.toNat) ^^^ (p % 2 ^ 128)
    if s % 2 ^ 64 ≠ 0 then (some s, m) else drawKey r m

/-- Pairing goes on from step 3; with no usable draw it stays in phase 1. -/
def Fjoek.pairKeys (m : Fjoek) (draws : List Nat) : Fjoek :=
  match drawKey draws m with
  | (none, m) => m
  | (some s, m) =>
    let q : Mngl := { m.mngl with fpz := s % 2 ^ 64 }
    let m : Fjoek := { m with mngl := q }
    let m := m.put MNGL_FPSTAT_zset 1
    let m := m.setTwin { m.twin with hkey := s, diverged := 0, tries := 0, stopped := !m.isOn TWIN_STAT_role }
    if m.isOn TWIN_STAT_role then m.startCopy else m.put TWIN_STAT_phase 2

/-- Why pairing cannot start, by code; 0 where it can. -/
def Fjoek.pairCode (m : Fjoek) (peer : PeerInfo) : Nat :=
  if !m.isOn TWIN_CTL_en ∨ (m.get TWIN_STAT_phase ≠ 0 ∧ m.get TWIN_STAT_phase ≠ 7) then 1
  else if m.power ≠ 2 ∧ m.power ≠ 3 ∧ m.power ≠ 4 then 5
  else if !m.isOn TWIN_STAT_link then 2
  else if m.serving ∧ peer.serving then 4
  else 0

/-- The role by R354; the own serial number stands in the ledger's record. -/
def Fjoek.leadRole (m : Fjoek) (peer : PeerInfo) : Bool :=
  if m.serving then true
  else if peer.serving then false
  else if m.isOn TWIN_CTL_prefer ≠ peer.prefer then m.isOn TWIN_CTL_prefer
  else decide (ofBytes ((List.range 4).map fun i => bytesOf 4 (m.reg (OTP_REC (2 + i)))).flatten.reverse < peer.serial)

def Fjoek.pair (m : Fjoek) (peer : PeerInfo) : Fjoek :=
  if !m.inTwin then m
  else if m.get TWIN_STAT_phase = 1 then m.pairKeys peer.draws
  else if m.isOn TWIN_CMDSTAT_busy then m
  else
    let c := m.pairCode peer
    if c ≠ 0 then
      let m := m.twinEnd c true
      if m.isOn TWIN_STAT_sync ∨ m.ceded ∨ m.twin.stopped ∨ c = 1 then m
      else ((m.put TWIN_STAT_role 1).put TWIN_STAT_solo 1).when (c == 2) fun m => m.cause TWIN_ESTAT_link 464
    else
      let r := m.leadRole peer
      let m := (m.put TWIN_STAT_role (bnat r)).put TWIN_STAT_ceded 0
      ((m.put TWIN_CMDSTAT_busy 1).put TWIN_STAT_phase 1).pairKeys peer.draws

/-- PAIR. -/
def execPair (peer : PeerInfo) (s : State) := s.on fun m => m.pair peer

/-- TWIN_CMD BREAK, and a Block reset of TWIN: a lead goes solo, a trailing twin stops (R382). -/
def Fjoek.separate (m : Fjoek) : Fjoek := if m.isOn TWIN_STAT_role then m.goSolo else m.twinStop

def Fjoek.breakPair (m : Fjoek) : Fjoek :=
  if !m.inTwin ∨ m.isOn TWIN_CMDSTAT_busy then m
  else if m.isOn TWIN_STAT_sync then m.separate.twinEnd 0 false
  else m.twinEnd 1 false

/-- BREAK. -/
def execBreak (s : State) := s.on fun m => m.breakPair

/-! ## Swap (R379) -/

/-- The module is drained as phase 2 of R377 asks: every strand, and no lease of a strand and no descriptor remains. -/
def Fjoek.allDrained (m : Fjoek) : Bool :=
  (m.seam.strands.all fun e => m.drained e.1) && m.mngl.descs.isEmpty &&
    !m.mngl.leases.any fun e => e.2.live && decide (e.2.owner < 512)

/-- The drained point: the lead logs a SWAP record. -/
def Fjoek.swapPoint (m : Fjoek) : Fjoek :=
  if !m.allDrained ∨ m.twin.swapSeq.isSome then m
  else
    let q := m.twin.nextSeq
    let m := m.logTwin 0x10 0xFF []
    m.setTwin { m.twin with swapSeq := some q }

def Fjoek.swap (m : Fjoek) : Fjoek :=
  if !m.inTwin ∨ m.isOn TWIN_CMDSTAT_busy then m
  else if m.power ≠ 4 then m.twinEnd 5 false
  else if !m.isOn TWIN_STAT_link then m.twinEnd 2 false
  else if !m.leads ∨ m.get TWIN_STAT_phase ≠ 4 then m.twinEnd 1 false
  else
    let m := (m.put TWIN_CMDSTAT_busy 1).setTwin { m.twin with swapping := true, dispatchStopped := true }
    m.swapPoint

/-- SWAP. -/
def execSwap (s : State) := s.on fun m => m.swap

/-- The trailing twin has confirmed: the old lead trails from here on, and derives prints from its own full bytes. -/
def Fjoek.swapEnd (m : Fjoek) : Fjoek :=
  let m := ((m.setTxsup true).put TWIN_STAT_role 0).setTwin { m.twin with
    swapping := false, swapSeq := none, dispatchStopped := false, recvSeq := m.twin.nextSeq - 1, ring := [], log := []
    horizon := [], shadow := [], partItems := [], leadFns := [] }
  let m : Fjoek := { m with mngl := { m.mngl with prints := [] } }
  (m.cause TWIN_ESTAT_swap 474).twinEnd 0 false

/-! ## Resync (R377) -/

/-- TWIN_CMD RESYNC on a lead; `asked` says that the request came over the link: from a trailing twin to its lead, or from a
lead to the module that is to trail. -/
def Fjoek.resync (m : Fjoek) (asked : Bool) : Fjoek :=
  if !m.inTwin ∨ (m.isOn TWIN_CMDSTAT_busy ∧ !asked) then m
  else if asked ∧ (!m.isOn TWIN_STAT_role ∨ m.ceded) then
    let m := ((m.put TWIN_STAT_role 0).put TWIN_STAT_ceded 0).put TWIN_STAT_phase 2
    m.setTwin { m.twin with stopped := true, ring := [], held := [] }
  else
    let c :=
      if m.power ≠ 4 then 5 else if !m.isOn TWIN_STAT_link then 2
      else if !m.isOn TWIN_STAT_role ∨ m.ceded ∨ m.isOn TWIN_STAT_sync ∨ m.get TWIN_STAT_phase ≠ 0 then 1 else 0
    if c ≠ 0 then (if asked then m else m.twinEnd c false)
    else
      let m := m.setTwin { m.twin with tries := 0 }
      (m.put TWIN_CMDSTAT_busy 1).startCopy

/-- RESYNC. -/
def execResync (asked : Bool) (s : State) := s.on fun m => m.resync asked

/-- RESYNC_COPY_DONE: phase 2 begins; a lead stops dispatch and drains. -/
def execResyncCopyDone (s : State) := s.on fun m =>
  if m.get TWIN_STAT_phase ≠ 2 then m
  else
    let m := m.put TWIN_STAT_phase 3
    if m.isOn TWIN_STAT_role then m.setTwin { m.twin with dispatchStopped := true } else m

/-- Both modules enter in-step mode with the log at seq 1 (R377 steps 5 to 7). -/
def Fjoek.enterStep (m : Fjoek) : Fjoek :=
  let m := (((m.put TWIN_STAT_sync 1).put TWIN_STAT_solo 0).put TWIN_STAT_phase 4).setReg64 THIM_UNMIRPG_LO 0
  let m := m.setTwin { m.twin with
    nextSeq := 1, log := [], acked := 0, recvSeq := 0, ring := [], horizon := [], epoch := 0, epochRounds := [], closed := 0
    own := [], peer := [], uncompared := [], tries := 0, retryDue := false, dispatchStopped := false, stopped := false
    partItems := [], leadFns := [] }
  ((m.instepWrite true).count TWIN_RESYNCS_LO 1).twinEnd 0 false

/-- RESYNC_FREEZE_DRAINED: the rest is copied and both modules go on in step; on a lead that swaps, the drained point is
reached. -/
def execResyncFreezeDrained (copy : List CopyItem) (s : State) := s.on fun m =>
  if m.twin.swapping then m.swapPoint
  else if m.get TWIN_STAT_phase ≠ 3 then m
  else if m.isOn TWIN_STAT_role then
    if !m.allDrained then m
    else
      let map := stateMap m (m.get TWIN_STMAP_base * 2 ^ 20) 4096 0
      let m := m.each m.twin.rewritten fun p m => (pageMode map p).elim m fun d => m.send (.twinMsg 0x10 [d, 4096 * p, 1])
      let m := (m.send (.twinMsg 0x10 [5])).enterStep
      let m := m.setTwin { m.twin with shadow := printPages map }
      let m := m.each m.xport.qps fun e m => m.each e.2.held fun k m => m.logFrame k
      m.dispatch
  else
    let m := (m.each copy fun c m => m.applyCopy c).enterStep
    (m.setTxsup true).releaseBays

/-- RESYNC_FREEZE_TIMEOUT: the drain took longer than frzmax. -/
def execResyncFreezeTimeout (s : State) := s.on fun m =>
  if m.twin.swapping then
    if m.twin.swapSeq.isSome then m
    else ((m.setTwin { m.twin with swapping := false, dispatchStopped := false }).twinEnd 3 false).dispatch
  else if m.get TWIN_STAT_phase ≠ 3 then m
  else if !m.isOn TWIN_STAT_role then m.put TWIN_STAT_phase 0
  else
    let n := m.twin.tries + 1
    let m := (m.put TWIN_STAT_phase 0).setTwin { m.twin with tries := n, dispatchStopped := false, retryDue := decide (n < 8) }
    (m.when (decide (8 ≤ n)) fun m => m.twinEnd 3 true).dispatch

/-- RESYNC_RETRY: 1 s later. -/
def execResyncRetry (s : State) := s.on fun m => if m.twin.retryDue ∧ m.isOn TWIN_STAT_link then m.startCopy else m

/-- AUTORESYNC: a stopped trailing twin asks its lead for a resync. -/
def execAutoresync (s : State) := s.on fun m =>
  if m.twin.stopped ∧ m.isOn TWIN_CTL_autoresync ∧ m.isOn TWIN_STAT_link ∧ m.get TWIN_STAT_phase = 0 ∧ !m.isOn TWIN_STAT_role then
    (m.put TWIN_STAT_phase 2).send (.twinMsg 0x0B [])
  else m

/-! ## Takeover, steps 1 and 2 (R373), and cede (R374) -/

/-- A trailing twin in sync takes the lead's role and asserts TWIN_CEDE; its log is replayed before anything else. -/
def Fjoek.takeover (m : Fjoek) : Fjoek :=
  if m.isOn TWIN_STAT_role ∨ !m.isOn TWIN_STAT_sync then m
  else
    let m := ((m.put TWIN_STAT_role 1).put TWIN_STAT_phase 6).setTwin { m.twin with cedeOut := true }
    (m.cause TWIN_ESTAT_rolechg 468).count TWIN_TAKEOVER_LO 1

/-- CEDE. -/
def execCede (s : State) := s.on fun m =>
  if !m.inTwin then m else (m.setTwin { m.twin with cedeIn := true }).cede

/-! ## Heartbeat and link (R351, R352) -/

/-- HEARTBEAT_TOGGLE. `railFault` and `inputHeld` are the conditions that the world measures. -/
def execHeartbeatToggle (railFault inputHeld : Bool) (s : State) := s.on fun m =>
  if m.power = 4 ∧ m.isOn TWIN_CTL_en ∧ !m.isOn TWIN_CTL_hbstop ∧ !railFault ∧ !(m.isOn TWIN_STAT_role ∧ inputHeld) then
    m.setTwin { m.twin with hbOut := !m.twin.hbOut }
  else m

/-- HEARTBEAT_LOSS. -/
def execHeartbeatLoss (s : State) := s.on fun m =>
  if !m.inTwin ∨ !m.runs 13 then m
  else ((m.put TWIN_STAT_hb 0).cause TWIN_ESTAT_hbloss 467).takeover

/-- HEARTBEAT_EDGE. -/
def execHeartbeatEdge (s : State) := s.on fun m => if !m.inTwin ∨ !m.runs 13 then m else m.put TWIN_STAT_hb 1

/-- TWIN_LINK_DOWN: a pairing or resync in progress fails, a lead goes solo, and so does a
module that serves without a role in a pair; a trailing twin stops (R22, R351). -/
def execTwinLinkDown (group : Fin 4) (s : State) := s.on fun m =>
  if !m.inTwin then m
  else
    let was := m.isOn TWIN_STAT_link
    let m := (m.put ⟨TWIN_STAT, 4 + group.val, 4 + group.val⟩ 0).put TWIN_STAT_link 0
    if !was then m
    else
      let m := (m.flushPort 36).cause TWIN_ESTAT_link 464
      let ph := m.get TWIN_STAT_phase
      if m.ceded ∨ ph = 6 then m
      else
        let m := m.when (m.isOn TWIN_CMDSTAT_busy || ph == 1 || ph == 2 || ph == 3) fun m => m.twinEnd 2 true
        if m.isOn TWIN_STAT_role then m.goSolo
        else if m.twin.stopped ∨ m.isOn TWIN_STAT_sync then m.twinStop
        else m.when (m.power == 4) Fjoek.goSolo

/-- TWIN_LINK_UP. -/
def execTwinLinkUp (s : State) := s.on fun m =>
  if !m.inTwin ∨ !m.runs 13 then m else (m.put TWIN_STAT_groups 15).put TWIN_STAT_link 1

/-! ## Epochs (R365 to R369) -/

/-- Compare the digests of epoch `n` once it is closed and both are known. -/
def Fjoek.compareEpoch (m : Fjoek) (n : Nat) : Fjoek :=
  let p := tableGet (fun _ => 0) m.twin.peer n
  if !m.twin.uncompared.contains n ∨ p = 0 then m
  else
    let o := tableGet (fun _ => 0) m.twin.own n
    let m := m.setTwin { m.twin with
      uncompared := m.twin.uncompared.filter (· != n), own := tableErase m.twin.own n, peer := tableErase m.twin.peer n }
    if o + 1 = p then m else m.diverge n

/-- The peer's digest of epoch `n` arrives. -/
def Fjoek.peerDigest (m : Fjoek) (n v : Nat) : Fjoek :=
  (m.setTwin { m.twin with peer := tableSet (fun _ => 0) m.twin.peer n (v + 1) }).compareEpoch n

/-- EPOCH_RECORD. -/
def execEpochRecord (s : State) := s.on fun m =>
  if !m.leads then m
  else
    let n := m.twin.epoch + 1
    let r := (List.range 64).map m.nextRound
    let m := m.setTwin { m.twin with epoch := n, epochRounds := tableInsert m.twin.epochRounds n r }
    m.logTwin 0x0D 0xFF (n :: r)

/-- EPOCH_CLOSE: the next epoch closes once its end is processed and every engine has passed the rounds listed. -/
def execEpochClose (s : State) := s.on fun m =>
  let n := m.twin.closed
  let r := (tableFind m.twin.epochRounds (n + 1)).getD []
  if !(m.leads ∨ m.trailing) ∨ m.twin.epoch < n + 1 ∨ !(List.range 64).all fun e => decide (nth r e 0 ≤ m.round e) then m
  else
    let m := m.setTwin { m.twin with
      closed := n + 1, epochRounds := tableKeep (fun k => decide (n < k)) m.twin.epochRounds
      uncompared := m.twin.uncompared ++ [n] }
    let m := m.count TWIN_EPOCHS_LO 1
    let d := tableGet (fun _ => 0) m.twin.own n
    let m := if m.leads then m.logTwin 0x0E 0xFF [n, d % 2 ^ 64, d / 2 ^ 64] else m.send (.twinMsg 0x0E [n, d])
    m.compareEpoch n

/-- DIGEST_TIMEOUT: a closed epoch's digest has not come. -/
def execDigestTimeout (s : State) := s.on fun m =>
  match m.twin.uncompared.find? fun n => tableGet (fun _ => 0) m.twin.peer n == 0 with
  | some n => if m.leads ∨ m.trailing then m.diverge n else m
  | none => m

/-! ## The log, the lead's side (R357) -/

/-- LOG_ACK: the trailing twin holds every record up to `seq`, and returns digests with it. -/
def execLogAck (seq : Nat) (digests : List (Nat × Nat)) (s : State) := s.on fun m =>
  if !m.leads then m
  else
    let a := Nat.max m.twin.acked (Nat.min seq (m.twin.nextSeq - 1))
    let m := m.setTwin { m.twin with acked := a, log := m.twin.log.filter fun r => decide (a < r.seq) }
    let m := m.commitOutputs.settleFences
    let m := m.each digests fun d m => m.peerDigest d.1 d.2
    match m.twin.swapSeq with
    | some q => if q ≤ a then m.swapEnd else m
    | none => m

/-- Unacknowledged log, in bytes. -/
def Fjoek.backlog (m : Fjoek) : Nat := (m.twin.log.map fun r => logBytes r.kind r.payload).sum

/-- BACKLOG_BREAK: the backlog stood above 8 MiB for 100 µs. -/
def execBacklogBreak (s : State) := s.on fun m => if !m.leads then m else m.goSolo.cause TWIN_ESTAT_lag 471

/-- HORIZON_RECORD: a HORIZON for each engine. -/
def execHorizonRecord (s : State) := s.on fun m =>
  if !m.leads then m else m.each (List.range 64) fun e m => m.logTwin 0x0F e [m.nextRound e]

/-! ## Self-check (R371, R372) -/

/-- The lead is presumed faulty, or cannot answer, seen from this module. -/
def Fjoek.checkOutcome (m : Fjoek) (lead trail : Nat) : Fjoek :=
  if m.isOn TWIN_STAT_role then
    if lead ≠ 0 ∧ trail = 0 then m else m.goSolo
  else if lead ≠ 0 ∧ trail = 0 then m.takeover else m.twinStop

/-- SELF_CHECK_RESULT: both results are known. -/
def execSelfCheckResult (own peer : BitVec 8) (s : State) := s.on fun m =>
  if m.get TWIN_STAT_phase ≠ 5 then m
  else
    let m := ((m.put TWIN_SCHK_own own.toNat).put TWIN_SCHK_peer peer.toNat).put TWIN_SCHK_done 1
    let m := m.cause TWIN_ESTAT_schk 466
    if m.isOn TWIN_STAT_role then m.checkOutcome own.toNat peer.toNat else m.checkOutcome peer.toNat own.toNat

/-- SELF_CHECK_TIMEOUT: the peer's result has not come within 250 µs. -/
def execSelfCheckTimeout (s : State) := s.on fun m =>
  if m.get TWIN_STAT_phase ≠ 5 ∨ m.isOn TWIN_SCHK_done then m
  else if m.isOn TWIN_STAT_role then m.goSolo else m.takeover

/-! ## Continuous self-test and the health report (R380, R381) -/

/-- The worst margin and its lane; 0xFFFF of lane 0 before any sample. -/
def Fjoek.worstMargin (m : Fjoek) : Nat × Nat :=
  m.twin.margins.foldl (fun b e => if e.2 - 1 < b.1 then (e.2 - 1, e.1) else b) (0xFFFF, 0)

/-- The 128-byte health record; `cw` and `ucw` are the link's codewords since the last report, 100 ms ago. -/
def Fjoek.healthBytes (m : Fjoek) (cw ucw : Nat) : List Byte :=
  let w := m.worstMargin
  let b := bytesOf 4 (m.get TWIN_STAT_role + 2 * m.get TWIN_STAT_sync + 4 * m.get TWIN_STAT_solo + 8 * m.get TWIN_STAT_ceded) ++ bytesOf 4 m.twin.healthSeq ++ bytesOf 8 m.time ++
    bytesOf 4 m.twin.scrubCe ++ bytesOf 4 m.twin.scrubUe ++ bytesOf 4 m.twin.patrolErrs ++ bytesOf 4 (m.reg FWD_CRCERR_LO) ++
    bytesOf 8 m.twin.xcheckMask ++ bytesOf 2 w.1 ++ bytesOf 2 w.2 ++ bytesOf 4 (m.get BAY_CALW_dev) ++
    bytesOf 4 (m.get FEED_HOLDC_uf) ++ bytesOf 4 (10 * cw) ++ bytesOf 4 (10 * ucw) ++ bytesOf 4 (m.reg THIM_UNMIRPG_LO) ++
    bytesOf 4 (m.get TWIN_PORTDIFF_ports) ++ bytesOf 4 m.twin.diverged ++ List.replicate 52 0
  b ++ bytesOf 4 (crc32c (b.map BitVec.toNat))

/-- HEALTH_REPORT; `peer` is the trailing twin's record where one has arrived. -/
def execHealthReport (cw ucw retx : Nat) (peer : Option (List Word32)) (s : State) := s.on fun m =>
  if !m.inTwin ∨ !m.runs 13 then m
  else
    let m := m.setTwin { m.twin with healthSeq := m.twin.healthSeq + 1 }
    let m := ((m.count TWIN_LINKCW_LO cw).count TWIN_LINKUCW_LO ucw).count TWIN_RETX_LO retx
    let b := m.healthBytes cw ucw
    let a := m.get TWIN_HREP_base * 2 ^ 20
    let m := m.hbmWrite a b
    let m :=
      if m.leads then
        match peer with
        | some p => m.hbmWrite (a + 0x80) ((p.take 32).map fun w => bytesOf 4 w.toNat).flatten
        | none => m
      else if m.trailing then m.send (.twinMsg 0x11 (b.map BitVec.toNat)) else m
    m.cause TWIN_ESTAT_health 473

/-- PEER_EVENT (R481): ignored while the link is down. -/
def execPeerEvent (e : Fin 512) (s : State) := s.on fun m =>
  if !m.inTwin ∨ !m.isOn TWIN_STAT_link ∨ !m.runs 2 then m
  else m.setReg (EVT_PEER (e.val / 32)) (m.reg (EVT_PEER (e.val / 32)) ||| 2 ^ (e.val % 32))

/-- HBM_PATROL: a pass over some pages finds `ce` corrected errors and the uncorrectable 64-byte units `bad`. -/
def execHbmPatrol (ce : Nat) (bad : List Nat) (s : State) := s.on fun m =>
  if !m.isOn HBMC_CTL_patrol ∨ !m.runs 10 then m
  else
    let m := (m.bump HBMC_CE_count ce).bump HBMC_PATERR_count (ce + bad.length)
    let m := m.setTwin { m.twin with patrolErrs := m.twin.patrolErrs + ce + bad.length }
    m.each bad fun u m =>
      if marked m.hbmPoison u then m
      else (Fjoek.hbmDetect { m with hbmHidden := mark m.hbmHidden u } none (64 * u) 64).2

/-- SRAM_SCRUB: a pass finds corrected errors, of which those in the buffer and in the forwarding stores have counters of their
own (R114, R269), and uncorrectable words of L, program memory, forwarding locations and buffer units. -/
def execSramScrub (ce : ScrubCounts) (badL badProg badFwd badBuf : List Nat) (s : State) := s.on fun m =>
  let t := fun (l : List Nat) (t : Table Bool) => l.foldl (fun t k => tableSet (fun _ => false) t k true) t
  let m := m.setTwin { m.twin with
    scrubCe := m.twin.scrubCe + ce.others + ce.buf + ce.fwd
    scrubUe := m.twin.scrubUe + badL.length + badProg.length + badFwd.length + badBuf.length }
  let m : Fjoek := { m with
    seam := { m.seam with lue := t badL m.seam.lue, progue := t badProg m.seam.progue }
    fwd := { m.fwd with ue := t badFwd m.fwd.ue }
    mngl := { m.mngl with undetected := badBuf.foldl mark m.mngl.undetected } }
  ((m.mnglCount MNGL_CE_BUF_count ce.buf).count FWD_CE_LO ce.fwd).bufDetect none badBuf |>.2

/-- STRAND_CROSS_CHECK: the known-answer program ran where an engine had an IDLE or drained strand; `fails` are the engines
whose answer was wrong. -/
def execStrandCrossCheck (fails : BitVec 64) (s : State) := s.on fun m =>
  if m.power ≠ 4 ∨ !m.runs 3 then m
  else
    let can := (List.range 64).filter fun e => (List.range 8).any fun t => m.drained (8 * e + t)
    let mask := can.foldl (fun v e => withBits v e e (bnat (fails.getLsbD e))) m.twin.xcheckMask
    m.setTwin { m.twin with xcheckMask := mask }

/-- SERDES_MARGIN_SAMPLE: lanes 0 to 31 are network lanes, 32 to 47 twin lanes. -/
def execSerdesMarginSample (lane : Fin 48) (margin : BitVec 16) (s : State) := s.on fun m =>
  m.setTwin { m.twin with margins := tableSet (fun _ => 0) m.twin.margins lane.val (margin.toNat + 1) }

/-- The trailing twin's lag: the age in µs of the oldest record it has not replayed (R357). -/
def Fjoek.twinLag (m : Fjoek) : Nat :=
  match m.twin.ring with
  | [] => 0
  | r :: _ => Nat.min 255 ((m.time - r.at_) / 1000)

/-- Descriptors that wait on absent units (R373). -/
def Fjoek.toList (m : Fjoek) : Nat := (m.mngl.descs.filter fun d => d.inFlight && m.awaits d).length

end Sys2Proof.Machine
end

