-- ==== Sys2Proof/Machine/Resets.lean ====
section
/-! DEFINITION. Resets (R11, R390, R392, R393) and the moves between power states (R387): which fields a reset gives their
listed values, the Kindle reset, the Block reset of each unit, and the rails. -/

namespace Sys2Proof.Machine

/-! ## Fields by their Reset column (R11) -/

/-- `v`, the content of the register at `a`, with every field whose Reset column satisfies `p` at its listed value. -/
def resetWord (p : Reset → Bool) (a v : Nat) : Nat :=
  match regDesc a with
  | none => v
  | some (d, _) => d.fields.foldl (fun w f =>
      if p f.rst then withBits w f.hi f.lo (bitsOf (regDflt a).toNat f.hi f.lo) else w) v

/-- Every listed register at an address that satisfies `q`, with such fields at their listed values. -/
def Fjoek.resetFields (m : Fjoek) (p : Reset → Bool) (q : Nat → Bool) : Fjoek :=
  let r := m.regs.foldl (fun (t : Table Word32) e =>
    if q e.1 then tableSet regDflt t e.1 (BitVec.ofNat 32 (resetWord p e.1 (m.reg e.1))) else t) m.regs
  let w := m.wide.filter fun e => !(q e.1 && resetWord p e.1 (2 ^ 32 - 1) != 2 ^ 32 - 1)
  { m with regs := r, wide := w }

/-- Fields that a Kindle reset changes: all but those of a Hearth reset and those that no reset changes. -/
def inKindle (r : Reset) : Bool := r != .hearth && r != .none

/-- Fields that a Block reset changes. -/
def inBlock (r : Reset) : Bool := r == .block || r == .strand || r == .flr

/-! ## Defaults from the ledger (R401) -/

/-- The MAC base of the record in force, its first byte on the wire at the top (assumption 17). -/
def Fjoek.macBase (m : Fjoek) : Nat := ofBytesBe (m.otpBytes 0x18 6)

def Fjoek.setMac (m : Fjoek) (lo hi v : Nat) : Fjoek := (m.setReg lo (v % 2 ^ 32)).setReg hi (v / 2 ^ 32 % 2 ^ 16)

/-- Registers whose reset value the ledger or a strap gives (R223, R271, R331, R382). -/
def Fjoek.loadDefaults (m : Fjoek) : Fjoek :=
  let b := m.macBase
  let m := m.each (List.range 32) fun s m => m.setMac (NETP_MAC_LO s) (NETP_MAC_HI s) (b + s)
  let m := m.setMac FWD_RMAC_LO FWD_RMAC_HI (b + 32)
  let m := m.setReg ATT_ID (hdrNat (m.otpBytes 0x20 4) 2 2 * 65536 + hdrNat (m.otpBytes 0x20 4) 0 2)
  m.put TWIN_CTL_en (m.get TOP_STRAP_twin)

/-! ## Kindle reset (R392) -/

/-- An OTP word in progress as a Kindle reset finds it completes, and its result is lost (R404). As a Hearth reset or a loss of
power finds it, it may be left partly programmed (R403): which bits are set is free. -/
def Fjoek.otpCut (m : Fjoek) (whole : Bool) : Fjoek :=
  match m.hearth.otpDue with
  | none => m
  | some (_, c, bits) =>
    let (v, m) : Nat × Fjoek :=
      if whole then (bits, m)
      else
        let (f, m) := m.free64
        (bits &&& f.toNat, m)
    { m with hearth := { m.hearth with otpDue := none, burn := m.hearth.burn ++ [(c, v)] } }

/-- Step 4: everything outside the Hearth at its reset values. HBM and the buffer cells hold arbitrary
values again (R547); MRAM, what the drives hold and what has left the module stay. -/
def Fjoek.kindleState (m : Fjoek) : Fjoek :=
  let m := m.otpCut true
  let h : Hearth := { m.hearth with
    core := 0, uart := [], stopping := 0, coresHung := 0, reverted := false, kickAt := none, hangs := [] }
  let a : Att := { attInit with wakeLow := m.att.wakeLow, perst := m.att.perst }
  let t : Twin := { twinInit with cedeIn := m.twin.cedeIn }
  let m := m.resetFields inKindle fun _ => true
  let m : Fjoek := { m with
    snap := [], era := m.era + 1, hbm := [], locks := [], hbmPoison := [], hbmHidden := []
    seam := seamInit, mngl := mnglInit, damp := dampInit, pmon := pmonInit, att := a, twin := t, hearth := h
    drv := drvInit, lib := { libInit with media := m.lib.media, zeroes := m.lib.zeroes, unread := m.lib.unread }
    netp := netpInit, swc := swcInit, fwd := fwdInit, xport := xportInit, thim := thimInit
    mgmt := mgmtInit }
  ((m.loadDefaults.setReg CLK_DOMSTAT 3).put HEARTH_WDT_stage 0)

/-- A Kindle reset with its cause, into KINDLING for KRST and watchdog stage 3 and into DOUSING otherwise. -/
def Fjoek.kindleReset (m : Fjoek) (cause : Nat) : Fjoek :=
  let m := m.kindleState
  let m := (m.bump HEARTH_RSTC_kcount 1).put HEARTH_RSTC_kcause cause
  let m := m.cause HEARTH_ESTAT_kreset 3
  m.put HEARTH_STAT_state (if cause = 1 ∨ cause = 2 then 2 else 6)

/-! ## Hearth reset (R390, R394) -/

/-- A Hearth reset runs from its cause: every output inert, every field at its reset value, the time base at 0, state HEARTH
and not ready. MRAM, the OTP cells and the SPI NOR keep their contents. -/
def Fjoek.hearthReset (m : Fjoek) (hcause : Nat) : Fjoek :=
  let m := (m.otpCut false).kindleState
  let m := m.resetFields (fun r => r != .none) fun _ => true
  let m : Fjoek := { m with att := attInit, feed := feedInit, bay := [], twin := { m.twin with cedeIn := m.twin.cedeIn } }
  let m : Fjoek := { m with hearth := { hearthInit with
    spi := m.hearth.spi, lost := m.hearth.lost, rstLow := m.hearth.rstLow, burn := m.hearth.burn, counting := hcause != 2 } }
  let m := (m.setReg CLK_DOMSTAT 3).put HEARTH_STAT_state 1
  (m.put HEARTH_RSTC_hcause hcause).put HEARTH_RSTC_kcause 6

/-! ## Power states (R387) -/

/-- A listed move that latches event 2. -/
def Fjoek.moveTo (m : Fjoek) (st : Nat) : Fjoek := (m.put HEARTH_STAT_state st).cause HEARTH_ESTAT_pstate 2

/-! ## Block resets (R393) -/

/-- Registers of the address range from `a`, `n` bytes long. -/
def inRange (a n : Nat) (x : Nat) : Bool := decide (a ≤ x ∧ x < a + n)

def Fjoek.resetRange (m : Fjoek) (a n : Nat) : Fjoek := m.resetFields inBlock (inRange a n)

/-- NETP: one slot ends service; the quad's mode stays (R229). The slot's lane takes its reset values; a mode change in progress ends; txsup
goes on following the TWIN block (R224). -/
def Fjoek.netpReset (m : Fjoek) (s : Nat) : Fjoek :=
  let sup := m.get (NETP_SSTAT_txsup s)
  let lane := (NETP_LANE_lpbk (s / 4) (s % 4)).addr
  let m := ((m.slotDisable s).resetRange (0x100000 + 0x1000 * s) 0xC00).resetRange lane 4
  let m : Fjoek := { m with netp := { m.netp with
    released := tableSet (fun _ => 0) m.netp.released s 0, faults := tableSet (fun _ => false) m.netp.faults s false } }
  (((m.put (NETP_SSTAT_txsup s) sup).put (NETP_QSTAT_busy (s / 4)) 0).settleFc s).settleQuads

/-- SWC: a port's fields take their reset values, and its queues are flushed, each copy counted (R249). -/
def Fjoek.swcBlock (m : Fjoek) (p : Nat) : Fjoek := (((m.resetRange (0x141000 + 0x200 * p) 0x200).swcReset p).checkShared).settleXoff p

/-- FWD: the aging log empties and an update command in progress is cancelled (R271). -/
def Fjoek.fwdReset (m : Fjoek) : Fjoek :=
  let m : Fjoek := { m with fwd := { m.fwd with agelog := [], pending := [] } }
  m.resetRange 0x160000 0x20000

/-- XPORT (R303). -/
def Fjoek.xportBlock (m : Fjoek) : Fjoek := m.xportReset.resetRange 0x180000 0x40000

/-- THIM (R328). -/
def Fjoek.thimBlock (m : Fjoek) : Fjoek := m.thimReset.resetRange 0x1C0000 0x40000

/-- An aperture access in flight ends: a read returns 0, and a write is performed or not, whole (R170, R507). -/
def Fjoek.endAperture (m : Fjoek) (k : Nat) (a : Access) : Fjoek :=
  let x := m.strand k
  let x : Strand := { x with accs := x.accs.erase a }
  let (b, m) := m.freeBool
  let m := m.abandoned 1
  if a.kind = .hst then
    let o := a.addr % 2 ^ 27
    let m := m.setStrand k x
    if !b then m
    else if o < 0x5000000 ∨ (0x5200000 ≤ o ∧ o < 0x5600000) then m.mramPut o (bytesOf 8 a.data.toNat)
    else if 0x6000000 ≤ o ∧ o < 0x6100000 then m.lockStore ((o - 0x6000000) / 16) (o / 8 % 2) a.data
    else m
  else m.setStrand k ((x.wr a.rd 0).setPred a.pe b)

/-- STRP: aperture accesses in flight end; every register, lock and MRAM byte stays (R170). -/
def Fjoek.strpReset (m : Fjoek) : Fjoek :=
  m.each (List.range 512) fun k m =>
    let l := (m.strand k).accs.filter fun a =>
      (a.kind == .hld || a.kind == .hst || a.kind == .hcas || a.kind == .hfadd) && m.inAperture a.addr 8
    if l = [] then m else (m.each l fun a m => m.endAperture k a).unstall k

/-- DARN: every C3 credit is 0 (R198). -/
def Fjoek.darnReset (m : Fjoek) : Fjoek := { m with lib := { m.lib with credit := [] } }

/-- DRV: one port ends service with SC 0xC2 (R211, R216). -/
def Fjoek.drvReset (m : Fjoek) (p : Nat) : Fjoek :=
  let m := (m.portEnd p 0xC2).resetRange (0x280000 + 0x2000 * p) 0x1F00
  (m.setPort p { m.port p with psHeld := none, tempFails := 0 }).settlePerst p

/-- ATT: as a conventional reset (R342). -/
def Fjoek.attBlock (m : Fjoek) : Fjoek := (m.attReset 3).resetRange 0x300000 0x10000

/-- TWIN: as BREAK on a paired module (R382). -/
def Fjoek.twinBlock (m : Fjoek) : Fjoek :=
  (if m.isOn TWIN_STAT_sync ∨ m.get TWIN_STAT_phase ≠ 0 then m.separate else m).resetRange 0x310000 0x10000

/-- EVT: pending and peer bits clear (R500). -/
def Fjoek.evtReset (m : Fjoek) : Fjoek :=
  m.each (List.range 16) fun i m => (m.setReg (EVT_PEND i) 0).setReg (EVT_PEER i) 0

/-- PMON: counters, rings and status (R500). -/
def Fjoek.pmonReset (m : Fjoek) : Fjoek :=
  let m : Fjoek := { m with pmon := pmonInit, snap := tableKeep (fun a => !inRange 0x80000 0x10000 a) m.snap }
  m.resetRange 0x80000 0x10000

/-- DAMP: levels at their depths, no debt, no self-test requests; queued draws wait on (R462). -/
def Fjoek.dampReset (m : Fjoek) : Fjoek :=
  let m : Fjoek := { m with damp := { m.damp with debt := 0, tests := [] } }
  let m := m.each [0, 1, 3, 4, 5] fun c m => m.setLevel c (m.depth c)
  let m := m.put DAMP_DEBT_debt 0
  m.resetFields inBlock fun a => inRange 0x50000 0x10000 a && a != 0x50004

/-- The domain, the base offset and the largest unit of a block code (R393, R502). -/
def blockUnit (code unit : Nat) : Option (Nat × Nat × Nat) :=
  match code with
  | 1 => some (4, 0x100000, 31)
  | 2 => some (4, 0x140000, 39)
  | 3 => some (4, 0x160000, 0)
  | 4 => some (4, 0x180000, 0)
  | 5 => some (4, 0x1C0000, 0)
  | 6 => some (3, 0x200000, 63)
  | 7 => some (5, 0x240000, 15)
  | 8 => some (5, 0x250000, 0)
  | 9 => some (5, 0x260000, 0)
  | 10 => some (if unit < 12 then 7 else 8, 0x280000, 23)
  | 11 => some (9, 0x300000, 0)
  | 12 => some (13, 0x310000, 0)
  | 13 => some (2, 0x70000, 0)
  | 14 => some (2, 0x80000, 0)
  | 15 => some (2, 0x50000, 0)
  | _ => none

/-- What the Block reset of a unit does. -/
def Fjoek.unitReset (m : Fjoek) (code unit : Nat) : Fjoek :=
  match code with
  | 1 => m.netpReset unit
  | 2 => m.swcBlock unit
  | 3 => m.fwdReset
  | 4 => m.xportBlock
  | 5 => m.thimBlock
  | 6 => m.engineReset unit
  | 7 => m.mnglReset unit Fjoek.endAtPort
  | 8 => m.strpReset
  | 9 => m.darnReset
  | 10 => m.drvReset unit
  | 11 => m.attBlock
  | 12 => m.twinBlock
  | 13 => m.evtReset
  | 14 => m.pmonReset
  | 15 => m.dampReset
  | _ => m

/-- A request in TOP_BRST. It is done at once, so no reset is in progress when another is asked for. On a lead, a reset of a
performed block is logged (R393, R361). -/
def Fjoek.blockReset (m : Fjoek) (code unit : Nat) : Fjoek :=
  match blockUnit code unit with
  | none => m.put TOP_BRSTAT_code 1
  | some (d, base, last) =>
    if last < unit then m.put TOP_BRSTAT_code 1
    else if !m.runs d then (m.put TOP_BRSTAT_code 2).hang 4 d base
    else
      let m := m.when (code ≠ 12 && code ≠ 15) fun m => m.logTwin 0x0A 0xFF [TOP_BRST, 2 ^ 31 + code * 256 + unit]
      (m.unitReset code unit).put TOP_BRSTAT_code 0

/-- BLOCK_RESET_NETP. -/
def execBlockResetNetp (slot : Fin 32) (s : State) := s.on fun m => m.blockReset 1 slot.val
/-- BLOCK_RESET_SWC. -/
def execBlockResetSwc (port : Fin 40) (s : State) := s.on fun m => m.blockReset 2 port.val
/-- BLOCK_RESET_FWD. -/
def execBlockResetFwd (s : State) := s.on fun m => m.blockReset 3 0
/-- BLOCK_RESET_XPORT. -/
def execBlockResetXport (s : State) := s.on fun m => m.blockReset 4 0
/-- BLOCK_RESET_THIM. -/
def execBlockResetThim (s : State) := s.on fun m => m.blockReset 5 0
/-- BLOCK_RESET_SEAM. -/
def execBlockResetSeam (e : Fin 64) (s : State) := s.on fun m => m.blockReset 6 e.val
/-- BLOCK_RESET_MNGL. -/
def execBlockResetMngl (g : Fin 16) (s : State) := s.on fun m => m.blockReset 7 g.val
/-- BLOCK_RESET_STRP. -/
def execBlockResetStrp (s : State) := s.on fun m => m.blockReset 8 0
/-- BLOCK_RESET_DARN. -/
def execBlockResetDarn (s : State) := s.on fun m => m.blockReset 9 0
/-- BLOCK_RESET_DRV. -/
def execBlockResetDrv (p : Fin 24) (s : State) := s.on fun m => m.blockReset 10 p.val
/-- BLOCK_RESET_ATT. -/
def execBlockResetAtt (s : State) := s.on fun m => m.blockReset 11 0
/-- BLOCK_RESET_TWIN. -/
def execBlockResetTwin (s : State) := s.on fun m => m.blockReset 12 0
/-- BLOCK_RESET_EVT. -/
def execBlockResetEvt (s : State) := s.on fun m => m.blockReset 13 0
/-- BLOCK_RESET_PMON. -/
def execBlockResetPmon (s : State) := s.on fun m => m.blockReset 14 0
/-- BLOCK_RESET_DAMP. -/
def execBlockResetDamp (s : State) := s.on fun m => m.blockReset 15 0

end Sys2Proof.Machine
end

