-- ==== Sys2Proof/Machine/Feed.lean ====
section
/-! DEFINITION. Shelf feed protection (R407 to R421, R545): the gate's sequence, limit, faults, retries, the two-pole model, loss
and overvoltage, FEED_PG, one tick in its order (R417), and the hold-up test. -/

namespace Sys2Proof.Machine

def Fjoek.setFeed (m : Fjoek) (x : Feed) : Fjoek := { m with feed := x }

/-! ## Settings in force: a value out of range acts as the nearer limit (R422) -/

/-- `FEED_UV.th` in 10 mV. -/
def Fjoek.uvTh (m : Fjoek) : Nat := 10 * clampTo 85 600 (m.get FEED_UV_th)

def Fjoek.shunt (m : Fjoek) : Nat := clampTo 100 2000 (m.get FEED_SNS_shunt)

/-- The limit in 10 mA, at most the range of the sense amplifier, 37.5 mV over the shunt (R407). -/
def Fjoek.feedLim (m : Fjoek) : Nat := Nat.min (10 * clampTo 20 1500 (m.get FEED_ILIM_lim)) (3750000 / m.shunt)

/-- The fast trip level (R410). -/
def Fjoek.feedTrip (m : Fjoek) : Nat :=
  Nat.min (10 * clampTo 20 1500 (m.get FEED_ILIM_lim) * (3 + m.get FEED_ILIM_trip) / 2) (3750000 / m.shunt)

/-- Case temperature in 0.5 °C: the diode, or tamb while the diode has failed (R412). -/
def Fjoek.feedCase (m : Fjoek) : Int :=
  if m.isOn FEED_STAT_tsfail then 2 * m.getS FEED_TJ_tamb else m.getS FEED_TEMP_diode

/-- The model's junction temperature in 10^-9 °C (R413). -/
def Fjoek.feedTj (m : Fjoek) : Int := 500000000 * m.feedCase + m.feed.dt1 + m.feed.dt2

def Fjoek.tjMax (m : Fjoek) : Int := 1000000000 * (clampTo 100 175 (m.get FEED_TJ_tjmax) : Nat)

/-! ## What FEED_STAT shows -/

/-- `state` follows the gate: HTEST while a test runs, LIMIT while the loop regulates. -/
def Fjoek.feedShow (m : Fjoek) : Fjoek :=
  let x := m.feed
  m.put FEED_STAT_state (
    if x.gate = 0 then x.rest
    else if x.test.isSome then 7
    else if x.limited then 4
    else x.gate)

/-- FEED_PG changes: event 8; its rise in KINDLING starts the rails (R387, R416). -/
def Fjoek.feedPg (m : Fjoek) (v : Bool) : Fjoek :=
  if m.isOn FEED_STAT_pg = v then m
  else
    let m := (m.put FEED_STAT_pg (bnat v)).cause FEED_ESTAT_stat 8
    m.when (v && m.power == 2 && m.get HEARTH_RAILSTAT_en == 0) fun m => m.put HEARTH_RAILSTAT_en 1

/-- A result code of the hold-up test is written: event 11 (R420). -/
def Fjoek.htestEnd (m : Fjoek) (code : Nat) : Fjoek :=
  let m := m.setFeed { m.feed with test := none }
  ((m.put FEED_HTSTAT_busy 0).put FEED_HTSTAT_code code).cause FEED_ESTAT_htest 11

/-- A bay channel changes its gate, auxiliary switch or limit state (R420). -/
def Fjoek.bayTouch (m : Fjoek) : Fjoek :=
  match m.feed.test with
  | some t => if t.measured then m else m.setFeed { m.feed with touched := true }
  | none => m

/-! ## The gate (R409 to R411) -/

/-- The gate turns off with a cause, if it was on; a test that runs is abandoned. -/
def Fjoek.gateOff (m : Fjoek) (cause : Nat) : Fjoek :=
  let was := m.feed.gate != 0
  let m := m.when m.feed.test.isSome fun m => m.htestEnd 2
  let m := m.setFeed { m.feed with
    gate := 0, full := false, limited := false, timer := none, below := 0, cap := none, capArmed := false, pgq := 0, good := 0 }
  let m := m.when was fun m => m.put FEED_STAT_cause cause
  (m.feedPg false).feedShow

/-- The full sequence starts, precharge first, from the bus voltage as it stands (R409). -/
def Fjoek.gateOn (m : Fjoek) : Fjoek :=
  let v := m.get FEED_VOUT_mv10
  let m := m.setFeed { m.feed with
    gate := 1, rest := 0, full := false, driven := 0, v0 := v, held := false, resume := false, pgq := 0, good := 0, cap := none
    capArmed := decide (10 * v < m.get FEED_VIN_mv10) }
  m.feedShow

/-- A loss or an overvoltage holds. -/
def Fjoek.feedBlocked (m : Fjoek) : Bool := m.isOn FEED_STAT_loss || m.isOn FEED_STAT_ov

/-- An ON: held while a loss or an overvoltage holds (R409). -/
def Fjoek.feedOn (m : Fjoek) : Fjoek :=
  if m.feedBlocked then m.setFeed { m.feed with held := true } else m.gateOn

/-- A fault with its cause, 1 to 4: event 9, the count, and what FEED_RETRY.count decides (R410, R411). A FAULT in KINDLING
causes a Kindle reset (R546). -/
def Fjoek.feedFault (m : Fjoek) (cause : Nat) : Fjoek :=
  if m.feed.gate = 0 then m
  else
    let m := m.gateOff cause
    let m := (m.bump FEED_FCNT_faults 1).cause FEED_ESTAT_fault 9
    let n := m.get FEED_RETRY_count
    let stuck := n == 0 || (n < 15 && decide (n ≤ m.get FEED_FCNT_retries))
    let m := m.setFeed { m.feed with
      rest := if stuck then 5 else 6, wait := 10000 * Nat.max 1 (m.get FEED_RETRY_delay) }
    let m := m.feedShow
    m.when (stuck && m.power == 2) fun m => m.kindleReset 7

/-- A retry whose delay is over makes its ON once the model has cooled and no loss or overvoltage holds (R411). -/
def Fjoek.feedRetryOn (m : Fjoek) : Fjoek :=
  if m.feed.gate ≠ 0 ∨ m.feed.rest ≠ 6 ∨ m.feedBlocked ∨ m.tjMax - 20000000000 < m.feedTj then m
  else (m.bump FEED_FCNT_retries 1).gateOn

/-- What a kindle request does with the feed stage (R546). -/
def Fjoek.feedKindle (m : Fjoek) : Fjoek :=
  if m.feed.gate ≠ 0 ∨ m.feed.rest = 6 then m
  else if m.feed.rest = 5 then m.kindleReset 7
  else m.feedOn

/-! ## Loss and overvoltage (R414, R415) -/

/-- What the library does at a loss of feed (R158): each stripe with dirty blocks is destaged, in class C2, as far as locks, the journal and tokens
let it at once, and the clean state is recorded where nothing is dirty; DESTAGE does the rest. -/
def Fjoek.lossDestage (m : Fjoek) : Fjoek :=
  if !m.runs 3 then m
  else
    let l := (m.lib.cache.filter (·.dirty)).filterMap fun c => (m.pool? c.pool).bind fun x =>
      (m.blockHome x c.pool c.member c.lba).map fun h => (c.pool, h.2.1)
    (m.each l.dedup fun q m => m.destage libStrand q.1 q.2 []).noteClean

/-- A loss of feed: the gate off without a fault, event 10, and the library's destage. -/
def Fjoek.feedLose (m : Fjoek) : Fjoek :=
  if m.isOn FEED_STAT_loss then m
  else
    let m := m.setFeed { m.feed with resume := m.feed.resume || m.feed.gate != 0, lossok := 0, timer := none }
    (((m.gateOff 5).put FEED_STAT_loss 1).cause FEED_ESTAT_loss 10).lossDestage

/-- A loss or an overvoltage has ended: the stage recloses where an ON is held or it was on. -/
def Fjoek.feedResume (m : Fjoek) : Fjoek :=
  if !m.feedBlocked ∧ (m.feed.resume ∨ m.feed.held) ∧ m.feed.gate = 0 ∧ m.feed.rest = 0 then m.gateOn else m

def Fjoek.feedLossOver (m : Fjoek) : Fjoek :=
  if m.isOn FEED_STAT_loss then (m.put FEED_STAT_loss 0).feedResume else m

/-- FEED above 64 V. -/
def Fjoek.feedOver (m : Fjoek) : Fjoek :=
  if m.isOn FEED_STAT_ov then m
  else
    let m := m.setFeed { m.feed with resume := m.feed.resume || m.feed.gate != 0, ovok := 0 }
    ((m.gateOff 6).put FEED_STAT_ov 1).cause FEED_ESTAT_stat 8

def Fjoek.feedOverEnd (m : Fjoek) : Fjoek :=
  if m.isOn FEED_STAT_ov then (m.put FEED_STAT_ov 0).feedResume else m

/-! ## Commands (R545) -/

/-- An op of FEED_CMD whose key is right; others than 1 to 4 are ignored. -/
def Fjoek.feedCmd (m : Fjoek) (op : Nat) (start : Fjoek → Fjoek) : Fjoek :=
  let ok := fun (m : Fjoek) => m.put FEED_CMDSTAT_code 0
  let no := m.put FEED_CMDSTAT_code 1
  let x := m.feed
  match op with
  | 1 => if x.gate = 0 ∧ x.rest = 0 ∧ !x.held then (ok m).feedOn else no
  | 2 =>
    let m := (ok m).gateOff 7
    let m := m.setFeed { m.feed with held := false, resume := false, rest := if m.feed.rest = 5 then 5 else 0 }
    (m.put FEED_FCNT_retries 0).feedShow
  | 3 =>
    if x.gate = 0 ∧ x.rest ≠ 0 then
      let m := (ok m).setFeed { x with rest := 0 }
      (m.put FEED_FCNT_retries 0).feedShow
    else no
  | 4 => if x.test.isSome then no else start (ok m)
  | _ => m

/-! ## The hold-up test (R420, R421) -/

/-- Step 1, where the conditions hold; in a pair in step the lead starts the test for both over the twin link. -/
def Fjoek.htestStart (m : Fjoek) : Fjoek :=
  if m.feed.test.isSome then m
  else if !m.isOn FEED_STAT_pg ∨ m.get FEED_VIN_mv10 < m.uvTh + 400 then m.htestEnd 1
  else if m.isOn TOP_STRAP_twin ∧ (!m.isOn TWIN_STAT_link ∨ m.isOn TWIN_STAT_solo) then m.htestEnd 6
  else
    let m := m.when m.leads fun m => m.send (.twinMsg 0x12 [])
    let h := m.feed.hist
    let t : HoldTest := { i0 := h.sum / Nat.max 1 h.length, vs := m.get FEED_VOUT_mv10, charge := 0, ticks := 0, measured := false, code := 0 }
    ((m.setFeed { m.feed with test := some t, touched := false, full := false }).put FEED_HTSTAT_busy 1).feedShow

/-- Step 3: C from the charge, with the peer's in a pair; the gate is driven fully on and the bank recharges. -/
def Fjoek.htestMeasure (m : Fjoek) (peer : Int) : Fjoek :=
  match m.feed.test with
  | none => m
  | some t =>
    if t.measured then m
    else
      let drop := t.vs - m.get FEED_VOUT_mv10
      let c := ((t.charge + peer) * 10).toNat / Nat.max 1 drop
      let code := if drop < 50 then 4 else if m.feed.touched then 3 else 0
      let m := m.when (code == 0) fun m => (m.put FEED_HOLDC_uf (Nat.min c (2 ^ 24 - 1))).put FEED_HOLDC_src 2
      let m := m.when (m.isOn TOP_STRAP_twin) fun m => m.send (.twinMsg 0x13 [unsigned 64 t.charge])
      m.setFeed { m.feed with test := some { t with measured := true, code := code }, full := true, pgq := 0 }

/-! ## One tick (R417) -/

/-- One pole: `target` and `dt` in 10^-9 °C, tau in 0.1 ms. -/
def polStep (target dt : Int) (tau : Nat) : Int := dt + (target - dt) / (10 * (Nat.max 1 tau : Nat) : Int)

/-- The model's update, from voltages in 10 mV and a current in 10 mA (R413). -/
def Fjoek.feedModel (m : Fjoek) (vin vout i : Nat) : Fjoek :=
  let n : Int := (m.get FEED_CTL_nfet : Nat) + 1
  let p : Int := if m.feed.gate = 0 then 0 else ((vin : Int) - vout) * i
  let target := fun (r : Nat) => p * r * 100 / n
  let m := m.setFeed { m.feed with
    dt1 := polStep (target (m.get FEED_ZTH1_r)) m.feed.dt1 (m.get FEED_ZTH1_tau)
    dt2 := polStep (target (m.get FEED_ZTH2_r)) m.feed.dt2 (m.get FEED_ZTH2_tau) }
  m.putS FEED_TEMP_tj (clampInt (-512) 511 (m.feedTj / 500000000))

/-- The loss conditions of R414 and their filters. -/
def Fjoek.feedLossTick (m : Fjoek) (vin vout : Nat) : Fjoek :=
  let th := m.uvTh
  let low := decide (vin < th)
  let m := m.put FEED_STAT_uv (bnat low)
  let m := m.setFeed { m.feed with
    lossq := if low then m.feed.lossq + 1 else 0
    lossok := if th + 50 ≤ vin ∧ vout ≤ vin then m.feed.lossok + 1 else 0 }
  if decide (clampTo 1 255 (m.get FEED_UV_filt) ≤ m.feed.lossq) || (m.isOn FEED_CTL_revblk && decide (vin + 5 < vout)) then m.feedLose
  else if m.isOn FEED_STAT_loss ∧ 1000 ≤ m.feed.lossok then m.feedLossOver
  else m

/-- The sequence's own progress: precharge, ramp, and 1 ms to fully on. -/
def Fjoek.feedProgress (m : Fjoek) (vin vout : Nat) : Fjoek :=
  let x := m.feed
  let near := decide (vin ≤ vout + 15)
  let x : Feed :=
    match x.gate with
    | 1 =>
      if near then { x with gate := 3, driven := 0 }
      else if (if x.v0 < 50 then 50 else x.v0 + 50) ≤ vout then { x with gate := 2 } else x
    | 2 => if near then { x with gate := 3, driven := 0 } else x
    | 3 => if x.full ∨ x.test.isSome then x else { x with driven := x.driven + 1, full := decide (100 ≤ x.driven + 1) }
    | _ => x
  (m.setFeed x).feedShow

/-- The bank's capacitance over the part of a ramp from 10 % to 90 % of FEED (R419). -/
def Fjoek.feedCap (m : Fjoek) (vin vout i : Nat) : Fjoek :=
  let x := m.feed
  if x.gate = 0 ∨ !x.capArmed then m
  else if x.limited then m.setFeed { x with cap := none, capArmed := false }
  else
    match x.cap with
    | none => if vin ≤ 10 * vout then m.setFeed { x with cap := some i } else m
    | some q =>
      if 9 * vin ≤ 10 * vout then
        let m := m.setFeed { x with cap := none, capArmed := false }
        (m.put FEED_HOLDC_uf (Nat.min (q * 100 / Nat.max 1 (8 * vin)) (2 ^ 24 - 1))).put FEED_HOLDC_src 1
      else m.setFeed { x with cap := some (q + i) }

/-- Limit state and fault timer (R410). -/
def Fjoek.feedLimit (m : Fjoek) (i : Nat) : Fjoek :=
  if m.feed.gate = 0 then m
  else
    let on := decide (m.feedLim ≤ i)
    let x := m.feed
    let below := if on then 0 else x.below + 1
    let timer := match x.timer with
      | some t => if on then some (t + 1) else if 100 ≤ below then none else some (t + 1)
      | none => if on then some 1 else none
    let m := (m.setFeed { x with limited := on, below := below, timer := timer }).feedShow
    match timer with
    | some t => if 10 * clampTo 2 1020 (m.get FEED_FTMR_ms) ≤ t then m.feedFault 1 else m
    | none => m

/-- FEED_PG is qualified: it asserts, and a hold-up test whose bank has recharged ends (R416, R420 step 4). -/
def Fjoek.feedGood (m : Fjoek) : Fjoek :=
  let m := m.feedPg true
  match m.feed.test with
  | some t => if t.measured then (m.htestEnd t.code).feedShow else m
  | none => m

/-- FEED_PG qualification, and the end of a recharge (R416, R420). -/
def Fjoek.feedQualify (m : Fjoek) (vin vout : Nat) : Fjoek :=
  let x := m.feed
  let ok := x.full && !x.limited && decide (vin < vout + 15)
  let m := m.setFeed { x with pgq := if ok then x.pgq + 1 else 0, good := if ok ∧ m.isOn FEED_STAT_pg then x.good + 1 else x.good }
  let m := m.when (ok && decide (200 ≤ m.feed.pgq)) fun m =>
    m.feedGood
  if 1000000 ≤ m.feed.good then (m.setFeed { m.feed with good := 0 }).put FEED_FCNT_retries 0 else m

/-- The discharge of a hold-up test; a pair measures when the peer's integral arrives. -/
def Fjoek.htestTick (m : Fjoek) (vout i : Nat) : Fjoek :=
  match m.feed.test with
  | none => m
  | some t =>
    if t.measured then m
    else
      let t := { t with charge := t.charge + (t.i0 : Int) - i, ticks := t.ticks + 1 }
      let m := m.setFeed { m.feed with test := some t }
      if (vout + 200 ≤ t.vs ∨ 200 ≤ t.ticks) ∧ !m.isOn TOP_STRAP_twin then m.htestMeasure 0 else m

/-- Everything of one tick of 10 µs in the order of R417, from the voltages in 10 mV and the current in 10 mA. -/
def Fjoek.feedStep (m : Fjoek) (vin vout i : Nat) : Fjoek :=
  let m := ((m.put FEED_VIN_mv10 vin).put FEED_VOUT_mv10 vout).put FEED_I_ma10 i
  let m := m.setFeed { m.feed with hist := (i :: m.feed.hist).take 100, wait := m.feed.wait - 1 }
  let m := if m.feed.gate ≠ 0 ∧ m.feedTrip ≤ i then m.feedFault 2 else m
  let m := if 6400 < vin then m.feedOver
    else
      let m := m.setFeed { m.feed with ovok := if vin < 6200 then m.feed.ovok + 1 else 0 }
      if m.isOn FEED_STAT_ov ∧ 1000 ≤ m.feed.ovok then m.feedOverEnd else m
  let m := m.feedLossTick vin vout
  let m := if m.feed.gate ≠ 0 ∧ !m.isOn FEED_STAT_tsfail ∧ 2 * clampTo 60 150 (m.get FEED_TJ_tsmax) ≤ m.getS FEED_TEMP_diode then
    m.feedFault 4 else m
  let m := m.feedModel vin vout i
  let m := if m.feed.gate ≠ 0 ∧ m.tjMax ≤ m.feedTj then m.feedFault 3 else m
  let m := m.feedProgress vin vout
  let m := m.feedLimit i
  let m := m.feedCap vin vout i
  let m := m.feedQualify vin vout
  let m := m.htestTick vout i
  if m.feed.wait = 0 then m.feedRetryOn else m

/-! ## The commands of the table -/

/-- The Hearth runs its loops: the module is not OFF and its Hearth reset has ended. -/
def Fjoek.awake (m : Fjoek) : Bool := !m.hearth.off && m.hearth.ready

/-- A happening of the feed stage. -/
def State.onFeed (s : State) (f : Fjoek → Fjoek) : Host.Outcome State Fault Refusal := s.on fun m => if m.awake then f m else m

/-- FEED_CMD_ON. -/
def execFeedCmdOn (s : State) := s.onFeed fun m => m.feedCmd 1 Fjoek.htestStart
/-- FEED_CMD_OFF. -/
def execFeedCmdOff (s : State) := s.onFeed fun m => m.feedCmd 2 Fjoek.htestStart
/-- FEED_CMD_CLR. -/
def execFeedCmdClr (s : State) := s.onFeed fun m => m.feedCmd 3 Fjoek.htestStart
/-- FEED_CMD_HTEST. -/
def execFeedCmdHtest (s : State) := s.onFeed fun m => m.feedCmd 4 Fjoek.htestStart
/-- FEED_TICK. -/
def execFeedTick (vin vout : BitVec 14) (i : BitVec 16) (s : State) := s.onFeed fun m => m.feedStep vin.toNat vout.toNat i.toNat
/-- FEED_PRECHARGE_DONE. -/
def execFeedPrechargeDone (s : State) := s.onFeed fun m =>
  if m.feed.gate = 1 then (m.setFeed { m.feed with gate := 2 }).feedShow else m
/-- FEED_RAMP_DONE. -/
def execFeedRampDone (s : State) := s.onFeed fun m =>
  if m.feed.gate = 2 then (m.setFeed { m.feed with gate := 3, driven := 0 }).feedShow else m
/-- FEED_FULLY_ON. -/
def execFeedFullyOn (s : State) := s.onFeed fun m =>
  if m.feed.gate = 3 ∧ m.feed.test.isNone then m.setFeed { m.feed with full := true } else m
/-- FEED_FAULT_TIMER_EXPIRY. -/
def execFeedFaultTimerExpiry (s : State) := s.onFeed fun m => if m.feed.timer.isSome then m.feedFault 1 else m
/-- FEED_FAST_TRIP. -/
def execFeedFastTrip (s : State) := s.onFeed fun m => m.feedFault 2
/-- FEED_MODEL_TRIP. -/
def execFeedModelTrip (s : State) := s.onFeed fun m => m.feedFault 3
/-- FEED_DIODE_READ: a reading in 0.5 °C, or none from a diode that is open or shorted; one in range clears the failure. -/
def execFeedDiodeRead (t : Option (BitVec 10)) (s : State) := s.onFeed fun m =>
  match t with
  | none => if m.isOn FEED_STAT_tsfail then m else (m.put FEED_STAT_tsfail 1).cause FEED_ESTAT_stat 8
  | some v =>
    let m := (m.put FEED_TEMP_diode v.toNat).put FEED_STAT_tsfail 0
    if 2 * (clampTo 60 150 (m.get FEED_TJ_tsmax) : Nat) ≤ v.toInt then m.feedFault 4 else m
/-- FEED_LOSS. -/
def execFeedLoss (s : State) := s.onFeed Fjoek.feedLose
/-- FEED_LOSS_END. -/
def execFeedLossEnd (s : State) := s.onFeed Fjoek.feedLossOver
/-- FEED_OVERVOLTAGE. -/
def execFeedOvervoltage (s : State) := s.onFeed Fjoek.feedOver
/-- FEED_OVERVOLTAGE_END. -/
def execFeedOvervoltageEnd (s : State) := s.onFeed Fjoek.feedOverEnd
/-- FEED_PG_ASSERT. -/
def execFeedPgAssert (s : State) := s.onFeed fun m => if m.feed.full ∧ !m.feed.limited then m.feedGood else m
/-- FEED_RETRY. -/
def execFeedRetry (s : State) := s.onFeed Fjoek.feedRetryOn
/-- FEED_RETRY_COUNT_RESET. -/
def execFeedRetryCountReset (s : State) := s.onFeed fun m =>
  if m.feed.full ∧ m.isOn FEED_STAT_pg then m.put FEED_FCNT_retries 0 else m
/-- HOLDUP_TEST_PERIODIC. -/
def execHoldupTestPeriodic (s : State) := s.onFeed fun m => if m.get FEED_HCFG_period = 0 then m else m.htestStart
/-- HOLDUP_TEST_MEASURE: `peer` is the peer's current integral in units of 10 mA × 10 µs, 0 on a single module. -/
def execHoldupTestMeasure (peer : Int) (s : State) := s.onFeed fun m =>
  m.htestMeasure (if m.isOn TOP_STRAP_twin then peer else 0)

end Sys2Proof.Machine
end

