-- ==== Sys2Proof/Machine/Bays.lean ====
section
/-! DEFINITION. Bay power channels (R425 to R443): switching on, limit, faults and retries, the three-pole model, power-good,
presence, one tick in its order (R433), measurements and calibration. -/

namespace Sys2Proof.Machine

def bayReset (_ : Nat) : Bay :=
  { gate := 0, auxAge := 0, driven := 0, qual := 0, timer := none, below := 0, auxq := 0, wait := 0, fresh := false, onAge := 0
    debounce := 0, dt1 := 0, dt2 := 0, dt3 := 0, cofs := 0 }

def Fjoek.channel (m : Fjoek) (b : Nat) : Bay := tableGet bayReset m.bay b

def Fjoek.setChannel (m : Fjoek) (b : Nat) (x : Bay) : Fjoek := { m with bay := tableSet bayReset m.bay b x }

/-- The state of channel `b` (R443): 0 OFF, 1 RAMP, 2 QUALIFY, 3 ON, 4 RETRY, 5 FAULT. -/
def Fjoek.bayState (m : Fjoek) (b : Nat) : Nat := m.get (BAY_STAT_state b)

/-- The gate or the auxiliary switch is on. -/
def Fjoek.bayOnNow (m : Fjoek) (b : Nat) : Bool := decide (1 ≤ m.bayState b ∧ m.bayState b ≤ 3)

/-! ## Settings in force -/

def Fjoek.bayFull (m : Fjoek) : Nat := 50000000 / clampTo 500 5000 (m.get BAY_SNS_shunt)

/-- The limit in mA, at most 50 mV over the shunt (R425, R427). -/
def Fjoek.bayLim (m : Fjoek) (b : Nat) : Nat := Nat.min (10 * clampTo 25 800 (m.get (BAY_LIM_lim b))) m.bayFull

def Fjoek.bayTrip (m : Fjoek) (b : Nat) : Nat :=
  Nat.min (10 * clampTo 25 800 (m.get (BAY_LIM_lim b)) * (4 + Nat.min 4 (m.get (BAY_LIM_trip b))) / 2) m.bayFull

/-- The junction temperature of the model in 10^-9 °C (R430). -/
def Fjoek.bayTj (m : Fjoek) (b : Nat) : Int :=
  let x := m.channel b
  1000000000 * m.getS BAY_TJCFG_tamb + x.cofs + x.dt1 + x.dt2 + x.dt3

def Fjoek.bayTjMax (m : Fjoek) : Int := 1000000000 * (clampTo 100 175 (m.get BAY_TJCFG_tjmax) : Nat)

/-! ## Power-good, off and faults (R429, R431, R437) -/

/-- `pg` changes: event 34 + 4b; its fall ends the drive port's service (R211), and on a trailing twin Fjoek releases the port on its rise
(R203). -/
def Fjoek.bayPg (m : Fjoek) (b : Nat) (v : Bool) : Fjoek :=
  if m.isOn (BAY_STAT_pg b) = v then m
  else
    let m := ((m.put (BAY_STAT_pg b) (bnat v)).put ⟨BAY_PGS, b, b⟩ (bnat v)).cause (BAY_ESTAT_pgchg b) (34 + 4 * b)
    if v then m.when m.trailing fun m => m.releasePort b else m.portEnd b 0xC3

/-- The gate and the auxiliary switch turn off, with a cause if they were on. -/
def Fjoek.bayOff (m : Fjoek) (b cause state : Nat) : Fjoek :=
  let was := m.bayOnNow b
  let x := m.channel b
  let m := m.setChannel b { x with gate := 0, auxAge := 0, driven := 0, qual := 0, timer := none, below := 0, auxq := 0, onAge := 0 }
  let m := (m.put (BAY_STAT_fullon b) 0).put (BAY_STAT_auxon b) 0
  let m := (m.put (BAY_STAT_limit b) 0).put (BAY_STAT_auxlim b) 0
  let m := m.when was fun m => (m.put (BAY_STAT_cause b) cause).bayTouch
  (m.put (BAY_STAT_state b) state).bayPg b false

/-- A fault with its cause, 1 to 4 (R429, R437). -/
def Fjoek.bayFault (m : Fjoek) (b cause : Nat) : Fjoek :=
  if !m.bayOnNow b then m
  else
    let n := m.get (BAY_TMR_count b)
    let stuck := n == 0 || (n < 15 && decide (n ≤ m.get (BAY_FCNT_used b)))
    let m := m.bayOff b cause (if stuck then 5 else 4)
    let m := (m.bump (BAY_FCNT_faults b) 1).cause (BAY_ESTAT_fault b) (32 + 4 * b)
    m.setChannel b { m.channel b with wait := 10000 * clampTo 1 1020 (m.get (BAY_TMR_retry b)), fresh := false }

/-! ## On (R426) -/

/-- Step 1: the auxiliary switch turns on. -/
def Fjoek.bayStart (m : Fjoek) (b : Nat) : Fjoek :=
  let m := m.setChannel b { m.channel b with gate := 1, auxAge := 0, driven := 0, qual := 0, timer := none, below := 0, auxq := 0, fresh := false, onAge := 0 }
  (((m.put (BAY_STAT_state b) 1).put (BAY_STAT_auxon b) 1)).bayTouch

/-- An ON under the refusals of R426. -/
def Fjoek.bayOn (m : Fjoek) (b : Nat) : Fjoek :=
  if m.bayState b ≠ 0 then m.put (BAY_CMDSTAT_code b) 1
  else if m.get BAY_V12_mv10 < 1080 then m.put (BAY_CMDSTAT_code b) 2
  else (m.put (BAY_CMDSTAT_code b) 0).bayStart b

/-- An op of BAY_CMD whose key is right: 1 ON, 2 OFF, 3 CLR; 0 is ignored (R437, R443). -/
def Fjoek.bayCmd (m : Fjoek) (b op : Nat) : Fjoek :=
  match op with
  | 1 => m.bayOn b
  | 2 => (((m.bayOff b 6 0).put (BAY_FCNT_used b) 0).put (BAY_CMDSTAT_code b) 0)
  | 3 => (((m.bayOff b 6 0).put (BAY_FCNT_used b) 0).put (BAY_CMDSTAT_code b) 0)
  | _ => m

/-- Step 2: the 12 V gate slews. -/
def Fjoek.bayRamp (m : Fjoek) (b : Nat) : Fjoek :=
  if (m.channel b).gate = 1 then (m.setChannel b { m.channel b with gate := 2 }).bayTouch else m

/-- Step 3: the gate is driven to full enhancement. -/
def Fjoek.bayDrive (m : Fjoek) (b : Nat) : Fjoek :=
  if (m.channel b).gate = 2 then m.setChannel b { m.channel b with gate := 3, driven := 0 } else m

/-- Step 4: fully on. -/
def Fjoek.bayFullOn (m : Fjoek) (b : Nat) : Fjoek :=
  if (m.channel b).gate = 3 ∧ !m.isOn (BAY_STAT_fullon b) then (m.put (BAY_STAT_fullon b) 1).put (BAY_STAT_state b) 2 else m

/-- Step 5: qualified (R431). -/
def Fjoek.bayGood (m : Fjoek) (b : Nat) : Fjoek :=
  if m.bayState b = 2 ∧ !m.isOn (BAY_STAT_limit b) then (m.put (BAY_STAT_state b) 3).bayPg b true else m

/-! ## Presence and retry (R434 to R439) -/

/-- A debounced change of presence. -/
def Fjoek.bayPresence (m : Fjoek) (b : Nat) (v : Bool) : Fjoek :=
  if m.isOn (BAY_STAT_present b) = v then m
  else
    let m := m.setChannel b { m.channel b with debounce := 0 }
    let m := ((m.put (BAY_STAT_present b) (bnat v)).put ⟨BAY_PRES, b, b⟩ (bnat v)).cause (BAY_ESTAT_presence b) (35 + 4 * b)
    let st := m.bayState b
    if v then
      if m.isOn BAY_CTL_hpen ∧ m.isOn (BAY_LIM_hotplug b) ∧ st = 0 then m.bayOn b else m
    else
      let m := m.put (BAY_FCNT_used b) 0
      if 1 ≤ st ∧ st ≤ 3 then m.bayOff b 5 0
      else if st = 5 then m.put (BAY_STAT_state b) 0
      else if st = 4 then m.setChannel b { m.channel b with fresh := true }
      else m

/-- The retry timer has run out: power is applied to a drive that is present, once the model has cooled (R437, R438). -/
def Fjoek.bayRetry (m : Fjoek) (b : Nat) : Fjoek :=
  if m.bayState b ≠ 4 then m
  else if !m.isOn (BAY_STAT_present b) then m.put (BAY_STAT_state b) 0
  else if m.bayTjMax - 20000000000 < m.bayTj b then m
  else
    let fresh := (m.channel b).fresh
    (m.when (!fresh) fun m => m.bump (BAY_FCNT_used b) 1).bayStart b

/-! ## One tick (R433) -/

/-- One pole: `target` and `dt` in 10^-9 °C, tau in 10 µs. -/
def bayPole (target dt : Int) (tau : Nat) : Int := dt + (target - dt) / (10 * (Nat.max 1 tau : Nat) : Int)

/-- The model, from voltages in 10 mV and a current in mA (R430). -/
def Fjoek.bayModel (m : Fjoek) (b v12 vs i : Nat) : Fjoek :=
  let x := m.channel b
  let p : Int := if x.gate < 2 then 0 else ((v12 : Int) - vs) * i
  let target := fun (r : Nat) => p * r * 10
  let m := m.setChannel b { x with
    dt1 := bayPole (target (m.get BAY_ZTH1_r)) x.dt1 (m.get BAY_ZTH1_tau)
    dt2 := bayPole (target (m.get BAY_ZTH2_r)) x.dt2 (m.get BAY_ZTH2_tau)
    dt3 := bayPole (target (m.get BAY_ZTH3_r)) x.dt3 (m.get BAY_ZTH3_tau) }
  m.putS (BAY_TJ_tj b) (clampInt (-512) 511 (m.bayTj b / 500000000))

/-- Limit state and fault timer (R427). -/
def Fjoek.bayLimit (m : Fjoek) (b i : Nat) : Fjoek :=
  let x := m.channel b
  if x.gate < 2 then m
  else
    let on := decide (m.bayLim b ≤ i)
    let was := m.isOn (BAY_STAT_limit b)
    let below := if on then 0 else x.below + 1
    let timer := match x.timer with
      | some t => if on then some (t + 1) else if 1000 ≤ below then none else some (t + 1)
      | none => if on then some 1 else none
    let m := m.setChannel b { x with below := below, timer := timer }
    let m := m.when (on != was) Fjoek.bayTouch
    let m := m.put (BAY_STAT_limit b) (bnat on)
    let m := m.when (on && !was) fun m => m.cause (BAY_ESTAT_limit b) (33 + 4 * b)
    match timer with
    | some t => if 100 * clampTo 1 512 (m.get (BAY_TMR_fault b)) ≤ t then m.bayFault b 1 else m
    | none => m

/-- The auxiliary switch (R428). -/
def Fjoek.bayAux (m : Fjoek) (b i : Nat) (hot : Bool) : Fjoek :=
  let x := m.channel b
  if x.gate = 0 then m
  else
    let on := decide (1200 ≤ i)
    let was := m.isOn (BAY_STAT_auxlim b)
    let m := m.setChannel b { x with auxq := if on then x.auxq + 1 else 0 }
    let m := m.when (on != was) Fjoek.bayTouch
    let m := m.put (BAY_STAT_auxlim b) (bnat on)
    let m := m.when (on && !was) fun m => m.cause (BAY_ESTAT_limit b) (33 + 4 * b)
    if hot ∨ 1000 ≤ (m.channel b).auxq then m.bayFault b 4 else m

/-- The sequence of R426 and power-good qualification (R431, R432). -/
def Fjoek.bayQualify (m : Fjoek) (b v12 vs auxV : Nat) : Fjoek :=
  let x := m.channel b
  let m := match x.gate with
    | 1 => (m.setChannel b { x with auxAge := x.auxAge + 1 }).when (decide (300 ≤ auxV ∨ 1000 ≤ x.auxAge + 1)) fun m => m.bayRamp b
    | 2 => m.when (decide (v12 < vs + 20)) fun m => m.bayDrive b
    | 3 => if m.isOn (BAY_STAT_fullon b) then m
      else (m.setChannel b { x with driven := x.driven + 1 }).when (decide (500 ≤ x.driven + 1)) fun m => m.bayFullOn b
    | _ => m
  let x := m.channel b
  let lim := m.isOn (BAY_STAT_limit b)
  let ok := m.isOn (BAY_STAT_fullon b) && !lim
  let m := m.setChannel b { x with qual := if ok then x.qual + 1 else 0, onAge := if m.bayState b = 3 then x.onAge + 1 else 0 }
  let m := m.when (lim && m.isOn (BAY_STAT_pg b) && m.isOn (BAY_LIM_pg_drop_on_limit b)) fun m =>
    (m.put (BAY_STAT_state b) 2).bayPg b false
  let m := m.when (ok && decide (100 ≤ (m.channel b).qual)) fun m => m.bayGood b
  if 10000000 ≤ (m.channel b).onAge then (m.setChannel b { m.channel b with onAge := 0 }).put (BAY_FCNT_used b) 0 else m

/-- Presence debounce (R434): a level held for 10 ms. -/
def Fjoek.bayDebounce (m : Fjoek) (b : Nat) (v : Bool) : Fjoek :=
  let x := m.channel b
  if m.isOn (BAY_STAT_present b) = v then m.setChannel b { x with debounce := 0 }
  else if 10000 ≤ x.debounce + 1 then m.bayPresence b v
  else m.setChannel b { x with debounce := x.debounce + 1 }

/-- Everything of one tick of 1 µs of channel `b`, in the order of R433. -/
def Fjoek.bayStep (m : Fjoek) (b : Nat) (q : BayInput) : Fjoek :=
  let i := q.i.toNat
  let m := if 2 ≤ (m.channel b).gate ∧ m.bayTrip b ≤ i then m.bayFault b 2 else m
  let m := m.bayModel b q.v12.toNat q.vs.toNat i
  let m := if 2 ≤ (m.channel b).gate ∧ m.bayTjMax ≤ m.bayTj b then m.bayFault b 3 else m
  let m := m.bayLimit b i
  let m := m.bayAux b q.auxI.toNat q.auxHot
  let m := m.bayQualify b q.v12.toNat q.vs.toNat q.auxV.toNat
  let m := m.bayDebounce b q.present
  let x := m.channel b
  let m := m.setChannel b { x with wait := x.wait - 1 }
  if (m.channel b).wait = 0 then m.bayRetry b else m

/-! ## Measurements and calibration (R441, R442) -/

/-- The readings of channel `b` refresh, and the bus reading with them. -/
def Fjoek.bayMeasure (m : Fjoek) (b : Nat) (q : BayInput) : Fjoek :=
  let m := (m.put BAY_V12_mv10 q.v12.toNat).put (BAY_I_ma b) q.i.toNat
  let m := (m.put (BAY_VOUT_mv10 b) q.vs.toNat).put (BAY_AUX_ma b) q.auxI.toNat
  let m := m.put (BAY_AUX_mv10 b) q.auxV.toNat
  m.put (BAY_PWR_mw b) (Nat.min (2 ^ 17 - 1) ((q.vs.toNat * q.i.toNat + q.auxV.toNat * q.auxI.toNat) / 100))

/-- The largest deviation and its bay, the lowest on a tie, in 0.1 °C. -/
def Fjoek.worstDev (m : Fjoek) : Fjoek :=
  let (v, b) := (List.range 24).foldl (fun (w : Nat × Nat) b =>
    let d := 5 * (m.getS (BAY_TJ_dev b)).natAbs
    if w.1 < d then (d, b) else w) (0, 0)
  (m.put BAY_CALW_dev (Nat.min 1023 v)).put BAY_CALW_bay b

/-- Once a second in steady ON: the deviation of the on-resistance reading from the model. `steady` says that the channel has
been in ON for 100 ms and its current within 5 % over the second. With tc = 0 the spec states no temperature: free. -/
def Fjoek.bayCalibrate (m : Fjoek) (b : Nat) (steady : Bool) : Fjoek :=
  let i := m.get (BAY_I_ma b)
  let r25 := m.get BAY_RCAL_r25
  if m.bayState b ≠ 3 ∨ !steady ∨ i < 1000 ∨ r25 = 0 then m
  else
    let rds : Int := ((m.get BAY_V12_mv10 : Int) - m.get (BAY_VOUT_mv10 b)) * 10000000 / i
    let tc := m.get BAY_RCAL_tc
    let (tr, m) : Int × Fjoek :=
      if tc = 0 then
        let (v, m) := m.freeNat
        ((v : Int), m)
      else (25000000000 + (rds - r25) * 100000000000000 / ((r25 * tc : Nat) : Int), m)
    let dev := tr - m.bayTj b
    let m := m.putS (BAY_TJ_dev b) (clampInt (-512) 511 (dev / 500000000))
    let m := m.setChannel b { m.channel b with cofs := if m.isOn BAY_RCAL_adapt then clampInt 0 50000000000 dev else 0 }
    m.worstDev

/-! ## The commands of the table -/

/-- BAY_CMD_ON: in SERVE it is the library's, which releases the drive port as it commands the channel on (R203; assumption 86, DEDUCED). -/
def execBayCmdOn (b : Fin 24) (s : State) := s.onFeed fun m =>
  let m := m.bayCmd b.val 1
  m.when (m.power == 4 && !m.trailing) fun m => m.releasePort b.val
/-- BAY_CMD_OFF. -/
def execBayCmdOff (b : Fin 24) (s : State) := s.onFeed fun m => m.bayCmd b.val 2
/-- BAY_CMD_CLR. -/
def execBayCmdClr (b : Fin 24) (s : State) := s.onFeed fun m => m.bayCmd b.val 3
/-- BAY_TICK. -/
def execBayTick (b : Fin 24) (x : BayInput) (s : State) := s.onFeed fun m => m.bayStep b.val x
/-- BAY_RAMP_START. -/
def execBayRampStart (b : Fin 24) (s : State) := s.onFeed fun m => m.bayRamp b.val
/-- BAY_FULL_ENHANCEMENT. -/
def execBayFullEnhancement (b : Fin 24) (s : State) := s.onFeed fun m => m.bayDrive b.val
/-- BAY_FULLY_ON. -/
def execBayFullyOn (b : Fin 24) (s : State) := s.onFeed fun m => m.bayFullOn b.val
/-- BAY_POWER_GOOD. -/
def execBayPowerGood (b : Fin 24) (s : State) := s.onFeed fun m => m.bayGood b.val
/-- BAY_FAULT_TIMER_EXPIRY. -/
def execBayFaultTimerExpiry (b : Fin 24) (s : State) := s.onFeed fun m =>
  if (m.channel b.val).timer.isSome then m.bayFault b.val 1 else m
/-- BAY_FAST_TRIP. -/
def execBayFastTrip (b : Fin 24) (s : State) := s.onFeed fun m => m.bayFault b.val 2
/-- BAY_MODEL_TRIP. -/
def execBayModelTrip (b : Fin 24) (s : State) := s.onFeed fun m => m.bayFault b.val 3
/-- BAY_AUX_FAULT. -/
def execBayAuxFault (b : Fin 24) (s : State) := s.onFeed fun m => m.bayFault b.val 4
/-- BAY_PRESENCE_DEBOUNCED. -/
def execBayPresenceDebounced (b : Fin 24) (present : Bool) (s : State) := s.onFeed fun m => m.bayPresence b.val present
/-- BAY_RETRY_TIMER_EXPIRY. -/
def execBayRetryTimerExpiry (b : Fin 24) (s : State) := s.onFeed fun m => m.bayRetry b.val
/-- BAY_RETRY_COUNT_RESET. -/
def execBayRetryCountReset (b : Fin 24) (s : State) := s.onFeed fun m =>
  if m.bayState b.val = 3 then m.put (BAY_FCNT_used b.val) 0 else m
/-- BAY_MEASURE. -/
def execBayMeasure (b : Fin 24) (x : BayInput) (s : State) := s.onFeed fun m => m.bayMeasure b.val x
/-- BAY_CALIBRATION. -/
def execBayCalibration (b : Fin 24) (steady : Bool) (s : State) := s.onFeed fun m => m.bayCalibrate b.val steady

end Sys2Proof.Machine
end

