-- ==== Sys2Proof/Machine/Hearth.lean ====
section
/-! DEFINITION. The Hearth (spec/16): kindle requests, straps, the OTP ledger and its shadow, rails, the watchdog, thermal
shutdown, secure boot with its recovery, and the moves between power states. -/

namespace Sys2Proof.Machine

def Fjoek.setHearth (m : Fjoek) (x : Hearth) : Fjoek := { m with hearth := x }

/-! ## Kindle requests (R388) -/

/-- A kindle request: from HEARTH only, and never without a valid ledger generation. -/
def Fjoek.kindleRequest (m : Fjoek) : Fjoek :=
  if !m.awake ∨ m.hearth.rstLow ∨ m.power ≠ 1 ∨ m.isOn HEARTH_STAT_otpbad then m
  else
    let m := (m.setHearth { m.hearth with retryDue := false }).put HEARTH_STAT_tsd 0
    let m := m.put HEARTH_STAT_state 2
    let m := m.when (m.isOn FEED_STAT_pg && m.get HEARTH_RAILSTAT_en == 0) fun m => m.put HEARTH_RAILSTAT_en 1
    m.feedKindle

/-! ## The OTP ledger (R400, R401) -/

def otpGenWord (f : Fuses) (g w : Nat) : Nat := (tableGet (fun _ => 0) f.words (1024 * g + w)).toNat

/-- The words 0 to 1,021 of generation `g` as bytes. -/
def otpImage (f : Fuses) (g : Nat) : List Nat :=
  ((List.range 1022).map fun w => (bytesOf 4 (otpGenWord f g w)).map BitVec.toNat).flatten

/-- Generation `g` is sealed. -/
def otpSealed (f : Fuses) (g : Nat) : Bool := otpGenWord f g 1023 == 0xA5A5A5A5

/-- Generation `g` is valid: magic, format, generation byte, seal word and CRC. -/
def otpValid (f : Fuses) (g : Nat) : Bool :=
  otpSealed f g && otpGenWord f g 0 == 0x4C50544F && otpGenWord f g 1 / 65536 == 1 && otpGenWord f g 1 % 256 == g &&
    crc32c (otpImage f g) == otpGenWord f g 1022

def otpGens (f : Fuses) : List Nat := (List.range 4).filter (otpValid f)

/-- The generation in force: the highest valid one. -/
def otpGen (f : Fuses) : Nat := (otpGens f).foldl Nat.max 0

/-- The lowest valid generation in which key slot `k` is not zero. -/
def otpKeyGen (f : Fuses) (k : Nat) : Nat :=
  ((otpGens f).find? fun g => (List.range 12).any fun w => otpGenWord f g (80 + 12 * k + w) != 0).getD (otpGen f)

/-- Word `w` of the shadow: the record in force, its key slots replaced. -/
def otpShadow (f : Fuses) (w : Nat) : Nat :=
  if otpGens f = [] then 0
  else if 80 ≤ w ∧ w < 116 then otpGenWord f (otpKeyGen f ((w - 80) / 12)) w
  else otpGenWord f (otpGen f) w

/-- The shadow and OTP_STAT (R400). Without a valid generation the module stays in HEARTH. -/
def Fjoek.otpLoad (m : Fjoek) (f : Fuses) : Fjoek :=
  let gs := otpGens f
  let m := m.each (List.range 1024) fun w m => m.setReg (OTP_REC w) (otpShadow f w)
  let m := m.put OTP_STAT_revoked (gs.foldl (fun v g => v ||| bitsOf (otpGenWord f g 116) 2 0) 0)
  let m := m.put OTP_STAT_jtag (bitsOf (otpShadow f 116) 9 8)
  let m := m.put OTP_STAT_arb f.arb
  let m := m.put OTP_STAT_sealed ((List.range 4).foldl (fun v g => v + bnat (otpSealed f g) * 2 ^ g) 0)
  let m := (m.put OTP_STAT_valid (gs.foldl (fun v g => v + 2 ^ g) 0)).put OTP_STAT_gen (otpGen f)
  if gs = [] then (m.put HEARTH_STAT_otpbad 1).cause HEARTH_ESTAT_hstat 0 else m

/-! ## Feed and bay defaults (R422, R443) -/

/-- A field marked "ledger" takes its image, or the nearer limit of its range. -/
def Fjoek.putDefault (m : Fjoek) (f : Fld) (w lo hi : Nat) : Fjoek :=
  m.put f (clampTo lo hi (bitsOf (m.reg (OTP_REC w)) f.hi f.lo))

def Fjoek.feedDefaults (m : Fjoek) : Fjoek :=
  let m := (m.putDefault FEED_CTL_nfet 16 0 3).putDefault FEED_CTL_revblk 16 0 1
  let m := (m.putDefault FEED_RAMP_slope 17 5 1280).putDefault FEED_ILIM_trip 18 0 3
  let m := (m.putDefault FEED_ILIM_lim 18 20 1500).putDefault FEED_FTMR_ms 19 2 1020
  let m := (m.putDefault FEED_RETRY_count 20 0 15).putDefault FEED_RETRY_delay 20 1 255
  let m := (m.putDefault FEED_UV_filt 21 1 255).putDefault FEED_UV_th 21 85 600
  let m := (m.putDefault FEED_SNS_shunt 22 100 2000).putDefault FEED_TJ_tjmax 23 100 175
  let m := (m.putDefault FEED_TJ_tsmax 23 60 150).putDefault FEED_TJ_tamb 23 0 255
  let m := (m.putDefault FEED_ZTH1_tau 24 1 65535).putDefault FEED_ZTH1_r 24 0 65535
  let m := (m.putDefault FEED_ZTH2_tau 25 1 65535).putDefault FEED_ZTH2_r 25 0 65535
  m.putDefault FEED_HCFG_period 26 0 255

def Fjoek.bayDefaults (m : Fjoek) (b : Nat) : Fjoek :=
  let m := (m.putDefault (BAY_LIM_hotplug b) (32 + 2 * b) 0 1).putDefault (BAY_LIM_slope b) (32 + 2 * b) 1 255
  let m := (m.putDefault (BAY_LIM_pg_drop_on_limit b) (32 + 2 * b) 0 1).putDefault (BAY_LIM_trip b) (32 + 2 * b) 0 7
  let m := (m.putDefault (BAY_LIM_lim b) (32 + 2 * b) 25 800).putDefault (BAY_TMR_count b) (33 + 2 * b) 0 15
  (m.putDefault (BAY_TMR_retry b) (33 + 2 * b) 1 1020).putDefault (BAY_TMR_fault b) (33 + 2 * b) 1 512

/-! ## Straps (R395) -/

/-- Strap `n` in force: its ball, or the value that the record's strap word forces. -/
def strapValue (word pins n : Nat) : Nat := bnat (if bitOf word n then bitOf word (n + 8) else bitOf pins n)

def Fjoek.strapSample (m : Fjoek) (f : Fuses) (pins : Nat) : Fjoek :=
  if m.hearth.off ∨ m.hearth.rstLow ∨ m.hearth.ready ∨ m.hearth.sampled then m
  else
    let w := otpShadow f 9
    let m := m.setHearth { m.hearth with sampled := true }
    let m := (m.put TOP_STRAP_pins pins).put TOP_STRAP_twin (strapValue w pins 0)
    let m := (m.put TOP_STRAP_autostart (strapValue w pins 1)).put TOP_STRAP_pos (strapValue w pins 2)
    m.put TOP_STRAP_recovery (strapValue w pins 3)

/-- The Hearth reset runs to its end (R397 step 3). The latched copy of the log's sequence number, which no reset changes, takes
the number's own higher word (R10). -/
def Fjoek.resetDone (m : Fjoek) (f : Fuses) : Fjoek :=
  if m.hearth.off ∨ m.hearth.rstLow ∨ m.hearth.ready ∨ !m.hearth.sampled then m
  else
    let m := (m.otpLoad f).feedDefaults
    let m := (m.each (List.range 24) fun b m => m.bayDefaults b).loadDefaults
    let m := m.setHearth { m.hearth with ready := true }
    let m : Fjoek := { m with wide := tableSet regDflt m.wide MGMT_LOGSEQ_HI (BitVec.ofNat 32 (m.reg MGMT_LOGSEQ_HI)) }
    if m.isOn TOP_STRAP_autostart then m.kindleRequest else m

/-! ## Rails (R398) -/

/-- RAIL_EN balls that are raised, counted: they rise in order. -/
def Fjoek.railsUp (m : Fjoek) : Nat := ((List.range 6).filter (bitOf (m.get HEARTH_RAILSTAT_en))).length

def railEn (n : Nat) : Fld := ⟨HEARTH_RAILSTAT, n, n⟩
def railPg (n : Nat) : Fld := ⟨HEARTH_RAILSTAT, 8 + n, 8 + n⟩

/-- A missing or a lost RAIL_PG: a Kindle reset with cause 4. -/
def Fjoek.railBad (m : Fjoek) (n : Nat) : Fjoek :=
  (((m.put HEARTH_STAT_rail n).put HEARTH_STAT_railfail 1).cause HEARTH_ESTAT_hstat 0).kindleReset 4

def Fjoek.railNext (m : Fjoek) : Fjoek :=
  let n := m.railsUp
  if m.power ≠ 2 ∨ n = 0 then m
  else
    let m := m.put (railPg (n - 1)) 1
    if n < 6 then m.put (railEn n) 1 else m

/-- In DOUSING the highest raised enable falls; after the last the state is HEARTH, and a retry may be due. -/
def Fjoek.railLower (m : Fjoek) : Fjoek :=
  if m.power ≠ 6 then m
  else
    let n := m.railsUp
    let m := if n = 0 then m else (m.put (railEn (n - 1)) 0).put (railPg (n - 1)) 0
    if 1 < n then m
    else
      let m := m.moveTo 1
      let due := decide (m.get HEARTH_RSTC_kcause = 4 ∧ m.hearth.retries < m.get HEARTH_CTL_railretry)
      m.setHearth { m.hearth with retryDue := due }

/-! ## The watchdog (R396) -/

/-- A kick: stage 1 starts again where the watchdog runs, and wdk clears. -/
def Fjoek.kick (m : Fjoek) : Fjoek :=
  let m := (m.setHearth { m.hearth with kickAt := none }).put HEARTH_RSTC_wdk 0
  if m.get HEARTH_WDT_stage = 0 then m else m.put HEARTH_WDT_stage 1

/-- A management processor's write of HEARTH_WDKICK. -/
def Fjoek.kickWrite (m : Fjoek) (v : Nat) : Fjoek :=
  if v % 256 = 0x5A then m.setHearth { m.hearth with kickAt := some m.time }
  else
    match m.hearth.kickAt with
    | some t => if v % 256 = 0xA5 ∧ m.time ≤ t + 1000000 then m.kick else m.setHearth { m.hearth with kickAt := none }
    | none => m

/-- Stage 1 starts as the management core is kindled, or as the watchdog is enabled while that core runs. -/
def Fjoek.watchdogStart (m : Fjoek) : Fjoek :=
  if !m.isOn HEARTH_WDT_en then m.put HEARTH_WDT_stage 0
  else if m.get HEARTH_WDT_stage = 0 ∧ m.runs 2 ∧ 2 ≤ m.power ∧ m.power ≤ 4 then m.put HEARTH_WDT_stage 1
  else m

/-! ## Secure boot (R399) -/

/-- The reserved fields of a firmware header, offset and length. -/
def imageRsv : List (Nat × Nat) := [(0x006, 2), (0x00D, 3), (0x018, 40), (0x041, 63), (0x0E1, 31), (0x160, 160)]

/-- Checks 1 to 4, on the 512 header bytes. -/
def Fjoek.imageHead (m : Fjoek) (h : List Nat) : Nat :=
  let len := hdrNat h 0x10 4
  if hdrNat h 0 4 ≠ 0x4B4F4A46 ∨ hdrNat h 4 2 ≠ 1 then 1
  else if len = 0 ∨ 67108352 < len ∨ len ≤ hdrNat h 0x14 4 ∨ !(imageRsv.all fun r => hdrZero h r.1 r.2) then 2
  else
    match m.keyHash (nth h 0x40 0) with
    | none => 3
    | some k => if sha384 ((h.drop 0x80).take 97) ≠ k then 4 else 0

/-- Checks 5 and 6, on header and body. -/
def Fjoek.imageBody (m : Fjoek) (h body : List Nat) : Nat :=
  let c := m.signCheck h body
  if c ≠ 0 then c else if nth h 0x0C 0 < m.get OTP_STAT_arb then 6 else 0

/-- The SPI NOR; erased bytes read 0xFF. -/
def Fjoek.spiBytes (m : Fjoek) (a n : Nat) : List Nat :=
  (List.range n).map fun i => (tableGet (fun _ => 0xFF) m.hearth.spi (a + i)).toNat

def slotBase (s : Nat) : Nat := if s = 0 then 0 else 0x4000000

/-- An image from its bytes: its body goes to the management HBM region as it is hashed. The answer is the check's code. -/
def Fjoek.imageTake (m : Fjoek) (h body : List Nat) : Nat × Fjoek :=
  let c := m.imageHead h
  if c ≠ 0 then (c, m)
  else (m.imageBody h body, m.hbmPut 0x7C0000000 (body.map (BitVec.ofNat 8)))

/-- Slot `s`, checked. -/
def Fjoek.slotCheck (m : Fjoek) (s : Nat) : Nat × Fjoek :=
  let h := m.spiBytes (slotBase s) 512
  m.imageTake h (m.spiBytes (slotBase s + 512) (hdrNat h 0x10 4))

/-- The boot record's bytes. -/
def bootRecord (pref trial tries : Nat) : List Byte :=
  let b := bytesOf 4 0x54424F4F ++ bytesOf 1 pref ++ bytesOf 1 trial ++ bytesOf 1 tries ++ List.replicate 53 0
  b ++ bytesOf 4 (crc32c (b.map BitVec.toNat))

/-- pref, trial and tries of the boot record, if it is valid. -/
def Fjoek.bootRead (m : Fjoek) : Option (Nat × Nat × Nat) :=
  let b := (m.mramBytes 0x5280000 60).map BitVec.toNat
  let p := nth b 4 0
  let t := nth b 5 0
  let n := nth b 6 0
  if hdrNat b 0 4 = 0x54424F4F ∧ m.mramNat 0x528003C 4 = crc32c b ∧ p ≤ 1 ∧ t ≤ 1 ∧ n ≤ 1 then some (p, t, n) else none

/-- TOP_BOOT (R405). -/
def Fjoek.bootResult (m : Fjoek) (slot trial a b : Nat) : Fjoek :=
  let m := (m.put TOP_BOOT_slot slot).put TOP_BOOT_reverted (bnat m.hearth.reverted)
  ((m.put TOP_BOOT_trial trial).put TOP_BOOT_codea a).put TOP_BOOT_codeb b

/-- Control goes to a verified image: the kick, and KINDLING becomes BANKED, whose further domains start (R387, R389). -/
def Fjoek.bootRun (m : Fjoek) : Fjoek :=
  let m := m.kick
  let m := m.setHearth { m.hearth with core := 2, uart := [] }
  if m.power ≠ 2 then m
  else
    let m := (m.moveTo 3).startDomain 5
    if m.att.perst ∨ m.att.d3cold then m else m.startDomain 9

/-- Recovery: slot 2, no slot loaded. -/
def Fjoek.recoveryEnter (m : Fjoek) (a b : Nat) : Fjoek :=
  let m := m.setHearth { m.hearth with core := 3, uart := [] }
  m.bootResult 2 0 a b |>.kick

/-- The boot ROM starts: the slot selection up to the stored record. -/
def Fjoek.bootStart (m : Fjoek) : Fjoek :=
  let m := m.setHearth { m.hearth with core := 1, reverted := false, uart := [] }
  if m.isOn TOP_STRAP_recovery then m.recoveryEnter 0xFF 0xFF
  else
    let (p, t, n) := m.bootRead.getD (0, 0, 0)
    if t = 1 ∧ 1 ≤ n then
      (m.setHearth { m.hearth with reverted := true }).mramPut 0x5280000 (bootRecord (1 - p) 0 0)
    else m.mramPut 0x5280000 (bootRecord p t (if t = 1 then 1 else n))

/-- The slots in the order of the record; the first that passes runs, and where none does recovery begins. -/
def Fjoek.bootTry (m : Fjoek) (recovery : Bool) : Fjoek :=
  if m.hearth.core ≠ 1 then m
  else
    let (p, t, _) := m.bootRead.getD (0, 0, 0)
    let (c, m1) := m.slotCheck p
    if c = 0 then
      if recovery then m else (m1.bootResult p t (if p = 0 then 0 else 0xFF) (if p = 0 then 0xFF else 0)).bootRun
    else
      let (d, m2) := m1.slotCheck (1 - p)
      let a := if p = 0 then c else d
      let b := if p = 0 then d else c
      if d = 0 then if recovery then m else (m2.bootResult (1 - p) 0 a b).bootRun
      else if recovery then m2.recoveryEnter a b else m

/-- Bytes of a recovery transfer (R473). -/
def Fjoek.recoveryReceive (m : Fjoek) (b : List Byte) : Fjoek :=
  if m.hearth.core ≠ 3 then m
  else
    let l := m.hearth.uart ++ b
    let h := (l.take 512).map BitVec.toNat
    let n := hdrNat h 0x10 4
    if l.length < 512 ∨ (m.imageHead h = 0 ∧ l.length < 512 + n) then m.setHearth { m.hearth with uart := l }
    else
      let (c, m) := m.imageTake h (((l.drop 512).take n).map BitVec.toNat)
      if c = 0 then m.bootRun.send (.uart 0x06) else m.setHearth { m.hearth with uart := [] }

/-! ## The management domain and its reset -/

/-- The logger's scan at each Kindle: it resumes after the valid record with the highest seq (R469). -/
def Fjoek.logScan (m : Fjoek) : Fjoek :=
  let slots := m.mram.foldl (fun (l : List Nat) e =>
    if 0x5000000 ≤ e.1 ∧ e.1 < 0x5200000 then
      let k := (e.1 - 0x5000000) / 64
      if l.head? = some k then l else k :: l
    else l) []
  m.setReg64 MGMT_LOGSEQ_LO (slots.foldl (fun v k =>
    let b := (m.mramBytes (0x5000000 + 64 * k) 60).map BitVec.toNat
    let q := hdrNat b 0 8
    if q % 32768 = k ∧ v < q ∧ m.mramNat (0x5000000 + 64 * k + 60) 4 = crc32c b then q else v) 0)

/-- Causes that the Hearth domain holds, with their events, in rising order (R483, R486). -/
def heldCauses : List (Fld × Nat) :=
  [(HEARTH_ESTAT_hstat, 0), (HEARTH_ESTAT_wd1, 1), (HEARTH_ESTAT_pstate, 2), (HEARTH_ESTAT_kreset, 3), (HEARTH_ESTAT_twarn, 4),
   (HEARTH_ESTAT_alarm, 7), (FEED_ESTAT_stat, 8), (FEED_ESTAT_fault, 9), (FEED_ESTAT_loss, 10), (FEED_ESTAT_htest, 11)]

def bayCauses (b : Nat) : List (Fld × Nat) :=
  [(BAY_ESTAT_fault b, 32 + 4 * b), (BAY_ESTAT_limit b, 33 + 4 * b), (BAY_ESTAT_pgchg b, 34 + 4 * b),
   (BAY_ESTAT_presence b, 35 + 4 * b)]

/-- EVT latches each source whose cause bit outlived the Kindle reset (R483). -/
def Fjoek.relatch (m : Fjoek) : Fjoek :=
  m.each (heldCauses ++ ((List.range 24).map bayCauses).flatten) fun c m => m.when (m.isOn c.1) fun m => m.latch c.2

/-- Losses held while the management domain was stopped reach CLK and EVT in rising event number (R504). -/
def Fjoek.heldLosses (m : Fjoek) : Fjoek :=
  let l := m.hearth.lostHeld
  let u := m.hearth.unlockHeld
  let m := m.setHearth { m.hearth with lostHeld := 0, unlockHeld := false }
  let m := m.when (l != 0) fun m => (m.put CLK_STOPC_stopped (m.get CLK_STOPC_stopped ||| l)).cause CLK_ESTAT_lost 12
  let m := m.cause CLK_ESTAT_change 13
  m.when u fun m => m.cause CLK_ESTAT_unlock 15

/-- The management PLL locks after a Kindle (R392 step 6, R397 step 6): the management domain and the memories run. -/
def Fjoek.pllLock (m : Fjoek) : Fjoek :=
  if m.power ≠ 2 ∨ m.get HEARTH_RAILSTAT_pg ≠ 63 ∨ m.runs 2 ∨ bitOf m.hearth.lost 2 then m
  else
    let m := (m.put CLK_DOMSTAT_run (m.get CLK_DOMSTAT_run ||| 0x1C04)).put CLK_PLL_mgmt 1
    let m := m.logScan
    let m := (Fjoek.relatch { m with mgmt := { m.mgmt with logRoom := some 64 } }).heldLosses
    let m : Fjoek := { m with mgmt := { m.mgmt with logRoom := none } }
    m.watchdogStart.bootStart

/-- A management reset (R477): both cores stop, MNIC is down, and the boot ROM starts on core 0. The datapath, the rings, the
fan duties, the LEDs, the logger and a QUIESCE stay. -/
def Fjoek.managementReset (m : Fjoek) : Fjoek :=
  if !m.runs 2 ∨ m.power < 2 ∨ 4 < m.power then m
  else
    let m := m.resetFields (fun r => r == .mgmt) fun _ => true
    let m := m.setHearth { m.hearth with coresHung := 0, core := 0, kickAt := none }
    let m : Fjoek := { m with mgmt := { m.mgmt with sram := [], upd := none, partials := [] } }
    let m := m.when (m.runs 4) fun m => m.flushPort 37
    m.bootStart

/-! ## HEARTH_CMD (R387, R389, R405) -/

/-- BANK is allowed: groups drained or without image, slots in state 0, drive ports disabled. -/
def Fjoek.bankReady (m : Fjoek) : Bool :=
  ((List.range 16).all fun g => !m.isOn (SEAM_GSTAT_hasimg g) || m.isOn (SEAM_GSTAT_drained g)) &&
  ((List.range 32).all fun s => m.get (NETP_SSTAT_state s) == 0) &&
  ((List.range 24).all fun p => m.isOn (DRV_PCTL_disable p))

/-- SERVE: the datapath starts, and the program library with it, which releases the ports that have power (R203; assumption 86, DEDUCED). -/
def Fjoek.cmdServe (m : Fjoek) : Fjoek :=
  if m.power ≠ 3 then m.put HEARTH_CMDSTAT_code 1
  else
    let m := (m.put HEARTH_CMDSTAT_code 0).moveTo 4
    let m := m.each ([3, 4, 7, 8] ++ if m.isOn TOP_STRAP_twin then [13] else []) fun d m => m.startDomain d
    (m.settleQuads).releaseBays

def Fjoek.cmdBank (m : Fjoek) : Fjoek :=
  if m.power ≠ 4 then m.put HEARTH_CMDSTAT_code 1
  else if !m.bankReady then m.put HEARTH_CMDSTAT_code 2
  else
    let m := (m.put HEARTH_CMDSTAT_code 0).moveTo 3
    m.each [3, 4, 6, 7, 8, 13] fun d m => m.beginStop d

/-- SLEEP, also while rails still rise (R404). -/
def Fjoek.cmdSleep (m : Fjoek) : Fjoek :=
  if m.power = 3 ∨ m.power = 4 ∨ (m.power = 2 ∧ m.get HEARTH_RAILSTAT_en ≠ 0 ∧ m.get HEARTH_RAILSTAT_pg ≠ 63) then
    (m.kindleReset 5).put HEARTH_CMDSTAT_code 0
  else m.put HEARTH_CMDSTAT_code 1

def Fjoek.cmdKrst (m : Fjoek) : Fjoek :=
  if m.power = 3 ∨ m.power = 4 then (m.kindleReset 1).put HEARTH_CMDSTAT_code 0 else m.put HEARTH_CMDSTAT_code 1

/-- An op of HEARTH_CMD whose key is right, once the Hearth is ready; others than 1 to 5 are ignored. -/
def Fjoek.hearthCmd (m : Fjoek) (op : Nat) : Fjoek :=
  if !m.awake then m
  else match op with
    | 1 => m.cmdServe
    | 2 => m.cmdBank
    | 3 => m.cmdSleep
    | 4 => m.cmdKrst
    | 5 => m.hearthReset 4
    | _ => m

/-! ## OTP programming (R402) -/

/-- A command of OTP_PCMD is accepted: its code so far, and what it programs. Commands written while one is in progress are
ignored. -/
def Fjoek.otpCommand (m : Fjoek) (f : Fuses) (op g w data : Nat) : Fjoek :=
  if m.isOn OTP_PSTAT_busy ∨ op = 0 then m
  else
    let old := otpGenWord f g w
    let code :=
      if !m.isOn OTP_CTL_pen ∨ m.get FEED_VIN_mv10 < 1000 then 1
      else if op = 3 then if 64 ≤ f.arb then 6 else 0
      else if otpSealed f g then 3
      else if (otpGens f).any fun v => g ≤ v then 4
      else if op = 1 ∧ (1022 < w ∨ old &&& data ≠ old) then 5
      else 0
    let due : Nat × Nat × Nat :=
      if code ≠ 0 then (code, 0, 0)
      else if op = 1 then (0, 1024 * g + w, data)
      else if op = 2 then (0, 1024 * g + 1023, 0xA5A5A5A5)
      else (0, 4096, 1)
    (m.setHearth { m.hearth with otpDue := some due }).put OTP_PSTAT_busy 1

/-- It completes. `stuck` names the bits that do not take; where one was to be set, the read-back differs. -/
def Fjoek.otpDone (m : Fjoek) (stuck : Nat) : Fjoek :=
  match m.hearth.otpDue with
  | none => m
  | some (code, c, bits) =>
    let bad := bits &&& stuck
    let code := if code = 0 ∧ bad ≠ 0 then 2 else code
    let m := m.setHearth { m.hearth with otpDue := none, burn := m.hearth.burn ++ [(c, bits - bad)] }
    let m := (m.put OTP_PSTAT_busy 0).put OTP_PSTAT_code code
    let m := m.cause OTP_PSTAT_done 5
    if code = 0 then m else m.cause OTP_PSTAT_ref 6

/-! ## The commands of the table -/

/-- FEED_ON. -/
def execFeedOn (s : State) := s.on fun m => if m.hearth.off then m.hearthReset 1 else m
/-- HEARTH_RST_N_ASSERT. -/
def execHearthRstNAssert (s : State) := s.on fun m =>
  if m.hearth.off then m
  else
    let m := m.hearthReset 2
    m.setHearth { m.hearth with rstLow := true }
/-- HEARTH_RST_N_RELEASE. -/
def execHearthRstNRelease (s : State) := s.on fun m =>
  if !m.hearth.rstLow then m
  else (m.setHearth { m.hearth with rstLow := false, counting := true, slowAcc := 0 }).setReg64 HEARTH_TIME_LO 0
/-- HEARTH_RESET_DONE. -/
def execHearthResetDone (s : State) := s.onFuses fun f m => m.resetDone f
/-- STRAP_SAMPLE. -/
def execStrapSample (pins : BitVec 4) (s : State) := s.onFuses fun f m => m.strapSample f pins.toNat
/-- POWER_OFF. -/
def execPowerOff (s : State) := s.on fun m =>
  if m.hearth.off then m
  else
    let m := ((m.hearthReset 0).setReg CLK_DOMSTAT 0).put HEARTH_STAT_state 0
    m.setHearth { m.hearth with off := true, counting := false, rstLow := false }
/-- XTAL_FAIL. -/
def execXtalFail (s : State) := s.on fun m =>
  if m.hearth.off ∨ m.isOn HEARTH_STAT_xtalfail then m
  else (m.put HEARTH_STAT_xtalfail 1).cause HEARTH_ESTAT_hstat 0
/-- KINDLE_N_FALL. -/
def execKindleNFall (s : State) := s.on Fjoek.kindleRequest

/-- The time base reaches the second that HEARTH_ALARM names. -/
def Fjoek.alarmMatch (m : Fjoek) : Fjoek := (m.cause HEARTH_ESTAT_alarm 7).kindleRequest

/-- HEARTH_ALARM_MATCH: the time base has run on to that second. -/
def execHearthAlarmMatch (s : State) := s.on fun m =>
  let t := 1000000000 * m.get HEARTH_ALARM_s
  if !m.awake ∨ t ≤ m.time then m else (m.setReg64 HEARTH_TIME_LO t).alarmMatch
/-- SERVE. -/
def execServe (s : State) := s.on fun m => m.hearthCmd 1
/-- BANK. -/
def execBank (s : State) := s.on fun m => m.hearthCmd 2
/-- SLEEP. -/
def execSleep (s : State) := s.on fun m => m.hearthCmd 3
/-- KRST. -/
def execKrst (s : State) := s.on fun m => m.hearthCmd 4
/-- HRST. -/
def execHrst (s : State) := s.on fun m => m.hearthCmd 5
/-- RAIL_ENABLE_NEXT. -/
def execRailEnableNext (s : State) := s.on Fjoek.railNext
/-- RAIL_FAILURE: the power-good of the highest raised enable is missing. -/
def execRailFailure (s : State) := s.on fun m =>
  let n := m.railsUp
  if m.power ≠ 2 ∨ n = 0 ∨ m.isOn (railPg (n - 1)) then m else m.railBad (n - 1)
/-- RAIL_FAULT. -/
def execRailFault (n : Fin 6) (s : State) := s.on fun m =>
  if m.power < 2 ∨ 4 < m.power ∨ !m.isOn (railPg n.val) then m else (m.put (railPg n.val) 0).railBad n.val
/-- RAIL_DISABLE_NEXT. -/
def execRailDisableNext (s : State) := s.on Fjoek.railLower
/-- RAIL_RETRY. -/
def execRailRetry (s : State) := s.on fun m =>
  if m.power ≠ 1 ∨ !m.hearth.retryDue then m
  else (m.setHearth { m.hearth with retryDue := false, retries := m.hearth.retries + 1 }).kindleRequest
/-- MANAGEMENT_PLL_LOCK. -/
def execManagementPllLock (s : State) := s.on Fjoek.pllLock
/-- BOOT_HANDOFF. -/
def execBootHandoff (s : State) := s.on fun m => m.bootTry false
/-- BOOT_RECOVERY_ENTRY. -/
def execBootRecoveryEntry (s : State) := s.on fun m => m.bootTry true
/-- RECOVERY_IMAGE_RECEIVE. -/
def execRecoveryImageReceive (bytes : List Byte) (s : State) := s.on fun m => m.recoveryReceive bytes
/-- RECOVERY_TRANSFER_TIMEOUT. -/
def execRecoveryTransferTimeout (s : State) := s.on fun m =>
  if m.hearth.core ≠ 3 ∨ m.hearth.uart = [] then m
  else (m.setHearth { m.hearth with uart := [] }).send (.uart 0x15)
/-- RECOVERY_WATCHDOG_KICK. -/
def execRecoveryWatchdogKick (s : State) := s.on fun m => if m.hearth.core = 3 then m.kick else m
/-- THERMAL_SHUTDOWN: die sensor `i` reads `t`, in 0.25 °C. -/
def execThermalShutdown (_i : Fin 16) (t : BitVec 11) (s : State) := s.on fun m =>
  if (m.power ≠ 3 ∧ m.power ≠ 4) ∨ t.toInt < 520 then m
  else (m.kindleReset 3).put HEARTH_STAT_tsd 1
/-- THERMAL_RESTART: the Hearth sensor reads `t`, in 0.25 °C. -/
def execThermalRestart (t : BitVec 11) (s : State) := s.on fun m =>
  if !m.isOn HEARTH_STAT_tsd ∨ !m.isOn HEARTH_CTL_tsd_auto ∨ 4 * (clampTo 60 125 (m.get HEARTH_TSD_restart) : Nat) < t.toInt then m
  else m.kindleRequest
/-- WATCHDOG_KICK. -/
def execWatchdogKick (s : State) := s.on fun m => if m.runs 2 ∧ m.hearth.core ≠ 0 then m.kick else m
/-- WATCHDOG_STAGE_1_EXPIRY. -/
def execWatchdogStage1Expiry (s : State) := s.on fun m =>
  if m.get HEARTH_WDT_stage ≠ 1 then m else (m.put HEARTH_WDT_stage 2).cause HEARTH_ESTAT_wd1 1
/-- WATCHDOG_STAGE_2_EXPIRY. -/
def execWatchdogStage2Expiry (s : State) := s.on fun m =>
  if m.get HEARTH_WDT_stage ≠ 2 then m else (m.put HEARTH_WDT_stage 3).managementReset
/-- WATCHDOG_STAGE_3_EXPIRY. -/
def execWatchdogStage3Expiry (s : State) := s.on fun m =>
  if m.get HEARTH_WDT_stage ≠ 3 then m
  else if m.isOn HEARTH_RSTC_wdk then m.hearthReset 3
  else (m.kindleReset 2).put HEARTH_RSTC_wdk 1
/-- MANAGEMENT_RESET. -/
def execManagementReset (s : State) := s.on Fjoek.managementReset
/-- OTP_PROGRAM: PROGRAM as OTP_PGEN, OTP_PADDR and OTP_PDATA name it. -/
def execOtpProgram (gen : Fin 4) (word : BitVec 10) (data : Word32) (s : State) := s.onFuses fun f m =>
  if !m.awake then m
  else (((m.put OTP_PGEN_gen gen.val).put OTP_PADDR_word word.toNat).put OTP_PDATA_data data.toNat).otpCommand f 1 gen.val
    word.toNat data.toNat
/-- OTP_SEAL. -/
def execOtpSeal (gen : Fin 4) (s : State) := s.onFuses fun f m =>
  if !m.awake then m else (m.put OTP_PGEN_gen gen.val).otpCommand f 2 gen.val 1023 0
/-- OTP_ARB. -/
def execOtpArb (s : State) := s.onFuses fun f m => if !m.awake then m else m.otpCommand f 3 0 0 0
/-- OTP_COMMAND_DONE. -/
def execOtpCommandDone (stuck : Word32) (s : State) := s.on fun m => m.otpDone stuck.toNat

end Sys2Proof.Machine
end

