-- ==== Sys2Proof/Machine/Damper.lean ====
section
/-! DEFINITION. The Damper (spec/19): the sensors, the token generator and its shares, the thermal clamp and the Seam clock, the
policy of program library 1.0 with its dirty limit and calibration, and self-tests. -/

namespace Sys2Proof.Machine

def Fjoek.setDamp (m : Fjoek) (x : Damp) : Fjoek := { m with damp := x }

/-- A happening in the management domain, where DAMP, SENSE, MGMT, EVT, PMON and CLK lie (R502): nothing while it is stopped. -/
def State.onMgmt (s : State) (f : Fjoek → Fjoek) : Host.Outcome State Fault Refusal := s.on fun m => if m.runs 2 then f m else m

/-! ## Seam clock (R453) -/

/-- The step asked for: 2 during the clamp, otherwise DAMP_DVFS.req, where 3 acts as 2. -/
def Fjoek.dvfsTarget (m : Fjoek) : Nat := if m.isOn DAMP_STAT_clamp then 2 else Nat.min 2 (m.get DAMP_DVFS_req)

/-- A change starts unless one is in progress; what is written meanwhile is held in `req`. -/
def Fjoek.dvfsGo (m : Fjoek) : Fjoek :=
  if m.isOn DAMP_STAT_busy ∨ m.dvfsTarget = m.get DAMP_DVFS_cur then m
  else (m.setDamp { m.damp with dvfsNext := m.dvfsTarget }).put DAMP_STAT_busy 1

def Fjoek.dvfsWrite (m : Fjoek) (req : Nat) : Fjoek := (m.put DAMP_DVFS_req req).dvfsGo

def Fjoek.dvfsDone (m : Fjoek) : Fjoek :=
  if !m.isOn DAMP_STAT_busy then m
  else
    let m := (m.put DAMP_STAT_busy 0).put DAMP_DVFS_cur m.damp.dvfsNext
    (m.cause DAMP_ESTAT_step 486).dvfsGo

/-! ## Sensors and the clamp (R445, R446, R391, R452) -/

/-- The clamp threshold in 0.25 °C. -/
def Fjoek.clampAt (m : Fjoek) : Int := 4 * (clampTo 90 125 (m.get DAMP_TCLAMP_t) : Nat)

/-- One reading of sensor `i`: within −60 to 150 °C or not, unchanged for 10 s against the others or not. A failed sensor
recovers on a reading in range once a reading has differed from the one at which it failed; 4,096 marks that one has. -/
def Fjoek.senseOne (m : Fjoek) (i : Nat) (t : Int) (stuck : Bool) : Fjoek :=
  let ok := decide (-240 ≤ t ∧ t ≤ 600)
  let v := unsigned 11 t
  let m := m.put (SENSE_TDIE_t i) v
  let setAt := fun (m : Fjoek) v => m.setDamp { m.damp with failAt := tableSet (fun _ => 0) m.damp.failAt i v }
  if m.isOn (SENSE_TDIE_failed i) then
    let m := if v ≠ tableGet (fun _ => 0) m.damp.failAt i then setAt m 4096 else m
    if ok ∧ tableGet (fun _ => 0) m.damp.failAt i = 4096 then m.put (SENSE_TDIE_failed i) 0 else m
  else if !ok ∨ stuck then ((setAt m v).put (SENSE_TDIE_failed i) 1).cause SENSE_ESTAT_sfail 488
  else m

/-- SENSE_TMAX over the sensors that have not failed; forced when more than 4 have. -/
def Fjoek.senseMax (m : Fjoek) : Fjoek :=
  let live := (List.range 16).filter fun i => !m.isOn (SENSE_TDIE_failed i)
  let hot := live.foldl (fun (b : Option Nat) i =>
    match b with
    | some j => if m.getS (SENSE_TDIE_t j) < m.getS (SENSE_TDIE_t i) then some i else b
    | none => some i) none
  let m := m.put SENSE_TMAX_sensor (hot.getD 0)
  if live.length < 12 then (m.put SENSE_TMAX_forced 1).putS SENSE_TMAX_t m.clampAt
  else (m.put SENSE_TMAX_forced 0).putS SENSE_TMAX_t (m.getS (SENSE_TDIE_t (hot.getD 0)))

/-- The clamp ends, and the step that was written applies. -/
def Fjoek.clampEnd (m : Fjoek) : Fjoek :=
  if m.isOn DAMP_STAT_clamp ∧ m.getS SENSE_TMAX_t < m.clampAt - 12 then
    ((m.setDamp { m.damp with coolUs := 0 }).put DAMP_STAT_clamp 0).dvfsGo
  else m

/-- The clamp engages at its threshold, and releases after 1 ms strictly below it less 3 °C. -/
def Fjoek.clampTick (m : Fjoek) : Fjoek :=
  let t := m.getS SENSE_TMAX_t
  if m.clampAt ≤ t then
    let m := m.setDamp { m.damp with coolUs := 0 }
    if m.isOn DAMP_STAT_clamp then m else ((m.put DAMP_STAT_clamp 1).cause DAMP_ESTAT_clamp 483).dvfsGo
  else if !m.isOn DAMP_STAT_clamp then m
  else
    let m := m.setDamp { m.damp with coolUs := if t < m.clampAt - 12 then m.damp.coolUs + 10 else 0 }
    if 1000 ≤ m.damp.coolUs then m.clampEnd else m

/-- Every 10 µs: the die sensors and the rail powers. A sensor that crosses 120 °C latches event 4, failed or not. -/
def Fjoek.senseRefresh (m : Fjoek) (reads : List (BitVec 11)) (stuck : BitVec 16) (rails : List (BitVec 20)) : Fjoek :=
  let was := (List.range 16).any fun i => decide (480 ≤ m.getS (SENSE_TDIE_t i))
  let m := m.each (reads.take 16).zipIdx fun q m => m.senseOne q.2 q.1.toInt (stuck.getLsbD q.2)
  let hot := (List.range 16).any fun i => decide (480 ≤ m.getS (SENSE_TDIE_t i))
  let m := m.when (hot && !was) fun m => m.cause HEARTH_ESTAT_twarn 4
  let m := m.each (rails.take 8).zipIdx fun q m => m.put (SENSE_PRAIL_mw q.2) q.1.toNat
  let m := m.put SENSE_PMOD_mw (Nat.min (2 ^ 20 - 1) ((List.range 8).foldl (fun v r => v + m.get (SENSE_PRAIL_mw r)) 0))
  m.senseMax.clampTick

/-! ## The period (R447 to R451, R548) -/

/-- A write of DAMP_GRANT: it ends a stall, and its period has one (R451). -/
def Fjoek.grantWrite (m : Fjoek) (tokens : Nat) : Fjoek :=
  ((m.setDamp { m.damp with silent := 0, wrote := true }).put DAMP_GRANT_tokens tokens).put DAMP_STAT_stall 0

def Fjoek.policyStall (m : Fjoek) : Fjoek :=
  if m.isOn DAMP_STAT_stall then m else (m.put DAMP_STAT_stall 1).cause DAMP_ESTAT_stall 482

/-- The watchdog of R451 at a period's end. -/
def Fjoek.grantWatch (m : Fjoek) : Fjoek :=
  let n := if m.damp.wrote then 0 else m.damp.silent + 1
  let m := m.setDamp { m.damp with silent := n, wrote := false }
  if Nat.max 1 (m.get DAMP_CFG_wdg) ≤ n then m.policyStall else m

/-- a, in µJ. -/
def Fjoek.feedEnergy (m : Fjoek) : Nat :=
  if m.get FEED_STAT_state = 3 ∨ m.get FEED_STAT_state = 7 then
    m.get FEED_VIN_mv10 * clampTo 20 1500 (m.get FEED_ILIM_lim) * Nat.min 1000 (m.get DAMP_CFG_derate) / 100000
  else 0

/-- m, in µJ. -/
def Fjoek.usedEnergy (m : Fjoek) : Nat :=
  (m.get SENSE_PMOD_mw + (List.range 24).foldl (fun v b => v + m.get (BAY_PWR_mw b)) 0) / 100

/-- base after a period that no token paid `x` for. -/
def nextBase (base x : Nat) : Nat := if base < x then x else base - ceilDiv (base - x) 16

/-- The classes that hold a bucket, in the order of R448's spill. -/
def bucketClasses : List Nat := [0, 1, 3, 4, 5]

/-- The shares of `h` (R448): class and tokens. -/
def Fjoek.shares (m : Fjoek) (h : Nat) : List (Nat × Nat) :=
  let f3 := h * Nat.min 50 (m.get DAMP_FLOOR_c3) / 100
  let f4 := h * Nat.min 10 (m.get DAMP_FLOOR_c4) / 100
  let r := h - f3 - f4
  let w := m.get DAMP_WEIGHT_w0 + m.get DAMP_WEIGHT_w1 + m.get DAMP_WEIGHT_w5
  let (w1, w5, w) := if w = 0 then (1, 1, 3) else (m.get DAMP_WEIGHT_w1, m.get DAMP_WEIGHT_w5, w)
  [(3, f3), (4, f4), (0, r - r * w1 / w - r * w5 / w), (1, r * w1 / w), (5, r * w5 / w)]

/-- Add up to `n` tokens to class `c`'s bucket; what its depth leaves over is the answer. -/
def Fjoek.pour (m : Fjoek) (c n : Nat) : Nat × Fjoek :=
  let room := ((m.depth c : Int) - m.level c).toNat
  (n - room, m.setLevel c (m.level c + Nat.min n room))

/-- The shares reach the buckets; spill goes round, and what no bucket takes is discarded (R448, R452). -/
def Fjoek.share (m : Fjoek) (h : Nat) : Fjoek :=
  let clamp := m.isOn DAMP_STAT_clamp
  let (spill, m) := (m.shares h).foldl (fun (q : Nat × Fjoek) s =>
    if clamp ∧ s.1 ≠ 3 ∧ s.1 ≠ 4 then (q.1 + s.2, q.2)
    else
      let (left, m) := q.2.pour s.1 s.2
      (q.1 + left, m)) (0, m)
  let (waste, m) := if clamp then (spill, m) else bucketClasses.foldl (fun (q : Nat × Fjoek) c => q.2.pour c q.1) (spill, m)
  m.count DAMP_WASTE_LO waste

/-- Every queued draw is served and every bucket set to its depth (R548). -/
def Fjoek.serveAll (m : Fjoek) : Fjoek :=
  m.each bucketClasses fun c m =>
    let l := m.draws c
    let m := m.setDraws c []
    (m.each l fun d m => (m.take c d.tokens).grant c d).setLevel c (m.depth c)

/-- The end of a period: a, base and g, the shares, then each class's queue. -/
def Fjoek.generate (m : Fjoek) : Fjoek :=
  let m := m.grantWatch
  let a := m.feedEnergy
  let used := m.usedEnergy
  let x := ((used : Int) - m.damp.spent).toNat
  let base := nextBase m.damp.base x
  let grant := if m.isOn DAMP_STAT_stall then m.get DAMP_SAFE_tokens else m.get DAMP_GRANT_tokens
  let g := Nat.min grant (a - base)
  let m := m.setDamp { m.damp with spent := 0, base := base, meas := used }
  let pub := fun v => Nat.min (2 ^ 24 - 1) v
  let m := ((m.put DAMP_AVAIL_uj (pub a)).put DAMP_BASE_uj (pub base)).put DAMP_G_uj g
  let asked := bucketClasses.foldl (fun v c => v + (m.draws c).foldl (fun v d => v + d.tokens) 0) 0
  let short := decide (g < asked)
  let rise := short && !m.isOn DAMP_STAT_short
  let m := (m.put DAMP_STAT_short (bnat short)).when rise fun m => m.cause DAMP_ESTAT_short 481
  let setDebt := fun (m : Fjoek) v => (m.setDamp { m.damp with debt := v }).put DAMP_DEBT_debt v
  if m.isOn DAMP_CTL_en then
    let m := (m.count DAMP_GRANTED_LO g).happen 0x110 g
    let g2 := Nat.min g m.damp.debt
    let m := (setDebt m (m.damp.debt - g2)).share (g - g2)
    m.each bucketClasses fun c m => m.serve c
  else (setDebt m 0).serveAll

/-- DAMPER_PERIOD. A trailing twin computes and grants nothing (R460); the lead logs the period (R356). -/
def execDamperPeriod (s : State) := s.onMgmt fun m => if m.trailing then m else (m.logTwin 0x06 0x87 [8, 0]).generate

/-! ## The policy (R454, R455) -/

/-- The grant for a temperature in 0.25 °C. -/
def policyGrant (t : Int) : Nat := if t < 360 then 0xFFFFF else (250 * (440 - t) / 4).toNat

/-- The ladder: Seam step, engines parked in a cluster, and the drives' cap; none is the drive's highest-numbered state. -/
def ladder (level : Nat) : Nat × Nat × Option Nat :=
  nth [(0, 0, some 0), (1, 0, some 0), (1, 1, some 1), (2, 2, some 1), (2, 3, some 2), (2, 3, none)] level (2, 3, none)

/-- The ladder moves to a level: the clock step, and engines parked from the highest of each cluster down, which the lead logs. -/
def Fjoek.ladderMove (m : Fjoek) (level : Nat) : Fjoek :=
  let old := (ladder (m.get DAMP_LVL_level)).2.1
  let new := (ladder level).2.1
  let m := (m.put DAMP_LVL_level level).dvfsWrite (ladder level).1
  m.each (List.range 48) fun i m =>
    let j := i % 3 + 1
    let e := 4 * (i / 3) + j
    let park := decide (3 < j + new)
    if decide (3 < j + old) = park then m else m.seamPut (SEAM_ECTL_park e) (bnat park) fun m => m.parkWrite e park

/-- Raise and lower the level (R454). -/
def Fjoek.ladderTick (m : Fjoek) : Fjoek :=
  let t := m.getS SENSE_TMAX_t
  let a := m.get DAMP_AVAIL_uj
  let lvl := m.get DAMP_LVL_level
  if m.isOn FEED_HTSTAT_busy then m
  else if m.get FEED_STAT_state = 4 ∨ 95 * a < 100 * m.damp.meas ∨ 420 ≤ t then
    (m.setDamp { m.damp with calm := 0 }).ladderMove (Nat.min 5 (lvl + 1))
  else if 100 * m.damp.meas < 80 * a ∧ t < 400 then
    let calm := m.damp.calm + Nat.max 1 (m.get DAMP_CFG_ptick)
    if calm < 10000 then m.setDamp { m.damp with calm := calm }
    else
      let m := m.setDamp { m.damp with calm := 0 }
      if lvl = 0 then m else m.ladderMove (lvl - 1)
  else m.setDamp { m.damp with calm := 0 }

/-- The power state of the drive on port `p`: the higher-numbered of the ladder's cap and what its temperature asks (R455). -/
def Fjoek.driveState (m : Fjoek) (p : Nat) : Nat :=
  let (warn, crit, top) := tableGet (fun _ => (0, 0, 0)) m.drv.limits p
  let cap := (ladder (m.get DAMP_LVL_level)).2.2.getD top
  let t : Int := if m.isOn (DRV_TEMP_valid p) then m.getS (DRV_TEMP_temp p) else (warn : Int)
  let own := if (crit : Int) ≤ t + 5 then top else if (warn : Int) ≤ t + 5 then cap + 1 else 0
  Nat.min top (Nat.max cap own)

/-! ## The dirty limit (R457, R458) -/

/-- The largest m among pools that run write-back. -/
def Fjoek.backM (m : Fjoek) : Nat :=
  (List.range 4).foldl (fun v p =>
    match m.pool? p with
    | some x => if x.ns.any (fun e => e.2.writeBack) then Nat.max v x.layout.m else v
    | none => v) 0

/-- The cost of 4 KiB by row `i` of the cost table. -/
def Fjoek.cost4k (m : Fjoek) (i : Nat) : Nat := m.get (MNGL_COST_base i) + ceilDiv (m.get (MNGL_COST_per4k i)) 64

/-- ⌊L / 4,096⌋, its energies in 1/2,000,000 µJ. Where neither blocks nor the base cost anything, the spec states no quotient:
free. -/
def Fjoek.limitBlocks (m : Fjoek) : Nat × Fjoek :=
  let v := m.get FEED_VOUT_mv10
  let low := 10 * m.get DAMP_HOLD0_vmin
  let e := m.get FEED_HOLDC_uf * (v * v - low * low) * clampTo 50 100 (m.get DAMP_HOLD0_eff)
  let n := e - 2000000 * (1000 * m.get DAMP_HOLD1_resv)
  let rate := Nat.max 1 (m.get DAMP_HOLD1_rate)
  let ew := (1 + m.backM) * (m.cost4k 4 + m.cost4k 5)
  let d := 10 * rate * ew + 4096 * m.damp.base
  if m.get FEED_HOLDC_src = 0 ∨ m.isOn FEED_STAT_loss ∨ m.lib.quiesce ∨ n = 0 then (0, m)
  else if d = 0 then
    let (f, m) := m.freeNat
    (f % 2 ^ 24, m)
  else (Nat.min (2 ^ 24 - 1) (n * 10 * rate / (2000000 * d)), m)

/-- The limit is published, and an episode below the dirty bytes raises event 484 once. -/
def Fjoek.dirtyPublish (m : Fjoek) : Fjoek :=
  let (b, m) := m.limitBlocks
  let m := m.put DAMP_DIRTY_blocks b
  let below := decide (4096 * b < m.dirtyBytes)
  let rise := below && !m.damp.below
  let m := m.setDamp { m.damp with below := below }
  m.when rise fun m => (m.raiseEvent 484).2

/-- One policy tick of program library 1.0. -/
def Fjoek.policyTick (m : Fjoek) : Fjoek :=
  if m.power ≠ 4 ∨ m.trailing then m
  else
    let m := (m.grantWrite (policyGrant (m.getS SENSE_TMAX_t))).ladderTick
    let m := m.each (List.range 24) fun p m =>
      if m.driveState p = m.get (DRV_PSCTL_ps p) then m else m.psWrite p (m.driveState p)
    m.dirtyPublish

/-! ## Calibration (R456) -/

/-- A per4k cost moves to what the fit gives, by at most 25 %. -/
def calMove (old fit : Nat) : Nat := clampTo (ceilDiv (3 * old) 4) (5 * old / 4) fit

/-- The library's update from the fits of the 14 rows, the energies being the world's. -/
def Fjoek.calibrate (m : Fjoek) (fits : List Nat) : Fjoek :=
  if m.power ≠ 4 ∨ m.trailing ∨ m.get DAMP_LVL_level ≠ 0 then m
  else
    let m := m.each (fits.take 14).zipIdx fun q m =>
      let w := withBits (m.reg (MNGL_COST q.2)) 31 16 (calMove (m.get (MNGL_COST_per4k q.2)) q.1)
      (m.logCmd (MNGL_COST q.2) w).setReg (MNGL_COST q.2) w
    (m.raiseEvent 490).2

/-! ## Self-tests (R459) -/

def testCost (kind : Nat) : Nat := nth [0, 40, 1200, 300, 150, 2600] kind 0

/-- Targets of each kind: engines, groups, clusters, clusters, 1 GiB ranges. -/
def testTargets (kind : Nat) : Nat := nth [0, 64, 16, 16, 16, 32] kind 0

/-- The staged, verified image is group `g`'s own. -/
def Fjoek.ownImage (m : Fjoek) (g : Nat) : Bool :=
  m.isOn SEAM_LDR_STAT_verified && m.seam.prot.isSome &&
    m.hbmNat (m.seam.ldrStage + 8) 4 == m.reg (SEAM_GVER g)

def Fjoek.testShow (m : Fjoek) (state pos : Nat) : Fjoek :=
  ((m.put DAMP_STSTAT_state state).put DAMP_STSTAT_pos pos).raiseEvent 489 |>.2

/-- The predicted start in ms, by the C4 floor's share of the last g alone; without such a share the spec states no time:
free. -/
def Fjoek.testStart (m : Fjoek) (cost : Nat) : Fjoek :=
  let ahead := m.damp.tests.foldl (fun v q => v + testCost q.kind) 0
  let need := (((ahead + cost : Nat) : Int) - m.level 4).toNat
  let f4 := m.get DAMP_G_uj * Nat.min 10 (m.get DAMP_FLOOR_c4) / 100
  let (at_, m) : Nat × Fjoek :=
    if need = 0 then (m.time / 1000000, m)
    else if f4 = 0 then m.freeNat
    else ((m.time + 10000 * ceilDiv need f4) / 1000000, m)
  m.setReg DAMP_STSTART (at_ % 2 ^ 32)

/-- A write of DAMP_STREQ; a trailing twin runs none of its own. -/
def Fjoek.testRequest (m : Fjoek) (kind target : Nat) : Fjoek :=
  if m.trailing then m
  else
    let code := if testTargets kind ≤ target then 1
      else if 8 ≤ m.damp.tests.length then 2
      else if kind = 2 ∧ !m.ownImage target then 3 else 0
    let m := m.put DAMP_STSTAT_code code
    if code ≠ 0 then m
    else
      let pos := m.damp.tests.length + bnat m.damp.running.isSome
      let m := m.testStart (testCost kind)
      (m.setDamp { m.damp with tests := m.damp.tests ++ [⟨kind, target⟩] }).testShow 1 pos

/-- The head of the queue starts as C4 holds its cost; kind 2 first drains its group, redirected to the next. -/
def Fjoek.testBegin (m : Fjoek) : Fjoek :=
  match m.damp.tests, m.damp.running with
  | t :: r, none =>
    let g := t.target
    if t.kind = 2 ∧ !(m.isOn (SEAM_GCTL_drain g) ∧ m.groupDrained g) then
      m.drainAway g
    else
      let (ok, m) := m.tryTake 4 (testCost t.kind)
      if !ok then m else (m.setDamp { m.damp with tests := r, running := some t }).testShow 2 0
  | _, _ => m

/-- After a march the group's own image, staged again from the library's copy at `image` if another stands there, is
committed, and the group resumes. -/
def Fjoek.testCommit (m : Fjoek) (g image : Nat) : Fjoek :=
  (if m.ownImage g then m else m.stageImage image).reloadGroup g

/-- A test ends with its result. -/
def Fjoek.testEnd (m : Fjoek) (result image : Nat) : Fjoek :=
  match m.damp.running with
  | none => m
  | some t =>
    let m := (m.setDamp { m.damp with running := none }).put DAMP_STSTAT_result result
    let m := match t.kind with
      | 2 => m.testCommit t.target image
      | 5 =>
        let l := (tableKeep (fun u => u / 2 ^ 24 == t.target) m.hbmHidden).map Prod.fst
        m.each l fun u m => (m.hbmDetect none (64 * u) 64).2
      | _ => m
    m.testShow 3 0

/-! ## The commands of the table -/

/-- POLICY_STALL. -/
def execPolicyStall (s : State) := s.onMgmt fun m => if m.trailing then m else m.policyStall
/-- GRANT_WRITE. -/
def execGrantWrite (tokens : BitVec 20) (s : State) := s.onMgmt fun m => m.grantWrite tokens.toNat
/-- SENSE_REFRESH. -/
def execSenseRefresh (reads : List (BitVec 11)) (stuck : BitVec 16) (rails : List (BitVec 20)) (s : State) :=
  s.onMgmt fun m => m.senseRefresh reads stuck rails
/-- THERMAL_CLAMP_RELEASE. -/
def execThermalClampRelease (s : State) := s.onMgmt Fjoek.clampEnd
/-- DVFS_REQUEST. -/
def execDvfsRequest (req : BitVec 2) (s : State) := s.onMgmt fun m => m.dvfsWrite req.toNat
/-- DVFS_STEP_DONE. -/
def execDvfsStepDone (s : State) := s.onMgmt Fjoek.dvfsDone
/-- POLICY_TICK. -/
def execPolicyTick (s : State) := s.onMgmt Fjoek.policyTick
/-- COST_CALIBRATION. -/
def execCostCalibration (per4k : List Nat) (s : State) := s.onMgmt fun m => m.calibrate per4k
/-- SELF_TEST_STRAND_KNOWN_ANSWER. -/
def execSelfTestStrandKnownAnswer (e : Fin 64) (s : State) := s.onMgmt fun m => m.testRequest 1 e.val
/-- SELF_TEST_MEMORY_MARCH. -/
def execSelfTestMemoryMarch (g : Fin 16) (s : State) := s.onMgmt fun m => m.testRequest 2 g.val
/-- SELF_TEST_MANGLE_KNOWN_ANSWER. -/
def execSelfTestMangleKnownAnswer (g : Fin 16) (s : State) := s.onMgmt fun m => m.testRequest 3 g.val
/-- SELF_TEST_CELL_MARCH. -/
def execSelfTestCellMarch (g : Fin 16) (s : State) := s.onMgmt fun m => m.testRequest 4 g.val
/-- SELF_TEST_HBM_PATROL. -/
def execSelfTestHbmPatrol (r : BitVec 16) (s : State) := s.onMgmt fun m => m.testRequest 5 r.toNat
/-- SELF_TEST_START. -/
def execSelfTestStart (s : State) := s.onMgmt Fjoek.testBegin
/-- SELF_TEST_DONE. -/
def execSelfTestDone (result : Byte) (image : Nat) (s : State) := s.onMgmt fun m => m.testEnd result.toNat image

end Sys2Proof.Machine
end

