-- ==== Sys2Proof/Machine/Mgmt.lean ====
section
/-! DEFINITION. Management (spec/20): the mailbox rings and the operations that the program library's mailbox server carries
out, software log records, the management protocols, firmware update, fans and LEDs. -/

namespace Sys2Proof.Machine

def Fjoek.setMgmt (m : Fjoek) (x : Mgmt) : Fjoek := { m with mgmt := x }

/-- A verified image runs on the management core, so Fjoek acts. -/
def Fjoek.firmware (m : Fjoek) : Bool := m.runs 2 && m.hearth.core == 2

/-! ## Mailbox rings (R465, R466) -/

/-- HBM address of the request ring and of the reply ring. -/
def requestRing : Nat := 0x7FFF00000
def replyRing : Nat := 0x7FFF04000

/-- Records between a consumer and a producer index. -/
def ringLen (pi ci : Nat) : Nat := (pi + 512 - ci) % 512

/-- A write of MGMT_MBTXPI: an index past its partner is ignored; an advance posts the wake tag. -/
def Fjoek.requestIndex (m : Fjoek) (v : Nat) : Fjoek :=
  let ci := m.get MGMT_MBTXCI_idx
  let pi := m.get MGMT_MBTXPI_idx
  if 256 < ringLen v ci then m.cause MGMT_ESTAT_mbrej 498
  else
    let m := m.put MGMT_MBTXPI_idx v
    if ringLen pi ci < ringLen v ci then m.postTag (m.get MGMT_MBCFG_engine) (m.get MGMT_MBCFG_tag) else m

/-- A write of MGMT_MBRXPI: an advance latches event 497. -/
def Fjoek.replyIndex (m : Fjoek) (v : Nat) : Fjoek :=
  let ci := m.get MGMT_MBRXCI_idx
  let pi := m.get MGMT_MBRXPI_idx
  if 256 < ringLen v ci then m.cause MGMT_ESTAT_mbrej 498
  else
    let m := m.put MGMT_MBRXPI_idx v
    if ringLen pi ci < ringLen v ci then m.cause MGMT_ESTAT_reply 497 else m

/-- A write of a consumer index, `pi` being its ring's producer index. -/
def Fjoek.consumerIndex (m : Fjoek) (pi ci : Fld) (v : Nat) : Fjoek :=
  if 256 < ringLen (m.get pi) v then m.cause MGMT_ESTAT_mbrej 498 else m.put ci v

/-- Fjoek writes records into the request ring from slot `i` on. -/
def Fjoek.ringFill (m : Fjoek) (i : Nat) (b : List Byte) : Fjoek :=
  m.each b.zipIdx fun q m => m.hbmWrite (requestRing + (64 * i + q.2) % 0x4000) [q.1]

/-- MAILBOX_REQUEST_POST: Fjoek writes `bytes` from the producer's slot on, and then the index. -/
def execMailboxRequestPost (pi : BitVec 9) (bytes : List Byte) (s : State) := s.onMgmt fun m =>
  (m.ringFill (m.get MGMT_MBTXPI_idx) bytes).requestIndex pi.toNat
/-- MAILBOX_REPLY_POST. -/
def execMailboxReplyPost (pi : BitVec 9) (s : State) := s.onMgmt fun m => if m.trailing then m else m.replyIndex pi.toNat

/-! ## The mailbox server (R467) -/

/-- What an operation answers: its status and its parameters. -/
structure Answer where
  status : Nat
  params : List Nat
  deriving DecidableEq, Repr

/-- The mailbox server runs on strand 5 of engine 4 (R467). The register that its words are logged for is g0: the spec gives no number (assumption
50). -/
def mailboxStrand : Nat := 8 * 4 + 5

/-- Take the 8 logged words of a request on a trailing twin, if the lead's have arrived. -/
def takeWords : Nat → Fjoek → Option Fjoek
  | 0, m => some m
  | n + 1, m => (m.takeValue mailboxStrand 0).bind fun q => takeWords n q.2

/-- The op that the first logged word names. -/
def Fjoek.loggedOp (m : Fjoek) : Nat := ((m.takeValue mailboxStrand 0).map fun q => q.1 % 65536).getD 0

/-- Write the reply of request record `a` and advance both indexes. -/
def Fjoek.reply (m : Fjoek) (a : Nat) (r : Answer) : Fjoek :=
  let pi := m.get MGMT_MBRXPI_idx
  let body := (r.params.map (bytesOf 4)).flatten
  let m := m.hbmWrite (replyRing + 64 * (pi % 256)) (m.hbmBytes a 2 ++ bytesOf 2 1 ++ m.hbmBytes (a + 4) 4 ++
    bytesOf 4 r.status ++ bytesOf 4 0 ++ (body ++ List.replicate 48 0).take 48)
  (m.put MGMT_MBTXCI_idx (m.get MGMT_MBTXCI_idx + 1)).replyIndex ((pi + 1) % 512)

/-- The server serves the request at the ring's front, if it names `op`: its words pass through `note`, `f` acts, and `ready` says
whether the reply can follow now. An op outside 1 to 7 is answered with status 1. On a trailing twin the logged words make `f`
act if they name `op`, and nothing of MGMT is written (R361). -/
def Fjoek.serveMailbox (m : Fjoek) (op : Nat) (ready : Fjoek → Bool) (f : Fjoek → Answer × Fjoek) : Fjoek :=
  if !m.runs 2 ∨ !m.runs 3 then m
  else if m.trailing then
    let o := m.loggedOp
    match takeWords 8 m with
    | none => m
    | some n => if o = op then (f n).2 else if o = 0 ∨ 7 < o then n else m
  else
    let ci := m.get MGMT_MBTXCI_idx
    let a := requestRing + 64 * (ci % 256)
    let o := m.hbmNat a 2
    if ci = m.get MGMT_MBTXPI_idx ∨ 256 ≤ ringLen (m.get MGMT_MBRXPI_idx) (m.get MGMT_MBRXCI_idx) then m
    else
      let note := fun (m : Fjoek) => m.each (List.range 8) fun j m => m.logValue mailboxStrand 0 (m.hbmNat (a + 8 * j) 8)
      if o = 0 ∨ 7 < o then (note m).reply a ⟨1, []⟩
      else if o ≠ op then m
      else
        let (r, m) := f (note m)
        if ready m then m.reply a r else m

/-- Done, with parameters. -/
def answered (params : List Nat) : Answer := ⟨0, params⟩

/-- A refusal of a namespace or pool operation for which no status is stated: a free NVMe status. -/
def Fjoek.refused (m : Fjoek) : Answer × Fjoek :=
  let (r, m) := m.freeNat
  (⟨0x100 + r % 0x800, []⟩, m)

/-- The limit is held at 0 from the first service on; the reply follows when nothing is dirty. -/
def Fjoek.setQuiesce (m : Fjoek) (v : Bool) : Answer × Fjoek := (answered [], { m with lib := { m.lib with quiesce := v } })

/-- MAILBOX_QUIESCE. -/
def execMailboxQuiesce (s : State) := s.on fun m =>
  m.serveMailbox 1 (fun m => m.dirtyBytes == 0) fun m => m.setQuiesce true
/-- MAILBOX_RESUME. -/
def execMailboxResume (s : State) := s.on fun m => m.serveMailbox 2 (fun _ => true) fun m => m.setQuiesce false

/-! ## NAMESPACE (R123, R124, R127) -/

/-- The first number from `i` on, over `n` numbers, that is not used. -/
def unusedFrom (used : List Nat) : Nat → Nat → Nat
  | 0, i => i
  | n + 1, i => if used.contains i then unusedFrom used n (i + 1) else i

/-- AUs of a pool, and those free in ascending order. -/
def Pool.aus (x : Pool) : Nat := x.reps * LQ x.layout * LK x.layout / Nat.max 1 x.kau
def Pool.freeAus (x : Pool) : List Nat :=
  (List.range x.aus).filter fun a => !x.map.any fun e => e.1 == a

/-- Map blocks and the namespace entry go to every present member's label, then the pool record at a new generation (R127). -/
def Fjoek.storeNs (m : Fjoek) (p slot : Nat) (aus : List Nat) : Fjoek := ((m.mapToLabels p aus).nsToLabels p slot).newGen p

/-- Every NSID in use on the module. -/
def Fjoek.nsids (m : Fjoek) : List Nat := ((List.range 4).map fun p => match m.pool? p with
  | none => []
  | some x => x.ns.map fun e => e.2.nsid).flatten

/-- Whole AUs of pool `x` for `lbas` LBAs, of 4,096 or 512 bytes: the size is rounded up (R123). -/
def Pool.ausFor (x : Pool) (lbas : Nat) (big : Bool) : Nat :=
  Nat.max 1 (ceilDiv (lbas * if big then 4096 else 512) (Nat.max 1 x.kau * 4096))

/-- A namespace is made (R123, R124). A protection type other than the pool's is refused as an invalid format (assumption 82, DEDUCED). A key slot
from 1,024 to 65,534, which no module has, is taken as it stands, and the namespace then waits for its key: the spec gives no answer for it
(assumption 99, DESIGN CHOICE). -/
def Fjoek.nsCreate (m : Fjoek) (p lbas : Nat) (writeBack big : Bool) (pi xslot nguid : Nat) : Answer × Fjoek :=
  match m.pool? p with
  | none => m.refused
  | some x =>
    let used := m.nsids
    if !x.online then m.refused
    else if 4096 ≤ used.length then (⟨0x116, []⟩, m)
    else if !big ∧ 0 < x.ms ∨ pi ≠ x.pi then (⟨0x10A, []⟩, m)
    else if x.freeAus.length < x.ausFor lbas big then (⟨0x115, []⟩, m)
    else
      let (r, m) := m.freeNat
      let (q, m) := m.freeNat
      let nsid := unusedFrom used 4097 (1 + r % 2 ^ 31)
      let slot := (List.range 4096).map (fun i => (q + i) % 4096) |>.find? (fun i => !x.ns.any fun e => e.1 == i)
      match slot with
      | none => (⟨0x116, []⟩, m)
      | some slot =>
        let take := x.freeAus.take (x.ausFor lbas big)
        let e : NsRec := { nsid := nsid, writeBack := writeBack, encrypted := xslot % 65536 != 0xFFFF, big := big, zeroed := false
                           pi := pi, ms := x.ms, aus := take.length, xslot := xslot % 65536, nguid := nguid % 2 ^ 128
                           gen := (x.gen + 1) % 2 ^ 32 }
        let map := take.foldl (fun t a => tableInsert t a slot) x.map
        let later := x.auWait.filter fun w => !take.contains w.1
        let m := (m.setPool p { x with ns := tableInsert x.ns slot e, map := map, auWait := later }).storeNs p slot take
        (answered [nsid], m.each take fun a m => m.overAu p a 2)

def Fjoek.nsDelete (m : Fjoek) (nsid : Nat) : Answer × Fjoek :=
  match m.nsFind nsid with
  | none => (⟨0x100 + stNoNamespace, []⟩, m)
  | some (p, slot, _) =>
    match m.pool? p with
    | none => m.refused
    | some x =>
      let aus := x.extents slot
      let m := m.each aus fun a m => m.overAu p a 3
      let m := m.onPool p fun x m =>
        m.setPool p { x with ns := tableErase x.ns slot, map := x.map.filter (fun e => e.2 != slot)
                             auWait := x.auWait.filter fun w => !(w.2 == 2 && aus.contains w.1) }
      (answered [], m.storeNs p slot aus)

/-- MAILBOX_NAMESPACE. -/
def execMailboxNamespace (req : NsReq) (s : State) := s.on fun m => m.serveMailbox 3 (fun _ => true) fun m =>
  match req with
  | .create p lbas wb big pi xslot nguid => m.nsCreate p.val lbas wb big pi xslot nguid
  | .delete nsid => m.nsDelete nsid

/-! ## KEY (R308) -/

/-- The command of THIM_KCMD that a request asks for; REGISTER first takes an entry. -/
def Fjoek.keyRequest (m : Fjoek) (q : KeyReq) : Answer × Fjoek :=
  if !m.runs 4 then (answered [], m.hang 2 4 THIM_KCMD)
  else
    let answer := fun (m : Fjoek) => (answered [m.get THIM_KSTAT_code, m.reg THIM_KRES], m)
    match q with
    | .register data =>
      let (v, m) := m.keyAlloc
      if v = 0 then (⟨2, []⟩, m)
      else
        let m := m.each (List.range 8) fun j m => m.setReg (THIM_KDATA j) (nth data j 0).toNat
        answer (m.keyCommand 1 (v % 2 ^ 20))
    | .revoke key => answer ((m.setReg (THIM_KDATA 0) key.toNat).keyCommand 2 0)
    | .release x => answer (m.keyCommand 4 x.toNat)

/-- MAILBOX_KEY. -/
def execMailboxKey (req : KeyReq) (s : State) := s.on fun m =>
  m.serveMailbox 4 (fun m => m.runs 4) fun m => m.keyRequest req

/-! ## POOL (R118, R141, R187 to R190) -/

/-- A drive is admitted as a member of an area of `lbas` LBAs: formatted and able, large enough, dual-port x2 in twin configuration, in
service, and in no pool (R118, R120, R153). -/
def Fjoek.admits (m : Fjoek) (lbas : Nat) (f : Found) : Bool :=
  f.fit && decide (lbas ≤ f.lbas ∧ f.port < 24) && m.drvUp f.port && m.portFit f && m.unowned 4 f

/-- The code with which a refusal stands in the pool status (R120, R153, R188): that of R137 where one fits, otherwise a free one
(assumption 75, DEDUCED). -/
def Fjoek.refuseWith (m : Fjoek) (p : Nat) (code : Option Nat) : Answer × Fjoek :=
  let (r, m) := m.freeNat
  ((m.onPool p fun x m => m.setPool p { x with refused := code.getD (1 + r % 15) }).poolEvent p).refused

def joined (f : Found) (state : Nat) : Member :=
  { serial := f.serial, state := state, lbas := f.lbas, port := some f.port, epoch := 0, resync := false, entry := 0 }

/-- The drives named for members `lo` to `hi` − 1, one for each, on different ports. -/
def drivesFor (l : List Found) (lo hi : Nat) : Option (List Found) :=
  let t := (List.range (hi - lo)).filterMap fun i => l.find? fun f => f.member == lo + i
  if t.length = hi - lo ∧ l.length = hi - lo ∧ (t.map (·.port)).Nodup then some t else none

/-- The records that MRAM holds of a pool's progress and lost extents are emptied. -/
def Fjoek.clearRecords (m : Fjoek) (p : Nat) : Fjoek :=
  let m := m.each (List.range 8) fun j m => m.mramPut (roundAt p j) (bytesOf 64 0)
  let m := (m.mramPut (reshapeAt p) (bytesOf 64 0)).mramPut (cursorAt p) (bytesOf 16 0)
  m.each (m.lostEntries.filter fun i => m.mramNat (lostAt i) 2 % 4 == p) fun i m => m.mramPut (lostAt i) (bytesOf 2 0)

/-- A new pool's label: the layout table, the namespace table and the map, and then the pool record (R119, R121, R126, R127). -/
def Fjoek.writeLabels (m : Fjoek) (p : Nat) : Fjoek :=
  m.onPool p fun x m =>
    let m := (m.tableToLabels p).toLabels p 8192 (x.nsBytes 0 4096)
    (m.mapToLabels p ((List.range (ceilDiv x.aus 2048)).map (2048 * ·))).newGen p

def Fjoek.poolCreate (m : Fjoek) (p : Nat) (l : Label) (drives : List Found) : Answer × Fjoek :=
  let refuse := m.refused
  match m.pool? p, drivesFor drives 0 l.layout.n with
  | none, some t =>
    let reps := layoutReps l.layout ((t.map (·.lbas)).foldl Nat.min (2 ^ 35))
    let window := l.window.getD 30
    if !layoutOk l.layout ∨ 600 < window ∨ !(l.ms = 0 ∨ l.ms = 8 ∨ l.ms = 16) ∨ 3 < l.pi ∨ (l.pi ≠ 0 ∧ l.ms = 0) ∨ reps = 0 ∨
        l.layout.n ≤ l.jx0 ∨ l.layout.n ≤ l.jx1 ∨ l.jx0 = l.jx1 ∨ 24 < (m.othersThan p).length + l.layout.n ∨
        !(t.all (m.admits (memberNeed l.layout reps))) then refuse
    else
      let x : Pool := {
        uuid := l.uuid, gen := 0, ms := l.ms, pi := l.pi, window := window, portable := l.portable, jx0 := some l.jx0
        jx1 := some l.jx1, jtargets := [], adopted := false, layout := l.layout, reps := reps, kau := Lau l.layout, next := none
        nextReps := 0, members := m.giveEntries l.uuid (m.entriesBut p) 0 (t.map fun f => joined f 0)
        ns := [], map := [], reloc := [], relocAbove := [], online := true, reason := 0, refused := 0, live := (0, 0)
        liveAbove := (0, 0), windows := [], roundDue := false, unitWait := false, auWait := [], scratchGone := [], parity := none
        copied := 0, group := 1, retq := [], groupOf := [] }
      let m := ((m.setPool p x).clearRecords p).writeLabels p
      (answered [], (m.onPool p fun x m => m.storeHead p x true).poolEvent p)
  | _, _ => refuse

/-- An operator fails a member that is OPTIMAL or absent (R141, R172). -/
def Fjoek.poolFail (m : Fjoek) (p i : Nat) : Answer × Fjoek :=
  match m.pool? p with
  | none => m.refused
  | some x =>
    if !x.online ∨ x.members.length ≤ i ∨ ((x.mem i).state ≠ 0 ∧ (x.mem i).state ≠ 1) then m.refused
    else (answered [], m.failMember p i)

/-- A drive that joins a pool gets the whole label but the pool record, which follows at the next generation: the layout tables, the relocation
tables, the lost-extent list, the namespace table and the map (R119, R121, R126, R127, R177, R184). -/
def Fjoek.wholeLabel (m : Fjoek) (p i : Nat) : Fjoek :=
  m.onPool p fun x m =>
    let put := fun (lba : Nat) (data : List Byte) (m : Fjoek) => m.member p i 1 lba (ceilDiv data.length 4096) data
    let m := put 1 (layoutBytes x.layout) m
    let m := match x.next with
      | some l => put 5120 (layoutBytes l) m
      | none => m
    let m := m.each (Fjoek.sides x) fun side m => put (relocLba side) (x.relocBytes side) m
    put 8448 (x.mapBytes 0 x.aus) (put 8192 (x.nsBytes 0 4096) (put 4096 (m.mramBytes 0x5300000 0x300000) m))

/-- A member gets a replacement: rounds that sweep for it are superseded, so that its entries stop counting, and a new one starts where other
failed members are left (R187; assumption 96, DEDUCED). -/
def Fjoek.leaveRounds (m : Fjoek) (p i : Nat) : Fjoek :=
  m.onPool p fun x m =>
    let on := (Fjoek.sides x).filter fun side => (m.activeRound p side).any fun r => bitOf r.fmask i
    let m := m.each on fun side m => match m.activeRound p side with
      | none => m
      | some r => m.setRound p { r with kind := 2, cbucket := (m.cursor x p r).1, csig := (m.cursor x p r).2 }
    if on ≠ [] ∧ x.members.any (fun q => q.state == 2) then m.startRound p else m

/-- A failed or relocated member gets a drive, outside the units of a reshape (R187, R196). The pool has one copy-back cursor, so a second
replacement waits. -/
def Fjoek.poolReplace (m : Fjoek) (p i : Nat) (f : Found) : Answer × Fjoek :=
  match m.pool? p with
  | none => m.refused
  | some x =>
    let st := (x.mem i).state
    let need := Nat.max (memberNeed x.layout x.reps) (memberNeed (x.lay 0) (if x.next.isSome then x.nextReps else x.reps))
    if !x.online ∨ (x.next.isSome ∧ m.reshapePhase p ≠ 3) ∨ (st ≠ 2 ∧ st ≠ 3) ∨ x.members.length ≤ i then m.refused
    else if x.members.any fun q => q.state == 4 then (⟨2, []⟩, m)
    else if !m.admits need f then m.refuseWith p (m.driveCause need f)
    else
      let q : Member := { joined f 4 with epoch := (x.mem i).epoch + 1, entry := (x.mem i).entry }
      let m := m.keepDirty p fun m => (m.setPool p { x with members := setNth x.members i q, copied := 0, refused := 0 }).leaveRounds p i
      let m := m.mramPut (cursorAt p) (bytesOf 8 (256 * i + 1) ++ bytesOf 8 0)
      (answered [], ((m.wholeLabel p i).newGen p).poolEvent p)

/-- Where a strip of a new stripe of unit `j` may land, seen in the old layout (R190): a strip of an old stripe all of whose AUs are
unallocated counts as part of an unallocated AU. -/
def landingOk (x : Pool) (e j i c : Nat) : Bool :=
  let old := x.layout
  decide (old.n ≤ i) || (x.mem i).state == 5 || decide (x.reps * old.rowCount * Ld old ≤ c) ||
  match slotStrip old i c with
  | none => true
  | some (sig, _) =>
    let k := Nat.max 1 x.kau
    decide (sig * LK old / e ≤ j) ||
      !x.map.any fun q => decide (sig * LK old / k ≤ q.1 ∧ q.1 ≤ (sig * LK old + LK old - 1) / k)

/-- A pair of tables is forward-safe over units 0 to `a` − 1. -/
def forwardSafe (x : Pool) (l : Layout) (e a : Nat) : Bool :=
  (List.range (a * e / Nat.max 1 (LK l))).all fun sig =>
    (List.range (Lw l)).all fun i =>
      let en := stripEntry l sig i
      landingOk x e (sig * LK l / e) (entryMember l (stripeRow l sig) en) (entrySlot l (stripeRep l sig) (stripeRow l sig) en)

/-- The unit size E, and the units A that hold allocated AUs (R189). -/
def unitSize (old new : Layout) : Nat := ceilDiv 65536 (Nat.lcm (LK old) (LK new)) * Nat.lcm (LK old) (LK new)
def unitsOf (x : Pool) (e : Nat) : Nat := ceilDiv (x.map.foldl (fun b q => Nat.max b ((q.1 + 1) * x.kau)) 0) e

/-- A reshape starts (R188). The check of the pair of tables runs in class C5 (R190), and its cost is not stated. With no allocated AU there
is no unit to move. -/
def Fjoek.poolReshape (m : Fjoek) (p : Nat) (l : Layout) (drives : List Found) : Answer × Fjoek :=
  match m.pool? p with
  | none => m.refused
  | some x =>
    let old := x.layout
    match drivesFor drives old.n l.n with
    | none => m.refuseWith p none
    | some t =>
      let reps := layoutReps l (((x.members.map (·.lbas)) ++ t.map (·.lbas)).foldl Nat.min (2 ^ 35))
      let e := unitSize old l
      let a := unitsOf x e
      let top := x.map.foldl (fun b q => Nat.max b (q.1 + 1)) 0
      let need := memberNeed l reps
      if !x.online ∨ x.next.isSome ∨ !m.reshapeFit x p ∨ l.u ≠ old.u ∨ l.n < old.n ∨ l.n < old.k + Nat.max old.m l.m ∨
          reps * LQ l * LK l < top * x.kau ∨ 24 < (m.othersThan p).length + l.n then m.refuseWith p none
      else if !layoutOk l then m.refuseWith p (some 4)
      else
        match t.find? fun f => !m.admits need f with
        | some f => m.refuseWith p (m.driveCause need f)
        | none =>
          if !forwardSafe x l e a then m.refuseWith p none
          else
            let new := m.giveEntries x.uuid (m.entriesBut p ++ x.members.map (·.entry)) old.n (t.map fun f => joined f 5)
            let m := (m.setPool p { x with next := some l, nextReps := reps, members := x.members ++ new, refused := 0 })
            let m := (m.each (List.range new.length) fun i m => m.wholeLabel p (old.n + i)).tableToLabels p
            let m := (m.newGen p).storeReshape p (if a = 0 then 0 else 1) e 0 a ((x.gen + 1) % 2 ^ 32) ((x.gen + 2) % 2 ^ 32)
            let m := (m.put (DARN_PROG_state p) 4).put (DARN_PROG_permille p) 0
            (answered [], if a = 0 then m.reshapeDone p else m.poolEvent p)

/-- MAILBOX_POOL. -/
def execMailboxPool (req : PoolReq) (s : State) := s.on fun m => m.serveMailbox 5 (fun _ => true) fun m =>
  match req with
  | .create p l t => m.poolCreate p.val l t
  | .fail p i => m.poolFail p.val i.val
  | .replace p i f => m.poolReplace p.val i.val f
  | .reshape p l t => m.poolReshape p.val l t

/-! ## STATUS and SLATE -/

/-- MAILBOX_STATUS: the pool status words, then DARN_PROG of each pool. -/
def execMailboxStatus (s : State) := s.on fun m => m.serveMailbox 6 (fun _ => true) fun m =>
  (answered ((List.range 4).map m.poolStatus ++ (List.range 4).map fun p => m.reg (DARN_PROG p)), m)

/-- Slate `n` may have namespace `nsid` for `pages`: it backs no other slate, and it is as large as the slate, in whole AUs as every namespace is
(R123, R317, R319). -/
def Fjoek.slateFits (m : Fjoek) (n nsid pages : Nat) : Bool :=
  decide (1 ≤ pages ∧ pages ≤ 2097152) &&
  ((List.range 1024).all fun i => i == n || m.slateRecState i == 0 || m.slateNsid i != nsid) &&
  match m.nsFind nsid with
  | none => false
  | some (p, _, r) => match m.pool? p with
    | none => false
    | some x => r.aus == ceilDiv pages (Nat.max 1 x.kau)

/-- Give a slate its record, place it and load it. -/
def Fjoek.slateBegin (m : Fjoek) (n nsid pages gen flags : Nat) : Fjoek :=
  ((m.setSlateRec n nsid pages gen 1 flags).slatePlace n).slateLoad n

def Fjoek.slateRequest (m : Fjoek) (q : SlateReq) : Answer × Fjoek :=
  match q with
  | .create n nsid pages mirror =>
    if m.slateRecState n.toNat ≠ 0 ∨ !m.slateFits n.toNat nsid pages then m.refused
    else (answered [], m.slateBegin n.toNat nsid pages 0 (bnat mirror))
  | .resize n pages =>
    let i := n.toNat
    if m.slateRecState i = 0 ∨ !m.slateFits i (m.slateNsid i) pages then m.refused
    else (answered [], m.slateBegin i (m.slateNsid i) pages (m.slateGen i) (m.slateFlags i))
  | .mirror n v =>
    let i := n.toNat
    if m.slateRecState i = 0 then m.refused
    else
      let m := m.setSlateRec i (m.slateNsid i) (m.slatePages i) (m.slateGen i) (m.slateRecState i) (bnat v)
      (answered [], m.slateSet i { m.slate i with flags := bnat v })

/-- MAILBOX_SLATE. -/
def execMailboxSlate (req : SlateReq) (s : State) := s.on fun m =>
  m.serveMailbox 7 (fun _ => true) fun m => m.slateRequest req

/-! ## Software log records (R469) -/

/-- A write of MGMT_LOGW. -/
def Fjoek.softwareRecord (m : Fjoek) : Fjoek :=
  m.logRecord 0xFFFF (m.reg MGMT_ESTAT_regerr.addr) ((List.range 9).map fun w => m.reg (MGMT_LOGDATA w))

/-- SOFTWARE_LOG_RECORD. -/
def execSoftwareLogRecord (s : State) := s.onMgmt Fjoek.softwareRecord

/-! ## Protocols (R470, R471) -/

/-- MCTP_MESSAGE: a message of a type served is answered; what the answer holds is the protocol's. One that is not yet whole
waits for its other packets. -/
def execMctpMessage (vdm whole : Bool) (tag : Nat) (type : BitVec 7) (s : State) := s.onMgmt fun m =>
  if !m.firmware then if vdm then m.bump MGMT_VDMDROP_count 1 else m
  else if !whole then m.setMgmt { m.mgmt with partials := m.mgmt.partials.filter (· != tag) ++ [tag] }
  else
    let m := m.setMgmt { m.mgmt with partials := m.mgmt.partials.filter (· != tag) }
    if type = 0 ∨ type = 1 ∨ type = 4 then m.send (.mgmt type.toNat [bnat vdm, tag]) else m
/-- MCTP_REASSEMBLY_TIMEOUT. -/
def execMctpReassemblyTimeout (tag : Nat) (s : State) := s.onMgmt fun m =>
  m.setMgmt { m.mgmt with partials := m.mgmt.partials.filter (· != tag) }

/-- The composite temperature in kelvin: the higher of SENSE_TMAX, in 0.25 °C, and the highest valid DRV_TEMP, in °C. -/
def Fjoek.compositeTemp (m : Fjoek) : Int :=
  let die := m.getS SENSE_TMAX_t / 4
  let t := (List.range 24).foldl (fun b p =>
    let d := m.getS (DRV_TEMP_temp p)
    if m.isOn (DRV_TEMP_valid p) ∧ b < d then d else b) die
  t + 273

/-- A drive stands at or above its warning threshold. -/
def Fjoek.driveWarm (m : Fjoek) : Bool := (List.range 24).any fun p =>
  let w := (tableGet (fun _ => (0, 0, 0)) m.drv.limits p).1
  m.isOn (DRV_TEMP_valid p) && decide (0 < w ∧ (w : Int) ≤ m.getS (DRV_TEMP_temp p))

/-- A pool's spare cannot take one more member (R122, R176). -/
def Pool.spareUsed (x : Pool) : Bool :=
  decide (x.layout.s ≤ (x.members.filter fun q => q.state == 2 || q.state == 3 || q.state == 4).length)

/-- HEALTH_STATUS_POLL; `used` is the highest Percentage Used that a member reports. -/
def execHealthStatusPoll (used : Byte) (s : State) := s.onMgmt fun m =>
  if !m.firmware then m
  else
    let bad := (List.range 4).any fun p => m.poolStatus p % 256 / 16 &&& 13 != 0
    let spare := (List.range 4).any fun p => ((m.pool? p).map Pool.spareUsed).getD false
    m.send (.mgmt 4 [unsigned 16 m.compositeTemp, bnat (m.isOn DAMP_STAT_clamp || m.driveWarm), bnat bad, used.toNat, bnat spare])

/-! ## Firmware update (R472) -/

/-- A PLDM answer: which request and its completion code. -/
def Fjoek.pldm (m : Fjoek) (request code : Nat) : Fjoek := m.send (.mgmt 1 [request, code])

/-- The slot of the SPI NOR that is not booted. -/
def Fjoek.otherSlot (m : Fjoek) : Nat := 1 - m.get TOP_BOOT_slot

/-- REQUEST_UPDATE. PLDM's code 0x81 is ALREADY_IN_UPDATE_MODE (PRESUMED). The slot that is written is erased first. -/
def execRequestUpdate (component : BitVec 16) (base : Nat) (s : State) := s.onMgmt fun m =>
  if !m.firmware then m
  else if m.mgmt.upd.isSome then m.pldm 1 0x81
  else if component = 1 then
    let b := slotBase m.otherSlot
    let m := m.setHearth { m.hearth with spi := tableKeep (fun a => decide (a < b ∨ b + 0x4000000 ≤ a)) m.hearth.spi }
    (m.setMgmt { m.mgmt with upd := some ⟨1, b, 0, false, false⟩ }).pldm 1 0
  else if component = 2 then (m.setMgmt { m.mgmt with upd := some ⟨2, base / 4096 * 4096, 0, false, false⟩ }).pldm 1 0
  else
    let (r, m) := m.freeNat
    m.pldm 1 (1 + r % 255)

/-- REQUEST_FIRMWARE_DATA. -/
def execRequestFirmwareData (data : List Byte) (s : State) := s.onMgmt fun m =>
  match m.mgmt.upd with
  | none => m
  | some u =>
    if !m.firmware then m
    else
      let m := m.setMgmt { m.mgmt with upd := some { u with got := u.got + data.length } }
      if u.component = 2 then m.hbmWrite (u.base + u.got) data
      else
        let d := data.take (0x4000000 - u.got)
        let t := d.zipIdx.foldl (fun t q => tableSet (fun _ => 0xFF) t (u.base + u.got + q.2) q.1) m.hearth.spi
        m.setHearth { m.hearth with spi := t }

/-- Checks 1 to 6 of R399 on the bytes of a slot; nothing is loaded. -/
def Fjoek.slotPasses (m : Fjoek) (b : Nat) : Bool :=
  let h := m.spiBytes b 512
  m.imageHead h == 0 && m.imageBody h (m.spiBytes (b + 512) (hdrNat h 0x10 4)) == 0

/-- VERIFY_COMPLETE: success only if the image passes. -/
def execVerifyComplete (s : State) := s.onMgmt fun m =>
  match m.mgmt.upd with
  | none => m
  | some u =>
    if !m.firmware then m
    else
      let (ok, m) : Bool × Fjoek :=
        if u.component = 1 then (m.slotPasses u.base, m)
        else if !m.runs 3 then (false, m)
        else
          let m := m.stageImage u.base
          (m.isOn SEAM_LDR_STAT_verified, m)
      (m.setMgmt { m.mgmt with upd := some { u with verified := ok } }).pldm 3 (bnat (!ok))

/-- APPLY_COMPLETE. -/
def execApplyComplete (s : State) := s.onMgmt fun m =>
  match m.mgmt.upd with
  | none => m
  | some u =>
    if !m.firmware ∨ !u.verified then m
    else
      let m := if u.component = 1 then m.mramPut 0x5280000 (bootRecord (if u.base = 0 then 0 else 1) 1 0) else m
      (m.setMgmt { m.mgmt with upd := some { u with applied := true } }).pldm 4 0

/-- The lowest group that does not run the staged image. -/
def Fjoek.nextReload (m : Fjoek) : Option Nat :=
  let v := m.hbmNat (m.seam.ldrStage + 8) 4
  (List.range 16).find? fun g => !m.isOn (SEAM_GSTAT_hasimg g) || m.reg (SEAM_GVER g) != v

/-- One step of the group-by-group reload: the next group drains, its work redirected to its neighbour; once drained it is
committed and resumes (R52, R53). -/
def Fjoek.reloadStep (m : Fjoek) (g : Nat) : Fjoek :=
  let m := if m.isOn (SEAM_GCTL_drain g) then m else m.drainAway g
  if !m.groupDrained g then m else m.reloadGroup g

/-- ACTIVATE_FIRMWARE: a management reset, or the next step of the reload; the update ends with its last group. -/
def execActivateFirmware (s : State) := s.onMgmt fun m =>
  match m.mgmt.upd with
  | none => m
  | some u =>
    if !m.firmware ∨ !u.applied then m
    else if u.component = 1 then (m.pldm 5 0).managementReset
    else if !m.runs 3 then m
    else
      let m := match m.nextReload with
        | none => m
        | some g => m.reloadStep g
      if m.nextReload = none then (m.setMgmt { m.mgmt with upd := none }).pldm 5 0 else m

/-- TRIAL_CONFIRM: 60 s with kicks and a mailbox round trip have passed. The trial ends, and fuses are blown up to the image's
rollback value. -/
def execTrialConfirm (s : State) := s.onFuses fun f m =>
  if !m.firmware then m
  else match m.bootRead with
    | some (p, 1, _) =>
      let roll := nth (m.spiBytes (slotBase p) 512) 0xC 0
      let m := m.mramPut 0x5280000 (bootRecord p 0 0)
      if roll ≤ f.arb then m else m.setHearth { m.hearth with burn := m.hearth.burn ++ [(4096, roll - f.arb)] }
    | _ => m

/-! ## Fans and LEDs (R475, R476) -/

/-- FAN_FAILSAFE: no write of MGMT_FAN for the timeout. -/
def execFanFailsafe (s : State) := s.onMgmt fun m =>
  (m.setMgmt { m.mgmt with fans := false }).cause MGMT_ESTAT_failsafe 500
/-- A write of MGMT_FAN drives the outputs again. -/
def Fjoek.fanWrite (m : Fjoek) (f v : Nat) : Fjoek :=
  (m.put (MGMT_FAN_duty f) v).setMgmt { m.mgmt with fans := true }
/-- The duty that fan output `f` drives, none while it is high-impedance. -/
def Fjoek.fanOut (m : Fjoek) (f : Nat) : Option Nat :=
  if m.mgmt.fans && !m.isOn DAMP_STAT_clamp then some (m.get (MGMT_FAN_duty f)) else none
/-- FAN_FAULT: tachometer `f` has read `rpm` for 2 s. -/
def execFanFault (f : Fin 6) (rpm : BitVec 16) (s : State) := s.onMgmt fun m =>
  let m := m.put (MGMT_TACH_rpm f.val) rpm.toNat
  if rpm.toNat < m.get MGMT_FANCFG_minrpm then m.cause MGMT_ESTAT_fan 499 else m
/-- LED_SHIFT: 4 bits for each LED, the most significant LED first; codes 5 to 15 act as 0. -/
def execLedShift (s : State) := s.onMgmt fun m =>
  let n := Nat.min 64 (m.get MGMT_LEDCFG_n)
  let leds := (List.range n).map fun i =>
    let c := m.get (MGMT_LED_led (i / 8) (i % 8))
    if 5 ≤ c then 0 else c
  m.setMgmt { m.mgmt with leds := leds.reverse }

end Sys2Proof.Machine
end

