-- ==== Sys2Proof/Machine/Epochs.lean ====
section
/-! DEFINITION. Program-raised events (R485), sampling without an issue (R492), counter snapshots (R488) and statistics epochs
(R495 to R497). -/

namespace Sys2Proof.Machine

/-! ## Raised events -/

/-- A write of EVT_SWSET. -/
def Fjoek.swset (m : Fjoek) (e : Nat) : Fjoek :=
  let (ok, m) := m.raiseEvent e
  if ok then m else m.bump EVT_SWREJ_count 1

/-- EVENT_RAISE. -/
def execEventRaise (e : Fin 512) (s : State) := s.onMgmt fun m => m.swset e.val

/-! ## Samples and snapshots -/

/-- SAMPLE_NO_ISSUE_TIMEOUT: the samples that waited are written with no strand and pc 0. -/
def execSampleNoIssueTimeout (e : Fin 64) (s : State) := s.onMgmt fun m =>
  let l := tableGet (fun _ => []) m.pmon.pend e.val
  let m : Fjoek := { m with pmon := { pend := tableSet (fun _ => []) m.pmon.pend e.val [] } }
  m.each l fun k m =>
    m.writeSample e.val k (if k = 0 then 0 else m.get (PMON_ESEL_event e.val k)) 0 0 0 false true

/-- ENGINE_COUNTER_SNAPSHOT. -/
def execEngineCounterSnapshot (e : Fin 64) (s : State) := s.on fun m => if m.runs 3 then m.snapCounters e.val else m

/-! ## Epochs -/

/-- The domain of the epoch counter word at address `a`, if one stands there: the counters whose field tables apply R228. -/
def epochDomain (a : Nat) : Option Nat :=
  let o := a % 0x1000
  if 0x100000 ≤ a ∧ a < 0x120000 then if 0x100 ≤ o ∧ o < 0x200 then some 6 else none
  else if 0x140000 ≤ a ∧ a < 0x160000 then
    if (0x141000 ≤ a ∧ a < 0x146000 ∧ 0xC0 ≤ a % 0x200 ∧ a % 0x200 < 0x118) ∨ (0x140080 ≤ a ∧ a < 0x140090) then some 4
    else none
  else if (0x160400 ≤ a ∧ a < 0x160488) ∨ (0x180100 ≤ a ∧ a < 0x1801A8) ∨ (0x1C0100 ≤ a ∧ a < 0x1C0160) then some 4
  else if 0x300600 ≤ a ∧ a < 0x300640 then some 9
  else if 0x310100 ≤ a ∧ a < 0x310158 then some 13
  else if 0x50140 ≤ a ∧ a < 0x50160 then some 2
  else none

/-- Domains that PMON_EPSTOP shows, by bit: Seam; switch and transport; MAC quads; drive ports; twin. -/
def epochStops (m : Fjoek) : Nat :=
  bnat (!m.runs 3) + 2 * bnat (!m.runs 4) + 4 * bnat (!m.runs 6) + 8 * bnat (!m.runs 7 || !m.runs 8) + 16 * bnat (!m.runs 13)

/-- The counters of running domains copy into their snapshots and restart; those of stopped domains read 0 there and keep their
live values. -/
def Fjoek.latchCounters (m : Fjoek) : Fjoek :=
  let on := fun (a : Nat) => match epochDomain a with
    | some d => m.runs d
    | none => false
  let old := tableKeep (fun a => (epochDomain a).isNone) m.snap
  let snap := (tableKeep on m.regs).foldl (fun t e => tableSet (fun _ => 0) t e.1 e.2) old
  { m with snap := snap, regs := tableKeep (fun a => !on a) m.regs }

/-- An epoch boundary (R495, R497). -/
def Fjoek.epochBoundary (m : Fjoek) : Fjoek :=
  let m := (m.count PMON_EPSEQ_LO 1).latchCounters
  let stops := epochStops m
  let m := (m.put PMON_EPSTOP_dom stops).cause PMON_STAT_epoch 505
  if stops = 0 then m else m.cause PMON_STAT_epstop 506

/-- EPOCH_BOUNDARY. -/
def execEpochBoundary (s : State) := s.onMgmt Fjoek.epochBoundary

/-- A write of PMON_EPOCH makes a boundary at once. -/
def Fjoek.epochWrite (m : Fjoek) (v : Nat) : Fjoek := (m.put PMON_EPOCH_ms v).epochBoundary

/-- EPOCH_LENGTH_WRITE. -/
def execEpochLengthWrite (v : Word32) (s : State) := s.onMgmt fun m => m.epochWrite v.toNat

end Sys2Proof.Machine
end

