-- ==== Sys2Proof/Machine/Views.lean ====
section
/-! DEFINITION. Reads of registers (R7, R8, R10, R541): the registers that show other state, the latched higher words of wide
values, and the fields that a read clears. -/

namespace Sys2Proof.Machine

/-! ## Registers that show other state -/

/-- The clock of engine `e` is gated: parked, with no strand READY (R54). -/
def Fjoek.gated (m : Fjoek) (e : Nat) : Bool :=
  m.isOn (SEAM_ECTL_park e) && (List.range 8).all fun s => (m.strand (8 * e + s)).mode != .ready

/-- The code of a strand's state (R32). -/
def modeCode : StrandMode → Nat
  | .idle => 0
  | .ready => 1
  | .wait => 2
  | .stall => 3
  | .fault => 4
  | .resetting => 5

/-- SEAM registers of engine `e` at offset `o` (R59, R61). -/
def Fjoek.seamView (m : Fjoek) (e o v : Nat) : Nat :=
  if o = 4 then v + bnat (m.gated e)
  else if 0x100 ≤ o ∧ o < 0x200 then
    let k := 8 * e + (o - 0x100) / 0x20
    let x := m.strand k
    match o % 0x20 with
    | 4 => modeCode x.mode * 2 ^ 29 + x.cls.toNat * 2 ^ 26 + bnat (m.drained k) * 2 ^ 25 + x.pc.toNat
    | 8 => m.leasesOf k * 2 ^ 16 + m.descsOf k
    | 12 => x.cause * 2 ^ 24 + (if x.cause = 0 then 0 else x.fpc)
    | _ => v
  else v

/-- MNGL registers: the sub-queues and β (R104, R115). -/
def Fjoek.mnglView (m : Fjoek) (a v : Nat) : Nat :=
  if 0x240080 ≤ a ∧ a < 0x2400C0 then
    let l := m.clusterDescs ((a - 0x240080) / 4)
    (l.filter (·.inFlight)).length * 2 ^ 16 + (l.filter fun d => !d.inFlight).length
  else if a = MNGL_FPBETA_LO then fpPhi 2 % 2 ^ 32
  else if a = MNGL_FPBETA_HI then fpPhi 2 / 2 ^ 32
  else v

/-- DARN_WAITP: ports with C3 commands waiting (R197). -/
def Fjoek.waitingPorts (m : Fjoek) : Nat :=
  ((List.range 24).map fun p =>
    if (m.driveDescs p).any fun d => d.cls == 3 && decide (d.sent < d.len) then 2 ^ p else 0).sum

/-- SWC registers (R236, R238, R249). -/
def Fjoek.swcView (m : Fjoek) (a v : Nat) : Nat :=
  if a = SWC_SHARED then m.sharedPool
  else if a = SWC_SUSED then m.usedShared
  else if a = SWC_RESID then m.residue
  else if 0x141000 ≤ a ∧ a < 0x146000 then
    let p := (a - 0x141000) / 0x200
    let o := a % 0x200
    if o = 4 then v + 2 * bnat (m.inHold p) + bnat (m.portUp p)
    else if o = 0x10 then
      ((List.range 8).map fun c => if m.inHold p then m.qdepth p c else 0).sum
    else if 0x80 ≤ o ∧ o < 0xA0 then m.qdepth p ((o - 0x80) / 4)
    else if 0xA0 ≤ o ∧ o < 0xC0 then m.iacct p ((o - 0xA0) / 4)
    else v
  else v

/-- Used locations of a range of the forwarding store (R271). -/
def Fjoek.fwdUsed (m : Fjoek) (lo hi : Nat) : Nat :=
  (m.fwd.ents.filter fun e => decide (lo ≤ e.1 ∧ e.1 < hi) && e.2.kind != 0).length

/-- Packets held for reordering in the whole module (R281). -/
def Fjoek.heldPackets (m : Fjoek) : Nat := (m.xport.qps.map fun e => e.2.held.length).sum

/-- The register at canonical address `a` as a read finds it, before the access codes. -/
def Fjoek.view (m : Fjoek) (a : Nat) : Nat :=
  let v := m.reg a
  let p := a / 0x10000
  if 0x20 ≤ p ∧ p ≤ 0x23 then m.seamView ((a - 0x200000) / 0x1000) (a % 0x1000) v
  else match p with
  | 0x05 =>
    if 0x50040 ≤ a ∧ a < 0x50058 then unsigned 21 (m.level ((a - 0x50040) / 4))
    else if 0x50060 ≤ a ∧ a < 0x50078 then
      let l := m.draws ((a - 0x50060) / 4)
      (match l with
       | [] => 0
       | d :: _ => d.tokens % 2 ^ 20) * 2 ^ 12 + Nat.min 4095 l.length
    else v
  | 0x07 => if a = EVT_MGMTIRQ then bnat m.mgmtIrq else v
  | 0x14 => m.swcView a v
  | 0x16 =>
    if a = FWD_USED then m.fwdUsed 0 ovBase
    else if a = FWD_OVUSED then m.fwdUsed ovBase dfBase
    else if a = FWD_AGELOGN then m.fwd.agelog.length
    else v
  | 0x18 =>
    if a = XPORT_CACHE then (m.xport.cached.filter m.ctxPinned).length * 2 ^ 16 + m.xport.cached.length
    else if a = XPORT_HELD then m.heldPackets
    else v
  | 0x24 => m.mnglView a v
  | 0x26 => if a = DARN_WAITP then m.waitingPorts else v
  | 0x30 =>
    if a = ATT_TAGS then m.tagsView
    else if 0x300100 ≤ a ∧ a < 0x300200 then m.fnst ((a - 0x300100) / 4)
    else v
  | 0x31 =>
    if a = TWIN_LAG then Nat.min 65535 (m.backlog / 1024) * 2 ^ 16 + m.twinLag
    else if a = TWIN_TOLIST then m.toList
    else v
  | 0x32 => if a = HBMC_STAT then bnat (m.runs 10) + 2 * bnat (m.runs 11) else v
  | 0x33 => if a = MRAMC_STAT then bnat (m.runs 12) else v
  | _ => v

/-! ## Wide values (R10) -/

/-- PMON's windows of engine counters, which show the snapshots (R488). -/
def engineCounterAt (a : Nat) : Bool := decide (0x81000 ≤ a ∧ a < 0x85000 ∧ 0x40 ≤ a % 0x100 ∧ a % 0x100 < 0x88)

/-- Addresses whose read latches the word above. -/
def wideLow (a : Nat) : Bool :=
  ((epochDomain a).isSome && a % 8 == 0) || (engineCounterAt a && a % 8 == 0) ||
    (decide (0x80400 ≤ a ∧ a < 0x80500) && a % 8 == 0) ||
    [HEARTH_TIME_LO, PMON_EPSEQ_LO, EVT_LATCHES_LO, STRP_DIRTY_LO, MGMT_LOGSEQ_LO, TWIN_DIVEP_LO, DRV_RKEY_LO,
      DRV_PKEY_LO].contains a

/-- A word of a wide value, not its latched copy: the snapshot of an epoch counter while PMON_EPCTL.view is 1 (R496), the
snapshot of an engine counter, or the word itself. -/
def Fjoek.wideWord (m : Fjoek) (a : Nat) : Nat :=
  if engineCounterAt a ∨ ((epochDomain a).isSome ∧ m.isOn PMON_EPCTL_view) then (tableGet (fun _ => 0) m.snap a).toNat
  else m.reg a

/-- Latch the word at `a`. -/
def Fjoek.latchWide (m : Fjoek) (a : Nat) : Fjoek :=
  { m with wide := tableSet regDflt m.wide a (BitVec.ofNat 32 (m.wideWord a)) }

/-! ## A read -/

/-- Bits that a read shows: those of every field but the WO ones (R7, R8). -/
def readMask (d : RegDesc) : Nat :=
  d.fields.foldl (fun w f => if f.acc = .wo then w else withBits w f.hi f.lo (2 ^ (f.hi - f.lo + 1) - 1)) 0

/-- The RC fields clear (R8). -/
def clearRc (d : RegDesc) (v : Nat) : Nat := d.fields.foldl (fun w f => if f.acc = .rc then withBits w f.hi f.lo 0 else w) v

/-- A read of CLK_HANG takes the record, and the next one that waits is stored (R512). -/
def Fjoek.hangPop (m : Fjoek) : Nat × Fjoek :=
  let v := m.reg CLK_HANG
  match m.hearth.hangs with
  | [] => (v, m.setReg CLK_HANG 0)
  | h :: r => (v, Fjoek.setReg { m with hearth := { m.hearth with hangs := r } } CLK_HANG h)

/-- A register read that reaches its block: the value and the state after. Addresses outside every window and unassigned
offsets read 0 (R7, R540). -/
def Fjoek.readReg (m : Fjoek) (addr : Nat) : Nat × Fjoek :=
  let a := canonAddr addr
  if 0x308000 ≤ a ∧ a < 0x310000 then (m.bell ((a - 0x308000) / 0x200) (a % 0x200 / 4) % 2 ^ 32, m)
  else if a = XPORT_QPALLOC then m.qpAlloc
  else if a = THIM_KALLOC then m.keyAlloc
  else if a = THIM_KREV then m.revPop
  else if a = FWD_AGELOG then m.popAging
  else if a = CLK_HANG then m.hangPop
  else match regDesc a with
  | none => (0, m)
  | some (d, _) =>
    if 0x280000 ≤ a ∧ a < 0x2B0000 ∧ a % 0x2000 = 0x44 then
      let (v, m) := m.free64
      let m := m.cfgAccess ((a - 0x280000) / 0x2000) none (v.setWidth 32)
      (m.reg a, m)
    else if wideLow a then (m.wideWord a, m.latchWide (a + 4))
    else if 4 ≤ a ∧ wideLow (a - 4) then ((tableGet regDflt m.wide a).toNat, m)
    else
      let v := m.view a &&& readMask d
      let c := clearRc d (m.reg a)
      (v, if c = m.reg a then m else m.setReg a c)

end Sys2Proof.Machine
end

