-- ==== Sys2Proof/Machine/Access.lean ====
section
/-! DEFINITION. Writes of registers: what a write of each field does (R8, R9 and the register tables), who may write which block,
and what a trailing twin and a lead do with a write (R358, R361, R362). -/

namespace Sys2Proof.Machine

/-! ## Fields by their access code (R8) -/

/-- The seal bit that fixes the RWL fields of the register at `a`. -/
def sealField (a : Nat) : Option Fld :=
  let p := a / 0x10000
  if p = 0x10 ∨ p = 0x11 then some (NETP_QSTAT_seal ((a - 0x100000) / 0x4000))
  else if 0x20 ≤ p ∧ p ≤ 0x23 then some SEAM_CTL_seal
  else if 0x28 ≤ p ∧ p ≤ 0x2F then some DRV_CTL_seal
  else match p with
  | 0x01 => some HEARTH_CTL_seal
  | 0x02 => some OTP_CTL_seal
  | 0x03 => some FEED_CTL_seal
  | 0x04 => some BAY_CTL_seal
  | 0x05 => some DAMP_CTL_seal
  | 0x06 => some SENSE_CTL_seal
  | 0x07 => some EVT_CTL_seal
  | 0x08 => some PMON_CTL_seal
  | 0x09 => some MGMT_CTL_seal
  | 0x0A => some CLK_CTL_seal
  | 0x14 => some SWC_CTL_seal
  | 0x16 => some FWD_CTL_seal
  | 0x18 => some XPORT_CTL_seal
  | 0x1C => some THIM_CTL_seal
  | 0x24 => some MNGL_CTL_seal
  | 0x25 => some STRP_CTL_seal
  | 0x26 => some DARN_CTL_seal
  | 0x30 => some ATT_CTL_seal
  | 0x31 => some TWIN_CTL_seal
  | 0x32 => some HBMC_CTL_seal
  | 0x33 => some MRAMC_CTL_seal
  | _ => none

/-- The block of the register at `a` is sealed. -/
def Fjoek.sealedAt (m : Fjoek) (a : Nat) : Bool :=
  match sealField a with
  | some f => m.isOn f
  | none => false

/-- What a write of `x` makes of a field that holds `old`. -/
def writeField (acc : AccessCode) (fixed : Bool) (old x : Nat) : Nat :=
  match acc with
  | .rw => x
  | .rwl => if fixed then old else x
  | .w1c => old - (old &&& x)
  | .w1s => old ||| x
  | _ => old

/-- A write sets each field of the register by its access code. -/
def Fjoek.writeFields (m : Fjoek) (a v : Nat) : Fjoek :=
  match regDesc a with
  | none => m
  | some (d, _) =>
    let fixed := m.sealedAt a
    m.setReg a (d.fields.foldl (fun w f =>
      withBits w f.hi f.lo (writeField f.acc fixed (bitsOf w f.hi f.lo) (bitsOf v f.hi f.lo))) (m.reg a))

/-! ## Writes that act, by block -/

/-- SEAM (R47, R50, R52, R54, R57, R62 to R64). -/
def Fjoek.writeSeam (m : Fjoek) (a v : Nat) : Fjoek :=
  let e := (a - 0x200000) / 0x1000
  let o := a % 0x1000
  if a = SEAM_LDR_CMD then
    match v % 4 with
    | 1 => m.ldrVerify
    | 2 => m.ldrCommit (v / 2 ^ 16)
    | 3 => m.ldrAbandon
    | _ => m
  else if a = SEAM_CTL then
    let m := m.writeFields a (withBits v 0 0 (m.get SEAM_CTL_instep))
    m.instepWrite (bitOf v 0)
  else if o = 0 then m.parkWrite e (bitOf v 0)
  else if 0x100 ≤ o ∧ o < 0x200 ∧ o % 0x20 = 0 then
    let m := (m.writeFields a v).dispatch
    if bitOf v 0 then m.strandResetWrite (8 * e + (o - 0x100) / 0x20) else m
  else if o = 0xC00 then
    let m := m.writeFields a (withBits v 0 0 (m.reg a % 2))
    m.drainWrite (e / 4) (bitOf v 0)
  else m.writeFields a v

/-- MNGL (R106, R115). -/
def Fjoek.writeMngl (m : Fjoek) (a v : Nat) : Fjoek :=
  if a = MNGL_XKCTL then m.xkWrite (bitOf v 31) (bitOf v 30) (v % 1024)
  else if a = MNGL_FPZ_LO then { m with mngl := { m.mngl with fpzLo := v } }
  else if a = MNGL_FPZ_HI then m.fpzCommit v
  else if 0x240240 ≤ a ∧ a < 0x240280 then
    { m with mngl := { m.mngl with xdata := tableSet (fun _ => 0) m.mngl.xdata ((a - 0x240240) / 4) v } }
  else m.writeFields a v

/-- STRP: STRP_DIRTY changes as its higher word is written (R169), and a bit of STRP_JDEG that rises latches (R151). -/
def Fjoek.writeStrp (m : Fjoek) (a v : Nat) : Fjoek :=
  if a = STRP_DIRTY_LO then { m with lib := { m.lib with dirtyLo := some v } }
  else if a = STRP_DIRTY_HI then
    let lo := m.lib.dirtyLo.getD (m.reg STRP_DIRTY_LO)
    Fjoek.writeFields (Fjoek.setReg { m with lib := { m.lib with dirtyLo := none } } STRP_DIRTY_LO lo) a v
  else if a = STRP_JDEG then
    let new := v % 16
    let old := m.reg a
    let m := m.writeFields a v
    if new - (new &&& old) = 0 then m else m.cause STRP_STAT_jdeg 356
  else m.writeFields a v

/-- DRV: port `p` (R203, R208, R211, R213) and the shared registers (R214). -/
def Fjoek.writeDrv (m : Fjoek) (a v : Nat) : Fjoek :=
  let p := (a - 0x280000) / 0x2000
  let o := a % 0x2000
  if a = DRV_FCMD then
    let m := m.when (bitOf v 30) Fjoek.fenceClear
    m.when (bitOf v 31) Fjoek.fenceGo
  else if 24 ≤ p ∨ 0x1F00 ≤ o then m.writeFields a v
  else match o with
  | 0x00 =>
    let was := m.isOn (DRV_PCTL_disable p)
    let m := m.writeFields a (withBits v 0 0 (bnat was))
    if bitOf v 0 ∧ was then m.settlePerst p else m.disableWrite p (bitOf v 0)
  | 0x08 => (m.writeFields a v).settlePerst p
  | 0x2C => (m.writeFields a v).psWrite p (v % 32)
  | 0x44 => m.cfgAccess p (some (BitVec.ofNat 32 v)) 0
  | 0x140 => m.rawWrite p (bitOf v 6)
  | _ => m.writeFields a v

/-- NETP: service, the quad mode and flow control (R218, R219, R225). -/
def Fjoek.writeNetp (m : Fjoek) (a v : Nat) : Fjoek :=
  let s := (a - 0x100000) / 0x1000
  let o := a % 0x1000
  if o = 0xC00 then m.quadMode (s / 4) (v % 16)
  else if o = 0 then
    let was := m.isOn (NETP_SCTL_admin s)
    let m := ((m.writeFields a (withBits v 0 0 (bnat was))).checkShared).settleFc s
    if bitOf v 0 = was then m else if bitOf v 0 then m.slotEnable s else m.slotDisable s
  else m.writeFields a v

/-- SWC: the boundary and the settings that make up S (R235, R236). -/
def Fjoek.writeSwc (m : Fjoek) (a v : Nat) : Fjoek :=
  if a = SWC_BOUND then m.boundWrite (v % 2 ^ 19)
  else if 0x141000 ≤ a ∧ a < 0x146000 ∧ 0x20 ≤ a % 0x200 ∧ a % 0x200 < 0x80 then
    let m := (m.writeFields a v).checkShared
    m.settleXoff ((a - 0x141000) / 0x200)
  else if a = SWC_PRESS then (m.writeFields a v).pressure
  else m.writeFields a v

/-- FWD: the update interfaces and the VLAN entry (R260, R263). -/
def Fjoek.writeFwd (m : Fjoek) (a v : Nat) : Fjoek :=
  if a = FWD_UPD_CMD 0 then m.updCommand 0 (v % 16)
  else if a = FWD_UPD_CMD 1 then m.updCommand 1 (v % 16)
  else if a = FWD_VL_IDX then m.vlanLoad (v % 4096)
  else if a = FWD_VL_HI then m.vlanCommit v
  else m.writeFields a v

/-- XPORT (R275, R297, R300). -/
def Fjoek.writeXport (m : Fjoek) (a v : Nat) : Fjoek :=
  if a = XPORT_QPFREE then m.qpFree (v % 2 ^ 24)
  else if a = XPORT_CMTXDB then m.cmSend (v % 1024)
  else if 0x1800C0 ≤ a ∧ a < 0x180100 then m.ccConsume ((a - 0x1800C0) / 4) (v % 2048)
  else m.writeFields a v

/-- THIM (R309, R317, R321, R325). -/
def Fjoek.writeThim (m : Fjoek) (a v : Nat) : Fjoek :=
  if a = THIM_KCMD then m.keyCommand (v / 2 ^ 28) (v % 2 ^ 20)
  else if a = THIM_SLCTL then m.slateReload (v % 1024)
  else if a = THIM_FLDONE then m.flushEnd v
  else if a = THIM_SKCTL then m.sealCommand (bitOf v 31) (bitOf v 30) (v % 2 ^ 24)
  else if 0x1C0080 ≤ a ∧ a < 0x1C00A4 then
    m.setThim { m.thim with skdata := tableSet (fun _ => 0) m.thim.skdata ((a - 0x1C0080) / 4) v }
  else m.writeFields a v

/-- ATT (R335, R343, R344, R346); the INTMS words of VFs read 0. -/
def Fjoek.writeAtt (m : Fjoek) (a v : Nat) : Fjoek :=
  if a = ATT_IRQ then m.attRaise (bitsOf v 21 16) (v % 2048)
  else if a = ATT_INTXST then m.intxClear v
  else if a = ATT_WAKE then (if bitOf v 0 then m.attWake else m)
  else if 0x300080 ≤ a ∧ a < 0x3000C0 then m.dbConsume ((a - 0x300080) / 4) (v % 512)
  else if 0x300400 ≤ a ∧ a < 0x300500 then (if a = 0x300400 then (m.writeFields a v).intxUpdate else m)
  else m.writeFields a v

/-- What the peer presents to a PAIR that software writes: not known here, so free. -/
def Fjoek.freePeer (m : Fjoek) : PeerInfo × Fjoek :=
  let (serial, m) := m.freeNat
  let (serves, m) := m.freeBool
  let (prefers, m) := m.freeBool
  let (d, m) := m.freeNat
  ({ serial := serial, serving := serves, prefer := prefers, draws := [d] }, m)

/-- TWIN: a write to any field is ignored without the twin strap (R382). -/
def Fjoek.writeTwin (m : Fjoek) (a v : Nat) : Fjoek :=
  if !m.isOn TOP_STRAP_twin then m
  else if a = TWIN_CMD then
    match v % 8 with
    | 1 =>
      let (p, m) := m.freePeer
      m.pair p
    | 2 => m.breakPair
    | 3 => m.swap
    | 4 => m.resync false
    | _ => m
  else m.writeFields a v

/-- DAMP: a depth cuts its level at once (R448), a grant, a clock step, a self-test (R451, R453, R459). -/
def Fjoek.writeDamp (m : Fjoek) (a v : Nat) : Fjoek :=
  if a = DAMP_GRANT then m.grantWrite (v % 2 ^ 20)
  else if a = DAMP_DVFS then m.dvfsWrite (v % 4)
  else if a = DAMP_STREQ then m.testRequest (v / 2 ^ 28) (v % 2 ^ 16)
  else if 0x50020 ≤ a ∧ a < 0x50038 then
    let c := (a - 0x50020) / 4
    let m := m.writeFields a v
    if (m.depth c : Int) < m.level c then m.setLevel c (m.depth c : Nat) else m
  else m.writeFields a v

/-- MGMT (R465, R469, R474). -/
def Fjoek.writeMgmt (m : Fjoek) (a v : Nat) : Fjoek :=
  if a = MGMT_MBTXPI then m.requestIndex (v % 512)
  else if a = MGMT_MBRXPI then m.replyIndex (v % 512)
  else if a = MGMT_MBTXCI then m.consumerIndex MGMT_MBTXPI_idx MGMT_MBTXCI_idx (v % 512)
  else if a = MGMT_MBRXCI then m.consumerIndex MGMT_MBRXPI_idx MGMT_MBRXCI_idx (v % 512)
  else if a = MGMT_LOGW then (if bitOf v 0 then m.softwareRecord else m)
  else if 0x90100 ≤ a ∧ a < 0x90118 then m.fanWrite ((a - 0x90100) / 4) (v % 256)
  else m.writeFields a v

/-- TOP, HEARTH, OTP, FEED and BAY: commands with their keys (R393, R396, R402, R405, R423, R443, R477). -/
def Fjoek.writeHearth (m : Fjoek) (f : Fuses) (a v : Nat) : Fjoek :=
  if a = TOP_BRST then (if bitOf v 31 then m.blockReset (bitsOf v 12 8) (v % 128) else m)
  else if a = TOP_MRST then (if v / 2 ^ 16 = 0x4D52 ∧ bitOf v 0 then m.managementReset else m)
  else if a = HEARTH_CMD then (if v / 2 ^ 16 = 0x4B48 then m.hearthCmd (v % 8) else m)
  else if a = HEARTH_WDKICK then m.kickWrite v
  else if a = HEARTH_WDT then (m.writeFields a v).watchdogStart
  else if a = OTP_PCMD then m.otpCommand f (v % 4) (m.get OTP_PGEN_gen) (m.get OTP_PADDR_word) (m.reg OTP_PDATA)
  else if a = FEED_CMD then (if v / 2 ^ 16 = 0x4644 then m.feedCmd (v % 8) Fjoek.htestStart else m)
  else if 0x40000 ≤ a ∧ a < 0x4C000 ∧ a % 0x800 = 0x10 then
    (if v / 2 ^ 16 = 0x4241 then m.bayCmd ((a - 0x40000) / 0x800) (v % 4) else m)
  else m.writeFields a v

/-- A register write that reaches its block. Unassigned offsets ignore it (R7). -/
def Fjoek.writeReg (m : Fjoek) (f : Fuses) (addr v : Nat) : Fjoek :=
  let a := canonAddr addr
  let p := a / 0x10000
  if (regDesc a).isNone then m
  else if p ≤ 0x04 then m.writeHearth f a v
  else if 0x20 ≤ p ∧ p ≤ 0x23 then m.writeSeam a v
  else if 0x28 ≤ p ∧ p ≤ 0x2F then m.writeDrv a v
  else match p with
  | 0x05 => m.writeDamp a v
  | 0x07 => if a = EVT_SWSET then m.swset (v % 512) else m.writeFields a v
  | 0x08 => if a = PMON_EPOCH then m.epochWrite (v % 2 ^ 16) else m.writeFields a v
  | 0x09 => m.writeMgmt a v
  | 0x10 => m.writeNetp a v
  | 0x11 => m.writeNetp a v
  | 0x14 => m.writeSwc a v
  | 0x16 => m.writeFwd a v
  | 0x18 => m.writeXport a v
  | 0x1C => m.writeThim a v
  | 0x24 => m.writeMngl a v
  | 0x25 => m.writeStrp a v
  | 0x30 => m.writeAtt a v
  | 0x31 => m.writeTwin a v
  | _ => m.writeFields a v

/-! ## Who writes what -/

/-- The accessor is a core of the management processor. -/
def isCore : Accessor → Bool
  | .core0 => true
  | .core1 => true
  | _ => false

def isStrand : Accessor → Bool
  | .strand _ _ => true
  | _ => false

/-- The blocks that only some accessors write (R169, R197, R405, R423, R443, R462, R478, R499, R500). -/
def mayWrite (who : Accessor) (a : Nat) : Bool :=
  match a / 0x10000 with
  | 0x01 => if a = HEARTH_WDKICK then isCore who else true
  | 0x02 => if OTP_PGEN ≤ a ∧ a ≤ OTP_PCMD then isCore who else true
  | 0x03 => isCore who
  | 0x04 => isCore who
  | 0x05 => isCore who || isStrand who
  | 0x06 => isCore who || isStrand who
  | 0x07 => isCore who || isStrand who
  | 0x08 => isCore who || isStrand who
  | 0x09 => isCore who || (isStrand who && [MGMT_MBRXPI, MGMT_MBTXCI, MGMT_LOGW].contains a)
  | 0x25 => isCore who || isStrand who || !([STRP_DIRTY_LO, STRP_DIRTY_HI, STRP_JDEG] : List Nat).contains a
  | 0x26 => isCore who || isStrand who || decide (a < DARN_PROG 0 ∨ DARN_PROG 3 < a)
  | _ => true

/-- The registers of blocks that R361 marks performed, the exceptions of DRV and ATT left out; DRV_PCTL is performed but for its
bit `disable`. -/
def performedReg (addr : Nat) : Bool :=
  let a := canonAddr addr
  let p := a / 0x10000
  if 0x28 ≤ p ∧ p ≤ 0x2F then
    a ≠ DRV_FENCE && a ≠ DRV_FCMD && !(decide (a % 0x2000 < 0x1F00) && [0x08, 0x2C, 0x140].contains (a % 0x2000))
  else if p = 0x30 then !([ATT_IRQ, ATT_WAKE, ATT_INTXST] : List Nat).contains a
  else p == 0x07 || p == 0x08 || decide (0x10 ≤ p ∧ p ≤ 0x27) || p == 0x32 || p == 0x33

def isPortCtl (a : Nat) : Bool := decide (0x280000 ≤ a ∧ a < 0x2B0000) && a % 0x2000 == 0

/-- A write of DRV_PCTL that leaves `disable` as it is. -/
def Fjoek.writePctl (m : Fjoek) (f : Fuses) (a v : Nat) : Fjoek := m.writeReg f a (withBits v 0 0 (m.reg a % 2))

/-- A write by a core or BAR0: a trailing twin takes it only into suppressed registers, and a lead logs what the trailing twin is
to perform (R362). At an unassigned offset of a performed block R7 names no event and R362 names event 475 for any write to such a
block: the trailing twin counts and latches it there too (DESIGN CHOICE, assumption 100). -/
def Fjoek.softWrite (m : Fjoek) (f : Fuses) (who : Accessor) (a v : Nat) : Fjoek :=
  if !mayWrite who (canonAddr a) then m
  else if m.trailing ∧ performedReg a then
    let m := (m.count TWIN_LOCALREJ_LO 1).cause TWIN_ESTAT_localrej 475
    if isPortCtl a then m.writeReg f a (withBits (m.reg a) 0 0 (v % 2)) else m
  else
    let m := m.when (performedReg a) fun m => m.logCmd a v
    m.writeReg f a v

/-- A strand's `rst` to a suppressed register of a trailing twin: a raw command or a power state takes its slot on the port, so that it
completes with the lead's status (R215). -/
def Fjoek.suppressedWrite (m : Fjoek) (a v : Nat) : Fjoek :=
  let p := (a - 0x280000) / 0x2000
  if a < 0x280000 ∨ 24 ≤ p then m
  else if a = DRV_PSCTL p then (m.setPort p { m.port p with psHeld := some (v % 32) }).fillPort p
  else if a = DRV_RCMD p then m.rawWrite p (bitOf v 6)
  else m

/-- A strand's `rst` that reaches its block: on a trailing twin it is performed or suppressed (R361). -/
def Fjoek.strandWrite (m : Fjoek) (f : Fuses) (who : Accessor) (a v : Nat) : Fjoek :=
  if !mayWrite who (canonAddr a) then m
  else if !m.trailing then m.writeReg f a v
  else if !performedReg a then m.suppressedWrite a v
  else if isPortCtl a then m.writePctl f a v
  else m.writeReg f a v

end Sys2Proof.Machine
end

