-- ==== Sys2Proof/Machine/Completion.lean ====
section
/-! DEFINITION. The completion of a strand's H, B, Q and R accesses (R73, R79 to R83, R89, R91, R144 to R146), and register
access by every accessor: rows for plain writes and reads, misaligned accesses, seals, hangs and BAR0 (R6 to R10, R333, R508). -/

namespace Sys2Proof.Machine

/-! ## The STRP aperture (R144 to R146) -/

/-- The lock table's entry and word at an aperture offset. -/
def lockAt (off : Nat) : Option (Nat × Nat) :=
  if 0x6000000 ≤ off ∧ off < 0x6100000 then some ((off - 0x6000000) / 16, off / 8 % 2) else none

/-- The offset stands in MRAM that the aperture reads. -/
def mramAt (off : Nat) : Bool := decide (off < 0x5600000)

def Fjoek.apertureRead (m : Fjoek) (off : Nat) : Nat :=
  match lockAt off with
  | some (x, w) => (m.lockWord x w).toNat
  | none => if mramAt off then m.mramNat off 8 else 0

/-- A store through the aperture; `release` says that STRP acts on a lock that it frees, as `hst` and `hcas` do. -/
def Fjoek.apertureStore (m : Fjoek) (off v : Nat) (release : Bool) : Fjoek :=
  match lockAt off with
  | some (x, w) =>
    let v := BitVec.ofNat 64 v
    if release then m.lockStore x w v
    else
      let was := lockHeld (m.lockWord x 0)
      let m := m.setLockWord x w v
      let now := lockHeld (m.lockWord x 0)
      m.put STRP_LKUSE_used (m.get STRP_LKUSE_used + bnat now - bnat was)
  | none =>
    if off < 0x5000000 ∨ (0x5200000 ≤ off ∧ off < 0x5600000) then m.mramPut off (bytesOf 8 v)
    else (m.bump STRP_APREJ_count 1).cause STRP_STAT_aprej 356

/-! ## What an access does where it lands -/

/-- What an access gives its strand: the value, and whether the data is right where the access reads data (R80). -/
structure Landed where
  val : Nat
  ok : Bool
  m : Fjoek

/-- The 8 bytes that an H access of cluster `g` finds. `ue`: the MRAM word is uncorrectable (R544). The bytes of a
print block are 0 (R359). -/
def Fjoek.hRead (m : Fjoek) (g a : Nat) (ue : Bool) : Landed :=
  if m.inAperture a 8 then
    let off := a % 2 ^ 27
    if ue && mramAt off then ⟨0, false, m.bump MRAMC_UE_count 1⟩
    else ⟨m.apertureRead off, true, m⟩
  else
    let (bad, m) := (m.happen 0x10D 1).hbmDetect (some g) a 8
    if bad then ⟨0, false, m⟩
    else ⟨m.hbmNat a 8, true, m⟩

/-- Store 8 bytes in H space. -/
def Fjoek.hStore (m : Fjoek) (a v : Nat) (release : Bool) : Fjoek :=
  if m.inAperture a 8 then m.apertureStore (a % 2 ^ 27) v release else m.hbmWriteNat a 8 v

/-- An H access of an engine of cluster `g` lands. -/
def Fjoek.hLand (m : Fjoek) (g : Nat) (a : Access) (ue : Bool) : Landed :=
  match a.kind with
  | .hst => ⟨0, true, m.hStore a.addr a.data.toNat true⟩
  | .hcas =>
    let r := m.hRead g a.addr ue
    if r.ok && r.val == a.cmp.toNat then { r with m := r.m.hStore a.addr a.data.toNat true } else r
  | .hfadd =>
    let r := m.hRead g a.addr ue
    if r.ok then { r with m := r.m.hStore a.addr ((r.val + a.data.toNat) % 2 ^ 64) false } else r
  | _ => m.hRead g a.addr ue

/-- A B access lands: lease `a.off`, byte offset `a.addr`. What a load returns from a lease that was released since it issued is
not stated, and free. -/
def Fjoek.bLand (m : Fjoek) (g : Nat) (a : Access) : Landed :=
  let q := m.leaseAt a.off
  let gone := decide (256 * q.cells.length < a.addr + 8)
  if a.kind = .bst then ⟨0, true, if gone then m else m.leasePut a.off a.addr (bytesOf 8 a.data.toNat)⟩
  else if gone then
    let (v, m) := m.free64
    ⟨v.toNat, true, m⟩
  else
    let (bad, m) := m.bufDetect (some g) (q.units a.addr 8)
    if bad then ⟨0, false, m⟩
    else ⟨ofBytes (m.leaseBytes a.off a.addr 8), true, m⟩

/-- An `rld` or `rst` lands (R6, R83). A trailing twin's `rld` returns the lead's value (R91); its own side effects, a field cleared by
being read or a higher word latched, it has in the blocks that R361 marks performed and in no other: R361 speaks of `rst`, and the spec
says nothing of the side effects of a read (assumption 70, DESIGN CHOICE). -/
def Fjoek.rLand (m : Fjoek) (f : Fuses) (k : Nat) (a : Access) : Landed :=
  let who : Accessor := .strand (Fin.ofNat 64 (k / 8)) (Fin.ofNat 8 (k % 8))
  if a.addr % 4 ≠ 0 then ⟨0, true, m.cause MGMT_ESTAT_regerr 496⟩
  else if blockDomain a.addr = 0 then ⟨0, true, m⟩
  else if a.kind = .rst then ⟨0, true, m.strandWrite f who a.addr (a.data.toNat % 2 ^ 32)⟩
  else if m.trailing ∧ (canonAddr a.addr = XPORT_QPALLOC ∨ canonAddr a.addr = THIM_KALLOC) then ⟨0, true, m⟩
  else
    let (v, n) := m.readReg a.addr
    ⟨v, true, if m.trailing && !performedReg a.addr then m else n⟩

/-- A trailing twin's read of an allocation register allocates what the lead's log names (R302). -/
def Fjoek.allocAs (m : Fjoek) (a : Access) (v : Nat) : Fjoek :=
  if a.kind ≠ .rld then m
  else if canonAddr a.addr = XPORT_QPALLOC then (if bitOf v 31 then (m.qpTake (v % 65536)).2 else m.count XPORT_ALLOCFAIL_LO 1)
  else if canonAddr a.addr = THIM_KALLOC then (if bitOf v 31 then (m.keyTake (v % 2 ^ 20)).2 else m.count THIM_ALLOCFAIL_LO 1)
  else m

/-! ## Completion -/

/-- Two accesses of a strand to one place, which take effect in issue order (R73): one address, or one context, whatever its word
(R89). -/
def Access.sameAs (a b : Access) : Bool :=
  a.domain == b.domain && a.addr == b.addr && (a.off == b.off || a.domain == 4) && ((a.kind == .kld) == (b.kind == .kld))

/-- The access returns its result on a trailing twin from the log (R91): state and sequence words of a context are the
transport's, key entries are Thimble's. -/
def Access.logs (a : Access) : Bool :=
  match a.kind with
  | .hcas => true
  | .hfadd => true
  | .rld => true
  | .kld => true
  | .qld => [0, 8, 9].contains (a.off / 8)
  | .qcas => [0, 8, 9].contains (a.off / 8)
  | _ => false

/-- A lead's `rst` to a suppressed block takes effect once the trailing twin has acknowledged every record before it, and not
while egress is frozen (R358, R371). -/
def Fjoek.rstHeld (m : Fjoek) (a : Access) : Bool :=
  a.kind == .rst && !performedReg a.addr && (m.twin.frozen || (m.leads && decide (m.twin.acked + 1 < m.twin.nextSeq)))

/-- The access waits in the crossing of a stopped domain (R508). The offset that CLK_HANG shows for an access that is not on
R space is not stated, and free. -/
def Fjoek.hangAccess (m : Fjoek) (k j : Nat) (a : Access) : Fjoek :=
  let x := m.strand k
  let m := m.setStrand k { x with accs := setNth x.accs j { a with hung := true } }
  if a.onR then m.hang 2 a.domain a.addr
  else
    let (o, m) := m.freeNat
    m.hang 2 a.domain o

/-- Access `j` of strand `k` completes: it has landed, its register and predicate are written, and a STALL that waited on it
ends (R73). -/
def Fjoek.complete (m0 : Fjoek) (f : Fuses) (k j : Nat) (ue : Bool) : Fjoek :=
  let x := m0.strand k
  match x.accs[j]? with
  | none => m0
  | some a =>
    let late := a.onR && decide (a.addr % 4 ≠ 0)
    if a.hung ∨ !m0.runs 3 ∨ (x.accs.take j).any (fun b => a.sameAs b) then m0
    else if !late ∧ a.domain ≠ 0 ∧ !m0.runs a.domain then m0.hangAccess k j a
    else if !late && m0.rstHeld a then m0
    else if a.domain = 4 ∧ !a.onR ∧ !m0.ctxHere a then m0.ctxFetch a
    else
      let m := m0.setStrand k { x with accs := dropNth x.accs j }
      let g := k / 32
      let r : Landed := match a.kind with
        | .rld => m.rLand f k a
        | .rst => m.rLand f k a
        | .bld => m.bLand g a
        | .bst => m.bLand g a
        | .hld => m.hLand g a ue
        | .hst => m.hLand g a ue
        | .hcas => m.hLand g a ue
        | .hfadd => m.hLand g a ue
        | _ =>
          let (v, m) := m.ctxPerform k a
          ⟨v, true, m⟩
      let fin := fun (v : Nat) (m : Fjoek) =>
        let m := if m.trailing then m.allocAs a v else m
        let y := m.strand k
        let y := y.wr a.rd (BitVec.ofNat 64 v)
        let y := if [.hld, .hcas, .hfadd, .bld].contains a.kind then y.setPred a.pe r.ok else y
        (m.setStrand k y).unstall k
      if a.logs then r.m.logged k a.rd r.val fin m0 else fin r.val r.m

/-- ACCESS_COMPLETE. -/
def execAccessComplete (e : Fin 64) (s : Fin 8) (k : Fin 8) (mramUe : Bool) (st : State) := st.onFuses fun f m =>
  m.complete f (8 * e.val + s.val) k.val mramUe

/-- The strand's R access to offset `addr` that waits, of the kind named, completes. -/
def Fjoek.completeR (m : Fjoek) (f : Fuses) (k addr : Nat) (write : Bool) : Fjoek :=
  match (m.strand k).accs.findIdx? fun a => a.addr == addr && a.kind == (if write then .rst else .rld) with
  | none => m
  | some j => m.complete f k j false

/-! ## Cores and BAR0 (R333, R508, R509) -/

/-- The code of a core in CLK_HANG. -/
def coreCode : Accessor → Nat
  | .core1 => 1
  | _ => 0

/-- A core that runs and does not wait. -/
def Fjoek.coreOn (m : Fjoek) (who : Accessor) : Bool :=
  m.runs 2 && m.hearth.core != 0 && !bitOf m.hearth.coresHung (coreCode who)

/-- The block that holds `a` answers: its domain runs, or `a` lies in no window. -/
def Fjoek.reachable (m : Fjoek) (a : Nat) : Bool := blockDomain a == 0 || m.runs (blockDomain a)

/-- A core stalls on its access into a stopped domain. -/
def Fjoek.coreHang (m : Fjoek) (who : Accessor) (a : Nat) : Fjoek :=
  let c := coreCode who
  Fjoek.hang { m with hearth := { m.hearth with coresHung := withBits m.hearth.coresHung c c 1 } } c (blockDomain a) a

/-- A BAR0 access that is refused or abandoned. -/
def Fjoek.bar0Refuse (m : Fjoek) (write : Bool) : Fjoek :=
  let m := (m.count ATT_BAR0REF_LO 1).cause ATT_STAT_bar0ref 432
  if write then m else m.send .attCa

/-- A BAR0 access: `act` is what a forwarded one does. A request that is not one aligned DW latches no event where the window is closed or
at an offset above it: whether R6 or R333 answers it there is open (DESIGN CHOICE, assumption 105). -/
def Fjoek.bar0With (m : Fjoek) (write : Bool) (x : Nat) (whole : Bool) (act : Fjoek → Fjoek) : Fjoek :=
  let zero := fun (m : Fjoek) => if write then m else m.send (.attData 0)
  if !m.barsOpen 0 then (if write then m else m.send .attUr)
  else if !m.isOn ATT_CTL_bar0en ∨ 0x1000000 ≤ x then zero m
  else if !whole ∨ x % 4 ≠ 0 then zero (m.cause MGMT_ESTAT_regerr 496)
  else if !m.reachable x then m.bar0Refuse write
  else act m

/-- A write by an accessor as it reaches the register fabric. -/
def Fjoek.accessWrite (m : Fjoek) (f : Fuses) (who : Accessor) (a v : Nat) : Fjoek :=
  match who with
  | .strand e s => m.completeR f (8 * e.val + s.val) a true
  | .bar0 => m.bar0With true a true fun m => m.softWrite f .bar0 a v
  | _ =>
    if !m.coreOn who then m
    else if a % 4 ≠ 0 then m.cause MGMT_ESTAT_regerr 496
    else if !m.reachable a then m.coreHang who a
    else m.softWrite f who a v

/-- A read by an accessor; a core's answer leaves as `read`. -/
def Fjoek.accessRead (m : Fjoek) (f : Fuses) (who : Accessor) (a : Nat) : Fjoek :=
  match who with
  | .strand e s => m.completeR f (8 * e.val + s.val) a false
  | .bar0 => m.bar0With false a true fun m =>
      let (v, m) := m.readReg a
      m.send (.attData v)
  | _ =>
    if !m.coreOn who then m
    else if a % 4 ≠ 0 then (m.cause MGMT_ESTAT_regerr 496).send (.read a 0)
    else if !m.reachable a then m.coreHang who a
    else
      let (v, m) := m.readReg a
      m.send (.read a v)

/-! ## Rows -/

/-- REGISTER_WRITE: by a strand, the `rst` that it has outstanding there completes. -/
def execRegisterWrite (who : Accessor) (addr val : Word32) (s : State) := s.onFuses fun f m =>
  m.accessWrite f who addr.toNat val.toNat

/-- MISALIGNED_REGISTER_ACCESS: narrower than 32 bits, or at an address that is no multiple of 4; nothing is performed. -/
def execMisalignedRegisterAccess (who : Accessor) (write : Bool) (addr : Word32) (s : State) := s.onFuses fun f m =>
  match who with
  | .strand e t => if addr.toNat % 4 = 0 then m else m.completeR f (8 * e.val + t.val) addr.toNat write
  | .bar0 => m.bar0With write addr.toNat false id
  | _ =>
    if !m.coreOn who then m
    else
      let m := m.cause MGMT_ESTAT_regerr 496
      if write then m else m.send (.read addr.toNat 0)

/-- ACCESS_INTO_STOPPED_DOMAIN. -/
def execAccessIntoStoppedDomain (who : Accessor) (write : Bool) (addr : Word32) (s : State) := s.onFuses fun f m =>
  let a := addr.toNat
  if m.reachable a ∨ a % 4 ≠ 0 then m
  else if write then m.accessWrite f who a 0 else m.accessRead f who a

/-- READ_CLEAR: a read of a register with an RC field. -/
def execReadClear (who : Accessor) (addr : Word32) (s : State) := s.onFuses fun f m =>
  match regDesc (canonAddr addr.toNat) with
  | some (d, _) => if d.fields.any fun x => x.acc == .rc then m.accessRead f who addr.toNat else m
  | none => m

/-- WIDE_VALUE_LOW_WORD_READ. -/
def execWideValueLowWordRead (who : Accessor) (addr : Word32) (s : State) := s.onFuses fun f m =>
  if wideLow addr.toNat then m.accessRead f who addr.toNat else m

/-- SEAL_SET: the register's other fields are written as they stand. -/
def execSealSet (who : Accessor) (addr : Word32) (s : State) := s.onFuses fun f m =>
  let a := canonAddr addr.toNat
  match sealField a with
  | some x => if x.addr = a then m.accessWrite f who addr.toNat (withBits (m.reg a) x.hi x.lo 1) else m
  | none => m

/-- BAR0_ACCESS. -/
def execBar0Access (write : Bool) (x : BitVec 26) (data : Word32) (whole : Bool) (s : State) := s.onFuses fun f m =>
  m.bar0With write x.toNat whole fun m =>
    if write then m.softWrite f .bar0 x.toNat data.toNat
    else
      let (v, m) := m.readReg x.toNat
      m.send (.attData v)

/-- BAR0_ACCESS_TIMEOUT: a write may or may not have been performed, and so may the side effects of a read. -/
def execBar0AccessTimeout (write : Bool) (x : BitVec 26) (data : Word32) (s : State) := s.onFuses fun f m =>
  m.bar0With write x.toNat true fun m =>
    let (b, m) := m.freeBool
    let m := if !b then m else if write then m.softWrite f .bar0 x.toNat data.toNat else (m.readReg x.toNat).2
    m.bar0Refuse write

/-- HANG_RECORD_READ. -/
def execHangRecordRead (who : Accessor) (s : State) := s.onFuses fun f m => m.accessRead f who CLK_HANG

end Sys2Proof.Machine
end

