-- ==== Sys2Proof/Machine/Losses.lean ====
section
/-! DEFINITION. Stops and restarts of clock domains (R502 to R508): a lost clock, its return, and the end of a commanded stop. -/

namespace Sys2Proof.Machine

/-! ## Accesses abandoned at a crossing (R507) -/

/-- One abandoned access of strand `k`, already taken from its list: a read returns 0, a write may or may not be performed. Whether
the error predicate of a load then shows right data is not stated, and free. -/
def Fjoek.abandonOne (m : Fjoek) (f : Fuses) (k : Nat) (a : Access) : Fjoek :=
  let (b, m) := m.freeBool
  let m := if !b then m
    else match a.kind with
    | .rst => (m.rLand f k a).m
    | .bst => (m.bLand (k / 32) a).m
    | .hst => (m.hLand (k / 32) a false).m
    | .hcas => (m.hLand (k / 32) a false).m
    | .hfadd => (m.hLand (k / 32) a false).m
    | .qst => (m.ctxPerform k a).2
    | .qcas => (m.ctxPerform k a).2
    | .qrate => (m.ctxPerform k a).2
    | _ => m
  let (ok, m) := m.freeBool
  let y := (m.strand k).wr a.rd 0
  m.setStrand k (if [.hld, .hcas, .hfadd, .bld].contains a.kind then y.setPred a.pe ok else y)

/-- Every access that waits in the crossings into domain `d` is abandoned. -/
def Fjoek.abandonInto (m : Fjoek) (f : Fuses) (d : Nat) : Fjoek :=
  let hit := fun (a : Access) => a.domain == d && !a.hung
  m.each (m.seam.strands.map Prod.fst) fun k m =>
    let x := m.strand k
    let l := x.accs.filter hit
    if l = [] then m
    else
      let m := m.setStrand k { x with accs := x.accs.filter fun a => !hit a }
      ((m.each l fun a m => m.abandonOne f k a).unstall k).abandoned l.length

/-! ## Loss (R504) -/

/-- The domains that stop with what is lost (R503). -/
def lossDomains : ClockLoss → List Nat
  | .refEth => [2, 3, 4, 5, 6, 10, 11, 12, 13]
  | .refDrv => [7, 8]
  | .refAtt => [9]
  | .pllMgmt => [2]
  | .pllSeam => [3]
  | .pllDrv0 => [7]
  | .pllDrv1 => [8]
  | .pllAtt => [9]

/-- A PLL loses lock with the loss: it is what is lost, or its reference is and its domain ran. -/
def losesLock (what : ClockLoss) (gone : List Nat) : Bool :=
  match what with
  | .refEth => gone.any [2, 3].contains
  | .refDrv => gone.any [7, 8].contains
  | .refAtt => gone.contains 9
  | _ => true

/-- A domain's run bit with no event: what CLK shows is noticed only once the management domain runs again. -/
def Fjoek.setQuietly (m : Fjoek) (d : Nat) (v : Bool) : Fjoek := (m.put ⟨CLK_DOMSTAT, d, d⟩ (bnat v)).setPll d v

/-- A lost stop. Events 12 and 15 latch now, or wait for the management domain if it stopped too. -/
def Fjoek.clockLost (m : Fjoek) (f : Fuses) (what : ClockLoss) : Fjoek :=
  let ds := lossDomains what
  let gone := ds.filter m.runs
  let mask := fun (l : List Nat) (v : Nat) => l.foldl (fun v d => v ||| 2 ^ d) v
  let m := m.each gone fun d m => m.abandonInto f d
  let m := m.when (gone.contains 3) fun m => m.each (List.range 64) fun e m => m.snapCounters e
  let m := m.when (gone.contains 6) fun m => m.put CLK_QSTAT_run 0
  let h := m.hearth
  let m := m.setHearth { h with
    lost := mask ds h.lost, stopping := gone.foldl (fun v d => withBits v d d 0) h.stopping }
  if !m.runs 2 ∨ gone.contains 2 then
    let m := m.each gone fun d m => m.setQuietly d false
    m.setHearth { m.hearth with lostHeld := mask gone m.hearth.lostHeld, unlockHeld := m.hearth.unlockHeld || losesLock what gone }
  else
    let m := m.each gone fun d m => m.setDomain d false
    let m := m.when (gone != []) fun m => m.cause CLK_ESTAT_lost 12
    m.when (losesLock what gone) fun m => m.cause CLK_ESTAT_unlock 15

/-- CLOCK_LOST. -/
def execClockLost (what : ClockLoss) (s : State) := s.onFuses fun f m => m.clockLost f what

/-! ## Return (R504) -/

/-- The module's state lets domain `d` run (R502). -/
def Fjoek.wanted (m : Fjoek) (d : Nat) : Bool :=
  let p := m.power
  match d with
  | 0 => true
  | 1 => true
  | 5 => p == 3 || p == 4
  | 9 => (p == 3 || p == 4) && !m.att.perst && !m.att.d3cold
  | 13 => p == 4 && m.isOn TOP_STRAP_twin
  | _ => if d = 2 ∨ d = 10 ∨ d = 11 ∨ d = 12 then decide (2 ≤ p ∧ p ≤ 4) else p == 4

/-- A lost domain may run again. In KINDLING before the boot ROM has started, MANAGEMENT_PLL_LOCK starts the management domain and
the memories. An access that waits in the crossing is discarded without an answer, so its strand waits on. -/
def Fjoek.domainReturns (m : Fjoek) (d : Nat) : Fjoek :=
  if !bitOf m.hearth.lost d then m
  else
    let m := m.setHearth { m.hearth with lost := withBits m.hearth.lost d d 0 }
    let early := decide (m.power = 2) && m.hearth.core == 0 && [2, 10, 11, 12].contains d
    if !m.wanted d ∨ early then m
    else if d = 2 then (m.setQuietly 2 true).heldLosses
    else if !m.runs 2 then m.setQuietly d true
    else if d = 6 then m.settleQuads
    else m.setDomain d true

/-- DOMAIN_RESTART. -/
def execDomainRestart (d : Fin 14) (s : State) := s.on fun m => m.domainReturns d.val

/-! ## The end of a commanded stop (R508) -/

def Fjoek.stopDone (m : Fjoek) (f : Fuses) (d : Nat) : Fjoek :=
  if !bitOf m.hearth.stopping d then m
  else
    let m := m.abandonInto f d
    let m := m.when (d == 6) fun m => m.put CLK_QSTAT_run 0
    let m := m.setDomain d false
    m.setHearth { m.hearth with stopping := withBits m.hearth.stopping d d 0 }

/-- COMMANDED_STOP_DONE. -/
def execCommandedStopDone (d : Fin 14) (s : State) := s.onFuses fun f m => m.stopDone f d.val

end Sys2Proof.Machine
end

