-- ==== Sys2Proof/Machine/Replay.lean ====
section
/-! DEFINITION. The trailing twin's side of the log: records received, held and replayed (R355 to R361, R363 to R369), a planned
swap (R379), and the end of a takeover's replay (R373). -/

namespace Sys2Proof.Machine

/-! ## What each record does when it is replayed (R356) -/

/-- Blocks `j`, `j` + 1, … of a place become prints. -/
def Fjoek.putPrints (m : Fjoek) (p : Place) (j : Nat) (l : List Nat) : Fjoek :=
  m.each l.zipIdx fun v m => m.becomePrint p (j + v.2) v.1

/-- ITEM: the front item of the strand's cluster goes to slot `slot` of strand `k`. The blocks after the bytes given in full are
prints. -/
def Fjoek.replayItem (m : Fjoek) (k slot : Nat) (full : List Byte) (prints : List Nat) : Fjoek :=
  match m.offer (k / 32) with
  | none => m
  | some (h, i) =>
    let m := (m.setQueue h ((m.queue h).erase i)).putPrints (.cell i.handle 0) (full.length / 4096) prints
    let (a, m) := (m.leasePut i.handle 0 full).ownLease k i.handle
    (m.perf (k / 8) (k % 8) 0x016 none).endWait k (m.strand k).waitReg slot a

/-- DCOMP: the lead took the completion; blocks that a read wrote are prints. One whose slot no command of the port holds is of a library write
that waits for it (R164; assumption 94). -/
def Fjoek.replayDcomp (m : Fjoek) (p : Nat) (e prints : List Nat) : Fjoek :=
  let cid := nth e 3 0 % 65536
  let m :=
    match (m.port p).slots.find? fun s => s.slot == cid with
    | some ⟨_, _, .data id off _⟩ =>
      match m.findDesc id with
      | some d => m.putPrints (placeOf 0 (d.w 1)) (off / 4096) prints
      | none => m
    | _ => m
  if (m.port p).slots.any (·.slot == cid) ∨ !m.lib.awaited.any (·.port == p) then m.takeCompletion p e
  else m.libComp p (decide (nth e 3 0 / 2 ^ 17 = 0))

/-- XCOMP: the descriptor completes with the lead's status, prints and, for HASH, state. -/
def Fjoek.replayXcomp (m : Fjoek) (id code detail epstat result : Nat) (prints : List Nat) (hash : List Byte) : Fjoek :=
  match m.findDesc id with
  | none => m
  | some d =>
    let d : Desc := { d with code := code % 256, detail := detail % 256, epstat := epstat, result := result }
    let m :=
      if d.op = 6 then m.putAt (placeOf 0 (d.w 1)) (hash.take 128)
      else
        (d.writes.foldl (fun (r : Fjoek × List Nat) p =>
          let n := p.2.1 / 4096
          (r.1.putPrints p.1 0 (r.2.take n), r.2.drop n)) (m, prints)).1
    m.completeDesc d

/-- TIMER. The Damper's periods on a trailing twin come with their grants. -/
def Fjoek.replayTimer (m : Fjoek) (kind n : Nat) : Fjoek :=
  match kind with
  | 0 => m.timerExpire n
  | 1 => m.gapTimeout n
  | 2 => m.ackTimeout n
  | 3 => m.retryTimeout n
  | 4 => m.rnrExpiry n
  | 5 => m.rnrWait n
  | 6 => m.sprayStall n
  | 7 => m.put FWD_TICKCFG_tick (m.tick + 1)
  | _ => m

/-- GRANT: the queued draw is served. -/
def Fjoek.replayGrant (m : Fjoek) (c : Nat) (who : Drawer) : Fjoek :=
  match (m.draws c).find? fun d => d.who == who with
  | none => m
  | some d => ((m.setDraws c ((m.draws c).erase d)).take c d.tokens).grant c d

/-- The loader ends what it does: the lead accepted its next command, so the lead's had ended (R64). -/
def Fjoek.ldrFinish (m : Fjoek) : Fjoek := m.ldrVerifyDone.each (List.range 16) fun _ m => m.ldrGroup

/-- CMD: a write that reaches a performed block, or a Block reset (R361, R393). -/
def Fjoek.replayCmd (m : Fjoek) (f : Fuses) (a v : Nat) : Fjoek :=
  if a = TOP_BRST then m.blockReset (bitsOf v 12 8) (v % 128)
  else if a = SEAM_LDR_CMD then (m.ldrFinish).writeReg f a v
  else if isPortCtl a then m.writePctl f a v
  else m.writeReg f a v

/-- Descriptors of function `f` of the attach endpoint follow what stands against its TLPs: they park, end with an epstat, or end after
parking (R336, R338, R341). -/
def Fjoek.followGate (m : Fjoek) (f g : Nat) : Fjoek :=
  if g = 0 then m.unparkFn f
  else if g = 1 then m.parkFn f
  else if g = 4 then m
  else m.each (m.fnDescs f) fun d m => m.attFail d g

/-- LINK: of the lead's ports, the datapath of a trailing twin sees drive ports, whose descriptors end with the lead's status, and the
functions of the attach endpoint (R347). A slot's state reaches it by the frames that follow (assumption 27). -/
def Fjoek.replayLink (m : Fjoek) (what unit : Nat) (up : Bool) (st : Nat) : Fjoek :=
  if what = 2 then (m.setTwin { m.twin with leadFns := tableInsert m.twin.leadFns unit st }).followGate unit st
  else if what ≠ 1 then m
  else
    let m := m.setTwin { m.twin with leadPorts := withBits m.twin.leadPorts unit unit (bnat up) }
    (if up then m else m.each (m.driveDescs unit) fun d m => m.endDrive d (portStatus st)).settlePortDiff

/-- Buffer units and HBM units of every block held as a print (R373 step 4). -/
def Fjoek.printUnits (m : Fjoek) : List Nat :=
  (m.mngl.prints.map fun e =>
    let l := m.leaseAt (e.1 / 1024)
    l.units (4096 * (e.1 % 1024)) (Nat.min 4096 (256 * l.cells.length - 4096 * (e.1 % 1024)))).flatten ++
  (m.twin.shadow.map fun e => (List.range 64).map fun i => 2 ^ 29 + 64 * e.1 + i).flatten

/-- The new lead's attach outputs are enabled: A descriptors follow its own functions, and requests that the trailing twin held back are sent
(R373 step 3; assumption 89). -/
def Fjoek.attLead (m : Fjoek) : Fjoek :=
  let m := m.each (List.range 64) fun f m => m.followGate f (m.fnGate f)
  m.each (m.mngl.descs.filter fun d => d.op == 0 && d.ssp == 3 && d.phase == .running) fun d m =>
    readTlps (d.len + 1) { d with sent := 0 } m

/-- R373 steps 3 and 4: outputs take effect, the fence is issued, and prints are absent. -/
def Fjoek.newLead (m : Fjoek) : Fjoek :=
  let a := m.printUnits.foldl (fun t u => tableSet (fun _ => false) t u true) m.twin.absent
  let m := m.setTwin { m.twin with
    absent := a, waiters := m.mngl.descs.map (·.id), shadow := [], ring := [], horizon := [], partItems := [], leadFns := [] }
  let q : Mngl := { m.mngl with prints := [] }
  let m : Fjoek := { m with mngl := q }
  (m.setTxsup false).attLead.fenceGo

/-- SWAP: the replay has reached the drained point. The new lead goes on in step, with its log after the old one's. -/
def Fjoek.replaySwap (m : Fjoek) : Fjoek :=
  let m := (m.put TWIN_STAT_role 1).setTwin { m.twin with
    nextSeq := m.twin.recvSeq + 1, acked := m.twin.recvSeq, log := [] }
  (m.cause TWIN_ESTAT_swap 474).newLead.dispatch

/-- One record takes effect. Results and horizons have been given to their engines as the record came. -/
def Fjoek.replayOne (m : Fjoek) (f : Fuses) (r : LogIn) : Fjoek :=
  let m := m.happen 0x112 1
  match r.body with
  | .frame k => m.arrive k
  | .cm a q p mad => m.cmReceive a q p mad
  | .item k slot _ full prints => m.replayItem k slot full prints
  | .dcomp p e prints => m.replayDcomp p e prints
  | .xcomp id c d e v prints hash => m.replayXcomp id c d e v prints hash
  | .attrec fn kind reg v => m.dbRecord fn kind reg v
  | .timer kind n => m.replayTimer kind n
  | .grant c desc who => m.replayGrant c (if desc then .desc who else .strand who)
  | .value _ _ v => if r.head.target = 0x80 then m.ccReplay v else m
  | .event _ tag => if r.head.target < 64 then m.postTag r.head.target tag else m
  | .cmd a v => m.replayCmd f a v
  | .link w u up st => m.replayLink w u up st
  | .mirror a b => m.hbmPut a b
  | .epoch n l => m.setTwin { m.twin with epoch := n, epochRounds := tableInsert m.twin.epochRounds n l }
  | .digest n v => m.peerDigest n v
  | .horizon _ => m
  | .swap => m.replaySwap

/-- The record at the ring's front may take effect: its engine stands between rounds and has reached the record's round. A result
or a horizon has already been given. -/
def Fjoek.recordReady (m : Fjoek) (r : LogIn) : Bool :=
  match r.body with
  | .value .. => true
  | .horizon _ => true
  | _ => decide (64 ≤ r.head.target) ||
    decide (r.head.round ≤ (m.roundNow r.head.target).1 ∧ (m.roundNow r.head.target).2 = 0)

/-- Replay records in seq order as far as the front is ready (R357). -/
def replayRing (f : Fuses) : Nat → Fjoek → Fjoek
  | 0, m => m
  | n + 1, m =>
    match m.twin.ring with
    | [] => m
    | r :: rest => if m.recordReady r then replayRing f n ((m.setTwin { m.twin with ring := rest }).replayOne f r) else m

def Fjoek.replay (m : Fjoek) (f : Fuses) : Fjoek := replayRing f m.twin.ring.length m

/-! ## Receipt (R357, R369) -/

/-- The module takes records: it trails in step, and the link is up. -/
def Fjoek.takesLog (m : Fjoek) : Bool := m.trailing && m.isOn TWIN_STAT_link && m.runs 13

/-- The lag allowed, in µs (R382). -/
def Fjoek.lagMax (m : Fjoek) : Nat := Nat.max 5 (Nat.min 100 (m.get TWIN_CFG_lagmax))

/-- A range print of strand `k` arrives: the oldest of its items that waits for one is whole, or the print is kept (R359). -/
def Fjoek.rangePrint (m : Fjoek) (k round v : Nat) : Fjoek :=
  match m.twin.partItems.find? fun i => i.strand == k with
  | some i =>
    let m := m.setTwin { m.twin with partItems := m.twin.partItems.erase i }
    m.digestAt i.epoch (i.item ++ (bytesOf 8 (i.print ^^^ v)).map BitVec.toNat)
  | none => { m with seam := { m.seam with values := m.seam.values ++ [⟨k, rangePrintReg, round, v⟩] } }

/-- A record is held and acknowledged; an engine's horizon moves to its round, and a logged result is ready for its instruction. -/
def Fjoek.holdRecord (m : Fjoek) (h : LogHead) (b : LogBody) : Fjoek :=
  let t := h.target
  let old := tableGet (fun _ => 0) m.twin.horizon t
  let reach := match b with
    | .horizon r => r
    | _ => h.round
  let m := m.setTwin { m.twin with
    recvSeq := h.seq, ring := m.twin.ring ++ [⟨h, b, m.time⟩]
    horizon := if t < 64 then tableSet (fun _ => 0) m.twin.horizon t (Nat.max old reach) else m.twin.horizon }
  let m : Fjoek := match b with
    | .value k rd v =>
      let k := 8 * (t % 64) + k
      if 64 ≤ t then m
      else if rd = rangePrintReg then m.rangePrint k h.round v
      else { m with seam := { m.seam with values := m.seam.values ++ [⟨k, rd, h.round, v⟩] } }
    | _ => m
  m.send (.twinMsg 0x0A [h.seq])

/-- A record arrives. A gap in seq is a divergence; a seq that the module holds already is no new record. -/
def Fjoek.logIn (m : Fjoek) (f : Fuses) (h : LogHead) (b : LogBody) : Fjoek :=
  if !m.takesLog ∨ h.seq ≤ m.twin.recvSeq then m
  else if h.seq ≠ m.twin.recvSeq + 1 then m.diverge m.twin.epoch
  else
    let m := ((m.holdRecord h b).replay f).takeFences (h.target % 64)
    m.when (decide (m.lagMax < m.twinLag)) fun m => m.cause TWIN_ESTAT_lag 471

/-- LOG_FRAME. -/
def execLogFrame (h : LogHead) (k : Pkt) (s : State) := s.onFuses fun f m => m.logIn f h (.frame k)
/-- LOG_ITEM: its header's target is the strand's engine. -/
def execLogItem (h : LogHead) (strand : Fin 8) (slot : Fin 4) (kind : Nat) (full : List Byte) (prints : List Nat)
    (s : State) := s.onFuses fun f m => m.logIn f h (.item (8 * (h.target % 64) + strand.val) slot.val kind full prints)
/-- LOG_DCOMP. -/
def execLogDcomp (h : LogHead) (p : Fin 24) (entry prints : List Nat) (s : State) := s.onFuses fun f m =>
  m.logIn f h (.dcomp p.val entry prints)
/-- LOG_XCOMP. -/
def execLogXcomp (h : LogHead) (desc code detail epstat result : Nat) (prints : List Nat) (hash : List Byte) (s : State) :=
  s.onFuses fun f m => m.logIn f h (.xcomp desc code detail epstat result prints hash)
/-- LOG_ATTREC. -/
def execLogAttrec (h : LogHead) (fn : Fin 64) (kind reg value : Nat) (s : State) := s.onFuses fun f m =>
  m.logIn f h (.attrec fn.val kind reg value)
/-- LOG_TIMER. -/
def execLogTimer (h : LogHead) (kind ctx : Nat) (s : State) := s.onFuses fun f m => m.logIn f h (.timer kind ctx)
/-- LOG_GRANT. -/
def execLogGrant (h : LogHead) (cls : Fin 6) (desc : Bool) (who : Nat) (s : State) := s.onFuses fun f m =>
  m.logIn f h (.grant cls.val desc who)
/-- LOG_VALUE: the result for a register of a strand of the target engine. R356 gives the payload as the result alone; that a record also says
whose result it is, is DEDUCED (assumption 50). -/
def execLogValue (h : LogHead) (r : ValueRec) (s : State) := s.onFuses fun f m =>
  m.logIn f h (.value r.strand.val r.rd.val r.v.toNat)
/-- LOG_EVENT. -/
def execLogEvent (h : LogHead) (e : Fin 512) (tag : BitVec 10) (s : State) := s.onFuses fun f m =>
  m.logIn f h (.event e.val tag.toNat)
/-- LOG_CMD. -/
def execLogCmd (h : LogHead) (addr : BitVec 22) (value : Word32) (s : State) := s.onFuses fun f m =>
  m.logIn f h (.cmd addr.toNat value.toNat)
/-- LOG_LINK. -/
def execLogLink (h : LogHead) (what : Fin 3) (unit : Fin 64) (up : Bool) (state : Nat) (s : State) := s.onFuses fun f m =>
  m.logIn f h (.link what.val unit.val up state)
/-- LOG_MIRROR: R364. -/
def execLogMirror (h : LogHead) (addr : Nat) (data : List Byte) (s : State) := s.onFuses fun f m =>
  m.logIn f h (.mirror addr data)
/-- LOG_EPOCH: R365. -/
def execLogEpoch (h : LogHead) (n : Nat) (rounds : List Nat) (s : State) := s.onFuses fun f m => m.logIn f h (.epoch n rounds)
/-- LOG_DIGEST: R367. -/
def execLogDigest (h : LogHead) (n v : Nat) (s : State) := s.onFuses fun f m => m.logIn f h (.digest n v)
/-- LOG_HORIZON: R357. -/
def execLogHorizon (h : LogHead) (round : Nat) (s : State) := s.onFuses fun f m => m.logIn f h (.horizon round)
/-- LOG_SWAP: R379. -/
def execLogSwap (h : LogHead) (s : State) := s.onFuses fun f m => m.logIn f h .swap

/-- LOG_UNDEFINED_KIND (R369): kinds 0x11 to 0xFF. -/
def execLogUndefinedKind (h : LogHead) (kind : Nat) (s : State) := s.on fun m =>
  if !m.takesLog ∨ h.seq ≤ m.twin.recvSeq ∨ kind < 0x11 ∨ 0xFF < kind then m else m.diverge m.twin.epoch

/-! ## The end of a takeover's replay (R373 steps 3 to 6) -/

/-- Every record held is replayed; a record that waits on a round that the engine never reaches takes effect now. -/
def replayRest (f : Fuses) : Nat → Fjoek → Fjoek
  | 0, m => m
  | n + 1, m =>
    match m.twin.ring with
    | [] => m
    | r :: rest => replayRest f n ((m.setTwin { m.twin with ring := rest }).replayOne f r)

/-- Incomplete D descriptors of port `p` start afresh from their first command; what the trailing twin had submitted reached no
drive. -/
def Fjoek.resubmit (m : Fjoek) (p : Nat) : Fjoek :=
  let x := m.port p
  let m := m.setPort p { x with
    slots := x.slots.filter fun s => match s.use with
      | .data _ _ _ => false
      | _ => true
    tails := tableKeep (fun y => y == 0) x.tails }
  (m.each (m.driveDescs p) fun d m => m.setDesc { d with sent := 0, fails := [] }).fillPort p

/-- Step 5 for context `n`. -/
def Fjoek.recoverContext (m : Fjoek) (n : Nat) : Fjoek :=
  let q := m.qp n
  let m := m.when ((m.qpState n == 2 || m.qpState n == 3) && decide (0 < q.lastRx ∧ m.time ≤ q.lastRx + 10 ^ 7)) fun m =>
    (m.setQp n { m.qp n with nak := none }).seqNak n
  if m.qpState n = 3 ∧ m.sendPsn n ≠ m.ackedPsn n then m.goBack n (m.ackedPsn n) else m

/-- What program library 1.0 does before rewound commands go on (R164, R363): clean copies are dropped, members behind lost ports are absent,
library writes without a logged completion count as not completed, Darn goes on from the cursors in MRAM (R179), and the open records' stripes
are locked and resolved. `unread` are blocks, by serial number and LBA, that drives cannot read. -/
def Fjoek.recoverLibrary (m : Fjoek) (unread : List (Nat × Nat)) : Fjoek :=
  let lost := m.get TWIN_PORTDIFF_ports
  let l : Lib := { m.lib with cache := m.lib.cache.filter (·.dirty), awaited := [] }
  let m : Fjoek := { m with lib := l }
  let m := m.each ((List.range 24).filter fun p => bitOf lost p) fun p m => m.portLost p []
  m.noteUnread unread |>.each (List.range 4) fun p m => m.onPool p fun x m => if x.online then (m.resumeRounds p).recover p else m

/-- Slates that were not mirrored are loaded again (R319, R363). -/
def Fjoek.reloadSlates (m : Fjoek) : Fjoek :=
  m.each ((List.range 1024).filter fun n => (m.slate n).state == 2 && !bitOf (m.slate n).flags 0) fun n m =>
    (m.slateState n 1).slateLoad n

/-- The one's complement sum of the 16-bit words of `b`, complemented. -/
def icmpSum (b : Bytes) : Nat :=
  let s := ((List.range (b.length / 2)).map fun i => frameBe b (2 * i) 2).sum
  let s := s % 65536 + s / 65536
  65535 - (s % 65536 + s / 65536)

/-- The frame from `src` that announces a local address of 16 bytes with the MAC of FWD_RMAC: a gratuitous ARP for an IPv4-mapped one, and an unsolicited
neighbour advertisement for another (R373; its fields are those of those protocols: PRESUMED, assumption 90). -/
def announcement (src mac ip : Bytes) (vlan : Nat) : Bytes :=
  let tag := if vlan = 0xFFF then [] else bytesBe 2 0x8100 ++ bytesBe 2 vlan
  if ip.take 12 = List.replicate 10 0 ++ [0xFF, 0xFF] then
    let v4 := ip.drop 12
    List.replicate 6 0xFF ++ src ++ tag ++ [0x08, 0x06, 0, 1, 8, 0, 6, 4, 0, 1] ++ mac ++ v4 ++ List.replicate 6 0 ++ v4 ++
      List.replicate 18 0
  else
    let all := [0xFF, 2] ++ List.replicate 13 0 ++ [1]
    let rest := [0x20, 0, 0, 0] ++ ip ++ [2, 1] ++ mac
    let sum := icmpSum (ip ++ all ++ bytesBe 4 32 ++ bytesBe 4 58 ++ [136, 0, 0, 0] ++ rest)
    [0x33, 0x33, 0, 0, 0, 1] ++ src ++ tag ++ [0x86, 0xDD, 0x60, 0, 0, 0, 0, 32, 58, 255] ++ ip ++ all ++ [136, 0] ++
      bytesBe 2 sum ++ rest

/-- The library announces each local address of a queue pair that is connected, on each slot that is up (R373). -/
def Fjoek.announce (m : Fjoek) : Fjoek :=
  let own := ((m.xport.qps.map (·.1)).filter fun n => m.qpState n == 2 || m.qpState n == 3).map fun n =>
    (((bytesOf 8 (m.ctxW n 4) ++ bytesOf 8 (m.ctxW n 5)).map BitVec.toNat), m.ctxF n 7 59 48)
  m.each ((List.range 32).filter fun p => m.isOn (NETP_SSTAT_up p)) fun p m =>
    m.each own.eraseDups fun a m =>
      m.send (.frame p ((announcement (bytesBe 6 (m.slotMac p)) (bytesBe 6 (m.reg FWD_RMAC_LO + 2 ^ 32 * m.reg FWD_RMAC_HI)) a.1 a.2).map
        (BitVec.ofNat 8)))

/-- TAKEOVER_REPLAY_END. -/
def execTakeoverReplayEnd (unread : List (Nat × Nat)) (s : State) := s.onFuses fun f m =>
  if m.get TWIN_STAT_phase ≠ 6 then m
  else
    let m := replayRest f m.twin.ring.length (m.replay f)
    let m := (((m.put TWIN_STAT_sync 0).put TWIN_STAT_solo 1).put TWIN_STAT_phase 0).leaveInstep
    let m := m.setTwin { m.twin with frozen := false, own := [], peer := [], uncompared := [], dispatchStopped := false }
    let m := m.newLead.recoverLibrary unread
    let m := (m.each (List.range 24) fun p m => m.resubmit p).each (m.xport.qps.map (·.1)) fun n m => m.recoverContext n
    m.reloadSlates.announce.settleFences.dispatch

end Sys2Proof.Machine
end

