-- ==== Sys2Proof/Machine/Dispatch.lean ====
section
/-! DEFINITION. The command table: each command and its meaning, in the order of spec/opcode_table.json. -/

namespace Sys2Proof.Machine

/-- The effect of a command on everything but the queue. -/
def exec (i : Instr) (s : State) : Host.Outcome State Fault Refusal :=
  match i with
  | .registerWrite v1 v2 v3 => Sys2Proof.Machine.execRegisterWrite v1 v2 v3 s
  | .misalignedRegisterAccess v1 v2 v3 => Sys2Proof.Machine.execMisalignedRegisterAccess v1 v2 v3 s
  | .accessIntoStoppedDomain v1 v2 v3 => Sys2Proof.Machine.execAccessIntoStoppedDomain v1 v2 v3 s
  | .readClear v1 v2 => Sys2Proof.Machine.execReadClear v1 v2 s
  | .wideValueLowWordRead v1 v2 => Sys2Proof.Machine.execWideValueLowWordRead v1 v2 s
  | .sealSet v1 v2 => Sys2Proof.Machine.execSealSet v1 v2 s
  | .feedOn => Sys2Proof.Machine.execFeedOn s
  | .hearthRstNAssert => Sys2Proof.Machine.execHearthRstNAssert s
  | .hearthResetDone => Sys2Proof.Machine.execHearthResetDone s
  | .strapSample v1 => Sys2Proof.Machine.execStrapSample v1 s
  | .powerOff => Sys2Proof.Machine.execPowerOff s
  | .xtalFail => Sys2Proof.Machine.execXtalFail s
  | .kindleNFall => Sys2Proof.Machine.execKindleNFall s
  | .hearthAlarmMatch => Sys2Proof.Machine.execHearthAlarmMatch s
  | .serve => Sys2Proof.Machine.execServe s
  | .bank => Sys2Proof.Machine.execBank s
  | .sleep => Sys2Proof.Machine.execSleep s
  | .krst => Sys2Proof.Machine.execKrst s
  | .hrst => Sys2Proof.Machine.execHrst s
  | .railEnableNext => Sys2Proof.Machine.execRailEnableNext s
  | .railFailure => Sys2Proof.Machine.execRailFailure s
  | .railFault v1 => Sys2Proof.Machine.execRailFault v1 s
  | .railDisableNext => Sys2Proof.Machine.execRailDisableNext s
  | .railRetry => Sys2Proof.Machine.execRailRetry s
  | .managementPllLock => Sys2Proof.Machine.execManagementPllLock s
  | .bootHandoff => Sys2Proof.Machine.execBootHandoff s
  | .recoveryImageReceive v1 => Sys2Proof.Machine.execRecoveryImageReceive v1 s
  | .recoveryTransferTimeout => Sys2Proof.Machine.execRecoveryTransferTimeout s
  | .thermalShutdown v1 v2 => Sys2Proof.Machine.execThermalShutdown v1 v2 s
  | .thermalRestart v1 => Sys2Proof.Machine.execThermalRestart v1 s
  | .watchdogKick => Sys2Proof.Machine.execWatchdogKick s
  | .watchdogStage1Expiry => Sys2Proof.Machine.execWatchdogStage1Expiry s
  | .watchdogStage2Expiry => Sys2Proof.Machine.execWatchdogStage2Expiry s
  | .watchdogStage3Expiry => Sys2Proof.Machine.execWatchdogStage3Expiry s
  | .managementReset => Sys2Proof.Machine.execManagementReset s
  | .blockResetNetp v1 => Sys2Proof.Machine.execBlockResetNetp v1 s
  | .blockResetSwc v1 => Sys2Proof.Machine.execBlockResetSwc v1 s
  | .blockResetFwd => Sys2Proof.Machine.execBlockResetFwd s
  | .blockResetXport => Sys2Proof.Machine.execBlockResetXport s
  | .blockResetThim => Sys2Proof.Machine.execBlockResetThim s
  | .blockResetSeam v1 => Sys2Proof.Machine.execBlockResetSeam v1 s
  | .blockResetMngl v1 => Sys2Proof.Machine.execBlockResetMngl v1 s
  | .blockResetStrp => Sys2Proof.Machine.execBlockResetStrp s
  | .blockResetDarn => Sys2Proof.Machine.execBlockResetDarn s
  | .blockResetDrv v1 => Sys2Proof.Machine.execBlockResetDrv v1 s
  | .blockResetAtt => Sys2Proof.Machine.execBlockResetAtt s
  | .blockResetTwin => Sys2Proof.Machine.execBlockResetTwin s
  | .blockResetEvt => Sys2Proof.Machine.execBlockResetEvt s
  | .blockResetPmon => Sys2Proof.Machine.execBlockResetPmon s
  | .blockResetDamp => Sys2Proof.Machine.execBlockResetDamp s
  | .otpProgram v1 v2 v3 => Sys2Proof.Machine.execOtpProgram v1 v2 v3 s
  | .otpSeal v1 => Sys2Proof.Machine.execOtpSeal v1 s
  | .otpArb => Sys2Proof.Machine.execOtpArb s
  | .otpCommandDone v1 => Sys2Proof.Machine.execOtpCommandDone v1 s
  | .add v1 v2 v3 v4 => Sys2Proof.Machine.execAdd v1 v2 v3 v4 s
  | .sub v1 v2 v3 v4 => Sys2Proof.Machine.execSub v1 v2 v3 v4 s
  | .and v1 v2 v3 v4 => Sys2Proof.Machine.execAnd v1 v2 v3 v4 s
  | .or v1 v2 v3 v4 => Sys2Proof.Machine.execOr v1 v2 v3 v4 s
  | .xor v1 v2 v3 v4 => Sys2Proof.Machine.execXor v1 v2 v3 v4 s
  | .andn v1 v2 v3 v4 => Sys2Proof.Machine.execAndn v1 v2 v3 v4 s
  | .shl v1 v2 v3 v4 => Sys2Proof.Machine.execShl v1 v2 v3 v4 s
  | .shr v1 v2 v3 v4 => Sys2Proof.Machine.execShr v1 v2 v3 v4 s
  | .sar v1 v2 v3 v4 => Sys2Proof.Machine.execSar v1 v2 v3 v4 s
  | .rol v1 v2 v3 v4 => Sys2Proof.Machine.execRol v1 v2 v3 v4 s
  | .mul v1 v2 v3 v4 => Sys2Proof.Machine.execMul v1 v2 v3 v4 s
  | .mulhu v1 v2 v3 v4 => Sys2Proof.Machine.execMulhu v1 v2 v3 v4 s
  | .mulhs v1 v2 v3 v4 => Sys2Proof.Machine.execMulhs v1 v2 v3 v4 s
  | .min v1 v2 v3 v4 => Sys2Proof.Machine.execMin v1 v2 v3 v4 s
  | .max v1 v2 v3 v4 => Sys2Proof.Machine.execMax v1 v2 v3 v4 s
  | .minu v1 v2 v3 v4 => Sys2Proof.Machine.execMinu v1 v2 v3 v4 s
  | .maxu v1 v2 v3 v4 => Sys2Proof.Machine.execMaxu v1 v2 v3 v4 s
  | .clz v1 v2 v3 => Sys2Proof.Machine.execClz v1 v2 v3 s
  | .popc v1 v2 v3 => Sys2Proof.Machine.execPopc v1 v2 v3 s
  | .bswap v1 v2 v3 => Sys2Proof.Machine.execBswap v1 v2 v3 s
  | .sel v1 v2 v3 v4 v5 => Sys2Proof.Machine.execSel v1 v2 v3 v4 v5 s
  | .bfx v1 v2 v3 v4 v5 => Sys2Proof.Machine.execBfx v1 v2 v3 v4 v5 s
  | .bfi v1 v2 v3 v4 v5 => Sys2Proof.Machine.execBfi v1 v2 v3 v4 v5 s
  | .gfmul v1 v2 v3 v4 => Sys2Proof.Machine.execGfmul v1 v2 v3 v4 s
  | .crc32c v1 v2 v3 => Sys2Proof.Machine.execCrc32c v1 v2 v3 s
  | .addi v1 v2 v3 v4 => Sys2Proof.Machine.execAddi v1 v2 v3 v4 s
  | .andi v1 v2 v3 v4 => Sys2Proof.Machine.execAndi v1 v2 v3 v4 s
  | .ori v1 v2 v3 v4 => Sys2Proof.Machine.execOri v1 v2 v3 v4 s
  | .xori v1 v2 v3 v4 => Sys2Proof.Machine.execXori v1 v2 v3 v4 s
  | .shli v1 v2 v3 v4 => Sys2Proof.Machine.execShli v1 v2 v3 v4 s
  | .shri v1 v2 v3 v4 => Sys2Proof.Machine.execShri v1 v2 v3 v4 s
  | .sari v1 v2 v3 v4 => Sys2Proof.Machine.execSari v1 v2 v3 v4 s
  | .li v1 v2 v3 => Sys2Proof.Machine.execLi v1 v2 v3 s
  | .lih v1 v2 v3 => Sys2Proof.Machine.execLih v1 v2 v3 s
  | .cmpeq v1 v2 v3 v4 v5 => Sys2Proof.Machine.execCmpeq v1 v2 v3 v4 v5 s
  | .cmpne v1 v2 v3 v4 v5 => Sys2Proof.Machine.execCmpne v1 v2 v3 v4 v5 s
  | .cmplt v1 v2 v3 v4 v5 => Sys2Proof.Machine.execCmplt v1 v2 v3 v4 v5 s
  | .cmple v1 v2 v3 v4 v5 => Sys2Proof.Machine.execCmple v1 v2 v3 v4 v5 s
  | .cmpltu v1 v2 v3 v4 v5 => Sys2Proof.Machine.execCmpltu v1 v2 v3 v4 v5 s
  | .cmpleu v1 v2 v3 v4 v5 => Sys2Proof.Machine.execCmpleu v1 v2 v3 v4 v5 s
  | .tst v1 v2 v3 v4 v5 => Sys2Proof.Machine.execTst v1 v2 v3 v4 v5 s
  | .cmpeqi v1 v2 v3 v4 v5 => Sys2Proof.Machine.execCmpeqi v1 v2 v3 v4 v5 s
  | .cmplti v1 v2 v3 v4 v5 => Sys2Proof.Machine.execCmplti v1 v2 v3 v4 v5 s
  | .cmpltui v1 v2 v3 v4 v5 => Sys2Proof.Machine.execCmpltui v1 v2 v3 v4 v5 s
  | .plog v1 v2 v3 v4 v5 => Sys2Proof.Machine.execPlog v1 v2 v3 v4 v5 s
  | .br v1 v2 => Sys2Proof.Machine.execBr v1 v2 s
  | .call v1 v2 => Sys2Proof.Machine.execCall v1 v2 s
  | .brr v1 v2 => Sys2Proof.Machine.execBrr v1 v2 s
  | .callr v1 v2 => Sys2Proof.Machine.execCallr v1 v2 s
  | .ret v1 => Sys2Proof.Machine.execRet v1 s
  | .jtab v1 v2 v3 v4 => Sys2Proof.Machine.execJtab v1 v2 v3 v4 s
  | .loop v1 v2 v3 => Sys2Proof.Machine.execLoop v1 v2 v3 s
  | .ldb v1 v2 v3 v4 => Sys2Proof.Machine.execLdb v1 v2 v3 v4 s
  | .ldh v1 v2 v3 v4 => Sys2Proof.Machine.execLdh v1 v2 v3 v4 s
  | .ldw v1 v2 v3 v4 => Sys2Proof.Machine.execLdw v1 v2 v3 v4 s
  | .ldd v1 v2 v3 v4 => Sys2Proof.Machine.execLdd v1 v2 v3 v4 s
  | .ldbs v1 v2 v3 v4 => Sys2Proof.Machine.execLdbs v1 v2 v3 v4 s
  | .ldhs v1 v2 v3 v4 => Sys2Proof.Machine.execLdhs v1 v2 v3 v4 s
  | .ldws v1 v2 v3 v4 => Sys2Proof.Machine.execLdws v1 v2 v3 v4 s
  | .stb v1 v2 v3 v4 => Sys2Proof.Machine.execStb v1 v2 v3 v4 s
  | .sth v1 v2 v3 v4 => Sys2Proof.Machine.execSth v1 v2 v3 v4 s
  | .stw v1 v2 v3 v4 => Sys2Proof.Machine.execStw v1 v2 v3 v4 s
  | .std v1 v2 v3 v4 => Sys2Proof.Machine.execStd v1 v2 v3 v4 s
  | .lcas v1 v2 v3 v4 v5 => Sys2Proof.Machine.execLcas v1 v2 v3 v4 v5 s
  | .lfadd v1 v2 v3 v4 v5 => Sys2Proof.Machine.execLfadd v1 v2 v3 v4 v5 s
  | .hld v1 v2 v3 v4 v5 => Sys2Proof.Machine.execHld v1 v2 v3 v4 v5 s
  | .hst v1 v2 v3 v4 => Sys2Proof.Machine.execHst v1 v2 v3 v4 s
  | .hcas v1 v2 v3 v4 v5 v6 => Sys2Proof.Machine.execHcas v1 v2 v3 v4 v5 v6 s
  | .hfadd v1 v2 v3 v4 v5 v6 => Sys2Proof.Machine.execHfadd v1 v2 v3 v4 v5 v6 s
  | .lease v1 v2 v3 => Sys2Proof.Machine.execLease v1 v2 v3 s
  | .lsize v1 v2 v3 => Sys2Proof.Machine.execLsize v1 v2 v3 s
  | .lrel v1 v2 => Sys2Proof.Machine.execLrel v1 v2 s
  | .bld v1 v2 v3 v4 v5 v6 => Sys2Proof.Machine.execBld v1 v2 v3 v4 v5 v6 s
  | .bst v1 v2 v3 v4 v5 => Sys2Proof.Machine.execBst v1 v2 v3 v4 v5 s
  | .rld v1 v2 v3 v4 => Sys2Proof.Machine.execRld v1 v2 v3 v4 s
  | .rst v1 v2 v3 v4 => Sys2Proof.Machine.execRst v1 v2 v3 v4 s
  | .bulk v1 v2 => Sys2Proof.Machine.execBulk v1 v2 s
  | .tbulk v1 v2 v3 => Sys2Proof.Machine.execTbulk v1 v2 v3 s
  | .bqfree v1 v2 => Sys2Proof.Machine.execBqfree v1 v2 s
  | .wait v1 v2 v3 => Sys2Proof.Machine.execWait v1 v2 v3 s
  | .post v1 v2 v3 v4 => Sys2Proof.Machine.execPost v1 v2 v3 v4 s
  | .timer v1 v2 => Sys2Proof.Machine.execTimer v1 v2 s
  | .tagcnt v1 v2 v3 => Sys2Proof.Machine.execTagcnt v1 v2 v3 s
  | .waiti v1 v2 v3 v4 v5 v6 => Sys2Proof.Machine.execWaiti v1 v2 v3 v4 v5 v6 s
  | .draw v1 v2 v3 v4 => Sys2Proof.Machine.execDraw v1 v2 v3 v4 s
  | .refund v1 v2 => Sys2Proof.Machine.execRefund v1 v2 s
  | .classSet v1 v2 v3 v4 => Sys2Proof.Machine.execClassSet v1 v2 v3 v4 s
  | .note v1 v2 v3 => Sys2Proof.Machine.execNote v1 v2 v3 s
  | .fence v1 v2 => Sys2Proof.Machine.execFence v1 v2 s
  | .qld v1 v2 v3 v4 => Sys2Proof.Machine.execQld v1 v2 v3 v4 s
  | .qst v1 v2 v3 v4 => Sys2Proof.Machine.execQst v1 v2 v3 v4 s
  | .qcas v1 v2 v3 v4 v5 => Sys2Proof.Machine.execQcas v1 v2 v3 v4 v5 s
  | .kld v1 v2 v3 v4 => Sys2Proof.Machine.execKld v1 v2 v3 v4 s
  | .kst v1 v2 v3 v4 => Sys2Proof.Machine.execKst v1 v2 v3 v4 s
  | .qrate v1 v2 v3 => Sys2Proof.Machine.execQrate v1 v2 v3 s
  | .qpref v1 v2 => Sys2Proof.Machine.execQpref v1 v2 s
  | .nop v1 => Sys2Proof.Machine.execNop v1 s
  | .yieldScan v1 => Sys2Proof.Machine.execYieldScan v1 s
  | .rdtime v1 v2 => Sys2Proof.Machine.execRdtime v1 v2 s
  | .rdcnt v1 v2 v3 => Sys2Proof.Machine.execRdcnt v1 v2 v3 s
  | .rdid v1 v2 => Sys2Proof.Machine.execRdid v1 v2 s
  | .rand v1 v2 => Sys2Proof.Machine.execRand v1 v2 s
  | .mfence v1 => Sys2Proof.Machine.execMfence v1 s
  | .evset v1 v2 v3 => Sys2Proof.Machine.execEvset v1 v2 v3 s
  | .accessComplete v1 v2 v3 v4 => Sys2Proof.Machine.execAccessComplete v1 v2 v3 v4 s
  | .tagPostArrival v1 => Sys2Proof.Machine.execTagPostArrival v1 s
  | .strandTimerExpiry v1 v2 => Sys2Proof.Machine.execStrandTimerExpiry v1 v2 s
  | .strandReset v1 v2 => Sys2Proof.Machine.execStrandReset v1 v2 s
  | .strandResetRestart v1 v2 => Sys2Proof.Machine.execStrandResetRestart v1 v2 s
  | .engineResetRestart v1 => Sys2Proof.Machine.execEngineResetRestart v1 s
  | .groupDrainWrite v1 v2 => Sys2Proof.Machine.execGroupDrainWrite v1 v2 s
  | .groupDrainTimeout v1 => Sys2Proof.Machine.execGroupDrainTimeout v1 s
  | .enginePark v1 v2 => Sys2Proof.Machine.execEnginePark v1 v2 s
  | .instepEnable => Sys2Proof.Machine.execInstepEnable s
  | .instepDisable => Sys2Proof.Machine.execInstepDisable s
  | .loaderVerify => Sys2Proof.Machine.execLoaderVerify s
  | .loaderVerifyDone => Sys2Proof.Machine.execLoaderVerifyDone s
  | .loaderCommit v1 => Sys2Proof.Machine.execLoaderCommit v1 s
  | .loaderGroupWritten => Sys2Proof.Machine.execLoaderGroupWritten s
  | .loaderAbandon => Sys2Proof.Machine.execLoaderAbandon s
  | .supervisorStrandRecovery v1 v2 v3 => Sys2Proof.Machine.execSupervisorStrandRecovery v1 v2 v3 s
  | .descriptorHeadCheck v1 v2 => Sys2Proof.Machine.execDescriptorHeadCheck v1 v2 s
  | .bulkMove v1 => Sys2Proof.Machine.execBulkMove v1 s
  | .bulkGfmac v1 => Sys2Proof.Machine.execBulkGfmac v1 s
  | .bulkXor v1 => Sys2Proof.Machine.execBulkXor v1 s
  | .bulkFprint v1 => Sys2Proof.Machine.execBulkFprint v1 s
  | .bulkPi v1 => Sys2Proof.Machine.execBulkPi v1 s
  | .bulkXts v1 => Sys2Proof.Machine.execBulkXts v1 s
  | .bulkHash v1 => Sys2Proof.Machine.execBulkHash v1 s
  | .bulkFill v1 => Sys2Proof.Machine.execBulkFill v1 s
  | .bulkCompare v1 => Sys2Proof.Machine.execBulkCompare v1 s
  | .descriptorComplete v1 => Sys2Proof.Machine.execDescriptorComplete v1 s
  | .xtsKeyLoad v1 => Sys2Proof.Machine.execXtsKeyLoad v1 s
  | .xtsKeyErase v1 => Sys2Proof.Machine.execXtsKeyErase v1 s
  | .xtsKeyCommandDone => Sys2Proof.Machine.execXtsKeyCommandDone s
  | .fpzCommit v1 => Sys2Proof.Machine.execFpzCommit v1 s
  | .hostRead v1 v2 v3 v4 => Sys2Proof.Machine.execHostRead v1 v2 v3 v4 s
  | .hostWrite v1 v2 v3 v4 v5 v6 v7 v8 v9 v10 => Sys2Proof.Machine.execHostWrite v1 v2 v3 v4 v5 v6 v7 v8 v9 v10 s
  | .nvmeFlush v1 v2 => Sys2Proof.Machine.execNvmeFlush v1 v2 s
  | .destage v1 v2 v3 v4 v5 => Sys2Proof.Machine.execDestage v1 v2 v3 v4 v5 s
  | .cacheFill => Sys2Proof.Machine.execCacheFill s
  | .retirementTimeout v1 => Sys2Proof.Machine.execRetirementTimeout v1 s
  | .namespaceZeroingDone v1 => Sys2Proof.Machine.execNamespaceZeroingDone v1 s
  | .poolAssembly v1 v2 v3 v4 v5 => Sys2Proof.Machine.execPoolAssembly v1 v2 v3 v4 v5 s
  | .rejoinWindowExpiry v1 v2 => Sys2Proof.Machine.execRejoinWindowExpiry v1 v2 s
  | .resyncRegion v1 v2 => Sys2Proof.Machine.execResyncRegion v1 v2 s
  | .remirrorDone v1 => Sys2Proof.Machine.execRemirrorDone v1 s
  | .rebuildStep v1 v2 v3 => Sys2Proof.Machine.execRebuildStep v1 v2 v3 s
  | .cursorCheckpoint v1 v2 => Sys2Proof.Machine.execCursorCheckpoint v1 v2 s
  | .copyBackBatch v1 v2 => Sys2Proof.Machine.execCopyBackBatch v1 v2 s
  | .reshapeUnitMove v1 v2 => Sys2Proof.Machine.execReshapeUnitMove v1 v2 s
  | .c3Starved v1 => Sys2Proof.Machine.execC3Starved v1 s
  | .perstDeassert v1 => Sys2Proof.Machine.execPerstDeassert v1 s
  | .portDisable v1 => Sys2Proof.Machine.execPortDisable v1 s
  | .portRelease v1 => Sys2Proof.Machine.execPortRelease v1 s
  | .driveLinkUp v1 v2 v3 => Sys2Proof.Machine.execDriveLinkUp v1 v2 v3 s
  | .driveEnumeration v1 v2 => Sys2Proof.Machine.execDriveEnumeration v1 v2 s
  | .drivePresenceChange v1 v2 => Sys2Proof.Machine.execDrivePresenceChange v1 v2 s
  | .driveLinkDown v1 => Sys2Proof.Machine.execDriveLinkDown v1 s
  | .driveTempPoll v1 v2 => Sys2Proof.Machine.execDriveTempPoll v1 v2 s
  | .driveInboundRequest v1 v2 v3 v4 v5 v6 => Sys2Proof.Machine.execDriveInboundRequest v1 v2 v3 v4 v5 v6 s
  | .msiReceiverWrite v1 v2 => Sys2Proof.Machine.execMsiReceiverWrite v1 v2 s
  | .completionPollTimer v1 => Sys2Proof.Machine.execCompletionPollTimer v1 s
  | .rawCommand v1 v2 => Sys2Proof.Machine.execRawCommand v1 v2 s
  | .driveCommandTimeout v1 => Sys2Proof.Machine.execDriveCommandTimeout v1 s
  | .powerStateRequest v1 v2 => Sys2Proof.Machine.execPowerStateRequest v1 v2 s
  | .fenceGo => Sys2Proof.Machine.execFenceGo s
  | .fenceClear => Sys2Proof.Machine.execFenceClear s
  | .fenceTimeout v1 => Sys2Proof.Machine.execFenceTimeout v1 s
  | .aerMessage v1 v2 => Sys2Proof.Machine.execAerMessage v1 v2 s
  | .drvConfigAccess v1 v2 v3 => Sys2Proof.Machine.execDrvConfigAccess v1 v2 v3 s
  | .slotEnable v1 => Sys2Proof.Machine.execSlotEnable v1 s
  | .slotDisable v1 => Sys2Proof.Machine.execSlotDisable v1 s
  | .quadModeWrite v1 v2 => Sys2Proof.Machine.execQuadModeWrite v1 v2 s
  | .quadModeChangeDone v1 => Sys2Proof.Machine.execQuadModeChangeDone v1 s
  | .lanesOn v1 => Sys2Proof.Machine.execLanesOn v1 s
  | .linkAligned v1 => Sys2Proof.Machine.execLinkAligned v1 s
  | .linkQualified v1 => Sys2Proof.Machine.execLinkQualified v1 s
  | .linkFault v1 v2 => Sys2Proof.Machine.execLinkFault v1 v2 s
  | .linkFaultClear v1 => Sys2Proof.Machine.execLinkFaultClear v1 s
  | .linkDown v1 v2 => Sys2Proof.Machine.execLinkDown v1 v2 s
  | .frameReceive v1 v2 v3 v4 v5 v6 => Sys2Proof.Machine.execFrameReceive v1 v2 v3 v4 v5 v6 s
  | .pauseReceive v1 v2 => Sys2Proof.Machine.execPauseReceive v1 v2 s
  | .pfcReceive v1 v2 v3 => Sys2Proof.Machine.execPfcReceive v1 v2 v3 s
  | .pauseExpiry v1 v2 => Sys2Proof.Machine.execPauseExpiry v1 v2 s
  | .xoffRepeat v1 => Sys2Proof.Machine.execXoffRepeat v1 s
  | .pfcWatchdogRelease v1 v2 => Sys2Proof.Machine.execPfcWatchdogRelease v1 v2 s
  | .egressDequeue v1 v2 => Sys2Proof.Machine.execEgressDequeue v1 v2 s
  | .holdTimerExpiry v1 => Sys2Proof.Machine.execHoldTimerExpiry v1 s
  | .multicastAgeExpiry v1 => Sys2Proof.Machine.execMulticastAgeExpiry v1 s
  | .internalCopyRetry v1 => Sys2Proof.Machine.execInternalCopyRetry v1 s
  | .boundaryWrite v1 => Sys2Proof.Machine.execBoundaryWrite v1 s
  | .boundaryCellMove => Sys2Proof.Machine.execBoundaryCellMove s
  | .loopbackReentry => Sys2Proof.Machine.execLoopbackReentry s
  | .fwdInsert v1 => Sys2Proof.Machine.execFwdInsert v1 s
  | .fwdReplace v1 => Sys2Proof.Machine.execFwdReplace v1 s
  | .fwdDelete v1 => Sys2Proof.Machine.execFwdDelete v1 s
  | .fwdFind v1 => Sys2Proof.Machine.execFwdFind v1 s
  | .fwdRead v1 => Sys2Proof.Machine.execFwdRead v1 s
  | .fwdWrite v1 => Sys2Proof.Machine.execFwdWrite v1 s
  | .vlanEntryLoad v1 => Sys2Proof.Machine.execVlanEntryLoad v1 s
  | .vlanEntryCommit v1 => Sys2Proof.Machine.execVlanEntryCommit v1 s
  | .agingTick => Sys2Proof.Machine.execAgingTick s
  | .rinseVisit => Sys2Proof.Machine.execRinseVisit s
  | .agingLogPop => Sys2Proof.Machine.execAgingLogPop s
  | .send v1 v2 => Sys2Proof.Machine.execSend v1 v2 s
  | .sendWithInvalidate v1 v2 v3 => Sys2Proof.Machine.execSendWithInvalidate v1 v2 v3 s
  | .rdmaWrite v1 v2 v3 v4 v5 => Sys2Proof.Machine.execRdmaWrite v1 v2 v3 v4 v5 s
  | .rdmaWriteWithImmediate v1 v2 v3 v4 v5 v6 => Sys2Proof.Machine.execRdmaWriteWithImmediate v1 v2 v3 v4 v5 v6 s
  | .rdmaRead v1 v2 v3 v4 => Sys2Proof.Machine.execRdmaRead v1 v2 v3 v4 s
  | .atomicCompareAndSwap v1 v2 v3 v4 v5 => Sys2Proof.Machine.execAtomicCompareAndSwap v1 v2 v3 v4 v5 s
  | .atomicFetchAndAdd v1 v2 v3 v4 => Sys2Proof.Machine.execAtomicFetchAndAdd v1 v2 v3 v4 s
  | .flush v1 v2 v3 v4 v5 v6 => Sys2Proof.Machine.execRdmaFlush v1 v2 v3 v4 v5 v6 s
  | .atomicWrite v1 v2 v3 v4 => Sys2Proof.Machine.execAtomicWrite v1 v2 v3 v4 s
  | .acknowledgement v1 => Sys2Proof.Machine.execAcknowledgement v1 s
  | .sequenceNak v1 => Sys2Proof.Machine.execSequenceNak v1 s
  | .rnrNak v1 v2 => Sys2Proof.Machine.execRnrNak v1 v2 s
  | .nakRemoteAccessError v1 => Sys2Proof.Machine.execNakRemoteAccessError v1 s
  | .nakInvalidRequest v1 => Sys2Proof.Machine.execNakInvalidRequest v1 s
  | .nakRemoteOperationalError v1 => Sys2Proof.Machine.execNakRemoteOperationalError v1 s
  | .readResponse v1 v2 => Sys2Proof.Machine.execReadResponse v1 v2 s
  | .cnp v1 => Sys2Proof.Machine.execCnp v1 s
  | .cmDatagram v1 v2 v3 v4 v5 v6 => Sys2Proof.Machine.execCmDatagram v1 v2 v3 v4 v5 v6 s
  | .reorderGapTimeout v1 => Sys2Proof.Machine.execReorderGapTimeout v1 s
  | .ackTimer v1 => Sys2Proof.Machine.execAckTimer v1 s
  | .retransmissionTimeout v1 => Sys2Proof.Machine.execRetransmissionTimeout v1 s
  | .rnrTimerExpiry v1 => Sys2Proof.Machine.execRnrTimerExpiry v1 s
  | .rnrWaitExpiry v1 => Sys2Proof.Machine.execRnrWaitExpiry v1 s
  | .sprayTimeout v1 => Sys2Proof.Machine.execSprayTimeout v1 s
  | .contextLoadComplete v1 => Sys2Proof.Machine.execContextLoadComplete v1 s
  | .shaperRelease v1 => Sys2Proof.Machine.execShaperRelease v1 s
  | .qpAlloc => Sys2Proof.Machine.execQpAlloc s
  | .qpFree v1 => Sys2Proof.Machine.execQpFree v1 s
  | .cmTransmit v1 => Sys2Proof.Machine.execCmTransmit v1 s
  | .ccRingConsume v1 v2 => Sys2Proof.Machine.execCcRingConsume v1 v2 s
  | .keyAlloc => Sys2Proof.Machine.execKeyAlloc s
  | .keyRegister v1 => Sys2Proof.Machine.execKeyRegister v1 s
  | .keyRevoke => Sys2Proof.Machine.execKeyRevoke s
  | .keyRead v1 => Sys2Proof.Machine.execKeyRead v1 s
  | .keyRelease v1 => Sys2Proof.Machine.execKeyRelease v1 s
  | .slateAccessComplete v1 => Sys2Proof.Machine.execSlateAccessComplete v1 s
  | .revocationLogPop => Sys2Proof.Machine.execRevocationLogPop s
  | .slateDescriptorReload v1 => Sys2Proof.Machine.execSlateDescriptorReload v1 s
  | .flushRequestService => Sys2Proof.Machine.execFlushRequestService s
  | .flushDone v1 => Sys2Proof.Machine.execFlushDone v1 s
  | .mirrorAck v1 => Sys2Proof.Machine.execMirrorAck v1 s
  | .sealedKeyLoad v1 => Sys2Proof.Machine.execSealedKeyLoad v1 s
  | .sealedKeyErase v1 => Sys2Proof.Machine.execSealedKeyErase v1 s
  | .attLinkUp v1 v2 v3 => Sys2Proof.Machine.execAttLinkUp v1 v2 v3 s
  | .bar0Access v1 v2 v3 v4 => Sys2Proof.Machine.execBar0Access v1 v2 v3 v4 s
  | .bar0AccessTimeout v1 v2 v3 => Sys2Proof.Machine.execBar0AccessTimeout v1 v2 v3 s
  | .doorbellWrite v1 v2 v3 => Sys2Proof.Machine.execDoorbellWrite v1 v2 v3 s
  | .doorbellRingConsume v1 v2 => Sys2Proof.Machine.execDoorbellRingConsume v1 v2 s
  | .busMasterDisable v1 => Sys2Proof.Machine.execBusMasterDisable v1 s
  | .busMasterEnable v1 => Sys2Proof.Machine.execBusMasterEnable v1 s
  | .flr v1 => Sys2Proof.Machine.execFlr v1 s
  | .flrComplete v1 => Sys2Proof.Machine.execFlrComplete v1 s
  | .conventionalReset v1 => Sys2Proof.Machine.execConventionalReset v1 s
  | .d3hotEntry => Sys2Proof.Machine.execD3hotEntry s
  | .d0Entry => Sys2Proof.Machine.execD0Entry s
  | .pciConfigWrite v1 v2 v3 => Sys2Proof.Machine.execPciConfigWrite v1 v2 v3 s
  | .attCompletion v1 v2 v3 => Sys2Proof.Machine.execAttCompletion v1 v2 v3 s
  | .completionTimeout v1 => Sys2Proof.Machine.execCompletionTimeout v1 s
  | .quarantineEnd v1 => Sys2Proof.Machine.execQuarantineEnd v1 s
  | .interruptRaise v1 v2 => Sys2Proof.Machine.execInterruptRaise v1 v2 s
  | .intxStatusClear v1 => Sys2Proof.Machine.execIntxStatusClear v1 s
  | .wakeRequest => Sys2Proof.Machine.execWakeRequest s
  | .pmeRepeat => Sys2Proof.Machine.execPmeRepeat s
  | .pair v1 => Sys2Proof.Machine.execPair v1 s
  | .break_ => Sys2Proof.Machine.execBreak s
  | .swap => Sys2Proof.Machine.execSwap s
  | .resync v1 => Sys2Proof.Machine.execResync v1 s
  | .resyncCopyDone => Sys2Proof.Machine.execResyncCopyDone s
  | .resyncFreezeDrained v1 => Sys2Proof.Machine.execResyncFreezeDrained v1 s
  | .resyncFreezeTimeout => Sys2Proof.Machine.execResyncFreezeTimeout s
  | .resyncRetry => Sys2Proof.Machine.execResyncRetry s
  | .autoresync => Sys2Proof.Machine.execAutoresync s
  | .heartbeatToggle v1 v2 => Sys2Proof.Machine.execHeartbeatToggle v1 v2 s
  | .heartbeatLoss => Sys2Proof.Machine.execHeartbeatLoss s
  | .takeoverReplayEnd v1 => Sys2Proof.Machine.execTakeoverReplayEnd v1 s
  | .cede => Sys2Proof.Machine.execCede s
  | .twinLinkDown v1 => Sys2Proof.Machine.execTwinLinkDown v1 s
  | .twinLinkUp => Sys2Proof.Machine.execTwinLinkUp s
  | .logFrame v1 v2 => Sys2Proof.Machine.execLogFrame v1 v2 s
  | .logItem v1 v2 v3 v4 v5 v6 => Sys2Proof.Machine.execLogItem v1 v2 v3 v4 v5 v6 s
  | .logDcomp v1 v2 v3 v4 => Sys2Proof.Machine.execLogDcomp v1 v2 v3 v4 s
  | .logXcomp v1 v2 v3 v4 v5 v6 v7 v8 => Sys2Proof.Machine.execLogXcomp v1 v2 v3 v4 v5 v6 v7 v8 s
  | .logAttrec v1 v2 v3 v4 v5 => Sys2Proof.Machine.execLogAttrec v1 v2 v3 v4 v5 s
  | .logTimer v1 v2 v3 => Sys2Proof.Machine.execLogTimer v1 v2 v3 s
  | .logGrant v1 v2 v3 v4 => Sys2Proof.Machine.execLogGrant v1 v2 v3 v4 s
  | .logValue v1 v2 => Sys2Proof.Machine.execLogValue v1 v2 s
  | .logEvent v1 v2 v3 => Sys2Proof.Machine.execLogEvent v1 v2 v3 s
  | .logCmd v1 v2 v3 => Sys2Proof.Machine.execLogCmd v1 v2 v3 s
  | .logLink v1 v2 v3 v4 v5 => Sys2Proof.Machine.execLogLink v1 v2 v3 v4 v5 s
  | .logMirror v1 v2 v3 => Sys2Proof.Machine.execLogMirror v1 v2 v3 s
  | .logEpoch v1 v2 v3 => Sys2Proof.Machine.execLogEpoch v1 v2 v3 s
  | .logDigest v1 v2 v3 => Sys2Proof.Machine.execLogDigest v1 v2 v3 s
  | .logHorizon v1 v2 => Sys2Proof.Machine.execLogHorizon v1 v2 s
  | .logSwap v1 => Sys2Proof.Machine.execLogSwap v1 s
  | .logAck v1 v2 => Sys2Proof.Machine.execLogAck v1 v2 s
  | .backlogBreak => Sys2Proof.Machine.execBacklogBreak s
  | .epochRecord => Sys2Proof.Machine.execEpochRecord s
  | .epochClose => Sys2Proof.Machine.execEpochClose s
  | .selfCheckResult v1 v2 => Sys2Proof.Machine.execSelfCheckResult v1 v2 s
  | .selfCheckTimeout => Sys2Proof.Machine.execSelfCheckTimeout s
  | .digestTimeout => Sys2Proof.Machine.execDigestTimeout s
  | .healthReport v1 v2 v3 v4 => Sys2Proof.Machine.execHealthReport v1 v2 v3 v4 s
  | .peerEvent v1 => Sys2Proof.Machine.execPeerEvent v1 s
  | .feedCmdOn => Sys2Proof.Machine.execFeedCmdOn s
  | .feedCmdOff => Sys2Proof.Machine.execFeedCmdOff s
  | .feedCmdClr => Sys2Proof.Machine.execFeedCmdClr s
  | .feedCmdHtest => Sys2Proof.Machine.execFeedCmdHtest s
  | .feedTick v1 v2 v3 => Sys2Proof.Machine.execFeedTick v1 v2 v3 s
  | .feedPrechargeDone => Sys2Proof.Machine.execFeedPrechargeDone s
  | .feedRampDone => Sys2Proof.Machine.execFeedRampDone s
  | .feedFullyOn => Sys2Proof.Machine.execFeedFullyOn s
  | .feedFaultTimerExpiry => Sys2Proof.Machine.execFeedFaultTimerExpiry s
  | .feedFastTrip => Sys2Proof.Machine.execFeedFastTrip s
  | .feedModelTrip => Sys2Proof.Machine.execFeedModelTrip s
  | .feedDiodeRead v1 => Sys2Proof.Machine.execFeedDiodeRead v1 s
  | .feedLoss => Sys2Proof.Machine.execFeedLoss s
  | .feedLossEnd => Sys2Proof.Machine.execFeedLossEnd s
  | .feedOvervoltage => Sys2Proof.Machine.execFeedOvervoltage s
  | .feedOvervoltageEnd => Sys2Proof.Machine.execFeedOvervoltageEnd s
  | .feedPgAssert => Sys2Proof.Machine.execFeedPgAssert s
  | .feedRetry => Sys2Proof.Machine.execFeedRetry s
  | .feedRetryCountReset => Sys2Proof.Machine.execFeedRetryCountReset s
  | .holdupTestPeriodic => Sys2Proof.Machine.execHoldupTestPeriodic s
  | .holdupTestMeasure v1 => Sys2Proof.Machine.execHoldupTestMeasure v1 s
  | .bayCmdOn v1 => Sys2Proof.Machine.execBayCmdOn v1 s
  | .bayCmdOff v1 => Sys2Proof.Machine.execBayCmdOff v1 s
  | .bayCmdClr v1 => Sys2Proof.Machine.execBayCmdClr v1 s
  | .bayTick v1 v2 => Sys2Proof.Machine.execBayTick v1 v2 s
  | .bayRampStart v1 => Sys2Proof.Machine.execBayRampStart v1 s
  | .bayFullEnhancement v1 => Sys2Proof.Machine.execBayFullEnhancement v1 s
  | .bayFullyOn v1 => Sys2Proof.Machine.execBayFullyOn v1 s
  | .bayPowerGood v1 => Sys2Proof.Machine.execBayPowerGood v1 s
  | .bayFaultTimerExpiry v1 => Sys2Proof.Machine.execBayFaultTimerExpiry v1 s
  | .bayFastTrip v1 => Sys2Proof.Machine.execBayFastTrip v1 s
  | .bayModelTrip v1 => Sys2Proof.Machine.execBayModelTrip v1 s
  | .bayAuxFault v1 => Sys2Proof.Machine.execBayAuxFault v1 s
  | .bayPresenceDebounced v1 v2 => Sys2Proof.Machine.execBayPresenceDebounced v1 v2 s
  | .bayRetryTimerExpiry v1 => Sys2Proof.Machine.execBayRetryTimerExpiry v1 s
  | .bayRetryCountReset v1 => Sys2Proof.Machine.execBayRetryCountReset v1 s
  | .bayMeasure v1 v2 => Sys2Proof.Machine.execBayMeasure v1 v2 s
  | .bayCalibration v1 v2 => Sys2Proof.Machine.execBayCalibration v1 v2 s
  | .damperPeriod => Sys2Proof.Machine.execDamperPeriod s
  | .policyStall => Sys2Proof.Machine.execPolicyStall s
  | .grantWrite v1 => Sys2Proof.Machine.execGrantWrite v1 s
  | .senseRefresh v1 v2 v3 => Sys2Proof.Machine.execSenseRefresh v1 v2 v3 s
  | .thermalClampRelease => Sys2Proof.Machine.execThermalClampRelease s
  | .dvfsRequest v1 => Sys2Proof.Machine.execDvfsRequest v1 s
  | .dvfsStepDone => Sys2Proof.Machine.execDvfsStepDone s
  | .policyTick => Sys2Proof.Machine.execPolicyTick s
  | .costCalibration v1 => Sys2Proof.Machine.execCostCalibration v1 s
  | .selfTestStrandKnownAnswer v1 => Sys2Proof.Machine.execSelfTestStrandKnownAnswer v1 s
  | .selfTestMemoryMarch v1 => Sys2Proof.Machine.execSelfTestMemoryMarch v1 s
  | .selfTestMangleKnownAnswer v1 => Sys2Proof.Machine.execSelfTestMangleKnownAnswer v1 s
  | .selfTestCellMarch v1 => Sys2Proof.Machine.execSelfTestCellMarch v1 s
  | .selfTestHbmPatrol v1 => Sys2Proof.Machine.execSelfTestHbmPatrol v1 s
  | .selfTestStart => Sys2Proof.Machine.execSelfTestStart s
  | .selfTestDone v1 v2 => Sys2Proof.Machine.execSelfTestDone v1 v2 s
  | .mailboxRequestPost v1 v2 => Sys2Proof.Machine.execMailboxRequestPost v1 v2 s
  | .mailboxReplyPost v1 => Sys2Proof.Machine.execMailboxReplyPost v1 s
  | .mailboxQuiesce => Sys2Proof.Machine.execMailboxQuiesce s
  | .mailboxResume => Sys2Proof.Machine.execMailboxResume s
  | .mailboxNamespace v1 => Sys2Proof.Machine.execMailboxNamespace v1 s
  | .mailboxKey v1 => Sys2Proof.Machine.execMailboxKey v1 s
  | .mailboxPool v1 => Sys2Proof.Machine.execMailboxPool v1 s
  | .mailboxStatus => Sys2Proof.Machine.execMailboxStatus s
  | .mailboxSlate v1 => Sys2Proof.Machine.execMailboxSlate v1 s
  | .softwareLogRecord => Sys2Proof.Machine.execSoftwareLogRecord s
  | .eventRaise v1 => Sys2Proof.Machine.execEventRaise v1 s
  | .mctpMessage v1 v2 v3 v4 => Sys2Proof.Machine.execMctpMessage v1 v2 v3 v4 s
  | .mctpReassemblyTimeout v1 => Sys2Proof.Machine.execMctpReassemblyTimeout v1 s
  | .healthStatusPoll v1 => Sys2Proof.Machine.execHealthStatusPoll v1 s
  | .requestUpdate v1 v2 => Sys2Proof.Machine.execRequestUpdate v1 v2 s
  | .requestFirmwareData v1 => Sys2Proof.Machine.execRequestFirmwareData v1 s
  | .verifyComplete => Sys2Proof.Machine.execVerifyComplete s
  | .applyComplete => Sys2Proof.Machine.execApplyComplete s
  | .activateFirmware => Sys2Proof.Machine.execActivateFirmware s
  | .trialConfirm => Sys2Proof.Machine.execTrialConfirm s
  | .fanFailsafe => Sys2Proof.Machine.execFanFailsafe s
  | .fanFault v1 v2 => Sys2Proof.Machine.execFanFault v1 v2 s
  | .ledShift => Sys2Proof.Machine.execLedShift s
  | .sampleNoIssueTimeout v1 => Sys2Proof.Machine.execSampleNoIssueTimeout v1 s
  | .engineCounterSnapshot v1 => Sys2Proof.Machine.execEngineCounterSnapshot v1 s
  | .epochBoundary => Sys2Proof.Machine.execEpochBoundary s
  | .epochLengthWrite v1 => Sys2Proof.Machine.execEpochLengthWrite v1 s
  | .clockLost v1 => Sys2Proof.Machine.execClockLost v1 s
  | .domainRestart v1 => Sys2Proof.Machine.execDomainRestart v1 s
  | .commandedStopDone v1 => Sys2Proof.Machine.execCommandedStopDone v1 s
  | .hangRecordRead v1 => Sys2Proof.Machine.execHangRecordRead v1 s
  | .hbmPatrol v1 v2 => Sys2Proof.Machine.execHbmPatrol v1 v2 s
  | .sramScrub v1 v2 v3 v4 v5 => Sys2Proof.Machine.execSramScrub v1 v2 v3 v4 v5 s
  | .strandCrossCheck v1 => Sys2Proof.Machine.execStrandCrossCheck v1 s
  | .hearthRstNRelease => Sys2Proof.Machine.execHearthRstNRelease s
  | .bootRecoveryEntry => Sys2Proof.Machine.execBootRecoveryEntry s
  | .recoveryWatchdogKick => Sys2Proof.Machine.execRecoveryWatchdogKick s
  | .thimbleCacheLoadComplete v1 => Sys2Proof.Machine.execThimbleCacheLoadComplete v1 s
  | .horizonRecord => Sys2Proof.Machine.execHorizonRecord s
  | .pfcReleaseEnd v1 v2 => Sys2Proof.Machine.execPfcReleaseEnd v1 v2 s
  | .serdesMarginSample v1 v2 => Sys2Proof.Machine.execSerdesMarginSample v1 v2 s
  | .msixTableWrite v1 v2 v3 v4 v5 => Sys2Proof.Machine.execMsixTableWrite v1 v2 v3 v4 v5 s
  | .heartbeatEdge => Sys2Proof.Machine.execHeartbeatEdge s
  | .logUndefinedKind v1 v2 => Sys2Proof.Machine.execLogUndefinedKind v1 v2 s
  | .unsupportedRequestOpcode v1 => Sys2Proof.Machine.execUnsupportedRequestOpcode v1 s
  | .undefinedWord v1 v2 => Sys2Proof.Machine.execUndefinedWord v1 v2 s

end Sys2Proof.Machine
end

