-- ==== Sys2Proof/Machine/TimeBase.lean ====
section
/-! DEFINITION. What the block does while no command waits: its time base advances (R386; assumption 1). -/

namespace Sys2Proof.Machine

/-- The fast clock runs: a gate of the feed or of a bay channel is on, or the module is kindled (R385). -/
def Fjoek.fastClock (m : Fjoek) : Bool :=
  m.feed.gate != 0 || m.bay.any (fun e => e.2.gate != 0) || decide (2 ≤ m.power ∧ m.power ≤ 4)

/-- The length of the next slow-clock step, and the accumulator after it: 37 of 64 steps are 30,518 ns, the others 30,517 ns,
spread as evenly as whole nanoseconds allow (R386). -/
def slowStep (acc : Nat) : Nat × Nat := (30517 + (acc + 37) / 64, (acc + 37) % 64)

/-- Nanoseconds of the next advance: 1 from the management PLL, 125 from the fast clock, else a slow-clock period. -/
def Fjoek.timeStep (m : Fjoek) : Nat :=
  if m.fastClock then (if m.runs 2 then 1 else 125) else (slowStep m.hearth.slowAcc).1

/-- The time base advances once, and the alarm matches as its second is reached (R388). -/
def Fjoek.tickOnce (m : Fjoek) : Fjoek :=
  if m.hearth.off ∨ !m.hearth.counting then m
  else
    let t := m.time
    let u := t + m.timeStep
    let a := 1000000000 * m.get HEARTH_ALARM_s
    let h := m.hearth
    let m := (if m.fastClock then m else m.setHearth { h with slowAcc := (slowStep h.slowAcc).2 }).setReg64 HEARTH_TIME_LO u
    if m.awake ∧ t < a ∧ a ≤ u then m.alarmMatch else m

/-- An idle step of the block. -/
def State.idle (s : State) : Host.Outcome State Fault Refusal := s.on Fjoek.tickOnce

end Sys2Proof.Machine
end

