-- ==== Sys2Proof/Safety.lean ====
section
/-! DEFINITION. What counts as a safe run of the block, and what a command may leave behind beside its own effect, in the terms
that the statements use. -/

namespace Sys2Proof.Machine

/-- Every fuse that stands programmed in `f` stands programmed in `g` (R400, R402): bits of the ledger are only ever set, and
fuses of the anti-rollback row only ever blown. -/
def Fuses.kept (f g : Fuses) : Prop :=
  (∀ w : Nat, tableGet (fun _ => 0) f.words w &&& tableGet (fun _ => 0) g.words w = tableGet (fun _ => 0) f.words w) ∧
    f.arb ≤ g.arb

/-- What the model keeps between commands is empty: every happening of the last command is counted (R489), and every OTP cell that
it programs is programmed (R402). -/
def State.settled (s : State) : Prop := s.m.tally = [] ∧ s.m.hearth.burn = []

/-- The anti-rollback row has 64 fuses (R400). -/
def State.rowBounded (s : State) : Prop := s.fuses.arb ≤ 64

/-- The OTP array is in its canonical form: words in rising order, none listed that reads 0. -/
def State.fusesWf (s : State) : Prop := tableWf (fun _ => 0) s.fuses.words = true

/-- Nothing keeps a write of the range from HBM: it touches neither the loader's protected region (R49) nor an enabled aperture (R144). -/
def Fjoek.hbmFree (m : Fjoek) (a n : Nat) : Bool := !m.inStaging a n && !m.inAperture a n

/-- The memories are in their canonical form: addresses rise strictly; MRAM and the strands' L list no byte that an unlisted address
reads as, and HBM and the buffer cells list every location written (R547). -/
def Memory.wf (m : Fjoek) : Bool :=
  tableWf (fun _ => 0) m.mram && tableWf (fun _ => 0) m.seam.lmem && tableRising m.hbm && tableRising m.mngl.buf

/-- A step went on: it met no fault and no refusal. -/
def Went (o : Host.Outcome State Fault Refusal) : Prop := ∃ t, o = .next t

/-! ## What latching an event and counting a happening may change -/

/-- The registers that the delivery of latches and the global counters write: EVT_PEND, EVT_LATCHES, MGMT_LOGSEQ and MGMT_LOGLOST,
ATT_INTXST, ATT_WAKE and ATT_IRQDROP, TWIN_LOGREC and TWIN_LOGBYTES, PMON_GCNT and PMON_GOVF (R480, R481, R489). -/
def noting (a : Nat) : Bool :=
  decide (EVT_PEND 0 ≤ a ∧ a < EVT_PEND 16) || decide (a = EVT_LATCHES_LO ∨ a = EVT_LATCHES_LO + 4) ||
    decide (a = MGMT_LOGSEQ_LO ∨ a = MGMT_LOGSEQ_LO + 4 ∨ a = MGMT_LOGLOST) ||
    decide (a = ATT_INTXST ∨ a = ATT_WAKE ∨ a = ATT_IRQDROP_LO ∨ a = ATT_IRQDROP_LO + 4) ||
    decide (a = TWIN_LOGREC_LO ∨ a = TWIN_LOGREC_LO + 4 ∨ a = TWIN_LOGBYTES_LO ∨ a = TWIN_LOGBYTES_LO + 4) ||
    decide (PMON_GCNT_LO 0 ≤ a ∧ a < PMON_GCNT_LO 32) || decide (a = PMON_GOVF)

/-- `n` differs from `m` by no more than the delivery of event latches on the routes of R481 and the counting of happenings: tags
posted, interrupts raised, twin log records, records of the event log in MRAM, messages sent. -/
structure Noted (m n : Fjoek) : Prop where
  reg : ∀ a, noting a = false → n.reg a = m.reg a
  mram : ∀ a, ¬(0x5000000 ≤ a ∧ a < 0x5200000) → n.mramByte a = m.mramByte a
  out : ∃ l, n.out = m.out ++ l
  seam : n.seam = { m.seam with flight := n.seam.flight }
  flight : ∃ l, n.seam.flight = m.seam.flight ++ l
  att : n.att = { m.att with fns := n.att.fns, pba := n.att.pba, inta := n.att.inta, wakeLow := n.att.wakeLow }
  twin : n.twin = { m.twin with nextSeq := n.twin.nextSeq, log := n.twin.log, own := n.twin.own, held := n.twin.held }
  seq : m.twin.nextSeq ≤ n.twin.nextSeq
  mgmt : n.mgmt = { m.mgmt with logRoom := n.mgmt.logRoom, logGap := n.mgmt.logGap }
  hearth : n.hearth = m.hearth
  wide : n.wide = m.wide
  snap : n.snap = m.snap
  era : n.era = m.era
  hbm : n.hbm = m.hbm
  locks : n.locks = m.locks
  poison : n.hbmPoison = m.hbmPoison ∧ n.hbmHidden = m.hbmHidden
  free : n.free = m.free
  mngl : n.mngl = m.mngl
  damp : n.damp = m.damp
  pmon : n.pmon = m.pmon
  feed : n.feed = m.feed
  bay : n.bay = m.bay
  drv : n.drv = m.drv
  lib : n.lib = m.lib
  netp : n.netp = m.netp
  swc : n.swc = m.swc
  fwd : n.fwd = m.fwd
  xport : n.xport = m.xport
  thim : n.thim = m.thim

/-- What stands of unit `u` of HBM beside its bytes: poison, a hidden error, absence on a resyncing twin, and an uncorrectable
pattern where it has not been written (R114, R373, R547). -/
def Fjoek.unitMarks (m : Fjoek) (u : Nat) : Word64 × Word64 × Bool × Bool :=
  (tableGet (fun _ => 0) m.hbmPoison u, tableGet (fun _ => 0) m.hbmHidden u,
    tableGet (fun _ => false) m.twin.absent (2 ^ 29 + u), m.hbmOpenBad u)

/-- What an issued instruction may leave behind beside its own effect: what `Noted` allows, the registers of PMON, the sample rings in
HBM (R491, R492), and with them what a write of HBM makes whole again (R114, R373). The strands but for `flight`, and the scan and the
rounds of the engines (R34, R55), stay. -/
structure Sampled (m n : Fjoek) : Prop where
  reg : ∀ a, noting a = false → ¬(0x80000 ≤ a ∧ a < 0x90000) → n.reg a = m.reg a
  mram : ∀ a, ¬(0x5000000 ≤ a ∧ a < 0x5200000) → n.mramByte a = m.mramByte a
  hbm : ∀ a, ¬(m.get PMON_SBASE_base * 2 ^ 20 ≤ a ∧ a < m.get PMON_SBASE_base * 2 ^ 20 + 2 ^ 20) →
    tableFind n.hbm a = tableFind m.hbm a
  marks : ∀ u, ¬(m.get PMON_SBASE_base * 2 ^ 14 ≤ u ∧ u < m.get PMON_SBASE_base * 2 ^ 14 + 2 ^ 14) →
    n.unitMarks u = m.unitMarks u
  absent : ∀ k, k < 2 ^ 29 → tableGet (fun _ => false) n.twin.absent k = tableGet (fun _ => false) m.twin.absent k
  base : n.get PMON_SBASE_base = m.get PMON_SBASE_base
  out : ∃ l, n.out = m.out ++ l
  seam : n.seam = { m.seam with
    flight := n.seam.flight, last := n.seam.last, offered := n.seam.offered, rounds := n.seam.rounds }
  flight : ∃ l, n.seam.flight = m.seam.flight ++ l
  att : n.att = { m.att with fns := n.att.fns, pba := n.att.pba, inta := n.att.inta, wakeLow := n.att.wakeLow }
  twin : n.twin = { m.twin with
    nextSeq := n.twin.nextSeq, log := n.twin.log, own := n.twin.own, held := n.twin.held
    absent := n.twin.absent, shadow := n.twin.shadow, rewritten := n.twin.rewritten }
  seq : m.twin.nextSeq ≤ n.twin.nextSeq
  mgmt : n.mgmt = { m.mgmt with logRoom := n.mgmt.logRoom, logGap := n.mgmt.logGap }
  hearth : n.hearth = m.hearth
  wide : n.wide = m.wide
  snap : n.snap = m.snap
  era : n.era = m.era
  locks : n.locks = m.locks
  free : n.free = m.free
  mngl : n.mngl = m.mngl
  damp : n.damp = m.damp
  feed : n.feed = m.feed
  bay : n.bay = m.bay
  drv : n.drv = m.drv
  lib : n.lib = m.lib
  netp : n.netp = m.netp
  swc : n.swc = m.swc
  fwd : n.fwd = m.fwd
  xport : n.xport = m.xport
  thim : n.thim = m.thim

/-- The module with every OTP cell programmed that a command set out to program (the model's own field, empty between commands). -/
def Fjoek.unburnt (m : Fjoek) : Fjoek := { m with hearth := { m.hearth with burn := [] } }

/-- The command completes, with `m` as its effect on the module and nothing more than latches delivered and happenings counted; the
queue stays, and fuses are programmed by none but the cells that `m` has to burn. -/
def Does (c : Instr) (s : State) (m : Fjoek) : Prop :=
  ∃ t, exec c s = .next t ∧ t.pending = s.pending ∧ t.fuses = m.hearth.burn.foldl Fuses.burn s.fuses ∧ Noted m.unburnt t.m

/-- The instruction that issues completes, with `m` as its effect and nothing more than latches, counts and samples. -/
def Runs (c : Instr) (s : State) (m : Fjoek) : Prop :=
  ∃ t, exec c s = .next t ∧ t.pending = s.pending ∧ t.fuses = m.hearth.burn.foldl Fuses.burn s.fuses ∧ Sampled m.unburnt t.m

/-- The command completes, the queue stays, and the module that it leaves satisfies `P`. -/
def Ends (c : Instr) (s : State) (P : Fjoek → Prop) : Prop := ∃ t, exec c s = .next t ∧ t.pending = s.pending ∧ P t.m

/-- `n` is what a Kindle reset with a cause makes of `m` (R392), in power state `st`: the units outside the Hearth as State.reset
has them, HBM, the buffers and the strands without their contents, domains 0 and 1 alone running; MRAM, the feed, the bays, the rails'
balls, the time base, the SPI NOR and what stands lost of the clocks stay. -/
structure Kindled (m n : Fjoek) (cause st : Nat) : Prop where
  power : n.power = st
  why : n.get HEARTH_RSTC_kcause = cause
  counted : n.get HEARTH_RSTC_kcount = Nat.min 255 (m.get HEARTH_RSTC_kcount + 1)
  event : n.isOn HEARTH_ESTAT_kreset = true
  domains : n.reg CLK_DOMSTAT = 3
  watchdog : n.get HEARTH_WDT_stage = 0
  contents : n.hbm = [] ∧ n.era = m.era + 1 ∧ n.mngl = mnglInit ∧ n.locks = [] ∧ n.hbmPoison = [] ∧ n.hbmHidden = []
  strands : n.seam = { seamInit with flight := n.seam.flight }
  units : n.damp = dampInit ∧ n.drv = drvInit ∧ n.netp = netpInit ∧ n.swc = swcInit ∧ n.fwd = fwdInit ∧
    n.xport = xportInit ∧ n.thim = thimInit
  library : n.lib = { libInit with media := m.lib.media, zeroes := m.lib.zeroes, unread := m.lib.unread }
  core : n.hearth.core = 0 ∧ n.hearth.lost = m.hearth.lost ∧ n.hearth.spi = m.hearth.spi
  outside : n.feed = m.feed ∧ n.bay = m.bay
  time : n.reg64 HEARTH_TIME_LO = m.reg64 HEARTH_TIME_LO
  rails : n.reg HEARTH_RAILSTAT = m.reg HEARTH_RAILSTAT
  mram : ∀ a, ¬(0x5000000 ≤ a ∧ a < 0x5200000) → n.mramByte a = m.mramByte a

/-- The strand waits on a fence. -/
def Strand.fenced (x : Strand) : Bool :=
  match x.mode, x.waitFor with
  | .wait, .ack _ _ _ => true
  | _, _ => false

/-- Nothing waits for the end of a round of engine `e` (R56): no strand reset, no park change, and on a trailing twin no fence whose
logged result has come. -/
def Fjoek.calm (m : Fjoek) (e : Nat) : Prop :=
  (∀ a ∈ m.seam.acts, a.engine ≠ e) ∧
    (m.trailing = true → ∀ p ∈ m.seam.values, p.strand / 8 = e → (m.strand p.strand).fenced = false)

/-- The strand of `i` issues its instruction now and its guard holds (R33, R55, R70 to R73): it can issue, its next word is intact, its guard
and what `uses` says that it uses (`Strand.loading`) wait for no load and no verdict, and nothing waits for the end of a round. -/
def Fjoek.issuable (m : Fjoek) (i : Issue) (uses : List Nat) : Prop :=
  let x := m.strand (issueKey i)
  m.canIssue (issueKey i) = true ∧
    tableGet (fun _ => false) m.seam.progue (8192 * i.e.val + x.pc.toNat) = false ∧
    (∀ r ∈ readsPred i.psel :: uses, ¬ r ∈ x.loading ∧ ¬ r ∈ x.posts) ∧ x.pred i.psel.val ≠ i.pneg ∧ m.calm i.e.val

/-- The strand of `i` as its instruction finds it: a fence that waited is over. -/
def Fjoek.issuing (m : Fjoek) (i : Issue) : Strand := { m.strand (issueKey i) with fencing := false }

/-- A range of HBM that lies apart from the sample rings (R491). -/
def Fjoek.besideRings (m : Fjoek) (a k : Nat) : Prop :=
  a + k ≤ m.get PMON_SBASE_base * 2 ^ 20 ∨ m.get PMON_SBASE_base * 2 ^ 20 + 2 ^ 20 ≤ a

/-- The load of context `n` starts, and counts (R278). -/
def Fjoek.loads (m : Fjoek) (n : Nat) : Fjoek :=
  (m.setXport { m.xport with loading := m.xport.loading ++ [n], refused := m.xport.refused.filter (· != n) }).count XPORT_CMISS_LO 1

/-- Context `n` is wanted (R278): in the cache it becomes the one used last; outside it its load starts, unless one runs already, and in
a full cache the least recently used unpinned context leaves for it; with every cached context pinned the load cannot begin, and the start
of that wait counts. -/
def Fjoek.wanting (m : Fjoek) (n : Nat) : Fjoek :=
  let x := m.xport
  if x.cached.contains n then { m with xport := { x with cached := x.cached.filter (· != n) ++ [n] } }
  else if x.loading.contains n then m
  else if x.cached.length + x.loading.length < 8192 then m.loads n
  else match x.cached.find? fun y => !m.ctxPinned y with
    | some y => (m.ctxEvict y).loads n
    | none =>
      if x.refused.contains n then m
      else ((m.setXport { x with refused := x.refused ++ [n] }).count XPORT_CFULL_LO 1).put XPORT_STAT_cfull 1

/-- The strand of `i` stops in FAULT at its instruction with a cause, and its engine's fault bits are set (R45). -/
def Fjoek.faulting (m : Fjoek) (i : Issue) (cause : Nat) : Fjoek :=
  let x := m.issuing i
  ((m.setStrand (issueKey i)
    { x with mode := .fault, cause := cause, fpc := x.pc.toNat, waitFor := .nothing }).put
      ⟨SEAM_ESTAT i.e.val, 24 + i.s.val, 24 + i.s.val⟩ 1).put (SEAM_ESTAT_fault i.e.val) 1

end Sys2Proof.Machine
end

