-- ==== Sys2Proof/Footprint.lean ====
section
/-! DEFINITION. Which parts of the module a command may touch beside what latches and counts do: the footprints that the statements about
frames are told in. -/

namespace Sys2Proof.Machine

/-- A part of the module beside its registers. `hbm` is HBM's bytes with what a write of them makes whole (R114, R373, R377); `free` is
the counter of free values. -/
inductive Part where
  | att | bay | damp | drv | feed | free | fwd | hbm | hearth | lib | locks | mgmt
  | mngl | mram | netp | pmon | seam | snap | swc | thim | twin | wide | xport
  deriving DecidableEq, Repr

/-- `m` with its registers and the parts in `ps` taken from `n`. -/
def Fjoek.graft (m n : Fjoek) (ps : List Part) : Fjoek :=
  { m with
    regs := n.regs
    wide := if .wide ∈ ps then n.wide else m.wide
    snap := if .snap ∈ ps then n.snap else m.snap
    hbm := if .hbm ∈ ps then n.hbm else m.hbm
    hbmPoison := if .hbm ∈ ps then n.hbmPoison else m.hbmPoison
    hbmHidden := if .hbm ∈ ps then n.hbmHidden else m.hbmHidden
    mram := if .mram ∈ ps then n.mram else m.mram
    locks := if .locks ∈ ps then n.locks else m.locks
    free := if .free ∈ ps then n.free else m.free
    seam := if .seam ∈ ps then n.seam else m.seam
    mngl := if .mngl ∈ ps then n.mngl else m.mngl
    damp := if .damp ∈ ps then n.damp else m.damp
    pmon := if .pmon ∈ ps then n.pmon else m.pmon
    att := if .att ∈ ps then n.att else m.att
    twin :=
      if .twin ∈ ps then n.twin
      else if .hbm ∈ ps then { m.twin with absent := n.twin.absent, shadow := n.twin.shadow, rewritten := n.twin.rewritten }
      else m.twin
    hearth := if .hearth ∈ ps then n.hearth else m.hearth
    feed := if .feed ∈ ps then n.feed else m.feed
    bay := if .bay ∈ ps then n.bay else m.bay
    mgmt := if .mgmt ∈ ps then n.mgmt else m.mgmt
    drv := if .drv ∈ ps then n.drv else m.drv
    lib := if .lib ∈ ps then n.lib else m.lib
    netp := if .netp ∈ ps then n.netp else m.netp
    swc := if .swc ∈ ps then n.swc else m.swc
    fwd := if .fwd ∈ ps then n.fwd else m.fwd
    xport := if .xport ∈ ps then n.xport else m.xport
    thim := if .thim ∈ ps then n.thim else m.thim }

/-- `n` differs from `m` in registers, in the parts `ps` and in what latches, counts and messages leave; where `ws` is given, only in
registers of those 64 KiB windows of the register space (R540). -/
structure Within (ps : List Part) (ws : Option (List Nat)) (m n : Fjoek) : Prop where
  rest : Noted (m.graft n ps) n
  regs : ∀ l, ws = some l → ∀ a, noting a = false → ¬a / 0x10000 ∈ l → n.reg a = m.reg a

/-- The footprints of commands about power, the feed, the bays, the Damper, management and performance counters. -/
def footPower : Instr → Option (List Part × Option (List Nat))
  | .softwareLogRecord .. => some ([], some [])
  | .feedPgAssert .. => some ([.feed], some [0x1, 0x3])
  | .xtalFail .. | .railEnableNext .. | .watchdogStage1Expiry .. => some ([], some [0x1])
  | .feedRetryCountReset .. => some ([], some [0x3])
  | .bayFullyOn .. | .bayRetryCountReset .. | .bayMeasure .. => some ([], some [0x4])
  | .eventRaise .. => some ([], some [0x5, 0x7])
  | .policyStall .. => some ([], some [0x5])
  | .fanFault .. => some ([], some [0x9])
  | .costCalibration .. | .mailboxReplyPost .. => some ([], none)
  | .bayFullEnhancement .. => some ([.bay], some [])
  | .grantWrite .. | .thermalClampRelease .. | .dvfsRequest .. | .dvfsStepDone .. => some ([.damp], some [0x5])
  | .senseRefresh .. => some ([.damp], none)
  | .feedFullyOn .. => some ([.feed], some [])
  | .feedCmdOn .. | .feedCmdOff .. | .feedCmdClr .. | .feedCmdHtest .. | .feedOvervoltage .. => some ([.feed], some [0x1, 0x3])
  | .feedPrechargeDone .. | .feedRampDone .. | .feedLossEnd .. | .feedOvervoltageEnd .. | .feedRetry ..
  | .holdupTestPeriodic .. | .holdupTestMeasure .. => some ([.feed], some [0x3])
  | .feedLoss .. => some ([.damp, .feed, .free, .lib, .locks, .mram, .seam], none)
  | .mailboxRequestPost .. => some ([.hbm], none)
  | .recoveryTransferTimeout .. => some ([.hearth], some [])
  | .strapSample .. => some ([.hearth], some [0x0])
  | .railDisableNext .. | .watchdogKick .. | .hearthRstNRelease .. | .recoveryWatchdogKick .. => some ([.hearth], some [0x1])
  | .otpProgram .. | .otpSeal .. | .otpArb .. | .otpCommandDone .. => some ([.hearth], some [0x2])
  | .mctpReassemblyTimeout .. | .ledShift .. => some ([.mgmt], some [])
  | .mctpMessage .. | .fanFailsafe .. => some ([.mgmt], some [0x9])
  | .engineCounterSnapshot .. => some ([.snap], some [])
  | .healthStatusPoll .. => some ([.twin], some [0x31])
  | .bayRampStart .. => some ([.bay, .feed], some [])
  | .bayRetryTimerExpiry .. => some ([.bay, .feed], some [0x4])
  | .bayCalibration .. => some ([.bay, .free], some [0x4])
  | .selfTestStrandKnownAnswer .. | .selfTestMemoryMarch .. | .selfTestMangleKnownAnswer .. | .selfTestCellMarch ..
  | .selfTestHbmPatrol .. => some ([.damp, .free], some [0x5])
  | .damperPeriod .. => some ([.damp, .mngl], none)
  | .sampleNoIssueTimeout .. => some ([.hbm, .pmon], none)
  | .trialConfirm .. => some ([.hearth, .mram], some [])
  | .applyComplete .. => some ([.mgmt, .mram], some [])
  | .requestUpdate .. => some ([.free, .hearth, .mgmt], none)
  | .requestFirmwareData .. => some ([.hbm, .hearth, .mgmt], none)
  | .mailboxQuiesce .. | .mailboxResume .. => some ([.hbm, .lib, .seam], none)
  | .mailboxStatus .. => some ([.hbm, .seam, .twin], none)
  | .managementPllLock .. => some ([.hearth, .mgmt, .mram], none)
  | .mailboxNamespace .. => some ([.free, .hbm, .lib, .locks, .mram, .seam], none)
  | _ => none

/-- The footprints of commands about the port slots, the switch core, the forwarding tables, the transport and Thimble. -/
def footNet : Instr → Option (List Part × Option (List Nat))
  | .slotEnable .. | .quadModeWrite .. => some ([], some [0x10, 0x11])
  | .lanesOn .. => some ([.free], some [0x10, 0x11])
  | .pauseReceive .. | .pfcReceive .. | .xoffRepeat .. => some ([], some [0x10, 0x11, 0x14, 0x15])
  | .pauseExpiry .. | .boundaryWrite .. => some ([], some [0x14, 0x15])
  | .vlanEntryLoad .. | .agingTick .. => some ([], some [0x16, 0x17])
  | .cmTransmit .. => some ([.fwd, .swc], none)
  | .boundaryCellMove .. => some ([.free, .swc], some [0x14, 0x15, 0x24])
  | .agingLogPop .. => some ([.fwd], some [])
  | .fwdFind .. | .fwdRead .. | .fwdInsert .. | .fwdReplace .. | .fwdDelete .. | .fwdWrite .. | .vlanEntryCommit .. => some ([.fwd], some [0x16, 0x17])
  | .pfcReleaseEnd .. => some ([.netp], some [])
  | .linkAligned .. | .linkFault .. => some ([.free, .netp], some [0x10, 0x11])
  | .linkFaultClear .. => some ([.netp], some [0x10, 0x11])
  | .pfcWatchdogRelease .. => some ([.netp], some [0x10, 0x11, 0x14, 0x15])
  | .linkQualified .. => some ([.swc], some [0x10, 0x11])
  | .slateDescriptorReload .. => some ([.thim], some [])
  | .revocationLogPop .. | .sealedKeyLoad .. | .sealedKeyErase .. => some ([.thim], some [0x1C, 0x1D, 0x1E, 0x1F])
  | .ackTimer .. => some ([.fwd, .swc, .xport], none)
  | .rinseVisit .. => some ([.damp, .fwd], none)
  | .keyAlloc .. => some ([.free, .hbm, .thim], some [0x1C, 0x1D, 0x1E, 0x1F])
  | .reorderGapTimeout .. => some ([.fwd, .swc, .xport], none)
  | .keyRegister .. | .keyRevoke .. | .keyRead .. | .keyRelease .. => some ([.hbm, .thim], some [0x1C, 0x1D, 0x1E, 0x1F])
  | .qpAlloc .. => some ([.free, .hbm, .xport], none)
  | .qpFree .. => some ([.hbm, .thim, .xport], none)
  | .rnrTimerExpiry .. => some ([.fwd, .hbm, .mngl, .seam, .swc, .twin, .xport], none)
  | _ => none

/-- The footprints of commands about strands from outside, Mangle, the pools, the drive ports, the attach endpoint and the twin. -/
def footData : Instr → Option (List Part × Option (List Nat))
  | .nvmeFlush .. | .interruptRaise .. | .wakeRequest .. | .pmeRepeat .. | .horizonRecord .. => some ([], some [])
  | .groupDrainTimeout .. => some ([], some [0x20, 0x21, 0x22, 0x23])
  | .c3Starved .. => some ([], some [0x26, 0x27])
  | .driveLinkUp .. => some ([], some [0x28, 0x29, 0x2A, 0x2B, 0x2C, 0x2D, 0x2E, 0x2F, 0x31])
  | .intxStatusClear .. => some ([], some [0x30])
  | .autoresync .. | .twinLinkUp .. | .heartbeatEdge .. => some ([], some [0x31])
  | .peerEvent .. => some ([], some [0x7])
  | .msixTableWrite .. => some ([.att], some [])
  | .perstDeassert .. => some ([.drv], some [])
  | .driveTempPoll .. => some ([.drv], some [0x28, 0x29, 0x2A, 0x2B, 0x2C, 0x2D, 0x2E, 0x2F])
  | .xtsKeyLoad .. | .xtsKeyErase .. | .xtsKeyCommandDone .. | .fpzCommit .. => some ([.mngl], some [0x24])
  | .cursorCheckpoint .. => some ([.mram], some [])
  | .strandTimerExpiry .. => some ([.seam], some [])
  | .instepEnable .. | .instepDisable .. | .loaderAbandon .. => some ([.seam], some [0x20, 0x21, 0x22, 0x23, 0x31])
  | .heartbeatToggle .. | .epochRecord .. | .strandCrossCheck .. | .serdesMarginSample .. => some ([.twin], some [])
  | .swap .. | .resync .. | .resyncCopyDone .. | .resyncRetry .. | .heartbeatLoss .. | .epochClose .. | .digestTimeout ..
  | .logUndefinedKind .. => some ([.twin], some [0x31])
  | .ccRingConsume .. => some ([.xport], some [0x18, 0x19, 0x1A, 0x1B])
  | .doorbellWrite .. | .doorbellRingConsume .. | .flrComplete .. => some ([.att, .hbm], none)
  | .quarantineEnd .. => some ([.att, .damp, .hbm, .mngl, .pmon, .seam, .twin], none)
  | .cacheFill .. => some ([.damp, .hbm, .lib, .mngl], none)
  | .drvConfigAccess .. => some ([.drv, .free], some [0x28, 0x29, 0x2A, 0x2B, 0x2C, 0x2D, 0x2E, 0x2F])
  | .rawCommand .. | .powerStateRequest .. => some ([.drv, .hbm], some [0x28, 0x29, 0x2A, 0x2B, 0x2C, 0x2D, 0x2E, 0x2F])
  | .bulkCompare .. => some ([.hbm, .mngl], none)
  | .loaderVerify .. => some ([.hbm, .seam], none)
  | .healthReport .. | .hbmPatrol .. => some ([.hbm, .twin], none)
  | .namespaceZeroingDone .. => some ([.damp, .free, .lib, .locks, .mram, .seam], none)
  | .retirementTimeout .. => some ([.lib, .mram], some [])
  | .hostRead .. => some ([.damp, .lib, .mngl, .twin], none)
  | .cede .. => some ([.seam, .twin], none)
  | .logAck .. => some ([.mngl, .seam, .twin], none)
  | .remirrorDone .. => some ([.free, .lib, .mram], none)
  | .pair .. => some ([.free, .mngl, .twin], none)
  | .bulkGfmac .. | .bulkXor .. | .bulkFprint .. | .bulkPi .. | .bulkXts .. | .bulkFill .. => some ([.hbm, .mngl, .twin], none)
  | .busMasterDisable .. => some ([.att, .damp, .hbm, .mngl], none)
  | .loaderVerifyDone .. => some ([.damp, .free, .hbm, .seam], none)
  | .bulkHash .. => some ([.damp, .hbm, .mngl, .twin], none)
  | .resyncRegion .. | .copyBackBatch .. | .reshapeUnitMove .. => some ([.damp, .free, .lib, .locks, .mram, .seam, .twin], none)
  | .driveCommandTimeout .. => some ([.drv, .free, .hbm, .lib, .locks, .mngl, .mram, .pmon, .seam, .twin], none)
  | .sramScrub .. => some ([.fwd, .mngl, .seam, .twin], none)
  | _ => none

end Sys2Proof.Machine
end

