-- ==== Sys2Proof/Certificates/Slice0/Obligations.lean ====
section
/-! DEFINITION. The statements about the model that the provers prove. Each is told over every state, operand and clause that its docstring
names; `Does`, `Runs`, `Ends` and `Within` (Safety.lean, Footprint.lean) say what a command leaves besides its own effect. -/

open Sys2Proof Sys2Proof.Machine

/-! ## Seam instructions (R74 to R78) -/

/-- R74, R75: every form of the ALU class writes rd and advances the strand; nothing else of the strand changes, and nothing else of the
module but latches, counts and samples. Bit fields are told where len is 1 to 64 and the field ends within bit 64. A 39-bit immediate is
sign-extended; `lih` keeps the lower half of rd. -/
def Obligations.AluForms : Prop :=
  (∀ (s : State) (i : Issue) (rd ra rb : Fin 32), s.m.issuable i [onlyWrites rd, ra.val, rb.val] →
    let x := s.m.issuing i
    let a := x.rd ra.val
    let b := x.rd rb.val
    let put := fun v : Word64 => s.m.setStrand (issueKey i) (x.wr rd.val v).next
    let n := b.toNat % 64
    Runs (.add i rd ra rb) s (put (a + b)) ∧ Runs (.sub i rd ra rb) s (put (a - b)) ∧
    Runs (.and i rd ra rb) s (put (a &&& b)) ∧ Runs (.or i rd ra rb) s (put (a ||| b)) ∧
    Runs (.xor i rd ra rb) s (put (a ^^^ b)) ∧ Runs (.andn i rd ra rb) s (put (a &&& ~~~b)) ∧
    Runs (.shl i rd ra rb) s (put (a <<< n)) ∧ Runs (.shr i rd ra rb) s (put (a >>> n)) ∧
    Runs (.sar i rd ra rb) s (put (a.sshiftRight n)) ∧ Runs (.rol i rd ra rb) s (put (a.rotateLeft n)) ∧
    Runs (.mul i rd ra rb) s (put (a * b)) ∧
    Runs (.mulhu i rd ra rb) s (put (BitVec.ofNat 64 (a.toNat * b.toNat / 2 ^ 64))) ∧
    Runs (.mulhs i rd ra rb) s (put (BitVec.ofInt 64 (a.toInt * b.toInt / 2 ^ 64))) ∧
    Runs (.min i rd ra rb) s (put (if a.toInt < b.toInt then a else b)) ∧
    Runs (.max i rd ra rb) s (put (if a.toInt < b.toInt then b else a)) ∧
    Runs (.minu i rd ra rb) s (put (if a.toNat < b.toNat then a else b)) ∧
    Runs (.maxu i rd ra rb) s (put (if a.toNat < b.toNat then b else a))) ∧
  (∀ (s : State) (i : Issue) (rd ra rb : Fin 32) (pn : Fin 8) (pos : BitVec 6) (len : BitVec 7),
    let x := s.m.issuing i
    let a := x.rd ra.val
    let put := fun v : Word64 => s.m.setStrand (issueKey i) (x.wr rd.val v).next
    let one := s.m.issuable i [onlyWrites rd, ra.val]
    let two := s.m.issuable i [onlyWrites rd, ra.val, rb.val]
    let both := s.m.issuable i [rd.val, ra.val]
    let field := 1 ≤ len.toNat ∧ len.toNat ≤ 64 ∧ pos.toNat + len.toNat ≤ 64
    (one → Runs (.clz i rd ra) s (put (BitVec.ofNat 64 (if a.toNat = 0 then 64 else 63 - a.toNat.log2)))) ∧
    (one → Runs (.popc i rd ra) s (put (BitVec.ofNat 64 ((List.range 64).countP fun j => a.getLsbD j)))) ∧
    (one → Runs (.bswap i rd ra) s (put (BitVec.ofNat 64 (ofBytes (bytesOf 8 a.toNat).reverse)))) ∧
    (s.m.issuable i [onlyWrites rd, ra.val, rb.val, readsPred pn] → Runs (.sel i rd ra rb pn) s (put (if x.pred pn.val then a else x.rd rb.val))) ∧
    (one → field → Runs (.bfx i rd ra pos len) s (put (BitVec.ofNat 64 (a.toNat / 2 ^ pos.toNat % 2 ^ len.toNat)))) ∧
    (both → field → ∃ v, Runs (.bfi i rd ra pos len) s (put v) ∧
      ∀ j < 64, v.getLsbD j = if pos.toNat ≤ j ∧ j < pos.toNat + len.toNat then a.getLsbD (j - pos.toNat)
        else (x.rd rd.val).getLsbD j) ∧
    (two → ∃ v, Runs (.gfmul i rd ra rb) s (put v) ∧ ∀ j < 8, (v.toNat / 256 ^ j) % 256 =
      gfMul (a.toNat / 256 ^ j % 256) ((x.rd rb.val).toNat / 256 ^ j % 256) % 256) ∧
    (both → Runs (.crc32c i rd ra) s (put (BitVec.ofNat 64 (crc32cRun ((x.rd rd.val).toNat % 2 ^ 32)
      ((bytesOf 8 a.toNat).map BitVec.toNat)))))) ∧
  ∀ (s : State) (i : Issue) (rd ra : Fin 32) (imm : BitVec 39) (top : BitVec 32) (n : BitVec 6),
    let x := s.m.issuing i
    let a := x.rd ra.val
    let put := fun v : Word64 => s.m.setStrand (issueKey i) (x.wr rd.val v).next
    (s.m.issuable i [onlyWrites rd, ra.val] →
      Runs (.addi i rd ra imm) s (put (a + imm.signExtend 64)) ∧ Runs (.andi i rd ra imm) s (put (a &&& imm.signExtend 64)) ∧
      Runs (.ori i rd ra imm) s (put (a ||| imm.signExtend 64)) ∧ Runs (.xori i rd ra imm) s (put (a ^^^ imm.signExtend 64)) ∧
      Runs (.shli i rd ra n) s (put (a <<< n.toNat)) ∧ Runs (.shri i rd ra n) s (put (a >>> n.toNat)) ∧
      Runs (.sari i rd ra n) s (put (a.sshiftRight n.toNat))) ∧
    (s.m.issuable i [onlyWrites rd] → Runs (.li i rd imm) s (put (imm.signExtend 64))) ∧
    (s.m.issuable i [rd.val] → Runs (.lih i rd top) s (put (BitVec.ofNat 64 (top.toNat * 2 ^ 32 + (x.rd rd.val).toNat % 2 ^ 32))))

/-- R76: a compare writes its result to p[pd] and, with cen set, the inverse to the second predicate first; `plog` looks up its truth
table. Registers stay. -/
def Obligations.CompareForms : Prop :=
  ∀ (s : State) (i : Issue) (pd pa pb : Fin 8) (ra rb : Fin 32) (imm : BitVec 32) (v : Inv) (tt : BitVec 4),
    let x := s.m.issuing i
    let a := x.rd ra.val
    let b := x.rd rb.val
    let c := imm.signExtend 64
    let put := fun r : Bool => s.m.setStrand (issueKey i)
      ((if v.cen then x.setPred v.pc.val (!r) else x).setPred pd.val r).next
    (s.m.issuable i [ra.val, rb.val] →
      Runs (.cmpeq i pd ra rb v) s (put (decide (a = b))) ∧ Runs (.cmpne i pd ra rb v) s (put (decide (a ≠ b))) ∧
      Runs (.cmplt i pd ra rb v) s (put (decide (a.toInt < b.toInt))) ∧
      Runs (.cmple i pd ra rb v) s (put (decide (a.toInt ≤ b.toInt))) ∧
      Runs (.cmpltu i pd ra rb v) s (put (decide (a.toNat < b.toNat))) ∧
      Runs (.cmpleu i pd ra rb v) s (put (decide (a.toNat ≤ b.toNat))) ∧
      Runs (.tst i pd ra rb v) s (put (decide (a &&& b ≠ 0)))) ∧
    (s.m.issuable i [ra.val] →
      Runs (.cmpeqi i pd ra imm v) s (put (decide (a = c))) ∧
      Runs (.cmplti i pd ra imm v) s (put (decide (a.toInt < c.toInt))) ∧
      Runs (.cmpltui i pd ra imm v) s (put (decide (a.toNat < c.toNat)))) ∧
    (s.m.issuable i [readsPred pa, readsPred pb] → Runs (.plog i pd pa pb tt) s (s.m.setStrand (issueKey i)
      (x.setPred pd.val (tt.getLsbD (2 * bnat (x.pred pa.val) + bnat (x.pred pb.val)))).next))

/-- R77: branches, calls and returns move the pc; a call pushes the index after itself, and a return pops it. A call at depth 8 and
a return from an empty stack are not among these: they fault. -/
def Obligations.BranchForms : Prop :=
  ∀ (s : State) (i : Issue) (rd ra : Fin 32) (off target base bound : BitVec 13) (t : BitVec 13) (rest : List (BitVec 13)),
    let x := s.m.issuing i
    let go := fun p : BitVec 13 => s.m.setStrand (issueKey i) { x with pc := p }
    let call := fun p : BitVec 13 => s.m.setStrand (issueKey i) { x with pc := p, rets := (x.pc + 1) :: x.rets }
    (s.m.issuable i [] → Runs (.br i off) s (go (x.pc + off))) ∧
    (s.m.issuable i [] → x.rets.length < 8 → Runs (.call i target) s (call target)) ∧
    (s.m.issuable i [] → x.rets = t :: rest → Runs (.ret i) s (s.m.setStrand (issueKey i) { x with pc := t, rets := rest })) ∧
    (s.m.issuable i [ra.val] → Runs (.brr i ra) s (go ((x.rd ra.val).setWidth 13))) ∧
    (s.m.issuable i [ra.val] → x.rets.length < 8 → Runs (.callr i ra) s (call ((x.rd ra.val).setWidth 13))) ∧
    (s.m.issuable i [ra.val] → Runs (.jtab i ra base bound) s
      (go (if (x.rd ra.val).toNat < bound.toNat then base + (x.rd ra.val).setWidth 13 else x.pc + 1))) ∧
    (s.m.issuable i [rd.val] →
      let v := x.rd rd.val - 1
      Runs (.loop i rd off) s (s.m.setStrand (issueKey i) { x.wr rd.val v with pc := if v ≠ 0 then x.pc + off else x.pc + 1 }))

/-- R78, R42: the loads, stores and atomics on L. The bytes at ra + sext(off), least significant first, reach rd zero-extended or
sign-extended; a store writes the low bytes of rb there and every other byte of L stays; an atomic returns the old value in rd. The address
lies in L and is aligned to the access; a load, an atomic and a store of fewer than 8 bytes need an intact word (R71). -/
def Obligations.LocalAccesses : Prop :=
  (∀ (s : State) (i : Issue) (rd ra : Fin 32) (off : BitVec 18), s.m.issuable i [onlyWrites rd, ra.val] →
    let x := s.m.issuing i
    let a := (x.rd ra.val + off.signExtend 64).toNat
    let put := fun v : Word64 => s.m.setStrand (issueKey i) (x.wr rd.val v).next
    let whole := fun n : Nat => a < 0x40000 ∧ a % n = 0 ∧ tableGet (fun _ => false) s.m.seam.lue (32768 * i.e.val + a / 8) = false
    let v := fun n : Nat => s.m.lNat i.e.val a n
    (whole 1 → Runs (.ldb i rd ra off) s (put (BitVec.ofNat 64 (v 1)))) ∧
    (whole 2 → Runs (.ldh i rd ra off) s (put (BitVec.ofNat 64 (v 2)))) ∧
    (whole 4 → Runs (.ldw i rd ra off) s (put (BitVec.ofNat 64 (v 4)))) ∧
    (whole 8 → Runs (.ldd i rd ra off) s (put (BitVec.ofNat 64 (v 8)))) ∧
    (whole 1 → Runs (.ldbs i rd ra off) s (put ((BitVec.ofNat 8 (v 1)).signExtend 64))) ∧
    (whole 2 → Runs (.ldhs i rd ra off) s (put ((BitVec.ofNat 16 (v 2)).signExtend 64))) ∧
    (whole 4 → Runs (.ldws i rd ra off) s (put ((BitVec.ofNat 32 (v 4)).signExtend 64)))) ∧
  (∀ (m : Fjoek) (e a n v : Nat), let m' := m.lPut e a (bytesOf n v)
    m'.lNat e a n = v % 256 ^ n ∧
    ∀ f j, a + n ≤ 0x40000 → j < 0x40000 → ¬(f = e ∧ a ≤ j ∧ j < a + n) → m'.lBytes f j 1 = m.lBytes f j 1) ∧
  ∀ (s : State) (i : Issue) (rd ra rb : Fin 32) (off : BitVec 18),
    let x := s.m.issuing i
    let a := (x.rd ra.val + off.signExtend 64).toNat
    let e := i.e.val
    let bad := tableGet (fun _ => false) s.m.seam.lue (32768 * e + a / 8)
    let old : Word64 := BitVec.ofNat 64 (s.m.lNat e a 8)
    let put := fun (y : Strand) (n v : Nat) => (s.m.lPut e a (bytesOf n v)).setStrand (issueKey i) y
    (s.m.issuable i [ra.val, rb.val] → a < 0x40000 →
      let v := (x.rd rb.val).toNat
      (bad = false → Runs (.stb i ra rb off) s (put x.next 1 v)) ∧
      (bad = false → a % 2 = 0 → Runs (.sth i ra rb off) s (put x.next 2 v)) ∧
      (bad = false → a % 4 = 0 → Runs (.stw i ra rb off) s (put x.next 4 v)) ∧
      (a % 8 = 0 → Runs (.std i ra rb off) s (put x.next 8 v))) ∧
    (s.m.issuable i [rd.val, ra.val, rb.val] → a < 0x40000 → a % 8 = 0 → bad = false →
      Runs (.lcas i rd ra rb off) s (put (x.wr rd.val old).next 8 (if old = x.rd rd.val then x.rd rb.val else old).toNat)) ∧
    (s.m.issuable i [onlyWrites rd, ra.val, rb.val] → a < 0x40000 → a % 8 = 0 → bad = false →
      Runs (.lfadd i rd ra rb off) s (put (x.wr rd.val old).next 8 (old + x.rd rb.val).toNat))

/-- R73, R79, R82, R83: an H, B or R access issues: it joins the strand's outstanding accesses, at most eight, with its address and its
operands, and the strand advances. H addresses lie in the engine's window, outside the loader's staging region for a write; a B address
lies in a live lease; an R access is privileged and stalls the strand until it completes. What it does then is ACCESS_COMPLETE. -/
def Obligations.StrandAccesses : Prop :=
  ∀ (s : State) (i : Issue) (rd ra rb : Fin 32) (off : BitVec 24) (boff : BitVec 22) (pe : Fin 8),
    let m := s.m
    let x := m.issuing i
    let e := i.e.val
    let a := (x.rd ra.val + off.signExtend 64).toNat
    let start := fun q : Access => m.setStrand (issueKey i) { x.next with accs := x.accs ++ [q] }
    let room := x.accs.length < 8
    let window := m.isOn (SEAM_HWIN_en e) = true ∧ a + 8 ≤ 2 ^ 35 ∧ m.get (SEAM_HWIN_base e) * 2 ^ 20 ≤ a ∧
      a + 8 ≤ (m.get (SEAM_HWIN_limit e) + 1) * 2 ^ 20 ∧ a % 8 = 0
    let free := ∀ b, m.seam.prot = some b → a + 8 ≤ b ∨ b + 0x40000 ≤ a
    let r := (x.rd ra.val + off.setWidth 64).toNat
    let stall := fun q : Access => m.setStrand (issueKey i) { x.next with mode := .stall, accs := x.accs ++ [q] }
    let o := (x.rd rb.val + boff.setWidth 64).toNat
    (m.issuable i [ra.val, onlyWrites rd] → room → window → Runs (.hld i rd ra off pe) s (start
      { kind := .hld, rd := rd.val, pe := pe.val, addr := a, off := 0, data := 0, cmp := 0, hung := false })) ∧
    (m.issuable i [ra.val, rb.val] → room → window → free → Runs (.hst i ra rb off) s (start
      { kind := .hst, rd := 0, pe := 0, addr := a, off := 0, data := x.rd rb.val, cmp := 0, hung := false })) ∧
    (m.issuable i [ra.val, rd.val, rb.val] → room → window → free →
      Runs (.hcas i rd ra rb off pe) s (start
        { kind := .hcas, rd := rd.val, pe := pe.val, addr := a, off := 0, data := x.rd rb.val, cmp := x.rd rd.val, hung := false })) ∧
    (m.issuable i [ra.val, onlyWrites rd, rb.val] → room → window → free →
      Runs (.hfadd i rd ra rb off pe) s (start
        { kind := .hfadd, rd := rd.val, pe := pe.val, addr := a, off := 0, data := x.rd rb.val, cmp := 0, hung := false })) ∧
    (∀ l, room → m.leaseOf (issueKey i) (x.rd ra.val).toNat = some l → o + 8 ≤ 256 * (m.leaseAt l).cells.length → o % 8 = 0 →
      (m.issuable i [onlyWrites rd, ra.val, rb.val] → Runs (.bld i rd ra rb boff pe) s (start
        { kind := .bld, rd := rd.val, pe := pe.val, addr := o, off := l, data := 0, cmp := 0, hung := false })) ∧
      (m.issuable i [rd.val, ra.val, rb.val] → Runs (.bst i rd ra rb boff) s (start
        { kind := .bst, rd := 0, pe := 0, addr := o, off := l, data := x.rd rd.val, cmp := 0, hung := false }))) ∧
    (m.isOn (SEAM_STRCTL_priv e i.s.val) = true →
      (m.issuable i [ra.val, onlyWrites rd] → Runs (.rld i rd ra off) s (stall
        { kind := .rld, rd := rd.val, pe := 0, addr := r, off := 0, data := 0, cmp := 0, hung := false })) ∧
      (m.issuable i [ra.val, rb.val] → Runs (.rst i ra rb off) s (stall
        { kind := .rst, rd := 0, pe := 0, addr := r, off := 0, data := x.rd rb.val, cmp := 0, hung := false })))

/-- R89, R277, R278: a Q or K access issues: it joins the outstanding accesses and its context is wanted in the cache. A context that
is not cached, and a key entry, must be intact; they lie apart from the sample rings. A key entry comes into Thimble's cache
(`Fjoek.keyReady`). A strand writes the words that R277 opens to it,
and no key entry: `kst` faults with cause 0x07. -/
def Obligations.ContextAccesses : Prop :=
  ∀ (s : State) (i : Issue) (rd ra rb : Fin 32) (off : BitVec 9),
    let m := s.m
    let x := m.issuing i
    let k := issueKey i
    let n := (x.rd ra.val).toNat
    let ready := (m.setStrand k x).wanting n
    let start := fun q : Access => ready.setStrand k { x.next with accs := x.accs ++ [q] }
    let here := m.xport.cached.contains n = true ∨
      (m.besideRings (m.ctxAddr n) 512 ∧ (m.hbmDetect none (m.ctxAddr n) 512).1 = false)
    let room := x.accs.length < 8
    let writable := m.ctxWritable k n (off.toNat / 8) (x.rd rb.val).toNat = true
    (n < 65536 → here →
      (m.issuable i [ra.val, onlyWrites rd] → room → off.toNat < 256 → off.toNat % 8 = 0 → Runs (.qld i rd ra off) s (start
        { kind := .qld, rd := rd.val, pe := 0, addr := n, off := off.toNat, data := 0, cmp := 0, hung := false })) ∧
      (m.issuable i [ra.val, rb.val] → room → off.toNat % 8 = 0 → writable → Runs (.qst i ra rb off) s (start
        { kind := .qst, rd := 0, pe := 0, addr := n, off := off.toNat, data := x.rd rb.val, cmp := 0, hung := false })) ∧
      (m.issuable i [ra.val, rd.val, rb.val] → room → off.toNat % 8 = 0 → writable → Runs (.qcas i rd ra rb off) s (start
        { kind := .qcas, rd := rd.val, pe := 0, addr := n, off := off.toNat, data := x.rd rb.val, cmp := x.rd rd.val,
          hung := false })) ∧
      (m.issuable i [ra.val, rb.val] → room → Runs (.qrate i ra rb) s (start
        { kind := .qrate, rd := 0, pe := 0, addr := n, off := 0, data := x.rd rb.val, cmp := 0, hung := false }))) ∧
    (n < 65536 → here → m.issuable i [ra.val] → Runs (.qpref i ra) s (ready.setStrand k x.next)) ∧
    (m.issuable i [onlyWrites rd, ra.val] → room → n < 1048576 → off.toNat < 32 → off.toNat % 8 = 0 → m.thim.bad.contains n = false →
      (m.thim.cached.contains n = true ∨ (m.besideRings (m.keyAddr n) 32 ∧ (m.hbmDetect none (m.keyAddr n) 32).1 = false)) →
      Runs (.kld i rd ra off) s
        (((m.setStrand k x).keyReady n).2.setStrand k { x.next with accs := x.accs ++
          [{ kind := .kld, rd := rd.val, pe := 0, addr := n, off := off.toNat, data := 0, cmp := 0, hung := false }] })) ∧
    (m.issuable i (if off.toNat < 512 then [ra.val, rb.val] else []) → room → Runs (.kst i ra rb off) s (m.faulting i 0x07))

/-- R81, R95: `lease` takes n cells and answers the handle of the lowest free table entry, or 0 with nothing taken; `lsize` answers a
lease's cells; `lrel` makes the handle invalid at once, and returns the cells when no started descriptor names them. Told on a module that
is not a trailing twin. -/
def Obligations.LeaseInstructions : Prop :=
  ∀ (s : State) (i : Issue) (rd ra : Fin 32),
    let m := s.m
    let x := m.issuing i
    let k := issueKey i
    let v := (x.rd ra.val).toNat
    (m.issuable i [onlyWrites rd, ra.val] → m.trailing = false → m.canLease k x.cls.toNat v = false →
      Runs (.lease i rd ra) s (m.setStrand k (x.wr rd.val 0).next)) ∧
    (m.issuable i [onlyWrites rd, ra.val] → m.trailing = false → m.canLease k x.cls.toNat v = true →
      ∀ j, freeLease m (m.mngl.leases.length + 1) 0 = some j →
        let c := m.takeCells v
        let q := (m.leaseAt j).seq
        let n := c.2.setLease j { seq := q, live := true, used := true, owner := k, cells := c.1 }
        let h := 2 ^ 31 + k * 2 ^ 22 + q * 65536 + j
        Runs (.lease i rd ra) s (((n.put MNGL_LFREE_free (m.get MNGL_LFREE_free - v)).put MNGL_LTAB_used n.leasesUsed).setStrand k
          (x.wr rd.val (BitVec.ofNat 64 h)).next)) ∧
    (m.issuable i [onlyWrites rd, ra.val] → ∀ l, m.leaseOf k v = some l →
      Runs (.lsize i rd ra) s (m.setStrand k (x.wr rd.val (BitVec.ofNat 64 (m.leaseAt l).cells.length)).next)) ∧
    (m.issuable i [ra.val] → ∀ l, m.leaseOf k v = some l →
      let named := m.mngl.descs.any fun d => d.holds && d.handles.any fun h => h % 65536 == l
      let q := m.leaseAt l
      let off := m.setLease l { q with live := false }
      let gone := m.setLease l { q with live := false, seq := (q.seq + 1) % 64, used := false, cells := [] }
      let back : Fjoek := { gone with mngl := { gone.mngl with
        freed := q.cells ++ m.mngl.freed
        prints := m.mngl.prints.filter fun p => p.1 / 1024 != l } }
      let free := (back.put MNGL_LFREE_free (m.get MNGL_LFREE_free + q.cells.length)).put MNGL_LTAB_used back.leasesUsed
      q.used = true →
        (named = true → Runs (.lrel i ra) s ((off.setStrand k x.next).put (SEAM_GSTAT_drained (k / 32)) 0)) ∧
        (named = false → Runs (.lrel i ra) s ((free.setStrand k x.next).put (SEAM_GSTAT_drained (k / 32)) 0)))

/-- R84, R108: `bulk` and `tbulk` queue the descriptor whose 64 bytes stand in L at ra, with the strand's class, once the address, the bytes
and the handles are right; `tbulk` answers whether the queue had room, and `bqfree` how much it has. Told on a module that is not a trailing
twin. -/
def Obligations.BulkIssue : Prop :=
  ∀ (s : State) (i : Issue) (rd ra : Fin 32),
    let m := s.m
    let x := m.issuing i
    let k := issueKey i
    let e := i.e.val
    let a := (x.rd ra.val).toNat
    let d := m.descFrom k x a
    let right := a < 0x40000 ∧ a % 64 = 0 ∧ m.handlesOk k d = true ∧
      ∀ j < 8, tableGet (fun _ => false) m.seam.lue (32768 * e + a / 8 + j) = false
    let free := 256 - (m.mngl.descs.filter fun q => q.engine / 4 == e / 4).length
    let queued := fun y : Strand => Fjoek.setStrand
      { m with mngl := { m.mngl with descs := m.mngl.descs ++ [d], nextId := m.mngl.nextId + 1 } } k y
    (m.issuable i [ra.val] → free ≠ 0 → right → Runs (.bulk i ra) s (queued x.next)) ∧
    (m.issuable i [onlyWrites rd, ra.val] → m.trailing = false → right →
      (free = 0 → Runs (.tbulk i rd ra) s (m.setStrand k (x.wr rd.val 0).next)) ∧
      (free ≠ 0 → Runs (.tbulk i rd ra) s (queued (x.wr rd.val 1).next))) ∧
    (m.issuable i [onlyWrites rd] → m.trailing = false → Runs (.bqfree i rd) s (m.setStrand k (x.wr rd.val (BitVec.ofNat 64 free)).next))

/-- R36, R85, R86: a wait answers the first slot whose tag is pending and takes one post of it, answers all ones without a slot, and
otherwise waits; `post` puts a tag on its way, or answers 0 for a tag that no post may carry; `timer` arms the timer; `tagcnt` reads a
count. -/
def Obligations.EventInstructions : Prop :=
  ∀ (s : State) (i : Issue) (rd ra rb : Fin 32) (n : BitVec 2) (t0 t1 t2 tag : BitVec 10),
    let m := s.m
    let x := m.issuing i
    let k := issueKey i
    let e := i.e.val
    let put := fun v : Nat => m.setStrand k (x.wr rd.val (BitVec.ofNat 64 v)).next
    let slots : List (Option Nat) := (waitSlots (x.rd ra.val).toNat).map (ownTag k)
    let slotsI : List (Option Nat) := ([some t0.toNat, if 2 ≤ n.toNat then some t1.toNat else none,
      if 3 ≤ n.toNat then some t2.toNat else none, none] : List (Option Nat)).map (ownTag k)
    let takes := fun (c : Instr) (l : List (Option Nat)) =>
      ((∀ q ∈ l, q = none) → Runs c s (put (2 ^ 64 - 1))) ∧
      (∀ j t, l[j]? = some (some t) → t ≠ 0 → 0 < m.tagCount e t →
        (∀ u < j, l[u]? = some none ∨ ∃ w, l[u]? = some (some w) ∧ w ≠ 0 ∧ m.tagCount e w = 0) →
        Runs c s (Fjoek.setStrand (m.setTagCount e t (m.tagCount e t - 1)) k (x.wr rd.val (BitVec.ofNat 64 j)).next))
    let waits := fun (c : Instr) (l : List (Option Nat)) =>
      (∃ q ∈ l, q ≠ none) → m.pendingSlot k l = none → m.seam.queues = [] → m.seam.waits = [] → ∃ t, exec c s = .next t ∧
        t.m.strand k = { x.next with mode := .wait, waitFor := .tags rd.val, slots := l, since := m.seam.stamp } ∧
        (∀ j ≠ k, t.m.strand j = m.strand j) ∧ t.m.seam.stamp = m.seam.stamp + 1 ∧ t.m.seam.tags = m.seam.tags
    let bad := (x.rd rb.val).toNat % 1024 = 0 ∨ 0x3F0 ≤ (x.rd rb.val).toNat % 1024
    (m.issuable i [onlyWrites rd, ra.val] → takes (.wait i rd ra) slots ∧ waits (.wait i rd ra) slots) ∧
    (m.issuable i [onlyWrites rd] → n ≠ 0 → takes (.waiti i rd n t0 t1 t2) slotsI ∧ waits (.waiti i rd n t0 t1 t2) slotsI) ∧
    (m.issuable i [onlyWrites rd, ra.val, rb.val] → bad → Runs (.post i rd ra rb) s (put 0)) ∧
    (m.issuable i [onlyWrites rd, ra.val, rb.val] → ¬bad →
      let p : TagPost := { tag := (x.rd rb.val).toNat % 1024, engine := (x.rd ra.val).toNat % 64
                           verdict := some (e, i.s.val, rd.val) }
      ∃ l, Runs (.post i rd ra rb) s (Fjoek.setStrand { m with seam := { m.seam with flight := m.seam.flight.map (·.overtaken k rd.val) ++ l ++ [p] } } k
        { x.next with posts := if rd.val = 0 then x.posts else x.posts.filter (· != rd.val) ++ [rd.val] })) ∧
    (m.issuable i [ra.val] → Runs (.timer i ra) s (m.setStrand k { x.next with timer := (x.rd ra.val).toNat % 2 ^ 32 })) ∧
    (m.issuable i [onlyWrites rd] → Runs (.tagcnt i rd tag) s
      (put (if tag = 0 then (m.queue (e / 4)).length else m.tagCount e tag.toNat)))

/-- R87, R449, R450: a draw takes its tokens at once where the level of its class allows and no draw waits, in C2 with the Damper on and the
debt below its limit, and otherwise waits in the queue; `draw.try` answers 1 or 0 and never waits; `refund` returns tokens up to the depth,
in C2 against the debt; `class` sets the strand's class. -/
def Obligations.BudgetInstructions : Prop :=
  ∀ (s : State) (i : Issue) (rd ra : Fin 32) (im : BitVec 3),
    let m := s.m
    let x := m.issuing i
    let k := issueKey i
    let c := x.cls.toNat
    let n := (x.rd ra.val).toNat % 2 ^ 20
    let spent : Fjoek := { m.count DAMP_SPENT_LO n with damp := { m.damp with spent := m.damp.spent + n } }
    let taken := spent.setLevel c (m.level c - n)
    let debt := Nat.min (m.damp.debt + n) 16777215
    let owed : Fjoek := { spent with damp := { spent.damp with debt := debt } }
    let c2 := (owed.count DAMP_C2USE_LO n).put DAMP_DEBT_debt debt
    let fits := c ≠ 2 ∧ m.draws c = [] ∧ ((Nat.min n (m.depth c) : Nat) : Int) ≤ m.level c
    let short := c ≠ 2 ∧ ¬(m.draws c = [] ∧ ((Nat.min n (m.depth c) : Nat) : Int) ≤ m.level c)
    let two := c = 2 ∧ m.isOn DAMP_CTL_en = true ∧ m.damp.debt + n < 16777215
    let done := fun (y : Strand) (c' : Instr) =>
      (n = 0 → Runs c' s (m.setStrand k y)) ∧ (n ≠ 0 → fits → Runs c' s (taken.setStrand k y)) ∧
      (n ≠ 0 → two → Runs c' s (c2.setStrand k y))
    (m.issuable i [onlyWrites 0, ra.val] → m.trailing = false → done x.next (.draw i 0 ra false) ∧
      (n ≠ 0 → short → Runs (.draw i 0 ra false) s ((m.setDraws c (m.draws c ++ [⟨.strand k, n⟩])).setStrand k
        { x.next with mode := .wait, waitFor := .tokens }))) ∧
    (m.issuable i [onlyWrites rd, ra.val] → m.trailing = false → done (x.wr rd.val 1).next (.draw i rd ra true) ∧
      (n ≠ 0 → short → Runs (.draw i rd ra true) s (m.setStrand k (x.wr rd.val 0).next))) ∧
    (m.issuable i [ra.val] → c ≠ 2 → m.draws c = [] →
      let up : Int := m.level c + n
      let cut : Int := if (m.depth c : Int) < up then m.depth c else up
      let less : Fjoek := { m with damp := { m.damp with spent := m.damp.spent - n } }
      m.level c ≥ -1048575 → Runs (.refund i ra) s (((less.setLevel c up).setLevel c cut).setStrand k x.next)) ∧
    (m.issuable i [ra.val] → c = 2 →
      let d : Damp := { m.damp with spent := m.damp.spent - n, debt := m.damp.debt - n }
      Runs (.refund i ra) s ((Fjoek.setStrand { m with damp := d } k x.next).put DAMP_DEBT_debt (m.damp.debt - n))) ∧
    (m.issuable i [] → im.toNat < 6 → Runs (.classSet i 0 true im) s (m.setStrand k { x.next with cls := im })) ∧
    (m.issuable i [ra.val] → (x.rd ra.val).toNat % 8 < 6 →
      Runs (.classSet i ra false 0) s (m.setStrand k { x.next with cls := (x.rd ra.val).setWidth 3 }))

/-- R88, R90, R91, R485: `note` answers its operand, `fence` 0 without a twin in step, 1 when every record is acknowledged, and otherwise
waits for the last record (one that its own counting may have logged); the system instructions read the time, a counter as counted when it is read, the strand's identity and the
entropy source, whose value nothing fixes; `mfence` waits for the strand's accesses; `evset` raises a source open to programs. A logged
instruction of a trailing twin takes the value that its lead logged. -/
def Obligations.TwinAndSystem : Prop :=
  (∀ (s : State) (i : Issue) (rd ra : Fin 32) (n : BitVec 4),
    let m := s.m
    let x := m.issuing i
    let k := issueKey i
    let put := fun v : Word64 => m.setStrand k (x.wr rd.val v).next
    let q := (x.rd ra.val).toNat % 512
    (m.issuable i [] → Runs (.nop i) s (m.setStrand k x.next) ∧ Runs (.yieldScan i) s (m.setStrand k x.next)) ∧
    (m.issuable i [] → x.accs = [] → Runs (.mfence i) s (m.setStrand k x.next)) ∧
    (m.issuable i [] → x.accs ≠ [] → Runs (.mfence i) s (m.setStrand k { x.next with mode := .stall, fencing := true })) ∧
    (m.issuable i [onlyWrites rd, ra.val] → m.trailing = false → Runs (.note i rd ra) s (put (x.rd ra.val))) ∧
    (m.issuable i [onlyWrites rd] → m.trailing = false →
      Runs (.rdtime i rd) s (put (BitVec.ofNat 64 m.time)) ∧
      (n.toNat < 9 → ∃ v t, exec (.rdcnt i rd n) s = .next t ∧ Runs (.rdcnt i rd n) s (put v) ∧
        v = BitVec.ofNat 64 (t.m.reg64 (PMON_ECYC_LO i.e.val + 8 * n.toNat))) ∧
      Runs (.rand i rd) s { put (Config.free64 m.free) with free := m.free + 1 } ∧
      (m.leads = false → Runs (.fence i rd) s (put 0)) ∧
      (m.leads = true → (m.twin.acked + 1 < m.twin.nextSeq ∨ m.twinMoves k ≠ []) → ∃ u, m.twin.nextSeq ≤ u + 1 ∧
        Runs (.fence i rd) s (m.setStrand k { x.next with mode := .wait, waitFor := .ack rd.val u (m.twinMoves k) })) ∧
      (m.leads = true → m.twin.nextSeq ≤ m.twin.acked + 1 → m.twinMoves k = [] → Runs (.fence i rd) s (put 1) ∨
        ∃ u, Runs (.fence i rd) s (m.setStrand k { x.next with mode := .wait, waitFor := .ack rd.val u [] }))) ∧
    (m.issuable i [onlyWrites rd] → Runs (.rdid i rd) s (put (BitVec.ofNat 64 (bnat (m.privileged k) * 2 ^ 50 + m.get TOP_STRAP_twin * 2 ^ 49 +
      m.get SEAM_CTL_instep * 2 ^ 48 + x.gen * 2 ^ 32 + k / 32 * 2 ^ 16 + k % 8 * 2 ^ 8 + k / 8)))) ∧
    (m.issuable i [onlyWrites rd, ra.val] → m.isOn (SEAM_STRCTL_priv i.e.val i.s.val) = true →
      (raisable q = false → Runs (.evset i rd ra) s (put 0)) ∧
      (raisable q = true → (q ≠ 484 ∧ q ≠ 489 ∧ q ≠ 490) → Runs (.evset i rd ra) s (put 1)) ∧
      ((q = 484 ∨ q = 489 ∨ q = 490) → Runs (.evset i rd ra) s ((put 1).put ⟨DAMP_ESTAT, q - 480, q - 480⟩ 1)))) ∧
  ∀ (s : State) (i : Issue) (rd ra : Fin 32) (n : BitVec 4) (p : Logged),
    let m := s.m
    let x := m.issuing i
    let k := issueKey i
    let took := Fjoek.setStrand { m with seam := { m.seam with values := m.seam.values.erase p } } k
      (x.wr rd.val (BitVec.ofNat 64 p.val)).next
    let mine := m.seam.values.find? fun q => q.strand == k && q.rd == rd.val
    m.trailing = true → (mine = none → m.issuable i [onlyWrites rd] →
      Runs (.fence i rd) s (m.setStrand k { x.next with mode := .wait, waitFor := .ack rd.val 0 [] })) ∧
      (mine = some p → p.round ≤ m.nextRound i.e.val →
      (m.issuable i [onlyWrites rd] → Runs (.bqfree i rd) s took ∧ Runs (.fence i rd) s took ∧ Runs (.rdtime i rd) s took ∧
        (n.toNat < 9 → Runs (.rdcnt i rd n) s took) ∧ Runs (.rand i rd) s { took with free := m.free + 1 }) ∧
      (m.issuable i [onlyWrites rd, ra.val] → Runs (.note i rd ra) s took))

/-- R73, R79, R80, R82, R89: an access that waits completes where its domain runs and no earlier access of the strand waits for the
same place. A load writes its register and sets its predicate, a store lands, an atomic does both; a STALL that waited for it ends. -/
def Obligations.AccessCompletes : Prop :=
  ∀ (s : State) (e : Fin 64) (u j : Fin 8) (a : Access),
    let m := s.m
    let k := 8 * e.val + u.val
    let x := m.strand k
    let c := Instr.accessComplete e u j false
    let left := dropNth x.accs j.val
    let ends := fun (y : Strand) => if y.mode = .stall ∧ y.stallOver = true then
      { y with mode := .ready, stallFor := .access, fencing := false } else y
    let loads := fun v : Nat => ends ((Strand.wr { x with accs := left } a.rd (BitVec.ofNat 64 v)).setPred a.pe true)
    let alone := fun (y : Strand) (n : Fjoek) => n.strand k = y ∧ ∀ i ≠ k, n.strand i = m.strand i
    let stored := fun (v : Nat) (n : Fjoek) => ∀ b, n.hbmByte b =
      if a.addr ≤ b ∧ b < a.addr + 8 then BitVec.ofNat 8 (v / 256 ^ (b - a.addr)) else m.hbmByte b
    let inHbm := m.inAperture a.addr 8 = false ∧ a.addr + 8 ≤ 2 ^ 35
    let intact := (m.hbmDetect (some (k / 32)) a.addr 8).1 = false
    let old := m.hbmNat a.addr 8
    let q := m.leaseAt a.off
    x.accs[j.val]? = some a → a.hung = false → m.runs 3 = true → (x.accs.take j.val).any (fun b => a.sameAs b) = false →
      m.trailing = false → m.runs a.domain = true →
      (a.kind = .hld → inHbm → intact → Ends c s fun n => alone (loads old) n ∧ n.hbm = m.hbm) ∧
      (a.kind = .hst → inHbm → m.inStaging a.addr 8 = false → a.rd = 0 → Ends c s fun n =>
        alone (ends { x with accs := left }) n ∧ stored a.data.toNat n) ∧
      (a.kind = .hcas → inHbm → intact → m.inStaging a.addr 8 = false → Ends c s fun n => alone (loads old) n ∧
        stored (if old = a.cmp.toNat then a.data.toNat else old) n) ∧
      (a.kind = .hfadd → inHbm → intact → m.inStaging a.addr 8 = false → Ends c s fun n => alone (loads old) n ∧
        stored (old + a.data.toNat) n) ∧
      (a.kind = .bld → a.addr + 8 ≤ 256 * q.cells.length → (m.bufDetect (some (k / 32)) (q.units a.addr 8)).1 = false →
        Ends c s fun n => alone (loads (ofBytes (m.leaseBytes a.off a.addr 8))) n ∧ n.mngl.buf = m.mngl.buf) ∧
      (a.kind = .qld → m.xport.cached.contains a.addr = true → Ends c s fun n =>
        alone (ends (Strand.wr { x with accs := left } a.rd (BitVec.ofNat 64 (m.ctxW a.addr (a.off / 8))))) n)

/-- R38, R86: a post that arrives adds to its tag's count where no strand waits on the tag, and ends the wait of one that does; a
strand's timer expires and posts the strand's own timer tag. -/
def Obligations.TagsArrive : Prop :=
  ∀ (s : State) (n : Nat) (p : TagPost) (e : Fin 64) (u : Fin 8),
    let m := s.m
    let k := 8 * e.val + u.val
    let x := m.strand k
    let c := m.tagCount p.engine p.tag
    (m.seam.flight[n]? = some p → m.runs 3 = true → m.inRound p.engine = false → p.verdict = none → p.engine < 64 →
      (p.tag < 0x3F0 ∨ 0x3F8 ≤ p.tag) →
      (m.waiter p.engine p.tag = none → c < 255 → Ends (.tagPostArrival n) s fun t =>
        t.tagCount p.engine p.tag = c + 1 ∧ ∃ l, t.seam.flight = dropNth m.seam.flight n ++ l) ∧
      (∀ w rd j, m.waiter p.engine p.tag = some w → (m.strand w).waitFor = .tags rd → (m.strand w).slotOf p.tag = some j →
        Ends (.tagPostArrival n) s fun t => (t.strand w).mode = .ready ∧ (rd ≠ 0 → (t.strand w).rd rd = BitVec.ofNat 64 j) ∧
          t.tagCount p.engine p.tag = c)) ∧
    (m.runs 3 = true → m.trailing = false → x.timer ≠ 0 →
      let q : TagPost := { tag := 0x3F8 + k % 8, engine := k / 8, verdict := none, due := m.postDue (k / 8) }
      let off := m.setStrand k { x with timer := 0 }
      Does (.strandTimerExpiry e u) s { off with seam := { off.seam with flight := m.seam.flight ++ [q] } })

/-- R47, R65, R12: a strand reset clears the strand and releases its leases; where a started descriptor is left the strand waits for it,
and otherwise stands at its image's entry point, or IDLE without one. So does an engine's reset, with the group's stamp, and the
supervisor's recovery of a faulted strand. -/
def Obligations.StrandResets : Prop :=
  ∀ (s : State) (e : Fin 64) (u : Fin 8) (cmds : List Nat),
    let m := s.m
    let k := 8 * e.val + u.val
    let x := m.strand k
    let i := k / 32 * 8 + k % 8
    let entry := tableGet (fun _ => 0xFFFF) m.seam.entry i
    let run := entry ≠ 0xFFFF ∧ m.isOn (SEAM_GSTAT_hasimg (k / 32)) = true
    let fresh := fun (accs : List Access) (gen : Nat) (y : Strand) => y = { strandReset k with
      mode := if run then .ready else .idle, gen := gen, accs := accs
      cls := BitVec.ofNat 3 (tableGet (fun _ => 0) m.seam.iclass i), pc := if entry = 0xFFFF then 0 else BitVec.ofNat 13 entry }
    let kept := (x.accs.filter fun a => !a.onR).map fun a => { a with rd := 0, pe := 0 }
    let own := m.trailing = false ∧ m.inRound e.val = false
    let none_ := fun n : Fjoek => ∀ l, (n.leaseAt l).owner = k → (n.leaseAt l).live = false
    (m.trailing = false → m.inRound e.val = true → Ends (.strandReset e u) s fun n => n.strand k = x ∧
      n.seam.acts = m.seam.acts ++ [.reset k]) ∧
    (own → m.quiet k = true → Ends (.strandReset e u) s fun n => fresh kept x.gen (n.strand k) ∧ none_ n) ∧
    (own → m.quiet k = false → Ends (.strandReset e u) s fun n => (n.strand k).mode = .resetting ∧ (n.strand k).accs = kept) ∧
    (x.mode = .resetting → m.quiet k = true → tableGet (fun _ => false) m.seam.resetting e.val = false →
      Ends (.strandResetRestart e u) s fun n => fresh x.accs x.gen (n.strand k) ∧ none_ n) ∧
    (tableGet (fun _ => false) m.seam.resetting e.val = true → (∀ v < 8, m.quiet (8 * e.val + v) = true) →
      Ends (.engineResetRestart e) s fun n => fresh x.accs (m.get (SEAM_GSTAT_gen (e.val / 4))) (n.strand k) ∧
        tableGet (fun _ => false) n.seam.resetting e.val = false) ∧
    (x.mode = .fault → own → m.quiet k = true → Ends (.supervisorStrandRecovery e u cmds) s fun n =>
      fresh kept x.gen (n.strand k) ∧ (m.ceded = false → m.twin.stopped = false → m.twin.frozen = false →
        m.leads = false → ∀ c ∈ cmds, .nvme c 7 ∈ n.out))

/-- R50, R52 to R54, R57, R67: writes that drain a group or park an engine, a drain that runs out of time, in-step mode, which only a
drained machine enters, and an undefined word, which faults the strand with cause 0x01. -/
def Obligations.SeamControl : Prop :=
  ∀ (s : State) (g : Fin 16) (e : Fin 64) (u : Fin 8) (v : Bool),
    let m := s.m
    let k := 8 * e.val + u.val
    let x := m.strand k
    let fault := ((m.setStrand k { x with mode := .fault, cause := 1, fpc := x.pc.toNat, waitFor := .nothing }).put
      ⟨SEAM_ESTAT e.val, 24 + u.val, 24 + u.val⟩ 1).put (SEAM_ESTAT_fault e.val) 1
    let own := m.trailing = false
    let on := m.put SEAM_CTL_instep 1
    (own → m.isOn (SEAM_GSTAT_busy g.val) = false → tableGet (fun _ => false) m.seam.held g.val = false →
      Ends (.groupDrainWrite g v) s fun n => n.get (SEAM_GCTL_drain g.val) = bnat v ∧
        (v = true → n.get (SEAM_GSTAT_drained g.val) = bnat (m.groupDrained g.val))) ∧
    (m.isOn (SEAM_GCTL_drain g.val) = true → m.get (SEAM_GCTL_drtmr g.val) ≠ 0 → m.groupDrained g.val = false →
      Does (.groupDrainTimeout g) s (m.put (SEAM_ESTAT_gdrain_to (4 * g.val)) 1)) ∧
    (own → m.inRound e.val = true → Does (.enginePark e v) s
      { m with seam := { m.seam with acts := m.seam.acts ++ [.park e.val v] } }) ∧
    (own → m.inRound e.val = false → m.seam.queues = [] → m.seam.waits = [] → Does (.enginePark e v) s (m.put (SEAM_ECTL_park e.val) (bnat v))) ∧
    (own → (∀ j < 512, m.drained j = true) → m.isOn SEAM_CTL_instep = true → Does .instepEnable s m) ∧
    (own → (∀ j < 512, m.drained j = true) → m.isOn SEAM_CTL_instep = false → Does .instepEnable s { on with seam := { on.seam with rounds := [], offered := [] } }) ∧
    (own → (∃ j < 512, m.drained j = false) → Does .instepEnable s (m.put (SEAM_ESTAT_mode_rej 0) 1)) ∧
    (own → Does .instepDisable s (m.put SEAM_CTL_instep 0)) ∧
    (m.calm e.val → m.canIssue k = true → tableGet (fun _ => false) m.seam.progue (8192 * e.val + x.pc.toNat) = false →
      wordDefined (m.word e.val x.pc.toNat) = false → Runs (.undefinedWord e u) s fault)

/-- R48 to R50, R64: the loader's commands. VERIFY latches the address and the staging base, protects the region and copies the image there; its end
is an image that passed every check, or the code of the check that failed (0x0A for a source that cannot be read). COMMIT refuses an image
that is not verified (0x07), a group that is not drained (0x08) and a privileged entry that the image may not have (0x09), is done at
once without a group, and otherwise holds its groups; each group that is written has its image, the next stamp and strands at
their entry points, and the next group follows; a staged image that cannot be read leaves the group without one (0x0A). ABANDON frees the
region. A command that finds the loader busy does nothing. (The code 0x08 of a group that is no longer drained at its turn is the model's
choice, assumption 70.) -/
def Obligations.Loader : Prop :=
  ∀ (s : State) (gmask : BitVec 16) (g : Fin 16) (js : List Nat),
    let m := s.m
    let a := m.get SEAM_LDR_ADDR_HI_addr * 2 ^ 32 + m.get SEAM_LDR_ADDR_LO_addr * 4096
    let b := m.get SEAM_LDR_STG_base * 0x40000
    let src := m.seam.ldrAddr
    let dst := m.seam.ldrStage
    let found := (m.hbmBytes a 512).map BitVec.toNat
    let all := if headCheck found a = 0 then imageLen found else 512
    let head := (m.hbmBytes dst 512).map BitVec.toNat
    let len := imageLen head
    let same := fun n : Nat => ∀ i < n, m.hbmByte (src + i) = m.hbmByte (dst + i)
    let reads := fun n : Nat => (m.hbmDetect none src n).1 = false
    let code := headCheck head src
    let signed := m.signCheck head ((m.hbmBytes (dst + 512) (len - 512)).map BitVec.toNat)
    let last := if signed = 0 ∧ hdrNat head 8 4 < m.get SEAM_LDR_MINVER_minver then 6 else signed
    let gs := (List.range 16).filter fun j => bitOf gmask.toNat j
    let opens := fun j : Nat => hdrNat head (0x10 + 2 * (j % 8)) 2
    let mayEnter := hdrNat head 6 2 ≠ 0 ∨ ∀ j ∈ gs, ∀ u < 32, m.privileged (32 * j + u) = true → opens u = 0xFFFF
    let gen := m.get (SEAM_GSTAT_gen g.val)
    let gen' := if gen = 0xFFFF then 1 else gen + 1
    let done := fun (c : Nat) (n : Fjoek) => n.get SEAM_LDR_STAT_busy = 0 ∧ n.get SEAM_LDR_STAT_code = c ∧ n.seam.loader = .idle
    let goes := fun (n : Fjoek) => if js = [] then done 0 n
      else n.seam.loader = .committing js ∧ ∀ j ∈ js.head?, n.get (SEAM_GSTAT_busy j) = 1
    let idle : Fjoek := { m.put SEAM_LDR_STAT_verified 0 with seam := { m.seam with prot := none, loader := .idle } }
    let free := m.trailing = false ∧ m.isOn SEAM_LDR_STAT_busy = false
    let turn := m.seam.loader = .committing (g.val :: js) ∧ ¬ g.val ∈ js ∧ ∀ j ∈ js, j < 16
    (m.trailing = false → m.isOn SEAM_LDR_STAT_busy = true →
      Does .loaderVerify s m ∧ Does (.loaderCommit gmask) s m ∧ Does .loaderAbandon s m) ∧
    (free → Ends .loaderVerify s fun n => n.get SEAM_LDR_STAT_busy = 1 ∧ n.get SEAM_LDR_STAT_verified = 0 ∧ n.seam.ldrAddr = a ∧
      n.seam.ldrStage = b ∧ n.seam.prot = some b ∧ n.seam.loader = .verifying ∧ (m.inAperture b all = false → ∀ i < all, n.hbmByte (b + i) = m.hbmByte (a + i))) ∧
    (m.seam.loader ≠ .verifying → Does .loaderVerifyDone s m) ∧
    (m.seam.loader = .verifying → Ends .loaderVerifyDone s fun n => n.get SEAM_LDR_STAT_busy = 0 ∧ n.seam.loader = .idle) ∧
    (m.seam.loader = .verifying → same 512 → (m.hbmDetect none src (if code = 0 then len else 512)).1 = true →
      Ends .loaderVerifyDone s (done 0x0A)) ∧
    (m.seam.loader = .verifying → same 512 → code ≠ 0 → reads 512 → Ends .loaderVerifyDone s fun n => done code n ∧
      n.get SEAM_LDR_STAT_verified = m.get SEAM_LDR_STAT_verified) ∧
    (m.seam.loader = .verifying → same len → code = 0 → reads len → Ends .loaderVerifyDone s fun n => done last n ∧
      n.get SEAM_LDR_STAT_verified = bnat (last == 0)) ∧
    (free → m.isOn SEAM_LDR_STAT_verified = false → Ends (.loaderCommit gmask) s (done 7)) ∧
    (free → m.isOn SEAM_LDR_STAT_verified = true → (∃ j ∈ gs, m.groupDrained j = false) → Ends (.loaderCommit gmask) s (done 8)) ∧
    (free → m.isOn SEAM_LDR_STAT_verified = true → (∀ j ∈ gs, m.groupDrained j = true) →
      (¬mayEnter → Ends (.loaderCommit gmask) s (done 9)) ∧ (gs = [] → Ends (.loaderCommit gmask) s (done 0)) ∧
      (mayEnter → ∀ j l, gs = j :: l → Ends (.loaderCommit gmask) s fun n =>
        n.get SEAM_LDR_STAT_busy = 1 ∧ n.get (SEAM_GSTAT_busy j) = 1 ∧ n.seam.loader = .committing gs)) ∧
    (turn → m.groupDrained g.val = false → Ends .loaderGroupWritten s (done 8)) ∧
    (turn → m.groupDrained g.val = true → (m.hbmDetect none dst len).1 = true → Ends .loaderGroupWritten s fun n => done 0x0A n ∧
      n.get (SEAM_GSTAT_hasimg g.val) = 0 ∧ n.get (SEAM_GSTAT_gen g.val) = 0) ∧
    (turn → m.groupDrained g.val = true → (m.hbmDetect none dst len).1 = false → Ends .loaderGroupWritten s fun n => goes n ∧
      n.get (SEAM_GSTAT_gen g.val) = gen' ∧ n.get (SEAM_GSTAT_hasimg g.val) = 1 ∧ n.get (SEAM_GSTAT_busy g.val) = 0 ∧
      ∀ u < 32, let y := n.strand (32 * g.val + u)
        y.gen = gen' ∧ y.mode = (if opens u = 0xFFFF then .idle else .ready) ∧ y.pc = (if opens u = 0xFFFF then 0 else BitVec.ofNat 13 (opens u))) ∧
    (free → Does .loaderAbandon s (((idle.put SEAM_LDR_STAT_code 0).put SEAM_LDR_STAT_busy 0).put (SEAM_ESTAT_ldr_done 0) 1))

/-- R70 to R73: an instruction of a strand that may not issue does nothing; a register that waits for a load puts the strand in STALL; a
register that waits for a verdict passes the strand over; a false guard skips the instruction. (`add` stands for the rest: what
holds it is the shared issue of instructions.) -/
def Obligations.IssueRules : Prop :=
  ∀ (s : State) (i : Issue) (rd ra rb : Fin 32),
    let m := s.m
    let k := issueKey i
    let x := m.strand k
    let uses := [readsPred i.psel, onlyWrites rd, ra.val, rb.val]
    let whole := tableGet (fun _ => false) m.seam.progue (8192 * i.e.val + x.pc.toNat) = false
    let c := Instr.add i rd ra rb
    m.calm i.e.val →
    (m.canIssue k = false → Does c s m) ∧
    (m.canIssue k = true → whole → (∃ r ∈ uses, r ∈ x.loading) →
      Does c s (m.setStrand k { x with mode := .stall, stallFor := .loads uses })) ∧
    (m.canIssue k = true → whole → (∀ r ∈ uses, ¬ r ∈ x.loading) → (ra.val ∈ x.posts ∨ rb.val ∈ x.posts) → Does c s m) ∧
    (m.canIssue k = true → whole → (∀ r ∈ uses, ¬ r ∈ x.loading ∧ ¬ r ∈ x.posts) → x.pred i.psel.val = i.pneg →
      Runs c s (m.setStrand k { x.next with fencing := false }))

/-- R45, R71: the strand that faults stops at its instruction with the cause of its fault and nothing of the instruction's own effect. -/
def Obligations.StrandFaults : Prop :=
  ∀ (s : State) (i : Issue) (rd ra rb : Fin 32) (off : BitVec 18) (hoff : BitVec 24) (boff : BitVec 22) (qoff : BitVec 9)
      (pe : Fin 8) (target : BitVec 13) (n : BitVec 3),
    let m := s.m
    let x := m.issuing i
    let e := i.e.val
    let a := (x.rd ra.val + off.signExtend 64).toNat
    let h := (x.rd ra.val + hoff.signExtend 64).toNat
    let room := x.accs.length < 8
    let outside := m.isOn (SEAM_HWIN_en e) = false ∨ h < m.get (SEAM_HWIN_base e) * 2 ^ 20 ∨
      (m.get (SEAM_HWIN_limit e) + 1) * 2 ^ 20 ≤ h
    let faults := fun (c : Instr) (cause : Nat) => Runs c s (m.faulting i cause)
    (m.issuable i [onlyWrites rd, ra.val] →
      (0x40000 ≤ a → faults (.ldd i rd ra off) 0x03) ∧
      (a < 0x40000 → a % 8 ≠ 0 → faults (.ldd i rd ra off) 0x06) ∧
      (a < 0x40000 → a % 8 = 0 → tableGet (fun _ => false) m.seam.lue (32768 * e + a / 8) = true → faults (.ldd i rd ra off) 0x0A) ∧
      (m.leaseOf (issueKey i) (x.rd ra.val).toNat = none → faults (.lsize i rd ra) 0x05) ∧
      (m.isOn (SEAM_STRCTL_priv e i.s.val) = false → faults (.evset i rd ra) 0x02)) ∧
    (m.issuable i [ra.val, onlyWrites rd] → room →
      (outside → faults (.hld i rd ra hoff pe) 0x04) ∧
      (m.inHwin e h 1 = true → h % 8 ≠ 0 → faults (.hld i rd ra hoff pe) 0x06) ∧ (65536 ≤ (x.rd ra.val).toNat → faults (.qld i rd ra qoff) 0x07) ∧
      (256 ≤ qoff.toNat → faults (.qld i rd ra qoff) 0x07)) ∧
    (m.issuable i [ra.val, rb.val] → room → (outside → faults (.hst i ra rb hoff) 0x04) ∧
      (m.inHwin e h 1 = true → m.inStaging h 8 = true → faults (.hst i ra rb hoff) 0x04)) ∧
    (m.issuable i [ra.val, onlyWrites rd] → m.isOn (SEAM_STRCTL_priv e i.s.val) = false → faults (.rld i rd ra hoff) 0x02) ∧
    (let b := (x.rd ra.val).toNat
     let lies := b + 64 ≤ 0x40000
     let named := m.handlesOk (issueKey i) (m.descFrom (issueKey i) x b)
     let both := fun cause : Nat => (m.issuable i [ra.val] → m.queueFree (e / 4) ≠ 0 → faults (.bulk i ra) cause) ∧
       (m.issuable i [onlyWrites rd, ra.val] → faults (.tbulk i rd ra) cause)
     (0x40000 ≤ b → both 0x03) ∧ (lies → named = false → both 0x05) ∧
       (b < 0x40000 → (lies → named = true) → b % 64 ≠ 0 → both 0x06)) ∧
    (m.issuable i [onlyWrites rd, ra.val, rb.val] → room → m.leaseOf (issueKey i) (x.rd ra.val).toNat = none →
      faults (.bld i rd ra rb boff pe) 0x05) ∧
    (m.issuable i [] → (8 ≤ x.rets.length → faults (.call i target) 0x09) ∧ (x.rets = [] → faults (.ret i) 0x09) ∧
      (6 ≤ n.toNat → faults (.classSet i 0 true n) 0x08))

/-- R98 to R107: what each bulk operation puts where, of a started descriptor whose source is intact. Each reaches its completion point
with code 0, but a verification that fails (0x06) and a comparison that finds a difference (0x05). -/
def Obligations.BulkOperations : Prop :=
  ∀ (s : State) (id : Nat) (d : Desc),
    let m := s.m
    let src := placeOf d.ssp (d.w 2)
    let dst := placeOf d.dsp (d.w 1)
    let len := d.len
    let whole := fun (p : Place) (n : Nat) => (m.spans (some (d.engine / 4)) p n).1 = []
    let done := fun (n : Fjoek) (code result : Nat) => n.setDesc { d with phase := .done, code := code, result := result }
    let byte := fun (p : Place) (i : Nat) => ((p.bytes m len).getD i 0).toNat
    let params := d.params
    let srcs := (params.take d.nsrc).map (placeOf 0)
    let outs := ((params.drop 16).take d.nout).map (placeOf 0)
    let coef := fun j k : Nat => nth params (20 + 2 * j + k / 8) 0 / 256 ^ (k % 8) % 256
    let four := ([2, 4, 5, 6].take d.nsrc).map fun i => placeOf 0 (d.w i)
    let z := nth params 0 0
    let print := fun j : Nat => fprint z (((src.at (4096 * j)).bytes m 4096).map BitVec.toNat)
    let first := bitOf d.hi 0
    let text := (src.bytes m len).map BitVec.toNat
    let key := (bytesOf 64 z).map BitVec.toNat
    m.findDesc id = some d → d.phase = .started → m.runs 3 = true → m.twin.waiters = [] → m.trailing = false → m.mngl.prints = [] →
      m.twin.shadow = [] →
      (d.op = 0 → d.dsp ≤ 1 → d.ssp ≤ 1 → d.fpx = false → m.isOn TWIN_MIRWIN_en = false → whole src len →
        Does (.bulkMove id) s (done (m.putAt dst (src.bytes m len)) 0 0)) ∧
      (d.op = 2 → d.dsp = 0 → (∀ p ∈ four, whole p len) → ∃ o : List Byte, o.length = len ∧
        (∀ i < len, (o.getD i 0).toNat = four.foldl (fun v p => v ^^^ byte p i) 0) ∧
        Does (.bulkXor id) s (done (m.putAt dst o) 0 0)) ∧
      (d.op = 1 → (∀ p ∈ srcs, whole p len) → ∃ os : List (List Byte), os.length = outs.length ∧
        (∀ j < os.length, (os.getD j []).length = len ∧ ∀ i < len, ((os.getD j []).getD i 0).toNat =
          srcs.zipIdx.foldl (fun v p => v ^^^ gfMul (coef j p.2) (byte p.1 i)) 0 % 256) ∧
        Does (.bulkGfmac id) s (done ((outs.zip os).foldl (fun n p => n.putAt p.1 p.2) m) 0 0)) ∧
      (d.op = 3 → d.dsp = 0 → d.ssp = 0 → whole src len →
        Does (.bulkFprint id) s (done (m.putAt dst (((List.range (len / 4096)).map print).map (bytesOf 8)).flatten) 0 0)) ∧
      (d.op = 4 → d.dsp = 0 → d.ssp = 0 → d.piMode = 3 → whole src (len * d.piData) →
        let b := src.bytes m (len * d.piData)
        Does (.bulkPi id) s (done (m.putAt dst ((List.range len).map fun i =>
          d.piMade i ((b.drop (i * d.piData)).take d.piData) (List.replicate d.piMeta 0)).flatten) 0 0)) ∧
      (d.op = 4 → d.ssp = 0 → d.piMode = 0 → whole src (len * (d.piData + d.piMeta)) →
        let r := d.piVerify len 0 (src.bytes m (len * (d.piData + d.piMeta)))
        Does (.bulkPi id) s (m.setDesc { d with
          phase := .done, detail := r.2, code := if r.2 = 0 then 0 else 6, result := if r.2 = 0 then 0 else r.1 })) ∧
      (d.op = 5 → d.dsp = 0 → d.ssp = 0 → whole src len → Does (.bulkXts id) s (done (m.putAt dst
        ((xtsUnits first (key.take 32) (key.drop 32) d.unit (len / d.unit) (d.w 5) text).map (BitVec.ofNat 8))) 0 0)) ∧
      (d.op = 6 → d.dsp = 0 → d.ssp = 0 → whole src len → first = true → bitOf d.hi 1 = true →
        let q := text.length / 128
        let tail := shaPad len (text.drop (128 * q))
        let sum := shaDigest (shaBlocks (tail.length / 128) (shaBlocks q shaInit text) tail)
        Does (.bulkHash id) s (done (m.putAt dst (sum.map (BitVec.ofNat 8) ++ List.replicate 80 0)) 0 0)) ∧
      (d.op = 7 → Does (.bulkFill id) s
        (done (m.putAt dst ((List.range len).map fun i => BitVec.ofNat 8 (d.w 5 / 256 ^ (i % 8)))) 0 0)) ∧
      (d.op = 8 → whole dst len → whole src len →
        (dst.bytes m len = src.bytes m len → Does (.bulkCompare id) s (done m 0 0)) ∧
        (∀ i < len, byte dst i ≠ byte src i → (∀ j < i, byte dst j = byte src j) → Does (.bulkCompare id) s (done m 5 i)))

/-- R108, R109, R112, R113: the head of a sub-queue that fails a check completes with the check's code, and starts once its draw is
served; a descriptor at its completion point, whose write TLPs have been transmitted, leaves the queue, writes its status word where it asks for it, and posts its tag. Bytes put at
a place of HBM or of a lease stand there, and every other byte of HBM and of the buffer stays (R98, R114). -/
def Obligations.Descriptors : Prop :=
  (∀ (m : Fjoek) (b : List Byte),
    (∀ a, a + b.length ≤ 2 ^ 35 → m.hbmFree a b.length = true → let n := m.putAt (.mem a) b
      n.mngl = m.mngl ∧ ∀ j, n.hbmByte j = if a ≤ j ∧ j < a + b.length then b.getD (j - a) 0 else m.hbmByte j) ∧
    (∀ h o, let l := m.leaseAt (h % 65536)
      l.cells.Nodup → o + b.length ≤ 256 * l.cells.length → let n := m.putAt (.cell h o) b
      n.hbm = m.hbm ∧ n.leaseBytes (h % 65536) o b.length = b ∧
      ∀ j, (∀ i < b.length, j ≠ l.byteAddr (o + i)) → n.bufByte j = m.bufByte j)) ∧
  ∀ (s : State) (g : Fin 16) (c : Fin 6) (id : Nat) (d : Desc),
    let m := s.m
    let n := m.descCost d
    let e : Desc := if d.op = 1 then { d with params := m.startParams d } else d
    let level := ((Nat.min n (m.depth c.val) : Nat) : Int) ≤ m.level c.val
    let gone := fun t : Fjoek => t.findDesc d.id = none
    (m.runs 3 = true → (m.clusterDescs g.val).find? (fun q => q.cls == c.val && !q.inFlight) = some d → d.phase = .waiting →
      (bitOf (d.w 0) 14 = false ∨ m.earlier d = false) →
      (d.check m ≠ 0 → Ends (.descriptorHeadCheck g c) s fun t => gone t ∧ t.isOn (MNGL_GSTAT_dinv (d.engine / 4)) = true) ∧
      (d.check m = 0 → m.trailing = false → (n = 0 ∨ c.val = 2 ∨ (m.draws c.val = [] ∧ level)) →
        Ends (.descriptorHeadCheck g c) s fun t => ∃ q, t.findDesc d.id = some q ∧ q.phase = .started) ∧
      (d.check m = 0 → n ≠ 0 → c.val ≠ 2 → ¬(m.draws c.val = [] ∧ level) →
        Does (.descriptorHeadCheck g c) s ((m.setDraws c.val (m.draws c.val ++ [⟨.desc d.id, n⟩])).setDesc { e with phase := .drawing }))) ∧
    (m.findDesc id = some d → d.phase = .done → m.trailing = false → m.tlpHeld d = true → Does (.descriptorComplete id) s m) ∧
    (m.findDesc id = some d → d.phase = .done → m.trailing = false → m.tlpHeld d = false → d.engine < 64 →
      (bitOf (d.w 0) 26 = true → bitsOf (d.w 0) 41 27 < 32768) → Ends (.descriptorComplete id) s fun t => gone t ∧
        (bitOf (d.w 0) 26 = true → t.lNat d.engine (8 * bitsOf (d.w 0) 41 27) 8 = d.status % 2 ^ 64))

/-- R106, R115: the key store loads a key whose halves differ, refuses one whose halves are equal, erases a slot, and forgets the key
data as it is done; a write of MNGL_FPZ_HI commits the evaluation point. -/
def Obligations.KeyStore : Prop :=
  ∀ (s : State) (slot : BitVec 10) (hi : Word32),
    let m := s.m
    let k := (List.range 16).foldl (fun v i => v + tableGet (fun _ => 0) m.mngl.xdata i * 2 ^ (32 * i)) 0
    let busy := m.put MNGL_XKSTAT_busy 1
    let set := fun (v : Nat) (load : Bool) => ({ busy with mngl := { m.mngl with
      xkeys := tableSet (fun _ => 0) m.mngl.xkeys slot.toNat v, xkLoad := load } } : Fjoek)
    let z := m.mngl.fpzLo + 2 ^ 32 * hi.toNat
    (m.isOn MNGL_XKSTAT_busy = false →
      (k % 2 ^ 256 ≠ k / 2 ^ 256 → Does (.xtsKeyLoad slot) s ((set k true).put MNGL_XKSTAT_refused 0)) ∧
      (k % 2 ^ 256 = k / 2 ^ 256 → Does (.xtsKeyLoad slot) s
        ((Fjoek.put { busy with mngl := { m.mngl with xkLoad := true } } MNGL_XKSTAT_refused 1).put MNGL_STAT_xk_rej 1)) ∧
      Does (.xtsKeyErase slot) s (set 0 false)) ∧
    (m.isOn MNGL_XKSTAT_busy = true →
      Does (.xtsKeyLoad slot) s m ∧ Does (.xtsKeyErase slot) s m ∧
      (m.mngl.xkLoad = true → Does .xtsKeyCommandDone s { m.put MNGL_XKSTAT_busy 0 with mngl := { m.mngl with xdata := [], xkLoad := false } }) ∧
      (m.mngl.xkLoad = false → Does .xtsKeyCommandDone s (m.put MNGL_XKSTAT_busy 0))) ∧
    Does (.fpzCommit hi) s (Fjoek.put { m with mngl := { m.mngl with fpz := z } } MNGL_FPSTAT_zset (bnat (z != 0)))

/-- R8 to R11: a write sets each field of a register by its access code: RW takes the value, RWL only while its block is not sealed, W1C
clears the bits written as 1, W1S sets them, and every other field stays; no other register changes.
A reset gives each field of its kind the field's listed value, in every register, and every other field stays (R10, R11). -/
def Obligations.RegisterFields : Prop :=
  (∀ (m : Fjoek) (a v : Nat) (d : RegDesc) (i : List Nat), regDesc a = some (d, i) →
    d.fields.Pairwise (fun f g => f.hi < g.lo ∨ g.hi < f.lo) → (∀ f ∈ d.fields, f.lo ≤ f.hi ∧ f.hi < 32) →
    let n := m.writeFields a v
    (∀ b ≠ a, n.reg b = m.reg b) ∧ ∀ f ∈ d.fields,
      let old := bitsOf (m.reg a) f.hi f.lo
      let x := bitsOf v f.hi f.lo
      bitsOf (n.reg a) f.hi f.lo = match f.acc with
        | .rw => x
        | .rwl => if m.sealedAt a then old else x
        | .w1c => old - (old &&& x)
        | .w1s => old ||| x
        | _ => old) ∧
  ∀ (m : Fjoek) (p : Reset → Bool) (q : Nat → Bool) (a : Nat) (d : RegDesc) (i : List Nat), regDesc a = some (d, i) →
    d.fields.Pairwise (fun f g => f.hi < g.lo ∨ g.hi < f.lo) → (∀ f ∈ d.fields, f.lo ≤ f.hi ∧ f.hi < 32) →
    let n := m.resetFields p q
    (q a = false → n.reg a = m.reg a) ∧ (q a = true → ∀ f ∈ d.fields, bitsOf (n.reg a) f.hi f.lo =
      if p f.rst then bitsOf (regDflt a).toNat f.hi f.lo else bitsOf (m.reg a) f.hi f.lo)

/-- R6 to R10, R508, R512: what a core's access to a register does: a write of a register without effects of its own sets its fields; a
read answers the value, clears RC fields, and of a wide value latches the higher word; a seal bit sets; a misaligned access is not
performed; an access into a stopped domain hangs the core and is recorded, and a read of the record takes it. -/
def Obligations.RegisterAccess : Prop :=
  ∀ (s : State) (who : Accessor) (addr val : Word32) (d : RegDesc) (i : List Nat) (f : Fld),
    let m := s.m
    let a := addr.toNat
    let v := val.toNat
    let plain := [0x06, 0x0A, 0x26, 0x32, 0x33].contains (a / 0x10000) = true
    let odd := [XPORT_QPALLOC, THIM_KALLOC, THIM_KREV, FWD_AGELOG, CLK_HANG].contains a = true ∨ (0x308000 ≤ a ∧ a < 0x310000) ∨
      (0x280000 ≤ a ∧ a < 0x2B0000 ∧ a % 0x2000 = 0x44) ∨ wideLow a = true ∨ (4 ≤ a ∧ wideLow (a - 4) = true)
    let sent := fun (n : Fjoek) (x : Nat) => n.send (.read a x)
    let code := coreCode who
    let record := 2 ^ 31 + code * 2 ^ 28 + blockDomain a * 2 ^ 24 + a % 2 ^ 24
    let hung : Fjoek := { m.bump CLK_HANGN_count 1 with
      hearth := { m.hearth with coresHung := withBits m.hearth.coresHung code code 1 } }
    (who = .core0 ∨ who = .core1) → m.coreOn who = true →
      (a % 4 = 0 → m.reachable a = true → regDesc a = some (d, i) →
        (plain → m.trailing = false → Does (.registerWrite who addr val) s (m.writeFields a v)) ∧
        (canonAddr a = a → ¬odd → d.fields.any (fun x => x.acc == .rc) = true → Does (.readClear who addr) s
          (sent (m.setReg a (clearRc d (m.reg a))) (m.view a &&& readMask d))) ∧
        (canonAddr a = a → wideLow a = true → Does (.wideValueLowWordRead who addr) s
          (sent { m with wide := tableSet regDflt m.wide (a + 4) (BitVec.ofNat 32 (m.wideWord (a + 4))) } (m.wideWord a))) ∧
        (plain → m.trailing = false → sealField a = some f → f.addr = a → Ends (.sealSet who addr) s fun n => n.isOn f = true)) ∧
      (a % 4 = 0 → m.reachable a = false → ∀ w : Bool,
        (m.isOn CLK_HANG_valid = false →
          Does (.accessIntoStoppedDomain who w addr) s ((hung.setReg CLK_HANG record).put CLK_ESTAT_hang 1)) ∧
        (m.isOn CLK_HANG_valid = true → Does (.accessIntoStoppedDomain who w addr) s
          (Fjoek.put { hung with hearth := { hung.hearth with hangs := m.hearth.hangs ++ [record] } } CLK_ESTAT_hang 1))) ∧
      Does (.misalignedRegisterAccess who true addr) s (m.put MGMT_ESTAT_regerr 1) ∧
      Ends (.misalignedRegisterAccess who false addr) s (fun n => n.isOn MGMT_ESTAT_regerr = true ∧
        ∃ l r, n.out = m.out ++ l ++ [.read a 0] ++ r) ∧
      (m.hearth.hangs = [] → Does (.hangRecordRead who) s
        ((m.setReg CLK_HANG 0).send (.read CLK_HANG (m.reg CLK_HANG)))) ∧
      (∀ h r, m.hearth.hangs = h :: r → Does (.hangRecordRead who) s
        ((Fjoek.setReg { m with hearth := { m.hearth with hangs := r } } CLK_HANG h).send (.read CLK_HANG (m.reg CLK_HANG))))

/-- R333, R508: a BAR0 access while the bars are open reaches its register, reads 0 beyond the register space and while BAR0 is off, is
not performed where it is misaligned or not a whole dword, and is refused where the block's domain is stopped; one that times out is
refused and may or may not have been performed. -/
def Obligations.Bar0 : Prop :=
  ∀ (s : State) (x : BitVec 26) (data : Word32) (d : RegDesc) (i : List Nat),
    let m := s.m
    let a := x.toNat
    let open_ := m.barsOpen 0 = true
    let on := open_ ∧ m.isOn ATT_CTL_bar0en = true ∧ a < 0x1000000
    let here := on ∧ a % 4 = 0 ∧ m.reachable a = true ∧ regDesc a = some (d, i) ∧
      [0x0A, 0x26, 0x32, 0x33].contains (a / 0x10000) = true ∧ a ≠ CLK_HANG ∧ m.trailing = false
    let refused := fun n : Fjoek => n.reg64 ATT_BAR0REF_LO = (m.reg64 ATT_BAR0REF_LO + 1) % 2 ^ 64 ∧ n.isOn ATT_STAT_bar0ref = true
    let read := m.setReg a (clearRc d (m.reg a))
    (m.barsOpen 0 = false → Does (.bar0Access true x data true) s m ∧ Does (.bar0Access false x data true) s (m.send .attUr)) ∧
    (open_ → ¬on → Does (.bar0Access true x data true) s m ∧ Does (.bar0Access false x data true) s (m.send (.attData 0))) ∧
    (on → Does (.bar0Access true x data false) s (m.put MGMT_ESTAT_regerr 1)) ∧
    (on → a % 4 = 0 → m.reachable a = false → Ends (.bar0Access true x data true) s refused) ∧
    (here → (∀ q < 4, a ≠ DARN_PROG q) → Does (.bar0Access true x data true) s (m.writeFields a data.toNat)) ∧
    (here → (∃ q < 4, a = DARN_PROG q) → Does (.bar0Access true x data true) s m) ∧
    (here → (epochDomain a).isSome = false → Does (.bar0Access false x data true) s (read.send (.attData (m.view a &&& readMask d)))) ∧
    (here → Ends (.bar0AccessTimeout true x data) s fun n => refused n ∧
      (n.reg a = m.reg a ∨ n.reg a = (m.writeFields a data.toNat).reg a)) ∧
    (here → Ends (.bar0AccessTimeout false x data) s refused)

/-- R502 to R504, R508: a lost clock stops the running domains that it feeds and marks them lost; the clock's return restarts a domain
that the module's state wants; a commanded stop ends with the domain stopped. -/
def Obligations.ClockDomains : Prop :=
  ∀ (s : State) (what : ClockLoss) (d : Fin 14),
    let m := s.m
    Ends (.clockLost what) s (fun n => ∀ j ∈ lossDomains what, bitOf n.hearth.lost j = true ∧ (m.runs j = true → n.runs j = false)) ∧
    (bitOf m.hearth.lost d.val = true → m.wanted d.val = true → m.hearth.core ≠ 0 → d.val ≠ 6 →
      Ends (.domainRestart d) s fun n => bitOf n.hearth.lost d.val = false ∧ n.runs d.val = true) ∧
    (bitOf m.hearth.stopping d.val = true → Ends (.commandedStopDone d) s fun n =>
      bitOf n.hearth.stopping d.val = false ∧ n.runs d.val = false)

/-- R387 to R390, R394, R395, R400: the module's moves without power in its units. FEED and HEARTH_RST_N run a Hearth reset; at its end
the ledger stands in the shadow and the Hearth is ready; a kindle request starts a Kindle from HEARTH, and turns the feed on. -/
def Obligations.PowerMoves : Prop :=
  ∀ (s : State) (pins : BitVec 4) (t : BitVec 11),
    let m := s.m
    let h := m.hearth
    let w := otpShadow s.fuses 9
    let strap := fun j : Nat => bnat (if bitOf w j then bitOf w (j + 8) else bitOf pins.toNat j)
    let due := 1000000000 * m.get HEARTH_ALARM_s
    let inert := fun (cause : Nat) (n : Fjoek) => n.power = 1 ∧ n.get HEARTH_RSTC_hcause = cause ∧ n.get HEARTH_RSTC_kcause = 6 ∧
      n.get HEARTH_RSTC_kcount = 0 ∧ n.hearth.ready = false ∧ n.hearth.sampled = false ∧ n.hearth.off = false ∧ n.time = 0 ∧
      n.feed = feedInit ∧ n.bay = [] ∧ n.hbm = [] ∧ n.reg CLK_DOMSTAT = 3 ∧ n.hearth.spi = h.spi ∧
      ∀ a, ¬(0x5000000 ≤ a ∧ a < 0x5200000) → n.mramByte a = m.mramByte a
    let ready := m.awake = true ∧ h.rstLow = false ∧ m.power = 1 ∧ m.isOn HEARTH_STAT_otpbad = false ∧ m.feed.rest ≠ 5
    let kindled := fun n : Fjoek => n.power = 2 ∧ n.isOn HEARTH_STAT_tsd = false ∧ n.hearth.retryDue = false ∧
      n.get HEARTH_RAILSTAT_en =
        (if m.isOn FEED_STAT_pg = true ∧ m.get HEARTH_RAILSTAT_en = 0 then 1 else m.get HEARTH_RAILSTAT_en) ∧
      (m.feed.gate = 0 → m.feed.rest ≠ 6 → m.feedBlocked = false → n.feed.gate = 1)
    let waking := h.off = false ∧ h.rstLow = false ∧ h.ready = false
    (h.off = true → Ends .feedOn s (inert 1)) ∧
    (h.off = false → Ends .hearthRstNAssert s fun n => inert 2 n ∧ n.hearth.rstLow = true ∧ n.hearth.counting = false) ∧
    (h.rstLow = true → Does .hearthRstNRelease s
      ((m.setHearth { h with rstLow := false, counting := true, slowAcc := 0 }).setReg64 HEARTH_TIME_LO 0)) ∧
    (waking → h.sampled = false → Ends (.strapSample pins) s fun n => n.hearth.sampled = true ∧
      n.get TOP_STRAP_pins = pins.toNat ∧ n.get TOP_STRAP_twin = strap 0 ∧ n.get TOP_STRAP_autostart = strap 1 ∧
      n.get TOP_STRAP_pos = strap 2 ∧ n.get TOP_STRAP_recovery = strap 3) ∧
    (waking → h.sampled = true → m.feed.rest ≠ 5 → Ends .hearthResetDone s fun n => n.hearth.ready = true ∧
      (∀ j < 1024, n.reg (OTP_REC j) = otpShadow s.fuses j) ∧ n.get OTP_STAT_arb = s.fuses.arb % 128 ∧
      n.get TWIN_CTL_en = m.get TOP_STRAP_twin ∧ (otpGens s.fuses = [] → n.isOn HEARTH_STAT_otpbad = true ∧ n.power = m.power) ∧
      (m.isOn TOP_STRAP_autostart = true → m.power = 1 → m.isOn HEARTH_STAT_otpbad = false → otpGens s.fuses ≠ [] → n.power = 2)) ∧
    (h.off = false → Ends .powerOff s fun n => n.power = 0 ∧ n.hearth.off = true ∧ n.reg CLK_DOMSTAT = 0 ∧
      ∀ a, ¬(0x5000000 ≤ a ∧ a < 0x5200000) → n.mramByte a = m.mramByte a) ∧
    (h.off = false → m.isOn HEARTH_STAT_xtalfail = false →
      Does .xtalFail s ((m.put HEARTH_STAT_xtalfail 1).put HEARTH_ESTAT_hstat 1)) ∧
    (ready → Ends .kindleNFall s kindled) ∧
    (ready → m.time < due → Ends .hearthAlarmMatch s fun n => kindled n ∧ n.time = due ∧ n.isOn HEARTH_ESTAT_alarm = true) ∧
    (ready → h.retryDue = true → Ends .railRetry s fun n => kindled n ∧ n.hearth.retries = h.retries + 1) ∧
    (ready → m.isOn HEARTH_STAT_tsd = true → m.isOn HEARTH_CTL_tsd_auto = true →
      t.toInt ≤ 4 * (clampTo 60 125 (m.get HEARTH_TSD_restart) : Nat) → Ends (.thermalRestart t) s kindled) ∧
    (m.awake = true → Ends .hrst s (inert 4))

/-- R387, R391, R392, R396, R398: SERVE starts the domains of service and BANK stops them; KRST, SLEEP, thermal shutdown, a missing or
a lost rail and the watchdog's third stage run a Kindle reset with their cause, into KINDLING or DOUSING; rails rise and fall one by one. -/
def Obligations.KindleResets : Prop :=
  ∀ (s : State) (j : Fin 6) (i : Fin 16) (t : BitVec 11),
    let m := s.m
    let n := m.railsUp
    let en := fun k : Nat => (⟨HEARTH_RAILSTAT, k, k⟩ : Fld)
    let pg := fun k : Nat => (⟨HEARTH_RAILSTAT, 8 + k, 8 + k⟩ : Fld)
    let works := m.power = 3 ∨ m.power = 4
    let failed := fun (k : Nat) (x y : Fjoek) => Kindled x y 4 6 ∧ y.get HEARTH_STAT_rail = k ∧ y.isOn HEARTH_STAT_railfail = true ∧
      y.isOn HEARTH_ESTAT_hstat = true
    (m.awake = true → m.power = 3 → Ends .serve s fun y => y.power = 4 ∧ y.get HEARTH_CMDSTAT_code = 0 ∧
      y.isOn HEARTH_ESTAT_pstate = true ∧ ∀ d ∈ [3, 4, 7, 8, 13], (d = 13 → m.isOn TOP_STRAP_twin = true) →
        bitOf m.hearth.lost d = false → y.runs d = true) ∧
    (m.awake = true → m.power = 4 → m.bankReady = true → Ends .bank s fun y => y.power = 3 ∧ y.get HEARTH_CMDSTAT_code = 0 ∧
      y.isOn HEARTH_ESTAT_pstate = true ∧ ∀ d ∈ [3, 4, 6, 7, 8, 13], m.runs d = true → bitOf y.hearth.stopping d = true) ∧
    (m.awake = true → works → Ends .sleep s fun y => Kindled m y 5 6 ∧ y.get HEARTH_CMDSTAT_code = 0) ∧
    (m.awake = true → works → Ends .krst s fun y => Kindled m y 1 2 ∧ y.get HEARTH_CMDSTAT_code = 0) ∧
    (works → 520 ≤ t.toInt → Ends (.thermalShutdown i t) s fun y => Kindled m y 3 6 ∧ y.isOn HEARTH_STAT_tsd = true) ∧
    (m.get HEARTH_WDT_stage = 3 → m.isOn HEARTH_RSTC_wdk = false → Ends .watchdogStage3Expiry s fun y =>
      Kindled m y 2 2 ∧ y.isOn HEARTH_RSTC_wdk = true) ∧
    (m.get HEARTH_WDT_stage = 3 → m.isOn HEARTH_RSTC_wdk = true → Ends .watchdogStage3Expiry s fun y =>
      y.power = 1 ∧ y.get HEARTH_RSTC_hcause = 3 ∧ y.hearth.ready = false ∧ y.time = 0) ∧
    (m.power = 2 → n ≠ 0 → Does .railEnableNext s (if n < 6 then (m.put (pg (n - 1)) 1).put (en n) 1 else m.put (pg (n - 1)) 1)) ∧
    (m.power = 2 → n ≠ 0 → m.isOn (pg (n - 1)) = false → Ends .railFailure s (failed (n - 1) m)) ∧
    (2 ≤ m.power → m.power ≤ 4 → m.isOn (pg j.val) = true → Ends (.railFault j) s (failed j.val (m.put (pg j.val) 0))) ∧
    (m.power = 6 → 1 < n → Does .railDisableNext s ((m.put (en (n - 1)) 0).put (pg (n - 1)) 0)) ∧
    (m.power = 6 → n ≤ 1 → Ends .railDisableNext s fun y => y.power = 1 ∧ y.isOn HEARTH_ESTAT_pstate = true ∧
      y.hearth.retryDue = decide (m.get HEARTH_RSTC_kcause = 4 ∧ m.hearth.retries < m.get HEARTH_CTL_railretry))

/-- R396, R399, R473, R477: the management PLL's lock starts the boot ROM; the first image that its checks pass runs, else recovery
takes one; a kick sets the watchdog back, its first stages report and reset the management domain. -/
def Obligations.BootAndWatchdog : Prop :=
  ∀ (s : State) (bytes : List Byte),
    let m := s.m
    let h := m.hearth
    let b := m.bootRead.getD (0, 0, 0)
    let one := m.slotCheck b.1
    let two := one.2.slotCheck (1 - b.1)
    let l := h.uart ++ bytes
    let head := (l.take 512).map BitVec.toNat
    let len := hdrNat head 0x10 4
    let body := ((l.drop 512).take len).map BitVec.toNat
    let runs := fun n : Fjoek => n.hearth.core = 2 ∧ n.hearth.uart = [] ∧ n.hearth.kickAt = none ∧
      (m.power = 2 → n.power = 3 ∧ (bitOf h.lost 5 = false → n.runs 5 = true))
    let quiet := (m.setHearth { h with kickAt := none }).put HEARTH_RSTC_wdk 0
    let kicked := if m.get HEARTH_WDT_stage = 0 then quiet else quiet.put HEARTH_WDT_stage 1
    let managed := m.runs 2 = true ∧ 2 ≤ m.power ∧ m.power ≤ 4 ∧ m.isOn TOP_STRAP_recovery = false
    let restarts := fun n : Fjoek => n.hearth.core = 1 ∧ n.hearth.coresHung = 0 ∧ n.hearth.uart = [] ∧ n.mgmt.upd = none ∧
      n.mgmt.partials = [] ∧ n.power = m.power ∧ n.runs 2 = true
    (m.power = 2 → m.get HEARTH_RAILSTAT_pg = 63 → m.runs 2 = false → bitOf h.lost 2 = false → Ends .managementPllLock s fun n =>
      (∀ d ∈ [2, 10, 11, 12], n.runs d = true) ∧ n.isOn CLK_PLL_mgmt = true ∧
      n.hearth.core = (if m.isOn TOP_STRAP_recovery then 3 else 1) ∧
      (m.isOn HEARTH_WDT_en = true → m.get HEARTH_WDT_stage = 0 → n.get HEARTH_WDT_stage = 1)) ∧
    (h.core = 1 → one.1 = 0 → Ends .bootHandoff s fun n => runs n ∧ n.get TOP_BOOT_slot = b.1 ∧ n.get TOP_BOOT_trial = b.2.1) ∧
    (h.core = 1 → one.1 ≠ 0 → two.1 = 0 → Ends .bootHandoff s fun n => runs n ∧ n.get TOP_BOOT_slot = 1 - b.1 ∧
      n.get TOP_BOOT_trial = 0) ∧
    (h.core = 1 → one.1 ≠ 0 → two.1 ≠ 0 → Ends .bootRecoveryEntry s fun n => n.hearth.core = 3 ∧ n.hearth.uart = [] ∧
      n.get TOP_BOOT_slot = 2 ∧ n.power = m.power) ∧
    (h.core = 3 → (l.length < 512 ∨ (m.imageHead head = 0 ∧ l.length < 512 + len)) →
      Does (.recoveryImageReceive bytes) s (m.setHearth { h with uart := l })) ∧
    (h.core = 3 → 512 + len ≤ l.length → m.imageHead head = 0 → m.imageBody head body = 0 →
      Ends (.recoveryImageReceive bytes) s fun n => runs n ∧ (m.isOn STRP_CTL_apen = false → ∀ j < body.length,
        n.hbmByte (0x7C0000000 + j) = BitVec.ofNat 8 (nth body j 0))) ∧
    (h.core = 3 → h.uart ≠ [] → Does .recoveryTransferTimeout s ((m.setHearth { h with uart := [] }).send (.uart 0x15))) ∧
    (h.core = 3 → Does .recoveryWatchdogKick s kicked) ∧
    (m.runs 2 = true → h.core ≠ 0 → Does .watchdogKick s kicked) ∧
    (m.get HEARTH_WDT_stage = 1 → Does .watchdogStage1Expiry s ((m.put HEARTH_WDT_stage 2).put HEARTH_ESTAT_wd1 1)) ∧
    (m.get HEARTH_WDT_stage = 2 → managed → Ends .watchdogStage2Expiry s fun n => restarts n ∧ n.get HEARTH_WDT_stage = 3) ∧
    (managed → Ends .managementReset s restarts)

/-- R402: a programming command of OTP_PCMD that is allowed is accepted with what it programs, and at its end the cells hold it, but for
bits that did not take, which the code tells. -/
def Obligations.OtpProgramming : Prop :=
  ∀ (s : State) (g : Fin 4) (w : BitVec 10) (data stuck : Word32) (code c bits : Nat),
    let m := s.m
    let f := s.fuses
    let k := 1024 * g.val + w.toNat
    let old := otpGenWord f g.val w.toNat
    let free := m.awake = true ∧ m.isOn OTP_PSTAT_busy = false ∧ m.isOn OTP_CTL_pen = true ∧ 1000 ≤ m.get FEED_VIN_mv10
    let blank := otpSealed f g.val = false ∧ ∀ v ∈ otpGens f, v < g.val
    let takes := fun (due : Nat × Nat) (n : Fjoek) => n.hearth.otpDue = some (0, due) ∧ n.isOn OTP_PSTAT_busy = true
    let bad := bits &&& stuck.toNat
    let told := if code = 0 ∧ bad ≠ 0 then 2 else code
    let burnt := m.setHearth { m.hearth with otpDue := none, burn := m.hearth.burn ++ [(c, bits - bad)] }
    let done := ((burnt.put OTP_PSTAT_busy 0).put OTP_PSTAT_code told).put OTP_PSTAT_done 1
    (free → blank → w.toNat ≤ 1022 → old &&& data.toNat = old → Ends (.otpProgram g w data) s (takes (k, data.toNat))) ∧
    (free → blank → Ends (.otpSeal g) s (takes (1024 * g.val + 1023, 0xA5A5A5A5))) ∧
    (free → f.arb < 64 → Ends .otpArb s (takes (4096, 1))) ∧
    (m.hearth.otpDue = some (code, c, bits) →
      Does (.otpCommandDone stuck) s (if told = 0 then done else done.put OTP_PSTAT_ref 1))

/-- R393, with R65, R116, R170, R198, R211, R227, R246, R271, R303, R328, R342, R382, R462, R500: a Block reset of a unit whose domain
runs ends with code 0 and leaves the unit's fields that a Block reset changes at their reset values, but for those that go on following
something else: a slot's txsup, the flow control that a port signals, and the count of the copies that its own reset flushes. -/
def Obligations.BlockResets : Prop :=
  ∀ (s : State) (slot : Fin 32) (port : Fin 40) (e : Fin 64) (g : Fin 16) (p : Fin 24),
    let m := s.m
    let done := fun n : Fjoek => n.get TOP_BRSTAT_code = 0
    let freshBut := fun (l : List Nat) (a len : Nat) (n : Fjoek) =>
      ∀ x, ¬ x ∈ l → a ≤ x → x < a + len → noting x = false → resetWord inBlock x (n.reg x) = n.reg x
    let fresh := fun (a len : Nat) (n : Fjoek) => done n ∧ freshBut [] a len n
    let net := m.runs 4 = true
    let near := m.runs 5 = true
    let mgmt := m.runs 2 = true
    let onAperture := fun a : Access => [AccessKind.hld, .hst, .hcas, .hfadd].contains a.kind && m.inAperture a.addr 8
    (net → Ends (.blockResetNetp slot) s fun n => done n ∧ n.get (NETP_SSTAT_txsup slot.val) = m.get (NETP_SSTAT_txsup slot.val) ∧
      n.get (NETP_SSTAT_state slot.val) = 0 ∧ freshBut [NETP_SSTAT slot.val] (0x100000 + 0x1000 * slot.val) 0xC00 n) ∧
    (net → Ends (.blockResetSwc port) s fun n => done n ∧ port.val ∉ n.swc.holds ∧ (∀ j < 8, n.queueOf port.val j = []) ∧
      freshBut [SWC_PSTAT port.val, SWC_FLUSH_LO port.val, SWC_FLUSH_LO port.val + 4] (0x141000 + 0x200 * port.val) 0x200 n ∧
      n.reg64 (SWC_FLUSH_LO port.val) = ((List.range 8).map fun j => (m.queueOf port.val j).length).sum % 2 ^ 64) ∧
    (net → Ends .blockResetFwd s fun n => fresh 0x160000 0x20000 n ∧ n.fwd.agelog = [] ∧ n.fwd.pending = []) ∧
    (net → Ends .blockResetXport s (fresh 0x180000 0x40000)) ∧
    (net → Ends .blockResetThim s (fresh 0x1C0000 0x40000)) ∧
    (m.runs 3 = true → Ends (.blockResetSeam e) s fun n => done n ∧ n.get (SEAM_ECTL_park e.val) = 0 ∧
      (∀ t < 1024, n.tagCount e.val t = 0) ∧ ∀ u < 8, (n.strand (8 * e.val + u)).mode ≠ .fault ∧
        n.get (SEAM_STRCTL_drain e.val u) = 0) ∧
    (near → Ends (.blockResetMngl g) s fun n => done n ∧ n.reg (MNGL_GSTAT g.val) = 0 ∧ n.clusterDescs g.val = []) ∧
    (near → Ends .blockResetStrp s fun n => done n ∧ n.mngl = m.mngl ∧ ∀ k < 512, (n.strand k).accs.any onAperture = false) ∧
    (near → Ends .blockResetDarn s fun n => done n ∧ n.lib = { m.lib with credit := [] }) ∧
    (m.runs (if p.val < 12 then 7 else 8) = true → Ends (.blockResetDrv p) s (fresh (0x280000 + 0x2000 * p.val) 0x1F00)) ∧
    (m.runs 9 = true → Ends .blockResetAtt s fun n => fresh 0x300000 0x10000 n ∧ n.isOn ATT_LINK_up = false) ∧
    (m.runs 13 = true → Ends .blockResetTwin s (fresh 0x310000 0x10000)) ∧
    (mgmt → Ends .blockResetEvt s fun n => done n ∧
      ∀ j < 16, n.reg (EVT_PEER j) = 0 ∧ (m.reg PMON_GCTL = 0 → n.reg (EVT_PEND j) = 0)) ∧
    (mgmt → Ends .blockResetPmon s fun n => fresh 0x80000 0x10000 n ∧ n.pmon = pmonInit) ∧
    (mgmt → Ends .blockResetDamp s fun n => done n ∧ n.damp.debt = 0 ∧ n.damp.tests = [] ∧ n.damp.draws = m.damp.draws ∧
      ∀ c ∈ [0, 1, 3, 4, 5], n.level c = m.depth c)

/-- R124 to R136, R152 to R158: a host read is answered with the stored bytes once its member blocks are read; a host write ends with the locks
of its stripes released and is answered, and waits while the feed is lost; flush answers at once; destage leaves no dirty block of its stripe;
a fill enters the cache from its cells, or is dropped on a write count that has moved, and the cells are released; a retirement times out into a
commit group; zeroing ends in the namespace's entry. Reads and writes are told where the tokens and the cells are at hand, and writes where the
locks and the journal's room are too. -/
def Obligations.HostCommands : Prop :=
  ∀ (s : State) (e : Fin 64) (t : Fin 8) (pool : Fin 4) (cmd nsid lba count stripe p slot : Nat) (fua rateOk fenceOk : Bool)
    (data : List Byte) (r : NsRec) (x : Pool) (l : List Piece) (f : Fill) (fs : List Fill),
    let m := s.m
    let plain := m.trailing = false ∧ m.ceded = false ∧ m.twin.stopped = false ∧ m.twin.frozen = false ∧ m.leads = false
    let bs := l.map fun q => m.blockAt x p q.b
    let found := m.nsFind nsid = some (p, slot, r) ∧ m.pool? p = some x
    let served := found ∧ m.nsReady x r = true ∧ nsPieces x slot r lba count = some l
    let places := (bs.map (m.readPlaces x p)).flatten
    let bytes := (l.map fun q => ((m.openBlock r q.nb (m.content x p (m.blockAt x p q.b))).take q.last).drop q.first).flatten
    let q := pool.val
    let k := 8 * e.val + t.val
    let stripes := byStripe (m.mergePieces x p r l data)
    let back := m.writesBack x p r fua rateOk (4096 * l.length)
    let fenced := !m.isOn TOP_STRAP_twin || fenceOk
    let dirty := m.dirtyBlocks x q 0 stripe
    let rest : Fjoek := { m with lib := { m.lib with fills := fs } }
    (plain → served → (∀ b ∈ bs, m.readStatus x p b = 0) → (m.libDraw 0 (m.cost (m.readCosts x p r bs))).1 = true →
      m.heldOver nsid lba count = none → m.canPass libStrand 0 bytes.length = true →
      Ends (.hostRead cmd nsid lba count) s fun n => .nvmeData cmd bytes ∈ n.out ∧ .nvme cmd 0 ∈ n.out ∧
        ∀ a ∈ runsOf places, .member p a.1 0 a.2.1 a.2.2 [] ∈ n.out) ∧
    (plain → served → data.length = count * nsSize r → m.isOn FEED_STAT_loss = false → m.openRecs = [] →
      m.recRoom x (m.writeRecs x p back stripes) = true →
      (∀ b ∈ l, m.inUnit x p b.b = false ∧ m.writeStatus x p (m.blockAt x p b.b) b.whole = 0) →
      (∀ g ∈ stripes, m.lockFree p g.1.2 k = true) → (m.libDraw 1 (m.cost (m.writeCosts x p r back fenced l stripes))).1 = true →
      ((m.heldWrite k cmd).isSome = true ∨ m.canPass k 1 data.length = true) →
      Ends (.hostWrite e t cmd nsid lba count fua ⟨rateOk, fenceOk⟩ [] data) s fun n =>
        (∀ g ∈ stripes, n.stripeLocked p g.1.2 = false) ∧ ∃ st, .nvme cmd st ∈ n.out ∧ (m.lostEntries = [] → (∀ z ∈ x.members, z.entry < 96) → st = 0)) ∧
    (found → m.isOn FEED_STAT_loss = true → Does (.hostWrite e t cmd nsid lba count fua ⟨rateOk, fenceOk⟩ [] data) s m) ∧
    (plain → (found → Does (.nvmeFlush cmd nsid) s (m.send (.nvme cmd (if m.nsReady x r then 0 else 0x82)))) ∧
      (m.nsFind nsid = none → Does (.nvmeFlush cmd nsid) s (m.send (.nvme cmd 0x0B)))) ∧
    (m.pool? q = some x → x.online = true → x.next = none → m.lockFree q stripe k = true → m.recRoom x 2 = true → m.openRecs = [] →
      m.trailing = false → m.excess x q 0 stripe = 0 → dirty ≠ [] → (m.libDraw m.destageClass (m.cost (m.updateCosts x q 0 stripe dirty))).1 = true →
      Ends (.destage e t pool stripe []) s fun n => n.stripeLocked q stripe = false ∧
        ∀ c ∈ n.lib.cache, c.pool = q → c.dirty = true → ∀ b ∈ dirty,
          (c.member, c.lba) ≠ ((m.stripPlace x q 0 stripe b.1).1, (m.stripPlace x q 0 stripe b.1).2 + b.2.1)) ∧
    (m.lib.fills = f :: fs → Ends .cacheFill s fun n => n.lib.fills = fs ∧ (n.leaseAt f.lease).live = false ∧
      (m.wcountOf f.pool f.stripe ≠ f.wcount → n.lib.cache = m.lib.cache) ∧
      (m.wcountOf f.pool f.stripe = f.wcount → (rest.libDraw 5 (rest.opCost (1, 1))).1 = true → (m.pool? f.pool).isSome = true →
        m.lib.cache.length < m.lib.cacheBlocks → ∃ u, ⟨f.pool, f.member, f.epoch, f.lba, false, true, u⟩ ∈ n.lib.cache)) ∧
    (plain → m.pool? q = some x → x.retq ≠ [] → x.mirrors = true → m.jroom x.retireSpans = true → x.groupFree x.group = true → Ends (.retirementTimeout pool) s fun n =>
      (∃ y, n.pool? q = some y ∧ y.group = x.group + 1 ∧ ((packRetired x.retq).length ≤ 63 → y.retq = [])) ∧
      ∀ i ∈ x.copies, ∃ d, .member q i 1 (groupLba x.group) 1 d ∈ n.out) ∧
    (found → x.auWait = [] → Ends (.namespaceZeroingDone nsid) s fun n =>
      ∃ y, n.pool? p = some y ∧ y.gen = x.gen + 1 ∧
        tableFind y.ns slot = some { r with zeroed := true, gen := (x.gen + 1) % 2 ^ 32 })

/-- R137, R140, R141, R142, R166, R178 to R187, R191, R192, R197: a pool that MRAM names and that is not short assembles online; an absent
member's window ends in FAILED while no drive is being identified; a resync clears the lowest region; re-mirroring ends on its targets; a
round's step moves the live cursor past its stripe, and the last ends it; copy-back and reshape advance; starved C3 commands are reported.
Steps that write are told where the stripe's lock, the journal's room and the tokens are at hand, and a round's step where every strip that is
not lost can be read. -/
def Obligations.PoolCommands : Prop :=
  ∀ (s : State) (pool : Fin 4) (member : Fin 24) (labels : List Label) (label : Label) (drives : List Found) (ext : List (Nat × List Nat))
    (unread : List (Nat × Nat)) (x y : Pool) (r : Round) (i g b sig stripes : Nat) (port : Fin 24),
    let m := s.m
    let p := pool.val
    let k := member.val
    let l := x.lay 0
    let found := drives.filter fun f => f.uuid == label.uuid
    let made := m.poolOf p label found
    let start := ((m.setCache (m.lib.cache.filter fun c => c.pool != p)).setPool p made).setPool p
      { made with group := m.mramNat (jheadAt p + 24) 8 + 1, groupOf := m.extentGroups p ext }
    let set := ((start.resumeRounds p).resumeResync p).noteUnread unread
    let now := found.filter fun f => f.gen == label.gen
    let named := newestLabel labels = some label ∧ m.mramNames p label = true ∧ m.recordBad p label = false ∧ (now.map (·.member)).Nodup ∧
      (∀ z, m.pool? p = some z → z.online = false)
    let isPool := m.pool? p = some x
    let strips := m.regionStrips x p k g
    let sigs := (strips.map (·.2.1)).dedup
    let c := m.cursor x p r
    let offs := List.range (LU l)
    let n := Nat.min (Nat.min (Nat.max 1 stripes) 64) (m.sweepLen x p - x.copied)
    let batch := (List.range n).map fun j => m.sweepStripe x p (x.copied + j)
    let order := (lockOrder p ((batch.map (·.2)).dedup)).zipIdx
    let a := m.mramNat (reshapeAt p + 0x10) 8
    let e := m.reshapeE p
    let e' := m.reshapeB p + e
    let afford := fun (c : Nat) (q : List (Nat × Nat)) => (m.libDraw c (m.cost q)).1 = true
    let half := fun (k w : Nat) => (m.libDraw x.moveClass (m.moveCost e k w)).1 = true
    let entries := ∀ q ∈ x.members, q.entry < 96
    let news := (List.range (e / LK l)).map (m.reshapeB p / LK l + ·)
    let moves := isPool ∧ x.next.isSome = true ∧ m.reshapePhase p = 2 ∧ x.roundDue = false ∧ x.auWait = [] ∧ entries ∧
      (∀ g ∈ news, m.lockFree p g darnStrand = true) ∧ m.recRoom x news.length = true ∧ half l.k (Lw l)
    (named → set.pool? p = some y → set.tooShort y p = false →
      Ends (.poolAssembly pool labels drives ext unread) s fun z => ∃ w, z.pool? p = some w ∧ w.online = true ∧ w.uuid = label.uuid) ∧
    (isPool → (x.mem k).state = 1 → (x.mem k).port = none → m.identifying = false → Ends (.rejoinWindowExpiry pool member) s fun z =>
      ∃ w, z.pool? p = some w ∧ (w.mem k).state = 2) ∧
    (isPool → (x.mem k).resync = true → (x.mem k).port.isSome = true → (m.absRegions p k).head? = some g → m.absEntry p k < 96 →
      (∀ q ∈ strips, m.canDecode x p q.1 q.2.1 = true) → m.recRoom x strips.length = true →
      (∀ q ∈ sigs, m.lockFree p q darnStrand = true) →
      afford 3 ((strips.map fun q => m.rebuildCosts x p q.1 q.2.1 1).flatten) →
      Ends (.resyncRegion pool member) s fun z => z.absBit p k g = false) ∧
    (isPool → x.jtargets ≠ [] → x.roundDue = false → (∀ q ∈ m.openOf p, tableHas x.groupOf q.seq = true) → Ends (.remirrorDone pool) s fun z =>
      (∃ w, z.pool? p = some w ∧ w.jtargets = [] ∧ w.jx0 = x.jx0 ∧ w.jx1 = x.jx1) ∧ z.isOn ⟨STRP_JDEG_pools.addr, p, p⟩ = false) ∧
    (isPool → x.members.any (·.resync) = false → x.jtargets = [] → m.activeRound p 0 = some r →
      (nextStripe m x p 0 r c.1 c.2 = none → Ends (.rebuildStep pool [] none) s fun z => z.get (DARN_PROG_permille p) = 1000 ∧
        z.get (DARN_PROG_state p) = 0 ∧ ∃ w, z.pool? p = some w ∧ w.gen = x.gen + 1) ∧
      (nextStripe m x p 0 r c.1 c.2 = some (b, sig) → m.lockFree p sig darnStrand = true → m.openRecs = [] → m.trailing = false →
        entries → 0 < LU l → m.canPass libStrand 3 (LU l * x.blockLen * (pendingStrips m x p 0 sig r).length) = true →
        (∀ o ∈ offs, l.k ≤ (m.readableAt x p 0 sig o).length ∧ m.goneAt x p 0 sig o = []) →
        m.recRoom x ((offs.map fun o => Lw l - (m.readableAt x p 0 sig o).length).sum) = true →
        afford 3 (m.rebuildCosts x p 0 sig (pendingStrips m x p 0 sig r).length) →
        Ends (.rebuildStep pool [] none) s fun z => (∃ w, z.pool? p = some w ∧ w.live.1 = b ∧ w.live.2 ≠ sig) ∧
          z.get (DARN_PROG_state p) = 1 ∧ z.stripeLocked p sig = false)) ∧
    (isPool → m.activeRound p 0 = some r → m.activeRound p 1 = none → Ends (.cursorCheckpoint pool false) s fun z =>
      z.mramNat (roundAt p r.j + 0x30) 1 = c.1 % 256 ∧ z.mramNat (roundAt p r.j + 0x31) 7 = c.2 % 2 ^ 56) ∧
    (isPool → ((List.range x.members.length).find? fun j => (x.mem j).state == 4 && (x.mem j).port.isSome) = some i →
      x.copied + n < m.sweepLen x p → entries → m.recRoom x n = true → (∀ q ∈ order, m.lockFree p q.1 (darnStrand + q.2 / 16) = true) →
      (∀ q ∈ batch, ∀ j ∈ homeStrips x q.1 q.2 i, ∀ o < LU (x.lay q.1), (m.backBlock x p q.1 q.2 j o).isSome = true) →
      afford 3 ((batch.map fun q => m.rebuildCosts x p q.1 q.2 (homeStrips x q.1 q.2 i).length).flatten) →
      Ends (.copyBackBatch pool stripes) s fun z => (∃ w, z.pool? p = some w ∧ w.copied = x.copied + n) ∧
        z.get (DARN_PROG_state p) = 3 ∧ z.mramNat (cursorAt p + 8) 8 = (x.copied + n) % 2 ^ 64) ∧
    (isPool → x.next.isSome = true → m.reshapePhase p = 1 → m.lib.cache.all (fun q => !q.dirty) = true → entries →
      (∀ g ∈ m.unitOld x p, m.lockFree p g darnStrand = true) → m.recRoom x 0 = true → half (x.lay 1).k (scratchWidth x) → Ends (.reshapeUnitMove pool true) s fun z =>
        z.reshapePhase p = 2 ∧ z.reshapeE p = e ∧ z.reshapeB p = m.reshapeB p) ∧
    (moves → a * e ≤ e' → Ends (.reshapeUnitMove pool false) s fun z => ∃ w, z.pool? p = some w ∧ w.next = none ∧ w.layout = l ∧ w.gen = x.gen + 1) ∧
    (moves → e' < a * e → Ends (.reshapeUnitMove pool false) s fun z => z.reshapeB p = e' % 2 ^ 64) ∧
    (bitOf m.waitPorts port.val = true → Does (.c3Starved port) s (m.put DARN_STAT_starved 1))

/-- R200 to R216: the drive ports. PERST_N, training, enumeration, temperature polls; the ends of service; inbound requests to a lease or
to queue memory, and refused ones; completion scans; raw commands, power states, fences, timeouts, error messages and configuration. -/
def Obligations.DrivePorts : Prop :=
  ∀ (s : State) (p : Fin 24) (width speed : Nat) (info : DriveInfo) (h : Fin 2) (j : Nat) (t : BitVec 8)
    (reads : List (Option (BitVec 8))) (x o : Nat) (data : List Byte) (d : Desc) (len y : Nat) (q : Bool) (ps : Fin 32)
    (v a : Word32) (e : List Nat) (sl : Slot) (clk : Bool),
    let m := s.m
    let k := p.val
    let c := m.port k
    let up := m.drvUp k = true
    let on := fun f : Nat → Fld => m.isOn (f k) = true
    let off := fun f : Nat → Fld => m.isOn (f k) = false
    let ended := fun n : Fjoek => n.drvUp k = false ∧ (up → n.driveDescs k = [])
    let w := Nat.min width (if m.isOn TOP_STRAP_twin then 2 else 4)
    let twinFree := m.trailing = false
    let mem := m.get DRV_QBASE_base * 2 ^ 26 + k * 2 ^ 21 + o
    let refused := fun n : Fjoek => n.get (DRV_INVACC_count k) = satAdd 32 (m.get (DRV_INVACC_count k)) 1 ∧ n.isOn (DRV_ESTAT_invacc k) = true
    let room := c.slots.length < 255
    let cfg := fun w : Word32 => tableSet (fun _ => 0) m.drv.cfg (1024 * k + m.get (DRV_CFGADDR_reg k)) w.toNat
    (on DRV_PCTL_auto → off DRV_PCTL_disable → on DRV_PSTAT_present → on BAY_STAT_pg →
      Does (.perstDeassert p) s (m.setPort k { c with perst := true })) ∧
    Ends (.portDisable p) s (fun n => ended n ∧ n.isOn (DRV_PCTL_disable k) = true ∧ (n.port k).perst = false) ∧
    Does (.portRelease p) s (((m.put (DRV_PCTL_disable k) 0).setPort k { c with linkOff := false }).settlePerst k) ∧
    (m.drvUp k = false → off DRV_PCTL_disable → c.linkOff = false → c.perst = true → m.runs (if k < 12 then 7 else 8) = true →
      Ends (.driveLinkUp p width speed) s fun n => n.drvUp k = true ∧ n.get (DRV_PSTAT_width k) = w ∧
        n.get (DRV_PSTAT_speed k) = Nat.min 3 (Nat.max speed (Nat.min 2 (m.get (DRV_PCTL_maxspd k))))) ∧
    (up → Ends (.driveEnumeration p info) s fun n => n.reg64 (DRV_BAR_LO k) = info.bar % 2 ^ 64 ∧ (n.port k).queues = true ∧
      tableGet (fun _ => 4096) n.drv.lba k = info.lbaBytes ∧ n.get (DRV_DBCFG_dstrd k) = info.dstrd % 16) ∧
    (on DRV_PSTAT_present →
      Does (.drivePresenceChange p ⟨true, clk⟩) s ((m.put (DRV_PSTAT_present k) 1).put (DRV_PSTAT_clkreq k) (bnat clk))) ∧
    (off DRV_PSTAT_present → Ends (.drivePresenceChange p ⟨true, clk⟩) s fun n => n.isOn (DRV_PSTAT_present k) = true ∧
      n.isOn (DRV_PSTAT_clkreq k) = clk ∧ n.identifying = true) ∧
    Ends (.drivePresenceChange p ⟨false, clk⟩) s (fun n => ended n ∧ n.isOn (DRV_PSTAT_present k) = false ∧
      n.isOn (DRV_PSTAT_clkreq k) = clk) ∧
    (up → Ends (.driveLinkDown p) s ended) ∧
    (k = 12 * h.val + j → j < 12 → on BAY_STAT_pg → (reads[j]? = some (some t) → Ends (.driveTempPoll h reads) s fun n =>
        n.get (DRV_TEMP_temp k) = t.toNat ∧ n.isOn (DRV_TEMP_valid k) = true) ∧
      (reads[j]? = some none → 2 ≤ c.tempFails → Ends (.driveTempPoll h reads) s fun n => n.isOn (DRV_TEMP_valid k) = false)) ∧
    (up → twinFree → x < 65536 → o + data.length ≤ 256 * (m.leaseAt x).cells.length → o < 2 ^ 20 → m.namesLease k x = some d →
      Does (.driveInboundRequest p true (0x4000000000 + 2 ^ 20 * x + o) len data false) s (m.leasePut x o data)) ∧
    (up → twinFree → o + data.length ≤ 2 ^ 21 →
      Does (.driveInboundRequest p true (0x5000000000 + o) len data false) s (m.hbmWrite mem data)) ∧
    (up → twinFree → o + len ≤ 2 ^ 21 → (m.hbmDetect none mem len).1 = false →
      Ends (.driveInboundRequest p false (0x5000000000 + o) len data q) s fun n =>
        ∃ l r, n.out = m.out ++ l ++ [.driveReply k true false (m.hbmBytes mem len)] ++ r) ∧
    (m.drvUp k = false → Ends (.driveInboundRequest p true o len data q) s refused ∧ Ends (.msiReceiverWrite p y) s refused) ∧
    (up → twinFree → y ≤ 64 → Does (.msiReceiverWrite p y) s (m.scan k y)) ∧
    (m.get (DRV_POLL_us k) ≠ 0 → Does (.completionPollTimer p) s ((List.range 65).foldl (fun n y => n.scan k y) m)) ∧
    ((c.slots.find? fun z => z.slot == nth e 3 0 % 65536) = some sl → sl.use = .raw → e.length = 4 →
      let n := m.takeCompletion k e
      (m.driveDescs k = [] → c.waiting = [] → c.psHeld = none →
        (n.port k).slots = c.slots.filter fun z => z.slot != nth e 3 0 % 65536) ∧ n.isOn (DRV_RCMD_busy k) = false ∧
        n.isOn (DRV_ESTAT_raw k) = true ∧ ∀ z < 4, n.reg (DRV_RCQE k z) = nth e z 0 % 2 ^ 32) ∧
    (off DRV_RCMD_busy → up → m.refusing k = false → room → Ends (.rawCommand p q) s fun n => n.isOn (DRV_RCMD_busy k) = true ∧
      ∃ z, (n.port k).slots = c.slots ++ [⟨z, if q then 64 else 0, .raw⟩]) ∧
    (m.get (DRV_TMO_ms k) ≠ 0 → c.slots ≠ [] → Ends (.driveCommandTimeout p) s fun n => n.isOn (DRV_ESTAT_tmo k) = true) ∧
    (c.psOut = true → Does (.powerStateRequest p ps) s ((m.put (DRV_PSCTL_ps k) ps.val).setPort k { c with psHeld := some ps.val })) ∧
    (c.psOut = false → up → c.queues = true → twinFree → room → Ends (.powerStateRequest p ps) s fun n =>
      (n.port k).psOut = true ∧ (n.port k).psHeld = none ∧ ∃ z, (n.port k).slots = c.slots ++ [⟨z, 0, .power ps.val⟩]) ∧
    (twinFree → bitOf (m.get DRV_FENCE_pmask) k = true → Ends .fenceGo s fun n =>
      (up → (n.port k).fencing = true ∧ bitOf (n.get DRV_FSTAT_done) k = false) ∧
      (m.drvUp k = false → bitOf (n.get DRV_FFAIL_fail) k = true ∧ n.isOn (DRV_ESTAT_fence k) = true)) ∧
    Ends .fenceClear s (fun n => n.get DRV_FFAIL_fail = 0) ∧
    (c.fencing = true → Ends (.fenceTimeout p) s fun n => (n.port k).fencing = false ∧ bitOf (n.get DRV_FFAIL_fail) k = true ∧
      n.isOn (DRV_ESTAT_fence k) = true) ∧
    Does (.aerMessage p 0) s ((m.bump (DRV_AERCNT_cor k) 1).put (DRV_ESTAT_aer k) 1) ∧
    Does (.aerMessage p 1) s ((m.bump (DRV_AERCNT_nf k) 1).put (DRV_ESTAT_aer k) 1) ∧
    Ends (.aerMessage p 2) s (fun n => n.drvUp k = false ∧ n.isOn (DRV_ESTAT_aer k) = true) ∧
    (up → Ends (.drvConfigAccess p (some v) a) s (fun n => n.reg (DRV_CFGDATA k) = v.toNat ∧ n.drv.cfg = cfg v) ∧
      Ends (.drvConfigAccess p none a) s fun n => n.reg (DRV_CFGDATA k) = a.toNat ∧ n.drv.cfg = cfg a) ∧
    (m.drvUp k = false → Ends (.drvConfigAccess p none a) s fun n =>
      n.reg (DRV_CFGDATA k) = (Config.free64 m.free).toNat % 2 ^ 32 ∧ n.free = m.free + 1)

/-- R218 to R227: the port slots. Enabling and disabling, quad modes, training up to UP, faults and flaps, link down with its hold,
received PAUSE and PFC, sent XOFF, and the release of a class paused too long. -/
def Obligations.PortSlots : Prop :=
  ∀ (st : State) (s : Fin 32) (q : Fin 8) (mode : Fin 16) (sending : Bool) (t : BitVec 16) (enable : BitVec 8) (qs : List Nat)
    (c : Fin 8) (lane : Fin 48),
    let m := st.m
    let k := s.val
    let state := m.get (NETP_SSTAT_state k)
    let paused := m.get (SWC_PSTAT_paused k)
    let released := tableGet (fun _ => 0) m.netp.released k
    let group := if m.get (NETP_SCTL_fc k) = 1 then 0xFF else 2 ^ c.val
    let heard := 0xFF - (0xFF &&& released)
    let opened := m.isOn (NETP_SSTAT_up k) = true ∧ m.isOn (NETP_SCTL_admin k) = true
    let idle := ∀ i < 4, m.isOn (NETP_SCTL_admin (4 * q.val + i)) = false ∧ m.get (NETP_SSTAT_state (4 * q.val + i)) = 0
    let empty := fun n : Fjoek => k ∉ n.swc.holds ∧ ∀ j < 8, n.queueOf k j = []
    let faulted := fun n : Fjoek => n.faulty k = true ∧ n.get (NETP_SSTAT_state k) = if state = 3 then 2 else state
    let clear := ((m.put (NETP_SSTAT_align k) 1).put (NETP_SSTAT_lfault k) 0).put (NETP_SSTAT_rfault k) 0
    (m.slotInUse k = true → state = 0 → Does (.slotEnable s) st ((m.put (NETP_SCTL_admin k) 1).put (NETP_SSTAT_state k) 1)) ∧
    (m.slotInUse k = true → state ≠ 0 → Ends (.slotDisable s) st fun n => n.isOn (NETP_SCTL_admin k) = false ∧
      n.get (NETP_SSTAT_state k) = 0 ∧ n.isOn (NETP_SSTAT_up k) = false ∧ empty n) ∧
    (idle → Does (.quadModeWrite q mode) st ((m.put (NETP_QCFG_mode q.val) mode.val).put (NETP_QSTAT_busy q.val) 1)) ∧
    (¬idle → Does (.quadModeWrite q mode) st (m.put (NETP_ESTAT_rej (4 * q.val)) 1)) ∧
    Ends (.quadModeChangeDone q) st (fun n => n.isOn (NETP_QSTAT_busy q.val) = false ∧
      bitOf (n.get CLK_QSTAT_run) q.val = decide (m.power = 4 ∧ bitOf m.hearth.lost 6 = false ∧ m.get (NETP_QCFG_mode q.val) ≠ 0 ∧
        m.get (NETP_QCFG_mode q.val) ≤ 8)) ∧
    (state = 1 → m.isOn (NETP_QSTAT_busy (k / 4)) = false → Ends (.lanesOn s) st fun n => n.get (NETP_SSTAT_state k) = 2 ∧
      (m.isOn (NETP_SSTAT_align k) = false → m.isOn (NETP_SSTAT_rfault k) = false →
        ∃ o, n.out = m.out ++ [.remoteFault k true] ++ o)) ∧
    (state = 2 → Ends (.linkAligned s) st fun n => n.get (NETP_SSTAT_state k) = 3 ∧ n.faulty k = false ∧
      n.isOn (NETP_SSTAT_align k) = true ∧ n.isOn (NETP_SSTAT_lfault k) = false ∧ n.isOn (NETP_SSTAT_rfault k) = false ∧
      (m.indicates k = true → ∃ o, n.out = m.out ++ [.remoteFault k false] ++ o)) ∧
    (state = 3 → Ends (.linkQualified s) st fun n => n.get (NETP_SSTAT_state k) = 4 ∧ n.isOn (NETP_SSTAT_up k) = true ∧
      k ∉ n.swc.holds) ∧
    (2 ≤ state → Ends (.linkFault s .align) st (fun n => faulted n ∧ n.isOn (NETP_SSTAT_align k) = false) ∧
      Ends (.linkFault s .loc) st (fun n => faulted n ∧ n.isOn (NETP_SSTAT_lfault k) = true) ∧
      Ends (.linkFault s .remote) st (fun n => faulted n ∧ n.isOn (NETP_SSTAT_rfault k) = true) ∧
      Ends (.linkFault s .fec) st fun n => n.isOn (NETP_ESTAT_fecdeg k) = true ∧
        if m.isOn (NETP_FECTHR_en k) then faulted n
        else n.get (NETP_SSTAT_state k) = state ∧ n.faulty k = m.faulty k) ∧
    (state = 4 → m.faulty k = true →
      Does (.linkFaultClear s) st (((clear.setFault k false).count (NETP_FLAPS_LO k) 1).put (NETP_ESTAT_flap k) 1)) ∧
    (state = 4 → m.faulty k = true → Ends (.linkDown s sending) st fun n => n.get (NETP_SSTAT_state k) = 2 ∧
      n.isOn (NETP_SSTAT_up k) = false ∧ (if m.get SWC_HOLD_hold = 0 then empty n else m.get SWC_PRESS_cells = 0 → k ∈ n.swc.holds)) ∧
    (opened → m.get (NETP_SCTL_fc k) = 1 → Does (.pauseReceive s t) st ((m.count (NETP_PAUSERX_LO k) 1).put (SWC_PSTAT_paused k)
      (if t ≠ 0 then paused ||| heard else paused - (paused &&& heard)))) ∧
    (m.get (NETP_SCTL_fc k) ≠ 1 → Does (.pauseReceive s t) st (m.count (NETP_RXCTL_LO k) 1)) ∧
    (opened → m.get (NETP_SCTL_fc k) = 2 → Ends (.pfcReceive s enable qs) st fun n => ∀ j < 8,
      bitOf (n.get (SWC_PSTAT_paused k)) j =
        if bitOf enable.toNat j ∧ bitOf (m.get (NETP_PFCCFG_pmask k)) j ∧ ¬bitOf released j then decide (nth qs j 0 ≠ 0) else bitOf paused j) ∧
    (m.get (NETP_SCTL_fc k) ≠ 2 → Does (.pfcReceive s enable qs) st (m.count (NETP_RXCTL_LO k) 1)) ∧
    Does (.pauseExpiry s c) st (m.put (SWC_PSTAT_paused k) (paused - (paused &&& group))) ∧
    (m.isOn (NETP_SSTAT_up k) = true → m.isOn (NETP_SSTAT_txsup k) = false → m.get (SWC_PSTAT_xoff k) ≠ 0 →
      (m.get (NETP_SCTL_fc k) = 1 ∨ m.get (NETP_SCTL_fc k) = 2) → Ends (.xoffRepeat s) st fun n =>
        ∃ o, n.out = m.out ++ [.pause k (m.get (SWC_PSTAT_xoff k)) (m.get (NETP_PFCCFG_quanta k)) (m.slotMac k)] ++ o) ∧
    (m.get (NETP_PFCCFG_wd k) ≠ 0 → bitOf paused c.val = true → Ends (.pfcWatchdogRelease s c) st fun n =>
      n.get (SWC_PSTAT_paused k) = paused - (paused &&& group) ∧ tableGet (fun _ => 0) n.netp.released k = released ||| group ∧
        n.reg64 (NETP_PFCWD_LO k) = (m.reg64 (NETP_PFCWD_LO k) + 1) % 2 ^ 64 ∧ n.isOn (NETP_ESTAT_pfcwd k) = true) ∧
    Ends (.pfcReleaseEnd s c) st (fun n => tableGet (fun _ => 0) n.netp.released k = released - (released &&& group)) ∧
    Ends (.serdesMarginSample lane t) st (fun n => tableGet (fun _ => 0) n.twin.margins lane.val = t.toNat + 1)

/-- R222, R232 to R247: the switch core. A bad frame is counted; a good one is looked up and its admitted copy queued; a port sends its
next frame; copies age out, holds end, waiting copies are checked again, loops are cut, and the boundary moves cell by cell. -/
def Obligations.SwitchCore : Prop :=
  ∀ (s : State) (p q : Fin 32) (c cls : Fin 8) (ending : FrameEnd) (b : List Byte) (cw ucw id d : Nat) (r : Bool)
    (port : Fin 40) (cells : BitVec 19) (m' : Fjoek) (g : Frame) (x : Copy) (xs : List Copy),
    let m := s.m
    let k := p.val
    let n := b.length + 4
    let bytes := b.map BitVec.toNat
    let base := (m.count (NETP_FECCW_LO k) cw).count (NETP_FECUCW_LO k) ucw
    let opened := m.slotOpen k = true
    let long := clampTo 1518 9216 (m.get (NETP_MCFG_maxlen k)) < n
    let sound := ending = .good ∧ 64 ≤ n ∧ ¬long ∧ frameBe bytes 12 2 ≠ 0x8808
    let got := ((base.count (NETP_RXFRM_LO k) 1).count (NETP_RXOCT_LO k) n).happen 0x100 1
    let look := got.lookup k bytes
    let cl := look.1.cls.getD (m.frameClass k bytes)
    let f : Frame := { id := m.swc.nextFrame, bytes := b, cells := ceilDiv n 256, cls := m.frameClass k bytes, ingress := k, stored := m.time
                       loop := false, mcast := look.1.mcast, left := false, headroom := false, route := look.1.route
                       cluster := look.1.cluster }
    let stored : Fjoek := { look.2 with swc := { m.swc with nextFrame := f.id + 1, frames := m.swc.frames ++ [f] } }
    let e := port.val
    let target := m.get SWC_BOUND_cells
    let asked := clampTo 65536 327680 cells.toNat
    let cur := m.get SWC_BSTAT_cur
    let stays := g.left = true ∨ m.residue < 8192
    let out := if e = 38 then m.get SWC_MIRROR_dst else e
    (ending = .cut → Does (.frameReceive (Fin.ofNat 40 k) cls ending b cw ucw) s (base.count (NETP_RXRUNT_LO k) 1)) ∧
    (ending = .good → 64 ≤ n → long → Does (.frameReceive (Fin.ofNat 40 k) cls ending b cw ucw) s
      (base.count (NETP_RXOVER_LO k) 1)) ∧
    (ending = .badFcs → Does (.frameReceive (Fin.ofNat 40 k) cls ending b cw ucw) s
      (base.count (NETP_RXFCS_LO k) 1)) ∧
    (opened → sound → m.isOn (NETP_SSTAT_txsup k) = false → m.trailing = false → 0 ≤ m.sharedSize → m.get SWC_PRESS_cells = 0 →
      m.isOn SWC_MIRROR_en = false → tableGet (fun _ => []) m.swc.waiting k = [] → look.1.ports = [q.val] → look.1.mnic = false →
      stored.admission f q.val cl true = .yes r → Ends (.frameReceive (Fin.ofNat 40 k) cls ending b cw ucw) s fun z =>
        z.swc.nextFrame = m.swc.nextFrame + 1 ∧
        ∃ w, z.queueOf q.val cl = m.queueOf q.val cl ++ [{ frame := f.id, marked := w, held := false }]) ∧
    (m.portReady e = true → m.inHold e = false → e ≠ 39 → m.nextClass e = some (d, m') → m.queueOf e d = x :: xs →
      m.frame x.frame = some g → (x.held = true → m.older g (m.get SWC_HOLD_maxres) = false) → Ends (.egressDequeue port ending) s fun z =>
        (stays → (out < 32 → m.looped out = false) → z.queueOf e d = xs) ∧ z.reg64 (SWC_DEQ_LO e) = (m.reg64 (SWC_DEQ_LO e) + 1) % 2 ^ 64 ∧
        (e < 32 → m.isOn (NETP_SSTAT_txsup e) = false → g.ingress ≠ 34 → g.ingress ≠ 35 →
          ∃ o o', z.out = m.out ++ o ++ [.frame e (m.leaving e g x)] ++ o')) ∧
    (tableGet (fun _ => []) m.swc.waiting e = [(id, [q.val], c.val)] → m.frame id = some g →
      m.admission g q.val c.val (!(m.swc.queues.any fun z => z.2.any fun y => y.frame == id)) = .yes r →
      Ends (.internalCopyRetry port) s fun z => tableGet (fun _ => []) z.swc.waiting e = [] ∧
        ∃ w, z.queueOf q.val c.val = m.queueOf q.val c.val ++ [{ frame := id, marked := w, held := false }]) ∧
    (m.get SWC_PRESS_cells = 0 → m.nextClass 39 = some (d, m') → m.queueOf 39 d = x :: xs → m.frame x.frame = some g →
      Ends .loopbackReentry s fun z => (stays → z.queueOf 39 d = xs) ∧
        (0 ≤ m.sharedSize → 39 ∈ (m.lookup 39 ((m.leaving 39 g x).map BitVec.toNat)).1.ports → z.reg64 SWC_LOOPDROP_LO = (m.reg64 SWC_LOOPDROP_LO + 1) % 2 ^ 64 ∧ z.isOn SWC_STAT_loopdrop = true)) ∧
    (m.frame id = some g → g.left = true → m.older g (m.get SWC_MCAST_age) = true → Ends (.multicastAgeExpiry id) s fun z =>
      ∀ j < 40, ∀ i < 8, ∀ y ∈ z.queueOf j i, y.frame ≠ id) ∧
    (m.inHold k = true → Ends (.holdTimerExpiry p) s fun z => z.inHold k = false ∧ ∀ i < 8, z.queueOf k i = []) ∧
    (asked ≠ cur → Does (.boundaryWrite cells) s ((m.put SWC_BOUND_cells asked).put SWC_BSTAT_pending 1)) ∧
    (asked = cur → Ends (.boundaryWrite cells) s fun z => z.get SWC_BOUND_cells = asked ∧ z.isOn SWC_BSTAT_pending = false ∧
      (m.isOn SWC_BSTAT_pending = true → z.isOn SWC_STAT_bmove = true)) ∧
    (m.isOn SWC_BSTAT_pending = true → cur = target → Does .boundaryCellMove s (m.put SWC_BSTAT_pending 0)) ∧
    (m.isOn SWC_BSTAT_pending = true → cur < target → m.get MNGL_LRSV_rsv < m.get MNGL_LFREE_free → Ends .boundaryCellMove s fun z =>
      z.get SWC_BSTAT_cur = cur + 1 ∧ z.get MNGL_LFREE_free = m.get MNGL_LFREE_free - 1 ∧
        (z.isOn SWC_BSTAT_pending = false ↔ cur + 1 = target))

/-- R255 to R271: the forwarding tables. INSERT, REPLACE, DELETE, FIND, READ and WRITE of a well-formed entry with their codes, an
insertion without room, VLAN entries, the aging tick and log, and a visit of Rinse. -/
def Obligations.Forwarding : Prop :=
  ∀ (s : State) (i : Fin 2) (l : Nat) (vid : BitVec 12) (hi : Word32) (k : Nat) (rest : List (Nat × Nat)),
    let m := s.m
    let u := i.val
    let b := m.updBytes u
    let e := FwdEntry.ofBytes b
    let good := entryReserved b = true ∧ e.valid = true ∧ e.kind < 6
    let at_ := m.fwdFind e.kind e.key
    let code := fun (c l : Nat) (n : Fjoek) => n.get (FWD_UPD_STAT_code u) = c ∧ n.get (FWD_UPD_STAT_loc u) = l % 2 ^ 19
    let entry := { e with flags := (e.flags - (e.flags &&& 6)) + 2, ts := m.tick }
    let became := fun (x : FwdEntry) (n : Fjoek) => code 0 l n ∧ n.fwdAt l = x ∧
      n.reg FWD_VERSION = (m.reg FWD_VERSION + 1) % 2 ^ 32 ∧ ∀ j ≠ l, n.fwdAt j = m.fwdAt j
    let loc := m.get (FWD_UPD_LOC_loc u)
    let word := m.reg FWD_VL_LO + (hi.toNat &&& 0x800007FF) * 2 ^ 32
    let next := m.fwd.bucket
    let free := { emptyEntry 0 with flags := 2, ts := m.tick }
    let idle := m.isOn (FWD_UPD_CMD_busy u) = false
    let ready := fun op : Nat => idle ∨ tableGet (fun _ => 0) m.fwd.pending u = op
    let kept := fun n : Fjoek => n.fwd = { m.fwd with pending := n.fwd.pending } ∧ n.isOn (FWD_UPD_CMD_busy u) = false
    (¬ready 1 → Does (.fwdInsert i) s m) ∧ (¬ready 4 → Does (.fwdFind i) s m) ∧
    (ready 1 → good → at_ = none → m.freeLoc e = some l → Ends (.fwdInsert i) s (became entry)) ∧
    (ready 1 → good → at_ = some l → Ends (.fwdInsert i) s fun n => code 2 l n ∧ kept n) ∧
    (ready 1 → good → at_ = none → m.freeLoc e = none → Ends (.fwdInsert i) s fun n => code 1 0 n ∧ kept n ∧
      n.reg64 FWD_INSFAIL_LO = (m.reg64 FWD_INSFAIL_LO + 1) % 2 ^ 64 ∧ n.isOn FWD_STAT_insfail = true) ∧
    (good → at_ = some l → (ready 2 → Ends (.fwdReplace i) s (became entry)) ∧ (ready 3 → Ends (.fwdDelete i) s (became free)) ∧
      (ready 4 → Ends (.fwdFind i) s fun n => code 0 l n ∧ kept n)) ∧
    (good → at_ = none → (ready 2 → Ends (.fwdReplace i) s (code 3 0)) ∧ (ready 3 → Ends (.fwdDelete i) s (code 3 0)) ∧
      (ready 4 → Ends (.fwdFind i) s (code 3 0))) ∧
    (ready 5 → loc ≤ 266367 → Ends (.fwdRead i) s fun n => code 0 loc n ∧ kept n ∧
      ∀ j < 12, n.reg (FWD_UPD_DATA u j) = hdrNat ((m.fwdAt loc).bytes false) (4 * j) 4 % 2 ^ 32) ∧
    (ready 6 → loc = l → l ≤ 266367 → e.kind = 0 → Ends (.fwdWrite i) s (became free)) ∧
    (ready 6 → good → loc = l → e.kind ≠ 0 → (262144 ≤ l ∨ l / 4 = m.bucket e.kind e.key) → l < 266240 → Ends (.fwdWrite i) s (became entry)) ∧
    Does (.vlanEntryLoad vid) s (((m.put FWD_VL_IDX_vid vid.toNat).setReg FWD_VL_LO (m.vlan vid.toNat % 2 ^ 32)).setReg FWD_VL_HI
      (m.vlan vid.toNat / 2 ^ 32)) ∧
    Ends (.vlanEntryCommit hi) s (fun n => n.vlan (m.get FWD_VL_IDX_vid) = word ∧ n.reg FWD_VL_HI = hi.toNat &&& 0x800007FF) ∧
    (m.trailing = false → Does .agingTick s (m.put FWD_TICKCFG_tick (m.tick + 1))) ∧
    (m.fwd.agelog = (l, k) :: rest → Does .agingLogPop s (Fjoek.send { m with fwd := { m.fwd with agelog := rest } }
      (.read FWD_AGELOG (2 ^ 31 + k * 2 ^ 21 + l)))) ∧
    (m.fwd.agelog = [] → Does .agingLogPop s (m.send (.read FWD_AGELOG 0))) ∧
    (m.isOn FWD_RINSE_en = true → m.fwd.paid ≠ 0 → Ends .rinseVisit s fun n => n.fwd.paid = m.fwd.paid - 1 ∧
      n.fwd.bucket = if next = 66591 then 0 else next + 1)

/-- R278 to R290, R296, R310 to R312, R320, R321: a packet that an XRX queue gives the transport. A request at the expected PSN that
Thimble admits moves the expected PSN and starts its slate access; responses of the peer end, repeat or fail what was sent; an unsupported
opcode ends the queue pair; a datagram of the connection manager goes to its ring. -/
def Obligations.Packets : Prop :=
  ∀ (s : State) (h : PktHead) (data mad : List Byte) (va swap cmp add word : Word64) (key imm qkey : Word32) (len ip qpn port timer x : Nat)
    (y : Fjoek) (type : FlushType) (sel : FlushSel) (t : TxReq) (d : Desc),
    let m := s.m
    let c := h.qpn % 65536
    let q := m.qp c
    let e := m.expPsn c
    let open_ := m.trailing = false ∧ m.runs 4 = true ∧ m.xrx h.xrx.val = [] ∧ h.good = true ∧ m.isOn XPORT_CTL_en = true ∧
      q.reuse = h.qpn / 65536 ∧ q.alloc = true ∧ m.xport.cached.contains c = true ∧ m.qpState c ≠ 5 ∧ 2 ≤ m.qpState c ∧
      h.pkey = m.ctxF c 6 31 16 ∧ m.isSealed c = false
    let request := open_ ∧ m.isSpray c = false ∧ q.held = [] ∧ q.msg = none ∧ psnDist h.psn e = 0
    let taken := fun n : Fjoek => n.xrx h.xrx.val = [] ∧ n.reg64 XPORT_RXPKT_LO = (m.reg64 XPORT_RXPKT_LO + 1) % 2 ^ 64
    let moved := fun (span : Nat) (ends : Bool) (n : Fjoek) => taken n ∧ n.expPsn c = (e + span) % 2 ^ 24 ∧
      n.msn c = (m.msn c + bnat ends) % 2 ^ 24
    let k := key.toNat % 2 ^ 24
    let here := k < 1048576 → m.thim.cached.contains k = true
    let ask := fun (n right : Nat) (al wh : Bool) => m.ask c key.toNat va.toNat n right al wh
    let off := m.keyNat k 0x18 8 % 2 ^ 35 + (va.toNat - m.keyBase k)
    let slate := m.keyNat k 6 2 % 1024
    let acc := fun (op : SlateOp) (n : Nat) (b : List Byte) => ({
      id := m.thim.nextAcc, ctx := c, key := k, slate := slate, op := op,
      addr := (m.slate slate).hbase + off, off := off, len := n, psn := h.psn, data := b } : SlateAcc)
    let starts := fun (op : SlateOp) (n : Nat) (b : List Byte) (span : Nat) (ends : Bool) (z : Fjoek) =>
      moved span ends z ∧ z.thim.accs = m.thim.accs ++ [acc op n b]
    let served := m.resources c < Nat.max 1 (m.ctxF c 1 35 28)
    let g := h.cluster.val
    let sends := data.length ≤ m.sendMax ∧ m.itemRoom g data.length = true ∧ m.stage g (itemCells data.length) = some (x, y) ∧
      (y.leaseAt x).cells.length = itemCells data.length ∧ h.first = true ∧ h.last = true
    let a := m.ackedPsn c
    let out := psnDist h.psn a < psnDist (m.sendPsn c) a
    let dup := fun n : Fjoek => taken n ∧ n.reg64 XPORT_DUP_LO = (m.reg64 XPORT_DUP_LO + 1) % 2 ^ 64
    let roomy := m.xport.cached.length + m.xport.loading.length + m.mngl.descs.length < 8192
    let failed := fun (cause : Nat) (n : Fjoek) => taken n ∧ (roomy → n.qpState c = 5 ∧ (n.qp c).cause = cause)
    let lim := m.ctxF c 0 21 19
    let i := psnDist h.psn (t.psn.getD 0)
    let slot := m.get XPORT_CMBASE_base * 2 ^ 20 + 256 * m.xport.cmNext
    (request → sends → Ends (.send h data) s (moved 1 true)) ∧
    (request → sends → here → (m.invalidateCheck c key.toNat).1 = 0 → Ends (.sendWithInvalidate h key data) s (moved 1 true)) ∧
    (request → here → h.first = true → m.keyCheck (ask data.length 3 false false) = 0 →
      Ends (.rdmaWrite h va key len data) s (starts .write data.length data 1 h.last) ∧
      (m.itemRoom g 0 = true → Ends (.rdmaWriteWithImmediate h va key len imm data) s (starts .write data.length data 1 h.last))) ∧
    (request → here → served → m.keyCheck (ask len 2 false false) = 0 →
      Ends (.rdmaRead h va key len) s (starts .read len [] (packets (m.pmtu c) len) true)) ∧
    (request → here → served → m.keyCheck (ask 8 4 true false) = 0 →
      Ends (.atomicCompareAndSwap h va key swap cmp) s (starts (.cas swap.toNat cmp.toNat) 8 [] 1 true) ∧
      Ends (.atomicFetchAndAdd h va key add) s (starts (.faa add.toNat) 8 [] 1 true)) ∧
    (request → here → m.keyCheck (ask 8 3 true false) = 0 →
      Ends (.atomicWrite h va key word) s (starts .awrite 8 (bytesOf 8 word.toNat) 1 true)) ∧
    (request → here → sel ≠ .other → m.keyCheck (ask len 5 false (sel == .region)) = 0 →
      (type = .visibility → Ends (.flush h va key len type sel) s (moved 1 true)) ∧
      (type = .persistence → m.flushRingFull = false → Ends (.flush h va key len type sel) s fun n => moved 1 true n ∧
        n.thim.flushes = m.thim.flushes ++ [⟨m.thim.flushSeq % 2 ^ 32, c, k⟩])) ∧
    (request → Ends (.unsupportedRequestOpcode h) s (failed 7)) ∧
    (open_ → out → Ends (.acknowledgement h) s fun n => taken n ∧ (n.qp c).retries = 0 ∧ (n.qp c).rnrs = 0) ∧
    (open_ → ¬out → Ends (.acknowledgement h) s dup ∧ Ends (.sequenceNak h) s dup ∧ Ends (.rnrNak h timer) s dup ∧
      Ends (.nakRemoteAccessError h) s dup ∧ Ends (.nakInvalidRequest h) s dup ∧ Ends (.nakRemoteOperationalError h) s dup) ∧
    (open_ → out → Ends (.sequenceNak h) s fun n => taken n ∧ n.reg64 XPORT_NAKSEQ_RX_LO = (m.reg64 XPORT_NAKSEQ_RX_LO + 1) % 2 ^ 64) ∧
    (open_ → out → lim = 7 → Ends (.rnrNak h timer) s fun n => taken n ∧ (n.qp c).rnrFrom = some h.psn) ∧
    (open_ → out → h.psn = a → lim ≠ 7 → lim < q.rnrs + 1 → Ends (.rnrNak h timer) s (failed 2)) ∧
    (open_ → out → Ends (.nakRemoteAccessError h) s (failed 3) ∧ Ends (.nakInvalidRequest h) s (failed 4) ∧
      Ends (.nakRemoteOperationalError h) s (failed 5)) ∧
    (open_ → (q.tx.find? fun u => u.read && u.psn.isSome && decide (psnDist h.psn (u.psn.getD 0) < u.span)) = none →
      Ends (.readResponse h data) s dup) ∧
    (open_ → m.isSpray c = false →
      (q.tx.find? fun u => u.read && u.psn.isSome && decide (psnDist h.psn (u.psn.getD 0) < u.span)) = some t →
      m.findDesc t.desc = some d → i = t.acked → h.psn ≠ t.psn.getD 0 → Ends (.readResponse h data) s fun n => taken n ∧
        (n.qp c).retries = 0 ∧ (if i + 1 = t.span then ∀ u ∈ (n.qp c).tx, u.desc ≠ t.desc
          else ∃ u ∈ (n.qp c).tx, u.desc = t.desc ∧ u.acked = i + 1)) ∧
    (open_ → m.qpState c = 3 → Ends (.cnp h) s fun n => taken n ∧ n.reg64 XPORT_CNP_RX_LO = (m.reg64 XPORT_CNP_RX_LO + 1) % 2 ^ 64) ∧
    (m.trailing = false → m.runs 4 = true → m.xrx h.xrx.val = [] → h.good = true → (qkey ≠ 0x80010000 ∨ m.isOn XPORT_CTL_en = false) →
      Ends (.cmDatagram h ip qpn port qkey mad) s fun n => n.xrx h.xrx.val = [] ∧ n.xport.cmNext = m.xport.cmNext ∧
        let a := if qkey ≠ 0x80010000 then XPORT_BADPKT_LO else XPORT_BADQP_LO
        n.reg64 a = (m.reg64 a + 1) % 2 ^ 64) ∧
    (m.trailing = false → m.runs 4 = true → m.xrx h.xrx.val = [] → h.good = true → qkey = 0x80010000 → m.isOn XPORT_CTL_en = true →
      m.hbmNat slot 4 = 0 → Ends (.cmDatagram h ip qpn port qkey mad) s fun n => n.xport.cmNext = (m.xport.cmNext + 1) % 1024 ∧
        (slot + 256 ≤ 2 ^ 35 → m.hbmFree slot 256 = true → n.hbmNat slot 4 = Nat.min 224 mad.length)) ∧
    (m.trailing = false → m.runs 4 = true → m.xrx h.xrx.val = [] → h.good = true → qkey = 0x80010000 → m.isOn XPORT_CTL_en = true →
      m.hbmNat slot 4 ≠ 0 → Ends (.cmDatagram h ip qpn port qkey mad) s fun n => n.reg64 XPORT_CMDROP_LO = (m.reg64 XPORT_CMDROP_LO + 1) % 2 ^ 64 ∧
        n.isOn XPORT_STAT_cmdrop = true)

/-- R275 to R278, R282, R284, R288, R289, R295, R297, R299, R300, R307: the transport's timers, loads, shaper, queue pair allocation, the
connection manager's transmit slots and the congestion rings. -/
def Obligations.QueuePairs : Prop :=
  ∀ (s : State) (ctx : BitVec 16) (u : Fin 2) (k : Pkt) (qpn : BitVec 24) (slot : BitVec 10) (g : Fin 16) (ci : BitVec 11) (p r : Nat),
    let m := s.m
    let c := ctx.toNat
    let q := m.qp c
    let net := m.trailing = false ∧ m.runs 4 = true
    let cached := m.xport.cached.contains c = true
    let more := fun (a : Nat) (n : Fjoek) => n.reg64 a = (m.reg64 a + 1) % 2 ^ 64
    let z := (m.takePacket k).2.2
    let y := pktKey k (z.qp (k.head.qpn % 65536)).msg
    let shut := z.homeOf k.head.cluster.val = none ∧ z.canStage k.head.cluster.val (itemCells k.data.length) = true
    let used := m.get XPORT_QPUSED_n
    let roomy := m.xport.cached.length + m.xport.loading.length + m.mngl.descs.length + (m.xrx 0).length + (m.xrx 1).length < 8192
    let said := fun (v : Nat) (n : Fjoek) => ∃ l l', n.out = m.out ++ l ++ [.read XPORT_QPALLOC v] ++ l'
    let held := m.xport.cached.contains r = true ∨ (m.ctxAddr r + 512 ≤ 2 ^ 35 ∧ m.hbmFree (m.ctxAddr r) 512 = true)
    let reuse := if (m.qp r).reuse = 255 then 1 else (m.qp r).reuse + 1
    let f := qpn.toNat % 65536
    let st := m.qpState f
    let free := (m.qp f).alloc = true ∧ (m.qp f).reuse = qpn.toNat / 65536 ∧ (st = 0 ∨ (st = 5 ∧ m.qpBusy f = false))
    let a := m.get XPORT_CMBASE_base * 2 ^ 20 + 0x40000 + 256 * slot.toNat
    let mad := (m.hbmBytes (a + 32) (Nat.min 224 (m.hbmNat a 4))).map BitVec.toNat
    let pad := (4 - mad.length % 4) % 4
    (net → q.held ≠ [] → m.isSpray c = false → q.nak = none → Ends (.reorderGapTimeout ctx) s fun n =>
      more XPORT_NAKSEQ_TX_LO n ∧ (n.qp c).nak = some (m.expPsn c, m.time)) ∧
    (net → q.unacked ≠ 0 → (m.qpState c = 2 ∨ m.qpState c = 3) → Ends (.ackTimer ctx) s fun n =>
      if q.owed = [] then (n.qp c).unacked = 0 ∧ (n.qp c).ackDue = false else (n.qp c).ackDue = true) ∧
    (net → cached → m.qpState c = 3 → m.ctxF c 0 15 11 ≠ 0 → m.sendPsn c ≠ m.ackedPsn c →
      Ends (.retransmissionTimeout ctx) s fun n => more XPORT_TMO_LO n ∧ (n.qp c).rnrFrom = none ∧ (if m.ctxF c 0 18 16 < q.retries + 1
        then roomy → n.qpState c = 5 ∧ (n.qp c).cause = 1 else (n.qp c).retries = q.retries + 1)) ∧
    (net → q.rnrFrom = some p → Ends (.rnrTimerExpiry ctx) s fun n => (n.qp c).rnrFrom = none) ∧
    (net → m.leads = false → m.xrx u.val = [k] → (m.takePacket k).1 = .waits →
      z.xport.cached.contains (k.head.qpn % 65536) = true → (∀ x, y = some x → x % 2 ^ 24 < 1048576 →
        z.thim.cached.contains (x % 2 ^ 24) = true) → Ends (.rnrWaitExpiry u) s fun n =>
        if shut then n.xrx u.val = [k] else n.xrx u.val = [] ∧
          ((∀ e ∈ m.xport.qps, e.2.held = []) → n.reg64 XPORT_RNR_TX_LO = (z.reg64 XPORT_RNR_TX_LO + 1) % 2 ^ 64)) ∧
    (net → (∃ x ∈ q.spray, x.complete = false) → Ends (.sprayTimeout ctx) s fun n =>
      more XPORT_SPRAYTMO_LO n ∧ more XPORT_NAKSEQ_TX_LO n) ∧
    (m.xport.loading.contains c = true → roomy → Ends (.contextLoadComplete ctx) s fun n =>
      n.xport.cached.contains c = true ∧ n.xport.loading.contains c = false) ∧
    (q.blocked = true → Does (.shaperRelease ctx) s ((m.settleOwed c).pump c)) ∧ (q.blocked = false → Does (.shaperRelease ctx) s m) ∧
    (used < 65536 → freeQp m (used + 1) (Config.freeNat m.free) = some r → Ends .qpAlloc s fun n => n.free = m.free + 1 ∧
      (n.qp r).alloc = true ∧ (n.qp r).reuse = reuse ∧ (held → n.qpState r = 0 ∧ n.qpn r = reuse * 65536 + r) ∧ said (2 ^ 31 + reuse * 65536 + r) n ∧
        n.get XPORT_QPUSED_n = (used + 1) % 2 ^ 17) ∧
    (65536 ≤ used → Ends .qpAlloc s fun n => more XPORT_ALLOCFAIL_LO n ∧ said 0 n) ∧
    (free → Ends (.qpFree qpn) s fun n => (n.qp f).alloc = false ∧ n.get XPORT_QPUSED_n = used - 1) ∧
    (¬free → Does (.qpFree qpn) s (m.put XPORT_STAT_freerej 1)) ∧
    (m.isOn XPORT_CTL_en = false → Does (.cmTransmit slot) s m) ∧
    (m.isOn XPORT_CTL_en = true → ∃ (i f : Bytes) (cls psn : Nat), Does (.cmTransmit slot) s ((m.digestItem i).transmit 0 cls f) ∧
      f.take 6 = bytesBe 6 (m.reg FWD_RMAC_LO + 2 ^ 32 * m.reg FWD_RMAC_HI) ∧
      (f.drop (f.length - 24 - mad.length - pad)).take (20 + mad.length) =
        bth opCm 0xFFFF (m.hbmNat (a + 20) 2) psn pad false ++ bytesBe 4 0x80010000 ++ [0, 0, 0, 1] ++ mad) ∧
    Does (.ccRingConsume g ci) s ((m.put (XPORT_CCCI_ci g.val) ci.toNat).setXport { m.xport with
      ccArmed := tableSet (fun _ => false) m.xport.ccArmed g.val true })

/-- R306 to R310, R313 to R317, R325, R328: the key commands of Thimble: an allocated entry takes the next tag; a registration that passes
its conditions makes the entry VALID with the operands, and one that fails ends with the code of the first that failed; a revocation ends
at once when no access is admitted; the log of revocations is read oldest first; sealed keys are held by QPN. -/
def Obligations.KeyCommands : Prop :=
  ∀ (s : State) (i : BitVec 20) (d : BitVec 10) (qpn : BitVec 24) (r v : Nat) (l : List Nat),
    let m := s.m
    let x := i.toNat
    let room := fun y => m.keyAddr y + 32 ≤ 2 ^ 35 ∧ m.hbmFree (m.keyAddr y) 32 = true ∧ ∀ e ∈ m.thim.lines, e.1 = y → e.2.length = 32
    let used := m.get THIM_KUSED_n
    let said := fun (a v : Nat) (n : Fjoek) => ∃ k k', n.out = m.out ++ k ++ [.read a v] ++ k'
    let found := freeKey m (m.thim.states.length + 1) (Config.freeNat m.free)
    let tag := if m.keyTag r = 255 then 1 else m.keyTag r + 1
    let idle := m.isOn THIM_KSTAT_busy = false
    let ends := fun (c : Nat) (n : Fjoek) => n.isOn THIM_KSTAT_busy = false ∧ n.get THIM_KSTAT_code = c
    let coded := fun (c : Nat) => (m.put THIM_KSTAT_busy 0).put THIM_KSTAT_code c
    let w := fun j => m.reg (THIM_KDATA j)
    let slate := m.slate (bitsOf (w 1) 25 16)
    let len := w 4 + 2 ^ 32 * w 5
    let soff := w 6 + 2 ^ 32 * (w 7 % 8)
    let c1 := m.keyState x ≠ 1
    let c2 := len = 0 ∨ 2 ^ 35 < len
    let c3 := slate.state = 0 ∨ 4096 * slate.pages < soff + len
    let c4 := ((bitOf (w 0) 19 = true ∨ bitOf (w 0) 20 = true) ∧ bitOf (w 0) 17 = false) ∨ w 0 / 2 ^ 24 ≠ 0 ∨ bitsOf (w 1) 31 26 ≠ 0 ∨
      bitsOf (w 7) 7 3 ≠ 0
    let key := w 0 % 2 ^ 24
    let valid := key < 1048576 ∧ w 0 / 2 ^ 24 ≠ 0 ∧ m.keyState key = 2 ∧ m.keyTag key = w 0 / 2 ^ 24
    let a := m.get THIM_SLBASE_base * 2 ^ 20 + 64 * d.toNat
    let lost := 2 ^ 30 * m.get THIM_KREV_lost
    let others := m.thim.sealKeys.filter fun e => e.1 != qpn.toNat
    let sealed := (List.range 8).foldl (fun v j => v + tableGet (fun _ => 0) m.thim.skdata j * 2 ^ (32 * j)) 0
    (used < 1048576 → found = some r → room r → Ends .keyAlloc s fun n => n.keyState r = 1 ∧ n.keyTag r = tag ∧
      n.get THIM_KUSED_n = used + 1 ∧ said THIM_KALLOC (2 ^ 31 + tag * 2 ^ 20 + r) n) ∧
    (1048576 ≤ used ∨ found = none → Ends .keyAlloc s fun n => said THIM_KALLOC 0 n ∧
      n.reg64 THIM_ALLOCFAIL_LO = (m.reg64 THIM_ALLOCFAIL_LO + 1) % 2 ^ 64) ∧
    (idle → ¬c1 → ¬c2 → ¬c3 → ¬c4 → room x → Ends (.keyRegister i) s fun n => ends 0 n ∧
      n.reg THIM_KRES = m.keyTag x * 2 ^ 24 + x ∧ n.keyState x = 2 ∧ n.keyTag x = m.keyTag x ∧
      n.keyNat x 2 1 = bitsOf (w 0) 23 16 ∧ n.keyNat x 4 2 = w 1 % 2 ^ 16 ∧ n.keyNat x 6 2 = bitsOf (w 1) 25 16 ∧
      n.keyNat x 8 8 = w 2 + 2 ^ 32 * w 3 ∧ n.keyNat x 0x10 8 = len ∧ n.keyNat x 0x18 5 = soff ∧ n.thim.bad.contains x = false) ∧
    (idle → c1 → Does (.keyRegister i) s (coded 1)) ∧
    (idle → ¬c1 → c2 → Does (.keyRegister i) s (coded 2)) ∧
    (idle → ¬c1 → ¬c2 → c3 → Does (.keyRegister i) s (coded 3)) ∧
    (idle → ¬c1 → ¬c2 → ¬c3 → c4 → Does (.keyRegister i) s (coded 4)) ∧
    (m.isOn THIM_KSTAT_busy = true → Does (.keyRegister i) s m ∧ Does .keyRevoke s m ∧ Does (.keyRead i) s m ∧ Does (.keyRelease i) s m) ∧
    (idle → valid → m.keyUse key = 0 → Ends .keyRevoke s fun n => ends 0 n ∧ n.keyState key = 0 ∧
      n.get THIM_KUSED_n = used - 1 ∧ n.isOn THIM_STAT_rdone = true ∧
      n.thim.revLog = (if m.thim.revLog.length < 64 then m.thim.revLog ++ [key] else m.thim.revLog) ∧
      n.reg64 THIM_REVOKED_LO = (m.reg64 THIM_REVOKED_LO + 1) % 2 ^ 64) ∧
    (idle → valid → m.keyUse key ≠ 0 → Ends .keyRevoke s fun n => ends 0 n ∧ n.keyState key = 3 ∧
      n.get THIM_REVOKING_n = (m.get THIM_REVOKING_n + 1) % 2 ^ 21) ∧
    (idle → ¬valid → Does .keyRevoke s (coded 1)) ∧
    (idle → Ends (.keyRead i) s fun n => ends 0 n ∧ ∀ j < 8, n.reg (THIM_KDATA j) = m.keyNat x (4 * j) 4) ∧
    (idle → m.keyState x = 1 → Ends (.keyRelease i) s fun n => ends 0 n ∧ n.keyState x = 0 ∧ n.keyTag x = m.keyTag x ∧
      n.get THIM_KUSED_n = used - 1) ∧
    (idle → m.keyState x ≠ 1 → Does (.keyRelease i) s (coded 1)) ∧
    (m.thim.revLog = [] → Ends .revocationLogPop s fun n => said THIM_KREV lost n ∧ n.get THIM_KREV_lost = 0 ∧ n.thim.revLog = []) ∧
    (m.thim.revLog = v :: l → Ends .revocationLogPop s fun n => said THIM_KREV (2 ^ 31 + lost + v) n ∧ n.get THIM_KREV_lost = 0 ∧
      n.thim.revLog = l) ∧
    Ends (.slateDescriptorReload d) s (fun n => n.slate d.toNat = { state := m.hbmNat a 1, flags := m.hbmNat (a + 1) 1, pages := m.hbmNat (a + 4) 4, hbase := m.hbmNat (a + 8) 8, dbase := m.hbmNat (a + 16) 8 }) ∧
    (others.length < 1024 → Ends (.sealedKeyLoad qpn) s fun n => n.sealKey qpn.toNat = some (sealed, tableGet (fun _ => 0) m.thim.skdata 8) ∧
      n.thim.skdata = [] ∧ n.get THIM_SKSTAT_held = others.length + 1 ∧ n.isOn THIM_SKSTAT_full = false) ∧
    (1024 ≤ others.length → Ends (.sealedKeyLoad qpn) s fun n => n.thim.sealKeys = m.thim.sealKeys ∧ n.thim.skdata = [] ∧
      n.isOn THIM_SKSTAT_full = true) ∧
    Ends (.sealedKeyErase qpn) s (fun n => n.sealKey qpn.toNat = none ∧ n.thim.sealKeys = others ∧
      n.get THIM_SKSTAT_held = others.length % 2 ^ 11)

/-- R307, R311, R312, R318, R321, R323: an access to a slate that reaches HBM stores its bytes, marks its pages dirty and gives its use of
the key back; an atomic leaves its result; a flush is served in the order of its records; a cache load brings its entry into the cache. -/
def Obligations.SlateAccesses : Prop :=
  ∀ (s : State) (id : Nat) (w : Word32) (i : BitVec 20) (a : SlateAcc) (f : FlushReq) (x : Pool) (p slot : Nat) (r : NsRec),
    let m := s.m
    let q := m.qp a.ctx
    let quiet := q.owed = [] ∧ q.due = [] ∧ q.ackDue = false
    let ke := m.keyAddr a.key
    let d := (m.slate a.slate).dbase
    let page := fun g => a.len ≠ 0 ∧ a.off / 4096 ≤ g ∧ g ≤ (a.off + a.len - 1) / 4096
    let found := m.thim.accs.find? (fun b => b.id == id) = some a
    let apart := fun (b k c l : Nat) => b + k ≤ c ∨ c + l ≤ b
    let lies := fun (k : Nat) => a.addr + k ≤ 2 ^ 35 ∧ m.hbmFree a.addr k = true ∧ apart a.addr k ke 32 ∧
      (∀ g, page g → apart a.addr k (d + g / 8) 1 ∧ apart ke 32 (d + g / 8) 1)
    let old := m.hbmNat a.addr 8
    let whole := (m.hbmDetect none a.addr a.len).1 = false
    let word := fun (v : Nat) (n : Fjoek) => n.hbmNat a.addr 8 = v ∧ (a.psn, old) ∈ (n.qp a.ctx).saved
    let freed := fun (n : Fjoek) => n.keyUse a.key = m.keyUse a.key - 1
    let ci := m.get THIM_FLCI_ci
    let e := m.get THIM_FLBASE_base * 2 ^ 20 + 32 * (ci % 1024)
    let k := m.hbmNat (e + 12) 4 % 1024
    let served := fun (n : Fjoek) => n.get THIM_FLCI_ci = (ci + 1) % 2 ^ 11 ∧ n.slateGen k = (m.slateGen k + 1) % 2 ^ 64
    let none_ := m.dirtyPages k (m.hbmNat (e + 16) 8) (m.hbmNat (e + 24) 8) = []
    (found → Ends (.slateAccessComplete id) s fun n => ∀ b ∈ n.thim.accs, b.id ≠ id) ∧
    (found → quiet → (a.op = .write ∨ a.op = .awrite) → lies a.data.length → Ends (.slateAccessComplete id) s fun n =>
      n.hbmBytes a.addr a.data.length = a.data ∧
        (∀ g, page g → d + g / 8 < 2 ^ 35 → m.hbmFree (d + g / 8) 1 = true → bitOf (n.hbmNat (d + g / 8) 1) (g % 8) = true)) ∧
    (found → quiet → Ends (.slateAccessComplete id) s freed) ∧
    (∀ v, found → quiet → a.op = .faa v → whole → lies 8 → Ends (.slateAccessComplete id) s (word ((old + v) % 2 ^ 64))) ∧
    (∀ v c, found → quiet → a.op = .cas v c → whole → lies 8 → v < 2 ^ 64 →
      Ends (.slateAccessComplete id) s (word (if old = c then v else old))) ∧
    Ends (.mirrorAck id) s (fun n => n.thim.copies.contains id = false) ∧
    (m.thim.flushes.find? (fun g => g.id == w.toNat) = some f → Ends (.flushDone w) s fun n => ∀ g ∈ n.thim.flushes, g.id ≠ w.toNat) ∧
    (ci = m.get THIM_FLPI_pi → Does .flushRequestService s m) ∧
    (ci ≠ m.get THIM_FLPI_pi → m.nsFind (m.slateNsid k) = none → Ends .flushRequestService s served) ∧
    (ci ≠ m.get THIM_FLPI_pi → m.nsFind (m.slateNsid k) = some (p, slot, r) → m.pool? p = some x → m.nsReady x r = true → none_ →
      m.recRoom x 0 = true → Ends .flushRequestService s served) ∧
    (m.thim.loading.contains i.toNat = true → m.xrx 0 = [] → m.xrx 1 = [] → (∀ y ∈ m.xport.qps, y.2.held = []) →
      Ends (.thimbleCacheLoadComplete i) s fun n => n.thim.cached.contains i.toNat = true ∧ n.thim.loading.contains i.toNat = false ∧
        ((m.hbmDetect none (m.keyAddr i.toNat) 32).1 = true → n.thim.bad.contains i.toNat = true))

/-- R330, R334 to R338, R340 to R346: the attach endpoint. A change that the local computer makes to a controller register, a doorbell, Bus
Master Enable, a D-state or a reset has its effect and goes as a 16-byte record into the ring of its function's cluster; completions,
timeouts and quarantine act on tags; vectors, INTx and wakes are sent, held or dropped by the function's state. -/
def Obligations.Attach : Prop :=
  ∀ (s : State) (fn : Fin 64) (r14 : BitVec 14) (w : Word64) (g : Fin 16) (ci : BitVec 9) (speed : Fin 4) (width : Fin 17) (flit : Bool)
    (off : BitVec 12) (tag : Nat) (x32 : Word32) (q : AttReq) (d : Desc) (data : List Byte) (vec : BitVec 11) (a64 : Word64) (mask : Bool),
    let m := s.m
    let f := fn.val
    let x := m.attFn f
    let p := m.attFn 0
    let plain := m.trailing = false ∧ m.ceded = false ∧ m.twin.stopped = false ∧ m.twin.frozen = false ∧ m.leads = false
    let up := m.isOn ATT_LINK_up = true
    let on := up ∧ m.fnEnabled f = true
    let slot := fun (c : Nat) => m.get ATT_DBBASE_base * 2 ^ 20 + 4096 * c + 16 * (m.get (ATT_DBPI_pi c) % 256)
    let ringed := fun (c : Nat) => m.trailing = false ∧ m.dbFull c = false ∧ slot c + 16 ≤ 2 ^ 35 ∧ m.hbmFree (slot c) 16 = true
    let c := m.get (ATT_FNCL_cluster f)
    let recorded := fun (c f kind reg v : Nat) (n : Fjoek) => n.get (ATT_DBPI_pi c) = (m.get (ATT_DBPI_pi c) + 1) % 512 ∧
      n.hbmBytes (slot c) 16 = bytesOf 1 f ++ bytesOf 1 kind ++ bytesOf 2 reg ++ bytesOf 4 0 ++ bytesOf 8 v
    let changed := fun (kind : Nat) (n : Fjoek) => recorded c f kind 0 (n.fnst f) n
    let more := fun (a : Nat) (n : Fjoek) => n.reg64 a = (m.reg64 a + 1) % 2 ^ 64
    let open_ := m.barsOpen f = true
    let alone := m.fnDescs f = []
    let drawn := ∀ k, m.draws k = []
    let hasTag := m.att.reqs.find? (fun r => r.tag == tag) = some q
    let freed := fun (n : Fjoek) => ∀ r ∈ n.att.reqs, r.tag ≠ tag
    let quiet := (m.mngl.descs.filter fun d => d.op == 0 && d.ssp == 3 && d.phase == .running && decide (d.sent < d.len)) = []
    let t := BitVec.ofNat 14 tag
    let t14 := tag < 2 ^ 14
    let z := off.toNat
    let cfg := on ∧ z % 4 = 0
    let y := x32.toNat
    let k := vec.toNat
    let entry := tableGet msixReset m.att.msix (f * 2048 + k)
    let within := k < attVectors f
    let uncounted := m.reg PMON_GCTL = 0
    let st := m.reg ATT_INTXST - (m.reg ATT_INTXST &&& y)
    let down := fun (n : Fjoek) => n.isOn ATT_LINK_up = false ∧ n.get ATT_LINK_width = 0 ∧ (n.attFn 0).flr = true ∧
      n.isOn ATT_VFST_vfen = false ∧ n.get ATT_VFST_numvf = 0 ∧ (up → n.isOn ATT_STAT_link = true)
    (m.runs 9 = true → ¬up → Ends (.attLinkUp speed width flit) s fun n => n.isOn ATT_LINK_up = true ∧ n.get ATT_LINK_speed = speed.val ∧
      n.get ATT_LINK_width = width.val ∧ n.isOn ATT_LINK_flit = flit ∧ n.isOn ATT_STAT_link = true ∧ n.att.perst = false ∧
        n.att.d3cold = false) ∧
    (¬open_ → Does (.doorbellWrite fn r14 w) s ((m.count ATT_RXTLP_LO 1).send .attUr) ∧
      Does (.msixTableWrite fn vec a64 x32 mask) s (m.send .attUr)) ∧
    (open_ → ringed c → Ends (.doorbellWrite fn 0x14 w) s (fun n => recorded c f 2 0x14 w.toNat n ∧ (n.attFn f).cc = w.toNat % 2 ^ 32) ∧
      Ends (.doorbellWrite fn 0x24 w) s (fun n => recorded c f 3 0x24 w.toNat n ∧ (n.attFn f).aqa = w.toNat % 2 ^ 32) ∧
      Ends (.doorbellWrite fn 0x28 w) s (fun n => recorded c f 3 0x28 w.toNat n ∧ (n.attFn f).asq = w.toNat) ∧
      Ends (.doorbellWrite fn 0x30 w) s (fun n => recorded c f 3 0x30 w.toNat n ∧ (n.attFn f).acq = w.toNat)) ∧
    (open_ → ringed c → 0x1000 ≤ r14.toNat → r14.toNat < 0x1200 → r14.toNat % 4 = 0 → Ends (.doorbellWrite fn r14 w) s fun n =>
      recorded c f 1 r14.toNat w.toNat n ∧ n.bell f ((r14.toNat - 0x1000) / 4) = w.toNat % 2 ^ 32) ∧
    (open_ → m.trailing = false → m.dbFull c = true → Ends (.doorbellWrite fn 0x14 w) s fun n => (n.attFn f).cc = w.toNat % 2 ^ 32 ∧
      (n.attFn f).ovr = true ∧ n.get (ATT_DBPI_pi c) = m.get (ATT_DBPI_pi c) ∧ n.isOn ATT_STAT_ovr = true) ∧
    ((∀ h < 64, (m.attFn h).ovr = false) → Ends (.doorbellRingConsume g ci) s fun n => n.get (ATT_DBCI_ci g.val) = ci.toNat ∧
      tableGet (fun _ => false) n.att.armed g.val = true ∧ n.get (ATT_DBPI_pi g.val) = m.get (ATT_DBPI_pi g.val)) ∧
    (x.ovr = true → (∀ h < 64, h ≠ f → (m.attFn h).ovr = false) → (m.get (ATT_DBPI_pi c) + 512 - ci.toNat) % 512 ≠ 256 →
      slot c + 16 ≤ 2 ^ 35 → m.hbmFree (slot c) 16 = true → c = g.val → Ends (.doorbellRingConsume g ci) s fun n =>
        changed 7 n ∧ (n.attFn f).ovr = false) ∧
    (on → x.bme = true → ringed c → drawn → Ends (.busMasterDisable fn) s fun n => (n.attFn f).bme = false ∧ changed 5 n ∧
      n.isOn ATT_STAT_bme = true ∧ ∀ e ∈ n.fnDescs f, e.phase = .parked) ∧
    (on → x.bme = false → Ends (.busMasterEnable fn) s fun n => (n.attFn f).bme = true ∧ n.isOn ATT_STAT_bme = true) ∧
    (on → x.bme = false → alone → ringed c → Ends (.busMasterEnable fn) s (changed 5)) ∧
    (on → f ≠ 0 → Ends (.flr fn) s fun n => (n.attFn f).flr = true) ∧
    (on → f ≠ 0 → alone → Ends (.flr fn) s fun n => ∀ r ∈ n.att.reqs, r.fn ≠ f) ∧
    (on → f = 0 → Ends (.flr fn) s fun n => (∀ h < 64, (n.attFn h).flr = true) ∧ n.isOn ATT_VFST_vfen = false ∧
      n.get ATT_VFST_numvf = 0) ∧
    (f ≠ 0 → x.flr = true → ringed c → Ends (.flrComplete fn) s fun n => n.attFn f = { attFnReset f with ovr := x.ovr } ∧ changed 4 n ∧
      n.isOn ATT_STAT_flr = true ∧ n.reg (ATT_INTMS f) = 0 ∧ n.reg (ATT_CSTS f) = 0 ∧ (∀ i < 128, n.bell f i = 0) ∧
      (∀ i < 2048, tableGet msixReset n.att.msix (f * 2048 + i) = msixReset 0 ∧ tableGet (fun _ => false) n.att.pba (f * 2048 + i) = false)) ∧
    (f = 0 → x.flr = true → Ends (.flrComplete fn) s fun n => (n.attFn 0).flr = false ∧ (n.attFn 0).pmeEn = p.pmeEn ∧
      (n.attFn 0).aer = p.aer ∧ (n.attFn 0).msixEn = false) ∧
    Ends (.conventionalReset .hot) s down ∧ Ends (.conventionalReset .dlDown) s down ∧
    Ends (.conventionalReset .perst) s (fun n => down n ∧ n.att.perst = true ∧ n.att.d3cold = (m.att.d3cold || m.attDst == 3)) ∧
    (up → m.attDst = 0 → Ends .d3hotEntry s fun n => n.attDst = 3 ∧ n.isOn ATT_STAT_dstate = true) ∧
    (up → m.attDst ≠ 0 → Ends .d0Entry s fun n => n.attDst = 0 ∧ n.isOn ATT_STAT_dstate = true) ∧
    (up → m.fnsOn = [0] → f = 0 → alone → ringed c → (m.attDst = 0 → Ends .d3hotEntry s (changed 6)) ∧
      (m.attDst ≠ 0 → Ends .d0Entry s (changed 6))) ∧
    (cfg → z = 0x04 → Ends (.pciConfigWrite fn off x32) s fun n => (n.attFn f).mem = bitOf y 1 ∧ (n.attFn f).intxDis = bitOf y 10 ∧
      (n.attFn f).bme = bitOf y 2) ∧
    (cfg → z = 0x44 → f = 0 → Ends (.pciConfigWrite fn off x32) s fun n => (n.attFn 0).pmeEn = bitOf y 8 ∧
      (y % 4 = 3 → n.attDst = 3) ∧ (y % 4 = 0 → n.attDst = 0) ∧ (y % 4 = 1 ∨ y % 4 = 2 → n.attDst = m.attDst)) ∧
    (cfg → z = 0x50 → Ends (.pciConfigWrite fn off x32) s fun n => (n.attFn f).msixEn = bitOf y 31 ∧ (n.attFn f).fmask = bitOf y 30) ∧
    (cfg → z = 0x78 → bitOf y 15 = true → f ≠ 0 → Ends (.pciConfigWrite fn off x32) s fun n => (n.attFn f).flr = true) ∧
    (cfg → z = 0x170 → f = 0 → Ends (.pciConfigWrite fn off x32) s fun n => n.get ATT_VFST_vfen = y % 2) ∧
    (hasTag → t14 → q.quarantined = true → quiet → ∀ u, Ends (.attCompletion t u data) s fun n => freed n ∧ more ATT_LATE_LO n) ∧
    (m.att.reqs.find? (fun r => r.tag == tag) = none → t14 → ∀ u, (m.att.late.contains tag = true → Ends (.attCompletion t u data) s fun n =>
        more ATT_LATE_LO n ∧ n.att.late = m.att.late.erase tag) ∧
      (m.att.late.contains tag = false → Ends (.attCompletion t u data) s fun n => more ATT_UNEXP_LO n ∧ (n.attFn 0).aer.testBit 16 = true)) ∧
    (m.trailing = false → hasTag → t14 → q.quarantined = false → (q.desc.bind m.findDesc) = some d →
      (m.att.reqs.any fun r => r.tag != tag && r.desc == some d.id) = true → quiet → Does (.attCompletion t .ok data) s
        (((m.count ATT_RXTLP_LO 1).setAtt { m.att with reqs := m.att.reqs.filter fun r => r.tag != tag }).putAt
          ((placeOf 0 (d.w 1)).at q.off) (data.take q.len))) ∧
    (m.att.reqs.find? (fun r => r.tag == tag && !r.quarantined) = some q → t14 → (q.desc.bind m.findDesc) = some d →
      (m.attFn q.fn).ctoDis = false → Ends (.completionTimeout t) s fun n => more ATT_CTO_LO n ∧ n.isOn ATT_STAT_cto = true ∧
        (n.attFn q.fn).aer.testBit 14 = true ∧ ∃ r ∈ n.att.reqs, r.tag = tag ∧ r.quarantined = true ∧ r.desc = none) ∧
    (t14 → Ends (.quarantineEnd t) s fun n => ∀ r ∈ n.att.reqs, r.tag = tag → r.quarantined = false) ∧
    (¬within → Does (.interruptRaise fn vec) s m) ∧
    (plain → within → x.msixEn = true → m.msixSendable f k = true → Does (.interruptRaise fn vec) s (m.send (.msix f entry.addr entry.data))) ∧
    (within → x.msixEn = true → m.msixSendable f k = false → Ends (.interruptRaise fn vec) s fun n =>
      tableGet (fun _ => false) n.att.pba (f * 2048 + k) = true) ∧
    (within → x.msixEn = false → f = 0 → Ends (.interruptRaise fn vec) s fun n => bitOf (n.reg ATT_INTXST) (k % 32) = true ∧
      n.att.inta = n.intxLevel) ∧
    (within → x.msixEn = false → f ≠ 0 → Ends (.interruptRaise fn vec) s (more ATT_IRQDROP_LO)) ∧
    (uncounted → Ends (.intxStatusClear x32) s fun n => n.reg ATT_INTXST = st ∧ n.att.inta = n.intxLevel) ∧
    (p.pmeEn = false → Ends .wakeRequest s fun n => n.isOn ATT_WAKE_pend = true) ∧
    (p.pmeEn = true → m.att.d3cold = true → Ends .wakeRequest s fun n => (n.attFn 0).pmeSt = true ∧ n.att.wakeLow = true) ∧
    (p.pmeEn = true → m.att.d3cold = false → p.dst = 3 → Ends .wakeRequest s fun n => (n.attFn 0).pmeSt = true ∧
      ∃ l, n.out = m.out ++ [.pme] ++ l) ∧
    (p.dst = 3 → p.pmeSt = true → p.pmeEn = true → m.att.d3cold = false → Does .pmeRepeat s (m.send .pme)) ∧
    (open_ → within → Ends (.msixTableWrite fn vec a64 x32 mask) s fun n =>
      tableGet msixReset n.att.msix (f * 2048 + k) = { addr := a64.toNat, data := x32.toNat, mask := mask })

/-- R22, R57, R351 to R354, R374, R377, R379: pairing, separation, planned swap, resync, heartbeat, cede and the link of a pair. A command
ends with its code; a lead that loses its twin is solo, and a trailing twin that loses its lead stops or takes the lead's role. -/
def Obligations.TwinRoles : Prop :=
  ∀ (s : State) (peer : PeerInfo) (k : Nat) (item : CopyItem) (rail held : Bool) (grp : Fin 4),
    let m := s.m
    let twin := m.inTwin = true
    let idle := m.isOn TWIN_CMDSTAT_busy = false
    let role := m.isOn TWIN_STAT_role
    let sync := m.isOn TWIN_STAT_sync
    let link := m.isOn TWIN_STAT_link = true
    let ph := m.get TWIN_STAT_phase
    let t := m.twin
    let ended := fun (c : Nat) => (m.put TWIN_CMDSTAT_busy 0).put TWIN_CMDSTAT_code c
    let ends := fun (c : Nat) (n : Fjoek) => n.isOn TWIN_CMDSTAT_busy = false ∧ n.get TWIN_CMDSTAT_code = c
    let code := m.pairCode peer
    let solo := fun (n : Fjoek) => n.isOn TWIN_STAT_role = true ∧ n.isOn TWIN_STAT_sync = false ∧ n.isOn TWIN_STAT_solo = true ∧
      n.get TWIN_STAT_phase = 0 ∧ n.isOn SEAM_CTL_instep = false ∧ n.twin.log = [] ∧ n.twin.frozen = false
    let stopped := fun (n : Fjoek) => n.isOn TWIN_STAT_sync = false ∧ n.get TWIN_STAT_phase = 0 ∧ n.isOn SEAM_CTL_instep = false ∧
      n.twin.stopped = true ∧ n.twin.ring = []
    let took := fun (n : Fjoek) => n.isOn TWIN_STAT_role = true ∧ n.get TWIN_STAT_phase = 6 ∧ n.twin.cedeOut = true ∧
      n.isOn TWIN_ESTAT_rolechg = true ∧ n.reg64 TWIN_TAKEOVER_LO = (m.reg64 TWIN_TAKEOVER_LO + 1) % 2 ^ 64
    let serves := m.power = 4
    let inStep := fun (n : Fjoek) => n.isOn TWIN_STAT_sync = true ∧ n.isOn TWIN_STAT_solo = false ∧ n.get TWIN_STAT_phase = 4 ∧
      n.isOn SEAM_CTL_instep = true ∧ n.reg64 TWIN_RESYNCS_LO = (m.reg64 TWIN_RESYNCS_LO + 1) % 2 ^ 64 ∧ ends 0 n
    let freeze := t.swapping = false ∧ ph = 3
    let tries := t.tries + 1
    let loses := twin ∧ link ∧ m.ceded = false ∧ ph ≠ 6
    (twin → ph ≠ 1 → idle → code ≠ 0 → Ends (.pair peer) s fun n => ends code n ∧ n.isOn TWIN_ESTAT_resync = true ∧
      (code = 2 → sync = false → m.ceded = false → t.stopped = false → n.isOn TWIN_STAT_role = true ∧ n.isOn TWIN_STAT_solo = true ∧
        n.isOn TWIN_ESTAT_link = true)) ∧
    (twin → ph ≠ 1 → idle → code = 0 → (drawKey peer.draws m).1 = some k → Ends (.pair peer) s fun n => n.twin.hkey = k ∧
      n.mngl.fpz = k % 2 ^ 64 ∧ n.isOn MNGL_FPSTAT_zset = true ∧ n.isOn TWIN_STAT_role = m.leadRole peer ∧ n.get TWIN_STAT_phase = 2 ∧
        n.isOn TWIN_CMDSTAT_busy = true ∧ n.isOn TWIN_STAT_ceded = false) ∧
    (twin → idle → sync = true → role = true → Ends .break_ s fun n => solo n ∧ ends 0 n) ∧
    (twin → idle → sync = true → role = false → Ends .break_ s fun n => stopped n ∧ ends 0 n) ∧
    (twin → idle → sync = false → Does .break_ s (ended 1)) ∧
    (twin → idle → serves → link → m.leads = true → ph = 4 → m.allDrained = true → t.swapSeq = none → Ends .swap s fun n =>
      n.isOn TWIN_CMDSTAT_busy = true ∧ n.twin.swapping = true ∧ n.twin.dispatchStopped = true ∧ n.twin.swapSeq = some t.nextSeq ∧
        ∃ l, n.twin.log = t.log ++ [⟨0x10, 0xFF, 0, t.nextSeq, []⟩] ++ l) ∧
    (twin → idle → ¬serves → Does .swap s (ended 5)) ∧
    (twin → idle → serves → ¬link → Does .swap s (ended 2)) ∧
    (twin → idle → serves → link → (m.leads = false ∨ ph ≠ 4) → Does .swap s (ended 1)) ∧
    (twin → idle → serves → link → role = true → m.ceded = false → sync = false → ph = 0 → Ends (.resync false) s fun n =>
      n.isOn TWIN_CMDSTAT_busy = true ∧ n.get TWIN_STAT_phase = 2 ∧ n.twin.tries = 0 ∧
        ∃ l, n.out = m.out ++ [.twinMsg 0x10 [4]] ++ l) ∧
    (twin → idle → ¬serves → Does (.resync false) s (ended 5)) ∧
    (twin → role = false → Ends (.resync true) s fun n => n.isOn TWIN_STAT_role = false ∧ n.get TWIN_STAT_phase = 2 ∧
      n.twin.stopped = true ∧ n.twin.ring = []) ∧
    (ph = 2 → Ends .resyncCopyDone s fun n => n.get TWIN_STAT_phase = 3 ∧ (role = true → n.twin.dispatchStopped = true)) ∧
    (freeze → m.allDrained = true → role = true → Ends (.resyncFreezeDrained []) s fun n => inStep n ∧ n.twin.acked = 0 ∧
      n.twin.dispatchStopped = false) ∧
    (freeze → m.allDrained = true → role = false → item.space = .hbm → Ends (.resyncFreezeDrained [item]) s fun n => inStep n ∧
      n.twin.stopped = false ∧ n.twin.recvSeq = 0 ∧ (∀ j < 32, n.isOn (NETP_SSTAT_txsup j) = true) ∧
        (m.inAperture item.addr item.vals.length = false → n.hbmBytes item.addr item.vals.length = item.vals.map (BitVec.ofNat 8))) ∧
    (t.swapping = true → t.swapSeq = none → Ends .resyncFreezeTimeout s fun n => n.twin.swapping = false ∧ ends 3 n ∧
      n.twin.dispatchStopped = false) ∧
    (freeze → role = true → Ends .resyncFreezeTimeout s fun n => n.get TWIN_STAT_phase = 0 ∧ n.twin.tries = tries ∧
      (n.twin.retryDue = true ↔ tries < 8) ∧ (8 ≤ tries → ends 3 n ∧ n.isOn TWIN_ESTAT_resync = true)) ∧
    (freeze → role = false → Does .resyncFreezeTimeout s (m.put TWIN_STAT_phase 0)) ∧
    (t.retryDue = true → link → Ends .resyncRetry s fun n => n.get TWIN_STAT_phase = 2 ∧ n.twin.retryDue = false ∧
      ∃ l, n.out = m.out ++ [.twinMsg 0x10 [4]] ++ l) ∧
    (t.stopped = true → m.isOn TWIN_CTL_autoresync = true → link → ph = 0 → role = false → Does .autoresync s
      ((m.put TWIN_STAT_phase 2).send (.twinMsg 0x0B []))) ∧
    (serves → m.isOn TWIN_CTL_en = true → m.isOn TWIN_CTL_hbstop = false → rail = false → (role = true → held = false) →
      Does (.heartbeatToggle rail held) s (m.setTwin { t with hbOut := !t.hbOut })) ∧
    (twin → m.runs 13 = true → Ends .heartbeatLoss s fun n => n.isOn TWIN_STAT_hb = false ∧ n.isOn TWIN_ESTAT_hbloss = true ∧
      (role = false → sync = true → took n)) ∧
    (twin → m.runs 13 = true → Does .heartbeatEdge s (m.put TWIN_STAT_hb 1) ∧
      Does .twinLinkUp s ((m.put TWIN_STAT_groups 15).put TWIN_STAT_link 1)) ∧
    (twin → Ends .cede s fun n => n.isOn TWIN_STAT_ceded = true ∧ n.isOn TWIN_STAT_sync = false ∧ n.get TWIN_STAT_phase = 7 ∧
      n.isOn SEAM_CTL_instep = false ∧ n.isOn TWIN_ESTAT_cede = true ∧ n.twin.held = [] ∧ n.twin.cedeIn = true ∧
        ∀ j < 32, n.isOn (NETP_SSTAT_txsup j) = true) ∧
    (loses → (role = true ∨ (serves ∧ sync = false ∧ t.stopped = false)) → Ends (.twinLinkDown grp) s fun n => solo n ∧ n.isOn TWIN_STAT_link = false ∧ n.isOn TWIN_ESTAT_link = true ∧
      (m.isOn TWIN_CMDSTAT_busy = true ∨ ph = 1 ∨ ph = 2 ∨ ph = 3 → ends 2 n)) ∧
    (loses → role = false → (sync = true ∨ t.stopped = true) → Ends (.twinLinkDown grp) s fun n => stopped n ∧
      n.isOn TWIN_STAT_link = false ∧ n.isOn TWIN_ESTAT_link = true)

/-- R356, R357, R365 to R369, R371, R372, R380, R381, R481: the lead's log and its acknowledgement, horizons, epochs and the comparison of
their digests, divergence and the self-check, the health report, and events of the peer. -/
def Obligations.TwinChecks : Prop :=
  ∀ (s : State) (seq j d cw ucw retx : Nat) (rounds : List Nat) (own other : BitVec 8) (e : Fin 512),
    let m := s.m
    let t := m.twin
    let twin := m.inTwin = true
    let leads := m.leads = true
    let role := m.isOn TWIN_STAT_role
    let sync := m.isOn TWIN_STAT_sync
    let more := fun (a : Nat) (n : Fjoek) => n.reg64 a = (m.reg64 a + 1) % 2 ^ 64
    let solo := fun (n : Fjoek) => n.isOn TWIN_STAT_role = true ∧ n.isOn TWIN_STAT_sync = false ∧ n.isOn TWIN_STAT_solo = true ∧
      n.get TWIN_STAT_phase = 0 ∧ n.twin.log = []
    let stopped := fun (n : Fjoek) => n.isOn TWIN_STAT_sync = false ∧ n.get TWIN_STAT_phase = 0 ∧ n.twin.stopped = true
    let took := fun (n : Fjoek) => n.isOn TWIN_STAT_role = true ∧ n.get TWIN_STAT_phase = 6 ∧ n.twin.cedeOut = true ∧
      n.isOn TWIN_ESTAT_rolechg = true ∧ more TWIN_TAKEOVER_LO n
    let logged := fun (l : List LogRec) (n : Fjoek) => ∃ r, n.twin.log = t.log ++ l ++ r
    let a := Nat.max t.acked (Nat.min seq (t.nextSeq - 1))
    let checks := m.get TWIN_STAT_phase = 5
    let result := fun (n : Fjoek) => n.get TWIN_SCHK_own = own.toNat ∧ n.get TWIN_SCHK_peer = other.toNat ∧ n.isOn TWIN_SCHK_done = true ∧
      n.isOn TWIN_ESTAT_schk = true
    let now := (List.range 64).map m.nextRound
    let closes := (leads ∨ m.trailing = true) ∧ t.closed + 1 ≤ t.epoch ∧ tableFind t.epochRounds (t.closed + 1) = some rounds ∧
      ∀ x < 64, nth rounds x 0 ≤ m.round x
    let mine := tableGet (fun _ => 0) t.own t.closed
    let theirs := tableGet (fun _ => 0) t.peer t.closed
    let diverged := fun (ep : Nat) (n : Fjoek) => n.get TWIN_STAT_phase = 5 ∧ more TWIN_DIVERGE_LO n ∧ n.isOn TWIN_ESTAT_diverge = true ∧
      n.reg64 TWIN_DIVEP_LO = ep % 2 ^ 64 ∧ n.isOn TWIN_SCHK_done = false ∧ (role = true → n.twin.frozen = true)
    let h := m.get TWIN_HREP_base * 2 ^ 20
    (leads → t.swapSeq = none → Ends (.logAck seq []) s fun n => n.twin.acked = a ∧
      (t.frozen = false → ∃ l, n.out = m.out ++ ((t.held.filter fun p => decide (p.1 ≤ a)).map fun p => p.2) ++ l)) ∧
    (leads → t.swapSeq = some j → j ≤ a → Ends (.logAck seq []) s fun n => n.isOn TWIN_STAT_role = false ∧ n.twin.swapping = false ∧
      n.twin.ring = [] ∧ n.isOn TWIN_ESTAT_swap = true ∧ n.get TWIN_CMDSTAT_code = 0 ∧ ∀ i < 32, n.isOn (NETP_SSTAT_txsup i) = true) ∧
    (leads → Ends .horizonRecord s (logged ((List.range 64).map fun x => ⟨0x0F, x, m.nextRound x, t.nextSeq + x, [m.nextRound x]⟩))) ∧
    (leads → Ends .backlogBreak s fun n => solo n ∧ n.isOn TWIN_ESTAT_lag = true) ∧
    (leads → Ends .epochRecord s fun n => n.twin.epoch = t.epoch + 1 ∧
      logged [⟨0x0D, 0xFF, 0, t.nextSeq, (t.epoch + 1) :: now⟩] n ∧ tableFind n.twin.epochRounds (t.epoch + 1) = some now) ∧
    (closes → Ends .epochClose s fun n => n.twin.closed = t.closed + 1 ∧ more TWIN_EPOCHS_LO n ∧
      (leads → logged [⟨0x0E, 0xFF, 0, t.nextSeq, [t.closed, mine % 2 ^ 64, mine / 2 ^ 64]⟩] n) ∧
      (theirs = 0 → t.closed ∈ n.twin.uncompared) ∧ (theirs = mine + 1 → n.reg64 TWIN_DIVERGE_LO = m.reg64 TWIN_DIVERGE_LO) ∧
      (theirs ≠ 0 → theirs ≠ mine + 1 → diverged t.closed n)) ∧
    ((t.uncompared.find? fun x => tableGet (fun _ => 0) t.peer x == 0) = some d → (leads ∨ m.trailing = true) →
      Ends .digestTimeout s (diverged d)) ∧
    (checks → role = true → own ≠ 0 → other = 0 → Ends (.selfCheckResult own other) s fun n => result n ∧ n.get TWIN_STAT_phase = 5) ∧
    (checks → role = true → (own = 0 ∨ other ≠ 0) → Ends (.selfCheckResult own other) s fun n => result n ∧ solo n) ∧
    (checks → role = false → sync = true → other ≠ 0 → own = 0 → Ends (.selfCheckResult own other) s fun n => result n ∧ took n) ∧
    (checks → role = false → (other = 0 ∨ own ≠ 0) → Ends (.selfCheckResult own other) s fun n => result n ∧ stopped n) ∧
    (checks → m.isOn TWIN_SCHK_done = false → role = true → Ends .selfCheckTimeout s solo) ∧
    (checks → m.isOn TWIN_SCHK_done = false → role = false → sync = true → Ends .selfCheckTimeout s took) ∧
    (twin → m.runs 13 = true → Ends (.healthReport cw ucw retx none) s fun n => n.twin.healthSeq = t.healthSeq + 1 ∧
      n.reg64 TWIN_LINKCW_LO = (m.reg64 TWIN_LINKCW_LO + cw) % 2 ^ 64 ∧ n.isOn TWIN_ESTAT_health = true ∧
      (h + 128 ≤ 2 ^ 35 → m.hbmFree h 128 = true → n.hbmNat h 4 = m.get TWIN_STAT_role + 2 * m.get TWIN_STAT_sync +
          4 * m.get TWIN_STAT_solo + 8 * m.get TWIN_STAT_ceded ∧ n.hbmNat (h + 4) 4 = (t.healthSeq + 1) % 2 ^ 32 ∧
        n.hbmNat (h + 8) 8 = m.time % 2 ^ 64 ∧ n.hbmNat (h + 124) 4 = crc32c ((n.hbmBytes h 124).map BitVec.toNat))) ∧
    (twin → m.isOn TWIN_STAT_link = true → m.runs 2 = true → Does (.peerEvent e) s
      (m.setReg (EVT_PEER (e.val / 32)) (m.reg (EVT_PEER (e.val / 32)) ||| 2 ^ (e.val % 32))))

/-- R355 to R357, R359 to R361, R364, R365, R367, R369, R373, R379: the trailing twin's side of the log. A record in seq order is held and
acknowledged, and takes effect once its engine has come to its round: as the input, the completion, the timer, the result or the write that
the lead had; a seq that is held already is nothing new, and a gap or an undefined kind is a divergence. The end of a takeover's replay
leaves the module alone in the pair's place. -/
def Obligations.Replay : Prop :=
  ∀ (s : State) (h : LogHead) (k : Pkt) (st : Fin 8) (sl : Fin 4) (kind code detail ep result id v n1 reg ctx who : Nat)
    (full data hash : List Byte) (prints rounds entry : List Nat) (port : Fin 24) (fn u : Fin 64) (cls : Fin 6) (desc up : Bool) (w : Word64) (rd : Fin 33)
    (i : PartItem) (e : Fin 512) (tag : BitVec 10) (addr : BitVec 22) (val : Word32) (what : Fin 3) (unread : List (Nat × Nat)),
    let m := s.m
    let t := m.twin
    let takes := m.takesLog = true
    let next := takes ∧ h.seq = t.recvSeq + 1 ∧ t.ring = []
    let hold := fun (b : LogBody) => m.holdRecord h b
    let ready := fun (b : LogBody) => next ∧ (hold b).recordReady ⟨h, b, m.time⟩ = true
    let z := fun (b : LogBody) => ((hold b).setTwin { (hold b).twin with ring := [] }).replayOne s.fuses ⟨h, b, m.time⟩
    let k' := 8 * (h.target % 64) + st.val
    let got := fun (n : Fjoek) => n.twin.recvSeq = h.seq ∧ n.twin.ring = [] ∧ ∃ l, n.out = m.out ++ [.twinMsg 0x0A [h.seq]] ++ l
    let rows : List (Instr × LogBody) := [(.logFrame h k, .frame k), (.logItem h st sl kind full prints, .item k' sl.val kind full prints),
      (.logDcomp h port entry prints, .dcomp port.val entry prints),
      (.logXcomp h id code detail ep result prints hash, .xcomp id code detail ep result prints hash),
      (.logAttrec h fn kind reg v, .attrec fn.val kind reg v), (.logTimer h kind ctx, .timer kind ctx),
      (.logGrant h cls desc who, .grant cls.val desc who), (.logValue h ⟨st, rd, w⟩, .value st.val rd.val w.toNat), (.logEvent h e tag, .event e.val tag.toNat),
      (.logCmd h addr val, .cmd addr.toNat val.toNat), (.logLink h what u up v, .link what.val u.val up v),
      (.logMirror h n1 data, .mirror n1 data), (.logEpoch h v rounds, .epoch v rounds), (.logDigest h id v, .digest id v),
      (.logHorizon h v, .horizon v), (.logSwap h, .swap)]
    let diverged := fun (n : Fjoek) => n.get TWIN_STAT_phase = 5 ∧ n.isOn TWIN_ESTAT_diverge = true ∧
      n.reg64 TWIN_DIVERGE_LO = (m.reg64 TWIN_DIVERGE_LO + 1) % 2 ^ 64 ∧ n.reg64 TWIN_DIVEP_LO = t.epoch % 2 ^ 64
    (takes → h.seq ≤ t.recvSeq → ∀ r ∈ rows, Does r.1 s m) ∧
    (takes → t.recvSeq + 1 < h.seq → ∀ r ∈ rows, Ends r.1 s diverged) ∧
    (∀ r ∈ rows, next → (hold r.2).recordReady ⟨h, r.2, m.time⟩ = false → Ends r.1 s fun n => n.twin.recvSeq = h.seq ∧
      n.twin.ring = [⟨h, r.2, m.time⟩] ∧ ∃ l, n.out = m.out ++ [.twinMsg 0x0A [h.seq]] ++ l) ∧
    (∀ r ∈ rows, ready r.2 → (z r.2).twin.ring = [] → Does r.1 s ((z r.2).takeFences (h.target % 64))) ∧
    (ready (.value st.val rd.val w.toNat) → h.target < 64 → (∀ u < 8, (m.strand (8 * (h.target % 64) + u)).fenced = false) →
      (rd.val = 32 → ∀ i ∈ t.partItems, i.strand ≠ k') → Ends (.logValue h ⟨st, rd, w⟩) s fun n => got n ∧ n.seam.values = m.seam.values ++ [⟨k', rd.val, h.round, w.toNat⟩]) ∧
    (ready (.value st.val rd.val w.toNat) → h.target < 64 → (∀ u < 8, (m.strand (8 * (h.target % 64) + u)).fenced = false) → rd.val = 32 →
      t.partItems = [i] → i.strand = k' → Ends (.logValue h ⟨st, rd, w⟩) s fun n =>
        got n ∧ n.seam.values = m.seam.values ∧ n.twin.partItems = []) ∧
    (ready (.value st.val rd.val w.toNat) → h.target < 64 → rd.val < 32 → (m.strand k').mode = .wait → (m.strand k').waitFor = .ack rd.val 0 [] →
      m.inRound (h.target % 64) = false → (∀ q ∈ m.seam.values, q.strand / 8 ≠ h.target % 64) →
      h.round ≤ m.nextRound (h.target % 64) → Ends (.logValue h ⟨st, rd, w⟩) s fun n =>
        n.strand k' = { (m.strand k').wr rd.val w with mode := .ready, waitFor := .nothing }) ∧
    (ready (.event e.val tag.toNat) → h.target < 64 → 0 < tag.toNat → tag.toNat < 0x3F0 → Ends (.logEvent h e tag) s fun n => got n ∧
      ∃ l, n.seam.flight = m.seam.flight ++ [⟨tag.toNat, h.target, none, m.postDue h.target⟩] ++ l) ∧
    (ready (.mirror n1 data) → Ends (.logMirror h n1 data) s fun n => got n ∧
      (m.inAperture n1 data.length = false → n.hbmBytes n1 data.length = data)) ∧
    (ready (.epoch v rounds) → Ends (.logEpoch h v rounds) s fun n => got n ∧ n.twin.epoch = v ∧
      tableFind n.twin.epochRounds v = some rounds) ∧
    (ready (.digest id v) → t.uncompared.contains id = false → Ends (.logDigest h id v) s fun n => got n ∧
      tableGet (fun _ => 0) n.twin.peer id = v + 1) ∧
    (next → h.target < 64 → Ends (.logHorizon h v) s fun n => got n ∧
      tableGet (fun _ => 0) n.twin.horizon h.target = Nat.max (tableGet (fun _ => 0) t.horizon h.target) v) ∧
    (ready (.link 1 u.val up v) → what = 1 → Ends (.logLink h what u up v) s fun n => bitOf n.twin.leadPorts u.val = up) ∧
    (ready (.link 2 u.val up v) → what = 2 → Ends (.logLink h what u up v) s fun n => tableFind n.twin.leadFns u.val = some v) ∧
    (ready .swap → Ends (.logSwap h) s fun n => n.isOn TWIN_STAT_role = true ∧ n.twin.acked = h.seq ∧ n.twin.ring = [] ∧
      n.isOn TWIN_ESTAT_swap = true ∧ ∀ i < 32, n.isOn (NETP_SSTAT_txsup i) = false) ∧
    (takes → t.recvSeq < h.seq → 0x11 ≤ kind → kind ≤ 0xFF → Ends (.logUndefinedKind h kind) s diverged) ∧
    (m.get TWIN_STAT_phase = 6 → Ends (.takeoverReplayEnd unread) s fun n => n.isOn TWIN_STAT_sync = false ∧ n.isOn TWIN_STAT_solo = true ∧
      n.get TWIN_STAT_phase = 0 ∧ n.isOn SEAM_CTL_instep = false ∧ n.twin.ring = [] ∧ n.twin.shadow = [] ∧
        ∀ i < 32, n.isOn (NETP_SSTAT_txsup i) = false)

/-- R387, R407 to R421, R545, R546: the shelf feed. The gate runs through precharge, ramp and fully on; a fault turns it off and goes to
RETRY or FAULT by the retry count; loss and overvoltage turn it off without a fault and it recloses after them; FEED_PG, the retry, the
command codes and the hold-up test. -/
def Obligations.Feed : Prop :=
  ∀ (s : State) (vin vout : BitVec 14) (i : BitVec 16) (t : Option (BitVec 10)) (v : BitVec 10) (h : HoldTest) (peer : Int),
    let m := s.m
    let x := m.feed
    let awake := m.awake = true
    let blocked := m.feedBlocked = true
    let coded := fun (c : Nat) => Fjoek.put m FEED_CMDSTAT_code c
    let shows := fun (g : Nat) (n : Fjoek) => n.feed.gate = g ∧ n.get FEED_STAT_state = g
    let plain := x.test = none ∧ x.limited = false
    let stuck := m.get FEED_RETRY_count = 0 ∨ (m.get FEED_RETRY_count < 15 ∧ m.get FEED_RETRY_count ≤ m.get FEED_FCNT_retries)
    let faulted := fun (c : Nat) (n : Fjoek) => n.feed.gate = 0 ∧ n.get FEED_STAT_cause = c ∧ n.isOn FEED_ESTAT_fault = true ∧
      n.get FEED_FCNT_faults = Nat.min 255 (m.get FEED_FCNT_faults + 1) ∧ n.isOn FEED_STAT_pg = false ∧
      n.get FEED_STAT_state = n.feed.rest ∧ (stuck → n.feed.rest = 5) ∧
      (¬stuck → n.feed.rest = 6 ∧ n.feed.wait = 10000 * Nat.max 1 (m.get FEED_RETRY_delay))
    let on := awake ∧ x.gate ≠ 0 ∧ m.power ≠ 2
    let hot := 2 * ((clampTo 60 150 (m.get FEED_TJ_tsmax) : Nat) : Int) ≤ v.toInt
    let recloses := x.gate = 0 ∧ x.rest = 0 ∧ (x.resume = true ∨ x.held = true)
    let tested := fun (c : Nat) (n : Fjoek) => n.isOn FEED_HTSTAT_busy = false ∧ n.get FEED_HTSTAT_code = c ∧ n.feed.test = none ∧
      n.isOn FEED_ESTAT_htest = true
    let ready := m.isOn FEED_STAT_pg = true ∧ m.uvTh + 400 ≤ m.get FEED_VIN_mv10
    let apart := m.isOn TOP_STRAP_twin = true ∧ (m.isOn TWIN_STAT_link = false ∨ m.isOn TWIN_STAT_solo = true)
    let started := fun (n : Fjoek) => n.isOn FEED_HTSTAT_busy = true ∧ n.feed.full = false ∧ ∃ q, n.feed.test = some q ∧
      q.vs = m.get FEED_VOUT_mv10 ∧ q.i0 = x.hist.sum / Nat.max 1 x.hist.length ∧ q.charge = 0 ∧ q.measured = false
    let begins := fun (c : Instr) => (x.test = none → ¬ready → Ends c s (tested 1)) ∧ (x.test = none → ready → apart → Ends c s (tested 6)) ∧
      (x.test = none → ready → ¬apart → Ends c s started)
    let drop := h.vs - m.get FEED_VOUT_mv10
    let other := if m.isOn TOP_STRAP_twin then peer else 0
    let cap := Nat.min (((h.charge + other) * 10).toNat / Nat.max 1 drop) (2 ^ 24 - 1)
    let code := if drop < 50 then 4 else if x.touched = true then 3 else 0
    (awake → x.gate = 0 → x.rest = 0 → x.held = false → ¬blocked → plain → Ends .feedCmdOn s fun n => shows 1 n ∧
      n.get FEED_CMDSTAT_code = 0) ∧
    (awake → x.gate = 0 → x.rest = 0 → x.held = false → blocked → Ends .feedCmdOn s fun n => n.feed.gate = 0 ∧ n.feed.held = true ∧
      n.get FEED_CMDSTAT_code = 0) ∧
    (awake → (x.gate ≠ 0 ∨ x.rest ≠ 0 ∨ x.held = true) → Does .feedCmdOn s (coded 1)) ∧
    (awake → Ends .feedCmdOff s fun n => n.feed.gate = 0 ∧ n.feed.held = false ∧ n.feed.resume = false ∧ n.feed.test = none ∧
      n.feed.rest = (if x.rest = 5 then 5 else 0) ∧ n.isOn FEED_STAT_pg = false ∧ n.get FEED_FCNT_retries = 0 ∧
        n.get FEED_CMDSTAT_code = 0 ∧ (x.gate ≠ 0 → n.get FEED_STAT_cause = 7)) ∧
    (awake → x.gate = 0 → x.rest ≠ 0 → Ends .feedCmdClr s fun n => shows 0 n ∧ n.feed.rest = 0 ∧ n.get FEED_FCNT_retries = 0 ∧
      n.get FEED_CMDSTAT_code = 0) ∧
    (awake → (x.gate ≠ 0 ∨ x.rest = 0) → Does .feedCmdClr s (coded 1)) ∧
    (awake → x.test ≠ none → Does .feedCmdHtest s (coded 1)) ∧
    (awake → begins .feedCmdHtest) ∧
    (awake → m.get FEED_HCFG_period ≠ 0 → begins .holdupTestPeriodic) ∧
    (awake → m.get FEED_HCFG_period = 0 → Does .holdupTestPeriodic s m) ∧
    (awake → m.power ≠ 2 → (m.isOn FEED_STAT_ov = false ∨ x.gate = 0) → 6400 < vin.toNat → Ends (.feedTick vin vout i) s fun n => n.feed.gate = 0 ∧ n.isOn FEED_STAT_ov = true ∧
      n.get FEED_VIN_mv10 = vin.toNat ∧ n.get FEED_VOUT_mv10 = vout.toNat ∧ n.get FEED_I_ma10 = i.toNat) ∧
    (on → m.feedTrip ≤ i.toNat → Ends (.feedTick vin vout i) s fun n => n.feed.gate = 0 ∧ n.get FEED_STAT_cause = 2 ∧
      n.isOn FEED_ESTAT_fault = true ∧ n.get FEED_FCNT_faults = Nat.min 255 (m.get FEED_FCNT_faults + 1)) ∧
    (awake → x.gate = 1 → plain → Ends .feedPrechargeDone s (shows 2)) ∧
    (awake → x.gate = 2 → plain → Ends .feedRampDone s (shows 3)) ∧
    (awake → x.gate = 3 → x.test = none → Does .feedFullyOn s (m.setFeed { x with full := true })) ∧
    (on → x.timer ≠ none → Ends .feedFaultTimerExpiry s (faulted 1)) ∧
    (on → Ends .feedFastTrip s (faulted 2) ∧ Ends .feedModelTrip s (faulted 3)) ∧
    (on → hot → Ends (.feedDiodeRead (some v)) s (faulted 4)) ∧
    (awake → ¬hot → Does (.feedDiodeRead (some v)) s ((m.put FEED_TEMP_diode v.toNat).put FEED_STAT_tsfail 0)) ∧
    (awake → t = none → Ends (.feedDiodeRead t) s fun n => n.isOn FEED_STAT_tsfail = true ∧
      (m.isOn FEED_STAT_tsfail = false → n.isOn FEED_ESTAT_stat = true)) ∧
    (awake → m.isOn FEED_STAT_loss = false → Ends .feedLoss s fun n => n.feed.gate = 0 ∧ n.isOn FEED_STAT_loss = true ∧
      n.isOn FEED_ESTAT_loss = true ∧ n.isOn FEED_STAT_pg = false ∧ n.feed.resume = (x.resume || x.gate != 0) ∧
        (x.gate ≠ 0 → n.get FEED_STAT_cause = 5) ∧ n.get FEED_FCNT_faults = m.get FEED_FCNT_faults) ∧
    (awake → m.isOn FEED_STAT_ov = false → Ends .feedOvervoltage s fun n => n.feed.gate = 0 ∧ n.isOn FEED_STAT_ov = true ∧
      n.isOn FEED_ESTAT_stat = true ∧ n.feed.resume = (x.resume || x.gate != 0) ∧ (x.gate ≠ 0 → n.get FEED_STAT_cause = 6)) ∧
    (awake → m.isOn FEED_STAT_loss = true → m.isOn FEED_STAT_ov = false → recloses → Ends .feedLossEnd s fun n =>
      n.isOn FEED_STAT_loss = false ∧ n.feed.gate = 1 ∧ n.feed.held = false ∧ n.feed.resume = false) ∧
    (awake → m.isOn FEED_STAT_ov = true → m.isOn FEED_STAT_loss = false → recloses → Ends .feedOvervoltageEnd s fun n =>
      n.isOn FEED_STAT_ov = false ∧ n.feed.gate = 1 ∧ n.feed.held = false ∧ n.feed.resume = false) ∧
    (awake → x.full = true → x.limited = false → Ends .feedPgAssert s fun n => n.isOn FEED_STAT_pg = true ∧
      (m.isOn FEED_STAT_pg = false → n.isOn FEED_ESTAT_stat = true ∧
        (m.power = 2 → m.get HEARTH_RAILSTAT_en = 0 → n.get HEARTH_RAILSTAT_en = 1))) ∧
    (awake → x.gate = 0 → x.rest = 6 → ¬blocked → m.feedTj ≤ m.tjMax - 20000000000 → Ends .feedRetry s fun n => n.feed.gate = 1 ∧
      n.get FEED_FCNT_retries = Nat.min 255 (m.get FEED_FCNT_retries + 1)) ∧
    (awake → x.full = true → m.isOn FEED_STAT_pg = true → Does .feedRetryCountReset s (m.put FEED_FCNT_retries 0)) ∧
    (awake → x.test = some h → h.measured = false → Ends (.holdupTestMeasure peer) s fun n =>
      n.feed.test = some { h with measured := true, code := code } ∧ n.feed.full = true ∧
        (code = 0 → n.get FEED_HOLDC_uf = cap ∧ n.get FEED_HOLDC_src = 2) ∧ (code ≠ 0 → n.reg FEED_HOLDC = m.reg FEED_HOLDC))

/-- R425 to R443, R211: a bay's power channel. It turns on by the steps of its sequence, qualifies and shows power-good; a fault turns it
off and goes to RETRY or FAULT; presence, the retry, measurement and calibration have their effects, and the fall of power-good ends the
service of the bay's drive port. -/
def Obligations.Bays : Prop :=
  ∀ (s : State) (bay : Fin 24) (q : BayInput) (now steady : Bool),
    let m := s.m
    let b := bay.val
    let x := m.channel b
    let st := m.bayState b
    let awake := m.awake = true
    let code := fun (n : Fjoek) => n.get (BAY_CMDSTAT_code b)
    let starts := fun (n : Fjoek) => n.bayState b = 1 ∧ n.isOn (BAY_STAT_auxon b) = true ∧ (n.channel b).gate = 1
    let off := fun (k : Nat) (n : Fjoek) => n.bayState b = k ∧ (n.channel b).gate = 0 ∧ n.isOn (BAY_STAT_fullon b) = false ∧
      n.isOn (BAY_STAT_auxon b) = false ∧ n.isOn (BAY_STAT_pg b) = false
    let on := awake ∧ 1 ≤ st ∧ st ≤ 3
    let stuck := m.get (BAY_TMR_count b) = 0 ∨ (m.get (BAY_TMR_count b) < 15 ∧ m.get (BAY_TMR_count b) ≤ m.get (BAY_FCNT_used b))
    let faulted := fun (c : Nat) (n : Fjoek) => (stuck → off 5 n) ∧ (¬stuck → off 4 n) ∧ n.get (BAY_STAT_cause b) = c ∧
      n.get (BAY_FCNT_faults b) = Nat.min 255 (m.get (BAY_FCNT_faults b) + 1) ∧ n.isOn (BAY_ESTAT_fault b) = true ∧
        (n.channel b).wait = 10000 * clampTo 1 1020 (m.get (BAY_TMR_retry b))
    let present := m.isOn (BAY_STAT_present b)
    let appears := awake ∧ present = false ∧ now = true
    let leaves := awake ∧ present = true ∧ now = false
    let shown := fun (n : Fjoek) => n.isOn (BAY_STAT_present b) = now ∧ bitOf (n.reg BAY_PRES) b = now ∧ n.isOn (BAY_ESTAT_presence b) = true
    let plugs := m.isOn BAY_CTL_hpen = true ∧ m.isOn (BAY_LIM_hotplug b) = true ∧ st = 0
    let freed := fun (n : Fjoek) => if m.power = 4 ∧ m.trailing = false then n.releasePort b else n
    let cur := m.get (BAY_I_ma b)
    let r25 := m.get BAY_RCAL_r25
    let tc := m.get BAY_RCAL_tc
    let rds : Int := ((m.get BAY_V12_mv10 : Int) - m.get (BAY_VOUT_mv10 b)) * 10000000 / cur
    let dev : Int := 25000000000 + (rds - r25) * 100000000000000 / ((r25 * tc : Nat) : Int) - m.bayTj b
    let reads := awake ∧ st = 3 ∧ steady = true ∧ 1000 ≤ cur ∧ r25 ≠ 0
    (awake → st = 0 → 1080 ≤ m.get BAY_V12_mv10 → Ends (.bayCmdOn bay) s fun n => starts n ∧ code n = 0) ∧
    (awake → st = 0 → m.get BAY_V12_mv10 < 1080 → Does (.bayCmdOn bay) s (freed (m.put (BAY_CMDSTAT_code b) 2))) ∧
    (awake → st ≠ 0 → Does (.bayCmdOn bay) s (freed (m.put (BAY_CMDSTAT_code b) 1))) ∧
    (awake → Ends (.bayCmdOff bay) s (fun n => off 0 n ∧ n.get (BAY_FCNT_used b) = 0 ∧ code n = 0 ∧ (on → n.get (BAY_STAT_cause b) = 6)) ∧
      Ends (.bayCmdClr bay) s fun n => off 0 n ∧ n.get (BAY_FCNT_used b) = 0 ∧ code n = 0) ∧
    (on → 2 ≤ x.gate → m.bayTrip b ≤ q.i.toNat → q.present = present → Ends (.bayTick bay q) s fun n => (stuck → off 5 n) ∧
      (¬stuck → off 4 n) ∧ n.get (BAY_STAT_cause b) = 2) ∧
    (awake → x.gate = 1 → Ends (.bayRampStart bay) s fun n => (n.channel b).gate = 2) ∧
    (awake → x.gate = 2 → Does (.bayFullEnhancement bay) s (m.setChannel b { x with gate := 3, driven := 0 })) ∧
    (awake → x.gate = 3 → m.isOn (BAY_STAT_fullon b) = false → Ends (.bayFullyOn bay) s fun n => n.isOn (BAY_STAT_fullon b) = true ∧
      n.bayState b = 2) ∧
    (awake → st = 2 → m.isOn (BAY_STAT_limit b) = false → m.isOn (BAY_STAT_pg b) = false → Ends (.bayPowerGood bay) s fun n =>
      n.bayState b = 3 ∧ n.isOn (BAY_STAT_pg b) = true ∧ bitOf (n.reg BAY_PGS) b = true ∧ n.isOn (BAY_ESTAT_pgchg b) = true) ∧
    (on → x.timer ≠ none → Ends (.bayFaultTimerExpiry bay) s (faulted 1)) ∧
    (on → Ends (.bayFastTrip bay) s (faulted 2) ∧ Ends (.bayModelTrip bay) s (faulted 3) ∧ Ends (.bayAuxFault bay) s (faulted 4)) ∧
    (awake → present = now → Does (.bayPresenceDebounced bay now) s m) ∧
    (appears → plugs → 1080 ≤ m.get BAY_V12_mv10 → Ends (.bayPresenceDebounced bay now) s fun n => shown n ∧ starts n) ∧
    (appears → ¬plugs → Ends (.bayPresenceDebounced bay now) s fun n => shown n ∧ n.bayState b = st) ∧
    (leaves → 1 ≤ st → st ≤ 3 → Ends (.bayPresenceDebounced bay now) s fun n => shown n ∧ off 0 n ∧ n.get (BAY_STAT_cause b) = 5 ∧
      n.get (BAY_FCNT_used b) = 0) ∧
    (leaves → st = 5 → Ends (.bayPresenceDebounced bay now) s fun n => shown n ∧ n.bayState b = 0 ∧ n.get (BAY_FCNT_used b) = 0) ∧
    (leaves → st = 4 → Ends (.bayPresenceDebounced bay now) s fun n => shown n ∧ n.bayState b = 4 ∧ (n.channel b).fresh = true) ∧
    (awake → st = 4 → present = false → Does (.bayRetryTimerExpiry bay) s (m.put (BAY_STAT_state b) 0)) ∧
    (awake → st = 4 → present = true → m.bayTj b ≤ m.bayTjMax - 20000000000 → Ends (.bayRetryTimerExpiry bay) s fun n => starts n ∧
      n.get (BAY_FCNT_used b) = if x.fresh = true then m.get (BAY_FCNT_used b) else Nat.min 255 (m.get (BAY_FCNT_used b) + 1)) ∧
    (awake → st = 4 → present = true → m.bayTjMax - 20000000000 < m.bayTj b → Does (.bayRetryTimerExpiry bay) s m) ∧
    (awake → st = 3 → Does (.bayRetryCountReset bay) s (m.put (BAY_FCNT_used b) 0)) ∧
    (awake → Ends (.bayMeasure bay q) s fun n => n.get BAY_V12_mv10 = q.v12.toNat ∧ n.get (BAY_I_ma b) = q.i.toNat ∧
      n.get (BAY_VOUT_mv10 b) = q.vs.toNat ∧ n.get (BAY_AUX_ma b) = q.auxI.toNat ∧ n.get (BAY_AUX_mv10 b) = q.auxV.toNat ∧
      n.get (BAY_PWR_mw b) = Nat.min (2 ^ 17 - 1) ((q.vs.toNat * q.i.toNat + q.auxV.toNat * q.auxI.toNat) / 100)) ∧
    (reads → tc ≠ 0 → Ends (.bayCalibration bay steady) s fun n => n.getS (BAY_TJ_dev b) = clampInt (-512) 511 (dev / 500000000) ∧
      (n.channel b).cofs = (if m.isOn BAY_RCAL_adapt then clampInt 0 50000000000 dev else 0) ∧
      ∀ k < 24, Nat.min 1023 (5 * (n.getS (BAY_TJ_dev k)).natAbs) ≤ n.get BAY_CALW_dev) ∧
    (reads → tc = 0 → Ends (.bayCalibration bay steady) s fun n => n.free = m.free + 1) ∧
    (awake → steady = false → Does (.bayCalibration bay steady) s m)

/-- R380, R391, R445 to R460, R548: the Damper and the self-tests. A period computes what is available and what is granted, shares it and
serves the queued draws; the policy, its watchdog, the clamp and the Seam clock; sensors and calibration; self-tests that are asked for,
start and end; and the checks that run on their own. -/
def Obligations.Damper : Prop :=
  ∀ (s : State) (tokens : BitVec 20) (reads : List (BitVec 11)) (stuck : BitVec 16) (rails : List (BitVec 20)) (req : BitVec 2)
    (fits : List Nat) (e : Fin 64) (g : Fin 16) (r : BitVec 16) (t : SelfTest) (l : List SelfTest) (result : Byte) (image ce ceBuf ceFwd : Nat)
    (bad badL badProg badFwd badBuf : List Nat) (fails : BitVec 64),
    let m := s.m
    let d := m.damp
    let mgmt := m.runs 2 = true
    let own := mgmt ∧ m.trailing = false
    let classes := [0, 1, 3, 4, 5]
    let silent := if d.wrote then 0 else d.silent + 1
    let stall := m.isOn DAMP_STAT_stall = true ∨ Nat.max 1 (m.get DAMP_CFG_wdg) ≤ silent
    let used := m.usedEnergy
    let base := nextBase d.base ((used : Int) - d.spent).toNat
    let grant := Nat.min (if stall then m.get DAMP_SAFE_tokens else m.get DAMP_GRANT_tokens) (m.feedEnergy - base)
    let computed := fun (n : Fjoek) => n.get DAMP_G_uj = grant ∧ n.get DAMP_AVAIL_uj = Nat.min (2 ^ 24 - 1) m.feedEnergy ∧
      n.get DAMP_BASE_uj = Nat.min (2 ^ 24 - 1) base ∧ n.damp.base = base ∧ n.damp.meas = used ∧ (n.isOn DAMP_STAT_stall = true ↔ stall)
    let empty := ∀ c, m.draws c = []
    let fits_ := ∀ q ∈ m.shares grant, m.level q.1 + q.2 ≤ m.depth q.1 ∧ -1048575 ≤ m.level q.1
    let target := m.dvfsTarget
    let busy := m.isOn DAMP_STAT_busy
    let serves := own ∧ m.power = 4
    let hot := fun (n : Fjoek) => ∃ i < 16, 480 ≤ n.getS (SENSE_TDIE_t i)
    let live := fun (n : Fjoek) => (List.range 16).filter fun i => !n.isOn (SENSE_TDIE_failed i)
    let asks := fun (c : Instr) (k tg : Nat) => (own → d.tests.length < 8 → (k = 2 → m.ownImage tg = true) → tg < testTargets k →
        Ends c s fun n => n.damp.tests = d.tests ++ [⟨k, tg⟩] ∧ n.get DAMP_STSTAT_code = 0 ∧ n.get DAMP_STSTAT_state = 1 ∧
          n.isOn DAMP_ESTAT_selftest = true) ∧
      (own → tg < testTargets k → 8 ≤ d.tests.length → Does c s (m.put DAMP_STSTAT_code 2))
    let drained := fun (j : Nat) => (List.range 8).any (fun t => m.drained (8 * j + t)) = true
    (mgmt → m.trailing = true → Does .damperPeriod s m) ∧
    (own → m.isOn DAMP_CTL_en = true → empty → d.debt = 0 → m.isOn DAMP_STAT_clamp = false → fits_ → Ends .damperPeriod s fun n =>
      computed n ∧ n.damp.spent = 0 ∧ n.isOn DAMP_STAT_short = false ∧ (∀ q ∈ m.shares grant, n.level q.1 = m.level q.1 + q.2) ∧
        n.reg64 DAMP_GRANTED_LO = (m.reg64 DAMP_GRANTED_LO + grant) % 2 ^ 64) ∧
    (own → m.isOn DAMP_CTL_en = false → Ends .damperPeriod s fun n => computed n ∧ n.damp.debt = 0 ∧
      ∀ c ∈ classes, n.draws c = [] ∧ n.level c = m.depth c) ∧
    (own → m.isOn DAMP_STAT_stall = false → Ends .policyStall s fun n => n.isOn DAMP_STAT_stall = true ∧ n.isOn DAMP_ESTAT_stall = true) ∧
    (mgmt → Ends (.grantWrite tokens) s fun n => n.get DAMP_GRANT_tokens = tokens.toNat ∧ n.isOn DAMP_STAT_stall = false ∧
      n.damp.silent = 0 ∧ n.damp.wrote = true) ∧
    (mgmt → Ends (.senseRefresh reads stuck rails) s fun n => (∀ i v, reads[i]? = some v → i < 16 → n.get (SENSE_TDIE_t i) = v.toNat) ∧
      (∀ i v, rails[i]? = some v → i < 8 → n.get (SENSE_PRAIL_mw i) = v.toNat) ∧
      (n.isOn SENSE_TMAX_forced = true ↔ (live n).length < 12) ∧
      (12 ≤ (live n).length → ∀ i ∈ live n, n.getS (SENSE_TDIE_t i) ≤ n.getS SENSE_TMAX_t) ∧
      (n.clampAt ≤ n.getS SENSE_TMAX_t → n.isOn DAMP_STAT_clamp = true) ∧ (hot n → ¬hot m → n.isOn HEARTH_ESTAT_twarn = true)) ∧
    (mgmt → m.isOn DAMP_STAT_clamp = true → m.getS SENSE_TMAX_t < m.clampAt - 12 → Ends .thermalClampRelease s fun n =>
      n.isOn DAMP_STAT_clamp = false) ∧
    (mgmt → Ends (.dvfsRequest req) s fun n => n.get DAMP_DVFS_req = req.toNat ∧ n.get DAMP_DVFS_cur = m.get DAMP_DVFS_cur ∧
      (busy = false → n.dvfsTarget ≠ m.get DAMP_DVFS_cur → n.isOn DAMP_STAT_busy = true ∧ n.damp.dvfsNext = n.dvfsTarget)) ∧
    (mgmt → busy = true → d.dvfsNext < 3 → Ends .dvfsStepDone s fun n => n.get DAMP_DVFS_cur = d.dvfsNext ∧ n.isOn DAMP_ESTAT_step = true ∧
      (n.isOn DAMP_STAT_busy = true ↔ target ≠ d.dvfsNext)) ∧
    (serves → Ends .policyTick s fun n => n.get DAMP_GRANT_tokens = policyGrant (m.getS SENSE_TMAX_t) ∧ n.isOn DAMP_STAT_stall = false ∧
      (420 ≤ m.getS SENSE_TMAX_t → m.isOn FEED_HTSTAT_busy = false →
        n.get DAMP_LVL_level = Nat.min 5 (m.get DAMP_LVL_level + 1))) ∧
    (serves → m.get DAMP_LVL_level = 0 → Ends (.costCalibration fits) s fun n => n.isOn DAMP_ESTAT_cal = true ∧
      ∀ i v, fits[i]? = some v → i < 14 → n.get (MNGL_COST_per4k i) = calMove (m.get (MNGL_COST_per4k i)) v % 2 ^ 16) ∧
    asks (.selfTestStrandKnownAnswer e) 1 e.val ∧ asks (.selfTestMemoryMarch g) 2 g.val ∧ asks (.selfTestMangleKnownAnswer g) 3 g.val ∧
    asks (.selfTestCellMarch g) 4 g.val ∧ asks (.selfTestHbmPatrol r) 5 r.toNat ∧
    (own → 32 ≤ r.toNat → Does (.selfTestHbmPatrol r) s (m.put DAMP_STSTAT_code 1)) ∧
    (mgmt → d.tests = t :: l → d.running = none → 0 < testCost t.kind → t.kind ≠ 2 → m.draws 4 = [] →
      m.canTake 4 (testCost t.kind) = true → Ends .selfTestStart s fun n => n.damp.tests = l ∧ n.damp.running = some t ∧
        n.get DAMP_STSTAT_state = 2) ∧
    (mgmt → d.running = some t → Ends (.selfTestDone result image) s fun n => n.damp.running = none ∧
      n.get DAMP_STSTAT_result = result.toNat ∧ n.get DAMP_STSTAT_state = 3 ∧ n.isOn DAMP_ESTAT_selftest = true) ∧
    (m.isOn HBMC_CTL_patrol = true → m.runs 10 = true → Ends (.hbmPatrol ce bad) s fun n =>
      n.get HBMC_CE_count = Nat.min (2 ^ 32 - 1) (m.get HBMC_CE_count + ce) ∧
      n.get HBMC_PATERR_count = Nat.min (2 ^ 32 - 1) (m.get HBMC_PATERR_count + (ce + bad.length)) ∧
      ∀ u ∈ bad, marked n.hbmPoison u = true) ∧
    Ends (.sramScrub ⟨ce, ceBuf, ceFwd⟩ badL badProg badFwd badBuf) s (fun n => n.twin.scrubCe = m.twin.scrubCe + ce + ceBuf + ceFwd ∧
      n.get MNGL_CE_BUF_count = Nat.min (2 ^ 32 - 1) (m.get MNGL_CE_BUF_count + ceBuf) ∧
      n.reg64 FWD_CE_LO = (m.reg64 FWD_CE_LO + ceFwd) % 2 ^ 64 ∧
      n.twin.scrubUe = m.twin.scrubUe + badL.length + badProg.length + badFwd.length + badBuf.length ∧
      (∀ u ∈ badL, tableGet (fun _ => false) n.seam.lue u = true) ∧ (∀ u ∈ badProg, tableGet (fun _ => false) n.seam.progue u = true) ∧
      (∀ u ∈ badFwd, tableGet (fun _ => false) n.fwd.ue u = true) ∧ ∀ u ∈ badBuf, marked n.mngl.poison u = true) ∧
    (m.power = 4 → m.runs 3 = true → Ends (.strandCrossCheck fails) s fun n => ∀ j < 64,
      (drained j → bitOf n.twin.xcheckMask j = fails.getLsbD j) ∧ (¬drained j → bitOf n.twin.xcheckMask j = bitOf m.twin.xcheckMask j))

/-- R361, R465 to R472, R475, R476, R485, R488, R491, R492, R495, R497: management. The mailbox rings and the answers of the program
library's server, software records of the event log, raised events, samples and epochs of the counters, the management protocols, the
firmware update, fans and LEDs. -/
def Obligations.Management : Prop :=
  ∀ (s : State) (pi : BitVec 9) (bytes : List Byte) (nsid p slot v : Nat) (x : Pool) (r : NsRec) (key : Word32) (q20 : BitVec 20)
    (pool : Fin 4) (mem : Fin 24) (sl : BitVec 10) (on vdm whole : Bool) (e : Fin 512) (eng : Fin 64) (tag : Nat) (type : BitVec 7)
    (used : Byte) (comp : BitVec 16) (u : Update) (f : Fin 6) (rpm : BitVec 16) (w : Word32) (nr : NsReq) (kr : KeyReq) (pr : PoolReq)
    (sr : SlateReq),
    let m := s.m
    let mgmt := m.runs 2 = true
    let fw := m.firmware = true
    let ci := m.get MGMT_MBTXCI_idx
    let ri := m.get MGMT_MBRXPI_idx
    let a := requestRing + 64 * (ci % 256)
    let b := replyRing + 64 * (ri % 256)
    let free := m.hbmFree requestRing 0x8000 = true
    let served := fun (o : Nat) => mgmt ∧ m.runs 3 = true ∧ m.trailing = false ∧ ci ≠ m.get MGMT_MBTXPI_idx ∧ free ∧
      ringLen ri (m.get MGMT_MBRXCI_idx) < 256 ∧ m.hbmNat a 2 = o
    let replied := fun (st : Nat) (n : Fjoek) => n.get MGMT_MBTXCI_idx = (ci + 1) % 512 ∧ n.get MGMT_MBRXPI_idx = (ri + 1) % 512 ∧
      n.isOn MGMT_ESTAT_reply = true ∧ n.hbmNat b 2 = n.hbmNat a 2 ∧ n.hbmNat (b + 4) 4 = n.hbmNat (a + 4) 4 ∧ n.hbmNat (b + 8) 4 = st
    let refused := fun (n : Fjoek) => n.free = m.free + 1 ∧ ∃ k, 0x100 ≤ k ∧ k < 0x900 ∧ replied k n
    let param := fun (n : Fjoek) => n.hbmNat (b + 16) 4
    let known := m.nsFind nsid = some (p, slot, r) ∧ m.pool? p = some x
    let pi0 := m.get MGMT_MBTXPI_idx
    let seq := m.reg64 MGMT_LOGSEQ_LO + 1
    let rec_ := 0x5000000 + 64 * (seq % 32768)
    let rest := m.mgmt.partials.filter (· != tag)
    let answer := fun (l : List Nat) (n : Fjoek) => ∃ k k', n.out = m.out ++ k ++ [.mgmt 1 l] ++ k'
    let base := slotBase m.otherSlot
    let si := m.get (PMON_SPI_pi eng.val)
    let sa := m.get PMON_SBASE_base * 2 ^ 20 + 0x4000 * eng.val + 32 * (si % 512)
    let bounds := fun (n : Fjoek) => n.reg64 PMON_EPSEQ_LO = (m.reg64 PMON_EPSEQ_LO + 1) % 2 ^ 64 ∧ n.isOn PMON_STAT_epoch = true ∧
      n.get PMON_EPSTOP_dom = epochStops m ∧ (epochStops m ≠ 0 → n.isOn PMON_STAT_epstop = true) ∧
      ∀ c k, epochDomain c = some k → (m.runs k = true → tableWf regDflt m.regs = true → ∀ y, tableFind m.regs c = some y →
          tableGet (fun _ => 0) n.snap c = y) ∧
        (m.runs k = true → noting c = false → n.reg c = (regDflt c).toNat) ∧
        (m.runs k = false → tableGet (fun _ => 0) n.snap c = 0 ∧ (noting c = false → n.reg c = m.reg c))
    (mgmt → free → bytes.length ≤ 0x4000 → ringLen pi.toNat ci ≤ 256 → Ends (.mailboxRequestPost pi bytes) s fun n =>
      n.get MGMT_MBTXPI_idx = pi.toNat ∧ ∀ j y, bytes[j]? = some y → n.hbmByte (requestRing + (64 * pi0 + j) % 0x4000) = y) ∧
    (mgmt → 256 < ringLen pi.toNat ci → Ends (.mailboxRequestPost pi bytes) s fun n => n.get MGMT_MBTXPI_idx = pi0 ∧
      n.isOn MGMT_ESTAT_mbrej = true) ∧
    (mgmt → m.trailing = false → ringLen pi.toNat (m.get MGMT_MBRXCI_idx) ≤ 256 → Ends (.mailboxReplyPost pi) s fun n =>
      n.get MGMT_MBRXPI_idx = pi.toNat ∧ (ringLen ri (m.get MGMT_MBRXCI_idx) < ringLen pi.toNat (m.get MGMT_MBRXCI_idx) →
        n.isOn MGMT_ESTAT_reply = true)) ∧
    (∀ o, served o → (o = 0 ∨ 7 < o) → ∀ c ∈ [Instr.mailboxQuiesce, .mailboxResume, .mailboxNamespace nr, .mailboxKey kr, .mailboxPool pr,
      .mailboxStatus, .mailboxSlate sr], Ends c s (replied 1)) ∧
    (served 1 → m.dirtyBytes = 0 → Ends .mailboxQuiesce s fun n => replied 0 n ∧ n.lib.quiesce = true) ∧
    (served 1 → m.dirtyBytes ≠ 0 → Ends .mailboxQuiesce s fun n => n.lib.quiesce = true ∧ n.get MGMT_MBTXCI_idx = ci) ∧
    (served 2 → Ends .mailboxResume s fun n => replied 0 n ∧ n.lib.quiesce = false) ∧
    (served 3 → m.nsFind nsid = none → Ends (.mailboxNamespace (.delete nsid)) s (replied (0x100 + stNoNamespace))) ∧
    (served 3 → known → Ends (.mailboxNamespace (.delete nsid)) s fun n => replied 0 n ∧
      ∃ y, n.pool? p = some y ∧ tableFind y.ns slot = none ∧ ∀ c ∈ y.map, c.2 ≠ slot) ∧
    (served 3 → m.pool? pool.val = none → Ends (.mailboxNamespace (.create pool v on on 0 0 0)) s refused) ∧
    (served 4 → m.runs 4 = true → m.isOn THIM_KSTAT_busy = false → Ends (.mailboxKey (.release q20)) s fun n => replied 0 n ∧
      param n = n.get THIM_KSTAT_code ∧ n.get THIM_KSTAT_code = if m.keyState q20.toNat = 1 then 0 else 1) ∧
    (served 4 → m.runs 4 = true → m.isOn THIM_KSTAT_busy = false → key.toNat / 2 ^ 24 = 0 → Ends (.mailboxKey (.revoke key)) s fun n =>
      replied 0 n ∧ param n = 1 ∧ n.get THIM_KSTAT_code = 1) ∧
    (served 4 → m.runs 4 = false → Ends (.mailboxKey kr) s fun n => n.get MGMT_MBTXCI_idx = ci ∧ n.isOn CLK_ESTAT_hang = true) ∧
    (served 5 → m.pool? pool.val = none → Ends (.mailboxPool (.fail pool mem)) s refused) ∧
    (served 5 → m.pool? pool.val = some x → x.online = true → mem.val < x.members.length → (x.mem mem.val).state ≤ 1 →
      Ends (.mailboxPool (.fail pool mem)) s (replied 0)) ∧
    (served 5 → m.pool? pool.val = some x → (x.online = false ∨ x.members.length ≤ mem.val ∨ 2 ≤ (x.mem mem.val).state) →
      Ends (.mailboxPool (.fail pool mem)) s refused) ∧
    (served 6 → Ends .mailboxStatus s fun n => replied 0 n ∧
      ∀ j < 4, n.hbmNat (b + 16 + 4 * j) 4 = m.poolStatus j % 2 ^ 32 ∧ n.hbmNat (b + 32 + 4 * j) 4 = m.reg (DARN_PROG j)) ∧
    (served 7 → m.slateRecState sl.toNat ≠ 0 → Ends (.mailboxSlate (.mirror sl on)) s fun n => replied 0 n ∧
      n.slateFlags sl.toNat = bnat on) ∧
    (served 7 → m.slateRecState sl.toNat = 0 → Ends (.mailboxSlate (.mirror sl on)) s refused) ∧
    (mgmt → m.reg PMON_GCTL = 0 → m.mgmt.logRoom = none → Ends .softwareLogRecord s fun n => n.reg64 MGMT_LOGSEQ_LO = seq % 2 ^ 64 ∧
      n.mramNat rec_ 8 = seq % 2 ^ 64 ∧ n.mramNat (rec_ + 16) 2 = 0xFFFF ∧
        ∀ j < 9, n.mramNat (rec_ + 24 + 4 * j) 4 = m.reg (MGMT_LOGDATA j)) ∧
    (mgmt → raisable e.val = true → Ends (.eventRaise e) s fun n => bitOf (n.reg (EVT_PEND (e.val / 32))) (e.val % 32) = true) ∧
    (mgmt → raisable e.val = false → Does (.eventRaise e) s (m.bump EVT_SWREJ_count 1)) ∧
    (mgmt → ¬fw → Does (.mctpMessage true whole tag type) s (m.bump MGMT_VDMDROP_count 1) ∧ Does (.mctpMessage false whole tag type) s m) ∧
    (fw → Does (.mctpMessage vdm false tag type) s (m.setMgmt { m.mgmt with partials := rest ++ [tag] })) ∧
    (fw → (type = 0 ∨ type = 1 ∨ type = 4) → Does (.mctpMessage vdm true tag type) s
      ((m.setMgmt { m.mgmt with partials := rest }).send (.mgmt type.toNat [bnat vdm, tag]))) ∧
    (mgmt → Does (.mctpReassemblyTimeout tag) s (m.setMgmt { m.mgmt with partials := rest })) ∧
    (fw → Ends (.healthStatusPoll used) s fun n => ∃ h c t l, n.out = m.out ++
      [.mgmt 4 [unsigned 16 m.compositeTemp, h, c, used.toNat, t]] ++ l ∧ (h = 1 ↔ m.isOn DAMP_STAT_clamp = true ∨ m.driveWarm = true)) ∧
    (fw → m.mgmt.upd ≠ none → Ends (.requestUpdate comp nsid) s (answer [1, 0x81])) ∧
    (fw → m.mgmt.upd = none → comp = 1 → Ends (.requestUpdate comp nsid) s fun n => answer [1, 0] n ∧
      n.mgmt.upd = some ⟨1, base, 0, false, false⟩ ∧ ∀ j < 0x4000000, tableGet (fun _ => 0xFF) n.hearth.spi (base + j) = 0xFF) ∧
    (fw → m.mgmt.upd = none → comp = 2 → Ends (.requestUpdate comp nsid) s fun n => answer [1, 0] n ∧
      n.mgmt.upd = some ⟨2, nsid / 4096 * 4096, 0, false, false⟩) ∧
    (fw → m.mgmt.upd = some u → u.component = 1 → u.got + bytes.length ≤ 0x4000000 → Ends (.requestFirmwareData bytes) s fun n =>
      n.mgmt.upd = some { u with got := u.got + bytes.length } ∧
        ∀ j y, bytes[j]? = some y → tableGet (fun _ => 0xFF) n.hearth.spi (u.base + u.got + j) = y) ∧
    (fw → m.mgmt.upd = some u → u.component = 2 → u.base + u.got + bytes.length ≤ 2 ^ 35 →
      m.hbmFree (u.base + u.got) bytes.length = true → Ends (.requestFirmwareData bytes) s fun n =>
        n.hbmBytes (u.base + u.got) bytes.length = bytes) ∧
    (fw → m.mgmt.upd = some u → u.component = 1 → Ends .verifyComplete s fun n => n.mgmt.upd = some { u with verified := m.slotPasses u.base } ∧
      answer [3, bnat (!m.slotPasses u.base)] n) ∧
    (fw → m.mgmt.upd = some u → u.verified = true → Ends .applyComplete s fun n => n.mgmt.upd = some { u with applied := true } ∧
      answer [4, 0] n ∧ (u.component = 1 → n.bootRead = some (if u.base = 0 then 0 else 1, 1, 0))) ∧
    (fw → m.mgmt.upd = some u → u.applied = true → u.component = 1 → 2 ≤ m.power → m.power ≤ 4 → Ends .activateFirmware s fun n =>
      n.mgmt.upd = none ∧ n.mgmt.partials = [] ∧ n.hearth.kickAt = none) ∧
    (fw → m.mgmt.upd = some u → u.applied = true → u.component = 2 → m.runs 3 = true → m.nextReload = none →
      Ends .activateFirmware s fun n => n.mgmt.upd = none ∧ answer [5, 0] n) ∧
    (fw → m.hearth.burn = [] → m.bootRead = some (p, 1, v) → ∃ t, exec .trialConfirm s = .next t ∧ t.pending = s.pending ∧
      t.m.bootRead = some (p, 0, 0) ∧ t.fuses.words = s.fuses.words ∧ (let roll := nth (m.spiBytes (slotBase p) 512) 0xC 0
        t.fuses.arb = if roll ≤ s.fuses.arb then s.fuses.arb else Nat.min 64 roll)) ∧
    (mgmt → Ends .fanFailsafe s fun n => n.mgmt.fans = false ∧ n.isOn MGMT_ESTAT_failsafe = true) ∧
    (mgmt → Ends (.fanFault f rpm) s fun n => n.get (MGMT_TACH_rpm f.val) = rpm.toNat ∧
      (rpm.toNat < m.get MGMT_FANCFG_minrpm → n.isOn MGMT_ESTAT_fan = true)) ∧
    (mgmt → Ends .ledShift s fun n => n.mgmt.leds.length = Nat.min 64 (m.get MGMT_LEDCFG_n) ∧ ∀ j < Nat.min 64 (m.get MGMT_LEDCFG_n),
      n.mgmt.leds.reverse[j]? = some (if 5 ≤ m.get (MGMT_LED_led (j / 8) (j % 8)) then 0 else m.get (MGMT_LED_led (j / 8) (j % 8)))) ∧
    (mgmt → Ends (.sampleNoIssueTimeout eng) s fun n => tableGet (fun _ => []) n.pmon.pend eng.val = []) ∧
    (mgmt → tableGet (fun _ => []) m.pmon.pend eng.val = [v] → v < 256 → m.isOn PMON_CTL_freeze = false →
      (si + 1024 - m.get (PMON_SCI_ci eng.val)) % 1024 < 512 → sa + 32 ≤ 2 ^ 35 → m.hbmFree sa 32 = true →
      Ends (.sampleNoIssueTimeout eng) s fun n => n.get (PMON_SPI_pi eng.val) = (si + 1) % 1024 ∧ n.hbmNat sa 8 = m.time % 2 ^ 64 ∧
        n.hbmNat (sa + 8) 2 = 0 ∧ n.hbmNat (sa + 10) 1 = 128 ∧ n.hbmNat (sa + 11) 1 = v) ∧
    (m.runs 3 = true → Ends (.engineCounterSnapshot eng) s fun n => ∀ j < 18,
      tableGet (fun _ => 0) n.snap (PMON_ECYC_LO eng.val + 4 * j) = BitVec.ofNat 32 (m.reg (PMON_ECYC_LO eng.val + 4 * j))) ∧
    (mgmt → Ends .epochBoundary s bounds ∧ Ends (.epochLengthWrite w) s fun n => bounds n ∧ n.get PMON_EPOCH_ms = w.toNat % 2 ^ 16)

/-! ## The block as a whole -/

/-- A step runs the command at the front of the queue with the queue's rest. On an empty queue time passes (R386; that it does so there is
the model's choice, assumption 1): the time base runs on by its next step, but where the alarm's second is reached. While only the slow
clock runs, any 64 steps are 37 of 30,518 ns and 27 of 30,517 ns. -/
def Obligations.StepRunsCommands : Prop :=
  (∀ (s : State) (c : Instr) (rest : List Instr), s.pending = c :: rest → step s = exec c { s with pending := rest }) ∧
  (∀ s : State, s.pending = [] → s.m.hearth.off = false → s.m.hearth.counting = true →
    let a := 1000000000 * s.m.get HEARTH_ALARM_s
    ¬(s.m.time < a ∧ a ≤ s.m.time + s.m.timeStep) →
    ∃ t, step s = .next t ∧ t.pending = [] ∧ t.m.time = (s.m.time + s.m.timeStep) % 2 ^ 64 ∧
      (s.m.hearth.slowAcc < 64 → t.m.hearth.slowAcc < 64 ∧ s.m.timeStep ∈ [1, 125, 30517, 30518])) ∧
  ∀ a : Nat, a < 64 → (List.range 64).foldl (fun (p : Nat × Nat) _ => (p.1 + (slowStep p.2).1, (slowStep p.2).2)) (0, a) =
    (37 * 30518 + 27 * 30517, a)

/-- Every step of the block goes on, takes the command at the front, and keeps the form: nothing is left of the command's own
bookkeeping, no programmed fuse is lost (R400, R402), the row of fuses keeps its bound and the ledger its canonical form. -/
def Obligations.StepsKeepTheForm : Prop :=
  ∀ s : State, ∃ t, step s = .next t ∧ t.pending = s.pending.tail ∧ t.settled ∧ (s.fusesWf → t.fusesWf) ∧
    (s.rowBounded → t.rowBounded ∧ s.fuses.kept t.fuses)

/-- The state after reset meets the form that every step keeps, and its memories are in their canonical form. The OTP cells there are
the model's (assumption 6). -/
def Obligations.ResetMeetsTheForm : Prop :=
  State.reset.settled ∧ State.reset.fusesWf ∧ State.reset.rowBounded ∧ State.reset.fuses.arb = 0 ∧
  tableWf regDflt State.reset.m.regs = true ∧ Memory.wf State.reset.m = true

/-- What a reset leaves (R8, R10, R31, R32, R51, R386, R387, R392): no command waits; every register but the power state, the causes of the
last reset and the domains that run reads its table's reset value; the power state is HEARTH, the domains 0 and 1 alone run, the time base
stands at 0; every strand is IDLE with no access outstanding, no lease is live and no descriptor queued, every lock free; the outputs of
the feed and of the bays are off. That MRAM reads 0 and that strands' registers read 0 are the model's choices (assumptions 4 and 5). -/
def Obligations.ResetValues : Prop :=
  let m := State.reset.m
  State.reset.pending = [] ∧
  (∀ a, a ≠ HEARTH_STAT_state.addr → a ≠ HEARTH_RSTC_kcause.addr → a ≠ CLK_DOMSTAT → m.reg a = (regDflt a).toNat) ∧
  m.power = 1 ∧ (∀ d < 32, m.runs d = decide (d < 2)) ∧ m.time = 0 ∧
  (∀ k, (m.strand k).mode = .idle ∧ (m.strand k).accs = [] ∧ ∀ r, (m.strand k).rd r = 0) ∧
  (∀ l, (m.leaseAt l).live = false) ∧ m.mngl.descs = [] ∧ m.locks = [] ∧ m.feed.gate = 0 ∧ (∀ b, (m.channel b).gate = 0) ∧
  ∀ a, m.mramByte a = 0

/-- R480, R481: the effects of a latch while EVT's domain runs, told where no global counter counts: EVT_PEND's bit is set and
EVT_LATCHES counts 1; with the enable bit 0 nothing else happens; with it 1 each selected route acts, and a route that is off does nothing.
A cause bit that stays 1 latches nothing; setting it anew latches. Clearing EVT_PEND leaves the cause, and the reverse. -/
def Obligations.EventLatches : Prop :=
  ∀ (m : Fjoek) (e v : Nat) (f : Fld), e < 512 → m.runs 2 = true → m.reg PMON_GCTL = 0 →
    let w := e / 32
    let n := m.latch e
    let kept := (m.setReg (EVT_PEND w) (m.reg (EVT_PEND w) ||| 2 ^ (e % 32))).count EVT_LATCHES_LO 1
    let on := bitOf (m.reg (EVT_EN w)) (e % 32) = true
    let r := m.reg (EVT_ROUTE e)
    let tag := bitsOf r 9 0
    let seq := m.reg64 MGMT_LOGSEQ_LO + 1
    let vec := 1024 + e
    let routed := fun b : Nat => on ∧ bitOf r b = true
    bitOf (n.reg (EVT_PEND w)) (e % 32) = true ∧ n.reg64 EVT_LATCHES_LO = (m.reg64 EVT_LATCHES_LO + 1) % 2 ^ 64 ∧
    (¬on → n = kept) ∧ (bitsOf r 31 28 = 0 → n = kept) ∧
    (routed 31 → m.mgmt.logRoom = none → n.mgmtIrq = true ∧ n.reg64 MGMT_LOGSEQ_LO = seq % 2 ^ 64 ∧
      n.mramNat (0x5000000 + 64 * (seq % 32768)) 8 = seq % 2 ^ 64 ∧ n.mramNat (0x5000000 + 64 * (seq % 32768) + 16) 2 = e) ∧
    (routed 28 → m.trailing = false → tag ≠ 0 → tag < 0x3F0 → n.seam.flight = m.seam.flight ++ [⟨tag, bitsOf r 21 16, none, m.postDue (bitsOf r 21 16)⟩]) ∧
    ((¬routed 28 ∨ tag = 0 ∨ 0x3F0 ≤ tag) → n.seam.flight = m.seam.flight) ∧
    (routed 30 → (m.attFn 0).msixEn = true → m.msixSendable 0 vec = false → tableGet (fun _ => false) n.att.pba vec = true) ∧
    (routed 29 → m.isOn TWIN_STAT_link = true → m.isOn TOP_STRAP_twin = true → OutMsg.twinEvent e ∈ n.out) ∧
    (¬routed 29 → n.out.count (.twinEvent e) = m.out.count (.twinEvent e)) ∧
    (m.isOn f = true → m.cause f e = m) ∧
    (f.hi < 32 → f.hi = f.lo → m.isOn f = false → noting f.addr = false → f.addr ≠ EVT_EN w → f.addr ≠ CLK_DOMSTAT →
      bitOf ((m.cause f e).reg (EVT_PEND w)) (e % 32) = true ∧ (m.cause f e).isOn f = true) ∧
    (∀ i < 16, ∀ a, a ≠ EVT_PEND i → (m.writeFields (EVT_PEND i) v).reg a = m.reg a) ∧
    (∀ a, a ≠ EVT_PEND w → (m.writeFields a v).reg (EVT_PEND w) = m.reg (EVT_PEND w))

/-- R482: the management core's event interrupt is 1 while any source has EVT_PEND, EVT_EN and the `mgmt` route all 1, or any bit of
EVT_PEER is 1, and EVT_MGMTIRQ reads it. A core's write of EVT_EN changes that register alone: a source already pending raises the level,
and the write logs, posts and raises nothing. -/
def Obligations.ManagementInterrupt : Prop :=
  (∀ m : Fjoek, m.view EVT_MGMTIRQ = bnat m.mgmtIrq ∧ (m.mgmtIrq = true ↔ ∃ e < 512,
    (bitOf (m.reg (EVT_PEND (e / 32))) (e % 32) = true ∧ bitOf (m.reg (EVT_EN (e / 32))) (e % 32) = true ∧
      m.isOn (EVT_ROUTE_mgmt e) = true) ∨ bitOf (m.reg (EVT_PEER (e / 32))) (e % 32) = true)) ∧
  ∀ (s : State) (i : Fin 16) (v : Word32) (e : Nat), s.settled → s.m.coreOn .core0 = true → s.m.leads = false → s.m.trailing = false →
    let m := s.m.setReg (EVT_EN i.val) v.toNat
    exec (.registerWrite .core0 (BitVec.ofNat 32 (EVT_EN i.val)) v) s = .next { s with m := m } ∧
    (e / 32 = i.val → bitOf v.toNat (e % 32) = true → bitOf (s.m.reg (EVT_PEND i.val)) (e % 32) = true →
      s.m.isOn (EVT_ROUTE_mgmt e) = true → m.mgmtIrq = true)

/-- R14, R31, R49: what the memories and the strand's registers hold after a write. A byte written to HBM or to MRAM reads back and every
other byte stays, in canonical form; the reserved region of MRAM reads 0 and discards; a write of HBM that touches the loader's protected
region is refused whole, and no write reaches a byte under the enabled aperture; g0 reads 0 and p0 true, and writes to them are discarded. -/
def Obligations.ReadsAfterWrites : Prop :=
  (∀ (m : Fjoek) (a j : Nat) (b : List Byte),
    (m.inStaging a b.length = false → a + b.length ≤ 2 ^ 35 → (m.hbmWrite a b).hbmByte j =
      (if (a ≤ j ∧ j < a + b.length) ∧ m.inAperture j 1 = false then b.getD (j - a) 0 else m.hbmByte j) ∧
      (m.inAperture j 1 = true → (m.hbmWrite a b).hbmCell j = m.hbmCell j)) ∧
    (m.inStaging a b.length = true → m.hbmWrite a b = m) ∧
    (a + b.length ≤ 0x5600000 → (m.mramPut a b).mramByte j = if a ≤ j ∧ j < a + b.length then b.getD (j - a) 0 else m.mramByte j) ∧
    (0x5600000 ≤ a → b ≠ [] → m.mramPut a b = m) ∧ (0x5600000 ≤ j → m.mramByte j = 0) ∧
    (Memory.wf m = true → Memory.wf (m.hbmWrite a b) = true ∧ Memory.wf (m.mramPut a b) = true)) ∧
  (∀ (x : Strand) (r q : Fin 32) (v : Word64),
    (x.wr r.val v).rd q.val = (if q = r ∧ r ≠ 0 then v else x.rd q.val) ∧ x.rd 0 = 0 ∧ x.wr 0 v = x) ∧
  (∀ (x : Strand) (i j : Fin 8) (y : Bool),
    (x.setPred i.val y).pred j.val = (if j = i ∧ i ≠ 0 then y else x.pred j.val) ∧ x.pred 0 = true ∧ x.setPred 0 y = x) ∧
  ∀ (m : Fjoek) (a c v : Nat), (m.setReg a v).reg c = (if c = a then v % 2 ^ 32 else m.reg c) ∧
    (tableWf regDflt m.regs = true → tableWf regDflt (m.setReg a v).regs = true)

/-- R305: an index of 1,048,576 or more and a tag of 0 name no entry: every check fails at order 1 of R310 with its code 1, recorded,
counted and latched as a refusal, and so does the check of a SEND with Invalidate; REVOKE of such a key ends with code 1. R314: so does
REVOKE of a key that is REVOKING, and a SEND with Invalidate that names it is refused with the code of order 3. -/
def Obligations.RefusedKeys : Prop :=
  ∀ (s : State) (q : SlateAsk) (n key : Nat),
    let m := s.m
    let none_ := fun k : Nat => 1048576 ≤ k % 2 ^ 24 ∨ k / 2 ^ 24 = 0
    let revoking := key % 2 ^ 24 < 1048576 ∧ key / 2 ^ 24 ≠ 0 ∧ m.thim.bad.contains (key % 2 ^ 24) = false ∧ m.keyState (key % 2 ^ 24) = 3
    let named := m.isOn THIM_KSTAT_busy = false ∧ m.reg (THIM_KDATA 0) = key
    let recorded := fun x : Fjoek => x.reg THIM_LASTREF_HI / 2 ^ 28 = 1 ∧ x.reg64 THIM_REFUSED_LO = (m.reg64 THIM_REFUSED_LO + 1) % 2 ^ 64 ∧
      x.isOn THIM_STAT_ref = true ∧ x.hbm = m.hbm
    (none_ q.key → (m.thimble q).1 = 1 ∧ recorded (m.thimble q).2 ∧ (m.thimble q).2.reg THIM_LASTREF_LO = q.key % 2 ^ 32) ∧
    (none_ key → (m.invalidateCheck n key).1 = 1 ∧ recorded (m.invalidateCheck n key).2) ∧
    (none_ key → named → Does .keyRevoke s ((m.put THIM_KSTAT_busy 0).put THIM_KSTAT_code 1)) ∧
    (revoking → named → Does .keyRevoke s ((m.put THIM_KSTAT_busy 0).put THIM_KSTAT_code 1)) ∧
    (revoking → (m.invalidateCheck n key).1 = 1 ∧ recorded (m.invalidateCheck n key).2)

/-- R435, R436: a debounced removal acts by the channel's state: in RAMP, QUALIFY and ON the gate and the auxiliary switch turn off with
cause 5 and the state is OFF; in RETRY the retry timer keeps running; in FAULT the state is OFF; in OFF it does not change. It clears the
bay's latched fault count. -/
def Obligations.RemovedDrives : Prop :=
  ∀ (s : State) (bay : Fin 24), s.m.awake = true → s.m.isOn (BAY_STAT_present bay.val) = true →
    let m := s.m
    let b := bay.val
    let st := m.bayState b
    Ends (.bayPresenceDebounced bay false) s fun n => n.get (BAY_FCNT_used b) = 0 ∧
      (1 ≤ st → st ≤ 3 → n.bayState b = 0 ∧ (n.channel b).gate = 0 ∧ n.isOn (BAY_STAT_auxon b) = false ∧
        n.isOn (BAY_STAT_fullon b) = false ∧ n.get (BAY_STAT_cause b) = 5) ∧
      (st = 4 → n.bayState b = 4 ∧ (n.channel b).wait = (m.channel b).wait ∧ n.get (BAY_STAT_cause b) = m.get (BAY_STAT_cause b)) ∧
      (st = 5 → n.bayState b = 0 ∧ n.get (BAY_STAT_cause b) = m.get (BAY_STAT_cause b)) ∧
      (st = 0 → n.bayState b = 0 ∧ n.get (BAY_STAT_cause b) = m.get (BAY_STAT_cause b))

/-! ## What commands leave alone -/

/-- The frames of commands about power, the feed, the bays, the Damper, management and performance counters: each leaves every part of the
module outside its footprint as it was, but for what latches and counts do, every register outside its windows, and every fuse where it
programs none. -/
def Obligations.PowerFootprints : Prop :=
  ∀ (c : Instr) (s t : State) (ps : List Part) (ws : Option (List Nat)), footPower c = some (ps, ws) → exec c s = .next t →
    Within ps ws s.m.unburnt t.m ∧ t.pending = s.pending ∧
      (.hearth ∉ ps → t.fuses = s.m.hearth.burn.foldl Fuses.burn s.fuses)

/-- The frames of commands about the port slots, the switch core, the forwarding tables, the transport and Thimble. -/
def Obligations.NetworkFootprints : Prop :=
  ∀ (c : Instr) (s t : State) (ps : List Part) (ws : Option (List Nat)), footNet c = some (ps, ws) → exec c s = .next t →
    Within ps ws s.m.unburnt t.m ∧ t.pending = s.pending ∧ t.fuses = s.m.hearth.burn.foldl Fuses.burn s.fuses

/-- The frames of commands about strands from outside, Mangle, the pools, the drive ports, the attach endpoint and the twin. -/
def Obligations.StorageFootprints : Prop :=
  ∀ (c : Instr) (s t : State) (ps : List Part) (ws : Option (List Nat)), footData c = some (ps, ws) → exec c s = .next t →
    Within ps ws s.m.unburnt t.m ∧ t.pending = s.pending ∧ t.fuses = s.m.hearth.burn.foldl Fuses.burn s.fuses
end

