-- ==== Sys2Proof/Laws/Store.lean ====
section
/-! SUPPORT. Laws of tables, of bit fields and of the memories built from them: what a read gives after a write, and that every
write keeps the canonical form. -/

namespace Sys2Proof.Machine

/-! ## Reads after writes -/

theorem tableFind_insert {α : Type} (t : Table α) (k j : Nat) (v : α) :
    tableFind (tableInsert t k v) j = if j = k then some v else tableFind t j := by
  induction t with
  | nil =>
    simp only [tableInsert, tableFind]
    by_cases h : k = j
    · rw [if_pos h, if_pos h.symm]
    · rw [if_neg h, if_neg (Ne.symm h)]
  | cons e r ih =>
    obtain ⟨i, u⟩ := e
    simp only [tableInsert]
    split
    · rename_i h
      subst h
      simp only [tableFind]
      by_cases h : i = j
      · rw [if_pos h, if_pos h.symm]
      · rw [if_neg h, if_neg (Ne.symm h), if_neg h]
    · split
      · simp only [tableFind]
        by_cases h : k = j
        · rw [if_pos h, if_pos h.symm]
        · rw [if_neg h, if_neg (Ne.symm h)]
      · rename_i h1 h2
        simp only [tableFind, ih]
        by_cases h : i = j
        · rw [if_pos h, if_pos h, if_neg (fun hj => h1 (h.trans hj))]
        · rw [if_neg h, if_neg h]

theorem tableFind_filter {α : Type} (t : Table α) (p : Nat → Bool) (j : Nat) :
    tableFind (t.filter fun e => p e.1) j = if p j then tableFind t j else none := by
  induction t with
  | nil => simp [tableFind]
  | cons e r ih =>
    obtain ⟨i, u⟩ := e
    simp only [List.filter_cons, tableFind]
    split <;> rename_i h
    · simp only [tableFind, ih]
      split <;> simp_all
    · rw [ih]
      split <;> rename_i h2
      · split
        · subst_vars; simp_all
        · rfl
      · rfl

theorem tableFind_erase {α : Type} (t : Table α) (k j : Nat) :
    tableFind (tableErase t k) j = if j = k then none else tableFind t j := by
  unfold tableErase
  rw [tableFind_filter t (· != k) j]
  by_cases h : j = k <;> simp [h]

theorem tableGet_insert {α : Type} (d : Nat → α) (t : Table α) (k j : Nat) (v : α) :
    tableGet d (tableInsert t k v) j = if j = k then v else tableGet d t j := by
  simp only [tableGet, tableFind_insert]
  by_cases h : j = k <;> simp [h]

theorem tableGet_erase {α : Type} (d : Nat → α) (t : Table α) (k j : Nat) :
    tableGet d (tableErase t k) j = if j = k then d k else tableGet d t j := by
  simp only [tableGet, tableFind_erase]
  by_cases h : j = k <;> simp [h]

theorem tableGet_set {α : Type} [DecidableEq α] (d : Nat → α) (t : Table α) (k j : Nat) (v : α) :
    tableGet d (tableSet d t k v) j = if j = k then v else tableGet d t j := by
  unfold tableSet
  split
  · rw [tableGet_erase]; split <;> simp_all
  · rw [tableGet_insert]

@[simp] theorem tableGet_set_same {α : Type} [DecidableEq α] (d : Nat → α) (t : Table α) (k : Nat) (v : α) :
    tableGet d (tableSet d t k v) k = v := by simp [tableGet_set]

theorem tableGet_set_ne {α : Type} [DecidableEq α] (d : Nat → α) (t : Table α) {k j : Nat} (v : α) (h : j ≠ k) :
    tableGet d (tableSet d t k v) j = tableGet d t j := by simp [tableGet_set, h]

@[simp] theorem tableGet_nil {α : Type} (d : Nat → α) (k : Nat) : tableGet d [] k = d k := rfl

/-- A table that lists each written key reads what was written, whatever the unlisted keys read. -/
@[simp] theorem tableGet_insert_same {α : Type} (d : Nat → α) (t : Table α) (k : Nat) (v : α) :
    tableGet d (tableInsert t k v) k = v := by simp [tableGet_insert]

theorem tableInsert_insert {α : Type} (t : Table α) (k : Nat) (u v : α) :
    tableInsert (tableInsert t k u) k v = tableInsert t k v := by
  induction t with
  | nil => simp [tableInsert]
  | cons e r ih =>
    obtain ⟨i, w⟩ := e
    simp only [tableInsert]
    split
    · simp [tableInsert]
    · split
      · simp [tableInsert]
      · rename_i h1 h2
        simp only [tableInsert, if_neg h1, if_neg h2, ih]

theorem tableErase_insert {α : Type} (t : Table α) (k : Nat) (u : α) : tableErase (tableInsert t k u) k = tableErase t k := by
  induction t with
  | nil => simp [tableInsert, tableErase]
  | cons e r ih =>
    obtain ⟨i, w⟩ := e
    unfold tableErase at *
    simp only [tableInsert]
    split
    · rename_i h; simp [h]
    · split
      · simp
      · rename_i h1 h2
        simp only [List.filter_cons, ih]

/-- A key that is written twice holds what was written last. -/
theorem tableSet_set {α : Type} [DecidableEq α] (d : Nat → α) (t : Table α) (k : Nat) (u v : α) (h : u ≠ d k) :
    tableSet d (tableSet d t k u) k v = tableSet d t k v := by
  unfold tableSet
  rw [if_neg h]
  split
  · exact tableErase_insert _ _ _
  · exact tableInsert_insert _ _ _ _

/-! ## The canonical form -/

theorem tableRising_cons {α : Type} (e : Nat × α) (t : Table α) :
    tableRising (e :: t) = true ↔ (∀ f ∈ t, e.1 < f.1) ∧ tableRising t = true := by
  induction t generalizing e with
  | nil => simp [tableRising]
  | cons f r ih =>
    obtain ⟨i, u⟩ := e
    obtain ⟨j, v⟩ := f
    simp only [tableRising, Bool.and_eq_true, decide_eq_true_eq]
    rw [ih]
    constructor
    · rintro ⟨h, h2, h3⟩
      refine ⟨?_, h2, h3⟩
      intro g hg
      rcases List.mem_cons.1 hg with rfl | hg
      · exact h
      · exact lt_trans h (h2 g hg)
    · rintro ⟨h, h2, h3⟩
      exact ⟨h _ (List.mem_cons_self ..), h2, h3⟩

theorem mem_tableInsert {α : Type} (t : Table α) (k : Nat) (v : α) (e : Nat × α) (h : e ∈ tableInsert t k v) :
    e = (k, v) ∨ e ∈ t := by
  induction t with
  | nil => simp_all [tableInsert]
  | cons f r ih =>
    obtain ⟨i, u⟩ := f
    simp only [tableInsert] at h
    split at h
    · rcases List.mem_cons.1 h with h | h
      · exact .inl h
      · exact .inr (List.mem_cons_of_mem _ h)
    · split at h
      · rcases List.mem_cons.1 h with h | h
        · exact .inl h
        · exact .inr h
      · rcases List.mem_cons.1 h with h | h
        · exact .inr (h ▸ List.mem_cons_self ..)
        · rcases ih h with h | h
          · exact .inl h
          · exact .inr (List.mem_cons_of_mem _ h)

/-- Listing a key keeps the keys rising. -/
theorem tableInsert_rising {α : Type} (t : Table α) (k : Nat) (v : α) (h : tableRising t = true) :
    tableRising (tableInsert t k v) = true := by
  induction t with
  | nil => rfl
  | cons f r ih =>
    obtain ⟨i, u⟩ := f
    have hr := (tableRising_cons _ _).1 h
    simp only [tableInsert]
    split
    · subst_vars; exact (tableRising_cons _ _).2 hr
    · split
      · rename_i h1 h2
        refine (tableRising_cons _ _).2 ⟨?_, h⟩
        intro f hf
        rcases List.mem_cons.1 hf with rfl | hf
        · exact h2
        · exact lt_trans h2 (hr.1 f hf)
      · rename_i h1 h2
        refine (tableRising_cons _ _).2 ⟨?_, ih hr.2⟩
        intro f hf
        rcases mem_tableInsert _ _ _ _ hf with rfl | hf
        · exact lt_of_le_of_ne (Nat.le_of_not_lt h2) h1
        · exact hr.1 f hf

theorem tableRising_filter {α : Type} (t : Table α) (p : Nat × α → Bool) (h : tableRising t = true) :
    tableRising (t.filter p) = true := by
  induction t with
  | nil => rfl
  | cons f r ih =>
    have hr := (tableRising_cons _ _).1 h
    simp only [List.filter_cons]
    split
    · exact (tableRising_cons _ _).2 ⟨fun g hg => hr.1 g (List.mem_filter.1 hg).1, ih hr.2⟩
    · exact ih hr.2

/-- Every write of a table keeps its canonical form. -/
theorem tableSet_wf {α : Type} [DecidableEq α] (d : Nat → α) (t : Table α) (k : Nat) (v : α) (h : tableWf d t = true) :
    tableWf d (tableSet d t k v) = true := by
  simp only [tableWf, Bool.and_eq_true, List.all_eq_true, decide_eq_true_eq] at h ⊢
  unfold tableSet
  split
  · exact ⟨tableRising_filter _ _ h.1, fun e he => h.2 e (List.mem_filter.1 he).1⟩
  · rename_i hv
    refine ⟨tableInsert_rising _ _ _ h.1, fun e he => ?_⟩
    rcases mem_tableInsert _ _ _ _ he with rfl | he
    · exact hv
    · exact h.2 e he

/-- Bytes stored in a memory whose unlisted locations read 0 (MRAM, L) keep its canonical form. -/
theorem writeBytes_wf (t : Table Byte) (a : Nat) (b : List Byte) (h : tableWf (fun _ => 0) t = true) :
    tableWf (fun _ => 0) (writeBytes t a b) = true := by
  induction b generalizing t a with
  | nil => exact h
  | cons x r ih => exact ih _ _ (tableSet_wf _ _ _ _ h)

/-- Bytes stored in a memory that lists every location written (HBM, the buffer cells) keep its addresses rising. -/
theorem listBytes_rising (t : Table Byte) (a : Nat) (b : List Byte) (h : tableRising t = true) :
    tableRising (listBytes t a b) = true := by
  induction b generalizing t a with
  | nil => exact h
  | cons x r ih => exact ih _ _ (tableInsert_rising _ _ _ h)

/-- What a memory of either kind reads after bytes are stored: the byte stored, or what was there. -/
theorem tableGet_writeBytes (t : Table Byte) (a : Nat) (b : List Byte) (j : Nat) :
    tableGet (fun _ => 0) (writeBytes t a b) j =
      if a ≤ j ∧ j < a + b.length then b.getD (j - a) 0 else tableGet (fun _ => 0) t j := by
  induction b generalizing t a with
  | nil => simp only [writeBytes, List.length_nil]; split <;> [omega; rfl]
  | cons x r ih =>
    simp only [writeBytes, ih, tableGet_set, List.length_cons]
    by_cases h : j = a
    · subst h; simp
    · by_cases h1 : a + 1 ≤ j ∧ j < a + 1 + r.length
      · have h2 : a ≤ j ∧ j < a + (r.length + 1) := by omega
        have h3 : j - a = (j - (a + 1)) + 1 := by omega
        rw [if_pos h1, if_pos h2, h3, List.getD_cons_succ]
      · have h2 : ¬(a ≤ j ∧ j < a + (r.length + 1)) := by omega
        rw [if_neg h1, if_neg h2, if_neg h]

theorem tableGet_listBytes (d : Nat → Byte) (t : Table Byte) (a : Nat) (b : List Byte) (j : Nat) :
    tableGet d (listBytes t a b) j = if a ≤ j ∧ j < a + b.length then b.getD (j - a) 0 else tableGet d t j := by
  induction b generalizing t a with
  | nil => simp only [listBytes, List.length_nil]; split <;> [omega; rfl]
  | cons x r ih =>
    simp only [listBytes, ih, tableGet_insert, List.length_cons]
    by_cases h : j = a
    · subst h; simp
    · by_cases h1 : a + 1 ≤ j ∧ j < a + 1 + r.length
      · have h2 : a ≤ j ∧ j < a + (r.length + 1) := by omega
        have h3 : j - a = (j - (a + 1)) + 1 := by omega
        rw [if_pos h1, if_pos h2, h3, List.getD_cons_succ]
      · have h2 : ¬(a ≤ j ∧ j < a + (r.length + 1)) := by omega
        rw [if_neg h1, if_neg h2, if_neg h]

/-! ## Bit fields -/

theorem bitsOf_withBits (v hi lo x : Nat) : bitsOf (withBits v hi lo x) hi lo = x % 2 ^ (hi - lo + 1) := by
  unfold withBits bitsOf
  have hp : 0 < 2 ^ lo := Nat.two_pow_pos lo
  have hq : 0 < 2 ^ (hi - lo + 1) := Nat.two_pow_pos _
  generalize 2 ^ (hi - lo + 1) = q at *
  generalize 2 ^ lo = p at *
  have h1 : v = p * (q * (v / p / q) + v / p % q) + v % p := by
    rw [Nat.div_add_mod (v / p) q, Nat.div_add_mod]
  have h2 : v - v / p % q * p = p * (q * (v / p / q)) + v % p := by
    have : v / p % q * p ≤ v := by
      calc v / p % q * p ≤ v / p * p := Nat.mul_le_mul_right _ (Nat.mod_le _ _)
        _ ≤ v := Nat.div_mul_le_self v p
    rw [Nat.sub_eq_iff_eq_add this]
    conv_lhs => rw [h1]
    ring
  rw [h2]
  have h3 : (p * (q * (v / p / q)) + v % p + x % q * p) / p = q * (v / p / q) + x % q := by
    have : p * (q * (v / p / q)) + v % p + x % q * p = p * (q * (v / p / q) + x % q) + v % p := by ring
    rw [this, Nat.mul_add_div hp, Nat.div_eq_of_lt (Nat.mod_lt _ hp), Nat.add_zero]
  rw [h3, Nat.mul_add_mod, Nat.mod_mod]

theorem bitsOf_lt (v hi lo : Nat) : bitsOf v hi lo < 2 ^ (hi - lo + 1) := Nat.mod_lt _ (Nat.two_pow_pos _)

end Sys2Proof.Machine
end

