-- ==== Sys2Proof/Laws/Regs.lean ====
section
/-! SUPPORT. Laws of the register file: what a register, a field or a 64-bit counter reads after another was written. -/

namespace Sys2Proof.Machine

/-! ## Bits of fields -/

theorem bitsOf_testBit (v hi lo i : Nat) :
    (bitsOf v hi lo).testBit i = (decide (i < hi - lo + 1) && v.testBit (lo + i)) := by
  unfold bitsOf
  rw [Nat.testBit_mod_two_pow, Nat.testBit_div_two_pow]
  rw [Nat.add_comm i lo]

theorem withBits_split (v hi lo x : Nat) :
    withBits v hi lo x =
      2 ^ lo * (2 ^ (hi - lo + 1) * (v / 2 ^ lo / 2 ^ (hi - lo + 1)) + x % 2 ^ (hi - lo + 1)) + v % 2 ^ lo := by
  unfold withBits bitsOf
  generalize 2 ^ (hi - lo + 1) = q
  generalize 2 ^ lo = p
  have h1 : v = p * (q * (v / p / q) + v / p % q) + v % p := by
    rw [Nat.div_add_mod (v / p) q, Nat.div_add_mod]
  have h2 : v - v / p % q * p = p * (q * (v / p / q)) + v % p := by
    have : v / p % q * p ≤ v := by
      calc v / p % q * p ≤ v / p * p := Nat.mul_le_mul_right _ (Nat.mod_le _ _)
        _ ≤ v := Nat.div_mul_le_self v p
    rw [Nat.sub_eq_iff_eq_add this]
    conv_lhs => rw [h1]
    ring
  rw [h2]
  ring

/-- A bit of a register after one of its fields was written. -/
theorem withBits_testBit (v hi lo x i : Nat) (h : lo ≤ hi) :
    (withBits v hi lo x).testBit i = if lo ≤ i ∧ i ≤ hi then x.testBit (i - lo) else v.testBit i := by
  rw [withBits_split, Nat.testBit_two_pow_mul_add _ (Nat.mod_lt _ (Nat.two_pow_pos lo))]
  split
  · rw [if_neg (by omega), Nat.testBit_mod_two_pow]
    simp_all
  · rw [Nat.testBit_two_pow_mul_add _ (Nat.mod_lt _ (Nat.two_pow_pos _))]
    split
    · rw [if_pos (by omega), Nat.testBit_mod_two_pow]
      simp_all
    · rw [if_neg (by omega), Nat.testBit_div_two_pow, Nat.testBit_div_two_pow]
      congr 1
      omega

theorem bitsOf_withBits_apart (v hi lo x hi' lo' : Nat) (h : lo ≤ hi) (hd : hi < lo' ∨ hi' < lo) (h' : lo' ≤ hi') :
    bitsOf (withBits v hi lo x) hi' lo' = bitsOf v hi' lo' := by
  apply Nat.eq_of_testBit_eq
  intro i
  rw [bitsOf_testBit, bitsOf_testBit, withBits_testBit _ _ _ _ _ h]
  by_cases hi2 : i < hi' - lo' + 1
  · rw [if_neg (by omega)]
  · simp [hi2]

theorem bitsOf_mod (v hi lo : Nat) (h : hi < 32) (h' : lo ≤ hi) : bitsOf (v % 2 ^ 32) hi lo = bitsOf v hi lo := by
  apply Nat.eq_of_testBit_eq
  intro i
  rw [bitsOf_testBit, bitsOf_testBit, Nat.testBit_mod_two_pow]
  by_cases hi2 : i < hi - lo + 1
  · have : lo + i < 32 := by omega
    simp [this]
  · simp [hi2]

/-! ## Registers -/

theorem Fjoek.reg_setReg (m : Fjoek) (a b v : Nat) :
    (m.setReg a v).reg b = if b = a then v % 2 ^ 32 else m.reg b := by
  unfold Fjoek.reg Fjoek.setReg
  simp only [tableGet_set]
  split <;> simp [BitVec.toNat_ofNat]

@[simp] theorem Fjoek.reg_setReg_same (m : Fjoek) (a v : Nat) : (m.setReg a v).reg a = v % 2 ^ 32 := by
  simp [Fjoek.reg_setReg]

theorem Fjoek.reg_setReg_ne (m : Fjoek) {a b : Nat} (v : Nat) (h : b ≠ a) : (m.setReg a v).reg b = m.reg b := by
  simp [Fjoek.reg_setReg, h]

theorem Fjoek.reg_lt (m : Fjoek) (a : Nat) : m.reg a < 2 ^ 32 := (tableGet regDflt m.regs a).isLt

theorem Fjoek.reg_put_ne (m : Fjoek) (f : Fld) (v : Nat) {a : Nat} (h : a ≠ f.addr) : (m.put f v).reg a = m.reg a :=
  Fjoek.reg_setReg_ne _ _ h

/-- A field is one of a 32-bit register. -/
def Fld.ok (f : Fld) : Bool := decide (f.lo ≤ f.hi ∧ f.hi < 32)

/-- Two fields share no bit. -/
def Fld.apart (f g : Fld) : Bool := decide (f.addr ≠ g.addr ∨ f.hi < g.lo ∨ g.hi < f.lo)

/-- A field reads what was last put there, cut to its width. -/
theorem Fjoek.get_put_same (m : Fjoek) (f : Fld) (v : Nat) (h : f.ok = true) :
    (m.put f v).get f = v % 2 ^ (f.hi - f.lo + 1) := by
  unfold Fld.ok at h
  simp only [decide_eq_true_eq] at h
  unfold Fjoek.get Fjoek.put
  rw [Fjoek.reg_setReg_same, bitsOf_mod _ _ _ h.2 h.1, bitsOf_withBits]

/-- A field keeps its value when another field is written. -/
theorem Fjoek.get_put_apart (m : Fjoek) (f g : Fld) (v : Nat) (hf : f.ok = true) (hg : g.ok = true)
    (h : f.apart g = true) : (m.put f v).get g = m.get g := by
  unfold Fld.ok Fld.apart at *
  simp only [decide_eq_true_eq] at *
  unfold Fjoek.get Fjoek.put
  rw [Fjoek.reg_setReg]
  split
  · rename_i he
    rw [bitsOf_mod _ _ _ hg.2 hg.1, bitsOf_withBits_apart _ _ _ _ _ _ hf.1 (by omega) hg.1, he]
  · rfl

theorem Fjoek.get_setReg_ne (m : Fjoek) (a v : Nat) (g : Fld) (h : g.addr ≠ a) : (m.setReg a v).get g = m.get g := by
  unfold Fjoek.get; rw [Fjoek.reg_setReg_ne _ _ h]

theorem Fjoek.isOn_put_same (m : Fjoek) (f : Fld) (h : f.ok = true) (h1 : f.hi = f.lo) : (m.put f 1).isOn f = true := by
  unfold Fjoek.isOn; rw [Fjoek.get_put_same _ _ _ h, h1]; simp

theorem Fjoek.isOn_put_apart (m : Fjoek) (f g : Fld) (v : Nat) (hf : f.ok = true) (hg : g.ok = true)
    (h : f.apart g = true) : (m.put f v).isOn g = m.isOn g := by
  unfold Fjoek.isOn; rw [Fjoek.get_put_apart _ _ _ _ hf hg h]

/-- Setting a bit that is set changes no register. -/
theorem Fjoek.reg_put_on (m : Fjoek) (f : Fld) (h : m.isOn f = true) (h1 : f.hi = f.lo) (a : Nat) :
    (m.put f 1).reg a = m.reg a := by
  by_cases ha : a = f.addr
  · have hb : bitsOf (m.reg f.addr) f.hi f.lo = 1 := by
      have := bitsOf_lt (m.reg f.addr) f.hi f.lo
      unfold Fjoek.isOn Fjoek.get at h
      simp only [bne_iff_ne, ne_eq] at h
      rw [h1] at this h ⊢
      simp only [Nat.sub_self, Nat.zero_add, Nat.pow_one] at this
      omega
    have hle : bitsOf (m.reg f.addr) f.hi f.lo * 2 ^ f.lo ≤ m.reg f.addr := by
      unfold bitsOf
      calc m.reg f.addr / 2 ^ f.lo % 2 ^ (f.hi - f.lo + 1) * 2 ^ f.lo
          ≤ m.reg f.addr / 2 ^ f.lo * 2 ^ f.lo := Nat.mul_le_mul_right _ (Nat.mod_le _ _)
        _ ≤ m.reg f.addr := Nat.div_mul_le_self _ _
    unfold Fjoek.put
    rw [ha, Fjoek.reg_setReg_same]
    have h3 : withBits (m.reg f.addr) f.hi f.lo 1 = m.reg f.addr := by
      unfold withBits
      rw [hb] at *
      rw [h1]
      simp only [Nat.sub_self, Nat.zero_add, Nat.pow_one]
      omega
    rw [h3]
    exact Nat.mod_eq_of_lt (m.reg_lt _)
  · exact Fjoek.reg_put_ne _ _ _ ha

/-- A 64-bit value reads what was last written there. -/
theorem Fjoek.reg64_setReg64 (m : Fjoek) (a v : Nat) : (m.setReg64 a v).reg64 a = v % 2 ^ 64 := by
  unfold Fjoek.reg64 Fjoek.setReg64
  rw [Fjoek.reg_setReg_ne _ _ (by omega), Fjoek.reg_setReg_same, Fjoek.reg_setReg_same]
  omega

theorem Fjoek.reg_setReg64_ne (m : Fjoek) (a v : Nat) {b : Nat} (h : b ≠ a) (h' : b ≠ a + 4) :
    (m.setReg64 a v).reg b = m.reg b := by
  unfold Fjoek.setReg64
  rw [Fjoek.reg_setReg_ne _ _ h', Fjoek.reg_setReg_ne _ _ h]

/-- A counter counts modulo 2^64. -/
theorem Fjoek.reg64_count (m : Fjoek) (a n : Nat) : (m.count a n).reg64 a = (m.reg64 a + n) % 2 ^ 64 := by
  unfold Fjoek.count; rw [Fjoek.reg64_setReg64, Nat.mod_mod]

theorem Fjoek.reg_count_ne (m : Fjoek) (a n : Nat) {b : Nat} (h : b ≠ a) (h' : b ≠ a + 4) :
    (m.count a n).reg b = m.reg b := Fjoek.reg_setReg64_ne _ _ _ h h'

/-- The table of registers keeps its canonical form under every write. -/
theorem Fjoek.setReg_wf (m : Fjoek) (a v : Nat) (h : tableWf regDflt m.regs = true) :
    tableWf regDflt (m.setReg a v).regs = true := tableSet_wf _ _ _ _ h

end Sys2Proof.Machine
end

