-- ==== Sys2Proof/Laws/Notes.lean ====
section
/-! SUPPORT. What the operations that latch events, log for a twin, raise interrupts and count happenings can do: each leaves no more
than `Noted` allows. -/

namespace Sys2Proof.Machine

theorem Noted.refl (m : Fjoek) : Noted m m := by
  constructor <;> intros <;> first | rfl | exact ⟨[], by simp⟩ | exact ⟨rfl, rfl⟩

theorem Noted.trans {a b c : Fjoek} (h : Noted a b) (k : Noted b c) : Noted a c where
  reg x hx := (k.reg x hx).trans (h.reg x hx)
  mram x hx := (k.mram x hx).trans (h.mram x hx)
  out := by
    obtain ⟨l, hl⟩ := h.out
    obtain ⟨r, hr⟩ := k.out
    exact ⟨l ++ r, by rw [hr, hl, List.append_assoc]⟩
  seam := by have := k.seam; rw [h.seam] at this; exact this
  flight := by
    obtain ⟨l, hl⟩ := h.flight
    obtain ⟨r, hr⟩ := k.flight
    exact ⟨l ++ r, by rw [hr, hl, List.append_assoc]⟩
  att := by have := k.att; rw [h.att] at this; exact this
  twin := by have := k.twin; rw [h.twin] at this; exact this
  seq := h.seq.trans k.seq
  mgmt := by have := k.mgmt; rw [h.mgmt] at this; exact this
  hearth := k.hearth.trans h.hearth
  wide := k.wide.trans h.wide
  snap := k.snap.trans h.snap
  era := k.era.trans h.era
  hbm := k.hbm.trans h.hbm
  locks := k.locks.trans h.locks
  poison := ⟨k.poison.1.trans h.poison.1, k.poison.2.trans h.poison.2⟩
  free := k.free.trans h.free
  mngl := k.mngl.trans h.mngl
  damp := k.damp.trans h.damp
  pmon := k.pmon.trans h.pmon
  feed := k.feed.trans h.feed
  bay := k.bay.trans h.bay
  drv := k.drv.trans h.drv
  lib := k.lib.trans h.lib
  netp := k.netp.trans h.netp
  swc := k.swc.trans h.swc
  fwd := k.fwd.trans h.fwd
  xport := k.xport.trans h.xport
  thim := k.thim.trans h.thim

/-- A field outside the registers that latching writes reads as before. -/
theorem Noted.get {m n : Fjoek} (h : Noted m n) (f : Fld) (hf : noting f.addr = false) : n.get f = m.get f := by
  unfold Fjoek.get; rw [h.reg _ hf]

theorem Noted.isOn {m n : Fjoek} (h : Noted m n) (f : Fld) (hf : noting f.addr = false) : n.isOn f = m.isOn f := by
  unfold Fjoek.isOn; rw [h.get _ hf]

theorem Noted.reg64 {m n : Fjoek} (h : Noted m n) (a : Nat) (ha : noting a = false) (hb : noting (a + 4) = false) :
    n.reg64 a = m.reg64 a := by
  unfold Fjoek.reg64; rw [h.reg _ ha, h.reg _ hb]

theorem Noted.inAperture {m n : Fjoek} (h : Noted m n) (a k : Nat) : n.inAperture a k = m.inAperture a k := by
  unfold Fjoek.inAperture; rw [h.isOn _ (by decide), h.get _ (by decide)]

theorem Noted.hbmByte {m n : Fjoek} (h : Noted m n) (a : Nat) : n.hbmByte a = m.hbmByte a := by
  unfold Fjoek.hbmByte Fjoek.hbmCell; rw [h.inAperture, h.hbm, h.era]

theorem Noted.strand {m n : Fjoek} (h : Noted m n) (k : Nat) : n.strand k = m.strand k := by
  unfold Fjoek.strand; rw [h.seam]

theorem Noted.when {m : Fjoek} (c : Bool) (f : Fjoek → Fjoek) (h : Noted m (f m)) : Noted m (m.when c f) := by
  unfold Fjoek.when
  split
  · exact h
  · exact Noted.refl m

theorem Noted.each {α : Type} (l : List α) (f : α → Fjoek → Fjoek) (h : ∀ x ∈ l, ∀ m, Noted m (f x m)) (m : Fjoek) :
    Noted m (m.each l f) := by
  unfold Fjoek.each
  induction l generalizing m with
  | nil => exact Noted.refl m
  | cons x r ih =>
    exact (h x (List.mem_cons_self ..) m).trans (ih (fun y hy => h y (List.mem_cons_of_mem _ hy)) (f x m))

/-! ## Writes carry over what stands beside them -/

theorem Noted.setReg {m n : Fjoek} (h : Noted m n) (a v : Nat) : Noted (m.setReg a v) (n.setReg a v) :=
  { h with
    reg := by
      intro x hx
      rw [Fjoek.reg_setReg, Fjoek.reg_setReg]
      split
      · rfl
      · exact h.reg x hx }

theorem Noted.put {m n : Fjoek} (h : Noted m n) (f : Fld) (v : Nat) (hf : noting f.addr = false) :
    Noted (m.put f v) (n.put f v) := by
  unfold Fjoek.put
  rw [h.reg _ hf]
  exact h.setReg _ _

theorem Noted.setReg64 {m n : Fjoek} (h : Noted m n) (a v : Nat) : Noted (m.setReg64 a v) (n.setReg64 a v) :=
  (h.setReg _ _).setReg _ _

theorem Noted.count {m n : Fjoek} (h : Noted m n) (a v : Nat) (ha : noting a = false) (hb : noting (a + 4) = false) :
    Noted (m.count a v) (n.count a v) := by
  unfold Fjoek.count
  rw [h.reg64 _ ha hb]
  exact h.setReg64 _ _

theorem Noted.bump {m n : Fjoek} (h : Noted m n) (f : Fld) (v : Nat) (hf : noting f.addr = false) :
    Noted (m.bump f v) (n.bump f v) := by
  unfold Fjoek.bump
  rw [h.get _ hf]
  exact h.put _ _ hf

/-! ## Single steps -/

theorem noted_setReg (m : Fjoek) (a v : Nat) (h : noting a = true) : Noted m (m.setReg a v) := by
  have hr : ∀ x, noting x = false → (m.setReg a v).reg x = m.reg x := by
    intro x hx
    apply Fjoek.reg_setReg_ne
    rintro rfl
    rw [h] at hx
    cases hx
  constructor <;> intros <;> first | exact hr _ ‹_› | rfl | exact ⟨[], by simp [Fjoek.setReg]⟩ | exact ⟨rfl, rfl⟩

theorem noted_put (m : Fjoek) (f : Fld) (v : Nat) (h : noting f.addr = true) : Noted m (m.put f v) := noted_setReg _ _ _ h

theorem noted_setReg64 (m : Fjoek) (a v : Nat) (h : noting a = true) (h' : noting (a + 4) = true) :
    Noted m (m.setReg64 a v) := (noted_setReg _ _ _ h).trans (noted_setReg _ _ _ h')

theorem noted_count (m : Fjoek) (a n : Nat) (h : noting a = true) (h' : noting (a + 4) = true) :
    Noted m (m.count a n) := noted_setReg64 _ _ _ h h'

theorem noted_tally (m : Fjoek) (t : Table Nat) : Noted m { m with tally := t } := by
  constructor <;> intros <;> first | rfl | exact ⟨[], by simp⟩ | exact ⟨rfl, rfl⟩

theorem noted_happen (m : Fjoek) (e n : Nat) : Noted m (m.happen e n) := noted_tally _ _

theorem noted_send (m : Fjoek) (o : OutMsg) : Noted m (m.send o) := by
  constructor <;> intros <;> first | rfl | exact ⟨[o], rfl⟩ | exact ⟨[], by simp [Fjoek.send]⟩ | exact ⟨rfl, rfl⟩

theorem noted_twin (m : Fjoek) (a : Nat) (b : List LogRec) (c : Table Nat) (d : List (Nat × OutMsg)) (h : m.twin.nextSeq ≤ a) :
    Noted m { m with twin := { m.twin with nextSeq := a, log := b, own := c, held := d } } := by
  constructor <;> intros <;> first | rfl | exact h | exact ⟨[], by simp⟩ | exact ⟨rfl, rfl⟩

theorem noted_att (m : Fjoek) (a : Table AttFn) (b : Table Bool) (c d : Bool) :
    Noted m { m with att := { m.att with fns := a, pba := b, inta := c, wakeLow := d } } := by
  constructor <;> intros <;> first | rfl | exact ⟨[], by simp⟩ | exact ⟨rfl, rfl⟩

theorem noted_mgmt (m : Fjoek) (a : Option Nat) (b : Bool) :
    Noted m { m with mgmt := { m.mgmt with logRoom := a, logGap := b } } := by
  constructor <;> intros <;> first | rfl | exact ⟨[], by simp⟩ | exact ⟨rfl, rfl⟩

theorem noted_flight (m : Fjoek) (p : TagPost) :
    Noted m { m with seam := { m.seam with flight := m.seam.flight ++ [p] } } := by
  constructor <;> intros <;> first | rfl | exact ⟨[p], rfl⟩ | exact ⟨[], by simp⟩ | exact ⟨rfl, rfl⟩

/-! ## Tags, the twin log and the digest -/

theorem postTag_noted (m : Fjoek) (e t : Nat) : Noted m (m.postTag e t) := by
  unfold Fjoek.postTag
  split
  · exact Noted.refl m
  · exact noted_flight _ _

theorem postPrivate_noted (m : Fjoek) (e t : Nat) : Noted m (m.postPrivate e t) := noted_flight _ _

theorem logTwin_noted (m : Fjoek) (k t : Nat) (p : List Nat) : Noted m (m.logTwin k t p) := by
  unfold Fjoek.logTwin
  split
  · refine Noted.trans ?_ (noted_happen _ _ _)
    refine Noted.trans ?_ (noted_count _ _ _ (by decide) (by decide))
    refine Noted.trans ?_ (noted_count _ _ _ (by decide) (by decide))
    exact noted_twin m _ _ m.twin.own m.twin.held (Nat.le_succ _)
  · exact Noted.refl m

theorem output_noted (m : Fjoek) (o : OutMsg) : Noted m (m.output o) := by
  unfold Fjoek.output
  split
  · exact Noted.refl m
  · split
    · exact noted_twin m m.twin.nextSeq m.twin.log m.twin.own _ (Nat.le_refl _)
    · exact noted_send _ _

theorem digestAt_noted (m : Fjoek) (ep : Nat) (b : List Nat) : Noted m (m.digestAt ep b) := by
  unfold Fjoek.digestAt
  split
  · exact noted_twin m m.twin.nextSeq m.twin.log _ m.twin.held (Nat.le_refl _)
  · exact Noted.refl m

theorem digestItem_noted (m : Fjoek) (b : List Nat) : Noted m (m.digestItem b) := digestAt_noted _ _ _

/-! ## Attach interrupts and wakes -/

theorem setAttFn_noted (m : Fjoek) (f : Nat) (x : AttFn) : Noted m (m.setAttFn f x) :=
  noted_att m _ m.att.pba m.att.inta m.att.wakeLow

theorem intxUpdate_noted (m : Fjoek) : Noted m m.intxUpdate := by
  unfold Fjoek.intxUpdate
  simp only
  split
  · exact Noted.refl m
  · exact (noted_att m m.att.fns m.att.pba _ m.att.wakeLow).trans (output_noted _ _)

theorem attRaise_noted (m : Fjoek) (f v : Nat) : Noted m (m.attRaise f v) := by
  unfold Fjoek.attRaise
  simp only
  split
  · exact Noted.refl m
  · split
    · split
      · exact (digestItem_noted _ _).trans (output_noted _ _)
      · exact noted_att m m.att.fns _ m.att.inta m.att.wakeLow
    · split
      · exact (noted_setReg _ _ _ (by decide)).trans (intxUpdate_noted _)
      · exact noted_count _ _ _ (by decide) (by decide)

theorem attWake_noted (m : Fjoek) : Noted m m.attWake := by
  unfold Fjoek.attWake
  simp only
  split
  · exact noted_put _ _ _ (by decide)
  · split
    · exact (setAttFn_noted _ _ _).trans (noted_att _ _ _ _ true)
    · split
      · exact (setAttFn_noted _ _ _).trans (noted_send _ _)
      · exact Noted.refl m

/-! ## The event log -/

theorem mramByte_put (m : Fjoek) (a : Nat) (b : List Byte) (j : Nat) (h : ¬(a ≤ j ∧ j < a + b.length)) :
    (m.mramPut a b).mramByte j = m.mramByte j := by
  unfold Fjoek.mramPut
  split
  · rfl
  · unfold Fjoek.mramByte Fjoek.happen
    simp only [tableGet_writeBytes, if_neg h]

theorem mramPut_noted (m : Fjoek) (a : Nat) (b : List Byte) (h : 0x5000000 ≤ a) (h' : a + b.length ≤ 0x5200000) :
    Noted m (m.mramPut a b) := by
  have hm : ∀ j, ¬(0x5000000 ≤ j ∧ j < 0x5200000) → (m.mramPut a b).mramByte j = m.mramByte j := by
    intro j hj
    exact mramByte_put m a b j (by omega)
  unfold Fjoek.mramPut at *
  split
  · exact Noted.refl m
  · rename_i hc
    rw [if_neg hc] at hm
    constructor <;> intros <;> first | exact hm _ ‹_› | rfl | exact ⟨[], by simp [Fjoek.happen]⟩ | exact ⟨rfl, rfl⟩

@[simp] theorem bytesOf_length (n v : Nat) : (bytesOf n v).length = n := by
  induction n generalizing v with
  | zero => rfl
  | succ n ih => simp [bytesOf, ih]

theorem flatten_bytesOf_length (n : Nat) (l : List Nat) : ((l.map (bytesOf n)).flatten).length = n * l.length := by
  induction l with
  | nil => simp
  | cons x r ih => simp [ih, Nat.mul_add, Nat.add_comm]

theorem logStore_noted (m : Fjoek) (e status : Nat) (data : List Nat) (h : data.length ≤ 9) :
    Noted m (m.logStore e status data) := by
  unfold Fjoek.logStore
  simp only
  refine Noted.trans ?_ (noted_mgmt _ _ false)
  refine Noted.trans ?_ (noted_setReg64 _ _ _ (by decide) (by decide))
  apply mramPut_noted
  · omega
  · simp only [List.length_append, bytesOf_length, flatten_bytesOf_length]
    have : (m.reg64 MGMT_LOGSEQ_LO + 1) % 32768 < 32768 := Nat.mod_lt _ (by decide)
    omega

theorem logRecord_noted (m : Fjoek) (e status : Nat) (data : List Nat) (h : data.length ≤ 9) :
    Noted m (m.logRecord e status data) := by
  unfold Fjoek.logRecord
  split
  · exact logStore_noted _ _ _ _ h
  · exact (noted_mgmt _ _ true).trans (noted_put _ _ _ (by decide))
  · exact (noted_mgmt m (some _) m.mgmt.logGap).trans (logStore_noted _ _ _ _ h)

/-! ## Latches (R480, R481) -/

theorem deliver_noted (m : Fjoek) (e : Nat) : Noted m (m.deliver e) := by
  unfold Fjoek.deliver
  simp only
  refine Noted.trans ?_ (Noted.when _ _ (logTwin_noted _ _ _ _))
  refine Noted.trans ?_ (Noted.when _ _ (noted_send _ _))
  refine Noted.trans ?_ (Noted.when _ _ ((attRaise_noted _ _ _).trans (Noted.when _ _ (attWake_noted _))))
  refine Noted.trans ?_ (Noted.when _ _ (postTag_noted _ _ _))
  exact Noted.when _ _ (logRecord_noted _ _ _ _ (by simp))

theorem noting_pend (e : Nat) (h : e < 512) : noting (EVT_PEND (e / 32)) = true := by
  have h1 : 0x70040 ≤ 0x70040 + 0x4 * (e / 32) ∧ 0x70040 + 0x4 * (e / 32) < 0x70080 := by omega
  unfold noting
  simp only [Bool.or_eq_true, decide_eq_true_eq]
  exact .inl (.inl (.inl (.inl (.inl (.inl h1)))))

theorem noting_gcnt (j : Nat) (h : j < 32) : noting (PMON_GCNT_LO j) = true ∧ noting (PMON_GCNT_LO j + 4) = true := by
  have h1 : 0x80400 ≤ 0x80400 + 0x8 * j ∧ 0x80400 + 0x8 * j < 0x80500 := by omega
  have h2 : 0x80400 ≤ 0x80400 + 0x8 * j + 4 ∧ 0x80400 + 0x8 * j + 4 < 0x80500 := by omega
  unfold noting
  simp only [Bool.or_eq_true, decide_eq_true_eq]
  exact ⟨.inl (.inr h1), .inl (.inr h2)⟩

theorem latchBase_noted (m : Fjoek) (e : Nat) (h : e < 512) : Noted m (m.latchBase e) := by
  unfold Fjoek.latchBase
  simp only
  split
  · exact Noted.refl m
  · refine Noted.trans ?_ (Noted.when _ _ (deliver_noted _ _))
    exact (noted_setReg _ _ _ (noting_pend e h)).trans (noted_count _ _ _ (by decide) (by decide))

/-- A latch leaves no more than the delivery on its routes. -/
theorem latch_noted (m : Fjoek) (e : Nat) (h : e < 512) : Noted m (m.latch e) := by
  unfold Fjoek.latch
  simp only
  split
  · exact latchBase_noted _ _ h
  · refine (latchBase_noted m e h).trans (Noted.each _ _ ?_ _)
    intro j hj m
    apply Noted.when
    have hj' := noting_gcnt j (List.mem_range.1 hj)
    split
    · exact noted_setReg64 _ _ _ hj'.1 hj'.2
    · split
      · exact noted_setReg64 _ _ _ hj'.1 hj'.2
      · refine Noted.trans ?_ (latchBase_noted _ 502 (by decide))
        exact (noted_setReg64 _ _ _ hj'.1 hj'.2).trans (noted_put _ _ _ (show noting PMON_GOVF = true by decide))

/-- A cause sets its bit and latches its source, or finds the bit set and does nothing. -/
theorem cause_noted (m : Fjoek) (f : Fld) (e : Nat) (h : e < 512) :
    Noted (if m.isOn f then m else m.put f 1) (m.cause f e) := by
  unfold Fjoek.cause
  split
  · exact Noted.refl m
  · exact latch_noted _ _ h

theorem cause_new (m : Fjoek) (f : Fld) (e : Nat) (h : e < 512) (hf : m.isOn f = false) : Noted (m.put f 1) (m.cause f e) := by
  have := cause_noted m f e h
  rwa [hf] at this

/-- A cause whose register is one of those that latching writes. -/
theorem cause_noted_here (m : Fjoek) (f : Fld) (e : Nat) (h : e < 512) (hf : noting f.addr = true) : Noted m (m.cause f e) := by
  unfold Fjoek.cause
  split
  · exact Noted.refl m
  · exact (noted_put _ _ _ hf).trans (latch_noted _ _ h)

/-- A cause carries over what stands beside it: its bit is set, whether or not it was. -/
theorem Noted.cause {m n : Fjoek} (h : Noted m n) (f : Fld) (e : Nat) (he : e < 512) (hf : noting f.addr = false)
    (h1 : f.hi = f.lo) : Noted (m.put f 1) (n.cause f e) := by
  have h2 := h.put f 1 hf
  unfold Fjoek.cause
  split
  · rename_i hon
    refine h2.trans ?_
    have hr := Fjoek.reg_put_on n f hon h1
    constructor
    case reg => intros; exact (hr _).symm
    all_goals intros
    all_goals first | rfl | exact Nat.le_refl _ | exact ⟨[], by simp [Fjoek.put, Fjoek.setReg]⟩ | exact ⟨rfl, rfl⟩
  · exact h2.trans (latch_noted _ _ he)

/-! ## The end of a command -/

theorem bumpGlobal_noted (m : Fjoek) (j n : Nat) (hj : j < 32) : Noted m (m.bumpGlobal j n) := by
  have hj' := noting_gcnt j hj
  unfold Fjoek.bumpGlobal
  simp only
  split
  · exact noted_setReg64 _ _ _ hj'.1 hj'.2
  · exact (noted_setReg64 _ _ _ hj'.1 hj'.2).trans (cause_noted_here _ _ _ (by decide)
      (show noting PMON_GOVF = true by decide))

theorem perfGlobal_noted (m : Fjoek) (e n : Nat) : Noted m (m.perfGlobal e n) := by
  unfold Fjoek.perfGlobal
  simp only
  split
  · exact Noted.refl m
  · exact Noted.each _ _ (fun j hj m => Noted.when _ _ (bumpGlobal_noted m j n (List.mem_range.1 hj))) _

theorem flush_noted (m : Fjoek) : Noted m m.flush := by
  unfold Fjoek.flush
  simp only
  split
  · exact Noted.refl m
  · refine Noted.trans ?_ (noted_tally _ [])
    refine (noted_tally m []).trans ?_
    split
    · exact Noted.refl _
    · exact Noted.each _ _ (fun p _ m => perfGlobal_noted m p.1 p.2) _

@[simp] theorem flush_tally (m : Fjoek) : m.flush.tally = [] := by
  unfold Fjoek.flush
  simp only
  split
  · assumption
  · rfl

theorem Noted.unburnt {m n : Fjoek} (h : Noted m n) : Noted m.unburnt n.unburnt where
  reg := h.reg
  mram := h.mram
  out := h.out
  seam := h.seam
  flight := h.flight
  att := h.att
  twin := h.twin
  seq := h.seq
  mgmt := h.mgmt
  hearth := by unfold Fjoek.unburnt; rw [h.hearth]
  wide := h.wide
  snap := h.snap
  era := h.era
  hbm := h.hbm
  locks := h.locks
  poison := h.poison
  free := h.free
  mngl := h.mngl
  damp := h.damp
  pmon := h.pmon
  feed := h.feed
  bay := h.bay
  drv := h.drv
  lib := h.lib
  netp := h.netp
  swc := h.swc
  fwd := h.fwd
  xport := h.xport
  thim := h.thim

/-- What a command leaves: the module as its effect made it, with the latches and counts of its end. -/
theorem settle_noted (s : State) (m : Fjoek) : Noted m.unburnt (s.settle m).m := (flush_noted m).unburnt

theorem settle_fuses (s : State) (m : Fjoek) : (s.settle m).fuses = m.hearth.burn.foldl Fuses.burn s.fuses := by
  show (m.flush.hearth.burn).foldl Fuses.burn s.fuses = _
  rw [(flush_noted m).hearth]

/-- A command whose effect on the module is `m` but for latches and counts. -/
theorem does_of (c : Instr) (s : State) (m n : Fjoek) (h : exec c s = .next (s.settle n)) (hn : Noted m n) : Does c s m :=
  ⟨s.settle n, h, rfl, by rw [settle_fuses, hn.hearth], hn.unburnt.trans (settle_noted s n)⟩

end Sys2Proof.Machine
end

