-- ==== Sys2Proof/Laws/Footprint.lean ====
section
/-! SUPPORT. How footprints compose: each shared operation stays within its own, and what is within a footprint stays within it step by
step. -/

namespace Sys2Proof.Machine

theorem Noted.within {m n : Fjoek} (h : Noted m n) (ps : List Part) (ws : Option (List Nat)) : Within ps ws m n where
  rest :=
    { reg := fun _ _ => rfl
      mram := by
        intro a ha
        by_cases hp : Part.mram ∈ ps
        · simp only [Fjoek.mramByte, Fjoek.graft, if_pos hp]
        · have := h.mram a ha
          simpa only [Fjoek.mramByte, Fjoek.graft, if_neg hp] using this
      out := h.out
      seam := by
        by_cases hp : Part.seam ∈ ps
        · simp only [Fjoek.graft, if_pos hp]
        · simp only [Fjoek.graft, if_neg hp]; exact h.seam
      flight := by
        by_cases hp : Part.seam ∈ ps
        · simp only [Fjoek.graft, if_pos hp]; exact ⟨[], by simp⟩
        · simp only [Fjoek.graft, if_neg hp]; exact h.flight
      att := by
        by_cases hp : Part.att ∈ ps
        · simp only [Fjoek.graft, if_pos hp]
        · simp only [Fjoek.graft, if_neg hp]; exact h.att
      twin := by
        by_cases hp : Part.twin ∈ ps
        · simp only [Fjoek.graft, if_pos hp]
        · by_cases hq : Part.hbm ∈ ps
          · simp only [Fjoek.graft, if_neg hp, if_pos hq]; rw [h.twin]
          · simp only [Fjoek.graft, if_neg hp, if_neg hq]; exact h.twin
      seq := by
        by_cases hp : Part.twin ∈ ps
        · simp only [Fjoek.graft, if_pos hp]; exact Nat.le_refl _
        · by_cases hq : Part.hbm ∈ ps
          · simp only [Fjoek.graft, if_neg hp, if_pos hq]; exact h.seq
          · simp only [Fjoek.graft, if_neg hp, if_neg hq]; exact h.seq
      mgmt := by
        by_cases hp : Part.mgmt ∈ ps
        · simp only [Fjoek.graft, if_pos hp]
        · simp only [Fjoek.graft, if_neg hp]; exact h.mgmt
      hearth := by simp only [Fjoek.graft]; split <;> [rfl; exact h.hearth]
      wide := by simp only [Fjoek.graft]; split <;> [rfl; exact h.wide]
      snap := by simp only [Fjoek.graft]; split <;> [rfl; exact h.snap]
      era := h.era
      hbm := by simp only [Fjoek.graft]; split <;> [rfl; exact h.hbm]
      locks := by simp only [Fjoek.graft]; split <;> [rfl; exact h.locks]
      poison := by simp only [Fjoek.graft]; split <;> [exact ⟨rfl, rfl⟩; exact h.poison]
      free := by simp only [Fjoek.graft]; split <;> [rfl; exact h.free]
      mngl := by simp only [Fjoek.graft]; split <;> [rfl; exact h.mngl]
      damp := by simp only [Fjoek.graft]; split <;> [rfl; exact h.damp]
      pmon := by simp only [Fjoek.graft]; split <;> [rfl; exact h.pmon]
      feed := by simp only [Fjoek.graft]; split <;> [rfl; exact h.feed]
      bay := by simp only [Fjoek.graft]; split <;> [rfl; exact h.bay]
      drv := by simp only [Fjoek.graft]; split <;> [rfl; exact h.drv]
      lib := by simp only [Fjoek.graft]; split <;> [rfl; exact h.lib]
      netp := by simp only [Fjoek.graft]; split <;> [rfl; exact h.netp]
      swc := by simp only [Fjoek.graft]; split <;> [rfl; exact h.swc]
      fwd := by simp only [Fjoek.graft]; split <;> [rfl; exact h.fwd]
      xport := by simp only [Fjoek.graft]; split <;> [rfl; exact h.xport]
      thim := by simp only [Fjoek.graft]; split <;> [rfl; exact h.thim] }
  regs _ _ a ha _ := h.reg a ha

theorem Within.refl (ps : List Part) (ws : Option (List Nat)) (m : Fjoek) : Within ps ws m m := (Noted.refl m).within ps ws

/-- What is within a footprint from `a` to `b` and from `b` to `c` is within it from `a` to `c`. -/
theorem Within.trans {ps : List Part} {ws : Option (List Nat)} {a b c : Fjoek} (h : Within ps ws a b) (k : Within ps ws b c) :
    Within ps ws a c where
  regs l hl x hx hw := (k.regs l hl x hx hw).trans (h.regs l hl x hx hw)
  rest := by
    have h := h.rest
    have k := k.rest
    constructor
    case reg => intros; rfl
    case mram =>
      intro x hx
      by_cases hp : Part.mram ∈ ps
      · simp only [Fjoek.mramByte, Fjoek.graft, if_pos hp]
      · have h1 := h.mram x hx
        have k1 := k.mram x hx
        simp only [Fjoek.mramByte, Fjoek.graft, if_neg hp] at h1 k1 ⊢
        exact k1.trans h1
    case out =>
      obtain ⟨l, hl⟩ := h.out
      obtain ⟨r, hr⟩ := k.out
      exact ⟨l ++ r, by rw [hr]; show b.out ++ r = a.out ++ (l ++ r); rw [hl]; simp [Fjoek.graft]⟩
    case seam =>
      by_cases hp : Part.seam ∈ ps
      · simp only [Fjoek.graft, if_pos hp]
      · have h1 := h.seam
        have k1 := k.seam
        simp only [Fjoek.graft, if_neg hp] at h1 k1 ⊢
        rw [h1] at k1; exact k1
    case flight =>
      by_cases hp : Part.seam ∈ ps
      · simp only [Fjoek.graft, if_pos hp]; exact ⟨[], by simp⟩
      · obtain ⟨l, hl⟩ := h.flight
        obtain ⟨r, hr⟩ := k.flight
        simp only [Fjoek.graft, if_neg hp] at hl hr ⊢
        exact ⟨l ++ r, by rw [hr, hl, List.append_assoc]⟩
    case att =>
      by_cases hp : Part.att ∈ ps
      · simp only [Fjoek.graft, if_pos hp]
      · have h1 := h.att
        have k1 := k.att
        simp only [Fjoek.graft, if_neg hp] at h1 k1 ⊢
        rw [h1] at k1; exact k1
    case twin =>
      by_cases hp : Part.twin ∈ ps
      · simp only [Fjoek.graft, if_pos hp]
      · have h1 := h.twin
        have k1 := k.twin
        by_cases hq : Part.hbm ∈ ps
        · simp only [Fjoek.graft, if_neg hp, if_pos hq] at h1 k1 ⊢
          rw [h1] at k1; exact k1
        · simp only [Fjoek.graft, if_neg hp, if_neg hq] at h1 k1 ⊢
          rw [h1] at k1; exact k1
    case seq =>
      by_cases hp : Part.twin ∈ ps
      · simp only [Fjoek.graft, if_pos hp]; exact Nat.le_refl _
      · have h1 := h.seq
        have k1 := k.seq
        by_cases hq : Part.hbm ∈ ps
        · simp only [Fjoek.graft, if_neg hp, if_pos hq] at h1 k1 ⊢
          exact h1.trans k1
        · simp only [Fjoek.graft, if_neg hp, if_neg hq] at h1 k1 ⊢
          exact h1.trans k1
    case mgmt =>
      by_cases hp : Part.mgmt ∈ ps
      · simp only [Fjoek.graft, if_pos hp]
      · have h1 := h.mgmt
        have k1 := k.mgmt
        simp only [Fjoek.graft, if_neg hp] at h1 k1 ⊢
        rw [h1] at k1; exact k1
    case poison =>
      by_cases hp : Part.hbm ∈ ps
      · simp [Fjoek.graft, hp]
      · have h1 := h.poison
        have k1 := k.poison
        simp only [Fjoek.graft, if_neg hp] at h1 k1 ⊢
        exact ⟨k1.1.trans h1.1, k1.2.trans h1.2⟩
    case era => exact k.era.trans h.era
    case hearth => have h1 := h.hearth; have k1 := k.hearth; simp only [Fjoek.graft] at h1 k1 ⊢; split <;> simp_all
    case wide => have h1 := h.wide; have k1 := k.wide; simp only [Fjoek.graft] at h1 k1 ⊢; split <;> simp_all
    case snap => have h1 := h.snap; have k1 := k.snap; simp only [Fjoek.graft] at h1 k1 ⊢; split <;> simp_all
    case hbm => have h1 := h.hbm; have k1 := k.hbm; simp only [Fjoek.graft] at h1 k1 ⊢; split <;> simp_all
    case locks => have h1 := h.locks; have k1 := k.locks; simp only [Fjoek.graft] at h1 k1 ⊢; split <;> simp_all
    case free => have h1 := h.free; have k1 := k.free; simp only [Fjoek.graft] at h1 k1 ⊢; split <;> simp_all
    case mngl => have h1 := h.mngl; have k1 := k.mngl; simp only [Fjoek.graft] at h1 k1 ⊢; split <;> simp_all
    case damp => have h1 := h.damp; have k1 := k.damp; simp only [Fjoek.graft] at h1 k1 ⊢; split <;> simp_all
    case pmon => have h1 := h.pmon; have k1 := k.pmon; simp only [Fjoek.graft] at h1 k1 ⊢; split <;> simp_all
    case feed => have h1 := h.feed; have k1 := k.feed; simp only [Fjoek.graft] at h1 k1 ⊢; split <;> simp_all
    case bay => have h1 := h.bay; have k1 := k.bay; simp only [Fjoek.graft] at h1 k1 ⊢; split <;> simp_all
    case drv => have h1 := h.drv; have k1 := k.drv; simp only [Fjoek.graft] at h1 k1 ⊢; split <;> simp_all
    case lib => have h1 := h.lib; have k1 := k.lib; simp only [Fjoek.graft] at h1 k1 ⊢; split <;> simp_all
    case netp => have h1 := h.netp; have k1 := k.netp; simp only [Fjoek.graft] at h1 k1 ⊢; split <;> simp_all
    case swc => have h1 := h.swc; have k1 := k.swc; simp only [Fjoek.graft] at h1 k1 ⊢; split <;> simp_all
    case fwd => have h1 := h.fwd; have k1 := k.fwd; simp only [Fjoek.graft] at h1 k1 ⊢; split <;> simp_all
    case xport => have h1 := h.xport; have k1 := k.xport; simp only [Fjoek.graft] at h1 k1 ⊢; split <;> simp_all
    case thim => have h1 := h.thim; have k1 := k.thim; simp only [Fjoek.graft] at h1 k1 ⊢; split <;> simp_all

theorem Within.when {ps : List Part} {ws : Option (List Nat)} {m : Fjoek} (c : Bool) (f : Fjoek → Fjoek) (h : Within ps ws m (f m)) :
    Within ps ws m (m.when c f) := by
  unfold Fjoek.when
  split
  · exact h
  · exact Within.refl _ _ m

theorem Within.each {ps : List Part} {ws : Option (List Nat)} {α : Type} (l : List α) (f : α → Fjoek → Fjoek)
    (h : ∀ x ∈ l, ∀ m, Within ps ws m (f x m)) (m : Fjoek) : Within ps ws m (m.each l f) := by
  unfold Fjoek.each
  induction l generalizing m with
  | nil => exact Within.refl _ _ m
  | cons x r ih => exact (h x (List.mem_cons_self ..) m).trans (ih (fun y hy => h y (List.mem_cons_of_mem _ hy)) (f x m))

/-! ## Single steps -/

/-- A register of a window that the footprint names is written. -/
theorem within_setReg (ps : List Part) (ws : Option (List Nat)) (m : Fjoek) (a v : Nat)
    (h : ∀ l, ws = some l → a / 0x10000 ∈ l ∨ noting a = true) : Within ps ws m (m.setReg a v) where
  rest := { ((Noted.refl m).within ps ws).rest with reg := fun _ _ => rfl }
  regs l hl x hx hw := Fjoek.reg_setReg_ne _ _ (by
    rintro rfl
    rcases h l hl with h | h
    · exact hw h
    · rw [h] at hx; cases hx)

theorem within_put (ps : List Part) (ws : Option (List Nat)) (m : Fjoek) (f : Fld) (v : Nat)
    (h : ∀ l, ws = some l → f.addr / 0x10000 ∈ l ∨ noting f.addr = true) : Within ps ws m (m.put f v) := within_setReg _ _ _ _ _ h

theorem within_setReg64 (ps : List Part) (ws : Option (List Nat)) (m : Fjoek) (a v : Nat)
    (h : ∀ l, ws = some l → a / 0x10000 ∈ l ∨ noting a = true)
    (h' : ∀ l, ws = some l → (a + 4) / 0x10000 ∈ l ∨ noting (a + 4) = true) : Within ps ws m (m.setReg64 a v) :=
  (within_setReg ps ws m a _ h).trans (within_setReg ps ws _ (a + 4) _ h')

theorem within_count (ps : List Part) (ws : Option (List Nat)) (m : Fjoek) (a v : Nat)
    (h : ∀ l, ws = some l → a / 0x10000 ∈ l ∨ noting a = true)
    (h' : ∀ l, ws = some l → (a + 4) / 0x10000 ∈ l ∨ noting (a + 4) = true) : Within ps ws m (m.count a v) :=
  within_setReg64 ps ws m a _ h h'

theorem within_bump (ps : List Part) (ws : Option (List Nat)) (m : Fjoek) (f : Fld) (v : Nat)
    (h : ∀ l, ws = some l → f.addr / 0x10000 ∈ l ∨ noting f.addr = true) : Within ps ws m (m.bump f v) := within_put ps ws m f _ h

theorem within_cause (ps : List Part) (ws : Option (List Nat)) (m : Fjoek) (f : Fld) (e : Nat) (he : e < 512)
    (h : ∀ l, ws = some l → f.addr / 0x10000 ∈ l ∨ noting f.addr = true) : Within ps ws m (m.cause f e) := by
  unfold Fjoek.cause
  split
  · exact Within.refl _ _ m
  · exact (within_put ps ws m f 1 h).trans ((latch_noted _ e he).within ps ws)

/-- A footprint without the Hearth's own state does not see the burns that the Hearth has to make. -/
theorem Within.unburnt {ps : List Part} {ws : Option (List Nat)} {m n : Fjoek} (h : Within ps ws m n) (hp : Part.hearth ∉ ps) :
    Within ps ws m.unburnt n.unburnt where
  rest := by
    have hh := h.rest.hearth
    simp only [Fjoek.graft, if_neg hp] at hh
    exact { h.rest with hearth := by simp only [Fjoek.graft, if_neg hp, Fjoek.unburnt]; rw [hh] }
  regs := h.regs

/-- The effect of a command that completes stays within a footprint, and so does the command. -/
theorem within_on (ps : List Part) (ws : Option (List Nat)) (s : State) (n : Fjoek) (h : Within ps ws s.m.unburnt n.unburnt) :
    Within ps ws s.m.unburnt (s.settle n).m := h.trans ((settle_noted s n).within ps ws)

end Sys2Proof.Machine
end

