-- ==== Sys2Proof/Laws/Issue.lean ====
section
/-! SUPPORT. What counting and sampling an instruction can do, and what the issue of an instruction does: the lemmas that statements
about Seam instructions rest on. -/

namespace Sys2Proof.Machine

theorem noting_base : noting PMON_SBASE_base.addr = false := by decide

theorem Noted.sampled {m n : Fjoek} (h : Noted m n) : Sampled m n where
  reg a ha _ := h.reg a ha
  mram := h.mram
  hbm a _ := by rw [h.hbm]
  marks u _ := by
    unfold Fjoek.unitMarks Fjoek.hbmOpenBad
    rw [h.poison.1, h.poison.2, h.hbm, h.era, h.twin]
  absent k _ := by rw [h.twin]
  base := h.get _ noting_base
  flight := h.flight
  out := h.out
  seam := by rw [h.seam]
  att := h.att
  twin := by rw [h.twin]
  seq := h.seq
  mgmt := h.mgmt
  hearth := h.hearth
  wide := h.wide
  snap := h.snap
  era := h.era
  locks := h.locks
  free := h.free
  mngl := h.mngl
  damp := h.damp
  feed := h.feed
  bay := h.bay
  drv := h.drv
  lib := h.lib
  netp := h.netp
  swc := h.swc
  fwd := h.fwd
  xport := h.xport
  thim := h.thim

theorem Sampled.refl (m : Fjoek) : Sampled m m := (Noted.refl m).sampled

theorem Sampled.trans {a b c : Fjoek} (h : Sampled a b) (k : Sampled b c) : Sampled a c where
  reg x hx hy := (k.reg x hx hy).trans (h.reg x hx hy)
  mram x hx := (k.mram x hx).trans (h.mram x hx)
  hbm x hx := (k.hbm x (by rw [h.base]; exact hx)).trans (h.hbm x hx)
  marks u hu := (k.marks u (by rw [h.base]; exact hu)).trans (h.marks u hu)
  absent x hx := (k.absent x hx).trans (h.absent x hx)
  base := k.base.trans h.base
  flight := by
    obtain ⟨l, hl⟩ := h.flight
    obtain ⟨r, hr⟩ := k.flight
    exact ⟨l ++ r, by rw [hr, hl, List.append_assoc]⟩
  out := by
    obtain ⟨l, hl⟩ := h.out
    obtain ⟨r, hr⟩ := k.out
    exact ⟨l ++ r, by rw [hr, hl, List.append_assoc]⟩
  seam := by have := k.seam; rw [h.seam] at this; exact this
  att := by have := k.att; rw [h.att] at this; exact this
  twin := by have := k.twin; rw [h.twin] at this; exact this
  seq := h.seq.trans k.seq
  mgmt := by have := k.mgmt; rw [h.mgmt] at this; exact this
  hearth := k.hearth.trans h.hearth
  wide := k.wide.trans h.wide
  snap := k.snap.trans h.snap
  era := k.era.trans h.era
  locks := k.locks.trans h.locks
  free := k.free.trans h.free
  mngl := k.mngl.trans h.mngl
  damp := k.damp.trans h.damp
  feed := k.feed.trans h.feed
  bay := k.bay.trans h.bay
  drv := k.drv.trans h.drv
  lib := k.lib.trans h.lib
  netp := k.netp.trans h.netp
  swc := k.swc.trans h.swc
  fwd := k.fwd.trans h.fwd
  xport := k.xport.trans h.xport
  thim := k.thim.trans h.thim

theorem Sampled.strand {m n : Fjoek} (h : Sampled m n) (k : Nat) : n.strand k = m.strand k := by
  unfold Fjoek.strand; rw [h.seam]

theorem Sampled.get {m n : Fjoek} (h : Sampled m n) (f : Fld) (hf : noting f.addr = false)
    (hp : ¬(0x80000 ≤ f.addr ∧ f.addr < 0x90000)) : n.get f = m.get f := by
  unfold Fjoek.get; rw [h.reg _ hf hp]

theorem Sampled.isOn {m n : Fjoek} (h : Sampled m n) (f : Fld) (hf : noting f.addr = false)
    (hp : ¬(0x80000 ≤ f.addr ∧ f.addr < 0x90000)) : n.isOn f = m.isOn f := by
  unfold Fjoek.isOn; rw [h.get _ hf hp]

theorem Sampled.when {m : Fjoek} (c : Bool) (f : Fjoek → Fjoek) (h : Sampled m (f m)) : Sampled m (m.when c f) := by
  unfold Fjoek.when
  split
  · exact h
  · exact Sampled.refl m

theorem Sampled.each {α : Type} (l : List α) (f : α → Fjoek → Fjoek) (h : ∀ x ∈ l, ∀ m, Sampled m (f x m)) (m : Fjoek) :
    Sampled m (m.each l f) := by
  unfold Fjoek.each
  induction l generalizing m with
  | nil => exact Sampled.refl m
  | cons x r ih =>
    exact (h x (List.mem_cons_self ..) m).trans (ih (fun y hy => h y (List.mem_cons_of_mem _ hy)) (f x m))

theorem Sampled.setReg {m n : Fjoek} (h : Sampled m n) (a v : Nat) (ha : a ≠ PMON_SBASE_base.addr) :
    Sampled (m.setReg a v) (n.setReg a v) := by
  have hb : (n.setReg a v).get PMON_SBASE_base = (m.setReg a v).get PMON_SBASE_base := by
    have := h.base
    unfold Fjoek.get at *
    rw [Fjoek.reg_setReg, Fjoek.reg_setReg]
    split
    · rfl
    · exact this
  have hg : (m.setReg a v).get PMON_SBASE_base = m.get PMON_SBASE_base := by
    apply Fjoek.get_setReg_ne
    exact fun he => ha he.symm
  exact { h with
    hbm := fun x hx => h.hbm x (by rw [hg] at hx; exact hx)
    marks := fun x hx => h.marks x (by rw [hg] at hx; exact hx)
    base := hb
    reg := by
      intro x hx hp
      rw [Fjoek.reg_setReg, Fjoek.reg_setReg]
      split
      · rfl
      · exact h.reg x hx hp }

theorem Sampled.put {m n : Fjoek} (h : Sampled m n) (f : Fld) (v : Nat) (hf : noting f.addr = false)
    (hp : ¬(0x80000 ≤ f.addr ∧ f.addr < 0x90000)) : Sampled (m.put f v) (n.put f v) := by
  unfold Fjoek.put
  rw [h.reg _ hf hp]
  apply h.setReg
  intro he
  rw [he] at hp
  exact hp (by decide)

theorem Sampled.reg64 {m n : Fjoek} (h : Sampled m n) (a : Nat) (ha : noting a = false) (hb : noting (a + 4) = false)
    (hp : ¬(0x7FFFC ≤ a ∧ a < 0x90000)) : n.reg64 a = m.reg64 a := by
  unfold Fjoek.reg64; rw [h.reg _ ha (by omega), h.reg _ hb (by omega)]

theorem Sampled.count {m n : Fjoek} (h : Sampled m n) (a v : Nat) (ha : noting a = false) (hb : noting (a + 4) = false)
    (hp : ¬(0x7FFFC ≤ a ∧ a < 0x90000)) : Sampled (m.count a v) (n.count a v) := by
  unfold Fjoek.count Fjoek.setReg64
  rw [h.reg64 _ ha hb hp]
  have h1 : a ≠ PMON_SBASE_base.addr := by rintro rfl; exact hp (by decide)
  have h2 : a + 4 ≠ PMON_SBASE_base.addr := by
    show a + 4 ≠ 0x80008
    omega
  exact (h.setReg _ _ h1).setReg _ _ h2

/-! ## Counters and samples -/

/-- A register of PMON other than the sample base may change. -/
theorem sampled_setReg (m : Fjoek) (a v : Nat) (h : 0x80000 ≤ a ∧ a < 0x90000) (hb : a ≠ 0x80008) :
    Sampled m (m.setReg a v) := by
  have hr : ∀ x, ¬(0x80000 ≤ x ∧ x < 0x90000) → (m.setReg a v).reg x = m.reg x := by
    intro x hx
    apply Fjoek.reg_setReg_ne
    rintro rfl
    exact hx h
  have hs : (m.setReg a v).get PMON_SBASE_base = m.get PMON_SBASE_base := by
    apply Fjoek.get_setReg_ne
    exact fun he => hb he.symm
  constructor <;> intros <;> first | exact hr _ ‹_› | rfl | exact hs | exact ⟨[], by simp [Fjoek.setReg]⟩

theorem sampled_put (m : Fjoek) (f : Fld) (v : Nat) (h : 0x80000 ≤ f.addr ∧ f.addr < 0x90000) (hb : f.addr ≠ 0x80008) :
    Sampled m (m.put f v) := sampled_setReg _ _ _ h hb

theorem sampled_setReg64 (m : Fjoek) (a v : Nat) (h : 0x80000 ≤ a ∧ a + 4 < 0x90000) (hb : a ≠ 0x80008) (hc : a ≠ 0x80004) :
    Sampled m (m.setReg64 a v) :=
  (sampled_setReg _ _ _ (by omega) hb).trans (sampled_setReg _ _ _ (by omega) (by omega))

theorem sampled_cause (m : Fjoek) (f : Fld) (e : Nat) (he : e < 512) (h : 0x80000 ≤ f.addr ∧ f.addr < 0x90000)
    (hb : f.addr ≠ 0x80008) : Sampled m (m.cause f e) := by
  unfold Fjoek.cause
  split
  · exact Sampled.refl m
  · exact (sampled_put _ _ _ h hb).trans (latch_noted _ _ he).sampled

theorem sampled_pmon (m : Fjoek) (x : Pmon) : Sampled m { m with pmon := x } := by
  constructor <;> intros <;> first | rfl | exact ⟨[], by simp⟩

theorem inAperture_store (m : Fjoek) (a : Nat) (b : List Byte) (x k : Nat) :
    (m.hbmStore a b).inAperture x k = m.inAperture x k := rfl

/-- A range is under the aperture where it touches it, byte for byte. -/
theorem inAperture_byte (m : Fjoek) (a n j : Nat) (h : m.inAperture a n = false) (hj : a ≤ j ∧ j < a + n) :
    m.inAperture j 1 = false := by
  unfold Fjoek.inAperture at *
  simp only [Bool.and_eq_false_iff, decide_eq_false_iff_not] at *
  refine h.imp_right fun h => ?_
  omega

theorem tableFind_listBytes (t : Table Byte) (a : Nat) (b : List Byte) (j : Nat) :
    tableFind (listBytes t a b) j = if a ≤ j ∧ j < a + b.length then some (b.getD (j - a) 0) else tableFind t j := by
  induction b generalizing t a with
  | nil => simp only [listBytes, List.length_nil]; split <;> [omega; rfl]
  | cons x r ih =>
    simp only [listBytes, ih, tableFind_insert, List.length_cons]
    by_cases h : j = a
    · subst h; simp
    · by_cases h1 : a + 1 ≤ j ∧ j < a + 1 + r.length
      · have h2 : a ≤ j ∧ j < a + (r.length + 1) := by omega
        have h3 : j - a = (j - (a + 1)) + 1 := by omega
        rw [if_pos h1, if_pos h2, h3, List.getD_cons_succ]
      · have h2 : ¬(a ≤ j ∧ j < a + (r.length + 1)) := by omega
        rw [if_neg h1, if_neg h2, if_neg h]

/-- What a write of HBM leaves listed at a location. -/
theorem hbmFind_store (m : Fjoek) (a : Nat) (b : List Byte) (j : Nat) : tableFind (m.hbmStore a b).hbm j =
    if a ≤ j ∧ j < a + b.length then some (b.getD (j - a) 0) else tableFind m.hbm j := tableFind_listBytes m.hbm a b j

theorem Sampled.hbmCell {m n : Fjoek} (h : Sampled m n) (a : Nat)
    (ha : ¬(m.get PMON_SBASE_base * 2 ^ 20 ≤ a ∧ a < m.get PMON_SBASE_base * 2 ^ 20 + 2 ^ 20)) : n.hbmCell a = m.hbmCell a := by
  unfold Fjoek.hbmCell tableGet
  rw [h.hbm a ha, h.era]

theorem hbmCell_store (m : Fjoek) (a : Nat) (b : List Byte) (j : Nat) :
    (m.hbmStore a b).hbmCell j = if a ≤ j ∧ j < a + b.length then b.getD (j - a) 0 else m.hbmCell j := by
  unfold Fjoek.hbmStore Fjoek.hbmCell Fjoek.happen
  simp only [tableGet_listBytes]

/-- What a write of HBM leaves in a location: what is written where it reaches the location, unless that is under the aperture. -/
theorem hbmCell_put (m : Fjoek) (a : Nat) (b : List Byte) (j : Nat) : (m.hbmPut a b).hbmCell j =
    if (a ≤ j ∧ j < a + b.length) ∧ m.inAperture j 1 = false then b.getD (j - a) 0 else m.hbmCell j := by
  unfold Fjoek.hbmPut
  split
  · rename_i hn
    rw [hbmCell_store]
    refine if_congr ⟨fun h => ⟨h, inAperture_byte m a _ j (by simpa using hn) h⟩, And.left⟩ rfl rfl
  · rename_i hn
    simp only [Fjoek.inAperture, Bool.not_eq_true', Bool.not_eq_false, Bool.and_eq_true, decide_eq_true_eq] at hn
    obtain ⟨hp, h1, h2⟩ := hn
    simp only [hbmCell_store, Fjoek.inAperture, hp, Bool.true_and, decide_eq_false_iff_not, List.length_take, List.length_drop,
      List.getD_eq_getElem?_getD, List.getElem?_drop, List.getElem?_take]
    rw [Nat.succ_mul] at *
    have hd : 0 < 2 ^ 27 := by decide
    revert h1 h2 hd
    generalize m.get STRP_APBASE_base * 2 ^ 27 = c
    generalize 2 ^ 27 = d
    intro h1 h2 hd
    split_ifs <;> first | rfl | omega | (congr 2; omega)

theorem hbmByte_put (m : Fjoek) (a : Nat) (b : List Byte) (j : Nat) : (m.hbmPut a b).hbmByte j =
    if (a ≤ j ∧ j < a + b.length) ∧ m.inAperture j 1 = false then b.getD (j - a) 0 else m.hbmByte j := by
  have h : (m.hbmPut a b).inAperture j 1 = m.inAperture j 1 := by
    unfold Fjoek.hbmPut
    split
    · exact inAperture_store m a b j 1
    · exact (inAperture_store _ _ _ j 1).trans (inAperture_store m _ _ j 1)
  unfold Fjoek.hbmByte
  rw [h, hbmCell_put]
  cases m.inAperture j 1 <;> simp

theorem tableGet_filter {α : Type} (d : Nat → α) (t : Table α) (p : Nat → Bool) (j : Nat) (h : p j = true) :
    tableGet d (t.filter fun e => p e.1) j = tableGet d t j := by
  unfold tableGet
  rw [tableFind_filter, if_pos h]

theorem mem_unitsTouched (a n u : Nat) (h : u ∈ unitsTouched a n) : 0 < n ∧ a / 64 ≤ u ∧ u ≤ (a + n - 1) / 64 := by
  unfold unitsTouched at h
  split at h
  · simp at h
  · simp only [List.mem_map, List.mem_range] at h
    obtain ⟨i, hi, rfl⟩ := h
    have : a / 64 ≤ (a + n - 1) / 64 := Nat.div_le_div_right (by omega)
    omega

theorem mem_unitsWhole (a n u : Nat) (h : u ∈ unitsWhole a n) : a ≤ 64 * u ∧ 64 * u + 64 ≤ a + n := by
  unfold unitsWhole at h
  simp only [List.mem_filterMap, List.mem_range] at h
  obtain ⟨i, _, hi⟩ := h
  split at hi
  · injection hi with hi
    have : a ≤ 64 * ceilDiv a 64 := by unfold ceilDiv; omega
    omega
  · cases hi

theorem foldl_set_ne (t : Table Word64) (l : List Nat) (f : Table Word64 → Nat → Word64) (u : Nat) (h : ¬ u ∈ l) :
    tableGet (fun _ => 0) (l.foldl (fun t v => tableSet (fun _ => 0) t (id v) (f t v)) t) u = tableGet (fun _ => 0) t u := by
  induction l generalizing t with
  | nil => rfl
  | cons v r ih =>
    simp only [List.mem_cons, not_or] at h
    rw [List.foldl_cons, ih _ h.2]
    exact tableGet_set_ne _ _ _ h.1

/-- Marks of a unit that a write does not touch stay. -/
theorem rewriteUnits_ne (t : Table Word64) (a n u : Nat) (h : ¬ u ∈ unitsTouched a n) :
    tableGet (fun _ => 0) (rewriteUnits t id a n) u = tableGet (fun _ => 0) t u := by
  unfold rewriteUnits
  split
  · rfl
  · exact foldl_set_ne _ _ _ _ h

theorem tableHas_listBytes (t : Table Byte) (a : Nat) (b : List Byte) (j : Nat) (h : ¬(a ≤ j ∧ j < a + b.length)) :
    tableHas (listBytes t a b) j = tableHas t j := by
  induction b generalizing t a with
  | nil => rfl
  | cons x r ih =>
    simp only [List.length_cons] at h
    unfold listBytes
    rw [ih _ _ (by omega)]
    unfold tableHas
    rw [tableFind_insert, if_neg (by omega)]

/-- What a write of HBM leaves of a unit that it does not touch. -/
theorem unitMarks_store (m : Fjoek) (a : Nat) (b : List Byte) (u : Nat)
    (h : ¬(0 < b.length ∧ a < 64 * u + 64 ∧ 64 * u < a + b.length)) :
    (m.hbmStore a b).unitMarks u = m.unitMarks u := by
  have h1 : ¬ u ∈ unitsTouched a b.length := by
    intro hu
    have := mem_unitsTouched _ _ _ hu
    omega
  have h2 : ((fun e => !(unitsWhole (2 ^ 35 + a) b.length).contains e : Nat → Bool) (2 ^ 29 + u)) = true := by
    rw [Bool.not_eq_true', Bool.eq_false_iff]
    intro hc
    have := mem_unitsWhole _ _ _ (List.contains_iff_mem.1 hc)
    omega
  have h3 : (m.hbmStore a b).hbmOpenBad u = m.hbmOpenBad u := by
    unfold Fjoek.hbmStore Fjoek.hbmOpenBad Fjoek.happen
    simp only
    congr 2
    rw [Bool.eq_iff_iff]
    simp only [List.all_eq_true, List.mem_range]
    constructor <;> intro hx i hi
    · rw [← hx i hi, tableHas_listBytes _ _ _ _ (by omega)]
    · rw [tableHas_listBytes _ _ _ _ (by omega)]
      exact hx i hi
  unfold Fjoek.unitMarks
  rw [h3]
  unfold Fjoek.hbmStore Fjoek.happen clearUnits
  simp only
  rw [rewriteUnits_ne _ _ _ _ h1, rewriteUnits_ne _ _ _ _ h1,
    tableGet_filter (fun _ => false) m.twin.absent (fun e => !(unitsWhole (2 ^ 35 + a) b.length).contains e) _ h2]

theorem absent_store (m : Fjoek) (a : Nat) (b : List Byte) (k : Nat) (h : k < 2 ^ 29) :
    tableGet (fun _ => false) (m.hbmStore a b).twin.absent k = tableGet (fun _ => false) m.twin.absent k := by
  have h2 : ((fun e => !(unitsWhole (2 ^ 35 + a) b.length).contains e : Nat → Bool) k) = true := by
    rw [Bool.not_eq_true', Bool.eq_false_iff]
    intro hc
    have := mem_unitsWhole _ _ _ (List.contains_iff_mem.1 hc)
    omega
  unfold Fjoek.hbmStore Fjoek.happen clearUnits
  simp only
  exact tableGet_filter (fun _ => false) m.twin.absent (fun e => !(unitsWhole (2 ^ 35 + a) b.length).contains e) _ h2

theorem sampled_hbmStore (m : Fjoek) (a : Nat) (b : List Byte)
    (h : b ≠ [] → m.get PMON_SBASE_base * 2 ^ 20 ≤ a ∧ a + b.length ≤ m.get PMON_SBASE_base * 2 ^ 20 + 2 ^ 20) :
    Sampled m (m.hbmStore a b) := by
  have hb : 0 < b.length → b ≠ [] := List.length_pos_iff.1
  constructor
  case hbm =>
    intro j hj
    rw [hbmFind_store, if_neg]
    intro hx
    have := h (hb (by omega))
    omega
  case marks =>
    intro u hu
    refine unitMarks_store _ _ _ _ ?_
    rintro ⟨hx, hy⟩
    have := h (hb hx)
    omega
  case absent => exact absent_store m a b
  all_goals intros
  all_goals first | rfl | exact ⟨[], by simp [Fjoek.hbmStore, Fjoek.happen]⟩

/-- A write of HBM within the sample rings. -/
theorem sampled_hbmWrite (m : Fjoek) (a : Nat) (b : List Byte) (h : m.get PMON_SBASE_base * 2 ^ 20 ≤ a)
    (h' : a + b.length ≤ m.get PMON_SBASE_base * 2 ^ 20 + 2 ^ 20) : Sampled m (m.hbmWrite a b) := by
  unfold Fjoek.hbmWrite
  split
  · exact Sampled.refl m
  · unfold Fjoek.hbmPut
    split
    · exact sampled_hbmStore m a b fun _ => ⟨h, h'⟩
    · refine (sampled_hbmStore m _ _ fun _ => ?_).trans (sampled_hbmStore _ _ _ fun hx => ?_)
      · rw [List.length_take]; omega
      · have hl := List.length_pos_iff.2 hx
        rw [List.length_drop] at hl ⊢
        have hg : ∀ c : List Byte, (m.hbmStore a c).get PMON_SBASE_base = m.get PMON_SBASE_base := fun _ => rfl
        rw [hg]
        rename_i hn
        simp only [Fjoek.inAperture, Bool.not_eq_true', Bool.not_eq_false, Bool.and_eq_true, decide_eq_true_eq] at hn
        omega

theorem writeSample_sampled (m : Fjoek) (e c ev s pc gen : Nat) (sk ni : Bool) (he : e < 64) :
    Sampled m (m.writeSample e c ev s pc gen sk ni) := by
  unfold Fjoek.writeSample
  simp only
  split
  · exact Sampled.refl m
  · split
    · refine Sampled.trans ?_ (sampled_cause _ _ _ (by decide) (by decide) (by decide))
      exact sampled_put _ _ _ (by decide) (by decide)
    · refine Sampled.trans ?_ (Sampled.when _ _ (sampled_cause _ _ _ (by decide) (by decide) (by decide)))
      refine Sampled.trans ?_ (sampled_put _ _ _ ?_ ?_)
      · apply sampled_hbmWrite
        · omega
        · have : m.get (PMON_SPI_pi e) % 512 < 512 := Nat.mod_lt _ (by decide)
          simp only [List.length_append, bytesOf_length]
          omega
      · show 0x80000 ≤ 0x81090 + 0x100 * e ∧ 0x81090 + 0x100 * e < 0x90000
        omega
      · show 0x81090 + 0x100 * e ≠ 0x80008
        omega

theorem bumpEngine_sampled (m : Fjoek) (e k ev : Nat) (b : Option (Nat × Nat × Nat)) (he : e < 64) (hk : k < 9) :
    Sampled m (m.bumpEngine e k ev b) := by
  have h1 : 0x80000 ≤ PMON_ECYC_LO e + 8 * k ∧ PMON_ECYC_LO e + 8 * k + 4 < 0x90000 := by
    show 0x80000 ≤ 0x81040 + 0x100 * e + 8 * k ∧ 0x81040 + 0x100 * e + 8 * k + 4 < 0x90000
    omega
  have h2 : PMON_ECYC_LO e + 8 * k ≠ 0x80008 ∧ PMON_ECYC_LO e + 8 * k ≠ 0x80004 := by
    show 0x81040 + 0x100 * e + 8 * k ≠ 0x80008 ∧ 0x81040 + 0x100 * e + 8 * k ≠ 0x80004
    omega
  have h3 : 0x80000 ≤ PMON_ESTAT e ∧ PMON_ESTAT e < 0x90000 ∧ PMON_ESTAT e ≠ 0x80008 := by
    show 0x80000 ≤ 0x81004 + 0x100 * e ∧ 0x81004 + 0x100 * e < 0x90000 ∧ 0x81004 + 0x100 * e ≠ 0x80008
    omega
  unfold Fjoek.bumpEngine
  simp only
  split
  · exact sampled_setReg64 _ _ _ h1 h2.1 h2.2
  · refine (sampled_setReg64 m _ 0 h1 h2.1 h2.2).trans ?_
    refine (sampled_cause _ ⟨PMON_ESTAT e, k, k⟩ 501 (by decide) ⟨h3.1, h3.2.1⟩ h3.2.2).trans ?_
    split
    · split
      · exact writeSample_sampled _ _ _ _ _ _ _ _ _ he
      · exact sampled_pmon _ _
    · exact Sampled.refl _

theorem perfEngine_sampled (m : Fjoek) (e s ev : Nat) (b : Option (Nat × Nat × Nat)) (he : e < 64) :
    Sampled m (m.perfEngine e s ev b) := by
  unfold Fjoek.perfEngine
  simp only
  split
  · exact Sampled.refl m
  · refine Sampled.each _ _ (fun k hk m => Sampled.when _ _ (bumpEngine_sampled m e k ev b he ?_)) _
    simp only [List.mem_cons, List.not_mem_nil, or_false] at hk
    omega

/-- One happening of an engine, counted by its counters and the global ones. -/
theorem perf_sampled (m : Fjoek) (e s ev : Nat) (b : Option (Nat × Nat × Nat)) (he : e < 64) :
    Sampled m (m.perf e s ev b) := by
  unfold Fjoek.perf
  split
  · exact Sampled.refl m
  · exact (perfEngine_sampled m e s ev b he).trans (perfGlobal_noted _ _ _).sampled

theorem skidSamples_sampled (m : Fjoek) (e s pc gen : Nat) (he : e < 64) : Sampled m (m.skidSamples e s pc gen) := by
  unfold Fjoek.skidSamples
  simp only
  split
  · exact Sampled.refl m
  · exact (sampled_pmon m _).trans (Sampled.each _ _ (fun k _ m => writeSample_sampled m e k _ s pc gen _ _ he) _)

/-! ## Issue -/

theorem sampled_scan (m : Fjoek) (a b c : Table Nat) :
    Sampled m { m with seam := { m.seam with last := a, offered := b, rounds := c } } := by
  constructor <;> intros <;> first | rfl | exact ⟨[], by simp⟩

theorem roundTaken_sampled (m : Fjoek) (k : Nat) : Sampled m (m.roundTaken k) := by
  unfold Fjoek.roundTaken
  split
  · exact Sampled.refl m
  · exact sampled_scan m m.seam.last _ _

/-- What every issued instruction does beside its own effect. -/
theorem issued_sampled (m : Fjoek) (k : Nat) (b : Bool) (hk : k < 512) : Sampled m (m.issued k b) := by
  have he : k / 8 < 64 := by omega
  unfold Fjoek.issued
  simp only
  refine Sampled.trans ?_ (roundTaken_sampled _ _)
  refine Sampled.trans ?_ (perf_sampled _ _ _ _ _ he)
  refine Sampled.trans ?_ (perf_sampled _ _ _ _ _ he)
  refine Sampled.trans ?_ (perf_sampled _ _ _ _ _ he)
  refine Sampled.trans ?_ (perf_sampled _ _ _ _ _ he)
  refine Sampled.trans ?_ (skidSamples_sampled _ _ _ _ _ he)
  exact sampled_scan m _ m.seam.offered m.seam.rounds

theorem issueKey_lt (i : Issue) : issueKey i < 512 := by
  unfold issueKey
  have := i.e.isLt
  have := i.s.isLt
  omega

theorem issueKey_div (i : Issue) : issueKey i / 8 = i.e.val := by
  unfold issueKey
  have := i.s.isLt
  omega

theorem issueKey_mod (i : Issue) : issueKey i % 8 = i.s.val := by
  unfold issueKey
  have := i.s.isLt
  omega

/-- A write of one strand carries over what stands beside it. -/
theorem Sampled.setStrand {m n : Fjoek} (h : Sampled m n) (k : Nat) (x : Strand) :
    Sampled (m.setStrand k x) (n.setStrand k x) where
  reg := h.reg
  mram := h.mram
  hbm := h.hbm
  marks := h.marks
  absent := h.absent
  base := h.base
  flight := h.flight
  out := h.out
  seam := by unfold Fjoek.setStrand; rw [h.seam]
  att := h.att
  twin := h.twin
  seq := h.seq
  mgmt := h.mgmt
  hearth := h.hearth
  wide := h.wide
  snap := h.snap
  era := h.era
  locks := h.locks
  free := h.free
  mngl := h.mngl
  damp := h.damp
  feed := h.feed
  bay := h.bay
  drv := h.drv
  lib := h.lib
  netp := h.netp
  swc := h.swc
  fwd := h.fwd
  xport := h.xport
  thim := h.thim

theorem setStrand_setStrand (m : Fjoek) (k : Nat) (x y : Strand) (h : x.mode ≠ .idle) :
    (m.setStrand k x).setStrand k y = m.setStrand k y := by
  have hx : x ≠ strandReset k := fun he => h (by rw [he]; rfl)
  unfold Fjoek.setStrand
  simp only [tableSet_set strandReset _ _ _ _ hx]

@[simp] theorem strand_setStrand (m : Fjoek) (k : Nat) (x : Strand) : (m.setStrand k x).strand k = x := by
  unfold Fjoek.setStrand Fjoek.strand
  exact tableGet_set_same _ _ _ _

theorem strand_setStrand_ne (m : Fjoek) {j k : Nat} (x : Strand) (h : j ≠ k) : (m.setStrand k x).strand j = m.strand j := by
  unfold Fjoek.setStrand Fjoek.strand
  exact tableGet_set_ne _ _ _ h

theorem canIssue_mode (m : Fjoek) (k : Nat) (h : m.canIssue k = true) : (m.strand k).mode = .ready := by
  unfold Fjoek.canIssue at h
  simp only [Bool.and_eq_true, beq_iff_eq] at h
  exact h.1.1.2

theorem takeFence_calm (m : Fjoek) (k : Nat) (h : (m.strand k).fenced = false ∨ ∀ p ∈ m.seam.values, p.strand ≠ k) :
    m.takeFence k = m := by
  unfold Fjoek.takeFence
  simp only
  split
  · rename_i rd q w h1 h2
    obtain h | h := h
    · unfold Strand.fenced at h
      rw [h1, h2] at h
      cases h
    · have hn : m.takeValue k rd = none := by
        unfold Fjoek.takeValue
        split
        · rfl
        · rename_i p hp
          exfalso
          have h3 := List.find?_some hp
          simp only [Bool.and_eq_true, beq_iff_eq] at h3
          exact h p (List.mem_of_find?_eq_some hp) h3.1.1
      rw [hn]
  · rfl

theorem takeFences_calm (m : Fjoek) (e : Nat) (h : m.calm e) : m.takeFences e = m := by
  unfold Fjoek.takeFences
  split
  · rfl
  · rename_i hc
    simp only [Bool.not_eq_true', not_or, Bool.not_eq_false] at hc
    unfold Fjoek.each
    generalize hl : List.range 8 = l
    have hr : ∀ t ∈ l, t < 8 := by rw [← hl]; exact fun t ht => List.mem_range.1 ht
    clear hl
    induction l with
    | nil => rfl
    | cons t r ih =>
      have ht := hr t (List.mem_cons_self ..)
      have : m.takeFence (8 * e + t) = m := by
        apply takeFence_calm
        by_cases hf : (m.strand (8 * e + t)).fenced = false
        · exact .inl hf
        · refine .inr fun p hp hk => hf ?_
          rw [← hk]
          exact h.2 hc.1 p hp (by omega)
      rw [List.foldl_cons]
      simp only [this]
      exact ih fun u hu => hr u (List.mem_cons_of_mem _ hu)

/-- Where nothing waits for the end of a round, its end does nothing. -/
theorem roundActs_calm (m : Fjoek) (e : Nat) (h : m.calm e) : m.roundActs e = m := by
  unfold Fjoek.roundActs
  rw [takeFences_calm _ _ h]
  rw [if_pos]
  left
  rw [List.filter_eq_nil_iff]
  intro a ha
  simpa using h.1 a ha

theorem Sampled.calm {m n : Fjoek} (h : Sampled m n) (e : Nat) (hc : m.calm e) : n.calm e := by
  have ht : n.trailing = m.trailing := by
    unfold Fjoek.trailing
    rw [h.isOn _ (by decide) (by decide), h.isOn _ (by decide) (by decide), h.isOn _ (by decide) (by decide),
      h.get _ (by decide) (by decide)]
  unfold Fjoek.calm
  rw [h.seam, ht]
  refine ⟨hc.1, fun h1 p hp hq => ?_⟩
  rw [h.strand]
  exact hc.2 h1 p hp hq

/-- Calm is no matter of a strand that waits on no fence. -/
theorem calm_setStrand (m : Fjoek) (k e : Nat) (y : Strand) (h : m.calm e) (hy : y.fenced = false) : (m.setStrand k y).calm e := by
  refine ⟨h.1, fun h1 p hp hq => ?_⟩
  by_cases hk : p.strand = k
  · rw [hk, strand_setStrand]; exact hy
  · rw [strand_setStrand_ne _ _ hk]; exact h.2 h1 p hp hq

/-- An instruction that may issue does: its body runs on the strand with the fence over, after what every issue does. -/
theorem issueHold_eq (m : Fjoek) (i : Issue) (uses : List Nat) (hold : Fjoek → Strand → Option StallFor)
    (body : Nat → Strand → Fjoek → Fjoek) (h : m.issuable i uses) (hh : hold m (m.issuing i) = none) :
    m.issueHold i uses hold body =
      (body (issueKey i) (m.issuing i) ((m.setStrand (issueKey i) (m.issuing i)).issued (issueKey i) true)).roundActs i.e.val := by
  obtain ⟨h1, h2, h3, h4, hc⟩ := h
  have h5 : ((readsPred i.psel :: uses).any fun r => (m.strand (issueKey i)).loading.contains r) = false := by
    rw [List.any_eq_false]
    intro r hr
    simpa using (h3 r hr).1
  have h6 : ((readsPred i.psel :: uses).any fun r => (m.strand (issueKey i)).posts.contains r) = false := by
    rw [List.any_eq_false]
    intro r hr
    simpa using (h3 r hr).2
  have h7 : ((m.issuing i).pred i.psel.val == i.pneg) = false := by
    simpa [Fjoek.issuing, Strand.pred] using h4
  unfold Fjoek.issueHold
  rw [roundActs_calm _ _ hc]
  congr 1
  unfold Fjoek.issueOne
  simp only [h1, h2, h5, h6, Bool.not_true, Bool.false_eq_true, if_false]
  unfold Fjoek.issuing at h7 hh
  simp only [h7, hh, Bool.false_eq_true, if_false]
  rfl

theorem issue_eq (m : Fjoek) (i : Issue) (uses : List Nat) (body : Nat → Strand → Fjoek → Fjoek) (h : m.issuable i uses) :
    m.issue i uses body =
      (body (issueKey i) (m.issuing i) ((m.setStrand (issueKey i) (m.issuing i)).issued (issueKey i) true)).roundActs i.e.val :=
  issueHold_eq m i uses _ body h rfl

theorem issuing_fenced (m : Fjoek) (i : Issue) (h : m.canIssue (issueKey i) = true) (y : Strand) (hy : y.mode = (m.issuing i).mode) :
    y.fenced = false := by
  have : (m.issuing i).mode = .ready := canIssue_mode m _ h
  unfold Strand.fenced
  rw [hy, this]

/-- What stands when the body of an instruction runs. -/
theorem issue_sampled (m : Fjoek) (i : Issue) :
    Sampled (m.setStrand (issueKey i) (m.issuing i)) ((m.setStrand (issueKey i) (m.issuing i)).issued (issueKey i) true) :=
  issued_sampled _ _ _ (issueKey_lt i)

/-- An instruction whose effect is one write of its strand, and what it counts. -/
theorem issue_strand (m n : Fjoek) (i : Issue) (y : Strand) (h : m.canIssue (issueKey i) = true)
    (hn : Sampled ((m.setStrand (issueKey i) (m.issuing i)).issued (issueKey i) true) n) :
    Sampled (m.setStrand (issueKey i) y) (n.setStrand (issueKey i) y) := by
  have hx : (m.issuing i).mode ≠ .idle := by
    show (m.strand (issueKey i)).mode ≠ .idle
    rw [canIssue_mode m _ h]
    decide
  have := ((issue_sampled m i).trans hn).setStrand (issueKey i) y
  rwa [setStrand_setStrand _ _ _ _ hx] at this

/-- After an instruction whose effect is a write of its strand, which stays READY, the end of the round does nothing. -/
theorem issue_calm (m n : Fjoek) (i : Issue) (y : Strand) (h : m.canIssue (issueKey i) = true) (hc : m.calm i.e.val)
    (hy : y.mode = (m.issuing i).mode) (hn : Sampled (m.setStrand (issueKey i) y) n) : n.roundActs i.e.val = n :=
  roundActs_calm _ _ (hn.calm _ (calm_setStrand _ _ _ _ hc (issuing_fenced m i h _ hy)))

theorem wr_mode (x : Strand) (r : Nat) (v : Word64) : (x.wr r v).next.mode = x.mode := by
  unfold Strand.wr Strand.next; split <;> rfl

theorem setPred_mode (x : Strand) (p : Nat) (b : Bool) : (x.setPred p b).mode = x.mode := by
  unfold Strand.setPred; split <;> rfl

theorem compareWr_mode (x : Strand) (pd : Fin 8) (v : Inv) (b : Bool) : (x.compareWr pd v b).next.mode = x.mode := by
  show (x.compareWr pd v b).mode = x.mode
  unfold Strand.compareWr
  rw [setPred_mode]
  split
  · exact setPred_mode _ _ _
  · rfl

theorem compute_sampled (m : Fjoek) (i : Issue) (uses : List Nat) (f : Strand → Strand) (h : m.issuable i uses)
    (hf : (f (m.issuing i)).next.mode = (m.issuing i).mode) :
    Sampled (m.setStrand (issueKey i) (f (m.issuing i)).next) (m.compute i uses f) := by
  unfold Fjoek.compute
  rw [issue_eq _ _ _ _ h]
  have hs := issue_strand m _ i (f (m.issuing i)).next h.1 (Sampled.refl _)
  rwa [roundActs_calm _ _ (hs.calm _ (calm_setStrand _ _ _ _ h.2.2.2.2 (issuing_fenced m i h.1 _ hf)))]

theorem alu2_sampled (m : Fjoek) (i : Issue) (rd ra rb : Fin 32) (f : Word64 → Word64 → Word64)
    (h : m.issuable i [onlyWrites rd, ra.val, rb.val]) :
    Sampled (m.setStrand (issueKey i)
      ((m.issuing i).wr rd.val (f ((m.issuing i).rd ra.val) ((m.issuing i).rd rb.val))).next) (m.alu2 i rd ra rb f) :=
  compute_sampled m i _ (fun x => x.wr rd.val (f (x.rd ra.val) (x.rd rb.val))) h (wr_mode _ _ _)

theorem alu1_sampled (m : Fjoek) (i : Issue) (rd ra : Fin 32) (f : Word64 → Word64)
    (h : m.issuable i [onlyWrites rd, ra.val]) :
    Sampled (m.setStrand (issueKey i) ((m.issuing i).wr rd.val (f ((m.issuing i).rd ra.val))).next) (m.alu1 i rd ra f) :=
  compute_sampled m i _ (fun x => x.wr rd.val (f (x.rd ra.val))) h (wr_mode _ _ _)

theorem cmp2_sampled (m : Fjoek) (i : Issue) (pd : Fin 8) (ra rb : Fin 32) (v : Inv) (f : Word64 → Word64 → Bool)
    (h : m.issuable i [ra.val, rb.val]) :
    Sampled (m.setStrand (issueKey i)
      ((m.issuing i).compareWr pd v (f ((m.issuing i).rd ra.val) ((m.issuing i).rd rb.val))).next) (m.cmp2 i pd ra rb v f) :=
  compute_sampled m i _ (fun x => x.compareWr pd v (f (x.rd ra.val) (x.rd rb.val))) h (compareWr_mode _ _ _ _)

theorem cmp1_sampled (m : Fjoek) (i : Issue) (pd : Fin 8) (ra : Fin 32) (imm : BitVec 32) (v : Inv)
    (f : Word64 → Word64 → Bool) (h : m.issuable i [ra.val]) :
    Sampled (m.setStrand (issueKey i)
      ((m.issuing i).compareWr pd v (f ((m.issuing i).rd ra.val) (sext64 imm))).next) (m.cmp1 i pd ra imm v f) :=
  compute_sampled m i _ (fun x => x.compareWr pd v (f (x.rd ra.val) (sext64 imm))) h (compareWr_mode _ _ _ _)

/-- A branch taken: the pc moves, and the branch counts. -/
theorem branchTo_sampled (m : Fjoek) (i : Issue) (y : Strand) (t : BitVec 13) (h : m.canIssue (issueKey i) = true) :
    Sampled (m.setStrand (issueKey i) { y with pc := t })
      (((m.setStrand (issueKey i) (m.issuing i)).issued (issueKey i) true).branchTo (issueKey i) y t) := by
  unfold Fjoek.branchTo
  exact issue_strand m _ i _ h (perf_sampled _ _ _ _ _ (by rw [issueKey_div]; exact i.e.isLt))

/-! ## L -/

theorem Sampled.lBytes {m n : Fjoek} (h : Sampled m n) (e a k : Nat) : n.lBytes e a k = m.lBytes e a k := by
  unfold Fjoek.lBytes; rw [h.seam]

theorem Sampled.lNat {m n : Fjoek} (h : Sampled m n) (e a k : Nat) : n.lNat e a k = m.lNat e a k := by
  unfold Fjoek.lNat; rw [h.lBytes]

theorem Sampled.lFault {m n : Fjoek} (h : Sampled m n) (e a k : Nat) (r : Bool) : n.lFault e a k r = m.lFault e a k r := by
  unfold Fjoek.lFault; rw [h.seam]

@[simp] theorem lNat_setStrand (m : Fjoek) (k : Nat) (x : Strand) (e a n : Nat) :
    (m.setStrand k x).lNat e a n = m.lNat e a n := rfl

@[simp] theorem lFault_setStrand (m : Fjoek) (k : Nat) (x : Strand) (e a n : Nat) (r : Bool) :
    (m.setStrand k x).lFault e a n r = m.lFault e a n r := rfl

/-- A store in L carries over what stands beside it. -/
theorem Sampled.lPut {m n : Fjoek} (h : Sampled m n) (e a : Nat) (b : List Byte) : Sampled (m.lPut e a b) (n.lPut e a b) where
  reg := h.reg
  mram := h.mram
  hbm := h.hbm
  marks := h.marks
  absent := h.absent
  base := h.base
  flight := h.flight
  out := h.out
  seam := by unfold Fjoek.lPut; rw [h.seam]
  att := h.att
  twin := h.twin
  seq := h.seq
  mgmt := h.mgmt
  hearth := h.hearth
  wide := h.wide
  snap := h.snap
  era := h.era
  locks := h.locks
  free := h.free
  mngl := h.mngl
  damp := h.damp
  feed := h.feed
  bay := h.bay
  drv := h.drv
  lib := h.lib
  netp := h.netp
  swc := h.swc
  fwd := h.fwd
  xport := h.xport
  thim := h.thim

theorem ofBytes_bytesOf (n v : Nat) : ofBytes (bytesOf n v) = v % 256 ^ n := by
  induction n generalizing v with
  | zero => simp [bytesOf, ofBytes, Nat.mod_one]
  | succ n ih =>
    simp only [bytesOf, ofBytes, ih, BitVec.toNat_ofNat]
    rw [show 256 ^ (n + 1) = 256 * 256 ^ n by ring, Nat.mod_mul]

/-- A byte of L after a store. -/
theorem lByte_put (m : Fjoek) (e a : Nat) (b : List Byte) (f j : Nat) :
    (m.lPut e a b).lBytes f j 1 =
      [if 0x40000 * e + a ≤ 0x40000 * f + j ∧ 0x40000 * f + j < 0x40000 * e + a + b.length
        then b.getD (0x40000 * f + j - (0x40000 * e + a)) 0
        else tableGet (fun _ => 0) m.seam.lmem (0x40000 * f + j)] := by
  unfold Fjoek.lPut Fjoek.lBytes
  simp only [tableGet_writeBytes, List.range_one, List.map_cons, List.map_nil, Nat.add_zero]

theorem lBytes_put_same (m : Fjoek) (e a : Nat) (b : List Byte) : (m.lPut e a b).lBytes e a b.length = b := by
  unfold Fjoek.lPut Fjoek.lBytes
  apply List.ext_getElem
  · simp
  · intro j h1 h2
    simp only [List.getElem_map, List.getElem_range, tableGet_writeBytes]
    rw [if_pos (by omega)]
    simp [List.getD_eq_getElem?_getD, h2]

/-- A strand and bytes of L written together. -/
theorem issue_store (m n : Fjoek) (i : Issue) (y : Strand) (e a : Nat) (b : List Byte) (h : m.canIssue (issueKey i) = true)
    (hn : Sampled ((m.setStrand (issueKey i) (m.issuing i)).issued (issueKey i) true) n) :
    Sampled ((m.lPut e a b).setStrand (issueKey i) y) ((n.lPut e a b).setStrand (issueKey i) y) := by
  have hx : (m.issuing i).mode ≠ .idle := by
    show (m.strand (issueKey i)).mode ≠ .idle
    rw [canIssue_mode m _ h]
    decide
  have h1 := (((issue_sampled m i).trans hn).lPut e a b).setStrand (issueKey i) y
  have h3 := setStrand_setStrand (m.lPut e a b) (issueKey i) (m.issuing i) y hx
  rw [← h3]
  exact h1

/-- A load from L that has no fault. -/
theorem lLoad_sampled (m : Fjoek) (i : Issue) (rd ra : Fin 32) (off : BitVec 18) (n : Nat) (f : Nat → Word64)
    (h : m.issuable i [onlyWrites rd, ra.val]) (hf : m.lFault i.e.val (address (m.issuing i) ra off) n true = none) :
    Sampled (m.setStrand (issueKey i)
      ((m.issuing i).wr rd.val (f (m.lNat i.e.val (address (m.issuing i) ra off) n))).next) (m.lLoad i rd ra off n f) := by
  have hs := issue_sampled m i
  unfold Fjoek.lLoad
  rw [issue_eq _ _ _ _ h]
  have h1 := hs.lFault i.e.val (address (m.issuing i) ra off) n true
  rw [lFault_setStrand, hf] at h1
  have h2 := hs.lNat i.e.val (address (m.issuing i) ra off) n
  rw [lNat_setStrand] at h2
  simp only [h1, h2]
  have hr := issue_strand m _ i ((m.issuing i).wr rd.val (f (m.lNat i.e.val (address (m.issuing i) ra off) n))).next h.1
    (perf_sampled _ i.e.val i.s.val 0x008 (some (i.s.val, (m.issuing i).pc.toNat, (m.issuing i).gen)) i.e.isLt)
  rwa [issue_calm m _ i _ h.1 h.2.2.2.2 (wr_mode _ _ _) hr]

/-- A store to L that has no fault. -/
theorem lStore_sampled (m : Fjoek) (i : Issue) (ra rb : Fin 32) (off : BitVec 18) (n : Nat)
    (h : m.issuable i [ra.val, rb.val])
    (hf : m.lFault i.e.val (address (m.issuing i) ra off) n (decide (n < 8)) = none) :
    Sampled ((m.lPut i.e.val (address (m.issuing i) ra off) (bytesOf n ((m.issuing i).rd rb.val).toNat)).setStrand
      (issueKey i) (m.issuing i).next) (m.lStore i ra rb off n) := by
  have hs := issue_sampled m i
  unfold Fjoek.lStore
  rw [issue_eq _ _ _ _ h]
  have h1 := hs.lFault i.e.val (address (m.issuing i) ra off) n (decide (n < 8))
  rw [lFault_setStrand, hf] at h1
  simp only [h1]
  have hr := issue_store m _ i (m.issuing i).next i.e.val (address (m.issuing i) ra off)
    (bytesOf n ((m.issuing i).rd rb.val).toNat) h.1
    (perf_sampled _ i.e.val i.s.val 0x009 (some (i.s.val, (m.issuing i).pc.toNat, (m.issuing i).gen)) i.e.isLt)
  rwa [issue_calm (m.lPut _ _ _) _ i (m.issuing i).next h.1 h.2.2.2.2 rfl hr]

/-- An atomic on L that has no fault. -/
theorem lAtomic_sampled (m : Fjoek) (i : Issue) (use : Nat) (rd ra rb : Fin 32) (off : BitVec 18)
    (f : Word64 → Word64 → Word64 → Word64) (h : m.issuable i [use, ra.val, rb.val])
    (hf : m.lFault i.e.val (address (m.issuing i) ra off) 8 true = none) :
    let a := address (m.issuing i) ra off
    let old : Word64 := BitVec.ofNat 64 (m.lNat i.e.val a 8)
    Sampled ((m.lPut i.e.val a (bytesOf 8 (f old ((m.issuing i).rd rd.val) ((m.issuing i).rd rb.val)).toNat)).setStrand
      (issueKey i) ((m.issuing i).wr rd.val old).next) (m.lAtomic i use rd ra rb off f) := by
  intro a old
  have hs := issue_sampled m i
  unfold Fjoek.lAtomic
  rw [issue_eq _ _ _ _ h]
  have h1 := hs.lFault i.e.val (address (m.issuing i) ra off) 8 true
  rw [lFault_setStrand, hf] at h1
  have h2 := hs.lNat i.e.val (address (m.issuing i) ra off) 8
  rw [lNat_setStrand] at h2
  simp only [h1, h2]
  have hr := issue_store m _ i ((m.issuing i).wr rd.val old).next i.e.val a
    (bytesOf 8 (f old ((m.issuing i).rd rd.val) ((m.issuing i).rd rb.val)).toNat) h.1 (Sampled.refl _)
  rwa [issue_calm (m.lPut _ _ _) _ i _ h.1 h.2.2.2.2 (wr_mode _ _ _) hr]

/-! ## Accesses -/

theorem noting_seam (a : Nat) (h : 0x100000 ≤ a ∧ a < 0x300000) : noting a = false := by
  unfold noting
  simp only [Bool.or_eq_false_iff, decide_eq_false_iff_not]
  have e1 : EVT_PEND 16 = 0x70080 := rfl
  have e2 : PMON_GCNT_LO 32 = 0x80500 := rfl
  have e3 : EVT_LATCHES_LO < 0x80000 ∧ MGMT_LOGSEQ_LO < 0xA0000 ∧ MGMT_LOGLOST < 0xA0000 ∧ 0x300000 ≤ ATT_INTXST ∧
      0x300000 ≤ ATT_WAKE ∧ 0x300000 ≤ ATT_IRQDROP_LO ∧ 0x300000 ≤ TWIN_LOGREC_LO ∧ 0x300000 ≤ TWIN_LOGBYTES_LO ∧
      PMON_GOVF < 0x90000 := by decide
  omega

/-- A register of a block from NETP to DRV is none that counting and sampling write. -/
theorem Sampled.get_block {m n : Fjoek} (h : Sampled m n) (f : Fld) (hf : 0x100000 ≤ f.addr ∧ f.addr < 0x300000) :
    n.get f = m.get f := h.get f (noting_seam _ hf) (by omega)

theorem Sampled.isOn_block {m n : Fjoek} (h : Sampled m n) (f : Fld) (hf : 0x100000 ≤ f.addr ∧ f.addr < 0x300000) :
    n.isOn f = m.isOn f := h.isOn f (noting_seam _ hf) (by omega)

theorem hwin_addr (e : Nat) (he : e < 64) :
    (0x100000 ≤ (SEAM_HWIN_en e).addr ∧ (SEAM_HWIN_en e).addr < 0x300000) ∧
      (0x100000 ≤ (SEAM_HWIN_base e).addr ∧ (SEAM_HWIN_base e).addr < 0x300000) ∧
      (0x100000 ≤ (SEAM_HWIN_limit e).addr ∧ (SEAM_HWIN_limit e).addr < 0x300000) := by
  simp only [SEAM_HWIN_en, SEAM_HWIN_base, SEAM_HWIN_limit]
  omega

theorem Sampled.inHwin {m n : Fjoek} (h : Sampled m n) (e a k : Nat) (he : e < 64) : n.inHwin e a k = m.inHwin e a k := by
  obtain ⟨h1, h2, h3⟩ := hwin_addr e he
  unfold Fjoek.inHwin
  rw [h.isOn_block _ h1, h.get_block _ h2, h.get_block _ h3]

theorem Sampled.privileged {m n : Fjoek} (h : Sampled m n) (k : Nat) (hk : k < 512) : n.privileged k = m.privileged k := by
  have : 0x100000 ≤ (SEAM_STRCTL_priv (k / 8) (k % 8)).addr ∧ (SEAM_STRCTL_priv (k / 8) (k % 8)).addr < 0x300000 := by
    simp only [SEAM_STRCTL_priv]
    omega
  unfold Fjoek.privileged
  rw [h.isOn_block _ this]

theorem Sampled.inStaging {m n : Fjoek} (h : Sampled m n) (a k : Nat) : n.inStaging a k = m.inStaging a k := by
  unfold Fjoek.inStaging; rw [h.seam]

theorem Sampled.leaseOf {m n : Fjoek} (h : Sampled m n) (k v : Nat) : n.leaseOf k v = m.leaseOf k v := by
  unfold Fjoek.leaseOf Fjoek.leaseAt; rw [h.mngl]

theorem Sampled.leaseAt {m n : Fjoek} (h : Sampled m n) (l : Nat) : n.leaseAt l = m.leaseAt l := by
  unfold Fjoek.leaseAt; rw [h.mngl]

/-- An access joins the strand's outstanding ones, and the strand goes on as `y` says. -/
theorem startAccess_sampled (m n : Fjoek) (i : Issue) (ev : Nat) (x : Strand) (a : Access)
    (h : m.canIssue (issueKey i) = true)
    (hn : Sampled ((m.setStrand (issueKey i) (m.issuing i)).issued (issueKey i) true) n) :
    Sampled (m.setStrand (issueKey i) { x.next with accs := x.accs ++ [a] }) (n.startAccess (issueKey i) ev x a) := by
  unfold Fjoek.startAccess
  exact issue_strand m _ i _ h (hn.trans (perf_sampled _ _ _ _ _ (by rw [issueKey_div]; exact i.e.isLt)))

/-- The strand of an instruction that has issued. -/
theorem issued_strand (m : Fjoek) (i : Issue) :
    ((m.setStrand (issueKey i) (m.issuing i)).issued (issueKey i) true).strand (issueKey i) = m.issuing i := by
  rw [(issue_sampled m i).strand, strand_setStrand]

/-- A cause carries over what stands beside it. -/
theorem Sampled.cause {m n : Fjoek} (h : Sampled m n) (f : Fld) (e : Nat) (he : e < 512)
    (hf : 0x100000 ≤ f.addr ∧ f.addr < 0x300000) (h1 : f.hi = f.lo) : Sampled (m.put f 1) (n.cause f e) := by
  have h2 := h.put f 1 (noting_seam _ hf) (by omega)
  unfold Fjoek.cause
  split
  · rename_i hon
    refine h2.trans ?_
    have hr := Fjoek.reg_put_on n f hon h1
    have hb : n.get PMON_SBASE_base = (n.put f 1).get PMON_SBASE_base := by unfold Fjoek.get; rw [hr]
    constructor
    case reg => intros; exact (hr _).symm
    case base => exact hb
    all_goals intros
    all_goals first | rfl | exact Nat.le_refl _ | exact ⟨[], by simp [Fjoek.put, Fjoek.setReg]⟩
  · exact (h2).trans (latch_noted _ _ he).sampled

/-- A strand that faults as its instruction issues. -/
theorem faultStrand_sampled (m n : Fjoek) (i : Issue) (c : Nat) (h : m.canIssue (issueKey i) = true)
    (hn : Sampled ((m.setStrand (issueKey i) (m.issuing i)).issued (issueKey i) true) n) :
    Sampled (m.faulting i c) (n.faultStrand (issueKey i) c) := by
  have he := i.e.isLt
  have hk := issueKey_div i
  have hm := issueKey_mod i
  have hx : n.strand (issueKey i) = m.issuing i := by rw [hn.strand, issued_strand]
  unfold Fjoek.faultStrand Fjoek.faulting
  simp only [hx, hk, hm]
  refine Sampled.cause ?_ _ _ (by omega) ?_ ?_
  · refine Sampled.trans ?_ (perf_sampled _ _ _ _ _ he)
    refine (issue_strand m n i _ h hn).put _ _ (noting_seam _ ?_) ?_ <;>
      (simp only [SEAM_ESTAT]; omega)
  · simp only [SEAM_ESTAT_fault]; omega
  · rfl

/-! ## Contexts (R278) -/

theorem Sampled.inAperture {m n : Fjoek} (h : Sampled m n) (a k : Nat) : n.inAperture a k = m.inAperture a k := by
  unfold Fjoek.inAperture
  rw [h.isOn _ (by decide) (by decide), h.get _ (by decide) (by decide)]

theorem Sampled.hbmBytes {m n : Fjoek} (h : Sampled m n) (a k : Nat) (ha : m.besideRings a k) :
    n.hbmBytes a k = m.hbmBytes a k := by
  unfold Fjoek.hbmBytes
  apply List.map_congr_left
  intro j hj
  have := List.mem_range.1 hj
  unfold Fjoek.besideRings at ha
  unfold Fjoek.hbmByte
  rw [h.inAperture, h.hbmCell _ (by omega)]

theorem Sampled.hbmNat {m n : Fjoek} (h : Sampled m n) (a k : Nat) (ha : m.besideRings a k) : n.hbmNat a k = m.hbmNat a k := by
  unfold Fjoek.hbmNat; rw [h.hbmBytes _ _ ha]

/-- A range that is intact stays so, and reading it changes nothing. -/
theorem hbmDetect_clean (m : Fjoek) (g : Option Nat) (a k : Nat) (h : (m.hbmDetect g a k).1 = false) :
    m.hbmDetect g a k = (false, m) := by
  unfold Fjoek.hbmDetect at *
  simp only [List.any_eq_false, Bool.or_eq_true, not_or, Bool.not_eq_true] at h
  have h1 : ((unitsTouched a k).any fun u => marked m.hbmPoison u || marked m.hbmHidden u ||
      tableGet (fun _ => false) m.twin.absent (2 ^ 29 + u) || m.hbmOpenBad u) = false := by
    simp only [List.any_eq_false, Bool.or_eq_true, not_or, Bool.not_eq_true]
    exact h
  have h2 : ((unitsTouched a k).filter fun u => marked m.hbmHidden u || (!marked m.hbmPoison u && m.hbmOpenBad u)) = [] := by
    rw [List.filter_eq_nil_iff]
    intro u hu
    simp [(h u hu).1.1.2, (h u hu).2]
  simp only [h1, h2]
  rfl

theorem Sampled.hbmDetect {m n : Fjoek} (h : Sampled m n) (g : Option Nat) (a k : Nat) (ha : m.besideRings a k)
    (hc : (m.hbmDetect g a k).1 = false) : n.hbmDetect g a k = (false, n) := by
  apply hbmDetect_clean
  unfold Fjoek.hbmDetect at *
  simp only [List.any_eq_false, Bool.or_eq_true, not_or, Bool.not_eq_true] at *
  intro u hu
  have hm := mem_unitsTouched _ _ _ hu
  unfold Fjoek.besideRings at ha
  have := h.marks u (by omega)
  unfold Fjoek.unitMarks at this
  simp only [Prod.mk.injEq] at this
  obtain ⟨t1, t2, t3, t4⟩ := this
  unfold marked at *
  rw [t1, t2, t3, t4]
  exact hc u hu

theorem noting_xport (a : Nat) (h : 0x100000 ≤ a ∧ a + 4 < 0x300000) : noting a = false ∧ noting (a + 4) = false :=
  ⟨noting_seam _ (by omega), noting_seam _ (by omega)⟩

theorem fold_units_congr (l : List Nat) (g : Nat → Word64) (u : Nat) (t r : Table Word64)
    (h : tableGet (fun _ => 0) t u = tableGet (fun _ => 0) r u) :
    tableGet (fun _ => 0) (l.foldl (fun t v => tableSet (fun _ => 0) t (id v) (tableGet (fun _ => 0) t (id v) &&& g v)) t) u =
      tableGet (fun _ => 0) (l.foldl (fun t v => tableSet (fun _ => 0) t (id v) (tableGet (fun _ => 0) t (id v) &&& g v)) r) u := by
  induction l generalizing t r with
  | nil => exact h
  | cons v l ih =>
    simp only [List.foldl_cons]
    refine ih _ _ ?_
    simp only [id, tableGet_set]
    by_cases hv : u = v
    · subst hv; simp only [if_true, h]
    · simp only [if_neg hv, h]

theorem fold_units_zero (l : List Nat) (g : Nat → Word64) (u : Nat) (t : Table Word64) (h : tableGet (fun _ => 0) t u = 0) :
    tableGet (fun _ => 0) (l.foldl (fun t v => tableSet (fun _ => 0) t (id v) (tableGet (fun _ => 0) t (id v) &&& g v)) t) u = 0 := by
  induction l generalizing t with
  | nil => exact h
  | cons v l ih =>
    simp only [List.foldl_cons]
    refine ih _ ?_
    simp only [id, tableGet_set]
    by_cases hv : u = v
    · subst hv; rw [if_pos rfl, h]; exact BitVec.zero_and
    · simp only [if_neg hv, h]

/-- What a write leaves of a unit's marks depends on that unit's marks alone. -/
theorem rewriteUnits_congr (t r : Table Word64) (a n u : Nat) (h : tableGet (fun _ => 0) t u = tableGet (fun _ => 0) r u) :
    tableGet (fun _ => 0) (rewriteUnits t id a n) u = tableGet (fun _ => 0) (rewriteUnits r id a n) u := by
  have key : ∀ t : Table Word64, tableGet (fun _ => 0) (rewriteUnits t id a n) u =
      tableGet (fun _ => 0) ((unitsTouched a n).foldl (fun t v => tableSet (fun _ => 0) t (id v) (tableGet (fun _ => 0) t (id v) &&&
        ~~~(BitVec.ofNat 64 (2 ^ (Nat.min (64 * v + 64) (a + n) - 64 * v) - 2 ^ (Nat.max (64 * v) a - 64 * v))))) t) u := by
    intro t
    unfold rewriteUnits
    split
    · rename_i he
      rw [List.isEmpty_iff.1 he, fold_units_zero _ _ _ _ rfl]
      rfl
    · rfl
  rw [key, key]
  exact fold_units_congr _ _ _ _ _ h

theorem tableGet_filter_congr {α : Type} (d : Nat → α) (t r : Table α) (p : Nat → Bool) (j : Nat) (h : tableGet d t j = tableGet d r j) :
    tableGet d (t.filter fun e => p e.1) j = tableGet d (r.filter fun e => p e.1) j := by
  unfold tableGet at *
  rw [tableFind_filter, tableFind_filter]
  by_cases hp : p j = true
  · rw [if_pos hp, if_pos hp]; exact h
  · rw [if_neg hp, if_neg hp]

theorem unit_apart (p d u i : Nat) (hi : i < 64) (h : ¬(p ≤ u ∧ u < p + d)) :
    ¬(64 * p ≤ 64 * u + i ∧ 64 * u + i < 64 * p + 64 * d) := by omega

theorem unit_outside (c u i : Nat) (hi : i < 64) (h : ¬(c * 2 ^ 14 ≤ u ∧ u < c * 2 ^ 14 + 2 ^ 14)) :
    ¬(c * 2 ^ 20 ≤ 64 * u + i ∧ 64 * u + i < c * 2 ^ 20 + 2 ^ 20) := by
  have h20 : (2 : Nat) ^ 20 = 64 * 2 ^ 14 := Nat.pow_add 2 6 14
  rw [h20, show c * (64 * 2 ^ 14) = 64 * (c * 2 ^ 14) from Nat.mul_left_comm ..]
  exact unit_apart _ _ u i hi h

/-- The same write of HBM on both sides, wherever it goes. -/
theorem Sampled.hbmStore {m n : Fjoek} (h : Sampled m n) (a : Nat) (b : List Byte) : Sampled (m.hbmStore a b) (n.hbmStore a b) where
  reg := h.reg
  mram := h.mram
  hbm j hj := by rw [hbmFind_store, hbmFind_store, h.hbm j hj]
  marks u hu := by
    have hm := h.marks u hu
    unfold Fjoek.unitMarks at hm ⊢
    simp only [Prod.mk.injEq] at hm ⊢
    obtain ⟨t1, t2, t3, -⟩ := hm
    refine ⟨rewriteUnits_congr _ _ _ _ _ t1, rewriteUnits_congr _ _ _ _ _ t2,
      tableGet_filter_congr (fun _ => false) _ _ (fun e => !(unitsWhole (2 ^ 35 + a) b.length).contains e) _ t3, ?_⟩
    unfold Fjoek.hbmOpenBad
    have he : (n.hbmStore a b).era = (m.hbmStore a b).era := h.era
    rw [he]
    congr 2
    rw [Bool.eq_iff_iff]
    simp only [List.all_eq_true, List.mem_range]
    have key : ∀ i, i < 64 → tableHas (n.hbmStore a b).hbm (64 * u + i) = tableHas (m.hbmStore a b).hbm (64 * u + i) := by
      intro i hi
      unfold tableHas
      rw [hbmFind_store, hbmFind_store, h.hbm (64 * u + i) (unit_outside _ u i hi hu)]
    exact ⟨fun hx i hi => by rw [← key i hi]; exact hx i hi, fun hx i hi => by rw [key i hi]; exact hx i hi⟩
  absent k hk := tableGet_filter_congr (fun _ => false) _ _ (fun e => !(unitsWhole (2 ^ 35 + a) b.length).contains e) _ (h.absent k hk)
  base := h.base
  out := h.out
  seam := h.seam
  flight := h.flight
  att := h.att
  twin := by
    unfold Fjoek.hbmStore Fjoek.happen
    simp only
    rw [h.twin]
  seq := h.seq
  mgmt := h.mgmt
  hearth := h.hearth
  wide := h.wide
  snap := h.snap
  era := h.era
  locks := h.locks
  free := h.free
  mngl := h.mngl
  damp := h.damp
  feed := h.feed
  bay := h.bay
  drv := h.drv
  lib := h.lib
  netp := h.netp
  swc := h.swc
  fwd := h.fwd
  xport := h.xport
  thim := h.thim

theorem Sampled.hbmWrite {m n : Fjoek} (h : Sampled m n) (a : Nat) (b : List Byte) : Sampled (m.hbmWrite a b) (n.hbmWrite a b) := by
  unfold Fjoek.hbmWrite Fjoek.hbmPut
  rw [h.inStaging, h.inAperture, h.get STRP_APBASE_base (by decide) (by decide)]
  split
  · exact h
  · split
    · exact h.hbmStore _ _
    · exact (h.hbmStore _ _).hbmStore _ _

theorem Sampled.setXport {m n : Fjoek} (h : Sampled m n) (x : Xport) : Sampled (m.setXport x) (n.setXport x) := { h with xport := rfl }

/-- A cached context leaves the cache. -/
theorem Sampled.ctxEvict {m n : Fjoek} (h : Sampled m n) (c : Nat) (hc : m.xport.cached.contains c = true) :
    Sampled (m.ctxEvict c) (n.ctxEvict c) := by
  have hw : ∀ w, n.ctxW c w = m.ctxW c w := by
    intro w
    unfold Fjoek.ctxW
    rw [h.xport, if_pos hc, if_pos hc]
  have ha : n.ctxAddr c = m.ctxAddr c := by
    unfold Fjoek.ctxAddr
    rw [h.get_block _ (by decide)]
  unfold Fjoek.ctxEvict
  simp only [hw, ha]
  have h1 := h.hbmWrite (m.ctxAddr c) ((List.range 64).map fun w => bytesOf 8 (m.ctxW c w)).flatten
  rw [h1.xport]
  exact h1.setXport _

theorem Sampled.ctxBegin {m n : Fjoek} (h : Sampled m n) (c : Nat) : Sampled (m.loads c) (n.ctxBegin c) := by
  have h1 := (h.setXport { m.xport with loading := m.xport.loading ++ [c], refused := m.xport.refused.filter (· != c) }).count
    XPORT_CMISS_LO 1 (by decide) (by decide) (by decide)
  unfold Fjoek.ctxBegin Fjoek.loads
  rw [h.xport]
  exact { h1 with reg := h1.reg }

theorem Sampled.ctxRefuse {m n : Fjoek} (h : Sampled m n) (c : Nat) : Sampled
    (if m.xport.refused.contains c then m
      else ((m.setXport { m.xport with refused := m.xport.refused ++ [c] }).count XPORT_CFULL_LO 1).put XPORT_STAT_cfull 1)
    (n.ctxRefuse c) := by
  unfold Fjoek.ctxRefuse
  rw [h.xport]
  split
  · exact h
  · exact ((h.setXport _).count XPORT_CFULL_LO 1 (by decide) (by decide) (by decide)).cause XPORT_STAT_cfull 228 (by decide) (by decide) rfl

/-- The context becomes the one used last, or its load starts, whatever else has been counted. -/
theorem ctxReady_sampled {m n : Fjoek} (h : Sampled m n) (c : Nat) : Sampled (m.wanting c) (n.ctxReady c).2 := by
  have hp : ∀ y, n.ctxPinned y = m.ctxPinned y := by
    intro y
    unfold Fjoek.ctxPinned Fjoek.qp
    rw [h.xport, h.seam]
  unfold Fjoek.ctxReady Fjoek.ctxLoad Fjoek.wanting
  rw [h.xport]
  simp only [hp]
  by_cases h1 : m.xport.cached.contains c = true
  · simp only [h1, if_true]
    show Sampled _ (n.ctxTouch c)
    unfold Fjoek.ctxTouch Fjoek.setXport
    rw [h.xport]
    exact { h with xport := rfl }
  · by_cases h2 : m.xport.loading.contains c = true
    · rw [if_neg h1, if_pos h2, if_neg h1, if_pos (.inr h2)]
      exact h
    · rw [if_neg h1, if_neg h2, if_neg h1, if_neg (not_or.2 ⟨h1, h2⟩)]
      split
      · exact h.ctxBegin c
      · generalize hq : m.xport.cached.find? (fun y => !m.ctxPinned y) = q
        cases q with
        | some y =>
          have hm := List.mem_of_find?_eq_some hq
          exact (h.ctxEvict y (by simpa using hm)).ctxBegin c
        | none => exact h.ctxRefuse c

theorem Sampled.unburnt {m n : Fjoek} (h : Sampled m n) : Sampled m.unburnt n.unburnt where
  reg := h.reg
  mram := h.mram
  hbm := h.hbm
  marks := h.marks
  absent := h.absent
  base := h.base
  flight := h.flight
  out := h.out
  seam := h.seam
  att := h.att
  twin := h.twin
  seq := h.seq
  mgmt := h.mgmt
  hearth := by unfold Fjoek.unburnt; rw [h.hearth]
  wide := h.wide
  snap := h.snap
  era := h.era
  locks := h.locks
  free := h.free
  mngl := h.mngl
  damp := h.damp
  feed := h.feed
  bay := h.bay
  drv := h.drv
  lib := h.lib
  netp := h.netp
  swc := h.swc
  fwd := h.fwd
  xport := h.xport
  thim := h.thim

/-- An instruction whose effect on the module is `m` but for latches, counts and samples. -/
theorem runs_of (c : Instr) (s : State) (m n : Fjoek) (h : exec c s = .next (s.settle n)) (hn : Sampled m n) : Runs c s m :=
  ⟨s.settle n, h, rfl, by rw [settle_fuses, hn.hearth], hn.unburnt.trans (settle_noted s n).sampled⟩

/-! ## Bodies of instructions -/

theorem Sampled.trailing {m n : Fjoek} (h : Sampled m n) : n.trailing = m.trailing := by
  unfold Fjoek.trailing
  rw [h.isOn _ (by decide) (by decide), h.isOn _ (by decide) (by decide), h.isOn _ (by decide) (by decide), h.get _ (by decide) (by decide)]

theorem Sampled.leads {m n : Fjoek} (h : Sampled m n) : n.leads = m.leads := by
  unfold Fjoek.leads
  rw [h.isOn _ (by decide) (by decide), h.isOn _ (by decide) (by decide), h.isOn _ (by decide) (by decide),
   h.isOn _ (by decide) (by decide), h.get _ (by decide) (by decide)]

/-- An instruction that issues runs its body on what `Sampled` allows. -/
theorem runs_body (s : State) (i : Issue) (c : Instr) (uses : List Nat) (hold : Fjoek → Strand → Option StallFor)
    (body : Nat → Strand → Fjoek → Fjoek)
    (hx : exec c s = .next (s.settle (s.m.issueHold i uses hold body))) (h : s.m.issuable i uses)
      (hh : hold s.m (s.m.issuing i) = none) (m' : Fjoek) (hc : m'.calm i.e.val) (hm : ∀ j, Sampled (s.m.setStrand (issueKey i) (s.m.issuing i)) j →
        j = ((s.m.setStrand (issueKey i) (s.m.issuing i)).issued (issueKey i) true) → 
        Sampled m' (body (issueKey i) (s.m.issuing i) j)) : Runs c s m' := by
    have hs := hm _ (issue_sampled s.m i) rfl
    rw [issueHold_eq _ _ _ _ _ h hh, roundActs_calm _ _ (hs.calm _ hc)] at hx
    exact runs_of _ _ _ _ hx hs

theorem lease_cap_addr (k : Nat) (hk : k < 512) : 0x100000 ≤ (MNGL_LCAP_cap (k / 32)).addr ∧ (MNGL_LCAP_cap (k / 32)).addr < 0x300000 := by
  simp only [MNGL_LCAP_cap]; omega

theorem Sampled.canLease {m n : Fjoek} (h : Sampled m n) (k c v : Nat) (hk : k < 512) : n.canLease k c v = m.canLease k c v := by
  unfold Fjoek.canLease Fjoek.leasesUsed Fjoek.clusterCells
  rw [h.mngl, h.get_block _ (lease_cap_addr k hk), h.get_block _ (by decide), h.get_block _ (by decide)]

theorem freeLease_congr {m n : Fjoek} (h : n.mngl = m.mngl) (f x : Nat) : freeLease n f x = freeLease m f x := by
  induction f generalizing x with
  | zero => rfl
  | succ f ih => unfold freeLease Fjoek.leaseAt; rw [h, ih]

/-- The write of its strand that ends an instruction. -/
theorem end_strand {m : Fjoek} (i : Issue) (h : m.canIssue (issueKey i) = true) (G : Fjoek) (y : Strand) (j : Fjoek)
   (hG : Sampled (G.setStrand (issueKey i) (m.issuing i)) j) : Sampled (G.setStrand (issueKey i) y) (j.setStrand (issueKey i) y) := by
  have hx : (m.issuing i).mode ≠ .idle := by
    show (m.strand (issueKey i)).mode ≠ .idle
    rw [canIssue_mode m _ h]; decide
  have := hG.setStrand (issueKey i) y
  rwa [setStrand_setStrand _ _ _ _ hx] at this

/-- Whole blocks written alike carry over what stands beside them. -/
theorem Sampled.mngl' {m n : Fjoek} (h : Sampled m n) (q : Mngl) : Sampled { m with mngl := q } { n with mngl := q } := { h with mngl := rfl }
theorem Sampled.damp' {m n : Fjoek} (h : Sampled m n) (q : Damp) : Sampled { m with damp := q } { n with damp := q } := { h with damp := rfl }

end Sys2Proof.Machine
end

