-- ==== Sys2Proof/Laws/Memory.lean ====
section
/-! SUPPORT. Every operation that stores bytes keeps the canonical form of the memories. -/

namespace Sys2Proof.Machine

theorem memory_wf_iff (m : Fjoek) : Memory.wf m = true ↔ tableWf (fun _ => 0) m.mram = true ∧
    tableWf (fun _ => 0) m.seam.lmem = true ∧ tableRising m.hbm = true ∧ tableRising m.mngl.buf = true := by
  simp [Memory.wf, Bool.and_eq_true, and_assoc]

/-- A store to HBM keeps the form. -/
theorem hbmStore_wf (m : Fjoek) (a : Nat) (b : List Byte) (h : Memory.wf m = true) : Memory.wf (m.hbmStore a b) = true := by
  rw [memory_wf_iff] at h ⊢
  exact ⟨h.1, h.2.1, listBytes_rising _ _ _ h.2.2.1, h.2.2.2⟩

theorem hbmPut_wf (m : Fjoek) (a : Nat) (b : List Byte) (h : Memory.wf m = true) : Memory.wf (m.hbmPut a b) = true := by
  unfold Fjoek.hbmPut
  split
  · exact hbmStore_wf m a b h
  · exact hbmStore_wf _ _ _ (hbmStore_wf m _ _ h)

theorem hbmWrite_wf (m : Fjoek) (a : Nat) (b : List Byte) (h : Memory.wf m = true) : Memory.wf (m.hbmWrite a b) = true := by
  unfold Fjoek.hbmWrite
  split
  · exact h
  · exact hbmPut_wf m a b h

/-- A store to MRAM keeps the form. -/
theorem mramPut_wf (m : Fjoek) (a : Nat) (b : List Byte) (h : Memory.wf m = true) : Memory.wf (m.mramPut a b) = true := by
  unfold Fjoek.mramPut
  split
  · exact h
  · rw [memory_wf_iff] at h ⊢
    exact ⟨writeBytes_wf _ _ _ h.1, h.2⟩

/-- A store to a strand's L keeps the form. -/
theorem lPut_wf (m : Fjoek) (e a : Nat) (b : List Byte) (h : Memory.wf m = true) : Memory.wf (m.lPut e a b) = true := by
  rw [memory_wf_iff] at h ⊢
  exact ⟨h.1, writeBytes_wf _ _ _ h.2.1, h.2.2⟩

theorem foldl_insert_rising (l : List (Byte × Nat)) (g : Nat → Nat) (t : Table Byte) (h : tableRising t = true) :
    tableRising (l.foldl (fun t p => tableInsert t (g p.2) p.1) t) = true := by
  induction l generalizing t with
  | nil => exact h
  | cons p r ih => exact ih _ (tableInsert_rising _ _ _ h)

/-- A store to a lease's cells keeps the form. -/
theorem leasePut_wf (m : Fjoek) (x o : Nat) (b : List Byte) (h : Memory.wf m = true) : Memory.wf (m.leasePut x o b) = true := by
  rw [memory_wf_iff] at h ⊢
  exact ⟨h.1, h.2.1, h.2.2.1, foldl_insert_rising b.zipIdx (fun i => (m.leaseAt x).byteAddr (o + i)) _ h.2.2.2⟩

/-- Bytes put at a place keep the form. -/
theorem putAt_wf (m : Fjoek) (p : Place) (b : List Byte) (h : Memory.wf m = true) : Memory.wf (m.putAt p b) = true := by
  cases p with
  | cell k o => exact leasePut_wf m _ o b h
  | mem a => exact hbmWrite_wf m a b h

theorem reset_memory_wf : Memory.wf State.reset.m = true := rfl

end Sys2Proof.Machine
end

