-- ==== Sys2Proof/Laws/State.lean ====
section
/-! SUPPORT. One lemma for each part of the module and each named update of it: what the update writes, and that every other part stays. -/

namespace Sys2Proof.Machine

@[simp] theorem Fjoek.setReg_regs (m : Fjoek) (a v : Nat) : (m.setReg a v).regs = tableSet regDflt m.regs a (BitVec.ofNat 32 v) := rfl
@[simp] theorem Fjoek.setReg_wide (m : Fjoek) (a v : Nat) : (m.setReg a v).wide = m.wide := rfl
@[simp] theorem Fjoek.setReg_snap (m : Fjoek) (a v : Nat) : (m.setReg a v).snap = m.snap := rfl
@[simp] theorem Fjoek.setReg_era (m : Fjoek) (a v : Nat) : (m.setReg a v).era = m.era := rfl
@[simp] theorem Fjoek.setReg_hbm (m : Fjoek) (a v : Nat) : (m.setReg a v).hbm = m.hbm := rfl
@[simp] theorem Fjoek.setReg_mram (m : Fjoek) (a v : Nat) : (m.setReg a v).mram = m.mram := rfl
@[simp] theorem Fjoek.setReg_locks (m : Fjoek) (a v : Nat) : (m.setReg a v).locks = m.locks := rfl
@[simp] theorem Fjoek.setReg_hbmPoison (m : Fjoek) (a v : Nat) : (m.setReg a v).hbmPoison = m.hbmPoison := rfl
@[simp] theorem Fjoek.setReg_hbmHidden (m : Fjoek) (a v : Nat) : (m.setReg a v).hbmHidden = m.hbmHidden := rfl
@[simp] theorem Fjoek.setReg_free (m : Fjoek) (a v : Nat) : (m.setReg a v).free = m.free := rfl
@[simp] theorem Fjoek.setReg_tally (m : Fjoek) (a v : Nat) : (m.setReg a v).tally = m.tally := rfl
@[simp] theorem Fjoek.setReg_out (m : Fjoek) (a v : Nat) : (m.setReg a v).out = m.out := rfl
@[simp] theorem Fjoek.setReg_seam (m : Fjoek) (a v : Nat) : (m.setReg a v).seam = m.seam := rfl
@[simp] theorem Fjoek.setReg_mngl (m : Fjoek) (a v : Nat) : (m.setReg a v).mngl = m.mngl := rfl
@[simp] theorem Fjoek.setReg_damp (m : Fjoek) (a v : Nat) : (m.setReg a v).damp = m.damp := rfl
@[simp] theorem Fjoek.setReg_pmon (m : Fjoek) (a v : Nat) : (m.setReg a v).pmon = m.pmon := rfl
@[simp] theorem Fjoek.setReg_att (m : Fjoek) (a v : Nat) : (m.setReg a v).att = m.att := rfl
@[simp] theorem Fjoek.setReg_twin (m : Fjoek) (a v : Nat) : (m.setReg a v).twin = m.twin := rfl
@[simp] theorem Fjoek.setReg_hearth (m : Fjoek) (a v : Nat) : (m.setReg a v).hearth = m.hearth := rfl
@[simp] theorem Fjoek.setReg_feed (m : Fjoek) (a v : Nat) : (m.setReg a v).feed = m.feed := rfl
@[simp] theorem Fjoek.setReg_bay (m : Fjoek) (a v : Nat) : (m.setReg a v).bay = m.bay := rfl
@[simp] theorem Fjoek.setReg_mgmt (m : Fjoek) (a v : Nat) : (m.setReg a v).mgmt = m.mgmt := rfl
@[simp] theorem Fjoek.setReg_drv (m : Fjoek) (a v : Nat) : (m.setReg a v).drv = m.drv := rfl
@[simp] theorem Fjoek.setReg_lib (m : Fjoek) (a v : Nat) : (m.setReg a v).lib = m.lib := rfl
@[simp] theorem Fjoek.setReg_netp (m : Fjoek) (a v : Nat) : (m.setReg a v).netp = m.netp := rfl
@[simp] theorem Fjoek.setReg_swc (m : Fjoek) (a v : Nat) : (m.setReg a v).swc = m.swc := rfl
@[simp] theorem Fjoek.setReg_fwd (m : Fjoek) (a v : Nat) : (m.setReg a v).fwd = m.fwd := rfl
@[simp] theorem Fjoek.setReg_xport (m : Fjoek) (a v : Nat) : (m.setReg a v).xport = m.xport := rfl
@[simp] theorem Fjoek.setReg_thim (m : Fjoek) (a v : Nat) : (m.setReg a v).thim = m.thim := rfl

@[simp] theorem Fjoek.put_wide (m : Fjoek) (f : Fld) (v : Nat) : (m.put f v).wide = m.wide := rfl
@[simp] theorem Fjoek.put_snap (m : Fjoek) (f : Fld) (v : Nat) : (m.put f v).snap = m.snap := rfl
@[simp] theorem Fjoek.put_era (m : Fjoek) (f : Fld) (v : Nat) : (m.put f v).era = m.era := rfl
@[simp] theorem Fjoek.put_hbm (m : Fjoek) (f : Fld) (v : Nat) : (m.put f v).hbm = m.hbm := rfl
@[simp] theorem Fjoek.put_mram (m : Fjoek) (f : Fld) (v : Nat) : (m.put f v).mram = m.mram := rfl
@[simp] theorem Fjoek.put_locks (m : Fjoek) (f : Fld) (v : Nat) : (m.put f v).locks = m.locks := rfl
@[simp] theorem Fjoek.put_hbmPoison (m : Fjoek) (f : Fld) (v : Nat) : (m.put f v).hbmPoison = m.hbmPoison := rfl
@[simp] theorem Fjoek.put_hbmHidden (m : Fjoek) (f : Fld) (v : Nat) : (m.put f v).hbmHidden = m.hbmHidden := rfl
@[simp] theorem Fjoek.put_free (m : Fjoek) (f : Fld) (v : Nat) : (m.put f v).free = m.free := rfl
@[simp] theorem Fjoek.put_tally (m : Fjoek) (f : Fld) (v : Nat) : (m.put f v).tally = m.tally := rfl
@[simp] theorem Fjoek.put_out (m : Fjoek) (f : Fld) (v : Nat) : (m.put f v).out = m.out := rfl
@[simp] theorem Fjoek.put_seam (m : Fjoek) (f : Fld) (v : Nat) : (m.put f v).seam = m.seam := rfl
@[simp] theorem Fjoek.put_mngl (m : Fjoek) (f : Fld) (v : Nat) : (m.put f v).mngl = m.mngl := rfl
@[simp] theorem Fjoek.put_damp (m : Fjoek) (f : Fld) (v : Nat) : (m.put f v).damp = m.damp := rfl
@[simp] theorem Fjoek.put_pmon (m : Fjoek) (f : Fld) (v : Nat) : (m.put f v).pmon = m.pmon := rfl
@[simp] theorem Fjoek.put_att (m : Fjoek) (f : Fld) (v : Nat) : (m.put f v).att = m.att := rfl
@[simp] theorem Fjoek.put_twin (m : Fjoek) (f : Fld) (v : Nat) : (m.put f v).twin = m.twin := rfl
@[simp] theorem Fjoek.put_hearth (m : Fjoek) (f : Fld) (v : Nat) : (m.put f v).hearth = m.hearth := rfl
@[simp] theorem Fjoek.put_feed (m : Fjoek) (f : Fld) (v : Nat) : (m.put f v).feed = m.feed := rfl
@[simp] theorem Fjoek.put_bay (m : Fjoek) (f : Fld) (v : Nat) : (m.put f v).bay = m.bay := rfl
@[simp] theorem Fjoek.put_mgmt (m : Fjoek) (f : Fld) (v : Nat) : (m.put f v).mgmt = m.mgmt := rfl
@[simp] theorem Fjoek.put_drv (m : Fjoek) (f : Fld) (v : Nat) : (m.put f v).drv = m.drv := rfl
@[simp] theorem Fjoek.put_lib (m : Fjoek) (f : Fld) (v : Nat) : (m.put f v).lib = m.lib := rfl
@[simp] theorem Fjoek.put_netp (m : Fjoek) (f : Fld) (v : Nat) : (m.put f v).netp = m.netp := rfl
@[simp] theorem Fjoek.put_swc (m : Fjoek) (f : Fld) (v : Nat) : (m.put f v).swc = m.swc := rfl
@[simp] theorem Fjoek.put_fwd (m : Fjoek) (f : Fld) (v : Nat) : (m.put f v).fwd = m.fwd := rfl
@[simp] theorem Fjoek.put_xport (m : Fjoek) (f : Fld) (v : Nat) : (m.put f v).xport = m.xport := rfl
@[simp] theorem Fjoek.put_thim (m : Fjoek) (f : Fld) (v : Nat) : (m.put f v).thim = m.thim := rfl

@[simp] theorem Fjoek.putS_wide (m : Fjoek) (f : Fld) (v : Int) : (m.putS f v).wide = m.wide := rfl
@[simp] theorem Fjoek.putS_snap (m : Fjoek) (f : Fld) (v : Int) : (m.putS f v).snap = m.snap := rfl
@[simp] theorem Fjoek.putS_era (m : Fjoek) (f : Fld) (v : Int) : (m.putS f v).era = m.era := rfl
@[simp] theorem Fjoek.putS_hbm (m : Fjoek) (f : Fld) (v : Int) : (m.putS f v).hbm = m.hbm := rfl
@[simp] theorem Fjoek.putS_mram (m : Fjoek) (f : Fld) (v : Int) : (m.putS f v).mram = m.mram := rfl
@[simp] theorem Fjoek.putS_locks (m : Fjoek) (f : Fld) (v : Int) : (m.putS f v).locks = m.locks := rfl
@[simp] theorem Fjoek.putS_hbmPoison (m : Fjoek) (f : Fld) (v : Int) : (m.putS f v).hbmPoison = m.hbmPoison := rfl
@[simp] theorem Fjoek.putS_hbmHidden (m : Fjoek) (f : Fld) (v : Int) : (m.putS f v).hbmHidden = m.hbmHidden := rfl
@[simp] theorem Fjoek.putS_free (m : Fjoek) (f : Fld) (v : Int) : (m.putS f v).free = m.free := rfl
@[simp] theorem Fjoek.putS_tally (m : Fjoek) (f : Fld) (v : Int) : (m.putS f v).tally = m.tally := rfl
@[simp] theorem Fjoek.putS_out (m : Fjoek) (f : Fld) (v : Int) : (m.putS f v).out = m.out := rfl
@[simp] theorem Fjoek.putS_seam (m : Fjoek) (f : Fld) (v : Int) : (m.putS f v).seam = m.seam := rfl
@[simp] theorem Fjoek.putS_mngl (m : Fjoek) (f : Fld) (v : Int) : (m.putS f v).mngl = m.mngl := rfl
@[simp] theorem Fjoek.putS_damp (m : Fjoek) (f : Fld) (v : Int) : (m.putS f v).damp = m.damp := rfl
@[simp] theorem Fjoek.putS_pmon (m : Fjoek) (f : Fld) (v : Int) : (m.putS f v).pmon = m.pmon := rfl
@[simp] theorem Fjoek.putS_att (m : Fjoek) (f : Fld) (v : Int) : (m.putS f v).att = m.att := rfl
@[simp] theorem Fjoek.putS_twin (m : Fjoek) (f : Fld) (v : Int) : (m.putS f v).twin = m.twin := rfl
@[simp] theorem Fjoek.putS_hearth (m : Fjoek) (f : Fld) (v : Int) : (m.putS f v).hearth = m.hearth := rfl
@[simp] theorem Fjoek.putS_feed (m : Fjoek) (f : Fld) (v : Int) : (m.putS f v).feed = m.feed := rfl
@[simp] theorem Fjoek.putS_bay (m : Fjoek) (f : Fld) (v : Int) : (m.putS f v).bay = m.bay := rfl
@[simp] theorem Fjoek.putS_mgmt (m : Fjoek) (f : Fld) (v : Int) : (m.putS f v).mgmt = m.mgmt := rfl
@[simp] theorem Fjoek.putS_drv (m : Fjoek) (f : Fld) (v : Int) : (m.putS f v).drv = m.drv := rfl
@[simp] theorem Fjoek.putS_lib (m : Fjoek) (f : Fld) (v : Int) : (m.putS f v).lib = m.lib := rfl
@[simp] theorem Fjoek.putS_netp (m : Fjoek) (f : Fld) (v : Int) : (m.putS f v).netp = m.netp := rfl
@[simp] theorem Fjoek.putS_swc (m : Fjoek) (f : Fld) (v : Int) : (m.putS f v).swc = m.swc := rfl
@[simp] theorem Fjoek.putS_fwd (m : Fjoek) (f : Fld) (v : Int) : (m.putS f v).fwd = m.fwd := rfl
@[simp] theorem Fjoek.putS_xport (m : Fjoek) (f : Fld) (v : Int) : (m.putS f v).xport = m.xport := rfl
@[simp] theorem Fjoek.putS_thim (m : Fjoek) (f : Fld) (v : Int) : (m.putS f v).thim = m.thim := rfl

@[simp] theorem Fjoek.bump_wide (m : Fjoek) (f : Fld) (v : Nat) : (m.bump f v).wide = m.wide := rfl
@[simp] theorem Fjoek.bump_snap (m : Fjoek) (f : Fld) (v : Nat) : (m.bump f v).snap = m.snap := rfl
@[simp] theorem Fjoek.bump_era (m : Fjoek) (f : Fld) (v : Nat) : (m.bump f v).era = m.era := rfl
@[simp] theorem Fjoek.bump_hbm (m : Fjoek) (f : Fld) (v : Nat) : (m.bump f v).hbm = m.hbm := rfl
@[simp] theorem Fjoek.bump_mram (m : Fjoek) (f : Fld) (v : Nat) : (m.bump f v).mram = m.mram := rfl
@[simp] theorem Fjoek.bump_locks (m : Fjoek) (f : Fld) (v : Nat) : (m.bump f v).locks = m.locks := rfl
@[simp] theorem Fjoek.bump_hbmPoison (m : Fjoek) (f : Fld) (v : Nat) : (m.bump f v).hbmPoison = m.hbmPoison := rfl
@[simp] theorem Fjoek.bump_hbmHidden (m : Fjoek) (f : Fld) (v : Nat) : (m.bump f v).hbmHidden = m.hbmHidden := rfl
@[simp] theorem Fjoek.bump_free (m : Fjoek) (f : Fld) (v : Nat) : (m.bump f v).free = m.free := rfl
@[simp] theorem Fjoek.bump_tally (m : Fjoek) (f : Fld) (v : Nat) : (m.bump f v).tally = m.tally := rfl
@[simp] theorem Fjoek.bump_out (m : Fjoek) (f : Fld) (v : Nat) : (m.bump f v).out = m.out := rfl
@[simp] theorem Fjoek.bump_seam (m : Fjoek) (f : Fld) (v : Nat) : (m.bump f v).seam = m.seam := rfl
@[simp] theorem Fjoek.bump_mngl (m : Fjoek) (f : Fld) (v : Nat) : (m.bump f v).mngl = m.mngl := rfl
@[simp] theorem Fjoek.bump_damp (m : Fjoek) (f : Fld) (v : Nat) : (m.bump f v).damp = m.damp := rfl
@[simp] theorem Fjoek.bump_pmon (m : Fjoek) (f : Fld) (v : Nat) : (m.bump f v).pmon = m.pmon := rfl
@[simp] theorem Fjoek.bump_att (m : Fjoek) (f : Fld) (v : Nat) : (m.bump f v).att = m.att := rfl
@[simp] theorem Fjoek.bump_twin (m : Fjoek) (f : Fld) (v : Nat) : (m.bump f v).twin = m.twin := rfl
@[simp] theorem Fjoek.bump_hearth (m : Fjoek) (f : Fld) (v : Nat) : (m.bump f v).hearth = m.hearth := rfl
@[simp] theorem Fjoek.bump_feed (m : Fjoek) (f : Fld) (v : Nat) : (m.bump f v).feed = m.feed := rfl
@[simp] theorem Fjoek.bump_bay (m : Fjoek) (f : Fld) (v : Nat) : (m.bump f v).bay = m.bay := rfl
@[simp] theorem Fjoek.bump_mgmt (m : Fjoek) (f : Fld) (v : Nat) : (m.bump f v).mgmt = m.mgmt := rfl
@[simp] theorem Fjoek.bump_drv (m : Fjoek) (f : Fld) (v : Nat) : (m.bump f v).drv = m.drv := rfl
@[simp] theorem Fjoek.bump_lib (m : Fjoek) (f : Fld) (v : Nat) : (m.bump f v).lib = m.lib := rfl
@[simp] theorem Fjoek.bump_netp (m : Fjoek) (f : Fld) (v : Nat) : (m.bump f v).netp = m.netp := rfl
@[simp] theorem Fjoek.bump_swc (m : Fjoek) (f : Fld) (v : Nat) : (m.bump f v).swc = m.swc := rfl
@[simp] theorem Fjoek.bump_fwd (m : Fjoek) (f : Fld) (v : Nat) : (m.bump f v).fwd = m.fwd := rfl
@[simp] theorem Fjoek.bump_xport (m : Fjoek) (f : Fld) (v : Nat) : (m.bump f v).xport = m.xport := rfl
@[simp] theorem Fjoek.bump_thim (m : Fjoek) (f : Fld) (v : Nat) : (m.bump f v).thim = m.thim := rfl

@[simp] theorem Fjoek.setReg64_wide (m : Fjoek) (a v : Nat) : (m.setReg64 a v).wide = m.wide := rfl
@[simp] theorem Fjoek.setReg64_snap (m : Fjoek) (a v : Nat) : (m.setReg64 a v).snap = m.snap := rfl
@[simp] theorem Fjoek.setReg64_era (m : Fjoek) (a v : Nat) : (m.setReg64 a v).era = m.era := rfl
@[simp] theorem Fjoek.setReg64_hbm (m : Fjoek) (a v : Nat) : (m.setReg64 a v).hbm = m.hbm := rfl
@[simp] theorem Fjoek.setReg64_mram (m : Fjoek) (a v : Nat) : (m.setReg64 a v).mram = m.mram := rfl
@[simp] theorem Fjoek.setReg64_locks (m : Fjoek) (a v : Nat) : (m.setReg64 a v).locks = m.locks := rfl
@[simp] theorem Fjoek.setReg64_hbmPoison (m : Fjoek) (a v : Nat) : (m.setReg64 a v).hbmPoison = m.hbmPoison := rfl
@[simp] theorem Fjoek.setReg64_hbmHidden (m : Fjoek) (a v : Nat) : (m.setReg64 a v).hbmHidden = m.hbmHidden := rfl
@[simp] theorem Fjoek.setReg64_free (m : Fjoek) (a v : Nat) : (m.setReg64 a v).free = m.free := rfl
@[simp] theorem Fjoek.setReg64_tally (m : Fjoek) (a v : Nat) : (m.setReg64 a v).tally = m.tally := rfl
@[simp] theorem Fjoek.setReg64_out (m : Fjoek) (a v : Nat) : (m.setReg64 a v).out = m.out := rfl
@[simp] theorem Fjoek.setReg64_seam (m : Fjoek) (a v : Nat) : (m.setReg64 a v).seam = m.seam := rfl
@[simp] theorem Fjoek.setReg64_mngl (m : Fjoek) (a v : Nat) : (m.setReg64 a v).mngl = m.mngl := rfl
@[simp] theorem Fjoek.setReg64_damp (m : Fjoek) (a v : Nat) : (m.setReg64 a v).damp = m.damp := rfl
@[simp] theorem Fjoek.setReg64_pmon (m : Fjoek) (a v : Nat) : (m.setReg64 a v).pmon = m.pmon := rfl
@[simp] theorem Fjoek.setReg64_att (m : Fjoek) (a v : Nat) : (m.setReg64 a v).att = m.att := rfl
@[simp] theorem Fjoek.setReg64_twin (m : Fjoek) (a v : Nat) : (m.setReg64 a v).twin = m.twin := rfl
@[simp] theorem Fjoek.setReg64_hearth (m : Fjoek) (a v : Nat) : (m.setReg64 a v).hearth = m.hearth := rfl
@[simp] theorem Fjoek.setReg64_feed (m : Fjoek) (a v : Nat) : (m.setReg64 a v).feed = m.feed := rfl
@[simp] theorem Fjoek.setReg64_bay (m : Fjoek) (a v : Nat) : (m.setReg64 a v).bay = m.bay := rfl
@[simp] theorem Fjoek.setReg64_mgmt (m : Fjoek) (a v : Nat) : (m.setReg64 a v).mgmt = m.mgmt := rfl
@[simp] theorem Fjoek.setReg64_drv (m : Fjoek) (a v : Nat) : (m.setReg64 a v).drv = m.drv := rfl
@[simp] theorem Fjoek.setReg64_lib (m : Fjoek) (a v : Nat) : (m.setReg64 a v).lib = m.lib := rfl
@[simp] theorem Fjoek.setReg64_netp (m : Fjoek) (a v : Nat) : (m.setReg64 a v).netp = m.netp := rfl
@[simp] theorem Fjoek.setReg64_swc (m : Fjoek) (a v : Nat) : (m.setReg64 a v).swc = m.swc := rfl
@[simp] theorem Fjoek.setReg64_fwd (m : Fjoek) (a v : Nat) : (m.setReg64 a v).fwd = m.fwd := rfl
@[simp] theorem Fjoek.setReg64_xport (m : Fjoek) (a v : Nat) : (m.setReg64 a v).xport = m.xport := rfl
@[simp] theorem Fjoek.setReg64_thim (m : Fjoek) (a v : Nat) : (m.setReg64 a v).thim = m.thim := rfl

@[simp] theorem Fjoek.count_wide (m : Fjoek) (a v : Nat) : (m.count a v).wide = m.wide := rfl
@[simp] theorem Fjoek.count_snap (m : Fjoek) (a v : Nat) : (m.count a v).snap = m.snap := rfl
@[simp] theorem Fjoek.count_era (m : Fjoek) (a v : Nat) : (m.count a v).era = m.era := rfl
@[simp] theorem Fjoek.count_hbm (m : Fjoek) (a v : Nat) : (m.count a v).hbm = m.hbm := rfl
@[simp] theorem Fjoek.count_mram (m : Fjoek) (a v : Nat) : (m.count a v).mram = m.mram := rfl
@[simp] theorem Fjoek.count_locks (m : Fjoek) (a v : Nat) : (m.count a v).locks = m.locks := rfl
@[simp] theorem Fjoek.count_hbmPoison (m : Fjoek) (a v : Nat) : (m.count a v).hbmPoison = m.hbmPoison := rfl
@[simp] theorem Fjoek.count_hbmHidden (m : Fjoek) (a v : Nat) : (m.count a v).hbmHidden = m.hbmHidden := rfl
@[simp] theorem Fjoek.count_free (m : Fjoek) (a v : Nat) : (m.count a v).free = m.free := rfl
@[simp] theorem Fjoek.count_tally (m : Fjoek) (a v : Nat) : (m.count a v).tally = m.tally := rfl
@[simp] theorem Fjoek.count_out (m : Fjoek) (a v : Nat) : (m.count a v).out = m.out := rfl
@[simp] theorem Fjoek.count_seam (m : Fjoek) (a v : Nat) : (m.count a v).seam = m.seam := rfl
@[simp] theorem Fjoek.count_mngl (m : Fjoek) (a v : Nat) : (m.count a v).mngl = m.mngl := rfl
@[simp] theorem Fjoek.count_damp (m : Fjoek) (a v : Nat) : (m.count a v).damp = m.damp := rfl
@[simp] theorem Fjoek.count_pmon (m : Fjoek) (a v : Nat) : (m.count a v).pmon = m.pmon := rfl
@[simp] theorem Fjoek.count_att (m : Fjoek) (a v : Nat) : (m.count a v).att = m.att := rfl
@[simp] theorem Fjoek.count_twin (m : Fjoek) (a v : Nat) : (m.count a v).twin = m.twin := rfl
@[simp] theorem Fjoek.count_hearth (m : Fjoek) (a v : Nat) : (m.count a v).hearth = m.hearth := rfl
@[simp] theorem Fjoek.count_feed (m : Fjoek) (a v : Nat) : (m.count a v).feed = m.feed := rfl
@[simp] theorem Fjoek.count_bay (m : Fjoek) (a v : Nat) : (m.count a v).bay = m.bay := rfl
@[simp] theorem Fjoek.count_mgmt (m : Fjoek) (a v : Nat) : (m.count a v).mgmt = m.mgmt := rfl
@[simp] theorem Fjoek.count_drv (m : Fjoek) (a v : Nat) : (m.count a v).drv = m.drv := rfl
@[simp] theorem Fjoek.count_lib (m : Fjoek) (a v : Nat) : (m.count a v).lib = m.lib := rfl
@[simp] theorem Fjoek.count_netp (m : Fjoek) (a v : Nat) : (m.count a v).netp = m.netp := rfl
@[simp] theorem Fjoek.count_swc (m : Fjoek) (a v : Nat) : (m.count a v).swc = m.swc := rfl
@[simp] theorem Fjoek.count_fwd (m : Fjoek) (a v : Nat) : (m.count a v).fwd = m.fwd := rfl
@[simp] theorem Fjoek.count_xport (m : Fjoek) (a v : Nat) : (m.count a v).xport = m.xport := rfl
@[simp] theorem Fjoek.count_thim (m : Fjoek) (a v : Nat) : (m.count a v).thim = m.thim := rfl

@[simp] theorem Fjoek.send_regs (m : Fjoek) (o : OutMsg) : (m.send o).regs = m.regs := rfl
@[simp] theorem Fjoek.send_wide (m : Fjoek) (o : OutMsg) : (m.send o).wide = m.wide := rfl
@[simp] theorem Fjoek.send_snap (m : Fjoek) (o : OutMsg) : (m.send o).snap = m.snap := rfl
@[simp] theorem Fjoek.send_era (m : Fjoek) (o : OutMsg) : (m.send o).era = m.era := rfl
@[simp] theorem Fjoek.send_hbm (m : Fjoek) (o : OutMsg) : (m.send o).hbm = m.hbm := rfl
@[simp] theorem Fjoek.send_mram (m : Fjoek) (o : OutMsg) : (m.send o).mram = m.mram := rfl
@[simp] theorem Fjoek.send_locks (m : Fjoek) (o : OutMsg) : (m.send o).locks = m.locks := rfl
@[simp] theorem Fjoek.send_hbmPoison (m : Fjoek) (o : OutMsg) : (m.send o).hbmPoison = m.hbmPoison := rfl
@[simp] theorem Fjoek.send_hbmHidden (m : Fjoek) (o : OutMsg) : (m.send o).hbmHidden = m.hbmHidden := rfl
@[simp] theorem Fjoek.send_free (m : Fjoek) (o : OutMsg) : (m.send o).free = m.free := rfl
@[simp] theorem Fjoek.send_tally (m : Fjoek) (o : OutMsg) : (m.send o).tally = m.tally := rfl
@[simp] theorem Fjoek.send_out (m : Fjoek) (o : OutMsg) : (m.send o).out = m.out ++ [o] := rfl
@[simp] theorem Fjoek.send_seam (m : Fjoek) (o : OutMsg) : (m.send o).seam = m.seam := rfl
@[simp] theorem Fjoek.send_mngl (m : Fjoek) (o : OutMsg) : (m.send o).mngl = m.mngl := rfl
@[simp] theorem Fjoek.send_damp (m : Fjoek) (o : OutMsg) : (m.send o).damp = m.damp := rfl
@[simp] theorem Fjoek.send_pmon (m : Fjoek) (o : OutMsg) : (m.send o).pmon = m.pmon := rfl
@[simp] theorem Fjoek.send_att (m : Fjoek) (o : OutMsg) : (m.send o).att = m.att := rfl
@[simp] theorem Fjoek.send_twin (m : Fjoek) (o : OutMsg) : (m.send o).twin = m.twin := rfl
@[simp] theorem Fjoek.send_hearth (m : Fjoek) (o : OutMsg) : (m.send o).hearth = m.hearth := rfl
@[simp] theorem Fjoek.send_feed (m : Fjoek) (o : OutMsg) : (m.send o).feed = m.feed := rfl
@[simp] theorem Fjoek.send_bay (m : Fjoek) (o : OutMsg) : (m.send o).bay = m.bay := rfl
@[simp] theorem Fjoek.send_mgmt (m : Fjoek) (o : OutMsg) : (m.send o).mgmt = m.mgmt := rfl
@[simp] theorem Fjoek.send_drv (m : Fjoek) (o : OutMsg) : (m.send o).drv = m.drv := rfl
@[simp] theorem Fjoek.send_lib (m : Fjoek) (o : OutMsg) : (m.send o).lib = m.lib := rfl
@[simp] theorem Fjoek.send_netp (m : Fjoek) (o : OutMsg) : (m.send o).netp = m.netp := rfl
@[simp] theorem Fjoek.send_swc (m : Fjoek) (o : OutMsg) : (m.send o).swc = m.swc := rfl
@[simp] theorem Fjoek.send_fwd (m : Fjoek) (o : OutMsg) : (m.send o).fwd = m.fwd := rfl
@[simp] theorem Fjoek.send_xport (m : Fjoek) (o : OutMsg) : (m.send o).xport = m.xport := rfl
@[simp] theorem Fjoek.send_thim (m : Fjoek) (o : OutMsg) : (m.send o).thim = m.thim := rfl

@[simp] theorem Fjoek.happen_regs (m : Fjoek) (e n : Nat) : (m.happen e n).regs = m.regs := rfl
@[simp] theorem Fjoek.happen_wide (m : Fjoek) (e n : Nat) : (m.happen e n).wide = m.wide := rfl
@[simp] theorem Fjoek.happen_snap (m : Fjoek) (e n : Nat) : (m.happen e n).snap = m.snap := rfl
@[simp] theorem Fjoek.happen_era (m : Fjoek) (e n : Nat) : (m.happen e n).era = m.era := rfl
@[simp] theorem Fjoek.happen_hbm (m : Fjoek) (e n : Nat) : (m.happen e n).hbm = m.hbm := rfl
@[simp] theorem Fjoek.happen_mram (m : Fjoek) (e n : Nat) : (m.happen e n).mram = m.mram := rfl
@[simp] theorem Fjoek.happen_locks (m : Fjoek) (e n : Nat) : (m.happen e n).locks = m.locks := rfl
@[simp] theorem Fjoek.happen_hbmPoison (m : Fjoek) (e n : Nat) : (m.happen e n).hbmPoison = m.hbmPoison := rfl
@[simp] theorem Fjoek.happen_hbmHidden (m : Fjoek) (e n : Nat) : (m.happen e n).hbmHidden = m.hbmHidden := rfl
@[simp] theorem Fjoek.happen_free (m : Fjoek) (e n : Nat) : (m.happen e n).free = m.free := rfl
@[simp] theorem Fjoek.happen_out (m : Fjoek) (e n : Nat) : (m.happen e n).out = m.out := rfl
@[simp] theorem Fjoek.happen_seam (m : Fjoek) (e n : Nat) : (m.happen e n).seam = m.seam := rfl
@[simp] theorem Fjoek.happen_mngl (m : Fjoek) (e n : Nat) : (m.happen e n).mngl = m.mngl := rfl
@[simp] theorem Fjoek.happen_damp (m : Fjoek) (e n : Nat) : (m.happen e n).damp = m.damp := rfl
@[simp] theorem Fjoek.happen_pmon (m : Fjoek) (e n : Nat) : (m.happen e n).pmon = m.pmon := rfl
@[simp] theorem Fjoek.happen_att (m : Fjoek) (e n : Nat) : (m.happen e n).att = m.att := rfl
@[simp] theorem Fjoek.happen_twin (m : Fjoek) (e n : Nat) : (m.happen e n).twin = m.twin := rfl
@[simp] theorem Fjoek.happen_hearth (m : Fjoek) (e n : Nat) : (m.happen e n).hearth = m.hearth := rfl
@[simp] theorem Fjoek.happen_feed (m : Fjoek) (e n : Nat) : (m.happen e n).feed = m.feed := rfl
@[simp] theorem Fjoek.happen_bay (m : Fjoek) (e n : Nat) : (m.happen e n).bay = m.bay := rfl
@[simp] theorem Fjoek.happen_mgmt (m : Fjoek) (e n : Nat) : (m.happen e n).mgmt = m.mgmt := rfl
@[simp] theorem Fjoek.happen_drv (m : Fjoek) (e n : Nat) : (m.happen e n).drv = m.drv := rfl
@[simp] theorem Fjoek.happen_lib (m : Fjoek) (e n : Nat) : (m.happen e n).lib = m.lib := rfl
@[simp] theorem Fjoek.happen_netp (m : Fjoek) (e n : Nat) : (m.happen e n).netp = m.netp := rfl
@[simp] theorem Fjoek.happen_swc (m : Fjoek) (e n : Nat) : (m.happen e n).swc = m.swc := rfl
@[simp] theorem Fjoek.happen_fwd (m : Fjoek) (e n : Nat) : (m.happen e n).fwd = m.fwd := rfl
@[simp] theorem Fjoek.happen_xport (m : Fjoek) (e n : Nat) : (m.happen e n).xport = m.xport := rfl
@[simp] theorem Fjoek.happen_thim (m : Fjoek) (e n : Nat) : (m.happen e n).thim = m.thim := rfl

@[simp] theorem Fjoek.setStrand_regs (m : Fjoek) (k : Nat) (x : Strand) : (m.setStrand k x).regs = m.regs := rfl
@[simp] theorem Fjoek.setStrand_wide (m : Fjoek) (k : Nat) (x : Strand) : (m.setStrand k x).wide = m.wide := rfl
@[simp] theorem Fjoek.setStrand_snap (m : Fjoek) (k : Nat) (x : Strand) : (m.setStrand k x).snap = m.snap := rfl
@[simp] theorem Fjoek.setStrand_era (m : Fjoek) (k : Nat) (x : Strand) : (m.setStrand k x).era = m.era := rfl
@[simp] theorem Fjoek.setStrand_hbm (m : Fjoek) (k : Nat) (x : Strand) : (m.setStrand k x).hbm = m.hbm := rfl
@[simp] theorem Fjoek.setStrand_mram (m : Fjoek) (k : Nat) (x : Strand) : (m.setStrand k x).mram = m.mram := rfl
@[simp] theorem Fjoek.setStrand_locks (m : Fjoek) (k : Nat) (x : Strand) : (m.setStrand k x).locks = m.locks := rfl
@[simp] theorem Fjoek.setStrand_hbmPoison (m : Fjoek) (k : Nat) (x : Strand) : (m.setStrand k x).hbmPoison = m.hbmPoison := rfl
@[simp] theorem Fjoek.setStrand_hbmHidden (m : Fjoek) (k : Nat) (x : Strand) : (m.setStrand k x).hbmHidden = m.hbmHidden := rfl
@[simp] theorem Fjoek.setStrand_free (m : Fjoek) (k : Nat) (x : Strand) : (m.setStrand k x).free = m.free := rfl
@[simp] theorem Fjoek.setStrand_tally (m : Fjoek) (k : Nat) (x : Strand) : (m.setStrand k x).tally = m.tally := rfl
@[simp] theorem Fjoek.setStrand_out (m : Fjoek) (k : Nat) (x : Strand) : (m.setStrand k x).out = m.out := rfl
@[simp] theorem Fjoek.setStrand_seam (m : Fjoek) (k : Nat) (x : Strand) : (m.setStrand k x).seam = { m.seam with strands := tableSet strandReset m.seam.strands k x } := rfl
@[simp] theorem Fjoek.setStrand_mngl (m : Fjoek) (k : Nat) (x : Strand) : (m.setStrand k x).mngl = m.mngl := rfl
@[simp] theorem Fjoek.setStrand_damp (m : Fjoek) (k : Nat) (x : Strand) : (m.setStrand k x).damp = m.damp := rfl
@[simp] theorem Fjoek.setStrand_pmon (m : Fjoek) (k : Nat) (x : Strand) : (m.setStrand k x).pmon = m.pmon := rfl
@[simp] theorem Fjoek.setStrand_att (m : Fjoek) (k : Nat) (x : Strand) : (m.setStrand k x).att = m.att := rfl
@[simp] theorem Fjoek.setStrand_twin (m : Fjoek) (k : Nat) (x : Strand) : (m.setStrand k x).twin = m.twin := rfl
@[simp] theorem Fjoek.setStrand_hearth (m : Fjoek) (k : Nat) (x : Strand) : (m.setStrand k x).hearth = m.hearth := rfl
@[simp] theorem Fjoek.setStrand_feed (m : Fjoek) (k : Nat) (x : Strand) : (m.setStrand k x).feed = m.feed := rfl
@[simp] theorem Fjoek.setStrand_bay (m : Fjoek) (k : Nat) (x : Strand) : (m.setStrand k x).bay = m.bay := rfl
@[simp] theorem Fjoek.setStrand_mgmt (m : Fjoek) (k : Nat) (x : Strand) : (m.setStrand k x).mgmt = m.mgmt := rfl
@[simp] theorem Fjoek.setStrand_drv (m : Fjoek) (k : Nat) (x : Strand) : (m.setStrand k x).drv = m.drv := rfl
@[simp] theorem Fjoek.setStrand_lib (m : Fjoek) (k : Nat) (x : Strand) : (m.setStrand k x).lib = m.lib := rfl
@[simp] theorem Fjoek.setStrand_netp (m : Fjoek) (k : Nat) (x : Strand) : (m.setStrand k x).netp = m.netp := rfl
@[simp] theorem Fjoek.setStrand_swc (m : Fjoek) (k : Nat) (x : Strand) : (m.setStrand k x).swc = m.swc := rfl
@[simp] theorem Fjoek.setStrand_fwd (m : Fjoek) (k : Nat) (x : Strand) : (m.setStrand k x).fwd = m.fwd := rfl
@[simp] theorem Fjoek.setStrand_xport (m : Fjoek) (k : Nat) (x : Strand) : (m.setStrand k x).xport = m.xport := rfl
@[simp] theorem Fjoek.setStrand_thim (m : Fjoek) (k : Nat) (x : Strand) : (m.setStrand k x).thim = m.thim := rfl

@[simp] theorem Fjoek.setAtt_regs (m : Fjoek) (x : Att) : (m.setAtt x).regs = m.regs := rfl
@[simp] theorem Fjoek.setAtt_wide (m : Fjoek) (x : Att) : (m.setAtt x).wide = m.wide := rfl
@[simp] theorem Fjoek.setAtt_snap (m : Fjoek) (x : Att) : (m.setAtt x).snap = m.snap := rfl
@[simp] theorem Fjoek.setAtt_era (m : Fjoek) (x : Att) : (m.setAtt x).era = m.era := rfl
@[simp] theorem Fjoek.setAtt_hbm (m : Fjoek) (x : Att) : (m.setAtt x).hbm = m.hbm := rfl
@[simp] theorem Fjoek.setAtt_mram (m : Fjoek) (x : Att) : (m.setAtt x).mram = m.mram := rfl
@[simp] theorem Fjoek.setAtt_locks (m : Fjoek) (x : Att) : (m.setAtt x).locks = m.locks := rfl
@[simp] theorem Fjoek.setAtt_hbmPoison (m : Fjoek) (x : Att) : (m.setAtt x).hbmPoison = m.hbmPoison := rfl
@[simp] theorem Fjoek.setAtt_hbmHidden (m : Fjoek) (x : Att) : (m.setAtt x).hbmHidden = m.hbmHidden := rfl
@[simp] theorem Fjoek.setAtt_free (m : Fjoek) (x : Att) : (m.setAtt x).free = m.free := rfl
@[simp] theorem Fjoek.setAtt_tally (m : Fjoek) (x : Att) : (m.setAtt x).tally = m.tally := rfl
@[simp] theorem Fjoek.setAtt_out (m : Fjoek) (x : Att) : (m.setAtt x).out = m.out := rfl
@[simp] theorem Fjoek.setAtt_seam (m : Fjoek) (x : Att) : (m.setAtt x).seam = m.seam := rfl
@[simp] theorem Fjoek.setAtt_mngl (m : Fjoek) (x : Att) : (m.setAtt x).mngl = m.mngl := rfl
@[simp] theorem Fjoek.setAtt_damp (m : Fjoek) (x : Att) : (m.setAtt x).damp = m.damp := rfl
@[simp] theorem Fjoek.setAtt_pmon (m : Fjoek) (x : Att) : (m.setAtt x).pmon = m.pmon := rfl
@[simp] theorem Fjoek.setAtt_att (m : Fjoek) (x : Att) : (m.setAtt x).att = x := rfl
@[simp] theorem Fjoek.setAtt_twin (m : Fjoek) (x : Att) : (m.setAtt x).twin = m.twin := rfl
@[simp] theorem Fjoek.setAtt_hearth (m : Fjoek) (x : Att) : (m.setAtt x).hearth = m.hearth := rfl
@[simp] theorem Fjoek.setAtt_feed (m : Fjoek) (x : Att) : (m.setAtt x).feed = m.feed := rfl
@[simp] theorem Fjoek.setAtt_bay (m : Fjoek) (x : Att) : (m.setAtt x).bay = m.bay := rfl
@[simp] theorem Fjoek.setAtt_mgmt (m : Fjoek) (x : Att) : (m.setAtt x).mgmt = m.mgmt := rfl
@[simp] theorem Fjoek.setAtt_drv (m : Fjoek) (x : Att) : (m.setAtt x).drv = m.drv := rfl
@[simp] theorem Fjoek.setAtt_lib (m : Fjoek) (x : Att) : (m.setAtt x).lib = m.lib := rfl
@[simp] theorem Fjoek.setAtt_netp (m : Fjoek) (x : Att) : (m.setAtt x).netp = m.netp := rfl
@[simp] theorem Fjoek.setAtt_swc (m : Fjoek) (x : Att) : (m.setAtt x).swc = m.swc := rfl
@[simp] theorem Fjoek.setAtt_fwd (m : Fjoek) (x : Att) : (m.setAtt x).fwd = m.fwd := rfl
@[simp] theorem Fjoek.setAtt_xport (m : Fjoek) (x : Att) : (m.setAtt x).xport = m.xport := rfl
@[simp] theorem Fjoek.setAtt_thim (m : Fjoek) (x : Att) : (m.setAtt x).thim = m.thim := rfl

@[simp] theorem Fjoek.setAttFn_regs (m : Fjoek) (f : Nat) (x : AttFn) : (m.setAttFn f x).regs = m.regs := rfl
@[simp] theorem Fjoek.setAttFn_wide (m : Fjoek) (f : Nat) (x : AttFn) : (m.setAttFn f x).wide = m.wide := rfl
@[simp] theorem Fjoek.setAttFn_snap (m : Fjoek) (f : Nat) (x : AttFn) : (m.setAttFn f x).snap = m.snap := rfl
@[simp] theorem Fjoek.setAttFn_era (m : Fjoek) (f : Nat) (x : AttFn) : (m.setAttFn f x).era = m.era := rfl
@[simp] theorem Fjoek.setAttFn_hbm (m : Fjoek) (f : Nat) (x : AttFn) : (m.setAttFn f x).hbm = m.hbm := rfl
@[simp] theorem Fjoek.setAttFn_mram (m : Fjoek) (f : Nat) (x : AttFn) : (m.setAttFn f x).mram = m.mram := rfl
@[simp] theorem Fjoek.setAttFn_locks (m : Fjoek) (f : Nat) (x : AttFn) : (m.setAttFn f x).locks = m.locks := rfl
@[simp] theorem Fjoek.setAttFn_hbmPoison (m : Fjoek) (f : Nat) (x : AttFn) : (m.setAttFn f x).hbmPoison = m.hbmPoison := rfl
@[simp] theorem Fjoek.setAttFn_hbmHidden (m : Fjoek) (f : Nat) (x : AttFn) : (m.setAttFn f x).hbmHidden = m.hbmHidden := rfl
@[simp] theorem Fjoek.setAttFn_free (m : Fjoek) (f : Nat) (x : AttFn) : (m.setAttFn f x).free = m.free := rfl
@[simp] theorem Fjoek.setAttFn_tally (m : Fjoek) (f : Nat) (x : AttFn) : (m.setAttFn f x).tally = m.tally := rfl
@[simp] theorem Fjoek.setAttFn_out (m : Fjoek) (f : Nat) (x : AttFn) : (m.setAttFn f x).out = m.out := rfl
@[simp] theorem Fjoek.setAttFn_seam (m : Fjoek) (f : Nat) (x : AttFn) : (m.setAttFn f x).seam = m.seam := rfl
@[simp] theorem Fjoek.setAttFn_mngl (m : Fjoek) (f : Nat) (x : AttFn) : (m.setAttFn f x).mngl = m.mngl := rfl
@[simp] theorem Fjoek.setAttFn_damp (m : Fjoek) (f : Nat) (x : AttFn) : (m.setAttFn f x).damp = m.damp := rfl
@[simp] theorem Fjoek.setAttFn_pmon (m : Fjoek) (f : Nat) (x : AttFn) : (m.setAttFn f x).pmon = m.pmon := rfl
@[simp] theorem Fjoek.setAttFn_twin (m : Fjoek) (f : Nat) (x : AttFn) : (m.setAttFn f x).twin = m.twin := rfl
@[simp] theorem Fjoek.setAttFn_hearth (m : Fjoek) (f : Nat) (x : AttFn) : (m.setAttFn f x).hearth = m.hearth := rfl
@[simp] theorem Fjoek.setAttFn_feed (m : Fjoek) (f : Nat) (x : AttFn) : (m.setAttFn f x).feed = m.feed := rfl
@[simp] theorem Fjoek.setAttFn_bay (m : Fjoek) (f : Nat) (x : AttFn) : (m.setAttFn f x).bay = m.bay := rfl
@[simp] theorem Fjoek.setAttFn_mgmt (m : Fjoek) (f : Nat) (x : AttFn) : (m.setAttFn f x).mgmt = m.mgmt := rfl
@[simp] theorem Fjoek.setAttFn_drv (m : Fjoek) (f : Nat) (x : AttFn) : (m.setAttFn f x).drv = m.drv := rfl
@[simp] theorem Fjoek.setAttFn_lib (m : Fjoek) (f : Nat) (x : AttFn) : (m.setAttFn f x).lib = m.lib := rfl
@[simp] theorem Fjoek.setAttFn_netp (m : Fjoek) (f : Nat) (x : AttFn) : (m.setAttFn f x).netp = m.netp := rfl
@[simp] theorem Fjoek.setAttFn_swc (m : Fjoek) (f : Nat) (x : AttFn) : (m.setAttFn f x).swc = m.swc := rfl
@[simp] theorem Fjoek.setAttFn_fwd (m : Fjoek) (f : Nat) (x : AttFn) : (m.setAttFn f x).fwd = m.fwd := rfl
@[simp] theorem Fjoek.setAttFn_xport (m : Fjoek) (f : Nat) (x : AttFn) : (m.setAttFn f x).xport = m.xport := rfl
@[simp] theorem Fjoek.setAttFn_thim (m : Fjoek) (f : Nat) (x : AttFn) : (m.setAttFn f x).thim = m.thim := rfl

@[simp] theorem Fjoek.setChannel_regs (m : Fjoek) (b : Nat) (x : Bay) : (m.setChannel b x).regs = m.regs := rfl
@[simp] theorem Fjoek.setChannel_wide (m : Fjoek) (b : Nat) (x : Bay) : (m.setChannel b x).wide = m.wide := rfl
@[simp] theorem Fjoek.setChannel_snap (m : Fjoek) (b : Nat) (x : Bay) : (m.setChannel b x).snap = m.snap := rfl
@[simp] theorem Fjoek.setChannel_era (m : Fjoek) (b : Nat) (x : Bay) : (m.setChannel b x).era = m.era := rfl
@[simp] theorem Fjoek.setChannel_hbm (m : Fjoek) (b : Nat) (x : Bay) : (m.setChannel b x).hbm = m.hbm := rfl
@[simp] theorem Fjoek.setChannel_mram (m : Fjoek) (b : Nat) (x : Bay) : (m.setChannel b x).mram = m.mram := rfl
@[simp] theorem Fjoek.setChannel_locks (m : Fjoek) (b : Nat) (x : Bay) : (m.setChannel b x).locks = m.locks := rfl
@[simp] theorem Fjoek.setChannel_hbmPoison (m : Fjoek) (b : Nat) (x : Bay) : (m.setChannel b x).hbmPoison = m.hbmPoison := rfl
@[simp] theorem Fjoek.setChannel_hbmHidden (m : Fjoek) (b : Nat) (x : Bay) : (m.setChannel b x).hbmHidden = m.hbmHidden := rfl
@[simp] theorem Fjoek.setChannel_free (m : Fjoek) (b : Nat) (x : Bay) : (m.setChannel b x).free = m.free := rfl
@[simp] theorem Fjoek.setChannel_tally (m : Fjoek) (b : Nat) (x : Bay) : (m.setChannel b x).tally = m.tally := rfl
@[simp] theorem Fjoek.setChannel_out (m : Fjoek) (b : Nat) (x : Bay) : (m.setChannel b x).out = m.out := rfl
@[simp] theorem Fjoek.setChannel_seam (m : Fjoek) (b : Nat) (x : Bay) : (m.setChannel b x).seam = m.seam := rfl
@[simp] theorem Fjoek.setChannel_mngl (m : Fjoek) (b : Nat) (x : Bay) : (m.setChannel b x).mngl = m.mngl := rfl
@[simp] theorem Fjoek.setChannel_damp (m : Fjoek) (b : Nat) (x : Bay) : (m.setChannel b x).damp = m.damp := rfl
@[simp] theorem Fjoek.setChannel_pmon (m : Fjoek) (b : Nat) (x : Bay) : (m.setChannel b x).pmon = m.pmon := rfl
@[simp] theorem Fjoek.setChannel_att (m : Fjoek) (b : Nat) (x : Bay) : (m.setChannel b x).att = m.att := rfl
@[simp] theorem Fjoek.setChannel_twin (m : Fjoek) (b : Nat) (x : Bay) : (m.setChannel b x).twin = m.twin := rfl
@[simp] theorem Fjoek.setChannel_hearth (m : Fjoek) (b : Nat) (x : Bay) : (m.setChannel b x).hearth = m.hearth := rfl
@[simp] theorem Fjoek.setChannel_feed (m : Fjoek) (b : Nat) (x : Bay) : (m.setChannel b x).feed = m.feed := rfl
@[simp] theorem Fjoek.setChannel_bay (m : Fjoek) (b : Nat) (x : Bay) : (m.setChannel b x).bay = tableSet bayReset m.bay b x := rfl
@[simp] theorem Fjoek.setChannel_mgmt (m : Fjoek) (b : Nat) (x : Bay) : (m.setChannel b x).mgmt = m.mgmt := rfl
@[simp] theorem Fjoek.setChannel_drv (m : Fjoek) (b : Nat) (x : Bay) : (m.setChannel b x).drv = m.drv := rfl
@[simp] theorem Fjoek.setChannel_lib (m : Fjoek) (b : Nat) (x : Bay) : (m.setChannel b x).lib = m.lib := rfl
@[simp] theorem Fjoek.setChannel_netp (m : Fjoek) (b : Nat) (x : Bay) : (m.setChannel b x).netp = m.netp := rfl
@[simp] theorem Fjoek.setChannel_swc (m : Fjoek) (b : Nat) (x : Bay) : (m.setChannel b x).swc = m.swc := rfl
@[simp] theorem Fjoek.setChannel_fwd (m : Fjoek) (b : Nat) (x : Bay) : (m.setChannel b x).fwd = m.fwd := rfl
@[simp] theorem Fjoek.setChannel_xport (m : Fjoek) (b : Nat) (x : Bay) : (m.setChannel b x).xport = m.xport := rfl
@[simp] theorem Fjoek.setChannel_thim (m : Fjoek) (b : Nat) (x : Bay) : (m.setChannel b x).thim = m.thim := rfl

@[simp] theorem Fjoek.setXport_regs (m : Fjoek) (x : Xport) : (m.setXport x).regs = m.regs := rfl
@[simp] theorem Fjoek.setXport_wide (m : Fjoek) (x : Xport) : (m.setXport x).wide = m.wide := rfl
@[simp] theorem Fjoek.setXport_snap (m : Fjoek) (x : Xport) : (m.setXport x).snap = m.snap := rfl
@[simp] theorem Fjoek.setXport_era (m : Fjoek) (x : Xport) : (m.setXport x).era = m.era := rfl
@[simp] theorem Fjoek.setXport_hbm (m : Fjoek) (x : Xport) : (m.setXport x).hbm = m.hbm := rfl
@[simp] theorem Fjoek.setXport_mram (m : Fjoek) (x : Xport) : (m.setXport x).mram = m.mram := rfl
@[simp] theorem Fjoek.setXport_locks (m : Fjoek) (x : Xport) : (m.setXport x).locks = m.locks := rfl
@[simp] theorem Fjoek.setXport_hbmPoison (m : Fjoek) (x : Xport) : (m.setXport x).hbmPoison = m.hbmPoison := rfl
@[simp] theorem Fjoek.setXport_hbmHidden (m : Fjoek) (x : Xport) : (m.setXport x).hbmHidden = m.hbmHidden := rfl
@[simp] theorem Fjoek.setXport_free (m : Fjoek) (x : Xport) : (m.setXport x).free = m.free := rfl
@[simp] theorem Fjoek.setXport_tally (m : Fjoek) (x : Xport) : (m.setXport x).tally = m.tally := rfl
@[simp] theorem Fjoek.setXport_out (m : Fjoek) (x : Xport) : (m.setXport x).out = m.out := rfl
@[simp] theorem Fjoek.setXport_seam (m : Fjoek) (x : Xport) : (m.setXport x).seam = m.seam := rfl
@[simp] theorem Fjoek.setXport_mngl (m : Fjoek) (x : Xport) : (m.setXport x).mngl = m.mngl := rfl
@[simp] theorem Fjoek.setXport_damp (m : Fjoek) (x : Xport) : (m.setXport x).damp = m.damp := rfl
@[simp] theorem Fjoek.setXport_pmon (m : Fjoek) (x : Xport) : (m.setXport x).pmon = m.pmon := rfl
@[simp] theorem Fjoek.setXport_att (m : Fjoek) (x : Xport) : (m.setXport x).att = m.att := rfl
@[simp] theorem Fjoek.setXport_twin (m : Fjoek) (x : Xport) : (m.setXport x).twin = m.twin := rfl
@[simp] theorem Fjoek.setXport_hearth (m : Fjoek) (x : Xport) : (m.setXport x).hearth = m.hearth := rfl
@[simp] theorem Fjoek.setXport_feed (m : Fjoek) (x : Xport) : (m.setXport x).feed = m.feed := rfl
@[simp] theorem Fjoek.setXport_bay (m : Fjoek) (x : Xport) : (m.setXport x).bay = m.bay := rfl
@[simp] theorem Fjoek.setXport_mgmt (m : Fjoek) (x : Xport) : (m.setXport x).mgmt = m.mgmt := rfl
@[simp] theorem Fjoek.setXport_drv (m : Fjoek) (x : Xport) : (m.setXport x).drv = m.drv := rfl
@[simp] theorem Fjoek.setXport_lib (m : Fjoek) (x : Xport) : (m.setXport x).lib = m.lib := rfl
@[simp] theorem Fjoek.setXport_netp (m : Fjoek) (x : Xport) : (m.setXport x).netp = m.netp := rfl
@[simp] theorem Fjoek.setXport_swc (m : Fjoek) (x : Xport) : (m.setXport x).swc = m.swc := rfl
@[simp] theorem Fjoek.setXport_fwd (m : Fjoek) (x : Xport) : (m.setXport x).fwd = m.fwd := rfl
@[simp] theorem Fjoek.setXport_xport (m : Fjoek) (x : Xport) : (m.setXport x).xport = x := rfl
@[simp] theorem Fjoek.setXport_thim (m : Fjoek) (x : Xport) : (m.setXport x).thim = m.thim := rfl

@[simp] theorem Fjoek.setQp_regs (m : Fjoek) (n : Nat) (x : Qp) : (m.setQp n x).regs = m.regs := rfl
@[simp] theorem Fjoek.setQp_wide (m : Fjoek) (n : Nat) (x : Qp) : (m.setQp n x).wide = m.wide := rfl
@[simp] theorem Fjoek.setQp_snap (m : Fjoek) (n : Nat) (x : Qp) : (m.setQp n x).snap = m.snap := rfl
@[simp] theorem Fjoek.setQp_era (m : Fjoek) (n : Nat) (x : Qp) : (m.setQp n x).era = m.era := rfl
@[simp] theorem Fjoek.setQp_hbm (m : Fjoek) (n : Nat) (x : Qp) : (m.setQp n x).hbm = m.hbm := rfl
@[simp] theorem Fjoek.setQp_mram (m : Fjoek) (n : Nat) (x : Qp) : (m.setQp n x).mram = m.mram := rfl
@[simp] theorem Fjoek.setQp_locks (m : Fjoek) (n : Nat) (x : Qp) : (m.setQp n x).locks = m.locks := rfl
@[simp] theorem Fjoek.setQp_hbmPoison (m : Fjoek) (n : Nat) (x : Qp) : (m.setQp n x).hbmPoison = m.hbmPoison := rfl
@[simp] theorem Fjoek.setQp_hbmHidden (m : Fjoek) (n : Nat) (x : Qp) : (m.setQp n x).hbmHidden = m.hbmHidden := rfl
@[simp] theorem Fjoek.setQp_free (m : Fjoek) (n : Nat) (x : Qp) : (m.setQp n x).free = m.free := rfl
@[simp] theorem Fjoek.setQp_tally (m : Fjoek) (n : Nat) (x : Qp) : (m.setQp n x).tally = m.tally := rfl
@[simp] theorem Fjoek.setQp_out (m : Fjoek) (n : Nat) (x : Qp) : (m.setQp n x).out = m.out := rfl
@[simp] theorem Fjoek.setQp_seam (m : Fjoek) (n : Nat) (x : Qp) : (m.setQp n x).seam = m.seam := rfl
@[simp] theorem Fjoek.setQp_mngl (m : Fjoek) (n : Nat) (x : Qp) : (m.setQp n x).mngl = m.mngl := rfl
@[simp] theorem Fjoek.setQp_damp (m : Fjoek) (n : Nat) (x : Qp) : (m.setQp n x).damp = m.damp := rfl
@[simp] theorem Fjoek.setQp_pmon (m : Fjoek) (n : Nat) (x : Qp) : (m.setQp n x).pmon = m.pmon := rfl
@[simp] theorem Fjoek.setQp_att (m : Fjoek) (n : Nat) (x : Qp) : (m.setQp n x).att = m.att := rfl
@[simp] theorem Fjoek.setQp_twin (m : Fjoek) (n : Nat) (x : Qp) : (m.setQp n x).twin = m.twin := rfl
@[simp] theorem Fjoek.setQp_hearth (m : Fjoek) (n : Nat) (x : Qp) : (m.setQp n x).hearth = m.hearth := rfl
@[simp] theorem Fjoek.setQp_feed (m : Fjoek) (n : Nat) (x : Qp) : (m.setQp n x).feed = m.feed := rfl
@[simp] theorem Fjoek.setQp_bay (m : Fjoek) (n : Nat) (x : Qp) : (m.setQp n x).bay = m.bay := rfl
@[simp] theorem Fjoek.setQp_mgmt (m : Fjoek) (n : Nat) (x : Qp) : (m.setQp n x).mgmt = m.mgmt := rfl
@[simp] theorem Fjoek.setQp_drv (m : Fjoek) (n : Nat) (x : Qp) : (m.setQp n x).drv = m.drv := rfl
@[simp] theorem Fjoek.setQp_lib (m : Fjoek) (n : Nat) (x : Qp) : (m.setQp n x).lib = m.lib := rfl
@[simp] theorem Fjoek.setQp_netp (m : Fjoek) (n : Nat) (x : Qp) : (m.setQp n x).netp = m.netp := rfl
@[simp] theorem Fjoek.setQp_swc (m : Fjoek) (n : Nat) (x : Qp) : (m.setQp n x).swc = m.swc := rfl
@[simp] theorem Fjoek.setQp_fwd (m : Fjoek) (n : Nat) (x : Qp) : (m.setQp n x).fwd = m.fwd := rfl
@[simp] theorem Fjoek.setQp_thim (m : Fjoek) (n : Nat) (x : Qp) : (m.setQp n x).thim = m.thim := rfl

@[simp] theorem Fjoek.setDamp_regs (m : Fjoek) (x : Damp) : (m.setDamp x).regs = m.regs := rfl
@[simp] theorem Fjoek.setDamp_wide (m : Fjoek) (x : Damp) : (m.setDamp x).wide = m.wide := rfl
@[simp] theorem Fjoek.setDamp_snap (m : Fjoek) (x : Damp) : (m.setDamp x).snap = m.snap := rfl
@[simp] theorem Fjoek.setDamp_era (m : Fjoek) (x : Damp) : (m.setDamp x).era = m.era := rfl
@[simp] theorem Fjoek.setDamp_hbm (m : Fjoek) (x : Damp) : (m.setDamp x).hbm = m.hbm := rfl
@[simp] theorem Fjoek.setDamp_mram (m : Fjoek) (x : Damp) : (m.setDamp x).mram = m.mram := rfl
@[simp] theorem Fjoek.setDamp_locks (m : Fjoek) (x : Damp) : (m.setDamp x).locks = m.locks := rfl
@[simp] theorem Fjoek.setDamp_hbmPoison (m : Fjoek) (x : Damp) : (m.setDamp x).hbmPoison = m.hbmPoison := rfl
@[simp] theorem Fjoek.setDamp_hbmHidden (m : Fjoek) (x : Damp) : (m.setDamp x).hbmHidden = m.hbmHidden := rfl
@[simp] theorem Fjoek.setDamp_free (m : Fjoek) (x : Damp) : (m.setDamp x).free = m.free := rfl
@[simp] theorem Fjoek.setDamp_tally (m : Fjoek) (x : Damp) : (m.setDamp x).tally = m.tally := rfl
@[simp] theorem Fjoek.setDamp_out (m : Fjoek) (x : Damp) : (m.setDamp x).out = m.out := rfl
@[simp] theorem Fjoek.setDamp_seam (m : Fjoek) (x : Damp) : (m.setDamp x).seam = m.seam := rfl
@[simp] theorem Fjoek.setDamp_mngl (m : Fjoek) (x : Damp) : (m.setDamp x).mngl = m.mngl := rfl
@[simp] theorem Fjoek.setDamp_damp (m : Fjoek) (x : Damp) : (m.setDamp x).damp = x := rfl
@[simp] theorem Fjoek.setDamp_pmon (m : Fjoek) (x : Damp) : (m.setDamp x).pmon = m.pmon := rfl
@[simp] theorem Fjoek.setDamp_att (m : Fjoek) (x : Damp) : (m.setDamp x).att = m.att := rfl
@[simp] theorem Fjoek.setDamp_twin (m : Fjoek) (x : Damp) : (m.setDamp x).twin = m.twin := rfl
@[simp] theorem Fjoek.setDamp_hearth (m : Fjoek) (x : Damp) : (m.setDamp x).hearth = m.hearth := rfl
@[simp] theorem Fjoek.setDamp_feed (m : Fjoek) (x : Damp) : (m.setDamp x).feed = m.feed := rfl
@[simp] theorem Fjoek.setDamp_bay (m : Fjoek) (x : Damp) : (m.setDamp x).bay = m.bay := rfl
@[simp] theorem Fjoek.setDamp_mgmt (m : Fjoek) (x : Damp) : (m.setDamp x).mgmt = m.mgmt := rfl
@[simp] theorem Fjoek.setDamp_drv (m : Fjoek) (x : Damp) : (m.setDamp x).drv = m.drv := rfl
@[simp] theorem Fjoek.setDamp_lib (m : Fjoek) (x : Damp) : (m.setDamp x).lib = m.lib := rfl
@[simp] theorem Fjoek.setDamp_netp (m : Fjoek) (x : Damp) : (m.setDamp x).netp = m.netp := rfl
@[simp] theorem Fjoek.setDamp_swc (m : Fjoek) (x : Damp) : (m.setDamp x).swc = m.swc := rfl
@[simp] theorem Fjoek.setDamp_fwd (m : Fjoek) (x : Damp) : (m.setDamp x).fwd = m.fwd := rfl
@[simp] theorem Fjoek.setDamp_xport (m : Fjoek) (x : Damp) : (m.setDamp x).xport = m.xport := rfl
@[simp] theorem Fjoek.setDamp_thim (m : Fjoek) (x : Damp) : (m.setDamp x).thim = m.thim := rfl

@[simp] theorem Fjoek.setPort_regs (m : Fjoek) (p : Nat) (x : DrvPort) : (m.setPort p x).regs = m.regs := rfl
@[simp] theorem Fjoek.setPort_wide (m : Fjoek) (p : Nat) (x : DrvPort) : (m.setPort p x).wide = m.wide := rfl
@[simp] theorem Fjoek.setPort_snap (m : Fjoek) (p : Nat) (x : DrvPort) : (m.setPort p x).snap = m.snap := rfl
@[simp] theorem Fjoek.setPort_era (m : Fjoek) (p : Nat) (x : DrvPort) : (m.setPort p x).era = m.era := rfl
@[simp] theorem Fjoek.setPort_hbm (m : Fjoek) (p : Nat) (x : DrvPort) : (m.setPort p x).hbm = m.hbm := rfl
@[simp] theorem Fjoek.setPort_mram (m : Fjoek) (p : Nat) (x : DrvPort) : (m.setPort p x).mram = m.mram := rfl
@[simp] theorem Fjoek.setPort_locks (m : Fjoek) (p : Nat) (x : DrvPort) : (m.setPort p x).locks = m.locks := rfl
@[simp] theorem Fjoek.setPort_hbmPoison (m : Fjoek) (p : Nat) (x : DrvPort) : (m.setPort p x).hbmPoison = m.hbmPoison := rfl
@[simp] theorem Fjoek.setPort_hbmHidden (m : Fjoek) (p : Nat) (x : DrvPort) : (m.setPort p x).hbmHidden = m.hbmHidden := rfl
@[simp] theorem Fjoek.setPort_free (m : Fjoek) (p : Nat) (x : DrvPort) : (m.setPort p x).free = m.free := rfl
@[simp] theorem Fjoek.setPort_tally (m : Fjoek) (p : Nat) (x : DrvPort) : (m.setPort p x).tally = m.tally := rfl
@[simp] theorem Fjoek.setPort_out (m : Fjoek) (p : Nat) (x : DrvPort) : (m.setPort p x).out = m.out := rfl
@[simp] theorem Fjoek.setPort_seam (m : Fjoek) (p : Nat) (x : DrvPort) : (m.setPort p x).seam = m.seam := rfl
@[simp] theorem Fjoek.setPort_mngl (m : Fjoek) (p : Nat) (x : DrvPort) : (m.setPort p x).mngl = m.mngl := rfl
@[simp] theorem Fjoek.setPort_damp (m : Fjoek) (p : Nat) (x : DrvPort) : (m.setPort p x).damp = m.damp := rfl
@[simp] theorem Fjoek.setPort_pmon (m : Fjoek) (p : Nat) (x : DrvPort) : (m.setPort p x).pmon = m.pmon := rfl
@[simp] theorem Fjoek.setPort_att (m : Fjoek) (p : Nat) (x : DrvPort) : (m.setPort p x).att = m.att := rfl
@[simp] theorem Fjoek.setPort_twin (m : Fjoek) (p : Nat) (x : DrvPort) : (m.setPort p x).twin = m.twin := rfl
@[simp] theorem Fjoek.setPort_hearth (m : Fjoek) (p : Nat) (x : DrvPort) : (m.setPort p x).hearth = m.hearth := rfl
@[simp] theorem Fjoek.setPort_feed (m : Fjoek) (p : Nat) (x : DrvPort) : (m.setPort p x).feed = m.feed := rfl
@[simp] theorem Fjoek.setPort_bay (m : Fjoek) (p : Nat) (x : DrvPort) : (m.setPort p x).bay = m.bay := rfl
@[simp] theorem Fjoek.setPort_mgmt (m : Fjoek) (p : Nat) (x : DrvPort) : (m.setPort p x).mgmt = m.mgmt := rfl
@[simp] theorem Fjoek.setPort_drv (m : Fjoek) (p : Nat) (x : DrvPort) : (m.setPort p x).drv = { m.drv with ports := tableSet portReset m.drv.ports p x } := rfl
@[simp] theorem Fjoek.setPort_lib (m : Fjoek) (p : Nat) (x : DrvPort) : (m.setPort p x).lib = m.lib := rfl
@[simp] theorem Fjoek.setPort_netp (m : Fjoek) (p : Nat) (x : DrvPort) : (m.setPort p x).netp = m.netp := rfl
@[simp] theorem Fjoek.setPort_swc (m : Fjoek) (p : Nat) (x : DrvPort) : (m.setPort p x).swc = m.swc := rfl
@[simp] theorem Fjoek.setPort_fwd (m : Fjoek) (p : Nat) (x : DrvPort) : (m.setPort p x).fwd = m.fwd := rfl
@[simp] theorem Fjoek.setPort_xport (m : Fjoek) (p : Nat) (x : DrvPort) : (m.setPort p x).xport = m.xport := rfl
@[simp] theorem Fjoek.setPort_thim (m : Fjoek) (p : Nat) (x : DrvPort) : (m.setPort p x).thim = m.thim := rfl

@[simp] theorem Fjoek.setCredit_regs (m : Fjoek) (p v : Nat) : (m.setCredit p v).regs = m.regs := rfl
@[simp] theorem Fjoek.setCredit_wide (m : Fjoek) (p v : Nat) : (m.setCredit p v).wide = m.wide := rfl
@[simp] theorem Fjoek.setCredit_snap (m : Fjoek) (p v : Nat) : (m.setCredit p v).snap = m.snap := rfl
@[simp] theorem Fjoek.setCredit_era (m : Fjoek) (p v : Nat) : (m.setCredit p v).era = m.era := rfl
@[simp] theorem Fjoek.setCredit_hbm (m : Fjoek) (p v : Nat) : (m.setCredit p v).hbm = m.hbm := rfl
@[simp] theorem Fjoek.setCredit_mram (m : Fjoek) (p v : Nat) : (m.setCredit p v).mram = m.mram := rfl
@[simp] theorem Fjoek.setCredit_locks (m : Fjoek) (p v : Nat) : (m.setCredit p v).locks = m.locks := rfl
@[simp] theorem Fjoek.setCredit_hbmPoison (m : Fjoek) (p v : Nat) : (m.setCredit p v).hbmPoison = m.hbmPoison := rfl
@[simp] theorem Fjoek.setCredit_hbmHidden (m : Fjoek) (p v : Nat) : (m.setCredit p v).hbmHidden = m.hbmHidden := rfl
@[simp] theorem Fjoek.setCredit_free (m : Fjoek) (p v : Nat) : (m.setCredit p v).free = m.free := rfl
@[simp] theorem Fjoek.setCredit_tally (m : Fjoek) (p v : Nat) : (m.setCredit p v).tally = m.tally := rfl
@[simp] theorem Fjoek.setCredit_out (m : Fjoek) (p v : Nat) : (m.setCredit p v).out = m.out := rfl
@[simp] theorem Fjoek.setCredit_seam (m : Fjoek) (p v : Nat) : (m.setCredit p v).seam = m.seam := rfl
@[simp] theorem Fjoek.setCredit_mngl (m : Fjoek) (p v : Nat) : (m.setCredit p v).mngl = m.mngl := rfl
@[simp] theorem Fjoek.setCredit_damp (m : Fjoek) (p v : Nat) : (m.setCredit p v).damp = m.damp := rfl
@[simp] theorem Fjoek.setCredit_pmon (m : Fjoek) (p v : Nat) : (m.setCredit p v).pmon = m.pmon := rfl
@[simp] theorem Fjoek.setCredit_att (m : Fjoek) (p v : Nat) : (m.setCredit p v).att = m.att := rfl
@[simp] theorem Fjoek.setCredit_twin (m : Fjoek) (p v : Nat) : (m.setCredit p v).twin = m.twin := rfl
@[simp] theorem Fjoek.setCredit_hearth (m : Fjoek) (p v : Nat) : (m.setCredit p v).hearth = m.hearth := rfl
@[simp] theorem Fjoek.setCredit_feed (m : Fjoek) (p v : Nat) : (m.setCredit p v).feed = m.feed := rfl
@[simp] theorem Fjoek.setCredit_bay (m : Fjoek) (p v : Nat) : (m.setCredit p v).bay = m.bay := rfl
@[simp] theorem Fjoek.setCredit_mgmt (m : Fjoek) (p v : Nat) : (m.setCredit p v).mgmt = m.mgmt := rfl
@[simp] theorem Fjoek.setCredit_drv (m : Fjoek) (p v : Nat) : (m.setCredit p v).drv = m.drv := rfl
@[simp] theorem Fjoek.setCredit_netp (m : Fjoek) (p v : Nat) : (m.setCredit p v).netp = m.netp := rfl
@[simp] theorem Fjoek.setCredit_swc (m : Fjoek) (p v : Nat) : (m.setCredit p v).swc = m.swc := rfl
@[simp] theorem Fjoek.setCredit_fwd (m : Fjoek) (p v : Nat) : (m.setCredit p v).fwd = m.fwd := rfl
@[simp] theorem Fjoek.setCredit_xport (m : Fjoek) (p v : Nat) : (m.setCredit p v).xport = m.xport := rfl
@[simp] theorem Fjoek.setCredit_thim (m : Fjoek) (p v : Nat) : (m.setCredit p v).thim = m.thim := rfl

@[simp] theorem Fjoek.setCache_regs (m : Fjoek) (l : List CacheBlock) : (m.setCache l).regs = m.regs := rfl
@[simp] theorem Fjoek.setCache_wide (m : Fjoek) (l : List CacheBlock) : (m.setCache l).wide = m.wide := rfl
@[simp] theorem Fjoek.setCache_snap (m : Fjoek) (l : List CacheBlock) : (m.setCache l).snap = m.snap := rfl
@[simp] theorem Fjoek.setCache_era (m : Fjoek) (l : List CacheBlock) : (m.setCache l).era = m.era := rfl
@[simp] theorem Fjoek.setCache_hbm (m : Fjoek) (l : List CacheBlock) : (m.setCache l).hbm = m.hbm := rfl
@[simp] theorem Fjoek.setCache_mram (m : Fjoek) (l : List CacheBlock) : (m.setCache l).mram = m.mram := rfl
@[simp] theorem Fjoek.setCache_locks (m : Fjoek) (l : List CacheBlock) : (m.setCache l).locks = m.locks := rfl
@[simp] theorem Fjoek.setCache_hbmPoison (m : Fjoek) (l : List CacheBlock) : (m.setCache l).hbmPoison = m.hbmPoison := rfl
@[simp] theorem Fjoek.setCache_hbmHidden (m : Fjoek) (l : List CacheBlock) : (m.setCache l).hbmHidden = m.hbmHidden := rfl
@[simp] theorem Fjoek.setCache_free (m : Fjoek) (l : List CacheBlock) : (m.setCache l).free = m.free := rfl
@[simp] theorem Fjoek.setCache_tally (m : Fjoek) (l : List CacheBlock) : (m.setCache l).tally = m.tally := rfl
@[simp] theorem Fjoek.setCache_out (m : Fjoek) (l : List CacheBlock) : (m.setCache l).out = m.out := rfl
@[simp] theorem Fjoek.setCache_seam (m : Fjoek) (l : List CacheBlock) : (m.setCache l).seam = m.seam := rfl
@[simp] theorem Fjoek.setCache_mngl (m : Fjoek) (l : List CacheBlock) : (m.setCache l).mngl = m.mngl := rfl
@[simp] theorem Fjoek.setCache_damp (m : Fjoek) (l : List CacheBlock) : (m.setCache l).damp = m.damp := rfl
@[simp] theorem Fjoek.setCache_pmon (m : Fjoek) (l : List CacheBlock) : (m.setCache l).pmon = m.pmon := rfl
@[simp] theorem Fjoek.setCache_att (m : Fjoek) (l : List CacheBlock) : (m.setCache l).att = m.att := rfl
@[simp] theorem Fjoek.setCache_twin (m : Fjoek) (l : List CacheBlock) : (m.setCache l).twin = m.twin := rfl
@[simp] theorem Fjoek.setCache_hearth (m : Fjoek) (l : List CacheBlock) : (m.setCache l).hearth = m.hearth := rfl
@[simp] theorem Fjoek.setCache_feed (m : Fjoek) (l : List CacheBlock) : (m.setCache l).feed = m.feed := rfl
@[simp] theorem Fjoek.setCache_bay (m : Fjoek) (l : List CacheBlock) : (m.setCache l).bay = m.bay := rfl
@[simp] theorem Fjoek.setCache_mgmt (m : Fjoek) (l : List CacheBlock) : (m.setCache l).mgmt = m.mgmt := rfl
@[simp] theorem Fjoek.setCache_drv (m : Fjoek) (l : List CacheBlock) : (m.setCache l).drv = m.drv := rfl
@[simp] theorem Fjoek.setCache_lib (m : Fjoek) (l : List CacheBlock) : (m.setCache l).lib = { m.lib with cache := l } := rfl
@[simp] theorem Fjoek.setCache_netp (m : Fjoek) (l : List CacheBlock) : (m.setCache l).netp = m.netp := rfl
@[simp] theorem Fjoek.setCache_swc (m : Fjoek) (l : List CacheBlock) : (m.setCache l).swc = m.swc := rfl
@[simp] theorem Fjoek.setCache_fwd (m : Fjoek) (l : List CacheBlock) : (m.setCache l).fwd = m.fwd := rfl
@[simp] theorem Fjoek.setCache_xport (m : Fjoek) (l : List CacheBlock) : (m.setCache l).xport = m.xport := rfl
@[simp] theorem Fjoek.setCache_thim (m : Fjoek) (l : List CacheBlock) : (m.setCache l).thim = m.thim := rfl

@[simp] theorem Fjoek.setPool_regs (m : Fjoek) (p : Nat) (x : Pool) : (m.setPool p x).regs = m.regs := rfl
@[simp] theorem Fjoek.setPool_wide (m : Fjoek) (p : Nat) (x : Pool) : (m.setPool p x).wide = m.wide := rfl
@[simp] theorem Fjoek.setPool_snap (m : Fjoek) (p : Nat) (x : Pool) : (m.setPool p x).snap = m.snap := rfl
@[simp] theorem Fjoek.setPool_era (m : Fjoek) (p : Nat) (x : Pool) : (m.setPool p x).era = m.era := rfl
@[simp] theorem Fjoek.setPool_hbm (m : Fjoek) (p : Nat) (x : Pool) : (m.setPool p x).hbm = m.hbm := rfl
@[simp] theorem Fjoek.setPool_mram (m : Fjoek) (p : Nat) (x : Pool) : (m.setPool p x).mram = m.mram := rfl
@[simp] theorem Fjoek.setPool_locks (m : Fjoek) (p : Nat) (x : Pool) : (m.setPool p x).locks = m.locks := rfl
@[simp] theorem Fjoek.setPool_hbmPoison (m : Fjoek) (p : Nat) (x : Pool) : (m.setPool p x).hbmPoison = m.hbmPoison := rfl
@[simp] theorem Fjoek.setPool_hbmHidden (m : Fjoek) (p : Nat) (x : Pool) : (m.setPool p x).hbmHidden = m.hbmHidden := rfl
@[simp] theorem Fjoek.setPool_free (m : Fjoek) (p : Nat) (x : Pool) : (m.setPool p x).free = m.free := rfl
@[simp] theorem Fjoek.setPool_tally (m : Fjoek) (p : Nat) (x : Pool) : (m.setPool p x).tally = m.tally := rfl
@[simp] theorem Fjoek.setPool_out (m : Fjoek) (p : Nat) (x : Pool) : (m.setPool p x).out = m.out := rfl
@[simp] theorem Fjoek.setPool_seam (m : Fjoek) (p : Nat) (x : Pool) : (m.setPool p x).seam = m.seam := rfl
@[simp] theorem Fjoek.setPool_mngl (m : Fjoek) (p : Nat) (x : Pool) : (m.setPool p x).mngl = m.mngl := rfl
@[simp] theorem Fjoek.setPool_damp (m : Fjoek) (p : Nat) (x : Pool) : (m.setPool p x).damp = m.damp := rfl
@[simp] theorem Fjoek.setPool_pmon (m : Fjoek) (p : Nat) (x : Pool) : (m.setPool p x).pmon = m.pmon := rfl
@[simp] theorem Fjoek.setPool_att (m : Fjoek) (p : Nat) (x : Pool) : (m.setPool p x).att = m.att := rfl
@[simp] theorem Fjoek.setPool_twin (m : Fjoek) (p : Nat) (x : Pool) : (m.setPool p x).twin = m.twin := rfl
@[simp] theorem Fjoek.setPool_hearth (m : Fjoek) (p : Nat) (x : Pool) : (m.setPool p x).hearth = m.hearth := rfl
@[simp] theorem Fjoek.setPool_feed (m : Fjoek) (p : Nat) (x : Pool) : (m.setPool p x).feed = m.feed := rfl
@[simp] theorem Fjoek.setPool_bay (m : Fjoek) (p : Nat) (x : Pool) : (m.setPool p x).bay = m.bay := rfl
@[simp] theorem Fjoek.setPool_mgmt (m : Fjoek) (p : Nat) (x : Pool) : (m.setPool p x).mgmt = m.mgmt := rfl
@[simp] theorem Fjoek.setPool_drv (m : Fjoek) (p : Nat) (x : Pool) : (m.setPool p x).drv = m.drv := rfl
@[simp] theorem Fjoek.setPool_netp (m : Fjoek) (p : Nat) (x : Pool) : (m.setPool p x).netp = m.netp := rfl
@[simp] theorem Fjoek.setPool_swc (m : Fjoek) (p : Nat) (x : Pool) : (m.setPool p x).swc = m.swc := rfl
@[simp] theorem Fjoek.setPool_fwd (m : Fjoek) (p : Nat) (x : Pool) : (m.setPool p x).fwd = m.fwd := rfl
@[simp] theorem Fjoek.setPool_xport (m : Fjoek) (p : Nat) (x : Pool) : (m.setPool p x).xport = m.xport := rfl
@[simp] theorem Fjoek.setPool_thim (m : Fjoek) (p : Nat) (x : Pool) : (m.setPool p x).thim = m.thim := rfl

@[simp] theorem Fjoek.setFeed_regs (m : Fjoek) (x : Feed) : (m.setFeed x).regs = m.regs := rfl
@[simp] theorem Fjoek.setFeed_wide (m : Fjoek) (x : Feed) : (m.setFeed x).wide = m.wide := rfl
@[simp] theorem Fjoek.setFeed_snap (m : Fjoek) (x : Feed) : (m.setFeed x).snap = m.snap := rfl
@[simp] theorem Fjoek.setFeed_era (m : Fjoek) (x : Feed) : (m.setFeed x).era = m.era := rfl
@[simp] theorem Fjoek.setFeed_hbm (m : Fjoek) (x : Feed) : (m.setFeed x).hbm = m.hbm := rfl
@[simp] theorem Fjoek.setFeed_mram (m : Fjoek) (x : Feed) : (m.setFeed x).mram = m.mram := rfl
@[simp] theorem Fjoek.setFeed_locks (m : Fjoek) (x : Feed) : (m.setFeed x).locks = m.locks := rfl
@[simp] theorem Fjoek.setFeed_hbmPoison (m : Fjoek) (x : Feed) : (m.setFeed x).hbmPoison = m.hbmPoison := rfl
@[simp] theorem Fjoek.setFeed_hbmHidden (m : Fjoek) (x : Feed) : (m.setFeed x).hbmHidden = m.hbmHidden := rfl
@[simp] theorem Fjoek.setFeed_free (m : Fjoek) (x : Feed) : (m.setFeed x).free = m.free := rfl
@[simp] theorem Fjoek.setFeed_tally (m : Fjoek) (x : Feed) : (m.setFeed x).tally = m.tally := rfl
@[simp] theorem Fjoek.setFeed_out (m : Fjoek) (x : Feed) : (m.setFeed x).out = m.out := rfl
@[simp] theorem Fjoek.setFeed_seam (m : Fjoek) (x : Feed) : (m.setFeed x).seam = m.seam := rfl
@[simp] theorem Fjoek.setFeed_mngl (m : Fjoek) (x : Feed) : (m.setFeed x).mngl = m.mngl := rfl
@[simp] theorem Fjoek.setFeed_damp (m : Fjoek) (x : Feed) : (m.setFeed x).damp = m.damp := rfl
@[simp] theorem Fjoek.setFeed_pmon (m : Fjoek) (x : Feed) : (m.setFeed x).pmon = m.pmon := rfl
@[simp] theorem Fjoek.setFeed_att (m : Fjoek) (x : Feed) : (m.setFeed x).att = m.att := rfl
@[simp] theorem Fjoek.setFeed_twin (m : Fjoek) (x : Feed) : (m.setFeed x).twin = m.twin := rfl
@[simp] theorem Fjoek.setFeed_hearth (m : Fjoek) (x : Feed) : (m.setFeed x).hearth = m.hearth := rfl
@[simp] theorem Fjoek.setFeed_feed (m : Fjoek) (x : Feed) : (m.setFeed x).feed = x := rfl
@[simp] theorem Fjoek.setFeed_bay (m : Fjoek) (x : Feed) : (m.setFeed x).bay = m.bay := rfl
@[simp] theorem Fjoek.setFeed_mgmt (m : Fjoek) (x : Feed) : (m.setFeed x).mgmt = m.mgmt := rfl
@[simp] theorem Fjoek.setFeed_drv (m : Fjoek) (x : Feed) : (m.setFeed x).drv = m.drv := rfl
@[simp] theorem Fjoek.setFeed_lib (m : Fjoek) (x : Feed) : (m.setFeed x).lib = m.lib := rfl
@[simp] theorem Fjoek.setFeed_netp (m : Fjoek) (x : Feed) : (m.setFeed x).netp = m.netp := rfl
@[simp] theorem Fjoek.setFeed_swc (m : Fjoek) (x : Feed) : (m.setFeed x).swc = m.swc := rfl
@[simp] theorem Fjoek.setFeed_fwd (m : Fjoek) (x : Feed) : (m.setFeed x).fwd = m.fwd := rfl
@[simp] theorem Fjoek.setFeed_xport (m : Fjoek) (x : Feed) : (m.setFeed x).xport = m.xport := rfl
@[simp] theorem Fjoek.setFeed_thim (m : Fjoek) (x : Feed) : (m.setFeed x).thim = m.thim := rfl

@[simp] theorem Fjoek.setHearth_regs (m : Fjoek) (x : Hearth) : (m.setHearth x).regs = m.regs := rfl
@[simp] theorem Fjoek.setHearth_wide (m : Fjoek) (x : Hearth) : (m.setHearth x).wide = m.wide := rfl
@[simp] theorem Fjoek.setHearth_snap (m : Fjoek) (x : Hearth) : (m.setHearth x).snap = m.snap := rfl
@[simp] theorem Fjoek.setHearth_era (m : Fjoek) (x : Hearth) : (m.setHearth x).era = m.era := rfl
@[simp] theorem Fjoek.setHearth_hbm (m : Fjoek) (x : Hearth) : (m.setHearth x).hbm = m.hbm := rfl
@[simp] theorem Fjoek.setHearth_mram (m : Fjoek) (x : Hearth) : (m.setHearth x).mram = m.mram := rfl
@[simp] theorem Fjoek.setHearth_locks (m : Fjoek) (x : Hearth) : (m.setHearth x).locks = m.locks := rfl
@[simp] theorem Fjoek.setHearth_hbmPoison (m : Fjoek) (x : Hearth) : (m.setHearth x).hbmPoison = m.hbmPoison := rfl
@[simp] theorem Fjoek.setHearth_hbmHidden (m : Fjoek) (x : Hearth) : (m.setHearth x).hbmHidden = m.hbmHidden := rfl
@[simp] theorem Fjoek.setHearth_free (m : Fjoek) (x : Hearth) : (m.setHearth x).free = m.free := rfl
@[simp] theorem Fjoek.setHearth_tally (m : Fjoek) (x : Hearth) : (m.setHearth x).tally = m.tally := rfl
@[simp] theorem Fjoek.setHearth_out (m : Fjoek) (x : Hearth) : (m.setHearth x).out = m.out := rfl
@[simp] theorem Fjoek.setHearth_seam (m : Fjoek) (x : Hearth) : (m.setHearth x).seam = m.seam := rfl
@[simp] theorem Fjoek.setHearth_mngl (m : Fjoek) (x : Hearth) : (m.setHearth x).mngl = m.mngl := rfl
@[simp] theorem Fjoek.setHearth_damp (m : Fjoek) (x : Hearth) : (m.setHearth x).damp = m.damp := rfl
@[simp] theorem Fjoek.setHearth_pmon (m : Fjoek) (x : Hearth) : (m.setHearth x).pmon = m.pmon := rfl
@[simp] theorem Fjoek.setHearth_att (m : Fjoek) (x : Hearth) : (m.setHearth x).att = m.att := rfl
@[simp] theorem Fjoek.setHearth_twin (m : Fjoek) (x : Hearth) : (m.setHearth x).twin = m.twin := rfl
@[simp] theorem Fjoek.setHearth_hearth (m : Fjoek) (x : Hearth) : (m.setHearth x).hearth = x := rfl
@[simp] theorem Fjoek.setHearth_feed (m : Fjoek) (x : Hearth) : (m.setHearth x).feed = m.feed := rfl
@[simp] theorem Fjoek.setHearth_bay (m : Fjoek) (x : Hearth) : (m.setHearth x).bay = m.bay := rfl
@[simp] theorem Fjoek.setHearth_mgmt (m : Fjoek) (x : Hearth) : (m.setHearth x).mgmt = m.mgmt := rfl
@[simp] theorem Fjoek.setHearth_drv (m : Fjoek) (x : Hearth) : (m.setHearth x).drv = m.drv := rfl
@[simp] theorem Fjoek.setHearth_lib (m : Fjoek) (x : Hearth) : (m.setHearth x).lib = m.lib := rfl
@[simp] theorem Fjoek.setHearth_netp (m : Fjoek) (x : Hearth) : (m.setHearth x).netp = m.netp := rfl
@[simp] theorem Fjoek.setHearth_swc (m : Fjoek) (x : Hearth) : (m.setHearth x).swc = m.swc := rfl
@[simp] theorem Fjoek.setHearth_fwd (m : Fjoek) (x : Hearth) : (m.setHearth x).fwd = m.fwd := rfl
@[simp] theorem Fjoek.setHearth_xport (m : Fjoek) (x : Hearth) : (m.setHearth x).xport = m.xport := rfl
@[simp] theorem Fjoek.setHearth_thim (m : Fjoek) (x : Hearth) : (m.setHearth x).thim = m.thim := rfl

@[simp] theorem Fjoek.setLockWord_regs (m : Fjoek) (x w : Nat) (v : Word64) : (m.setLockWord x w v).regs = m.regs := rfl
@[simp] theorem Fjoek.setLockWord_wide (m : Fjoek) (x w : Nat) (v : Word64) : (m.setLockWord x w v).wide = m.wide := rfl
@[simp] theorem Fjoek.setLockWord_snap (m : Fjoek) (x w : Nat) (v : Word64) : (m.setLockWord x w v).snap = m.snap := rfl
@[simp] theorem Fjoek.setLockWord_era (m : Fjoek) (x w : Nat) (v : Word64) : (m.setLockWord x w v).era = m.era := rfl
@[simp] theorem Fjoek.setLockWord_hbm (m : Fjoek) (x w : Nat) (v : Word64) : (m.setLockWord x w v).hbm = m.hbm := rfl
@[simp] theorem Fjoek.setLockWord_mram (m : Fjoek) (x w : Nat) (v : Word64) : (m.setLockWord x w v).mram = m.mram := rfl
@[simp] theorem Fjoek.setLockWord_hbmPoison (m : Fjoek) (x w : Nat) (v : Word64) : (m.setLockWord x w v).hbmPoison = m.hbmPoison := rfl
@[simp] theorem Fjoek.setLockWord_hbmHidden (m : Fjoek) (x w : Nat) (v : Word64) : (m.setLockWord x w v).hbmHidden = m.hbmHidden := rfl
@[simp] theorem Fjoek.setLockWord_free (m : Fjoek) (x w : Nat) (v : Word64) : (m.setLockWord x w v).free = m.free := rfl
@[simp] theorem Fjoek.setLockWord_tally (m : Fjoek) (x w : Nat) (v : Word64) : (m.setLockWord x w v).tally = m.tally := rfl
@[simp] theorem Fjoek.setLockWord_out (m : Fjoek) (x w : Nat) (v : Word64) : (m.setLockWord x w v).out = m.out := rfl
@[simp] theorem Fjoek.setLockWord_seam (m : Fjoek) (x w : Nat) (v : Word64) : (m.setLockWord x w v).seam = m.seam := rfl
@[simp] theorem Fjoek.setLockWord_mngl (m : Fjoek) (x w : Nat) (v : Word64) : (m.setLockWord x w v).mngl = m.mngl := rfl
@[simp] theorem Fjoek.setLockWord_damp (m : Fjoek) (x w : Nat) (v : Word64) : (m.setLockWord x w v).damp = m.damp := rfl
@[simp] theorem Fjoek.setLockWord_pmon (m : Fjoek) (x w : Nat) (v : Word64) : (m.setLockWord x w v).pmon = m.pmon := rfl
@[simp] theorem Fjoek.setLockWord_att (m : Fjoek) (x w : Nat) (v : Word64) : (m.setLockWord x w v).att = m.att := rfl
@[simp] theorem Fjoek.setLockWord_twin (m : Fjoek) (x w : Nat) (v : Word64) : (m.setLockWord x w v).twin = m.twin := rfl
@[simp] theorem Fjoek.setLockWord_hearth (m : Fjoek) (x w : Nat) (v : Word64) : (m.setLockWord x w v).hearth = m.hearth := rfl
@[simp] theorem Fjoek.setLockWord_feed (m : Fjoek) (x w : Nat) (v : Word64) : (m.setLockWord x w v).feed = m.feed := rfl
@[simp] theorem Fjoek.setLockWord_bay (m : Fjoek) (x w : Nat) (v : Word64) : (m.setLockWord x w v).bay = m.bay := rfl
@[simp] theorem Fjoek.setLockWord_mgmt (m : Fjoek) (x w : Nat) (v : Word64) : (m.setLockWord x w v).mgmt = m.mgmt := rfl
@[simp] theorem Fjoek.setLockWord_drv (m : Fjoek) (x w : Nat) (v : Word64) : (m.setLockWord x w v).drv = m.drv := rfl
@[simp] theorem Fjoek.setLockWord_lib (m : Fjoek) (x w : Nat) (v : Word64) : (m.setLockWord x w v).lib = m.lib := rfl
@[simp] theorem Fjoek.setLockWord_netp (m : Fjoek) (x w : Nat) (v : Word64) : (m.setLockWord x w v).netp = m.netp := rfl
@[simp] theorem Fjoek.setLockWord_swc (m : Fjoek) (x w : Nat) (v : Word64) : (m.setLockWord x w v).swc = m.swc := rfl
@[simp] theorem Fjoek.setLockWord_fwd (m : Fjoek) (x w : Nat) (v : Word64) : (m.setLockWord x w v).fwd = m.fwd := rfl
@[simp] theorem Fjoek.setLockWord_xport (m : Fjoek) (x w : Nat) (v : Word64) : (m.setLockWord x w v).xport = m.xport := rfl
@[simp] theorem Fjoek.setLockWord_thim (m : Fjoek) (x w : Nat) (v : Word64) : (m.setLockWord x w v).thim = m.thim := rfl

@[simp] theorem Fjoek.setLease_regs (m : Fjoek) (k : Nat) (x : Lease) : (m.setLease k x).regs = m.regs := rfl
@[simp] theorem Fjoek.setLease_wide (m : Fjoek) (k : Nat) (x : Lease) : (m.setLease k x).wide = m.wide := rfl
@[simp] theorem Fjoek.setLease_snap (m : Fjoek) (k : Nat) (x : Lease) : (m.setLease k x).snap = m.snap := rfl
@[simp] theorem Fjoek.setLease_era (m : Fjoek) (k : Nat) (x : Lease) : (m.setLease k x).era = m.era := rfl
@[simp] theorem Fjoek.setLease_hbm (m : Fjoek) (k : Nat) (x : Lease) : (m.setLease k x).hbm = m.hbm := rfl
@[simp] theorem Fjoek.setLease_mram (m : Fjoek) (k : Nat) (x : Lease) : (m.setLease k x).mram = m.mram := rfl
@[simp] theorem Fjoek.setLease_locks (m : Fjoek) (k : Nat) (x : Lease) : (m.setLease k x).locks = m.locks := rfl
@[simp] theorem Fjoek.setLease_hbmPoison (m : Fjoek) (k : Nat) (x : Lease) : (m.setLease k x).hbmPoison = m.hbmPoison := rfl
@[simp] theorem Fjoek.setLease_hbmHidden (m : Fjoek) (k : Nat) (x : Lease) : (m.setLease k x).hbmHidden = m.hbmHidden := rfl
@[simp] theorem Fjoek.setLease_free (m : Fjoek) (k : Nat) (x : Lease) : (m.setLease k x).free = m.free := rfl
@[simp] theorem Fjoek.setLease_tally (m : Fjoek) (k : Nat) (x : Lease) : (m.setLease k x).tally = m.tally := rfl
@[simp] theorem Fjoek.setLease_out (m : Fjoek) (k : Nat) (x : Lease) : (m.setLease k x).out = m.out := rfl
@[simp] theorem Fjoek.setLease_seam (m : Fjoek) (k : Nat) (x : Lease) : (m.setLease k x).seam = m.seam := rfl
@[simp] theorem Fjoek.setLease_mngl (m : Fjoek) (k : Nat) (x : Lease) : (m.setLease k x).mngl = { m.mngl with leases := tableSet leaseReset m.mngl.leases k x } := rfl
@[simp] theorem Fjoek.setLease_damp (m : Fjoek) (k : Nat) (x : Lease) : (m.setLease k x).damp = m.damp := rfl
@[simp] theorem Fjoek.setLease_pmon (m : Fjoek) (k : Nat) (x : Lease) : (m.setLease k x).pmon = m.pmon := rfl
@[simp] theorem Fjoek.setLease_att (m : Fjoek) (k : Nat) (x : Lease) : (m.setLease k x).att = m.att := rfl
@[simp] theorem Fjoek.setLease_twin (m : Fjoek) (k : Nat) (x : Lease) : (m.setLease k x).twin = m.twin := rfl
@[simp] theorem Fjoek.setLease_hearth (m : Fjoek) (k : Nat) (x : Lease) : (m.setLease k x).hearth = m.hearth := rfl
@[simp] theorem Fjoek.setLease_feed (m : Fjoek) (k : Nat) (x : Lease) : (m.setLease k x).feed = m.feed := rfl
@[simp] theorem Fjoek.setLease_bay (m : Fjoek) (k : Nat) (x : Lease) : (m.setLease k x).bay = m.bay := rfl
@[simp] theorem Fjoek.setLease_mgmt (m : Fjoek) (k : Nat) (x : Lease) : (m.setLease k x).mgmt = m.mgmt := rfl
@[simp] theorem Fjoek.setLease_drv (m : Fjoek) (k : Nat) (x : Lease) : (m.setLease k x).drv = m.drv := rfl
@[simp] theorem Fjoek.setLease_lib (m : Fjoek) (k : Nat) (x : Lease) : (m.setLease k x).lib = m.lib := rfl
@[simp] theorem Fjoek.setLease_netp (m : Fjoek) (k : Nat) (x : Lease) : (m.setLease k x).netp = m.netp := rfl
@[simp] theorem Fjoek.setLease_swc (m : Fjoek) (k : Nat) (x : Lease) : (m.setLease k x).swc = m.swc := rfl
@[simp] theorem Fjoek.setLease_fwd (m : Fjoek) (k : Nat) (x : Lease) : (m.setLease k x).fwd = m.fwd := rfl
@[simp] theorem Fjoek.setLease_xport (m : Fjoek) (k : Nat) (x : Lease) : (m.setLease k x).xport = m.xport := rfl
@[simp] theorem Fjoek.setLease_thim (m : Fjoek) (k : Nat) (x : Lease) : (m.setLease k x).thim = m.thim := rfl

@[simp] theorem Fjoek.setDesc_regs (m : Fjoek) (x : Desc) : (m.setDesc x).regs = m.regs := rfl
@[simp] theorem Fjoek.setDesc_wide (m : Fjoek) (x : Desc) : (m.setDesc x).wide = m.wide := rfl
@[simp] theorem Fjoek.setDesc_snap (m : Fjoek) (x : Desc) : (m.setDesc x).snap = m.snap := rfl
@[simp] theorem Fjoek.setDesc_era (m : Fjoek) (x : Desc) : (m.setDesc x).era = m.era := rfl
@[simp] theorem Fjoek.setDesc_hbm (m : Fjoek) (x : Desc) : (m.setDesc x).hbm = m.hbm := rfl
@[simp] theorem Fjoek.setDesc_mram (m : Fjoek) (x : Desc) : (m.setDesc x).mram = m.mram := rfl
@[simp] theorem Fjoek.setDesc_locks (m : Fjoek) (x : Desc) : (m.setDesc x).locks = m.locks := rfl
@[simp] theorem Fjoek.setDesc_hbmPoison (m : Fjoek) (x : Desc) : (m.setDesc x).hbmPoison = m.hbmPoison := rfl
@[simp] theorem Fjoek.setDesc_hbmHidden (m : Fjoek) (x : Desc) : (m.setDesc x).hbmHidden = m.hbmHidden := rfl
@[simp] theorem Fjoek.setDesc_free (m : Fjoek) (x : Desc) : (m.setDesc x).free = m.free := rfl
@[simp] theorem Fjoek.setDesc_tally (m : Fjoek) (x : Desc) : (m.setDesc x).tally = m.tally := rfl
@[simp] theorem Fjoek.setDesc_out (m : Fjoek) (x : Desc) : (m.setDesc x).out = m.out := rfl
@[simp] theorem Fjoek.setDesc_seam (m : Fjoek) (x : Desc) : (m.setDesc x).seam = m.seam := rfl
@[simp] theorem Fjoek.setDesc_damp (m : Fjoek) (x : Desc) : (m.setDesc x).damp = m.damp := rfl
@[simp] theorem Fjoek.setDesc_pmon (m : Fjoek) (x : Desc) : (m.setDesc x).pmon = m.pmon := rfl
@[simp] theorem Fjoek.setDesc_att (m : Fjoek) (x : Desc) : (m.setDesc x).att = m.att := rfl
@[simp] theorem Fjoek.setDesc_twin (m : Fjoek) (x : Desc) : (m.setDesc x).twin = m.twin := rfl
@[simp] theorem Fjoek.setDesc_hearth (m : Fjoek) (x : Desc) : (m.setDesc x).hearth = m.hearth := rfl
@[simp] theorem Fjoek.setDesc_feed (m : Fjoek) (x : Desc) : (m.setDesc x).feed = m.feed := rfl
@[simp] theorem Fjoek.setDesc_bay (m : Fjoek) (x : Desc) : (m.setDesc x).bay = m.bay := rfl
@[simp] theorem Fjoek.setDesc_mgmt (m : Fjoek) (x : Desc) : (m.setDesc x).mgmt = m.mgmt := rfl
@[simp] theorem Fjoek.setDesc_drv (m : Fjoek) (x : Desc) : (m.setDesc x).drv = m.drv := rfl
@[simp] theorem Fjoek.setDesc_lib (m : Fjoek) (x : Desc) : (m.setDesc x).lib = m.lib := rfl
@[simp] theorem Fjoek.setDesc_netp (m : Fjoek) (x : Desc) : (m.setDesc x).netp = m.netp := rfl
@[simp] theorem Fjoek.setDesc_swc (m : Fjoek) (x : Desc) : (m.setDesc x).swc = m.swc := rfl
@[simp] theorem Fjoek.setDesc_fwd (m : Fjoek) (x : Desc) : (m.setDesc x).fwd = m.fwd := rfl
@[simp] theorem Fjoek.setDesc_xport (m : Fjoek) (x : Desc) : (m.setDesc x).xport = m.xport := rfl
@[simp] theorem Fjoek.setDesc_thim (m : Fjoek) (x : Desc) : (m.setDesc x).thim = m.thim := rfl

@[simp] theorem Fjoek.setMgmt_regs (m : Fjoek) (x : Mgmt) : (m.setMgmt x).regs = m.regs := rfl
@[simp] theorem Fjoek.setMgmt_wide (m : Fjoek) (x : Mgmt) : (m.setMgmt x).wide = m.wide := rfl
@[simp] theorem Fjoek.setMgmt_snap (m : Fjoek) (x : Mgmt) : (m.setMgmt x).snap = m.snap := rfl
@[simp] theorem Fjoek.setMgmt_era (m : Fjoek) (x : Mgmt) : (m.setMgmt x).era = m.era := rfl
@[simp] theorem Fjoek.setMgmt_hbm (m : Fjoek) (x : Mgmt) : (m.setMgmt x).hbm = m.hbm := rfl
@[simp] theorem Fjoek.setMgmt_mram (m : Fjoek) (x : Mgmt) : (m.setMgmt x).mram = m.mram := rfl
@[simp] theorem Fjoek.setMgmt_locks (m : Fjoek) (x : Mgmt) : (m.setMgmt x).locks = m.locks := rfl
@[simp] theorem Fjoek.setMgmt_hbmPoison (m : Fjoek) (x : Mgmt) : (m.setMgmt x).hbmPoison = m.hbmPoison := rfl
@[simp] theorem Fjoek.setMgmt_hbmHidden (m : Fjoek) (x : Mgmt) : (m.setMgmt x).hbmHidden = m.hbmHidden := rfl
@[simp] theorem Fjoek.setMgmt_free (m : Fjoek) (x : Mgmt) : (m.setMgmt x).free = m.free := rfl
@[simp] theorem Fjoek.setMgmt_tally (m : Fjoek) (x : Mgmt) : (m.setMgmt x).tally = m.tally := rfl
@[simp] theorem Fjoek.setMgmt_out (m : Fjoek) (x : Mgmt) : (m.setMgmt x).out = m.out := rfl
@[simp] theorem Fjoek.setMgmt_seam (m : Fjoek) (x : Mgmt) : (m.setMgmt x).seam = m.seam := rfl
@[simp] theorem Fjoek.setMgmt_mngl (m : Fjoek) (x : Mgmt) : (m.setMgmt x).mngl = m.mngl := rfl
@[simp] theorem Fjoek.setMgmt_damp (m : Fjoek) (x : Mgmt) : (m.setMgmt x).damp = m.damp := rfl
@[simp] theorem Fjoek.setMgmt_pmon (m : Fjoek) (x : Mgmt) : (m.setMgmt x).pmon = m.pmon := rfl
@[simp] theorem Fjoek.setMgmt_att (m : Fjoek) (x : Mgmt) : (m.setMgmt x).att = m.att := rfl
@[simp] theorem Fjoek.setMgmt_twin (m : Fjoek) (x : Mgmt) : (m.setMgmt x).twin = m.twin := rfl
@[simp] theorem Fjoek.setMgmt_hearth (m : Fjoek) (x : Mgmt) : (m.setMgmt x).hearth = m.hearth := rfl
@[simp] theorem Fjoek.setMgmt_feed (m : Fjoek) (x : Mgmt) : (m.setMgmt x).feed = m.feed := rfl
@[simp] theorem Fjoek.setMgmt_bay (m : Fjoek) (x : Mgmt) : (m.setMgmt x).bay = m.bay := rfl
@[simp] theorem Fjoek.setMgmt_mgmt (m : Fjoek) (x : Mgmt) : (m.setMgmt x).mgmt = x := rfl
@[simp] theorem Fjoek.setMgmt_drv (m : Fjoek) (x : Mgmt) : (m.setMgmt x).drv = m.drv := rfl
@[simp] theorem Fjoek.setMgmt_lib (m : Fjoek) (x : Mgmt) : (m.setMgmt x).lib = m.lib := rfl
@[simp] theorem Fjoek.setMgmt_netp (m : Fjoek) (x : Mgmt) : (m.setMgmt x).netp = m.netp := rfl
@[simp] theorem Fjoek.setMgmt_swc (m : Fjoek) (x : Mgmt) : (m.setMgmt x).swc = m.swc := rfl
@[simp] theorem Fjoek.setMgmt_fwd (m : Fjoek) (x : Mgmt) : (m.setMgmt x).fwd = m.fwd := rfl
@[simp] theorem Fjoek.setMgmt_xport (m : Fjoek) (x : Mgmt) : (m.setMgmt x).xport = m.xport := rfl
@[simp] theorem Fjoek.setMgmt_thim (m : Fjoek) (x : Mgmt) : (m.setMgmt x).thim = m.thim := rfl

@[simp] theorem Fjoek.setThim_regs (m : Fjoek) (x : Thim) : (m.setThim x).regs = m.regs := rfl
@[simp] theorem Fjoek.setThim_wide (m : Fjoek) (x : Thim) : (m.setThim x).wide = m.wide := rfl
@[simp] theorem Fjoek.setThim_snap (m : Fjoek) (x : Thim) : (m.setThim x).snap = m.snap := rfl
@[simp] theorem Fjoek.setThim_era (m : Fjoek) (x : Thim) : (m.setThim x).era = m.era := rfl
@[simp] theorem Fjoek.setThim_hbm (m : Fjoek) (x : Thim) : (m.setThim x).hbm = m.hbm := rfl
@[simp] theorem Fjoek.setThim_mram (m : Fjoek) (x : Thim) : (m.setThim x).mram = m.mram := rfl
@[simp] theorem Fjoek.setThim_locks (m : Fjoek) (x : Thim) : (m.setThim x).locks = m.locks := rfl
@[simp] theorem Fjoek.setThim_hbmPoison (m : Fjoek) (x : Thim) : (m.setThim x).hbmPoison = m.hbmPoison := rfl
@[simp] theorem Fjoek.setThim_hbmHidden (m : Fjoek) (x : Thim) : (m.setThim x).hbmHidden = m.hbmHidden := rfl
@[simp] theorem Fjoek.setThim_free (m : Fjoek) (x : Thim) : (m.setThim x).free = m.free := rfl
@[simp] theorem Fjoek.setThim_tally (m : Fjoek) (x : Thim) : (m.setThim x).tally = m.tally := rfl
@[simp] theorem Fjoek.setThim_out (m : Fjoek) (x : Thim) : (m.setThim x).out = m.out := rfl
@[simp] theorem Fjoek.setThim_seam (m : Fjoek) (x : Thim) : (m.setThim x).seam = m.seam := rfl
@[simp] theorem Fjoek.setThim_mngl (m : Fjoek) (x : Thim) : (m.setThim x).mngl = m.mngl := rfl
@[simp] theorem Fjoek.setThim_damp (m : Fjoek) (x : Thim) : (m.setThim x).damp = m.damp := rfl
@[simp] theorem Fjoek.setThim_pmon (m : Fjoek) (x : Thim) : (m.setThim x).pmon = m.pmon := rfl
@[simp] theorem Fjoek.setThim_att (m : Fjoek) (x : Thim) : (m.setThim x).att = m.att := rfl
@[simp] theorem Fjoek.setThim_twin (m : Fjoek) (x : Thim) : (m.setThim x).twin = m.twin := rfl
@[simp] theorem Fjoek.setThim_hearth (m : Fjoek) (x : Thim) : (m.setThim x).hearth = m.hearth := rfl
@[simp] theorem Fjoek.setThim_feed (m : Fjoek) (x : Thim) : (m.setThim x).feed = m.feed := rfl
@[simp] theorem Fjoek.setThim_bay (m : Fjoek) (x : Thim) : (m.setThim x).bay = m.bay := rfl
@[simp] theorem Fjoek.setThim_mgmt (m : Fjoek) (x : Thim) : (m.setThim x).mgmt = m.mgmt := rfl
@[simp] theorem Fjoek.setThim_drv (m : Fjoek) (x : Thim) : (m.setThim x).drv = m.drv := rfl
@[simp] theorem Fjoek.setThim_lib (m : Fjoek) (x : Thim) : (m.setThim x).lib = m.lib := rfl
@[simp] theorem Fjoek.setThim_netp (m : Fjoek) (x : Thim) : (m.setThim x).netp = m.netp := rfl
@[simp] theorem Fjoek.setThim_swc (m : Fjoek) (x : Thim) : (m.setThim x).swc = m.swc := rfl
@[simp] theorem Fjoek.setThim_fwd (m : Fjoek) (x : Thim) : (m.setThim x).fwd = m.fwd := rfl
@[simp] theorem Fjoek.setThim_xport (m : Fjoek) (x : Thim) : (m.setThim x).xport = m.xport := rfl
@[simp] theorem Fjoek.setThim_thim (m : Fjoek) (x : Thim) : (m.setThim x).thim = x := rfl

@[simp] theorem Fjoek.setFault_regs (m : Fjoek) (k : Nat) (v : Bool) : (m.setFault k v).regs = m.regs := rfl
@[simp] theorem Fjoek.setFault_wide (m : Fjoek) (k : Nat) (v : Bool) : (m.setFault k v).wide = m.wide := rfl
@[simp] theorem Fjoek.setFault_snap (m : Fjoek) (k : Nat) (v : Bool) : (m.setFault k v).snap = m.snap := rfl
@[simp] theorem Fjoek.setFault_era (m : Fjoek) (k : Nat) (v : Bool) : (m.setFault k v).era = m.era := rfl
@[simp] theorem Fjoek.setFault_hbm (m : Fjoek) (k : Nat) (v : Bool) : (m.setFault k v).hbm = m.hbm := rfl
@[simp] theorem Fjoek.setFault_mram (m : Fjoek) (k : Nat) (v : Bool) : (m.setFault k v).mram = m.mram := rfl
@[simp] theorem Fjoek.setFault_locks (m : Fjoek) (k : Nat) (v : Bool) : (m.setFault k v).locks = m.locks := rfl
@[simp] theorem Fjoek.setFault_hbmPoison (m : Fjoek) (k : Nat) (v : Bool) : (m.setFault k v).hbmPoison = m.hbmPoison := rfl
@[simp] theorem Fjoek.setFault_hbmHidden (m : Fjoek) (k : Nat) (v : Bool) : (m.setFault k v).hbmHidden = m.hbmHidden := rfl
@[simp] theorem Fjoek.setFault_free (m : Fjoek) (k : Nat) (v : Bool) : (m.setFault k v).free = m.free := rfl
@[simp] theorem Fjoek.setFault_tally (m : Fjoek) (k : Nat) (v : Bool) : (m.setFault k v).tally = m.tally := rfl
@[simp] theorem Fjoek.setFault_out (m : Fjoek) (k : Nat) (v : Bool) : (m.setFault k v).out = m.out := rfl
@[simp] theorem Fjoek.setFault_seam (m : Fjoek) (k : Nat) (v : Bool) : (m.setFault k v).seam = m.seam := rfl
@[simp] theorem Fjoek.setFault_mngl (m : Fjoek) (k : Nat) (v : Bool) : (m.setFault k v).mngl = m.mngl := rfl
@[simp] theorem Fjoek.setFault_damp (m : Fjoek) (k : Nat) (v : Bool) : (m.setFault k v).damp = m.damp := rfl
@[simp] theorem Fjoek.setFault_pmon (m : Fjoek) (k : Nat) (v : Bool) : (m.setFault k v).pmon = m.pmon := rfl
@[simp] theorem Fjoek.setFault_att (m : Fjoek) (k : Nat) (v : Bool) : (m.setFault k v).att = m.att := rfl
@[simp] theorem Fjoek.setFault_twin (m : Fjoek) (k : Nat) (v : Bool) : (m.setFault k v).twin = m.twin := rfl
@[simp] theorem Fjoek.setFault_hearth (m : Fjoek) (k : Nat) (v : Bool) : (m.setFault k v).hearth = m.hearth := rfl
@[simp] theorem Fjoek.setFault_feed (m : Fjoek) (k : Nat) (v : Bool) : (m.setFault k v).feed = m.feed := rfl
@[simp] theorem Fjoek.setFault_bay (m : Fjoek) (k : Nat) (v : Bool) : (m.setFault k v).bay = m.bay := rfl
@[simp] theorem Fjoek.setFault_mgmt (m : Fjoek) (k : Nat) (v : Bool) : (m.setFault k v).mgmt = m.mgmt := rfl
@[simp] theorem Fjoek.setFault_drv (m : Fjoek) (k : Nat) (v : Bool) : (m.setFault k v).drv = m.drv := rfl
@[simp] theorem Fjoek.setFault_lib (m : Fjoek) (k : Nat) (v : Bool) : (m.setFault k v).lib = m.lib := rfl
@[simp] theorem Fjoek.setFault_swc (m : Fjoek) (k : Nat) (v : Bool) : (m.setFault k v).swc = m.swc := rfl
@[simp] theorem Fjoek.setFault_fwd (m : Fjoek) (k : Nat) (v : Bool) : (m.setFault k v).fwd = m.fwd := rfl
@[simp] theorem Fjoek.setFault_xport (m : Fjoek) (k : Nat) (v : Bool) : (m.setFault k v).xport = m.xport := rfl
@[simp] theorem Fjoek.setFault_thim (m : Fjoek) (k : Nat) (v : Bool) : (m.setFault k v).thim = m.thim := rfl

@[simp] theorem Fjoek.setQueueOf_regs (m : Fjoek) (p c : Nat) (l : List Copy) : (m.setQueueOf p c l).regs = m.regs := rfl
@[simp] theorem Fjoek.setQueueOf_wide (m : Fjoek) (p c : Nat) (l : List Copy) : (m.setQueueOf p c l).wide = m.wide := rfl
@[simp] theorem Fjoek.setQueueOf_snap (m : Fjoek) (p c : Nat) (l : List Copy) : (m.setQueueOf p c l).snap = m.snap := rfl
@[simp] theorem Fjoek.setQueueOf_era (m : Fjoek) (p c : Nat) (l : List Copy) : (m.setQueueOf p c l).era = m.era := rfl
@[simp] theorem Fjoek.setQueueOf_hbm (m : Fjoek) (p c : Nat) (l : List Copy) : (m.setQueueOf p c l).hbm = m.hbm := rfl
@[simp] theorem Fjoek.setQueueOf_mram (m : Fjoek) (p c : Nat) (l : List Copy) : (m.setQueueOf p c l).mram = m.mram := rfl
@[simp] theorem Fjoek.setQueueOf_locks (m : Fjoek) (p c : Nat) (l : List Copy) : (m.setQueueOf p c l).locks = m.locks := rfl
@[simp] theorem Fjoek.setQueueOf_hbmPoison (m : Fjoek) (p c : Nat) (l : List Copy) : (m.setQueueOf p c l).hbmPoison = m.hbmPoison := rfl
@[simp] theorem Fjoek.setQueueOf_hbmHidden (m : Fjoek) (p c : Nat) (l : List Copy) : (m.setQueueOf p c l).hbmHidden = m.hbmHidden := rfl
@[simp] theorem Fjoek.setQueueOf_free (m : Fjoek) (p c : Nat) (l : List Copy) : (m.setQueueOf p c l).free = m.free := rfl
@[simp] theorem Fjoek.setQueueOf_tally (m : Fjoek) (p c : Nat) (l : List Copy) : (m.setQueueOf p c l).tally = m.tally := rfl
@[simp] theorem Fjoek.setQueueOf_out (m : Fjoek) (p c : Nat) (l : List Copy) : (m.setQueueOf p c l).out = m.out := rfl
@[simp] theorem Fjoek.setQueueOf_seam (m : Fjoek) (p c : Nat) (l : List Copy) : (m.setQueueOf p c l).seam = m.seam := rfl
@[simp] theorem Fjoek.setQueueOf_mngl (m : Fjoek) (p c : Nat) (l : List Copy) : (m.setQueueOf p c l).mngl = m.mngl := rfl
@[simp] theorem Fjoek.setQueueOf_damp (m : Fjoek) (p c : Nat) (l : List Copy) : (m.setQueueOf p c l).damp = m.damp := rfl
@[simp] theorem Fjoek.setQueueOf_pmon (m : Fjoek) (p c : Nat) (l : List Copy) : (m.setQueueOf p c l).pmon = m.pmon := rfl
@[simp] theorem Fjoek.setQueueOf_att (m : Fjoek) (p c : Nat) (l : List Copy) : (m.setQueueOf p c l).att = m.att := rfl
@[simp] theorem Fjoek.setQueueOf_twin (m : Fjoek) (p c : Nat) (l : List Copy) : (m.setQueueOf p c l).twin = m.twin := rfl
@[simp] theorem Fjoek.setQueueOf_hearth (m : Fjoek) (p c : Nat) (l : List Copy) : (m.setQueueOf p c l).hearth = m.hearth := rfl
@[simp] theorem Fjoek.setQueueOf_feed (m : Fjoek) (p c : Nat) (l : List Copy) : (m.setQueueOf p c l).feed = m.feed := rfl
@[simp] theorem Fjoek.setQueueOf_bay (m : Fjoek) (p c : Nat) (l : List Copy) : (m.setQueueOf p c l).bay = m.bay := rfl
@[simp] theorem Fjoek.setQueueOf_mgmt (m : Fjoek) (p c : Nat) (l : List Copy) : (m.setQueueOf p c l).mgmt = m.mgmt := rfl
@[simp] theorem Fjoek.setQueueOf_drv (m : Fjoek) (p c : Nat) (l : List Copy) : (m.setQueueOf p c l).drv = m.drv := rfl
@[simp] theorem Fjoek.setQueueOf_lib (m : Fjoek) (p c : Nat) (l : List Copy) : (m.setQueueOf p c l).lib = m.lib := rfl
@[simp] theorem Fjoek.setQueueOf_netp (m : Fjoek) (p c : Nat) (l : List Copy) : (m.setQueueOf p c l).netp = m.netp := rfl
@[simp] theorem Fjoek.setQueueOf_fwd (m : Fjoek) (p c : Nat) (l : List Copy) : (m.setQueueOf p c l).fwd = m.fwd := rfl
@[simp] theorem Fjoek.setQueueOf_xport (m : Fjoek) (p c : Nat) (l : List Copy) : (m.setQueueOf p c l).xport = m.xport := rfl
@[simp] theorem Fjoek.setQueueOf_thim (m : Fjoek) (p c : Nat) (l : List Copy) : (m.setQueueOf p c l).thim = m.thim := rfl

@[simp] theorem Fjoek.setFrame_regs (m : Fjoek) (f : Frame) : (m.setFrame f).regs = m.regs := rfl
@[simp] theorem Fjoek.setFrame_wide (m : Fjoek) (f : Frame) : (m.setFrame f).wide = m.wide := rfl
@[simp] theorem Fjoek.setFrame_snap (m : Fjoek) (f : Frame) : (m.setFrame f).snap = m.snap := rfl
@[simp] theorem Fjoek.setFrame_era (m : Fjoek) (f : Frame) : (m.setFrame f).era = m.era := rfl
@[simp] theorem Fjoek.setFrame_hbm (m : Fjoek) (f : Frame) : (m.setFrame f).hbm = m.hbm := rfl
@[simp] theorem Fjoek.setFrame_mram (m : Fjoek) (f : Frame) : (m.setFrame f).mram = m.mram := rfl
@[simp] theorem Fjoek.setFrame_locks (m : Fjoek) (f : Frame) : (m.setFrame f).locks = m.locks := rfl
@[simp] theorem Fjoek.setFrame_hbmPoison (m : Fjoek) (f : Frame) : (m.setFrame f).hbmPoison = m.hbmPoison := rfl
@[simp] theorem Fjoek.setFrame_hbmHidden (m : Fjoek) (f : Frame) : (m.setFrame f).hbmHidden = m.hbmHidden := rfl
@[simp] theorem Fjoek.setFrame_free (m : Fjoek) (f : Frame) : (m.setFrame f).free = m.free := rfl
@[simp] theorem Fjoek.setFrame_tally (m : Fjoek) (f : Frame) : (m.setFrame f).tally = m.tally := rfl
@[simp] theorem Fjoek.setFrame_out (m : Fjoek) (f : Frame) : (m.setFrame f).out = m.out := rfl
@[simp] theorem Fjoek.setFrame_seam (m : Fjoek) (f : Frame) : (m.setFrame f).seam = m.seam := rfl
@[simp] theorem Fjoek.setFrame_mngl (m : Fjoek) (f : Frame) : (m.setFrame f).mngl = m.mngl := rfl
@[simp] theorem Fjoek.setFrame_damp (m : Fjoek) (f : Frame) : (m.setFrame f).damp = m.damp := rfl
@[simp] theorem Fjoek.setFrame_pmon (m : Fjoek) (f : Frame) : (m.setFrame f).pmon = m.pmon := rfl
@[simp] theorem Fjoek.setFrame_att (m : Fjoek) (f : Frame) : (m.setFrame f).att = m.att := rfl
@[simp] theorem Fjoek.setFrame_twin (m : Fjoek) (f : Frame) : (m.setFrame f).twin = m.twin := rfl
@[simp] theorem Fjoek.setFrame_hearth (m : Fjoek) (f : Frame) : (m.setFrame f).hearth = m.hearth := rfl
@[simp] theorem Fjoek.setFrame_feed (m : Fjoek) (f : Frame) : (m.setFrame f).feed = m.feed := rfl
@[simp] theorem Fjoek.setFrame_bay (m : Fjoek) (f : Frame) : (m.setFrame f).bay = m.bay := rfl
@[simp] theorem Fjoek.setFrame_mgmt (m : Fjoek) (f : Frame) : (m.setFrame f).mgmt = m.mgmt := rfl
@[simp] theorem Fjoek.setFrame_drv (m : Fjoek) (f : Frame) : (m.setFrame f).drv = m.drv := rfl
@[simp] theorem Fjoek.setFrame_lib (m : Fjoek) (f : Frame) : (m.setFrame f).lib = m.lib := rfl
@[simp] theorem Fjoek.setFrame_netp (m : Fjoek) (f : Frame) : (m.setFrame f).netp = m.netp := rfl
@[simp] theorem Fjoek.setFrame_fwd (m : Fjoek) (f : Frame) : (m.setFrame f).fwd = m.fwd := rfl
@[simp] theorem Fjoek.setFrame_xport (m : Fjoek) (f : Frame) : (m.setFrame f).xport = m.xport := rfl
@[simp] theorem Fjoek.setFrame_thim (m : Fjoek) (f : Frame) : (m.setFrame f).thim = m.thim := rfl

end Sys2Proof.Machine
end

