-- ==== Sys2Proof/WellFormed.lean ====
section
/-! DEFINITION. The values that a command's operands can have beyond what their types say: the widths of packet fields (R273,
R279), of log records (R356) and of the lists that a rule fixes the length of. The meanings are total and do not rely on it. -/

namespace Sys2Proof

/-- Packet fields within their widths, and an ingress slot that exists (R279). -/
def headOk (h : PktHead) : Bool :=
  decide (h.slot < 32 ∧ h.qpn < 2 ^ 24 ∧ h.pkey < 2 ^ 16 ∧ h.psn < 2 ^ 24) &&
    match h.ext with
    | none => true
    | some x => decide (x.count < 1024 ∧ x.index ≤ x.count ∧ x.msn < 2 ^ 24)

/-- A packet carries at most one path MTU of 4,096 bytes (R273). -/
def dataOk (d : List Byte) : Bool := decide (d.length ≤ 4096)

/-- A log record's header (R356): seq from 1 and 48 bits wide, a target byte, a 32-bit round, 0 for a target that is no engine. -/
def logOk (h : LogHead) : Bool :=
  decide (1 ≤ h.seq ∧ h.seq < 2 ^ 48 ∧ h.target < 256 ∧ h.round < 2 ^ 32 ∧ (h.target < 64 ∨ h.round = 0))

/-- Prints are 64 bits wide (R104). -/
def printsOk (p : List Nat) : Bool := p.all fun v => decide (v < 2 ^ 64)

/-- The operands are values that the command can have. -/
def WellFormed (i : Instr) : Bool :=
  match i with
  | .send h d => headOk h && dataOk d
  | .sendWithInvalidate h _ d => headOk h && dataOk d
  | .rdmaWrite h _ _ n d => headOk h && decide (n < 2 ^ 32) && dataOk d
  | .rdmaWriteWithImmediate h _ _ n _ d => headOk h && decide (n < 2 ^ 32) && dataOk d
  | .rdmaRead h _ _ n => headOk h && decide (n < 2 ^ 32)
  | .atomicCompareAndSwap h _ _ _ _ => headOk h
  | .atomicFetchAndAdd h _ _ _ => headOk h
  | .flush h _ _ n _ _ => headOk h && decide (n < 2 ^ 32)
  | .atomicWrite h _ _ _ => headOk h
  | .acknowledgement h => headOk h
  | .sequenceNak h => headOk h
  | .rnrNak h t => headOk h && decide (t < 32)
  | .nakRemoteAccessError h => headOk h
  | .nakInvalidRequest h => headOk h
  | .nakRemoteOperationalError h => headOk h
  | .readResponse h d => headOk h && dataOk d
  | .cnp h => headOk h
  | .unsupportedRequestOpcode h => headOk h
  | .cmDatagram h ip q p _ mad => headOk h && decide (ip < 2 ^ 128 ∧ q < 2 ^ 24 ∧ p < 2 ^ 16 ∧ mad.length ≤ 256)
  | .frameReceive _ _ _ fr _ _ => decide (fr.length ≤ 9216)
  | .pfcReceive _ _ q => q.length == 8 && q.all fun v => decide (v < 2 ^ 16)
  | .logFrame h k => logOk h && headOk k.head
  | .logItem h _ _ _ _ p => logOk h && decide (h.target < 64) && printsOk p
  | .logDcomp h _ e p => logOk h && e.length == 4 && (e.all fun v => decide (v < 2 ^ 32)) && printsOk p
  | .logXcomp h _ c d e v p hash => logOk h && decide (c < 2 ^ 8 ∧ d < 2 ^ 8 ∧ e < 2 ^ 15 ∧ v < 2 ^ 32) && printsOk p &&
    (hash.isEmpty || hash.length == 128)
  | .logAttrec h _ _ _ _ => logOk h
  | .logTimer h kind _ => logOk h && decide (kind ≤ 8)
  | .logGrant h _ desc who => logOk h && (desc || decide (who < 512))
  | .logValue h _ => logOk h && decide (h.target < 64)
  | .logEvent h _ _ => logOk h
  | .logCmd h _ _ => logOk h
  | .logLink h _ _ _ _ => logOk h
  | .logMirror h _ _ => logOk h
  | .logEpoch h _ r => logOk h && r.length == 64
  | .logDigest h _ v => logOk h && decide (v < 2 ^ 128)
  | .logHorizon h _ => logOk h && decide (h.target < 64)
  | .logSwap h => logOk h
  | .logUndefinedKind h kind => logOk h && decide (0x11 ≤ kind ∧ kind ≤ 0xFF)
  | .driveTempPoll _ r => r.length == 12
  | .senseRefresh r _ v => r.length == 16 && v.length == 8
  | .costCalibration p => p.length == 14 && p.all fun v => decide (v < 2 ^ 16)
  | .hostRead _ nsid _ _ => decide (nsid < 2 ^ 32)
  | .hostWrite _ _ _ nsid _ _ _ _ _ _ => decide (nsid < 2 ^ 32)
  | .nvmeFlush _ nsid => decide (nsid < 2 ^ 32)
  | .resyncFreezeDrained c => c.all fun i => i.space != .mram || i.vals.all fun v => decide (v < 256)
  | .registerWrite .. | .misalignedRegisterAccess .. | .accessIntoStoppedDomain .. | .readClear ..
    | .wideValueLowWordRead .. | .sealSet .. | .feedOn .. | .hearthRstNAssert .. | .hearthResetDone .. | .strapSample ..
    | .powerOff .. | .xtalFail .. | .kindleNFall .. | .hearthAlarmMatch .. | .serve .. | .bank .. | .sleep .. | .krst ..
    | .hrst .. | .railEnableNext .. | .railFailure .. | .railFault .. | .railDisableNext .. | .railRetry ..
    | .managementPllLock .. | .bootHandoff .. | .recoveryImageReceive .. | .recoveryTransferTimeout ..
    | .thermalShutdown .. | .thermalRestart .. | .watchdogKick .. | .watchdogStage1Expiry .. | .watchdogStage2Expiry ..
    | .watchdogStage3Expiry .. | .managementReset .. | .blockResetNetp .. | .blockResetSwc .. | .blockResetFwd ..
    | .blockResetXport .. | .blockResetThim .. | .blockResetSeam .. | .blockResetMngl .. | .blockResetStrp ..
    | .blockResetDarn .. | .blockResetDrv .. | .blockResetAtt .. | .blockResetTwin .. | .blockResetEvt ..
    | .blockResetPmon .. | .blockResetDamp .. | .otpProgram .. | .otpSeal .. | .otpArb .. | .otpCommandDone .. | .add ..
    | .sub .. | .and .. | .or .. | .xor .. | .andn .. | .shl .. | .shr .. | .sar .. | .rol .. | .mul .. | .mulhu ..
    | .mulhs .. | .min .. | .max .. | .minu .. | .maxu .. | .clz .. | .popc .. | .bswap .. | .sel .. | .bfx .. | .bfi ..
    | .gfmul .. | .crc32c .. | .addi .. | .andi .. | .ori .. | .xori .. | .shli .. | .shri .. | .sari .. | .li ..
    | .lih .. | .cmpeq .. | .cmpne .. | .cmplt .. | .cmple .. | .cmpltu .. | .cmpleu .. | .tst .. | .cmpeqi ..
    | .cmplti .. | .cmpltui .. | .plog .. | .br .. | .call .. | .brr .. | .callr .. | .ret .. | .jtab .. | .loop ..
    | .ldb .. | .ldh .. | .ldw .. | .ldd .. | .ldbs .. | .ldhs .. | .ldws .. | .stb .. | .sth .. | .stw .. | .std ..
    | .lcas .. | .lfadd .. | .hld .. | .hst .. | .hcas .. | .hfadd .. | .lease .. | .lsize .. | .lrel .. | .bld ..
    | .bst .. | .rld .. | .rst .. | .bulk .. | .tbulk .. | .bqfree .. | .wait .. | .post .. | .timer .. | .tagcnt ..
    | .waiti .. | .draw .. | .refund .. | .classSet .. | .note .. | .fence .. | .qld .. | .qst .. | .qcas .. | .kld ..
    | .kst .. | .qrate .. | .qpref .. | .nop .. | .yieldScan .. | .rdtime .. | .rdcnt .. | .rdid .. | .rand ..
    | .mfence .. | .evset .. | .accessComplete .. | .tagPostArrival .. | .strandTimerExpiry .. | .strandReset ..
    | .strandResetRestart .. | .engineResetRestart .. | .groupDrainWrite .. | .groupDrainTimeout .. | .enginePark ..
    | .instepEnable .. | .instepDisable .. | .loaderVerify .. | .loaderVerifyDone .. | .loaderCommit ..
    | .loaderGroupWritten .. | .loaderAbandon .. | .supervisorStrandRecovery .. | .descriptorHeadCheck .. | .bulkMove ..
    | .bulkGfmac .. | .bulkXor .. | .bulkFprint .. | .bulkPi .. | .bulkXts .. | .bulkHash .. | .bulkFill ..
    | .bulkCompare .. | .descriptorComplete .. | .xtsKeyLoad .. | .xtsKeyErase .. | .xtsKeyCommandDone .. | .fpzCommit ..
    | .destage .. | .cacheFill .. | .retirementTimeout .. | .namespaceZeroingDone .. | .poolAssembly ..
    | .rejoinWindowExpiry .. | .resyncRegion .. | .remirrorDone .. | .rebuildStep .. | .cursorCheckpoint ..
    | .copyBackBatch .. | .reshapeUnitMove .. | .c3Starved .. | .perstDeassert .. | .portDisable .. | .portRelease ..
    | .driveLinkUp .. | .driveEnumeration .. | .drivePresenceChange .. | .driveLinkDown .. | .driveInboundRequest ..
    | .msiReceiverWrite .. | .completionPollTimer .. | .rawCommand .. | .driveCommandTimeout .. | .powerStateRequest ..
    | .fenceGo .. | .fenceClear .. | .fenceTimeout .. | .aerMessage .. | .drvConfigAccess .. | .slotEnable ..
    | .slotDisable .. | .quadModeWrite .. | .quadModeChangeDone .. | .lanesOn .. | .linkAligned .. | .linkQualified ..
    | .linkFault .. | .linkFaultClear .. | .linkDown .. | .pauseReceive .. | .pauseExpiry .. | .xoffRepeat ..
    | .pfcWatchdogRelease .. | .egressDequeue .. | .holdTimerExpiry .. | .multicastAgeExpiry .. | .internalCopyRetry ..
    | .boundaryWrite .. | .boundaryCellMove .. | .loopbackReentry .. | .fwdInsert .. | .fwdReplace .. | .fwdDelete ..
    | .fwdFind .. | .fwdRead .. | .fwdWrite .. | .vlanEntryLoad .. | .vlanEntryCommit .. | .agingTick .. | .rinseVisit ..
    | .agingLogPop .. | .reorderGapTimeout .. | .ackTimer .. | .retransmissionTimeout .. | .rnrTimerExpiry ..
    | .rnrWaitExpiry .. | .sprayTimeout .. | .contextLoadComplete .. | .shaperRelease .. | .qpAlloc .. | .qpFree ..
    | .cmTransmit .. | .ccRingConsume .. | .keyAlloc .. | .keyRegister .. | .keyRevoke .. | .keyRead .. | .keyRelease ..
    | .slateAccessComplete .. | .revocationLogPop .. | .slateDescriptorReload .. | .flushRequestService ..
    | .flushDone .. | .mirrorAck .. | .sealedKeyLoad .. | .sealedKeyErase .. | .attLinkUp .. | .bar0Access ..
    | .bar0AccessTimeout .. | .doorbellWrite .. | .doorbellRingConsume .. | .busMasterDisable .. | .busMasterEnable ..
    | .flr .. | .flrComplete .. | .conventionalReset .. | .d3hotEntry .. | .d0Entry .. | .pciConfigWrite ..
    | .attCompletion .. | .completionTimeout .. | .quarantineEnd .. | .interruptRaise .. | .intxStatusClear ..
    | .wakeRequest .. | .pmeRepeat .. | .pair .. | .break_ .. | .swap .. | .resync .. | .resyncCopyDone ..
    | .resyncFreezeTimeout .. | .resyncRetry .. | .autoresync .. | .heartbeatToggle .. | .heartbeatLoss ..
    | .takeoverReplayEnd .. | .cede .. | .twinLinkDown .. | .twinLinkUp .. | .logAck .. | .backlogBreak ..
    | .epochRecord .. | .epochClose .. | .selfCheckResult .. | .selfCheckTimeout .. | .digestTimeout ..
    | .healthReport .. | .peerEvent .. | .feedCmdOn .. | .feedCmdOff .. | .feedCmdClr .. | .feedCmdHtest ..
    | .feedTick .. | .feedPrechargeDone .. | .feedRampDone .. | .feedFullyOn .. | .feedFaultTimerExpiry ..
    | .feedFastTrip .. | .feedModelTrip .. | .feedDiodeRead .. | .feedLoss .. | .feedLossEnd .. | .feedOvervoltage ..
    | .feedOvervoltageEnd .. | .feedPgAssert .. | .feedRetry .. | .feedRetryCountReset .. | .holdupTestPeriodic ..
    | .holdupTestMeasure .. | .bayCmdOn .. | .bayCmdOff .. | .bayCmdClr .. | .bayTick .. | .bayRampStart ..
    | .bayFullEnhancement .. | .bayFullyOn .. | .bayPowerGood .. | .bayFaultTimerExpiry .. | .bayFastTrip ..
    | .bayModelTrip .. | .bayAuxFault .. | .bayPresenceDebounced .. | .bayRetryTimerExpiry .. | .bayRetryCountReset ..
    | .bayMeasure .. | .bayCalibration .. | .damperPeriod .. | .policyStall .. | .grantWrite .. | .thermalClampRelease ..
    | .dvfsRequest .. | .dvfsStepDone .. | .policyTick .. | .selfTestStrandKnownAnswer .. | .selfTestMemoryMarch ..
    | .selfTestMangleKnownAnswer .. | .selfTestCellMarch .. | .selfTestHbmPatrol .. | .selfTestStart ..
    | .selfTestDone .. | .mailboxRequestPost .. | .mailboxReplyPost .. | .mailboxQuiesce .. | .mailboxResume ..
    | .mailboxNamespace .. | .mailboxKey .. | .mailboxPool .. | .mailboxStatus .. | .mailboxSlate ..
    | .softwareLogRecord .. | .eventRaise .. | .mctpMessage .. | .mctpReassemblyTimeout .. | .healthStatusPoll ..
    | .requestUpdate .. | .requestFirmwareData .. | .verifyComplete .. | .applyComplete .. | .activateFirmware ..
    | .trialConfirm .. | .fanFailsafe .. | .fanFault .. | .ledShift .. | .sampleNoIssueTimeout ..
    | .engineCounterSnapshot .. | .epochBoundary .. | .epochLengthWrite .. | .clockLost .. | .domainRestart ..
    | .commandedStopDone .. | .hangRecordRead .. | .hbmPatrol .. | .sramScrub .. | .strandCrossCheck ..
    | .hearthRstNRelease .. | .bootRecoveryEntry .. | .recoveryWatchdogKick .. | .thimbleCacheLoadComplete ..
    | .horizonRecord .. | .pfcReleaseEnd .. | .serdesMarginSample .. | .msixTableWrite .. | .heartbeatEdge ..
    | .undefinedWord .. => true

end Sys2Proof
end

