-- ==== Sys2Proof/Tests/Slice0.lean ====
section
/-! SUPPORT. The model's own tests: values that the spec states, the operands that a command cannot have, and for each statement's
hypotheses states and operands that meet them. -/

/-! ## Small states -/

namespace Sys2Proof.Tests

/-! The tests evaluate large terms: one at a time. -/
set_option Elab.async false

open Sys2Proof.Machine

/-- What a command leaves, read by `f`; 0 where the block stops. -/
def after (c : Instr) (s : State) (f : Fjoek → Nat) : Nat :=
  match exec c s with
  | .next t => f t.m
  | _ => 0

/-- A module that serves: power state SERVE, every domain running, the Hearth ready, an image on the management core. -/
def serve : Fjoek :=
  { fjoekReset with
    regs := [(0x10004, 0x40000000#32), (0xA0004, 0x3FFF#32)]
    hearth := { hearthInit with ready := true, counting := true, core := 2 } }

/-- The module `m` as a whole block, with no command waiting. -/
def at_ (m : Fjoek) : State := { State.reset with m := m }

/-- `m` with fields of its registers set. -/
def with_ (m : Fjoek) (l : List (Fld × Nat)) : Fjoek := l.foldl (fun n p => n.put p.1 p.2) m

/-- `m` with strand 0 of engine 0 as `x`. -/
def strand0 (m : Fjoek) (x : Strand) : Fjoek := m.setStrand 0 x

/-- A READY strand with g1 = 5 and g2 = 7. -/
def ready : Strand := { strandReset 0 with mode := .ready, g := [(1, 5), (2, 7)] }

/-- The module with that strand, and the whole block with it. -/
def runner : Fjoek := strand0 serve ready
def runnerS : State := at_ runner

/-- The unguarded issue of strand 0 of engine 0: the guard is p0, which is true (R70). -/
def issue : Issue := ⟨0, 0, 0, false⟩

/-- `k` bytes of 0: HBM is read only where it has been written (R547). -/
def zeros (k : Nat) : List Byte := List.replicate k 0

/-- General register `r` of strand 0. -/
def g (r : Nat) (m : Fjoek) : Nat := ((m.strand 0).rd r).toNat

/-- Registers g1 and g2 of strand 0 hold `a` and `b`. -/
def twoRegs (a b : Word64) : State := at_ (strand0 serve { ready with g := [(1, a), (2, b)] })

/-! ## Seam instructions: values of spec/03 -/

/-- R75 gives 0x02 × 0x80 = 0x1D in the field of 0x11D. -/
theorem test_gfmul_spec_value : after (.gfmul issue 3 1 2) (twoRegs 0x02 0x80) (g 3) = 0x1D := by decide

/-- R75 gives 0x03 × 0x80 = 0x9D. -/
theorem test_gfmul_spec_value_2 : after (.gfmul issue 3 1 2) (twoRegs 0x03 0x80) (g 3) = 0x9D := by decide

/-- R74: ALU results wrap modulo 2^64. -/
theorem test_add_wraps : after (.add issue 3 1 2) (twoRegs 0xFFFFFFFFFFFFFFFF 2) (g 3) = 1 := by decide

/-- R74: a shift count uses its low 6 bits. -/
theorem test_shl_count : after (.shl issue 3 1 2) (twoRegs 1 65) (g 3) = 2 := by decide

/-- R74: the high half of a signed product: -1 × 2 = -2, whose high half is all ones. -/
theorem test_mulhs_sign : after (.mulhs issue 3 1 2) (twoRegs 0xFFFFFFFFFFFFFFFF 2) (g 3) = 2 ^ 64 - 1 := by decide

/-- R74: `clz` of 0 is 64. -/
theorem test_clz_zero : after (.clz issue 3 1) (twoRegs 0 0) (g 3) = 64 := by decide

/-- R74: `li` sign-extends its 39-bit immediate. -/
theorem test_li_sign : after (.li issue 3 0x4000000000) runnerS (g 3) = 2 ^ 64 - 2 ^ 38 := by decide

/-- R31: a write to g0 is discarded. -/
theorem test_g0_reads_zero : after (.add issue 0 1 2) runnerS (g 0) = 0 := by decide

/-- R74, R31: the source is also the destination, and the pc moves by one. -/
theorem test_sub_self : after (.sub issue 1 1 2) runnerS (fun m => g 1 m + (m.strand 0).pc.toNat) = (2 ^ 64 - 2) + 1 := by decide

/-- R76: where pc names the direct destination, the direct result prevails. -/
theorem test_cmp_direct_prevails : after (.cmplt issue 2 1 2 ⟨true, 2⟩) runnerS (fun m => bnat ((m.strand 0).pred 2)) = 1 := by decide

/-- R76: the inverse goes to the second predicate: 5 < 7 unsigned holds, so p3 takes 0. -/
theorem test_cmp_inverse : after (.cmpltu issue 2 2 1 ⟨true, 3⟩) runnerS (fun m => bnat ((m.strand 0).pred 3)) = 1 := by decide

/-- R77: a branch of offset 0 branches to itself. -/
theorem test_br_zero : after (.br issue 0) runnerS (fun m => (m.strand 0).pc.toNat) = 0 := by decide

/-- R77: targets are taken modulo 8,192. -/
theorem test_br_back : after (.br issue 0x1FFF) runnerS (fun m => (m.strand 0).pc.toNat) = 8191 := by decide

/-- R77: a `ret` with the stack empty faults with cause 0x09. -/
theorem test_ret_empty : after (.ret issue) runnerS (fun m => (m.strand 0).cause) = 9 := by decide

/-- R78: a store of two bytes, least significant first; the byte above it stays 0. -/
theorem test_sth_bytes : after (.sth issue 0 1 0x10) (twoRegs 0x12345678 0) (fun m => m.lNat 0 0x10 4) = 0x5678 := by decide

/-- R71: a misaligned load faults with cause 0x06. -/
theorem test_ldd_misaligned : after (.ldd issue 3 0 4) runnerS (fun m => (m.strand 0).cause) = 6 := by decide

/-- R89: `kst` faults with cause 0x07. -/
theorem test_kst_refused : after (.kst issue 1 2 0) runnerS (fun m => (m.strand 0).cause) = 7 := by decide

/-- R90: `rdid` of strand 0 of engine 0 at generation 0, unprivileged, is 0. -/
theorem test_rdid : after (.rdid issue 3) runnerS (g 3) = 0 := by decide

/-- R88: without a twin, `note` answers its operand and `fence` answers 0. -/
theorem test_fence_single : after (.fence issue 1) runnerS (g 1) = 0 := by decide
theorem test_note_single : after (.note issue 3 2) runnerS (g 3) = 7 := by decide

/-- R66, R67: an undefined word faults the strand with cause 0x01. -/
theorem test_undefined_word : after (.undefinedWord 0 0) runnerS (fun m => (m.strand 0).cause) = 1 := by decide

/-! ## Memory written whole

A state whose HBM has every byte written reads no open byte and holds no open unit (R547); the lemmas below read it without listing it. -/

/-- `n` bytes from `a`, each `v`. -/
def run (a n : Nat) (v : Byte) : Table Byte := (List.range' a n).map fun i => (i, v)

theorem find_run (v : Byte) (n : Nat) : ∀ a k, a ≤ k → k < a + n → tableFind (run a n v) k = some v := by
  induction n with
  | zero => intro a k h h'; omega
  | succ n ih =>
    intro a k h h'
    simp only [run, List.range'_succ, List.map_cons, tableFind]
    split
    · rfl
    · exact ih (a + 1) k (by omega) (by omega)

/-- HBM written whole, with 0. -/
def wholeHbm : Table Byte := run 0 (2 ^ 35) 0

theorem hbm_byte {m : Fjoek} (h : m.hbm = wholeHbm) (hp : m.isOn STRP_CTL_apen = false) {a : Nat} (ha : a < 2 ^ 35) :
    m.hbmByte a = 0 := by
  unfold Fjoek.hbmByte Fjoek.inAperture Fjoek.hbmCell tableGet
  rw [hp, h, wholeHbm, find_run 0 _ _ _ (by omega) (by omega)]
  rfl

theorem hbm_bytes {m : Fjoek} (h : m.hbm = wholeHbm) (hp : m.isOn STRP_CTL_apen = false) {a n : Nat} (ha : a + n ≤ 2 ^ 35) :
    m.hbmBytes a n = zeros n := by
  apply List.ext_getElem (by simp [Fjoek.hbmBytes, zeros])
  intro i h1 h2
  simp only [Fjoek.hbmBytes, zeros, List.getElem_map, List.getElem_range, List.getElem_replicate]
  simp only [Fjoek.hbmBytes, List.length_map, List.length_range] at h1
  exact hbm_byte h hp (by omega)

theorem hbm_open {m : Fjoek} (h : m.hbm = wholeHbm) {u : Nat} (hu : u < 2 ^ 29) : m.hbmOpenBad u = false := by
  have : (List.range 64).all (fun i => tableHas m.hbm (64 * u + i)) = true := by
    rw [List.all_eq_true]
    intro i hi
    simp only [List.mem_range] at hi
    unfold tableHas
    rw [h, wholeHbm, find_run 0 _ _ _ (by omega) (by omega)]
    rfl
  simp [Fjoek.hbmOpenBad, this]

/-- Such memory without a mark is intact over any range. -/
theorem hbm_intact {m : Fjoek} (h : m.hbm = wholeHbm) (hp : m.hbmPoison = []) (hh : m.hbmHidden = []) (ha : m.twin.absent = [])
    (g : Option Nat) {a n : Nat} (hn : a + n ≤ 2 ^ 35) : (m.hbmDetect g a n).1 = false := by
  unfold Fjoek.hbmDetect
  simp only [hp, hh, ha]
  rw [List.any_eq_false]
  intro k hk
  have hu : k < 2 ^ 29 := by
    unfold unitsTouched at hk
    split at hk
    · cases hk
    · obtain ⟨i, hi, rfl⟩ := List.mem_map.mp hk
      simp only [List.mem_range] at hi
      omega
  simp [marked, tableGet, tableFind, hbm_open h hu]

/-- The module with HBM written whole. -/
def whole (m : Fjoek) : Fjoek := { m with hbm := wholeHbm }

/-- Buffer cells 0 to 16 written whole, with 0, and nothing marked. -/
structure CellsWhole (m : Fjoek) : Prop where
  buf : m.mngl.buf = run 0 4352 0
  poison : m.mngl.poison = []
  hidden : m.mngl.undetected = []
  absent : m.twin.absent = []

theorem buf_clean {m : Fjoek} (h : CellsWhole m) (g : Option Nat) {u : Nat} (hu : u < 68) : m.bufDetect g [u] = (false, m) := by
  have ho : m.bufOpenBad u = false := by
    have : (List.range 64).all (fun i => tableHas m.mngl.buf (64 * u + i)) = true := by
      rw [List.all_eq_true]
      intro i hi
      simp only [List.mem_range] at hi
      unfold tableHas
      rw [h.buf, find_run 0 _ _ _ (by omega) (by omega)]
      rfl
    simp [Fjoek.bufOpenBad, this]
  unfold Fjoek.bufDetect
  simp [h.poison, h.hidden, h.absent, ho, marked, tableGet, tableFind, Fjoek.each]

/-- A range of a lease over those cells is intact. -/
theorem cell_intact {m : Fjoek} (h : CellsWhole m) (g : Option Nat) {x o n : Nat}
    (hu : ∀ u ∈ unitsTouched o n, (m.leaseAt (x % 65536)).byteAddr (64 * u) / 64 < 68) : (m.spans g (.cell x o) n).1 = [] := by
  have go : ∀ us : List Nat, (∀ u ∈ us, (m.leaseAt (x % 65536)).byteAddr (64 * u) / 64 < 68) →
      ∀ one : Nat → Nat × Nat, us.foldl (fun r u =>
        let (bad, m') := r.2.bufDetect g [(m.leaseAt (x % 65536)).byteAddr (64 * u) / 64]
        (if bad then r.1 ++ [one u] else r.1, m')) (([] : List (Nat × Nat)), m) = ([], m) := by
    intro us
    induction us with
    | nil => intro _ _; rfl
    | cons u us ih =>
      intro hus one
      simp only [List.foldl_cons]
      rw [buf_clean h g (hus u (by simp))]
      exact ih (fun v hv => hus v (by simp [hv])) one
  unfold Fjoek.spans
  simp only [Place.off]
  rw [go _ hu]

/-! ## The hypotheses of the statements can be met

One theorem for each group of clauses: a state and operands at which all the hypotheses of the clause hold together. -/

/-- AluForms, CompareForms, BranchForms (a call and a return with room), IssueRules. -/
theorem meets_issuable : runner.issuable issue [3, onlyWrites 3, 1, 2, readsPred 1] := by unfold Fjoek.issuable Fjoek.calm; decide

/-- AluForms: a field of len 64 at pos 0, and of len 1 at pos 63. -/
theorem meets_field : (1 ≤ (64#7).toNat ∧ (64#7).toNat ≤ 64 ∧ (0#6).toNat + (64#7).toNat ≤ 64) ∧
    (1 ≤ (1#7).toNat ∧ (63#6).toNat + (1#7).toNat ≤ 64) := by decide

/-- A strand that has called seven times; one more call fits, and a return finds an index. -/
def caller : Fjoek := strand0 serve { ready with rets := List.replicate 7 9 }

theorem meets_branches : caller.issuable issue [1] ∧ (caller.issuing issue).rets.length < 8 ∧
    (caller.issuing issue).rets = 9 :: List.replicate 6 9 := by
  unfold Fjoek.issuable Fjoek.calm; decide

/-- LocalAccesses: an aligned 8-byte access at L's last address, in an intact word. -/
def localM : Fjoek := strand0 serve { ready with g := [(1, 0x3FFFC)] }
theorem meets_local : localM.issuable issue [3, onlyWrites 3, 1, 2, readsPred 1] ∧
    ((localM.issuing issue).rd 1 + (0x3FFFC#18).signExtend 64).toNat = 0x3FFF8 ∧ 0x3FFF8 < 0x40000 ∧ 0x3FFF8 % 8 = 0 ∧
    tableGet (fun _ => false) localM.seam.lue (0x3FFF8 / 8) = false := by
  unfold Fjoek.issuable Fjoek.calm; decide

/-- Engine 0 may reach all of HBM, and its strand 0 is privileged. -/
def window : Fjoek := with_ runner [(SEAM_HWIN_en 0, 1), (SEAM_HWIN_limit 0, 0x7FFF), (SEAM_STRCTL_priv 0 0, 1)]

/-- StrandAccesses: an H access at HBM's last 8 bytes in the window, with no region protected. -/
theorem meets_window : window.issuable issue [1, 3, onlyWrites 3] ∧ (window.issuing issue).accs.length < 8 ∧ window.isOn (SEAM_HWIN_en 0) = true ∧
    (2 ^ 35 - 8) + 8 ≤ 2 ^ 35 ∧ window.get (SEAM_HWIN_base 0) * 2 ^ 20 ≤ 2 ^ 35 - 8 ∧
    (2 ^ 35 - 8) + 8 ≤ (window.get (SEAM_HWIN_limit 0) + 1) * 2 ^ 20 ∧ (2 ^ 35 - 8) % 8 = 0 ∧ window.seam.prot = none ∧
    window.isOn (SEAM_STRCTL_priv 0 0) = true := by
  unfold Fjoek.issuable Fjoek.calm; decide

/-- A lease of two cells, 4 and 9, owned by strand 0 with reuse count 3 at entry 0; its handle is in g1. -/
def holder : Fjoek :=
  { (strand0 serve { ready with g := [(1, 0x80030000)] }) with
    mngl := { mnglInit with leases := [(0, { seq := 3, live := true, used := true, owner := 0, cells := [4, 9] })] } }

/-- StrandAccesses, LeaseInstructions: a B access at the lease's last 8 bytes, and `lsize` and `lrel` of its handle. -/
theorem meets_lease : holder.issuable issue [3, onlyWrites 3, 1, 0] ∧ holder.leaseOf (issueKey issue) ((holder.issuing issue).rd 1).toNat = some 0 ∧
    504 + 8 ≤ 256 * (holder.leaseAt 0).cells.length ∧ 504 % 8 = 0 ∧ (holder.leaseAt 0).used = true ∧
    (holder.mngl.descs.any fun d => d.holds && d.handles.any fun h => h % 65536 == 0) = false := by
  unfold Fjoek.issuable Fjoek.calm; decide

/-- LeaseInstructions: a lease that is refused (no cell is free at reset), and one that is given. -/
def staging : Fjoek := with_ runner [(MNGL_LFREE_free, 16), (MNGL_LRSV_rsv, 0)]

theorem meets_lease_take : runner.trailing = false ∧ runner.canLease 0 0 0 = false ∧ staging.issuable issue [3, onlyWrites 3, 1] ∧
    staging.canLease 0 0 5 = true ∧ freeLease staging (staging.mngl.leases.length + 1) 0 = some 0 := by
  unfold Fjoek.issuable Fjoek.calm; decide

/-- Context 0 cached, so no load is asked for. -/
def cachedM : Fjoek := { strand0 serve { ready with g := [(2, 7)] } with xport := { xportInit with cached := [0] } }

/-- ContextAccesses: a Q access to a cached context; and `kst`. -/
theorem meets_context : cachedM.issuable issue [1, 3, onlyWrites 3] ∧ (cachedM.issuing issue).accs.length < 8 ∧
    cachedM.xport.cached.contains ((cachedM.issuing issue).rd 1).toNat = true ∧ (248#9).toNat < 256 ∧ (248#9).toNat % 8 = 0 := by
  unfold Fjoek.issuable Fjoek.calm; decide

/-- A FILL of HBM in the last line of L. -/
def filler : Fjoek := runner.lPut 0 0x3FFC0 [0x17]

/-- BulkIssue: that descriptor, and a queue with room. -/
theorem meets_bulk : filler.issuable issue [3, onlyWrites 3, 0] ∧ filler.handlesOk 0 (filler.descFrom 0 (filler.issuing issue) 0x3FFC0) = true ∧
    0x3FFC0 < 0x40000 ∧ 0x3FFC0 % 64 = 0 ∧ 256 - (filler.mngl.descs.filter fun q => q.engine / 4 == 0).length ≠ 0 := by
  unfold Fjoek.issuable Fjoek.calm; decide

/-- EventInstructions: a wait on tag 5 with one post pending, one that finds none, and tags that no post may carry. -/
def posted : Fjoek := runner.setTagCount 0 5 1

theorem meets_wait : posted.issuable issue [3, onlyWrites 3, 1, 2, readsPred 1] ∧ 0 < posted.tagCount 0 5 ∧ runner.pendingSlot 0 [some 5] = none ∧
    runner.seam.queues = [] ∧ runner.seam.waits = [] ∧ (0x3F0#10).toNat = 0x3F0 ∧ ¬((0x3EF#10).toNat = 0 ∨ 0x3F0 ≤ (0x3EF#10).toNat) := by
  unfold Fjoek.issuable Fjoek.calm; decide

/-- BudgetInstructions: a draw of class 0 that fits, one that is short, and one of class 2 with the Damper on. -/
def budget : Fjoek := (with_ runner [(DAMP_CTL_en, 1)]).setLevel 0 100

theorem meets_draw : budget.issuable issue [3, onlyWrites 3, 1] ∧ budget.draws 0 = [] ∧ ((Nat.min 100 (budget.depth 0) : Nat) : Int) ≤ budget.level 0 ∧
    ¬((Nat.min 101 (budget.depth 0) : Nat) : Int) ≤ budget.level 0 ∧ budget.isOn DAMP_CTL_en = true ∧
    budget.damp.debt + 16777214 < 16777215 := by
  unfold Fjoek.issuable Fjoek.calm; decide

/-- A lead in step with its twin, with one record not acknowledged, and the same with none. -/
def lead : Fjoek := with_ serve [(TOP_STRAP_twin, 1), (TWIN_STAT_role, 1), (TWIN_STAT_sync, 1), (TWIN_STAT_link, 1), (TWIN_STAT_phase, 4),
  (SEAM_CTL_instep, 1)]
def leadBehind : Fjoek := { lead with twin := { twinInit with nextSeq := 3, acked := 1 } }

/-- A trailing twin in step. -/
def trail : Fjoek := with_ serve [(TOP_STRAP_twin, 1), (TWIN_STAT_sync, 1), (TWIN_STAT_link, 1), (TWIN_STAT_phase, 4), (SEAM_CTL_instep, 1)]

/-- A trailing twin in its third round that holds a logged value for register g3 of strand 0. -/
def logged : Fjoek := strand0 { trail with
  twin := { twinInit with horizon := [(0, 9)] }
  seam := { trail.seam with rounds := [(0, 2)], values := [⟨0, 3, 2, 11⟩] } } ready

/-- The same without the value. -/
def unlogged : Fjoek := { logged with seam := { logged.seam with values := [] } }

/-- A lead whose strand 0 has a MOVE bound for the twin that has not begun. -/
def mirrors : Fjoek := { with_ lead [(TWIN_MIRWIN_en, 1), (TWIN_MIRWIN_limit, 1)] with
  mngl := { mnglInit with nextId := 1, descs := [
    { id := 0, engine := 0, strand := 0, cls := 0, words := [0x90, 0x9000, 0x1000, 128, 0, 0, 0, 0], phase := .waiting
      params := [], code := 0, detail := 0, epstat := 0, result := 0, sent := 0, fails := [], orphan := false }] } }

/-- TwinAndSystem: fences of a lead, and a trailing twin with and without a logged value. -/
theorem meets_fence : lead.leads = true ∧ leadBehind.twin.acked + 1 < leadBehind.twin.nextSeq ∧
    lead.twin.nextSeq ≤ lead.twin.acked + 1 ∧ trail.trailing = true ∧
    logged.seam.values.find? (fun q => q.strand == 0 && q.rd == 3) = some ⟨0, 3, 2, 11⟩ ∧ 2 ≤ logged.nextRound 0 ∧
    trail.seam.values.find? (fun q => q.strand == 0 && q.rd == 3) = none ∧ mirrors.leads = true ∧ mirrors.twinMoves 0 = [0] ∧
    window.isOn (SEAM_STRCTL_priv 0 0) = true ∧ raisable 484 = true ∧ raisable 0 = false := by decide

theorem meets_fence_issue : (strand0 leadBehind ready).issuable issue [onlyWrites 3] ∧ (strand0 lead ready).issuable issue [onlyWrites 3] ∧
    (strand0 mirrors ready).issuable issue [onlyWrites 3] ∧
    unlogged.issuable issue [onlyWrites 3] ∧ logged.issuable issue [3, onlyWrites 3, 1] := by
  refine ⟨?_, ?_, ?_, ?_, ?_⟩ <;> (unfold Fjoek.issuable Fjoek.calm; decide)

/-- `m` with 64 bytes of 0 written at HBM address `a`. -/
def hbm0 (m : Fjoek) (a : Nat) : Fjoek := m.hbmWrite a (zeros 64)

/-- The sample rings stand in the second MiB of HBM. -/
def rings (m : Fjoek) : Fjoek := with_ m [(PMON_SBASE_base, 1)]

/-- ContextAccesses: `kld` of an intact key entry beside the sample rings. -/
theorem meets_kld : (rings (hbm0 runner 0)).issuable issue [3, onlyWrites 3, 0] ∧ (rings (hbm0 runner 0)).keyAddr 0 + 32 ≤ 2 ^ 20 ∧
    ((rings (hbm0 runner 0)).hbmDetect none ((rings (hbm0 runner 0)).keyAddr 0) 32).1 = false ∧
    (rings (hbm0 runner 0)).thim.bad.contains 0 = false ∧ (24#9).toNat < 32 ∧ (24#9).toNat % 8 = 0 := by
  unfold Fjoek.issuable Fjoek.calm; decide

/-- An outstanding load of HBM. -/
def load : Access := { kind := .hld, rd := 3, pe := 1, addr := 0x1000, off := 0, data := 9, cmp := 0, hung := false }

/-- Strand 0 with one access outstanding. -/
def waits (a : Access) : Fjoek := hbm0 (strand0 serve { ready with accs := [a] }) 0x1000

/-- AccessCompletes: the load, and a store, a compare-and-swap and an add at the same place. -/
theorem meets_access : (waits load).runs 3 = true ∧ (waits load).runs load.domain = true ∧ (waits load).trailing = false ∧
    ((waits load).strand 0).accs[0]? = some load ∧ (waits load).inAperture 0x1000 8 = false ∧ 0x1000 + 8 ≤ 2 ^ 35 ∧
    ((waits load).hbmDetect (some 0) 0x1000 8).1 = false ∧ (waits load).inStaging 0x1000 8 = false := by decide

/-- AccessCompletes: a B load of an intact cell, and a Q load of a cached context. -/
def bufLoad : Access := { load with kind := .bld, addr := 0, off := 0 }
def cellOwner : Fjoek :=
  Fjoek.leasePut { (strand0 serve { ready with accs := [bufLoad, { load with kind := .qld, addr := 0 }] }) with
    mngl := { mnglInit with leases := [(0, { seq := 0, live := true, used := true, owner := 0, cells := [4] })] }
    xport := { xportInit with cached := [0] } } 0 0 (zeros 64)

theorem meets_access_buf : bufLoad.addr + 8 ≤ 256 * (cellOwner.leaseAt bufLoad.off).cells.length ∧
    (cellOwner.bufDetect (some 0) ((cellOwner.leaseAt bufLoad.off).units bufLoad.addr 8)).1 = false ∧
    cellOwner.runs bufLoad.domain = true ∧ (cellOwner.strand 0).accs[0]? = some bufLoad ∧ cellOwner.xport.cached.contains 0 = true := by decide

/-- TagsArrive: a post for a tag that no strand waits on, one that a strand waits on, and an armed timer. -/
def flies : Fjoek := { serve with seam := { seamInit with flight := [⟨5, 0, none, none⟩] } }
def waiter : Fjoek := strand0 flies { ready with mode := .wait, waitFor := .tags 3, slots := [some 5, none, none, none], timer := 4 }

theorem meets_tags : flies.seam.flight[0]? = some ⟨5, 0, none, none⟩ ∧ flies.runs 3 = true ∧ flies.inRound 0 = false ∧
    flies.waiter 0 5 = none ∧ flies.tagCount 0 5 < 255 ∧ waiter.waiter 0 5 = some 0 ∧
    (waiter.strand 0).waitFor = .tags 3 ∧ (waiter.strand 0).slotOf 5 = some 0 ∧ (waiter.strand 0).timer ≠ 0 := by decide

/-- A started descriptor of strand 0: FILL of 64 bytes of HBM. -/
def fill : Desc :=
  { id := 0, engine := 0, strand := 0, cls := 0, words := [0x17, 0x1000, 0, 64, 0, 0x0807060504030201, 0, 0], phase := .started
    params := [], code := 0, detail := 0, epstat := 0, result := 0, sent := 0, fails := [], orphan := false }
def descM (d : Desc) : Fjoek := { runner with mngl := { mnglInit with descs := [d], nextId := 1 } }

/-- Strand 0 in a round in which it has had its place and strand 1 has not. -/
def inARound : Fjoek :=
  { (strand0 serve ready).setStrand 1 ready with seam := { ((strand0 serve ready).setStrand 1 ready).seam with offered := [(0, 1)] } }

/-- StrandResets, SeamControl: a round in progress and none. -/
theorem meets_rounds : inARound.inRound 0 = true ∧ inARound.trailing = false ∧ runner.inRound 0 = false ∧ runner.trailing = false := by decide

/-- StrandResets: a quiet strand, one with a started descriptor, one in RESETTING, a faulted one, an engine in reset. -/
theorem meets_resets : runner.quiet 0 = true ∧ (descM fill).quiet 0 = false ∧ ((strand0 serve { ready with mode := .resetting }).strand 0).mode =
    .resetting ∧ ((strand0 serve { ready with mode := .fault }).strand 0).mode = .fault ∧
    tableGet (fun _ => false) ({ serve with seam := { seamInit with resetting := [(0, true)] } } : Fjoek).seam.resetting 0 = true ∧
    (∀ v < 8, serve.quiet (8 * 0 + v) = true) := by decide

/-- SeamControl: an idle loader; a group that drains and is not drained; all strands drained, and one that is not; an undefined word. -/
theorem meets_seam_control : serve.isOn (SEAM_GSTAT_busy 0) = false ∧ tableGet (fun _ => false) serve.seam.held 0 = false ∧
    (with_ runner [(SEAM_GCTL_drain 0, 1)]).isOn (SEAM_GCTL_drain 0) = true ∧ runner.get (SEAM_GCTL_drtmr 0) ≠ 0 ∧
    (with_ runner [(SEAM_GCTL_drain 0, 1)]).groupDrained 0 = false ∧ serve.seam.queues = [] ∧ runner.drained 0 = false ∧
    runner.canIssue 0 = true ∧ wordDefined (runner.word 0 0) = false := by decide

theorem meets_all_drained : ∀ j < 512, fjoekReset.drained j = true := fun _ _ => rfl

/-- Loader: VERIFY runs over an image of zeros, whose header fails its check, copied alike to the staging region. -/
def verifying : Fjoek :=
  whole { serve with seam := { seamInit with loader := .verifying, ldrAddr := 0x40000, ldrStage := 0x80000, prot := some 0x80000 } }

theorem meets_loader : serve.isOn SEAM_LDR_STAT_busy = false ∧ verifying.seam.loader = .verifying ∧
    verifying.hbmBytes 0x40000 512 = verifying.hbmBytes 0x80000 512 ∧
    headCheck ((verifying.hbmBytes 0x80000 512).map BitVec.toNat) 0x40000 ≠ 0 ∧ (verifying.hbmDetect none 0x40000 512).1 = false := by
  refine ⟨by decide, rfl, ?_, ?_, hbm_intact rfl rfl rfl rfl _ (by decide)⟩
  · rw [hbm_bytes rfl (by decide) (by decide), hbm_bytes rfl (by decide) (by decide)]
  · rw [hbm_bytes rfl (by decide) (by decide)]
    decide +kernel

/-- Loader: a busy loader, an image that is verified and one that is not, groups that are drained and one that is not, the turn of the first of
two groups over a staged image of zeros. -/
def committing : Fjoek := whole { serve with seam := { seamInit with loader := .committing [0, 3] } }

theorem meets_commit : (with_ serve [(SEAM_LDR_STAT_busy, 1)]).isOn SEAM_LDR_STAT_busy = true ∧ serve.trailing = false ∧
    (with_ serve [(SEAM_LDR_STAT_verified, 1)]).isOn SEAM_LDR_STAT_verified = true ∧ serve.isOn SEAM_LDR_STAT_verified = false ∧
    serve.groupDrained 0 = true ∧ runner.groupDrained 0 = false ∧ ((List.range 16).filter fun j => bitOf (0x9#16).toNat j) = [0, 3] ∧
    committing.seam.loader = .committing [0, 3] ∧ committing.groupDrained 0 = true ∧
    (with_ runner [(SEAM_STRCTL_priv 0 0, 1)]).privileged 0 = true ∧ serve.seam.loader ≠ .verifying ∧
    (({ serve with hbmPoison := [(0, 1)] } : Fjoek).hbmDetect none 0 64).1 = true := by decide +kernel

theorem meets_staged : imageLen ((committing.hbmBytes 0 512).map BitVec.toNat) = 512 ∧ (committing.hbmDetect none 0 512).1 = false := by
  refine ⟨?_, hbm_intact rfl rfl rfl rfl _ (by decide)⟩
  rw [hbm_bytes rfl (by decide) (by decide)]
  decide +kernel

/-! ## Signed images (FIPS 180-4, SEC 1; R49, R399)

The key pair is the private key 1, whose public key is the base point; the signatures were made with nonce 2 by a program of ours
outside the model, after SEC 1. -/

/-- FIPS 180-4's example: SHA-384 of the three bytes of "abc". -/
theorem test_sha384_abc : ofBytesBe (sha384 [0x61, 0x62, 0x63]) =
    0xcb00753f45a35e8bb5a03d699ac65007272c32ab0eded1631a8b605a43ff5bed8086072ba1e7cc2358baeca134c825a7 := by decide +kernel

/-- The base point of P-384 (SEC 2), uncompressed. -/
def pubkey : List Nat :=
  4 :: bytesBe 48 0xaa87ca22be8b05378eb1c71ef320ad746e1d3b628ba79b9859f741e082542a385502f25dbf55296c3a545e3872760ab7 ++
    bytesBe 48 0x3617de4a96262c6f5d9e98bf9292dc29f8f41dbd289a147ce9da3113b5f0b8c00a60b1ce1d7e819d7a431d7c90ea0e5f

def sigR : List Nat :=
  bytesBe 48 0x08d999057ba3d2d969260045c55b97f089025959a6f434d651d207d19fb96e9e4fe0e86ebe0e64f85b96a9c75295df61

/-- A Seam image of one instruction, as R48 lays it out: version 1, priv_ok, no strand started. -/
def seamHead : List Nat :=
  [0x53, 0x45, 0x41, 0x4D, 1, 0, 1, 0, 1, 0, 0, 0, 1, 0, 0, 0] ++ List.replicate 16 0xFF ++ List.replicate 96 0 ++ pubkey ++
    List.replicate 31 0 ++ sigR ++
    bytesBe 48 0xea46d772c167847812f450f6d9c3602fe9540d65f14a87befe2ea7d26636590475fc7e3a74548f8897e8fab267cc7ffc ++ List.replicate 160 0

/-- A firmware image of one byte, as R399 lays it out, with rollback 0. -/
def bootHead : List Nat :=
  [0x46, 0x4A, 0x4F, 0x4B, 1, 0, 0, 0, 1, 0, 0, 0, 0, 0, 0, 0, 1, 0, 0, 0] ++ List.replicate 108 0 ++ pubkey ++ List.replicate 31 0 ++ sigR ++
    bytesBe 48 0x1b7aa88dc6293a61a7894956c355bbca50e56c2bd77362e3ff08d863f42f6dede1e446fac21a65b7b487ffa2a6f2a24d ++ List.replicate 160 0

/-- The module with that key's hash in slot 0 of the OTP shadow. -/
def keyed : Fjoek :=
  (List.range 12).foldl (fun m i => m.setReg (OTP_REC (0x50 + i)) (ofBytes (((sha384 pubkey).drop (4 * i)).take 4 |>.map (BitVec.ofNat 8)))) serve

/-- Loader: an image that passes every check of R49. -/
theorem meets_image : headCheck seamHead 0x40000 = 0 ∧ imageLen seamHead = 520 ∧ keyed.signCheck seamHead (List.replicate 8 0) = 0 ∧
    keyed.get SEAM_LDR_MINVER_minver ≤ hdrNat seamHead 8 4 := by decide +kernel

/-- BootAndWatchdog: a firmware image that passes every check of R399. -/
theorem meets_firmware : keyed.imageHead bootHead = 0 ∧ keyed.imageBody bootHead [0x5A] = 0 := by decide +kernel

/-- R49: one changed byte of the body fails check 5. -/
theorem test_signature_fails : keyed.signCheck seamHead (1 :: List.replicate 7 0) = 5 := by decide +kernel

/-! ## Bulk operations, registers and the Hearth -/

/-- `n` bytes of HBM from `a`, each the low byte of its place, as the only bytes written. -/
def hbmRun (m : Fjoek) (a n : Nat) : Fjoek := { m with hbm := (List.range n).map fun i => (a + i, BitVec.ofNat 8 i) }

/-- The descriptor with other words, over HBM with 128 bytes written from 0x1000. -/
def bulkM (d : Desc) : Fjoek := hbmRun (descM d) 0x1000 128
def op (w : List Nat) : Desc := { fill with words := w }

/-- R97, R107: a FILL repeats the 8 bytes of w5: the byte at offset 9 is the second byte of the pattern. -/
theorem test_fill_pattern : after (.bulkFill 0) (at_ (descM fill)) (fun m => (m.hbmByte 0x1009).toNat) = 2 := by decide

/-- R107: COMPARE of two runs that differ first at offset 3 ends with code 5 and that offset. -/
def differ : Fjoek := (hbmRun (descM (op [0x98, 0x1000, 0x1040, 64, 0, 0, 0, 0])) 0x1000 64).hbmWrite 0x1040
  ((List.range 64).map fun i => if i = 3 then 0xEE else BitVec.ofNat 8 i)
theorem test_compare_differs : after (.bulkCompare 0) (at_ differ) (fun m => ((m.findDesc 0).map fun d => 16 * d.result + d.code).getD 0) =
    16 * 3 + 5 := by decide +kernel

/-- BulkOperations: a MOVE of 128 intact bytes of HBM. -/
theorem meets_move : let d := op [0x90, 0x9000, 0x1000, 128, 0, 0, 0, 0]
    (bulkM d).findDesc 0 = some d ∧ d.phase = .started ∧ (bulkM d).runs 3 = true ∧ d.op = 0 ∧ d.dsp ≤ 1 ∧ d.ssp ≤ 1 ∧ d.fpx = false ∧
    (bulkM d).isOn TWIN_MIRWIN_en = false ∧ (bulkM d).twin.waiters = [] ∧ (bulkM d).mngl.prints = [] ∧ (bulkM d).twin.shadow = [] ∧
    ((bulkM d).spans (some 0) (placeOf d.ssp (d.w 2)) d.len).1 = [] := by decide +kernel

/-- BulkOperations: strand 0 leases the 17 cells that stand written whole. -/
def cellM (d : Desc) : Fjoek :=
  { (descM d) with mngl := { mnglInit with
      leases := [(0, { seq := 0, live := true, used := true, owner := 0, cells := List.range 17 })]
      buf := run 0 4352 0, descs := [d], nextId := 1 } }
def h0 : Nat := 0x80000000

theorem cellM_whole (d : Desc) : CellsWhole (cellM d) := ⟨rfl, rfl, rfl, rfl⟩

/-- XOR of four sources of 256 bytes, FPRINT of a block, XTS of a data unit and HASH of 512 bytes. -/
theorem meets_xor : let d := op [2, h0, h0, 256 + 3 * 2 ^ 32, h0, h0, h0, 0]
    (cellM d).findDesc 0 = some d ∧ d.op = 2 ∧ d.dsp = 0 ∧ d.nsrc = 4 ∧
    ∀ p ∈ ([2, 4, 5, 6].take d.nsrc).map fun i => placeOf 0 (d.w i), ((cellM d).spans (some 0) p d.len).1 = [] := by
  refine ⟨by decide, by decide, by decide, by decide, ?_⟩
  intro p hp
  have : p = .cell h0 0 := by revert p; decide
  subst this
  exact cell_intact (cellM_whole _) _ (by decide +kernel)

theorem meets_fprint : let d := op [3, h0, h0, 4096, 0, 0, 0, 0]
    d.op = 3 ∧ d.dsp = 0 ∧ d.ssp = 0 ∧ placeOf d.ssp (d.w 2) = .cell h0 0 ∧ ((cellM d).spans (some 0) (.cell h0 0) d.len).1 = [] :=
  ⟨by decide, by decide, by decide, by decide, cell_intact (cellM_whole _) _ (by decide +kernel)⟩

/-- PI of one block of 512 bytes: metadata made, and verified. -/
def piMake : Desc := op [4, h0, h0, 1 + 3 * 2 ^ 32, 0, 0, 0, 0]
def piCheck : Desc := op [4, h0, h0, 1, 0, 0, 0, 0]
theorem meets_pi : piMake.op = 4 ∧ piMake.dsp = 0 ∧ piMake.ssp = 0 ∧ piMake.piMode = 3 ∧ piCheck.piMode = 0 ∧
    placeOf piMake.ssp (piMake.w 2) = .cell h0 0 ∧ placeOf piCheck.ssp (piCheck.w 2) = .cell h0 0 ∧
    ((cellM piMake).spans (some 0) (.cell h0 0) (piMake.len * piMake.piData)).1 = [] ∧
    ((cellM piCheck).spans (some 0) (.cell h0 0) (piCheck.len * (piCheck.piData + piCheck.piMeta))).1 = [] :=
  ⟨by decide, by decide, by decide, by decide, by decide, by decide, by decide,
    cell_intact (cellM_whole _) _ (by decide +kernel), cell_intact (cellM_whole _) _ (by decide +kernel)⟩

theorem meets_xts : let d := op [5, h0, h0, 512, 0, 0, 0, 0]
    d.op = 5 ∧ d.dsp = 0 ∧ d.ssp = 0 ∧ ((cellM d).spans (some 0) (.cell h0 0) d.len).1 = [] :=
  ⟨by decide, by decide, by decide, cell_intact (cellM_whole _) _ (by decide +kernel)⟩

theorem meets_hash : let d := op [6, h0, h0, 512 + 3 * 2 ^ 32, 0, 0, 0, 0]
    d.op = 6 ∧ d.dsp = 0 ∧ d.ssp = 0 ∧ bitOf d.hi 0 = true ∧ bitOf d.hi 1 = true ∧ ((cellM d).spans (some 0) (.cell h0 0) d.len).1 = [] :=
  ⟨by decide, by decide, by decide, by decide, by decide, cell_intact (cellM_whole _) _ (by decide +kernel)⟩

/-- BulkOperations: a GFMAC of one source and one output whose parameter block passes check 4. -/
def mac : Desc := { op [1, h0, 0, 64, 0, 0, 0, 0] with params := h0 :: List.replicate 15 0 ++ (h0 + 256 * 2 ^ 32) :: List.replicate 15 0 }
theorem meets_gfmac : mac.op = 1 ∧
    ∀ p ∈ (mac.params.take mac.nsrc).map (placeOf 0), ((cellM mac).spans (some 0) p mac.len).1 = [] := by
  refine ⟨by decide, ?_⟩
  intro p hp
  have : p = .cell h0 0 := by revert p; decide
  subst this
  exact cell_intact (cellM_whole _) _ (by decide +kernel)

/-- Descriptors: a head that fails its check, one that passes and costs nothing, one that costs more than the level, one at its end. -/
def waiting (w : List Nat) : Fjoek := descM { op w with phase := .waiting }

/-- The same with engine 0's window open. -/
def windowed (w : List Nat) : Fjoek := with_ (waiting w) [(SEAM_HWIN_en 0, 1), (SEAM_HWIN_limit 0, 0x7FFF)]

theorem meets_head : (let m := waiting [0x0F, 0, 0, 0, 0, 0, 0, 0]; ∃ d, (m.clusterDescs 0).find? (fun q => q.cls == 0 && !q.inFlight) = some d ∧
      d.phase = .waiting ∧ bitOf (d.w 0) 14 = false ∧ d.check m ≠ 0) := by exact ⟨_, by rfl, by decide, by decide, by decide⟩

theorem meets_head_ok : (let m := windowed fill.words; ∃ d, (m.clusterDescs 0).find? (fun q => q.cls == 0 && !q.inFlight) = some d ∧
      d.check m = 0 ∧ m.descCost d = 0) := by exact ⟨_, by rfl, by decide, by decide⟩

theorem meets_head_short : (let m := windowed [0x17 + 5 * 2 ^ 42, 0x1000, 0, 64, 0, 0, 0, 0]
    ∃ d, (m.clusterDescs 0).find? (fun q => q.cls == 0 && !q.inFlight) = some d ∧ d.check m = 0 ∧ m.descCost d = 5 ∧
      ¬(m.draws 0 = [] ∧ ((Nat.min 5 (m.depth 0) : Nat) : Int) ≤ (m.setLevel 0 (-1)).level 0)) := by
  exact ⟨_, by rfl, by decide, by decide, by decide⟩

theorem meets_complete : let d := { op [0x17 + 2 ^ 26, 0x1000, 0, 64, 0, 0, 0, 0] with phase := .done }
    (descM d).findDesc 0 = some d ∧ d.phase = .done ∧ d.fpx = false ∧ d.engine < 64 ∧ bitOf (d.w 0) 26 = true ∧
    bitsOf (d.w 0) 41 27 < 32768 ∧ (descM d).tlpHeld d = false := by decide

/-- Descriptors: a descriptor to the attach endpoint of which a write TLP is held. -/
theorem meets_held_tlp : let d := { op [0x30, 0x1000, 0, 64, 1, 0, 0, 0] with phase := .done }
    let m : Fjoek := { descM d with twin := { twinInit with held := [(4, .attTlp 1 true false 0x1020 32 0 [])] } }
    m.findDesc 0 = some d ∧ m.trailing = false ∧ m.tlpHeld d = true := by decide

/-- KeyStore: key halves that differ, and the busy store. -/
def keyData (v : Nat) : Fjoek := { serve with mngl := { mnglInit with xdata := [(0, v)] } }
theorem meets_keystore : (keyData 1).isOn MNGL_XKSTAT_busy = false ∧ ((1 : Nat) % 2 ^ 256 ≠ 1 / 2 ^ 256) ∧
    (with_ serve [(MNGL_XKSTAT_busy, 1)]).isOn MNGL_XKSTAT_busy = true := by decide

/-- R106: a key whose two halves are equal (all zeros here) is refused. -/
theorem test_xts_key_refused : after (.xtsKeyLoad 3) (at_ (keyData 0)) (fun m => m.get MNGL_XKSTAT_refused) = 1 := by
  decide +kernel

/-- RegisterFields: the fields of HEARTH_WDT's register lie apart and in order. -/
theorem meets_register : ∃ d i, regDesc 0x10000 = some (d, i) ∧ d.fields.Pairwise (fun f g => f.hi < g.lo ∨ g.hi < f.lo) ∧
    ∀ f ∈ d.fields, f.lo ≤ f.hi ∧ f.hi < 32 := by exact ⟨_, _, rfl, by decide, by decide⟩

/-- RegisterAccess: a core that runs, a plain register, one with RC fields, a wide one, a stopped domain, a record to read. -/
theorem meets_core : serve.coreOn .core0 = true ∧ serve.reachable 0xA0000 = true ∧ (regDesc 0xA0000).isSome = true ∧
    [0x06, 0x0A, 0x26, 0x32, 0x33].contains (0xA0000 / 0x10000) = true ∧ wideLow HEARTH_TIME_LO = true ∧
    canonAddr HEARTH_TIME_LO = HEARTH_TIME_LO ∧ (with_ serve [(CLK_DOMSTAT_run, 7)]).reachable 0x200000 = false ∧
    serve.isOn CLK_HANG_valid = false ∧ serve.hearth.hangs = [] := by decide

/-- R9: a write of a misaligned address sets MGMT_ESTAT.regerr. -/
theorem test_misaligned_write : after (.misalignedRegisterAccess .core0 true 0xA0002) (at_ serve) (fun m => m.get MGMT_ESTAT_regerr) = 1 := by
  decide

/-- The attach link up with memory space on. -/
def attached : Fjoek :=
  { with_ serve [(ATT_LINK_up, 1), (ATT_CTL_bar0en, 1)] with att := { attInit with fns := [(0, { attFnReset 0 with mem := true, bme := true })] } }

/-- Bar0: bars closed, open with BAR0 on, and a register of a stopped domain behind them. -/
theorem meets_bar0 : serve.barsOpen 0 = false ∧ attached.barsOpen 0 = true ∧ attached.isOn ATT_CTL_bar0en = true ∧
    attached.reachable 0xA0000 = true ∧ (regDesc 0xA0000).isSome = true ∧ (0xA0000 : Nat) ≠ CLK_HANG ∧
    (with_ attached [(CLK_DOMSTAT_run, 0x207)]).reachable 0x200000 = false ∧ (with_ attached [(ATT_CTL_bar0en, 0)]).barsOpen 0 = true := by
  decide

/-- ClockDomains: a domain lost and wanted, and one that stops. -/
theorem meets_clocks : let m := serve.setHearth { serve.hearth with lost := 16, stopping := 8 }
    bitOf m.hearth.lost 4 = true ∧ m.wanted 4 = true ∧ m.hearth.core ≠ 0 ∧ bitOf m.hearth.stopping 3 = true := by decide

/-- PowerMoves: OFF; running; held by HEARTH_RST_N; waking before and after the straps; HEARTH with a kindle request possible. -/
def hearthM (f : Hearth → Hearth) : Fjoek := fjoekReset.setHearth (f { hearthInit with counting := true })
theorem meets_power : (hearthM fun h => { h with off := true }).hearth.off = true ∧ fjoekReset.hearth.off = false ∧
    (hearthM fun h => { h with rstLow := true }).hearth.rstLow = true ∧
    (fjoekReset.hearth.off = false ∧ fjoekReset.hearth.rstLow = false ∧ fjoekReset.hearth.ready = false ∧ fjoekReset.hearth.sampled = false) ∧
    (hearthM fun h => { h with sampled := true }).feed.rest ≠ 5 ∧
    (let m := hearthM fun h => { h with ready := true, retryDue := true }
     m.awake = true ∧ m.hearth.rstLow = false ∧ m.power = 1 ∧ m.isOn HEARTH_STAT_otpbad = false ∧ m.feed.rest ≠ 5 ∧ m.hearth.retryDue = true) ∧
    (with_ fjoekReset [(HEARTH_ALARM_s, 1)]).time < 1000000000 * (with_ fjoekReset [(HEARTH_ALARM_s, 1)]).get HEARTH_ALARM_s ∧
    (0#11).toInt ≤ 4 * (clampTo 60 125 (fjoekReset.get HEARTH_TSD_restart) : Nat) := by decide +kernel

/-- KindleResets: SERVE, BANKED, KINDLING with one rail up, DOUSING with two rails and with one, the watchdog's third stage. -/
theorem meets_kindle : serve.awake = true ∧ serve.power = 4 ∧ serve.bankReady = true ∧ (with_ serve [(HEARTH_STAT_state, 3)]).power = 3 ∧
    520 ≤ (520#11).toInt ∧ (with_ serve [(HEARTH_WDT_stage, 3)]).get HEARTH_WDT_stage = 3 ∧ serve.isOn HEARTH_RSTC_wdk = false ∧
    (with_ serve [(HEARTH_STAT_state, 2), (HEARTH_RAILSTAT_en, 1)]).railsUp ≠ 0 ∧
    (with_ serve [(HEARTH_STAT_state, 6), (HEARTH_RAILSTAT_en, 3)]).railsUp = 2 ∧
    (with_ serve [(HEARTH_STAT_state, 6), (HEARTH_RAILSTAT_en, 1)]).railsUp = 1 ∧
    (with_ serve [(HEARTH_RAILSTAT_pg, 63)]).isOn ⟨HEARTH_RAILSTAT, 8, 8⟩ = true := by decide

/-- BootAndWatchdog: PLL lock in KINDLING; the boot ROM with no good slot (a good image is that of meets_firmware); recovery; the watchdog's stages; a management reset. -/
theorem meets_boot : (let m := with_ serve [(HEARTH_STAT_state, 2), (HEARTH_RAILSTAT_pg, 63), (CLK_DOMSTAT_run, 3)]
     m.power = 2 ∧ m.get HEARTH_RAILSTAT_pg = 63 ∧ m.runs 2 = false ∧ bitOf m.hearth.lost 2 = false) ∧
    (let m := serve.setHearth { serve.hearth with core := 1 }; m.hearth.core = 1 ∧ (m.slotCheck 0).1 ≠ 0 ∧ (m.slotCheck 1).1 ≠ 0) ∧
    (let m := serve.setHearth { serve.hearth with core := 3, uart := [0] }; m.hearth.core = 3 ∧ m.hearth.uart ≠ []) ∧
    (with_ serve [(HEARTH_WDT_stage, 1)]).get HEARTH_WDT_stage = 1 ∧ serve.runs 2 = true ∧ 2 ≤ serve.power ∧ serve.power ≤ 4 ∧
    serve.isOn TOP_STRAP_recovery = false := by decide +kernel

/-- OTP cells with nothing programmed. -/
def blank : Fuses := { words := [], arb := 0 }

/-- OtpProgramming: an empty generation above the valid ones, programming enabled and the feed high enough; a command in progress. -/
theorem meets_otp : let m := with_ serve [(OTP_CTL_pen, 1), (FEED_VIN_mv10, 5400)]
    m.awake = true ∧ m.isOn OTP_PSTAT_busy = false ∧ m.isOn OTP_CTL_pen = true ∧ 1000 ≤ m.get FEED_VIN_mv10 ∧
    otpSealed blank 1 = false ∧ (1022#10).toNat ≤ 1022 ∧
    otpGenWord blank 1 1022 &&& 7 = otpGenWord blank 1 1022 ∧ blank.arb < 64 ∧ ∀ v ∈ otpGens blank, v < 1 := by decide

/-- R402: an OTP bit that does not take makes code 2. -/
theorem test_otp_stuck : after (.otpCommandDone 1) (at_ (serve.setHearth { serve.hearth with otpDue := some (0, 1024, 3) }))
    (fun m => m.get OTP_PSTAT_code) = 2 := by decide

/-- BlockResets: every domain named runs. -/
theorem meets_block_reset : ∀ d ∈ [2, 3, 4, 5, 7, 8, 9, 13], serve.runs d = true := by decide

/-! ## Pools (spec/05 to spec/07) -/

/-- The least layout: two data strips and one parity over three members, strips of 16 KiB, one row (R118, R121). -/
def row0 : List Nat :=
  let body := [0, 0, 0, 0x08, 0, 0x10] ++ List.replicate 1002 0
  [0, 0, 3, 0, 1, 0, 0, 0] ++ (bytesOf 4 (crc32c body)).map BitVec.toNat ++ [0, 0, 0, 0] ++ body
def lay3 : Layout := { k := 2, m := 1, n := 3, s := 0, u := 16384, rowCount := 1, rows := [row0] }

set_option maxRecDepth 100000 in
/-- R122: the row passes every check. -/
theorem test_layout_ok : layoutOk lay3 = true := by decide +kernel

/-- R103's example: 5 × inverse(4). -/
theorem test_code_coef : codeCoef 1 1 = 0x46 := by decide +kernel

/-- R118: a strip size that is no power of two is refused, and so is a row whose CRC does not match (R122). -/
theorem test_layout_refused : layoutOk { lay3 with u := 24576 } = false ∧ layoutOk { lay3 with rows := [0 :: 1 :: row0.drop 2] } = false := by
  decide +kernel

def mem3 (i : Nat) : Member := { serial := 100 + i, state := 0, lbas := 500000, port := some i, epoch := 0, resync := false, entry := i }
def ns1 : NsRec :=
  { nsid := 1, writeBack := false, encrypted := false, big := true, zeroed := true, pi := 0, ms := 0, aus := 1, xslot := 0xFFFF
    nguid := 0, gen := 0 }

/-- A pool over that layout, online, with one namespace of one AU; `kau` is the layout's. -/
def pool3 : Pool :=
  { uuid := 7, gen := 3, ms := 0, pi := 0, window := 30, portable := false, jx0 := none, jx1 := none, jtargets := [], adopted := false
    layout := lay3, reps := 4, kau := Lau lay3, next := none, nextReps := 0, members := [mem3 0, mem3 1, mem3 2], ns := [(0, ns1)]
    map := [(0, 0)], reloc := [], relocAbove := [], online := true, reason := 0, refused := 0, live := (0, 0), liveAbove := (0, 0)
    windows := [], roundDue := false, unitWait := false, auWait := [], scratchGone := [], parity := none, copied := 0, group := 1, retq := [], groupOf := [] }
def poolM (x : Pool) : Fjoek := serve.setPool 0 x

def piece5 : Piece := { b := 5, nb := 5, first := 0, last := 4096 }

set_option maxRecDepth 100000 in
/-- HostCommands: a read and a write of one block of a namespace that is ready; nothing is lost, cached or locked. -/
theorem meets_host_io : let m := poolM pool3
    m.trailing = false ∧ m.ceded = false ∧ m.twin.stopped = false ∧ m.twin.frozen = false ∧ m.leads = false ∧
    m.nsFind 1 = some (0, 0, ns1) ∧ m.pool? 0 = some pool3 ∧ m.nsReady pool3 ns1 = true ∧
    nsPieces pool3 0 ns1 5 1 = some [piece5] ∧ m.readStatus pool3 0 (m.blockAt pool3 0 5) = 0 ∧
    (m.libDraw 0 (m.cost (m.readCosts pool3 0 ns1 [m.blockAt pool3 0 5]))).1 = true ∧ m.isOn FEED_STAT_loss = false ∧ m.openRecs = [] ∧
    m.inUnit pool3 0 5 = false ∧ m.writeStatus pool3 0 (m.blockAt pool3 0 5) true = 0 ∧ m.lostEntries = [] ∧
    (∀ z ∈ pool3.members, z.entry < 96) ∧ m.heldOver 1 5 1 = none ∧ m.canPass libStrand 0 4096 = true := by
  decide +kernel

set_option maxRecDepth 100000 in
/-- HostCommands: the bytes that the read answers. -/
theorem meets_host_bytes : let m := poolM pool3
    ([piece5].map fun q => ((m.openBlock ns1 q.nb (m.content pool3 0 (m.blockAt pool3 0 q.b))).take q.last).drop q.first).flatten.length = 4096 := by
  decide +kernel

set_option maxRecDepth 100000 in
theorem meets_host_write : let m := poolM pool3
    let g := byStripe (m.mergePieces pool3 0 ns1 [piece5] (zeros 4096))
    let back := m.writesBack pool3 0 ns1 false true 4096
    (zeros 4096).length = 1 * nsSize ns1 ∧ m.recRoom pool3 (m.writeRecs pool3 0 back g) = true ∧
    (∀ k ∈ g, m.lockFree 0 k.1.2 0 = true) ∧ (m.libDraw 1 (m.cost (m.writeCosts pool3 0 ns1 back true [piece5] g))).1 = true ∧
    m.canPass 0 1 4096 = true :=
  ⟨List.length_replicate, by decide +kernel, by decide +kernel, by decide +kernel, by decide +kernel⟩

/-- HostCommands: a stripe with a dirty block; a fill whose write count holds and one whose does not; a commit group of a portable pool. -/
def dirtyM : Fjoek := { poolM pool3 with lib := { (poolM pool3).lib with
  cache := [{ pool := 0, member := 0, epoch := 0, lba := 409600, dirty := true, used := false, slot := 0 }]
  fills := [{ pool := 0, member := 0, epoch := 0, lba := 409601, stripe := 0, wcount := 0, lease := 7 }] } }
def poolX : Pool := { pool3 with portable := true, jx0 := some 0, jx1 := some 1, retq := [1] }

set_option maxRecDepth 100000 in
theorem meets_destage : dirtyM.pool? 0 = some pool3 ∧ pool3.online = true ∧ pool3.next = none ∧ dirtyM.lockFree 0 0 0 = true ∧
    dirtyM.recRoom pool3 2 = true ∧ dirtyM.openRecs = [] ∧ dirtyM.dirtyBlocks pool3 0 0 0 ≠ [] ∧
    (dirtyM.libDraw dirtyM.destageClass (dirtyM.cost (dirtyM.updateCosts pool3 0 0 0 (dirtyM.dirtyBlocks pool3 0 0 0)))).1 = true ∧
    dirtyM.wcountOf 0 0 = 0 ∧ (dirtyM.libDraw 5 (dirtyM.opCost (1, 1))).1 = true ∧
    dirtyM.lib.cache.length < dirtyM.lib.cacheBlocks ∧ poolX.retq ≠ [] ∧ poolX.mirrors = true ∧ (poolM poolX).pool? 0 = some poolX ∧
    dirtyM.trailing = false ∧ dirtyM.excess pool3 0 0 0 = 0 ∧ (poolM poolX).jroom poolX.retireSpans = true ∧ poolX.groupFree poolX.group = true ∧
    pool3.auWait = [] := by
  decide +kernel

/-- R130: a write through of a whole block stores one record and leaves no lock. -/
theorem test_host_write_record : after (.hostWrite 0 0 9 1 5 1 true ⟨true, true⟩ [] (zeros 4096)) (at_ (poolM pool3))
    (fun m => 2 * m.lib.seq + bnat (m.stripeLocked 0 0)) = 2 := by decide +kernel

/-- R125: a flush of an NSID that no namespace has. -/
theorem test_flush_no_namespace : after (.nvmeFlush 9 2) (at_ (poolM pool3)) (fun m => bnat (m.out == [.nvme 9 0x0B])) = 1 := by
  decide +kernel

/-- PoolCommands: a member that left, one that returned with region 0 to resync, a re-mirror, and one that is replaced. -/
def absentM : Pool := { pool3 with members := [mem3 0, { mem3 1 with state := 1, port := none }, mem3 2] }
def backM : Pool := { pool3 with members := [mem3 0, { mem3 1 with resync := true }, mem3 2] }
def resyncM : Fjoek := (poolM backM).setAbsBit 0 1 1 true
def mirrorM : Pool := { pool3 with jx0 := some 0, jx1 := some 2, jtargets := [2] }
def replacing : Pool := { pool3 with members := [mem3 0, { mem3 1 with state := 4 }, mem3 2] }

set_option maxRecDepth 100000 in
theorem meets_pool : (poolM absentM).pool? 0 = some absentM ∧ (absentM.mem 1).state = 1 ∧ (absentM.mem 1).port = none ∧
    (poolM absentM).identifying = false ∧ mirrorM.jtargets ≠ [] ∧ mirrorM.roundDue = false ∧ (poolM mirrorM).openOf 0 = [] := by decide +kernel

set_option maxRecDepth 100000 in
/-- PoolCommands: region 1 of that member holds a strip of each of the four stripes. -/
theorem meets_resync : resyncM.pool? 0 = some backM ∧ (backM.mem 1).resync = true ∧ (backM.mem 1).port.isSome = true ∧
    (resyncM.absRegions 0 1).head? = some 1 ∧ resyncM.absEntry 0 1 < 96 ∧
    (resyncM.regionStrips backM 0 1 1).map (·.2) = [(0, 1), (1, 1), (2, 1), (3, 1)] ∧ resyncM.recRoom backM 4 = true ∧
    ∀ q < 4, resyncM.canDecode backM 0 0 q = true ∧ resyncM.lockFree 0 q darnStrand = true ∧
      (resyncM.libDraw 3 (resyncM.cost (((List.range 4).map fun q => resyncM.rebuildCosts backM 0 0 q 1).flatten))).1 = true := by
  decide +kernel

set_option maxRecDepth 100000 in
/-- PoolCommands: copy-back of one stripe; the member is decoded from the two others. -/
theorem meets_copyback : let m := poolM replacing
    ((List.range replacing.members.length).find? fun j => (replacing.mem j).state == 4 && (replacing.mem j).port.isSome) = some 1 ∧
    replacing.copied + 1 < m.sweepLen replacing 0 ∧ m.sweepStripe replacing 0 0 = (0, 0) ∧ lockOrder 0 [0] = [0] ∧
    m.lockFree 0 0 darnStrand = true ∧ m.recRoom replacing 1 = true ∧
    (∀ j ∈ homeStrips replacing 0 0 1, ∀ o < LU lay3, (m.backBlock replacing 0 0 0 j o).isSome = true) ∧
    (m.libDraw 3 (m.cost (m.rebuildCosts replacing 0 0 0 1))).1 = true := by decide +kernel

/-- R137: the window's end turns the absent member FAILED. -/
theorem test_rejoin_window : after (.rejoinWindowExpiry 0 1) (at_ (poolM absentM)) (fun m => ((m.pool? 0).map fun x => (x.mem 1).state).getD 9) = 2 := by
  decide +kernel

/-- PoolCommands: an active round that has passed every stripe, and one that still finds a lost strip of member 1. -/
def round0 : Round := { emptyRound 0 with kind := 1, fmask := 2, start := 1, cbucket := 1 }
def lostPool : Pool := { pool3 with members := [mem3 0, { mem3 1 with state := 2, port := none }, mem3 2], live := (1, 0) }
def roundM (x : Pool) : Fjoek := (poolM x).setRound 0 round0

theorem meets_round : (roundM pool3).activeRound 0 0 = some round0 ∧ (roundM pool3).activeRound 0 1 = none ∧
    pool3.members.any (·.resync) = false ∧ (∀ q ∈ pool3.members, q.entry < 96) ∧
    nextStripe (roundM pool3) pool3 0 0 round0 ((roundM pool3).cursor pool3 0 round0).1 ((roundM pool3).cursor pool3 0 round0).2 = none ∧
    nextStripe (roundM lostPool) lostPool 0 0 round0 ((roundM lostPool).cursor lostPool 0 round0).1
      ((roundM lostPool).cursor lostPool 0 round0).2 = some (1, 0) ∧
    (let m := roundM lostPool
     m.lockFree 0 0 darnStrand = true ∧ m.openRecs = [] ∧
       (∀ o ∈ List.range (LU lay3), lay3.k ≤ (m.readableAt lostPool 0 0 0 o).length ∧ m.goneAt lostPool 0 0 0 o = []) ∧
       0 < LU lay3 ∧
       m.canPass libStrand 3 (LU lay3 * lostPool.blockLen * (pendingStrips m lostPool 0 0 0 round0).length) = true ∧
       m.recRoom lostPool (((List.range (LU lay3)).map fun o => Lw lay3 - (m.readableAt lostPool 0 0 0 o).length).sum) = true ∧
       (m.libDraw 3 (m.cost (m.rebuildCosts lostPool 0 0 0 (pendingStrips m lostPool 0 0 0 round0).length))).1 = true) := by
  decide +kernel

/-- PoolCommands: a reshape in phase 1, in phase 2 with more to move, and at its end. -/
def reshaping : Pool := { pool3 with next := some lay3, nextReps := 4 }
def reshapeM (phase a : Nat) : Fjoek := (poolM reshaping).storeReshape 0 phase 8 0 a 3 4

set_option maxRecDepth 100000 in
theorem meets_reshape : (reshapeM 1 9).pool? 0 = some reshaping ∧ reshaping.next.isSome = true ∧ (reshapeM 1 9).reshapePhase 0 = 1 ∧
    (reshapeM 2 9).reshapePhase 0 = 2 ∧
    (reshapeM 2 9).reshapeB 0 + (reshapeM 2 9).reshapeE 0 < (reshapeM 2 9).mramNat (reshapeAt 0 + 0x10) 8 * (reshapeM 2 9).reshapeE 0 ∧
    (reshapeM 2 1).mramNat (reshapeAt 0 + 0x10) 8 * (reshapeM 2 1).reshapeE 0 ≤ (reshapeM 2 1).reshapeB 0 + (reshapeM 2 1).reshapeE 0 ∧
    reshaping.roundDue = false ∧ (reshapeM 1 9).lib.cache.all (fun q => !q.dirty) = true ∧
    reshaping.auWait = [] ∧ (∀ g ∈ (reshapeM 1 9).unitOld reshaping 0, (reshapeM 1 9).lockFree 0 g darnStrand = true) ∧
    (∀ k ∈ [1, 2, 9], ∀ ph ∈ [1, 2], let m := reshapeM ph k
      let news := (List.range (m.reshapeE 0 / LK lay3)).map (m.reshapeB 0 / LK lay3 + ·)
      (∀ g ∈ news, m.lockFree 0 g darnStrand = true) ∧ m.recRoom reshaping news.length = true ∧ m.recRoom reshaping 0 = true) ∧
    ∀ w ∈ [scratchWidth reshaping, Lw lay3], ((reshapeM 1 9).libDraw reshaping.moveClass ((reshapeM 1 9).moveCost 8 2 w)).1 = true := by
  decide +kernel

/-- PoolCommands: assembly of a label that MRAM names, with its three members found. The copy's table and map match the record's CRCs. -/
def copy3 : LabelCopy := { ns := [], map := [], rounds := [], reshape := [], cursor := (0, 0), lostList := [] }
def label3 : Label :=
  { uuid := 7, gen := 3, nsCrc := crc32c (copyTable copy3), mapCrc := crc32c copy3.map, ms := 0, pi := 0, window := some 30, portable := false
    jx0 := 0, jx1 := 1, layout := lay3, reps := 4, kau := Lau lay3, next := none, members := (List.range 3).map fun i => ⟨100 + i, 0, 500000⟩
    copies := [copy3], reloc := [], relocAbove := [] }
def found3 : List Found := (List.range 3).map fun i => ⟨i, 7, i, 3, 100 + i, 500000, true, false⟩
def namedM : Fjoek := serve.storeHead 0 pool3 true
def made3 : Pool :=
  { pool3 with members := (List.range 3).map (fun i => { serial := 100 + i, state := 0, lbas := 500000, port := some i, epoch := 1, resync := false, entry := i })
               jx0 := some 0, jx1 := some 1, ns := [], map := [], online := false }

theorem good_of_crcs (l : Label) (c : LabelCopy) (hc : l.copies = [c]) (hn : l.nsCrc = crc32c (copyTable c)) (hm : l.mapCrc = crc32c c.map) :
    goodCopy l = some c := by
  simp only [goodCopy, hc, hn, hm, List.find?_cons, beq_self_eq_true, Bool.and_self]

theorem label3_good : goodCopy label3 = some copy3 := good_of_crcs label3 copy3 rfl rfl rfl

set_option maxRecDepth 100000 in
theorem label3_made : namedM.poolOf 0 label3 found3 = made3 := by
  unfold Fjoek.poolOf
  simp only [label3_good]
  decide +kernel

set_option maxRecDepth 100000 in
theorem meets_assembly : newestLabel [label3] = some label3 ∧ namedM.mramNames 0 label3 = true ∧ namedM.pool? 0 = none ∧
    (((found3.filter fun f => f.uuid == label3.uuid).filter fun f => f.gen == label3.gen).map (·.member)).Nodup :=
  ⟨rfl, by decide +kernel, by decide +kernel, by decide +kernel⟩

set_option maxRecDepth 100000 in
theorem meets_record : namedM.recordBad 0 label3 = false := by
  unfold Fjoek.recordBad
  simp only [label3_good]
  decide +kernel

set_option maxRecDepth 100000 in
theorem meets_assembled :
    let start := ((namedM.setCache (namedM.lib.cache.filter fun c => c.pool != 0)).setPool 0 made3).setPool 0
        { made3 with group := namedM.mramNat (jheadAt 0 + 24) 8 + 1, groupOf := namedM.extentGroups 0 [] }
    let set := ((start.resumeRounds 0).resumeResync 0).noteUnread []
    ∃ y, set.pool? 0 = some y ∧ set.tooShort y 0 = false :=
  ⟨{ made3 with group := 1 }, by decide +kernel, by decide +kernel⟩

/-- PoolCommands: a C3 descriptor that still waits on drive port 5. -/
theorem meets_starved : ∃ m : Fjoek, bitOf m.waitPorts 5 = true :=
  ⟨descM { fill with cls := 3, phase := .running, words := [0x200, 0x80000000, 0, 64, 5, 0, 0, 0] }, by decide +kernel⟩

/-! ## Drive ports, port slots, switch core and forwarding tables -/

/-- Drive port 5 in service: present, powered, trained, with its queues; PERST_N is deasserted. -/
def driveRegs : Fjoek := with_ serve [(DRV_PSTAT_present 5, 1), (BAY_STAT_pg 5, 1), (DRV_PSTAT_up 5, 1), (DRV_PCTL_disable 5, 0), (DRV_QBASE_base, 8)]
def drivePort (x : DrvPort) : Fjoek := driveRegs.setPort 5 x
def driveM : Fjoek := drivePort { portReset 5 with perst := true, queues := true }

/-- DrivePorts: PERST_N may be deasserted; a link that trains; one in service with room; a drive that does not answer. -/
theorem meets_drive : (let m := with_ driveRegs [(DRV_PCTL_auto 5, 1), (DRV_PSTAT_up 5, 0)]
     m.isOn (DRV_PCTL_auto 5) = true ∧ m.isOn (DRV_PCTL_disable 5) = false ∧ m.isOn (DRV_PSTAT_present 5) = true ∧ m.isOn (BAY_STAT_pg 5) = true ∧
     m.drvUp 5 = false ∧ m.runs 7 = true) ∧ driveM.drvUp 5 = true ∧ (driveM.port 5).perst = true ∧ driveM.trailing = false ∧
    driveM.isOn (DRV_RCMD_busy 5) = false ∧ driveM.refusing 5 = false ∧ (driveM.port 5).slots.length < 255 ∧ (driveM.port 5).queues = true ∧
    (driveM.port 5).psOut = false ∧ (drivePort { portReset 5 with psOut := true, fencing := true, tempFails := 2 }).port 5 =
      { portReset 5 with psOut := true, fencing := true, tempFails := 2 } ∧ serve.drvUp 5 = false ∧ 5 = 12 * (0 : Nat) + 5 ∧ 5 < 12 ∧
    (with_ driveM [(DRV_POLL_us 5, 1)]).get (DRV_POLL_us 5) ≠ 0 ∧ (with_ driveM [(DRV_TMO_ms 5, 1)]).get (DRV_TMO_ms 5) ≠ 0 ∧
    bitOf ((with_ driveM [(DRV_FENCE_pmask, 32)]).get DRV_FENCE_pmask) 5 = true := by decide +kernel

/-- DrivePorts: a raw command outstanding in slot 9, whose completion has four dwords; and a lease of one cell that a running descriptor of
the port names, with the last byte of it. -/
def rawM : Fjoek := drivePort { portReset 5 with slots := [⟨9, 0, .raw⟩] }
def inbound : Desc := { fill with phase := .running, words := [0x200, 0x80000000, 0, 64, 5, 0, 0, 0] }
def leasedDrive : Fjoek := { driveM with mngl := { mnglInit with
  leases := [(0, { seq := 0, live := true, used := true, owner := 0, cells := [4] })], descs := [inbound], nextId := 1 } }

theorem meets_drive_slots : ((rawM.port 5).slots.find? fun z => z.slot == nth [0, 0, 0, 9] 3 0 % 65536) = some ⟨9, 0, .raw⟩ ∧
    [0, 0, 0, 9].length = 4 ∧ (rawM.port 5).slots ≠ [] ∧ 255 + 1 ≤ 256 * (leasedDrive.leaseAt 0).cells.length ∧ 255 < 2 ^ 20 ∧
    leasedDrive.namesLease 5 0 = some inbound ∧ 2 ^ 21 - 1 + [(0 : Byte)].length ≤ 2 ^ 21 := by decide +kernel

/-- DrivePorts: queue memory that a drive reads, in HBM written whole. -/
theorem meets_drive_read : ((whole driveM).hbmDetect none ((whole driveM).get DRV_QBASE_base * 2 ^ 26 + 5 * 2 ^ 21 + 0) (2 ^ 21)).1 = false :=
  hbm_intact rfl rfl rfl rfl _ (by decide +kernel)

/-- R209, R113: a link that falls ends a descriptor of its port; its status word holds code 0x07 and status 7h/C1h. -/
theorem test_link_down : after (.driveLinkDown 5) (at_ { leasedDrive with mngl := { leasedDrive.mngl with
    descs := [{ inbound with words := [0x200 + 2 ^ 26, 0x80000000, 0, 64, 5, 0, 0, 0] }] } }) (fun m => m.lNat 0 0 8) = 0x7C10007 := by
  decide +kernel

/-- Slot 0 of quad 0, whose mode gives it to one 100G port. -/
def slotM (l : List (Fld × Nat)) : Fjoek := with_ serve ((NETP_QCFG_mode 0, 1) :: l)

/-- PortSlots: the states of a slot, an idle quad and one in use, a fault in force, an open slot with PAUSE and with PFC, an XOFF to repeat,
a class paused under the watchdog. -/
theorem meets_slots : (slotM []).slotInUse 0 = true ∧ (slotM []).get (NETP_SSTAT_state 0) = 0 ∧
    (slotM [(NETP_SSTAT_state 0, 1)]).get (NETP_SSTAT_state 0) = 1 ∧ (slotM []).isOn (NETP_QSTAT_busy 0) = false ∧
    (slotM [(NETP_SSTAT_state 0, 2)]).get (NETP_SSTAT_state 0) = 2 ∧ (slotM [(NETP_SSTAT_state 0, 3)]).get (NETP_SSTAT_state 0) = 3 ∧
    (∀ i < 4, serve.isOn (NETP_SCTL_admin (4 * 0 + i)) = false ∧ serve.get (NETP_SSTAT_state (4 * 0 + i)) = 0) ∧
    ¬(∀ i < 4, (slotM [(NETP_SCTL_admin 0, 1)]).isOn (NETP_SCTL_admin (4 * 0 + i)) = false ∧
      (slotM [(NETP_SCTL_admin 0, 1)]).get (NETP_SSTAT_state (4 * 0 + i)) = 0) ∧
    ((slotM [(NETP_SSTAT_state 0, 4)]).get (NETP_SSTAT_state 0) = 4 ∧ ((slotM [(NETP_SSTAT_state 0, 4)]).setFault 0 true).faulty 0 = true) ∧
    (let m := slotM [(NETP_SSTAT_up 0, 1), (NETP_SCTL_admin 0, 1), (NETP_SCTL_fc 0, 1), (SWC_PSTAT_xoff 0, 8), (NETP_PFCCFG_wd 0, 1),
       (SWC_PSTAT_paused 0, 0x80)]
     m.isOn (NETP_SSTAT_up 0) = true ∧ m.isOn (NETP_SCTL_admin 0) = true ∧ m.get (NETP_SCTL_fc 0) = 1 ∧ m.isOn (NETP_SSTAT_txsup 0) = false ∧
     m.get (SWC_PSTAT_xoff 0) ≠ 0 ∧ m.get (NETP_PFCCFG_wd 0) ≠ 0 ∧ bitOf (m.get (SWC_PSTAT_paused 0)) 7 = true ∧
     (m.put (NETP_SCTL_fc 0) 2).get (NETP_SCTL_fc 0) = 2) := by decide +kernel

/-- A broadcast frame of 64 bytes with its FCS, from slot 0; VLAN 1 joins slots 0 and 1, and slot 1 is up. -/
def bcast : List Byte := List.replicate 6 0xFF ++ [2, 0, 0, 0, 0, 1] ++ [0x88, 0xB5] ++ zeros 46
def lanM : Fjoek :=
  let m := with_ serve [(NETP_SSTAT_up 0, 1), (NETP_SCTL_admin 0, 1), (NETP_SSTAT_up 1, 1), (NETP_SCTL_admin 1, 1), (NETP_SSTAT_state 1, 4),
    (FWD_PVID_vid 0, 1), (SWC_PRESS_cells, 0)]
  { m with fwd := { fwdInit with vlans := [(1, 2 ^ 63 + 3)] } }
def bframe : Frame :=
  { id := 0, bytes := bcast, cells := 1, cls := lanM.frameClass 0 (bcast.map BitVec.toNat), ingress := 0, stored := 0, loop := false, mcast := true
    left := false, headroom := false, route := none, cluster := none }
def gotM : Fjoek := (((lanM.count (NETP_RXFRM_LO 0) 1).count (NETP_RXOCT_LO 0) 64).happen 0x100 1)
def storedM : Fjoek := { (gotM.lookup 0 (bcast.map BitVec.toNat)).2 with swc := { swcInit with nextFrame := 1, frames := [bframe] } }

/-- SwitchCore: the frame is sound, floods to slot 1 alone and is admitted there. -/
theorem meets_frame : lanM.slotOpen 0 = true ∧ bcast.length + 4 = 64 ∧ ¬clampTo 1518 9216 (lanM.get (NETP_MCFG_maxlen 0)) < 64 ∧
    frameBe (bcast.map BitVec.toNat) 12 2 ≠ 0x8808 ∧ lanM.isOn (NETP_SSTAT_txsup 0) = false ∧ lanM.trailing = false ∧ 0 ≤ lanM.sharedSize ∧
    lanM.get SWC_PRESS_cells = 0 ∧ lanM.isOn SWC_MIRROR_en = false ∧ (gotM.lookup 0 (bcast.map BitVec.toNat)).1.ports = [1] ∧
    (gotM.lookup 0 (bcast.map BitVec.toNat)).1.mnic = false ∧
    storedM.admission bframe 1 ((gotM.lookup 0 (bcast.map BitVec.toNat)).1.cls.getD bframe.cls) true = .yes false := by
  decide +kernel

/-- SwitchCore: that frame queued for slot 1 (and on the loopback port), one that has left once, one that waits for its check; a hold. -/
def queued (p : Nat) : Fjoek := { lanM with swc := { swcInit with
  frames := [bframe], queues := [(8 * p, [⟨0, false, false⟩])], nextFrame := 1, holds := [0] } }
def waitingM : Fjoek := { lanM with swc := { swcInit with frames := [bframe], waiting := [(34, [(0, [1], 0)])], nextFrame := 1 } }

theorem meets_egress : (queued 1).portReady 1 = true ∧ (queued 1).inHold 1 = false ∧ ((queued 1).nextClass 1).map (·.1) = some 0 ∧
    (queued 1).queueOf 1 0 = [⟨0, false, false⟩] ∧ (queued 1).frame 0 = some bframe ∧ (queued 1).inHold 0 = true ∧
    ((queued 39).nextClass 39).map (·.1) = some 0 ∧ (queued 39).get SWC_PRESS_cells = 0 ∧
    tableGet (fun _ => []) waitingM.swc.waiting 34 = [(0, [1], 0)] ∧ waitingM.frame 0 = some bframe ∧
    waitingM.admission bframe 1 0 true = .yes false ∧ ({ bframe with left := true } : Frame).left = true ∧
    tableGet (fun _ => []) lanM.swc.waiting 0 = [] ∧ (queued 1).residue < 8192 ∧ (queued 1).looped 1 = false ∧
    (lanM.setReg64 HEARTH_TIME_LO (2 ^ 40)).older bframe (lanM.get SWC_MCAST_age) = true := by decide +kernel

/-- SwitchCore: a tagged frame on the loopback port whose destination's entry names that port again. -/
def loopBytes : List Byte := ([2, 0, 0, 0, 0, 1, 2, 0, 0, 0, 0, 9, 0x81, 0, 0, 1, 0x88, 0xB5] : List Byte) ++ zeros 46
def loopFrame : Frame := { bframe with bytes := loopBytes, mcast := false }
def loopM : Fjoek :=
  let e : FwdEntry := { FwdEntry.ofBytes (([1, 2, 0, 0, 0, 0, 0, 0, 1, 0, 2, 0, 0, 0, 0, 1] : Bytes) ++ List.replicate 32 0) with
    result := 39 :: List.replicate 19 0 }
  { with_ (queued 39) [(FWD_CTL_en, 1)] with
    swc := { (queued 39).swc with frames := [loopFrame] }
    fwd := { lanM.fwd with ents := [(4 * lanM.bucket e.kind e.key, e)] } }

theorem meets_loop : loopM.queueOf 39 0 = [⟨0, false, false⟩] ∧ loopM.frame 0 = some loopFrame ∧ (loopM.nextClass 39).map (·.1) = some 0 ∧
    loopM.get SWC_PRESS_cells = 0 ∧ 0 ≤ loopM.sharedSize ∧
    (loopM.lookup 39 ((loopM.leaving 39 loopFrame ⟨0, false, false⟩).map BitVec.toNat)).1.ports = [39] := by decide +kernel

/-- SwitchCore: a boundary at its target, and one that a free cell may move. -/
theorem meets_boundary : (let m := with_ serve [(SWC_BOUND_cells, 70000), (SWC_BSTAT_pending, 1), (SWC_BSTAT_cur, 70000)]
     m.isOn SWC_BSTAT_pending = true ∧ m.get SWC_BSTAT_cur = clampTo 65536 327680 (m.get SWC_BOUND_cells)) ∧
    (let m := with_ serve [(SWC_BOUND_cells, 70001), (SWC_BSTAT_pending, 1), (SWC_BSTAT_cur, 70000), (MNGL_LFREE_free, 5), (MNGL_LRSV_rsv, 4)]
     m.isOn SWC_BSTAT_pending = true ∧ m.get SWC_BSTAT_cur < clampTo 65536 327680 (m.get SWC_BOUND_cells) ∧
     m.get MNGL_LRSV_rsv < m.get MNGL_LFREE_free) := by decide +kernel

/-- R222: the MAC counts a frame that a fault cuts off. -/
theorem test_runt : after (.frameReceive 0 0 .cut bcast 0 0) (at_ lanM) (fun m => m.reg64 (NETP_RXRUNT_LO 0)) = 1 := by decide +kernel

/-- A MAC entry in the data registers of unit 0: VLAN 1, port 1. -/
def entryRegs : Fjoek := [(0, 0x0201), (2, 0x00020001), (3, 0x01000000), (7, 1)].foldl (fun m p => m.setReg (FWD_UPD_DATA 0 p.1) p.2) serve
def macEntry : FwdEntry := FwdEntry.ofBytes (entryRegs.updBytes 0)
def macLoc : Nat := 4 * entryRegs.bucket macEntry.kind macEntry.key
def inserted : Fjoek := { entryRegs with fwd := { fwdInit with ents := [(macLoc, macEntry)] } }

/-- Forwarding: a well-formed entry that is not in the tables, with room for it, and the same where it is found. -/
theorem meets_entry : entryReserved (entryRegs.updBytes 0) = true ∧ macEntry.valid = true ∧ macEntry.kind < 6 ∧
    entryRegs.fwdFind macEntry.kind macEntry.key = none ∧ entryRegs.freeLoc macEntry = some macLoc ∧
    inserted.fwdFind macEntry.kind macEntry.key = some macLoc ∧ macEntry.kind ≠ 0 ∧ macLoc / 4 = entryRegs.bucket macEntry.kind macEntry.key ∧
    macLoc < 266240 ∧ entryRegs.isOn (FWD_UPD_CMD_busy 0) = false ∧
    (with_ entryRegs [(FWD_UPD_CMD_busy 0, 1)]).isOn (FWD_UPD_CMD_busy 0) = true ∧ tableGet (fun _ => 0) entryRegs.fwd.pending 0 ≠ 1 ∧ (entryRegs.get (FWD_UPD_LOC_loc 0)) ≤ 266367 ∧ (FwdEntry.ofBytes (serve.updBytes 0)).kind = 0 ∧
    (with_ serve [(FWD_RINSE_en, 1)]).isOn FWD_RINSE_en = true := by decide +kernel

/-- R259: the status of an insertion holds code 0 and the entry's location. -/
theorem test_insert : after (.fwdInsert 0) (at_ entryRegs) (fun m => 8 * m.get (FWD_UPD_STAT_loc 0) + m.get (FWD_UPD_STAT_code 0)) = 8 * macLoc := by
  decide +kernel

/-- R260: an entry already there answers code 2. -/
theorem test_insert_twice : after (.fwdInsert 0) (at_ inserted) (fun m => m.get (FWD_UPD_STAT_code 0)) = 2 := by decide +kernel

/-! ## RDMA transport, Thimble and slates -/

/-- A packet for context 0 (reuse count 1) at PSN 100. -/
def hd : PktHead :=
  { xrx := 0, frame := none, slot := 0, cluster := 0, qpn := 0x10000, pkey := 0xFFFF, psn := 100, good := true, ce := false, first := true
    last := true, ackReq := true, solicited := false, busy := false, raw := [], tag := [], ext := none }

/-- Context 0 in RTS, cached: path MTU 1,024, expected PSN 100, next PSN 10, last acknowledged 5, four responder resources. -/
def rts : Xport :=
  { xportInit with
    qps := [(0, { qpReset 0 with reuse := 1, alloc := true })], cached := [0]
    lines := [(0, 0x63), (1, 0x40010000), (6, 0xFFFF0000), (8, 5 * 2 ^ 24 + 10), (9, 100)] }

/-- Key 5 of entry 1, VALID, zero-based, all rights, over 4 KiB of slate 3; entry 0 is allocated with tag 9. -/
def keyBytes : List Byte :=
  ([1, 9] ++ List.replicate 30 0 ++ [2, 5, 0xFF, 0, 0, 0, 3, 0] ++ List.replicate 8 0 ++ [0, 0x10] ++ List.replicate 14 0).map (BitVec.ofNat 8)
def key5 : Nat := 5 * 2 ^ 24 + 1
def transM : Fjoek :=
  { with_ (serve.hbmWrite 0 keyBytes) [(XPORT_CTL_en, 1), (THIM_CTL_en, 1), (MNGL_LFREE_free, 64), (MNGL_LRSV_rsv, 0)] with
    xport := rts, thim := { thimInit with states := [(0, 1), (1, 2)], cached := [1], slates := [(3, { state := 2, flags := 0, pages := 4, hbase := 0x100000, dbase := 0x200000 })] } }

/-- Packets: the queue pair is open and its request in order; a SEND of 256 bytes and requests on the key pass. -/
theorem meets_request : transM.trailing = false ∧ transM.runs 4 = true ∧ transM.xrx 0 = [] ∧ transM.isOn XPORT_CTL_en = true ∧
    (transM.qp 0).reuse = hd.qpn / 65536 ∧ (transM.qp 0).alloc = true ∧ transM.xport.cached.contains (hd.qpn % 65536) = true ∧
    transM.qpState 0 = 3 ∧ hd.pkey = transM.ctxF 0 6 31 16 ∧ transM.isSealed 0 = false ∧ transM.isSpray 0 = false ∧
    (transM.qp 0).held = [] ∧ (transM.qp 0).msg = none ∧ psnDist hd.psn (transM.expPsn 0) = 0 ∧
    transM.thim.cached.contains (key5 % 2 ^ 24) = true ∧ 256 ≤ transM.sendMax ∧ transM.itemRoom 0 256 = true ∧
    transM.resources 0 < Nat.max 1 (transM.ctxF 0 1 35 28) ∧ (transM.invalidateCheck 0 key5).1 = 0 ∧ transM.flushRingFull = false ∧
    transM.keyCheck (transM.ask 0 key5 4096 0 3 false false) = 0 ∧ transM.keyCheck (transM.ask 0 key5 0 4096 2 false false) = 0 ∧
    transM.keyCheck (transM.ask 0 key5 4088 8 4 true false) = 0 ∧ transM.keyCheck (transM.ask 0 key5 0 4096 5 false true) = 0 ∧
    transM.xport.cached.length + transM.xport.loading.length + transM.mngl.descs.length < 8192 := by
  decide +kernel

theorem meets_stage : ∃ x y, transM.stage 0 (itemCells 256) = some (x, y) ∧ (y.leaseAt x).cells.length = itemCells 256 :=
  ⟨_, _, rfl, by decide +kernel⟩

/-- R310: order 4: one byte beyond the key. -/
theorem test_key_bounds : transM.keyCheck (transM.ask 0 key5 4089 8 3 false false) = 4 := by decide +kernel

/-- Packets: responses of the peer: PSN 7 is outstanding and PSN 4 is not; an RNR limit of 7 and one that is spent. -/
def readTx : TxReq := { desc := 0, read := true, psn := some 6, msn := 0, span := 3, sent := 1, acked := 1, got := [] }
def reader : Fjoek := { transM with
  mngl := { mnglInit with descs := [{ fill with phase := .running }], nextId := 1 }
  xport := { rts with qps := [(0, { qpReset 0 with reuse := 1, alloc := true, tx := [readTx] })] } }
def rnrM (lim : Word64) : Fjoek := { transM with xport := { rts with lines := [(0, 0x63 + lim * 0x80000), (6, 0xFFFF0000), (8, 5 * 2 ^ 24 + 10)] } }

theorem meets_response : psnDist 7 (transM.ackedPsn 0) < psnDist (transM.sendPsn 0) (transM.ackedPsn 0) ∧
    ¬psnDist 4 (transM.ackedPsn 0) < psnDist (transM.sendPsn 0) (transM.ackedPsn 0) ∧ (rnrM 7).ctxF 0 0 21 19 = 7 ∧
    (rnrM 0).ctxF 0 0 21 19 = 0 ∧ 0 < (transM.qp 0).rnrs + 1 ∧ transM.ackedPsn 0 = 5 ∧
    psnDist 5 (transM.ackedPsn 0) < psnDist (transM.sendPsn 0) (transM.ackedPsn 0) ∧ (transM.qp 0).tx = [] ∧
    ((reader.qp 0).tx.find? fun u => u.read && u.psn.isSome && decide (psnDist 7 (u.psn.getD 0) < u.span)) = some readTx ∧
    (reader.findDesc 0).isSome = true ∧ psnDist 7 6 = readTx.acked ∧ (7 : Nat) ≠ readTx.psn.getD 0 := by decide +kernel

/-- Packets: a slot of the CM ring that is free, and one that is taken. -/
theorem meets_cm : (transM.hbmWrite 0x8000000 (zeros 4)).hbmNat 0x8000000 4 = 0 ∧
    (transM.hbmWrite 0x8000000 [1, 0, 0, 0]).hbmNat 0x8000000 4 ≠ 0 := by decide +kernel

/-- R283: a READ that arrives again is a duplicate, not a new access. -/
theorem test_duplicate_write : after (.rdmaWrite { hd with psn := 99 } 0 (BitVec.ofNat 32 key5) 64 (zeros 64)) (at_ transM)
    (fun m => 2 * m.reg64 XPORT_DUP_LO + m.thim.accs.length) = 2 := by decide +kernel

/-- R310, R311: a write that passes starts one slate access, at the slate's place. -/
theorem test_write_starts : after (.rdmaWrite hd 0x40 (BitVec.ofNat 32 key5) 64 (zeros 64)) (at_ transM)
    (fun m => (m.thim.accs.map (·.addr)).sum) = 0x100040 := by decide +kernel

/-- QueuePairs: what the timers, the shaper and the loads act on. -/
def qpM (f : Qp → Qp) : Fjoek := { transM with xport := { rts with qps := [(0, f { qpReset 0 with reuse := 1, alloc := true })] } }
def held : Pkt := ⟨{ hd with psn := 102 }, .send none, []⟩

theorem meets_timers : ((qpM fun q => { q with held := [held] }).qp 0).held ≠ [] ∧ ((qpM fun q => { q with held := [held] }).qp 0).nak = none ∧
    ((qpM fun q => { q with unacked := 1 }).qp 0).unacked ≠ 0 ∧ ((qpM fun q => { q with owed := [] }).qp 0).owed = [] ∧
    transM.sendPsn 0 ≠ transM.ackedPsn 0 ∧
    ({ transM with xport := { rts with lines := [(0, 0x63 + 0x800), (8, 10)] } } : Fjoek).ctxF 0 0 15 11 ≠ 0 ∧
    ((qpM fun q => { q with rnrFrom := some 6 }).qp 0).rnrFrom = some 6 ∧ ((qpM fun q => { q with blocked := true }).qp 0).blocked = true ∧
    (let m : Fjoek := { transM with xport := { rts with loading := [1] } }
     m.xport.loading.contains 1 = true ∧
       m.xport.cached.length + m.xport.loading.length + m.mngl.descs.length + (m.xrx 0).length + (m.xrx 1).length < 8192) ∧
    (transM.qp 0).blocked = false ∧ serve.isOn XPORT_CTL_en = false ∧ transM.isOn XPORT_CTL_en = true := by decide +kernel

def sprayMsg : RxMsg :=
  { kind := .send none, psn := 100, msn := 0, count := 1, got := [0], bytes := 64, lease := none, cluster := 0, ce := false
    solicited := false, accs := [], complete := false, span := 2 }
theorem meets_spray : ∃ x ∈ ((qpM fun q => { q with spray := [sprayMsg] }).qp 0).spray, x.complete = false := ⟨sprayMsg, by decide, rfl⟩

/-- QueuePairs: a SEND that waits at the head of XRX0, for want of cells (R285). -/
def starved : Fjoek := { transM.put MNGL_LFREE_free 0 with xport := { rts with xrx := [(0, [⟨hd, .send none, zeros 64⟩])] } }

theorem meets_rnr_wait : starved.leads = false ∧ starved.xrx 0 = [⟨hd, .send none, zeros 64⟩] ∧
    (starved.takePacket ⟨hd, .send none, zeros 64⟩).1 = .waits ∧
    (starved.takePacket ⟨hd, .send none, zeros 64⟩).2.2.xport.cached.contains 0 = true ∧
    pktKey ⟨hd, .send none, zeros 64⟩ ((starved.takePacket ⟨hd, .send none, zeros 64⟩).2.2.qp 0).msg = none := by decide +kernel

/-- QueuePairs: the same, where cells are free and its cluster's group is held closed (R50). -/
def shutOut : Fjoek := { transM.put (SEAM_GCTL_drain 0) 1 with
  xport := starved.xport, seam := { transM.seam with held := [(0, true)] } }
theorem meets_rnr_shut : shutOut.leads = false ∧ shutOut.xrx 0 = [⟨hd, .send none, zeros 64⟩] ∧
    (let r := shutOut.takePacket ⟨hd, .send none, zeros 64⟩
     r.1 = .waits ∧ r.2.2.xport.cached.contains 0 = true ∧ pktKey ⟨hd, .send none, zeros 64⟩ (r.2.2.qp 0).msg = none ∧
       r.2.2.homeOf 0 = none ∧ r.2.2.canStage 0 (itemCells 64) = true) := by decide +kernel

/-- QueuePairs: whatever the free value is, a module whose contexts are all free has one at it; a context in RESET may be freed. -/
theorem meets_alloc : serve.get XPORT_QPUSED_n < 65536 ∧ freeQp serve 1 (Config.freeNat 0) = some (Config.freeNat 0 % 65536) ∧
    65536 ≤ (with_ serve [(XPORT_QPUSED_n, 65536)]).get XPORT_QPUSED_n ∧
    ((qpM id).qp 0).alloc = true ∧ ((qpM id).qp 0).reuse = 0x10000 / 65536 ∧
    ({ transM with xport := { rts with lines := [] } } : Fjoek).qpState 0 = 0 ∧ (serve.qp 0).alloc = false := by
  exact ⟨by decide +kernel, rfl, by decide +kernel, by decide +kernel, by decide +kernel, by decide +kernel, rfl⟩

/-- KeyCommands: the operands of a registration of entry 0 in the data registers, over 4 KiB of slate 3 with rights 0x06. -/
def regM (l : List (Nat × Nat)) : Fjoek :=
  ([(0, 0x060000), (1, 0x30000), (4, 4096)] ++ l).foldl (fun (m : Fjoek) (p : Nat × Nat) => m.setReg (THIM_KDATA p.1) p.2) transM

theorem meets_register_key : (regM []).isOn THIM_KSTAT_busy = false ∧ (regM []).keyState 0 = 1 ∧
    ((regM []).slate 3).state = 2 ∧ 0 + 4096 ≤ 4096 * ((regM []).slate 3).pages ∧ (regM []).keyAddr 0 + 32 ≤ 2 ^ 35 ∧
    (regM []).hbmFree ((regM []).keyAddr 0) 32 = true ∧ (regM []).keyState 1 ≠ 1 ∧ (regM [(4, 0)]).reg (THIM_KDATA 4) = 0 ∧
    4096 * ((regM []).slate 3).pages < 0x4000 + 4096 ∧ bitOf ((regM [(0, 0x080000)]).reg (THIM_KDATA 0)) 19 = true ∧
    bitOf ((regM [(0, 0x080000)]).reg (THIM_KDATA 0)) 17 = false ∧ (with_ serve [(THIM_KSTAT_busy, 1)]).isOn THIM_KSTAT_busy = true := by
  decide +kernel

/-- KeyCommands: a revocation of the key in use and not in use, the log, and the sealed keys. -/
def revokeM (use : Nat) : Fjoek := (transM.setReg (THIM_KDATA 0) key5).setKeyUse 1 use

theorem meets_revoke : (revokeM 0).reg (THIM_KDATA 0) % 2 ^ 24 < 1048576 ∧ (revokeM 0).reg (THIM_KDATA 0) / 2 ^ 24 ≠ 0 ∧
    (revokeM 0).keyState 1 = 2 ∧ (revokeM 0).keyTag 1 = (revokeM 0).reg (THIM_KDATA 0) / 2 ^ 24 ∧ (revokeM 0).keyUse 1 = 0 ∧
    (revokeM 1).keyUse 1 ≠ 0 ∧ transM.thim.revLog = [] ∧
    (transM.thim.sealKeys.filter fun e => e.1 != 7).length < 1024 := by decide +kernel

/-- KeyCommands: whatever the free value is, a key table of zeros has a FREE entry at it. -/
theorem meets_key_alloc : (whole serve).get THIM_KUSED_n < 1048576 ∧
    freeKey (whole serve) ((whole serve).thim.states.length + 1) (Config.freeNat (whole serve).free) = some (Config.freeNat 0 % 1048576) ∧
    (whole serve).keyAddr (Config.freeNat 0 % 1048576) + 32 ≤ 2 ^ 35 ∧
    (whole serve).hbmFree ((whole serve).keyAddr (Config.freeNat 0 % 1048576)) 32 = true ∧ (whole serve).thim.lines = [] := by
  have hu : (whole serve).get THIM_KUSED_n = 0 := by decide +kernel
  have hb : (whole serve).get THIM_KTBASE_base = 0 := by decide +kernel
  have hx := Nat.mod_lt (Config.freeNat 0) (show 0 < 1048576 by decide)
  have ha : (whole serve).keyAddr (Config.freeNat 0 % 1048576) = 32 * (Config.freeNat 0 % 1048576) := by
    unfold Fjoek.keyAddr; rw [hb]; omega
  have hs : (whole serve).keyState (Config.freeNat 0 % 1048576) = 0 := by
    rfl
  refine ⟨by rw [hu]; decide, ?_, by rw [ha]; omega, rfl, rfl⟩
  show (if (whole serve).keyState (Config.freeNat 0 % 1048576) = 0 then _ else _) = _
  rw [if_pos hs]
  rfl

/-- R308: REGISTER of a key of length 0 ends with code 2. -/
theorem test_register_length : after (.keyRegister 0) (at_ (regM [(4, 0)])) (fun m => m.get THIM_KSTAT_code) = 2 := by decide +kernel

/-- R313: a revocation of a key that no access uses ends at once: the entry is FREE. -/
theorem test_revoke : after .keyRevoke (at_ (revokeM 0)) (fun m => 8 * m.keyState 1 + m.get THIM_KSTAT_code) = 0 := by decide +kernel

/-- SlateAccesses: an access of each kind that a slate of the module has admitted, its bytes and its bitmap's byte written. -/
def accOf (op : SlateOp) : SlateAcc :=
  { id := 4, ctx := 0, key := 1, slate := 3, op := op, addr := 0x100000, off := 0, len := 64, psn := 100, data := zeros 64 }
def accM (op : SlateOp) : Fjoek := { (revokeM 1).hbmWrite 0x100000 (zeros 64) with
  thim := { (revokeM 1).thim with accs := [accOf op], flushes := [⟨9, 0, 1⟩] } }

theorem meets_slate_access : (accM .write).thim.accs.find? (fun b => b.id == 4) = some (accOf .write) ∧ ((accM .write).qp 0).owed = [] ∧
    ((accM .write).qp 0).due = [] ∧ ((accM .write).qp 0).ackDue = false ∧ (accM .write).keyUse 1 ≠ 0 ∧ (accM .write).keyState 1 = 2 ∧
    (accM .write).keyAddr 1 = 32 ∧ ((accM .write).slate 3).dbase = 0x200000 ∧ 0x100000 + 64 ≤ 2 ^ 35 ∧
    (accM .write).hbmFree 0x100000 64 = true ∧ 32 + 32 ≤ 0x100000 ∧ 0x100000 + 64 ≤ 0x200000 + 0 / 8 ∧
    ((accM (.faa 3)).hbmDetect none 0x100000 64).1 = false ∧ (accOf (.cas 1 2)).op = .cas 1 2 ∧ (accOf .read).op = .read ∧
    (accM .write).thim.flushes.find? (fun g => g.id == 9) = some ⟨9, 0, 1⟩ := by decide +kernel

/-- R312: a fetch-and-add of 3 leaves 3 where 0 stood. -/
theorem test_fetch_add : after (.slateAccessComplete 4) (at_ (accM (.faa 3))) (fun m => m.hbmNat 0x100000 8) = 3 := by decide +kernel

/-- SlateAccesses: a flush record of slate 3, with no namespace of it, and with the namespace of pool 0; a load of a key entry. -/
def flushM : Fjoek := with_ ((poolM pool3).hbmWrite 0 (zeros 12 ++ [3, 0, 0, 0] ++ zeros 48)) [(THIM_FLPI_pi, 1)]
def flushNs : Fjoek := flushM.setSlateRec 3 1 4 0 2 0

set_option maxRecDepth 100000 in
theorem meets_flush : flushM.get THIM_FLCI_ci ≠ flushM.get THIM_FLPI_pi ∧ flushM.nsFind (flushM.slateNsid 3) = none ∧
    serve.get THIM_FLCI_ci = serve.get THIM_FLPI_pi ∧
    flushM.hbmNat (flushM.get THIM_FLBASE_base * 2 ^ 20 + 12) 4 % 1024 = 3 ∧ flushNs.nsFind (flushNs.slateNsid 3) = some (0, 0, ns1) ∧
    flushNs.pool? 0 = some pool3 ∧ flushNs.nsReady pool3 ns1 = true ∧
    flushNs.dirtyPages 3 (flushNs.hbmNat 16 8) (flushNs.hbmNat 24 8) = [] ∧ flushNs.recRoom pool3 0 = true ∧
    ({ serve with thim := { thimInit with loading := [2] } } : Fjoek).thim.loading.contains 2 = true := by decide +kernel

/-! ## Operands outside what a command can have -/

/-- A header that is right in every field, a log record's header, and one item of each wrong kind below. -/
def lh : LogHead := ⟨1, 255, 0⟩
def eh : LogHead := ⟨1, 0, 0⟩

/-- R279: slot 32, a 25-bit QP number, a 17-bit partition key, a 25-bit PSN, a wide count, an index past it, a wide MSN. -/
theorem test_bad_heads : ([{ hd with slot := 32 }, { hd with qpn := 2 ^ 24 }, { hd with pkey := 2 ^ 16 }, { hd with psn := 2 ^ 24 },
    { hd with ext := some { fits := true, count := 1024, index := 0, msn := 0 } }, { hd with ext := some { fits := true, count := 2, index := 3, msn := 0 } },
    { hd with ext := some { fits := true, count := 2, index := 0, msn := 2 ^ 24 } }].any fun h => WellFormed (.acknowledgement h)) = false ∧
    WellFormed (.acknowledgement hd) = true := by decide +kernel

/-- R273: 4,097 bytes of data; lengths of 33 bits; the RNR timer code 32. -/
theorem test_bad_packets : ([.send hd (zeros 4097), .rdmaWrite hd 0 0 (2 ^ 32) [], .rdmaWriteWithImmediate hd 0 0 (2 ^ 32) 0 [],
    .rdmaRead hd 0 0 (2 ^ 32), .flush hd 0 0 (2 ^ 32) .visibility .range, .rnrNak hd 32, .cmDatagram hd (2 ^ 128) 1 1 0 [],
    .cmDatagram hd 1 (2 ^ 24) 1 0 [], .cmDatagram hd 1 1 (2 ^ 16) 0 [], .cmDatagram hd 1 1 1 0 (zeros 257),
    .frameReceive 0 0 .good (zeros 9217) 0 0, .pfcReceive 0 0 (List.replicate 7 0), .pfcReceive 0 0 (2 ^ 16 :: List.replicate 7 0)].any
      WellFormed) = false ∧ WellFormed (.rnrNak hd 31) = true ∧ WellFormed (.send hd (zeros 4096)) = true := by decide +kernel

/-- R356: seq 0, a 49-bit seq, target 256, a 33-bit round, a round beside a target that is no engine. -/
theorem test_bad_log_heads : ([⟨0, 255, 0⟩, ⟨2 ^ 48, 255, 0⟩, ⟨1, 256, 0⟩, ⟨1, 0, 2 ^ 32⟩, ⟨1, 255, 1⟩].any fun h => WellFormed (.logSwap h)) = false ∧
    WellFormed (.logSwap lh) = true := by decide

/-- R356: payloads that no record of their kind has. -/
theorem test_bad_records : ([.logFrame lh ⟨{ hd with slot := 32 }, .ack, []⟩, .logItem lh 0 0 0 [] [], .logItem eh 0 0 0 [] [2 ^ 64],
    .logDcomp lh 0 [0, 0, 0] [], .logDcomp lh 0 [0, 0, 0, 2 ^ 32] [], .logXcomp lh 0 256 0 0 0 [] [], .logXcomp lh 0 0 0 0 0 [] (zeros 127),
    .logTimer lh 9 0, .logGrant lh 0 false 512, .logValue lh ⟨0, 0, 0⟩, .logEpoch lh 0 [], .logDigest lh 0 (2 ^ 128), .logHorizon lh 0,
    .logUndefinedKind lh 0x10].any WellFormed) = false ∧ WellFormed (.logValue eh ⟨0, 0, 0⟩) = true := by decide +kernel

/-- Lists of a fixed length, namespace identifiers of 32 bits, and bytes in MRAM's copy. -/
theorem test_bad_lists : ([.driveTempPoll 0 [], .senseRefresh [] 0 (List.replicate 8 0), .senseRefresh (List.replicate 16 0) 0 [],
    .costCalibration [], .costCalibration (2 ^ 16 :: List.replicate 13 0), .hostRead 0 (2 ^ 32) 0 1, .nvmeFlush 0 (2 ^ 32),
    .hostWrite 0 0 0 (2 ^ 32) 0 1 false ⟨true, true⟩ [] [], .resyncFreezeDrained [⟨.mram, 0, [256]⟩]].any WellFormed) = false ∧
    WellFormed (.resyncFreezeDrained [⟨.mram, 0, [255]⟩]) = true := by decide

/-- The opcode table gives no command a word, so no word spells one. -/
theorem test_no_words : decodeTableWord 32 0 = none ∧ (State.reset.withFetchWord 32 0).pending = [] := by decide

/-! ## The block as a whole -/

/-- A step takes the front of the queue; on an empty queue the time base runs on. -/
theorem test_step_front : (match step { at_ serve with pending := [.bayCmdClr 0, .policyStall] } with
    | .next t => t.pending
    | _ => []) = [.policyStall] := by decide

/-- StepRunsCommands: time passes at State.reset with the Hearth counting. -/
theorem meets_idle : (hearthM id).hearth.off = false ∧ (hearthM id).hearth.counting = true ∧ (at_ (hearthM id)).pending = [] ∧
    ¬((hearthM id).time < 1000000000 * (hearthM id).get HEARTH_ALARM_s ∧
      1000000000 * (hearthM id).get HEARTH_ALARM_s ≤ (hearthM id).time + (hearthM id).timeStep) ∧ (hearthM id).hearth.slowAcc < 64 := by decide

/-- EventLatches: source 484 with its bit enabled and the routes to the log and to a tag; the routes to a vector and to a linked twin. -/
def routed (v : Nat) : Fjoek := (serve.setReg (EVT_EN 15) 16).setReg (EVT_ROUTE 484) v
theorem meets_latch : let m := routed 0x90010005
    m.runs 2 = true ∧ m.reg PMON_GCTL = 0 ∧ bitOf (m.reg (EVT_EN (484 / 32))) (484 % 32) = true ∧ bitOf (m.reg (EVT_ROUTE 484)) 31 = true ∧
    m.mgmt.logRoom = none ∧ bitOf (m.reg (EVT_ROUTE 484)) 28 = true ∧ m.trailing = false ∧ bitsOf (m.reg (EVT_ROUTE 484)) 9 0 = 5 := by decide
theorem meets_latch_out : bitOf ((routed 0x40000000).reg (EVT_ROUTE 484)) 30 = true ∧
    (let m : Fjoek := { routed 0x40000000 with att := { attInit with fns := [(0, { attFnReset 0 with msixEn := true })] } }
     (m.attFn 0).msixEn = true ∧ m.msixSendable 0 1508 = false) ∧ bitOf ((routed 0x20000000).reg (EVT_ROUTE 484)) 29 = true ∧
    (with_ (routed 0x20000000) [(TWIN_STAT_link, 1), (TOP_STRAP_twin, 1)]).isOn TWIN_STAT_link = true ∧
    (routed 0).isOn FEED_ESTAT_fault = false ∧ noting FEED_ESTAT_fault.addr = false ∧ FEED_ESTAT_fault.hi = FEED_ESTAT_fault.lo := by decide

/-- R481: an enabled source that latches is one more record of the event log. -/
theorem test_latch_logs : ((routed 0x80000000).latch 484).reg64 MGMT_LOGSEQ_LO = 1 ∧ ((routed 0).latch 484).reg64 MGMT_LOGSEQ_LO = 0 := by decide

/-- ManagementInterrupt: a module in the form whose cores run, with a pending source that the write of EVT_EN makes visible. -/
theorem meets_interrupt : let m := (serve.setReg (EVT_PEND 15) 16).setReg (EVT_ROUTE 484) 0x80000000
    (m.tally = [] ∧ m.hearth.burn = []) ∧ m.coreOn .core0 = true ∧ m.leads = false ∧ m.trailing = false ∧ 484 / 32 = 15 ∧ bitOf (16#32).toNat (484 % 32) = true ∧
    bitOf (m.reg (EVT_PEND 15)) (484 % 32) = true ∧ m.isOn (EVT_ROUTE_mgmt 484) = true := by decide

/-- RefusedKeys: entry 1 is REVOKING and named in the data register; a key of tag 0 and one of too large an index. -/
def revoking : Fjoek := (revokeM 1).setKeyState 1 3
theorem meets_refused_key : revoking.keyState (key5 % 2 ^ 24) = 3 ∧ key5 % 2 ^ 24 < 1048576 ∧ key5 / 2 ^ 24 ≠ 0 ∧
    revoking.thim.bad.contains (key5 % 2 ^ 24) = false ∧ revoking.isOn THIM_KSTAT_busy = false ∧ revoking.reg (THIM_KDATA 0) = key5 ∧
    (0 : Nat) / 2 ^ 24 = 0 ∧ 1048576 ≤ 1048576 % 2 ^ 24 := by decide +kernel

/-- RemovedDrives: a bay with a drive in each of its states. -/
theorem meets_removed : ∀ st ∈ [0, 1, 2, 3, 4, 5], let m := with_ serve [(BAY_STAT_present 7, 1), (BAY_STAT_state 7, st)]
    m.awake = true ∧ m.isOn (BAY_STAT_present 7) = true ∧ m.bayState 7 = st := by decide

/-- PowerFootprints, NetworkFootprints, StorageFootprints: a command of each that ends in a next state. -/
theorem meets_footprints : (∃ t, exec .policyStall (at_ serve) = .next t) ∧ (footPower .policyStall).isSome = true ∧
    (∃ t, exec (.ackTimer 0) (at_ serve) = .next t) ∧ (footNet (.ackTimer 0)).isSome = true ∧
    (∃ t, exec .horizonRecord (at_ serve) = .next t) ∧ (footData .horizonRecord).isSome = true :=
  ⟨⟨_, rfl⟩, rfl, ⟨_, rfl⟩, rfl, ⟨_, rfl⟩, rfl⟩

/-! ## The attach endpoint and the twin -/

/-- The endpoint with the PF as `x` and one virtual function, in an FLR or not. -/
def attOf (x : AttFn) (flr : Bool) : Fjoek :=
  { with_ attached [(ATT_VFST_vfen, 1), (ATT_VFST_numvf, 1)] with
    att := { attInit with fns := [(0, x), (1, { attFnReset 1 with mem := true, bme := true, flr := flr })] } }
def pf : AttFn := { attFnReset 0 with mem := true, bme := true }

/-- Attach: a link not up; an open function whose ring has room; a full ring; a record that waited for room in ring 3. -/
theorem meets_att_rings : serve.runs 9 = true ∧ serve.isOn ATT_LINK_up = false ∧ attached.barsOpen 0 = true ∧ attached.trailing = false ∧
    attached.dbFull 0 = false ∧ attached.get ATT_DBBASE_base * 2 ^ 20 + 16 ≤ 2 ^ 35 ∧ attached.hbmFree 0 16 = true ∧
    (with_ attached [(ATT_DBPI_pi 0, 256)]).dbFull 0 = true ∧ (∀ h < 64, (attached.attFn h).ovr = false) ∧
    (let m := with_ (attOf { pf with ovr := true } false) [(ATT_FNCL_cluster 0, 3)]
     (m.attFn 0).ovr = true ∧ (∀ h < 64, h ≠ 0 → (m.attFn h).ovr = false) ∧ m.get (ATT_FNCL_cluster 0) = 3 ∧
       (m.get (ATT_DBPI_pi 3) + 512 - (0#9).toNat) % 512 ≠ 256) := by decide +kernel

/-- Attach: Bus Master Enable and FLR of the virtual function, and of the PF; D-states; the configuration writes; conventional resets. -/
theorem meets_att_functions : (attOf pf false).isOn ATT_LINK_up = true ∧ (attOf pf false).fnEnabled 1 = true ∧ ((attOf pf false).attFn 1).bme = true ∧
    (∀ k, (attOf pf false).draws k = []) ∧ ((attOf { pf with bme := false } false).attFn 0).bme = false ∧ (attOf pf false).fnDescs 1 = [] ∧
    ((attOf pf true).attFn 1).flr = true ∧ ((attOf { pf with flr := true } true).attFn 0).flr = true ∧ attached.attDst = 0 ∧
    attached.fnsOn = [0] ∧ attached.fnDescs 0 = [] ∧ (attOf { pf with dst := 3 } false).attDst ≠ 0 ∧
    ({ with_ attached [] with att := { attInit with fns := [(0, { pf with dst := 3 })] } } : Fjoek).fnsOn = [0] := by
  refine ⟨by decide, by decide, by decide, fun _ => rfl, ?_⟩
  decide

/-- Attach: a request and its descriptor, and another request of the same one; a quarantined tag; a tag whose completion is late. -/
def req (tag : Nat) (d : Option Nat) (q : Bool) : AttReq := { tag := tag, fn := 0, desc := d, off := 0, len := 4, quarantined := q }
def reqM (l : List AttReq) (late : List Nat) : Fjoek := { attached with
  att := { attached.att with reqs := l, late := late }
  mngl := { mnglInit with descs := [{ fill with phase := .running, words := [0x180, 0x80000000, 0, 64, 0, 0, 0, 0] }] } }

theorem meets_att_tags : (reqM [req 5 none true] []).att.reqs.find? (fun r => r.tag == 5) = some (req 5 none true) ∧
    ((reqM [req 5 none true] []).mngl.descs.filter fun d => d.op == 0 && d.ssp == 3 && d.phase == .running && decide (d.sent < d.len)) ≠ [] ∧
    (attached.mngl.descs.filter fun d => d.op == 0 && d.ssp == 3 && d.phase == .running && decide (d.sent < d.len)) = [] ∧
    (reqM [] [5]).att.late.contains 5 = true ∧ (reqM [] []).att.reqs.find? (fun r => r.tag == 5) = none ∧
    (let m := reqM [req 5 (some 0) false, req 6 (some 0) false] []
     (m.att.reqs.any fun r => r.tag != 5 && r.desc == some 0) = true ∧ (m.findDesc 0).isSome = true ∧
       m.att.reqs.find? (fun r => r.tag == 5 && !r.quarantined) = some (req 5 (some 0) false) ∧ (m.attFn 0).ctoDis = false) ∧
    (let m : Fjoek := { reqM [req 5 (some 0) false, req 6 (some 0) false] [] with mngl := { mnglInit with descs := [{ fill with
       phase := .running, sent := 64, words := [0x180, 0x80000000, 0, 64, 0, 0, 0, 0] }] } }
     (m.mngl.descs.filter fun d => d.op == 0 && d.ssp == 3 && d.phase == .running && decide (d.sent < d.len)) = []) := by decide +kernel

/-- Attach: a vector that may be sent, one that is masked, INTx, and the wakes. -/
theorem meets_att_vectors :
    (let m : Fjoek := { attOf { pf with msixEn := true } false with att := { (attOf { pf with msixEn := true } false).att with
       msix := [(7, { addr := 0xFEE00000, data := 9, mask := false })] } }
     m.msixSendable 0 7 = true ∧ m.msixSendable 0 8 = false ∧ (m.attFn 0).msixEn = true ∧ 7 < attVectors 0 ∧ m.ceded = false ∧
       m.twin.stopped = false ∧ m.twin.frozen = false ∧ m.leads = false ∧ m.trailing = false) ∧ (attached.attFn 0).msixEn = false ∧
    ¬(64 < attVectors 1) ∧ attached.reg PMON_GCTL = 0 ∧ (attached.attFn 0).pmeEn = false ∧
    (let m : Fjoek := attOf { pf with pmeEn := true, pmeSt := true, dst := 3 } false
     (m.attFn 0).pmeEn = true ∧ (m.attFn 0).pmeSt = true ∧ m.att.d3cold = false ∧ (m.attFn 0).dst = 3) := by decide

/-- R335: a write of a doorbell goes as a 16-byte record with the value in bytes 8 to 15. -/
theorem test_doorbell_record : after (.doorbellWrite 0 0x1004 42) (at_ attached) (fun m => m.hbmNat 8 8 + 1000 * m.hbmNat 1 1) = 1042 := by
  decide +kernel

/-- R343: a vector that may not be sent sets its pending bit. -/
theorem test_vector_pends : after (.interruptRaise 0 8) (at_ (attOf { pf with msixEn := true } false))
    (fun m => bnat (tableGet (fun _ => false) m.att.pba 8)) = 1 := by decide

/-- A module that may pair: TWIN enabled, its link up. -/
def single : Fjoek := with_ serve [(TOP_STRAP_twin, 1), (TWIN_CTL_en, 1), (TWIN_STAT_link, 1)]
def peer1 : PeerInfo := { serial := 5, serving := false, prefer := false, draws := [1] }

/-- TwinRoles: pairing begins; refused as disabled; one peer value serves whatever the open draw is. -/
theorem meets_pair : single.inTwin = true ∧ single.get TWIN_STAT_phase ≠ 1 ∧ single.isOn TWIN_CMDSTAT_busy = false ∧ single.pairCode peer1 = 0 ∧
    (with_ single [(TWIN_CTL_en, 0)]).pairCode peer1 = 1 ∧ (with_ single [(TWIN_STAT_link, 0)]).pairCode peer1 = 2 ∧
    single.isOn TWIN_STAT_sync = false ∧ single.isOn TWIN_STAT_role = false ∧ single.ceded = false ∧ single.twin.stopped = false ∧
    single.power = 4 := by decide
theorem meets_pair_key : ∃ p k, (drawKey [p] single).1 = some k := by
  let s0 := single.free64.1.toNat + 2 ^ 64 * (single.free64.2.free64).1.toNat
  have e : ∀ p, (drawKey [p] single).1 = (if (s0 ^^^ (p % 2 ^ 128)) % 2 ^ 64 ≠ 0 then
      (some (s0 ^^^ (p % 2 ^ 128)), single.free64.2.free64.2) else (none, single.free64.2.free64.2) : Option Nat × Fjoek).1 := fun p => rfl
  by_cases h : (s0 ^^^ (0 % 2 ^ 128)) % 2 ^ 64 ≠ 0
  · exact ⟨0, _, by rw [e, if_pos h]⟩
  · have h1 : (s0 ^^^ (1 % 2 ^ 128)) % 2 ^ 64 ≠ 0 := by
      intro h1
      have h0 : (s0 ^^^ (0 % 2 ^ 128)) % 2 ^ 64 = 0 := by omega
      have t0 := congrArg (fun x => x.testBit 0) h0
      have t1 := congrArg (fun x => x.testBit 0) h1
      simp at t0 t1
      omega
    exact ⟨1, _, by rw [e, if_pos h1]⟩

/-- TwinRoles: a lead in step and a trailing twin part; a swap at a drained point; a resync of a solo lead; the copy and the freeze. -/
def lone : Fjoek := with_ single [(TWIN_STAT_role, 1), (TWIN_STAT_solo, 1)]
def freezing (role : Nat) : Fjoek := with_ single [(TWIN_STAT_role, role), (TWIN_STAT_phase, 3)]
theorem meets_twin_commands : lead.isOn TWIN_CMDSTAT_busy = false ∧ lead.isOn TWIN_STAT_sync = true ∧ lead.isOn TWIN_STAT_role = true ∧
    trail.isOn TWIN_STAT_role = false ∧ trail.isOn TWIN_STAT_sync = true ∧ lead.power = 4 ∧ lead.leads = true ∧ lead.get TWIN_STAT_phase = 4 ∧
    lead.allDrained = true ∧ lead.twin.swapSeq = none ∧ fjoekReset.power ≠ 4 ∧ lone.isOn TWIN_STAT_role = true ∧ lone.ceded = false ∧
    lone.isOn TWIN_STAT_sync = false ∧ lone.get TWIN_STAT_phase = 0 ∧ lone.isOn TWIN_STAT_link = true ∧
    (with_ lone [(TWIN_STAT_phase, 2)]).get TWIN_STAT_phase = 2 ∧ (freezing 1).get TWIN_STAT_phase = 3 ∧ (freezing 1).twin.swapping = false ∧
    (freezing 1).allDrained = true ∧ (freezing 0).isOn TWIN_STAT_role = false := by decide

theorem meets_twin_losses : ({ lead with twin := { twinInit with swapping := true } } : Fjoek).twin.swapSeq = none ∧
    ({ lone with twin := { twinInit with retryDue := true } } : Fjoek).twin.retryDue = true ∧
    (let m : Fjoek := { with_ single [(TWIN_CTL_autoresync, 1)] with twin := { twinInit with stopped := true } }
     m.twin.stopped = true ∧ m.isOn TWIN_CTL_autoresync = true ∧ m.isOn TWIN_STAT_link = true ∧ m.get TWIN_STAT_phase = 0 ∧
       m.isOn TWIN_STAT_role = false) ∧ single.isOn TWIN_CTL_hbstop = false ∧ single.isOn TWIN_CTL_en = true ∧ single.power = 4 ∧
    trail.runs 13 = true ∧ trail.ceded = false ∧ trail.get TWIN_STAT_phase ≠ 6 ∧ trail.isOn TWIN_STAT_link = true := by decide

/-- R382: PAIR ends with code 1 where TWIN is not enabled. -/
theorem test_pair_disabled : after (.pair peer1) (at_ (with_ single [(TWIN_CTL_en, 0)])) (fun m => m.get TWIN_CMDSTAT_code) = 1 := by decide

/-- R22: a serving module that has not been paired serves alone as the lead once its link falls. -/
theorem test_link_down_solo : after (.twinLinkDown 0) (at_ single) (fun m => 10 * m.get TWIN_STAT_role + m.get TWIN_STAT_solo) = 11 := by
  decide +kernel

/-- R373: a trailing twin that loses its lead's heartbeat takes the lead's role and counts one takeover. -/
theorem test_takeover : after .heartbeatLoss (at_ trail) (fun m => 10 * m.get TWIN_STAT_role + m.reg64 TWIN_TAKEOVER_LO) = 11 := by decide

/-- TwinChecks: a lead's acknowledgement, at its swap and not; an epoch that closes, equal to the peer's, and without a digest. -/
def swapM : Fjoek := { lead with twin := { twinInit with swapSeq := some 3, nextSeq := 4 } }
def epochM (p : Table Nat) : Fjoek := { lead with twin := { twinInit with epoch := 1, epochRounds := [(1, List.replicate 64 0)], peer := p } }
theorem meets_checks : lead.leads = true ∧ lead.twin.swapSeq = none ∧ swapM.twin.swapSeq = some 3 ∧
    3 ≤ Nat.max swapM.twin.acked (Nat.min 3 (swapM.twin.nextSeq - 1)) ∧ swapM.leads = true ∧
    (∀ p ∈ [[], [(0, 1)], [(0, 9)]], (epochM p).leads = true ∧ (epochM p).twin.closed + 1 ≤ (epochM p).twin.epoch ∧
      tableFind (epochM p).twin.epochRounds ((epochM p).twin.closed + 1) = some (List.replicate 64 0) ∧
        ∀ x < 64, nth (List.replicate 64 0) x 0 ≤ (epochM p).round x) ∧
    tableGet (fun _ => 0) (epochM [(0, 1)]).twin.peer 0 = tableGet (fun _ => 0) (epochM [(0, 1)]).twin.own 0 + 1 ∧
    ({ lead with twin := { twinInit with uncompared := [0] } } : Fjoek).twin.uncompared.find?
      (fun x => tableGet (fun _ => 0) lead.twin.peer x == 0) = some 0 ∧
    (let m := with_ lead [(TWIN_STAT_phase, 5)]
     m.get TWIN_STAT_phase = 5 ∧ m.isOn TWIN_STAT_role = true ∧ m.isOn TWIN_SCHK_done = false) ∧
    (let m := with_ trail [(TWIN_STAT_phase, 5)]
     m.get TWIN_STAT_phase = 5 ∧ m.isOn TWIN_STAT_role = false ∧ m.isOn TWIN_STAT_sync = true ∧ m.isOn TWIN_SCHK_done = false) ∧
    lead.inTwin = true ∧ lead.runs 13 = true ∧ lead.get TWIN_HREP_base * 2 ^ 20 + 128 ≤ 2 ^ 35 ∧
    lead.hbmFree (lead.get TWIN_HREP_base * 2 ^ 20) 128 = true := by decide +kernel

/-- R367: digests that differ are one divergence. -/
theorem test_divergence : after .epochClose (at_ (epochM [(0, 9)])) (fun m => m.reg64 TWIN_DIVERGE_LO) = 1 ∧
    after .epochClose (at_ (epochM [(0, 1)])) (fun m => m.reg64 TWIN_DIVERGE_LO) = 0 := by decide +kernel

/-- Replay: a record in order, for no engine and for an engine whose round has come; one whose round has not; one held; a gap. -/
theorem meets_replay : trail.takesLog = true ∧ (1 : Nat) = trail.twin.recvSeq + 1 ∧ trail.twin.ring = [] ∧
    (∀ b ∈ [LogBody.value 0 3 7, .event 484 5, .mirror 0 [1], .epoch 1 [], .digest 0 9, .link 1 3 true 2, .link 2 5 false 1, .value 0 32 7, .swap, .timer 0 0],
      (trail.holdRecord ⟨1, 0, 0⟩ b).recordReady ⟨⟨1, 0, 0⟩, b, trail.time⟩ = true) ∧
    (trail.holdRecord ⟨1, 0, 5⟩ (.timer 0 0)).recordReady ⟨⟨1, 0, 5⟩, .timer 0 0, trail.time⟩ = false ∧
    trail.twin.uncompared.contains 0 = false ∧ trail.twin.partItems = [] ∧
    (({ trail with twin := { trail.twin with partItems := [⟨0, 0, [1], 2⟩] } } : Fjoek).twin.partItems = [⟨0, 0, [1], 2⟩]) ∧
    (((trail.holdRecord lh (.epoch 1 [])).setTwin { (trail.holdRecord lh (.epoch 1 [])).twin with ring := [] }).replayOne ⟨[], 0⟩
      ⟨lh, .epoch 1 [], trail.time⟩).twin.ring = [] ∧ (with_ trail [(TWIN_STAT_role, 1), (TWIN_STAT_phase, 6)]).get TWIN_STAT_phase = 6 := by
  decide +kernel

/-- R373: the checksum of a neighbour advertisement, worked by hand from RFC 4443. -/
theorem test_announcement : ((announcement [2, 0, 0, 0, 0, 9] [2, 0x11, 0x22, 0x33, 0x44, 0x55] ([0x20, 1, 0xD, 0xB8] ++ List.replicate 11 0 ++ [7])
    0xFFF).drop 56).take 2 = [0x92, 0x86] := by decide

/-- R359: a range print completes the item that waits for it. -/
theorem test_range_print : after (.logValue ⟨1, 0, 0⟩ ⟨0, 32, 7⟩) (at_ { trail with twin := { trail.twin with partItems := [⟨0, 0, [1], 2⟩] } })
      (fun m => m.twin.partItems.length + m.seam.values.length) = 0 ∧
    after (.logValue ⟨1, 0, 0⟩ ⟨0, 32, 7⟩) (at_ trail) (fun m => m.seam.values.length) = 1 := by decide +kernel

/-- R357: a seq that is held already is nothing new; R369: a gap is a divergence. -/
theorem test_log_gap : after (.logValue ⟨0, 0, 0⟩ ⟨0, 3, 7⟩) (at_ trail) (fun m => m.seam.values.length + m.reg64 TWIN_DIVERGE_LO) = 0 ∧
    after (.logValue ⟨3, 0, 0⟩ ⟨0, 3, 7⟩) (at_ trail) (fun m => m.reg64 TWIN_DIVERGE_LO) = 1 := by decide

/-! ## The feed, the bays, the Damper and management -/

/-- The module with the feed's stage as `x` and fields set. -/
def feedM (x : Feed) (l : List (Fld × Nat)) : Fjoek := { with_ serve l with feed := x }
def hold : HoldTest := { i0 := 100, vs := 5000, charge := 0, ticks := 0, measured := false, code := 0 }

/-- Feed: each gate state, a fault with and without a retry left, the limits, the hold-up test. -/
theorem meets_feed : serve.awake = true ∧ serve.feed.gate = 0 ∧ serve.feed.rest = 0 ∧ serve.feed.held = false ∧ serve.feedBlocked = false ∧
    serve.feed.test = none ∧ serve.feed.limited = false ∧ (feedM feedInit [(FEED_STAT_loss, 1)]).feedBlocked = true ∧ serve.power ≠ 2 ∧
    serve.feedTrip ≤ (0xFFFF#16).toNat ∧ 6400 < (6401#14).toNat ∧ serve.isOn FEED_STAT_ov = false ∧
    2 * ((clampTo 60 150 (serve.get FEED_TJ_tsmax) : Nat) : Int) ≤ (400#10).toInt ∧
    ¬(2 * ((clampTo 60 150 (serve.get FEED_TJ_tsmax) : Nat) : Int) ≤ (40#10).toInt) ∧ serve.isOn FEED_STAT_tsfail = false ∧
    (feedM feedInit [(FEED_RETRY_count, 0)]).get FEED_RETRY_count = 0 ∧ ¬((feedM feedInit [(FEED_RETRY_count, 15)]).get FEED_RETRY_count = 0 ∨
      (feedM feedInit [(FEED_RETRY_count, 15)]).get FEED_RETRY_count < 15) ∧
    (feedM { feedInit with resume := true } [(FEED_STAT_loss, 1)]).isOn FEED_STAT_loss = true ∧
    (feedM { feedInit with resume := true } [(FEED_STAT_ov, 1)]).isOn FEED_STAT_ov = true ∧ serve.feedTj ≤ serve.tjMax - 20000000000 := by
  decide +kernel

/-- Feed: a power-good with room for a hold-up test, apart from its twin and not; no period, and one. -/
def goodFeed (l : List (Fld × Nat)) : Fjoek := feedM { feedInit with gate := 3, full := true } ([(FEED_STAT_pg, 1), (FEED_VIN_mv10, 7000)] ++ l)
theorem meets_hold : (goodFeed []).isOn FEED_STAT_pg = true ∧ (goodFeed []).uvTh + 400 ≤ (goodFeed []).get FEED_VIN_mv10 ∧
    (goodFeed []).isOn TOP_STRAP_twin = false ∧ (goodFeed [(TOP_STRAP_twin, 1)]).isOn TOP_STRAP_twin = true ∧
    (goodFeed [(TOP_STRAP_twin, 1)]).isOn TWIN_STAT_link = false ∧ (goodFeed [(FEED_HCFG_period, 5)]).get FEED_HCFG_period ≠ 0 ∧
    (goodFeed [(FEED_HCFG_period, 0)]).get FEED_HCFG_period = 0 ∧ hold.measured = false ∧ 50 ≤ hold.vs - (goodFeed []).get FEED_VOUT_mv10 := by
  decide +kernel

/-- R410: the fast trip gives FEED_STAT.cause 2 and counts one fault. -/
theorem test_feed_trip : after .feedFastTrip (at_ (feedM { feedInit with gate := 3, full := true } []))
    (fun m => 10 * m.get FEED_STAT_cause + m.get FEED_FCNT_faults) = 21 := by decide +kernel

/-- Bays: bay 7 in state `st` with its gate, a drive there or not, and its measurements. -/
def bayM (st gate : Nat) (l : List (Fld × Nat)) : Fjoek :=
  let m := with_ serve ([(BAY_STAT_state 7, st), (BAY_V12_mv10, 1200)] ++ l)
  m.setChannel 7 { m.channel 7 with gate := gate }
theorem meets_bays : (bayM 0 0 []).awake = true ∧ (bayM 0 0 []).bayState 7 = 0 ∧ 1080 ≤ (bayM 0 0 []).get BAY_V12_mv10 ∧
    (with_ serve [(BAY_V12_mv10, 1079)]).get BAY_V12_mv10 < 1080 ∧ (bayM 1 1 []).bayState 7 = 1 ∧ ((bayM 1 1 []).channel 7).gate = 1 ∧
    ((bayM 2 3 []).channel 7).gate = 3 ∧ (bayM 2 3 []).isOn (BAY_STAT_fullon 7) = false ∧ (bayM 2 3 []).isOn (BAY_STAT_limit 7) = false ∧
    (bayM 2 3 []).isOn (BAY_STAT_pg 7) = false ∧ (bayM 3 3 []).bayTrip 7 ≤ (0xFFFF#16).toNat ∧
    (bayM 0 0 [(BAY_CTL_hpen, 1), (BAY_LIM_hotplug 7, 1)]).isOn (BAY_LIM_hotplug 7) = true ∧ (bayM 0 0 []).isOn (BAY_STAT_present 7) = false ∧
    (bayM 4 0 [(BAY_STAT_present 7, 1)]).bayTj 7 ≤ (bayM 4 0 []).bayTjMax - 20000000000 ∧
    ((serve.setChannel 7 { serve.channel 7 with timer := some 3 }).channel 7).timer ≠ none ∧
    (let m := serve.setChannel 7 { serve.channel 7 with cofs := 200000000000 }
     m.bayTjMax - 20000000000 < m.bayTj 7) ∧
    (let m := bayM 3 3 [(BAY_I_ma 7, 1000), (BAY_RCAL_r25, 500), (BAY_RCAL_tc, 4)]
     1000 ≤ m.get (BAY_I_ma 7) ∧ m.get BAY_RCAL_r25 ≠ 0 ∧ m.get BAY_RCAL_tc ≠ 0) ∧
    (bayM 3 3 [(BAY_RCAL_r25, 500), (BAY_RCAL_tc, 0)]).get BAY_RCAL_tc = 0 := by decide +kernel

/-- R441: the power of a bay is the two rails' products: 12.00 V at 2,000 mA and 3.30 V at 100 mA are 24,330 mW. -/
theorem test_bay_power : after (.bayMeasure 7 { v12 := 1200, vs := 1200, i := 2000, auxI := 100, auxV := 330, auxHot := false, present := true })
    (at_ serve) (fun m => m.get (BAY_PWR_mw 7)) = 24330 := by decide +kernel

/-- Damper: a period with no queued draw and no debt, whose shares fit the buckets, and one with the Damper off. -/
def periodM : Fjoek := with_ serve [(DAMP_CTL_en, 1)]
theorem meets_period : periodM.runs 2 = true ∧ periodM.trailing = false ∧ periodM.isOn DAMP_CTL_en = true ∧ (∀ c, periodM.draws c = []) ∧
    periodM.damp.debt = 0 ∧ periodM.isOn DAMP_STAT_clamp = false ∧
    (∀ q ∈ periodM.shares 0, periodM.level q.1 + q.2 ≤ periodM.depth q.1 ∧ -1048575 ≤ periodM.level q.1) ∧ periodM.feedEnergy = 0 ∧
    serve.isOn DAMP_STAT_stall = false ∧ trail.runs 2 = true ∧ trail.trailing = true :=
  ⟨by decide, by decide, by decide, fun _ => rfl, by decide +kernel⟩

/-- Damper: a clamp that may be released, a clock step under way, the policy in SERVE at level 0, and the self-tests. -/
theorem meets_damper : (let m := with_ serve [(DAMP_STAT_clamp, 1)]
     m.isOn DAMP_STAT_clamp = true ∧ m.getS SENSE_TMAX_t < m.clampAt - 12) ∧ serve.isOn DAMP_STAT_busy = false ∧
    (with_ serve [(DAMP_STAT_busy, 1)]).damp.dvfsNext < 3 ∧ serve.power = 4 ∧ serve.get DAMP_LVL_level = 0 ∧
    420 ≤ (with_ serve [(SENSE_TMAX_t, 420)]).getS SENSE_TMAX_t ∧ serve.damp.tests.length < 8 ∧
    (let m : Fjoek := { with_ (serve.hbmWrite 8 (zeros 4)) [(SEAM_LDR_STAT_verified, 1)] with seam := { seamInit with prot := some 0, ldrStage := 0 } }
     m.ownImage 3 = true) ∧ 8 ≤ (List.replicate 8 (⟨1, 0⟩ : SelfTest)).length ∧ 0 < testCost 1 ∧ (1 : Nat) ≠ 2 ∧ serve.draws 4 = [] ∧
    (serve.setLevel 4 40).canTake 4 (testCost 1) = true ∧ (with_ serve [(HBMC_CTL_patrol, 1)]).isOn HBMC_CTL_patrol = true ∧
    serve.runs 10 = true := by decide +kernel

/-- R459, R462: a self-test of a range that does not exist is invalid: it ends with code 1. -/
theorem test_selftest_range : after (.selfTestHbmPatrol 32) (at_ serve) (fun m => m.get DAMP_STSTAT_code) = 1 := by decide

/-- Management: request `o` with its parameter bytes `p` waits at the front of the request ring. -/
def requestM (o : Byte) (p : List Byte) : Fjoek := with_ (serve.hbmWrite requestRing ([o] ++ zeros 15 ++ p)) [(MGMT_MBTXPI_idx, 1)]
theorem meets_served : ∀ o ∈ [0, 1, 2, 3, 4, 5, 6, 7, 8], let m := requestM o []
    m.runs 2 = true ∧ m.runs 3 = true ∧ m.trailing = false ∧ m.get MGMT_MBTXCI_idx ≠ m.get MGMT_MBTXPI_idx ∧
    m.hbmFree requestRing 0x8000 = true ∧ ringLen (m.get MGMT_MBRXPI_idx) (m.get MGMT_MBRXCI_idx) < 256 ∧
    m.hbmNat (requestRing + 64 * (m.get MGMT_MBTXCI_idx % 256)) 2 = o.toNat ∧ m.dirtyBytes = 0 ∧ m.runs 4 = true ∧
    m.isOn THIM_KSTAT_busy = false ∧ m.pool? 0 = none ∧ m.nsFind 1 = none ∧ m.slateRecState 3 = 0 := by decide +kernel

set_option maxRecDepth 100000 in
/-- Management: the same over pools, a slate, dirty pages and a stopped domain of Thimble. -/
theorem meets_served_pools : dirtyM.dirtyBytes ≠ 0 ∧ (poolM pool3).nsFind 1 = some (0, 0, ns1) ∧ (poolM pool3).pool? 0 = some pool3 ∧
    (poolM absentM).pool? 0 = some absentM ∧ (absentM.mem 1).state = 1 ∧ absentM.online = true ∧ absentM.members.length = 3 ∧ flushNs.slateRecState 3 ≠ 0 ∧
    (with_ serve [(CLK_DOMSTAT_run, 0x21E)]).runs 4 = true ∧ (with_ serve [(CLK_DOMSTAT_run, 0xF)]).runs 4 = false := by decide +kernel

/-- Management: posts within the ring and past it, a room in the event log, sources, management messages, updates and samples. -/
theorem meets_management : ringLen (1#9).toNat (serve.get MGMT_MBTXCI_idx) ≤ 256 ∧ 256 < ringLen (257#9).toNat (serve.get MGMT_MBTXCI_idx) ∧
    serve.mgmt.logRoom = none ∧ serve.reg PMON_GCTL = 0 ∧ raisable 484 = true ∧ raisable 0 = false ∧ serve.firmware = true ∧
    (serve.setHearth { serve.hearth with core := 1 }).firmware = false ∧ serve.mgmt.upd = none ∧ 2 ≤ serve.power ∧ serve.power ≤ 4 ∧
    (1234#16).toNat < (with_ serve [(MGMT_FANCFG_minrpm, 2000)]).get MGMT_FANCFG_minrpm ∧
    0x7C0000000 + 0 + 4 ≤ 2 ^ 35 ∧ serve.hbmFree 0x7C0000000 4 = true ∧ (let m := with_ (serve.hbmWrite 8 (zeros 4)) ((List.range 16).map fun g => (SEAM_GSTAT_hasimg g, 1))
     m.nextReload = none) ∧ serve.hearth.burn = [] ∧
    tableGet (fun _ => []) ({ serve with pmon := { pend := [(0, [9])] } } : Fjoek).pmon.pend 0 = [9] ∧ serve.isOn PMON_CTL_freeze = false ∧
    (serve.get (PMON_SPI_pi 0) + 1024 - serve.get (PMON_SCI_ci 0)) % 1024 < 512 ∧
    serve.get PMON_SBASE_base * 2 ^ 20 + 32 ≤ 2 ^ 35 ∧ serve.hbmFree (serve.get PMON_SBASE_base * 2 ^ 20) 32 = true := by decide +kernel
theorem meets_boot_record : (serve.mramPut 0x5280000 (bootRecord 1 1 0)).bootRead = some (1, 1, 0) := by decide +kernel

/-- R466: operation 0 is unknown: the reply holds status 1. -/
theorem test_mailbox_unknown : after .mailboxStatus (at_ (requestM 0 [])) (fun m => m.hbmNat (replyRing + 8) 4) = 1 := by decide +kernel

/-- R485: source 0 is not for software to raise; the refusal is counted. -/
theorem test_event_refused : after (.eventRaise 0) (at_ serve) (fun m => m.get EVT_SWREJ_count) = 1 := by decide

end Sys2Proof.Tests
end

section
/-! PROOFS. What writes, resets and core accesses do to registers (R6 to R11, R508, R512), and what a reset leaves. -/

namespace Sys2Proof.Machine

/-! ## A register's fields in turn -/

/-- Where each step of a pass over a register's fields acts on its own field by `r` and on no other, the pass acts on every field by `r`. -/
theorem bitsOf_foldl_fields (step : Nat → FieldDesc → Nat) (r : FieldDesc → Nat → Nat) (l : List FieldDesc)
    (hl : l.Pairwise fun f g => f.hi < g.lo ∨ g.hi < f.lo)
    (own : ∀ f ∈ l, ∀ w, bitsOf (step w f) f.hi f.lo = r f (bitsOf w f.hi f.lo))
    (other : ∀ f ∈ l, ∀ g ∈ l, (f.hi < g.lo ∨ g.hi < f.lo) → ∀ w, bitsOf (step w f) g.hi g.lo = bitsOf w g.hi g.lo) (v : Nat) :
    ∀ f ∈ l, bitsOf (l.foldl step v) f.hi f.lo = r f (bitsOf v f.hi f.lo) := by
  induction l generalizing v with
  | nil => simp
  | cons f l ih =>
    obtain ⟨hf, hl⟩ := List.pairwise_cons.1 hl
    have rest := ih hl (fun g hg => own g (.tail _ hg)) (fun g hg k hk => other g (.tail _ hg) k (.tail _ hk)) (step v f)
    have past : ∀ (l' : List FieldDesc), (∀ g ∈ l', g ∈ l) → ∀ w, bitsOf (l'.foldl step w) f.hi f.lo = bitsOf w f.hi f.lo := by
      intro l'
      induction l' with
      | nil => intros; rfl
      | cons g l' ih' =>
        intro hg w
        have hgl := hg g (.head _)
        rw [List.foldl_cons, ih' (fun k hk => hg k (.tail _ hk)),
          other g (.tail _ hgl) f (.head _) (hf g hgl).symm]
    intro g hg
    rcases List.mem_cons.1 hg with rfl | hg
    · rw [List.foldl_cons, past l (fun _ h => h), own g (.head _)]
    · rw [List.foldl_cons, rest g hg, other f (.head _) g (.tail _ hg) (hf g hg)]

/-- Writing a field's own content back changes nothing. -/
theorem withBits_bitsOf (v hi lo : Nat) : withBits v hi lo (bitsOf v hi lo) = v := by
  have hle : bitsOf v hi lo * 2 ^ lo ≤ v :=
    calc v / 2 ^ lo % 2 ^ (hi - lo + 1) * 2 ^ lo ≤ v / 2 ^ lo * 2 ^ lo := Nat.mul_le_mul_right _ (Nat.mod_le _ _)
      _ ≤ v := Nat.div_mul_le_self v _
  unfold withBits
  rw [Nat.mod_eq_of_lt (bitsOf_lt v hi lo), Nat.sub_add_cancel hle]

/-- What a write makes of a field fits the field. -/
theorem writeField_lt (acc : AccessCode) (fixed : Bool) {old x w : Nat} (ho : old < 2 ^ w) (hx : x < 2 ^ w) :
    writeField acc fixed old x < 2 ^ w := by
  cases acc with
  | rw => exact hx
  | rwl => cases fixed <;> assumption
  | w1c => exact Nat.lt_of_le_of_lt (Nat.sub_le _ _) ho
  | w1s => exact Nat.or_lt_two_pow ho hx
  | ro | wo | rc | otp => exact ho

theorem Fjoek.reg_writeFields_ne (m : Fjoek) {a b : Nat} (v : Nat) (h : b ≠ a) : (m.writeFields a v).reg b = m.reg b := by
  unfold Fjoek.writeFields
  split
  · rfl
  · exact Fjoek.reg_setReg_ne _ _ h

/-- A write sets each field by its access code (R8). -/
theorem Fjoek.bitsOf_writeFields (m : Fjoek) (a v : Nat) {d : RegDesc} {i : List Nat} (hd : regDesc a = some (d, i))
    (hl : d.fields.Pairwise fun f g => f.hi < g.lo ∨ g.hi < f.lo) (hok : ∀ f ∈ d.fields, f.lo ≤ f.hi ∧ f.hi < 32) :
    ∀ f ∈ d.fields, bitsOf ((m.writeFields a v).reg a) f.hi f.lo =
      writeField f.acc (m.sealedAt a) (bitsOf (m.reg a) f.hi f.lo) (bitsOf v f.hi f.lo) := by
  intro f hf
  unfold Fjoek.writeFields
  simp only [hd, Fjoek.reg_setReg_same]
  rw [bitsOf_mod _ _ _ (hok f hf).2 (hok f hf).1]
  refine bitsOf_foldl_fields _ (fun f w => writeField f.acc (m.sealedAt a) w (bitsOf v f.hi f.lo)) _ hl ?_ ?_ _ f hf
  · intro g _ w
    rw [bitsOf_withBits, Nat.mod_eq_of_lt (writeField_lt _ _ (bitsOf_lt _ _ _) (bitsOf_lt _ _ _))]
  · intro g hg k hk hgk w
    exact bitsOf_withBits_apart _ _ _ _ _ _ (hok g hg).1 hgk (hok k hk).1

/-! ## A reset of a register's fields -/

theorem tableGet_unlisted {α : Type} (d : Nat → α) (t : Table α) (k : Nat) (h : tableHas t k = false) : tableGet d t k = d k := by
  unfold tableHas at h
  unfold tableGet
  cases hf : tableFind t k with
  | none => rfl
  | some v => simp [hf] at h

theorem tableGet_foldl_set {α : Type} [DecidableEq α] (d : Nat → α) (q : Nat → Bool) (x : Nat → α) (l : Table α) (t : Table α) (a : Nat) :
    tableGet d (l.foldl (fun t e => if q e.1 then tableSet d t e.1 (x e.1) else t) t) a =
      if q a = true ∧ tableHas l a = true then x a else tableGet d t a := by
  induction l generalizing t with
  | nil => simp [tableHas, tableFind]
  | cons e l ih =>
    obtain ⟨j, u⟩ := e
    rw [List.foldl_cons, ih]
    by_cases hj : j = a
    · subst hj
      cases hq : q j <;> simp [tableHas, tableFind]
    · have hget : tableGet d (if q j then tableSet d t j (x j) else t) a = tableGet d t a := by
        split
        · exact tableGet_set_ne _ _ _ (Ne.symm hj)
        · rfl
      simp [hget, tableHas, tableFind, hj]

/-- A register at its reset value stays there through a reset of any of its fields. -/
theorem resetWord_dflt (p : Reset → Bool) (a : Nat) : resetWord p a (regDflt a).toNat = (regDflt a).toNat := by
  unfold resetWord
  split
  · rfl
  · rename_i d _ _
    generalize d.fields = l
    induction l with
    | nil => rfl
    | cons f l ih => rw [List.foldl_cons, withBits_bitsOf, ite_self, ih]

theorem Fjoek.reg_resetFields (m : Fjoek) (p : Reset → Bool) (q : Nat → Bool) (a : Nat) :
    (m.resetFields p q).reg a = if q a = true then resetWord p a (m.reg a) % 2 ^ 32 else m.reg a := by
  have hget := tableGet_foldl_set regDflt q (fun b => BitVec.ofNat 32 (resetWord p b (m.reg b))) m.regs m.regs a
  have hreg : (m.resetFields p q).reg a = _ := congrArg BitVec.toNat hget
  rw [hreg]
  cases hq : q a
  · simp [Fjoek.reg]
  · cases hf : tableHas m.regs a
    · have hu := tableGet_unlisted regDflt m.regs a hf
      have hr : m.reg a = (regDflt a).toNat := congrArg BitVec.toNat hu
      simp [hu, hr, resetWord_dflt, Nat.mod_eq_of_lt (regDflt a).isLt]
    · simp

/-- A reset sets the fields of its kind and keeps the others (R11). -/
theorem bitsOf_resetWord (p : Reset → Bool) (a v : Nat) {d : RegDesc} {i : List Nat} (hd : regDesc a = some (d, i))
    (hl : d.fields.Pairwise fun f g => f.hi < g.lo ∨ g.hi < f.lo) (hok : ∀ f ∈ d.fields, f.lo ≤ f.hi ∧ f.hi < 32) :
    ∀ f ∈ d.fields, bitsOf (resetWord p a v) f.hi f.lo =
      if p f.rst then bitsOf (regDflt a).toNat f.hi f.lo else bitsOf v f.hi f.lo := by
  unfold resetWord
  simp only [hd]
  refine bitsOf_foldl_fields _ (fun f w => if p f.rst then bitsOf (regDflt a).toNat f.hi f.lo else w) _ hl ?_ ?_ v
  · intro f _ w
    split
    · rw [bitsOf_withBits, Nat.mod_eq_of_lt (bitsOf_lt _ _ _)]
    · rfl
  · intro f hf g hg hfg w
    split
    · exact bitsOf_withBits_apart _ _ _ _ _ _ (hok f hf).1 hfg (hok g hg).1
    · rfl

/-- Settles O22: each pass over a register's fields acts on every field alone, as the fields lie apart. -/
theorem registerFields : Obligations.RegisterFields := by
  unfold Obligations.RegisterFields
  refine ⟨fun m a v d i hd hl hok => ⟨fun b hb => m.reg_writeFields_ne v hb, fun f hf => ?_⟩,
    fun m p q a d i hd hl hok => ⟨fun hq => ?_, fun hq f hf => ?_⟩⟩
  · rw [m.bitsOf_writeFields a v hd hl hok f hf]
    cases f.acc <;> rfl
  · rw [Fjoek.reg_resetFields, hq]
    rfl
  · rw [Fjoek.reg_resetFields, if_pos hq, bitsOf_mod _ _ _ (hok f hf).2 (hok f hf).1]
    exact bitsOf_resetWord p a _ hd hl hok f hf

/-! ## What a reset leaves -/

theorem reset_reg (a : Nat) (hs : a ≠ HEARTH_STAT_state.addr) (hc : a ≠ HEARTH_RSTC_kcause.addr) (hd : a ≠ CLK_DOMSTAT) :
    State.reset.m.reg a = (regDflt a).toNat := by
  have hnone : tableFind State.reset.m.regs a = none := by
    show tableFind [(HEARTH_STAT_state.addr, 0x10000000#32), (HEARTH_RSTC_kcause.addr, 0x00000601#32), (CLK_DOMSTAT, 3#32)] a = none
    simp only [tableFind, if_neg hs.symm, if_neg hc.symm, if_neg hd.symm]
  unfold Fjoek.reg tableGet
  rw [hnone]

theorem strandReset_rd (k r : Nat) : (strandReset k).rd r = 0 := by
  unfold Strand.rd
  split <;> rfl

/-- Settles O52: three registers are listed at reset, and nothing else of the module is. -/
theorem resetValues : Obligations.ResetValues := by
  unfold Obligations.ResetValues
  refine ⟨rfl, fun a hs hc hd => reset_reg a hs hc hd, by decide, by decide, by decide,
    fun k => ⟨rfl, rfl, strandReset_rd k⟩, fun l => rfl, rfl, rfl, rfl, fun b => rfl, fun a => ?_⟩
  unfold Fjoek.mramByte
  split <;> rfl

/-! ## Registers without effects of their own -/

/-- The register lies in SENSE, CLK, DARN, HBMC or MRAMC, whose writes do no more than set fields. -/
def plainAt (a : Nat) : Bool := [0x06, 0x0A, 0x26, 0x32, 0x33].contains (a / 0x10000)

theorem plainAt_cases {a : Nat} (h : plainAt a = true) :
    a / 0x10000 = 0x06 ∨ a / 0x10000 = 0x0A ∨ a / 0x10000 = 0x26 ∨ a / 0x10000 = 0x32 ∨ a / 0x10000 = 0x33 := by
  simpa [plainAt] using h

theorem canonAddr_plain {a : Nat} (h : plainAt a = true) : canonAddr a = a := by
  have hp := plainAt_cases h
  unfold canonAddr
  rw [if_neg (by omega), if_neg (by omega)]

theorem noting_plain {a : Nat} (h : plainAt a = true) : noting a = false := by
  have hp := plainAt_cases h
  rw [Bool.eq_false_iff]
  intro hn
  simp only [noting, Bool.or_eq_true, decide_eq_true_eq] at hn
  simp only [EVT_PEND, EVT_LATCHES_LO, MGMT_LOGSEQ_LO, MGMT_LOGLOST, ATT_INTXST,
    ATT_WAKE, ATT_IRQDROP_LO, TWIN_LOGREC_LO, TWIN_LOGBYTES_LO, PMON_GCNT_LO, PMON_GOVF] at hn
  omega

theorem mayWrite_plain {a : Nat} (h : plainAt a = true) {who : Accessor} (hw : isCore who = true) : mayWrite who a = true := by
  unfold mayWrite
  rcases plainAt_cases h with hp | hp | hp | hp | hp <;> simp [hp, hw]

theorem Fjoek.writeReg_plain (m : Fjoek) (f : Fuses) {a : Nat} (v : Nat) (h : plainAt a = true) (hd : (regDesc a).isSome = true) :
    m.writeReg f a v = m.writeFields a v := by
  have hn : (regDesc a).isNone = false := by simpa using hd
  unfold Fjoek.writeReg
  simp only [canonAddr_plain h, hn]
  rcases plainAt_cases h with hp | hp | hp | hp | hp <;> simp [hp]

/-- The seal bits of the plain registers' blocks. -/
def plainSeals : List Fld := [SENSE_CTL_seal, CLK_CTL_seal, DARN_CTL_seal, HBMC_CTL_seal, MRAMC_CTL_seal]

theorem sealField_plain {a : Nat} (h : plainAt a = true) {f : Fld} (hf : sealField a = some f) : f ∈ plainSeals := by
  unfold sealField at hf
  rcases plainAt_cases h with hp | hp | hp | hp | hp <;> simp [hp] at hf <;> simp [plainSeals, hf]

/-- The seal bit of a plain register stands in a register that no latch writes. -/
theorem noting_sealField {a : Nat} (h : plainAt a = true) {f : Fld} (hf : sealField a = some f) : noting f.addr = false :=
  (by decide : ∀ f ∈ plainSeals, noting f.addr = false) f (sealField_plain h hf)

theorem Noted.sealedAt {m n : Fjoek} (h : Noted m n) {a : Nat} (ha : plainAt a = true) : n.sealedAt a = m.sealedAt a := by
  unfold Fjoek.sealedAt
  split
  · rename_i f hf
    exact h.isOn f (noting_sealField ha hf)
  · rfl

theorem Noted.writeFields {m n : Fjoek} (h : Noted m n) {a : Nat} (v : Nat) (ha : plainAt a = true) :
    Noted (m.writeFields a v) (n.writeFields a v) := by
  unfold Fjoek.writeFields
  split
  · exact h
  · rw [h.reg a (noting_plain ha), h.sealedAt ha]
    exact h.setReg _ _

theorem logCmd_noted (m : Fjoek) (a v : Nat) : Noted m (m.logCmd a v) := by
  unfold Fjoek.logCmd
  split
  · exact Noted.refl m
  · exact logTwin_noted _ _ _ _

/-- A core's write of a plain register sets its fields; a lead logs it first (R362). -/
theorem softWrite_plain (m : Fjoek) (f : Fuses) {who : Accessor} {a : Nat} (v : Nat) (hw : isCore who = true) (h : plainAt a = true)
    (hd : (regDesc a).isSome = true) (ht : m.trailing = false) : Noted (m.writeFields a v) (m.softWrite f who a v) := by
  have hl : Noted m (m.when (performedReg a) fun m => m.logCmd a v) := Noted.when _ _ (logCmd_noted m a v)
  unfold Fjoek.softWrite
  rw [canonAddr_plain h, mayWrite_plain h hw, ht]
  simp only [Bool.not_true, Bool.false_eq_true, false_and, if_false]
  rw [Fjoek.writeReg_plain _ f v h hd]
  exact hl.writeFields v h

/-! ## Accesses of cores -/

theorem isCore_iff (who : Accessor) : isCore who = true ↔ who = .core0 ∨ who = .core1 := by
  cases who <;> simp [isCore]

section
variable (m : Fjoek) (f : Fuses) {who : Accessor} {a : Nat} (v : Nat)
  (hw : isCore who = true) (ho : m.coreOn who = true) (h4 : a % 4 = 0)
include hw ho h4

theorem accessWrite_core (hr : m.reachable a = true) : m.accessWrite f who a v = m.softWrite f who a v := by
  rcases (isCore_iff who).1 hw with rfl | rfl <;> simp [Fjoek.accessWrite, ho, h4, hr]

theorem accessRead_core (hr : m.reachable a = true) :
    m.accessRead f who a = (m.readReg a).2.send (.read a (m.readReg a).1) := by
  rcases (isCore_iff who).1 hw with rfl | rfl <;> simp [Fjoek.accessRead, ho, h4, hr]

theorem accessWrite_stopped (hr : m.reachable a = false) : m.accessWrite f who a v = m.coreHang who a := by
  rcases (isCore_iff who).1 hw with rfl | rfl <;> simp [Fjoek.accessWrite, ho, h4, hr]

theorem accessRead_stopped (hr : m.reachable a = false) : m.accessRead f who a = m.coreHang who a := by
  rcases (isCore_iff who).1 hw with rfl | rfl <;> simp [Fjoek.accessRead, ho, h4, hr]

end

/-- A core that is on has its own domain running. -/
theorem runs_of_coreOn {m : Fjoek} {who : Accessor} (h : m.coreOn who = true) : m.runs 2 = true := by
  simp only [Fjoek.coreOn, Bool.and_eq_true] at h
  exact h.1.1

/-! ## Reads -/

/-- The registers whose reads do more than mask a value and clear RC fields: allocations, logs, doorbells, configuration windows and the
words of wide values. -/
def oddRead (a : Nat) : Prop :=
  [XPORT_QPALLOC, THIM_KALLOC, THIM_KREV, FWD_AGELOG, CLK_HANG].contains a = true ∨ (0x308000 ≤ a ∧ a < 0x310000) ∨
    (0x280000 ≤ a ∧ a < 0x2B0000 ∧ a % 0x2000 = 0x44) ∨ wideLow a = true ∨ (4 ≤ a ∧ wideLow (a - 4) = true)

theorem readReg_masked (m : Fjoek) {a : Nat} {d : RegDesc} {i : List Nat} (hc : canonAddr a = a) (ho : ¬oddRead a)
    (hd : regDesc a = some (d, i)) : m.readReg a =
      (m.view a &&& readMask d, if clearRc d (m.reg a) = m.reg a then m else m.setReg a (clearRc d (m.reg a))) := by
  simp only [oddRead, List.contains_cons, List.contains_nil, Bool.or_false, Bool.or_eq_true, beq_iff_eq, not_or] at ho
  obtain ⟨⟨hq, hk, hv, hl, hh⟩, hb, hg, hw, hw'⟩ := ho
  unfold Fjoek.readReg
  simp only [hc, if_neg hb, if_neg hq, if_neg hk, if_neg hv, if_neg hl, if_neg hh, hd, if_neg hg, if_neg hw, if_neg hw']

/-- The lower word of a wide value is none of the other registers whose reads act. -/
theorem wideLow_apart {a : Nat} (h : wideLow a = true) :
    [XPORT_QPALLOC, THIM_KALLOC, THIM_KREV, FWD_AGELOG, CLK_HANG].contains a = false ∧ ¬(0x308000 ≤ a ∧ a < 0x310000) ∧
      ¬(0x280000 ≤ a ∧ a < 0x2B0000 ∧ a % 0x2000 = 0x44) := by
  refine ⟨?_, ?_, ?_⟩
  · rw [Bool.eq_false_iff]
    intro hc
    have hall : ∀ b ∈ [XPORT_QPALLOC, THIM_KALLOC, THIM_KREV, FWD_AGELOG, CLK_HANG], wideLow b = false := by decide
    rw [hall a (by simpa using hc)] at h
    exact Bool.false_ne_true h
  · rintro ⟨hlo, hhi⟩
    have he : epochDomain a = none := by
      simp only [epochDomain]
      rw [if_neg (by omega), if_neg (by omega), if_neg (by omega), if_neg (by omega), if_neg (by omega), if_neg (by omega)]
    simp [wideLow, engineCounterAt, he, HEARTH_TIME_LO, PMON_EPSEQ_LO, EVT_LATCHES_LO, STRP_DIRTY_LO, MGMT_LOGSEQ_LO, TWIN_DIVEP_LO,
      DRV_RKEY_LO, DRV_PKEY_LO] at h
    omega
  · rintro ⟨hlo, hhi, hm⟩
    have h8 : a % 8 ≠ 0 := by omega
    simp [wideLow, h8, HEARTH_TIME_LO, PMON_EPSEQ_LO, EVT_LATCHES_LO, STRP_DIRTY_LO, MGMT_LOGSEQ_LO, TWIN_DIVEP_LO,
      DRV_RKEY_LO, DRV_PKEY_LO] at h
    omega

/-- A read of the lower word latches the higher one (R10). -/
theorem readReg_wide (m : Fjoek) {a : Nat} {d : RegDesc} {i : List Nat} (hc : canonAddr a = a) (hw : wideLow a = true)
    (hd : regDesc a = some (d, i)) : m.readReg a = (m.wideWord a, m.latchWide (a + 4)) := by
  obtain ⟨hs, hb, hg⟩ := wideLow_apart hw
  simp only [List.contains_cons, List.contains_nil, Bool.or_false, Bool.or_eq_false_iff, beq_eq_false_iff_ne, ne_eq] at hs
  obtain ⟨hq, hk, hv, hl, hh⟩ := hs
  unfold Fjoek.readReg
  simp only [hc, if_neg hb, if_neg hq, if_neg hk, if_neg hv, if_neg hl, if_neg hh, hd, if_neg hg, if_pos hw]

theorem readReg_hang (m : Fjoek) : m.readReg CLK_HANG = m.hangPop := rfl

/-! ## Small differences between modules -/

/-- A register that is written with what it holds reads as it did. -/
theorem noted_setReg_reg (m : Fjoek) (a : Nat) : Noted (m.setReg a (m.reg a)) m :=
  { Noted.refl m with
    reg := by
      intro b _
      rw [Fjoek.reg_setReg]
      split
      · rename_i hb
        rw [hb, Nat.mod_eq_of_lt (m.reg_lt a)]
      · rfl }

/-- The same message sent by two modules that have sent the same before. -/
theorem Noted.send {m n : Fjoek} (h : Noted m n) (ho : n.out = m.out) (o : OutMsg) : Noted (m.send o) (n.send o) :=
  { h with out := ⟨[], by simp [ho]⟩ }

/-- What holds of the module that a command makes, and of every module beyond it by latches and counts, holds where the command ends. -/
theorem ends_of (c : Instr) (s : State) (n : Fjoek) (P : Fjoek → Prop) (h : exec c s = .next (s.settle n))
    (hP : ∀ t, Noted n.unburnt t → P t) : Ends c s P := ⟨s.settle n, h, rfl, hP _ (settle_noted s n)⟩

/-! ## Seals -/

/-- A plain register with a seal bit holds it in a field of access code W1S. -/
theorem plainSeals_desc {f : Fld} (hf : f ∈ plainSeals) :
    ∃ d i, regDesc f.addr = some (d, i) ∧ (d.fields.Pairwise fun f g => f.hi < g.lo ∨ g.hi < f.lo) ∧
      (∀ g ∈ d.fields, g.lo ≤ g.hi ∧ g.hi < 32) ∧ ∃ g ∈ d.fields, g.hi = f.hi ∧ g.lo = f.lo ∧ g.acc = .w1s := by
  simp only [plainSeals, List.mem_cons, List.not_mem_nil, or_false] at hf
  rcases hf with rfl | rfl | rfl | rfl | rfl
  all_goals exact ⟨_, _, rfl, by decide, by decide, by decide⟩

/-- Writing a seal bit as 1 and the rest of its register as it stands sets it. -/
theorem isOn_writeFields_seal (m : Fjoek) {f : Fld} (hf : f ∈ plainSeals) :
    (m.writeFields f.addr (withBits (m.reg f.addr) f.hi f.lo 1)).isOn f = true := by
  obtain ⟨d, i, hd, hl, hok, g, hg, hhi, hlo, hacc⟩ := plainSeals_desc hf
  have hw := m.bitsOf_writeFields f.addr (withBits (m.reg f.addr) f.hi f.lo 1) hd hl hok g hg
  rw [hacc, hhi, hlo, bitsOf_withBits] at hw
  unfold Fjoek.isOn Fjoek.get
  rw [hw, bne_iff_ne]
  intro h0
  have hone : 1 % 2 ^ (f.hi - f.lo + 1) = 1 := Nat.one_mod_two_pow (by omega)
  simp only [writeField, hone] at h0
  exact absurd (Nat.or_eq_zero_iff.1 h0).2 one_ne_zero

/-! ## Accesses into stopped domains -/

/-- A core has hung, and its access counts (R508, R512). -/
def Fjoek.coreHung (m : Fjoek) (who : Accessor) : Fjoek :=
  { m.bump CLK_HANGN_count 1 with
    hearth := { m.hearth with coresHung := withBits m.hearth.coresHung (coreCode who) (coreCode who) 1 } }

/-- What CLK_HANG records of a core's access at `a` (R512). -/
def hangRecord (who : Accessor) (a : Nat) : Nat := 2 ^ 31 + coreCode who * 2 ^ 28 + blockDomain a * 2 ^ 24 + a % 2 ^ 24

section
variable (m : Fjoek) (who : Accessor) (a : Nat) (hrun : m.runs 2 = true)
include hrun

theorem coreHang_eq : m.coreHang who a =
    (if m.isOn CLK_HANG_valid then { m.coreHung who with
        hearth := { (m.coreHung who).hearth with hangs := m.hearth.hangs ++ [hangRecord who a] } }
      else (m.coreHung who).setReg CLK_HANG (hangRecord who a)).cause CLK_ESTAT_hang 16 := by
  have hv : (m.coreHung who).isOn CLK_HANG_valid = m.isOn CLK_HANG_valid :=
    m.isOn_put_apart CLK_HANGN_count CLK_HANG_valid _ rfl rfl rfl
  show (if !m.runs 2 then _ else Fjoek.cause (if (m.coreHung who).isOn CLK_HANG_valid then _ else _) CLK_ESTAT_hang 16) = _
  rw [hrun, hv]
  rfl

/-- The first access that hangs is what CLK_HANG shows. -/
theorem noted_coreHang_first (hv : m.isOn CLK_HANG_valid = false) :
    Noted (((m.coreHung who).setReg CLK_HANG (hangRecord who a)).put CLK_ESTAT_hang 1) (m.coreHang who a) := by
  rw [coreHang_eq m who a hrun, hv]
  exact (Noted.refl _).cause _ _ (by decide) (by decide) rfl

/-- An access that hangs while CLK_HANG shows another waits behind it. -/
theorem noted_coreHang_next (hv : m.isOn CLK_HANG_valid = true) :
    Noted (Fjoek.put { m.coreHung who with
      hearth := { (m.coreHung who).hearth with hangs := m.hearth.hangs ++ [hangRecord who a] } } CLK_ESTAT_hang 1)
      (m.coreHang who a) := by
  rw [coreHang_eq m who a hrun, hv]
  exact (Noted.refl _).cause _ _ (by decide) (by decide) rfl

end

/-! ## The record of hung accesses -/

theorem hangPop_fst (m : Fjoek) : m.hangPop.1 = m.reg CLK_HANG := by
  unfold Fjoek.hangPop
  split <;> rfl

theorem hangPop_last (m : Fjoek) (h : m.hearth.hangs = []) : m.hangPop.2 = m.setReg CLK_HANG 0 := by
  simp only [Fjoek.hangPop, h]

theorem hangPop_next (m : Fjoek) {h : Nat} {r : List Nat} (hs : m.hearth.hangs = h :: r) :
    m.hangPop.2 = Fjoek.setReg { m with hearth := { m.hearth with hangs := r } } CLK_HANG h := by
  simp only [Fjoek.hangPop, hs]

/-! ## The clauses of R6 to R10, R508 and R512 -/

section
variable (s : State) {who : Accessor} {addr : Word32} {d : RegDesc} {i : List Nat}
  (hw : isCore who = true) (ho : s.m.coreOn who = true)
include hw ho

theorem does_registerWrite (val : Word32) (h4 : addr.toNat % 4 = 0) (hr : s.m.reachable addr.toNat = true)
    (hd : regDesc addr.toNat = some (d, i)) (hp : plainAt addr.toNat = true) (ht : s.m.trailing = false) :
    Does (.registerWrite who addr val) s (s.m.writeFields addr.toNat val.toNat) := by
  refine does_of _ _ _ (s.m.accessWrite s.fuses who addr.toNat val.toNat) rfl ?_
  rw [accessWrite_core s.m s.fuses _ hw ho h4 hr]
  exact softWrite_plain _ _ _ hw hp (by rw [hd]; rfl) ht

theorem does_readClear (h4 : addr.toNat % 4 = 0) (hr : s.m.reachable addr.toNat = true)
    (hd : regDesc addr.toNat = some (d, i)) (hc : canonAddr addr.toNat = addr.toNat) (hodd : ¬oddRead addr.toNat)
    (hrc : d.fields.any (fun x => x.acc == .rc) = true) :
    Does (.readClear who addr) s ((s.m.setReg addr.toNat (clearRc d (s.m.reg addr.toNat))).send
      (.read addr.toNat (s.m.view addr.toNat &&& readMask d))) := by
  have hexec : exec (.readClear who addr) s = .next (s.settle (s.m.accessRead s.fuses who addr.toNat)) := by
    show execReadClear who addr s = _
    simp only [execReadClear, hc, hd, hrc, if_true]
    rfl
  refine does_of _ _ _ _ hexec ?_
  rw [accessRead_core s.m s.fuses hw ho h4 hr, readReg_masked s.m hc hodd hd]
  by_cases hsame : clearRc d (s.m.reg addr.toNat) = s.m.reg addr.toNat
  · rw [if_pos hsame, hsame]
    exact (noted_setReg_reg s.m addr.toNat).send rfl _
  · rw [if_neg hsame]
    exact Noted.refl _

theorem does_wideRead (h4 : addr.toNat % 4 = 0) (hr : s.m.reachable addr.toNat = true)
    (hd : regDesc addr.toNat = some (d, i)) (hc : canonAddr addr.toNat = addr.toNat) (hwide : wideLow addr.toNat = true) :
    Does (.wideValueLowWordRead who addr) s
      ((s.m.latchWide (addr.toNat + 4)).send (.read addr.toNat (s.m.wideWord addr.toNat))) := by
  have hexec : exec (.wideValueLowWordRead who addr) s = .next (s.settle (s.m.accessRead s.fuses who addr.toNat)) := by
    show execWideValueLowWordRead who addr s = _
    simp only [execWideValueLowWordRead, hwide, if_true]
    rfl
  refine does_of _ _ _ _ hexec ?_
  rw [accessRead_core s.m s.fuses hw ho h4 hr, readReg_wide s.m hc hwide hd]
  exact Noted.refl _

/-- A seal bit sets, and the register's other fields are written as they stand (R9). -/
theorem ends_sealSet {f : Fld} (h4 : addr.toNat % 4 = 0) (hr : s.m.reachable addr.toNat = true) (hp : plainAt addr.toNat = true)
    (ht : s.m.trailing = false) (hf : sealField addr.toNat = some f) (ha : f.addr = addr.toNat) :
    Ends (.sealSet who addr) s fun n => n.isOn f = true := by
  have hexec : exec (.sealSet who addr) s = .next (s.settle
      (s.m.accessWrite s.fuses who addr.toNat (withBits (s.m.reg addr.toNat) f.hi f.lo 1))) := by
    show execSealSet who addr s = _
    simp only [execSealSet, canonAddr_plain hp, hf, ha, if_true]
    rfl
  refine ends_of _ _ _ _ hexec fun t htn => ?_
  rw [accessWrite_core s.m s.fuses _ hw ho h4 hr] at htn
  have hseal := sealField_plain hp hf
  obtain ⟨d, i, hd, -, -, -⟩ := plainSeals_desc hseal
  rw [ha] at hd
  have hsoft := softWrite_plain s.m s.fuses (withBits (s.m.reg addr.toNat) f.hi f.lo 1) hw hp (by rw [hd]; rfl) ht
  rw [(hsoft.unburnt.trans htn).isOn f (noting_sealField hp hf), ← ha]
  exact isOn_writeFields_seal s.m hseal

/-- A core's access into a stopped domain hangs it and is recorded (R508, R512). -/
theorem does_accessIntoStopped (h4 : addr.toNat % 4 = 0) (hr : s.m.reachable addr.toNat = false) (w : Bool) {n : Fjoek}
    (hn : Noted n (s.m.coreHang who addr.toNat)) : Does (.accessIntoStoppedDomain who w addr) s n := by
  have hexec : exec (.accessIntoStoppedDomain who w addr) s = .next (s.settle (s.m.coreHang who addr.toNat)) := by
    show execAccessIntoStoppedDomain who w addr s = State.on s fun m => m.coreHang who addr.toNat
    unfold execAccessIntoStoppedDomain State.onFuses State.on
    simp only [hr, h4, accessWrite_stopped s.m _ _ hw ho h4 hr, accessRead_stopped s.m _ hw ho h4 hr]
    simp
  exact does_of _ _ _ _ hexec hn

theorem exec_misaligned_core (w : Bool) : exec (.misalignedRegisterAccess who w addr) s = .next (s.settle
    (if w then s.m.cause MGMT_ESTAT_regerr 496 else (s.m.cause MGMT_ESTAT_regerr 496).send (.read addr.toNat 0))) := by
  show execMisalignedRegisterAccess who w addr s = _
  rcases (isCore_iff who).1 hw with rfl | rfl <;> simp [execMisalignedRegisterAccess, State.onFuses, State.on, ho]

theorem does_misalignedWrite : Does (.misalignedRegisterAccess who true addr) s (s.m.put MGMT_ESTAT_regerr 1) :=
  does_of _ _ _ _ (exec_misaligned_core s hw ho true) ((Noted.refl s.m).cause _ _ (by decide) (by decide) rfl)

theorem ends_misalignedRead : Ends (.misalignedRegisterAccess who false addr) s fun n => n.isOn MGMT_ESTAT_regerr = true ∧
    ∃ l r, n.out = s.m.out ++ l ++ [.read addr.toNat 0] ++ r := by
  refine ends_of _ _ _ _ (exec_misaligned_core s hw ho false) fun t ht => ?_
  have hc : Noted (s.m.put MGMT_ESTAT_regerr 1) (s.m.cause MGMT_ESTAT_regerr 496) :=
    (Noted.refl s.m).cause _ _ (by decide) (by decide) rfl
  obtain ⟨l, hl⟩ := hc.out
  obtain ⟨r, hr⟩ := ht.out
  have hsent := (hc.trans (noted_send _ (.read addr.toNat 0))).unburnt.trans ht
  refine ⟨?_, l, r, ?_⟩
  · rw [hsent.isOn _ (by decide)]
    exact s.m.isOn_put_same _ rfl rfl
  · rw [hr]
    show (s.m.cause MGMT_ESTAT_regerr 496).out ++ [OutMsg.read addr.toNat 0] ++ r = _
    rw [hl]
    rfl

theorem does_hangRecordRead : Does (.hangRecordRead who) s (s.m.hangPop.2.send (.read CLK_HANG (s.m.reg CLK_HANG))) := by
  have hr : s.m.reachable CLK_HANG = true := by
    show (false || s.m.runs 2) = true
    rw [runs_of_coreOn ho]
    rfl
  refine does_of _ _ _ (s.m.accessRead s.fuses who CLK_HANG) rfl ?_
  rw [accessRead_core s.m s.fuses hw ho rfl hr, readReg_hang, hangPop_fst]
  exact Noted.refl _

end

/-- Settles O23: a core that is on reaches the register itself; each clause is one lemma above. -/
theorem registerAccess : Obligations.RegisterAccess := by
  unfold Obligations.RegisterAccess
  intro s who addr val d i f m a v plain odd sent code record hung hwho ho
  have hw : isCore who = true := (isCore_iff who).2 hwho
  refine ⟨fun h4 hr hd => ⟨fun hp ht => ?_, fun hc hodd hrc => ?_, fun hc hwide => ?_, fun hp ht hf ha => ?_⟩,
    fun h4 hr w => ⟨fun hv => ?_, fun hv => ?_⟩, ?_, ?_, fun hnone => ?_, fun h r hsome => ?_⟩
  · exact does_registerWrite s hw ho val h4 hr hd hp ht
  · exact does_readClear s hw ho h4 hr hd hc hodd hrc
  · exact does_wideRead s hw ho h4 hr hd hc hwide
  · exact ends_sealSet s hw ho h4 hr hp ht hf ha
  · exact does_accessIntoStopped s hw ho h4 hr w (noted_coreHang_first _ _ _ (runs_of_coreOn ho) hv)
  · exact does_accessIntoStopped s hw ho h4 hr w (noted_coreHang_next _ _ _ (runs_of_coreOn ho) hv)
  · exact does_misalignedWrite s hw ho
  · exact ends_misalignedRead s hw ho
  · have h := does_hangRecordRead s hw ho
    rwa [hangPop_last _ hnone] at h
  · have h := does_hangRecordRead s hw ho
    rwa [hangPop_next _ hsome] at h

end Sys2Proof.Machine
end

section
/-! PROOFS. What the memories, a strand's registers and predicates, and the register file read after a write (R14, R31, R49). -/

namespace Sys2Proof.Machine

/-! ## HBM and MRAM -/

/-- A write that the loader's protected region does not refuse, and that ends within HBM, is stored (R49). -/
theorem hbmWrite_stored (m : Fjoek) {a : Nat} {b : List Byte} (h : m.inStaging a b.length = false) (hb : a + b.length ≤ 2 ^ 35) :
    m.hbmWrite a b = m.hbmPut a b := by
  unfold Fjoek.hbmWrite
  rw [if_neg]
  rintro (hs | hl)
  · rw [h] at hs; cases hs
  · omega

/-- A write that touches the protected region is refused whole (R49). -/
theorem hbmWrite_refused (m : Fjoek) {a : Nat} {b : List Byte} (h : m.inStaging a b.length = true) : m.hbmWrite a b = m := by
  unfold Fjoek.hbmWrite
  rw [if_pos (.inl h)]

/-- No write reaches a location under the enabled aperture (R144). -/
theorem hbmCell_put_covered (m : Fjoek) (a : Nat) (b : List Byte) {j : Nat} (h : m.inAperture j 1 = true) :
    (m.hbmPut a b).hbmCell j = m.hbmCell j := by
  rw [hbmCell_put, h]
  simp

theorem mramByte_reserved (m : Fjoek) {j : Nat} (h : 0x5600000 ≤ j) : m.mramByte j = 0 := by
  unfold Fjoek.mramByte
  rw [if_neg (by omega)]

/-- A write that reaches into the reserved region of MRAM is discarded (R14). -/
theorem mramPut_discarded (m : Fjoek) {a : Nat} {b : List Byte} (h : 0x5600000 < a + b.length) : m.mramPut a b = m := by
  unfold Fjoek.mramPut
  rw [if_pos h]

theorem mramByte_put_inside (m : Fjoek) {a : Nat} {b : List Byte} (h : a + b.length ≤ 0x5600000) (j : Nat) :
    (m.mramPut a b).mramByte j = if a ≤ j ∧ j < a + b.length then b.getD (j - a) 0 else m.mramByte j := by
  by_cases hj : a ≤ j ∧ j < a + b.length
  · have hlow : j < 0x5600000 := by omega
    unfold Fjoek.mramPut Fjoek.mramByte
    rw [if_neg (by omega : ¬0x5600000 < a + b.length), if_pos hlow, if_pos hj]
    show tableGet (fun _ => 0) (writeBytes m.mram a b) j = _
    rw [tableGet_writeBytes, if_pos hj]
  · rw [if_neg hj, mramByte_put m a b j hj]

/-! ## A strand's registers and predicates -/

theorem Strand.rd_zero (x : Strand) : x.rd 0 = 0 := rfl

theorem Strand.wr_zero (x : Strand) (v : Word64) : x.wr 0 v = x := rfl

/-- A general register reads what was last written to it; g0 reads 0 (R31). -/
theorem Strand.rd_wr (x : Strand) (r q : Nat) (v : Word64) : (x.wr r v).rd q = if q = r ∧ r ≠ 0 then v else x.rd q := by
  by_cases hr : r = 0
  · subst hr
    rw [Strand.wr_zero, if_neg (fun h => h.2 rfl)]
  · unfold Strand.wr Strand.rd
    rw [if_neg hr]
    by_cases hq : q = 0
    · rw [if_pos hq, if_neg (fun h => hr (h.1.symm.trans hq)), if_pos hq]
    · rw [if_neg hq, if_neg hq, tableGet_set]
      exact if_congr (and_iff_left hr).symm rfl rfl

theorem Strand.pred_zero (x : Strand) : x.pred 0 = true := rfl

theorem Strand.setPred_zero (x : Strand) (y : Bool) : x.setPred 0 y = x := rfl

/-- A predicate reads what was last written to it; p0 reads true (R31). -/
theorem Strand.pred_setPred (x : Strand) {i j : Nat} (hj : j < 8) (y : Bool) :
    (x.setPred i y).pred j = if j = i ∧ i ≠ 0 then y else x.pred j := by
  by_cases hi : i = 0
  · subst hi
    rw [Strand.setPred_zero, if_neg (fun h => h.2 rfl)]
  · have hbit : (x.setPred i y).p.getLsbD j = if j = i then y else x.p.getLsbD j := by
      unfold Strand.setPred
      rw [if_neg hi, BitVec.getLsbD_ofNat, withBits_testBit _ _ _ _ _ (Nat.le_refl i)]
      by_cases hji : j = i
      · subst hji
        cases y <;> simp [hj, bnat]
      · rw [if_neg (by omega), if_neg hji, decide_eq_true hj, Bool.true_and]
        rfl
    unfold Strand.pred
    rw [hbit]
    by_cases hji : j = i
    · simp [hji, hi]
    · simp [hji]

/-! ## The obligation -/

/-- Settles O55: each memory and each register file by the law of its own write. -/
theorem readsAfterWrites : Obligations.ReadsAfterWrites := by
  unfold Obligations.ReadsAfterWrites
  refine ⟨fun m a j b => ⟨fun hs hb => ?_, fun hs => hbmWrite_refused m hs, fun hb => mramByte_put_inside m hb j, fun ha hb => ?_,
    fun hj => mramByte_reserved m hj, fun hw => ⟨hbmWrite_wf m a b hw, mramPut_wf m a b hw⟩⟩, fun x r q v => ?_, fun x i j y => ?_,
    fun m a c v => ⟨m.reg_setReg a c v, m.setReg_wf a v⟩⟩
  · rw [hbmWrite_stored m hs hb]
    exact ⟨hbmByte_put m a b j, hbmCell_put_covered m a b⟩
  · have hlen := List.length_pos_of_ne_nil hb
    exact mramPut_discarded m (by omega)
  · refine ⟨?_, x.rd_zero, x.wr_zero v⟩
    rw [Strand.rd_wr]
    exact if_congr (and_congr Fin.ext_iff.symm (not_congr Fin.val_eq_zero_iff)) rfl rfl
  · refine ⟨?_, x.pred_zero, x.setPred_zero y⟩
    rw [Strand.pred_setPred x j.isLt]
    exact if_congr (and_congr Fin.ext_iff.symm (not_congr Fin.val_eq_zero_iff)) rfl rfl

end Sys2Proof.Machine
end

section
/-! PROOFS. What work of the module leaves of its role in a pair: the registers that say what the pair is doing, the TWIN block's own
state, and the log. Latches, dispatch, the switch core and the transport keep them. -/

namespace Sys2Proof.Machine

/-! ## What is kept -/

/-- The registers that say what a pair is doing: the strap, the power state, in-step mode, and TWIN's status, latches, command status and
count of resyncs. -/
def pairRegs : List Nat := [TOP_STRAP, HEARTH_STAT_state.addr, SEAM_CTL_instep.addr, TWIN_STAT, TWIN_ESTAT, TWIN_CMDSTAT_busy.addr,
  TWIN_RESYNCS_LO, TWIN_RESYNCS_LO + 4]

/-- `n` stands in its pair as `m` does: registers of `pairRegs` and the TWIN block's state are the same but for the log, which grows on a
lead alone, the digest, held outputs, which a ceded module has none of, and what writes of HBM make whole. -/
structure Kept (m n : Fjoek) : Prop where
  reg : ∀ a ∈ pairRegs, n.reg a = m.reg a
  twin : n.twin = { m.twin with
    nextSeq := n.twin.nextSeq, log := n.twin.log, own := n.twin.own, held := n.twin.held
    absent := n.twin.absent, shadow := n.twin.shadow, rewritten := n.twin.rewritten }
  log : ∃ l, n.twin.log = m.twin.log ++ l
  quiet : m.leads = false → n.twin.log = m.twin.log
  held : m.ceded = true → n.twin.held = m.twin.held

theorem Kept.get {m n : Fjoek} (h : Kept m n) (f : Fld) (hf : f.addr ∈ pairRegs) : n.get f = m.get f := by
  unfold Fjoek.get
  rw [h.reg _ hf]

theorem Kept.isOn {m n : Fjoek} (h : Kept m n) (f : Fld) (hf : f.addr ∈ pairRegs) : n.isOn f = m.isOn f := by
  unfold Fjoek.isOn
  rw [h.get f hf]

/-- A field of the TWIN block's state that `Kept` keeps. -/
theorem Kept.field {α : Type} {m n : Fjoek} (h : Kept m n) (g : Twin → α) (hg : ∀ t a b c d e f x, g { t with
    nextSeq := a, log := b, own := c, held := d, absent := e, shadow := f, rewritten := x } = g t := by intros; rfl) :
    g n.twin = g m.twin := by
  rw [h.twin, hg]

theorem Kept.leads {m n : Fjoek} (h : Kept m n) : n.leads = m.leads := by
  unfold Fjoek.leads
  rw [h.isOn TOP_STRAP_twin (by decide), h.isOn TWIN_STAT_role (by decide), h.isOn TWIN_STAT_sync (by decide),
    h.isOn TWIN_STAT_solo (by decide), h.get TWIN_STAT_phase (by decide)]

theorem Kept.ceded {m n : Fjoek} (h : Kept m n) : n.ceded = m.ceded := h.isOn TWIN_STAT_ceded (by decide)

theorem Kept.refl (m : Fjoek) : Kept m m where
  reg _ _ := rfl
  twin := rfl
  log := ⟨[], by simp⟩
  quiet _ := rfl
  held _ := rfl

theorem Kept.trans {a b c : Fjoek} (h : Kept a b) (k : Kept b c) : Kept a c where
  reg x hx := (k.reg x hx).trans (h.reg x hx)
  twin := by have := k.twin; rw [h.twin] at this; exact this
  log := by
    obtain ⟨l, hl⟩ := h.log
    obtain ⟨r, hr⟩ := k.log
    exact ⟨l ++ r, by rw [hr, hl, List.append_assoc]⟩
  quiet hq := (k.quiet (h.leads.trans hq)).trans (h.quiet hq)
  held hc := (k.held (h.ceded.trans hc)).trans (h.held hc)

theorem Kept.when {m : Fjoek} (c : Bool) (f : Fjoek → Fjoek) (h : Kept m (f m)) : Kept m (m.when c f) := by
  unfold Fjoek.when
  split
  · exact h
  · exact Kept.refl m

theorem Kept.ite {m a b : Fjoek} {c : Prop} [Decidable c] (h : Kept m a) (k : Kept m b) : Kept m (if c then a else b) := by
  split
  · exact h
  · exact k

theorem Kept.ite_snd {α : Type} {m : Fjoek} {a b : α × Fjoek} {c : Prop} [Decidable c] (h : Kept m a.2) (k : Kept m b.2) :
    Kept m (if c then a else b).2 := by
  split
  · exact h
  · exact k

theorem Kept.each {α : Type} (l : List α) (f : α → Fjoek → Fjoek) (h : ∀ x ∈ l, ∀ m, Kept m (f x m)) (m : Fjoek) :
    Kept m (m.each l f) := by
  unfold Fjoek.each
  induction l generalizing m with
  | nil => exact Kept.refl m
  | cons x r ih =>
    exact (h x (List.mem_cons_self ..) m).trans (ih (fun y hy => h y (List.mem_cons_of_mem _ hy)) (f x m))

/-- A change elsewhere in the module. -/
theorem Kept.of_eq {m n : Fjoek} (hr : n.regs = m.regs) (ht : n.twin = m.twin) : Kept m n where
  reg a _ := by unfold Fjoek.reg; rw [hr]
  twin := by rw [ht]
  log := ⟨[], by rw [ht, List.append_nil]⟩
  quiet _ := by rw [ht]
  held _ := by rw [ht]

/-- A change elsewhere in the module, and then one that keeps the pair. -/
theorem Kept.from {m m' n : Fjoek} (h : Kept m' n) (hr : m'.regs = m.regs) (ht : m'.twin = m.twin) : Kept m n :=
  (Kept.of_eq hr ht).trans h

/-- A change that keeps the pair, and then one elsewhere in the module. -/
theorem Kept.to {m n n' : Fjoek} (h : Kept m n') (hr : n.regs = n'.regs) (ht : n.twin = n'.twin) : Kept m n :=
  h.trans (Kept.of_eq hr ht)

/-! ## Registers outside the pair's -/

/-- No register between the Hearth's and the SEAM block's is one of the pair's. -/
theorem not_pairReg_between {a : Nat} (h : 0x10008 ≤ a ∧ a < 0x200000) : a ∉ pairRegs := by
  simp [pairRegs, TOP_STRAP, HEARTH_STAT_state, SEAM_CTL_instep, TWIN_STAT, TWIN_ESTAT, TWIN_CMDSTAT_busy, TWIN_RESYNCS_LO]
  omega

/-- The counters of a switch port stand at offsets of its 512 bytes at which none of the pair's registers stands, whatever the port's number. -/
theorem not_pairReg_port {a : Nat} (h : 0xC0 ≤ a % 0x200 ∧ a % 0x200 < 0x118) : a ∉ pairRegs := by
  simp [pairRegs, TOP_STRAP, HEARTH_STAT_state, SEAM_CTL_instep, TWIN_STAT, TWIN_ESTAT, TWIN_CMDSTAT_busy, TWIN_RESYNCS_LO]
  omega

theorem kept_setReg (m : Fjoek) (a v : Nat) (h : a ∉ pairRegs) : Kept m (m.setReg a v) where
  reg b hb := Fjoek.reg_setReg_ne _ _ (fun e => h (e ▸ hb))
  twin := rfl
  log := ⟨[], by simp⟩
  quiet _ := rfl
  held _ := rfl

theorem kept_put (m : Fjoek) (f : Fld) (v : Nat) (h : f.addr ∉ pairRegs) : Kept m (m.put f v) := kept_setReg m _ _ h

theorem kept_bump (m : Fjoek) (f : Fld) (v : Nat) (h : f.addr ∉ pairRegs) : Kept m (m.bump f v) := kept_put m f _ h

theorem kept_setReg64 (m : Fjoek) (a v : Nat) (h : a ∉ pairRegs) (h' : a + 4 ∉ pairRegs) : Kept m (m.setReg64 a v) :=
  (kept_setReg m _ _ h).trans (kept_setReg _ _ _ h')

theorem kept_count (m : Fjoek) (a v : Nat) (h : a ∉ pairRegs) (h' : a + 4 ∉ pairRegs) : Kept m (m.count a v) := kept_setReg64 m a _ h h'

theorem kept_happen (m : Fjoek) (e n : Nat) : Kept m (m.happen e n) := Kept.of_eq rfl rfl

theorem kept_send (m : Fjoek) (o : OutMsg) : Kept m (m.send o) := Kept.of_eq rfl rfl

theorem kept_mgmt (m : Fjoek) (x : Mgmt) : Kept m { m with mgmt := x } := Kept.of_eq rfl rfl

theorem kept_mramPut (m : Fjoek) (a : Nat) (b : List Byte) : Kept m (m.mramPut a b) := by
  unfold Fjoek.mramPut
  split
  · exact Kept.refl m
  · exact Kept.of_eq rfl rfl

theorem kept_hbmStore (m : Fjoek) (a : Nat) (b : List Byte) : Kept m (m.hbmStore a b) where
  reg _ _ := rfl
  twin := rfl
  log := ⟨[], by rw [List.append_nil]; rfl⟩
  quiet _ := rfl
  held _ := rfl

theorem kept_hbmPut (m : Fjoek) (a : Nat) (b : List Byte) : Kept m (m.hbmPut a b) := by
  unfold Fjoek.hbmPut
  split
  · exact kept_hbmStore m a b
  · exact (kept_hbmStore m _ _).trans (kept_hbmStore _ _ _)

theorem kept_hbmWrite (m : Fjoek) (a : Nat) (b : List Byte) : Kept m (m.hbmWrite a b) := by
  unfold Fjoek.hbmWrite
  split
  · exact Kept.refl m
  · exact kept_hbmPut m a b

/-! ## The log, held outputs and the digest -/

theorem kept_logTwin (m : Fjoek) (k t : Nat) (p : List Nat) : Kept m (m.logTwin k t p) := by
  unfold Fjoek.logTwin
  split
  · rename_i hl
    refine Kept.trans ?_ (kept_happen _ _ _)
    refine Kept.trans ?_ (kept_count _ _ _ (by decide) (by decide))
    refine Kept.trans ?_ (kept_count _ _ _ (by decide) (by decide))
    exact { reg := fun _ _ => rfl, twin := rfl, log := ⟨_, rfl⟩, quiet := fun hq => absurd hl (by simp [hq]), held := fun _ => rfl }
  · exact Kept.refl m

theorem kept_output (m : Fjoek) (o : OutMsg) : Kept m (m.output o) := by
  unfold Fjoek.output
  split
  · exact Kept.refl m
  · rename_i hn
    split
    · exact { reg := fun _ _ => rfl, twin := rfl, log := ⟨[], by simp⟩, quiet := fun _ => rfl
              held := fun hc => absurd (.inr (.inl hc)) hn }
    · exact kept_send _ _

theorem kept_digestAt (m : Fjoek) (ep : Nat) (b : List Nat) : Kept m (m.digestAt ep b) := by
  unfold Fjoek.digestAt
  split
  · exact { reg := fun _ _ => rfl, twin := rfl, log := ⟨[], by simp⟩, quiet := fun _ => rfl, held := fun _ => rfl }
  · exact Kept.refl m

theorem kept_digestItem (m : Fjoek) (b : List Nat) : Kept m (m.digestItem b) := kept_digestAt m _ b

/-! ## Latches and counts -/

theorem kept_postTag (m : Fjoek) (e t : Nat) : Kept m (m.postTag e t) := by
  unfold Fjoek.postTag
  split
  · exact Kept.refl m
  · exact Kept.of_eq rfl rfl

theorem kept_intxUpdate (m : Fjoek) : Kept m m.intxUpdate := by
  unfold Fjoek.intxUpdate
  simp only
  split
  · exact Kept.refl m
  · exact Kept.from (kept_output _ _) rfl rfl

theorem kept_attRaise (m : Fjoek) (f v : Nat) : Kept m (m.attRaise f v) := by
  unfold Fjoek.attRaise
  simp only
  split
  · exact Kept.refl m
  · split
    · split
      · exact (kept_digestItem _ _).trans (kept_output _ _)
      · exact Kept.of_eq rfl rfl
    · split
      · exact (kept_setReg _ _ _ (by decide)).trans (kept_intxUpdate _)
      · exact kept_count _ _ _ (by decide) (by decide)

theorem kept_attWake (m : Fjoek) : Kept m m.attWake := by
  unfold Fjoek.attWake
  simp only
  split
  · exact kept_put _ _ _ (by decide)
  · split
    · exact Kept.of_eq rfl rfl
    · split
      · exact Kept.of_eq rfl rfl
      · exact Kept.refl m

theorem kept_logStore (m : Fjoek) (e status : Nat) (data : List Nat) : Kept m (m.logStore e status data) := by
  unfold Fjoek.logStore
  simp only
  refine Kept.trans ?_ (kept_mgmt _ _)
  exact (kept_mramPut _ _ _).trans (kept_setReg64 _ _ _ (by decide) (by decide))

theorem kept_logRecord (m : Fjoek) (e status : Nat) (data : List Nat) : Kept m (m.logRecord e status data) := by
  unfold Fjoek.logRecord
  split
  · exact kept_logStore _ _ _ _
  · exact Kept.from (kept_bump _ MGMT_LOGLOST_count 1 (by decide)) rfl rfl
  · exact Kept.from (kept_logStore _ _ _ _) rfl rfl

theorem kept_deliver (m : Fjoek) (e : Nat) : Kept m (m.deliver e) := by
  unfold Fjoek.deliver
  simp only
  refine Kept.trans ?_ (Kept.when _ _ (kept_logTwin _ _ _ _))
  refine Kept.trans ?_ (Kept.when _ _ (kept_send _ _))
  refine Kept.trans ?_ (Kept.when _ _ ((kept_attRaise _ _ _).trans (Kept.when _ _ (kept_attWake _))))
  refine Kept.trans ?_ (Kept.when _ _ (kept_postTag _ _ _))
  exact Kept.when _ _ (kept_logRecord _ _ _ _)

theorem kept_latchBase (m : Fjoek) (e : Nat) (h : e < 512) : Kept m (m.latchBase e) := by
  unfold Fjoek.latchBase
  simp only
  split
  · exact Kept.refl m
  · refine Kept.trans ?_ (Kept.when _ _ (kept_deliver _ _))
    have hpend : EVT_PEND (e / 32) ∉ pairRegs := not_pairReg_between (by unfold EVT_PEND; omega)
    exact (kept_setReg _ _ _ hpend).trans (kept_count _ _ _ (by decide) (by decide))

/-- A global counter is none of the pair's registers. -/
theorem kept_setGcnt (m : Fjoek) {j : Nat} (v : Nat) (hj : j < 32) : Kept m (m.setReg64 (PMON_GCNT_LO j) v) :=
  kept_setReg64 _ _ _ (not_pairReg_between (by unfold PMON_GCNT_LO; omega)) (not_pairReg_between (by unfold PMON_GCNT_LO; omega))

theorem kept_latch (m : Fjoek) (e : Nat) (h : e < 512) : Kept m (m.latch e) := by
  unfold Fjoek.latch
  simp only
  split
  · exact kept_latchBase _ _ h
  · refine (kept_latchBase m e h).trans (Kept.each _ _ (fun j hj m => Kept.when _ _ ?_) _)
    have hj' := List.mem_range.1 hj
    split
    · exact kept_setGcnt _ _ hj'
    · split
      · exact kept_setGcnt _ _ hj'
      · exact ((kept_setGcnt _ _ hj').trans (kept_put _ _ _ (show PMON_GOVF ∉ pairRegs by decide))).trans
          (kept_latchBase _ 502 (by decide))

/-- A cause outside the pair's registers. -/
theorem kept_cause (m : Fjoek) (f : Fld) (e : Nat) (he : e < 512) (hf : f.addr ∉ pairRegs) : Kept m (m.cause f e) := by
  unfold Fjoek.cause
  split
  · exact Kept.refl m
  · exact (kept_put _ _ _ hf).trans (kept_latch _ _ he)

/-- A cause among the pair's registers sets its bit, whether or not it was set. -/
theorem kept_cause_set (m : Fjoek) (f : Fld) (e : Nat) (he : e < 512) (h1 : f.hi = f.lo) : Kept (m.put f 1) (m.cause f e) := by
  unfold Fjoek.cause
  split
  · rename_i hon
    exact { reg := fun a _ => (m.reg_put_on f hon h1 a).symm, twin := rfl, log := ⟨[], by simp⟩, quiet := fun _ => rfl
            held := fun _ => rfl }
  · exact kept_latch _ _ he

theorem kept_bumpGlobal (m : Fjoek) (j n : Nat) (hj : j < 32) : Kept m (m.bumpGlobal j n) := by
  unfold Fjoek.bumpGlobal
  simp only
  split
  · exact kept_setGcnt _ _ hj
  · exact (kept_setGcnt _ _ hj).trans (kept_cause _ _ _ (by decide) (show PMON_GOVF ∉ pairRegs by decide))

theorem kept_perfGlobal (m : Fjoek) (e n : Nat) : Kept m (m.perfGlobal e n) := by
  unfold Fjoek.perfGlobal
  simp only
  split
  · exact Kept.refl m
  · exact Kept.each _ _ (fun j hj m => Kept.when _ _ (kept_bumpGlobal m j n (List.mem_range.1 hj))) _

theorem kept_flush (m : Fjoek) : Kept m m.flush := by
  unfold Fjoek.flush
  simp only
  split
  · exact Kept.refl m
  · refine Kept.from (m' := { m with tally := [] }) (Kept.to (n' := if _ then _ else _) ?_ rfl rfl) rfl rfl
    split
    · exact Kept.refl _
    · exact Kept.each _ _ (fun p _ m => kept_perfGlobal m p.1 p.2) _

/-- The end of a command keeps what its effect made of the pair. -/
theorem kept_settle (s : State) (m : Fjoek) : Kept m (s.settle m).m := (kept_flush m).trans (Kept.of_eq rfl rfl)

end Sys2Proof.Machine
end

section
/-! PROOFS. Performance counters, dispatch and fences keep a module's role in its pair. -/

namespace Sys2Proof.Machine

/-! ## Performance counters -/

/-- A register of the PMON window is none of the pair's. -/
theorem not_pairReg_pmon {a : Nat} (h : 0x80000 ≤ a ∧ a < 0x90000) : a ∉ pairRegs := not_pairReg_between (by omega)

theorem kept_writeSample (m : Fjoek) {e : Nat} (he : e < 64) (c ev s pc gen : Nat) (sk ni : Bool) :
    Kept m (m.writeSample e c ev s pc gen sk ni) := by
  unfold Fjoek.writeSample
  simp only
  split
  · exact Kept.refl m
  · split
    · exact (kept_bump _ _ _ (by decide)).trans (kept_cause _ _ _ (by decide) (by decide))
    · refine Kept.trans ?_ (Kept.when _ _ (kept_cause _ _ _ (by decide) (by decide)))
      exact (kept_hbmWrite _ _ _).trans (kept_put _ _ _ (not_pairReg_pmon (by simp only [PMON_SPI_pi]; omega)))

theorem kept_bumpEngine (m : Fjoek) {e k : Nat} (he : e < 64) (hk : k < 9) (ev : Nat) (b : Option (Nat × Nat × Nat)) :
    Kept m (m.bumpEngine e k ev b) := by
  have hset (v : Nat) : Kept m (m.setReg64 (PMON_ECYC_LO e + 8 * k) v) := by
    refine kept_setReg64 m _ v (not_pairReg_pmon ?_) (not_pairReg_pmon ?_) <;> unfold PMON_ECYC_LO <;> omega
  have hcause (m : Fjoek) : Kept m (m.cause ⟨PMON_ESTAT e, k, k⟩ 501) :=
    kept_cause m _ _ (by decide) (not_pairReg_pmon (by simp only [PMON_ESTAT]; omega))
  unfold Fjoek.bumpEngine
  simp only
  split
  · exact hset _
  · split
    · split
      · exact ((hset 0).trans (hcause _)).trans (kept_writeSample _ he _ _ _ _ _ _ _)
      · exact ((hset 0).trans (hcause _)).to rfl rfl
    · exact (hset 0).trans (hcause _)

theorem kept_perfEngine (m : Fjoek) {e : Nat} (he : e < 64) (s ev : Nat) (b : Option (Nat × Nat × Nat)) :
    Kept m (m.perfEngine e s ev b) := by
  unfold Fjoek.perfEngine
  simp only
  split
  · exact Kept.refl m
  · refine Kept.each _ _ (fun k hk m => Kept.when _ _ (kept_bumpEngine m he ?_ ev b)) m
    simp only [List.mem_cons, List.not_mem_nil, or_false] at hk
    omega

theorem kept_perf (m : Fjoek) {e : Nat} (he : e < 64) (s ev : Nat) (b : Option (Nat × Nat × Nat)) : Kept m (m.perf e s ev b) := by
  unfold Fjoek.perf
  split
  · exact Kept.refl m
  · exact (kept_perfEngine m he s ev b).trans (kept_perfGlobal _ _ _)

/-! ## Dispatch queues -/

theorem kept_passQueue (m : Fjoek) (g : Nat) : Kept m (m.passQueue g) := by
  unfold Fjoek.passQueue
  split
  · split
    · exact Kept.refl m
    · exact Kept.of_eq rfl rfl
  · exact Kept.refl m

theorem kept_enter (m : Fjoek) (w : Nat × WorkItem) : Kept m (m.enter w) := by
  unfold Fjoek.enter
  split
  · split <;> exact Kept.of_eq rfl rfl
  · exact Kept.of_eq rfl rfl

theorem kept_settleQueues (m : Fjoek) : Kept m m.settleQueues := by
  have hpass : Kept m (m.each (m.seam.queues.map (·.1)) fun g m => m.passQueue g) :=
    Kept.each _ _ (fun g _ m => kept_passQueue m g) m
  unfold Fjoek.settleQueues
  simp only
  split
  · exact hpass
  · exact hpass.trans (Kept.from (Kept.each _ _ (fun w _ m => kept_enter m w) _) rfl rfl)

/-! ## Giving an item to a strand -/

/-- SEAM_GSTAT is none of the pair's registers, whatever the group's number. -/
theorem gstat_not_pairReg (g : Nat) : (SEAM_GSTAT_drained g).addr ∉ pairRegs := by
  simp [pairRegs, SEAM_GSTAT_drained, TOP_STRAP, HEARTH_STAT_state, SEAM_CTL_instep, TWIN_STAT, TWIN_ESTAT, TWIN_CMDSTAT_busy, TWIN_RESYNCS_LO]
  omega

theorem kept_endWait (m : Fjoek) (k rd slot handle : Nat) : Kept m (m.endWait k rd slot handle) :=
  Kept.from (kept_put _ _ 0 (gstat_not_pairReg (k / 32))) rfl rfl

theorem kept_sitOut (m : Fjoek) (k : Nat) : Kept m (m.sitOut k) := by
  unfold Fjoek.sitOut
  simp only
  split
  · exact Kept.refl m
  · exact Kept.of_eq rfl rfl

theorem kept_assign (m : Fjoek) (h : Nat) (i : WorkItem) {k : Nat} (j : Nat) (hk : k < 512) : Kept m (m.assign h i k j) := by
  have he : k / 8 < 64 := by omega
  unfold Fjoek.assign
  simp only
  refine Kept.trans ?_ (kept_sitOut _ _)
  refine Kept.trans ?_ (kept_endWait _ _ _ _ _)
  refine Kept.trans ?_ (kept_perf _ he _ _ _)
  refine Kept.from (Kept.when _ _ ?_) rfl rfl
  exact (kept_logTwin _ _ _ _).to rfl rfl

/-- A fold that keeps its choice or takes the element at hand ends with its first choice or with an element. -/
theorem foldl_choice_mem {α : Type} (f : Option α → α → Option α) (hf : ∀ b x, f b x = b ∨ f b x = some x) (l : List α) (b : Option α) :
    l.foldl f b = b ∨ ∃ x ∈ l, l.foldl f b = some x := by
  induction l generalizing b with
  | nil => exact .inl rfl
  | cons x r ih =>
    rw [List.foldl_cons]
    rcases ih (f b x) with h | ⟨y, hy, h⟩
    · rw [h]
      exact (hf b x).imp_right fun hx => ⟨x, .head _, hx⟩
    · exact .inr ⟨y, .tail _ hy, h⟩

/-- The strand chosen so far, or strand `k` where that has waited longer. -/
def Fjoek.longerWaiter (m : Fjoek) (b : Option Nat) (k : Nat) : Option Nat :=
  b.elim (some k) fun j => if (m.strand k).since < (m.strand j).since then some k else some j

theorem Fjoek.longest_eq (m : Fjoek) (l : List Nat) : m.longest l = l.foldl m.longerWaiter none := by
  unfold Fjoek.longest
  congr
  funext b k
  cases b <;> rfl

/-- The strand that waited longest is one of those asked for. -/
theorem mem_of_longest (m : Fjoek) {l : List Nat} {k : Nat} (h : m.longest l = some k) : k ∈ l := by
  have hstep (b : Option Nat) (x : Nat) : m.longerWaiter b x = b ∨ m.longerWaiter b x = some x := by
    cases b with
    | none => exact .inr rfl
    | some j => exact (ite_eq_or_eq _ _ _).symm
  rw [m.longest_eq] at h
  rcases foldl_choice_mem _ hstep l none with hn | ⟨x, hx, hs⟩
  · cases h.symm.trans hn
  · rwa [Option.some.inj (h.symm.trans hs)]

theorem taker_lt (m : Fjoek) {g k : Nat} (hg : g < 16) (h : m.taker g = some k) : k < 512 := by
  have hmem := (List.mem_filter.1 (mem_of_longest m h)).1
  obtain ⟨j, hj, rfl⟩ := List.mem_map.1 hmem
  have hj := List.mem_range.1 hj
  omega

theorem kept_dispatchGroup {g : Nat} (hg : g < 16) (n : Nat) (m : Fjoek) : Kept m (dispatchGroup g n m) := by
  induction n generalizing m with
  | zero => exact Kept.refl m
  | succ n ih =>
    unfold dispatchGroup
    split
    · rename_i h i k _ ht
      exact (kept_assign m h i _ (taker_lt m hg ht)).trans (ih _)
    · exact Kept.refl m

theorem kept_logCmd (m : Fjoek) (a v : Nat) : Kept m (m.logCmd a v) := by
  unfold Fjoek.logCmd
  split
  · exact Kept.refl m
  · exact kept_logTwin _ _ _ _

theorem kept_parkOverride (m : Fjoek) {g : Nat} (hg : g < 16) : Kept m (m.parkOverride g) := by
  have hpark : (SEAM_ECTL_park (4 * g)).addr ∉ pairRegs := by
    simp [pairRegs, SEAM_ECTL_park, TOP_STRAP, HEARTH_STAT_state, SEAM_CTL_instep, TWIN_STAT, TWIN_ESTAT, TWIN_CMDSTAT_busy, TWIN_RESYNCS_LO]
    omega
  unfold Fjoek.parkOverride
  simp only
  split
  · refine Kept.trans ?_ (kept_latch _ _ (by decide))
    refine (kept_logCmd m (SEAM_ECTL (4 * g)) 0).trans ?_
    split
    · exact Kept.of_eq rfl rfl
    · exact kept_put _ _ _ hpark
  · exact Kept.refl m

theorem kept_dispatch (m : Fjoek) : Kept m m.dispatch := by
  unfold Fjoek.dispatch
  simp only
  split
  · exact kept_settleQueues m
  · refine (kept_settleQueues m).trans (Kept.trans (Kept.each _ _ (fun g hg m => ?_) _) (kept_settleQueues _))
    have hg := List.mem_range.1 hg
    split
    · exact (kept_parkOverride m hg).trans (kept_dispatchGroup hg _ _)
    · exact Kept.refl m

theorem kept_enqueue (m : Fjoek) (g handle kind : Nat) : Kept m (m.enqueue g handle kind) :=
  Kept.from (kept_dispatch _) rfl rfl

/-! ## Fences -/

theorem kept_settleFences (m : Fjoek) : Kept m m.settleFences := by
  have hends (m n : Fjoek) (k : Nat) (x : Strand) (h : Kept m n) : Kept m ((n.setStrand k x).sitOut k) :=
    (h.to (n := n.setStrand k x) rfl rfl).trans (kept_sitOut _ k)
  unfold Fjoek.settleFences
  refine Kept.each _ _ (fun k _ m => ?_) m
  simp only
  split
  · split
    · exact Kept.refl m
    · split
      · exact hends m m k _ (Kept.refl m)
      · split
        · exact hends m _ k _ (kept_logTwin _ _ _ _)
        · exact Kept.refl m
  · exact Kept.refl m

end Sys2Proof.Machine
end

section
/-! PROOFS. The switch core and the forwarding tables keep a module's role in its pair. -/

namespace Sys2Proof.Machine

/-! ## Flow control of a slot -/

/-- The eight classes that an enable vector can name. -/
theorem class_lt {f : Nat → Bool} {c : Nat} (hc : c ∈ (List.range 8).filter f) : c < 8 := List.mem_range.1 (List.mem_filter.1 hc).1

section
variable (m : Fjoek) {p : Nat} (hp : p < 32)
include hp

theorem kept_pauseClasses (mask : Nat) (on : Bool) : Kept m (m.pauseClasses p mask on) := by
  unfold Fjoek.pauseClasses
  simp only
  split
  · exact Kept.refl m
  · exact kept_put _ _ _ (not_pairReg_between (by simp only [SWC_PSTAT_paused]; omega))

theorem kept_pauseFrame (quanta : Nat) : Kept m (m.pauseFrame p quanta) := by
  unfold Fjoek.pauseFrame
  split
  · refine Kept.trans ?_ (kept_pauseClasses _ hp _ _)
    refine kept_count _ _ _ (not_pairReg_between ?_) (not_pairReg_between ?_) <;> unfold NETP_PAUSERX_LO <;> omega
  · refine kept_count _ _ _ (not_pairReg_between ?_) (not_pairReg_between ?_) <;> unfold NETP_RXCTL_LO <;> omega

theorem kept_pfcFrame (enable : Nat) (quanta : List Nat) : Kept m (m.pfcFrame p enable quanta) := by
  unfold Fjoek.pfcFrame
  split
  · refine Kept.each _ _ (fun c hc m => ?_) m
    have hc := class_lt hc
    have hcount : Kept m (m.count (NETP_PFCRX_LO p c) 1) := by
      refine kept_count _ _ _ (not_pairReg_between ?_) (not_pairReg_between ?_) <;> unfold NETP_PFCRX_LO <;> omega
    simp only
    split
    · exact hcount.trans (kept_pauseClasses _ hp _ _)
    · exact hcount
  · refine kept_count _ _ _ (not_pairReg_between ?_) (not_pairReg_between ?_) <;> unfold NETP_RXCTL_LO <;> omega

theorem kept_sendPause (mask quanta : Nat) : Kept m (m.sendPause p mask quanta) := by
  have htx (m : Fjoek) : Kept m (m.count (NETP_PAUSETX_LO p) 1) := by
    refine kept_count _ _ _ (not_pairReg_between ?_) (not_pairReg_between ?_) <;> unfold NETP_PAUSETX_LO <;> omega
  have hpfc (m : Fjoek) : Kept m (m.each ((List.range 8).filter fun c => bitOf mask c) fun c m => m.count (NETP_PFCTX_LO p c) 1) := by
    refine Kept.each _ _ (fun c hc m => ?_) m
    have hc := class_lt hc
    refine kept_count _ _ _ (not_pairReg_between ?_) (not_pairReg_between ?_) <;> unfold NETP_PFCTX_LO <;> omega
  unfold Fjoek.sendPause
  simp only
  split
  · exact Kept.refl m
  · refine (kept_send m (.pause p mask quanta (m.slotMac p))).trans ?_
    split
    · split
      · exact (htx _).trans (kept_pauseFrame _ hp _)
      · exact htx _
    · split
      · exact (hpfc _).trans (kept_pfcFrame _ hp _ _)
      · exact hpfc _

end

theorem kept_settleXoff (m : Fjoek) (p : Nat) : Kept m (m.settleXoff p) := by
  unfold Fjoek.settleXoff
  split
  · exact Kept.refl m
  · rename_i hp
    have hp : p < 32 := by omega
    have hput (v : Nat) : Kept m (m.put (SWC_PSTAT_xoff p) v) :=
      kept_put _ _ _ (not_pairReg_between (by simp only [SWC_PSTAT_xoff]; omega))
    simp only
    refine Kept.ite (Kept.refl m) ?_
    refine Kept.trans ?_ (Kept.when _ _ (kept_sendPause _ hp _ _))
    exact (hput _).trans (Kept.when _ _ (kept_sendPause _ hp _ _))

/-! ## Frames that leave the buffer -/

theorem kept_refill (m : Fjoek) : Kept m m.refill := by
  unfold Fjoek.refill
  refine Kept.each _ _ (fun p _ m => ?_) m
  exact Kept.of_eq rfl rfl

theorem kept_settleFrame (m : Fjoek) (id : Nat) : Kept m (m.settleFrame id) := by
  unfold Fjoek.settleFrame
  split
  · exact Kept.refl m
  · split
    · exact Kept.refl m
    · refine Kept.trans ?_ (kept_settleXoff _ _)
      exact (kept_refill _).from rfl rfl

theorem kept_dropCopy (m : Fjoek) (p c id : Nat) : Kept m (m.dropCopy p c id) := by
  unfold Fjoek.dropCopy
  simp only
  refine Kept.from (kept_settleFrame _ id) ?_ ?_ <;> split <;> rfl

/-- A counter of a switch port counts dropped copies. -/
theorem kept_dropped (m : Fjoek) (a n : Nat) (h : a ∉ pairRegs) (h' : a + 4 ∉ pairRegs) : Kept m (m.dropped a n) :=
  (kept_count m a n h h').trans (kept_happen _ _ _)

theorem kept_flushPort (m : Fjoek) (p : Nat) : Kept m (m.flushPort p) := by
  unfold Fjoek.flushPort
  refine Kept.from (Kept.each _ _ (fun c _ m => Kept.each _ _ (fun q _ m => ?_) _) _) rfl rfl
  refine (kept_dropped m _ _ (not_pairReg_port ?_) (not_pairReg_port ?_)).trans (kept_dropCopy _ _ _ _) <;> unfold SWC_FLUSH_LO <;> omega

theorem kept_pressLoop (n : Nat) (m : Fjoek) : Kept m (pressLoop n m) := by
  induction n generalizing m with
  | zero => exact Kept.refl m
  | succ n ih =>
    unfold pressLoop
    split
    · split
      · exact Kept.refl m
      · exact (kept_flushPort m _).trans (ih _)
    · exact Kept.refl m

theorem kept_pressure (m : Fjoek) : Kept m m.pressure := by
  unfold Fjoek.pressure
  split
  · exact (kept_pressLoop _ m).trans (kept_cause _ _ _ (by decide) (by decide))
  · exact Kept.refl m

/-! ## Copies of a frame -/

theorem kept_pushCopy (m : Fjoek) (f : Frame) (p c : Nat) (h : Bool) : Kept m (m.pushCopy f p c h) := by
  have henq (m : Fjoek) : Kept m (m.count (SWC_ENQ_LO p) 1) := by
    refine kept_count _ _ _ (not_pairReg_port ?_) (not_pairReg_port ?_) <;> unfold SWC_ENQ_LO <;> omega
  have hmark (m : Fjoek) : Kept m (m.count (SWC_ECNMARK_LO p) 1) := by
    refine kept_count _ _ _ (not_pairReg_port ?_) (not_pairReg_port ?_) <;> unfold SWC_ECNMARK_LO <;> omega
  unfold Fjoek.pushCopy
  simp only
  refine Kept.trans ?_ (Kept.when _ _ ((hmark _).trans (kept_happen _ _ _)))
  exact (henq _).from rfl rfl

theorem kept_enqueueCopies (c : Nat) (ps : List Nat) (f : Frame) (first : Bool) (m : Fjoek) :
    Kept m (enqueueCopies c ps f first m).2 := by
  induction ps generalizing f first m with
  | nil => exact Kept.refl m
  | cons p ps ih =>
    unfold enqueueCopies
    split
    · exact (kept_pushCopy m f p c _).trans (ih _ _ _)
    · exact Kept.refl m
    all_goals
      refine (kept_dropped m _ 1 (not_pairReg_port ?_) (not_pairReg_port ?_)).trans (ih _ _ _)
    · unfold SWC_DROP_DOWN_LO; omega
    · unfold SWC_DROP_DOWN_LO; omega
    · unfold SWC_DROP_HDRM_LO; omega
    · unfold SWC_DROP_HDRM_LO; omega
    · unfold SWC_DROP_HARD_LO; omega
    · unfold SWC_DROP_HARD_LO; omega
    · unfold SWC_DROP_ADM_LO; omega
    · unfold SWC_DROP_ADM_LO; omega

theorem kept_takeReserved (m : Fjoek) (p n : Nat) : Kept m (m.takeReserved p n) := (kept_refill _).from rfl rfl

theorem kept_mirror (m : Fjoek) (dir port : Nat) (b : List Byte) : Kept m (m.mirror dir port b) := by
  unfold Fjoek.mirror
  split
  · exact Kept.refl m
  · simp only
    refine Kept.trans ?_ (kept_pressure _)
    refine Kept.trans ?_ (kept_settleFrame _ _)
    refine Kept.trans ?_ (kept_enqueueCopies _ _ _ _ _)
    exact (kept_takeReserved _ _ _).from rfl rfl

theorem kept_enqueueFrame (m : Fjoek) (f : Frame) (c : Nat) (ps : List Nat) : Kept m (m.enqueueFrame f c ps) := by
  have htake : Kept m (Fjoek.takeReserved { m with swc := { m.swc with nextFrame := f.id + 1, frames := m.swc.frames ++ [f] } }
    f.ingress f.cells) := (kept_takeReserved _ _ _).from rfl rfl
  unfold Fjoek.enqueueFrame
  simp only
  refine Kept.trans ?_ (kept_pressure _)
  refine Kept.trans ?_ (kept_settleXoff _ _)
  refine Kept.trans ?_ (kept_settleFrame _ _)
  split
  · exact htake.to rfl rfl
  · split
    · exact htake.trans (kept_enqueueCopies _ _ _ _ _)
    · exact (htake.trans (kept_enqueueCopies _ _ _ _ _)).to rfl rfl

/-! ## Lookup -/

theorem kept_useEntry (m : Fjoek) (l : Nat) : Kept m (m.useEntry l) := by
  unfold Fjoek.useEntry
  split
  · exact Kept.refl m
  · exact Kept.of_eq rfl rfl

theorem kept_countUe (m : Fjoek) (u : Nat) : Kept m (m.countUe u) :=
  Kept.when _ _ ((kept_count _ _ _ (by decide) (by decide)).trans (kept_cause _ _ _ (by decide) (by decide)))

theorem kept_seek (m : Fjoek) (kind : Nat) (key : Bytes) : Kept m (m.seek kind key).2 := by
  unfold Fjoek.seek
  simp only
  split
  · exact (kept_countUe m _).trans (kept_useEntry _ _)
  · exact kept_countUe m _

theorem kept_flood (m : Fjoek) (v port : Nat) (r : FwdRes) : Kept m (m.flood v port r).2 := kept_count m _ _ (by decide) (by decide)

theorem kept_vlanSeek (m : Fjoek) (v : Nat) : Kept m (m.vlanSeek v).2 := by
  unfold Fjoek.vlanSeek
  split
  · exact kept_countUe m 1
  · exact Kept.refl m

theorem kept_lookupPort (m : Fjoek) (port v : Nat) (b : Bytes) (e : FwdEntry) (routed : Bool) :
    Kept m (m.lookupPort port v b e routed).2 := by
  have hdrop (m : Fjoek) : Kept m (m.count FWD_ENTDROP_LO 1) := kept_count _ _ _ (by decide) (by decide)
  have hdef (m : Fjoek) : Kept m (m.count FWD_QPDEF_LO 1) := kept_count _ _ _ (by decide) (by decide)
  unfold Fjoek.lookupPort
  have httl (c : Bool) : Kept m (m.when c fun m => m.count FWD_TTLX_LO 1) :=
    Kept.when _ _ (kept_count m _ _ (by decide) (by decide))
  simp only
  refine Kept.ite_snd (Kept.ite_snd (hdrop m) (kept_flood _ _ _ _)) (Kept.ite_snd ?_ (Kept.ite_snd ((httl _).trans (hdrop _)) (httl _)))
  have hseek (c : Bool) (key : Bytes) : Kept m ((m.when c fun m => m.count FWD_TTLX_LO 1).seek 4 key).2 :=
    (httl c).trans (kept_seek _ _ _)
  generalize (routed && _ : Bool) = ttl
  split
  · exact Kept.ite_snd (((hseek _ _).trans (hdef _)).trans (hdrop _)) ((hseek _ _).trans (hdef _))
  · exact Kept.ite_snd ((hseek _ _).trans (hdrop _)) (hseek _ _)

theorem kept_lookup (m : Fjoek) (port : Nat) (b : Bytes) : Kept m (m.lookup port b).2 := by
  have hvlan (v : Nat) : Kept m ((m.count FWD_LOOKUPS_LO 1).vlanSeek v).2 :=
    (kept_count _ _ _ (by decide) (by decide)).trans (kept_vlanSeek _ _)
  have hseek (v kind : Nat) (key : Bytes) : Kept m (((m.count FWD_LOOKUPS_LO 1).vlanSeek v).2.seek kind key).2 :=
    (hvlan v).trans (kept_seek _ _ _)
  have hmiss (v kind u : Nat) (key : Bytes) : Kept m ((((m.count FWD_LOOKUPS_LO 1).vlanSeek v).2.seek kind key).2.countUe u) :=
    (hseek v kind key).trans (kept_countUe _ _)
  unfold Fjoek.lookup
  simp only
  generalize (if tagged b = true then frameBe b 14 2 % 4096 else m.get (FWD_PVID_vid port)) = v
  refine Kept.ite_snd (kept_flood _ _ _ _) (Kept.ite_snd ((hvlan _).trans (kept_count _ _ _ (by decide) (by decide)))
    (Kept.ite_snd ?_ (Kept.ite_snd ((hvlan _).trans (kept_flood _ _ _ _)) ?_)))
  · generalize (if isIp4 b = true then 2 else 3) = kind
    generalize (if isIp4 b = true then (List.drop (l3At b + 16) b).take 4 else _) = addr
    generalize (if isIp4 b = true then 6 else 7) = dkind
    split
    · exact (hseek _ _ _).trans (kept_lookupPort _ _ _ _ _ _)
    · split
      · exact ((hmiss _ _ _ _).trans (kept_count _ FWD_DEFHIT_LO 1 (by decide) (by decide))).trans (kept_lookupPort _ _ _ _ _ _)
      · exact ((hmiss _ _ _ _).trans (kept_count _ FWD_RTMISS_LO 1 (by decide) (by decide))).trans (kept_flood _ _ _ _)
  · split
    · exact (hseek _ _ _).trans (kept_lookupPort _ _ _ _ _ _)
    · exact ((hseek _ _ _).trans (kept_count _ FWD_L2MISS_LO 1 (by decide) (by decide))).trans (kept_flood _ _ _ _)

theorem kept_storeFrame (m : Fjoek) (port cls : Nat) (loop : Bool) (b : List Byte) : Kept m (m.storeFrame port cls loop b) := by
  unfold Fjoek.storeFrame
  split
  · refine kept_dropped m _ 1 (not_pairReg_port ?_) (not_pairReg_port ?_) <;> unfold SWC_NOCELL_LO <;> omega
  · simp only
    have hlooked (n : Bytes) (c : Bool) : Kept m
        ((((m.pressure.happen 0x100 1).lookup port n).2.when c fun m => (m.dropped SWC_LOOPDROP_LO 1).cause SWC_STAT_loopdrop 192).mirror
          0 port b) := by
      refine Kept.trans ?_ (kept_mirror _ _ _ _)
      refine Kept.trans ?_ (Kept.when _ _ ((kept_dropped _ _ _ (by decide) (by decide)).trans (kept_cause _ _ _ (by decide) (by decide))))
      exact ((kept_pressure m).trans (kept_happen _ _ _)).trans (kept_lookup _ _ _)
    exact Kept.ite (hlooked _ _) ((hlooked _ _).trans (kept_enqueueFrame _ _ _ _))

end Sys2Proof.Machine
end

section
/-! PROOFS. The transport's answers keep a module's role in its pair. -/

namespace Sys2Proof.Machine

/-! ## Keys -/

theorem kept_setKeyState (m : Fjoek) (x v : Nat) : Kept m (m.setKeyState x v) := (kept_hbmWrite _ _ _).from rfl rfl

theorem kept_setKeyUse (m : Fjoek) (x v : Nat) : Kept m (m.setKeyUse x v) := (kept_hbmWrite _ _ _).from rfl rfl

theorem kept_revoked (m : Fjoek) (x : Nat) : Kept m (m.revoked x) := by
  unfold Fjoek.revoked
  simp only
  refine Kept.trans ?_ (kept_cause _ _ _ (by decide) (by decide))
  refine Kept.trans ?_ (kept_count _ _ _ (by decide) (by decide))
  have hput : Kept m ((m.setKeyState x 0).put THIM_REVOKING_n ((m.setKeyState x 0).get THIM_REVOKING_n - 1)) :=
    (kept_setKeyState m x 0).trans (kept_put _ _ _ (by decide))
  have hused (v : Nat) := hput.trans (kept_put _ THIM_KUSED_n v (by decide))
  exact Kept.ite ((hused _).to rfl rfl) ((hused _).trans (kept_put _ _ _ (by decide)))

theorem kept_unuseKey (m : Fjoek) (x : Nat) : Kept m (m.unuseKey x) := by
  unfold Fjoek.unuseKey
  exact Kept.ite ((kept_setKeyUse m x _).trans (kept_revoked _ _)) (kept_setKeyUse m x _)

/-! ## Packets -/

theorem kept_transmit (m : Fjoek) (g cls : Nat) (f : Bytes) : Kept m (m.transmit g cls f) := by
  unfold Fjoek.transmit
  exact ((kept_count m _ _ (by decide) (by decide)).trans (kept_happen _ _ _)).trans (kept_storeFrame _ _ _ _ _)

/-- A packet whose payload no descriptor sends. -/
theorem kept_sendPacket (m : Fjoek) (n op psn : Nat) (ack : Bool) (ext : Bytes) (off : Nat) (data : List Byte) :
    Kept m (m.sendPacket n op psn ack ext off data) := by
  unfold Fjoek.sendPacket
  split
  · exact (kept_count _ _ _ (by decide) (by decide)).trans (kept_cause _ _ _ (by decide) (by decide))
  · exact (kept_digestItem _ _).trans (kept_transmit _ _ _ _)

theorem kept_setQp (m : Fjoek) (n : Nat) (q : Qp) : Kept m (m.setQp n q) := Kept.of_eq rfl rfl

theorem kept_sendAck (m : Fjoek) (n : Nat) : Kept m (m.sendAck n) := by
  unfold Fjoek.sendAck
  exact (kept_setQp m n _).trans (kept_sendPacket _ _ _ _ _ _ _ _)

theorem kept_shape (m : Fjoek) (n len : Nat) : Kept m (m.shape n len).2 := by
  unfold Fjoek.shape
  exact Kept.ite_snd (kept_setQp _ _ _) (Kept.ite_snd (kept_setQp _ _ _) (kept_setQp _ _ _))

/-! ## What is owed -/

theorem kept_readLoop (n k : Nat) (o : Owed) (m : Fjoek) : Kept m (readLoop n k o m).2 := by
  induction k generalizing o m with
  | zero => exact Kept.refl m
  | succ k ih =>
    unfold readLoop
    refine Kept.ite_snd (Kept.refl m) (Kept.ite_snd (kept_shape _ _ _) ?_)
    exact ((kept_shape _ _ _).trans (kept_sendPacket _ _ _ _ _ _ _ _)).trans (ih _ _)

theorem kept_owedLoop (n k : Nat) (m : Fjoek) : Kept m (owedLoop n k m) := by
  induction k generalizing m with
  | zero => exact Kept.refl m
  | succ k ih =>
    unfold owedLoop
    split
    · exact Kept.ite (kept_sendAck m n) (Kept.refl m)
    · rename_i o r _
      refine Kept.ite (Kept.refl m) (Kept.ite ?_ (Kept.ite ?_ ?_))
      · have hread := kept_readLoop n (packets (m.pmtu n) o.data.length) o m
        exact Kept.ite ((hread.trans (Kept.of_eq (n := Fjoek.owedLeft _ _ _ _) rfl rfl)).trans (ih _)) (hread.trans (kept_setQp _ _ _))
      · exact ((kept_sendPacket m n _ _ _ _ _ _).trans (Kept.of_eq (n := Fjoek.owedLeft _ _ _ _) rfl rfl)).trans (ih _)
      · refine Kept.trans ?_ (ih _)
        refine (kept_setQp m n { m.qp n with owed := r }).trans ?_
        split
        · exact (kept_sendAck _ _).trans (kept_unuseKey _ _)
        · exact Kept.ite (kept_sendAck _ _) (Kept.refl _)

theorem kept_dueLoop (n k : Nat) (m : Fjoek) : Kept m (dueLoop n k m) := by
  induction k generalizing m with
  | zero => exact Kept.refl m
  | succ k ih =>
    unfold dueLoop
    split
    · exact Kept.ite (((kept_setQp _ _ _).trans (kept_enqueue _ _ _ _)).trans (ih _)) (Kept.refl m)
    · exact Kept.refl m

theorem kept_arrived (m : Fjoek) (n w : Nat) (data : Option (List Byte)) : Kept m (m.arrived n w data) := by
  unfold Fjoek.arrived
  exact ((kept_setQp m n _).trans (kept_owedLoop n _ _)).trans (kept_dueLoop n _ _)

theorem kept_mirrorAcked (m : Fjoek) (id : Nat) : Kept m (m.mirrorAcked id) := by
  unfold Fjoek.mirrorAcked
  refine Kept.from (Kept.each _ _ (fun n _ m => ?_) _) rfl rfl
  exact Kept.ite (kept_arrived m n _ none) (Kept.refl m)

end Sys2Proof.Machine
end

section
/-! PROOFS. How a command of the pair ends, and what a lead that goes solo, a trailing twin that stops and a command's code leave. -/

namespace Sys2Proof.Machine

/-! ## The end of a command of the pair -/

theorem on_apply (s : State) (f : Fjoek → Fjoek) : s.on f = .next (s.settle (f s.m)) := rfl

theorem on_effect {s : State} {f : Fjoek → Fjoek} {n : Fjoek} (h : f s.m = n) : s.on f = .next (s.settle n) := by
  rw [on_apply, h]

/-- What holds of every module that the end of the command leaves of `n` holds where the command ends. -/
theorem ends_settled {c : Instr} {s : State} {n : Fjoek} {P : Fjoek → Prop} (h : exec c s = .next (s.settle n))
    (hP : ∀ t, Noted n.unburnt t → Kept n t → P t) : Ends c s P :=
  ⟨s.settle n, h, rfl, hP _ (settle_noted s n) (kept_settle s n)⟩

theorem ends_kept {c : Instr} {s : State} {f : Fjoek → Fjoek} {n : Fjoek} {P : Fjoek → Prop} (h : exec c s = s.on f) (hn : f s.m = n)
    (hP : ∀ t, Noted n.unburnt t → Kept n t → P t) : Ends c s P :=
  ends_settled (h.trans (on_effect hn)) hP

theorem does_settled {c : Instr} {s : State} {n : Fjoek} (h : exec c s = .next (s.settle n)) : Does c s n :=
  does_of c s n n h (Noted.refl n)

theorem does_on {c : Instr} {s : State} {f : Fjoek → Fjoek} {n : Fjoek} (h : exec c s = s.on f) (hn : f s.m = n) : Does c s n :=
  does_settled (h.trans (on_effect hn))

/-- A field of the TWIN block's state that latching and counting keep. -/
theorem Noted.field {α : Type} {m n : Fjoek} (h : Noted m.unburnt n) (g : Twin → α)
    (hg : ∀ t a b c d, g { t with nextSeq := a, log := b, own := c, held := d } = g t := by intros; rfl) : g n.twin = g m.twin := by
  rw [h.twin, hg]
  rfl

/-! ## Reading fields -/

/-- Fields are of the registers alone. -/
theorem Fjoek.get_of_regs {m n : Fjoek} (f : Fld) (h : n.regs = m.regs) : n.get f = m.get f := by
  unfold Fjoek.get Fjoek.reg
  rw [h]

theorem Fjoek.isOn_of_regs {m n : Fjoek} (f : Fld) (h : n.regs = m.regs) : n.isOn f = m.isOn f := by
  unfold Fjoek.isOn
  rw [Fjoek.get_of_regs f h]

@[simp] theorem Fjoek.isOn_unburnt (m : Fjoek) (f : Fld) : m.unburnt.isOn f = m.isOn f := Fjoek.isOn_of_regs f rfl

@[simp] theorem Fjoek.get_unburnt (m : Fjoek) (f : Fld) : m.unburnt.get f = m.get f := Fjoek.get_of_regs f rfl

@[simp] theorem Fjoek.isOn_setTwin (m : Fjoek) (t : Twin) (f : Fld) : (m.setTwin t).isOn f = m.isOn f := Fjoek.isOn_of_regs f rfl

@[simp] theorem Fjoek.get_setTwin (m : Fjoek) (t : Twin) (f : Fld) : (m.setTwin t).get f = m.get f := Fjoek.get_of_regs f rfl

@[simp] theorem Fjoek.get_mngl (m : Fjoek) (q : Mngl) (f : Fld) : ({ m with mngl := q } : Fjoek).get f = m.get f := Fjoek.get_of_regs f rfl

theorem Fjoek.twin_setTwin (m : Fjoek) (t : Twin) : (m.setTwin t).twin = t := rfl

theorem Fjoek.twin_put (m : Fjoek) (f : Fld) (v : Nat) : (m.put f v).twin = m.twin := rfl

theorem Fjoek.twin_count (m : Fjoek) (a n : Nat) : (m.count a n).twin = m.twin := rfl

theorem Fjoek.seam_setTwin (m : Fjoek) (t : Twin) : (m.setTwin t).seam = m.seam := rfl

theorem Fjoek.mngl_setTwin (m : Fjoek) (t : Twin) : (m.setTwin t).mngl = m.mngl := rfl

theorem Fjoek.out_setTwin (m : Fjoek) (t : Twin) : (m.setTwin t).out = m.out := rfl

theorem Fjoek.out_unburnt (m : Fjoek) : m.unburnt.out = m.out := rfl

/-- What a command sent stands first in what the module has sent. -/
theorem Noted.sent {m t : Fjoek} (h : Noted m.unburnt t) {o : List OutMsg} (ho : ∃ l, m.out = o ++ l) : ∃ l, t.out = o ++ l := by
  obtain ⟨l, hl⟩ := ho
  obtain ⟨r, hr⟩ := h.out
  exact ⟨l ++ r, by rw [hr, Fjoek.out_unburnt, hl, List.append_assoc]⟩

theorem Fjoek.regs_setTwin (m : Fjoek) (t : Twin) : (m.setTwin t).regs = m.regs := rfl

theorem Fjoek.regs_put {m n : Fjoek} (f : Fld) (v : Nat) (h : n.regs = m.regs) : (n.put f v).regs = (m.put f v).regs := by
  unfold Fjoek.put Fjoek.setReg Fjoek.reg
  rw [h]

theorem Fjoek.seam_put (m : Fjoek) (f : Fld) (v : Nat) : (m.put f v).seam = m.seam := rfl

theorem Fjoek.mngl_put (m : Fjoek) (f : Fld) (v : Nat) : (m.put f v).mngl = m.mngl := rfl

theorem Fjoek.seam_setReg64 (m : Fjoek) (a v : Nat) : (m.setReg64 a v).seam = m.seam := rfl

theorem Fjoek.mngl_setReg64 (m : Fjoek) (a v : Nat) : (m.setReg64 a v).mngl = m.mngl := rfl

theorem Fjoek.out_put (m : Fjoek) (f : Fld) (v : Nat) : (m.put f v).out = m.out := rfl

theorem Fjoek.free_put (m : Fjoek) (f : Fld) (v : Nat) : (m.put f v).free = m.free := rfl

theorem Fjoek.isOn_put_clear (m : Fjoek) (f : Fld) (h : f.ok = true) : (m.put f 0).isOn f = false := by
  unfold Fjoek.isOn
  rw [Fjoek.get_put_same _ _ _ h, Nat.zero_mod]
  rfl

theorem Fjoek.isOn_put_bnat (m : Fjoek) (f : Fld) (b : Bool) (h : f.ok = true) (h1 : f.hi = f.lo) : (m.put f (bnat b)).isOn f = b := by
  cases b
  · exact m.isOn_put_clear f h
  · exact m.isOn_put_same f h h1

theorem Fjoek.get_count_ne (m : Fjoek) (a n : Nat) (f : Fld) (h : f.addr ≠ a) (h' : f.addr ≠ a + 4) : (m.count a n).get f = m.get f := by
  unfold Fjoek.get
  rw [Fjoek.reg_count_ne m a n h h']

theorem Fjoek.isOn_count_ne (m : Fjoek) (a n : Nat) (f : Fld) (h : f.addr ≠ a) (h' : f.addr ≠ a + 4) :
    (m.count a n).isOn f = m.isOn f := by
  unfold Fjoek.isOn
  rw [Fjoek.get_count_ne m a n f h h']

/-! ## Codes -/

/-- The module's twin command has ended with code `c`. -/
def Fjoek.endedWith (n : Fjoek) (c : Nat) : Prop := n.isOn TWIN_CMDSTAT_busy = false ∧ n.get TWIN_CMDSTAT_code = c

theorem Kept.endedWith {m n : Fjoek} (h : Kept m n) {c : Nat} (hc : m.endedWith c) : n.endedWith c := by
  unfold Fjoek.endedWith
  rw [h.isOn _ (by decide), h.get _ (by decide)]
  exact hc

theorem twinEnd_quiet (m : Fjoek) (c : Nat) : m.twinEnd c false = (m.put TWIN_CMDSTAT_busy 0).put TWIN_CMDSTAT_code c := rfl

/-- A command that fails latches its bit of TWIN_ESTAT. -/
theorem kept_twinEnd_latched (m : Fjoek) (c : Nat) :
    Kept (((m.put TWIN_CMDSTAT_busy 0).put TWIN_CMDSTAT_code c).put TWIN_ESTAT_resync 1) (m.twinEnd c true) := by
  unfold Fjoek.twinEnd Fjoek.when
  rw [if_pos rfl]
  exact kept_cause_set _ _ _ (by decide) rfl

theorem twin_twinEnd (m : Fjoek) (c : Nat) : (m.twinEnd c false).twin = m.twin := by
  rw [twinEnd_quiet, Fjoek.twin_put, Fjoek.twin_put]

theorem endedWith_puts (m : Fjoek) {c : Nat} (hc : c < 256) : ((m.put TWIN_CMDSTAT_busy 0).put TWIN_CMDSTAT_code c).endedWith c := by
  constructor
  · rw [Fjoek.isOn_put_apart _ _ _ _ (by decide) (by decide) (by decide), Fjoek.isOn_put_clear _ _ (by decide)]
  · rw [Fjoek.get_put_same _ _ _ (by decide)]
    exact Nat.mod_eq_of_lt hc

theorem endedWith_twinEnd (m : Fjoek) {c : Nat} (hc : c < 256) (e : Bool) : (m.twinEnd c e).endedWith c := by
  cases e
  · exact endedWith_puts m hc
  · refine (kept_twinEnd_latched m c).endedWith ?_
    have h := endedWith_puts m hc
    unfold Fjoek.endedWith
    rw [Fjoek.isOn_put_apart _ _ _ _ (by decide) (by decide) (by decide), Fjoek.get_put_apart _ _ _ _ (by decide) (by decide) (by decide)]
    exact h

theorem isOn_resync_twinEnd (m : Fjoek) (c : Nat) : (m.twinEnd c true).isOn TWIN_ESTAT_resync = true := by
  rw [(kept_twinEnd_latched m c).isOn _ (by decide), Fjoek.isOn_put_same _ _ (by decide) rfl]

theorem twin_failed (m : Fjoek) (c : Nat) :
    (((m.put TWIN_CMDSTAT_busy 0).put TWIN_CMDSTAT_code c).put TWIN_ESTAT_resync 1).twin = m.twin := by
  rw [Fjoek.twin_put, Fjoek.twin_put, Fjoek.twin_put]

theorem stopped_twinEnd (m : Fjoek) (c : Nat) (e : Bool) : (m.twinEnd c e).twin.stopped = m.twin.stopped := by
  cases e
  · rw [twin_twinEnd]
  · exact ((kept_twinEnd_latched m c).field Twin.stopped).trans (congrArg Twin.stopped (twin_failed m c))

/-- What is of the pair, and neither of the command's status nor the bit of a failed command, stays. -/
theorem get_twinEnd (m : Fjoek) (c : Nat) (e : Bool) (f : Fld) (hf : f.ok = true) (hp : f.addr ∈ pairRegs)
    (hs : f.addr ≠ TWIN_CMDSTAT_busy.addr) (hr : TWIN_ESTAT_resync.apart f = true) : (m.twinEnd c e).get f = m.get f := by
  have hquiet : ((m.put TWIN_CMDSTAT_busy 0).put TWIN_CMDSTAT_code c).get f = m.get f :=
    (Fjoek.get_setReg_ne _ _ _ _ hs).trans (Fjoek.get_setReg_ne _ _ _ _ hs)
  cases e
  · exact hquiet
  · rw [(kept_twinEnd_latched m c).get f hp, Fjoek.get_put_apart _ _ _ _ (by decide) hf hr, hquiet]

theorem isOn_twinEnd (m : Fjoek) (c : Nat) (e : Bool) (f : Fld) (hf : f.ok = true) (hp : f.addr ∈ pairRegs)
    (hs : f.addr ≠ TWIN_CMDSTAT_busy.addr) (hr : TWIN_ESTAT_resync.apart f = true) : (m.twinEnd c e).isOn f = m.isOn f := by
  unfold Fjoek.isOn
  rw [get_twinEnd m c e f hf hp hs hr]

/-! ## Solo -/

/-- The module leads alone (R22, R57). -/
def Fjoek.leadsAlone (n : Fjoek) : Prop := n.isOn TWIN_STAT_role = true ∧ n.isOn TWIN_STAT_sync = false ∧ n.isOn TWIN_STAT_solo = true ∧
  n.get TWIN_STAT_phase = 0 ∧ n.isOn SEAM_CTL_instep = false ∧ n.twin.log = [] ∧ n.twin.frozen = false

/-- A module out of step with its pair leads no twin, so that nothing is logged. -/
theorem leads_of_unsynced {m : Fjoek} (h : m.isOn TWIN_STAT_sync = false) : m.leads = false := by
  unfold Fjoek.leads
  rw [h]
  simp

theorem Kept.leadsAlone {m n : Fjoek} (h : Kept m n) (hs : m.leadsAlone) : n.leadsAlone := by
  obtain ⟨hrole, hsync, hsolo, hphase, hstep, hlog, hfrozen⟩ := hs
  refine ⟨?_, ?_, ?_, ?_, ?_, ?_, ?_⟩
  · rw [h.isOn _ (by decide), hrole]
  · rw [h.isOn _ (by decide), hsync]
  · rw [h.isOn _ (by decide), hsolo]
  · rw [h.get _ (by decide), hphase]
  · rw [h.isOn _ (by decide), hstep]
  · rw [h.quiet (leads_of_unsynced hsync), hlog]
  · exact (h.field Twin.frozen).trans hfrozen

/-- The registers of a module that goes solo. -/
def Fjoek.soloRegs (m : Fjoek) : Fjoek :=
  ((((m.put TWIN_STAT_role 1).put TWIN_STAT_sync 0).put TWIN_STAT_solo 1).put TWIN_STAT_phase 0).put SEAM_CTL_instep 0

/-- The module as it goes solo, before its held outputs leave and what waited for a trailing twin goes on. -/
def Fjoek.soloState (m : Fjoek) : Fjoek :=
  let m := m.soloRegs
  let m := m.setTwin { m.twin with
    log := [], frozen := false, swapping := false, swapSeq := none, dispatchStopped := false, retryDue := false, own := []
    peer := [], uncompared := [], stopped := false, shadow := [] }
  { m with mngl := { m.mngl with prints := [] } }

theorem Fjoek.get_soloState (m : Fjoek) (f : Fld) : m.soloState.get f = m.soloRegs.get f := by
  unfold Fjoek.soloState
  simp only [Fjoek.get_mngl, Fjoek.get_setTwin]

theorem Fjoek.isOn_soloState (m : Fjoek) (f : Fld) : m.soloState.isOn f = m.soloRegs.isOn f := by
  unfold Fjoek.isOn
  rw [Fjoek.get_soloState]

theorem goSolo_eq (m : Fjoek) : m.goSolo =
    (m.soloState.commitOutputs.settleFences.each m.soloState.commitOutputs.settleFences.thim.copies
      fun id m => m.mirrorAcked id).dispatch := by
  unfold Fjoek.goSolo Fjoek.leaveInstep Fjoek.soloState Fjoek.soloRegs
  rfl

theorem kept_goSolo (m : Fjoek) : Kept m.soloState.commitOutputs m.goSolo := by
  rw [goSolo_eq]
  refine Kept.trans ?_ (kept_dispatch _)
  exact (kept_settleFences _).trans (Kept.each _ _ (fun id _ m => kept_mirrorAcked m id) _)

theorem Fjoek.reg_commitOutputs (m : Fjoek) (a : Nat) : m.commitOutputs.reg a = m.reg a := by
  unfold Fjoek.commitOutputs
  split
  · rfl
  · rfl

theorem Fjoek.get_commitOutputs (m : Fjoek) (f : Fld) : m.commitOutputs.get f = m.get f := by
  unfold Fjoek.get
  rw [Fjoek.reg_commitOutputs]

theorem Fjoek.isOn_commitOutputs (m : Fjoek) (f : Fld) : m.commitOutputs.isOn f = m.isOn f := by
  unfold Fjoek.isOn
  rw [Fjoek.get_commitOutputs]

theorem Fjoek.twin_commitOutputs (m : Fjoek) : m.commitOutputs.twin = { m.twin with held := m.commitOutputs.twin.held } := by
  unfold Fjoek.commitOutputs
  split
  · rfl
  · rfl

/-- A field of another register, and one of TWIN_STAT beside role, sync, solo and phase, is as before. -/
theorem get_goSolo (m : Fjoek) (f : Fld) (hf : f.ok = true) (hp : f.addr ∈ pairRegs) (h : ∀ g ∈ [TWIN_STAT_role, TWIN_STAT_sync,
    TWIN_STAT_solo, TWIN_STAT_phase, SEAM_CTL_instep], g.apart f = true) : m.goSolo.get f = m.get f := by
  simp only [List.mem_cons, List.not_mem_nil, or_false, forall_eq_or_imp, forall_eq] at h
  obtain ⟨hrole, hsync, hsolo, hphase, hstep⟩ := h
  rw [(kept_goSolo m).get f hp, Fjoek.get_commitOutputs, Fjoek.get_soloState]
  unfold Fjoek.soloRegs
  rw [Fjoek.get_put_apart _ _ _ _ (by decide) hf hstep, Fjoek.get_put_apart _ _ _ _ (by decide) hf hphase,
    Fjoek.get_put_apart _ _ _ _ (by decide) hf hsolo, Fjoek.get_put_apart _ _ _ _ (by decide) hf hsync,
    Fjoek.get_put_apart _ _ _ _ (by decide) hf hrole]

theorem isOn_goSolo (m : Fjoek) (f : Fld) (hf : f.ok = true) (hp : f.addr ∈ pairRegs) (h : ∀ g ∈ [TWIN_STAT_role, TWIN_STAT_sync,
    TWIN_STAT_solo, TWIN_STAT_phase, SEAM_CTL_instep], g.apart f = true) : m.goSolo.isOn f = m.isOn f := by
  unfold Fjoek.isOn
  rw [get_goSolo m f hf hp h]

theorem endedWith_goSolo {m : Fjoek} {c : Nat} (h : m.endedWith c) : m.goSolo.endedWith c := by
  unfold Fjoek.endedWith
  rw [isOn_goSolo _ _ (by decide) (by decide) (by decide), get_goSolo _ _ (by decide) (by decide) (by decide)]
  exact h

theorem goSolo_leadsAlone (m : Fjoek) : m.goSolo.leadsAlone := by
  refine (kept_goSolo m).leadsAlone ?_
  unfold Fjoek.leadsAlone
  rw [Fjoek.twin_commitOutputs]
  simp only [Fjoek.isOn_commitOutputs, Fjoek.get_commitOutputs, Fjoek.isOn_soloState, Fjoek.get_soloState, Fjoek.soloRegs]
  refine ⟨?_, ?_, ?_, ?_, ?_, ?_, ?_⟩
  case refine_6 | refine_7 => rfl
  all_goals simp (disch := decide) only [Fjoek.isOn_put_apart, Fjoek.isOn_put_same, Fjoek.isOn_put_clear, Fjoek.get_put_apart,
    Fjoek.get_put_same, Nat.zero_mod]

theorem twinEnd_quiet_leadsAlone {m : Fjoek} (c : Nat) (h : m.leadsAlone) : (m.twinEnd c false).leadsAlone := by
  obtain ⟨hrole, hsync, hsolo, hphase, hstep, hlog, hfrozen⟩ := h
  refine ⟨?_, ?_, ?_, ?_, ?_, (congrArg Twin.log (twin_twinEnd m c)).trans hlog,
    (congrArg Twin.frozen (twin_twinEnd m c)).trans hfrozen⟩
  · rw [isOn_twinEnd _ _ _ _ (by decide) (by decide) (by decide) (by decide), hrole]
  · rw [isOn_twinEnd _ _ _ _ (by decide) (by decide) (by decide) (by decide), hsync]
  · rw [isOn_twinEnd _ _ _ _ (by decide) (by decide) (by decide) (by decide), hsolo]
  · rw [get_twinEnd _ _ _ _ (by decide) (by decide) (by decide) (by decide), hphase]
  · rw [isOn_twinEnd _ _ _ _ (by decide) (by decide) (by decide) (by decide), hstep]

/-! ## Stop -/

/-- The module is a trailing twin out of step, which issues nothing (R57). -/
def Fjoek.trailsStopped (n : Fjoek) : Prop := n.isOn TWIN_STAT_sync = false ∧ n.get TWIN_STAT_phase = 0 ∧ n.isOn SEAM_CTL_instep = false ∧
  n.twin.stopped = true ∧ n.twin.ring = []

theorem Kept.trailsStopped {m n : Fjoek} (h : Kept m n) (hs : m.trailsStopped) : n.trailsStopped := by
  obtain ⟨hsync, hphase, hstep, hstopped, hring⟩ := hs
  refine ⟨?_, ?_, ?_, ?_, ?_⟩
  · rw [h.isOn _ (by decide), hsync]
  · rw [h.get _ (by decide), hphase]
  · rw [h.isOn _ (by decide), hstep]
  · exact (h.field Twin.stopped).trans hstopped
  · exact (h.field Twin.ring).trans hring

theorem twinStop_trailsStopped (m : Fjoek) : m.twinStop.trailsStopped := by
  unfold Fjoek.twinStop Fjoek.leaveInstep
  refine ⟨?_, ?_, ?_, congrArg Twin.stopped (Fjoek.twin_setTwin _ _), congrArg Twin.ring (Fjoek.twin_setTwin _ _)⟩
  all_goals simp (disch := decide) only [Fjoek.isOn_setTwin, Fjoek.get_setTwin, Fjoek.isOn_put_apart, Fjoek.isOn_put_clear,
    Fjoek.get_put_apart, Fjoek.get_put_same, Nat.zero_mod]

theorem isOn_twinStop (m : Fjoek) (f : Fld) (hf : f.ok = true) (h : ∀ g ∈ [TWIN_STAT_sync, TWIN_STAT_phase, SEAM_CTL_instep],
    g.apart f = true) : m.twinStop.isOn f = m.isOn f := by
  simp only [List.mem_cons, List.not_mem_nil, or_false, forall_eq_or_imp, forall_eq] at h
  obtain ⟨hsync, hphase, hstep⟩ := h
  unfold Fjoek.twinStop Fjoek.leaveInstep
  rw [Fjoek.isOn_setTwin, Fjoek.isOn_put_apart _ _ _ _ (by decide) hf hstep, Fjoek.isOn_put_apart _ _ _ _ (by decide) hf hphase,
    Fjoek.isOn_put_apart _ _ _ _ (by decide) hf hsync]

theorem twinEnd_quiet_trailsStopped {m : Fjoek} (c : Nat) (h : m.trailsStopped) : (m.twinEnd c false).trailsStopped := by
  obtain ⟨hsync, hphase, hstep, hstopped, hring⟩ := h
  refine ⟨?_, ?_, ?_, (congrArg Twin.stopped (twin_twinEnd m c)).trans hstopped, (congrArg Twin.ring (twin_twinEnd m c)).trans hring⟩
  · rw [isOn_twinEnd _ _ _ _ (by decide) (by decide) (by decide) (by decide), hsync]
  · rw [get_twinEnd _ _ _ _ (by decide) (by decide) (by decide) (by decide), hphase]
  · rw [isOn_twinEnd _ _ _ _ (by decide) (by decide) (by decide) (by decide), hstep]

end Sys2Proof.Machine
end

section
/-! PROOFS. Pairing, separation, a planned swap and the heartbeat: the clauses of O42 whose commands touch the pair's registers alone. -/

namespace Sys2Proof.Machine

/-! ## Separation -/

section Separation
variable {s : State} (htwin : s.m.inTwin = true) (hidle : s.m.isOn TWIN_CMDSTAT_busy = false)
include htwin hidle

theorem breakPair_synced (hsync : s.m.isOn TWIN_STAT_sync = true) : s.m.breakPair = s.m.separate.twinEnd 0 false := by
  unfold Fjoek.breakPair
  rw [if_neg (by simp [htwin, hidle]), if_pos hsync]

theorem ends_break_lead (hsync : s.m.isOn TWIN_STAT_sync = true) (hrole : s.m.isOn TWIN_STAT_role = true) :
    Ends .break_ s fun n => n.leadsAlone ∧ n.endedWith 0 := by
  have hn : s.m.breakPair = s.m.goSolo.twinEnd 0 false := by
    rw [breakPair_synced htwin hidle hsync, Fjoek.separate, if_pos hrole]
  exact ends_kept rfl hn fun t _ hk => ⟨hk.leadsAlone (twinEnd_quiet_leadsAlone 0 (goSolo_leadsAlone _)),
    hk.endedWith (endedWith_twinEnd _ (by decide) false)⟩

theorem ends_break_trailing (hsync : s.m.isOn TWIN_STAT_sync = true) (hrole : s.m.isOn TWIN_STAT_role = false) :
    Ends .break_ s fun n => n.trailsStopped ∧ n.endedWith 0 := by
  have hn : s.m.breakPair = s.m.twinStop.twinEnd 0 false := by
    rw [breakPair_synced htwin hidle hsync, Fjoek.separate, if_neg (by simp [hrole])]
  exact ends_kept rfl hn fun t _ hk => ⟨hk.trailsStopped (twinEnd_quiet_trailsStopped 0 (twinStop_trailsStopped _)),
    hk.endedWith (endedWith_twinEnd _ (by decide) false)⟩

theorem does_break_unsynced (hsync : s.m.isOn TWIN_STAT_sync = false) :
    Does .break_ s ((s.m.put TWIN_CMDSTAT_busy 0).put TWIN_CMDSTAT_code 1) := by
  refine does_on rfl (?_ : s.m.breakPair = _)
  unfold Fjoek.breakPair
  rw [if_neg (by simp [htwin, hidle]), if_neg (by simp [hsync]), twinEnd_quiet]

end Separation

/-! ## A planned swap -/

section Swap
variable {s : State} (htwin : s.m.inTwin = true) (hidle : s.m.isOn TWIN_CMDSTAT_busy = false)
include htwin hidle

theorem does_swap_unserving (hp : s.m.power ≠ 4) : Does .swap s ((s.m.put TWIN_CMDSTAT_busy 0).put TWIN_CMDSTAT_code 5) := by
  refine does_on rfl (?_ : s.m.swap = _)
  unfold Fjoek.swap
  rw [if_neg (by simp [htwin, hidle]), if_pos hp, twinEnd_quiet]

variable (hp : s.m.power = 4)
include hp

theorem does_swap_unlinked (hlink : ¬s.m.isOn TWIN_STAT_link = true) :
    Does .swap s ((s.m.put TWIN_CMDSTAT_busy 0).put TWIN_CMDSTAT_code 2) := by
  refine does_on rfl (?_ : s.m.swap = _)
  unfold Fjoek.swap
  rw [if_neg (by simp [htwin, hidle]), if_neg (not_not_intro hp), if_pos (by simp [hlink]), twinEnd_quiet]

variable (hlink : s.m.isOn TWIN_STAT_link = true)
include hlink

theorem does_swap_unled (h : s.m.leads = false ∨ s.m.get TWIN_STAT_phase ≠ 4) :
    Does .swap s ((s.m.put TWIN_CMDSTAT_busy 0).put TWIN_CMDSTAT_code 1) := by
  refine does_on rfl (?_ : s.m.swap = _)
  unfold Fjoek.swap
  rw [if_neg (by simp [htwin, hidle]), if_neg (not_not_intro hp), if_neg (by simp [hlink]), if_pos (by simpa using h), twinEnd_quiet]

end Swap

/-- A lead's record stands last in its log. -/
theorem twin_logTwin (m : Fjoek) (k t : Nat) (p : List Nat) (h : m.leads = true) :
    (m.logTwin k t p).twin = { m.twin with
      nextSeq := m.twin.nextSeq + 1
      log := m.twin.log ++ [⟨k, t, if t < 64 then m.nextRound t else 0, m.twin.nextSeq, p⟩] } := by
  unfold Fjoek.logTwin
  rw [if_pos h]
  rfl

/-- A lead that swaps, before the drained point. -/
def Fjoek.swapBegun (m : Fjoek) : Fjoek :=
  (m.put TWIN_CMDSTAT_busy 1).setTwin { m.twin with swapping := true, dispatchStopped := true }

theorem swap_begins {m : Fjoek} (htwin : m.inTwin = true) (hidle : m.isOn TWIN_CMDSTAT_busy = false) (hp : m.power = 4)
    (hlink : m.isOn TWIN_STAT_link = true) (hleads : m.leads = true) (hph : m.get TWIN_STAT_phase = 4) : m.swap = m.swapBegun.swapPoint := by
  unfold Fjoek.swap Fjoek.swapBegun
  rw [if_neg (by simp [htwin, hidle]), if_neg (not_not_intro hp), if_neg (by simp [hlink]), if_neg (by simp [hleads, hph])]

theorem leads_swapBegun (m : Fjoek) : m.swapBegun.leads = m.leads := by
  unfold Fjoek.swapBegun Fjoek.leads
  simp (disch := decide) only [Fjoek.isOn_setTwin, Fjoek.get_setTwin, Fjoek.isOn_put_apart, Fjoek.get_put_apart]

/-- Whether the module is drained is a matter of the strands and of MNGL alone. -/
theorem allDrained_of_eq {m n : Fjoek} (hs : n.seam = m.seam) (hm : n.mngl = m.mngl) : n.allDrained = m.allDrained := by
  unfold Fjoek.allDrained Fjoek.drained Fjoek.strand Fjoek.descsOf Fjoek.leasesOf
  rw [hs, hm]

theorem allDrained_swapBegun (m : Fjoek) : m.swapBegun.allDrained = m.allDrained := by
  unfold Fjoek.swapBegun
  exact allDrained_of_eq ((Fjoek.seam_setTwin _ _).trans (m.seam_put _ _)) ((Fjoek.mngl_setTwin _ _).trans (m.mngl_put _ _))

theorem twin_swapBegun (m : Fjoek) : m.swapBegun.twin = { m.twin with swapping := true, dispatchStopped := true } := by
  unfold Fjoek.swapBegun
  rw [Fjoek.twin_setTwin]

/-- The drained point logs a SWAP record with the next seq. -/
theorem twin_swapPoint {m : Fjoek} (hleads : m.leads = true) (h : m.allDrained = true) (hseq : m.twin.swapSeq = none) :
    m.swapPoint.twin = { m.twin with
      nextSeq := m.twin.nextSeq + 1, log := m.twin.log ++ [⟨0x10, 0xFF, 0, m.twin.nextSeq, []⟩], swapSeq := some m.twin.nextSeq } := by
  unfold Fjoek.swapPoint
  rw [if_neg (by simp [h, hseq])]
  show (Fjoek.setTwin _ _).twin = _
  rw [Fjoek.twin_setTwin, twin_logTwin _ _ _ _ hleads]
  rfl

theorem isOn_swapPoint (m : Fjoek) (f : Fld) (hf : f.addr ∈ pairRegs) : m.swapPoint.isOn f = m.isOn f := by
  unfold Fjoek.swapPoint
  split
  · rfl
  · exact (Fjoek.isOn_setTwin _ _ _).trans ((kept_logTwin _ _ _ _).isOn f hf)

theorem ends_swap {s : State} (htwin : s.m.inTwin = true) (hidle : s.m.isOn TWIN_CMDSTAT_busy = false) (hp : s.m.power = 4)
    (hlink : s.m.isOn TWIN_STAT_link = true) (hleads : s.m.leads = true) (hph : s.m.get TWIN_STAT_phase = 4)
    (hdrained : s.m.allDrained = true) (hseq : s.m.twin.swapSeq = none) : Ends .swap s fun n => n.isOn TWIN_CMDSTAT_busy = true ∧
      n.twin.swapping = true ∧ n.twin.dispatchStopped = true ∧ n.twin.swapSeq = some s.m.twin.nextSeq ∧
      ∃ l, n.twin.log = s.m.twin.log ++ [⟨0x10, 0xFF, 0, s.m.twin.nextSeq, []⟩] ++ l := by
  have hn := swap_begins htwin hidle hp hlink hleads hph
  have htw := twin_swapPoint ((leads_swapBegun s.m).trans hleads) ((allDrained_swapBegun _).trans hdrained)
    ((congrArg Twin.swapSeq (twin_swapBegun _)).trans hseq)
  rw [twin_swapBegun] at htw
  refine ends_kept rfl hn fun t _ hk => ⟨?_, ?_, ?_, ?_, ?_⟩
  · rw [hk.isOn _ (by decide), isOn_swapPoint _ _ (by decide), Fjoek.swapBegun, Fjoek.isOn_setTwin,
      Fjoek.isOn_put_same _ _ (by decide) rfl]
  · exact (hk.field Twin.swapping).trans (congrArg Twin.swapping htw)
  · exact (hk.field Twin.dispatchStopped).trans (congrArg Twin.dispatchStopped htw)
  · exact (hk.field Twin.swapSeq).trans (congrArg Twin.swapSeq htw)
  · obtain ⟨l, hl⟩ := hk.log
    exact ⟨l, hl.trans (congrArg (· ++ l) (congrArg Twin.log htw))⟩

end Sys2Proof.Machine
end

section
/-! PROOFS. Pairing and the start of a resync. -/

namespace Sys2Proof.Machine

/-! ## The copy -/

/-- The module that has sent the messages of a list. -/
def Fjoek.sends (m : Fjoek) (l : List OutMsg) : Fjoek := { m with out := m.out ++ l }

theorem Fjoek.regs_sends (m : Fjoek) (l : List OutMsg) : (m.sends l).regs = m.regs := rfl

theorem Fjoek.twin_sends (m : Fjoek) (l : List OutMsg) : (m.sends l).twin = m.twin := rfl

theorem Fjoek.mngl_sends (m : Fjoek) (l : List OutMsg) : (m.sends l).mngl = m.mngl := rfl

theorem Fjoek.out_sends (m : Fjoek) (l : List OutMsg) : (m.sends l).out = m.out ++ l := rfl

theorem sends_sends (m : Fjoek) (l r : List OutMsg) : (m.sends l).sends r = m.sends (l ++ r) := by
  unfold Fjoek.sends
  rw [List.append_assoc]

theorem each_send {α : Type} (l : List α) (g : α → OutMsg) (m : Fjoek) : (m.each l fun x m => m.send (g x)) = m.sends (l.map g) := by
  unfold Fjoek.each
  induction l generalizing m with
  | nil => simp [Fjoek.sends]
  | cons x r ih =>
    rw [List.foldl_cons, ih]
    exact sends_sends m [g x] _

/-- A module that begins to copy, before its messages. -/
def Fjoek.copyBegun (m : Fjoek) : Fjoek := (m.put TWIN_STAT_phase 2).setTwin { m.twin with rewritten := [], retryDue := false }

theorem twin_copyBegun (m : Fjoek) : m.copyBegun.twin = { m.twin with rewritten := [], retryDue := false } := by
  unfold Fjoek.copyBegun
  rw [Fjoek.twin_setTwin]

theorem mngl_copyBegun (m : Fjoek) : m.copyBegun.mngl = m.mngl := by
  unfold Fjoek.copyBegun
  rw [Fjoek.mngl_setTwin, Fjoek.mngl_put]

theorem out_copyBegun (m : Fjoek) : m.copyBegun.out = m.out := by
  unfold Fjoek.copyBegun
  rw [Fjoek.out_setTwin, Fjoek.out_put]

/-- Messages follow, and change nothing else in the module. -/
theorem startCopy_eq (m : Fjoek) : ∃ l, m.startCopy = m.copyBegun.sends ([.twinMsg 0x10 [4]] ++ l) := by
  unfold Fjoek.startCopy Fjoek.copyBegun
  simp only [each_send]
  exact ⟨_, sends_sends _ [.twinMsg 0x10 [4]] _⟩

theorem regs_startCopy (m : Fjoek) : m.startCopy.regs = (m.put TWIN_STAT_phase 2).regs := by
  obtain ⟨l, h⟩ := startCopy_eq m
  rw [h, Fjoek.regs_sends, Fjoek.copyBegun, Fjoek.regs_setTwin]

theorem twin_startCopy (m : Fjoek) : m.startCopy.twin = { m.twin with rewritten := [], retryDue := false } := by
  obtain ⟨l, h⟩ := startCopy_eq m
  rw [h, Fjoek.twin_sends, twin_copyBegun]

theorem mngl_startCopy (m : Fjoek) : m.startCopy.mngl = m.mngl := by
  obtain ⟨l, h⟩ := startCopy_eq m
  rw [h, Fjoek.mngl_sends, mngl_copyBegun]

theorem out_startCopy (m : Fjoek) : ∃ l, m.startCopy.out = m.out ++ [.twinMsg 0x10 [4]] ++ l := by
  obtain ⟨l, h⟩ := startCopy_eq m
  exact ⟨l, by rw [h, Fjoek.out_sends, out_copyBegun, List.append_assoc]⟩

/-! ## Pairing -/

/-- The digest key comes from the free values, and drawing it uses some. -/
theorem drawKey_of_free (l : List Nat) {a b : Fjoek} (h : a.free = b.free) : (drawKey l a).1 = (drawKey l b).1 := by
  induction l generalizing a b with
  | nil => rfl
  | cons p r ih =>
    unfold drawKey Fjoek.free64
    simp only [h]
    split
    · rfl
    · exact ih rfl

theorem drawKey_keeps (l : List Nat) (m : Fjoek) : (drawKey l m).2.regs = m.regs := by
  induction l generalizing m with
  | nil => rfl
  | cons p r ih =>
    unfold drawKey Fjoek.free64
    simp only
    split
    · rfl
    · exact ih _

/-- A module that has its key: the evaluation point, and the digest key. -/
def Fjoek.keyed (m : Fjoek) (k : Nat) : Fjoek :=
  let m : Fjoek := { m with mngl := { m.mngl with fpz := k % 2 ^ 64 } }
  let m := m.put MNGL_FPSTAT_zset 1
  m.setTwin { m.twin with hkey := k, diverged := 0, tries := 0, stopped := !m.isOn TWIN_STAT_role }

theorem regs_keyed (m : Fjoek) (k : Nat) : (m.keyed k).regs = (m.put MNGL_FPSTAT_zset 1).regs := by
  unfold Fjoek.keyed
  rw [Fjoek.regs_setTwin]
  exact Fjoek.regs_put _ _ rfl

theorem hkey_keyed (m : Fjoek) (k : Nat) : (m.keyed k).twin.hkey = k := by
  unfold Fjoek.keyed
  rw [Fjoek.twin_setTwin]

theorem mngl_keyed (m : Fjoek) (k : Nat) : (m.keyed k).mngl = { m.mngl with fpz := k % 2 ^ 64 } := by
  unfold Fjoek.keyed
  rw [Fjoek.mngl_setTwin, Fjoek.mngl_put]

/-- A usable draw leads on to phase 2, in which a lead copies. -/
theorem pairKeys_drawn {m : Fjoek} {draws : List Nat} {k : Nat} (h : (drawKey draws m).1 = some k) :
    let n := (drawKey draws m).2.keyed k
    m.pairKeys draws = if n.isOn TWIN_STAT_role then n.startCopy else n.put TWIN_STAT_phase 2 := by
  unfold Fjoek.pairKeys
  split
  · rename_i hd
    rw [hd] at h
    cases h
  · rename_i hd
    rw [hd] at h ⊢
    cases h
    rfl

theorem pairKeys_spec {m : Fjoek} {draws : List Nat} {k : Nat} (h : (drawKey draws m).1 = some k) :
    (m.pairKeys draws).regs = ((m.put MNGL_FPSTAT_zset 1).put TWIN_STAT_phase 2).regs ∧ (m.pairKeys draws).twin.hkey = k ∧
      (m.pairKeys draws).mngl.fpz = k % 2 ^ 64 := by
  have hn := pairKeys_drawn h
  have hregs : (((drawKey draws m).2.keyed k).put TWIN_STAT_phase 2).regs = ((m.put MNGL_FPSTAT_zset 1).put TWIN_STAT_phase 2).regs :=
    Fjoek.regs_put _ _ ((regs_keyed _ k).trans (Fjoek.regs_put _ _ (drawKey_keeps draws m)))
  simp only at hn
  rw [hn]
  split
  · rw [regs_startCopy, twin_startCopy, mngl_startCopy, mngl_keyed]
    exact ⟨hregs, hkey_keyed (drawKey draws m).2 k, rfl⟩
  · rw [Fjoek.twin_put, Fjoek.mngl_put, mngl_keyed]
    exact ⟨hregs, hkey_keyed (drawKey draws m).2 k, rfl⟩

/-- Pairing under way, in its first phase. -/
def Fjoek.pairBegun (m : Fjoek) (role : Bool) : Fjoek :=
  (((m.put TWIN_STAT_role (bnat role)).put TWIN_STAT_ceded 0).put TWIN_CMDSTAT_busy 1).put TWIN_STAT_phase 1

theorem free_pairBegun (m : Fjoek) (role : Bool) : (m.pairBegun role).free = m.free := by
  unfold Fjoek.pairBegun
  rw [Fjoek.free_put, Fjoek.free_put, Fjoek.free_put, Fjoek.free_put]

/-! ## A pairing that cannot start -/

theorem pairCode_lt (m : Fjoek) (peer : PeerInfo) : m.pairCode peer < 256 := by
  unfold Fjoek.pairCode
  repeat' split
  all_goals decide

/-- A module whose pairing is refused serves alone where neither its role nor its state says otherwise (R353). -/
def Fjoek.aloneAfter (n : Fjoek) (c : Nat) : Fjoek :=
  if n.isOn TWIN_STAT_sync ∨ n.ceded ∨ n.twin.stopped ∨ c = 1 then n
  else ((n.put TWIN_STAT_role 1).put TWIN_STAT_solo 1).when (c == 2) fun m => m.cause TWIN_ESTAT_link 464

theorem get_aloneAfter (n : Fjoek) (c : Nat) (f : Fld) (hf : f.ok = true) (hp : f.addr ∈ pairRegs) (hrole : TWIN_STAT_role.apart f = true)
    (hsolo : TWIN_STAT_solo.apart f = true) (hlink : TWIN_ESTAT_link.apart f = true) : (n.aloneAfter c).get f = n.get f := by
  have halone : ((n.put TWIN_STAT_role 1).put TWIN_STAT_solo 1).get f = n.get f := by
    rw [Fjoek.get_put_apart _ _ _ _ (by decide) hf hsolo, Fjoek.get_put_apart _ _ _ _ (by decide) hf hrole]
  unfold Fjoek.aloneAfter Fjoek.when
  split
  · rfl
  · split
    · rw [(kept_cause_set _ TWIN_ESTAT_link 464 (by decide) rfl).get f hp, Fjoek.get_put_apart _ _ _ _ (by decide) hf hlink, halone]
    · exact halone

theorem isOn_aloneAfter (n : Fjoek) (c : Nat) (f : Fld) (hf : f.ok = true) (hp : f.addr ∈ pairRegs)
    (hrole : TWIN_STAT_role.apart f = true) (hsolo : TWIN_STAT_solo.apart f = true) (hlink : TWIN_ESTAT_link.apart f = true) :
    (n.aloneAfter c).isOn f = n.isOn f := by
  unfold Fjoek.isOn
  rw [get_aloneAfter n c f hf hp hrole hsolo hlink]

/-- Without a link the module leads alone. -/
theorem aloneAfter_linkless {n : Fjoek} (hsync : n.isOn TWIN_STAT_sync = false) (hceded : n.ceded = false)
    (hstopped : n.twin.stopped = false) : (n.aloneAfter 2).isOn TWIN_STAT_role = true ∧ (n.aloneAfter 2).isOn TWIN_STAT_solo = true ∧
      (n.aloneAfter 2).isOn TWIN_ESTAT_link = true := by
  have hk := kept_cause_set ((n.put TWIN_STAT_role 1).put TWIN_STAT_solo 1) TWIN_ESTAT_link 464 (by decide) rfl
  unfold Fjoek.aloneAfter
  rw [if_neg (by simp [hsync, hceded, hstopped])]
  unfold Fjoek.when
  rw [if_pos (show (2 == 2) = true from rfl)]
  refine ⟨?_, ?_, ?_⟩
  all_goals simp (disch := decide) only [hk.isOn, Fjoek.isOn_put_apart, Fjoek.isOn_put_same]

section Pair
variable {s : State} {peer : PeerInfo} {k : Nat} (htwin : s.m.inTwin = true) (hph : s.m.get TWIN_STAT_phase ≠ 1)
  (hidle : s.m.isOn TWIN_CMDSTAT_busy = false)
include htwin hph hidle

theorem pair_allowed (hc : s.m.pairCode peer = 0) : s.m.pair peer = (s.m.pairBegun (s.m.leadRole peer)).pairKeys peer.draws := by
  unfold Fjoek.pair
  rw [if_neg (by simp [htwin]), if_neg hph, if_neg (by simp [hidle])]
  simp only [hc, Fjoek.pairBegun]
  rfl

theorem ends_pair (hc : s.m.pairCode peer = 0) (hk : (drawKey peer.draws s.m).1 = some k) :
    Ends (.pair peer) s fun n => n.twin.hkey = k ∧ n.mngl.fpz = k % 2 ^ 64 ∧ n.isOn MNGL_FPSTAT_zset = true ∧
      n.isOn TWIN_STAT_role = s.m.leadRole peer ∧ n.get TWIN_STAT_phase = 2 ∧ n.isOn TWIN_CMDSTAT_busy = true ∧
      n.isOn TWIN_STAT_ceded = false := by
  have hdraw := (drawKey_of_free peer.draws (free_pairBegun s.m (s.m.leadRole peer))).trans hk
  obtain ⟨hregs, hkey, hz⟩ := pairKeys_spec hdraw
  have hpair := pair_allowed htwin hph hidle hc
  generalize (s.m.pairBegun (s.m.leadRole peer)).pairKeys peer.draws = n at hregs hkey hz hpair
  refine ends_kept (f := fun m => m.pair peer) rfl hpair fun t hn hk => ⟨(hk.field Twin.hkey).trans hkey, ?_, ?_, ?_, ?_, ?_, ?_⟩
  · rw [hn.mngl]
    exact hz
  all_goals
    simp (disch := decide) only [hn.isOn, hn.get, Fjoek.isOn_unburnt, Fjoek.get_unburnt, Fjoek.isOn_of_regs _ hregs,
      Fjoek.get_of_regs _ hregs, Fjoek.pairBegun, Fjoek.isOn_put_apart, Fjoek.isOn_put_same, Fjoek.isOn_put_bnat, Fjoek.isOn_put_clear,
      Fjoek.get_put_same]
  rfl

theorem pair_refused (hc : s.m.pairCode peer ≠ 0) :
    s.m.pair peer = (s.m.twinEnd (s.m.pairCode peer) true).aloneAfter (s.m.pairCode peer) := by
  unfold Fjoek.pair
  rw [if_neg (by simp [htwin]), if_neg hph, if_neg (by simp [hidle])]
  exact if_pos hc

theorem ends_pair_refused (hc : s.m.pairCode peer ≠ 0) : Ends (.pair peer) s fun n => n.endedWith (s.m.pairCode peer) ∧
    n.isOn TWIN_ESTAT_resync = true ∧ (s.m.pairCode peer = 2 → s.m.isOn TWIN_STAT_sync = false → s.m.ceded = false →
      s.m.twin.stopped = false → n.isOn TWIN_STAT_role = true ∧ n.isOn TWIN_STAT_solo = true ∧ n.isOn TWIN_ESTAT_link = true) := by
  have hpair := pair_refused htwin hph hidle hc
  have hlt := pairCode_lt s.m peer
  generalize s.m.pairCode peer = c at hpair hlt
  obtain ⟨hbusy, hcode⟩ := endedWith_twinEnd s.m hlt true
  refine ends_kept (f := fun m => m.pair peer) rfl hpair fun t _ hk => ⟨hk.endedWith ⟨?_, ?_⟩, ?_, ?_⟩
  · rw [isOn_aloneAfter _ _ _ (by decide) (by decide) (by decide) (by decide) (by decide), hbusy]
  · rw [get_aloneAfter _ _ _ (by decide) (by decide) (by decide) (by decide) (by decide), hcode]
  · rw [hk.isOn _ (by decide), isOn_aloneAfter _ _ _ (by decide) (by decide) (by decide) (by decide) (by decide),
      isOn_resync_twinEnd]
  · rintro rfl hsync hceded hstopped
    obtain ⟨hrole, hsolo, hlink⟩ := aloneAfter_linkless (n := s.m.twinEnd 2 true)
      ((isOn_twinEnd _ _ _ _ (by decide) (by decide) (by decide) (by decide)).trans hsync)
      ((isOn_twinEnd _ _ _ _ (by decide) (by decide) (by decide) (by decide)).trans hceded)
      ((stopped_twinEnd _ _ _).trans hstopped)
    rw [hk.isOn _ (by decide), hk.isOn _ (by decide), hk.isOn _ (by decide)]
    exact ⟨hrole, hsolo, hlink⟩

end Pair

/-! ## The start of a resync -/

/-- The copy of a resync begins anew, with no attempt failed. -/
def Fjoek.resyncBegun (m : Fjoek) : Fjoek := (m.setTwin { m.twin with tries := 0 }).put TWIN_CMDSTAT_busy 1

theorem out_resyncBegun (m : Fjoek) : m.resyncBegun.out = m.out := by
  unfold Fjoek.resyncBegun
  rw [Fjoek.out_put, Fjoek.out_setTwin]

/-- A module that is to trail waits for its lead's copy. -/
def Fjoek.followBegun (m : Fjoek) : Fjoek :=
  let m := ((m.put TWIN_STAT_role 0).put TWIN_STAT_ceded 0).put TWIN_STAT_phase 2
  m.setTwin { m.twin with stopped := true, ring := [], held := [] }

theorem twin_followBegun (m : Fjoek) : m.followBegun.twin = { m.twin with stopped := true, ring := [], held := [] } := by
  unfold Fjoek.followBegun
  rw [Fjoek.twin_setTwin, Fjoek.twin_put, Fjoek.twin_put, Fjoek.twin_put]

section Resync
variable {s : State} (htwin : s.m.inTwin = true)
include htwin

theorem ends_resync_lead (hidle : s.m.isOn TWIN_CMDSTAT_busy = false) (hp : s.m.power = 4) (hlink : s.m.isOn TWIN_STAT_link = true)
    (hrole : s.m.isOn TWIN_STAT_role = true) (hceded : s.m.ceded = false) (hsync : s.m.isOn TWIN_STAT_sync = false)
    (hph : s.m.get TWIN_STAT_phase = 0) : Ends (.resync false) s fun n => n.isOn TWIN_CMDSTAT_busy = true ∧
      n.get TWIN_STAT_phase = 2 ∧ n.twin.tries = 0 ∧ ∃ l, n.out = s.m.out ++ [.twinMsg 0x10 [4]] ++ l := by
  have hn : s.m.resync false = s.m.resyncBegun.startCopy := by
    unfold Fjoek.resync Fjoek.resyncBegun
    rw [if_neg (by simp [htwin, hidle]), if_neg (by simp)]
    simp [hp, hlink, hrole, hceded, hsync, hph]
  have hout := out_startCopy s.m.resyncBegun
  rw [out_resyncBegun] at hout
  have hregs := regs_startCopy s.m.resyncBegun
  have htw := twin_startCopy s.m.resyncBegun
  generalize s.m.resyncBegun.startCopy = n at hn hout hregs htw
  refine ends_kept (f := fun m => m.resync false) rfl hn fun t ht hk => ⟨?_, ?_, ?_, ?_⟩
  · rw [hk.isOn _ (by decide), Fjoek.isOn_of_regs _ hregs, Fjoek.isOn_put_apart _ _ _ _ (by decide) (by decide) (by decide),
      Fjoek.resyncBegun, Fjoek.isOn_put_same _ _ (by decide) rfl]
  · rw [hk.get _ (by decide), Fjoek.get_of_regs _ hregs, Fjoek.get_put_same _ _ _ (by decide)]
    rfl
  · refine (hk.field Twin.tries).trans ?_
    rw [htw, Fjoek.resyncBegun, Fjoek.twin_put, Fjoek.twin_setTwin]
  · exact ht.sent hout

theorem does_resync_unserving (hidle : s.m.isOn TWIN_CMDSTAT_busy = false) (hp : s.m.power ≠ 4) :
    Does (.resync false) s ((s.m.put TWIN_CMDSTAT_busy 0).put TWIN_CMDSTAT_code 5) := by
  refine does_on (f := fun m => m.resync false) rfl ?_
  unfold Fjoek.resync
  rw [if_neg (by simp [htwin, hidle]), if_neg (by simp)]
  simp [hp, twinEnd_quiet]

theorem ends_resync_asked (hrole : s.m.isOn TWIN_STAT_role = false) : Ends (.resync true) s fun n => n.isOn TWIN_STAT_role = false ∧
    n.get TWIN_STAT_phase = 2 ∧ n.twin.stopped = true ∧ n.twin.ring = [] := by
  have hn : s.m.resync true = s.m.followBegun := by
    unfold Fjoek.resync Fjoek.followBegun
    rw [if_neg (by simp [htwin]), if_pos (by simp [hrole])]
  refine ends_kept (f := fun m => m.resync true) rfl hn fun t _ hk => ⟨?_, ?_, ?_, ?_⟩
  · simp (disch := decide) only [hk.isOn, Fjoek.followBegun, Fjoek.isOn_setTwin, Fjoek.isOn_put_apart, Fjoek.isOn_put_clear]
  · rw [hk.get _ (by decide), Fjoek.followBegun, Fjoek.get_setTwin, Fjoek.get_put_same _ _ _ (by decide)]
    rfl
  · exact (hk.field Twin.stopped).trans (congrArg Twin.stopped (twin_followBegun s.m))
  · exact (hk.field Twin.ring).trans (congrArg Twin.ring (twin_followBegun s.m))

end Resync

end Sys2Proof.Machine
end

section
/-! PROOFS. The stages of a resync, the heartbeat and cede. -/

namespace Sys2Proof.Machine

/-! ## Stages of a resync -/

/-- The copy is done: dispatch stops on a lead. -/
def Fjoek.copyDone (m : Fjoek) : Fjoek :=
  let m := m.put TWIN_STAT_phase 3
  if m.isOn TWIN_STAT_role then m.setTwin { m.twin with dispatchStopped := true } else m

theorem phase_copyDone (m : Fjoek) : m.copyDone.get TWIN_STAT_phase = 3 := by
  have h : (m.put TWIN_STAT_phase 3).get TWIN_STAT_phase = 3 := Fjoek.get_put_same _ _ _ (by decide)
  unfold Fjoek.copyDone
  simp only
  split
  · exact (Fjoek.get_setTwin _ _ _).trans h
  · exact h

theorem dispatchStopped_copyDone {m : Fjoek} (h : m.isOn TWIN_STAT_role = true) : m.copyDone.twin.dispatchStopped = true := by
  unfold Fjoek.copyDone
  simp only
  rw [if_pos ((Fjoek.isOn_put_apart _ _ _ _ (by decide) (by decide) (by decide)).trans h), Fjoek.twin_setTwin]

theorem ends_resyncCopyDone {s : State} (hph : s.m.get TWIN_STAT_phase = 2) : Ends .resyncCopyDone s fun n =>
    n.get TWIN_STAT_phase = 3 ∧ (s.m.isOn TWIN_STAT_role = true → n.twin.dispatchStopped = true) := by
  have hn : exec .resyncCopyDone s = .next (s.settle s.m.copyDone) := by
    show execResyncCopyDone s = _
    unfold execResyncCopyDone
    rw [on_apply, if_neg (not_not_intro hph), Fjoek.copyDone]
  refine ends_settled hn fun t _ hk => ⟨?_, fun hrole => ?_⟩
  · rw [hk.get _ (by decide), phase_copyDone]
  · exact (hk.field Twin.dispatchStopped).trans (dispatchStopped_copyDone hrole)

/-- A swap whose drain takes too long is given up. -/
def Fjoek.swapGivenUp (m : Fjoek) : Fjoek := m.setTwin { m.twin with swapping := false, dispatchStopped := false }

theorem ends_freezeTimeout_swap {s : State} (hs : s.m.twin.swapping = true) (hq : s.m.twin.swapSeq = none) :
    Ends .resyncFreezeTimeout s fun n => n.twin.swapping = false ∧ n.endedWith 3 ∧ n.twin.dispatchStopped = false := by
  have hk := kept_dispatch (s.m.swapGivenUp.twinEnd 3 false)
  have htw : (s.m.swapGivenUp.twinEnd 3 false).twin = { s.m.twin with swapping := false, dispatchStopped := false } := by
    rw [twin_twinEnd, Fjoek.swapGivenUp, Fjoek.twin_setTwin]
  have hn : exec .resyncFreezeTimeout s = .next (s.settle (s.m.swapGivenUp.twinEnd 3 false).dispatch) := by
    show execResyncFreezeTimeout s = _
    unfold execResyncFreezeTimeout
    rw [on_apply, if_pos hs, if_neg (by simp [hq]), Fjoek.swapGivenUp]
  refine ends_settled hn fun t _ ht => ?_
  have h := hk.trans ht
  exact ⟨(h.field Twin.swapping).trans (congrArg Twin.swapping htw), h.endedWith (endedWith_twinEnd _ (by decide) false),
    (h.field Twin.dispatchStopped).trans (congrArg Twin.dispatchStopped htw)⟩

theorem does_freezeTimeout_trailing {s : State} (hs : s.m.twin.swapping = false) (hph : s.m.get TWIN_STAT_phase = 3)
    (hrole : s.m.isOn TWIN_STAT_role = false) : Does .resyncFreezeTimeout s (s.m.put TWIN_STAT_phase 0) := by
  refine does_settled ?_
  show execResyncFreezeTimeout s = _
  unfold execResyncFreezeTimeout
  rw [on_apply, if_neg (by simp [hs]), if_neg (not_not_intro hph), if_pos (by simp [hrole])]

/-- A lead's resync that failed once more. -/
def Fjoek.resyncFailed (m : Fjoek) : Fjoek := (m.put TWIN_STAT_phase 0).setTwin { m.twin with
  tries := m.twin.tries + 1, dispatchStopped := false, retryDue := decide (m.twin.tries + 1 < 8) }

theorem twin_resyncFailed (m : Fjoek) : m.resyncFailed.twin =
    { m.twin with tries := m.twin.tries + 1, dispatchStopped := false, retryDue := decide (m.twin.tries + 1 < 8) } := by
  unfold Fjoek.resyncFailed
  rw [Fjoek.twin_setTwin]

theorem phase_resyncFailed (m : Fjoek) : m.resyncFailed.get TWIN_STAT_phase = 0 := by
  unfold Fjoek.resyncFailed
  rw [Fjoek.get_setTwin, Fjoek.get_put_same _ _ _ (by decide), Nat.zero_mod]

/-- At the eighth attempt the command ends. -/
def Fjoek.resyncEnded (m : Fjoek) : Fjoek := m.resyncFailed.when (decide (8 ≤ m.twin.tries + 1)) fun m => m.twinEnd 3 true

theorem resyncEnded_last {m : Fjoek} (h : 8 ≤ m.twin.tries + 1) : m.resyncEnded = m.resyncFailed.twinEnd 3 true :=
  if_pos (decide_eq_true h)

theorem resyncEnded_early {m : Fjoek} (h : ¬8 ≤ m.twin.tries + 1) : m.resyncEnded = m.resyncFailed :=
  if_neg (by simpa using h)

theorem phase_resyncEnded (m : Fjoek) : m.resyncEnded.get TWIN_STAT_phase = 0 := by
  by_cases h : 8 ≤ m.twin.tries + 1
  · rw [resyncEnded_last h, get_twinEnd _ _ _ _ (by decide) (by decide) (by decide) (by decide), phase_resyncFailed]
  · rw [resyncEnded_early h, phase_resyncFailed]

theorem tries_resyncEnded (m : Fjoek) : m.resyncEnded.twin.tries = m.twin.tries + 1 ∧
    m.resyncEnded.twin.retryDue = decide (m.twin.tries + 1 < 8) := by
  by_cases h : 8 ≤ m.twin.tries + 1
  · rw [resyncEnded_last h]
    have hk := kept_twinEnd_latched m.resyncFailed 3
    have htw := (twin_failed m.resyncFailed 3).trans (twin_resyncFailed m)
    exact ⟨(hk.field Twin.tries).trans (congrArg Twin.tries htw), (hk.field Twin.retryDue).trans (congrArg Twin.retryDue htw)⟩
  · rw [resyncEnded_early h, twin_resyncFailed]
    exact ⟨rfl, rfl⟩

theorem ends_freezeTimeout_lead {s : State} (hs : s.m.twin.swapping = false) (hph : s.m.get TWIN_STAT_phase = 3)
    (hrole : s.m.isOn TWIN_STAT_role = true) : Ends .resyncFreezeTimeout s fun n => n.get TWIN_STAT_phase = 0 ∧
      n.twin.tries = s.m.twin.tries + 1 ∧ (n.twin.retryDue = true ↔ s.m.twin.tries + 1 < 8) ∧
      (8 ≤ s.m.twin.tries + 1 → n.endedWith 3 ∧ n.isOn TWIN_ESTAT_resync = true) := by
  obtain ⟨htries, hretry⟩ := tries_resyncEnded s.m
  have hn : exec .resyncFreezeTimeout s = .next (s.settle s.m.resyncEnded.dispatch) := by
    show execResyncFreezeTimeout s = _
    unfold execResyncFreezeTimeout
    rw [on_apply, if_neg (by simp [hs]), if_neg (not_not_intro hph), if_neg (by simp [hrole])]
    rfl
  refine ends_settled hn fun t _ ht => ?_
  have h := (kept_dispatch s.m.resyncEnded).trans ht
  refine ⟨?_, ?_, ?_, fun h8 => ⟨?_, ?_⟩⟩
  · rw [h.get _ (by decide), phase_resyncEnded]
  · exact (h.field Twin.tries).trans htries
  · have hdue : t.twin.retryDue = decide (s.m.twin.tries + 1 < 8) := (h.field Twin.retryDue).trans hretry
    rw [hdue, decide_eq_true_iff]
  · refine h.endedWith ?_
    rw [resyncEnded_last h8]
    exact endedWith_twinEnd _ (by decide) true
  · rw [h.isOn _ (by decide), resyncEnded_last h8, isOn_resync_twinEnd]

theorem ends_resyncRetry {s : State} (hr : s.m.twin.retryDue = true) (hl : s.m.isOn TWIN_STAT_link = true) : Ends .resyncRetry s fun n =>
    n.get TWIN_STAT_phase = 2 ∧ n.twin.retryDue = false ∧ ∃ l, n.out = s.m.out ++ [.twinMsg 0x10 [4]] ++ l := by
  have hregs := regs_startCopy s.m
  have htw := twin_startCopy s.m
  have hout := out_startCopy s.m
  have hn : exec .resyncRetry s = .next (s.settle s.m.startCopy) := by
    show execResyncRetry s = _
    unfold execResyncRetry
    rw [on_apply, if_pos ⟨hr, hl⟩]
  refine ends_settled hn fun t ht hk => ⟨?_, ?_, ht.sent hout⟩
  · rw [hk.get _ (by decide), Fjoek.get_of_regs _ hregs, Fjoek.get_put_same _ _ _ (by decide)]
    rfl
  · exact (hk.field Twin.retryDue).trans (congrArg Twin.retryDue htw)

theorem does_autoresync {s : State} (hs : s.m.twin.stopped = true) (ha : s.m.isOn TWIN_CTL_autoresync = true)
    (hl : s.m.isOn TWIN_STAT_link = true) (hph : s.m.get TWIN_STAT_phase = 0) (hrole : s.m.isOn TWIN_STAT_role = false) :
    Does .autoresync s ((s.m.put TWIN_STAT_phase 2).send (.twinMsg 0x0B [])) := by
  refine does_settled ?_
  show execAutoresync s = _
  unfold execAutoresync
  rw [on_apply, if_pos ⟨hs, ha, hl, hph, by simp [hrole]⟩]

/-! ## Heartbeat and link -/

theorem does_heartbeatToggle {s : State} {rail held : Bool} (hp : s.m.power = 4) (hen : s.m.isOn TWIN_CTL_en = true)
    (hstop : s.m.isOn TWIN_CTL_hbstop = false) (hrail : rail = false) (hheld : s.m.isOn TWIN_STAT_role = true → held = false) :
    Does (.heartbeatToggle rail held) s (s.m.setTwin { s.m.twin with hbOut := !s.m.twin.hbOut }) := by
  refine does_settled ?_
  show execHeartbeatToggle rail held s = _
  unfold execHeartbeatToggle
  rw [on_apply, if_pos ⟨hp, hen, by simp [hstop], by simp [hrail], by simpa [or_iff_not_imp_left] using hheld⟩]

section Runs
variable {s : State} (htwin : s.m.inTwin = true) (hrun : s.m.runs 13 = true)
include htwin hrun

theorem does_heartbeatEdge : Does .heartbeatEdge s (s.m.put TWIN_STAT_hb 1) := by
  refine does_settled ?_
  show execHeartbeatEdge s = _
  unfold execHeartbeatEdge
  rw [on_apply, if_neg (by simp [htwin, hrun])]

theorem does_twinLinkUp : Does .twinLinkUp s ((s.m.put TWIN_STAT_groups 15).put TWIN_STAT_link 1) := by
  refine does_settled ?_
  show execTwinLinkUp s = _
  unfold execTwinLinkUp
  rw [on_apply, if_neg (by simp [htwin, hrun])]

end Runs

end Sys2Proof.Machine
end

section
/-! PROOFS. The loss of the heartbeat, a cession, and the loss of the link. -/

namespace Sys2Proof.Machine

/-! ## The loss of the heartbeat -/

theorem Fjoek.reg64_put_ne (m : Fjoek) (f : Fld) (v a : Nat) (h : a ≠ f.addr) (h' : a + 4 ≠ f.addr) :
    (m.put f v).reg64 a = m.reg64 a := by
  unfold Fjoek.reg64
  rw [Fjoek.reg_put_ne _ _ _ h, Fjoek.reg_put_ne _ _ _ h']

theorem Fjoek.reg64_of_regs {m n : Fjoek} (a : Nat) (h : n.regs = m.regs) : n.reg64 a = m.reg64 a := by
  unfold Fjoek.reg64 Fjoek.reg
  rw [h]

theorem Fjoek.reg64_setTwin (m : Fjoek) (t : Twin) (a : Nat) : (m.setTwin t).reg64 a = m.reg64 a := Fjoek.reg64_of_regs a rfl

theorem Fjoek.reg64_unburnt (m : Fjoek) (a : Nat) : m.unburnt.reg64 a = m.reg64 a := Fjoek.reg64_of_regs a rfl

theorem Noted.cedeOut {m n : Fjoek} (h : Noted m n) (b : Bool) {t u : Twin} (ht : t = m.twin) (hu : u = n.twin) :
    Noted (m.setTwin { t with cedeOut := b }) (n.setTwin { u with cedeOut := b }) := by
  subst ht hu
  exact { h with twin := congrArg (fun t : Twin => { t with cedeOut := b }) h.twin }

/-- The heartbeat lost, as the registers show it. -/
def Fjoek.beatLost (m : Fjoek) : Fjoek := (m.put TWIN_STAT_hb 0).put TWIN_ESTAT_hbloss 1

/-- What a trailing twin in sync becomes as it takes the lead's role (R373). -/
def Fjoek.tookOver (m : Fjoek) : Fjoek :=
  let n := (m.put TWIN_STAT_role 1).put TWIN_STAT_phase 6
  ((n.setTwin { m.twin with cedeOut := true }).put TWIN_ESTAT_rolechg 1).count TWIN_TAKEOVER_LO 1

theorem Noted.takeover {m n : Fjoek} (h : Noted m n) (hrole : m.isOn TWIN_STAT_role = false) (hsync : m.isOn TWIN_STAT_sync = true) :
    Noted m.tookOver n.takeover := by
  have hr := (h.isOn TWIN_STAT_role (by decide)).trans hrole
  have hs := (h.isOn TWIN_STAT_sync (by decide)).trans hsync
  unfold Fjoek.takeover Fjoek.tookOver
  rw [if_neg (by simp [hr, hs])]
  refine Noted.count ?_ _ _ (by decide) (by decide)
  have htw (m : Fjoek) : m.twin = ((m.put TWIN_STAT_role 1).put TWIN_STAT_phase 6).twin := by rw [Fjoek.twin_put, Fjoek.twin_put]
  exact (((h.put _ _ (by decide)).put _ _ (by decide)).cedeOut true (htw m) (htw n)).cause _ _ (by decide) (by decide) rfl

theorem takeover_idle {m : Fjoek} (h : m.isOn TWIN_STAT_role = true ∨ m.isOn TWIN_STAT_sync = false) : m.takeover = m :=
  if_pos (by simpa using h)

theorem noted_beatLost (m : Fjoek) : Noted m.beatLost ((m.put TWIN_STAT_hb 0).cause TWIN_ESTAT_hbloss 467) :=
  (Noted.refl _).cause _ _ (by decide) (by decide) rfl

/-- `n` is `m` after it has taken the lead's role. -/
def Fjoek.tookRole (m n : Fjoek) : Prop := n.isOn TWIN_STAT_role = true ∧ n.get TWIN_STAT_phase = 6 ∧ n.twin.cedeOut = true ∧
  n.isOn TWIN_ESTAT_rolechg = true ∧ n.reg64 TWIN_TAKEOVER_LO = (m.reg64 TWIN_TAKEOVER_LO + 1) % 2 ^ 64

theorem cedeOut_tookOver (m : Fjoek) : m.tookOver.twin.cedeOut = true := by
  unfold Fjoek.tookOver
  rw [Fjoek.twin_count, Fjoek.twin_put, Fjoek.twin_setTwin]

theorem tookOver_beatLost {m n : Fjoek} (h : Noted m.beatLost.tookOver.unburnt n) :
    n.isOn TWIN_STAT_hb = false ∧ n.isOn TWIN_ESTAT_hbloss = true ∧ m.tookRole n := by
  refine ⟨?_, ?_, ?_, ?_, ?_, ?_, ?_⟩
  case refine_5 => exact (h.field Twin.cedeOut).trans (cedeOut_tookOver m.beatLost)
  case refine_7 =>
    simp (disch := decide) only [h.reg64, Fjoek.reg64_unburnt, Fjoek.tookOver, Fjoek.beatLost, Fjoek.reg64_count, Fjoek.reg64_put_ne,
      Fjoek.reg64_setTwin]
  all_goals simp (disch := decide) only [h.isOn, h.get, Fjoek.isOn_unburnt, Fjoek.get_unburnt, Fjoek.tookOver, Fjoek.beatLost,
    Fjoek.isOn_count_ne, Fjoek.get_count_ne, Fjoek.isOn_put_apart, Fjoek.isOn_put_same, Fjoek.isOn_put_clear, Fjoek.isOn_setTwin,
    Fjoek.get_setTwin, Fjoek.get_put_apart, Fjoek.get_put_same]
  rfl

theorem exec_heartbeatLoss {s : State} (htwin : s.m.inTwin = true) (hrun : s.m.runs 13 = true) :
    exec .heartbeatLoss s = .next (s.settle ((s.m.put TWIN_STAT_hb 0).cause TWIN_ESTAT_hbloss 467).takeover) := by
  show execHeartbeatLoss s = _
  unfold execHeartbeatLoss
  rw [on_apply, if_neg (by simp [htwin, hrun])]

theorem ends_heartbeatLoss {s : State} (htwin : s.m.inTwin = true) (hrun : s.m.runs 13 = true) : Ends .heartbeatLoss s fun n =>
    n.isOn TWIN_STAT_hb = false ∧ n.isOn TWIN_ESTAT_hbloss = true ∧
      (s.m.isOn TWIN_STAT_role = false → s.m.isOn TWIN_STAT_sync = true → s.m.tookRole n) := by
  have hlost := noted_beatLost s.m
  have hrole' : s.m.beatLost.isOn TWIN_STAT_role = s.m.isOn TWIN_STAT_role := by
    simp (disch := decide) only [Fjoek.beatLost, Fjoek.isOn_put_apart]
  have hsync' : s.m.beatLost.isOn TWIN_STAT_sync = s.m.isOn TWIN_STAT_sync := by
    simp (disch := decide) only [Fjoek.beatLost, Fjoek.isOn_put_apart]
  have hexec := exec_heartbeatLoss htwin hrun
  generalize (s.m.put TWIN_STAT_hb 0).cause TWIN_ESTAT_hbloss 467 = x at hlost hexec
  by_cases h : s.m.isOn TWIN_STAT_role = false ∧ s.m.isOn TWIN_STAT_sync = true
  · have hn := hlost.takeover (hrole'.trans h.1) (hsync'.trans h.2)
    refine ends_settled hexec fun t ht _ => ?_
    obtain ⟨hhb, hloss, htook⟩ := tookOver_beatLost (hn.unburnt.trans ht)
    exact ⟨hhb, hloss, fun _ _ => htook⟩
  · have hidle : x.takeover = x := takeover_idle (by
      rw [hlost.isOn _ (by decide), hlost.isOn _ (by decide), hrole', hsync']
      simpa [or_iff_not_imp_left] using h)
    rw [hidle] at hexec
    refine ends_settled hexec fun t ht _ => ⟨?_, ?_, fun hr hs => absurd ⟨hr, hs⟩ h⟩
    all_goals simp (disch := decide) only [ht.isOn, Fjoek.isOn_unburnt, hlost.isOn, Fjoek.beatLost, Fjoek.isOn_put_apart,
      Fjoek.isOn_put_same, Fjoek.isOn_put_clear]

/-! ## A cession -/

/-- Of fields that each stand in a register of their own, those of a list are set. -/
theorem isOn_each_put {g : Nat → Fld} (hok : ∀ i, (g i).ok = true) (hbit : ∀ i, (g i).hi = (g i).lo)
    (hinj : ∀ i j, i ≠ j → (g i).apart (g j) = true) (v : Bool) (l : List Nat) (j : Nat) (m : Fjoek) :
    (m.each l fun i m => m.put (g i) (bnat v)).isOn (g j) = if j ∈ l then v else m.isOn (g j) := by
  induction l generalizing m with
  | nil => rfl
  | cons x r ih =>
    show ((m.put (g x) (bnat v)).each r fun i m => m.put (g i) (bnat v)).isOn (g j) = _
    rw [ih]
    by_cases hr : j ∈ r
    · rw [if_pos hr, if_pos (List.mem_cons_of_mem x hr)]
    · rw [if_neg hr]
      by_cases hx : j = x
      · rw [hx, if_pos List.mem_cons_self, Fjoek.isOn_put_bnat _ _ _ (hok x) (hbit x)]
      · rw [if_neg (by simp [hx, hr]), Fjoek.isOn_put_apart _ _ _ _ (hok x) (hok j) (hinj x j (Ne.symm hx))]

theorem isOn_setTxsup (m : Fjoek) (v : Bool) {j : Nat} (hj : j < 32) : (m.setTxsup v).isOn (NETP_SSTAT_txsup j) = v := by
  have h := isOn_each_put (g := NETP_SSTAT_txsup) (fun _ => rfl) (fun _ => rfl)
    (fun i k hik => decide_eq_true (.inl (by show 0x100004 + 0x1000 * i ≠ 0x100004 + 0x1000 * k; omega))) v (List.range 32) j m
  rw [if_pos (List.mem_range.2 hj)] at h
  exact h

/-- The status of a slot stands in NETP. -/
theorem txsup_between {j : Nat} (hj : j < 32) : 0x100000 ≤ (NETP_SSTAT_txsup j).addr ∧ (NETP_SSTAT_txsup j).addr < 0x200000 := by
  show 0x100000 ≤ 0x100004 + 0x1000 * j ∧ 0x100004 + 0x1000 * j < 0x200000
  omega

theorem kept_setTxsup (m : Fjoek) (v : Bool) : Kept m (m.setTxsup v) :=
  Kept.each _ _ (fun j hj m => kept_put m _ _ (not_pairReg_between (by
    have := txsup_between (List.mem_range.1 hj)
    omega))) m

/-- A module as it cedes: every slot suppressed, and its outputs discarded. -/
def Fjoek.cedeState (m : Fjoek) : Fjoek :=
  let n := (m.setTwin { m.twin with cedeIn := true }).setTxsup true
  n.setTwin { n.twin with held := [], frozen := false, log := [] }

/-- The registers of a ceded module (R374). -/
def Fjoek.cedeRegs (m : Fjoek) : Fjoek :=
  (((m.put TWIN_STAT_ceded 1).put TWIN_STAT_sync 0).put TWIN_STAT_phase 7).put SEAM_CTL_instep 0

theorem cedes {m : Fjoek} : (m.setTwin { m.twin with cedeIn := true }).cede = m.cedeState.cedeRegs.cause TWIN_ESTAT_cede 469 := by
  unfold Fjoek.cede Fjoek.cedeState Fjoek.cedeRegs Fjoek.leaveInstep
  rfl

theorem twin_cedeState (m : Fjoek) : m.cedeState.twin.held = [] ∧ m.cedeState.twin.cedeIn = true := by
  have hk := (kept_setTxsup (m.setTwin { m.twin with cedeIn := true }) true).field Twin.cedeIn
  rw [Fjoek.twin_setTwin] at hk
  unfold Fjoek.cedeState
  rw [Fjoek.twin_setTwin]
  exact ⟨rfl, hk⟩

theorem twin_cedeRegs (m : Fjoek) : m.cedeRegs.twin = m.twin := by
  unfold Fjoek.cedeRegs
  rw [Fjoek.twin_put, Fjoek.twin_put, Fjoek.twin_put, Fjoek.twin_put]

theorem isOn_txsup_cedeRegs (m : Fjoek) {j : Nat} (hj : j < 32) : (m.cedeState.cedeRegs.put TWIN_ESTAT_cede 1).isOn (NETP_SSTAT_txsup j) = true := by
  have hlt := txsup_between hj
  have hapart (g : Fld) (hg : 0x200000 ≤ g.addr) : g.apart (NETP_SSTAT_txsup j) = true := decide_eq_true (.inl (by omega))
  have hok : (NETP_SSTAT_txsup j).ok = true := rfl
  unfold Fjoek.cedeRegs
  rw [Fjoek.isOn_put_apart _ _ _ _ (by decide) hok (hapart _ (by decide)), Fjoek.isOn_put_apart _ _ _ _ (by decide) hok (hapart _ (by decide)),
    Fjoek.isOn_put_apart _ _ _ _ (by decide) hok (hapart _ (by decide)), Fjoek.isOn_put_apart _ _ _ _ (by decide) hok (hapart _ (by decide)),
    Fjoek.isOn_put_apart _ _ _ _ (by decide) hok (hapart _ (by decide)), Fjoek.cedeState, Fjoek.isOn_setTwin, isOn_setTxsup _ _ hj]

theorem ends_cede {s : State} (htwin : s.m.inTwin = true) : Ends .cede s fun n => n.isOn TWIN_STAT_ceded = true ∧
    n.isOn TWIN_STAT_sync = false ∧ n.get TWIN_STAT_phase = 7 ∧ n.isOn SEAM_CTL_instep = false ∧ n.isOn TWIN_ESTAT_cede = true ∧
    n.twin.held = [] ∧ n.twin.cedeIn = true ∧ ∀ j < 32, n.isOn (NETP_SSTAT_txsup j) = true := by
  have hn : exec .cede s = .next (s.settle (s.m.cedeState.cedeRegs.cause TWIN_ESTAT_cede 469)) := by
    show execCede s = _
    unfold execCede
    rw [on_apply, if_neg (by simp [htwin]), cedes]
  obtain ⟨hheld, hin⟩ := twin_cedeState s.m
  have hnoted := (Noted.refl s.m.cedeState.cedeRegs).cause TWIN_ESTAT_cede 469 (by decide) (by decide) rfl
  have hcause := kept_cause_set s.m.cedeState.cedeRegs TWIN_ESTAT_cede 469 (by decide) rfl
  have htw : (s.m.cedeState.cedeRegs.put TWIN_ESTAT_cede 1).twin = s.m.cedeState.twin := by rw [Fjoek.twin_put, twin_cedeRegs]
  have hceded : (s.m.cedeState.cedeRegs.put TWIN_ESTAT_cede 1).ceded = true := by
    simp (disch := decide) only [Fjoek.ceded, Fjoek.cedeRegs, Fjoek.isOn_put_apart, Fjoek.isOn_put_same]
  have htxsup (j : Nat) (hj : j < 32) := isOn_txsup_cedeRegs s.m hj
  refine ends_settled hn fun t ht hk => ?_
  have h := hcause.trans hk
  refine ⟨?_, ?_, ?_, ?_, ?_, ?_, ?_, fun j hj => ?_⟩
  case refine_6 => rw [h.held hceded, htw, hheld]
  case refine_7 => rw [h.field Twin.cedeIn, htw, hin]
  case refine_8 =>
    have hplain := noting_seam _ ⟨(txsup_between hj).1, by have := txsup_between hj; omega⟩
    rw [ht.isOn _ hplain, Fjoek.isOn_unburnt, hnoted.isOn _ hplain, htxsup j hj]
  all_goals simp (disch := decide) only [h.isOn, h.get, Fjoek.cedeRegs, Fjoek.isOn_put_apart, Fjoek.isOn_put_same, Fjoek.isOn_put_clear,
    Fjoek.get_put_apart, Fjoek.get_put_same]
  rfl

/-! ## The loss of the link -/

/-- The lane group of the pair's link that TWIN_STAT shows. -/
def groupFld (g : Fin 4) : Fld := ⟨TWIN_STAT, 4 + g.val, 4 + g.val⟩

theorem groupFld_ok (g : Fin 4) : (groupFld g).ok = true := by
  revert g
  decide

/-- The link's bits fall, and its port is flushed. -/
def Fjoek.linkLost (m : Fjoek) (g : Fin 4) : Fjoek :=
  (((m.put (groupFld g) 0).put TWIN_STAT_link 0).flushPort 36).cause TWIN_ESTAT_link 464

theorem kept_linkLost (m : Fjoek) (g : Fin 4) : Kept
    ((((m.put (groupFld g) 0).put TWIN_STAT_link 0).flushPort 36).put TWIN_ESTAT_link 1) (m.linkLost g) :=
  kept_cause_set _ TWIN_ESTAT_link 464 (by decide) rfl

theorem get_linkLost (m : Fjoek) (g : Fin 4) (f : Fld) (hf : f.ok = true) (hp : f.addr ∈ pairRegs)
    (hg : ∀ g, (groupFld g).apart f = true) (hl : TWIN_STAT_link.apart f = true) (he : TWIN_ESTAT_link.apart f = true) :
    (m.linkLost g).get f = m.get f := by
  rw [(kept_linkLost m g).get f hp, Fjoek.get_put_apart _ _ _ _ (by decide) hf he, (kept_flushPort _ 36).get f hp,
    Fjoek.get_put_apart _ _ _ _ (by decide) hf hl, Fjoek.get_put_apart _ _ _ _ (groupFld_ok g) hf (hg g)]

theorem isOn_linkLost (m : Fjoek) (g : Fin 4) (f : Fld) (hf : f.ok = true) (hp : f.addr ∈ pairRegs)
    (hg : ∀ g, (groupFld g).apart f = true) (hl : TWIN_STAT_link.apart f = true) (he : TWIN_ESTAT_link.apart f = true) :
    (m.linkLost g).isOn f = m.isOn f := by
  unfold Fjoek.isOn
  rw [get_linkLost m g f hf hp hg hl he]

theorem link_linkLost (m : Fjoek) (g : Fin 4) :
    (m.linkLost g).isOn TWIN_STAT_link = false ∧ (m.linkLost g).isOn TWIN_ESTAT_link = true := by
  rw [(kept_linkLost m g).isOn _ (by decide), (kept_linkLost m g).isOn _ (by decide)]
  constructor
  · rw [Fjoek.isOn_put_apart _ _ _ _ (by decide) (by decide) (by decide), (kept_flushPort _ 36).isOn _ (by decide),
      Fjoek.isOn_put_clear _ _ (by decide)]
  · exact Fjoek.isOn_put_same _ _ (by decide) rfl

theorem stopped_linkLost (m : Fjoek) (g : Fin 4) : (m.linkLost g).twin.stopped = m.twin.stopped := by
  have hflush := (kept_flushPort ((m.put (groupFld g) 0).put TWIN_STAT_link 0) 36).field Twin.stopped
  have hlost := (kept_linkLost m g).field Twin.stopped
  rw [Fjoek.twin_put, Fjoek.twin_put] at hflush
  rw [Fjoek.twin_put] at hlost
  exact hlost.trans hflush

/-- A pairing or a resync in progress. -/
def Fjoek.pairing (m : Fjoek) : Bool :=
  m.isOn TWIN_CMDSTAT_busy || m.get TWIN_STAT_phase == 1 || m.get TWIN_STAT_phase == 2 || m.get TWIN_STAT_phase == 3

/-- A pairing or a resync in progress fails. -/
def Fjoek.pairingFailed (m : Fjoek) : Fjoek := m.when m.pairing fun m => m.twinEnd 2 true

theorem pairingFailed_of {m : Fjoek} (h : m.pairing = true) : m.pairingFailed = m.twinEnd 2 true := if_pos h

theorem pairingFailed_of_not {m : Fjoek} (h : ¬m.pairing = true) : m.pairingFailed = m := if_neg h

theorem isOn_pairingFailed (m : Fjoek) (f : Fld) (hf : f.ok = true) (hp : f.addr ∈ pairRegs)
    (hs : f.addr ≠ TWIN_CMDSTAT_busy.addr) (hr : TWIN_ESTAT_resync.apart f = true) : m.pairingFailed.isOn f = m.isOn f := by
  by_cases h : m.pairing = true
  · rw [pairingFailed_of h, isOn_twinEnd m 2 true f hf hp hs hr]
  · rw [pairingFailed_of_not h]

theorem get_pairingFailed (m : Fjoek) (f : Fld) (hf : f.ok = true) (hp : f.addr ∈ pairRegs)
    (hs : f.addr ≠ TWIN_CMDSTAT_busy.addr) (hr : TWIN_ESTAT_resync.apart f = true) : m.pairingFailed.get f = m.get f := by
  by_cases h : m.pairing = true
  · rw [pairingFailed_of h, get_twinEnd m 2 true f hf hp hs hr]
  · rw [pairingFailed_of_not h]

theorem stopped_pairingFailed (m : Fjoek) : m.pairingFailed.twin.stopped = m.twin.stopped := by
  by_cases h : m.pairing = true
  · rw [pairingFailed_of h, stopped_twinEnd]
  · rw [pairingFailed_of_not h]

/-- The role that a module without its link is left with (R22, R351). -/
def Fjoek.unlinked (m : Fjoek) : Fjoek :=
  if m.isOn TWIN_STAT_role then m.goSolo
  else if m.twin.stopped ∨ m.isOn TWIN_STAT_sync then m.twinStop
  else m.when (m.power == 4) Fjoek.goSolo

/-- The role, whether it is in sync, and the power state stay until then. -/
theorem reads_unlinking (m : Fjoek) (g : Fin 4) : (m.linkLost g).pairingFailed.isOn TWIN_STAT_role = m.isOn TWIN_STAT_role ∧
    (m.linkLost g).pairingFailed.isOn TWIN_STAT_sync = m.isOn TWIN_STAT_sync ∧ (m.linkLost g).pairingFailed.power = m.power ∧
    (m.linkLost g).pairingFailed.twin.stopped = m.twin.stopped := by
  refine ⟨?_, ?_, ?_, ?_⟩
  · rw [isOn_pairingFailed _ _ (by decide) (by decide) (by decide) (by decide),
      isOn_linkLost _ _ _ (by decide) (by decide) (by decide) (by decide) (by decide)]
  · rw [isOn_pairingFailed _ _ (by decide) (by decide) (by decide) (by decide),
      isOn_linkLost _ _ _ (by decide) (by decide) (by decide) (by decide) (by decide)]
  · unfold Fjoek.power
    rw [get_pairingFailed _ _ (by decide) (by decide) (by decide) (by decide),
      get_linkLost _ _ _ (by decide) (by decide) (by decide) (by decide) (by decide)]
  · rw [stopped_pairingFailed, stopped_linkLost]

theorem links_unlinking (m : Fjoek) (g : Fin 4) : (m.linkLost g).pairingFailed.isOn TWIN_STAT_link = false ∧
    (m.linkLost g).pairingFailed.isOn TWIN_ESTAT_link = true := by
  rw [isOn_pairingFailed _ _ (by decide) (by decide) (by decide) (by decide),
    isOn_pairingFailed _ _ (by decide) (by decide) (by decide) (by decide)]
  exact link_linkLost m g

theorem unlinked_lead {m : Fjoek} (h : m.isOn TWIN_STAT_role = true ∨
    (m.power = 4 ∧ m.isOn TWIN_STAT_sync = false ∧ m.twin.stopped = false)) : m.unlinked = m.goSolo := by
  unfold Fjoek.unlinked
  by_cases hrole : m.isOn TWIN_STAT_role = true
  · rw [if_pos hrole]
  · obtain ⟨hp, hsync, hstopped⟩ := h.resolve_left hrole
    rw [if_neg hrole, if_neg (by simp [hsync, hstopped])]
    exact if_pos (by simp [hp])

theorem unlinked_trailing {m : Fjoek} (hrole : m.isOn TWIN_STAT_role = false)
    (h : m.isOn TWIN_STAT_sync = true ∨ m.twin.stopped = true) : m.unlinked = m.twinStop := by
  unfold Fjoek.unlinked
  rw [if_neg (by simp [hrole]), if_pos h.symm]

section LinkDown
variable {s : State} {g : Fin 4} (htwin : s.m.inTwin = true) (hlink : s.m.isOn TWIN_STAT_link = true) (hceded : s.m.ceded = false)
  (hph : s.m.get TWIN_STAT_phase ≠ 6)
include htwin hlink hceded hph

theorem exec_twinLinkDown : exec (.twinLinkDown g) s = .next (s.settle (s.m.linkLost g).pairingFailed.unlinked) := by
  have hc : (s.m.linkLost g).ceded = false :=
    (isOn_linkLost _ _ _ (by decide) (by decide) (by decide) (by decide) (by decide)).trans hceded
  have hp := get_linkLost s.m g TWIN_STAT_phase (by decide) (by decide) (by decide) (by decide) (by decide)
  show execTwinLinkDown g s = _
  unfold execTwinLinkDown
  rw [on_apply, if_neg (by simp [htwin])]
  show Host.Outcome.next (s.settle (if (!s.m.isOn TWIN_STAT_link) = true then _ else if _ then _ else _)) = _
  rw [if_neg (by simp [hlink])]
  change Host.Outcome.next (s.settle (if (s.m.linkLost g).ceded = true ∨ (s.m.linkLost g).get TWIN_STAT_phase = 6 then s.m.linkLost g
    else (s.m.linkLost g).pairingFailed.unlinked)) = _
  rw [if_neg (by simp [hc, hp, hph])]

theorem ends_twinLinkDown_lead (h : s.m.isOn TWIN_STAT_role = true ∨
    (s.m.power = 4 ∧ s.m.isOn TWIN_STAT_sync = false ∧ s.m.twin.stopped = false)) : Ends (.twinLinkDown g) s fun n => n.leadsAlone ∧
      n.isOn TWIN_STAT_link = false ∧ n.isOn TWIN_ESTAT_link = true ∧ (s.m.isOn TWIN_CMDSTAT_busy = true ∨ s.m.get TWIN_STAT_phase = 1 ∨
        s.m.get TWIN_STAT_phase = 2 ∨ s.m.get TWIN_STAT_phase = 3 → n.endedWith 2) := by
  have hn := exec_twinLinkDown (g := g) htwin hlink hceded hph
  obtain ⟨hrole, hsync, hpower, hstopped⟩ := reads_unlinking s.m g
  obtain ⟨hl, he⟩ := links_unlinking s.m g
  rw [unlinked_lead (by rw [hrole, hsync, hpower, hstopped]; exact h)] at hn
  refine ends_settled hn fun t _ hk => ⟨hk.leadsAlone (goSolo_leadsAlone _), ?_, ?_, fun hb => ?_⟩
  · rw [hk.isOn _ (by decide), isOn_goSolo _ _ (by decide) (by decide) (by decide), hl]
  · rw [hk.isOn _ (by decide), isOn_goSolo _ _ (by decide) (by decide) (by decide), he]
  · have hpairing : (s.m.linkLost g).pairing = true := by
      unfold Fjoek.pairing
      rw [isOn_linkLost _ _ _ (by decide) (by decide) (by decide) (by decide) (by decide),
        get_linkLost _ _ _ (by decide) (by decide) (by decide) (by decide) (by decide)]
      simpa [or_assoc] using hb
    exact hk.endedWith (endedWith_goSolo (by rw [pairingFailed_of hpairing]; exact endedWith_twinEnd _ (by decide) true))

theorem ends_twinLinkDown_trailing (hrole : s.m.isOn TWIN_STAT_role = false)
    (h : s.m.isOn TWIN_STAT_sync = true ∨ s.m.twin.stopped = true) : Ends (.twinLinkDown g) s fun n => n.trailsStopped ∧
      n.isOn TWIN_STAT_link = false ∧ n.isOn TWIN_ESTAT_link = true := by
  have hn := exec_twinLinkDown (g := g) htwin hlink hceded hph
  obtain ⟨hrole', hsync, _, hstopped⟩ := reads_unlinking s.m g
  obtain ⟨hl, he⟩ := links_unlinking s.m g
  rw [unlinked_trailing (hrole'.trans hrole) (by rw [hsync, hstopped]; exact h)] at hn
  refine ends_settled hn fun t _ hk => ⟨hk.trailsStopped (twinStop_trailsStopped _), ?_, ?_⟩
  · rw [hk.isOn _ (by decide), isOn_twinStop _ _ (by decide) (by decide), hl]
  · rw [hk.isOn _ (by decide), isOn_twinStop _ _ (by decide) (by decide), he]

end LinkDown

end Sys2Proof.Machine
end

section
/-! PROOFS. Both modules of a pair enter in-step mode (R377). -/

namespace Sys2Proof.Machine

/-! ## What a module in step reads -/

/-- `n` is in step with its pair, one resync more than `m` (R377). -/
def Fjoek.steppedIn (m n : Fjoek) : Prop := n.isOn TWIN_STAT_sync = true ∧ n.isOn TWIN_STAT_solo = false ∧ n.get TWIN_STAT_phase = 4 ∧
  n.isOn SEAM_CTL_instep = true ∧ n.reg64 TWIN_RESYNCS_LO = (m.reg64 TWIN_RESYNCS_LO + 1) % 2 ^ 64 ∧ n.endedWith 0

theorem Kept.resyncs {m n : Fjoek} (h : Kept m n) : n.reg64 TWIN_RESYNCS_LO = m.reg64 TWIN_RESYNCS_LO := by
  unfold Fjoek.reg64
  rw [h.reg _ (by decide), h.reg _ (by decide)]

theorem Kept.steppedIn {m n n' : Fjoek} (h : Kept n n') (hs : m.steppedIn n) : m.steppedIn n' := by
  obtain ⟨hsync, hsolo, hphase, hstep, hcount, hcode⟩ := hs
  refine ⟨?_, ?_, ?_, ?_, ?_, h.endedWith hcode⟩
  · rw [h.isOn _ (by decide), hsync]
  · rw [h.isOn _ (by decide), hsolo]
  · rw [h.get _ (by decide), hphase]
  · rw [h.isOn _ (by decide), hstep]
  · rw [h.resyncs, hcount]

/-! ## Drained strands -/

theorem tableFind_mem {α : Type} {t : Table α} {k : Nat} {v : α} (h : tableFind t k = some v) : (k, v) ∈ t := by
  induction t with
  | nil => cases h
  | cons e r ih =>
    obtain ⟨j, u⟩ := e
    unfold tableFind at h
    split at h
    · rename_i hj
      cases h
      rw [hj]
      exact List.mem_cons_self
    · exact List.mem_cons_of_mem _ (ih h)

/-- A strand that is not listed is idle, so that a drained module's strands are drained, every one (R46). -/
theorem drained_of_allDrained {m : Fjoek} (h : m.allDrained = true) (k : Nat) : m.drained k = true := by
  unfold Fjoek.allDrained at h
  simp only [Bool.and_eq_true, List.all_eq_true] at h
  obtain ⟨⟨hlisted, _⟩, _⟩ := h
  cases hk : tableFind m.seam.strands k with
  | some x => exact hlisted _ (tableFind_mem hk)
  | none =>
    have hidle : m.strand k = strandReset k := by
      unfold Fjoek.strand tableGet
      rw [hk]
    unfold Fjoek.drained
    rw [hidle]
    rfl

/-! ## In-step mode -/

/-- In-step mode is on, at round 0. -/
def Fjoek.stepOn (m : Fjoek) : Fjoek :=
  if m.isOn SEAM_CTL_instep then m
  else
    let m := m.put SEAM_CTL_instep 1
    { m with seam := { m.seam with rounds := [], offered := [] } }

theorem instepWrite_drained {m : Fjoek} (h : m.allDrained = true) : m.instepWrite true = m.stepOn := by
  unfold Fjoek.instepWrite Fjoek.stepOn
  rw [if_neg (by simp), if_pos (List.all_eq_true.2 fun k _ => drained_of_allDrained h k)]

theorem reg_stepOn (m : Fjoek) {a : Nat} (h : a ≠ SEAM_CTL_instep.addr) : m.stepOn.reg a = m.reg a := by
  unfold Fjoek.stepOn
  split
  · rfl
  · exact Fjoek.reg_put_ne m _ 1 h

theorem instep_stepOn (m : Fjoek) : m.stepOn.isOn SEAM_CTL_instep = true := by
  unfold Fjoek.stepOn
  split
  · assumption
  · exact (Fjoek.isOn_of_regs _ rfl).trans (Fjoek.isOn_put_same m _ (by decide) rfl)

theorem get_stepOn (m : Fjoek) (f : Fld) (h : f.addr ≠ SEAM_CTL_instep.addr) : m.stepOn.get f = m.get f := by
  unfold Fjoek.get
  rw [reg_stepOn m h]

theorem isOn_stepOn (m : Fjoek) (f : Fld) (h : f.addr ≠ SEAM_CTL_instep.addr) : m.stepOn.isOn f = m.isOn f := by
  unfold Fjoek.isOn
  rw [get_stepOn m f h]

theorem reg64_stepOn (m : Fjoek) {a : Nat} (h : a ≠ SEAM_CTL_instep.addr) (h' : a + 4 ≠ SEAM_CTL_instep.addr) :
    m.stepOn.reg64 a = m.reg64 a := by
  unfold Fjoek.reg64
  rw [reg_stepOn m h, reg_stepOn m h']

theorem twin_stepOn (m : Fjoek) : m.stepOn.twin = m.twin := by
  unfold Fjoek.stepOn
  split
  · rfl
  · exact m.twin_put SEAM_CTL_instep 1

/-! ## The step into it -/

/-- The module with its log begun anew, before in-step mode. -/
def Fjoek.logBegun (m : Fjoek) : Fjoek :=
  let m := (((m.put TWIN_STAT_sync 1).put TWIN_STAT_solo 0).put TWIN_STAT_phase 4).setReg64 THIM_UNMIRPG_LO 0
  m.setTwin { m.twin with
    nextSeq := 1, log := [], acked := 0, recvSeq := 0, ring := [], horizon := [], epoch := 0, epochRounds := [], closed := 0
    own := [], peer := [], uncompared := [], tries := 0, retryDue := false, dispatchStopped := false, stopped := false
    partItems := [], leadFns := [] }

theorem enterStep_eq (m : Fjoek) : m.enterStep = ((m.logBegun.instepWrite true).count TWIN_RESYNCS_LO 1).twinEnd 0 false := by
  unfold Fjoek.enterStep Fjoek.logBegun
  rfl

theorem twin_logBegun (m : Fjoek) : m.logBegun.twin.acked = 0 ∧ m.logBegun.twin.recvSeq = 0 ∧ m.logBegun.twin.dispatchStopped = false ∧
    m.logBegun.twin.stopped = false := by
  unfold Fjoek.logBegun
  rw [Fjoek.twin_setTwin]
  exact ⟨rfl, rfl, rfl, rfl⟩

theorem allDrained_logBegun (m : Fjoek) : m.logBegun.allDrained = m.allDrained := by
  unfold Fjoek.logBegun
  refine allDrained_of_eq ?_ ?_
  · rw [Fjoek.seam_setTwin, Fjoek.seam_setReg64, Fjoek.seam_put, Fjoek.seam_put, Fjoek.seam_put]
  · rw [Fjoek.mngl_setTwin, Fjoek.mngl_setReg64, Fjoek.mngl_put, Fjoek.mngl_put, Fjoek.mngl_put]

theorem enterStep_drained {m : Fjoek} (h : m.allDrained = true) :
    m.enterStep = (m.logBegun.stepOn.count TWIN_RESYNCS_LO 1).twinEnd 0 false := by
  rw [enterStep_eq, instepWrite_drained ((allDrained_logBegun m).trans h)]

theorem Fjoek.get_setReg64_ne (m : Fjoek) (a v : Nat) (f : Fld) (h : f.addr ≠ a) (h' : f.addr ≠ a + 4) :
    (m.setReg64 a v).get f = m.get f := by
  unfold Fjoek.get
  rw [Fjoek.reg_setReg64_ne _ _ _ h h']

theorem Fjoek.isOn_setReg64_ne (m : Fjoek) (a v : Nat) (f : Fld) (h : f.addr ≠ a) (h' : f.addr ≠ a + 4) :
    (m.setReg64 a v).isOn f = m.isOn f := by
  unfold Fjoek.isOn
  rw [Fjoek.get_setReg64_ne m a v f h h']

theorem Fjoek.reg64_setReg64_ne (m : Fjoek) (a v : Nat) {b : Nat} (h : b ≠ a ∧ b ≠ a + 4) (h' : b + 4 ≠ a ∧ b + 4 ≠ a + 4) :
    (m.setReg64 a v).reg64 b = m.reg64 b := by
  unfold Fjoek.reg64
  rw [Fjoek.reg_setReg64_ne _ _ _ h.1 h.2, Fjoek.reg_setReg64_ne _ _ _ h'.1 h'.2]

theorem resyncs_logBegun (m : Fjoek) : m.logBegun.reg64 TWIN_RESYNCS_LO = m.reg64 TWIN_RESYNCS_LO := by
  simp (disch := decide) only [Fjoek.logBegun, Fjoek.reg64_setTwin, Fjoek.reg64_setReg64_ne, Fjoek.reg64_put_ne]

/-- A drained module comes in step with its pair. -/
theorem steppedIn_enterStep {m : Fjoek} (h : m.allDrained = true) : m.steppedIn m.enterStep := by
  rw [enterStep_drained h]
  refine ⟨?_, ?_, ?_, ?_, ?_, endedWith_twinEnd _ (by decide) false⟩
  case refine_5 =>
    rw [twinEnd_quiet]
    simp (disch := decide) only [Fjoek.reg64_put_ne, Fjoek.reg64_count, reg64_stepOn, resyncs_logBegun]
  case refine_4 => simp (disch := decide) only [isOn_twinEnd, Fjoek.isOn_count_ne, instep_stepOn]
  all_goals simp (disch := decide) only [isOn_twinEnd, get_twinEnd, Fjoek.isOn_count_ne, Fjoek.get_count_ne, isOn_stepOn, get_stepOn,
    Fjoek.logBegun, Fjoek.isOn_setTwin, Fjoek.get_setTwin, Fjoek.isOn_setReg64_ne, Fjoek.get_setReg64_ne, Fjoek.isOn_put_apart,
    Fjoek.isOn_put_same, Fjoek.isOn_put_clear, Fjoek.get_put_same]
  rfl

theorem twin_enterStep {m : Fjoek} (h : m.allDrained = true) : m.enterStep.twin = m.logBegun.twin := by
  rw [enterStep_drained h, twin_twinEnd, Fjoek.twin_count, twin_stepOn]

/-! ## The lead -/

theorem each_sends {α : Type} {f : α → Fjoek → Fjoek} (hf : ∀ x m, ∃ o, f x m = m.sends o) (l : List α) (m : Fjoek) :
    ∃ o, m.each l f = m.sends o := by
  unfold Fjoek.each
  induction l generalizing m with
  | nil => exact ⟨[], by simp [Fjoek.sends]⟩
  | cons x r ih =>
    obtain ⟨o, ho⟩ := hf x m
    obtain ⟨q, hq⟩ := ih (m.sends o)
    exact ⟨o ++ q, by rw [List.foldl_cons, ho, hq, sends_sends]⟩

/-- The rest of the copy goes by messages. -/
theorem each_rewritten (map : List (List Nat)) (l : List Nat) (m : Fjoek) : ∃ o,
    (m.each l fun p m => (pageMode map p).elim m fun d => m.send (.twinMsg 0x10 [d, 4096 * p, 1])) = m.sends o := by
  refine each_sends (fun p m => ?_) l m
  cases pageMode map p with
  | none => exact ⟨[], by simp [Fjoek.sends]⟩
  | some d => exact ⟨[.twinMsg 0x10 [d, 4096 * p, 1]], rfl⟩

/-- What a lead does beyond the step into in-step mode: the prints that the map gives, packets held, and dispatch. -/
def Fjoek.leadResumed (m : Fjoek) (map : List (List Nat)) : Fjoek :=
  let m := m.setTwin { m.twin with shadow := printPages map }
  (m.each m.xport.qps fun e m => m.each e.2.held fun k m => m.logFrame k).dispatch

theorem kept_logFrame (m : Fjoek) (k : Pkt) : Kept m (m.logFrame k) := kept_logTwin _ _ _ _

theorem kept_shadow (m : Fjoek) (t : Table Nat) : Kept m (m.setTwin { m.twin with shadow := t }) where
  reg _ _ := rfl
  twin := rfl
  log := ⟨[], by simp [Fjoek.setTwin]⟩
  quiet _ := rfl
  held _ := rfl

theorem kept_leadResumed (m : Fjoek) (map : List (List Nat)) : Kept m (m.leadResumed map) := by
  unfold Fjoek.leadResumed
  refine Kept.trans ?_ (kept_dispatch _)
  exact (kept_shadow m _).trans (Kept.each _ _ (fun e _ m => Kept.each _ _ (fun k _ m => kept_logFrame m k) m) _)

theorem exec_freezeDrained_lead {s : State} (hs : s.m.twin.swapping = false) (hph : s.m.get TWIN_STAT_phase = 3)
    (hdrained : s.m.allDrained = true) (hrole : s.m.isOn TWIN_STAT_role = true) : ∃ o map,
      exec (.resyncFreezeDrained []) s = .next (s.settle ((s.m.sends o).enterStep.leadResumed map)) := by
  obtain ⟨o, ho⟩ := each_rewritten (stateMap s.m (s.m.get TWIN_STMAP_base * 2 ^ 20) 4096 0) s.m.twin.rewritten s.m
  refine ⟨o ++ [.twinMsg 0x10 [5]], stateMap s.m (s.m.get TWIN_STMAP_base * 2 ^ 20) 4096 0, ?_⟩
  have hsent : s.m.sends (o ++ [.twinMsg 0x10 [5]]) = (s.m.sends o).send (.twinMsg 0x10 [5]) := (sends_sends _ _ _).symm
  rw [hsent, ← ho]
  show execResyncFreezeDrained [] s = _
  unfold execResyncFreezeDrained Fjoek.leadResumed
  rw [on_apply, if_neg (by simp [hs]), if_neg (not_not_intro hph), if_pos hrole, if_neg (by simp [hdrained])]

theorem ends_freezeDrained_lead {s : State} (hs : s.m.twin.swapping = false) (hph : s.m.get TWIN_STAT_phase = 3)
    (hdrained : s.m.allDrained = true) (hrole : s.m.isOn TWIN_STAT_role = true) : Ends (.resyncFreezeDrained []) s fun n =>
      s.m.steppedIn n ∧ n.twin.acked = 0 ∧ n.twin.dispatchStopped = false := by
  obtain ⟨o, map, hn⟩ := exec_freezeDrained_lead hs hph hdrained hrole
  have hd : (s.m.sends o).allDrained = true := (allDrained_of_eq rfl rfl).trans hdrained
  obtain ⟨hacked, _, hdispatch, _⟩ := twin_logBegun (s.m.sends o)
  refine ends_settled hn fun t _ hk => ?_
  have h := (kept_leadResumed (s.m.sends o).enterStep map).trans hk
  refine ⟨h.steppedIn ?_, ?_, ?_⟩
  · have hstep := steppedIn_enterStep hd
    unfold Fjoek.steppedIn at hstep ⊢
    rw [Fjoek.reg64_of_regs _ (s.m.regs_sends o)] at hstep
    exact hstep
  · rw [h.field Twin.acked, twin_enterStep hd, hacked]
  · rw [h.field Twin.dispatchStopped, twin_enterStep hd, hdispatch]

end Sys2Proof.Machine
end

section
/-! PROOFS. A trailing twin enters in-step mode with what was copied to it (R377). -/

namespace Sys2Proof.Machine

/-! ## HBM as it is read -/

/-- HBM reads in `n` as in `m`: its bytes, and the aperture over them, are the same. -/
structure SameHbm (m n : Fjoek) : Prop where
  hbm : n.hbm = m.hbm
  era : n.era = m.era
  ctl : n.reg STRP_CTL_apen.addr = m.reg STRP_CTL_apen.addr
  base : n.reg STRP_APBASE_base.addr = m.reg STRP_APBASE_base.addr

theorem SameHbm.trans {a b c : Fjoek} (h : SameHbm a b) (k : SameHbm b c) : SameHbm a c :=
  ⟨k.hbm.trans h.hbm, k.era.trans h.era, k.ctl.trans h.ctl, k.base.trans h.base⟩

theorem SameHbm.refl (m : Fjoek) : SameHbm m m := ⟨rfl, rfl, rfl, rfl⟩

theorem SameHbm.each {α : Type} (l : List α) (f : α → Fjoek → Fjoek) (h : ∀ x ∈ l, ∀ m, SameHbm m (f x m)) (m : Fjoek) :
    SameHbm m (m.each l f) := by
  unfold Fjoek.each
  induction l generalizing m with
  | nil => exact SameHbm.refl m
  | cons x r ih => exact (h x List.mem_cons_self m).trans (ih (fun y hy => h y (List.mem_cons_of_mem _ hy)) (f x m))

theorem Noted.sameHbm {m n : Fjoek} (h : Noted m n) : SameHbm m n := ⟨h.hbm, h.era, h.reg _ (by decide), h.reg _ (by decide)⟩

theorem sameHbm_of_regs {m n : Fjoek} (hh : n.hbm = m.hbm) (he : n.era = m.era) (hr : n.regs = m.regs) : SameHbm m n := by
  refine ⟨hh, he, ?_, ?_⟩
  all_goals
    unfold Fjoek.reg
    rw [hr]

theorem sameHbm_setReg (m : Fjoek) (a v : Nat) (h : STRP_CTL_apen.addr ≠ a) (h' : STRP_APBASE_base.addr ≠ a) : SameHbm m (m.setReg a v) :=
  ⟨rfl, rfl, Fjoek.reg_setReg_ne _ _ h, Fjoek.reg_setReg_ne _ _ h'⟩

theorem sameHbm_put (m : Fjoek) (f : Fld) (v : Nat) (h : STRP_CTL_apen.addr ≠ f.addr) (h' : STRP_APBASE_base.addr ≠ f.addr) :
    SameHbm m (m.put f v) := sameHbm_setReg m _ _ h h'

theorem sameHbm_setReg64 (m : Fjoek) (a v : Nat) (h : STRP_CTL_apen.addr ≠ a ∧ STRP_APBASE_base.addr ≠ a)
    (h' : STRP_CTL_apen.addr ≠ a + 4 ∧ STRP_APBASE_base.addr ≠ a + 4) : SameHbm m (m.setReg64 a v) :=
  (sameHbm_setReg m _ _ h.1 h.2).trans (sameHbm_setReg _ _ _ h'.1 h'.2)

theorem sameHbm_setTwin (m : Fjoek) (t : Twin) : SameHbm m (m.setTwin t) := sameHbm_of_regs rfl rfl rfl

theorem sameHbm_unburnt (m : Fjoek) : SameHbm m m.unburnt := sameHbm_of_regs rfl rfl rfl

theorem SameHbm.hbmByte {m n : Fjoek} (h : SameHbm m n) (a : Nat) : n.hbmByte a = m.hbmByte a := by
  unfold Fjoek.hbmByte Fjoek.hbmCell Fjoek.inAperture Fjoek.isOn Fjoek.get
  rw [h.hbm, h.era, h.ctl, h.base]

theorem SameHbm.hbmBytes {m n : Fjoek} (h : SameHbm m n) (a k : Nat) : n.hbmBytes a k = m.hbmBytes a k := by
  unfold Fjoek.hbmBytes
  exact List.map_congr_left fun i _ => h.hbmByte (a + i)

/-- What is written beside the aperture reads back. -/
theorem hbmBytes_put (m : Fjoek) {a : Nat} {b : List Byte} (h : m.inAperture a b.length = false) : (m.hbmPut a b).hbmBytes a b.length = b := by
  unfold Fjoek.hbmBytes
  refine List.ext_getElem (by simp) fun i hi hi' => ?_
  rw [List.getElem_map, List.getElem_range, hbmByte_put, if_pos ⟨⟨by omega, by omega⟩, inAperture_byte m a _ _ h ⟨by omega, by omega⟩⟩,
    Nat.add_sub_cancel_left, List.getD_eq_getElem _ _ hi']

/-! ## Ports -/

/-- Releasing a port writes one register, of its drive port. -/
theorem regs_releasePort (m : Fjoek) (p : Nat) : (m.releasePort p).regs = (m.put (DRV_PCTL_disable p) 0).regs := rfl

/-- The drive ports' registers are none of the pair's, nor of the aperture or NETP. -/
theorem pctl_between {p : Nat} (hp : p < 24) : 0x280000 ≤ (DRV_PCTL_disable p).addr ∧ (DRV_PCTL_disable p).addr < 0x2B0000 := by
  show 0x280000 ≤ 0x280000 + 0x2000 * p ∧ 0x280000 + 0x2000 * p < 0x2B0000
  omega

theorem not_pairReg_drive {a : Nat} (h : 0x280000 ≤ a ∧ a < 0x2B0000) : a ∉ pairRegs := by
  simp [pairRegs, TOP_STRAP, HEARTH_STAT_state, SEAM_CTL_instep, TWIN_STAT, TWIN_ESTAT, TWIN_CMDSTAT_busy, TWIN_RESYNCS_LO]
  omega

theorem kept_releasePort (m : Fjoek) {p : Nat} (hp : p < 24) : Kept m (m.releasePort p) :=
  (kept_put m (DRV_PCTL_disable p) 0 (not_pairReg_drive (pctl_between hp))).to rfl rfl

theorem mem_released {m : Fjoek} {p : Nat}
    (h : p ∈ (List.range 24).filter fun p => m.isOn (BAY_STAT_pg p) && m.isOn (DRV_PCTL_disable p)) : p < 24 :=
  List.mem_range.1 (List.mem_filter.1 h).1

theorem kept_releaseBays (m : Fjoek) : Kept m m.releaseBays :=
  Kept.each _ _ (fun _ hp m => kept_releasePort m (mem_released hp)) m

theorem sameHbm_releasePort (m : Fjoek) {p : Nat} (hp : p < 24) : SameHbm m (m.releasePort p) := by
  have hb := pctl_between hp
  refine (sameHbm_put m (DRV_PCTL_disable p) 0 ?_ ?_).trans (sameHbm_of_regs rfl rfl (regs_releasePort m p))
  · show 0x250000 ≠ _
    omega
  · show 0x250004 ≠ _
    omega

theorem sameHbm_releaseBays (m : Fjoek) : SameHbm m m.releaseBays :=
  SameHbm.each _ _ (fun _ hp m => sameHbm_releasePort m (mem_released hp)) m

theorem isOn_releasePort (m : Fjoek) {p : Nat} (hp : p < 24) (f : Fld) (hf : f.addr < 0x280000) : (m.releasePort p).isOn f = m.isOn f := by
  have hne : f.addr ≠ (DRV_PCTL_disable p).addr := by
    have := pctl_between hp
    omega
  rw [Fjoek.isOn_of_regs f (regs_releasePort m p)]
  unfold Fjoek.isOn Fjoek.get
  rw [Fjoek.reg_put_ne _ _ _ hne]

theorem isOn_each {α : Type} (f : Fld) (l : List α) (g : α → Fjoek → Fjoek) (h : ∀ x ∈ l, ∀ m, (g x m).isOn f = m.isOn f) (m : Fjoek) :
    (m.each l g).isOn f = m.isOn f := by
  unfold Fjoek.each
  induction l generalizing m with
  | nil => rfl
  | cons x r ih => exact (ih (fun y hy => h y (List.mem_cons_of_mem _ hy)) (g x m)).trans (h x List.mem_cons_self m)

theorem isOn_releaseBays (m : Fjoek) (f : Fld) (hf : f.addr < 0x280000) : m.releaseBays.isOn f = m.isOn f :=
  isOn_each f _ _ (fun _ hp m => isOn_releasePort m (mem_released hp) f hf) m

theorem sameHbm_setTxsup (m : Fjoek) (v : Bool) : SameHbm m (m.setTxsup v) :=
  SameHbm.each _ _ (fun j hj m => by
    have hb := txsup_between (List.mem_range.1 hj)
    refine sameHbm_put m _ _ ?_ ?_
    · show 0x250000 ≠ _
      omega
    · show 0x250004 ≠ _
      omega) m

/-! ## The step -/

theorem sameHbm_stepOn (m : Fjoek) : SameHbm m m.stepOn := by
  unfold Fjoek.stepOn
  split
  · exact SameHbm.refl m
  · exact (sameHbm_put m SEAM_CTL_instep 1 (by decide) (by decide)).trans (sameHbm_of_regs rfl rfl rfl)

theorem sameHbm_logBegun (m : Fjoek) : SameHbm m m.logBegun := by
  unfold Fjoek.logBegun
  refine SameHbm.trans ?_ (sameHbm_setTwin _ _)
  refine SameHbm.trans ?_ (sameHbm_setReg64 _ _ _ (by decide) (by decide))
  exact ((sameHbm_put m _ _ (by decide) (by decide)).trans (sameHbm_put _ _ _ (by decide) (by decide))).trans
    (sameHbm_put _ _ _ (by decide) (by decide))

theorem sameHbm_enterStep {m : Fjoek} (h : m.allDrained = true) : SameHbm m m.enterStep := by
  rw [enterStep_drained h, twinEnd_quiet]
  refine SameHbm.trans ?_ (sameHbm_put _ _ _ (by decide) (by decide))
  refine SameHbm.trans ?_ (sameHbm_put _ _ _ (by decide) (by decide))
  refine SameHbm.trans ?_ (sameHbm_setReg64 _ _ _ (by decide) (by decide))
  exact (sameHbm_logBegun m).trans (sameHbm_stepOn _)

/-! ## The trailing twin -/

/-- What a trailing twin does beyond the step into in-step mode: its slots are suppressed and its bays' ports released. -/
def Fjoek.trailResumed (m : Fjoek) : Fjoek := (m.setTxsup true).releaseBays

theorem kept_trailResumed (m : Fjoek) : Kept m m.trailResumed := (kept_setTxsup m true).trans (kept_releaseBays _)

theorem sameHbm_trailResumed (m : Fjoek) : SameHbm m m.trailResumed := (sameHbm_setTxsup m true).trans (sameHbm_releaseBays _)

theorem txsup_trailResumed (m : Fjoek) {j : Nat} (hj : j < 32) : m.trailResumed.isOn (NETP_SSTAT_txsup j) = true := by
  have hb := txsup_between hj
  unfold Fjoek.trailResumed
  rw [isOn_releaseBays _ _ (by omega), isOn_setTxsup _ _ hj]

/-- A range of HBM is copied as a write of it. -/
theorem applyCopy_hbm (m : Fjoek) {c : CopyItem} (h : c.space = .hbm) : m.applyCopy c = m.hbmPut c.addr (c.vals.map (BitVec.ofNat 8)) := by
  unfold Fjoek.applyCopy
  rw [h]

theorem allDrained_hbmStore (m : Fjoek) (a : Nat) (b : List Byte) : (m.hbmStore a b).allDrained = m.allDrained :=
  allDrained_of_eq rfl rfl

theorem allDrained_hbmPut (m : Fjoek) (a : Nat) (b : List Byte) : (m.hbmPut a b).allDrained = m.allDrained := by
  unfold Fjoek.hbmPut
  split
  · exact allDrained_hbmStore m a b
  · exact (allDrained_hbmStore _ _ _).trans (allDrained_hbmStore m _ _)

section FreezeTrailing
variable {s : State} {item : CopyItem} (hs : s.m.twin.swapping = false) (hph : s.m.get TWIN_STAT_phase = 3)
  (hrole : s.m.isOn TWIN_STAT_role = false)
include hs hph hrole

theorem exec_freezeDrained_trailing : exec (.resyncFreezeDrained [item]) s =
    .next (s.settle (s.m.applyCopy item).enterStep.trailResumed) := by
  show execResyncFreezeDrained [item] s = _
  unfold execResyncFreezeDrained Fjoek.trailResumed
  rw [on_apply, if_neg (by simp [hs]), if_neg (not_not_intro hph), if_neg (by simp [hrole])]
  rfl

theorem ends_freezeDrained_trailing (hdrained : s.m.allDrained = true) (hspace : item.space = .hbm) :
    Ends (.resyncFreezeDrained [item]) s fun n => s.m.steppedIn n ∧ n.twin.stopped = false ∧ n.twin.recvSeq = 0 ∧
      (∀ j < 32, n.isOn (NETP_SSTAT_txsup j) = true) ∧ (s.m.inAperture item.addr item.vals.length = false →
        n.hbmBytes item.addr item.vals.length = item.vals.map (BitVec.ofNat 8)) := by
  have hn := exec_freezeDrained_trailing (item := item) hs hph hrole
  rw [applyCopy_hbm _ hspace] at hn
  generalize hb : item.vals.map (BitVec.ofNat 8) = b at hn
  have hlen : item.vals.length = b.length := by rw [← hb, List.length_map]
  have hd := (allDrained_hbmPut s.m item.addr b).trans hdrained
  have hcopy := kept_hbmPut s.m item.addr b
  obtain ⟨_, hrecv, _, hstopped⟩ := twin_logBegun (s.m.hbmPut item.addr b)
  refine ends_settled hn fun t ht hk => ?_
  have h := (kept_trailResumed (s.m.hbmPut item.addr b).enterStep).trans hk
  refine ⟨h.steppedIn ?_, ?_, ?_, fun j hj => ?_, fun hap => ?_⟩
  · have hstep := steppedIn_enterStep hd
    unfold Fjoek.steppedIn at hstep ⊢
    rw [hcopy.resyncs] at hstep
    exact hstep
  · rw [h.field Twin.stopped, twin_enterStep hd, hstopped]
  · rw [h.field Twin.recvSeq, twin_enterStep hd, hrecv]
  · have hlt := txsup_between hj
    rw [ht.isOn _ (noting_seam _ ⟨hlt.1, by omega⟩), Fjoek.isOn_unburnt, txsup_trailResumed _ hj]
  · have hsame := ((sameHbm_enterStep hd).trans (sameHbm_trailResumed _)).trans
      ((sameHbm_unburnt _).trans ht.sameHbm)
    rw [hlen] at hap ⊢
    rw [hsame.hbmBytes, hbmBytes_put _ hap]

end FreezeTrailing

end Sys2Proof.Machine
end

section
/-! PROOFS. Roles of a pair (R22, R57, R351 to R354, R374, R377, R379). -/

namespace Sys2Proof.Machine

/-- Settles O42: each command by what its effect makes of the pair's registers and of the TWIN block's state, which the work at a command's
end and the transport's, the switch core's and dispatch's answers to a lead that goes solo keep (`Kept`). -/
theorem twinRoles : Obligations.TwinRoles := by
  unfold Obligations.TwinRoles
  intro s peer k item rail held grp
  exact ⟨ends_pair_refused, ends_pair, ends_break_lead, ends_break_trailing, does_break_unsynced,
    ends_swap, does_swap_unserving, does_swap_unlinked, does_swap_unled,
    ends_resync_lead, does_resync_unserving, ends_resync_asked, ends_resyncCopyDone,
    fun ⟨hs, hph⟩ => ends_freezeDrained_lead hs hph,
    fun ⟨hs, hph⟩ hd hrole => ends_freezeDrained_trailing hs hph hrole hd,
    ends_freezeTimeout_swap, fun ⟨hs, hph⟩ => ends_freezeTimeout_lead hs hph, fun ⟨hs, hph⟩ => does_freezeTimeout_trailing hs hph,
    ends_resyncRetry, does_autoresync, does_heartbeatToggle, ends_heartbeatLoss,
    fun htwin hrun => ⟨does_heartbeatEdge htwin hrun, does_twinLinkUp htwin hrun⟩, ends_cede,
    fun ⟨htwin, hlink, hceded, hph⟩ => ends_twinLinkDown_lead htwin hlink hceded hph,
    fun ⟨htwin, hlink, hceded, hph⟩ => ends_twinLinkDown_trailing htwin hlink hceded hph⟩

end Sys2Proof.Machine
end

section
/-! PROOFS. An instruction that faults (R45, R71): the fault alone is its effect. -/

namespace Sys2Proof.Machine

/-! ## The end of a round after a fault -/

/-- A register from SEAM's window to the drive ports', but not SEAM_CTL: whether the module replays does not depend on it. -/
def besideRole (a : Nat) : Prop := 0x200000 ≤ a ∧ a < 0x300000 ∧ a ≠ SEAM_CTL

theorem trailing_put (m : Fjoek) (f : Fld) (v : Nat) (hf : besideRole f.addr) : (m.put f v).trailing = m.trailing := by
  have hne (g : Fld) (hg : g.addr = SEAM_CTL ∨ g.addr < 0x200000 ∨ 0x300000 ≤ g.addr) : (m.put f v).get g = m.get g := by
    refine Fjoek.get_setReg_ne _ _ _ _ ?_
    obtain ⟨hlo, hhi, hctl⟩ := hf
    rintro he
    rw [he] at hg
    omega
  unfold Fjoek.trailing Fjoek.isOn
  rw [hne TOP_STRAP_twin (by decide), hne SEAM_CTL_instep (by decide), hne TWIN_STAT_role (by decide), hne TWIN_STAT_phase (by decide)]

theorem calm_put (m : Fjoek) (f : Fld) (v e : Nat) (hf : besideRole f.addr) (h : m.calm e) : (m.put f v).calm e :=
  ⟨h.1, fun ht => h.2 (by rwa [trailing_put m f v hf] at ht)⟩

theorem besideRole_estat {e : Nat} (he : e < 64) : besideRole (SEAM_ESTAT e) := by
  unfold besideRole SEAM_ESTAT SEAM_CTL
  omega

/-- Nothing waits for the end of a round because a strand faults: a strand in FAULT waits on no fence. -/
theorem calm_faulting (m : Fjoek) (i : Issue) (cause : Nat) (h : m.calm i.e.val) : (m.faulting i cause).calm i.e.val :=
  calm_put _ _ _ _ (besideRole_estat i.e.isLt) (calm_put _ _ _ _ (besideRole_estat i.e.isLt) (calm_setStrand _ _ _ _ h rfl))

/-! ## Instructions whose body faults -/

/-- The module right after what every issue does, with the strand as its instruction finds it. -/
def Fjoek.underway (m : Fjoek) (i : Issue) : Fjoek := (m.setStrand (issueKey i) (m.issuing i)).issued (issueKey i) true

theorem underway_sampled (m : Fjoek) (i : Issue) : Sampled (m.setStrand (issueKey i) (m.issuing i)) (m.underway i) := issue_sampled m i

/-- An instruction that issues and whose body is a fault faults. -/
theorem runs_fault {s : State} {i : Issue} {c : Instr} {uses : List Nat} {hold : Fjoek → Strand → Option StallFor}
    {body : Nat → Strand → Fjoek → Fjoek} (cause : Nat) (hx : exec c s = .next (s.settle (s.m.issueHold i uses hold body)))
    (h : s.m.issuable i uses) (hh : hold s.m (s.m.issuing i) = none)
    (hb : body (issueKey i) (s.m.issuing i) (s.m.underway i) = (s.m.underway i).faultStrand (issueKey i) cause) :
    Runs c s (s.m.faulting i cause) := by
  refine runs_body s i c uses hold body hx h hh _ (calm_faulting _ _ _ h.2.2.2.2) ?_
  rintro j - rfl
  rw [show (s.m.setStrand _ _).issued _ _ = s.m.underway i from rfl, hb]
  exact faultStrand_sampled s.m _ i cause h.1 (Sampled.refl _)

theorem accsFull_room {m : Fjoek} {x : Strand} (h : x.accs.length < 8) : Strand.accsFull m x = none := if_neg (by omega)

/-! ## What the checks of a body find -/

theorem underway_lFault (m : Fjoek) (i : Issue) (a n : Nat) (r : Bool) :
    (m.underway i).lFault i.e.val a n r = m.lFault i.e.val a n r := (underway_sampled m i).lFault _ _ _ _

theorem underway_leaseOf (m : Fjoek) (i : Issue) (k h : Nat) : (m.underway i).leaseOf k h = m.leaseOf k h :=
  (underway_sampled m i).leaseOf k h

theorem underway_privileged (m : Fjoek) (i : Issue) : (m.underway i).privileged (issueKey i) = m.isOn (SEAM_STRCTL_priv i.e.val i.s.val) := by
  rw [(underway_sampled m i).privileged _ (issueKey_lt i)]
  unfold Fjoek.privileged
  rw [issueKey_div, issueKey_mod]
  rfl

theorem underway_inHwin (m : Fjoek) (i : Issue) (a n : Nat) : (m.underway i).inHwin i.e.val a n = m.inHwin i.e.val a n :=
  (underway_sampled m i).inHwin _ _ _ i.e.isLt

theorem underway_inStaging (m : Fjoek) (i : Issue) (a n : Nat) : (m.underway i).inStaging a n = m.inStaging a n :=
  (underway_sampled m i).inStaging a n

theorem underway_bulkFault (m : Fjoek) (i : Issue) (x : Strand) (a : Nat) :
    (m.underway i).bulkFault (issueKey i) x a = m.bulkFault (issueKey i) x a := by
  have hs := underway_sampled m i
  have hd : (m.underway i).descFrom (issueKey i) x a = m.descFrom (issueKey i) x a := by
    unfold Fjoek.descFrom
    simp only [hs.mngl, hs.lNat]
    rfl
  unfold Fjoek.bulkFault Fjoek.handlesOk
  simp only [hd, underway_leaseOf]
  rw [hs.seam]
  rfl

/-! ## Faults by class -/

section
variable (s : State) (i : Issue) (rd ra rb : Fin 32)

theorem runs_lLoad_fault {c : Instr} {off : BitVec 18} {n : Nat} {f : Nat → Word64} (cause : Nat)
    (hx : exec c s = .next (s.settle (s.m.lLoad i rd ra off n f))) (h : s.m.issuable i [onlyWrites rd, ra.val])
    (hf : s.m.lFault i.e.val (address (s.m.issuing i) ra off) n true = some cause) : Runs c s (s.m.faulting i cause) := by
  refine runs_fault cause hx h rfl ?_
  simp only [underway_lFault, hf]

theorem runs_hAccess_fault {c : Instr} {uses : List Nat} {off : BitVec 24} {w : Bool} {mk : Strand → Nat → Access} (cause : Nat)
    (hx : exec c s = .next (s.settle (s.m.hAccess i uses ra off w mk))) (h : s.m.issuable i (ra.val :: uses))
    (hr : (s.m.issuing i).accs.length < 8)
    (hf : (if !s.m.inHwin i.e.val (address (s.m.issuing i) ra off) 1 then some 0x04
      else if w && s.m.inStaging (address (s.m.issuing i) ra off) 8 then some 0x04
      else if address (s.m.issuing i) ra off % 8 ≠ 0 then some 0x06 else none) = some cause) : Runs c s (s.m.faulting i cause) := by
  refine runs_fault cause hx h (accsFull_room hr) ?_
  simp only [underway_inHwin, underway_inStaging]
  split_ifs at hf ⊢ <;> simp_all

theorem runs_qAccess_fault {c : Instr} {uses : List Nat} {off : BitVec 9} {ok : Strand → Nat → Nat → Bool} {mk : Strand → Nat → Nat → Access}
    (hx : exec c s = .next (s.settle (s.m.qAccess i uses ra off ok mk))) (h : s.m.issuable i (ra.val :: uses))
    (hr : (s.m.issuing i).accs.length < 8)
    (hf : 65536 ≤ ((s.m.issuing i).rd ra.val).toNat ∨
      (!ok (s.m.issuing i) ((s.m.issuing i).rd ra.val).toNat (off.toNat / 8)) = true) : Runs c s (s.m.faulting i 0x07) :=
  runs_fault 0x07 hx h (accsFull_room hr) (if_pos hf)

theorem runs_bulk_fault (cause : Nat) (hf : s.m.bulkFault (issueKey i) (s.m.issuing i) ((s.m.issuing i).rd ra.val).toNat = some cause) :
    (s.m.issuable i [ra.val] → s.m.queueFree (i.e.val / 4) ≠ 0 → Runs (.bulk i ra) s (s.m.faulting i cause)) ∧
      (s.m.issuable i [onlyWrites rd, ra.val] → Runs (.tbulk i rd ra) s (s.m.faulting i cause)) := by
  constructor
  · intro h hq
    refine runs_fault cause rfl h (if_neg hq) ?_
    simp only [underway_bulkFault, hf]
  · intro h
    refine runs_fault cause rfl h rfl ?_
    simp only [underway_bulkFault, hf]

theorem runs_lsize_fault (h : s.m.issuable i [onlyWrites rd, ra.val])
    (hl : s.m.leaseOf (issueKey i) ((s.m.issuing i).rd ra.val).toNat = none) : Runs (.lsize i rd ra) s (s.m.faulting i 0x05) := by
  refine runs_fault 0x05 rfl h rfl ?_
  simp only [underway_leaseOf, hl]

theorem runs_evset_fault (h : s.m.issuable i [onlyWrites rd, ra.val]) (hp : s.m.isOn (SEAM_STRCTL_priv i.e.val i.s.val) = false) :
    Runs (.evset i rd ra) s (s.m.faulting i 0x02) := by
  refine runs_fault 0x02 rfl h rfl ?_
  simp only [underway_privileged, hp]
  rfl

theorem runs_rld_fault {off : BitVec 24} (h : s.m.issuable i [ra.val, onlyWrites rd])
    (hp : s.m.isOn (SEAM_STRCTL_priv i.e.val i.s.val) = false) : Runs (.rld i rd ra off) s (s.m.faulting i 0x02) := by
  refine runs_fault 0x02 rfl h rfl ?_
  simp only [underway_privileged, hp]
  rfl

theorem runs_bld_fault {off : BitVec 22} {pe : Fin 8} (h : s.m.issuable i [onlyWrites rd, ra.val, rb.val])
    (hr : (s.m.issuing i).accs.length < 8) (hl : s.m.leaseOf (issueKey i) ((s.m.issuing i).rd ra.val).toNat = none) :
    Runs (.bld i rd ra rb off pe) s (s.m.faulting i 0x05) := by
  refine runs_fault 0x05 rfl h (accsFull_room hr) ?_
  simp only [underway_leaseOf, hl]

theorem runs_call_fault (target : BitVec 13) (h : s.m.issuable i []) (hr : 8 ≤ (s.m.issuing i).rets.length) :
    Runs (.call i target) s (s.m.faulting i 0x09) := runs_fault 0x09 rfl h rfl (if_pos hr)

theorem runs_ret_fault (h : s.m.issuable i []) (hr : (s.m.issuing i).rets = []) : Runs (.ret i) s (s.m.faulting i 0x09) := by
  refine runs_fault 0x09 rfl h rfl ?_
  simp only [hr]

theorem runs_class_fault {n : BitVec 3} (h : s.m.issuable i []) (hn : 6 ≤ n.toNat) :
    Runs (.classSet i 0 true n) s (s.m.faulting i 0x08) := runs_fault 0x08 rfl h rfl (if_pos hn)

end

theorem inHwin_outside {m : Fjoek} {e h : Nat} (ho : m.isOn (SEAM_HWIN_en e) = false ∨ h < m.get (SEAM_HWIN_base e) * 2 ^ 20 ∨
    (m.get (SEAM_HWIN_limit e) + 1) * 2 ^ 20 ≤ h) : m.inHwin e h 1 = false := by
  unfold Fjoek.inHwin
  rcases ho with ho | ho | ho
  · simp only [ho, Bool.false_and]
  · simp only [decide_eq_false (Nat.not_le.2 ho), Bool.and_false, Bool.false_and]
  · simp only [decide_eq_false (Nat.not_le.2 (Nat.lt_succ_of_le ho)), Bool.and_false]

/-- Settles O18: each clause names the check that its instruction's body fails first. -/
theorem strandFaults : Obligations.StrandFaults := by
  unfold Obligations.StrandFaults
  intro s i rd ra rb off hoff boff qoff pe target n m x e a h room outside faults
  refine ⟨fun hi => ⟨?_, ?_, ?_, ?_, ?_⟩, fun hi hr => ⟨?_, ?_, ?_, ?_⟩, fun hi hr => ⟨?_, ?_⟩, ?_, ⟨?_, ?_, ?_⟩, ?_,
    fun hi => ⟨?_, ?_, ?_⟩⟩
  · exact fun ha => runs_lLoad_fault s i rd ra _ rfl hi (if_pos ha)
  · intro ha h8
    refine runs_lLoad_fault s i rd ra _ rfl hi ?_
    exact (if_neg (Nat.not_le.2 ha)).trans (if_pos h8)
  · intro ha h8 hl
    refine runs_lLoad_fault s i rd ra _ rfl hi ?_
    exact (if_neg (Nat.not_le.2 ha)).trans ((if_neg (not_not.2 h8)).trans (if_pos ((Bool.true_and _).trans hl)))
  · exact runs_lsize_fault s i rd ra hi
  · exact runs_evset_fault s i rd ra hi
  · exact fun ho => runs_hAccess_fault s i ra 0x04 rfl hi hr (if_pos (by rw [Bool.not_eq_true']; exact inHwin_outside ho))
  · intro hw h8
    refine runs_hAccess_fault s i ra 0x06 rfl hi hr ?_
    exact (if_neg (by rw [Bool.not_eq_true', Bool.not_eq_false]; exact hw)).trans ((if_neg (by simp)).trans (if_pos h8))
  · exact fun hq => runs_qAccess_fault s i ra rfl hi hr (.inl hq)
  · intro hq
    refine runs_qAccess_fault s i ra rfl hi hr (.inr ?_)
    rw [Bool.not_eq_true', ctxReadable, decide_eq_false_iff_not]
    omega
  · exact fun ho => runs_hAccess_fault s i ra 0x04 rfl hi hr (if_pos (by rw [Bool.not_eq_true']; exact inHwin_outside ho))
  · intro hw hst
    refine runs_hAccess_fault s i ra 0x04 rfl hi hr ?_
    exact (if_neg (by rw [Bool.not_eq_true', Bool.not_eq_false]; exact hw)).trans (if_pos hst)
  · exact runs_rld_fault s i rd ra
  · exact fun hb => runs_bulk_fault s i rd ra 0x03 (if_pos hb)
  · intro hl hn
    refine runs_bulk_fault s i rd ra 0x05 ?_
    exact (if_neg (Nat.not_le.2 (Nat.lt_of_lt_of_le (Nat.lt_add_of_pos_right (by decide)) hl))).trans (if_pos ⟨hl, by rw [Bool.not_eq_true']; exact hn⟩)
  · intro hb hn h64
    refine runs_bulk_fault s i rd ra 0x06 ?_
    refine (if_neg (Nat.not_le.2 hb)).trans ((if_neg ?_).trans (if_pos h64))
    rintro ⟨hl, hf⟩
    rw [hn hl] at hf
    cases hf
  · exact runs_bld_fault s i rd ra rb
  · exact runs_call_fault s i target hi
  · exact runs_ret_fault s i hi
  · exact runs_class_fault s i hi

end Sys2Proof.Machine
end

section
/-! PROOFS. The Event class (R36, R85, R86): wait, post, timer and tagcnt. -/

namespace Sys2Proof.Machine

/-! ## Tags beside what counts and samples change -/

theorem Sampled.tagCount {m n : Fjoek} (h : Sampled m n) (e t : Nat) : n.tagCount e t = m.tagCount e t := by
  unfold Fjoek.tagCount
  rw [h.seam]

theorem Sampled.setTagCount {m n : Fjoek} (h : Sampled m n) (e t c : Nat) : Sampled (m.setTagCount e t c) (n.setTagCount e t c) :=
  { h with
    seam := by unfold Fjoek.setTagCount; rw [h.seam]
    flight := h.flight }

theorem Sampled.setFlight {m n : Fjoek} (h : Sampled m n) (l : List TagPost) :
    Sampled { m with seam := { m.seam with flight := l } } { n with seam := { n.seam with flight := l } } :=
  { h with
    seam := by rw [h.seam]
    flight := ⟨[], by simp⟩ }

/-- The next wait's place in the order of waits moves on. -/
theorem Sampled.setStamp {m n : Fjoek} (h : Sampled m n) (v : Nat) :
    Sampled { m with seam := { m.seam with stamp := v } } { n with seam := { n.seam with stamp := v } } :=
  { h with
    seam := by rw [h.seam]
    flight := h.flight }

/-! ## Dispatch without items -/

theorem queue_nil {m : Fjoek} (h : m.seam.queues = []) (g : Nat) : m.queue g = [] := by
  unfold Fjoek.queue
  rw [h]
  rfl

theorem offer_nil {m : Fjoek} (h : m.seam.queues = []) (g : Nat) : m.offer g = none := by
  unfold Fjoek.offer
  simp only [queue_nil h]
  induction m.sourcesOf g with
  | nil => rfl
  | cons j r ih => exact ih

theorem settleQueues_nil {m : Fjoek} (hq : m.seam.queues = []) (hw : m.seam.waits = []) : m.settleQueues = m := by
  unfold Fjoek.settleQueues
  simp only [hq, List.map_nil, Fjoek.each, List.foldl_nil]
  exact if_pos hw

theorem each_id {α : Type} {m : Fjoek} (l : List α) (f : α → Fjoek → Fjoek) (h : ∀ x ∈ l, f x m = m) : m.each l f = m := by
  unfold Fjoek.each
  induction l with
  | nil => rfl
  | cons x r ih =>
    rw [List.foldl_cons, h x (.head _)]
    exact ih fun y hy => h y (.tail _ hy)

/-- Where no item is queued and none waits for a queue, dispatch has nothing to do. -/
theorem dispatch_nil {m : Fjoek} (hq : m.seam.queues = []) (hw : m.seam.waits = []) : m.dispatch = m := by
  unfold Fjoek.dispatch
  simp only [settleQueues_nil hq hw]
  split
  · rfl
  · rw [each_id _ _ fun g _ => by rw [offer_nil hq]; rfl]
    exact settleQueues_nil hq hw

/-! ## The first pending slot -/

theorem pendingSlot_first {m : Fjoek} {k j t : Nat} {l : List (Option Nat)} (hj : l[j]? = some (some t)) (ht : t ≠ 0)
    (hp : 0 < m.tagCount (k / 8) t)
    (hb : ∀ u < j, l[u]? = some none ∨ ∃ w, l[u]? = some (some w) ∧ w ≠ 0 ∧ m.tagCount (k / 8) w = 0) : m.pendingSlot k l = some j := by
  obtain ⟨hlt, hget⟩ := List.getElem?_eq_some_iff.1 hj
  unfold Fjoek.pendingSlot
  rw [List.findIdx?_eq_some_iff_getElem]
  refine ⟨hlt, ?_, fun u hu => ?_⟩
  · obtain ⟨t, rfl⟩ := Nat.exists_eq_succ_of_ne_zero ht
    rw [hget]
    exact decide_eq_true hp
  · rcases hb u hu with hn | ⟨w, hw, hw0, hc⟩
    · rw [(List.getElem?_eq_some_iff.1 hn).2]
      exact Bool.false_ne_true
    · obtain ⟨w, rfl⟩ := Nat.exists_eq_succ_of_ne_zero hw0
      rw [(List.getElem?_eq_some_iff.1 hw).2]
      simp [hc]

/-- With no item queued, whether a slot is pending depends on the counts alone. -/
theorem pendingSlot_congr {m n : Fjoek} (hm : m.seam.queues = []) (hn : n.seam.queues = []) (ht : n.seam.tags = m.seam.tags) (k : Nat)
    (l : List (Option Nat)) : n.pendingSlot k l = m.pendingSlot k l := by
  unfold Fjoek.pendingSlot Fjoek.tagCount
  rw [offer_nil hm, offer_nil hn, ht]
  congr
  funext t
  rcases t with - | - | t <;> simp

/-! ## A wait, case by case -/

section
variable {m : Fjoek} {k rd : Nat} {l : List (Option Nat)}

theorem beginWait_empty (h : ∀ q ∈ l.map (ownTag k), q = none) :
    m.beginWait k rd l = m.setStrand k ((m.strand k).wr rd (BitVec.ofNat 64 (2 ^ 64 - 1))).next := by
  refine if_pos ?_
  rw [List.all_eq_true]
  exact fun q hq => by rw [h q hq]; rfl

theorem some_slot {q : Option Nat} (hq : q ∈ l.map (ownTag k)) (hn : q ≠ none) : ¬((l.map (ownTag k)).all (· == none) = true) := by
  rw [List.all_eq_true]
  exact fun h => hn (by simpa using h q hq)

theorem nth_of_getElem? {α : Type} {l : List α} {j : Nat} {v d : α} (h : l[j]? = some v) : nth l j d = v := by
  unfold nth
  rw [List.getD_eq_getElem?_getD, h, Option.getD_some]

theorem beginWait_pending {j t : Nat} (hj : (l.map (ownTag k))[j]? = some (some t)) (ht : t ≠ 0)
    (hp : m.pendingSlot k (l.map (ownTag k)) = some j) : m.beginWait k rd l =
      (m.setTagCount (k / 8) t (m.tagCount (k / 8) t - 1)).setStrand k ((m.strand k).wr rd (BitVec.ofNat 64 j)).next := by
  obtain ⟨t, rfl⟩ := Nat.exists_eq_succ_of_ne_zero ht
  unfold Fjoek.beginWait
  simp only [if_neg (some_slot (List.mem_of_getElem? hj) (Option.some_ne_none _)), hp, nth_of_getElem? hj]

/-- The strand of a wait that no tag answers. -/
def Strand.waiting (x : Strand) (rd : Nat) (l : List (Option Nat)) (since : Nat) : Strand :=
  { x.next with mode := .wait, waitFor := .tags rd, slots := l, since := since }

/-- Strand `k` stands as `y`, and the next wait comes after its own. -/
def Fjoek.sleeping (m : Fjoek) (k : Nat) (y : Strand) : Fjoek :=
  { m.setStrand k y with seam := { (m.setStrand k y).seam with stamp := m.seam.stamp + 1 } }

theorem beginWait_waits {q : Option Nat} (hq : q ∈ l.map (ownTag k)) (hn : q ≠ none) (hp : m.pendingSlot k (l.map (ownTag k)) = none) :
    m.beginWait k rd l =
      ((m.sleeping k ((m.strand k).waiting rd (l.map (ownTag k)) m.seam.stamp)).settleGroup (k / 32)).dispatch := by
  unfold Fjoek.beginWait
  simp only [if_neg (some_slot hq hn), hp]
  rfl

end

/-! ## The Seam's own state -/

/-- The Seam's own state is the same but for tags on their way. -/
def SameSeam (m n : Fjoek) : Prop := n.seam = { m.seam with flight := n.seam.flight }

theorem SameSeam.trans {a b c : Fjoek} (h : SameSeam a b) (k : SameSeam b c) : SameSeam a c := by
  unfold SameSeam at *
  rw [h] at k
  exact k

theorem Noted.sameSeam {m n : Fjoek} (h : Noted m n) : SameSeam m n := h.seam

theorem sameSeam_put (m : Fjoek) (f : Fld) (v : Nat) : SameSeam m (m.put f v) := rfl

theorem sameSeam_cause (m : Fjoek) (f : Fld) {e : Nat} (he : e < 512) : SameSeam m (m.cause f e) := by
  unfold Fjoek.cause
  split
  · rfl
  · exact (sameSeam_put m f 1).trans (latch_noted _ e he).sameSeam

theorem SameSeam.when {m : Fjoek} (c : Bool) (f : Fjoek → Fjoek) (h : SameSeam m (f m)) : SameSeam m (m.when c f) := by
  unfold Fjoek.when
  split
  · exact h
  · rfl

theorem sameSeam_settleGroup (m : Fjoek) {g : Nat} (hg : g < 16) : SameSeam m (m.settleGroup g) := by
  unfold Fjoek.settleGroup
  exact (sameSeam_put m _ _).trans (SameSeam.when _ _ (sameSeam_cause _ _ (e := 272 + 4 * g) (by omega)))

theorem estat_not_pairReg {e : Nat} (he : e < 64) : SEAM_ESTAT e ∉ pairRegs := by
  simp [pairRegs, SEAM_ESTAT, TOP_STRAP, HEARTH_STAT_state, SEAM_CTL_instep, TWIN_STAT, TWIN_ESTAT, TWIN_CMDSTAT_busy, TWIN_RESYNCS_LO]
  omega

theorem kept_settleGroup (m : Fjoek) {g : Nat} (hg : g < 16) : Kept m (m.settleGroup g) := by
  unfold Fjoek.settleGroup
  exact (kept_put m _ _ (gstat_not_pairReg g)).trans (Kept.when _ _ (kept_cause _ _ _ (by omega) (estat_not_pairReg (by omega))))

theorem Kept.trailing {m n : Fjoek} (h : Kept m n) : n.trailing = m.trailing := by
  unfold Fjoek.trailing
  rw [h.isOn TOP_STRAP_twin (by decide), h.isOn SEAM_CTL_instep (by decide), h.isOn TWIN_STAT_role (by decide),
    h.get TWIN_STAT_phase (by decide)]

/-- Whether something waits for the end of a round depends on the Seam's own state and on the module's role. -/
theorem SameSeam.calm {m n : Fjoek} (h : SameSeam m n) (ht : n.trailing = m.trailing) {e : Nat} (hc : m.calm e) : n.calm e := by
  have hs (k : Nat) : n.strand k = m.strand k := by unfold Fjoek.strand; rw [h]
  obtain ⟨hacts, hvals⟩ := hc
  refine ⟨by rw [h]; exact hacts, fun hn p hp hk => ?_⟩
  rw [h] at hp
  rw [hs]
  exact hvals (ht ▸ hn) p hp hk

/-! ## A wait that issues -/

theorem underway_strand (m : Fjoek) (i : Issue) : (m.underway i).strand (issueKey i) = m.issuing i := issued_strand m i

section
variable {s : State} {i : Issue} {c : Instr} {uses : List Nat} {rd : Nat} {f : Strand → List (Option Nat)}
  (hx : exec c s = .next (s.settle (s.m.issue i uses fun k x m => m.beginWait k rd (f x)))) (h : s.m.issuable i uses)
include hx h

theorem runs_wait_empty (hl : ∀ q ∈ (f (s.m.issuing i)).map (ownTag (issueKey i)), q = none) : Runs c s
    (s.m.setStrand (issueKey i) ((s.m.issuing i).wr rd (BitVec.ofNat 64 (2 ^ 64 - 1))).next) := by
  refine runs_body s i c uses _ _ hx h rfl _ (calm_setStrand _ _ _ _ h.2.2.2.2 (issuing_fenced _ i h.1 _ (wr_mode _ _ _))) ?_
  rintro j hj rfl
  rw [beginWait_empty hl, issued_strand]
  exact end_strand i h.1 s.m _ _ hj

theorem runs_wait_pending {j t : Nat} (hj : ((f (s.m.issuing i)).map (ownTag (issueKey i)))[j]? = some (some t)) (ht : t ≠ 0)
    (hp : 0 < s.m.tagCount i.e.val t) (hb : ∀ u < j, ((f (s.m.issuing i)).map (ownTag (issueKey i)))[u]? = some none ∨
      ∃ w, ((f (s.m.issuing i)).map (ownTag (issueKey i)))[u]? = some (some w) ∧ w ≠ 0 ∧ s.m.tagCount i.e.val w = 0) :
    Runs c s ((s.m.setTagCount i.e.val t (s.m.tagCount i.e.val t - 1)).setStrand (issueKey i)
      ((s.m.issuing i).wr rd (BitVec.ofNat 64 j)).next) := by
  refine runs_body s i c uses _ _ hx h rfl _ (calm_setStrand _ _ _ _ h.2.2.2.2 (issuing_fenced _ i h.1 _ (wr_mode _ _ _))) ?_
  rintro n hn rfl
  have hc (w : Nat) : ((s.m.setStrand (issueKey i) (s.m.issuing i)).issued (issueKey i) true).tagCount i.e.val w =
      s.m.tagCount i.e.val w := hn.tagCount _ _
  rw [← issueKey_div i] at hp hb hc ⊢
  rw [beginWait_pending hj ht (pendingSlot_first hj ht (by rwa [hc]) (by simpa only [hc] using hb)), issued_strand, hc]
  exact end_strand i h.1 _ _ _ (hn.setTagCount _ _ _)

theorem exec_wait_waits {q : Option Nat} (hq : q ∈ (f (s.m.issuing i)).map (ownTag (issueKey i))) (hn : q ≠ none)
    (hp : s.m.pendingSlot (issueKey i) ((f (s.m.issuing i)).map (ownTag (issueKey i))) = none) (hqs : s.m.seam.queues = []) (hws : s.m.seam.waits = []) :
    ∃ t, exec c s = .next t ∧
      t.m.strand (issueKey i) = (s.m.issuing i).waiting rd ((f (s.m.issuing i)).map (ownTag (issueKey i))) s.m.seam.stamp ∧
      (∀ j ≠ issueKey i, t.m.strand j = s.m.strand j) ∧ t.m.seam.stamp = s.m.seam.stamp + 1 ∧ t.m.seam.tags = s.m.seam.tags := by
  have hs := underway_sampled s.m i
  have hg : issueKey i / 32 < 16 := by have := issueKey_lt i; omega
  generalize hy : (s.m.issuing i).waiting rd ((f (s.m.issuing i)).map (ownTag (issueKey i))) s.m.seam.stamp = y
  have hfence : y.fenced = false := by rw [← hy]; rfl
  have hsame := sameSeam_settleGroup ((s.m.underway i).sleeping (issueKey i) y) hg
  have hbody : (s.m.underway i).beginWait (issueKey i) rd (f (s.m.issuing i)) =
      ((s.m.underway i).sleeping (issueKey i) y).settleGroup (issueKey i / 32) := by
    have hq' : (s.m.underway i).seam.queues = [] := by rw [hs.seam]; exact hqs
    have hw' : (s.m.underway i).seam.waits = [] := by rw [hs.seam]; exact hws
    have hp' := (pendingSlot_congr hqs hq' (by rw [hs.seam]; rfl) (issueKey i) ((f (s.m.issuing i)).map (ownTag (issueKey i)))).trans hp
    rw [beginWait_waits hq hn hp', underway_strand, show (s.m.underway i).seam.stamp = s.m.seam.stamp by rw [hs.seam]; rfl, hy]
    exact dispatch_nil (by rw [hsame]; exact hq') (by rw [hsame]; exact hw')
  have hcalm : (((s.m.underway i).sleeping (issueKey i) y).settleGroup (issueKey i / 32)).calm i.e.val := by
    refine hsame.calm (kept_settleGroup _ hg).trailing ?_
    exact calm_setStrand _ _ _ y (hs.calm _ (calm_setStrand _ _ _ _ h.2.2.2.2 (issuing_fenced _ i h.1 _ rfl))) hfence
  have hend := hsame.trans (settle_noted s _).sameSeam
  refine ⟨_, hx, ?_⟩
  rw [issue_eq _ _ _ _ h, show (s.m.setStrand _ _).issued _ _ = s.m.underway i from rfl, hbody, roundActs_calm _ _ hcalm]
  unfold Fjoek.strand
  rw [hend]
  refine ⟨tableGet_set_same _ _ _ _, fun j hj => (tableGet_set_ne _ _ _ hj).trans ?_, ?_, ?_⟩
  · rw [hs.seam]
    exact strand_setStrand_ne s.m (s.m.issuing i) hj
  · show (s.m.underway i).seam.stamp + 1 = _
    rw [hs.seam]
    rfl
  · show (s.m.underway i).seam.tags = _
    rw [hs.seam]
    rfl

end

/-! ## Post, timer and tagcnt -/

section
variable (s : State) (i : Issue) (rd ra rb : Fin 32)

theorem runs_post_refused (h : s.m.issuable i [onlyWrites rd, ra.val, rb.val])
    (hb : ((s.m.issuing i).rd rb.val).toNat % 1024 = 0 ∨ 0x3F0 ≤ ((s.m.issuing i).rd rb.val).toNat % 1024) :
    Runs (.post i rd ra rb) s (s.m.setStrand (issueKey i) ((s.m.issuing i).wr rd.val 0).next) := by
  refine runs_body s i _ _ _ _ rfl h rfl _ (calm_setStrand _ _ _ _ h.2.2.2.2 (issuing_fenced _ i h.1 _ (wr_mode _ _ _))) ?_
  rintro j hj -
  simp only [if_pos hb]
  exact end_strand i h.1 s.m _ _ hj

/-- The strand of a `post` on its way: rd waits for the verdict. -/
def Strand.posting (x : Strand) (rd : Nat) : Strand :=
  { x.next with posts := if rd = 0 then x.posts else x.posts.filter (· != rd) ++ [rd] }

theorem runs_post_sent (h : s.m.issuable i [onlyWrites rd, ra.val, rb.val])
    (hb : ¬(((s.m.issuing i).rd rb.val).toNat % 1024 = 0 ∨ 0x3F0 ≤ ((s.m.issuing i).rd rb.val).toNat % 1024)) :
    ∃ l, Runs (.post i rd ra rb) s (Fjoek.setStrand { s.m with seam := { s.m.seam with
      flight := s.m.seam.flight.map (·.overtaken (issueKey i) rd.val) ++ l ++
        [{ tag := ((s.m.issuing i).rd rb.val).toNat % 1024, engine := ((s.m.issuing i).rd ra.val).toNat % 64
           verdict := some (i.e.val, i.s.val, rd.val) }] } } (issueKey i) ((s.m.issuing i).posting rd.val)) := by
  obtain ⟨l, hl⟩ := (underway_sampled s.m i).flight
  refine ⟨l.map (·.overtaken (issueKey i) rd.val), runs_body s i _ _ _ _ rfl h rfl _
    (calm_setStrand _ _ _ _ h.2.2.2.2 (issuing_fenced _ i h.1 _ rfl)) ?_⟩
  rintro j hj rfl
  simp only [if_neg hb]
  rw [show ((s.m.setStrand _ _).issued _ _).seam.flight = _ from hl, List.map_append]
  exact end_strand i h.1 { s.m with seam := { s.m.seam with flight := _ } } _ _ (hj.setFlight _)

theorem runs_tagcnt (tag : BitVec 10) (h : s.m.issuable i [onlyWrites rd]) : Runs (.tagcnt i rd tag) s
    (s.m.setStrand (issueKey i) ((s.m.issuing i).wr rd.val (BitVec.ofNat 64
      (if tag = 0 then (s.m.queue (i.e.val / 4)).length else s.m.tagCount i.e.val tag.toNat))).next) := by
  refine runs_body s i _ _ _ _ rfl h rfl _ (calm_setStrand _ _ _ _ h.2.2.2.2 (issuing_fenced _ i h.1 _ (wr_mode _ _ _))) ?_
  rintro j hj -
  have hq : j.queue (i.e.val / 4) = s.m.queue (i.e.val / 4) := by
    unfold Fjoek.queue
    rw [hj.seam]
    rfl
  simp only [hq, hj.tagCount]
  exact end_strand i h.1 s.m _ _ hj

end

/-- `waiti` with slots to wait on is a wait on its own slots. -/
theorem exec_waiti (s : State) (i : Issue) (rd : Fin 32) {n : BitVec 2} (t0 t1 t2 : BitVec 10) (hn : n ≠ 0) :
    exec (.waiti i rd n t0 t1 t2) s = .next (s.settle (s.m.issue i [onlyWrites rd] fun k _ m =>
      m.beginWait k rd.val [some t0.toNat, if 2 ≤ n.toNat then some t1.toNat else none,
        if 3 ≤ n.toNat then some t2.toNat else none, none])) :=
  congrArg (fun m => Host.Outcome.next (s.settle m)) (if_pos (decide_eq_true hn))

/-- Settles O9: a wait is the first pending slot's, an empty one's or one that waits; the other instructions write their strand. -/
theorem eventInstructions : Obligations.EventInstructions := by
  unfold Obligations.EventInstructions
  intro s i rd ra rb n t0 t1 t2 tag m x k e put slots slotsI takes waits bad
  refine ⟨fun h => ⟨⟨?_, ?_⟩, ?_⟩, fun h hn => ⟨⟨?_, ?_⟩, ?_⟩, fun h hb => ?_, fun h hb => ?_, fun h => ?_, fun h => ?_⟩
  · exact runs_wait_empty (f := fun x => waitSlots (x.rd ra.val).toNat) rfl h
  · exact fun j t hj ht hp hb => runs_wait_pending (f := fun x => waitSlots (x.rd ra.val).toNat) rfl h hj ht hp hb
  · rintro ⟨q, hq, hn⟩ hp hqs hws
    exact exec_wait_waits (f := fun x => waitSlots (x.rd ra.val).toNat) rfl h hq hn hp hqs hws
  · exact runs_wait_empty (f := fun _ => _) (exec_waiti s i rd t0 t1 t2 hn) h
  · exact fun j t hj ht hp hb => runs_wait_pending (f := fun _ => _) (exec_waiti s i rd t0 t1 t2 hn) h hj ht hp hb
  · rintro ⟨q, hq, hn'⟩ hp hqs hws
    exact exec_wait_waits (f := fun _ => _) (exec_waiti s i rd t0 t1 t2 hn) h hq hn' hp hqs hws
  · exact runs_post_refused s i rd ra rb h hb
  · exact runs_post_sent s i rd ra rb h hb
  · exact runs_of _ _ _ _ rfl (compute_sampled m i _ (fun x => { x with timer := (x.rd ra.val).toNat % 2 ^ 32 }) h rfl)
  · exact runs_tagcnt s i rd tag h

end Sys2Proof.Machine
end

section
/-! PROOFS. Posts and timers reach their tags (R38, R86). -/

namespace Sys2Proof.Machine

/-! ## A post that arrives -/

theorem closeRound_sampled (m : Fjoek) (e : Nat) : Sampled m (m.closeRound e) := by
  unfold Fjoek.closeRound
  split
  · exact Sampled.refl m
  · exact { Sampled.refl m with seam := rfl, flight := ⟨[], (List.append_nil _).symm⟩ }

theorem Sampled.waiter {m n : Fjoek} (h : Sampled m n) (e t : Nat) : n.waiter e t = m.waiter e t := by
  unfold Fjoek.waiter Fjoek.longest
  simp only [h.strand]

theorem tagCount_setTagCount (m : Fjoek) (e t c : Nat) : (m.setTagCount e t c).tagCount e t = c := tableGet_set_same _ _ _ _

/-- The module that a post finds: its engine's round has ended, and the arrival is counted. -/
def Fjoek.postIn (m : Fjoek) (e : Nat) : Fjoek := (m.closeRound e).perf e 0 0x015 none

theorem postIn_sampled (m : Fjoek) {e : Nat} (he : e < 64) : Sampled m (m.postIn e) :=
  (closeRound_sampled m e).trans (perf_sampled _ e 0 0x015 none he)

section
variable {m : Fjoek} {e t : Nat} (he : e < 64) (ht : t < 0x3F0 ∨ 0x3F8 ≤ t)
include he ht

theorem deliverTag_counts (hw : m.waiter e t = none) (hc : m.tagCount e t < 255) :
    m.deliverTag e t = (true, (m.postIn e).setTagCount e t (m.tagCount e t + 1)) := by
  have hs := postIn_sampled m he
  unfold Fjoek.deliverTag
  simp only [show (m.closeRound e).perf e 0 0x015 none = m.postIn e from rfl, hs.waiter, hs.tagCount, hw, if_pos hc]
  rw [if_neg (by omega)]

theorem deliverTag_answers {w rd j : Nat} (hw : m.waiter e t = some w) (hr : (m.strand w).waitFor = .tags rd)
    (hj : (m.strand w).slotOf t = some j) : m.deliverTag e t = (true, (m.postIn e).endWait w rd j 0) := by
  have hs := postIn_sampled m he
  have hreg : (m.strand w).waitReg = rd := by unfold Strand.waitReg; rw [hr]
  unfold Fjoek.deliverTag
  simp only [show (m.closeRound e).perf e 0 0x015 none = m.postIn e from rfl, hs.waiter, hs.strand, hw, hreg, hj, Option.getD_some]
  rw [if_neg (by omega)]

end

/-- The module without post `n` on its way. -/
def Fjoek.taking (m : Fjoek) (n : Nat) : Fjoek := { m with seam := { m.seam with flight := dropNth m.seam.flight n } }

theorem exec_post_arrives {s : State} {n : Nat} {p : TagPost} (hp : s.m.seam.flight[n]? = some p) (hr : s.m.runs 3 = true)
    (hb : s.m.inRound p.engine = false) (hv : p.verdict = none) :
    exec (.tagPostArrival n) s = .next (s.settle ((s.m.taking n).deliverTag p.engine p.tag).2) := by
  have hbound : s.m.boundary p.engine p = true := by unfold Fjoek.boundary; rw [hb]; rfl
  show Host.Outcome.next (s.settle _) = _
  simp only [hp, hr, hbound, hv, Bool.not_true, Bool.false_eq_true, or_self, if_false]
  rfl

theorem SameSeam.strand {m n : Fjoek} (h : SameSeam m n) (k : Nat) : n.strand k = m.strand k := by unfold Fjoek.strand; rw [h]

theorem SameSeam.tagCount {m n : Fjoek} (h : SameSeam m n) (e t : Nat) : n.tagCount e t = m.tagCount e t := by
  unfold Fjoek.tagCount
  rw [h]

section
variable {s : State} {n : Nat} {p : TagPost} (hp : s.m.seam.flight[n]? = some p) (hr : s.m.runs 3 = true)
  (hb : s.m.inRound p.engine = false) (hv : p.verdict = none) (he : p.engine < 64) (ht : p.tag < 0x3F0 ∨ 0x3F8 ≤ p.tag)
include hp hr hb hv he ht

theorem post_counted (hw : s.m.waiter p.engine p.tag = none) (hc : s.m.tagCount p.engine p.tag < 255) :
    Ends (.tagPostArrival n) s fun t => t.tagCount p.engine p.tag = s.m.tagCount p.engine p.tag + 1 ∧
      ∃ l, t.seam.flight = dropNth s.m.seam.flight n ++ l := by
  have hd := deliverTag_counts (m := s.m.taking n) he ht hw hc
  refine ends_of _ _ _ _ (exec_post_arrives hp hr hb hv) fun t hn => ?_
  rw [hd] at hn
  refine ⟨(hn.sameSeam.tagCount _ _).trans (tagCount_setTagCount _ _ _ _), ?_⟩
  obtain ⟨l, hl⟩ := (postIn_sampled (s.m.taking n) he).flight
  obtain ⟨l', hl'⟩ := hn.flight
  exact ⟨l ++ l', by rw [hl', ← List.append_assoc]; exact congrArg (· ++ l') hl⟩

theorem post_answered {w rd j : Nat} (hw : s.m.waiter p.engine p.tag = some w) (hrd : (s.m.strand w).waitFor = .tags rd)
    (hj : (s.m.strand w).slotOf p.tag = some j) : Ends (.tagPostArrival n) s fun t => (t.strand w).mode = .ready ∧
      (rd ≠ 0 → (t.strand w).rd rd = BitVec.ofNat 64 j) ∧ t.tagCount p.engine p.tag = s.m.tagCount p.engine p.tag := by
  have hd := deliverTag_answers (m := s.m.taking n) he ht hw hrd hj
  have hs := postIn_sampled (s.m.taking n) he
  refine ends_of _ _ _ _ (exec_post_arrives hp hr hb hv) fun t hn => ?_
  rw [hd] at hn
  have hstrand : t.strand w = _ := (hn.sameSeam.strand w).trans (strand_setStrand _ w _)
  rw [hstrand]
  refine ⟨rfl, fun h0 => ?_, (hn.sameSeam.tagCount _ _).trans (hs.tagCount _ _)⟩
  show (Strand.wr _ rd (BitVec.ofNat 64 (j + 0 * 2 ^ 32))).rd rd = _
  rw [Strand.rd_wr, if_pos ⟨rfl, h0⟩, Nat.zero_mul, Nat.add_zero]

end

/-! ## A timer that expires -/

theorem logTwin_seam (m : Fjoek) (k t : Nat) (p : List Nat) : (m.logTwin k t p).seam = m.seam := by
  unfold Fjoek.logTwin
  split <;> rfl

theorem postDue_logTwin (m : Fjoek) (k t e : Nat) (p : List Nat) : (m.logTwin k t p).postDue e = m.postDue e := by
  unfold Fjoek.postDue Fjoek.nextRound Fjoek.round
  rw [logTwin_seam, (logTwin_noted m k t p).isOn SEAM_CTL_instep (by decide)]

/-- A strand's timer that expires: it is disarmed, and its tag is on its way. -/
def Fjoek.timedOut (m : Fjoek) (k : Nat) : Fjoek :=
  (m.setStrand k { m.strand k with timer := 0 }).postPrivate (k / 8) (0x3F8 + k % 8)

theorem timerExpire_armed {m : Fjoek} {k : Nat} (h : (m.strand k).timer ≠ 0) : m.timerExpire k = m.timedOut k := if_neg h

theorem timedOut_logTwin (m : Fjoek) (k i t : Nat) (p : List Nat) : Noted (m.timedOut k) ((m.logTwin i t p).timedOut k) := by
  have hdue : ((m.logTwin i t p).setStrand k { (m.logTwin i t p).strand k with timer := 0 }).postDue (k / 8) =
      (m.setStrand k { m.strand k with timer := 0 }).postDue (k / 8) := postDue_logTwin m i t (k / 8) p
  have hseam : ((m.logTwin i t p).timedOut k).seam = (m.timedOut k).seam := by
    unfold Fjoek.timedOut Fjoek.postPrivate
    simp only [hdue]
    unfold Fjoek.setStrand Fjoek.strand
    rw [logTwin_seam]
  exact { logTwin_noted m i t p with seam := by rw [hseam], flight := ⟨[], by rw [hseam, List.append_nil]⟩ }

theorem timer_expires (s : State) (e : Fin 64) (u : Fin 8) (hr : s.m.runs 3 = true) (ht : s.m.trailing = false)
    (hx : (s.m.strand (8 * e.val + u.val)).timer ≠ 0) : Does (.strandTimerExpiry e u) s (s.m.timedOut (8 * e.val + u.val)) := by
  refine does_of _ _ _ ((s.m.logTwin 0x06 e.val [0, 8 * e.val + u.val]).timerExpire (8 * e.val + u.val)) ?_ ?_
  · show Host.Outcome.next (s.settle _) = _
    simp only [hr, ht, hx, Bool.not_true, Bool.false_eq_true, or_self, if_false]
  · rw [timerExpire_armed (by rwa [(logTwin_noted _ _ _ _).sameSeam.strand])]
    exact timedOut_logTwin _ _ _ _ _

/-- Settles O13: a post that arrives counts or ends the wait of its tag, and an expired timer posts its own tag. -/
theorem tagsArrive : Obligations.TagsArrive := by
  unfold Obligations.TagsArrive
  intro s n p e u m k x c
  refine ⟨fun hp hr hb hv he ht => ⟨fun hw hc => post_counted hp hr hb hv he ht hw hc,
    fun w rd j hw hrd hj => post_answered hp hr hb hv he ht hw hrd hj⟩, fun hr ht hx => ?_⟩
  exact timer_expires s e u hr ht hx

end Sys2Proof.Machine
end

section
/-! PROOFS. Draining, parking, in-step mode and undefined words (R50, R52 to R54, R57, R67). -/

namespace Sys2Proof.Machine

/-! ## What dispatch leaves -/

/-- Registers that dispatch may write: those of latches and counts, the performance counters, the groups' status and park bits. -/
def dispatchReg (a : Nat) : Prop :=
  noting a = true ∨ (0x80000 ≤ a ∧ a < 0x90000) ∨ ∃ g, a = (SEAM_GSTAT_drained g).addr ∨ a = (SEAM_ECTL_park (4 * g)).addr

/-- `n` differs from `m` by what dispatch may do: every other register stands, groups stay held, and a closed group's status stands. -/
structure Dispatched (m n : Fjoek) : Prop where
  reg : ∀ a, ¬dispatchReg a → n.reg a = m.reg a
  held : n.seam.held = m.seam.held
  status : ∀ g < 16, m.closed g = true → n.reg (SEAM_GSTAT_drained g).addr = m.reg (SEAM_GSTAT_drained g).addr

theorem not_dispatchReg_gctl {g : Nat} (hg : g < 16) : ¬dispatchReg (SEAM_GCTL_drain g).addr := by
  have hn : noting (SEAM_GCTL_drain g).addr = false := noting_seam _ (by simp only [SEAM_GCTL_drain]; omega)
  unfold dispatchReg
  rw [hn]
  simp only [SEAM_GCTL_drain, SEAM_GSTAT_drained, SEAM_ECTL_park, Bool.false_eq_true, false_or, not_or, not_exists]
  exact ⟨by omega, fun h => by omega⟩

theorem Dispatched.closed {m n : Fjoek} (h : Dispatched m n) {g : Nat} (hg : g < 16) : n.closed g = m.closed g := by
  unfold Fjoek.closed Fjoek.isOn Fjoek.get
  rw [h.reg _ (not_dispatchReg_gctl hg), h.held]

theorem Dispatched.of_eq {m n : Fjoek} (hr : ∀ a, n.reg a = m.reg a) (hh : n.seam.held = m.seam.held) : Dispatched m n :=
  ⟨fun a _ => hr a, hh, fun _ _ _ => hr _⟩

theorem Dispatched.refl (m : Fjoek) : Dispatched m m := .of_eq (fun _ => rfl) rfl

theorem Dispatched.trans {a b c : Fjoek} (h : Dispatched a b) (k : Dispatched b c) : Dispatched a c where
  reg r hr := (k.reg r hr).trans (h.reg r hr)
  held := k.held.trans h.held
  status g hg hc := (k.status g hg ((h.closed hg).trans hc)).trans (h.status g hg hc)

theorem Dispatched.when {m : Fjoek} (c : Bool) (f : Fjoek → Fjoek) (h : Dispatched m (f m)) : Dispatched m (m.when c f) := by
  unfold Fjoek.when
  split
  · exact h
  · exact .refl m

theorem Dispatched.each {α : Type} (l : List α) (f : α → Fjoek → Fjoek) (h : ∀ x ∈ l, ∀ m, Dispatched m (f x m)) (m : Fjoek) :
    Dispatched m (m.each l f) := by
  unfold Fjoek.each
  induction l generalizing m with
  | nil => exact .refl m
  | cons x r ih => exact (h x List.mem_cons_self m).trans (ih (fun y hy => h y (List.mem_cons_of_mem _ hy)) (f x m))

theorem Sampled.dispatched {m n : Fjoek} (h : Sampled m n) : Dispatched m n where
  reg a ha := h.reg a (by simpa using fun hn => ha (.inl hn)) fun hp => ha (.inr (.inl hp))
  held := by rw [h.seam]
  status g hg _ := by
    have hseam : 0x100000 ≤ (SEAM_GSTAT_drained g).addr ∧ (SEAM_GSTAT_drained g).addr < 0x300000 := by
      simp only [SEAM_GSTAT_drained]; omega
    exact h.reg _ (noting_seam _ hseam) (by omega)

theorem Noted.dispatched {m n : Fjoek} (h : Noted m n) : Dispatched m n := h.sampled.dispatched

theorem passQueue_dispatched (m : Fjoek) (g : Nat) : Dispatched m (m.passQueue g) := by
  unfold Fjoek.passQueue
  split
  · split
    · exact .refl m
    · exact .of_eq (fun _ => rfl) rfl
  · exact .refl m

theorem enter_dispatched (m : Fjoek) (w : Nat × WorkItem) : Dispatched m (m.enter w) := by
  unfold Fjoek.enter
  split
  · split
    · exact .of_eq (fun _ => rfl) rfl
    · exact .of_eq (fun _ => rfl) rfl
  · exact .of_eq (fun _ => rfl) rfl

theorem settleQueues_dispatched (m : Fjoek) : Dispatched m m.settleQueues := by
  have hpass := Dispatched.each (m.seam.queues.map (·.1)) (fun g m => m.passQueue g) (fun g _ m => passQueue_dispatched m g) m
  unfold Fjoek.settleQueues
  simp only
  split
  · exact hpass
  · have hwait (n : Fjoek) : Dispatched n { n with seam := { n.seam with waits := [] } } := .of_eq (fun _ => rfl) rfl
    exact (hpass.trans (hwait _)).trans (.each _ _ (fun w _ m => enter_dispatched m w) _)

theorem endWait_dispatched (m : Fjoek) {k : Nat} (rd slot handle : Nat) (hc : m.closed (k / 32) = false) :
    Dispatched m (m.endWait k rd slot handle) where
  reg a ha := Fjoek.reg_put_ne _ _ _ fun he => ha (.inr (.inr ⟨_, .inl he⟩))
  held := rfl
  status g hg h := by
    refine Fjoek.reg_put_ne _ _ _ fun he => ?_
    have hne : g ≠ k / 32 := fun e => by rw [e, hc] at h; cases h
    simp only [SEAM_GSTAT_drained] at he
    omega

theorem sitOut_dispatched (m : Fjoek) (k : Nat) : Dispatched m (m.sitOut k) := by
  unfold Fjoek.sitOut
  simp only
  split
  · exact .refl m
  · exact .of_eq (fun _ => rfl) rfl

theorem assign_dispatched (m : Fjoek) (h : Nat) (i : WorkItem) {k : Nat} (j : Nat) (hk : k < 512) (hc : m.closed (k / 32) = false) :
    Dispatched m (m.assign h i k j) := by
  have howned : Dispatched m (((m.setQueue h ((m.queue h).erase i)).ownLease k i.handle).2) := .of_eq (fun _ => rfl) rfl
  have hnote (n : Fjoek) (x : Nat) (b : List Nat) : Dispatched n (n.noteItem x b) := .of_eq (fun _ => rfl) rfl
  unfold Fjoek.assign
  simp only
  refine Dispatched.trans ?_ (sitOut_dispatched _ _)
  have hend {n : Fjoek} (hn : Dispatched m n) (rd slot handle : Nat) : Dispatched m (n.endWait k rd slot handle) :=
    hn.trans (endWait_dispatched _ _ _ _ ((hn.closed (by omega)).trans hc))
  refine hend (Dispatched.trans ?_ (perf_sampled _ _ _ _ _ (by omega)).dispatched) _ _ _
  refine howned.trans (Dispatched.when _ _ ?_)
  exact (logTwin_noted _ _ _ _).dispatched.trans (hnote _ _ _)

theorem taker_open {m : Fjoek} {g k : Nat} (h : m.taker g = some k) : m.closed (k / 32) = false := by
  have hmem := (List.mem_filter.1 (mem_of_longest m h)).2
  simp only [Fjoek.takesItems, Bool.and_eq_true, Bool.not_eq_true'] at hmem
  exact hmem.2.1.1.1

theorem dispatchGroup_dispatched {g : Nat} (hg : g < 16) (n : Nat) (m : Fjoek) : Dispatched m (dispatchGroup g n m) := by
  induction n generalizing m with
  | zero => exact .refl m
  | succ n ih =>
    unfold dispatchGroup
    split
    · rename_i h i k _ ht
      exact (assign_dispatched m h i _ (taker_lt m hg ht) (taker_open ht)).trans (ih _)
    · exact .refl m

theorem putPark_dispatched (m : Fjoek) (g v : Nat) : Dispatched m (m.put (SEAM_ECTL_park (4 * g)) v) where
  reg a ha := Fjoek.reg_put_ne _ _ _ fun he => ha (.inr (.inr ⟨_, .inr he⟩))
  held := rfl
  status h _ _ := Fjoek.reg_put_ne _ _ _ (by simp only [SEAM_GSTAT_drained, SEAM_ECTL_park]; omega)

theorem parkOverride_dispatched (m : Fjoek) (g : Nat) : Dispatched m (m.parkOverride g) := by
  unfold Fjoek.parkOverride
  simp only
  split
  · refine Dispatched.trans ?_ (latch_noted _ 480 (by decide)).dispatched
    refine (logCmd_noted m (SEAM_ECTL (4 * g)) 0).dispatched.trans ?_
    split
    · exact .of_eq (fun _ => rfl) rfl
    · exact putPark_dispatched _ g 0
  · exact .refl m

theorem dispatch_dispatched (m : Fjoek) : Dispatched m m.dispatch := by
  unfold Fjoek.dispatch
  simp only
  split
  · exact settleQueues_dispatched m
  · refine (settleQueues_dispatched m).trans (Dispatched.trans (.each _ _ (fun g hg m => ?_) _) (settleQueues_dispatched _))
    split
    · exact (parkOverride_dispatched m g).trans (dispatchGroup_dispatched (List.mem_range.1 hg) _ _)
    · exact .refl m

/-! ## Commands about the Seam -/

theorem seamPut_leads {m : Fjoek} (h : m.trailing = false) (f : Fld) (v : Nat) (act : Fjoek → Fjoek) :
    m.seamPut f v act = act (m.logCmd f.addr (withBits (m.reg f.addr) f.hi f.lo v)) :=
  if_neg (by rw [h]; exact Bool.false_ne_true)

theorem logCmd_seam (m : Fjoek) (a v : Nat) : (m.logCmd a v).seam = m.seam := by
  unfold Fjoek.logCmd
  split
  · rfl
  · exact logTwin_seam _ _ _ _

theorem inRound_of_seam {m n : Fjoek} (h : n.seam = m.seam) (e : Nat) : n.inRound e = m.inRound e := by
  unfold Fjoek.inRound Fjoek.roundNow Fjoek.roundRest Fjoek.round Fjoek.strand
  rw [h]

theorem Noted.drained {m n : Fjoek} (h : Noted m n) (k : Nat) : n.drained k = m.drained k := by
  unfold Fjoek.drained Fjoek.descsOf Fjoek.leasesOf
  rw [h.strand, h.mngl]

theorem Noted.groupDrained {m n : Fjoek} (h : Noted m n) (g : Nat) : n.groupDrained g = m.groupDrained g := by
  unfold Fjoek.groupDrained
  simp only [h.drained]

/-- A field of SEAM's keeps its value through latches and counts. -/
theorem Noted.get_seam {m n : Fjoek} (h : Noted m n) (f : Fld) (hf : 0x100000 ≤ f.addr ∧ f.addr < 0x300000) : n.get f = m.get f :=
  h.get f (noting_seam _ hf)

theorem Noted.isOn_seam {m n : Fjoek} (h : Noted m n) (f : Fld) (hf : 0x100000 ≤ f.addr ∧ f.addr < 0x300000) : n.isOn f = m.isOn f :=
  h.isOn f (noting_seam _ hf)

theorem act_deferred {m : Fjoek} {a : RoundAct} (h : m.inRound a.engine = true) : m.act a = m.defer a := if_pos h

theorem act_done {m : Fjoek} {a : RoundAct} (h : m.inRound a.engine = false) : m.act a = m.doAct a :=
  if_neg (by rw [h]; exact Bool.false_ne_true)

/-- The module with the drain bit of group `g` written, before dispatch. -/
def Fjoek.drainSet (m : Fjoek) (g : Nat) (d : Bool) : Fjoek :=
  ((m.put (SEAM_GCTL_drain g) (bnat d)).put (SEAM_GSTAT_drained g) (bnat (m.groupDrained g))).when
    (d && !m.isOn (SEAM_GCTL_drain g) && m.groupDrained g) fun m => m.cause (SEAM_ESTAT_gdrain (4 * g)) (272 + 4 * g)

theorem drainWrite_taken {m : Fjoek} {g : Nat} (d : Bool) (hb : m.isOn (SEAM_GSTAT_busy g) = false)
    (hh : tableGet (fun _ => false) m.seam.held g = false) : m.drainWrite g d = (m.drainSet g d).dispatch :=
  if_neg (by rw [hb, hh]; decide)

/-- A cause leaves every register but its own and those of latches. -/
theorem get_cause_ne (m : Fjoek) (f g : Fld) {e : Nat} (he : e < 512) (hne : g.addr ≠ f.addr) (hn : noting g.addr = false) :
    (m.cause f e).get g = m.get g := by
  unfold Fjoek.cause
  split
  · rfl
  · exact ((latch_noted _ e he).get g hn).trans (Fjoek.get_setReg_ne _ _ _ _ hne)

theorem get_drainSet (m : Fjoek) (g : Nat) (d : Bool) (f : Fld) (hg : g < 16) (hf : f.addr = 0x200c00 + 0x4000 * g ∨ f.addr = 0x200c04 + 0x4000 * g) :
    (m.drainSet g d).get f = ((m.put (SEAM_GCTL_drain g) (bnat d)).put (SEAM_GSTAT_drained g) (bnat (m.groupDrained g))).get f := by
  unfold Fjoek.drainSet Fjoek.when
  split
  · exact get_cause_ne _ _ _ (by omega) (by simp only [SEAM_ESTAT_gdrain]; omega) (noting_seam _ (by omega))
  · rfl

theorem get_put_bnat (m : Fjoek) (f : Fld) (b : Bool) (h : f.ok = true) (h1 : f.hi = f.lo) : (m.put f (bnat b)).get f = bnat b := by
  rw [Fjoek.get_put_same m f _ h, h1, Nat.sub_self]
  cases b <;> rfl

section
variable (m : Fjoek) {g : Nat} (d : Bool) (hg : g < 16)
include hg

theorem drainSet_drain : (m.drainSet g d).get (SEAM_GCTL_drain g) = bnat d := by
  rw [get_drainSet m g d _ hg (.inl rfl)]
  refine (Fjoek.get_setReg_ne _ _ _ _ ?_).trans (get_put_bnat m _ d rfl rfl)
  simp only [SEAM_GCTL_drain, SEAM_GSTAT_drained]
  omega

theorem drainSet_drained : (m.drainSet g d).get (SEAM_GSTAT_drained g) = bnat (m.groupDrained g) := by
  rw [get_drainSet m g d _ hg (.inr rfl)]
  exact get_put_bnat _ _ _ rfl rfl

theorem drainSet_closed : (m.drainSet g true).closed g = true := by
  unfold Fjoek.closed Fjoek.isOn
  rw [drainSet_drain m true hg]
  rfl

end

theorem gctl_seam {g : Nat} (hg : g < 16) : 0x100000 ≤ (SEAM_GCTL_drain g).addr ∧ (SEAM_GCTL_drain g).addr < 0x300000 := by
  simp only [SEAM_GCTL_drain]
  omega

theorem gstat_seam {g : Nat} (hg : g < 16) : 0x100000 ≤ (SEAM_GSTAT_drained g).addr ∧ (SEAM_GSTAT_drained g).addr < 0x300000 := by
  simp only [SEAM_GSTAT_drained]
  omega

/-- Dispatch after a write of the drain bit leaves the bit, and the status of a group that is closed now. -/
theorem get_drainSet_dispatch (m : Fjoek) {g : Nat} (d : Bool) (hg : g < 16) :
    (m.drainSet g d).dispatch.get (SEAM_GCTL_drain g) = bnat d ∧
      (d = true → (m.drainSet g d).dispatch.get (SEAM_GSTAT_drained g) = bnat (m.groupDrained g)) := by
  have hd := dispatch_dispatched (m.drainSet g d)
  refine ⟨?_, ?_⟩
  · exact (congrArg (bitsOf · 0 0) (hd.reg _ (not_dispatchReg_gctl hg))).trans (drainSet_drain m d hg)
  · rintro rfl
    exact (congrArg (bitsOf · 1 1) (hd.status _ hg (drainSet_closed m hg))).trans (drainSet_drained m true hg)

theorem drain_written {s : State} (g : Fin 16) (v : Bool) (ht : s.m.trailing = false) (hb : s.m.isOn (SEAM_GSTAT_busy g.val) = false)
    (hh : tableGet (fun _ => false) s.m.seam.held g.val = false) : Ends (.groupDrainWrite g v) s fun n =>
      n.get (SEAM_GCTL_drain g.val) = bnat v ∧ (v = true → n.get (SEAM_GSTAT_drained g.val) = bnat (s.m.groupDrained g.val)) := by
  have hg := g.isLt
  let f := SEAM_GCTL_drain g.val
  have hlog := logCmd_noted s.m f.addr (withBits (s.m.reg f.addr) f.hi f.lo (bnat v))
  refine ends_of _ _ _ _ (congrArg (fun n => Host.Outcome.next (s.settle n)) ((seamPut_leads ht _ _ _).trans
    (drainWrite_taken v ((hlog.isOn_seam (SEAM_GSTAT_busy g.val) (gstat_seam hg)).trans hb)
      ((congrArg (fun q => tableGet (fun _ => false) q.held g.val) (logCmd_seam _ _ _)).trans hh)))) fun t hn => ?_
  obtain ⟨hctl, hstat⟩ := get_drainSet_dispatch (s.m.logCmd f.addr (withBits (s.m.reg f.addr) f.hi f.lo (bnat v))) v hg
  rw [hlog.groupDrained] at hstat
  exact ⟨(hn.get_seam _ (gctl_seam hg)).trans hctl, fun hv => (hn.get_seam _ (gstat_seam hg)).trans (hstat hv)⟩

theorem drain_timeout {s : State} (g : Fin 16) (hd : s.m.isOn (SEAM_GCTL_drain g.val) = true)
    (hr : s.m.get (SEAM_GCTL_drtmr g.val) ≠ 0) (hn : s.m.groupDrained g.val = false) :
    Does (.groupDrainTimeout g) s (s.m.put (SEAM_ESTAT_gdrain_to (4 * g.val)) 1) := by
  have hg := g.isLt
  refine does_of _ _ _ _ (congrArg (fun n => Host.Outcome.next (s.settle n)) (if_pos ⟨hd, hr, by rw [hn]; rfl⟩)) ?_
  exact (Noted.refl _).cause _ _ (by omega) (noting_seam _ (by simp only [SEAM_ESTAT_gdrain_to]; omega)) rfl

/-! ## Parking and in-step mode -/

theorem Noted.defer {m n : Fjoek} (h : Noted m n) (a : RoundAct) : Noted (m.defer a) (n.defer a) :=
  { h with seam := by unfold Fjoek.defer; rw [h.seam] }

section
variable {s : State} (ht : s.m.trailing = false)
include ht

theorem park_deferred (e : Fin 64) (v : Bool) (h : s.m.inRound e.val = true) : Does (.enginePark e v) s (s.m.defer (.park e.val v)) := by
  refine does_of _ _ _ _ (congrArg (fun n => Host.Outcome.next (s.settle n)) ((seamPut_leads ht _ _ _).trans
    (act_deferred (a := .park e.val v) ?_))) ((logCmd_noted _ _ _).defer _)
  exact (inRound_of_seam (logCmd_seam _ _ _) _).trans h

theorem park_written (e : Fin 64) (v : Bool) (h : s.m.inRound e.val = false) (hq : s.m.seam.queues = []) (hw : s.m.seam.waits = []) :
    Does (.enginePark e v) s (s.m.put (SEAM_ECTL_park e.val) (bnat v)) := by
  have hpark : noting (SEAM_ECTL_park e.val).addr = false := noting_seam _ (by simp only [SEAM_ECTL_park]; omega)
  refine does_of _ _ _ _ (congrArg (fun n => Host.Outcome.next (s.settle n)) ((seamPut_leads ht _ _ _).trans
    ((act_done (a := .park e.val v) ?_).trans (dispatch_nil ?_ ?_)))) ((logCmd_noted _ _ _).put _ _ hpark)
  · exact (inRound_of_seam (logCmd_seam _ _ _) _).trans h
  · exact (congrArg Seam.queues (logCmd_seam _ _ _)).trans hq
  · exact (congrArg Seam.waits (logCmd_seam _ _ _)).trans hw

theorem instep_left : Does .instepDisable s (s.m.put SEAM_CTL_instep 0) :=
  does_of _ _ _ _ (congrArg (fun n => Host.Outcome.next (s.settle n)) (seamPut_leads ht _ _ _))
    ((logCmd_noted _ _ _).put _ _ (by decide))

theorem instep_refused (h : ∃ j < 512, s.m.drained j = false) : Does .instepEnable s (s.m.put (SEAM_ESTAT_mode_rej 0) 1) := by
  obtain ⟨j, hj, hd⟩ := h
  have hlog := logCmd_noted s.m SEAM_CTL_instep.addr (withBits (s.m.reg SEAM_CTL_instep.addr) SEAM_CTL_instep.hi SEAM_CTL_instep.lo 1)
  refine does_of _ _ _ _ (congrArg (fun n => Host.Outcome.next (s.settle n)) ((seamPut_leads ht _ _ _).trans ?_))
    (hlog.cause (SEAM_ESTAT_mode_rej 0) 272 (by decide) (by decide) rfl)
  refine (if_neg (by decide)).trans (if_neg fun hall => ?_)
  have hdj := List.all_eq_true.1 hall j (List.mem_range.2 hj)
  rw [hlog.drained, hd] at hdj
  cases hdj

/-- A drained machine that is told to step in rounds. -/
theorem exec_instep_drained (h : ∀ j < 512, s.m.drained j = true) : ∃ n, Noted s.m n ∧
    exec .instepEnable s = .next (s.settle n.stepOn) := by
  have hlog := logCmd_noted s.m SEAM_CTL_instep.addr (withBits (s.m.reg SEAM_CTL_instep.addr) SEAM_CTL_instep.hi SEAM_CTL_instep.lo 1)
  refine ⟨_, hlog, congrArg (fun n => Host.Outcome.next (s.settle n)) ((seamPut_leads ht _ _ _).trans ?_)⟩
  refine (if_neg (by decide)).trans (if_pos (List.all_eq_true.2 fun j hj => ?_))
  rw [hlog.drained]
  exact h j (List.mem_range.1 hj)

theorem instep_on (h : ∀ j < 512, s.m.drained j = true) (hon : s.m.isOn SEAM_CTL_instep = true) : Does .instepEnable s s.m := by
  obtain ⟨n, hn, hx⟩ := exec_instep_drained ht h
  have hstep : n.stepOn = n := if_pos ((hn.isOn SEAM_CTL_instep (by decide)).trans hon)
  exact does_of _ _ _ _ hx (by rwa [hstep])

/-- In-step mode begins with no engine in a round. -/
def Fjoek.stepFirst (m : Fjoek) : Fjoek :=
  { m.put SEAM_CTL_instep 1 with seam := { (m.put SEAM_CTL_instep 1).seam with rounds := [], offered := [] } }

theorem instep_begins (h : ∀ j < 512, s.m.drained j = true) (hon : s.m.isOn SEAM_CTL_instep = false) :
    Does .instepEnable s s.m.stepFirst := by
  obtain ⟨n, hn, hx⟩ := exec_instep_drained ht h
  have hstep : n.stepOn = n.stepFirst := if_neg (by rw [hn.isOn SEAM_CTL_instep (by decide), hon]; decide)
  have hput := hn.put SEAM_CTL_instep 1 (by decide)
  refine does_of _ _ _ _ hx ?_
  rw [hstep]
  exact { hput with seam := by unfold Fjoek.stepFirst; rw [hput.seam] }

end

/-! ## An undefined word -/

/-- The strand of `i` stands faulted at its instruction. -/
def Fjoek.faultAt (m : Fjoek) (i : Issue) (cause : Nat) : Fjoek :=
  ((m.setStrand (issueKey i) { m.strand (issueKey i) with
    mode := .fault, cause := cause, fpc := (m.strand (issueKey i)).pc.toNat, waitFor := .nothing }).put
      ⟨SEAM_ESTAT i.e.val, 24 + i.s.val, 24 + i.s.val⟩ 1).put (SEAM_ESTAT_fault i.e.val) 1

theorem faultStrand_faultAt {m n : Fjoek} (i : Issue) (c : Nat) (hn : Sampled m n) :
    Sampled (m.faultAt i c) (n.faultStrand (issueKey i) c) := by
  have he := i.e.isLt
  unfold Fjoek.faultStrand Fjoek.faultAt
  simp only [hn.strand, issueKey_div i, issueKey_mod i]
  refine Sampled.cause ?_ _ _ (by omega) ?_ rfl
  · refine Sampled.trans ?_ (perf_sampled _ _ _ _ _ he)
    refine (hn.setStrand _ _).put _ _ (noting_seam _ ?_) ?_ <;> (simp only [SEAM_ESTAT]; omega)
  · simp only [SEAM_ESTAT_fault]
    omega

theorem calm_faultAt {m : Fjoek} (i : Issue) (c : Nat) (h : m.calm i.e.val) : (m.faultAt i c).calm i.e.val :=
  calm_put _ _ _ _ (besideRole_estat i.e.isLt) (calm_put _ _ _ _ (besideRole_estat i.e.isLt) (calm_setStrand _ _ _ _ h rfl))

theorem issueDefined_undefined {m : Fjoek} {i : Issue} (hc : m.calm i.e.val) (hi : m.canIssue (issueKey i) = true)
    (hb : tableGet (fun _ => false) m.seam.progue (8192 * i.e.val + (m.strand (issueKey i)).pc.toNat) = false) (f : Fjoek → Fjoek) :
    m.issueDefined i false f = ((m.issued (issueKey i) true).faultStrand (issueKey i) 1).roundActs i.e.val := by
  unfold Fjoek.issueDefined
  simp only [roundActs_calm _ _ hc, hi, hb, Bool.not_true, Bool.false_eq_true, if_false]

theorem undefined_faults {s : State} (e : Fin 64) (u : Fin 8) (i : Issue) (hie : i = { e := e, s := u, psel := 0, pneg := false })
    (hc : s.m.calm i.e.val) (hi : s.m.canIssue (issueKey i) = true)
    (hb : tableGet (fun _ => false) s.m.seam.progue (8192 * i.e.val + (s.m.strand (issueKey i)).pc.toNat) = false)
    (hw : wordDefined (s.m.word i.e.val (s.m.strand (issueKey i)).pc.toNat) = false) :
    Runs (.undefinedWord e u) s (s.m.faultAt i 1) := by
  have hf := faultStrand_faultAt i 1 (issued_sampled s.m (issueKey i) true (issueKey_lt i))
  have hact := roundActs_calm _ _ (hf.calm _ (calm_faultAt i 1 hc))
  have hx := (issueDefined_undefined hc hi hb id).trans hact
  subst hie
  exact runs_of _ _ _ _ (congrArg (fun n => Host.Outcome.next (s.settle n)) ((if_neg (by rw [hw]; exact Bool.false_ne_true)).trans hx)) hf

/-- Settles O15: each write of the Seam's control does what its rule says, and an undefined word faults its strand. -/
theorem seamControl : Obligations.SeamControl := by
  unfold Obligations.SeamControl
  intro s g e u v m k x fault own on
  refine ⟨fun ht hb hh => drain_written g v ht hb hh, fun hd hr hn => drain_timeout g hd hr hn, fun ht hr => park_deferred ht e v hr,
    fun ht hr hq hw => park_written ht e v hr hq hw, fun ht h hon => instep_on ht h hon, fun ht h hon => instep_begins ht h hon,
    fun ht h => instep_refused ht h, fun ht => instep_left ht, fun hc hi hb hw => ?_⟩
  exact undefined_faults (s := s) e u { e := e, s := u, psel := 0, pneg := false } rfl hc hi hb hw

end Sys2Proof.Machine
end

section
/-! PROOFS. Resets of strands (R47): a state in which a reset strand does not restart. -/

namespace Sys2Proof.Machine

/-! ## The strand through the end of its reset -/

theorem sameSeam_stays {m n : Fjoek} (h : SameSeam m n) : n.seam.queues = m.seam.queues ∧ n.seam.waits = m.seam.waits := by
  rw [h]
  exact ⟨rfl, rfl⟩

/-- The strand whose stall the queue's room ends. -/
def Fjoek.wakeStrand (m : Fjoek) (k : Nat) : Fjoek :=
  let x := m.strand k
  if x.mode = .stall ∧ x.stallFor = .queue then m.setStrand k { x with mode := .ready, stallFor := .access } else m

theorem wakeQueue_eq (m : Fjoek) (g : Nat) :
    m.wakeQueue g = if m.queueFree g = 0 then m else m.each (List.range 32) fun j m => m.wakeStrand (32 * g + j) := rfl

/-- A strand that does not stall, and no item queued or waiting: what the wake of other strands leaves. -/
structure Rests (k : Nat) (x : Strand) (m : Fjoek) : Prop where
  strand : m.strand k = x
  queues : m.seam.queues = []
  waits : m.seam.waits = []

theorem Rests.wakeStrand {k : Nat} {x : Strand} {m : Fjoek} (h : Rests k x m) (hx : x.mode ≠ .stall) (j : Nat) : Rests k x (m.wakeStrand j) := by
  unfold Fjoek.wakeStrand
  simp only
  split
  · rename_i hj
    have hne : k ≠ j := by
      rintro rfl
      rw [h.strand] at hj
      exact hx hj.1
    exact ⟨(strand_setStrand_ne _ _ hne).trans h.strand, h.queues, h.waits⟩
  · exact h

theorem Rests.each {α : Type} {k : Nat} {x : Strand} {m : Fjoek} (h : Rests k x m) {f : α → Fjoek → Fjoek} (l : List α)
    (hf : ∀ n, Rests k x n → ∀ a, Rests k x (f a n)) : Rests k x (m.each l f) := by
  unfold Fjoek.each
  induction l generalizing m with
  | nil => exact h
  | cons a r ih => exact ih (hf m h a)

theorem Rests.wakeQueue {k : Nat} {x : Strand} {m : Fjoek} (h : Rests k x m) (hx : x.mode ≠ .stall) (g : Nat) : Rests k x (m.wakeQueue g) := by
  rw [wakeQueue_eq]
  split
  · exact h
  · exact h.each _ fun n hn j => hn.wakeStrand hx _

theorem Rests.settleGroup {k : Nat} {x : Strand} {m : Fjoek} (h : Rests k x m) {g : Nat} (hg : g < 16) : Rests k x (m.settleGroup g) := by
  have hs := sameSeam_settleGroup m hg
  obtain ⟨hq, hw⟩ := sameSeam_stays hs
  exact ⟨(hs.strand k).trans h.strand, hq.trans h.queues, hw.trans h.waits⟩

theorem Rests.dispatch {k : Nat} {x : Strand} {m : Fjoek} (h : Rests k x m) : Rests k x m.dispatch := by
  rw [dispatch_nil h.queues h.waits]
  exact h

/-- Where a descriptor that started is left, the reset leaves its strand as it was cleared. -/
theorem strandResetNow_rests {m : Fjoek} {k : Nat} {x : Strand} (hk : k < 512) (hq : (m.clearStrand k).quiet k = false)
    (h : Rests k x (m.clearStrand k)) (hx : x.mode ≠ .stall) : (m.strandResetNow k).strand k = x := by
  have hnow : m.strandResetNow k = (((m.clearStrand k).settleGroup (k / 32)).wakeQueue (k / 32)).dispatch := by
    unfold Fjoek.strandResetNow
    simp only [hq, Bool.false_eq_true, if_false]
  rw [hnow]
  exact ((h.settleGroup (by omega)).wakeQueue hx _).dispatch.strand

/-- A module that does not lead logs no command. -/
theorem logCmd_solo {m : Fjoek} (h : m.leads = false) (a v : Nat) : m.logCmd a v = m := by
  unfold Fjoek.logCmd
  split
  · rfl
  · exact if_neg (by rw [h]; exact Bool.false_ne_true)

/-- A strand reset written to a module alone. -/
theorem exec_strandReset {s : State} (ht : s.m.trailing = false) (hl : s.m.leads = false) (e : Fin 64) (u : Fin 8) :
    exec (.strandReset e u) s = .next (s.settle (s.m.act (.reset (8 * e.val + u.val)))) := by
  have hput := seamPut_leads ht (SEAM_STRCTL_reset e.val u.val) 1 fun m => m.strandResetWrite (8 * e.val + u.val)
  rw [logCmd_solo hl] at hput
  exact congrArg (fun n => Host.Outcome.next (s.settle n)) hput

/-- A strand reset written to a module alone leaves the strand as the act does. -/
theorem ends_strandReset {s : State} (ht : s.m.trailing = false) (hl : s.m.leads = false) {e : Fin 64} {u : Fin 8} {P : Fjoek → Prop}
    (h : Ends (.strandReset e u) s P) : ∃ n, P n ∧ ∀ k, n.strand k = (s.m.act (.reset (8 * e.val + u.val))).strand k := by
  obtain ⟨t, hx, -, hp⟩ := h
  cases (exec_strandReset ht hl e u).symm.trans hx
  exact ⟨_, hp, (settle_noted s _).strand⟩

/-! ## The state -/

/-- An orphan of strand 0 that has not started. No run of the machine leaves one, since a reset orphans started descriptors alone (R47);
the statement asks for nothing that rules it out. -/
def strayDesc : Desc :=
  { id := 5, engine := 0, strand := 0, cls := 0, words := [], phase := .drawing, params := [], code := 0, detail := 0, epstat := 0
    result := 0, sent := 0, fails := [], orphan := true }

/-- The draw of the orphan stands behind the strand's own, which the reset withdraws. -/
def strayFjoek : Fjoek :=
  { fjoekReset with
    mngl := { mnglInit with descs := [strayDesc] }
    damp := { dampInit with draws := [(0, [⟨.strand 0, 1⟩, ⟨.desc 5, 1⟩])] } }

def strayState : State := { State.reset with m := strayFjoek }

/-- The reset strand of the stray state, which waits for the descriptor that its own reset lets start. -/
theorem stray_cleared : Rests 0 ((strayFjoek.clearStrand 0).strand 0) (strayFjoek.clearStrand 0) :=
  ⟨rfl, by decide, by decide⟩

theorem stray_resets : ((strayFjoek.act (.reset 0)).strand 0).mode = .resetting := by
  have hmode : ((strayFjoek.clearStrand 0).strand 0).mode = .resetting := by decide
  have hact : strayFjoek.act (.reset 0) = strayFjoek.strandResetNow 0 := act_done (a := .reset 0) (by decide)
  rw [hact, strandResetNow_rests (by decide) (by decide) stray_cleared (by rw [hmode]; decide)]
  exact hmode

/-- Refutes O14: the reset of a quiet strand withdraws the strand's draw, which lets the orphan behind it start, so that the strand
waits in RESETTING and does not restart. -/
theorem not_strandResets : ¬ Obligations.StrandResets := by
  unfold Obligations.StrandResets
  intro h
  obtain ⟨-, hquiet, -⟩ := h strayState 0 0 []
  obtain ⟨n, ⟨hfresh, -⟩, hstrand⟩ := ends_strandReset (by decide) (by decide) (hquiet ⟨by decide, by decide⟩ (by decide))
  have hrun := ((congrArg Strand.mode (hstrand 0)).trans stray_resets).symm.trans (congrArg Strand.mode hfresh)
  dsimp only at hrun
  split at hrun <;> cases hrun

end Sys2Proof.Machine
end

section
/-! PROOFS. The loader (R48, R49): a source that cannot be read and that its own copy makes whole. -/

namespace Sys2Proof.Machine

/-! ## Reading a poisoned range, and one that was written -/

theorem hbmDetect_poisoned {m : Fjoek} {g : Option Nat} {a n u : Nat} (hu : u ∈ unitsTouched a n) (hp : marked m.hbmPoison u = true) :
    (m.hbmDetect g a n).1 = true := by
  unfold Fjoek.hbmDetect
  exact List.any_eq_true.2 ⟨u, hu, by rw [hp]; rfl⟩

/-- A unit whose bytes all lie in what is written holds no byte that stands open. -/
theorem openBad_hbmStore (m : Fjoek) {a u : Nat} {b : List Byte} (hlo : a ≤ 64 * u) (hhi : 64 * u + 64 ≤ a + b.length) :
    (m.hbmStore a b).hbmOpenBad u = false := by
  unfold Fjoek.hbmOpenBad
  rw [Bool.and_eq_false_iff, Bool.not_eq_false']
  refine .inl (List.all_eq_true.2 fun i hi => ?_)
  have := List.mem_range.1 hi
  unfold tableHas
  rw [hbmFind_store, if_pos (by omega)]
  rfl

/-! ## An image that is its own staged copy -/

/-- An image whose first byte is 0 has the wrong magic. -/
theorem headCheck_zero (r : List Nat) (addr : Nat) : headCheck (0 :: r) addr = 1 := by
  have h0 : hdrNat (0 :: r) 0 4 = 256 * ofBytes ((r.take 3).map (BitVec.ofNat 8)) := Nat.zero_add _
  refine if_pos (.inl ?_)
  rw [h0]
  omega

theorem hbmBytes_head (m : Fjoek) (a n : Nat) : ∃ r, (m.hbmBytes a (n + 1)).map BitVec.toNat = (m.hbmByte a).toNat :: r := by
  unfold Fjoek.hbmBytes
  rw [List.range_succ_eq_map]
  exact ⟨_, rfl⟩

theorem headCheck_hbm {m : Fjoek} {a : Nat} (h : m.hbmByte a = 0) (addr : Nat) :
    headCheck ((m.hbmBytes a 512).map BitVec.toNat) addr = 1 := by
  obtain ⟨r, hr⟩ := hbmBytes_head m a 511
  rw [hr, h]
  exact headCheck_zero r addr

/-- The end of a VERIFY of an image at the staging base whose head is no image's and whose copy reads. -/
theorem ldrVerifyDone_self {m : Fjoek} {a : Nat} (hl : m.seam.loader = .verifying) (ha : m.seam.ldrAddr = a) (hb : m.seam.ldrStage = a)
    (h0 : m.hbmByte a = 0) (hr : ((m.hbmPut a (m.hbmBytes a 512)).hbmDetect none a 512).1 = false) :
    m.ldrVerifyDone = Fjoek.ldrDone { m.hbmPut a (m.hbmBytes a 512) with free := m.free + 2 ^ 18 } 1 := by
  have hclean := hbmDetect_clean _ none a 512 hr
  have hmix : ((List.range 512).map fun i => m.hbmByte (a + 0 + i)) = m.hbmBytes a 512 := by
    unfold Fjoek.hbmBytes
    simp only [Nat.add_zero]
  unfold Fjoek.ldrVerifyDone
  simp only [hl, ha, hb, ne_eq, not_true_eq_false, if_false, if_true, hmix, headCheck_hbm h0, one_ne_zero, hclean, not_false_eq_true,
    Bool.false_eq_true]

theorem get_ldrDone_code (m : Fjoek) {c : Nat} (hc : c < 2 ^ 8) : (m.ldrDone c).get SEAM_LDR_STAT_code = c := by
  have hidle (n : Fjoek) : Fjoek.get { n with seam := { n.seam with loader := .idle } } SEAM_LDR_STAT_code = n.get SEAM_LDR_STAT_code := rfl
  have hwidth : SEAM_LDR_STAT_code.hi - SEAM_LDR_STAT_code.lo + 1 = 8 := rfl
  unfold Fjoek.ldrDone
  rw [get_cause_ne _ _ _ (by decide) (by decide) (by decide), hidle,
    Fjoek.get_put_apart _ SEAM_LDR_STAT_busy SEAM_LDR_STAT_code 0 (by decide) (by decide) (by decide),
    Fjoek.get_put_same _ _ _ (by decide), hwidth]
  exact Nat.mod_eq_of_lt hc

theorem get_unburnt (m : Fjoek) (f : Fld) : m.unburnt.get f = m.get f := rfl

theorem ends_loaderVerifyDone {s : State} {n : Fjoek} {c : Nat} (hc : c < 2 ^ 8) (hn : s.m.ldrVerifyDone = n.ldrDone c) {P : Fjoek → Prop}
    (h : Ends .loaderVerifyDone s P) : ∃ t, P t ∧ t.get SEAM_LDR_STAT_code = c := by
  obtain ⟨t, hx, -, hp⟩ := h
  have hexec : exec .loaderVerifyDone s = .next (s.settle s.m.ldrVerifyDone) := rfl
  rw [hn] at hexec
  cases hexec.symm.trans hx
  exact ⟨_, hp, by rw [(settle_noted s _).get _ (by decide), get_unburnt, get_ldrDone_code n hc]⟩

/-! ## The state -/

/-- A module that verifies an image at its own staging base, the start of HBM, with a poisoned byte in the first unit. -/
def poisonedFjoek : Fjoek :=
  { fjoekReset with hbm := [(0, 0)], hbmPoison := [(0, 1)], seam := { seamInit with loader := .verifying } }

def poisonedState : State := { State.reset with m := poisonedFjoek }

theorem poisoned_unreadable (n : Nat) (hn : n ≠ 0) : (poisonedFjoek.hbmDetect none 0 n).1 = true := by
  refine hbmDetect_poisoned (u := 0) ?_ rfl
  unfold unitsTouched
  rw [if_neg hn]
  exact List.mem_map.2 ⟨0, List.mem_range.2 (by omega), rfl⟩

/-- The copy writes the first eight units whole, so that they read. -/
theorem poisoned_copied : ((poisonedFjoek.hbmPut 0 (poisonedFjoek.hbmBytes 0 512)).hbmDetect none 0 512).1 = false := by
  have hput (b : List Byte) : poisonedFjoek.hbmPut 0 b = poisonedFjoek.hbmStore 0 b := if_pos rfl
  have hlen : (poisonedFjoek.hbmBytes 0 512).length = 512 := by simp [Fjoek.hbmBytes]
  have hmarks : ∀ u < 8, marked (rewriteUnits [(0, 1)] id 0 512) u = false := by decide
  rw [hput]
  generalize poisonedFjoek.hbmBytes 0 512 = b at hlen
  unfold Fjoek.hbmDetect
  refine List.any_eq_false.2 fun u hu => ?_
  obtain ⟨-, -, hlast⟩ := mem_unitsTouched _ _ _ hu
  have hpoison : marked (poisonedFjoek.hbmStore 0 b).hbmPoison u = false := by
    show marked (rewriteUnits [(0, 1)] id 0 b.length) u = false
    rw [hlen]
    exact hmarks u (by omega)
  rw [hpoison, openBad_hbmStore _ (Nat.zero_le _) (by omega)]
  exact Bool.false_ne_true

theorem poisoned_done : poisonedFjoek.ldrVerifyDone =
    Fjoek.ldrDone { poisonedFjoek.hbmPut 0 (poisonedFjoek.hbmBytes 0 512) with free := poisonedFjoek.free + 2 ^ 18 } 1 :=
  ldrVerifyDone_self rfl rfl rfl rfl poisoned_copied

/-- Refutes O16: the copy of an image that stands at the staging base rewrites the image's own poisoned bytes before it reads them, so
that VERIFY ends with the code of its head (1) and not with 0x0A. -/
theorem not_loader : ¬ Obligations.Loader := by
  unfold Obligations.Loader
  intro h
  obtain ⟨-, -, -, -, hbad, -⟩ := h poisonedState 0 0 []
  obtain ⟨n, ⟨-, hcode, -⟩, hone⟩ := ends_loaderVerifyDone (s := poisonedState) (by decide) poisoned_done (hbad rfl (fun _ _ => rfl) (poisoned_unreadable _ (by split <;> simp [imageLen])))
  rw [hone] at hcode
  cases hcode

end Sys2Proof.Machine
end

section
/-! PROOFS. Frames of storage commands: what one write of a part leaves, and what latches and messages do. -/

namespace Sys2Proof.Machine

section
variable {ps : List Part} {ws : Option (List Nat)} {m : Fjoek}

/-- A footprint that holds part `p`, which a lemma finds among its hypotheses. -/
abbrev Writes (ps : List Part) (p : Part) : Prop := Fact (p ∈ ps)

/-! ## One part is written -/

theorem within_seam {b : Seam} [h : Writes ps .seam] : Within ps ws m { m with seam := b } where
  rest := { ((Noted.refl m).within ps ws).rest with
    seam := by simp [Fjoek.graft, h.out]
    flight := ⟨[], by simp [Fjoek.graft, h.out]⟩ }
  regs _ _ _ _ _ := rfl

theorem within_mngl {b : Mngl} [h : Writes ps .mngl] : Within ps ws m { m with mngl := b } where
  rest := { ((Noted.refl m).within ps ws).rest with mngl := by simp [Fjoek.graft, h.out] }
  regs _ _ _ _ _ := rfl

theorem within_damp {b : Damp} [h : Writes ps .damp] : Within ps ws m { m with damp := b } where
  rest := { ((Noted.refl m).within ps ws).rest with damp := by simp [Fjoek.graft, h.out] }
  regs _ _ _ _ _ := rfl

theorem within_pmon {b : Pmon} [h : Writes ps .pmon] : Within ps ws m { m with pmon := b } where
  rest := { ((Noted.refl m).within ps ws).rest with pmon := by simp [Fjoek.graft, h.out] }
  regs _ _ _ _ _ := rfl

theorem within_att {b : Att} [h : Writes ps .att] : Within ps ws m { m with att := b } where
  rest := { ((Noted.refl m).within ps ws).rest with att := by simp [Fjoek.graft, h.out] }
  regs _ _ _ _ _ := rfl

theorem within_drv {b : Drv} [h : Writes ps .drv] : Within ps ws m { m with drv := b } where
  rest := { ((Noted.refl m).within ps ws).rest with drv := by simp [Fjoek.graft, h.out] }
  regs _ _ _ _ _ := rfl

theorem within_lib {b : Lib} [h : Writes ps .lib] : Within ps ws m { m with lib := b } where
  rest := { ((Noted.refl m).within ps ws).rest with lib := by simp [Fjoek.graft, h.out] }
  regs _ _ _ _ _ := rfl

theorem within_fwd {b : Fwd} [h : Writes ps .fwd] : Within ps ws m { m with fwd := b } where
  rest := { ((Noted.refl m).within ps ws).rest with fwd := by simp [Fjoek.graft, h.out] }
  regs _ _ _ _ _ := rfl

theorem within_xport {b : Xport} [h : Writes ps .xport] : Within ps ws m { m with xport := b } where
  rest := { ((Noted.refl m).within ps ws).rest with xport := by simp [Fjoek.graft, h.out] }
  regs _ _ _ _ _ := rfl

theorem within_free {b : Nat} [h : Writes ps .free] : Within ps ws m { m with free := b } where
  rest := { ((Noted.refl m).within ps ws).rest with free := by simp [Fjoek.graft, h.out] }
  regs _ _ _ _ _ := rfl

theorem within_locks {b : Table Word64} [h : Writes ps .locks] : Within ps ws m { m with locks := b } where
  rest := { ((Noted.refl m).within ps ws).rest with locks := by simp [Fjoek.graft, h.out] }
  regs _ _ _ _ _ := rfl

theorem within_mram {b : Table Byte} [h : Writes ps .mram] : Within ps ws m { m with mram := b } where
  rest := { ((Noted.refl m).within ps ws).rest with mram := by intros; simp [Fjoek.graft, h.out, Fjoek.mramByte] }
  regs _ _ _ _ _ := rfl

theorem within_twin {b : Twin} [h : Writes ps .twin] : Within ps ws m { m with twin := b } where
  rest := { ((Noted.refl m).within ps ws).rest with twin := by simp [Fjoek.graft, h.out], seq := by simp [Fjoek.graft, h.out] }
  regs _ _ _ _ _ := rfl

/-- The marks of HBM's units are HBM's. -/
theorem within_hbmMarks {p q : Table Word64} [h : Writes ps .hbm] :
    Within ps ws m { m with hbmPoison := p, hbmHidden := q } where
  rest := { ((Noted.refl m).within ps ws).rest with poison := by simp [Fjoek.graft, h.out] }
  regs _ _ _ _ _ := rfl

/-- What the TWIN block knows of memory is HBM's as well. -/
theorem within_twinMarks {a : Table Bool} {t : Table Nat} {l : List Nat} [h : Writes ps .hbm] :
    Within ps ws m { m with twin := { m.twin with absent := a, shadow := t, rewritten := l } } where
  rest := { ((Noted.refl m).within ps ws).rest with
    twin := by simp only [Fjoek.graft, if_pos h.out]; split <;> rfl
    seq := by simp only [Fjoek.graft, if_pos h.out]; split <;> rfl }
  regs _ _ _ _ _ := rfl

theorem within_hbm {b : Table Byte} {p q : Table Word64} {a : Table Bool} {t : Table Nat} {l : List Nat} [h : Writes ps .hbm] :
    Within ps ws m { m with
      hbm := b, hbmPoison := p, hbmHidden := q, twin := { m.twin with absent := a, shadow := t, rewritten := l } } where
  rest := { ((Noted.refl m).within ps ws).rest with
    hbm := by simp only [Fjoek.graft, if_pos h.out]
    poison := by simp only [Fjoek.graft, if_pos h.out, and_self]
    twin := by simp only [Fjoek.graft, if_pos h.out]; split <;> rfl
    seq := by simp only [Fjoek.graft, if_pos h.out]; split <;> rfl }
  regs _ _ _ _ _ := rfl

/-- A write of a lease makes the units of the buffer whole, as the TWIN block knows them. -/
theorem within_buffer {b : Mngl} {a : Table Bool} (hmarks : Part.twin ∈ ps ∨ Part.hbm ∈ ps)
    [h : Writes ps .mngl] : Within ps ws m { m with mngl := b, twin := { m.twin with absent := a } } where
  rest := { ((Noted.refl m).within ps ws).rest with
    mngl := by simp only [Fjoek.graft, if_pos h.out]
    twin := by
      simp only [Fjoek.graft]
      split
      · rfl
      · rw [if_pos (hmarks.resolve_left ‹_›)]
    seq := by simp only [Fjoek.graft]; split <;> [exact Nat.le_refl _; split <;> exact Nat.le_refl _] }
  regs _ _ _ _ _ := rfl

/-! ## Messages, records and counts of happenings -/

theorem within_happen {e n : Nat} : Within ps ws m (m.happen e n) := (noted_happen m e n).within ps ws

theorem within_send {o : OutMsg} : Within ps ws m (m.send o) := (noted_send m o).within ps ws

theorem within_output {o : OutMsg} : Within ps ws m (m.output o) := (output_noted m o).within ps ws

theorem within_digestItem {b : List Nat} : Within ps ws m (m.digestItem b) := (digestItem_noted m b).within ps ws

theorem within_logTwin {k t : Nat} {p : List Nat} : Within ps ws m (m.logTwin k t p) := (logTwin_noted m k t p).within ps ws

theorem within_logValue {k r v : Nat} : Within ps ws m (m.logValue k r v) := by
  unfold Fjoek.logValue
  exact within_logTwin

theorem within_logCmd {a v : Nat} : Within ps ws m (m.logCmd a v) := (logCmd_noted m a v).within ps ws

theorem within_postTag {e t : Nat} : Within ps ws m (m.postTag e t) := (postTag_noted m e t).within ps ws

theorem within_postPrivate {e t : Nat} : Within ps ws m (m.postPrivate e t) := (postPrivate_noted m e t).within ps ws

theorem within_attRaise {f v : Nat} : Within ps ws m (m.attRaise f v) := (attRaise_noted m f v).within ps ws

theorem within_attWake : Within ps ws m m.attWake := (attWake_noted m).within ps ws

theorem within_intxUpdate : Within ps ws m m.intxUpdate := (intxUpdate_noted m).within ps ws

theorem within_setAttFn {f : Nat} {x : AttFn} : Within ps ws m (m.setAttFn f x) := (setAttFn_noted m f x).within ps ws

theorem within_perfGlobal {e n : Nat} : Within ps ws m (m.perfGlobal e n) := (perfGlobal_noted m e n).within ps ws

theorem within_deliver {e : Nat} : Within ps ws m (m.deliver e) := (deliver_noted m e).within ps ws

/-! ## Any register -/

theorem within_anyReg {a v : Nat} : Within ps none m (m.setReg a v) := within_setReg ps none m a v nofun

theorem within_anyReg64 {a v : Nat} : Within ps none m (m.setReg64 a v) := within_anyReg.trans within_anyReg

theorem within_anyPut {f : Fld} {v : Nat} : Within ps none m (m.put f v) := within_anyReg

theorem within_anyBump {f : Fld} {n : Nat} : Within ps none m (m.bump f n) := within_anyReg

theorem within_anyCount {a n : Nat} : Within ps none m (m.count a n) := within_anyReg64

theorem within_latchBase {e : Nat} : Within ps none m (m.latchBase e) := by
  unfold Fjoek.latchBase
  dsimp only
  split
  · exact .refl _ _ _
  · exact (within_anyReg.trans within_anyCount).trans (.when _ _ within_deliver)

/-- Where a footprint bounds no register, it holds any latch. -/
theorem within_anyLatch {e : Nat} : Within ps none m (m.latch e) := by
  unfold Fjoek.latch
  dsimp only
  split
  · exact within_latchBase
  · refine within_latchBase.trans (.each _ _ (fun j _ m => .when _ _ ?_) _)
    split
    · exact within_anyReg64
    · split
      · exact within_anyReg64
      · exact (within_anyReg64.trans within_anyPut).trans within_latchBase

theorem within_anyCause {f : Fld} {e : Nat} : Within ps none m (m.cause f e) := by
  unfold Fjoek.cause
  split
  · exact .refl _ _ _
  · exact within_anyPut.trans within_anyLatch

/-! ## Registers of a window that the footprint names -/

/-- The footprint bounds no register, or holds window `w`. -/
def Opens (ws : Option (List Nat)) (w : Nat) : Prop := ∀ l, ws = some l → w ∈ l

theorem opens_some {l : List Nat} {w : Nat} (h : w ∈ l) : Opens (some l) w := by
  rintro _ ⟨⟩
  exact h

theorem opens_none (w : Nat) : Opens none w := nofun

theorem Opens.side {a : Nat} (h : Opens ws (a / 0x10000)) :
    ∀ l, ws = some l → a / 0x10000 ∈ l ∨ noting a = true := fun l hl => .inl (h l hl)

theorem within_regIn {a v : Nat} (h : Opens ws (a / 0x10000)) : Within ps ws m (m.setReg a v) :=
  within_setReg ps ws m a v h.side

theorem within_putIn {f : Fld} {v : Nat} (h : Opens ws (f.addr / 0x10000)) : Within ps ws m (m.put f v) :=
  within_regIn h

theorem within_reg64In {a v : Nat} (h : Opens ws (a / 0x10000)) (h' : Opens ws ((a + 4) / 0x10000)) :
    Within ps ws m (m.setReg64 a v) := (within_regIn h).trans (within_regIn h')

theorem within_countIn {a n : Nat} (h : Opens ws (a / 0x10000)) (h' : Opens ws ((a + 4) / 0x10000)) :
    Within ps ws m (m.count a n) := within_reg64In h h'

theorem within_latchIn {e : Nat} (he : e < 512) : Within ps ws m (m.latch e) := (latch_noted m e he).within ps ws

theorem within_causeIn {f : Fld} {e : Nat} (h : Opens ws (f.addr / 0x10000)) (he : e < 512) :
    Within ps ws m (m.cause f e) := within_cause ps ws m f e he h.side

/-- Every register of drive port `p` is in windows that the footprint names. -/
def PortOpen (ws : Option (List Nat)) (p : Nat) : Prop := ∀ o < 0x2000, Opens ws ((0x280000 + o + 0x2000 * p) / 0x10000)

theorem portOpen_none (p : Nat) : PortOpen none p := fun _ _ => opens_none _

/-- The ports' registers end in window `0x2A`. -/
theorem portOpen_some {l : List Nat} {p : Nat} (hp : p < 24) (hl : 0x28 ∈ l ∧ 0x29 ∈ l ∧ 0x2A ∈ l) :
    PortOpen (some l) p := fun o ho => opens_some (by
  obtain ⟨h28, h29, h2A⟩ := hl
  obtain h | h | h : (0x280000 + o + 0x2000 * p) / 0x10000 = 0x28 ∨ (0x280000 + o + 0x2000 * p) / 0x10000 = 0x29 ∨
    (0x280000 + o + 0x2000 * p) / 0x10000 = 0x2A := by omega
  all_goals rwa [h])

/-- Every register of the SEAM block is in windows that the footprint names. -/
def SeamOpen (ws : Option (List Nat)) : Prop := ∀ a, 0x20 ≤ a / 0x10000 ∧ a / 0x10000 < 0x24 → Opens ws (a / 0x10000)

theorem seamOpen_some : SeamOpen (some [0x20, 0x21, 0x22, 0x23]) := fun a h => opens_some (by
  obtain h | h | h | h : a / 0x10000 = 0x20 ∨ a / 0x10000 = 0x21 ∨ a / 0x10000 = 0x22 ∨ a / 0x10000 = 0x23 := by omega
  all_goals simp [h])

/-! ## Steps over parts of the module -/

/-- What comes with a value is within the footprint that the pair's module is within. -/
theorem Within.snd {α : Type} {n c : Fjoek} {e : α × Fjoek} {x : α} (h : e = (x, c)) (he : Within ps ws n e.2) :
    Within ps ws n c := by
  rwa [h] at he

/-- A step that starts from the second of a pair. -/
theorem Within.ofPair {α : Type} {n b c : Fjoek} {e : α × Fjoek} {x : α} (h : e = (x, b)) (he : Within ps ws n e.2)
    (hb : Within ps ws n b → Within ps ws n c) : Within ps ws n c := hb (.snd h he)

theorem Within.orElse {c : Prop} [Decidable c] {n : Fjoek} (h : Within ps ws m n) : Within ps ws m (if c then m else n) := by
  split
  · exact .refl _ _ _
  · exact h

theorem Within.orSkip {c : Prop} [Decidable c] {n : Fjoek} (h : Within ps ws m n) : Within ps ws m (if c then n else m) := by
  split
  · exact h
  · exact .refl _ _ _

theorem within_onPool {p : Nat} {f : Pool → Fjoek → Fjoek} (h : ∀ x, Within ps ws m (f x m)) :
    Within ps ws m (m.onPool p f) := by
  unfold Fjoek.onPool
  split
  · exact .refl _ _ _
  · exact h _

/-- A fold that carries values along with the module. -/
theorem within_foldlSnd {α β : Type} (f : β × Fjoek → α → β × Fjoek) (h : ∀ r x, Within ps ws r.2 (f r x).2) (l : List α)
    (r : β × Fjoek) :
    Within ps ws r.2 (l.foldl f r).2 := by
  induction l generalizing r with
  | nil => exact .refl _ _ _
  | cons x l ih => exact (h r x).trans (ih _)

/-! ## Commands -/

/-- A command that ends in `x` has an effect, and it stays within a footprint. -/
def Stays (ps : List Part) (ws : Option (List Nat)) (x : Host.Outcome State Fault Refusal) (s : State) : Prop :=
  ∃ f : Fjoek → Fjoek, x = s.on f ∧ Within ps ws s.m (f s.m)

theorem Stays.of {s : State} {f : Fjoek → Fjoek} (h : Within ps ws s.m (f s.m)) : Stays ps ws (s.on f) s := ⟨f, rfl, h⟩

theorem Stays.frame {x : Host.Outcome State Fault Refusal} {s t : State} (h : Stays ps ws x s) (hp : Part.hearth ∉ ps)
    (hx : x = .next t) :
    Within ps ws s.m.unburnt t.m ∧ t.pending = s.pending ∧ t.fuses = s.m.hearth.burn.foldl Fuses.burn s.fuses := by
  obtain ⟨f, hf, hw⟩ := h
  have hhearth : (f s.m).hearth = s.m.hearth := by
    have := hw.rest.hearth
    rwa [Fjoek.graft, if_neg hp] at this
  cases hf.symm.trans hx
  exact ⟨within_on ps ws s _ (hw.unburnt hp), rfl, by rw [settle_fuses, hhearth]⟩

end

end Sys2Proof.Machine
end

section
/-! PROOFS. Frames of storage commands: what each operation of the units writes, in the model's order. -/

namespace Sys2Proof.Machine

section
variable {ps : List Part} {ws : Option (List Nat)} {m : Fjoek}

/-! ## Memory, counts and samples -/

theorem within_free64 [Writes ps .free] : Within ps ws m (m.free64).2 := by
  unfold Fjoek.free64
  exact within_free

theorem within_freeBool [Writes ps .free] : Within ps ws m (m.freeBool).2 := by
  unfold Fjoek.freeBool
  exact within_free

theorem within_freeNat [Writes ps .free] : Within ps ws m (m.freeNat).2 := by
  unfold Fjoek.freeNat
  exact within_free

theorem within_hbmStore {a : Nat} {b : List Byte} [Writes ps .hbm] : Within ps ws m (m.hbmStore a b) := by
  unfold Fjoek.hbmStore
  exact .trans within_hbm within_happen

theorem within_hbmPut {a : Nat} {b : List Byte} [Writes ps .hbm] : Within ps ws m (m.hbmPut a b) := by
  unfold Fjoek.hbmPut
  split
  · exact within_hbmStore
  · exact .trans within_hbmStore within_hbmStore

theorem within_hbmWrite {a : Nat} {b : List Byte} [Writes ps .hbm] : Within ps ws m (m.hbmWrite a b) := by
  unfold Fjoek.hbmWrite
  exact .orElse within_hbmPut

theorem within_mramPut {a : Nat} {b : List Byte} [Writes ps .mram] : Within ps ws m (m.mramPut a b) := by
  unfold Fjoek.mramPut
  exact .orElse (.trans within_mram within_happen)

theorem within_mnglCount {f : Fld} {n : Nat} : Within ps none m (m.mnglCount f n) := by
  unfold Fjoek.mnglCount
  exact .trans within_anyBump (.when _ _ within_anyCause)

theorem within_ueEvent {g : Option Nat} : Within ps none m (m.ueEvent g) := by
  unfold Fjoek.ueEvent
  dsimp only
  refine .trans ?_ (.when _ _ within_anyLatch)
  split
  · exact within_anyPut
  · exact .refl _ _ _

theorem within_hbmDetect {g : Option Nat} {a n : Nat} [Writes ps .hbm] : Within ps none m (m.hbmDetect g a n).2 := by
  unfold Fjoek.hbmDetect
  exact .each _ _ (fun _ _ _ => .trans within_hbmMarks (.trans within_mnglCount within_ueEvent)) _

theorem within_writeSample {e counter event strand pc gen : Nat} {skid noIssue : Bool} [Writes ps .hbm] :
    Within ps none m (m.writeSample e counter event strand pc gen skid noIssue) := by
  unfold Fjoek.writeSample
  refine .orElse ?_
  dsimp only
  split
  · exact .trans within_anyBump within_anyCause
  · exact .trans (.trans within_hbmWrite within_anyPut) (.when _ _ within_anyCause)

theorem within_bumpEngine {e k event : Nat} {by_ : Option (Nat × Nat × Nat)} [Writes ps .hbm] [Writes ps .pmon] :
    Within ps none m (m.bumpEngine e k event by_) := by
  unfold Fjoek.bumpEngine
  dsimp only
  split
  · exact within_anyReg64
  · refine .trans (.trans within_anyReg64 within_anyCause) (.orSkip ?_)
    split
    · exact within_writeSample
    · exact within_pmon

theorem within_perfEngine {e s event : Nat} {by_ : Option (Nat × Nat × Nat)} [Writes ps .hbm] [Writes ps .pmon] :
    Within ps none m (m.perfEngine e s event by_) := by
  unfold Fjoek.perfEngine
  exact .orElse (.each _ _ (fun _ _ _ => .when _ _ within_bumpEngine) _)

theorem within_perf {e s event : Nat} {by_ : Option (Nat × Nat × Nat)} [Writes ps .hbm] [Writes ps .pmon] :
    Within ps none m (m.perf e s event by_) := by
  unfold Fjoek.perf
  exact .orElse (.trans within_perfEngine within_perfGlobal)

/-! ## Strands, leases and draws -/

theorem within_setStrand {k : Nat} {x : Strand} [Writes ps .seam] : Within ps ws m (m.setStrand k x) := within_seam

theorem within_sitOut {k : Nat} [Writes ps .seam] : Within ps ws m (m.sitOut k) := by
  unfold Fjoek.sitOut
  exact .orElse within_seam

theorem within_lPut {e a : Nat} {b : List Byte} [Writes ps .seam] : Within ps ws m (m.lPut e a b) := within_seam

theorem within_setLease {x : Nat} {l : Lease} [Writes ps .mngl] : Within ps ws m (m.setLease x l) := within_mngl

theorem within_takeCells {n : Nat} [Writes ps .mngl] : Within ps ws m (m.takeCells n).2 := by
  unfold Fjoek.takeCells
  exact within_mngl

theorem within_giveLease {k c n : Nat} [Writes ps .mngl] : Within ps none m (m.giveLease k c n).2 := by
  unfold Fjoek.giveLease
  split
  · exact .refl _ _ _
  · split
    · exact .refl _ _ _
    · exact .trans (.trans (.trans within_takeCells within_setLease) within_anyPut) within_anyPut

theorem within_settleLease {x : Nat} [Writes ps .mngl] : Within ps none m (m.settleLease x) := by
  unfold Fjoek.settleLease
  exact .orSkip (.trans (.trans (.trans within_setLease within_mngl) within_anyPut) within_anyPut)

theorem within_releaseLease {x : Nat} [Writes ps .mngl] : Within ps none m (m.releaseLease x) := by
  unfold Fjoek.releaseLease
  exact .trans within_setLease within_settleLease

theorem within_settleAll [Writes ps .mngl] : Within ps none m m.settleAll := by
  unfold Fjoek.settleAll
  exact .each _ _ (fun _ _ _ => within_settleLease) _

theorem within_leasePut {x o : Nat} {b : List Byte} (hmarks : Part.twin ∈ ps ∨ Part.hbm ∈ ps) [Writes ps .mngl] :
    Within ps ws m (m.leasePut x o b) := by
  unfold Fjoek.leasePut
  exact within_buffer hmarks

theorem within_bufDetect {g : Option Nat} {u : List Nat} [Writes ps .mngl] : Within ps none m (m.bufDetect g u).2 := by
  unfold Fjoek.bufDetect
  exact .each _ _ (fun _ _ _ => .trans within_mngl (.trans within_mnglCount within_ueEvent)) _

theorem within_poisonLease {x o n : Nat} [Writes ps .mngl] : Within ps ws m (m.poisonLease x o n) := by
  unfold Fjoek.poisonLease
  exact within_mngl

theorem within_setDesc {d : Desc} [Writes ps .mngl] : Within ps ws m (m.setDesc d) := within_mngl

theorem within_setLevel {c : Nat} {v : Int} [Writes ps .damp] : Within ps ws m (m.setLevel c v) := within_damp

theorem within_setDraws {c : Nat} {l : List Draw} [Writes ps .damp] : Within ps ws m (m.setDraws c l) := within_damp

theorem within_spend {n : Nat} [Writes ps .damp] : Within ps none m (m.spend n) := by
  unfold Fjoek.spend
  exact .trans (.trans within_damp within_anyCount) within_happen

theorem within_addDebt {n : Nat} [Writes ps .damp] : Within ps none m (m.addDebt n) := by
  unfold Fjoek.addDebt
  exact .trans (.trans within_damp within_anyPut) (.when _ _ within_anyCause)

theorem within_take {c n : Nat} [Writes ps .damp] : Within ps none m (m.take c n) := by
  unfold Fjoek.take
  split
  · exact .trans (.trans within_spend within_anyCount) (.when _ _ within_addDebt)
  · exact .trans within_setLevel within_spend

theorem within_startDesc {id : Nat} [Writes ps .mngl] : Within ps none m (m.startDesc id) := by
  unfold Fjoek.startDesc
  dsimp only
  refine .trans (.trans ?_ within_mngl) within_happen
  split
  · exact within_anyBump
  · exact .refl _ _ _

theorem within_grant {c : Nat} {d : Draw} [Writes ps .mngl] : Within ps none m (m.grant c d) := by
  unfold Fjoek.grant
  split
  · exact .trans within_logTwin within_postPrivate
  · exact .trans within_logTwin within_startDesc

theorem within_serveQueue {c n : Nat} [Writes ps .damp] [Writes ps .mngl] : Within ps none m (serveQueue c n m) := by
  induction n generalizing m with
  | zero => exact .refl _ _ _
  | succ n ih =>
    unfold serveQueue
    split
    · exact .refl _ _ _
    · split
      · exact .trans within_setDraws (.trans within_take (.trans within_grant ih))
      · exact .refl _ _ _

theorem within_serve {c : Nat} [Writes ps .damp] [Writes ps .mngl] : Within ps none m (m.serve c) := by
  unfold Fjoek.serve
  exact .orElse within_serveQueue

theorem within_tryTake {c n : Nat} [Writes ps .damp] : Within ps none m (m.tryTake c n).2 := by
  unfold Fjoek.tryTake
  split
  · exact .refl _ _ _
  · split
    · exact within_take
    · exact .refl _ _ _

theorem within_settleGroup {g : Nat} : Within ps none m (m.settleGroup g) := by
  unfold Fjoek.settleGroup
  exact .trans within_anyPut (.when _ _ within_anyCause)

theorem within_setQueue {g : Nat} {l : List WorkItem} [Writes ps .seam] : Within ps ws m (m.setQueue g l) := within_seam

theorem within_endWait {k rd slot handle : Nat} [Writes ps .seam] : Within ps none m (m.endWait k rd slot handle) := by
  unfold Fjoek.endWait
  exact .trans within_setStrand within_anyPut

theorem within_ownLease {k h : Nat} [Writes ps .mngl] : Within ps ws m (m.ownLease k h).2 := by
  unfold Fjoek.ownLease
  exact within_setLease

theorem within_noteItem {x : Nat} {blocks : List Nat} [Writes ps .mngl] : Within ps ws m (m.noteItem x blocks) := by
  unfold Fjoek.noteItem
  exact within_mngl

theorem within_assign {h : Nat} {i : WorkItem} {k j : Nat} [Writes ps .hbm] [Writes ps .mngl] [Writes ps .pmon]
    [Writes ps .seam] : Within ps none m (m.assign h i k j) := by
  unfold Fjoek.assign
  dsimp only
  refine .trans (.trans ?_ within_endWait) within_sitOut
  exact .trans (.trans (.trans within_setQueue within_ownLease) (.when _ _ (.trans within_logTwin within_noteItem))) within_perf

theorem within_dispatchGroup {g n : Nat} [Writes ps .hbm] [Writes ps .mngl] [Writes ps .pmon] [Writes ps .seam] :
    Within ps none m (dispatchGroup g n m) := by
  induction n generalizing m with
  | zero => exact .refl _ _ _
  | succ n ih =>
    unfold dispatchGroup
    split
    · exact .trans within_assign ih
    · exact .refl _ _ _

theorem within_defer {a : RoundAct} [Writes ps .seam] : Within ps ws m (m.defer a) := within_seam

theorem within_parkOverride {g : Nat} [Writes ps .seam] : Within ps none m (m.parkOverride g) := by
  unfold Fjoek.parkOverride
  dsimp only
  refine .orSkip (.trans ?_ within_anyLatch)
  split
  · exact .trans within_logCmd within_defer
  · exact .trans within_logCmd within_anyPut

theorem within_passQueue {g : Nat} [Writes ps .seam] : Within ps ws m (m.passQueue g) := by
  unfold Fjoek.passQueue
  split
  · exact .orElse (.trans within_setQueue within_setQueue)
  · exact .refl _ _ _

theorem within_enter {w : Nat × WorkItem} [Writes ps .seam] : Within ps ws m (m.enter w) := by
  unfold Fjoek.enter
  split
  · split
    · exact within_seam
    · exact .trans within_seam within_setQueue
  · exact within_seam

theorem within_settleQueues [Writes ps .seam] : Within ps ws m m.settleQueues := by
  unfold Fjoek.settleQueues
  dsimp only
  refine .trans ?_ (.orElse ?_)
  · exact .each _ _ (fun _ _ _ => within_passQueue) _
  · exact .trans within_seam (.each _ _ (fun _ _ _ => within_enter) _)

theorem within_dispatch [Writes ps .hbm] [Writes ps .mngl] [Writes ps .pmon] [Writes ps .seam] :
    Within ps none m m.dispatch := by
  unfold Fjoek.dispatch
  dsimp only
  refine .trans ?_ (.orElse ?_)
  · exact within_settleQueues
  · exact .trans (.each _ _ (fun _ _ _ => .orSkip (.trans within_parkOverride within_dispatchGroup)) _) within_settleQueues

theorem within_settleFences [Writes ps .seam] : Within ps ws m m.settleFences := by
  unfold Fjoek.settleFences
  refine .each _ _ (fun x _ m => ?_) _
  dsimp only
  split
  · refine .orElse ?_
    split
    · exact .trans within_setStrand within_sitOut
    · exact .orSkip (.trans (.trans within_logValue within_setStrand) within_sitOut)
  · exact .refl _ _ _

theorem within_commitOutputs [Writes ps .twin] : Within ps ws m m.commitOutputs := by
  have hsent (n : Fjoek) (l : List OutMsg) : Within ps ws n { n with out := n.out ++ l } :=
    ⟨{ ((Noted.refl n).within ps ws).rest with out := ⟨l, rfl⟩ }, fun _ _ _ _ _ => rfl⟩
  unfold Fjoek.commitOutputs
  split
  · exact .refl _ _ _
  · exact .trans (hsent m _) within_twin

theorem within_diverge {epoch : Nat} (h31 : Opens ws 0x31) [Writes ps .twin] : Within ps ws m (m.diverge epoch) := by
  unfold Fjoek.diverge
  dsimp only
  refine .trans (.trans ?_ (within_putIn (by assumption))) within_twin
  refine .trans ?_ (within_putIn (by assumption))
  refine .trans ?_ (within_causeIn (by assumption) (by decide))
  exact .trans (within_reg64In (by assumption) (by assumption)) (within_countIn (by assumption) (by assumption))

theorem within_leaveInstep (h20 : Opens ws 0x20) : Within ps ws m m.leaveInstep := by
  unfold Fjoek.leaveInstep
  exact within_putIn (by assumption)

theorem within_setTxsup {v : Bool} : Within ps none m (m.setTxsup v) := by
  unfold Fjoek.setTxsup
  exact .each _ _ (fun _ _ _ => within_anyPut) _

theorem within_cede [Writes ps .twin] : Within ps none m m.cede := by
  unfold Fjoek.cede
  dsimp only
  refine .trans (.trans ?_ (within_leaveInstep (opens_none _))) within_anyCause
  exact .trans (.trans (.trans (.trans within_setTxsup within_twin) within_anyPut) within_anyPut) within_anyPut

theorem within_wakeQueue {g : Nat} [Writes ps .seam] : Within ps ws m (m.wakeQueue g) := by
  unfold Fjoek.wakeQueue
  exact .orElse (.each _ _ (fun _ _ _ => .orSkip within_setStrand) _)

theorem within_timerExpire {k : Nat} [Writes ps .seam] : Within ps ws m (m.timerExpire k) := by
  unfold Fjoek.timerExpire
  exact .orElse (.trans within_setStrand within_postPrivate)

/-! ## In-step mode and the loader -/

theorem within_seamWrite {a v : Nat} {act : Fjoek → Fjoek} (h : ∀ n, Within ps ws n (act n)) (h31 : Opens ws 0x31) :
    Within ps ws m (m.seamWrite a v act) := by
  unfold Fjoek.seamWrite
  split
  · exact .trans (within_countIn (by assumption) (by assumption)) (within_causeIn (by assumption) (by decide))
  · exact .trans within_logCmd (h _)

theorem within_seamPut {f : Fld} {v : Nat} {act : Fjoek → Fjoek} (h : ∀ n, Within ps ws n (act n)) (h31 : Opens ws 0x31) :
    Within ps ws m (m.seamPut f v act) := within_seamWrite h h31

theorem within_instepWrite {v : Bool} (h20 : Opens ws 0x20) [Writes ps .seam] : Within ps ws m (m.instepWrite v) := by
  unfold Fjoek.instepWrite
  split
  · exact within_leaveInstep h20
  · split
    · exact .orElse (.trans (within_putIn (by assumption)) within_seam)
    · exact within_causeIn (by assumption) (by decide)

theorem within_ldrDone {code : Nat} (h20 : Opens ws 0x20) [Writes ps .seam] : Within ps ws m (m.ldrDone code) := by
  unfold Fjoek.ldrDone
  dsimp only
  refine .trans ?_ (within_causeIn (by assumption) (by decide))
  exact .trans (.trans (within_putIn (by assumption)) (within_putIn (by assumption))) within_seam

theorem within_ldrVerify [Writes ps .hbm] [Writes ps .seam] : Within ps none m m.ldrVerify := by
  unfold Fjoek.ldrVerify
  exact .orElse (.trans (.trans (.trans within_anyPut within_anyPut) within_seam) within_hbmPut)

theorem within_ldrVerifyDone [Writes ps .free] [Writes ps .hbm] [Writes ps .seam] : Within ps none m m.ldrVerifyDone := by
  unfold Fjoek.ldrVerifyDone
  refine .orElse ?_
  extract_lets a b c mix h m1 hn n code
  split
  rename_i bad m2 hbad
  extract_lets m3
  have h3 : Within ps none m m3 := .trans (.trans within_hbmPut (.snd hbad within_hbmDetect)) within_free
  clear_value m3
  refine h3.trans ?_
  split
  · exact within_ldrDone (opens_none _)
  · split
    · exact within_ldrDone (opens_none _)
    · exact .trans (.trans within_hbmPut within_anyPut) (within_ldrDone (opens_none _))

theorem within_ldrAbandon (h20 : Opens ws 0x20) [Writes ps .seam] : Within ps ws m m.ldrAbandon := by
  unfold Fjoek.ldrAbandon
  exact .orElse (.trans (.trans (within_putIn (by assumption)) within_seam) (within_ldrDone h20))

/-! ## Bulk operations -/

theorem within_putAt {p : Place} {b : List Byte} [Writes ps .hbm] [Writes ps .mngl] : Within ps ws m (m.putAt p b) := by
  unfold Fjoek.putAt
  split
  · exact within_leasePut (.inr Fact.out)
  · exact within_hbmWrite

theorem within_spans {g : Option Nat} {p : Place} {n : Nat} [Writes ps .hbm] [Writes ps .mngl] :
    Within ps none m (m.spans g p n).2 := by
  unfold Fjoek.spans
  dsimp only
  split
  · exact within_foldlSnd (β := List (Nat × Nat)) _ (fun _ _ => within_bufDetect) _ ([], m)
  · exact .trans within_happen (within_foldlSnd (β := List (Nat × Nat)) _ (fun _ _ => within_hbmDetect) _ ([], _))

theorem within_poisonAt {p : Place} {o n : Nat} [Writes ps .hbm] [Writes ps .mngl] : Within ps ws m (m.poisonAt p o n) := by
  unfold Fjoek.poisonAt
  split
  · exact within_poisonLease
  · exact within_hbmMarks

theorem within_setPrint {p : Place} {j : Nat} {v : Option Nat} [Writes ps .mngl] [Writes ps .twin] :
    Within ps ws m (m.setPrint p j v) := by
  unfold Fjoek.setPrint
  refine .orElse ?_
  split
  · exact within_mngl
  · exact within_twin

theorem within_becomePrint {p : Place} {j v : Nat} [Writes ps .hbm] [Writes ps .mngl] [Writes ps .twin] :
    Within ps ws m (m.becomePrint p j v) := by
  unfold Fjoek.becomePrint
  split
  · exact .refl _ _ _
  · refine .trans ?_ within_setPrint
    split
    · exact within_leasePut (.inr Fact.out)
    · exact within_hbmPut

theorem within_notePrints {p : Place} {j n : Nat} [Writes ps .mngl] [Writes ps .twin] :
    Within ps ws m (m.notePrints p j n) := by
  unfold Fjoek.notePrints
  exact .orSkip (.each _ _ (fun _ _ _ => within_setPrint) _)

theorem within_digestPayload {item : List Nat} {k : Nat} {p : Place} {n : Nat} [Writes ps .seam] [Writes ps .twin] :
    Within ps ws m (m.digestPayload item k p n) := by
  unfold Fjoek.digestPayload
  refine .orElse ?_
  dsimp only
  split
  · exact within_digestItem
  · split
    · exact .trans within_digestItem within_logTwin
    · split
      · exact .trans within_seam within_digestItem
      · exact within_twin

theorem within_completeDesc {d : Desc} [Writes ps .hbm] [Writes ps .mngl] [Writes ps .pmon] [Writes ps .seam] [Writes ps .twin] :
    Within ps none m (m.completeDesc d) := by
  unfold Fjoek.completeDesc
  dsimp only
  refine .trans ?_ within_dispatch
  refine .trans (.trans ?_ (.orElse within_postTag)) within_settleGroup
  refine .trans ?_ within_settleFences
  refine .trans (.trans ?_ within_happen) within_wakeQueue
  refine .trans (.trans ?_ (.when _ _ ?_)) within_settleAll
  · exact .trans (.when _ _ (.trans within_logTwin (.each _ _ (fun _ _ _ => within_notePrints) _))) within_mngl
  · exact within_lPut

theorem within_poisonSpans {p : Place} {sp : List (Nat × Nat)} [Writes ps .hbm] [Writes ps .mngl] :
    Within ps ws m (m.poisonSpans p sp) := by
  unfold Fjoek.poisonSpans
  exact .each _ _ (fun _ _ _ => within_poisonAt) _

theorem within_poisonScaled {out : Place} {r w : Nat} {sp : List (Nat × Nat)} [Writes ps .hbm] [Writes ps .mngl] :
    Within ps ws m (m.poisonScaled out r w sp) := by
  unfold Fjoek.poisonScaled
  exact .each _ _ (fun _ _ _ => within_poisonAt) _

theorem within_writePrints {d : Desc} {src : Place} {out : Place} {sp : List (Nat × Nat)} [Writes ps .hbm] [Writes ps .mngl] :
    Within ps ws m (m.writePrints d src out sp) := by
  unfold Fjoek.writePrints
  exact .trans within_putAt within_poisonScaled

theorem within_printsIn {d : Desc} [Writes ps .hbm] [Writes ps .mngl] : Within ps none m (m.printsIn d) := by
  unfold Fjoek.printsIn
  exact .orSkip within_writePrints

theorem within_acted {d : Desc} {code result : Nat} [Writes ps .hbm] [Writes ps .mngl] :
    Within ps none m (m.acted d code result) := by
  unfold Fjoek.acted
  exact .trans (.trans (.orElse within_printsIn) within_setDesc) within_happen

theorem within_macDesc {d : Desc} {src : List Place} {out : List (Place × List Nat)} [Writes ps .hbm] [Writes ps .mngl]
    [Writes ps .twin] : Within ps none m (m.macDesc d src out) := by
  unfold Fjoek.macDesc
  refine .trans (.trans ?_ (.each _ _ (fun o _ m => ?_) _)) within_acted
  · exact within_foldlSnd (β := List (List (Nat × Nat))) _ (fun _ _ => within_spans) _ ([], m)
  · dsimp only
    split
    · exact .trans (.trans within_putAt within_poisonSpans) (.each _ _ (fun _ _ _ => within_becomePrint) _)
    · split
      · exact .trans (.trans within_putAt within_poisonSpans) within_notePrints
      · exact .trans within_putAt within_poisonSpans

theorem within_xkWrite {load erase : Bool} {slot : Nat} (h24 : Opens ws 0x24) [Writes ps .mngl] :
    Within ps ws m (m.xkWrite load erase slot) := by
  unfold Fjoek.xkWrite
  refine .orElse ?_
  dsimp only
  split
  · split
    · refine .trans ?_ (within_causeIn (by assumption) (by decide))
      exact .trans (.trans within_mngl (within_putIn (by assumption))) (within_putIn (by assumption))
    · exact .trans (.trans (.trans within_mngl (within_putIn (by assumption))) within_mngl) (within_putIn (by assumption))
  · exact .trans (.trans within_mngl (within_putIn (by assumption))) within_mngl

theorem within_fpzCommit {hi : Nat} (h24 : Opens ws 0x24) [Writes ps .mngl] : Within ps ws m (m.fpzCommit hi) := by
  unfold Fjoek.fpzCommit
  exact .trans within_mngl (within_putIn (by assumption))

/-! ## Drive ports -/

theorem within_setPort {p : Nat} {x : DrvPort} [Writes ps .drv] : Within ps ws m (m.setPort p x) := within_drv

theorem within_drvCause {p : Nat} {f : Nat → Fld} (hp : p < 24) (hw : Opens ws ((f p).addr / 0x10000)) :
    Within ps ws m (m.drvCause p f) := within_causeIn hw (by omega)

theorem within_settlePerst {p : Nat} [Writes ps .drv] : Within ps ws m (m.settlePerst p) := by
  unfold Fjoek.settlePerst
  exact within_setPort

theorem within_releasePort {p : Nat} [Writes ps .drv] : Within ps none m (m.releasePort p) := by
  unfold Fjoek.releasePort
  exact .trans (.trans within_anyPut within_setPort) within_settlePerst

theorem within_bells {p : Nat} {was : Fjoek} : Within ps ws m (m.bells p was) := by
  unfold Fjoek.bells
  exact .each _ _ (fun _ _ _ => within_output) _

/-- A command that the module itself submits digests no payload of a descriptor. -/
theorem within_submit {p y : Nat} {e : List Nat} {use : SlotUse} {r : Nat × Fjoek} (h : m.submit p y e use none = some r)
    [Writes ps .drv] [Writes ps .hbm] : Within ps ws m r.2 := by
  unfold Fjoek.submit at h
  dsimp only at h
  split at h
  · cases h
  · split at h
    · cases h
    · cases h
      refine .trans (.trans within_digestItem within_setPort) (.orElse ?_)
      exact .trans within_hbmWrite (.trans within_output within_happen)

theorem within_rawEnd {p : Nat} {e : List Nat} (he : e.length ≤ 16) (hp : p < 24) (hw : PortOpen ws p) :
    Within ps ws m (m.rawEnd p e) := by
  unfold Fjoek.rawEnd
  refine .trans (.trans (.each _ _ (fun q hq _ => within_regIn ?_) _) (within_putIn (hw 0x140 (by decide))))
    (within_drvCause hp (hw 0xC (by decide)))
  have hlt := (List.mem_zipIdx' hq).1
  have ho := hw (0x150 + 4 * q.2) (by omega)
  rwa [show 0x280000 + (0x150 + 4 * q.2) + 0x2000 * p = DRV_RCQE p q.2 by unfold DRV_RCQE; omega] at ho

theorem within_issuePower {p : Nat} [Writes ps .drv] [Writes ps .hbm] : Within ps ws m (m.issuePower p) := by
  unfold Fjoek.issuePower
  dsimp only
  split
  · exact .refl _ _ _
  · refine .orElse ?_
    split
    · exact .refl _ _ _
    · exact .trans (within_submit ‹_›) within_setPort

theorem within_placeCommand {p y : Nat} {e : List Nat} {use : SlotUse} [Writes ps .drv] [Writes ps .hbm] :
    Within ps ws m (m.placeCommand p y e use) := by
  unfold Fjoek.placeCommand
  split
  · exact within_setPort
  · exact .trans (within_submit ‹_›) within_bells

theorem within_endDrive {d : Desc} {status : Nat} [Writes ps .hbm] [Writes ps .mngl] [Writes ps .pmon] [Writes ps .seam]
    [Writes ps .twin] : Within ps none m (m.endDrive d status) := within_completeDesc

theorem within_endService {p sc : Nat} (hp : p < 24) [Writes ps .drv] [Writes ps .hbm] [Writes ps .mngl] [Writes ps .pmon]
    [Writes ps .seam] [Writes ps .twin] : Within ps none m (m.endService p sc) := by
  have hopen := portOpen_none p
  unfold Fjoek.endService
  dsimp only
  refine .trans (.trans ?_ (.when _ _ within_logTwin)) (.orSkip within_anyLatch)
  refine .trans ?_ (.orSkip (.trans within_anyPut (within_drvCause hp (opens_none _))))
  refine .trans ?_ (.orSkip (within_rawEnd (Nat.le_add_right 4 12) hp hopen))
  exact .trans (.trans within_setPort within_anyPut) (.each _ _ (fun _ _ _ => within_endDrive) _)

theorem within_settlePortDiff (h31 : Opens ws 0x31) : Within ps ws m m.settlePortDiff := by
  unfold Fjoek.settlePortDiff
  exact .orElse (.trans (within_putIn (by assumption)) (.when _ _ (within_causeIn (by assumption) (by decide))))

/-! ## Pools -/

theorem within_setPool {p : Nat} {x : Pool} [Writes ps .lib] : Within ps ws m (m.setPool p x) := within_lib

theorem within_member {p i op lba n : Nat} {data : List Byte} : Within ps ws m (m.member p i op lba n data) := within_output

theorem within_toLabels {p lba : Nat} {data : List Byte} : Within ps ws m (m.toLabels p lba data) := by
  unfold Fjoek.toLabels
  exact within_onPool fun _ => .each _ _ (fun _ _ _ => .when _ _ within_member) _

theorem within_writeRecord {p : Nat} : Within ps ws m (m.writeRecord p) := by
  unfold Fjoek.writeRecord
  exact within_onPool fun _ => within_toLabels

theorem within_tableToLabels {p : Nat} : Within ps ws m (m.tableToLabels p) := by
  unfold Fjoek.tableToLabels
  refine within_onPool fun x => ?_
  dsimp only
  split
  · exact .trans within_toLabels within_toLabels
  · exact within_toLabels

theorem within_storeHead {p : Nat} {x : Pool} {clean : Bool} [Writes ps .mram] : Within ps ws m (m.storeHead p x clean) :=
  within_mramPut

theorem within_stampReshape {p gen : Nat} [Writes ps .mram] : Within ps ws m (m.stampReshape p gen) := by
  unfold Fjoek.stampReshape
  exact .orElse within_mramPut

theorem within_newGen {p : Nat} [Writes ps .lib] [Writes ps .mram] : Within ps ws m (m.newGen p) := by
  unfold Fjoek.newGen
  refine within_onPool fun _ => ?_
  dsimp only
  refine .trans (.trans ?_ (.when _ _ within_storeHead)) within_writeRecord
  refine .trans ?_ (.when _ _ within_stampReshape)
  exact within_setPool

theorem within_setRound {p : Nat} {r : Round} [Writes ps .mram] : Within ps ws m (m.setRound p r) := within_mramPut

theorem within_setAbsBit {p i g : Nat} {v : Bool} [Writes ps .mram] : Within ps ws m (m.setAbsBit p i g v) := by
  unfold Fjoek.setAbsBit
  exact within_mramPut

theorem within_absHeader {p i serial uuid gen left : Nat} [Writes ps .mram] :
    Within ps ws m (m.absHeader p i serial uuid gen left) := within_mramPut

theorem within_absClear {p i : Nat} [Writes ps .mram] : Within ps ws m (m.absClear p i) := by
  unfold Fjoek.absClear
  exact .each _ _ (fun _ _ _ => within_setAbsBit) _

theorem within_storeReshape {p phase e b a g0 g1 : Nat} [Writes ps .mram] :
    Within ps ws m (m.storeReshape p phase e b a g0 g1) := by
  unfold Fjoek.storeReshape
  exact .trans within_mramPut within_writeRecord

theorem within_poolEvent {p : Nat} [Writes ps .lib] : Within ps none m (m.poolEvent p) := by
  unfold Fjoek.poolEvent
  exact .trans within_lib within_anyLatch

theorem within_settleStatus {p : Nat} [Writes ps .lib] : Within ps none m (m.settleStatus p) := by
  unfold Fjoek.settleStatus
  exact .orElse within_poolEvent

theorem within_driveStore {serial lba : Nat} {l : List Block} [Writes ps .lib] :
    Within ps ws m (m.driveStore serial lba l) := by
  induction l generalizing m lba with
  | nil => exact .refl _ _ _
  | cons b r ih =>
    unfold Fjoek.driveStore
    exact .trans within_lib ih

theorem within_driveZero {serial lba n : Nat} [Writes ps .lib] : Within ps ws m (m.driveZero serial lba n) := by
  unfold Fjoek.driveZero
  exact within_lib

theorem within_readMembers {p : Nat} {l : List (Nat × Nat)} : Within ps ws m (m.readMembers p l) := by
  unfold Fjoek.readMembers
  exact .each _ _ (fun _ _ _ => within_member) _

theorem within_writeMembers {p : Nat} {x : Pool} {l : List (Nat × Nat × Block)} [Writes ps .lib] :
    Within ps ws m (m.writeMembers p x l) := by
  unfold Fjoek.writeMembers
  exact .each _ _ (fun _ _ _ => .trans within_member within_driveStore) _

theorem within_setCache {l : List CacheBlock} [Writes ps .lib] : Within ps ws m (m.setCache l) := within_lib

theorem within_cachePut {b : CacheBlock} {data : Block} [Writes ps .hbm] [Writes ps .lib] :
    Within ps ws m (m.cachePut b data) := by
  unfold Fjoek.cachePut
  exact .orSkip (.trans within_setCache within_hbmWrite)

theorem within_keepDirty {p : Nat} {f : Fjoek → Fjoek} (h : Within ps ws m (f m)) [Writes ps .lib] :
    Within ps ws m (m.keepDirty p f) := by
  unfold Fjoek.keepDirty
  split
  · exact h
  · exact .trans h (within_onPool fun _ => within_setCache)

theorem within_setLockWord {x w : Nat} {v : Word64} [Writes ps .locks] : Within ps ws m (m.setLockWord x w v) := within_locks

theorem within_lockPosts {mask : Nat} : Within ps ws m (m.lockPosts mask) := by
  unfold Fjoek.lockPosts
  exact .orElse (.each _ _ (fun _ _ _ => .trans within_logTwin within_postTag) _)

theorem within_lockStore {x w : Nat} {v : Word64} [Writes ps .locks] : Within ps none m (m.lockStore x w v) := by
  unfold Fjoek.lockStore
  dsimp only
  refine .trans ?_ (.orElse ?_)
  · exact within_setLockWord
  · exact .trans (.orSkip within_anyPut) (.orSkip (.trans (.trans within_anyPut within_setLockWord) within_lockPosts))

theorem within_lockStripe {p sig k : Nat} [Writes ps .locks] [Writes ps .seam] : Within ps none m (m.lockStripe p sig k) := by
  unfold Fjoek.lockStripe
  dsimp only
  refine .trans within_lockStore (.orElse ?_)
  split
  · exact within_lPut
  · exact .refl _ _ _

theorem within_unlockStripe {p sig : Nat} [Writes ps .locks] : Within ps none m (m.unlockStripe p sig) := within_lockStore

theorem within_unhold {p sig k : Nat} [Writes ps .lib] : Within ps ws m (m.unhold p sig k) := within_lib

theorem within_waitLocks {p k : Nat} {sigs : List Nat} [Writes ps .locks] : Within ps ws m (m.waitLocks p k sigs) := by
  unfold Fjoek.waitLocks
  exact .each _ _ (fun _ _ _ => within_setLockWord) _

theorem within_leaveStripe {p sig : Nat} [Writes ps .locks] : Within ps none m (m.leaveStripe p sig) := by
  unfold Fjoek.leaveStripe
  exact .orElse within_unlockStripe

theorem within_waitRoom [Writes ps .lib] : Within ps ws m m.waitRoom := by
  unfold Fjoek.waitRoom
  exact .orElse (.trans within_lib (within_latchIn (by decide)))

theorem within_holdStripe {h : HeldOp} [Writes ps .lib] : Within ps none m (m.holdStripe h) := by
  unfold Fjoek.holdStripe
  exact .trans (.trans within_unhold within_lib) within_waitRoom

theorem within_setJdeg {p : Nat} {v : Bool} : Within ps none m (m.setJdeg p v) := by
  unfold Fjoek.setJdeg
  exact .trans within_anyPut (.when _ _ within_anyCause)

theorem within_commitGroup {p : Nat} {rec : List (List Byte)} [Writes ps .lib] [Writes ps .mram] :
    Within ps ws m (m.commitGroup p rec) := by
  unfold Fjoek.commitGroup
  refine within_onPool fun x => ?_
  exact .orElse (.trans (.trans (.trans within_lib (.each _ _ (fun _ _ _ => within_member) _)) within_setPool) within_storeHead)

theorem within_storeRec {r : JRec} [Writes ps .lib] [Writes ps .mram] : Within ps ws m (m.storeRec r) := by
  unfold Fjoek.storeRec
  refine within_onPool fun _ => ?_
  dsimp only
  refine .trans (.trans ?_ (.orSkip within_setPool)) within_commitGroup
  exact .trans (.trans within_mramPut within_lib) (.when _ _ within_storeHead)

theorem within_setDmask {seq i : Nat} [Writes ps .mram] : Within ps ws m (m.setDmask seq i) := by
  unfold Fjoek.setDmask
  exact within_mramPut

theorem within_retire {p seq : Nat} [Writes ps .lib] [Writes ps .mram] : Within ps ws m (m.retire p seq) := by
  unfold Fjoek.retire
  exact .trans within_mramPut (within_onPool fun _ => within_setPool)

theorem within_lostToLabels {p j : Nat} : Within ps ws m (m.lostToLabels p j) := by
  unfold Fjoek.lostToLabels
  exact .each _ _ (fun _ _ _ => within_toLabels) _

theorem within_markBad {p i side sig bits : Nat} [Writes ps .lib] [Writes ps .mram] :
    Within ps none m (m.markBad p i side sig bits) := by
  unfold Fjoek.markBad
  dsimp only
  split
  · exact .trans (.trans within_mramPut within_mramPut) within_lostToLabels
  · split
    · exact .trans (.trans (.trans within_mramPut within_mramPut) within_lostToLabels) within_poolEvent
    · exact .refl _ _ _

theorem within_clearBad {p i side sig bits : Nat} [Writes ps .lib] [Writes ps .mram] :
    Within ps none m (m.clearBad p i side sig bits) := by
  unfold Fjoek.clearBad
  split
  · exact .refl _ _ _
  · exact .trans within_mramPut (.orSkip (.trans (.trans within_mramPut within_lostToLabels) within_poolEvent))

theorem within_noteAbsent {p : Nat} {x : Pool} {mem lba n : Nat} [Writes ps .mram] :
    Within ps ws m (m.noteAbsent p x mem lba n) := by
  unfold Fjoek.noteAbsent
  exact .orSkip (.each _ _ (fun _ _ _ => within_setAbsBit) _)

theorem within_noteAbsence {p : Nat} {x : Pool} {side sig e n : Nat} [Writes ps .mram] :
    Within ps ws m (m.noteAbsence p x side sig e n) := by
  unfold Fjoek.noteAbsence
  refine .each _ _ (fun x _ m => ?_) _
  split
  exact within_noteAbsent

theorem within_dropCopies {p : Nat} {l : List (Nat × Nat)} [Writes ps .lib] : Within ps ws m (m.dropCopies p l) :=
  within_setCache

theorem within_logWrite {port : Option Nat} {ok : Bool} [Writes ps .free] : Within ps ws m (m.logWrite port ok) := by
  unfold Fjoek.logWrite
  split
  · exact .refl _ _ _
  · refine .orElse ?_
    dsimp only
    refine .trans ?_ within_logTwin
    split
    · exact .refl _ _ _
    · exact within_freeNat

theorem within_journaled {x : Pool} {p side sig k path e n : Nat} {destage : Bool} {wl : List StripWrite} {failed : List Nat}
    [Writes ps .free] [Writes ps .lib] [Writes ps .mram] :
    Within ps ws m (m.journaled x p side sig k path e n destage wl failed) := by
  unfold Fjoek.journaled
  dsimp only
  refine .trans (.trans within_storeRec within_noteAbsence) (.each _ _ (fun x _ m => ?_) _)
  split
  · exact .trans within_writeMembers within_lib
  · refine .trans ?_ (.orSkip within_setDmask)
    refine .trans ?_ (.each _ _ (fun x _ m => within_logWrite) _)
    split
    · split
      · exact within_writeMembers
      · exact .each _ _ (fun _ _ _ => within_member) _
    · split
      · exact .trans within_freeBool within_writeMembers
      · exact .trans within_freeBool (.each _ _ (fun _ _ _ => within_member) _)

theorem within_retireDone {p seq : Nat} [Writes ps .lib] [Writes ps .mram] : Within ps ws m (m.retireDone p seq) := by
  unfold Fjoek.retireDone
  exact .orElse within_retire

theorem within_intentWrite {x : Pool} {p side sig k path e n : Nat} {wl : List StripWrite} [Writes ps .free] [Writes ps .lib]
    [Writes ps .mram] : Within ps ws m (m.intentWrite x p side sig k path e n wl) := by
  unfold Fjoek.intentWrite
  exact .orElse (.trans (.trans within_dropCopies within_journaled) within_retireDone)

theorem within_resolve {r : JRec} [Writes ps .free] [Writes ps .lib] [Writes ps .locks] [Writes ps .mram] :
    Within ps none m (m.resolve r) := by
  unfold Fjoek.resolve
  refine within_onPool fun x => ?_
  dsimp only
  split
  · exact within_waitRoom
  · split
    · exact .trans (.trans (.trans within_readMembers within_intentWrite) within_retire) within_leaveStripe
    · split
      · exact .trans (.trans (.trans within_readMembers within_intentWrite) within_retire) within_leaveStripe
      · refine .orElse (.orElse (.trans ?_ within_leaveStripe))
        exact .trans (.trans (.each _ _ (fun _ _ _ => within_markBad) _) within_anyLatch) within_retire

theorem within_setDurable {seq : Nat} {l : Option (List (Nat × Nat))} [Writes ps .lib] :
    Within ps ws m (m.setDurable seq l) := within_lib

theorem within_resolveDirty {destaged : List JRec} {r : JRec} [Writes ps .lib] [Writes ps .mram] :
    Within ps none m (m.resolveDirty destaged r) := by
  unfold Fjoek.resolveDirty
  refine within_onPool fun x => ?_
  dsimp only
  refine .orElse ?_
  split
  · exact within_setDurable
  · exact .trans (.trans (.trans (.each _ _ (fun _ _ _ => within_markBad) _) within_anyLatch) within_retire) within_setDurable

theorem within_resolveHeld {p : Nat} [Writes ps .free] [Writes ps .lib] [Writes ps .locks] [Writes ps .mram] :
    Within ps none m (m.resolveHeld p) := by
  unfold Fjoek.resolveHeld
  exact .trans (.each _ _ (fun _ _ _ => within_resolve) _) (.each _ _ (fun _ _ _ => within_resolveDirty) _)

theorem within_listFreed {before : Nat} [Writes ps .free] [Writes ps .lib] [Writes ps .locks] [Writes ps .mram] :
    Within ps none m (m.listFreed before) := by
  unfold Fjoek.listFreed
  exact .orSkip (.each _ _ (fun _ _ _ => within_resolveHeld) _)

theorem within_relocToLabels {p side : Nat} : Within ps ws m (m.relocToLabels p side) := by
  unfold Fjoek.relocToLabels
  exact within_onPool fun _ => within_toLabels

theorem within_reuseRound {p side j : Nat} [Writes ps .lib] : Within ps ws m (m.reuseRound p side j) := by
  unfold Fjoek.reuseRound
  exact within_onPool fun _ => within_setPool

theorem within_startRemirror {p i : Nat} [Writes ps .lib] [Writes ps .mram] : Within ps none m (m.startRemirror p i) := by
  unfold Fjoek.startRemirror
  refine within_onPool fun x => .orElse ?_
  dsimp only
  split
  · exact .trans (.trans within_setPool within_newGen) within_anyLatch
  · exact .trans (.trans (.trans within_setPool within_setJdeg) within_newGen) within_anyLatch

theorem within_startRound {p : Nat} [Writes ps .lib] [Writes ps .mram] : Within ps ws m (m.startRound p) := by
  unfold Fjoek.startRound
  refine within_onPool fun x => ?_
  split
  · exact within_setPool
  · refine within_keepDirty ?_
    refine .each _ _ (fun x _ m => within_onPool fun x => ?_) _
    dsimp only
    refine .orElse (.trans ?_ (within_onPool fun x => ?_))
    · refine .trans ?_ within_reuseRound
      split
      · exact within_setRound
      · exact .refl _ _ _
    · exact .trans (.trans (.trans within_setPool within_relocToLabels) within_setRound) within_newGen

theorem within_failMember {p i : Nat} [Writes ps .free] [Writes ps .lib] [Writes ps .locks] [Writes ps .mram] :
    Within ps none m (m.failMember p i) := by
  unfold Fjoek.failMember
  dsimp only
  refine .trans ?_ (within_onPool fun x => .trans within_resolveHeld within_poolEvent)
  refine within_keepDirty (within_onPool fun x => ?_)
  exact .trans (.trans (.trans (.trans within_setPool within_absClear) within_startRemirror) within_newGen) within_startRound

theorem within_memberLost {p i : Nat} {writes : List (Nat × Nat)} [Writes ps .free] [Writes ps .lib] [Writes ps .locks]
    [Writes ps .mram] : Within ps none m (m.memberLost p i writes) := by
  unfold Fjoek.memberLost
  refine within_onPool fun x => ?_
  dsimp only
  refine .orElse (.trans ?_ (.orSkip within_failMember))
  refine .trans (.trans ?_ within_startRemirror) within_poolEvent
  refine .trans (.trans ?_ (.each _ _ (fun x _ m => ?_) _)) within_newGen
  · exact .trans within_setPool within_absHeader
  · exact .each _ _ (fun _ _ _ => within_setAbsBit) _

theorem within_portLost {port : Nat} {writes : List (Nat × Nat)} [Writes ps .free] [Writes ps .lib] [Writes ps .locks]
    [Writes ps .mram] : Within ps none m (m.portLost port writes) := by
  unfold Fjoek.portLost
  refine .each _ _ (fun x _ m => within_onPool fun x => ?_) _
  split
  · exact .refl _ _ _
  · exact within_memberLost

theorem within_settleDirty : Within ps none m m.settleDirty := within_anyReg64

theorem within_afterDestage {p side sig : Nat} [Writes ps .lib] [Writes ps .mram] :
    Within ps none m (m.afterDestage p side sig) := by
  unfold Fjoek.afterDestage
  exact within_onPool fun _ => .trans (.trans within_setCache (.each _ _ (fun _ _ _ => within_retire) _)) within_settleDirty

theorem within_respond {cmd status : Nat} : Within ps ws m (m.respond cmd status) := within_output

theorem within_libDraw {c n : Nat} [Writes ps .damp] : Within ps none m (m.libDraw c n).2 := by
  unfold Fjoek.libDraw
  split
  · exact within_take
  · exact within_tryTake

theorem within_passCells {k c : Nat} {data : List Byte} (hmarks : Part.twin ∈ ps ∨ Part.hbm ∈ ps) [Writes ps .mngl] :
    Within ps none m (m.passCells k c data) := by
  unfold Fjoek.passCells
  refine .each _ _ (fun x _ m => ?_) _
  split
  rename_i x n hx
  exact .ofPair hx within_giveLease fun hn => .orElse (.trans (.trans hn (within_leasePut hmarks)) within_releaseLease)

theorem within_queueFill {p : Nat} {x : Pool} {mem lba sig : Nat} {data : Block} [Writes ps .lib]
    (hmarks : Part.twin ∈ ps ∨ Part.hbm ∈ ps) [Writes ps .mngl] : Within ps none m (m.queueFill p x mem lba sig data) := by
  unfold Fjoek.queueFill
  split
  rename_i x n hx
  exact .ofPair hx within_giveLease fun hn => .orElse (.trans (.trans hn (within_leasePut hmarks)) within_lib)

theorem within_serveRead {x : Pool} {p : Nat} {bs : List BlockAt} [Writes ps .lib] (hmarks : Part.twin ∈ ps ∨ Part.hbm ∈ ps)
    [Writes ps .mngl] : Within ps none m (m.serveRead x p bs) := by
  unfold Fjoek.serveRead
  exact .trans (.trans within_setCache within_readMembers) (.each _ _ (fun _ _ _ => within_queueFill hmarks) _)

theorem within_takeStripe {p sig k : Nat} [Writes ps .lib] [Writes ps .locks] [Writes ps .seam] :
    Within ps none m (m.takeStripe p sig k) := by
  unfold Fjoek.takeStripe
  exact .trans (.trans within_lockStripe within_unhold) within_lib

theorem within_updateStripe {p side sig k : Nat} {b : Blocks} {destage : Bool} {failed : List Nat} [Writes ps .free]
    [Writes ps .lib] [Writes ps .locks] [Writes ps .mram] :
    Within ps none m (m.updateStripe p side sig k b destage failed) := by
  unfold Fjoek.updateStripe
  refine within_onPool fun x => ?_
  dsimp only
  refine .trans (.trans (.trans within_readMembers within_dropCopies) within_journaled) (.orElse ?_)
  split
  · exact .trans (.trans (.each _ _ (fun _ _ _ => within_clearBad) _) within_retire) within_listFreed
  · split
    · exact .trans (.each _ _ (fun _ _ _ => within_memberLost) _) within_resolve
    · exact .each _ _ (fun _ _ _ => within_memberLost) _

theorem within_destageStripe {p side sig k : Nat} {failed : List Nat} [Writes ps .free] [Writes ps .lib] [Writes ps .locks]
    [Writes ps .mram] : Within ps none m (m.destageStripe p side sig k failed) := by
  unfold Fjoek.destageStripe
  exact within_onPool fun _ => .orElse (.trans within_updateStripe (.orElse within_afterDestage))

theorem within_nsToLabels {p slot : Nat} : Within ps ws m (m.nsToLabels p slot) := by
  unfold Fjoek.nsToLabels
  exact within_onPool fun _ => within_toLabels

theorem within_darnWait {p sig : Nat} [Writes ps .lib] [Writes ps .locks] [Writes ps .seam] :
    Within ps none m (m.darnWait p sig) := by
  unfold Fjoek.darnWait
  exact .trans within_lockStripe within_holdStripe

theorem within_darnLock {p sig : Nat} [Writes ps .lib] [Writes ps .locks] [Writes ps .seam] :
    Within ps none m (m.darnLock p sig) := by
  unfold Fjoek.darnLock
  exact .trans within_lockStripe within_unhold

theorem within_auLater {p a op : Nat} [Writes ps .lib] : Within ps ws m (m.auLater p a op) := by
  unfold Fjoek.auLater
  exact within_onPool fun _ => within_setPool

theorem within_driveFree {serial lba n : Nat} [Writes ps .lib] : Within ps ws m (m.driveFree serial lba n) := within_lib

theorem within_overStripe {p side sig op : Nat} [Writes ps .lib] [Writes ps .mram] :
    Within ps none m (m.overStripe p side sig op) := by
  unfold Fjoek.overStripe
  refine within_onPool fun _ => ?_
  refine .trans (.trans (.each _ _ (fun i _ n => ?_) _) (.each _ _ (fun _ _ _ => within_retire) _)) within_settleDirty
  split
  extract_lets m1 m2 m3
  have h3 : Within ps none n m3 := .trans (.trans within_setCache within_noteAbsent) (.orSkip within_clearBad)
  clear_value m3
  refine h3.trans (.orElse ?_)
  split
  · exact .trans within_member within_driveZero
  · exact .trans within_member within_driveFree

theorem within_overEdge {p a side sig op : Nat} {b : Blocks} [Writes ps .free] [Writes ps .lib] [Writes ps .locks]
    [Writes ps .mram] [Writes ps .seam] : Within ps none m (m.overEdge p a side sig op b) := by
  unfold Fjoek.overEdge
  refine within_onPool fun x => .orElse ?_
  split
  · exact within_auLater
  · exact .trans (.trans (.trans within_takeStripe within_destageStripe) within_updateStripe) within_leaveStripe

theorem within_overAu {p a op : Nat} [Writes ps .free] [Writes ps .lib] [Writes ps .locks] [Writes ps .mram] [Writes ps .seam] :
    Within ps none m (m.overAu p a op) := by
  unfold Fjoek.overAu
  refine within_onPool fun x => ?_
  dsimp only
  refine .trans ?_ within_listFreed
  refine .trans (.orSkip within_auLater) (.each _ _ (fun x _ m => ?_) _)
  split
  · exact within_overEdge
  · exact within_overStripe

theorem within_runAuWait {p : Nat} [Writes ps .free] [Writes ps .lib] [Writes ps .locks] [Writes ps .mram] [Writes ps .seam] :
    Within ps none m (m.runAuWait p) := by
  unfold Fjoek.runAuWait
  exact within_onPool fun _ => .trans within_setPool (.each _ _ (fun _ _ _ => within_overAu) _)

theorem within_resyncStrips {p side sig : Nat} {strips : List Nat} [Writes ps .free] [Writes ps .lib] [Writes ps .locks]
    [Writes ps .mram] [Writes ps .seam] : Within ps none m (m.resyncStrips p side sig strips) := by
  unfold Fjoek.resyncStrips
  exact within_onPool fun _ => .trans (.trans (.trans within_darnLock within_readMembers) within_intentWrite) within_leaveStripe

theorem within_parityStep {p n : Nat} [Writes ps .damp] [Writes ps .free] [Writes ps .lib] [Writes ps .locks] [Writes ps .mram]
    [Writes ps .seam] : Within ps none m (m.parityStep p n) := by
  unfold Fjoek.parityStep
  refine within_onPool fun x => ?_
  split
  dsimp only
  split
  · exact within_waitLocks
  · refine .orElse ?_
    split
    · exact within_darnWait
    · refine .orElse (.trans ?_ (.orSkip ?_))
      · exact .trans (.trans within_libDraw within_resyncStrips) (within_onPool fun _ => within_setPool)
      · exact within_poolEvent

theorem within_copyGroups {p : Nat} {targets : List Nat} [Writes ps .lib] [Writes ps .mram] :
    Within ps none m (m.copyGroups p targets) := by
  unfold Fjoek.copyGroups
  refine .each _ _ (fun x _ m => within_onPool fun x => ?_) _
  split
  · exact .trans (.orSkip (.each _ _ (fun _ _ _ => within_member) _)) (.each _ _ (fun _ _ _ => within_member) _)
  · split
    · exact within_waitRoom
    · exact .trans (.trans within_setPool within_commitGroup) (within_onPool fun _ => within_setPool)

theorem within_storeCursor {p : Nat} {r : Round} [Writes ps .mram] : Within ps ws m (m.storeCursor p r) := by
  unfold Fjoek.storeCursor
  exact within_onPool fun _ => within_mramPut

theorem within_backStrips {p i side sig : Nat} [Writes ps .free] [Writes ps .lib] [Writes ps .mram] :
    Within ps ws m (m.backStrips p i side sig) := by
  unfold Fjoek.backStrips
  exact within_onPool fun _ => .trans within_readMembers within_intentWrite

theorem within_reshapeTo {p phase b : Nat} [Writes ps .mram] : Within ps ws m (m.reshapeTo p phase b) := within_storeReshape

theorem within_reshapeDone {p : Nat} [Writes ps .lib] [Writes ps .mram] : Within ps none m (m.reshapeDone p) := by
  unfold Fjoek.reshapeDone
  refine within_onPool fun x => ?_
  exact .trans (.trans (.trans (.trans within_setPool within_tableToLabels) within_anyPut) within_newGen) within_poolEvent

theorem within_unitToScratch {p : Nat} [Writes ps .free] [Writes ps .lib] [Writes ps .locks] [Writes ps .mram] [Writes ps .seam] :
    Within ps none m (m.unitToScratch p) := by
  unfold Fjoek.unitToScratch
  refine within_onPool fun x => ?_
  dsimp only
  refine .trans ?_ (within_onPool fun x => ?_)
  · exact .each _ _ (fun _ _ _ => .trans (.trans within_takeStripe within_destageStripe) within_leaveStripe) _
  · refine .orElse ?_
    refine .trans (.trans ?_ (within_onPool fun x => ?_)) within_reshapeTo
    · exact .trans (.trans (.each _ _ (fun _ _ _ => within_noteAbsent) _) within_readMembers) within_writeMembers
    · exact within_setPool

theorem within_unitToNew {p : Nat} [Writes ps .free] [Writes ps .lib] [Writes ps .locks] [Writes ps .mram] [Writes ps .seam] :
    Within ps none m (m.unitToNew p) := by
  unfold Fjoek.unitToNew
  refine within_onPool fun _ => ?_
  extract_lets new k b e a sigs at_ places ws m1 m2 m3 b' m4 m5
  have h4 : Within ps none m m4 := by
    refine .trans (.trans (.trans ?_ (within_onPool fun _ => within_setPool)) within_anyPut) within_anyPut
    exact .trans within_readMembers
      (.each _ _ (fun _ _ _ => .trans (.trans within_darnLock within_intentWrite) within_leaveStripe) _)
  clear_value m4
  have h5 : Within ps none m4 m5 := by
    refine iteInduction (fun _ => ?_) fun _ => iteInduction (fun _ => ?_) fun _ => ?_
    · exact .trans within_reshapeTo within_reshapeDone
    · exact within_reshapeTo
    · exact .trans (.trans (.trans within_reshapeTo within_anyPut) within_anyLatch) within_poolEvent
  clear_value m5
  exact h4.trans (h5.trans (.trans (.orSkip (.trans within_startRound within_poolEvent)) within_runAuWait))

/-! ## Drive ports that end their service -/

theorem within_portEnd {p sc : Nat} (hp : p < 24) [Writes ps .drv] [Writes ps .free] [Writes ps .hbm] [Writes ps .lib]
    [Writes ps .locks] [Writes ps .mngl] [Writes ps .mram] [Writes ps .pmon] [Writes ps .seam] [Writes ps .twin] :
    Within ps none m (m.portEnd p sc) := by
  unfold Fjoek.portEnd
  split
  · exact .trans (.trans (within_endService hp) within_portLost) (within_settlePortDiff (opens_none _))
  · exact within_settlePerst

theorem within_disableWrite {p : Nat} {v : Bool} (hp : p < 24) [Writes ps .drv] [Writes ps .free] [Writes ps .hbm]
    [Writes ps .lib] [Writes ps .locks] [Writes ps .mngl] [Writes ps .mram] [Writes ps .pmon] [Writes ps .seam]
    [Writes ps .twin] : Within ps none m (m.disableWrite p v) := by
  unfold Fjoek.disableWrite
  split
  · exact .trans (.trans within_anyPut (within_portEnd hp)) within_settlePerst
  · exact within_releasePort

theorem within_tempRead {p : Nat} {r : Option (BitVec 8)} (hw : PortOpen ws p) [Writes ps .drv] :
    Within ps ws m (m.tempRead p r) := by
  have hput (n : Fjoek) (f : Fld) (hf : f.addr = 0x280028 + 0x2000 * p) (v : Nat) : Within ps ws n (n.put f v) :=
    within_putIn (by rw [hf]; exact hw 0x28 (by decide))
  unfold Fjoek.tempRead
  refine .orElse ?_
  dsimp only
  split
  · exact .trans (.trans within_setPort (hput _ _ rfl _)) (hput _ _ rfl _)
  · exact .trans within_setPort (.when _ _ (hput _ _ rfl _))

theorem within_rawWrite {p : Nat} {q : Bool} (hp : p < 24) (hw : PortOpen ws p) [Writes ps .drv] [Writes ps .hbm] :
    Within ps ws m (m.rawWrite p q) := by
  unfold Fjoek.rawWrite
  refine .orElse (.trans (within_putIn (f := DRV_RCMD_busy p) (v := 1) (hw 0x140 (by decide))) ?_)
  dsimp only
  split
  · exact within_rawEnd (Nat.le_add_right 4 12) hp hw
  · split
    · exact within_rawEnd (Nat.le_add_right 4 12) hp hw
    · exact within_placeCommand

theorem within_abortOldest {p : Nat} (hp : p < 24) [Writes ps .drv] [Writes ps .free] [Writes ps .hbm] [Writes ps .lib]
    [Writes ps .locks] [Writes ps .mngl] [Writes ps .mram] [Writes ps .pmon] [Writes ps .seam] [Writes ps .twin] :
    Within ps none m (m.abortOldest p) := by
  have hopen := portOpen_none p
  unfold Fjoek.abortOldest
  dsimp only
  split
  · exact .orSkip (.trans (within_disableWrite hp) (within_disableWrite hp))
  · exact .refl _ _ _
  · exact .trans within_setPort (.orElse (.trans (.each _ _ (fun _ _ _ => within_anyReg) _) (within_rawWrite hp hopen)))

theorem within_psWrite {p st : Nat} (hw : PortOpen ws p) [Writes ps .drv] [Writes ps .hbm] :
    Within ps ws m (m.psWrite p st) := by
  unfold Fjoek.psWrite
  exact .trans (.trans (.trans (within_putIn (hw 0x2C (by decide))) within_setPort) within_issuePower) within_bells

theorem within_cfgAccess {p : Nat} {write : Option Word32} {answer : Word32} (hw : PortOpen ws p) [Writes ps .drv]
    [Writes ps .free] : Within ps ws m (m.cfgAccess p write answer) := by
  have hdata : Opens ws (DRV_CFGDATA p / 0x10000) := hw 0x44 (by decide)
  unfold Fjoek.cfgAccess
  dsimp only
  split
  · exact .orElse (.trans (.trans within_drv (within_regIn (by assumption))) within_output)
  · split
    · exact .trans (.trans within_drv (within_regIn (by assumption))) within_output
    · exact .trans within_free64 (within_regIn (by assumption))

/-! ## The transport and the attach endpoint -/

theorem within_setXport {x : Xport} [Writes ps .xport] : Within ps ws m (m.setXport x) := within_xport

theorem within_ccConsume {g ci : Nat} (hw : Opens ws ((XPORT_CCCI_ci g).addr / 0x10000)) [Writes ps .xport] :
    Within ps ws m (m.ccConsume g ci) := by
  unfold Fjoek.ccConsume
  exact .trans (within_putIn hw) within_setXport

theorem within_setAtt {a : Att} [Writes ps .att] : Within ps ws m (m.setAtt a) := within_att

theorem within_logFn {f gate : Nat} : Within ps ws m (m.logFn f gate) := within_logTwin

theorem within_dbPut {g f kind reg value : Nat} [Writes ps .att] [Writes ps .hbm] :
    Within ps none m (m.dbPut g f kind reg value) := by
  unfold Fjoek.dbPut
  exact .trans (.trans (.trans within_hbmWrite within_anyPut) within_setAtt) (.when _ _ within_postTag)

theorem within_dbRecord {f kind reg value : Nat} [Writes ps .att] [Writes ps .hbm] :
    Within ps none m (m.dbRecord f kind reg value) := by
  unfold Fjoek.dbRecord
  dsimp only
  split
  · exact .trans within_setAttFn within_anyCause
  · exact within_dbPut

theorem within_attRecord {f kind reg value : Nat} [Writes ps .att] [Writes ps .hbm] :
    Within ps none m (m.attRecord f kind reg value) := by
  unfold Fjoek.attRecord
  exact .orElse (.trans within_logTwin within_dbRecord)

theorem within_stateRecord {f kind : Nat} [Writes ps .att] [Writes ps .hbm] : Within ps none m (m.stateRecord f kind) :=
  within_attRecord

theorem within_dbConsume {g ci : Nat} [Writes ps .att] [Writes ps .hbm] : Within ps none m (m.dbConsume g ci) := by
  unfold Fjoek.dbConsume
  exact .trans (.trans within_anyPut within_setAtt) (.each _ _ (fun _ _ _ => .orSkip (.trans within_setAttFn within_dbPut)) _)

theorem within_attFail {d : Desc} {epstat : Nat} [Writes ps .att] [Writes ps .damp] [Writes ps .hbm] [Writes ps .mngl]
    [Writes ps .pmon] [Writes ps .seam] [Writes ps .twin] : Within ps none m (m.attFail d epstat) := by
  unfold Fjoek.attFail
  dsimp only
  refine .trans ?_ within_completeDesc
  exact .trans within_setAtt (.each _ _ (fun _ _ _ => .orElse (.trans within_setDraws within_serve)) _)

theorem within_parkDesc {d : Desc} [Writes ps .att] [Writes ps .damp] [Writes ps .mngl] : Within ps none m (m.parkDesc d) := by
  unfold Fjoek.parkDesc
  refine .orElse ?_
  dsimp only
  refine .trans ?_ within_anyCount
  exact .trans (.trans within_setAtt (.each _ _ (fun _ _ _ => .orElse (.trans within_setDraws within_serve)) _)) within_setDesc

theorem within_parkFn {f : Nat} [Writes ps .att] [Writes ps .damp] [Writes ps .mngl] : Within ps none m (m.parkFn f) := by
  unfold Fjoek.parkFn
  exact .each _ _ (fun _ _ _ => within_parkDesc) _

theorem within_sendPending {f : Nat} [Writes ps .att] : Within ps ws m (m.sendPending f) := by
  unfold Fjoek.sendPending
  exact .each _ _ (fun _ _ _ => .orSkip (.trans within_setAtt within_attRaise)) _

theorem within_bmeClear {f : Nat} [Writes ps .att] [Writes ps .damp] [Writes ps .hbm] [Writes ps .mngl] :
    Within ps none m (m.bmeClear f) := by
  unfold Fjoek.bmeClear
  dsimp only
  refine .orElse (.trans ?_ within_logFn)
  exact .trans (.trans (.trans within_setAttFn (.when _ _ within_parkFn)) within_stateRecord) within_anyCause

theorem within_fnClear {f : Nat} [Writes ps .att] : Within ps none m (m.fnClear f) := by
  unfold Fjoek.fnClear
  dsimp only
  refine .trans ?_ (.orSkip ?_)
  · exact .trans (.trans (.trans within_setAttFn within_setAtt) within_anyReg) within_anyReg
  · exact .trans within_anyReg within_intxUpdate

theorem within_flrEnd {f : Nat} [Writes ps .att] [Writes ps .hbm] : Within ps none m (m.flrEnd f) := by
  unfold Fjoek.flrEnd
  exact .orElse (.trans (.trans (.trans within_fnClear within_stateRecord) within_anyCause) within_logFn)

theorem within_intxClear {bits : Nat} (h30 : Opens ws 0x30) : Within ps ws m (m.intxClear bits) := by
  unfold Fjoek.intxClear
  exact .trans (within_regIn (by assumption)) within_intxUpdate

theorem within_attSend {f : Nat} {write ep : Bool} {addr len tag : Nat} {data : List Byte} {own : Option (Nat × Place)}
    [Writes ps .seam] [Writes ps .twin] : Within ps none m (m.attSend f write ep addr len tag data own) := by
  unfold Fjoek.attSend
  dsimp only
  refine .trans (.trans ?_ within_anyCount) within_output
  split
  · exact within_digestPayload
  · exact within_digestItem

theorem within_readTlps {n : Nat} {d : Desc} [Writes ps .att] [Writes ps .damp] [Writes ps .hbm] [Writes ps .mngl]
    [Writes ps .pmon] [Writes ps .seam] [Writes ps .twin] : Within ps none m (readTlps n d m) := by
  induction n generalizing d m with
  | zero => exact within_setDesc
  | succ n ih =>
    unfold readTlps
    split
    · exact within_setDesc
    · split
      · exact .trans within_setDesc within_attFail
      · split
        · exact within_setDesc
        · exact .trans (.trans (.when _ _ within_setAtt) within_attSend) ih

theorem within_moreReads [Writes ps .att] [Writes ps .damp] [Writes ps .hbm] [Writes ps .mngl] [Writes ps .pmon]
    [Writes ps .seam] [Writes ps .twin] : Within ps none m m.moreReads := by
  unfold Fjoek.moreReads
  exact .each _ _ (fun _ _ _ => within_readTlps) _

/-! ## The twin -/

theorem within_setTwin {t : Twin} [Writes ps .twin] : Within ps ws m (m.setTwin t) := within_twin

theorem within_twinEnd {code : Nat} {event : Bool} (h31 : Opens ws 0x31) : Within ps ws m (m.twinEnd code event) := by
  unfold Fjoek.twinEnd
  refine .trans ?_ (.when _ _ ?_)
  · exact .trans (within_putIn (by assumption)) (within_putIn (by assumption))
  · exact within_causeIn (by assumption) (by decide)

theorem within_startCopy (h31 : Opens ws 0x31) [Writes ps .twin] : Within ps ws m m.startCopy := by
  unfold Fjoek.startCopy
  dsimp only
  refine .trans ?_ (.each _ _ (fun x _ m => ?_) _)
  · exact .trans (.trans (within_putIn (by assumption)) within_setTwin) within_send
  · exact within_send

theorem within_drawKey {l : List Nat} [Writes ps .free] : Within ps ws m (drawKey l m).2 := by
  induction l generalizing m with
  | nil => exact .refl _ _ _
  | cons p r ih =>
    have hdrawn := Within.trans (within_free64 (ps := ps) (ws := ws) (m := m)) within_free64
    unfold drawKey
    dsimp only
    split
    · exact hdrawn
    · exact hdrawn.trans ih

theorem within_pairKeys {draws : List Nat} [Writes ps .free] [Writes ps .mngl] [Writes ps .twin] :
    Within ps none m (m.pairKeys draws) := by
  have hdraw := within_drawKey (ps := ps) (ws := none) (m := m) (l := draws)
  unfold Fjoek.pairKeys
  split
  · exact .snd ‹_› hdraw
  · refine .ofPair ‹_› hdraw fun hn => hn.trans ?_
    dsimp only
    split
    · exact .trans (.trans (.trans within_mngl within_anyPut) within_setTwin) (within_startCopy (opens_none _))
    · exact .trans (.trans (.trans within_mngl within_anyPut) within_setTwin) within_anyPut

theorem within_pair {peer : PeerInfo} [Writes ps .free] [Writes ps .mngl] [Writes ps .twin] :
    Within ps none m (m.pair peer) := by
  unfold Fjoek.pair
  refine .orElse ?_
  split
  · exact within_pairKeys
  · refine .orElse ?_
    dsimp only
    split
    · refine .trans ?_ (.orElse ?_)
      · exact within_twinEnd (opens_none _)
      · exact .trans (.trans within_anyPut within_anyPut) (.when _ _ within_anyCause)
    · exact .trans (.trans (.trans (.trans within_anyPut within_anyPut) within_anyPut) within_anyPut) within_pairKeys

theorem within_swapPoint [Writes ps .twin] : Within ps ws m m.swapPoint := by
  unfold Fjoek.swapPoint
  exact .orElse (.trans within_logTwin within_setTwin)

theorem within_swap (h31 : Opens ws 0x31) [Writes ps .twin] : Within ps ws m m.swap := by
  unfold Fjoek.swap
  refine .orElse ?_
  split
  · exact within_twinEnd h31
  · split
    · exact within_twinEnd h31
    · split
      · exact within_twinEnd h31
      · exact .trans (.trans (within_putIn (by assumption)) within_setTwin) within_swapPoint

theorem within_swapEnd [Writes ps .mngl] [Writes ps .twin] : Within ps none m m.swapEnd := by
  unfold Fjoek.swapEnd
  dsimp only
  refine .trans ?_ (within_twinEnd (opens_none _))
  exact .trans (.trans (.trans (.trans within_setTxsup within_anyPut) within_setTwin) within_mngl) within_anyCause

theorem within_resync {asked : Bool} (h31 : Opens ws 0x31) [Writes ps .twin] : Within ps ws m (m.resync asked) := by
  unfold Fjoek.resync
  refine .orElse ?_
  split
  · exact .trans (.trans (.trans (within_putIn (by assumption)) (within_putIn (by assumption)))
      (within_putIn (by assumption))) within_setTwin
  · extract_lets code m1
    clear_value code
    split
    · exact .orElse (within_twinEnd h31)
    · exact .trans (.trans within_setTwin (within_putIn (by assumption))) (within_startCopy h31)

theorem within_takeover (h31 : Opens ws 0x31) [Writes ps .twin] : Within ps ws m m.takeover := by
  unfold Fjoek.takeover
  refine .orElse ?_
  dsimp only
  refine .trans ?_ (within_countIn (by assumption) (by assumption))
  refine .trans ?_ (within_causeIn (by assumption) (by decide))
  exact .trans (.trans (within_putIn (by assumption)) (within_putIn (by assumption))) within_setTwin

theorem within_compareEpoch {n : Nat} (h31 : Opens ws 0x31) [Writes ps .twin] : Within ps ws m (m.compareEpoch n) := by
  unfold Fjoek.compareEpoch
  exact .orElse (.trans within_setTwin (.orElse (within_diverge h31)))

theorem within_peerDigest {n v : Nat} (h31 : Opens ws 0x31) [Writes ps .twin] : Within ps ws m (m.peerDigest n v) := by
  unfold Fjoek.peerDigest
  exact .trans within_setTwin (within_compareEpoch h31)

end

end Sys2Proof.Machine
end

section
/-! PROOFS. Frames of storage commands, command by command. -/

namespace Sys2Proof.Machine

section
variable {ps : List Part} {ws : Option (List Nat)}

theorem stays_nvmeFlush {cmd nsid : Nat} {s : State} : Stays ps ws (execNvmeFlush cmd nsid s) s := by
  unfold execNvmeFlush
  refine .of ?_
  split
  · exact within_respond
  · exact within_onPool fun _ => within_respond

theorem stays_interruptRaise {f : Fin 64} {vec : BitVec 11} {s : State} : Stays ps ws (execInterruptRaise f vec s) s := by
  unfold execInterruptRaise
  exact .of within_attRaise

theorem stays_wakeRequest {s : State} : Stays ps ws (execWakeRequest s) s := by
  unfold execWakeRequest
  exact .of within_attWake

theorem stays_pmeRepeat {s : State} : Stays ps ws (execPmeRepeat s) s := by
  unfold execPmeRepeat
  exact .of (.orSkip within_send)

theorem stays_horizonRecord {s : State} : Stays ps ws (execHorizonRecord s) s := by
  unfold execHorizonRecord
  exact .of (.orElse (.each _ _ (fun _ _ _ => within_logTwin) _))

theorem stays_groupDrainTimeout {g : Fin 16} {s : State} (hw : SeamOpen ws) : Stays ps ws (execGroupDrainTimeout g s) s := by
  unfold execGroupDrainTimeout
  exact .of (.orSkip (within_causeIn (hw _ (by simp only [SEAM_ESTAT_gdrain_to]; omega)) (by omega)))

theorem stays_c3Starved {p : Fin 24} {s : State} (h26 : Opens ws 0x26) : Stays ps ws (execC3Starved p s) s := by
  unfold execC3Starved
  exact .of (.orSkip (within_causeIn (by assumption) (by decide)))

theorem stays_driveLinkUp {p : Fin 24} {width speed : Nat} {s : State} (hw : PortOpen ws p) (h31 : Opens ws 0x31) :
    Stays ps ws (execDriveLinkUp p width speed s) s := by
  have hput (n : Fjoek) (f : Fld) (hf : f.addr = 0x280004 + 0x2000 * p.val) (v : Nat) : Within ps ws n (n.put f v) :=
    within_putIn (by rw [hf]; exact hw 4 (by decide))
  unfold execDriveLinkUp
  refine .of (.orElse ?_)
  refine .trans ?_ (within_settlePortDiff h31)
  refine .trans ?_ (.when _ _ within_logTwin)
  refine .trans ?_ (.when _ _ (within_drvCause p.isLt (hw 0xC (by decide))))
  refine .trans ?_ (within_latchIn (by omega))
  exact .trans (.trans (.trans (.trans (hput _ _ rfl _) (hput _ _ rfl _)) (hput _ _ rfl _)) (hput _ _ rfl _)) (hput _ _ rfl _)

theorem stays_intxStatusClear {bits : Word32} {s : State} (h30 : Opens ws 0x30) :
    Stays ps ws (execIntxStatusClear bits s) s := by
  unfold execIntxStatusClear
  exact .of (within_intxClear h30)

theorem stays_autoresync {s : State} (h31 : Opens ws 0x31) : Stays ps ws (execAutoresync s) s := by
  unfold execAutoresync
  exact .of (.orSkip (.trans (within_putIn (by assumption)) within_send))

theorem stays_twinLinkUp {s : State} (h31 : Opens ws 0x31) : Stays ps ws (execTwinLinkUp s) s := by
  unfold execTwinLinkUp
  exact .of (.orElse (.trans (within_putIn (by assumption)) (within_putIn (by assumption))))

theorem stays_heartbeatEdge {s : State} (h31 : Opens ws 0x31) : Stays ps ws (execHeartbeatEdge s) s := by
  unfold execHeartbeatEdge
  exact .of (.orElse (within_putIn (by assumption)))

theorem stays_peerEvent {e : Fin 512} {s : State} (h7 : Opens ws 0x7) : Stays ps ws (execPeerEvent e s) s := by
  unfold execPeerEvent
  refine .of (.orElse (within_regIn ?_))
  rwa [show EVT_PEER (e.val / 32) / 0x10000 = 0x7 by unfold EVT_PEER; omega]

theorem stays_msixTableWrite {f : Fin 64} {vec : BitVec 11} {addr : Word64} {data : Word32} {mask : Bool} {s : State}
    [Writes ps .att] : Stays ps ws (execMsixTableWrite f vec addr data mask s) s := by
  unfold execMsixTableWrite
  refine .of ?_
  dsimp only
  split
  · exact within_send
  · exact .orElse (.trans within_setAtt within_sendPending)

theorem stays_perstDeassert {p : Fin 24} {s : State} [Writes ps .drv] : Stays ps ws (execPerstDeassert p s) s := by
  unfold execPerstDeassert
  exact .of (.orSkip within_setPort)

theorem stays_driveTempPoll {h : Fin 2} {reads : List (Option (BitVec 8))} {s : State} (hw : ∀ p < 24, PortOpen ws p)
    [Writes ps .drv] : Stays ps ws (execDriveTempPoll h reads s) s := by
  unfold execDriveTempPoll
  refine .of (.each _ _ (fun q hq _ => within_tempRead (hw _ ?_)) _)
  have hlt := (List.mem_zipIdx' hq).1
  have hlen := List.length_take_le 12 reads
  omega

theorem stays_xtsKeyLoad {slot : BitVec 10} {s : State} (h24 : Opens ws 0x24) [Writes ps .mngl] :
    Stays ps ws (execXtsKeyLoad slot s) s := by
  unfold execXtsKeyLoad
  exact .of (within_xkWrite h24)

theorem stays_xtsKeyErase {slot : BitVec 10} {s : State} (h24 : Opens ws 0x24) [Writes ps .mngl] :
    Stays ps ws (execXtsKeyErase slot s) s := by
  unfold execXtsKeyErase
  exact .of (within_xkWrite h24)

theorem stays_xtsKeyCommandDone {s : State} (h24 : Opens ws 0x24) [Writes ps .mngl] :
    Stays ps ws (execXtsKeyCommandDone s) s := by
  unfold execXtsKeyCommandDone
  exact .of (.orSkip (.trans (within_putIn (by assumption)) (.orSkip within_mngl)))

theorem stays_fpzCommit {hi : Word32} {s : State} (h24 : Opens ws 0x24) [Writes ps .mngl] :
    Stays ps ws (execFpzCommit hi s) s := by
  unfold execFpzCommit
  exact .of (within_fpzCommit h24)

theorem stays_cursorCheckpoint {pool : Fin 4} {toLabels : Bool} {s : State} [Writes ps .mram] :
    Stays ps ws (execCursorCheckpoint pool toLabels s) s := by
  unfold execCursorCheckpoint
  refine .of ?_
  dsimp only
  refine .each _ _ (fun x _ m => ?_) _
  split
  · exact .refl _ _ _
  · exact .trans within_storeCursor (.when _ _ within_writeRecord)

theorem stays_strandTimerExpiry {e : Fin 64} {t : Fin 8} {s : State} [Writes ps .seam] :
    Stays ps ws (execStrandTimerExpiry e t s) s := by
  unfold execStrandTimerExpiry
  exact .of (.orElse (.trans within_logTwin within_timerExpire))

theorem stays_instepEnable {s : State} (h20 : Opens ws 0x20) (h31 : Opens ws 0x31) [Writes ps .seam] :
    Stays ps ws (execInstepEnable s) s := by
  unfold execInstepEnable
  exact .of (within_seamPut (fun _ => within_instepWrite h20) h31)

theorem stays_instepDisable {s : State} (h20 : Opens ws 0x20) (h31 : Opens ws 0x31) [Writes ps .seam] :
    Stays ps ws (execInstepDisable s) s := by
  unfold execInstepDisable
  exact .of (within_seamPut (fun _ => within_instepWrite h20) h31)

theorem stays_loaderAbandon {s : State} (h20 : Opens ws 0x20) (h31 : Opens ws 0x31) [Writes ps .seam] :
    Stays ps ws (execLoaderAbandon s) s := by
  unfold execLoaderAbandon
  exact .of (within_seamWrite (fun _ => within_ldrAbandon h20) h31)

theorem stays_heartbeatToggle {railFault inputHeld : Bool} {s : State} [Writes ps .twin] :
    Stays ps ws (execHeartbeatToggle railFault inputHeld s) s := by
  unfold execHeartbeatToggle
  exact .of (.orSkip within_setTwin)

theorem stays_epochRecord {s : State} [Writes ps .twin] : Stays ps ws (execEpochRecord s) s := by
  unfold execEpochRecord
  exact .of (.orElse (.trans within_setTwin within_logTwin))

theorem stays_strandCrossCheck {fails : BitVec 64} {s : State} [Writes ps .twin] :
    Stays ps ws (execStrandCrossCheck fails s) s := by
  unfold execStrandCrossCheck
  exact .of (.orElse within_setTwin)

theorem stays_serdesMarginSample {lane : Fin 48} {margin : BitVec 16} {s : State} [Writes ps .twin] :
    Stays ps ws (execSerdesMarginSample lane margin s) s := by
  unfold execSerdesMarginSample
  exact .of within_setTwin

theorem stays_swap {s : State} (h31 : Opens ws 0x31) [Writes ps .twin] : Stays ps ws (execSwap s) s := by
  unfold execSwap
  exact .of (within_swap h31)

theorem stays_resync {asked : Bool} {s : State} (h31 : Opens ws 0x31) [Writes ps .twin] :
    Stays ps ws (execResync asked s) s := by
  unfold execResync
  exact .of (within_resync h31)

theorem stays_resyncCopyDone {s : State} (h31 : Opens ws 0x31) [Writes ps .twin] : Stays ps ws (execResyncCopyDone s) s := by
  unfold execResyncCopyDone
  exact .of (.orElse (.trans (within_putIn (by assumption)) (.orSkip within_setTwin)))

theorem stays_resyncRetry {s : State} (h31 : Opens ws 0x31) [Writes ps .twin] : Stays ps ws (execResyncRetry s) s := by
  unfold execResyncRetry
  exact .of (.orSkip (within_startCopy h31))

theorem stays_heartbeatLoss {s : State} (h31 : Opens ws 0x31) [Writes ps .twin] : Stays ps ws (execHeartbeatLoss s) s := by
  unfold execHeartbeatLoss
  refine .of (.orElse ?_)
  exact .trans (.trans (within_putIn (by assumption)) (within_causeIn (by assumption) (by decide))) (within_takeover h31)

theorem stays_epochClose {s : State} (h31 : Opens ws 0x31) [Writes ps .twin] : Stays ps ws (execEpochClose s) s := by
  unfold execEpochClose
  refine .of ?_
  dsimp only
  refine .orElse (.trans ?_ (within_compareEpoch h31))
  split
  · exact .trans (.trans within_setTwin (within_countIn (by assumption) (by assumption))) within_logTwin
  · exact .trans (.trans within_setTwin (within_countIn (by assumption) (by assumption))) within_send

theorem stays_digestTimeout {s : State} (h31 : Opens ws 0x31) [Writes ps .twin] : Stays ps ws (execDigestTimeout s) s := by
  unfold execDigestTimeout
  refine .of ?_
  split
  · exact .orSkip (within_diverge h31)
  · exact .refl _ _ _

theorem stays_logUndefinedKind {h : LogHead} {kind : Nat} {s : State} (h31 : Opens ws 0x31) [Writes ps .twin] :
    Stays ps ws (execLogUndefinedKind h kind s) s := by
  unfold execLogUndefinedKind
  exact .of (.orElse (within_diverge h31))

theorem stays_ccRingConsume {g : Fin 16} {ci : BitVec 11} {s : State} (h18 : Opens ws 0x18) [Writes ps .xport] :
    Stays ps ws (execCcRingConsume g ci s) s := by
  unfold execCcRingConsume
  refine .of (within_ccConsume ?_)
  rwa [show (XPORT_CCCI_ci g).addr / 0x10000 = 0x18 by simp only [XPORT_CCCI_ci]; omega]

theorem stays_doorbellWrite {f : Fin 64} {reg : BitVec 14} {value : Word64} {s : State} [Writes ps .att] [Writes ps .hbm] :
    Stays ps none (execDoorbellWrite f reg value s) s := by
  unfold execDoorbellWrite
  refine .of ?_
  dsimp only
  split
  · exact .trans within_anyCount within_send
  · split
    case h_7 => exact .trans within_anyCount (.orSkip (.trans within_setAtt within_attRecord))
    all_goals exact .trans within_anyCount (.trans within_setAttFn within_attRecord)

theorem stays_doorbellRingConsume {g : Fin 16} {ci : BitVec 9} {s : State} [Writes ps .att] [Writes ps .hbm] :
    Stays ps none (execDoorbellRingConsume g ci s) s := by
  unfold execDoorbellRingConsume
  exact .of within_dbConsume

theorem stays_flrComplete {f : Fin 64} {s : State} [Writes ps .att] [Writes ps .hbm] :
    Stays ps none (execFlrComplete f s) s := by
  unfold execFlrComplete
  refine .of ?_
  split
  · exact .each _ _ (fun _ _ _ => within_flrEnd) _
  · exact within_flrEnd

theorem stays_quarantineEnd {tag : BitVec 14} {s : State} [Writes ps .att] [Writes ps .damp] [Writes ps .hbm] [Writes ps .mngl]
    [Writes ps .pmon] [Writes ps .seam] [Writes ps .twin] : Stays ps none (execQuarantineEnd tag s) s := by
  unfold execQuarantineEnd
  exact .of (.trans within_setAtt within_moreReads)

theorem stays_cacheFill {s : State} [Writes ps .damp] [Writes ps .hbm] [Writes ps .lib] [Writes ps .mngl] :
    Stays ps none (execCacheFill s) s := by
  unfold execCacheFill
  refine .of ?_
  split
  · exact .refl _ _ _
  · dsimp only
    refine .trans ?_ within_releaseLease
    exact .trans (.trans within_lib within_libDraw) (within_onPool fun _ => .orSkip within_cachePut)

theorem stays_drvConfigAccess {p : Fin 24} {write : Option Word32} {answer : Word32} {s : State} (hw : PortOpen ws p)
    [Writes ps .drv] [Writes ps .free] : Stays ps ws (execDrvConfigAccess p write answer s) s := by
  unfold execDrvConfigAccess
  exact .of (within_cfgAccess hw)

theorem stays_rawCommand {p : Fin 24} {q : Bool} {s : State} (hw : PortOpen ws p) [Writes ps .drv] [Writes ps .hbm] :
    Stays ps ws (execRawCommand p q s) s := by
  unfold execRawCommand
  exact .of (within_rawWrite p.isLt hw)

theorem stays_powerStateRequest {p : Fin 24} {st : Fin 32} {s : State} (hw : PortOpen ws p) [Writes ps .drv] [Writes ps .hbm] :
    Stays ps ws (execPowerStateRequest p st s) s := by
  unfold execPowerStateRequest
  exact .of (within_psWrite hw)

theorem stays_bulkCompare {id : Nat} {s : State} [Writes ps .hbm] [Writes ps .mngl] :
    Stays ps none (execBulkCompare id s) s := by
  unfold execBulkCompare
  refine .of ?_
  split
  · exact .refl _ _ _
  · dsimp only
    split
    · exact .trans (.trans within_spans within_spans) within_acted
    · split <;> exact .trans (.trans within_spans within_spans) within_acted

theorem stays_loaderVerify {s : State} [Writes ps .hbm] [Writes ps .seam] : Stays ps none (execLoaderVerify s) s := by
  unfold execLoaderVerify
  exact .of (within_seamWrite (fun _ => within_ldrVerify) (opens_none _))

theorem stays_healthReport {cw ucw retx : Nat} {peer : Option (List Word32)} {s : State} [Writes ps .hbm] [Writes ps .twin] :
    Stays ps none (execHealthReport cw ucw retx peer s) s := by
  unfold execHealthReport
  refine .of (.orElse ?_)
  extract_lets t m1 m2 b a m3 m4
  have h3 : Within ps none s.m m3 :=
    .trans (.trans (.trans (.trans within_setTwin within_anyCount) within_anyCount) within_anyCount) within_hbmWrite
  have h4 : Within ps none m3 m4 := by
    refine iteInduction (fun _ => ?_) fun _ => .orSkip within_send
    split
    · exact within_hbmWrite
    · exact .refl _ _ _
  exact (h3.trans h4).trans within_anyCause

theorem stays_hbmPatrol {ce : Nat} {bad : List Nat} {s : State} [Writes ps .hbm] [Writes ps .twin] :
    Stays ps none (execHbmPatrol ce bad s) s := by
  unfold execHbmPatrol
  refine .of (.orElse ?_)
  dsimp only
  refine .trans ?_ (.each _ _ (fun x _ m => ?_) _)
  · exact .trans (.trans within_anyBump within_anyBump) within_setTwin
  · exact .orElse (.trans within_hbmMarks within_hbmDetect)

theorem stays_namespaceZeroingDone {nsid : Nat} {s : State} [Writes ps .damp] [Writes ps .free] [Writes ps .lib]
    [Writes ps .locks] [Writes ps .mram] [Writes ps .seam] : Stays ps none (execNamespaceZeroingDone nsid s) s := by
  unfold execNamespaceZeroingDone
  refine .of ?_
  split
  · exact .refl _ _ _
  · refine .trans ?_ (within_onPool fun x => ?_)
    · exact within_runAuWait
    · exact .orElse (.trans (.trans within_setPool within_nsToLabels) within_newGen)

theorem stays_retirementTimeout {pool : Fin 4} {s : State} [Writes ps .lib] [Writes ps .mram] :
    Stays ps ws (execRetirementTimeout pool s) s := by
  unfold execRetirementTimeout
  refine .of (within_onPool fun x => .orElse ?_)
  split
  · exact within_waitRoom
  · exact within_commitGroup

theorem stays_hostRead {cmd nsid lba count : Nat} {s : State} [Writes ps .damp] [Writes ps .lib] [Writes ps .mngl]
    [Writes ps .twin] : Stays ps none (execHostRead cmd nsid lba count s) s := by
  have hmarks : Part.twin ∈ ps ∨ Part.hbm ∈ ps := .inl Fact.out
  unfold execHostRead
  refine .of ?_
  split
  · exact within_respond
  · refine within_onPool fun x => ?_
    split
    · exact within_respond
    · split
      · exact within_respond
      · dsimp only
        split
        · exact .orSkip (.trans (.trans within_libDraw within_output) within_respond)
        · split
          · exact within_respond
          · refine .orSkip (.trans ?_ within_respond)
            exact .trans (.trans (.trans within_libDraw (within_passCells hmarks)) (within_serveRead hmarks)) within_output

theorem stays_cede {s : State} [Writes ps .seam] [Writes ps .twin] : Stays ps none (execCede s) s := by
  unfold execCede
  exact .of (.orElse (.trans within_setTwin within_cede))

theorem stays_logAck {seq : Nat} {digests : List (Nat × Nat)} {s : State} [Writes ps .mngl] [Writes ps .seam] [Writes ps .twin] :
    Stays ps none (execLogAck seq digests s) s := by
  unfold execLogAck
  refine .of (.orElse ?_)
  extract_lets a t m1 m2 m3
  have h3 : Within ps none s.m m3 :=
    .trans (.trans (.trans within_setTwin within_commitOutputs) within_settleFences)
      (.each _ _ (fun _ _ _ => within_peerDigest (opens_none _)) _)
  clear_value m3
  refine h3.trans ?_
  split
  · exact .orSkip within_swapEnd
  · exact .refl _ _ _

theorem stays_remirrorDone {pool : Fin 4} {s : State} [Writes ps .free] [Writes ps .lib] [Writes ps .mram] :
    Stays ps none (execRemirrorDone pool s) s := by
  unfold execRemirrorDone
  refine .of ?_
  dsimp only
  refine within_onPool fun x => ?_
  refine .orElse (.trans within_copyGroups (within_onPool fun x => ?_))
  refine .orElse (.trans ?_ (.orSkip ?_))
  · exact .trans (.trans within_setPool within_setJdeg) within_anyLatch
  · exact .trans within_startRound within_poolEvent

theorem stays_pair {peer : PeerInfo} {s : State} [Writes ps .free] [Writes ps .mngl] [Writes ps .twin] :
    Stays ps none (execPair peer s) s := by
  unfold execPair
  exact .of within_pair

theorem stays_bulkGfmac {id : Nat} {s : State} [Writes ps .hbm] [Writes ps .mngl] [Writes ps .twin] :
    Stays ps none (execBulkGfmac id s) s := by
  unfold execBulkGfmac
  refine .of ?_
  split
  · exact .refl _ _ _
  · exact within_macDesc

theorem stays_bulkXor {id : Nat} {s : State} [Writes ps .hbm] [Writes ps .mngl] [Writes ps .twin] :
    Stays ps none (execBulkXor id s) s := by
  unfold execBulkXor
  refine .of ?_
  split
  · exact .refl _ _ _
  · exact within_macDesc

theorem stays_bulkFprint {id : Nat} {s : State} [Writes ps .hbm] [Writes ps .mngl] [Writes ps .twin] :
    Stays ps none (execBulkFprint id s) s := by
  unfold execBulkFprint
  refine .of ?_
  split
  · exact .refl _ _ _
  · dsimp only
    exact .trans (.trans within_spans within_writePrints) within_acted

theorem stays_bulkPi {id : Nat} {s : State} [Writes ps .hbm] [Writes ps .mngl] [Writes ps .twin] :
    Stays ps none (execBulkPi id s) s := by
  unfold execBulkPi
  refine .of ?_
  split
  · exact .refl _ _ _
  · dsimp only
    split
    · exact .trans (.trans (.trans within_spans within_putAt) within_poisonSpans) within_acted
    · exact .trans (.trans (.trans within_spans within_putAt) within_poisonSpans) within_acted
    · split <;> split <;> exact .trans (.trans within_spans (.orSkip (.trans within_putAt within_poisonSpans))) within_acted

theorem stays_bulkXts {id : Nat} {s : State} [Writes ps .hbm] [Writes ps .mngl] [Writes ps .twin] :
    Stays ps none (execBulkXts id s) s := by
  unfold execBulkXts
  refine .of ?_
  split
  · exact .refl _ _ _
  · dsimp only
    exact .trans (.trans (.trans within_spans within_putAt) within_poisonSpans) within_acted

theorem stays_bulkFill {id : Nat} {s : State} [Writes ps .hbm] [Writes ps .mngl] [Writes ps .twin] :
    Stays ps none (execBulkFill id s) s := by
  unfold execBulkFill
  refine .of ?_
  split
  · exact .refl _ _ _
  · exact .trans within_putAt within_acted

theorem stays_busMasterDisable {f : Fin 64} {s : State} [Writes ps .att] [Writes ps .damp] [Writes ps .hbm] [Writes ps .mngl] :
    Stays ps none (execBusMasterDisable f s) s := by
  unfold execBusMasterDisable
  exact .of (.orSkip within_bmeClear)

theorem stays_loaderVerifyDone {s : State} [Writes ps .damp] [Writes ps .free] [Writes ps .hbm] [Writes ps .seam] :
    Stays ps none (execLoaderVerifyDone s) s := by
  unfold execLoaderVerifyDone
  exact .of within_ldrVerifyDone

theorem stays_bulkHash {id : Nat} {s : State} [Writes ps .damp] [Writes ps .hbm] [Writes ps .mngl] [Writes ps .twin] :
    Stays ps none (execBulkHash id s) s := by
  unfold execBulkHash
  refine .of ?_
  split
  · exact .refl _ _ _
  · dsimp only
    refine .trans (.trans ?_ (.orElse within_poisonAt)) within_acted
    refine .trans ?_ within_putAt
    split
    · exact within_spans
    · exact .trans within_spans within_spans

theorem stays_resyncRegion {pool : Fin 4} {member : Fin 24} {s : State} [Writes ps .damp] [Writes ps .free] [Writes ps .lib]
    [Writes ps .locks] [Writes ps .mram] [Writes ps .seam] [Writes ps .twin] :
    Stays ps none (execResyncRegion pool member s) s := by
  unfold execResyncRegion
  refine .of ?_
  extract_lets p i
  refine within_onPool fun x => ?_
  split
  · split
    · exact .orSkip within_parityStep
    · exact .refl _ _ _
  · split
    · exact .refl _ _ _
    · extract_lets strips sigs
      refine .orElse (iteInduction (fun _ => within_waitLocks) fun _ => ?_)
      refine iteInduction (fun _ => .each _ _ (fun _ _ _ => within_darnWait) _) fun _ => ?_
      split
      rename_i ok n hdraw
      refine .orElse ?_
      extract_lets m1 m2
      have h2 : Within ps none s.m m2 :=
        .trans (.trans (.snd hdraw within_libDraw) (.each _ _ (fun _ _ _ => within_resyncStrips) _)) within_setAbsBit
      clear_value m2
      refine h2.trans ?_
      split
      · exact within_settleStatus
      · exact within_onPool fun _ => .trans (.trans within_setPool within_newGen) within_poolEvent

theorem stays_copyBackBatch {pool : Fin 4} {stripes : Nat} {s : State} [Writes ps .damp] [Writes ps .free] [Writes ps .lib]
    [Writes ps .locks] [Writes ps .mram] [Writes ps .seam] [Writes ps .twin] :
    Stays ps none (execCopyBackBatch pool stripes s) s := by
  unfold execCopyBackBatch
  refine .of ?_
  extract_lets p
  refine within_onPool fun x => ?_
  split
  · exact .refl _ _ _
  · extract_lets all n sigs order had
    split
    rename_i ok q hdraw
    have hq : Within ps none s.m q := .snd hdraw within_libDraw
    split
    · exact within_waitLocks
    · refine .orElse (iteInduction (fun _ => ?_) fun _ => .orElse ?_)
      · exact .each _ _ (fun _ _ _ => within_darnWait) _
      · extract_lets m1 m2 m3 m4 m5 m6 m7
        have h3 : Within ps none s.m m3 := .trans (.trans (.trans hq
          (.each _ _ (fun _ _ _ => .trans within_lockStripe within_unhold) _))
          (.each _ _ (fun _ _ _ => within_backStrips) _)) within_mramPut
        clear_value m3
        have h7 : Within ps none m3 m7 := .trans (.trans (.trans (.trans (within_keepDirty (within_onPool fun _ => within_setPool))
          within_writeRecord) (.each _ _ (fun _ _ _ => within_leaveStripe) _)) within_anyPut) within_anyPut
        clear_value m7
        refine h3.trans (h7.trans ?_)
        split
        · exact within_settleStatus
        · refine within_keepDirty (within_onPool fun _ => .trans ?_ within_poolEvent)
          refine .trans (.trans ?_ within_anyPut) within_newGen
          exact .trans (.trans within_setPool within_mramPut) (.each _ _ (fun _ _ _ => within_relocToLabels) _)

theorem stays_reshapeUnitMove {pool : Fin 4} {half : Bool} {s : State} [Writes ps .damp] [Writes ps .free] [Writes ps .lib]
    [Writes ps .locks] [Writes ps .mram] [Writes ps .seam] [Writes ps .twin] :
    Stays ps none (execReshapeUnitMove pool half s) s := by
  unfold execReshapeUnitMove
  refine .of ?_
  extract_lets p m
  have hm : Within ps none s.m m := within_onPool fun _ => .orSkip (.trans (.trans within_reshapeTo within_anyPut) within_poolEvent)
  clear_value m
  refine hm.trans (within_onPool fun _ => .orElse ?_)
  extract_lets old new n sigs
  have hn : Within ps none m n := by
    refine .orElse ?_
    split
    · exact within_waitLocks
    · split
      · exact within_waitRoom
      · exact .orSkip (.trans within_libDraw within_unitToScratch)
  clear_value n
  refine hn.trans (.orElse ?_)
  split
  · exact within_waitLocks
  · split
    · exact within_waitRoom
    · exact .orSkip (.trans within_libDraw (.trans within_unitToNew within_settleStatus))

theorem stays_driveCommandTimeout {p : Fin 24} {s : State} [Writes ps .drv] [Writes ps .free] [Writes ps .hbm] [Writes ps .lib]
    [Writes ps .locks] [Writes ps .mngl] [Writes ps .mram] [Writes ps .pmon] [Writes ps .seam] [Writes ps .twin] :
    Stays ps none (execDriveCommandTimeout p s) s := by
  unfold execDriveCommandTimeout
  exact .of (.orElse (.trans (within_drvCause p.isLt (opens_none _)) (.when _ _ (within_abortOldest p.isLt))))

theorem stays_sramScrub {ce : ScrubCounts} {badL badProg badFwd badBuf : List Nat} {s : State} [Writes ps .fwd]
    [Writes ps .mngl] [Writes ps .seam] [Writes ps .twin] :
    Stays ps none (execSramScrub ce badL badProg badFwd badBuf s) s := by
  have hscrub (n : Fjoek) (a : Seam) (b : Fwd) (c : Mngl) : Within ps none n { n with seam := a, fwd := b, mngl := c } :=
    .trans (.trans (within_seam (b := a)) (within_fwd (b := b))) within_mngl
  unfold execSramScrub
  refine .of ?_
  dsimp only
  refine .trans ?_ within_bufDetect
  refine .trans ?_ within_anyCount
  refine .trans ?_ within_mnglCount
  exact .trans within_setTwin (hscrub _ _ _ _)

end

end Sys2Proof.Machine
end

section
/-! PROOFS. Frames of storage commands: every command that the obligation lists. -/

namespace Sys2Proof.Machine

theorem Writes.head {p : Part} {ps : List Part} : Writes (p :: ps) p := ⟨List.mem_cons_self⟩

theorem Writes.tail {p q : Part} {ps : List Part} [h : Writes ps p] : Writes (q :: ps) p := ⟨List.mem_cons_of_mem q h.out⟩

/-- No command of these writes the Hearth. -/
theorem footData_hearth {c : Instr} {ps : List Part} {ws : Option (List Nat)} (h : footData c = some (ps, ws)) :
    Part.hearth ∉ ps := by
  cases c
  all_goals cases h
  all_goals decide

theorem footData_stays {c : Instr} {s : State} {ps : List Part} {ws : Option (List Nat)} (h : footData c = some (ps, ws)) :
    Stays ps ws (exec c s) s := by
  have hhead := @Writes.head
  have htail := @Writes.tail
  cases c
  case nvmeFlush => cases h; exact stays_nvmeFlush
  case interruptRaise => cases h; exact stays_interruptRaise
  case wakeRequest => cases h; exact stays_wakeRequest
  case pmeRepeat => cases h; exact stays_pmeRepeat
  case horizonRecord => cases h; exact stays_horizonRecord
  case groupDrainTimeout => cases h; exact stays_groupDrainTimeout seamOpen_some
  case c3Starved => cases h; exact stays_c3Starved (opens_some (by decide))
  case driveLinkUp => cases h; exact stays_driveLinkUp (portOpen_some (Fin.isLt _) (by decide)) (opens_some (by decide))
  case intxStatusClear => cases h; exact stays_intxStatusClear (opens_some (by decide))
  case autoresync => cases h; exact stays_autoresync (opens_some (by decide))
  case twinLinkUp => cases h; exact stays_twinLinkUp (opens_some (by decide))
  case heartbeatEdge => cases h; exact stays_heartbeatEdge (opens_some (by decide))
  case peerEvent => cases h; exact stays_peerEvent (opens_some (by decide))
  case msixTableWrite => cases h; exact stays_msixTableWrite
  case perstDeassert => cases h; exact stays_perstDeassert
  case driveTempPoll => cases h; exact stays_driveTempPoll (fun _ hp => portOpen_some hp (by decide))
  case xtsKeyLoad => cases h; exact stays_xtsKeyLoad (opens_some (by decide))
  case xtsKeyErase => cases h; exact stays_xtsKeyErase (opens_some (by decide))
  case xtsKeyCommandDone => cases h; exact stays_xtsKeyCommandDone (opens_some (by decide))
  case fpzCommit => cases h; exact stays_fpzCommit (opens_some (by decide))
  case cursorCheckpoint => cases h; exact stays_cursorCheckpoint
  case strandTimerExpiry => cases h; exact stays_strandTimerExpiry
  case instepEnable => cases h; exact stays_instepEnable (opens_some (by decide)) (opens_some (by decide))
  case instepDisable => cases h; exact stays_instepDisable (opens_some (by decide)) (opens_some (by decide))
  case loaderAbandon => cases h; exact stays_loaderAbandon (opens_some (by decide)) (opens_some (by decide))
  case heartbeatToggle => cases h; exact stays_heartbeatToggle
  case epochRecord => cases h; exact stays_epochRecord
  case strandCrossCheck => cases h; exact stays_strandCrossCheck
  case serdesMarginSample => cases h; exact stays_serdesMarginSample
  case swap => cases h; exact stays_swap (opens_some (by decide))
  case resync => cases h; exact stays_resync (opens_some (by decide))
  case resyncCopyDone => cases h; exact stays_resyncCopyDone (opens_some (by decide))
  case resyncRetry => cases h; exact stays_resyncRetry (opens_some (by decide))
  case heartbeatLoss => cases h; exact stays_heartbeatLoss (opens_some (by decide))
  case epochClose => cases h; exact stays_epochClose (opens_some (by decide))
  case digestTimeout => cases h; exact stays_digestTimeout (opens_some (by decide))
  case logUndefinedKind => cases h; exact stays_logUndefinedKind (opens_some (by decide))
  case ccRingConsume => cases h; exact stays_ccRingConsume (opens_some (by decide))
  case doorbellWrite => cases h; exact stays_doorbellWrite
  case doorbellRingConsume => cases h; exact stays_doorbellRingConsume
  case flrComplete => cases h; exact stays_flrComplete
  case quarantineEnd => cases h; exact stays_quarantineEnd
  case cacheFill => cases h; exact stays_cacheFill
  case drvConfigAccess => cases h; exact stays_drvConfigAccess (portOpen_some (Fin.isLt _) (by decide))
  case rawCommand => cases h; exact stays_rawCommand (portOpen_some (Fin.isLt _) (by decide))
  case powerStateRequest => cases h; exact stays_powerStateRequest (portOpen_some (Fin.isLt _) (by decide))
  case bulkCompare => cases h; exact stays_bulkCompare
  case loaderVerify => cases h; exact stays_loaderVerify
  case healthReport => cases h; exact stays_healthReport
  case hbmPatrol => cases h; exact stays_hbmPatrol
  case namespaceZeroingDone => cases h; exact stays_namespaceZeroingDone
  case retirementTimeout => cases h; exact stays_retirementTimeout
  case hostRead => cases h; exact stays_hostRead
  case cede => cases h; exact stays_cede
  case logAck => cases h; exact stays_logAck
  case remirrorDone => cases h; exact stays_remirrorDone
  case pair => cases h; exact stays_pair
  case bulkGfmac => cases h; exact stays_bulkGfmac
  case bulkXor => cases h; exact stays_bulkXor
  case bulkFprint => cases h; exact stays_bulkFprint
  case bulkPi => cases h; exact stays_bulkPi
  case bulkXts => cases h; exact stays_bulkXts
  case bulkFill => cases h; exact stays_bulkFill
  case busMasterDisable => cases h; exact stays_busMasterDisable
  case loaderVerifyDone => cases h; exact stays_loaderVerifyDone
  case bulkHash => cases h; exact stays_bulkHash
  case resyncRegion => cases h; exact stays_resyncRegion
  case copyBackBatch => cases h; exact stays_copyBackBatch
  case reshapeUnitMove => cases h; exact stays_reshapeUnitMove
  case driveCommandTimeout => cases h; exact stays_driveCommandTimeout
  case sramScrub => cases h; exact stays_sramScrub
  all_goals cases h

/-- Settles O60: the effect of each of these commands is a chain of steps, and each step stays within the command's footprint. -/
theorem storageFootprints : Obligations.StorageFootprints := by
  unfold Obligations.StorageFootprints
  intro c s t ps ws hf hx
  exact (footData_stays hf).frame (footData_hearth hf) hx

end Sys2Proof.Machine
end

section
/-! PROOFS. The ALU class (R74, R75): each form's value, and its write of rd. -/

namespace Sys2Proof.Machine

/-! ## Bytes of numbers -/

theorem bytesOf_getD {n j : Nat} (hj : j < n) (v : Nat) : (bytesOf n v).getD j 0 = BitVec.ofNat 8 (v / 256 ^ j) := by
  induction n generalizing v j with
  | zero => omega
  | succ n ih =>
    cases j with
    | zero => simp [bytesOf]
    | succ j =>
      rw [bytesOf, List.getD_cons_succ, ih (by omega), Nat.div_div_eq_div_mul, ← Nat.pow_succ']

theorem ofBytes_lt (l : List Byte) : ofBytes l < 256 ^ l.length := by
  induction l with
  | nil => simp [ofBytes]
  | cons b r ih =>
    have hb := b.isLt
    simp only [ofBytes, List.length_cons, Nat.pow_succ]
    omega

/-- Byte `j` of the number that bytes spell. -/
theorem ofBytes_byte (l : List Byte) (j : Nat) : ofBytes l / 256 ^ j % 256 = (l.getD j 0).toNat := by
  induction l generalizing j with
  | nil => simp [ofBytes]
  | cons b r ih =>
    have hb := b.isLt
    cases j with
    | zero => simp only [ofBytes, Nat.pow_zero, Nat.div_one, List.getD_cons_zero]; omega
    | succ j =>
      rw [Nat.pow_succ', ← Nat.div_div_eq_div_mul, List.getD_cons_succ, ← ih]
      congr 2
      simp only [ofBytes]
      omega

/-! ## Values -/

section
variable (a b d : Word64)

theorem aluMin_eq : aluMin a b = if a.toInt < b.toInt then a else b := if_congr (by simp [BitVec.slt]) rfl rfl

theorem aluMax_eq : aluMax a b = if a.toInt < b.toInt then b else a := if_congr (by simp [BitVec.slt]) rfl rfl

theorem aluMinu_eq : aluMinu a b = if a.toNat < b.toNat then a else b := if_congr (by simp [BitVec.ult]) rfl rfl

theorem aluMaxu_eq : aluMaxu a b = if a.toNat < b.toNat then b else a := if_congr (by simp [BitVec.ult]) rfl rfl

theorem foldl_bnat (p : Nat → Bool) (l : List Nat) (c : Nat) : l.foldl (fun n j => n + bnat (p j)) c = c + l.countP p := by
  induction l generalizing c with
  | nil => rfl
  | cons x r ih =>
    rw [List.foldl_cons, ih, List.countP_cons]
    unfold bnat
    omega

theorem aluPopc_eq : aluPopc a = BitVec.ofNat 64 ((List.range 64).countP fun j => a.getLsbD j) := by
  unfold aluPopc
  rw [foldl_bnat (fun j => bitOf a.toNat j), Nat.zero_add]
  rfl

theorem aluLih_eq (top : BitVec 32) : aluLih d top = BitVec.ofNat 64 (top.toNat * 2 ^ 32 + d.toNat % 2 ^ 32) := by
  unfold aluLih
  rw [Nat.add_comm]

theorem aluBfi_bit {pos len j : Nat} (hl : 1 ≤ len) (hj : j < 64) :
    (aluBfi d a pos len).getLsbD j = if pos ≤ j ∧ j < pos + len then a.getLsbD (j - pos) else d.getLsbD j := by
  unfold aluBfi
  rw [BitVec.getLsbD_ofNat, decide_eq_true hj, Bool.true_and, withBits_testBit _ _ _ _ _ (by omega)]
  by_cases hin : pos ≤ j ∧ j < pos + len
  · rw [if_pos (by omega), if_pos hin, Nat.testBit_mod_two_pow, decide_eq_true (by omega), Bool.true_and]
    rfl
  · rw [if_neg (by omega), if_neg hin]
    rfl

/-- The eight byte-wise products of `gfmul`. -/
def gfBytes : Word64 :=
  BitVec.ofNat 64 (ofBytes (((bytesOf 8 a.toNat).zip (bytesOf 8 b.toNat)).map fun p => BitVec.ofNat 8 (gfMul p.1.toNat p.2.toNat)))

theorem gfBytes_byte {j : Nat} (hj : j < 8) :
    (gfBytes a b).toNat / 256 ^ j % 256 = gfMul (a.toNat / 256 ^ j % 256) (b.toNat / 256 ^ j % 256) % 256 := by
  have hlen (v : Nat) : j < (bytesOf 8 v).length := by rw [bytesOf_length]; exact hj
  have hget (v : Nat) : (bytesOf 8 v)[j]'(hlen v) = BitVec.ofNat 8 (v / 256 ^ j) := by
    rw [← bytesOf_getD hj, List.getD_eq_getElem _ _ (hlen v)]
  have hprod := ofBytes_lt (((bytesOf 8 a.toNat).zip (bytesOf 8 b.toNat)).map fun p => BitVec.ofNat 8 (gfMul p.1.toNat p.2.toNat))
  simp only [List.length_map, List.length_zip, bytesOf_length, Nat.min_self, show 256 ^ 8 = 2 ^ 64 from rfl] at hprod
  unfold gfBytes
  rw [BitVec.toNat_ofNat, Nat.mod_eq_of_lt hprod, ofBytes_byte, List.getD_eq_getElem _ _ (by simpa using hj), List.getElem_map,
    List.getElem_zip, hget, hget]
  simp only [BitVec.toNat_ofNat]

end

/-! ## Instructions that compute -/

section
variable {s : State} {i : Issue} {c : Instr} {rd ra rb : Fin 32}

/-- An instruction that only computes writes its strand. -/
theorem runs_compute {uses : List Nat} {f : Strand → Strand} (hx : exec c s = .next (s.settle (s.m.compute i uses f)))
    (h : s.m.issuable i uses) (hf : (f (s.m.issuing i)).next.mode = (s.m.issuing i).mode) :
    Runs c s (s.m.setStrand (issueKey i) (f (s.m.issuing i)).next) := runs_of _ _ _ _ hx (compute_sampled s.m i uses f h hf)

theorem runs_compute_wr {uses : List Nat} {f : Strand → Word64} {v : Word64}
    (hx : exec c s = .next (s.settle (s.m.compute i uses fun x => x.wr rd.val (f x)))) (h : s.m.issuable i uses)
    (hv : f (s.m.issuing i) = v) : Runs c s (s.m.setStrand (issueKey i) ((s.m.issuing i).wr rd.val v).next) :=
  hv ▸ runs_compute hx h (wr_mode _ _ _)

theorem runs_alu2 {f : Word64 → Word64 → Word64} {v : Word64} (hx : exec c s = .next (s.settle (s.m.alu2 i rd ra rb f)))
    (h : s.m.issuable i [onlyWrites rd, ra.val, rb.val]) (hv : f ((s.m.issuing i).rd ra.val) ((s.m.issuing i).rd rb.val) = v) :
    Runs c s (s.m.setStrand (issueKey i) ((s.m.issuing i).wr rd.val v).next) := runs_compute_wr hx h hv

theorem runs_alu1 {f : Word64 → Word64} {v : Word64} (hx : exec c s = .next (s.settle (s.m.alu1 i rd ra f)))
    (h : s.m.issuable i [onlyWrites rd, ra.val]) (hv : f ((s.m.issuing i).rd ra.val) = v) :
    Runs c s (s.m.setStrand (issueKey i) ((s.m.issuing i).wr rd.val v).next) := runs_compute_wr hx h hv

end

/-- A defined word is its instruction. -/
theorem issueDefined_pos {m : Fjoek} {i : Issue} {ok : Bool} {f : Fjoek → Fjoek} (h : ok = true) : m.issueDefined i ok f = f m := if_pos h

theorem exec_bfx (s : State) (i : Issue) (rd ra : Fin 32) {pos : BitVec 6} {len : BitVec 7}
    (h : 1 ≤ len.toNat ∧ len.toNat ≤ 64 ∧ pos.toNat + len.toNat ≤ 64) : exec (.bfx i rd ra pos len) s =
      .next (s.settle (s.m.alu1 i rd ra fun a => aluBfx a pos.toNat len.toNat)) :=
  congrArg (fun m => Host.Outcome.next (s.settle m)) (issueDefined_pos (decide_eq_true h))

theorem exec_bfi (s : State) (i : Issue) (rd ra : Fin 32) {pos : BitVec 6} {len : BitVec 7}
    (h : 1 ≤ len.toNat ∧ len.toNat ≤ 64 ∧ pos.toNat + len.toNat ≤ 64) : exec (.bfi i rd ra pos len) s =
      .next (s.settle (s.m.compute i [rd.val, ra.val] fun x =>
        x.wr rd.val (aluBfi (x.rd rd.val) (x.rd ra.val) pos.toNat len.toNat))) :=
  congrArg (fun m => Host.Outcome.next (s.settle m)) (issueDefined_pos (decide_eq_true h))

/-- Settles O1: each form computes its value from its operands, and writes it to rd. -/
theorem aluForms : Obligations.AluForms := by
  unfold Obligations.AluForms
  refine ⟨fun s i rd ra rb h => ?_, fun s i rd ra rb pn pos len => ?_, fun s i rd ra imm top n => ?_⟩
  · intro x a b put n
    refine ⟨runs_alu2 rfl h rfl, runs_alu2 rfl h rfl, runs_alu2 rfl h rfl, runs_alu2 rfl h rfl, runs_alu2 rfl h rfl,
      runs_alu2 rfl h rfl, runs_alu2 rfl h rfl, runs_alu2 rfl h rfl, runs_alu2 rfl h rfl, runs_alu2 rfl h rfl,
      runs_alu2 rfl h rfl, runs_alu2 rfl h rfl, runs_alu2 rfl h rfl, ?_, ?_, ?_, ?_⟩
    · exact runs_alu2 rfl h (aluMin_eq a b)
    · exact runs_alu2 rfl h (aluMax_eq a b)
    · exact runs_alu2 rfl h (aluMinu_eq a b)
    · exact runs_alu2 rfl h (aluMaxu_eq a b)
  · intro x a put one two both field
    refine ⟨fun h => runs_alu1 rfl h rfl, fun h => runs_alu1 rfl h (aluPopc_eq a), fun h => runs_alu1 rfl h rfl,
      fun h => runs_compute_wr rfl h rfl, fun h hf => runs_alu1 (exec_bfx s i rd ra hf) h rfl, fun h hf => ?_, fun h => ?_,
      fun h => runs_compute_wr rfl h rfl⟩
    · exact ⟨_, runs_compute_wr (exec_bfi s i rd ra hf) h rfl, fun j hj => aluBfi_bit a (x.rd rd.val) hf.1 hj⟩
    · exact ⟨gfBytes a (x.rd rb.val), runs_alu2 (f := gfBytes) rfl h rfl, fun j hj => gfBytes_byte a (x.rd rb.val) hj⟩
  · intro x a put
    refine ⟨fun h => ⟨runs_alu1 rfl h rfl, runs_alu1 rfl h rfl, runs_alu1 rfl h rfl, runs_alu1 rfl h rfl, runs_alu1 rfl h rfl,
      runs_alu1 rfl h rfl, runs_alu1 rfl h rfl⟩, fun h => runs_compute_wr rfl h rfl, fun h => ?_⟩
    exact runs_compute_wr rfl h (aluLih_eq (x.rd rd.val) top)

end Sys2Proof.Machine
end

section
/-! PROOFS. Compares, branches, calls and returns (R76, R77). -/

namespace Sys2Proof.Machine

/-! ## Compares -/

theorem cmpNe_eq (a b : Word64) : cmpNe a b = decide (a ≠ b) := (decide_not (p := a = b)).symm

theorem cmpTst_eq (a b : Word64) : cmpTst a b = decide (a &&& b ≠ 0) := (decide_not (p := a &&& b = 0)).symm

section
variable {s : State} {i : Issue} {c : Instr} {pd : Fin 8} {ra rb : Fin 32} {v : Inv} {imm : BitVec 32} {r : Bool}

theorem runs_cmp2 {f : Word64 → Word64 → Bool} (hx : exec c s = .next (s.settle (s.m.cmp2 i pd ra rb v f)))
    (h : s.m.issuable i [ra.val, rb.val]) (hr : f ((s.m.issuing i).rd ra.val) ((s.m.issuing i).rd rb.val) = r) :
    Runs c s (s.m.setStrand (issueKey i) ((s.m.issuing i).compareWr pd v r).next) :=
  hr ▸ runs_compute hx h (compareWr_mode _ _ _ _)

theorem runs_cmp1 {f : Word64 → Word64 → Bool} (hx : exec c s = .next (s.settle (s.m.cmp1 i pd ra imm v f)))
    (h : s.m.issuable i [ra.val]) (hr : f ((s.m.issuing i).rd ra.val) (imm.signExtend 64) = r) :
    Runs c s (s.m.setStrand (issueKey i) ((s.m.issuing i).compareWr pd v r).next) :=
  hr ▸ runs_compute hx h (compareWr_mode _ _ _ _)

end

/-- Settles O2: each compare computes its result from its operands, and writes its predicates. -/
theorem compareForms : Obligations.CompareForms := by
  unfold Obligations.CompareForms
  intro s i pd pa pb ra rb imm v tt x a b d put
  refine ⟨fun h => ⟨runs_cmp2 rfl h rfl, runs_cmp2 rfl h (cmpNe_eq a b), runs_cmp2 rfl h rfl, runs_cmp2 rfl h rfl, runs_cmp2 rfl h rfl,
    runs_cmp2 rfl h rfl, runs_cmp2 rfl h (cmpTst_eq a b)⟩, fun h => ⟨runs_cmp1 rfl h rfl, runs_cmp1 rfl h rfl, runs_cmp1 rfl h rfl⟩,
    fun h => ?_⟩
  exact runs_compute (f := fun x => x.setPred pd.val (cmpPlog tt (x.pred pa.val) (x.pred pb.val))) rfl h (setPred_mode _ _ _)

/-! ## An instruction that writes its strand -/

theorem issuable_calm {m : Fjoek} {i : Issue} {uses : List Nat} (h : m.issuable i uses) : m.calm i.e.val := by
  obtain ⟨-, -, -, -, hc⟩ := h
  exact hc

section
variable {s : State} {i : Issue} {c : Instr} {uses : List Nat} {hold : Fjoek → Strand → Option StallFor}
  {body : Nat → Strand → Fjoek → Fjoek} (hx : exec c s = .next (s.settle (s.m.issueHold i uses hold body)))
  (h : s.m.issuable i uses) (hh : hold s.m (s.m.issuing i) = none)
include hx h hh

/-- An instruction whose body does what `m'` says, beside latches, counts and samples, has that as its effect. -/
theorem runs_issue {m' : Fjoek} (hc : m'.calm i.e.val) (hb : Sampled m' (body (issueKey i) (s.m.issuing i) (s.m.underway i))) :
    Runs c s m' := by
  refine runs_body s i c uses hold body hx h hh m' hc ?_
  rintro j - rfl
  exact hb

/-- An instruction whose body writes `G` and then its strand. -/
theorem runs_beside {G n : Fjoek} {y : Strand} (hb : body (issueKey i) (s.m.issuing i) (s.m.underway i) = n.setStrand (issueKey i) y)
    (hn : Sampled (G.setStrand (issueKey i) (s.m.issuing i)) n) (hc : G.calm i.e.val) (hy : y.fenced = false) :
    Runs c s (G.setStrand (issueKey i) y) := by
  refine runs_issue hx h hh (calm_setStrand _ _ _ _ hc hy) ?_
  rw [hb]
  exact end_strand i h.1 G y n hn

/-- An instruction whose body writes its strand, and counts. -/
theorem runs_strand {n : Fjoek} {y : Strand} (hb : body (issueKey i) (s.m.issuing i) (s.m.underway i) = n.setStrand (issueKey i) y)
    (hn : Sampled (s.m.underway i) n) (hy : y.fenced = false) : Runs c s (s.m.setStrand (issueKey i) y) :=
  runs_beside hx h hh hb ((underway_sampled s.m i).trans hn) (issuable_calm h) hy

end

/-- A strand that goes on in the state in which its instruction found it waits on no fence. -/
theorem issuable_fenced {m : Fjoek} {i : Issue} {uses : List Nat} (h : m.issuable i uses) {y : Strand}
    (hy : y.mode = (m.issuing i).mode) : y.fenced = false := issuing_fenced m i h.1 y hy

/-! ## Branches -/

section
variable {s : State} {i : Issue} {c : Instr} {uses : List Nat} {body : Nat → Strand → Fjoek → Fjoek}
  (hx : exec c s = .next (s.settle (s.m.issue i uses body))) (h : s.m.issuable i uses)
include hx h

/-- An instruction that branches moves the pc, beside what it makes of its strand. -/
theorem runs_branch {y : Strand} {t : BitVec 13} (hy : y.mode = (s.m.issuing i).mode)
    (hb : body (issueKey i) (s.m.issuing i) (s.m.underway i) = (s.m.underway i).branchTo (issueKey i) y t) :
    Runs c s (s.m.setStrand (issueKey i) { y with pc := t }) := by
  have he : issueKey i / 8 < 64 := by rw [issueKey_div]; exact i.e.isLt
  exact runs_strand hx h rfl hb (perf_sampled _ _ _ _ _ he) (issuable_fenced h hy)

/-- A call with room pushes the next index. -/
theorem runs_callTo {t : BitVec 13} (hr : (s.m.issuing i).rets.length < 8)
    (hb : body (issueKey i) (s.m.issuing i) (s.m.underway i) = (s.m.underway i).callTo (issueKey i) (s.m.issuing i) t) :
    Runs c s (s.m.setStrand (issueKey i)
      { s.m.issuing i with pc := t, rets := ((s.m.issuing i).pc + 1) :: (s.m.issuing i).rets }) :=
  runs_branch (y := { s.m.issuing i with rets := ((s.m.issuing i).pc + 1) :: (s.m.issuing i).rets }) hx h rfl
    (hb.trans (if_neg (Nat.not_le.2 hr)))

end

theorem wr_pc (x : Strand) (r : Nat) (v : Word64) : (x.wr r v).pc = x.pc := by unfold Strand.wr; split <;> rfl

section
variable {s : State} {i : Issue}

theorem runs_ret {t : BitVec 13} {rest : List (BitVec 13)} (h : s.m.issuable i []) (hr : (s.m.issuing i).rets = t :: rest) :
    Runs (.ret i) s (s.m.setStrand (issueKey i) { s.m.issuing i with pc := t, rets := rest }) := by
  refine runs_branch (y := { s.m.issuing i with rets := rest }) rfl h rfl ?_
  simp only [hr]

theorem runs_jtab {ra : Fin 32} (base bound : BitVec 13) (h : s.m.issuable i [ra.val]) :
    Runs (.jtab i ra base bound) s (s.m.setStrand (issueKey i) { s.m.issuing i with
      pc := if ((s.m.issuing i).rd ra.val).toNat < bound.toNat then base + ((s.m.issuing i).rd ra.val).setWidth 13
        else (s.m.issuing i).pc + 1 }) := by
  split
  · exact runs_branch rfl h rfl (if_pos ‹_›)
  · exact runs_strand rfl h rfl (if_neg ‹_›) (Sampled.refl _) (issuable_fenced h rfl)

theorem runs_loop {rd : Fin 32} (off : BitVec 13) (h : s.m.issuable i [rd.val]) :
    Runs (.loop i rd off) s (s.m.setStrand (issueKey i) { (s.m.issuing i).wr rd.val ((s.m.issuing i).rd rd.val - 1) with
      pc := if (s.m.issuing i).rd rd.val - 1 ≠ 0 then (s.m.issuing i).pc + off else (s.m.issuing i).pc + 1 }) := by
  rw [← wr_pc (s.m.issuing i) rd.val ((s.m.issuing i).rd rd.val - 1)]
  split
  · exact runs_branch rfl h (wr_mode _ _ _) (if_pos ‹_›)
  · exact runs_strand rfl h rfl (if_neg ‹_›) (Sampled.refl _) (issuable_fenced h (wr_mode _ _ _))

end

/-- Settles O3: each instruction that moves the pc branches, or goes on to the next instruction. -/
theorem branchForms : Obligations.BranchForms := by
  unfold Obligations.BranchForms
  intro s i rd ra off target base bound t rest x go call
  exact ⟨fun h => runs_branch rfl h rfl rfl, fun h hr => runs_callTo rfl h hr rfl, runs_ret, fun h => runs_branch rfl h rfl rfl,
    fun h hr => runs_callTo rfl h hr rfl, runs_jtab base bound, runs_loop off⟩

end Sys2Proof.Machine
end

section
/-! PROOFS. Loads, stores and atomics on L (R42, R78). -/

namespace Sys2Proof.Machine

theorem lFault_none {m : Fjoek} {e a n : Nat} {r : Bool} (ha : a < 0x40000) (hn : a % n = 0)
    (hw : r = true → tableGet (fun _ => false) m.seam.lue (32768 * e + a / 8) = false) : m.lFault e a n r = none := by
  unfold Fjoek.lFault
  rw [if_neg (Nat.not_le.2 ha), if_neg (not_not.2 hn), if_neg]
  rw [Bool.and_eq_true]
  rintro ⟨hr, hu⟩
  rw [hw hr] at hu
  cases hu

theorem lNat_lPut (m : Fjoek) (e a n v : Nat) : (m.lPut e a (bytesOf n v)).lNat e a n = v % 256 ^ n := by
  have hb := lBytes_put_same m e a (bytesOf n v)
  rw [bytesOf_length] at hb
  unfold Fjoek.lNat
  rw [hb, ofBytes_bytesOf]

/-- A store within L leaves every other byte of every engine's L. -/
theorem lByte_lPut_ne (m : Fjoek) {e a f j : Nat} {b : List Byte} (ha : a + b.length ≤ 0x40000) (hj : j < 0x40000)
    (hne : ¬(f = e ∧ a ≤ j ∧ j < a + b.length)) : (m.lPut e a b).lBytes f j 1 = m.lBytes f j 1 := by
  rw [lByte_put, if_neg (by omega)]
  rfl

section
variable {s : State} {i : Issue} {c : Instr} {rd ra rb : Fin 32} {off : BitVec 18} {n : Nat}

theorem runs_lLoad {f : Nat → Word64} (hx : exec c s = .next (s.settle (s.m.lLoad i rd ra off n f)))
    (h : s.m.issuable i [onlyWrites rd, ra.val])
    (hw : address (s.m.issuing i) ra off < 0x40000 ∧ address (s.m.issuing i) ra off % n = 0 ∧
      tableGet (fun _ => false) s.m.seam.lue (32768 * i.e.val + address (s.m.issuing i) ra off / 8) = false) :
    Runs c s (s.m.setStrand (issueKey i)
      ((s.m.issuing i).wr rd.val (f (s.m.lNat i.e.val (address (s.m.issuing i) ra off) n))).next) := by
  obtain ⟨hin, hal, hue⟩ := hw
  exact runs_of _ _ _ _ hx (lLoad_sampled s.m i rd ra off n f h (lFault_none hin hal fun _ => hue))

theorem runs_lStore (hx : exec c s = .next (s.settle (s.m.lStore i ra rb off n))) (h : s.m.issuable i [ra.val, rb.val])
    (ha : address (s.m.issuing i) ra off < 0x40000) (hn : address (s.m.issuing i) ra off % n = 0)
    (hw : n < 8 → tableGet (fun _ => false) s.m.seam.lue (32768 * i.e.val + address (s.m.issuing i) ra off / 8) = false) :
    Runs c s ((s.m.lPut i.e.val (address (s.m.issuing i) ra off) (bytesOf n ((s.m.issuing i).rd rb.val).toNat)).setStrand
      (issueKey i) (s.m.issuing i).next) :=
  runs_of _ _ _ _ hx (lStore_sampled s.m i ra rb off n h (lFault_none ha hn fun hr => hw (of_decide_eq_true hr)))

theorem runs_lAtomic {use : Nat} {f : Word64 → Word64 → Word64 → Word64}
    (hx : exec c s = .next (s.settle (s.m.lAtomic i use rd ra rb off f))) (h : s.m.issuable i [use, ra.val, rb.val])
    (ha : address (s.m.issuing i) ra off < 0x40000) (hn : address (s.m.issuing i) ra off % 8 = 0)
    (hw : tableGet (fun _ => false) s.m.seam.lue (32768 * i.e.val + address (s.m.issuing i) ra off / 8) = false) :
    let a := address (s.m.issuing i) ra off
    let old : Word64 := BitVec.ofNat 64 (s.m.lNat i.e.val a 8)
    Runs c s ((s.m.lPut i.e.val a (bytesOf 8 (f old ((s.m.issuing i).rd rd.val) ((s.m.issuing i).rd rb.val)).toNat)).setStrand
      (issueKey i) ((s.m.issuing i).wr rd.val old).next) :=
  runs_of _ _ _ _ hx (lAtomic_sampled s.m i use rd ra rb off f h (lFault_none ha hn fun _ => hw))

end

/-- Settles O4: no access that lies right in an intact word faults, and a store writes its own bytes alone. -/
theorem localAccesses : Obligations.LocalAccesses := by
  unfold Obligations.LocalAccesses
  refine ⟨fun s i rd ra off h => ?_, fun m e a n v => ⟨lNat_lPut m e a n v, fun f j ha hj hne => ?_⟩, fun s i rd ra rb off => ?_⟩
  · exact ⟨runs_lLoad (f := BitVec.ofNat 64) rfl h, runs_lLoad (f := BitVec.ofNat 64) rfl h, runs_lLoad (f := BitVec.ofNat 64) rfl h,
      runs_lLoad (f := BitVec.ofNat 64) rfl h, runs_lLoad (f := fun v => sext64 (BitVec.ofNat 8 v)) rfl h,
      runs_lLoad (f := fun v => sext64 (BitVec.ofNat 16 v)) rfl h, runs_lLoad (f := fun v => sext64 (BitVec.ofNat 32 v)) rfl h⟩
  · exact lByte_lPut_ne m (by rwa [bytesOf_length]) hj (by rwa [bytesOf_length])
  · intro x a e bad old put
    refine ⟨fun h ha => ⟨fun hb => ?_, fun hb hn => ?_, fun hb hn => ?_, fun hn => ?_⟩, fun h ha hn hb => ?_, fun h ha hn hb => ?_⟩
    · exact runs_lStore rfl h ha (Nat.mod_one a) fun _ => hb
    · exact runs_lStore rfl h ha hn fun _ => hb
    · exact runs_lStore rfl h ha hn fun _ => hb
    · exact runs_lStore rfl h ha hn fun h8 => absurd h8 (Nat.lt_irrefl 8)
    · exact runs_lAtomic (f := fun old c d => if old = c then d else old) rfl h ha hn hb
    · exact runs_lAtomic (f := fun old _ d => old + d) rfl h ha hn hb

end Sys2Proof.Machine
end

section
/-! PROOFS. H, B and R accesses issue (R73, R79, R82, R83). -/

namespace Sys2Proof.Machine

/-! ## An access that joins the outstanding ones -/

section
variable {s : State} {i : Issue} {c : Instr} {uses : List Nat} {hold : Fjoek → Strand → Option StallFor}
  {body : Nat → Strand → Fjoek → Fjoek} (hx : exec c s = .next (s.settle (s.m.issueHold i uses hold body)))
  (h : s.m.issuable i uses) (hh : hold s.m (s.m.issuing i) = none)
include hx h hh

/-- An instruction whose body starts an access: the access joins the outstanding ones of the strand. -/
theorem runs_access {n : Fjoek} {ev : Nat} {y : Strand} {a : Access}
    (hb : body (issueKey i) (s.m.issuing i) (s.m.underway i) = n.startAccess (issueKey i) ev y a)
    (hn : Sampled (s.m.underway i) n) (hy : y.fenced = false) :
    Runs c s (s.m.setStrand (issueKey i) { y.next with accs := y.accs ++ [a] }) := by
  have he : issueKey i / 8 < 64 := by rw [issueKey_div]; exact i.e.isLt
  exact runs_strand hx h hh hb (hn.trans (perf_sampled _ _ _ _ _ he)) hy

end

/-- An access of 8 bytes in the window begins in it. -/
theorem inHwin_window {m : Fjoek} {e a : Nat} (hen : m.isOn (SEAM_HWIN_en e) = true) (htop : a + 8 ≤ 2 ^ 35)
    (hlo : m.get (SEAM_HWIN_base e) * 2 ^ 20 ≤ a) (hhi : a + 8 ≤ (m.get (SEAM_HWIN_limit e) + 1) * 2 ^ 20) :
    m.inHwin e a 1 = true := by
  unfold Fjoek.inHwin
  simp only [hen, Bool.true_and, Bool.and_eq_true, decide_eq_true_eq]
  exact ⟨⟨Nat.le_trans (by omega) htop, hlo⟩, Nat.le_trans (by omega) hhi⟩

theorem inStaging_apart {m : Fjoek} {a n : Nat} (hf : ∀ b, m.seam.prot = some b → a + n ≤ b ∨ b + 0x40000 ≤ a) :
    m.inStaging a n = false := by
  unfold Fjoek.inStaging
  split
  · rfl
  · rename_i b hb
    have := hf b hb
    exact decide_eq_false (by omega)

section
variable {s : State} {i : Issue} {c : Instr} {rd ra rb : Fin 32}

theorem runs_hAccess {uses : List Nat} {off : BitVec 24} {w : Bool} {mk : Strand → Nat → Access}
    (hx : exec c s = .next (s.settle (s.m.hAccess i uses ra off w mk))) (h : s.m.issuable i (ra.val :: uses))
    (hr : (s.m.issuing i).accs.length < 8) (hin : s.m.inHwin i.e.val (address (s.m.issuing i) ra off) 1 = true)
    (hst : w = true → s.m.inStaging (address (s.m.issuing i) ra off) 8 = false) (h8 : address (s.m.issuing i) ra off % 8 = 0)
    {q : Access} (hq : mk (s.m.issuing i) (address (s.m.issuing i) ra off) = q) :
    Runs c s (s.m.setStrand (issueKey i) { (s.m.issuing i).next with accs := (s.m.issuing i).accs ++ [q] }) := by
  subst hq
  refine runs_access hx h (accsFull_room hr) (n := s.m.underway i) (ev := 0x00A) (y := s.m.issuing i) ?_ (Sampled.refl _) (issuable_fenced h rfl)
  have hfree : (w && s.m.inStaging (address (s.m.issuing i) ra off) 8) = false := by
    cases w
    · rfl
    · exact hst rfl
  simp only [underway_inHwin, underway_inStaging, hin, hfree, h8, ne_eq, not_true_eq_false, Bool.not_true, Bool.false_eq_true,
    if_false]

theorem runs_bAccess {use l : Nat} {off : BitVec 22} {mk : Strand → Nat → Nat → Access}
    (hx : exec c s = .next (s.settle (s.m.bAccess i use ra rb off mk))) (h : s.m.issuable i [use, ra.val, rb.val])
    (hr : (s.m.issuing i).accs.length < 8) (hl : s.m.leaseOf (issueKey i) ((s.m.issuing i).rd ra.val).toNat = some l)
    (ho : addressU (s.m.issuing i) rb off + 8 ≤ 256 * (s.m.leaseAt l).cells.length) (h8 : addressU (s.m.issuing i) rb off % 8 = 0)
    {q : Access} (hq : mk (s.m.issuing i) l (addressU (s.m.issuing i) rb off) = q) :
    Runs c s (s.m.setStrand (issueKey i) { (s.m.issuing i).next with accs := (s.m.issuing i).accs ++ [q] }) := by
  subst hq
  refine runs_access hx h (accsFull_room hr) (n := s.m.underway i) (ev := 0x00B) (y := s.m.issuing i) ?_ (Sampled.refl _) (issuable_fenced h rfl)
  have hcells : (s.m.underway i).leaseAt l = s.m.leaseAt l := (underway_sampled s.m i).leaseAt l
  simp only [underway_leaseOf, hl, hcells, if_neg (Nat.not_lt.2 ho), h8, ne_eq, not_true_eq_false, if_false]

theorem runs_rAccess {uses : List Nat} {off : BitVec 24} {mk : Strand → Nat → Access}
    (hx : exec c s = .next (s.settle (s.m.rAccess i uses ra off mk))) (h : s.m.issuable i (ra.val :: uses))
    (hp : s.m.isOn (SEAM_STRCTL_priv i.e.val i.s.val) = true)
    {q : Access} (hq : mk (s.m.issuing i) (addressU (s.m.issuing i) ra off) = q) :
    Runs c s (s.m.setStrand (issueKey i) { (s.m.issuing i).next with mode := .stall, accs := (s.m.issuing i).accs ++ [q] }) := by
  subst hq
  have hpriv : (!(s.m.underway i).privileged (issueKey i)) = false := by rw [underway_privileged, hp]; rfl
  refine runs_access hx h rfl (y := { s.m.issuing i with mode := .stall }) (if_neg (by rw [hpriv]; decide)) ?_ rfl
  split
  · exact (digestAt_noted _ _ _).sampled
  · exact Sampled.refl _

end

/-- Settles O5: each access passes the checks of its space, and joins the outstanding ones. -/
theorem strandAccesses : Obligations.StrandAccesses := by
  unfold Obligations.StrandAccesses
  intro s i rd ra rb off boff pe m x e a start room window free r stall o
  refine ⟨fun h hr hw => ?_, fun h hr hw hf => ?_, fun h hr hw hf => ?_, fun h hr hw hf => ?_, fun l hr hl ho h8 => ⟨fun h => ?_, fun h => ?_⟩,
    fun hp => ⟨fun h => ?_, fun h => ?_⟩⟩
  · obtain ⟨hen, htop, hlo, hhi, hal⟩ := hw
    exact runs_hAccess (w := false) rfl h hr (inHwin_window hen htop hlo hhi) (fun hf => absurd hf Bool.false_ne_true) hal rfl
  · obtain ⟨hen, htop, hlo, hhi, hal⟩ := hw
    exact runs_hAccess (w := true) rfl h hr (inHwin_window hen htop hlo hhi) (fun _ => inStaging_apart hf) hal rfl
  · obtain ⟨hen, htop, hlo, hhi, hal⟩ := hw
    exact runs_hAccess (w := true) rfl h hr (inHwin_window hen htop hlo hhi) (fun _ => inStaging_apart hf) hal rfl
  · obtain ⟨hen, htop, hlo, hhi, hal⟩ := hw
    exact runs_hAccess (w := true) rfl h hr (inHwin_window hen htop hlo hhi) (fun _ => inStaging_apart hf) hal rfl
  · exact runs_bAccess rfl h hr hl ho h8 rfl
  · exact runs_bAccess rfl h hr hl ho h8 rfl
  · exact runs_rAccess rfl h hp rfl
  · exact runs_rAccess rfl h hp rfl

end Sys2Proof.Machine
end

section
/-! PROOFS. Q and K accesses issue (R89, R277, R278). -/

namespace Sys2Proof.Machine

/-! ## What stays calm -/

/-- Nothing comes to wait for the end of a round by a change elsewhere than in the Seam that keeps the module's role. -/
theorem Kept.calm {m n : Fjoek} (hk : Kept m n) (hs : n.seam = m.seam) {e : Nat} (h : m.calm e) : n.calm e :=
  SameSeam.calm (show SameSeam m n by unfold SameSeam; rw [hs]) hk.trailing h

theorem hbmStore_seam (m : Fjoek) (a : Nat) (b : List Byte) : (m.hbmStore a b).seam = m.seam := rfl

theorem hbmWrite_seam (m : Fjoek) (a : Nat) (b : List Byte) : (m.hbmWrite a b).seam = m.seam := by
  unfold Fjoek.hbmWrite Fjoek.hbmPut
  split
  · rfl
  · split
    · exact hbmStore_seam m a b
    · rw [hbmStore_seam, hbmStore_seam]

theorem kept_loads (m : Fjoek) (n : Nat) : Kept m (m.loads n) := (kept_count _ _ _ (by decide) (by decide)).from rfl rfl

theorem kept_ctxEvict (m : Fjoek) (n : Nat) : Kept m (m.ctxEvict n) := (kept_hbmWrite m _ _).to rfl rfl

theorem kept_wanting (m : Fjoek) (n : Nat) : Kept m (m.wanting n) := by
  unfold Fjoek.wanting
  simp only
  split
  · exact Kept.of_eq rfl rfl
  · split
    · exact Kept.refl m
    · split
      · exact kept_loads m n
      · split
        · exact (kept_ctxEvict m _).trans (kept_loads _ n)
        · split
          · exact Kept.refl m
          · exact ((kept_count _ _ _ (by decide) (by decide)).trans (kept_put _ _ _ (by decide))).from rfl rfl

theorem wanting_seam (m : Fjoek) (n : Nat) : (m.wanting n).seam = m.seam := by
  unfold Fjoek.wanting
  simp only
  split
  · rfl
  · split
    · rfl
    · split
      · rfl
      · split
        · exact hbmWrite_seam m _ _
        · split <;> rfl

/-! ## The checks of a context access -/

section
variable {m : Fjoek} {i : Issue} {n : Nat}

theorem underway_ctxAddr (m : Fjoek) (i : Issue) (n : Nat) : (m.underway i).ctxAddr n = m.ctxAddr n := by
  unfold Fjoek.ctxAddr
  rw [(underway_sampled m i).get_block _ (by decide)]
  rfl

theorem underway_keyAddr (m : Fjoek) (i : Issue) (n : Nat) : (m.underway i).keyAddr n = m.keyAddr n := by
  unfold Fjoek.keyAddr
  rw [(underway_sampled m i).get_block _ (by decide)]
  rfl

/-- A context in the cache, or intact and apart from the sample rings, is not bad. -/
theorem underway_ctxBad (h : m.xport.cached.contains n = true ∨
    (m.besideRings (m.ctxAddr n) 512 ∧ (m.hbmDetect none (m.ctxAddr n) 512).1 = false)) :
    (m.underway i).ctxBad n = (false, m.underway i) := by
  have hs := underway_sampled m i
  have hx : (m.underway i).xport = m.xport := hs.xport
  unfold Fjoek.ctxBad
  rw [hx]
  split
  · rfl
  · rename_i hc
    obtain ⟨hb, hd⟩ := h.resolve_left hc
    rw [underway_ctxAddr]
    exact hs.hbmDetect none _ _ hb hd

theorem underway_keyBad (h : m.thim.cached.contains n = true ∨
    (m.besideRings (m.keyAddr n) 32 ∧ (m.hbmDetect none (m.keyAddr n) 32).1 = false)) :
    (if (m.underway i).thim.cached.contains n then (false, m.underway i) else (m.underway i).hbmDetect none ((m.underway i).keyAddr n) 32) =
      (false, m.underway i) := by
  have hs := underway_sampled m i
  have hx : (m.underway i).thim = m.thim := hs.thim
  rw [hx]
  split
  · rfl
  · rename_i hc
    obtain ⟨hb, hd⟩ := h.resolve_left hc
    rw [underway_keyAddr]
    exact hs.hbmDetect none _ _ hb hd

end

/-! ## Context accesses -/

theorem when_perf_sampled (m : Fjoek) (c : Bool) (e s ev : Nat) (b : Option (Nat × Nat × Nat)) (he : e < 64) :
    Sampled m (m.when c fun m => m.perf e s ev b) := Sampled.when c _ (perf_sampled m e s ev b he)

section
variable {s : State} {i : Issue} {c : Instr} {uses : List Nat} {hold : Fjoek → Strand → Option StallFor}
  {body : Nat → Strand → Fjoek → Fjoek} (hx : exec c s = .next (s.settle (s.m.issueHold i uses hold body)))
  (h : s.m.issuable i uses) (hh : hold s.m (s.m.issuing i) = none)
include hx h hh

/-- An instruction that wants context `n` and writes its strand. -/
theorem runs_wanting {n : Nat} {j j' : Fjoek} {y : Strand} (hj : Sampled (s.m.underway i) j) (hj' : Sampled (j.ctxReady n).2 j')
    (hb : body (issueKey i) (s.m.issuing i) (s.m.underway i) = j'.setStrand (issueKey i) y) (hy : y.fenced = false) :
    Runs c s (((s.m.setStrand (issueKey i) (s.m.issuing i)).wanting n).setStrand (issueKey i) y) := by
  have hcalm : (s.m.setStrand (issueKey i) (s.m.issuing i)).calm i.e.val := calm_setStrand _ _ _ _ (issuable_calm h) (issuable_fenced h rfl)
  refine runs_issue hx h hh (calm_setStrand _ _ _ _ ((kept_wanting _ n).calm (wanting_seam _ n) hcalm) hy) ?_
  rw [hb]
  exact ((ctxReady_sampled ((underway_sampled s.m i).trans hj) n).trans hj').setStrand _ _

theorem runs_ctxAccess {n ev : Nat} {j : Fjoek} {a : Access} (hj : Sampled (s.m.underway i) j)
    (hb : body (issueKey i) (s.m.issuing i) (s.m.underway i) = (j.ctxReady n).2.startAccess (issueKey i) ev (s.m.issuing i) a) :
    Runs c s (((s.m.setStrand (issueKey i) (s.m.issuing i)).wanting n).setStrand (issueKey i)
      { (s.m.issuing i).next with accs := (s.m.issuing i).accs ++ [a] }) := by
  have he : issueKey i / 8 < 64 := by rw [issueKey_div]; exact i.e.isLt
  exact runs_wanting hx h hh hj (perf_sampled _ _ _ ev _ he) hb (issuable_fenced h rfl)

end

section
variable {s : State} {i : Issue} {c : Instr} {rd ra rb : Fin 32}
  (hn : ((s.m.issuing i).rd ra.val).toNat < 65536)
  (hhere : s.m.xport.cached.contains ((s.m.issuing i).rd ra.val).toNat = true ∨
    (s.m.besideRings (s.m.ctxAddr ((s.m.issuing i).rd ra.val).toNat) 512 ∧
      (s.m.hbmDetect none (s.m.ctxAddr ((s.m.issuing i).rd ra.val).toNat) 512).1 = false))
include hn hhere

theorem runs_qAccess {uses : List Nat} {off : BitVec 9} {ok : Strand → Nat → Nat → Bool} {mk : Strand → Nat → Nat → Access}
    (hx : exec c s = .next (s.settle (s.m.qAccess i uses ra off ok mk))) (h : s.m.issuable i (ra.val :: uses))
    (hr : (s.m.issuing i).accs.length < 8) (h8 : off.toNat % 8 = 0)
    (hok : ok (s.m.issuing i) ((s.m.issuing i).rd ra.val).toNat (off.toNat / 8) = true)
    {q : Access} (hq : mk (s.m.issuing i) ((s.m.issuing i).rd ra.val).toNat off.toNat = q) :
    Runs c s (((s.m.setStrand (issueKey i) (s.m.issuing i)).wanting ((s.m.issuing i).rd ra.val).toNat).setStrand (issueKey i)
      { (s.m.issuing i).next with accs := (s.m.issuing i).accs ++ [q] }) := by
  subst hq
  have he : issueKey i / 8 < 64 := by rw [issueKey_div]; exact i.e.isLt
  refine runs_ctxAccess hx h (accsFull_room hr) (ev := 0x00D)
    (when_perf_sampled _ (!(s.m.underway i).xport.cached.contains ((s.m.issuing i).rd ra.val).toNat) _ (issueKey i % 8) 0x00E
      (some (issueKey i % 8, (s.m.issuing i).pc.toNat, (s.m.issuing i).gen)) he) ?_
  simp only [hok, underway_ctxBad hhere, h8, Bool.not_true, Bool.false_eq_true, or_false, if_neg (Nat.not_le.2 hn), ne_eq,
    not_true_eq_false, if_false]

theorem runs_qrate (h : s.m.issuable i [ra.val, rb.val]) (hr : (s.m.issuing i).accs.length < 8) : Runs (.qrate i ra rb) s
    (((s.m.setStrand (issueKey i) (s.m.issuing i)).wanting ((s.m.issuing i).rd ra.val).toNat).setStrand (issueKey i)
      { (s.m.issuing i).next with accs := (s.m.issuing i).accs ++ [
        { kind := .qrate, rd := 0, pe := 0, addr := ((s.m.issuing i).rd ra.val).toNat, off := 0, data := (s.m.issuing i).rd rb.val
          cmp := 0, hung := false }] }) := by
  refine runs_ctxAccess rfl h (accsFull_room hr) (ev := 0x00D) (Sampled.refl _) ?_
  simp only [underway_ctxBad hhere, Bool.false_eq_true, if_neg (Nat.not_le.2 hn), if_false]

theorem runs_qpref (h : s.m.issuable i [ra.val]) : Runs (.qpref i ra) s
    (((s.m.setStrand (issueKey i) (s.m.issuing i)).wanting ((s.m.issuing i).rd ra.val).toNat).setStrand (issueKey i)
      (s.m.issuing i).next) := by
  refine runs_wanting rfl h rfl (Sampled.refl _) (Sampled.refl _) ?_ (issuable_fenced h rfl)
  simp only [underway_ctxBad hhere, Bool.false_eq_true, if_neg (Nat.not_le.2 hn), if_false]

end

/-! ## Key entries -/

theorem Sampled.setThim {m n : Fjoek} (h : Sampled m n) (t : Thim) : Sampled (m.setThim t) (n.setThim t) := { h with thim := rfl }

theorem Sampled.happen {m n : Fjoek} (h : Sampled m n) (e k : Nat) : Sampled (m.happen e k) (n.happen e k) := { h with reg := h.reg }

/-- The load of a key entry starts alike, whatever else has been counted. -/
theorem Sampled.keyLoad {m n : Fjoek} (h : Sampled m n) (x : Nat) : Sampled (m.keyLoad x) (n.keyLoad x) := by
  have hp (y : Nat) : n.keyPinned y = m.keyPinned y := by
    unfold Fjoek.keyPinned Fjoek.keyUse Fjoek.keyState
    rw [h.thim, h.seam]
  have hbegin {m n : Fjoek} (h : Sampled m n) (t : Thim) :
      Sampled (((m.count THIM_CMISS_LO 1).happen 0x107 1).setThim t) (((n.count THIM_CMISS_LO 1).happen 0x107 1).setThim t) :=
    ((h.count THIM_CMISS_LO 1 (by decide) (by decide) (by decide)).happen _ _).setThim t
  have hthim (m : Fjoek) : ((m.count THIM_CMISS_LO 1).happen 0x107 1).thim = m.thim := rfl
  unfold Fjoek.keyLoad
  simp only [h.thim, hp, hthim]
  split
  · exact hbegin h _
  · split
    · exact hbegin (h.setThim _) _
    · exact h

theorem Sampled.keyReady {m n : Fjoek} (h : Sampled m n) (x : Nat) : Sampled (m.keyReady x).2 (n.keyReady x).2 := by
  unfold Fjoek.keyReady Fjoek.keyUsed
  rw [h.thim]
  split
  · exact h.setThim _
  · split
    · exact h
    · exact h.keyLoad x

theorem kept_keyReady (m : Fjoek) (x : Nat) : Kept m (m.keyReady x).2 := by
  have hbegin (m : Fjoek) (t : Thim) : Kept m (((m.count THIM_CMISS_LO 1).happen 0x107 1).setThim t) :=
    (kept_count m THIM_CMISS_LO 1 (by decide) (by decide)).trans (Kept.of_eq rfl rfl)
  unfold Fjoek.keyReady Fjoek.keyLoad
  split
  · exact Kept.of_eq rfl rfl
  · split
    · exact Kept.refl m
    · dsimp only
      split
      · exact hbegin m _
      · split
        · exact (hbegin (m.setThim _) _).from rfl rfl
        · exact Kept.refl m

theorem keyReady_seam (m : Fjoek) (x : Nat) : (m.keyReady x).2.seam = m.seam := by
  unfold Fjoek.keyReady Fjoek.keyLoad
  split
  · rfl
  · split
    · rfl
    · dsimp only
      split
      · rfl
      · split <;> rfl

section
variable {s : State} {i : Issue} {rd ra rb : Fin 32}

theorem runs_kld {off : BitVec 9} (h : s.m.issuable i [onlyWrites rd, ra.val]) (hr : (s.m.issuing i).accs.length < 8)
    (hn : ((s.m.issuing i).rd ra.val).toNat < 1048576) (ho : off.toNat < 32) (h8 : off.toNat % 8 = 0)
    (hb : s.m.thim.bad.contains ((s.m.issuing i).rd ra.val).toNat = false)
    (hhere : s.m.thim.cached.contains ((s.m.issuing i).rd ra.val).toNat = true ∨
      (s.m.besideRings (s.m.keyAddr ((s.m.issuing i).rd ra.val).toNat) 32 ∧
        (s.m.hbmDetect none (s.m.keyAddr ((s.m.issuing i).rd ra.val).toNat) 32).1 = false)) :
    Runs (.kld i rd ra off) s (((s.m.setStrand (issueKey i) (s.m.issuing i)).keyReady ((s.m.issuing i).rd ra.val).toNat).2.setStrand
      (issueKey i) { (s.m.issuing i).next with accs := (s.m.issuing i).accs ++ [
        { kind := .kld, rd := rd.val, pe := 0, addr := ((s.m.issuing i).rd ra.val).toNat, off := off.toNat, data := 0, cmp := 0
          hung := false }] }) := by
  have he : issueKey i / 8 < 64 := by rw [issueKey_div]; exact i.e.isLt
  have hbad : (s.m.underway i).thim.bad.contains ((s.m.issuing i).rd ra.val).toNat = false := by
    rw [(underway_sampled s.m i).thim]; exact hb
  have hcalm : (s.m.setStrand (issueKey i) (s.m.issuing i)).calm i.e.val := calm_setStrand _ _ _ _ (issuable_calm h) (issuable_fenced h rfl)
  refine runs_issue rfl h (accsFull_room hr)
    (calm_setStrand _ _ _ _ ((kept_keyReady _ _).calm (keyReady_seam _ _) hcalm) (issuable_fenced h rfl)) ?_
  simp only [underway_keyBad hhere, hbad, h8, Bool.false_eq_true, or_self, ne_eq, not_true_eq_false, if_false,
    if_neg (not_or.2 ⟨Nat.not_le.2 hn, Nat.not_le.2 ho⟩)]
  exact (((underway_sampled s.m i).keyReady _).trans (perf_sampled _ _ _ _ _ he)).setStrand _ _

theorem runs_kst {off : BitVec 9} (h : s.m.issuable i (if off.toNat < 512 then [ra.val, rb.val] else []))
    (hr : (s.m.issuing i).accs.length < 8) : Runs (.kst i ra rb off) s (s.m.faulting i 0x07) :=
  runs_fault 0x07 rfl h (accsFull_room hr) rfl

end

/-- Settles O6: each access passes its checks, and its context or key entry is wanted in its cache. -/
theorem contextAccesses : Obligations.ContextAccesses := by
  unfold Obligations.ContextAccesses
  intro s i rd ra rb off m x k n ready start here room writable
  refine ⟨fun hn hh => ⟨fun h hr ho h8 => ?_, fun h hr h8 hw => ?_, fun h hr h8 hw => ?_, runs_qrate hn hh⟩, fun hn hh => runs_qpref hn hh,
    runs_kld, runs_kst⟩
  · exact runs_qAccess hn hh rfl h hr h8 (decide_eq_true (by omega)) rfl
  · exact runs_qAccess hn hh rfl h hr h8 hw rfl
  · exact runs_qAccess hn hh rfl h hr h8 hw rfl

end Sys2Proof.Machine
end

section
/-! PROOFS. Leases and bulk issue (R81, R84, R95, R108). -/

namespace Sys2Proof.Machine

/-! ## Logged results of a module that is no trailing twin -/

theorem logged_own {m : Fjoek} {k rd v : Nat} {f : Nat → Fjoek → Fjoek} {w : Fjoek} (h : m.trailing = false) :
    m.logged k rd v f w = f v (m.logValue k rd v) := if_neg (by rw [h]; exact Bool.false_ne_true)

theorem logValue_sampled (m : Fjoek) (k rd v : Nat) : Sampled m (m.logValue k rd v) := (logTwin_noted _ _ _ _).sampled

theorem underway_trailing (m : Fjoek) (i : Issue) : (m.underway i).trailing = m.trailing := (underway_sampled m i).trailing

/-! ## A lease that is given -/

/-- Lease `j` is strand `k`'s, with `v` cells. -/
def Fjoek.leased (m : Fjoek) (k v j : Nat) : Fjoek :=
  let c := m.takeCells v
  let n := c.2.setLease j { seq := (m.leaseAt j).seq, live := true, used := true, owner := k, cells := c.1 }
  (n.put MNGL_LFREE_free (m.get MNGL_LFREE_free - v)).put MNGL_LTAB_used n.leasesUsed

theorem giveLease_refused {m : Fjoek} {k c v : Nat} (h : m.canLease k c v = false) : m.giveLease k c v = (0, m) :=
  if_pos (by rw [h]; rfl)

theorem giveLease_given {m : Fjoek} {k c v j : Nat} (h : m.canLease k c v = true)
    (hj : freeLease m (m.mngl.leases.length + 1) 0 = some j) :
    m.giveLease k c v = (2 ^ 31 + k * 2 ^ 22 + (m.leaseAt j).seq * 65536 + j, m.leased k v j) := by
  unfold Fjoek.giveLease
  rw [if_neg (by rw [h]; decide)]
  simp only [hj]
  rfl

theorem leased_setStrand (m : Fjoek) (k k' v j : Nat) (x : Strand) :
    (m.setStrand k' x).leased k v j = (m.leased k v j).setStrand k' x := rfl

theorem Sampled.leased {m n : Fjoek} (h : Sampled m n) (k v j : Nat) : Sampled (m.leased k v j) (n.leased k v j) := by
  unfold Fjoek.leased Fjoek.takeCells Fjoek.setLease Fjoek.leaseAt
  simp only [h.mngl, h.get_block MNGL_LFREE_free (by decide)]
  exact ((h.mngl' _).put _ _ (by decide) (by decide)).put _ _ (by decide) (by decide)

theorem kept_leased (m : Fjoek) (k v j : Nat) : Kept m (m.leased k v j) :=
  ((kept_put _ _ _ (by decide)).trans (kept_put _ _ _ (by decide))).from rfl rfl

section
variable {s : State} {i : Issue} {rd ra : Fin 32}

theorem doLease_own {m m0 : Fjoek} {k rd n : Nat} {x : Strand} (h : m.trailing = false) : m.doLease m0 k rd x n =
    ((m.giveLease k x.cls.toNat n).2.logValue k rd (bnat ((m.giveLease k x.cls.toNat n).1 != 0))).setStrand k
      (x.wr rd (BitVec.ofNat 64 (m.giveLease k x.cls.toNat n).1)).next := if_neg (by rw [h]; exact Bool.false_ne_true)

theorem runs_lease_refused (h : s.m.issuable i [onlyWrites rd, ra.val]) (ht : s.m.trailing = false)
    (hc : s.m.canLease (issueKey i) (s.m.issuing i).cls.toNat ((s.m.issuing i).rd ra.val).toNat = false) :
    Runs (.lease i rd ra) s (s.m.setStrand (issueKey i) ((s.m.issuing i).wr rd.val 0).next) := by
  have hs := underway_sampled s.m i
  have hgive : (s.m.underway i).giveLease (issueKey i) (s.m.issuing i).cls.toNat ((s.m.issuing i).rd ra.val).toNat =
      (0, s.m.underway i) := giveLease_refused ((hs.canLease _ _ _ (issueKey_lt i)).trans hc)
  have hbody := doLease_own (m0 := s.m) (k := issueKey i) (rd := rd.val) (n := ((s.m.issuing i).rd ra.val).toNat) (x := s.m.issuing i)
    ((underway_trailing s.m i).trans ht)
  rw [hgive] at hbody
  exact runs_strand rfl h rfl hbody (logValue_sampled _ _ _ _) (issuable_fenced h (wr_mode _ _ _))

theorem runs_lease_given (h : s.m.issuable i [onlyWrites rd, ra.val]) (ht : s.m.trailing = false)
    (hc : s.m.canLease (issueKey i) (s.m.issuing i).cls.toNat ((s.m.issuing i).rd ra.val).toNat = true) {j : Nat}
    (hj : freeLease s.m (s.m.mngl.leases.length + 1) 0 = some j) :
    Runs (.lease i rd ra) s ((s.m.leased (issueKey i) ((s.m.issuing i).rd ra.val).toNat j).setStrand (issueKey i)
      ((s.m.issuing i).wr rd.val (BitVec.ofNat 64 (2 ^ 31 + issueKey i * 2 ^ 22 + (s.m.leaseAt j).seq * 65536 + j))).next) := by
  have hs := underway_sampled s.m i
  have hfree : freeLease (s.m.underway i) ((s.m.underway i).mngl.leases.length + 1) 0 = some j := by
    rw [freeLease_congr (m := s.m) hs.mngl, hs.mngl]
    exact hj
  have hgive := giveLease_given (k := issueKey i) ((hs.canLease _ (s.m.issuing i).cls.toNat ((s.m.issuing i).rd ra.val).toNat
    (issueKey_lt i)).trans hc) hfree
  have hbody := doLease_own (m0 := s.m) (k := issueKey i) (rd := rd.val) (n := ((s.m.issuing i).rd ra.val).toNat) (x := s.m.issuing i)
    ((underway_trailing s.m i).trans ht)
  rw [hgive, hs.leaseAt] at hbody
  have hleased := hs.leased (issueKey i) ((s.m.issuing i).rd ra.val).toNat j
  rw [leased_setStrand] at hleased
  exact runs_beside rfl h rfl hbody (hleased.trans (logValue_sampled _ _ _ _)) ((kept_leased _ _ _ _).calm rfl (issuable_calm h))
    (issuable_fenced h (wr_mode _ _ _))

theorem runs_lsize (h : s.m.issuable i [onlyWrites rd, ra.val]) {l : Nat}
    (hl : s.m.leaseOf (issueKey i) ((s.m.issuing i).rd ra.val).toNat = some l) : Runs (.lsize i rd ra) s
      (s.m.setStrand (issueKey i) ((s.m.issuing i).wr rd.val (BitVec.ofNat 64 (s.m.leaseAt l).cells.length)).next) := by
  refine runs_strand rfl h rfl ?_ (Sampled.refl (s.m.underway i)) (issuable_fenced h (wr_mode _ _ _))
  simp only [underway_leaseOf, hl, (underway_sampled s.m i).leaseAt]
  rfl

end

/-! ## A lease that is released -/

/-- A descriptor that holds its leases names lease `l`. -/
def Fjoek.leaseNamed (m : Fjoek) (l : Nat) : Bool := m.mngl.descs.any fun d => d.holds && d.handles.any fun h => h % 65536 == l

/-- Lease `l` is released; its cells stay with it. -/
def Fjoek.leaseOff (m : Fjoek) (l : Nat) : Fjoek := m.setLease l { m.leaseAt l with live := false }

/-- The cells of lease `l`, whose entry is not in use any more, are free again. -/
def Fjoek.cellsBack (m : Fjoek) (l : Nat) (cells : List Nat) : Fjoek :=
  let back : Fjoek := { m with mngl := { m.mngl with
    freed := cells ++ m.mngl.freed
    prints := m.mngl.prints.filter fun p => p.1 / 1024 != l } }
  (back.put MNGL_LFREE_free (m.get MNGL_LFREE_free + cells.length)).put MNGL_LTAB_used back.leasesUsed

/-- Lease `l` is released, and its cells are free again. -/
def Fjoek.leaseGone (m : Fjoek) (l : Nat) : Fjoek :=
  let q := m.leaseAt l
  (m.setLease l { q with live := false, seq := (q.seq + 1) % 64, used := false, cells := [] }).cellsBack l q.cells

theorem leaseAt_setLease (m : Fjoek) (l : Nat) (q : Lease) : (m.setLease l q).leaseAt l = q := tableGet_set_same _ _ _ _

theorem setLease_setLease (m : Fjoek) (l : Nat) {p : Lease} (q : Lease) (h : p.used = true) :
    (m.setLease l p).setLease l q = m.setLease l q := by
  have hp : p ≠ leaseReset l := fun he => by rw [he] at h; cases h
  unfold Fjoek.setLease
  simp only [tableSet_set leaseReset _ _ _ _ hp]

section
variable {m : Fjoek} {l : Nat}

theorem releaseLease_named (h : m.leaseNamed l = true) : m.releaseLease l = m.leaseOff l := by
  unfold Fjoek.releaseLease Fjoek.settleLease
  refine if_neg ?_
  rintro ⟨-, -, hn⟩
  rw [Bool.not_eq_true'] at hn
  exact Bool.false_ne_true (hn.symm.trans h)

theorem settleLease_back (hl : (m.leaseAt l).live = false) (hu : (m.leaseAt l).used = true) (hn : m.leaseNamed l = false) :
    m.settleLease l = (m.setLease l { m.leaseAt l with seq := ((m.leaseAt l).seq + 1) % 64, used := false, cells := [] }).cellsBack l
      (m.leaseAt l).cells := by
  refine if_pos ⟨hu, by rw [hl]; decide, ?_⟩
  rw [Bool.not_eq_true']
  exact hn

theorem releaseLease_unnamed (h : m.leaseNamed l = false) (hu : (m.leaseAt l).used = true) : m.releaseLease l = m.leaseGone l := by
  have hoff : (m.leaseOff l).leaseAt l = { m.leaseAt l with live := false } := leaseAt_setLease m l _
  have hback := settleLease_back (m := m.leaseOff l) (l := l) (by rw [hoff]) (by rw [hoff]; exact hu) h
  rw [hoff] at hback
  exact hback.trans (congrArg (fun n => n.cellsBack l (m.leaseAt l).cells) (setLease_setLease m l (p := { m.leaseAt l with live := false }) _ hu))

end

theorem Sampled.leaseNamed {m n : Fjoek} (h : Sampled m n) (l : Nat) : n.leaseNamed l = m.leaseNamed l := by
  unfold Fjoek.leaseNamed
  rw [h.mngl]

theorem Sampled.setLease {m n : Fjoek} (h : Sampled m n) (l : Nat) (q : Lease) : Sampled (m.setLease l q) (n.setLease l q) := by
  unfold Fjoek.setLease
  rw [h.mngl]
  exact h.mngl' _

theorem Sampled.cellsBack {m n : Fjoek} (h : Sampled m n) (l : Nat) (cells : List Nat) :
    Sampled (m.cellsBack l cells) (n.cellsBack l cells) := by
  unfold Fjoek.cellsBack
  simp only [h.mngl, h.get_block MNGL_LFREE_free (by decide)]
  exact ((h.mngl' _).put _ _ (by decide) (by decide)).put _ _ (by decide) (by decide)

theorem Sampled.leaseOff {m n : Fjoek} (h : Sampled m n) (l : Nat) : Sampled (m.leaseOff l) (n.leaseOff l) := by
  unfold Fjoek.leaseOff
  rw [h.leaseAt]
  exact h.setLease _ _

theorem Sampled.leaseGone {m n : Fjoek} (h : Sampled m n) (l : Nat) : Sampled (m.leaseGone l) (n.leaseGone l) := by
  unfold Fjoek.leaseGone
  rw [h.leaseAt]
  exact (h.setLease _ _).cellsBack _ _

theorem kept_leaseGone (m : Fjoek) (l : Nat) : Kept m (m.leaseGone l) :=
  ((kept_put _ _ _ (by decide)).trans (kept_put _ _ _ (by decide))).from rfl rfl

/-- A group with a strand that is READY is not drained. -/
theorem settleGroup_ready {m : Fjoek} {k : Nat} (h : (m.strand k).mode = .ready) :
    m.settleGroup (k / 32) = m.put (SEAM_GSTAT_drained (k / 32)) 0 := by
  have hk : 32 * (k / 32) + k % 32 = k := Nat.div_add_mod k 32
  have hd : m.groupDrained (k / 32) = false := by
    unfold Fjoek.groupDrained
    rw [List.all_eq_false]
    refine ⟨k % 32, List.mem_range.2 (Nat.mod_lt _ (by decide)), ?_⟩
    rw [hk]
    unfold Fjoek.drained
    simp only [h]
    decide
  unfold Fjoek.settleGroup
  rw [hd]
  rfl

section
variable {s : State} {i : Issue} {ra : Fin 32}

theorem runs_lrel (h : s.m.issuable i [ra.val]) {l : Nat}
    (hl : s.m.leaseOf (issueKey i) ((s.m.issuing i).rd ra.val).toNat = some l) {G : Fjoek} (hk : Kept s.m G) (hseam : G.seam = s.m.seam)
    (hG : Sampled (G.setStrand (issueKey i) (s.m.issuing i)) ((s.m.underway i).releaseLease l)) : Runs (.lrel i ra) s
      ((G.setStrand (issueKey i) (s.m.issuing i).next).put (SEAM_GSTAT_drained (issueKey i / 32)) 0) := by
  have hlt := issueKey_lt i
  have haddr : besideRole (SEAM_GSTAT_drained (issueKey i / 32)).addr := by
    unfold besideRole
    simp only [SEAM_GSTAT_drained, SEAM_CTL]
    omega
  have hready : (s.m.issuing i).next.mode = .ready := canIssue_mode s.m _ h.1
  refine runs_issue rfl h rfl
    (calm_put _ _ _ _ haddr (calm_setStrand _ _ _ _ (hk.calm hseam (issuable_calm h)) (issuable_fenced h rfl))) ?_
  simp only [underway_leaseOf, hl]
  rw [settleGroup_ready (by rw [strand_setStrand]; exact hready)]
  have hblock : 0x100000 ≤ (SEAM_GSTAT_drained (issueKey i / 32)).addr ∧ (SEAM_GSTAT_drained (issueKey i / 32)).addr < 0x300000 := by
    obtain ⟨hlo, hhi, -⟩ := haddr
    omega
  exact (end_strand i h.1 G _ _ hG).put _ _ (noting_seam _ hblock) (by omega)

end

/-- Settles O7: a lease is given or refused, and released with its cells or without them. -/
theorem leaseInstructions : Obligations.LeaseInstructions := by
  unfold Obligations.LeaseInstructions
  intro s i rd ra m x k v
  refine ⟨runs_lease_refused, fun h ht hc j hj => runs_lease_given h ht hc hj, fun h l hl => runs_lsize h hl, fun h l hl => ?_⟩
  intro named q off gone back free hu
  have hs := underway_sampled m i
  refine ⟨fun hn => ?_, fun hn => ?_⟩
  · refine runs_lrel h hl (G := m.leaseOff l) (Kept.of_eq rfl rfl) rfl ?_
    rw [releaseLease_named ((hs.leaseNamed l).trans hn)]
    exact hs.leaseOff l
  · refine runs_lrel h hl (G := m.leaseGone l) (kept_leaseGone m l) rfl ?_
    rw [releaseLease_unnamed ((hs.leaseNamed l).trans hn) (by rw [hs.leaseAt]; exact hu)]
    exact hs.leaseGone l

end Sys2Proof.Machine
end

section
/-! PROOFS. Bulk issue (R84, R108). -/

namespace Sys2Proof.Machine

/-- A descriptor that lies right in intact words and names the strand's own leases has no fault. -/
theorem bulkFault_none {m : Fjoek} {k a : Nat} {x : Strand} (ha : a < 0x40000) (h64 : a % 64 = 0)
    (hh : m.handlesOk k (m.descFrom k x a) = true)
    (hw : ∀ j < 8, tableGet (fun _ => false) m.seam.lue (32768 * (k / 8) + a / 8 + j) = false) : m.bulkFault k x a = none := by
  unfold Fjoek.bulkFault
  rw [hh]
  refine (if_neg (Nat.not_le.2 ha)).trans ((if_neg (fun h => Bool.false_ne_true h.2)).trans ((if_neg (not_not.2 h64)).trans (if_neg ?_)))
  rw [List.any_eq_true]
  rintro ⟨j, hj, hu⟩
  exact Bool.false_ne_true ((hw j (List.mem_range.1 hj)).symm.trans hu)

theorem Sampled.descFrom {m n : Fjoek} (h : Sampled m n) (k : Nat) (x : Strand) (a : Nat) : n.descFrom k x a = m.descFrom k x a := by
  unfold Fjoek.descFrom
  simp only [h.mngl, h.lNat]

theorem Sampled.queueFree {m n : Fjoek} (h : Sampled m n) (g : Nat) : n.queueFree g = m.queueFree g := by
  unfold Fjoek.queueFree Fjoek.clusterDescs
  rw [h.mngl]

theorem Sampled.queueDesc {m n : Fjoek} (h : Sampled m n) (d : Desc) : Sampled (m.queueDesc d) (n.queueDesc d) := by
  unfold Fjoek.queueDesc
  rw [h.mngl]
  exact h.mngl' _

section
variable {s : State} {i : Issue} {rd ra : Fin 32}

theorem underway_queueFree (m : Fjoek) (i : Issue) (g : Nat) : (m.underway i).queueFree g = m.queueFree g :=
  (underway_sampled m i).queueFree g

/-- An instruction whose body queues a descriptor. -/
theorem runs_bulkQueue {c : Instr} {uses : List Nat} {hold : Fjoek → Strand → Option StallFor} {body : Nat → Strand → Fjoek → Fjoek}
    (hx : exec c s = .next (s.settle (s.m.issueHold i uses hold body))) (h : s.m.issuable i uses)
    (hh : hold s.m (s.m.issuing i) = none) {a : Nat} {y : Strand} {n : Fjoek}
    (hb : body (issueKey i) (s.m.issuing i) (s.m.underway i) = n.bulkQueue (issueKey i) (s.m.issuing i) a y)
    (hn : Sampled (s.m.underway i) n) (hy : y.mode = (s.m.issuing i).mode) :
    Runs c s ((s.m.queueDesc (s.m.descFrom (issueKey i) (s.m.issuing i) a)).setStrand (issueKey i) y) := by
  have he : issueKey i / 8 < 64 := by rw [issueKey_div]; exact i.e.isLt
  have hs := (underway_sampled s.m i).trans hn
  have hd : n.descFrom (issueKey i) (s.m.issuing i) a = s.m.descFrom (issueKey i) (s.m.issuing i) a := hs.descFrom _ _ _
  unfold Fjoek.bulkQueue at hb
  rw [hd] at hb
  exact runs_beside hx h hh hb ((hs.trans (perf_sampled _ _ _ _ _ he)).queueDesc _) (issuable_calm h) (issuable_fenced h hy)

section
variable (hf : s.m.bulkFault (issueKey i) (s.m.issuing i) ((s.m.issuing i).rd ra.val).toNat = none)
include hf

theorem runs_bulk (h : s.m.issuable i [ra.val]) (hq : s.m.queueFree (i.e.val / 4) ≠ 0) : Runs (.bulk i ra) s
    ((s.m.queueDesc (s.m.descFrom (issueKey i) (s.m.issuing i) ((s.m.issuing i).rd ra.val).toNat)).setStrand (issueKey i)
      (s.m.issuing i).next) := by
  refine runs_bulkQueue rfl h (if_neg hq) (n := s.m.underway i) ?_ (Sampled.refl _) rfl
  simp only [underway_bulkFault, hf]

theorem runs_tbulk_full (h : s.m.issuable i [onlyWrites rd, ra.val]) (ht : s.m.trailing = false)
    (hq : s.m.queueFree (i.e.val / 4) = 0) :
    Runs (.tbulk i rd ra) s (s.m.setStrand (issueKey i) ((s.m.issuing i).wr rd.val 0).next) := by
  refine runs_strand rfl h rfl ?_ (logValue_sampled _ (issueKey i) rd.val 0) (issuable_fenced h (wr_mode _ _ _))
  simp only [underway_bulkFault, hf, underway_queueFree, hq, logged_own ((underway_trailing s.m i).trans ht)]
  rfl

theorem runs_tbulk_room (h : s.m.issuable i [onlyWrites rd, ra.val]) (ht : s.m.trailing = false)
    (hq : s.m.queueFree (i.e.val / 4) ≠ 0) : Runs (.tbulk i rd ra) s
      ((s.m.queueDesc (s.m.descFrom (issueKey i) (s.m.issuing i) ((s.m.issuing i).rd ra.val).toNat)).setStrand (issueKey i)
        ((s.m.issuing i).wr rd.val 1).next) := by
  refine runs_bulkQueue rfl h rfl ?_ (logValue_sampled _ (issueKey i) rd.val 1) (wr_mode _ _ _)
  simp only [underway_bulkFault, hf, underway_queueFree, bne_iff_ne.2 hq, logged_own ((underway_trailing s.m i).trans ht)]
  rfl

end

theorem runs_bqfree (h : s.m.issuable i [onlyWrites rd]) (ht : s.m.trailing = false) : Runs (.bqfree i rd) s
    (s.m.setStrand (issueKey i) ((s.m.issuing i).wr rd.val (BitVec.ofNat 64 (s.m.queueFree (i.e.val / 4)))).next) := by
  rw [← underway_queueFree s.m i]
  exact runs_strand rfl h rfl (logged_own ((underway_trailing s.m i).trans ht)) (logValue_sampled _ _ _ _)
    (issuable_fenced h (wr_mode _ _ _))

end

/-- Settles O8: a right descriptor has no fault, and is queued where the queue has room. -/
theorem bulkIssue : Obligations.BulkIssue := by
  unfold Obligations.BulkIssue
  intro s i rd ra m x k e a d right free queued
  have hnone : right → m.bulkFault k x a = none := by
    rintro ⟨ha, h64, hh, hw⟩
    refine bulkFault_none ha h64 hh ?_
    rw [issueKey_div]
    exact hw
  exact ⟨fun h hq hr => runs_bulk (hnone hr) h hq, fun h ht hr =>
    ⟨runs_tbulk_full (hnone hr) h ht, runs_tbulk_room (hnone hr) h ht⟩, runs_bqfree⟩

end Sys2Proof.Machine
end

section
/-! PROOFS. Draws, refunds and classes (R87, R449, R450). -/

namespace Sys2Proof.Machine

/-! ## Buckets beside what counts and samples change -/

theorem Sampled.level {m n : Fjoek} (h : Sampled m n) (c : Nat) : n.level c = m.level c := by
  unfold Fjoek.level
  rw [h.damp]

theorem Sampled.draws {m n : Fjoek} (h : Sampled m n) (c : Nat) : n.draws c = m.draws c := by
  unfold Fjoek.draws
  rw [h.damp]

theorem Sampled.depth {m n : Fjoek} (h : Sampled m n) {c : Nat} (hc : c < 8) : n.depth c = m.depth c := by
  have hnote : noting (DAMP_DEPTH_depth c).addr = false := by
    revert c
    decide
  unfold Fjoek.depth
  rw [h.get _ hnote (by simp only [DAMP_DEPTH_depth]; omega)]

theorem Sampled.setLevel {m n : Fjoek} (h : Sampled m n) (c : Nat) (v : Int) : Sampled (m.setLevel c v) (n.setLevel c v) := by
  unfold Fjoek.setLevel
  rw [h.damp]
  exact h.damp' _

theorem Sampled.setDraws {m n : Fjoek} (h : Sampled m n) (c : Nat) (l : List Draw) : Sampled (m.setDraws c l) (n.setDraws c l) := by
  unfold Fjoek.setDraws
  rw [h.damp]
  exact h.damp' _

theorem Sampled.canTake {m n : Fjoek} (h : Sampled m n) {c : Nat} (hc : c < 8) (v : Nat) : n.canTake c v = m.canTake c v := by
  unfold Fjoek.canTake
  rw [h.level, h.depth hc]

theorem setLevel_setStrand (m : Fjoek) (k c : Nat) (x : Strand) (v : Int) :
    (m.setStrand k x).setLevel c v = (m.setLevel c v).setStrand k x := rfl

theorem level_setLevel {m : Fjoek} {c : Nat} {v : Int} (hv : -1048575 ≤ v) : (m.setLevel c v).level c = v := by
  unfold Fjoek.setLevel Fjoek.level
  rw [if_neg (by omega)]
  exact tableGet_set_same _ _ _ _

/-! ## Tokens taken -/

/-- `v` tokens count as spent (R447). -/
def Fjoek.spending (m : Fjoek) (v : Nat) : Fjoek :=
  { m.count DAMP_SPENT_LO v with damp := { m.damp with spent := m.damp.spent + v } }

/-- `v` tokens of class `c` are taken from its bucket. -/
def Fjoek.drawn (m : Fjoek) (c v : Nat) : Fjoek := (m.spending v).setLevel c (m.level c - v)

/-- `v` tokens of C2 are taken, and owed (R450). -/
def Fjoek.owing (m : Fjoek) (v : Nat) : Fjoek :=
  let debt := Nat.min (m.damp.debt + v) 16777215
  let owed : Fjoek := { m.spending v with damp := { (m.spending v).damp with debt := debt } }
  (owed.count DAMP_C2USE_LO v).put DAMP_DEBT_debt debt

theorem owing_setStrand (m : Fjoek) (k v : Nat) (x : Strand) : (m.setStrand k x).owing v = (m.owing v).setStrand k x := rfl

theorem Sampled.spend {m n : Fjoek} (h : Sampled m n) (v : Nat) : Sampled (m.spending v) (n.spend v) := by
  unfold Fjoek.spend
  rw [h.damp]
  exact ((h.damp' { m.damp with spent := m.damp.spent + v }).count DAMP_SPENT_LO v (by decide) (by decide) (by decide)).trans
    (noted_happen _ _ _).sampled

theorem Sampled.take_level {m n : Fjoek} (h : Sampled m n) {c : Nat} (hc : c ≠ 2) (v : Nat) : Sampled (m.drawn c v) (n.take c v) := by
  unfold Fjoek.take
  rw [if_neg hc, h.level]
  exact (h.setLevel c (m.level c - v)).spend v

theorem Sampled.take_c2 {m n : Fjoek} (h : Sampled m n) {v : Nat} (hon : m.isOn DAMP_CTL_en = true) (hd : m.damp.debt + v < 16777215) :
    Sampled (m.owing v) (n.take 2 v) := by
  have hspent := (h.spend v).count DAMP_C2USE_LO v (by decide) (by decide) (by decide)
  have hon' : ((n.spend v).count DAMP_C2USE_LO v).isOn DAMP_CTL_en = true := by
    rw [hspent.isOn _ (by decide) (by decide), Fjoek.isOn_count_ne _ _ _ _ (by decide) (by decide)]
    exact (Fjoek.isOn_count_ne m _ _ _ (by decide) (by decide)).trans hon
  have hdamp : ((n.spend v).count DAMP_C2USE_LO v).damp = { m.damp with spent := m.damp.spent + v } := hspent.damp
  have htake : n.take 2 v = ((n.spend v).count DAMP_C2USE_LO v).addDebt v := by
    unfold Fjoek.take Fjoek.when
    rw [if_pos rfl]
    simp only [hon', if_true]
  unfold Fjoek.addDebt at htake
  simp only [hdamp, decide_eq_false (Nat.not_le.2 hd)] at htake
  rw [htake]
  exact (hspent.damp' _).put DAMP_DEBT_debt _ (by decide) (by decide)

theorem kept_spending (m : Fjoek) (v : Nat) : Kept m (m.spending v) :=
  (kept_count m DAMP_SPENT_LO v (by decide) (by decide)).trans (Kept.of_eq rfl rfl)

theorem kept_drawn (m : Fjoek) (c v : Nat) : Kept m (m.drawn c v) := (kept_spending m v).trans (Kept.of_eq rfl rfl)

theorem kept_owing (m : Fjoek) (v : Nat) : Kept m (m.owing v) := by
  have hcount (m : Fjoek) : Kept m (m.count DAMP_C2USE_LO v) := kept_count m _ v (by decide) (by decide)
  exact (kept_spending m v).trans (Kept.from ((hcount _).trans (kept_put _ _ _ (by decide))) rfl rfl)

/-! ## Requests -/

section
variable {m : Fjoek} {c n : Nat}

/-- The rules of a class grant `n` tokens at once (R449). -/
def Fjoek.grants (m : Fjoek) (c n : Nat) : Bool := m.canTake c n && (c == 2 || m.draws c == [])

theorem grants_c2 : m.grants 2 n = true := by
  unfold Fjoek.grants Fjoek.canTake
  simp

theorem grants_iff (hn : n ≠ 0) (hc : c ≠ 2) :
    m.grants c n = true ↔ m.draws c = [] ∧ ((Nat.min n (m.depth c) : Nat) : Int) ≤ m.level c := by
  unfold Fjoek.grants Fjoek.canTake
  simp [hn, hc, and_comm]

theorem request_zero (who : Drawer) (hn : n = 0) : m.request c n who = (true, m) := if_pos hn

theorem request_granted (who : Drawer) (hn : n ≠ 0) (ht : m.trailing = false) (hg : m.grants c n = true) :
    m.request c n who = (true, m.take c n) := by
  unfold Fjoek.request
  rw [if_neg hn, ht, Bool.not_false, Bool.true_and]
  exact if_pos hg

theorem request_queued (who : Drawer) (hn : n ≠ 0) (hg : m.grants c n = false) :
    m.request c n who = (false, m.setDraws c (m.draws c ++ [⟨who, n⟩])) := by
  unfold Fjoek.request
  refine (if_neg hn).trans (if_neg ?_)
  rw [Bool.and_assoc, show (m.canTake c n && _) = false from hg, Bool.and_false]
  decide

theorem tryTake_zero (hn : n = 0) : m.tryTake c n = (true, m) := if_pos hn

theorem tryTake_granted (hn : n ≠ 0) (hg : m.grants c n = true) : m.tryTake c n = (true, m.take c n) :=
  (if_neg hn).trans (if_pos hg)

theorem tryTake_refused (hn : n ≠ 0) (hg : m.grants c n = false) : m.tryTake c n = (false, m) :=
  (if_neg hn).trans (if_neg (by rw [show (m.canTake c n && _) = false from hg]; decide))

end

/-! ## Draws -/

/-- The module as a draw makes its request: the draw is counted. -/
def Fjoek.drawing (m : Fjoek) (i : Issue) : Fjoek :=
  (m.underway i).perf i.e.val i.s.val 0x013 (some (i.s.val, (m.issuing i).pc.toNat, (m.issuing i).gen))

theorem drawing_sampled (m : Fjoek) (i : Issue) : Sampled (m.setStrand (issueKey i) (m.issuing i)) (m.drawing i) :=
  (underway_sampled m i).trans (perf_sampled _ _ _ _ _ i.e.isLt)

section
variable {s : State} {i : Issue} {rd ra : Fin 32} {G t : Fjoek} (hk : Kept s.m G) (hseam : G.seam = s.m.seam)
  (hG : Sampled (G.setStrand (issueKey i) (s.m.issuing i)) t)
include hk hseam hG

theorem runs_draw_served (h : s.m.issuable i [onlyWrites 0, ra.val])
    (hr : (s.m.drawing i).request (s.m.issuing i).cls.toNat (((s.m.issuing i).rd ra.val).toNat % 2 ^ 20) (.strand (issueKey i)) = (true, t)) :
    Runs (.draw i 0 ra false) s (G.setStrand (issueKey i) (s.m.issuing i).next) := by
  refine runs_issue rfl h rfl (calm_setStrand _ _ _ _ (hk.calm hseam (issuable_calm h)) (issuable_fenced h rfl)) ?_
  unfold Fjoek.drawing at hr
  simp only [hr, Bool.false_eq_true, if_false, if_true]
  split
  · exact end_strand i h.1 G _ _ hG
  · exact end_strand i h.1 G _ _ (hG.trans (logTwin_noted _ _ _ _).sampled)

theorem runs_draw_waits (h : s.m.issuable i [onlyWrites 0, ra.val])
    (hr : (s.m.drawing i).request (s.m.issuing i).cls.toNat (((s.m.issuing i).rd ra.val).toNat % 2 ^ 20) (.strand (issueKey i)) = (false, t)) :
    Runs (.draw i 0 ra false) s (G.setStrand (issueKey i) { (s.m.issuing i).next with mode := .wait, waitFor := .tokens }) := by
  refine runs_issue rfl h rfl (calm_setStrand _ _ _ _ (hk.calm hseam (issuable_calm h)) rfl) ?_
  unfold Fjoek.drawing at hr
  simp only [hr, Bool.false_eq_true, if_false]
  exact end_strand i h.1 G _ _ (hG.trans (perf_sampled _ _ _ _ _ i.e.isLt))

theorem runs_draw_try {b : Bool} (ht : s.m.trailing = false) (h : s.m.issuable i [onlyWrites rd, ra.val])
    (hr : (s.m.drawing i).tryTake (s.m.issuing i).cls.toNat (((s.m.issuing i).rd ra.val).toNat % 2 ^ 20) = (b, t)) :
    Runs (.draw i rd ra true) s (G.setStrand (issueKey i) ((s.m.issuing i).wr rd.val (BitVec.ofNat 64 (bnat b))).next) := by
  have ht' : (s.m.drawing i).trailing = false := (drawing_sampled s.m i).trailing.trans ht
  refine runs_issue rfl h rfl (calm_setStrand _ _ _ _ (hk.calm hseam (issuable_calm h)) (issuable_fenced h (wr_mode _ _ _))) ?_
  unfold Fjoek.drawing at hr ht'
  simp only [hr, ht', Bool.false_eq_true, if_false, if_true]
  exact end_strand i h.1 G _ _ (hG.trans (logValue_sampled _ _ _ _))

end

theorem drawing_grants (m : Fjoek) (i : Issue) {c : Nat} (hc : c < 8) (n : Nat) : (m.drawing i).grants c n = m.grants c n := by
  have hs := drawing_sampled m i
  unfold Fjoek.grants
  rw [hs.canTake hc, hs.draws]
  rfl

theorem drawing_drawn (m : Fjoek) (i : Issue) {c : Nat} (hc : c ≠ 2) (n : Nat) :
    Sampled ((m.drawn c n).setStrand (issueKey i) (m.issuing i)) ((m.drawing i).take c n) := (drawing_sampled m i).take_level hc n

theorem drawing_owing (m : Fjoek) (i : Issue) {c n : Nat} (hc : c = 2) (hon : m.isOn DAMP_CTL_en = true) (hd : m.damp.debt + n < 16777215) :
    Sampled ((m.owing n).setStrand (issueKey i) (m.issuing i)) ((m.drawing i).take c n) := by
  subst hc
  rw [← owing_setStrand]
  exact (drawing_sampled m i).take_c2 hon hd

theorem drawing_queued (m : Fjoek) (i : Issue) (c : Nat) (l : List Draw) :
    Sampled ((m.setDraws c (m.draws c ++ l)).setStrand (issueKey i) (m.issuing i))
      ((m.drawing i).setDraws c ((m.drawing i).draws c ++ l)) := by
  rw [(drawing_sampled m i).draws]
  exact (drawing_sampled m i).setDraws c _

/-! ## Refunds and classes -/

theorem serve_nil {m : Fjoek} {c : Nat} (h : m.draws c = []) : m.serve c = m := by
  unfold Fjoek.serve
  rw [h]
  split <;> rfl

/-- `n` tokens no longer count as spent. -/
def Fjoek.unspend (m : Fjoek) (n : Nat) : Fjoek := { m with damp := { m.damp with spent := m.damp.spent - n } }

theorem unspend_setStrand (m : Fjoek) (k n : Nat) (x : Strand) : (m.setStrand k x).unspend n = (m.unspend n).setStrand k x := rfl

theorem Sampled.unspend {m n : Fjoek} (h : Sampled m n) (v : Nat) : Sampled (m.unspend v) (n.unspend v) := by
  unfold Fjoek.unspend
  rw [h.damp]
  exact h.damp' _

theorem refundTokens_level {m : Fjoek} {c n : Nat} (hc : c ≠ 2) (hd : m.draws c = []) (hl : -1048575 ≤ m.level c) :
    m.refundTokens c n = ((m.unspend n).setLevel c (m.level c + n)).setLevel c
      (if (m.depth c : Int) < m.level c + n then (m.depth c : Int) else m.level c + n) := by
  have hup : ((m.unspend n).setLevel c (m.level c + n)).level c = m.level c + n := level_setLevel (by omega)
  have hserve : ((m.unspend n).setLevel c (m.level c + n)).serve c = (m.unspend n).setLevel c (m.level c + n) := serve_nil hd
  have hdef : m.refundTokens c n = (((m.unspend n).setLevel c (m.level c + n)).serve c).setLevel c
      (if (((m.unspend n).setLevel c (m.level c + n)).serve c).depth c < (((m.unspend n).setLevel c (m.level c + n)).serve c).level c
        then (((m.unspend n).setLevel c (m.level c + n)).serve c).depth c
        else (((m.unspend n).setLevel c (m.level c + n)).serve c).level c) := if_neg hc
  rw [hdef, hserve, hup]
  rfl

section
variable {s : State} {i : Issue} {ra : Fin 32}

theorem runs_refund_level (h : s.m.issuable i [ra.val]) {c n : Nat} (hcls : (s.m.issuing i).cls.toNat = c)
    (hn : ((s.m.issuing i).rd ra.val).toNat % 2 ^ 20 = n) (hc : c ≠ 2) (hd : s.m.draws c = []) (hl : s.m.level c ≥ -1048575) :
    Runs (.refund i ra) s ((((s.m.unspend n).setLevel c (s.m.level c + n)).setLevel c
      (if (s.m.depth c : Int) < s.m.level c + n then (s.m.depth c : Int) else s.m.level c + n)).setStrand (issueKey i)
        (s.m.issuing i).next) := by
  have hs := end_strand i h.1 s.m (s.m.issuing i).next _ (underway_sampled s.m i)
  have hlt : c < 8 := hcls ▸ (s.m.issuing i).cls.isLt
  have hup := ((hs.unspend n).setLevel c (s.m.level c + n)).setLevel c
    (if (s.m.depth c : Int) < s.m.level c + n then (s.m.depth c : Int) else s.m.level c + n)
  rw [unspend_setStrand, setLevel_setStrand, setLevel_setStrand] at hup
  refine runs_issue rfl h rfl (calm_setStrand _ _ _ _ ((Kept.of_eq (m := s.m) rfl rfl).calm rfl (issuable_calm h)) (issuable_fenced h rfl)) ?_
  simp only [hcls, hn]
  rw [refundTokens_level hc ((hs.draws c).trans hd) ((hs.level c).symm ▸ hl), hs.level, hs.depth hlt]
  exact hup

theorem runs_refund_debt (h : s.m.issuable i [ra.val]) {n : Nat} (hcls : (s.m.issuing i).cls.toNat = 2)
    (hn : ((s.m.issuing i).rd ra.val).toNat % 2 ^ 20 = n) : Runs (.refund i ra) s
      ((Fjoek.setStrand { s.m with damp := { s.m.damp with spent := s.m.damp.spent - n, debt := s.m.damp.debt - n } } (issueKey i)
        (s.m.issuing i).next).put DAMP_DEBT_debt (s.m.damp.debt - n)) := by
  have hs := end_strand i h.1 s.m (s.m.issuing i).next _ (underway_sampled s.m i)
  refine runs_issue rfl h rfl (Kept.calm (kept_put _ _ _ (by decide)) rfl (calm_setStrand _ _ _ _
    ((Kept.of_eq (m := s.m) rfl rfl).calm rfl (issuable_calm h)) (issuable_fenced h rfl))) ?_
  unfold Fjoek.refundTokens
  simp only [hcls, hn, if_true]
  rw [hs.damp]
  exact (hs.damp' _).put _ _ (by decide) (by decide)

theorem runs_class {c : Instr} {uses : List Nat} {v : Strand → Nat} {w : BitVec 3}
    (hx : exec c s = .next (s.settle (s.m.issue i uses fun k x m =>
      if 6 ≤ v x then m.faultStrand k 0x08 else m.setStrand k { x.next with cls := BitVec.ofNat 3 (v x) })))
    (h : s.m.issuable i uses) (hv : v (s.m.issuing i) < 6) (hw : BitVec.ofNat 3 (v (s.m.issuing i)) = w) :
    Runs c s (s.m.setStrand (issueKey i) { (s.m.issuing i).next with cls := w }) := by
  subst hw
  exact runs_strand hx h rfl (if_neg (Nat.not_le.2 hv)) (Sampled.refl _) (issuable_fenced h rfl)

theorem runs_class_imm {n : BitVec 3} (h : s.m.issuable i []) (hn : n.toNat < 6) :
    Runs (.classSet i 0 true n) s (s.m.setStrand (issueKey i) { (s.m.issuing i).next with cls := n }) :=
  runs_class (v := fun _ => n.toNat) rfl h hn (BitVec.ofNat_toNat 3 n |>.trans (BitVec.setWidth_eq n))

theorem runs_class_reg (h : s.m.issuable i [ra.val]) (hn : ((s.m.issuing i).rd ra.val).toNat % 8 < 6) : Runs (.classSet i ra false 0) s
    (s.m.setStrand (issueKey i) { (s.m.issuing i).next with cls := ((s.m.issuing i).rd ra.val).setWidth 3 }) := by
  refine runs_class (v := fun x => (x.rd ra.val).toNat % 8) rfl h hn (BitVec.eq_of_toNat_eq ?_)
  simp

end

/-- Settles O10: a request is granted by the rules of its class or waits; a refund is no request. -/
theorem budgetInstructions : Obligations.BudgetInstructions := by
  unfold Obligations.BudgetInstructions
  intro s i rd ra im m x k c n spent taken debt owed c2 fits short two done
  have hlt : c < 8 := x.cls.isLt
  have ht' (ht : m.trailing = false) : (m.drawing i).trailing = false := (drawing_sampled m i).trailing.trans ht
  have hfits (hn : n ≠ 0) (hf : fits) : (m.drawing i).grants c n = true := by
    rw [drawing_grants m i hlt]
    exact (grants_iff hn hf.1).2 hf.2
  have hshort (hn : n ≠ 0) (hf : short) : (m.drawing i).grants c n = false := by
    rw [drawing_grants m i hlt, Bool.eq_false_iff]
    exact fun hg => hf.2 ((grants_iff hn hf.1).1 hg)
  have htwo (hc : c = 2) : (m.drawing i).grants c n = true := by rw [hc]; exact grants_c2
  refine ⟨fun h ht => ⟨⟨fun hn => ?_, fun hn hf => ?_, fun hn ⟨hc, hon, hdebt⟩ => ?_⟩, fun hn hf => ?_⟩,
    fun h ht => ⟨⟨fun hn => ?_, fun hn hf => ?_, fun hn ⟨hc, hon, hdebt⟩ => ?_⟩, fun hn hf => ?_⟩,
    fun h hc hd hl => runs_refund_level h rfl rfl hc hd hl, fun h hc => runs_refund_debt h hc rfl, runs_class_imm, runs_class_reg⟩
  · exact runs_draw_served (Kept.refl m) rfl (drawing_sampled m i) h (request_zero _ hn)
  · exact runs_draw_served (kept_drawn m c n) rfl (drawing_drawn m i hf.1 n) h (request_granted _ hn (ht' ht) (hfits hn hf))
  · exact runs_draw_served (kept_owing m n) rfl (drawing_owing m i hc hon hdebt) h (request_granted _ hn (ht' ht) (htwo hc))
  · exact runs_draw_waits (Kept.of_eq rfl rfl) rfl (drawing_queued m i c _) h (request_queued _ hn (hshort hn hf))
  · exact runs_draw_try (b := true) (Kept.refl m) rfl (drawing_sampled m i) ht h (tryTake_zero hn)
  · exact runs_draw_try (b := true) (kept_drawn m c n) rfl (drawing_drawn m i hf.1 n) ht h (tryTake_granted hn (hfits hn hf))
  · exact runs_draw_try (b := true) (kept_owing m n) rfl (drawing_owing m i hc hon hdebt) ht h (tryTake_granted hn (htwo hc))
  · exact runs_draw_try (b := false) (Kept.refl m) rfl (drawing_sampled m i) ht h (tryTake_refused hn (hshort hn hf))

end Sys2Proof.Machine
end

section
/-! PROOFS. When an instruction issues, waits or is skipped (R70 to R73). -/

namespace Sys2Proof.Machine

section
variable {m : Fjoek} {i : Issue} {uses : List Nat} {hold : Fjoek → Strand → Option StallFor} {body : Nat → Strand → Fjoek → Fjoek}

/-- Where nothing waits for the end of a round, an issue is what comes of the instruction alone. -/
theorem issueHold_calm {n : Fjoek} (hc : m.calm i.e.val) (hn : n.calm i.e.val) (h : m.issueOne i uses hold body = n) :
    m.issueHold i uses hold body = n := by
  unfold Fjoek.issueHold
  rw [roundActs_calm m _ hc, h, roundActs_calm n _ hn]

theorem issueOne_idle (h : m.canIssue (issueKey i) = false) : m.issueOne i uses hold body = m := if_pos (by rw [h]; rfl)

end

theorem any_contains {l u : List Nat} : (u.any fun r => l.contains r) = true ↔ ∃ r ∈ u, r ∈ l := by
  rw [List.any_eq_true]
  exact exists_congr fun r => and_congr_right fun _ => List.contains_iff_mem

section
variable {m : Fjoek} {i : Issue} {uses : List Nat} {hold : Fjoek → Strand → Option StallFor} {body : Nat → Strand → Fjoek → Fjoek}
  (h : m.canIssue (issueKey i) = true)
include h

/-- A skipped instruction is issued, and moves the strand on. -/
theorem skipped_sampled : Sampled (m.setStrand (issueKey i) (m.issuing i).next)
    (((m.setStrand (issueKey i) (m.issuing i)).issued (issueKey i) false).setStrand (issueKey i) (m.issuing i).next) :=
  end_strand i h m _ _ (issued_sampled _ _ false (issueKey_lt i))

variable (hw : tableGet (fun _ => false) m.seam.progue (8192 * i.e.val + (m.strand (issueKey i)).pc.toNat) = false)
include hw

theorem issueOne_stalls (hl : ∃ r ∈ readsPred i.psel :: uses, r ∈ (m.strand (issueKey i)).loading) : m.issueOne i uses hold body =
    m.setStrand (issueKey i) { m.strand (issueKey i) with mode := .stall, stallFor := .loads (readsPred i.psel :: uses) } := by
  have hl' := any_contains.2 hl
  unfold Fjoek.issueOne
  simp only [h, hw, hl', Bool.not_true, Bool.false_eq_true, if_false, if_true]

variable (hl : ¬∃ r ∈ readsPred i.psel :: uses, r ∈ (m.strand (issueKey i)).loading)
include hl

theorem issueOne_passed (hp : ∃ r ∈ readsPred i.psel :: uses, r ∈ (m.strand (issueKey i)).posts) :
    m.issueOne i uses hold body = m := by
  have hl' := Bool.eq_false_iff.2 (mt any_contains.1 hl)
  have hp' := any_contains.2 hp
  unfold Fjoek.issueOne
  simp only [h, hw, hl', hp', Bool.not_true, Bool.false_eq_true, if_false, if_true]

theorem issueOne_skips (hp : ¬∃ r ∈ readsPred i.psel :: uses, r ∈ (m.strand (issueKey i)).posts)
    (hg : (m.strand (issueKey i)).pred i.psel.val = i.pneg) : m.issueOne i uses hold body =
      ((m.setStrand (issueKey i) (m.issuing i)).issued (issueKey i) false).setStrand (issueKey i) (m.issuing i).next := by
  have hl' := Bool.eq_false_iff.2 (mt any_contains.1 hl)
  have hp' := Bool.eq_false_iff.2 (mt any_contains.1 hp)
  unfold Fjoek.issueOne
  simp only [h, hw, hl', hp', Bool.not_true, Bool.false_eq_true, if_false]
  exact if_pos (beq_iff_eq.2 hg)

end

theorem settled_of {m n : Fjoek} (s : State) (h : m = n) :
    (.next (s.settle m) : Host.Outcome State Fault Refusal) = .next (s.settle n) := by rw [h]

/-- Settles O17: an instruction that may not issue, one that waits and one whose guard is false have no effect of their own. -/
theorem issueRules : Obligations.IssueRules := by
  unfold Obligations.IssueRules
  intro s i rd ra rb m k x uses whole c hc
  refine ⟨fun h => ?_, fun h hw hl => ?_, fun h hw hl hp => ?_, fun h hw hu hg => ?_⟩
  · have hidle : m.alu2 i rd ra rb (· + ·) = m := issueHold_calm hc hc (issueOne_idle h)
    exact does_of c s m m (settled_of s hidle) (Noted.refl m)
  · have hstall : m.alu2 i rd ra rb (· + ·) = m.setStrand k { x with mode := .stall, stallFor := .loads uses } :=
      issueHold_calm hc (calm_setStrand _ _ _ _ hc rfl) (issueOne_stalls h hw hl)
    exact does_of c s _ _ (settled_of s hstall) (Noted.refl _)
  · have hpost : ∃ r ∈ uses, r ∈ x.posts := by
      rcases hp with hp | hp
      · exact ⟨_, by simp [uses], hp⟩
      · exact ⟨_, by simp [uses], hp⟩
    have hpassed : m.alu2 i rd ra rb (· + ·) = m :=
      issueHold_calm hc hc (issueOne_passed h hw (fun ⟨r, hr, hm⟩ => hl r hr hm) hpost)
    exact does_of c s m m (settled_of s hpassed) (Noted.refl m)
  · have hs := skipped_sampled h
    have hskip : m.alu2 i rd ra rb (· + ·) =
        ((m.setStrand k (m.issuing i)).issued k false).setStrand k (m.issuing i).next :=
      issueHold_calm hc (hs.calm _ (calm_setStrand _ _ _ _ hc (issuing_fenced m i h _ rfl)))
        (issueOne_skips h hw (fun ⟨r, hr, hm⟩ => (hu r hr).1 hm) (fun ⟨r, hr, hm⟩ => (hu r hr).2 hm) hg)
    exact runs_of c s _ _ (settled_of s hskip) hs

end Sys2Proof.Machine
end

section
/-! PROOFS. Notes, fences and the system instructions (R88, R90, R91, R485). -/

namespace Sys2Proof.Machine

/-! ## What an issue leaves as it was -/

theorem underway_identity (m : Fjoek) (i : Issue) (x : Strand) :
    (m.underway i).identity (issueKey i) x = m.identity (issueKey i) x := by
  have hs := underway_sampled m i
  unfold Fjoek.identity
  rw [hs.privileged _ (issueKey_lt i), hs.get TOP_STRAP_twin (by decide) (by decide), hs.get SEAM_CTL_instep (by decide) (by decide)]
  rfl

theorem underway_time (m : Fjoek) (i : Issue) : (m.underway i).time = m.time :=
  (underway_sampled m i).reg64 _ (by decide) (by decide) (by decide)

theorem Sampled.mirrorBound {m n : Fjoek} (h : Sampled m n) (d : Desc) : n.mirrorBound d = m.mirrorBound d := by
  unfold Fjoek.mirrorBound
  rw [h.isOn TWIN_MIRWIN_en (by decide) (by decide), h.get TWIN_MIRWIN_base (by decide) (by decide),
    h.get TWIN_MIRWIN_limit (by decide) (by decide)]

theorem underway_twinMoves (m : Fjoek) (i : Issue) (k : Nat) : (m.underway i).twinMoves k = m.twinMoves k := by
  have hs := underway_sampled m i
  unfold Fjoek.twinMoves
  rw [hs.mngl]
  simp only [hs.mirrorBound]
  rfl

theorem underway_acked (m : Fjoek) (i : Issue) : (m.underway i).twin.acked = m.twin.acked := by
  rw [(underway_sampled m i).twin]
  rfl

theorem underway_leads (m : Fjoek) (i : Issue) : (m.underway i).leads = m.leads := (underway_sampled m i).leads

/-! ## Instructions of a module that is no trailing twin -/

/-- Where the module is no trailing twin, no fence that waits keeps it from being calm. -/
theorem calm_own {m : Fjoek} {e : Nat} (hc : m.calm e) (ht : m.trailing = false) (k : Nat) (y : Strand) : (m.setStrand k y).calm e :=
  ⟨hc.1, fun h => absurd (h.symm.trans ht) Bool.noConfusion⟩

section
variable {s : State} {i : Issue} {rd ra : Fin 32}

theorem runs_mfence_over (h : s.m.issuable i []) (ha : (s.m.issuing i).accs = []) :
    Runs (.mfence i) s (s.m.setStrand (issueKey i) (s.m.issuing i).next) :=
  runs_strand rfl h rfl (if_pos ha) (Sampled.refl _) (issuable_fenced h rfl)

theorem runs_mfence_stalls (h : s.m.issuable i []) (ha : (s.m.issuing i).accs ≠ []) : Runs (.mfence i) s
    (s.m.setStrand (issueKey i) { (s.m.issuing i).next with mode := .stall, fencing := true }) :=
  runs_strand rfl h rfl (if_neg ha) (Sampled.refl _) rfl

theorem runs_note (h : s.m.issuable i [onlyWrites rd, ra.val]) (ht : s.m.trailing = false) :
    Runs (.note i rd ra) s (s.m.setStrand (issueKey i) ((s.m.issuing i).wr rd.val ((s.m.issuing i).rd ra.val)).next) := by
  have hv (v : Word64) : BitVec.ofNat 64 v.toNat = v := BitVec.ofNat_toNat 64 v |>.trans (BitVec.setWidth_eq v)
  rw [← hv ((s.m.issuing i).rd ra.val)]
  exact runs_strand rfl h rfl (logged_own ((underway_trailing s.m i).trans ht)) (logValue_sampled _ _ _ _)
    (issuable_fenced h (wr_mode _ _ _))

theorem runs_rdtime (h : s.m.issuable i [onlyWrites rd]) (ht : s.m.trailing = false) :
    Runs (.rdtime i rd) s (s.m.setStrand (issueKey i) ((s.m.issuing i).wr rd.val (BitVec.ofNat 64 s.m.time)).next) := by
  rw [← underway_time s.m i]
  exact runs_strand rfl h rfl (logged_own ((underway_trailing s.m i).trans ht)) (logValue_sampled _ _ _ _)
    (issuable_fenced h (wr_mode _ _ _))

theorem runs_rdid (h : s.m.issuable i [onlyWrites rd]) : Runs (.rdid i rd) s (s.m.setStrand (issueKey i)
    ((s.m.issuing i).wr rd.val (BitVec.ofNat 64 (s.m.identity (issueKey i) (s.m.issuing i)))).next) := by
  rw [← underway_identity]
  exact runs_strand rfl h rfl rfl (Sampled.refl _) (issuable_fenced h (wr_mode _ _ _))

/-! ## The entropy source -/

/-- A free value is used up. -/
def Fjoek.freed (m : Fjoek) : Fjoek := { m with free := m.free + 1 }

theorem freed_setStrand (m : Fjoek) (k : Nat) (x : Strand) : (m.setStrand k x).freed = m.freed.setStrand k x := rfl

theorem Sampled.freed {m n : Fjoek} (h : Sampled m n) : Sampled m.freed n.freed :=
  { h with free := congrArg (· + 1) h.free }

theorem underway_free (m : Fjoek) (i : Issue) : (m.underway i).free = m.free := (underway_sampled m i).free

theorem runs_rand (h : s.m.issuable i [onlyWrites rd]) (ht : s.m.trailing = false) : Runs (.rand i rd) s
    (s.m.setStrand (issueKey i) ((s.m.issuing i).wr rd.val (Config.free64 s.m.free)).next).freed := by
  have hv (v : Word64) : BitVec.ofNat 64 v.toNat = v := BitVec.ofNat_toNat 64 v |>.trans (BitVec.setWidth_eq v)
  have hs : Sampled (s.m.freed.setStrand (issueKey i) (s.m.issuing i)) (s.m.underway i).freed := (underway_sampled s.m i).freed
  rw [freed_setStrand, ← hv (Config.free64 s.m.free), ← underway_free s.m i]
  exact runs_beside rfl h rfl (logged_own (hs.trailing.trans ht)) (hs.trans (logValue_sampled _ _ _ _))
    ((Kept.of_eq (m := s.m) rfl rfl).calm rfl (issuable_calm h)) (issuable_fenced h (wr_mode _ _ _))

/-! ## Counters -/

theorem exec_rdcnt (s : State) (i : Issue) (rd : Fin 32) {n : BitVec 4} (hn : n.toNat < 9) : exec (.rdcnt i rd n) s =
    .next (s.settle (s.m.issue i [onlyWrites rd] fun k x m =>
      m.logged k rd.val (m.reg64 (PMON_ECYC_LO i.e.val + 8 * n.toNat))
        (fun v m => m.setStrand k (x.wr rd.val (BitVec.ofNat 64 v)).next) s.m)) :=
  congrArg (fun m => Host.Outcome.next (s.settle m)) (issueDefined_pos (decide_eq_true hn))

/-- No counter of an engine is among the registers that notes touch. -/
theorem noting_engineCounter {a : Nat} (h : 0x81000 ≤ a ∧ a < 0x90000) : noting a = false := by
  unfold noting
  simp only [Bool.or_eq_false_iff, decide_eq_false_iff_not]
  simp only [EVT_PEND, EVT_LATCHES_LO, MGMT_LOGSEQ_LO, MGMT_LOGLOST, ATT_INTXST, ATT_WAKE,
    ATT_IRQDROP_LO, TWIN_LOGREC_LO, TWIN_LOGBYTES_LO, PMON_GCNT_LO, PMON_GOVF]
  omega

/-- An instruction of one's own that logs what it reads leaves the counters of engines as it read them. -/
theorem logged_counter (m : Fjoek) (k rd v : Nat) (y : Strand) (s : State) {a : Nat} (h : 0x81000 ≤ a ∧ a + 4 < 0x90000) :
    (s.settle ((m.logValue k rd v).setStrand k y)).m.reg64 a = m.reg64 a := by
  have hlo := noting_engineCounter (a := a) (by omega)
  have hhi := noting_engineCounter (a := a + 4) (by omega)
  exact ((settle_noted s _).reg64 a hlo hhi).trans ((logTwin_noted m 0x08 (k / 8) [k % 8, rd, v]).reg64 a hlo hhi)

theorem runs_rdcnt {n : BitVec 4} (h : s.m.issuable i [onlyWrites rd]) (ht : s.m.trailing = false) (hn : n.toNat < 9) :
    ∃ v t, exec (.rdcnt i rd n) s = .next t ∧
      Runs (.rdcnt i rd n) s (s.m.setStrand (issueKey i) ((s.m.issuing i).wr rd.val v).next) ∧
      v = BitVec.ofNat 64 (t.m.reg64 (PMON_ECYC_LO i.e.val + 8 * n.toNat)) := by
  have hx := exec_rdcnt s i rd hn
  have ha : 0x81000 ≤ PMON_ECYC_LO i.e.val + 8 * n.toNat ∧ PMON_ECYC_LO i.e.val + 8 * n.toNat + 4 < 0x90000 := by
    have he := i.e.isLt
    unfold PMON_ECYC_LO
    omega
  generalize PMON_ECYC_LO i.e.val + 8 * n.toNat = a at hx ha ⊢
  have hs := end_strand i h.1 s.m ((s.m.issuing i).wr rd.val (BitVec.ofNat 64 ((s.m.underway i).reg64 a))).next _
    ((underway_sampled s.m i).trans (logValue_sampled _ (issueKey i) rd.val ((s.m.underway i).reg64 a)))
  rw [issue_eq _ _ _ _ h, show (s.m.setStrand _ _).issued _ _ = s.m.underway i from rfl, logged_own ((underway_trailing s.m i).trans ht),
    roundActs_calm _ _ (hs.calm _ (calm_own (issuable_calm h) ht _ _))] at hx
  refine ⟨_, _, hx, runs_of _ _ _ _ hx hs, ?_⟩
  rw [logged_counter _ _ _ _ _ _ ha]

/-! ## Fences -/

theorem runs_fence_alone (h : s.m.issuable i [onlyWrites rd]) (ht : s.m.trailing = false) (hl : s.m.leads = false) :
    Runs (.fence i rd) s (s.m.setStrand (issueKey i) ((s.m.issuing i).wr rd.val 0).next) := by
  refine runs_strand (n := s.m.underway i) rfl h rfl ?_ (Sampled.refl _) (issuable_fenced h (wr_mode _ _ _))
  simp only [underway_trailing, ht, underway_leads, hl, Bool.false_eq_true, if_false, Bool.not_false, if_true]

/-- A fence of a lead that finds a record without its acknowledgement, or a MOVE without its record, waits. -/
theorem runs_fence_waits (h : s.m.issuable i [onlyWrites rd]) (ht : s.m.trailing = false) (hl : s.m.leads = true)
    (hw : ¬((s.m.underway i).twin.nextSeq ≤ s.m.twin.acked + 1 ∧ s.m.twinMoves (issueKey i) = [])) :
    Runs (.fence i rd) s (s.m.setStrand (issueKey i) { (s.m.issuing i).next with
      mode := .wait, waitFor := .ack rd.val ((s.m.underway i).twin.nextSeq - 1) (s.m.twinMoves (issueKey i)) }) := by
  refine runs_issue rfl h rfl (calm_own (issuable_calm h) ht _ _) ?_
  simp only [underway_trailing, ht, underway_leads, hl, underway_acked, underway_twinMoves, Bool.false_eq_true, if_false, Bool.not_true]
  rw [if_neg hw]
  exact end_strand i h.1 s.m _ _ (underway_sampled s.m i)

theorem runs_fence_acked (h : s.m.issuable i [onlyWrites rd]) (ht : s.m.trailing = false) (hl : s.m.leads = true)
    (hw : (s.m.underway i).twin.nextSeq ≤ s.m.twin.acked + 1 ∧ s.m.twinMoves (issueKey i) = []) :
    Runs (.fence i rd) s (s.m.setStrand (issueKey i) ((s.m.issuing i).wr rd.val 1).next) := by
  refine runs_strand rfl h rfl ?_ (logValue_sampled (s.m.underway i) (issueKey i) rd.val 1) (issuable_fenced h (wr_mode _ _ _))
  simp only [underway_trailing, ht, underway_leads, hl, underway_acked, underway_twinMoves, Bool.false_eq_true, if_false, Bool.not_true]
  exact if_pos hw

theorem underway_seq (m : Fjoek) (i : Issue) : m.twin.nextSeq ≤ (m.underway i).twin.nextSeq := (underway_sampled m i).seq

theorem runs_fence_lead_waits (h : s.m.issuable i [onlyWrites rd]) (ht : s.m.trailing = false) (hl : s.m.leads = true)
    (hw : s.m.twin.acked + 1 < s.m.twin.nextSeq ∨ s.m.twinMoves (issueKey i) ≠ []) : ∃ u, s.m.twin.nextSeq ≤ u + 1 ∧
      Runs (.fence i rd) s (s.m.setStrand (issueKey i) { (s.m.issuing i).next with
        mode := .wait, waitFor := .ack rd.val u (s.m.twinMoves (issueKey i)) }) := by
  have hseq := underway_seq s.m i
  refine ⟨_, by omega, runs_fence_waits h ht hl ?_⟩
  rintro ⟨hacked, hmoves⟩
  exact hw.elim (fun hlt => by omega) (fun hne => hne hmoves)

/-- A lead's fence that finds nothing to wait for may wait for a record that its own counting has logged. -/
theorem runs_fence_lead (h : s.m.issuable i [onlyWrites rd]) (ht : s.m.trailing = false) (hl : s.m.leads = true)
    (hmoves : s.m.twinMoves (issueKey i) = []) :
    Runs (.fence i rd) s (s.m.setStrand (issueKey i) ((s.m.issuing i).wr rd.val 1).next) ∨
      ∃ u, Runs (.fence i rd) s (s.m.setStrand (issueKey i) { (s.m.issuing i).next with
        mode := .wait, waitFor := .ack rd.val u [] }) := by
  by_cases hacked : (s.m.underway i).twin.nextSeq ≤ s.m.twin.acked + 1
  · exact .inl (runs_fence_acked h ht hl ⟨hacked, hmoves⟩)
  · have hwaits := runs_fence_waits h ht hl fun hw => hacked hw.1
    rw [hmoves] at hwaits
    exact .inr ⟨_, hwaits⟩

/-! ## Events that programs raise -/

theorem raiseEvent_closed {m : Fjoek} {q : Nat} (h : raisable q = false) : m.raiseEvent q = (false, m) := if_pos (by rw [h]; rfl)

theorem raiseEvent_plain {m : Fjoek} {q : Nat} (h : raisable q = true) (hq : ¬(q = 484 ∨ q = 489 ∨ q = 490)) :
    m.raiseEvent q = (true, m.latch q) := by
  unfold Fjoek.raiseEvent
  rw [if_neg (by rw [h]; decide), if_neg hq]

theorem raiseEvent_damp {m : Fjoek} {q : Nat} (hq : q = 484 ∨ q = 489 ∨ q = 490) :
    m.raiseEvent q = (true, (m.put ⟨DAMP_ESTAT, q - 480, q - 480⟩ 1).latch q) := by
  have h : raisable q = true := by rcases hq with rfl | rfl | rfl <;> decide
  unfold Fjoek.raiseEvent
  rw [if_neg (by rw [h]; decide), if_pos hq]

theorem runs_evset (h : s.m.issuable i [onlyWrites rd, ra.val]) (hp : s.m.isOn (SEAM_STRCTL_priv i.e.val i.s.val) = true) {G n : Fjoek}
    {b : Bool} (hr : (s.m.underway i).raiseEvent (((s.m.issuing i).rd ra.val).toNat % 512) = (b, n))
    (hn : Sampled (G.setStrand (issueKey i) (s.m.issuing i)) n) (hc : G.calm i.e.val) :
    Runs (.evset i rd ra) s (G.setStrand (issueKey i) ((s.m.issuing i).wr rd.val (BitVec.ofNat 64 (bnat b))).next) := by
  refine runs_beside rfl h rfl ?_ hn hc (issuable_fenced h (wr_mode _ _ _))
  simp only [underway_privileged, hp, hr, Bool.not_true, Bool.false_eq_true, if_false]

theorem put_setStrand (m : Fjoek) (k v : Nat) (f : Fld) (x : Strand) : (m.setStrand k x).put f v = (m.put f v).setStrand k x := rfl

theorem put_seam (m : Fjoek) (f : Fld) (v : Nat) : (m.put f v).seam = m.seam := rfl

variable {q : Nat} (he : ((s.m.issuing i).rd ra.val).toNat % 512 = q)
include he

theorem runs_evset_plain (h : s.m.issuable i [onlyWrites rd, ra.val]) (hp : s.m.isOn (SEAM_STRCTL_priv i.e.val i.s.val) = true)
    (hr : raisable q = true) (hq : q ≠ 484 ∧ q ≠ 489 ∧ q ≠ 490) :
    Runs (.evset i rd ra) s (s.m.setStrand (issueKey i) ((s.m.issuing i).wr rd.val 1).next) := by
  have hlt : q < 512 := he ▸ Nat.mod_lt _ (by decide)
  exact runs_evset (b := true) h hp (he.symm ▸ raiseEvent_plain hr (by omega))
    ((underway_sampled s.m i).trans (latch_noted _ q hlt).sampled) (issuable_calm h)

theorem runs_evset_damp (h : s.m.issuable i [onlyWrites rd, ra.val]) (hp : s.m.isOn (SEAM_STRCTL_priv i.e.val i.s.val) = true)
    (hq : q = 484 ∨ q = 489 ∨ q = 490) : Runs (.evset i rd ra) s
      ((s.m.setStrand (issueKey i) ((s.m.issuing i).wr rd.val 1).next).put ⟨DAMP_ESTAT, q - 480, q - 480⟩ 1) := by
  have hlt : q < 512 := he ▸ Nat.mod_lt _ (by decide)
  have hput := (underway_sampled s.m i).put ⟨DAMP_ESTAT, q - 480, q - 480⟩ 1 (show noting DAMP_ESTAT = false by decide)
    (show ¬(0x80000 ≤ DAMP_ESTAT ∧ DAMP_ESTAT < 0x90000) by decide)
  rw [put_setStrand] at hput ⊢
  have hkept : Kept s.m (s.m.put ⟨DAMP_ESTAT, q - 480, q - 480⟩ 1) := kept_put s.m _ _ (show DAMP_ESTAT ∉ pairRegs by decide)
  exact runs_evset (b := true) h hp (he.symm ▸ raiseEvent_damp hq) (hput.trans (latch_noted _ q hlt).sampled)
    (hkept.calm (put_seam _ _ _) (issuable_calm h))

end

/-! ## Rounds while an instruction issues -/

theorem SameSeam.refl (m : Fjoek) : SameSeam m m := rfl

theorem SameSeam.each {α : Type} (l : List α) (f : α → Fjoek → Fjoek) (h : ∀ x ∈ l, ∀ m, SameSeam m (f x m)) (m : Fjoek) :
    SameSeam m (m.each l f) := by
  unfold Fjoek.each
  induction l generalizing m with
  | nil => exact SameSeam.refl m
  | cons x r ih => exact (h x (List.mem_cons_self ..) m).trans (ih (fun y hy => h y (List.mem_cons_of_mem _ hy)) (f x m))

theorem sameSeam_of_eq {m n : Fjoek} (h : n.seam = m.seam) : SameSeam m n := by
  unfold SameSeam
  rw [h]

theorem sameSeam_setReg64 (m : Fjoek) (a v : Nat) : SameSeam m (m.setReg64 a v) := rfl

theorem sameSeam_writeSample (m : Fjoek) (e c ev s pc gen : Nat) (skid none_ : Bool) : SameSeam m (m.writeSample e c ev s pc gen skid none_) := by
  unfold Fjoek.writeSample
  split
  · exact SameSeam.refl m
  · simp only
    split
    · exact (sameSeam_put m PMON_SDROP_count _).trans (sameSeam_cause _ _ (by omega))
    · refine SameSeam.trans ?_ (SameSeam.when _ _ (sameSeam_cause _ _ (by omega)))
      exact (sameSeam_of_eq (hbmWrite_seam m _ _)).trans (sameSeam_put _ _ _)

theorem sameSeam_bumpEngine (m : Fjoek) (e k ev : Nat) (w : Option (Nat × Nat × Nat)) : SameSeam m (m.bumpEngine e k ev w) := by
  have hwrap : SameSeam m ((m.setReg64 (PMON_ECYC_LO e + 8 * k) 0).cause ⟨PMON_ESTAT e, k, k⟩ 501) :=
    (sameSeam_setReg64 m _ 0).trans (sameSeam_cause _ _ (by omega))
  unfold Fjoek.bumpEngine
  simp only
  split
  · exact sameSeam_setReg64 m _ _
  · split
    · cases w with
      | none => exact hwrap.trans (sameSeam_of_eq rfl)
      | some w => exact hwrap.trans (sameSeam_writeSample _ _ _ _ _ _ _ _ _)
    · exact hwrap

theorem sameSeam_bumpGlobal (m : Fjoek) (j n : Nat) : SameSeam m (m.bumpGlobal j n) := by
  unfold Fjoek.bumpGlobal
  simp only
  split
  · exact sameSeam_setReg64 m _ _
  · exact (sameSeam_setReg64 m _ _).trans (sameSeam_cause _ _ (by omega))

theorem sameSeam_perf (m : Fjoek) (e s ev : Nat) (w : Option (Nat × Nat × Nat)) : SameSeam m (m.perf e s ev w) := by
  have hengine : SameSeam m (m.perfEngine e s ev w) := by
    unfold Fjoek.perfEngine
    simp only
    split
    · exact SameSeam.refl m
    · exact SameSeam.each _ _ (fun k _ m => SameSeam.when _ _ (sameSeam_bumpEngine m e k ev w)) m
  have hglobal (m : Fjoek) : SameSeam m (m.perfGlobal ev 1) := by
    unfold Fjoek.perfGlobal
    simp only
    split
    · exact SameSeam.refl m
    · exact SameSeam.each _ _ (fun j _ m => SameSeam.when _ _ (sameSeam_bumpGlobal m j 1)) m
  unfold Fjoek.perf
  split
  · exact SameSeam.refl m
  · exact hengine.trans (hglobal _)

theorem sameSeam_skidSamples (m : Fjoek) (e s pc gen : Nat) : SameSeam m (m.skidSamples e s pc gen) := by
  unfold Fjoek.skidSamples
  simp only
  split
  · exact SameSeam.refl m
  · exact (sameSeam_of_eq (m := m) rfl).trans
      (SameSeam.each _ _ (fun k _ m => sameSeam_writeSample m e k _ s pc gen true false) _)

/-- A strand that takes its place in the round does not turn the round back. -/
theorem nextRound_roundTaken (m : Fjoek) (k : Nat) : m.nextRound (k / 8) ≤ (m.roundTaken k).nextRound (k / 8) := by
  have hnow : m.round (k / 8) ≤ (m.roundNow (k / 8)).1 := by
    unfold Fjoek.roundNow
    simp only
    split <;> simp
  have hbit (b : Bool) : bnat b ≤ 1 := by cases b <;> decide
  have hor (o : Nat) : o ||| 2 ^ (k % 8) ≠ 0 := by
    intro h
    have hle : 2 ^ (k % 8) ≤ o ||| 2 ^ (k % 8) := Nat.right_le_or
    have hpos : 0 < 2 ^ (k % 8) := Nat.two_pow_pos _
    omega
  unfold Fjoek.roundTaken
  split
  · exact Nat.le_refl _
  · simp only [Fjoek.nextRound, Fjoek.round, tableGet_set_same] at hnow ⊢
    have hle := hbit (tableGet (fun _ => 0) m.seam.offered (k / 8) != 0)
    split
    · omega
    · rw [bne_iff_ne.2 (hor _)]
      exact Nat.add_le_add hnow hle

theorem nextRound_sameSeam {m n : Fjoek} (h : SameSeam m n) (e : Nat) : n.nextRound e = m.nextRound e := by
  unfold Fjoek.nextRound Fjoek.round
  rw [h]

/-- The scan of the engine stands at strand `k` (R34). -/
def Fjoek.scanned (m : Fjoek) (k : Nat) : Fjoek :=
  { m with seam := { m.seam with last := tableSet (fun _ => 7) m.seam.last (k / 8) (k % 8) } }

theorem nextRound_underway (m : Fjoek) (i : Issue) : m.nextRound i.e.val ≤ (m.underway i).nextRound i.e.val := by
  rw [← issueKey_div i]
  unfold Fjoek.underway Fjoek.issued
  simp only
  refine Nat.le_trans (Nat.le_of_eq ?_) (nextRound_roundTaken _ _)
  have hscan : ((m.setStrand (issueKey i) (m.issuing i)).scanned (issueKey i)).nextRound (issueKey i / 8) = m.nextRound (issueKey i / 8) := rfl
  rw [← hscan]
  refine (nextRound_sameSeam ?_ _).symm
  exact ((((sameSeam_skidSamples _ _ _ _ _).trans (sameSeam_perf _ _ _ _ _)).trans (sameSeam_perf _ _ _ _ _)).trans
    (sameSeam_perf _ _ _ _ _)).trans (sameSeam_perf _ _ _ _ _)

/-! ## Logged results of a trailing twin -/

/-- The oldest logged result that the module holds for register `rd` of strand `k`, whatever its round. -/
def Fjoek.resultOf (m : Fjoek) (k rd : Nat) : Option Logged := m.seam.values.find? fun q => q.strand == k && q.rd == rd

/-- The module without a logged result that it held. -/
def Fjoek.without (m : Fjoek) (p : Logged) : Fjoek := { m with seam := { m.seam with values := m.seam.values.erase p } }

theorem takeValue_none {m : Fjoek} {k rd : Nat} (h : m.resultOf k rd = none) : m.takeValue k rd = none := by
  have hnone : (m.seam.values.find? fun p => p.strand == k && p.rd == rd && decide (p.round ≤ m.nextRound (k / 8))) = none := by
    rw [List.find?_eq_none]
    intro p hp
    have := List.find?_eq_none.1 h p hp
    rw [Bool.and_eq_true]
    exact fun hq => this hq.1
  unfold Fjoek.takeValue
  simp only [hnone]

theorem takeValue_result {m : Fjoek} {k rd : Nat} {p : Logged} (h : m.resultOf k rd = some p) (hr : p.round ≤ m.nextRound (k / 8)) :
    m.takeValue k rd = some (p.val, m.without p) := by
  have hsome : (m.seam.values.find? fun p => p.strand == k && p.rd == rd && decide (p.round ≤ m.nextRound (k / 8))) = some p := by
    obtain ⟨hp, l, r, hl, hbefore⟩ := List.find?_eq_some_iff_append.1 h
    refine List.find?_eq_some_iff_append.2 ⟨?_, l, r, hl, fun q hq => ?_⟩
    · rw [Bool.and_eq_true]
      exact ⟨hp, decide_eq_true hr⟩
    · have hq' := hbefore q hq
      simp only [Bool.not_eq_true'] at hq' ⊢
      rw [hq', Bool.false_and]
  unfold Fjoek.takeValue
  simp only [hsome]
  rfl

theorem logged_taken {m n : Fjoek} {k rd v w : Nat} {f : Nat → Fjoek → Fjoek} {wait : Fjoek} (ht : m.trailing = true)
    (h : m.takeValue k rd = some (w, n)) : m.logged k rd v f wait = f w n := by
  unfold Fjoek.logged
  rw [if_pos ht]
  simp only [h]

theorem without_setStrand (m : Fjoek) (k : Nat) (x : Strand) (p : Logged) : (m.setStrand k x).without p = (m.without p).setStrand k x := rfl

theorem Sampled.without {m n : Fjoek} (h : Sampled m n) (p : Logged) : Sampled (m.without p) (n.without p) := by
  unfold Fjoek.without
  exact { h with
    seam := by rw [h.seam]
    flight := h.flight }

/-- A logged result that is taken is one less for which a fence could wait. -/
theorem calm_without {m : Fjoek} {e : Nat} (h : m.calm e) (p : Logged) : (m.without p).calm e :=
  ⟨h.1, fun ht q hq => h.2 ht q (List.mem_of_mem_erase hq)⟩

theorem underway_resultOf (m : Fjoek) (i : Issue) (k rd : Nat) : (m.underway i).resultOf k rd = m.resultOf k rd := by
  unfold Fjoek.resultOf
  rw [(underway_sampled m i).seam]
  rfl

section
variable {s : State} {i : Issue} {rd ra : Fin 32} {p : Logged} (ht : s.m.trailing = true)
  (hp : s.m.resultOf (issueKey i) rd.val = some p) (hr : p.round ≤ s.m.nextRound i.e.val)
/-- An instruction that takes its logged result writes it to rd. -/
theorem runs_taken {c : Instr} {uses : List Nat} {body : Nat → Strand → Fjoek → Fjoek}
    (hx : exec c s = .next (s.settle (s.m.issue i uses body))) (h : s.m.issuable i uses)
    (hb : body (issueKey i) (s.m.issuing i) (s.m.underway i) = ((s.m.underway i).without p).setStrand (issueKey i)
      ((s.m.issuing i).wr rd.val (BitVec.ofNat 64 p.val)).next) :
    Runs c s ((s.m.without p).setStrand (issueKey i) ((s.m.issuing i).wr rd.val (BitVec.ofNat 64 p.val)).next) :=
  runs_beside hx h rfl hb (without_setStrand _ _ _ _ ▸ (underway_sampled s.m i).without p) (calm_without (issuable_calm h) p)
    (issuable_fenced h (wr_mode _ _ _))

include hp hr

theorem underway_takeValue : (s.m.underway i).takeValue (issueKey i) rd.val = some (p.val, (s.m.underway i).without p) :=
  takeValue_result ((underway_resultOf _ _ _ _).trans hp)
    (Nat.le_trans hr ((issueKey_div i).symm ▸ nextRound_underway s.m i))

include ht

theorem runs_logged_taken {c : Instr} {uses : List Nat} {v : Strand → Fjoek → Nat}
    (hx : exec c s = .next (s.settle (s.m.issue i uses fun k x m => m.logged k rd.val (v x m)
      (fun v m => m.setStrand k (x.wr rd.val (BitVec.ofNat 64 v)).next) s.m))) (h : s.m.issuable i uses) :
    Runs c s ((s.m.without p).setStrand (issueKey i) ((s.m.issuing i).wr rd.val (BitVec.ofNat 64 p.val)).next) :=
  runs_taken hx h (logged_taken ((underway_sampled s.m i).trailing.trans ht) (underway_takeValue hp hr))

theorem runs_fence_taken (h : s.m.issuable i [onlyWrites rd]) : Runs (.fence i rd) s
    ((s.m.without p).setStrand (issueKey i) ((s.m.issuing i).wr rd.val (BitVec.ofNat 64 p.val)).next) := by
  refine runs_taken rfl h ?_
  simp only [underway_trailing, ht, if_true, underway_takeValue hp hr]

theorem runs_rand_taken (h : s.m.issuable i [onlyWrites rd]) : Runs (.rand i rd) s
    ((s.m.without p).setStrand (issueKey i) ((s.m.issuing i).wr rd.val (BitVec.ofNat 64 p.val)).next).freed := by
  have hs := ((underway_sampled s.m i).freed).without p
  have htake : (s.m.underway i).freed.takeValue (issueKey i) rd.val = some (p.val, (s.m.underway i).freed.without p) :=
    takeValue_result ((underway_resultOf _ _ _ _).trans hp)
      (Nat.le_trans hr ((issueKey_div i).symm ▸ nextRound_underway s.m i))
  rw [freed_setStrand, without_setStrand] at hs
  rw [freed_setStrand]
  exact runs_beside (G := s.m.freed.without p) rfl h rfl
    (logged_taken (m := (s.m.underway i).freed) ((underway_sampled s.m i).trailing.trans ht) htake) hs
    (calm_without ((Kept.of_eq (m := s.m) rfl rfl).calm rfl (issuable_calm h)) p) (issuable_fenced h (wr_mode _ _ _))

end

/-! ## A fence that waits for its logged result -/

/-- A fence that waits for a result that has not come is not ended. -/
theorem takeFence_waiting {m : Fjoek} {k rd u : Nat} {l : List Nat} (hw : (m.strand k).waitFor = .ack rd u l)
    (hn : m.resultOf k rd = none) : m.takeFence k = m := by
  have htake := takeValue_none hn
  unfold Fjoek.takeFence
  simp only
  split
  · rename_i hw'
    obtain ⟨rfl, rfl, rfl⟩ := WaitFor.ack.inj (hw.symm.trans hw')
    rw [htake]
  · rfl

/-- Where nothing else waits for the end of a round, neither does a fence that waits for a result that has not come. -/
theorem roundActs_waiting {m : Fjoek} {k e rd u : Nat} {l : List Nat} {y : Strand} (hc : m.calm e)
    (hw : y.waitFor = .ack rd u l) (hn : m.resultOf k rd = none) : (m.setStrand k y).roundActs e = m.setStrand k y := by
  have hfence (t : Nat) (ht : t < 8) (hm : m.trailing = true) : (m.setStrand k y).takeFence (8 * e + t) = m.setStrand k y := by
    by_cases hk : 8 * e + t = k
    · rw [hk]
      exact takeFence_waiting ((congrArg Strand.waitFor (strand_setStrand m k y)).trans hw) hn
    · refine takeFence_calm _ _ ?_
      rw [strand_setStrand_ne m y hk, or_iff_not_imp_left]
      intro hf p hp hs
      exact hf (hs ▸ hc.2 hm p hp (by omega))
  have hfences : (m.setStrand k y).takeFences e = m.setStrand k y := by
    unfold Fjoek.takeFences
    split
    · rfl
    · rename_i hm
      have hm' : m.trailing = true := by
        by_contra hoff
        exact hm (.inl (by rw [show (m.setStrand k y).trailing = m.trailing from rfl, Bool.eq_false_iff.2 hoff]; rfl))
      exact each_id _ _ fun t ht => hfence t (List.mem_range.1 ht) hm'
  have hacts : (m.setStrand k y).seam.acts.filter (fun a => a.engine == e) = [] := by
    rw [List.filter_eq_nil_iff]
    exact fun a ha => by simpa using hc.1 a ha
  unfold Fjoek.roundActs
  simp only [hfences, hacts, true_or, if_true]

theorem runs_fence_replays {s : State} {i : Issue} {rd : Fin 32} (h : s.m.issuable i [onlyWrites rd]) (ht : s.m.trailing = true)
    (hn : s.m.resultOf (issueKey i) rd.val = none) : Runs (.fence i rd) s (s.m.setStrand (issueKey i)
      { (s.m.issuing i).next with mode := .wait, waitFor := .ack rd.val 0 [] }) := by
  have hs := underway_sampled s.m i
  have hn' := (underway_resultOf s.m i (issueKey i) rd.val).trans hn
  have hc : (s.m.underway i).calm i.e.val := hs.calm _ (calm_setStrand _ _ _ _ (issuable_calm h) (issuable_fenced h rfl))
  have hx : exec (.fence i rd) s = .next (s.settle ((s.m.underway i).setStrand (issueKey i)
      { (s.m.issuing i).next with mode := .wait, waitFor := .ack rd.val 0 [] })) := by
    refine settled_of s ((issue_eq _ _ _ _ h).trans ?_)
    rw [show (s.m.setStrand _ _).issued _ _ = s.m.underway i from rfl]
    simp only [underway_trailing, ht, if_true, takeValue_none hn']
    exact roundActs_waiting hc rfl hn'
  exact runs_of _ _ _ _ hx (end_strand i h.1 s.m _ _ hs)

/-- Settles O11: each instruction's result comes from the module, from its own log, or from its lead's. -/
theorem twinAndSystem : Obligations.TwinAndSystem := by
  unfold Obligations.TwinAndSystem
  refine ⟨fun s i rd ra n => ?_, fun s i rd ra n p => ?_⟩
  · intro m x k put q
    exact ⟨fun h => ⟨runs_compute (f := id) rfl h rfl, runs_compute (f := id) rfl h rfl⟩, runs_mfence_over, runs_mfence_stalls, runs_note,
      fun h ht => ⟨runs_rdtime h ht, runs_rdcnt h ht, runs_rand h ht, runs_fence_alone h ht, runs_fence_lead_waits h ht,
        fun hl _ hmoves => runs_fence_lead h ht hl hmoves⟩, runs_rdid,
      fun h hp => ⟨fun hq => runs_evset (b := false) h hp (raiseEvent_closed hq) (underway_sampled m i) (issuable_calm h),
        runs_evset_plain rfl h hp, runs_evset_damp rfl h hp⟩⟩
  · intro m x k took mine ht
    refine ⟨fun hn h => runs_fence_replays h ht hn, fun hp hr => ⟨fun h => ?_, fun h => ?_⟩⟩
    · exact ⟨runs_logged_taken ht hp hr rfl h, runs_fence_taken ht hp hr h, runs_logged_taken ht hp hr rfl h,
        fun hn => runs_logged_taken ht hp hr (exec_rdcnt s i rd hn) h, runs_rand_taken ht hp hr h⟩
    · exact runs_logged_taken ht hp hr rfl h

end Sys2Proof.Machine
end

section
/-! PROOFS. Accesses complete (R73, R79, R80, R82, R89). -/

namespace Sys2Proof.Machine

/-! ## What a completed access leaves of its strand -/

theorem Ends.imp {c : Instr} {s : State} {P Q : Fjoek → Prop} (h : Ends c s P) (hpq : ∀ n, P n → Q n) : Ends c s Q := by
  obtain ⟨t, hx, hp, hm⟩ := h
  exact ⟨t, hx, hp, hpq _ hm⟩

/-- The strand after a completion: a STALL that waited on it is over. -/
def Strand.unstalled (x : Strand) : Strand :=
  if x.mode = .stall ∧ x.stallOver = true then { x with mode := .ready, stallFor := .access, fencing := false } else x

/-- The access reads data, and so writes its predicate (R80). -/
def Access.reads (a : Access) : Bool := [.hld, .hcas, .hfadd, .bld].contains a.kind

/-- The strand with what access `a` brings it: the value in its register and, where the access reads data, whether it is right. -/
def Strand.answered (x : Strand) (a : Access) (v : Nat) (ok : Bool) : Strand :=
  if a.reads then (x.wr a.rd (BitVec.ofNat 64 v)).setPred a.pe ok else x.wr a.rd (BitVec.ofNat 64 v)

/-- The module with access `j` of strand `k` no more outstanding. -/
def Fjoek.dropAcc (m : Fjoek) (k j : Nat) : Fjoek := m.setStrand k { m.strand k with accs := dropNth (m.strand k).accs j }

/-- An access of strand `k` to H, B or the transport lands. -/
def Fjoek.landing (m : Fjoek) (k : Nat) (a : Access) : Landed :=
  if a.domain = 10 then m.hLand (k / 32) a false
  else if a.domain = 5 then m.bLand (k / 32) a
  else ⟨(m.ctxPerform k a).1, true, (m.ctxPerform k a).2⟩

/-- What has landed reaches strand `k`. -/
def Fjoek.answer (m : Fjoek) (k : Nat) (a : Access) (v : Nat) (ok : Bool) : Fjoek :=
  (m.setStrand k ((m.strand k).answered a v ok)).unstall k

theorem unstall_eq (m : Fjoek) (k : Nat) (x : Strand) : (m.setStrand k x).unstall k =
    if x.mode = .stall ∧ x.stallOver = true then (m.setStrand k x).setStrand k x.unstalled else m.setStrand k x := by
  unfold Fjoek.unstall Strand.unstalled
  simp only [strand_setStrand]
  split <;> rfl

theorem strand_answer (m : Fjoek) (k : Nat) (a : Access) (v : Nat) (ok : Bool) :
    (m.answer k a v ok).strand k = ((m.strand k).answered a v ok).unstalled := by
  unfold Fjoek.answer
  rw [unstall_eq]
  split
  · exact strand_setStrand _ _ _
  · rename_i h
    rw [strand_setStrand]
    exact (if_neg h).symm

/-- An answer changes its strand alone. -/
theorem answer_eq (m : Fjoek) (k : Nat) (a : Access) (v : Nat) (ok : Bool) :
    ∃ t, m.answer k a v ok = { m with seam := { m.seam with strands := t } } := by
  unfold Fjoek.answer
  rw [unstall_eq]
  split
  · exact ⟨_, rfl⟩
  · exact ⟨_, rfl⟩

theorem strand_answer_ne (m : Fjoek) {i k : Nat} (a : Access) (v : Nat) (ok : Bool) (h : i ≠ k) : (m.answer k a v ok).strand i = m.strand i := by
  unfold Fjoek.answer
  rw [unstall_eq]
  split
  · exact (strand_setStrand_ne _ _ h).trans (strand_setStrand_ne _ _ h)
  · exact strand_setStrand_ne _ _ h

/-- What has landed is logged where its kind is, and reaches the strand; on a trailing twin the value may be the log's (R91, R302). -/
def Fjoek.finish (m m0 : Fjoek) (k : Nat) (a : Access) (v : Nat) (ok : Bool) : Fjoek :=
  let fin := fun (v : Nat) (m : Fjoek) =>
    let m := if m.trailing then m.allocAs a v else m
    m.answer k a v ok
  if a.logs then m.logged k a.rd v fin m0 else fin v m

theorem finish_own {m m0 : Fjoek} {k : Nat} {a : Access} {v : Nat} {ok : Bool} (ht : m.trailing = false) :
    ∃ l, Noted m l ∧ m.finish m0 k a v ok = l.answer k a v ok := by
  have hlog : (m.logValue k a.rd v).trailing = false := (kept_logTwin m _ _ _).trailing.trans ht
  unfold Fjoek.finish
  simp only [logged_own ht, ht, hlog, Bool.false_eq_true, if_false]
  split
  · exact ⟨_, logTwin_noted _ _ _ _, rfl⟩
  · exact ⟨_, Noted.refl m, rfl⟩

section
variable {m : Fjoek} {f : Fuses} {k j : Nat} {a : Access} (hget : (m.strand k).accs[j]? = some a) (hh : a.hung = false)
  (hrun : m.runs 3 = true) (hsame : ((m.strand k).accs.take j).any (fun b => a.sameAs b) = false)
  (hdom : m.runs a.domain = true) (hR : a.onR = false) (hctx : a.domain = 4 → m.ctxHere a = true)
include hget hh hrun hsame hdom hR hctx

/-- An access that nothing holds back lands, and reaches its strand. -/
theorem complete_landed {r : Landed} (hr : (m.dropAcc k j).landing k a = r) :
    m.complete f k j false = r.m.finish m k a r.val r.ok := by
  have hheld : m.rstHeld a = false := by
    unfold Fjoek.rstHeld
    rw [(Bool.or_eq_false_iff.1 hR).2]
    rfl
  have hhere : ¬(a.domain = 4 ∧ (!a.onR) = true ∧ (!m.ctxHere a) = true) := by
    rintro ⟨hd, -, hc⟩
    rw [hctx hd] at hc
    exact Bool.noConfusion hc
  unfold Fjoek.complete
  simp only [hget]
  rw [if_neg (by rw [hh, hrun, hsame]; decide), if_neg (by rw [hdom]; simp), if_neg (by rw [hheld, Bool.and_false]; decide), if_neg hhere]
  unfold Fjoek.landing Fjoek.dropAcc Access.domain at hr
  unfold Access.onR at hR
  cases hk : a.kind <;> simp only [hk, reduceIte, Nat.reduceEqDiff] at hr ⊢
  case rld => simp [hk] at hR
  case rst => simp [hk] at hR
  all_goals
    subst hr
    unfold Fjoek.finish Fjoek.answer Strand.answered Access.reads
    simp only [hk]

end

/-! ## What a completion leaves -/

/-- `n` has strand `k` as `y`, the other strands as `m` has them, and HBM and the buffers as `r` has them. -/
structure Brought (m r n : Fjoek) (k : Nat) (y : Strand) : Prop where
  strand : n.strand k = y
  others : ∀ i ≠ k, n.strand i = m.strand i
  hbm : n.hbm = r.hbm
  byte : ∀ b, n.hbmByte b = r.hbmByte b
  mngl : n.mngl = r.mngl

theorem Noted.brought {m r n t : Fjoek} {k : Nat} {y : Strand} (h : Noted n.unburnt t) (hb : Brought m r n k y) : Brought m r t k y where
  strand := (h.strand k).trans hb.strand
  others i hi := (h.strand i).trans (hb.others i hi)
  hbm := h.hbm.trans hb.hbm
  byte b := (h.hbmByte b).trans (hb.byte b)
  mngl := h.mngl.trans hb.mngl

theorem answer_brought {m r l : Fjoek} {k j : Nat} {a : Access} {v : Nat} {ok : Bool} (hr : r.seam = (m.dropAcc k j).seam)
    (hl : Noted r l) : Brought m r (l.answer k a v ok) k
      (Strand.answered { m.strand k with accs := dropNth (m.strand k).accs j } a v ok).unstalled := by
  have hstrand (i : Nat) : l.strand i = (m.dropAcc k j).strand i := by
    rw [hl.strand]
    unfold Fjoek.strand
    rw [hr]
  obtain ⟨t, ht⟩ := answer_eq l k a v ok
  refine ⟨?_, fun i hi => ?_, ?_, fun b => ?_, ?_⟩
  · rw [strand_answer, hstrand]
    unfold Fjoek.dropAcc
    rw [strand_setStrand]
  · rw [strand_answer_ne _ _ _ _ hi, hstrand]
    exact strand_setStrand_ne _ _ hi
  · rw [ht]
    exact hl.hbm
  · rw [ht]
    exact hl.hbmByte b
  · rw [ht]
    exact hl.mngl

/-! ## Landings -/

theorem hRead_clean {m : Fjoek} {g a : Nat} (ha : m.inAperture a 8 = false) (hd : (m.hbmDetect (some g) a 8).1 = false) :
    m.hRead g a false = ⟨m.hbmNat a 8, true, m.happen 0x10D 1⟩ := by
  have hclean := hbmDetect_clean (m.happen 0x10D 1) (some g) a 8 hd
  unfold Fjoek.hRead
  rw [if_neg (by rw [ha]; exact Bool.false_ne_true)]
  simp only [hclean, Bool.false_eq_true, if_false]
  rfl

theorem hLand_hld {m : Fjoek} {g : Nat} {a : Access} (hkind : a.kind = .hld) : m.hLand g a false = m.hRead g a.addr false := by
  unfold Fjoek.hLand
  rw [hkind]

theorem hStore_hbm {m : Fjoek} {a : Nat} (ha : m.inAperture a 8 = false) (v : Nat) (release : Bool) :
    m.hStore a v release = m.hbmWriteNat a 8 v := if_neg (by rw [ha]; exact Bool.false_ne_true)

section
variable {m : Fjoek} {g : Nat} {a : Access} (ha : m.inAperture a.addr 8 = false)
include ha

theorem hLand_hst (hkind : a.kind = .hst) : m.hLand g a false = ⟨0, true, m.hbmWriteNat a.addr 8 a.data.toNat⟩ := by
  unfold Fjoek.hLand
  rw [hkind]
  simp only [hStore_hbm ha]

variable (hd : (m.hbmDetect (some g) a.addr 8).1 = false)
include hd

theorem hLand_hcas (hkind : a.kind = .hcas) : m.hLand g a false = ⟨m.hbmNat a.addr 8, true,
    if m.hbmNat a.addr 8 = a.cmp.toNat then (m.happen 0x10D 1).hbmWriteNat a.addr 8 a.data.toNat else m.happen 0x10D 1⟩ := by
  have hstore := hStore_hbm (m := m.happen 0x10D 1) ha a.data.toNat true
  unfold Fjoek.hLand
  rw [hkind]
  simp only [hRead_clean ha hd, hstore, Bool.true_and, beq_iff_eq]
  split <;> rfl

theorem hLand_hfadd (hkind : a.kind = .hfadd) : m.hLand g a false = ⟨m.hbmNat a.addr 8, true,
    (m.happen 0x10D 1).hbmWriteNat a.addr 8 ((m.hbmNat a.addr 8 + a.data.toNat) % 2 ^ 64)⟩ := by
  have hstore := hStore_hbm (m := m.happen 0x10D 1) ha ((m.hbmNat a.addr 8 + a.data.toNat) % 2 ^ 64) false
  unfold Fjoek.hLand
  rw [hkind]
  simp only [hRead_clean ha hd, hstore, if_true]

end

/-- A store of 8 bytes in HBM writes them, and every other byte stays. -/
theorem hbmByte_hbmWriteNat {m : Fjoek} {a : Nat} (ha : m.inAperture a 8 = false) (hin : m.inStaging a 8 = false) (hb : a + 8 ≤ 2 ^ 35)
    (v b : Nat) : (m.hbmWriteNat a 8 v).hbmByte b = if a ≤ b ∧ b < a + 8 then BitVec.ofNat 8 (v / 256 ^ (b - a)) else m.hbmByte b := by
  have hlen : (bytesOf 8 v).length = 8 := bytesOf_length 8 v
  unfold Fjoek.hbmWriteNat
  rw [hbmWrite_stored m (by rw [hlen]; exact hin) (by rw [hlen]; exact hb), hbmByte_put, hlen]
  by_cases hr : a ≤ b ∧ b < a + 8
  · rw [if_pos ⟨hr, inAperture_byte m a 8 b ha hr⟩, if_pos hr, bytesOf_getD (by omega)]
  · rw [if_neg (fun h => hr h.1), if_neg hr]

/-- The bytes of HBM spell the number that stands there. -/
theorem hbmByte_hbmNat (m : Fjoek) {a b : Nat} (h : a ≤ b ∧ b < a + 8) :
    m.hbmByte b = BitVec.ofNat 8 (m.hbmNat a 8 / 256 ^ (b - a)) := by
  have hlen : b - a < (m.hbmBytes a 8).length := by
    unfold Fjoek.hbmBytes
    simp
    omega
  refine BitVec.eq_of_toNat_eq ?_
  rw [BitVec.toNat_ofNat]
  refine Eq.trans ?_ (ofBytes_byte (m.hbmBytes a 8) (b - a)).symm
  rw [List.getD_eq_getElem _ _ hlen]
  simp only [Fjoek.hbmBytes, List.getElem_map, List.getElem_range]
  rw [Nat.add_sub_cancel' h.1]

/-- The low 8 bytes of a number are those of the number modulo 2^64. -/
theorem byte_mod {j : Nat} (hj : j < 8) (v : Nat) : BitVec.ofNat 8 (v % 2 ^ 64 / 256 ^ j) = BitVec.ofNat 8 (v / 256 ^ j) := by
  have hpow : 2 ^ 64 = 256 ^ j * 256 ^ (8 - j) := by rw [← Nat.pow_add, Nat.add_sub_cancel' hj.le]; rfl
  refine BitVec.eq_of_toNat_eq ?_
  rw [BitVec.toNat_ofNat, BitVec.toNat_ofNat, hpow, Nat.mod_mul_right_div_self]
  exact Nat.mod_mod_of_dvd _ (dvd_pow_self 256 (by omega))

theorem bufDetect_clean {m : Fjoek} {g : Option Nat} {l : List Nat} (h : (m.bufDetect g l).1 = false) : m.bufDetect g l = (false, m) := by
  unfold Fjoek.bufDetect at *
  have hbad := h
  simp only [List.any_eq_false, Bool.or_eq_true, not_or, Bool.not_eq_true] at h
  have hnew : (l.filter fun k => marked m.mngl.undetected k || (!marked m.mngl.poison k && m.bufOpenBad k)) = [] := by
    rw [List.filter_eq_nil_iff]
    intro k hk
    obtain ⟨⟨⟨-, hhidden⟩, -⟩, hopen⟩ := h k hk
    simp [hhidden, hopen]
  simp only [hnew] at hbad ⊢
  rw [hbad]
  rfl

theorem answered_other {x : Strand} {a : Access} {v : Nat} {ok : Bool} (h : a.reads = false) :
    x.answered a v ok = x.wr a.rd (BitVec.ofNat 64 v) := if_neg (by rw [h]; exact Bool.false_ne_true)

/-- `n` differs from `m` in HBM by the 8 bytes of `v` at `a` alone. -/
def Fjoek.rewrites (n m : Fjoek) (a v : Nat) : Prop :=
  ∀ b, n.hbmByte b = if a ≤ b ∧ b < a + 8 then BitVec.ofNat 8 (v / 256 ^ (b - a)) else m.hbmByte b

/-- Bytes written over themselves are the bytes that stood there. -/
theorem hbmByte_same (m : Fjoek) (a b : Nat) :
    m.hbmByte b = if a ≤ b ∧ b < a + 8 then BitVec.ofNat 8 (m.hbmNat a 8 / 256 ^ (b - a)) else m.hbmByte b := by
  split
  · exact hbmByte_hbmNat m ‹_›
  · rfl

/-- The strand after a load of its outstanding accesses brought it `v`. -/
def loaded (x : Strand) (j : Nat) (a : Access) (v : Nat) : Strand :=
  ((Strand.wr { x with accs := dropNth x.accs j } a.rd (BitVec.ofNat 64 v)).setPred a.pe true).unstalled

theorem answered_loaded {x : Strand} {j : Nat} {a : Access} {v : Nat} (h : a.reads = true) :
    (Strand.answered { x with accs := dropNth x.accs j } a v true).unstalled = loaded x j a v := congrArg Strand.unstalled (if_pos h)

theorem reads_of_kind {a : Access} {t : AccessKind} (h : a.kind = t) : a.reads = [.hld, .hcas, .hfadd, .bld].contains t := by
  unfold Access.reads
  rw [h]

theorem bLand_clean {m : Fjoek} {g : Nat} {a : Access} (hkind : a.kind = .bld) (hlen : a.addr + 8 ≤ 256 * (m.leaseAt a.off).cells.length)
    (hd : (m.bufDetect (some g) ((m.leaseAt a.off).units a.addr 8)).1 = false) :
    m.bLand g a = ⟨ofBytes (m.leaseBytes a.off a.addr 8), true, m⟩ := by
  have hclean := bufDetect_clean hd
  unfold Fjoek.bLand
  rw [if_neg (by rw [hkind]; decide), if_neg (by simpa using hlen)]
  simp only [hclean, Bool.false_eq_true, if_false]

theorem ctxPerform_qld {m : Fjoek} {k : Nat} {a : Access} (hkind : a.kind = .qld) :
    m.ctxPerform k a = (m.ctxW a.addr (a.off / 8), m.ctxTouch a.addr) := by
  unfold Fjoek.ctxPerform
  rw [hkind]

/-- The kinds of access that land in H space. -/
def hKinds : List AccessKind := [.hld, .hst, .hcas, .hfadd]

theorem hKinds_onR {a : Access} (h : a.kind ∈ hKinds) : a.onR = false := by
  unfold Access.onR
  revert h
  cases a.kind <;> decide

theorem hKinds_domain {a : Access} (h : a.kind ∈ hKinds) : a.domain = 10 := by
  unfold hKinds at h
  unfold Access.domain
  cases hk : a.kind <;> simp [hk] at h ⊢

section
variable {s : State} {e : Fin 64} {u j : Fin 8} {k : Nat} {a : Access} (hk : 8 * e.val + u.val = k)
  (hget : (s.m.strand k).accs[j.val]? = some a) (hh : a.hung = false) (hrun : s.m.runs 3 = true)
  (hsame : ((s.m.strand k).accs.take j.val).any (fun b => a.sameAs b) = false) (ht : s.m.trailing = false) (hdom : s.m.runs a.domain = true)
include hk hget hh hrun hsame ht hdom

/-- An access that nothing holds back completes with what its landing makes. -/
theorem ends_landed {r : Landed} (hR : a.onR = false) (hctx : a.domain = 4 → s.m.ctxHere a = true)
    (hr : (s.m.dropAcc k j.val).landing k a = r) (hkept : Kept (s.m.dropAcc k j.val) r.m) (hseam : r.m.seam = (s.m.dropAcc k j.val).seam) :
    Ends (.accessComplete e u j false) s fun n => Brought s.m r.m n k
      (Strand.answered { s.m.strand k with accs := dropNth (s.m.strand k).accs j.val } a r.val r.ok).unstalled := by
  obtain ⟨l, hl, hfin⟩ := finish_own (m0 := s.m) (k := k) (a := a) (v := r.val) (ok := r.ok) (hkept.trailing.trans ht)
  have hx : exec (.accessComplete e u j false) s = .next (s.settle (l.answer k a r.val r.ok)) := by
    rw [← hfin, ← complete_landed (f := s.fuses) hget hh hrun hsame hdom hR hctx hr, ← hk]
    rfl
  exact ends_of _ _ _ _ hx fun t hn => hn.brought (answer_brought hseam hl)

theorem ends_hLand {r : Landed} (hH : a.kind ∈ hKinds) (hr : (s.m.dropAcc k j.val).hLand (k / 32) a false = r)
    (hkept : Kept (s.m.dropAcc k j.val) r.m) (hseam : r.m.seam = (s.m.dropAcc k j.val).seam) :
    Ends (.accessComplete e u j false) s fun n => Brought s.m r.m n k
      (Strand.answered { s.m.strand k with accs := dropNth (s.m.strand k).accs j.val } a r.val r.ok).unstalled :=
  ends_landed hk hget hh hrun hsame ht hdom (hKinds_onR hH) (fun h => absurd ((hKinds_domain hH).symm.trans h) (by decide))
    ((if_pos (hKinds_domain hH)).trans hr) hkept hseam

section
variable (ha : s.m.inAperture a.addr 8 = false)
include ha

theorem ends_hst (hkind : a.kind = .hst) (hin : s.m.inStaging a.addr 8 = false) (hb : a.addr + 8 ≤ 2 ^ 35) (hrd : a.rd = 0) :
    Ends (.accessComplete e u j false) s fun n =>
      (n.strand k = (Strand.unstalled { s.m.strand k with accs := dropNth (s.m.strand k).accs j.val }) ∧
        ∀ i ≠ k, n.strand i = s.m.strand i) ∧ n.rewrites s.m a.addr a.data.toNat := by
  have hland := hLand_hst (m := s.m.dropAcc k j.val) (g := k / 32) ha hkind
  have hstore (b : Nat) := hbmByte_hbmWriteNat (m := s.m.dropAcc k j.val) ha hin hb a.data.toNat b
  refine (ends_hLand hk hget hh hrun hsame ht hdom (by rw [hkind]; decide) hland (kept_hbmWrite _ _ _) (hbmWrite_seam _ _ _)).imp
    fun n hn => ?_
  have hs := hn.strand
  rw [answered_other (reads_of_kind hkind), hrd, Strand.wr_zero] at hs
  exact ⟨⟨hs, hn.others⟩, fun b => (hn.byte b).trans (hstore b)⟩

variable (hd : (s.m.hbmDetect (some (k / 32)) a.addr 8).1 = false)
include hd

theorem ends_hld (hkind : a.kind = .hld) : Ends (.accessComplete e u j false) s fun n =>
    (n.strand k = loaded (s.m.strand k) j.val a (s.m.hbmNat a.addr 8) ∧ ∀ i ≠ k, n.strand i = s.m.strand i) ∧ n.hbm = s.m.hbm := by
  have hreads : a.reads = true := reads_of_kind hkind
  have hland := (hLand_hld (m := s.m.dropAcc k j.val) (g := k / 32) hkind).trans (hRead_clean ha hd)
  refine (ends_hLand hk hget hh hrun hsame ht hdom (by rw [hkind]; decide) hland (kept_happen _ _ _) rfl).imp fun n hn => ?_
  exact ⟨⟨hn.strand.trans (answered_loaded hreads), hn.others⟩, hn.hbm⟩

variable (hin : s.m.inStaging a.addr 8 = false) (hb : a.addr + 8 ≤ 2 ^ 35)
include hin hb

theorem ends_hcas (hkind : a.kind = .hcas) : Ends (.accessComplete e u j false) s fun n =>
    (n.strand k = loaded (s.m.strand k) j.val a (s.m.hbmNat a.addr 8) ∧ ∀ i ≠ k, n.strand i = s.m.strand i) ∧
      n.rewrites s.m a.addr (if s.m.hbmNat a.addr 8 = a.cmp.toNat then a.data.toNat else s.m.hbmNat a.addr 8) := by
  have hreads : a.reads = true := reads_of_kind hkind
  have hland := hLand_hcas (m := s.m.dropAcc k j.val) (g := k / 32) ha hd hkind
  by_cases hv : s.m.hbmNat a.addr 8 = a.cmp.toNat
  · rw [if_pos (show (s.m.dropAcc k j.val).hbmNat a.addr 8 = _ from hv)] at hland
    have hstore (b : Nat) := hbmByte_hbmWriteNat (m := (s.m.dropAcc k j.val).happen 0x10D 1) ha hin hb a.data.toNat b
    refine (ends_hLand hk hget hh hrun hsame ht hdom (by rw [hkind]; decide) hland
      ((kept_happen _ _ _).trans (kept_hbmWrite _ _ _)) (hbmWrite_seam _ _ _)).imp fun n hn => ?_
    rw [if_pos hv]
    exact ⟨⟨hn.strand.trans (answered_loaded hreads), hn.others⟩, fun b => (hn.byte b).trans (hstore b)⟩
  · rw [if_neg (show ¬(s.m.dropAcc k j.val).hbmNat a.addr 8 = _ from hv)] at hland
    refine (ends_hLand hk hget hh hrun hsame ht hdom (by rw [hkind]; decide) hland (kept_happen _ _ _) rfl).imp fun n hn => ?_
    rw [if_neg hv]
    exact ⟨⟨hn.strand.trans (answered_loaded hreads), hn.others⟩, fun b => (hn.byte b).trans (hbmByte_same s.m a.addr b)⟩

theorem ends_hfadd (hkind : a.kind = .hfadd) : Ends (.accessComplete e u j false) s fun n =>
    (n.strand k = loaded (s.m.strand k) j.val a (s.m.hbmNat a.addr 8) ∧ ∀ i ≠ k, n.strand i = s.m.strand i) ∧
      n.rewrites s.m a.addr (s.m.hbmNat a.addr 8 + a.data.toNat) := by
  have hreads : a.reads = true := reads_of_kind hkind
  have hland := hLand_hfadd (m := s.m.dropAcc k j.val) (g := k / 32) ha hd hkind
  have hstore (b : Nat) := hbmByte_hbmWriteNat (m := (s.m.dropAcc k j.val).happen 0x10D 1) ha hin hb
    ((s.m.hbmNat a.addr 8 + a.data.toNat) % 2 ^ 64) b
  refine (ends_hLand hk hget hh hrun hsame ht hdom (by rw [hkind]; decide) hland
    ((kept_happen _ _ _).trans (kept_hbmWrite _ _ _)) (hbmWrite_seam _ _ _)).imp fun n hn => ?_
  refine ⟨⟨hn.strand.trans (answered_loaded hreads), hn.others⟩, fun b => (hn.byte b).trans ((hstore b).trans ?_)⟩
  exact if_ctx_congr Iff.rfl (fun h => byte_mod (by omega) _) fun _ => rfl

end

theorem ends_bld (hkind : a.kind = .bld) (hlen : a.addr + 8 ≤ 256 * (s.m.leaseAt a.off).cells.length)
    (hd : (s.m.bufDetect (some (k / 32)) ((s.m.leaseAt a.off).units a.addr 8)).1 = false) :
    Ends (.accessComplete e u j false) s fun n =>
      (n.strand k = loaded (s.m.strand k) j.val a (ofBytes (s.m.leaseBytes a.off a.addr 8)) ∧ ∀ i ≠ k, n.strand i = s.m.strand i) ∧
        n.mngl.buf = s.m.mngl.buf := by
  have hreads : a.reads = true := reads_of_kind hkind
  have hdom5 : a.domain = 5 := by unfold Access.domain; rw [hkind]
  have hland : (s.m.dropAcc k j.val).landing k a = ⟨ofBytes (s.m.leaseBytes a.off a.addr 8), true, s.m.dropAcc k j.val⟩ := by
    unfold Fjoek.landing
    rw [if_neg (by rw [hdom5]; decide), if_pos hdom5]
    exact bLand_clean hkind hlen hd
  refine (ends_landed hk hget hh hrun hsame ht hdom (by unfold Access.onR; rw [hkind]; rfl) (fun h => absurd (hdom5.symm.trans h) (by decide))
    hland (Kept.refl _) rfl).imp fun n hn => ?_
  exact ⟨⟨hn.strand.trans (answered_loaded hreads), hn.others⟩, congrArg Mngl.buf hn.mngl⟩

theorem ends_qld (hkind : a.kind = .qld) (hc : s.m.xport.cached.contains a.addr = true) :
    Ends (.accessComplete e u j false) s fun n => n.strand k = (Strand.wr { s.m.strand k with accs := dropNth (s.m.strand k).accs j.val } a.rd
      (BitVec.ofNat 64 (s.m.ctxW a.addr (a.off / 8)))).unstalled ∧ ∀ i ≠ k, n.strand i = s.m.strand i := by
  have hdom4 : a.domain = 4 := by unfold Access.domain; rw [hkind]
  have hland : (s.m.dropAcc k j.val).landing k a =
      ⟨s.m.ctxW a.addr (a.off / 8), true, (s.m.dropAcc k j.val).ctxTouch a.addr⟩ := by
    unfold Fjoek.landing
    rw [if_neg (by rw [hdom4]; decide), if_neg (by rw [hdom4]; decide), ctxPerform_qld hkind]
    rfl
  have hhere : s.m.ctxHere a = true := (if_neg (by rw [hkind]; decide)).trans hc
  refine (ends_landed hk hget hh hrun hsame ht hdom (by unfold Access.onR; rw [hkind]; rfl) (fun _ => hhere) hland
    (Kept.of_eq rfl rfl) rfl).imp fun n hn => ?_
  have hs := hn.strand
  rw [answered_other (reads_of_kind hkind)] at hs
  exact ⟨hs, hn.others⟩

end

/-- Settles O12: an access that nothing holds back lands, and what its landing makes reaches its strand. -/
theorem accessCompletes : Obligations.AccessCompletes := by
  unfold Obligations.AccessCompletes
  intro s e u j a m k x c left ends loads alone stored inHbm intact old q hget hh hrun hsame ht hdom
  exact ⟨fun hkind hhbm hd => ends_hld rfl hget hh hrun hsame ht hdom hhbm.1 hd hkind,
    fun hkind hhbm hin hrd => ends_hst rfl hget hh hrun hsame ht hdom hhbm.1 hkind hin hhbm.2 hrd,
    fun hkind hhbm hd hin => ends_hcas rfl hget hh hrun hsame ht hdom hhbm.1 hd hin hhbm.2 hkind,
    fun hkind hhbm hd hin => ends_hfadd rfl hget hh hrun hsame ht hdom hhbm.1 hd hin hhbm.2 hkind,
    fun hkind hlen hd => ends_bld rfl hget hh hrun hsame ht hdom hkind hlen hd,
    fun hkind hc => ends_qld rfl hget hh hrun hsame ht hdom hkind hc⟩

end Sys2Proof.Machine
end

section
/-! PROOFS. The key store and the evaluation point (R106, R115). -/

namespace Sys2Proof.Machine

/-- The key data registers as one number, key 1 in its low half (R106). -/
def Fjoek.keyData (m : Fjoek) : Nat := (List.range 16).foldl (fun v i => v + tableGet (fun _ => 0) m.mngl.xdata i * 2 ^ (32 * i)) 0

/-- The key store takes a command, a load or not. -/
def Fjoek.keyBusy (m : Fjoek) (load : Bool) : Fjoek :=
  Fjoek.put { m with mngl := { m.mngl with xkLoad := load } } MNGL_XKSTAT_busy 1

/-- Slot `x` holds `v`. -/
def Fjoek.setKey (m : Fjoek) (x v : Nat) : Fjoek := { m with mngl := { m.mngl with xkeys := tableSet (fun _ => 0) m.mngl.xkeys x v } }

/-- A write of MNGL_XKCTL, case by case. -/
theorem xkWrite_eq (m : Fjoek) (load erase : Bool) (x : Nat) : m.xkWrite load erase x =
    if m.isOn MNGL_XKSTAT_busy ∨ (!load ∧ !erase) then m
    else if load then
      if m.keyData % 2 ^ 256 = m.keyData / 2 ^ 256 then ((m.keyBusy load).put MNGL_XKSTAT_refused 1).cause MNGL_STAT_xk_rej 336
      else ((m.keyBusy load).setKey x m.keyData).put MNGL_XKSTAT_refused 0
    else (m.keyBusy load).setKey x 0 := by
  unfold Fjoek.xkWrite Fjoek.keyData Fjoek.keyBusy Fjoek.setKey
  rfl

/-- A register and the MNGL block's state are written in either order. -/
theorem put_mngl (m : Fjoek) (q : Mngl) (f : Fld) (v : Nat) : Fjoek.put { m with mngl := q } f v = { m.put f v with mngl := q } := rfl

theorem keyBusy_eq (m : Fjoek) (load : Bool) :
    m.keyBusy load = { m.put MNGL_XKSTAT_busy 1 with mngl := { m.mngl with xkLoad := load } } := put_mngl m _ _ _

theorem setKey_mngl (m : Fjoek) (q : Mngl) (x v : Nat) :
    Fjoek.setKey { m with mngl := q } x v = { m with mngl := { q with xkeys := tableSet (fun _ => 0) q.xkeys x v } } := rfl

theorem setKey_keyBusy (m : Fjoek) (load : Bool) (x v : Nat) : (m.keyBusy load).setKey x v =
    { m.put MNGL_XKSTAT_busy 1 with mngl := { m.mngl with xkeys := tableSet (fun _ => 0) m.mngl.xkeys x v, xkLoad := load } } := by
  rw [keyBusy_eq, setKey_mngl]

section
variable {m : Fjoek} {x : Nat}

theorem xkWrite_busy {load erase : Bool} (h : m.isOn MNGL_XKSTAT_busy = true) : m.xkWrite load erase x = m :=
  (xkWrite_eq m load erase x).trans (if_pos (.inl h))

section
variable (h : m.isOn MNGL_XKSTAT_busy = false)
include h

theorem xkWrite_load (hk : m.keyData % 2 ^ 256 ≠ m.keyData / 2 ^ 256) :
    m.xkWrite true false x = ((m.keyBusy true).setKey x m.keyData).put MNGL_XKSTAT_refused 0 := by
  rw [xkWrite_eq, h, if_neg (by decide), if_pos rfl, if_neg hk]

theorem xkWrite_equal (hk : m.keyData % 2 ^ 256 = m.keyData / 2 ^ 256) :
    m.xkWrite true false x = ((m.keyBusy true).put MNGL_XKSTAT_refused 1).cause MNGL_STAT_xk_rej 336 := by
  rw [xkWrite_eq, h, if_neg (by decide), if_pos rfl, if_pos hk]

theorem xkWrite_erase : m.xkWrite false true x = (m.keyBusy false).setKey x 0 := by
  rw [xkWrite_eq, h, if_neg (by decide), if_neg (by decide)]

end

end

/-! ## The commands -/

theorem exec_xtsKeyLoad (slot : BitVec 10) (s : State) :
    exec (.xtsKeyLoad slot) s = s.on fun m => m.xkWrite true false slot.toNat := rfl

theorem exec_xtsKeyErase (slot : BitVec 10) (s : State) :
    exec (.xtsKeyErase slot) s = s.on fun m => m.xkWrite false true slot.toNat := rfl

theorem exec_fpzCommit (hi : Word32) (s : State) : exec (.fpzCommit hi) s = s.on fun m => m.fpzCommit hi.toNat := rfl

/-- The module as the running command of the key store ends: the end of a load clears the key data. -/
def Fjoek.keyDone (m : Fjoek) : Fjoek :=
  if m.isOn MNGL_XKSTAT_busy then
    let m := m.put MNGL_XKSTAT_busy 0
    if m.mngl.xkLoad then { m with mngl := { m.mngl with xdata := [], xkLoad := false } } else m
  else m

theorem exec_xtsKeyCommandDone (s : State) : exec .xtsKeyCommandDone s = s.on Fjoek.keyDone := rfl

section
variable {m : Fjoek} (h : m.isOn MNGL_XKSTAT_busy = true)
include h

theorem keyDone_load (hl : m.mngl.xkLoad = true) :
    m.keyDone = { m.put MNGL_XKSTAT_busy 0 with mngl := { m.mngl with xdata := [], xkLoad := false } } := by
  have hmngl := m.put_mngl MNGL_XKSTAT_busy 0
  unfold Fjoek.keyDone
  rw [if_pos h]
  generalize m.put MNGL_XKSTAT_busy 0 = n at hmngl ⊢
  rw [← hmngl] at hl ⊢
  exact if_pos hl

theorem keyDone_erase (hl : m.mngl.xkLoad = false) : m.keyDone = m.put MNGL_XKSTAT_busy 0 := by
  have hmngl := m.put_mngl MNGL_XKSTAT_busy 0
  unfold Fjoek.keyDone
  rw [if_pos h]
  generalize m.put MNGL_XKSTAT_busy 0 = n at hmngl ⊢
  rw [← hmngl] at hl
  exact if_neg (ne_true_of_eq_false hl)

end

/-- Settles O21: a command finds the store busy, or does what it says; its end clears the key data of a load. -/
theorem keyStore : Obligations.KeyStore := by
  unfold Obligations.KeyStore
  intro s slot hi m k busy set z
  refine ⟨fun h => ⟨fun hk => ?_, fun hk => ?_, ?_⟩, fun h => ⟨does_on (exec_xtsKeyLoad slot s) (xkWrite_busy h),
    does_on (exec_xtsKeyErase slot s) (xkWrite_busy h), fun hl => does_on (exec_xtsKeyCommandDone s) (keyDone_load h hl),
    fun hl => does_on (exec_xtsKeyCommandDone s) (keyDone_erase h hl)⟩, does_on (exec_fpzCommit hi s) rfl⟩
  · have hload := xkWrite_load (x := slot.toNat) h hk
    rw [setKey_keyBusy] at hload
    exact does_on (exec_xtsKeyLoad slot s) hload
  · have hequal := xkWrite_equal (x := slot.toNat) h hk
    rw [keyBusy_eq] at hequal
    exact does_of _ _ _ _ ((exec_xtsKeyLoad slot s).trans (on_effect hequal)) ((Noted.refl _).cause _ _ (by decide) (by decide) rfl)
  · exact does_on (exec_xtsKeyErase slot s) ((xkWrite_erase h).trans (setKey_keyBusy m false slot.toNat 0))

end Sys2Proof.Machine
end

section
/-! PROOFS. Bytes at a place of HBM or of a lease (R98, R114). -/

namespace Sys2Proof.Machine

/-! ## A table written at several keys -/

/-- A key that none of the writes names reads as before. -/
theorem tableGet_inserts_ne {α β : Type} (d : Nat → α) (key : β → Nat) (val : β → α) {l : List β} {j : Nat} (h : ∀ p ∈ l, j ≠ key p)
    (t : Table α) : tableGet d (l.foldl (fun t p => tableInsert t (key p) (val p)) t) j = tableGet d t j := by
  induction l generalizing t with
  | nil => rfl
  | cons x r ih =>
    rw [List.foldl_cons, ih fun p hp => h p (.tail _ hp), tableGet_insert, if_neg (h x (.head _))]

/-- A key that one of the writes names, and no other does, reads what that one wrote. -/
theorem tableGet_inserts_mem {α β : Type} (d : Nat → α) (key : β → Nat) (val : β → α) {l : List β} (h : l.Pairwise fun p q => key p ≠ key q)
    {p : β} (hp : p ∈ l) (t : Table α) : tableGet d (l.foldl (fun t p => tableInsert t (key p) (val p)) t) (key p) = val p := by
  induction l generalizing t with
  | nil => cases hp
  | cons x r ih =>
    obtain ⟨hx, hr⟩ := List.pairwise_cons.1 h
    rw [List.foldl_cons]
    rcases List.mem_cons.1 hp with rfl | hp
    · rw [tableGet_inserts_ne d key val hx, tableGet_insert_same]
    · exact ih hr hp _

/-! ## Cells -/

/-- The bytes of a lease stand apart, as its cells do. -/
theorem byteAddr_inj {l : Lease} (h : l.cells.Nodup) {i j : Nat} (hi : i < 256 * l.cells.length) (hj : j < 256 * l.cells.length)
    (he : l.byteAddr i = l.byteAddr j) : i = j := by
  have hi' : i / 256 < l.cells.length := by omega
  have hj' : j / 256 < l.cells.length := by omega
  unfold Lease.byteAddr nth at he
  rw [List.getD_eq_getElem _ _ hi', List.getD_eq_getElem _ _ hj'] at he
  have hcell : l.cells[i / 256] = l.cells[j / 256] := by omega
  have hindex := (List.Nodup.getElem_inj_iff h).1 hcell
  omega

theorem leaseAt_leasePut (m : Fjoek) (x o y : Nat) (b : List Byte) : (m.leasePut x o b).leaseAt y = m.leaseAt y := rfl

/-- A write into a lease leaves every byte of the buffer outside its range. -/
theorem bufByte_leasePut_ne (m : Fjoek) (x o : Nat) (b : List Byte) {j : Nat} (h : ∀ i < b.length, j ≠ (m.leaseAt x).byteAddr (o + i)) :
    (m.leasePut x o b).bufByte j = m.bufByte j :=
  tableGet_inserts_ne _ (fun p : Byte × Nat => (m.leaseAt x).byteAddr (o + p.2)) Prod.fst (fun _ hp => h _ (List.snd_lt_of_mem_zipIdx hp)) _

section
variable {m : Fjoek} {x o : Nat} {b : List Byte} (hn : (m.leaseAt x).cells.Nodup) (hb : o + b.length ≤ 256 * (m.leaseAt x).cells.length)
include hn hb

theorem bufByte_leasePut {i : Nat} (hi : i < b.length) : (m.leasePut x o b).bufByte ((m.leaseAt x).byteAddr (o + i)) = b[i] := by
  have hmem : (b[i], i) ∈ b.zipIdx := List.mk_mem_zipIdx_iff_getElem?.2 (List.getElem?_eq_getElem hi)
  have hapart : b.zipIdx.Pairwise fun p q => (m.leaseAt x).byteAddr (o + p.2) ≠ (m.leaseAt x).byteAddr (o + q.2) := by
    rw [List.pairwise_iff_getElem]
    intro p q hp hq hpq he
    rw [List.length_zipIdx] at hp hq
    simp only [List.getElem_zipIdx] at he
    have := byteAddr_inj hn (by omega) (by omega) he
    omega
  exact tableGet_inserts_mem _ (fun p : Byte × Nat => (m.leaseAt x).byteAddr (o + p.2)) Prod.fst hapart hmem _

/-- What is written into a lease reads back. -/
theorem leaseBytes_leasePut : (m.leasePut x o b).leaseBytes x o b.length = b := by
  unfold Fjoek.leaseBytes
  refine List.ext_getElem (by simp) fun i hi hi' => ?_
  rw [List.getElem_map, List.getElem_range]
  exact bufByte_leasePut hn hb hi'

end

/-! ## HBM -/

section
variable {m : Fjoek} {a : Nat} {b : List Byte} (ha : a + b.length ≤ 2 ^ 35) (hf : m.hbmFree a b.length = true)
include ha hf

theorem putAt_mem : m.putAt (.mem a) b = m.hbmStore a b := by
  unfold Fjoek.hbmFree at hf
  rw [Bool.and_eq_true, Bool.not_eq_true'] at hf
  obtain ⟨hs, hin⟩ := hf
  exact (hbmWrite_stored m hs ha).trans (if_pos hin)

theorem hbmByte_putAt (j : Nat) : (m.putAt (.mem a) b).hbmByte j = if a ≤ j ∧ j < a + b.length then b.getD (j - a) 0 else m.hbmByte j := by
  unfold Fjoek.hbmFree at hf
  rw [Bool.and_eq_true, Bool.not_eq_true', Bool.not_eq_true'] at hf
  obtain ⟨hs, hin⟩ := hf
  refine (congrArg (fun n => n.hbmByte j) (hbmWrite_stored m hs ha)).trans ((hbmByte_put m a b j).trans ?_)
  exact if_congr (and_iff_left_of_imp (inAperture_byte m a _ j hin)) rfl rfl

end

/-- Bytes put at a place stand there alone (R98, R114). -/
theorem putAt_stands (m : Fjoek) (b : List Byte) :
    (∀ a, a + b.length ≤ 2 ^ 35 → m.hbmFree a b.length = true → let n := m.putAt (.mem a) b
      n.mngl = m.mngl ∧ ∀ j, n.hbmByte j = if a ≤ j ∧ j < a + b.length then b.getD (j - a) 0 else m.hbmByte j) ∧
    (∀ h o, let l := m.leaseAt (h % 65536)
      l.cells.Nodup → o + b.length ≤ 256 * l.cells.length → let n := m.putAt (.cell h o) b
      n.hbm = m.hbm ∧ n.leaseBytes (h % 65536) o b.length = b ∧
      ∀ j, (∀ i < b.length, j ≠ l.byteAddr (o + i)) → n.bufByte j = m.bufByte j) := by
  refine ⟨fun a ha hf => ⟨?_, hbmByte_putAt ha hf⟩,
    fun h o hn hb => ⟨rfl, leaseBytes_leasePut hn hb, fun j hj => bufByte_leasePut_ne m _ o b hj⟩⟩
  rw [putAt_mem ha hf]
  rfl

end Sys2Proof.Machine
end

section
/-! PROOFS. What follows the completion of a descriptor (R81, R84, R88, R108, R112): the bulk queues, L and the clusters' event causes stay as
the completion left them. -/

namespace Sys2Proof.Machine

/-- `n` has the descriptors, the bytes of L and the clusters' event causes of `m`. -/
structure SameQueues (m n : Fjoek) : Prop where
  descs : n.mngl.descs = m.mngl.descs
  lmem : n.seam.lmem = m.seam.lmem
  causes : ∀ g < 16, n.reg (MNGL_GSTAT g) = m.reg (MNGL_GSTAT g)

theorem SameQueues.findDesc {m n : Fjoek} (h : SameQueues m n) (id : Nat) : n.findDesc id = m.findDesc id := by
  unfold Fjoek.findDesc
  rw [h.descs]

theorem SameQueues.lNat {m n : Fjoek} (h : SameQueues m n) (e a k : Nat) : n.lNat e a k = m.lNat e a k := by
  unfold Fjoek.lNat Fjoek.lBytes
  rw [h.lmem]

theorem SameQueues.isOn_dinv {m n : Fjoek} (h : SameQueues m n) {g : Nat} (hg : g < 16) :
    n.isOn (MNGL_GSTAT_dinv g) = m.isOn (MNGL_GSTAT_dinv g) := by
  have hreg : n.reg (MNGL_GSTAT_dinv g).addr = m.reg (MNGL_GSTAT_dinv g).addr := h.causes g hg
  unfold Fjoek.isOn Fjoek.get
  rw [hreg]

/-! ## Steps in turn -/

theorem SameQueues.of_eq {m n : Fjoek} (hd : n.mngl.descs = m.mngl.descs) (hl : n.seam.lmem = m.seam.lmem) (hr : n.regs = m.regs) :
    SameQueues m n := ⟨hd, hl, fun _ _ => by unfold Fjoek.reg; rw [hr]⟩

theorem SameQueues.refl (m : Fjoek) : SameQueues m m := .of_eq rfl rfl rfl

theorem SameQueues.trans {a b c : Fjoek} (h : SameQueues a b) (k : SameQueues b c) : SameQueues a c :=
  ⟨k.descs.trans h.descs, k.lmem.trans h.lmem, fun g hg => (k.causes g hg).trans (h.causes g hg)⟩

/-- A change elsewhere in the module, and then one that keeps the queues. -/
theorem SameQueues.from {m m' n : Fjoek} (h : SameQueues m' n) (hd : m'.mngl.descs = m.mngl.descs) (hl : m'.seam.lmem = m.seam.lmem)
    (hr : m'.regs = m.regs) : SameQueues m n := (SameQueues.of_eq hd hl hr).trans h

theorem SameQueues.ite {m a b : Fjoek} {c : Prop} [Decidable c] (h : SameQueues m a) (k : SameQueues m b) : SameQueues m (if c then a else b) := by
  split
  · exact h
  · exact k

theorem SameQueues.when {m : Fjoek} (c : Bool) (f : Fjoek → Fjoek) (h : SameQueues m (f m)) : SameQueues m (m.when c f) := h.ite (.refl m)

theorem SameQueues.each {α : Type} (l : List α) (f : α → Fjoek → Fjoek) (h : ∀ x ∈ l, ∀ m, SameQueues m (f x m)) (m : Fjoek) :
    SameQueues m (m.each l f) := by
  unfold Fjoek.each
  induction l generalizing m with
  | nil => exact .refl m
  | cons x r ih => exact (h x List.mem_cons_self m).trans (ih (fun y hy => h y (List.mem_cons_of_mem _ hy)) (f x m))

theorem Sampled.sameQueues {m n : Fjoek} (h : Sampled m n) : SameQueues m n where
  descs := by rw [h.mngl]
  lmem := by rw [h.seam]
  causes g hg := h.reg _ (noting_seam _ (by unfold MNGL_GSTAT; omega)) (by unfold MNGL_GSTAT; omega)

theorem Noted.sameQueues {m n : Fjoek} (h : Noted m n) : SameQueues m n := h.sampled.sameQueues

theorem sameQueues_put (m : Fjoek) (f : Fld) (v : Nat) (h : ∀ g < 16, MNGL_GSTAT g ≠ f.addr) : SameQueues m (m.put f v) :=
  ⟨rfl, rfl, fun g hg => Fjoek.reg_put_ne _ _ _ (h g hg)⟩

theorem sameQueues_cause (m : Fjoek) (f : Fld) {e : Nat} (he : e < 512) (h : ∀ g < 16, MNGL_GSTAT g ≠ f.addr) :
    SameQueues m (m.cause f e) := by
  unfold Fjoek.cause
  split
  · exact .refl m
  · exact (sameQueues_put m f 1 h).trans (latch_noted _ e he).sameQueues

/-- A register of SEAM is no event cause of a cluster. -/
theorem gstat_ne_seam {a : Nat} (h : 0x200000 ≤ a ∧ a < 0x240000) : ∀ g < 16, MNGL_GSTAT g ≠ a := by
  intro g _
  unfold MNGL_GSTAT
  omega

/-! ## Leases and strands that waited -/

theorem sameQueues_settleLease (m : Fjoek) (x : Nat) : SameQueues m (m.settleLease x) := by
  have hne : ∀ g < 16, MNGL_GSTAT g ≠ MNGL_LFREE_free.addr ∧ MNGL_GSTAT g ≠ MNGL_LTAB_used.addr := by decide
  unfold Fjoek.settleLease
  refine SameQueues.ite ?_ (.refl m)
  refine SameQueues.trans ?_ (sameQueues_put _ _ _ fun g hg => (hne g hg).2)
  refine SameQueues.trans ?_ (sameQueues_put _ _ _ fun g hg => (hne g hg).1)
  exact .of_eq rfl rfl rfl

theorem sameQueues_settleAll (m : Fjoek) : SameQueues m m.settleAll := .each _ _ (fun x _ m => sameQueues_settleLease m x) m

theorem sameQueues_wakeQueue (m : Fjoek) (g : Nat) : SameQueues m (m.wakeQueue g) := by
  unfold Fjoek.wakeQueue
  refine .ite (.refl m) (.each _ _ (fun j _ m => ?_) m)
  dsimp only
  exact .ite (.of_eq rfl rfl rfl) (.refl m)

theorem sameQueues_sitOut (m : Fjoek) (k : Nat) : SameQueues m (m.sitOut k) := by
  unfold Fjoek.sitOut
  exact .ite (.refl m) (.of_eq rfl rfl rfl)

theorem sameQueues_settleFences (m : Fjoek) : SameQueues m m.settleFences := by
  have hends {m n : Fjoek} (h : SameQueues m n) (k : Nat) (x : Strand) : SameQueues m ((n.setStrand k x).sitOut k) :=
    h.trans ((sameQueues_sitOut (n.setStrand k x) k).from rfl rfl rfl)
  unfold Fjoek.settleFences
  refine .each _ _ (fun k _ m => ?_) m
  dsimp only
  split
  · refine .ite (.refl m) (.ite (hends (.refl m) k _) (.ite (hends ?_ k _) (.refl m)))
    exact (logTwin_noted _ _ _ _).sameQueues
  · exact .refl m

theorem sameQueues_settleGroup (m : Fjoek) {g : Nat} (hg : g < 16) : SameQueues m (m.settleGroup g) := by
  unfold Fjoek.settleGroup
  refine (sameQueues_put m _ _ (gstat_ne_seam ?_)).trans (.when _ _ (sameQueues_cause _ _ (by omega) (gstat_ne_seam ?_)))
  · simp only [SEAM_GSTAT_drained]
    omega
  · simp only [SEAM_ESTAT_gdrain]
    omega

/-! ## Dispatch -/

theorem sameQueues_passQueue (m : Fjoek) (g : Nat) : SameQueues m (m.passQueue g) := by
  unfold Fjoek.passQueue
  split
  · exact .ite (.refl m) (.of_eq rfl rfl rfl)
  · exact .refl m

theorem sameQueues_enter (m : Fjoek) (w : Nat × WorkItem) : SameQueues m (m.enter w) := by
  unfold Fjoek.enter
  split
  · exact .ite (.of_eq rfl rfl rfl) (.of_eq rfl rfl rfl)
  · exact .of_eq rfl rfl rfl

theorem sameQueues_settleQueues (m : Fjoek) : SameQueues m m.settleQueues := by
  have hpass : SameQueues m (m.each (m.seam.queues.map (·.1)) fun g m => m.passQueue g) :=
    .each _ _ (fun g _ m => sameQueues_passQueue m g) m
  have hwait (n : Fjoek) : SameQueues n { n with seam := { n.seam with waits := [] } } := .of_eq rfl rfl rfl
  exact .ite hpass ((hpass.trans (hwait _)).trans (.each _ _ (fun w _ m => sameQueues_enter m w) _))

theorem sameQueues_endWait (m : Fjoek) {k : Nat} (rd slot handle : Nat) (hk : k < 512) : SameQueues m (m.endWait k rd slot handle) := by
  have haddr : 0x200000 ≤ (SEAM_GSTAT_drained (k / 32)).addr ∧ (SEAM_GSTAT_drained (k / 32)).addr < 0x240000 := by
    simp only [SEAM_GSTAT_drained]
    omega
  exact (sameQueues_put _ _ 0 (gstat_ne_seam haddr)).from rfl rfl rfl

theorem sameQueues_assign (m : Fjoek) (h : Nat) (i : WorkItem) {k : Nat} (j : Nat) (hk : k < 512) : SameQueues m (m.assign h i k j) := by
  have howned : SameQueues m (((m.setQueue h ((m.queue h).erase i)).ownLease k i.handle).2) := .of_eq rfl rfl rfl
  unfold Fjoek.assign
  dsimp only
  refine SameQueues.trans ?_ (sameQueues_sitOut _ _)
  refine SameQueues.trans ?_ (sameQueues_endWait _ _ _ _ hk)
  refine SameQueues.trans ?_ (perf_sampled _ _ _ _ _ (by omega)).sameQueues
  exact howned.trans (.when _ _ ((logTwin_noted _ _ _ _).sameQueues.trans (.of_eq rfl rfl rfl)))

theorem sameQueues_dispatchGroup {g : Nat} (hg : g < 16) (n : Nat) (m : Fjoek) : SameQueues m (dispatchGroup g n m) := by
  induction n generalizing m with
  | zero => exact .refl m
  | succ n ih =>
    unfold dispatchGroup
    split
    · rename_i h i k _ ht
      exact (sameQueues_assign m h i _ (taker_lt m hg ht)).trans (ih _)
    · exact .refl m

theorem sameQueues_parkOverride (m : Fjoek) {g : Nat} (hg : g < 16) : SameQueues m (m.parkOverride g) := by
  unfold Fjoek.parkOverride
  refine SameQueues.ite (SameQueues.trans ?_ (latch_noted _ 480 (by decide)).sameQueues) (.refl m)
  refine (logCmd_noted m (SEAM_ECTL (4 * g)) 0).sameQueues.trans (.ite (.of_eq rfl rfl rfl) (sameQueues_put _ _ _ (gstat_ne_seam ?_)))
  simp only [SEAM_ECTL_park]
  omega

theorem sameQueues_dispatch (m : Fjoek) : SameQueues m m.dispatch := by
  have hsettled := sameQueues_settleQueues m
  refine .ite hsettled ((hsettled.trans (.each _ _ (fun g hg m => ?_) _)).trans (sameQueues_settleQueues _))
  have hg := List.mem_range.1 hg
  exact .ite ((sameQueues_parkOverride m hg).trans (sameQueues_dispatchGroup hg _ _)) (.refl m)

end Sys2Proof.Machine
end

section
/-! PROOFS. Descriptors are checked, start and complete (R108, R109, R112, R113). -/

namespace Sys2Proof.Machine

/-! ## Descriptors by their id -/

theorem id_of_findDesc {m : Fjoek} {id : Nat} {d : Desc} (h : m.findDesc id = some d) : d.id = id := by
  have := List.find?_some h
  simpa using this

theorem setDesc_setDesc (m : Fjoek) {d e : Desc} (h : d.id = e.id) : (m.setDesc d).setDesc e = m.setDesc e := by
  unfold Fjoek.setDesc
  simp only [List.map_map]
  congr 3
  funext x
  simp only [Function.comp_apply, h]
  split <;> simp_all

/-- A change of descriptors that keeps their ids changes what is found of one. -/
theorem find_map_id {f : Desc → Desc} (hf : ∀ d, (f d).id = d.id) (l : List Desc) (id : Nat) :
    (l.map f).find? (fun d => d.id == id) = (l.find? fun d => d.id == id).map f := by
  rw [List.find?_map]
  congr 2
  funext d
  rw [Function.comp_apply, hf]

theorem findDesc_setDesc {m : Fjoek} {d e : Desc} (h : m.findDesc e.id = some d) : (m.setDesc e).findDesc e.id = some e := by
  have hid := id_of_findDesc h
  unfold Fjoek.findDesc at h ⊢
  unfold Fjoek.setDesc
  rw [find_map_id (fun x => by split <;> simp_all), h]
  simp [hid]

/-- The descriptor as it starts. -/
def Desc.start (d : Desc) (m : Fjoek) : Desc := { d with phase := .started, params := if d.op = 1 then d.params else m.startParams d }

theorem startDesc_descs (m : Fjoek) (id : Nat) :
    ∃ n : Fjoek, (m.startDesc id).mngl.descs = m.mngl.descs.map fun d => if d.id = id then d.start n else d := by
  unfold Fjoek.startDesc
  split
  · exact ⟨_, rfl⟩
  · exact ⟨_, rfl⟩

theorem findDesc_startDesc {m : Fjoek} {id : Nat} {d : Desc} (h : m.findDesc id = some d) :
    ∃ q, (m.startDesc id).findDesc id = some q ∧ q.phase = .started := by
  have hid := id_of_findDesc h
  obtain ⟨n, hn⟩ := startDesc_descs m id
  refine ⟨d.start n, ?_, rfl⟩
  unfold Fjoek.findDesc at h ⊢
  rw [hn, find_map_id (fun x => by split <;> rfl), h, Option.map_some, if_pos hid]

/-! ## Tokens -/

theorem mngl_cause (m : Fjoek) (f : Fld) {e : Nat} (he : e < 512) : (m.cause f e).mngl = m.mngl := by
  unfold Fjoek.cause
  split
  · rfl
  · exact (latch_noted _ e he).mngl

theorem mngl_take (m : Fjoek) (c n : Nat) : (m.take c n).mngl = m.mngl := by
  unfold Fjoek.take Fjoek.when Fjoek.addDebt Fjoek.when
  split
  · dsimp only
    split
    · split
      · exact mngl_cause _ _ (by decide)
      · rfl
    · rfl
  · rfl

/-! ## A descriptor that leaves its queue -/

/-- The lead's log has the completion of `d`, where it logs it. -/
def Fjoek.logDone (m : Fjoek) (d : Desc) : Fjoek := m.when (d.xcomp && d.inFlight) fun m =>
  (m.logTwin 0x04 d.engine (d.id :: d.status :: m.outPrints d)).each (if d.op = 6 then [] else d.writes) fun p m =>
    m.notePrints p.1 0 (p.2.1 / 4096)

/-- The entry of `d` is free, and its status word stands in L where it asks for it (R112, R113). -/
def Fjoek.unqueue (m : Fjoek) (d : Desc) : Fjoek :=
  let n := m.logDone d
  Fjoek.when { n with mngl := { n.mngl with descs := m.mngl.descs.filter fun e => e.id != d.id } } (bitOf (d.w 0) 26) fun m =>
    m.lPut d.engine (8 * bitsOf (d.w 0) 41 27) (bytesOf 8 d.status)

theorem sameQueues_notePrints (m : Fjoek) (p : Place) (j n : Nat) : SameQueues m (m.notePrints p j n) := by
  unfold Fjoek.notePrints
  refine .ite (.each _ _ (fun i _ m => ?_) m) (.refl m)
  unfold Fjoek.setPrint
  refine .ite (.refl m) ?_
  cases p
  · exact .of_eq rfl rfl rfl
  · exact .of_eq rfl rfl rfl

theorem sameQueues_logDone (m : Fjoek) (d : Desc) : SameQueues m (m.logDone d) :=
  .when _ _ ((logTwin_noted _ _ _ _).sameQueues.trans (.each _ _ (fun _ _ m => sameQueues_notePrints m _ _ _) _))

theorem unqueue_descs (m : Fjoek) (d : Desc) : (m.unqueue d).mngl.descs = m.mngl.descs.filter fun e => e.id != d.id := by
  unfold Fjoek.unqueue Fjoek.when
  dsimp only
  split
  · rfl
  · rfl

theorem unqueue_causes (m : Fjoek) (d : Desc) {g : Nat} (hg : g < 16) : (m.unqueue d).reg (MNGL_GSTAT g) = m.reg (MNGL_GSTAT g) := by
  have hregs : (m.unqueue d).regs = (m.logDone d).regs := by
    unfold Fjoek.unqueue
    exact apply_ite Fjoek.regs _ _ _ |>.trans (ite_self _)
  refine Eq.trans ?_ ((sameQueues_logDone m d).causes g hg)
  unfold Fjoek.reg
  rw [hregs]

theorem unqueue_status (m : Fjoek) {d : Desc} (h : bitOf (d.w 0) 26 = true) :
    (m.unqueue d).lNat d.engine (8 * bitsOf (d.w 0) 41 27) 8 = d.status % 2 ^ 64 := by
  unfold Fjoek.unqueue Fjoek.when
  dsimp only
  rw [if_pos h]
  exact lNat_lPut _ _ _ 8 _

section
variable (m : Fjoek) {d : Desc} (he : d.engine < 64)
include he

/-- What follows the completion of a descriptor leaves the queues, L and the event causes. -/
theorem completeDesc_sameQueues : SameQueues (m.unqueue d) (m.completeDesc d) := by
  have hpost (n : Fjoek) : SameQueues n (if d.orphan then n else n.postTag d.engine (bitsOf (d.w 0) 25 16)) :=
    .ite (.refl n) (postTag_noted _ _ _).sameQueues
  refine SameQueues.trans ?_ (sameQueues_dispatch _)
  refine SameQueues.trans ?_ (sameQueues_settleGroup _ (by omega))
  refine SameQueues.trans ?_ (hpost _)
  refine SameQueues.trans ?_ (sameQueues_settleFences _)
  refine SameQueues.trans ?_ (sameQueues_wakeQueue _ _)
  exact (sameQueues_settleAll (m.unqueue d)).trans (noted_happen _ _ _).sameQueues

theorem completeDesc_gone : (m.completeDesc d).findDesc d.id = none := by
  rw [(completeDesc_sameQueues m he).findDesc]
  unfold Fjoek.findDesc
  rw [unqueue_descs, List.find?_eq_none]
  intro e hmem
  simpa using (List.mem_filter.1 hmem).2

theorem completeDesc_dinv {g : Nat} (hg : g < 16) : (m.completeDesc d).isOn (MNGL_GSTAT_dinv g) = m.isOn (MNGL_GSTAT_dinv g) := by
  have hreg : (m.unqueue d).reg (MNGL_GSTAT_dinv g).addr = m.reg (MNGL_GSTAT_dinv g).addr := unqueue_causes m d hg
  rw [(completeDesc_sameQueues m he).isOn_dinv hg]
  unfold Fjoek.isOn Fjoek.get
  rw [hreg]

theorem completeDesc_status (h : bitOf (d.w 0) 26 = true) :
    (m.completeDesc d).lNat d.engine (8 * bitsOf (d.w 0) 41 27) 8 = d.status % 2 ^ 64 :=
  ((completeDesc_sameQueues m he).lNat _ _ _).trans (unqueue_status m h)

/-- A descriptor that fails a check leaves the queue, and its cluster's event cause stands (R108). -/
theorem failCheck_gone (code : Nat) : (m.failCheck d code).findDesc d.id = none := completeDesc_gone _ (d := { d with code := code }) he

theorem failCheck_dinv (code : Nat) : (m.failCheck d code).isOn (MNGL_GSTAT_dinv (d.engine / 4)) = true := by
  have hg : d.engine / 4 < 16 := by omega
  have haddr : noting (MNGL_GSTAT_dinv (d.engine / 4)).addr = false := noting_seam _ (by simp only [MNGL_GSTAT_dinv]; omega)
  refine (completeDesc_dinv _ (d := { d with code := code }) he hg).trans ?_
  rw [((Noted.refl _).cause (MNGL_GSTAT_dinv (d.engine / 4)) (336 + d.engine / 4) (by omega) haddr rfl).isOn _ haddr]
  exact Fjoek.isOn_put_same _ _ rfl rfl

end

/-! ## The head of a sub-queue -/

/-- The head as it passes its checks: a GFMAC has read its parameter block (R101, R108). -/
def Fjoek.headed (m : Fjoek) (d : Desc) : Desc := if d.op = 1 then { d with params := m.startParams d } else d

/-- A part of a descriptor that is not its parameters. -/
theorem headed_field {α : Type} (f : Desc → α) (hf : ∀ (d : Desc) p, f { d with params := p } = f d) (m : Fjoek) (d : Desc) :
    f (m.headed d) = f d := by
  unfold Fjoek.headed
  split
  · exact hf d _
  · rfl

theorem headed_id (m : Fjoek) (d : Desc) : (m.headed d).id = d.id := headed_field Desc.id (fun _ _ => rfl) m d

theorem headed_cls (m : Fjoek) (d : Desc) : (m.headed d).cls = d.cls := headed_field Desc.cls (fun _ _ => rfl) m d

theorem descCost_headed (m : Fjoek) (d : Desc) : m.descCost (m.headed d) = m.descCost d := headed_field m.descCost (fun _ _ => rfl) m d

theorem check5_of_check {m : Fjoek} {d : Desc} (h : d.check m = 0) : d.check5 m = true := by
  unfold Desc.check at h
  dsimp only at h
  by_cases h14 : d.check14 m ≠ 0
  · rw [if_pos h14] at h
    exact absurd h h14
  · rw [if_neg h14] at h
    by_contra h5
    rw [if_pos (by simpa using h5)] at h
    cases h

/-- The head has asked for its tokens: it starts with them, or waits for them (R109). -/
def Fjoek.headDrawn (r : Bool × Fjoek) (e : Desc) : Fjoek :=
  if r.1 then (r.2.logTwin 0x07 0x86 [e.cls, e.id]).startDesc e.id else r.2.setDesc { e with phase := .drawing }

/-- The module as the checks find an evaluation point missing, or as it was (R115). -/
def Fjoek.missed (m : Fjoek) (d : Desc) : Fjoek :=
  m.when (d.check14 m == 0 && !d.check5 m && d.op != 5) fun m => m.cause MNGL_STAT_fpz_miss 336

/-- The head of a sub-queue fails a check or asks for its tokens (R108, R109). -/
def Fjoek.headChecked (m : Fjoek) (d : Desc) : Fjoek :=
  if d.check m ≠ 0 then (m.missed d).failCheck d (d.check m)
  else
    let n := m.missed d
    let e := n.headed d
    Fjoek.headDrawn ((n.setDesc e).request e.cls (n.descCost e) (.desc e.id)) e

theorem missed_of_check {m : Fjoek} {d : Desc} (h : d.check m = 0) : m.missed d = m := by
  unfold Fjoek.missed
  rw [check5_of_check h, Bool.not_true, Bool.and_false, Bool.false_and]
  rfl

theorem headChecked_passes {m : Fjoek} {d : Desc} (h : d.check m = 0) : m.headChecked d =
    Fjoek.headDrawn ((m.setDesc (m.headed d)).request d.cls (m.descCost d) (.desc d.id)) (m.headed d) := by
  unfold Fjoek.headChecked
  rw [if_neg (not_not.2 h), missed_of_check h]
  dsimp only
  rw [headed_cls, headed_id, descCost_headed]

theorem setDesc_setDraws (m : Fjoek) (d : Desc) (c : Nat) (l : List Draw) : (m.setDesc d).setDraws c l = (m.setDraws c l).setDesc d := rfl

section
variable {s : State} {g : Fin 16} {c : Fin 6} {d : Desc}
  (hf : (s.m.clusterDescs g.val).find? (fun q => q.cls == c.val && !q.inFlight) = some d)
include hf

theorem head_engine : d.engine < 64 := by
  have hg := (List.mem_filter.1 (List.mem_of_find?_eq_some hf)).2
  have hlt := g.isLt
  rw [beq_iff_eq] at hg
  omega

theorem head_cls : d.cls = c.val := by
  have hc := List.find?_some hf
  rw [Bool.and_eq_true, beq_iff_eq] at hc
  exact hc.1

theorem head_found : ∃ q, s.m.findDesc d.id = some q := by
  have hmem := (List.mem_filter.1 (List.mem_of_find?_eq_some hf)).1
  exact Option.isSome_iff_exists.1 (List.find?_isSome.2 ⟨d, hmem, beq_self_eq_true _⟩)

/-- The head check of a running module, where nothing earlier holds the head back (R97). -/
theorem exec_headCheck (hrun : s.m.runs 3 = true) (hw : d.phase = .waiting) (hord : bitOf (d.w 0) 14 = false ∨ s.m.earlier d = false) :
    exec (.descriptorHeadCheck g c) s = .next (s.settle (s.m.headChecked d)) := by
  have hfree : ¬((!s.m.runs 3) = true ∨ d.phase ≠ .waiting ∨ bitOf (d.w 0) 14 = true ∧ s.m.earlier d = true) := by
    rintro (h | h | ⟨h14, he⟩)
    · rw [hrun] at h
      cases h
    · exact h hw
    · rcases hord with h | h
      · exact Bool.false_ne_true (h.symm.trans h14)
      · exact Bool.false_ne_true (h.symm.trans he)
  refine on_effect (f := fun m => _) ?_
  simp only [hf]
  exact if_neg hfree

theorem ends_headFails (hrun : s.m.runs 3 = true) (hw : d.phase = .waiting) (hord : bitOf (d.w 0) 14 = false ∨ s.m.earlier d = false)
    (hc : d.check s.m ≠ 0) : Ends (.descriptorHeadCheck g c) s fun t =>
      t.findDesc d.id = none ∧ t.isOn (MNGL_GSTAT_dinv (d.engine / 4)) = true := by
  have he := head_engine hf
  refine ends_of _ _ _ _ (exec_headCheck hf hrun hw hord) fun t hn => ?_
  have hq := hn.sameQueues
  rw [show s.m.headChecked d = (s.m.missed d).failCheck d (d.check s.m) from if_pos hc] at hq
  exact ⟨(hq.findDesc d.id).trans (failCheck_gone _ he _), (hq.isOn_dinv (by omega)).trans (failCheck_dinv _ he _)⟩

/-- A head whose draw is served starts. -/
theorem ends_headStarts (hrun : s.m.runs 3 = true) (hw : d.phase = .waiting) (hord : bitOf (d.w 0) 14 = false ∨ s.m.earlier d = false)
    (hc : d.check s.m = 0) {r : Fjoek} (hr : (s.m.setDesc (s.m.headed d)).request c.val (s.m.descCost d) (.desc d.id) = (true, r))
    (hm : r.mngl = (s.m.setDesc (s.m.headed d)).mngl) :
    Ends (.descriptorHeadCheck g c) s fun t => ∃ q, t.findDesc d.id = some q ∧ q.phase = .started := by
  obtain ⟨q, hq⟩ := head_found hf
  have hset : (s.m.setDesc (s.m.headed d)).findDesc (s.m.headed d).id = some (s.m.headed d) :=
    findDesc_setDesc (d := q) ((congrArg s.m.findDesc (headed_id s.m d)).trans hq)
  have hlog : (r.logTwin 0x07 0x86 [(s.m.headed d).cls, (s.m.headed d).id]).findDesc (s.m.headed d).id = some (s.m.headed d) := by
    rw [← hset]
    unfold Fjoek.findDesc
    rw [(logTwin_noted r _ _ _).mngl, hm]
  refine ends_of _ _ _ _ (exec_headCheck hf hrun hw hord) fun t hn => ?_
  have hsame := hn.sameQueues
  rw [headChecked_passes hc, head_cls hf, hr] at hsame
  obtain ⟨q', hq', hstart⟩ := findDesc_startDesc hlog
  refine ⟨q', ?_, hstart⟩
  rw [← headed_id s.m d]
  exact (hsame.findDesc _).trans hq'

/-- A head whose draw is not served waits for its tokens. -/
theorem does_headWaits (hrun : s.m.runs 3 = true) (hw : d.phase = .waiting) (hord : bitOf (d.w 0) 14 = false ∨ s.m.earlier d = false)
    (hc : d.check s.m = 0) (hn : s.m.descCost d ≠ 0) (hg : s.m.grants c.val (s.m.descCost d) = false) :
    Does (.descriptorHeadCheck g c) s ((s.m.setDraws c.val (s.m.draws c.val ++ [⟨.desc d.id, s.m.descCost d⟩])).setDesc
      { s.m.headed d with phase := .drawing }) := by
  refine does_settled ((exec_headCheck hf hrun hw hord).trans ?_)
  rw [headChecked_passes hc, head_cls hf, request_queued (m := s.m.setDesc (s.m.headed d)) _ hn hg]
  exact congrArg (fun n => Host.Outcome.next (s.settle n))
    (setDesc_setDesc (d := s.m.headed d) (e := { s.m.headed d with phase := .drawing }) (s.m.setDraws _ _) rfl)

end

/-- A request that the rules of its class grant takes its tokens, and changes no descriptor (R449). -/
theorem request_granted_mngl {m : Fjoek} {c n : Nat} (who : Drawer) (ht : m.trailing = false)
    (h : n = 0 ∨ c = 2 ∨ (m.draws c = [] ∧ ((Nat.min n (m.depth c) : Nat) : Int) ≤ m.level c)) :
    ∃ r, m.request c n who = (true, r) ∧ r.mngl = m.mngl := by
  by_cases hn : n = 0
  · exact ⟨m, request_zero who hn, rfl⟩
  · refine ⟨m.take c n, request_granted who hn ht ?_, mngl_take m c n⟩
    by_cases hc : c = 2
    · rw [hc]
      exact grants_c2
    · exact (grants_iff hn hc).2 ((h.resolve_left hn).resolve_left hc)

/-! ## The end of a descriptor -/

section
variable {s : State} {id : Nat} {d : Desc} (hf : s.m.findDesc id = some d)
include hf

theorem does_complete_held (hh : s.m.tlpHeld d = true) : Does (.descriptorComplete id) s s.m := by
  refine does_settled (on_effect (f := fun m => _) ?_)
  simp only [hf]
  exact if_neg fun h => by simp [hh] at h

theorem ends_complete (hd : d.phase = .done) (ht : s.m.trailing = false) (hh : s.m.tlpHeld d = false) (he : d.engine < 64) : Ends (.descriptorComplete id) s fun t => t.findDesc d.id = none ∧
    (bitOf (d.w 0) 26 = true → t.lNat d.engine (8 * bitsOf (d.w 0) 41 27) 8 = d.status % 2 ^ 64) := by
  have hx : exec (.descriptorComplete id) s = .next (s.settle (s.m.completeDesc d)) := by
    refine on_effect (f := fun m => _) ?_
    simp only [hf]
    exact if_pos ⟨hd, by simp [ht], by simp [hh]⟩
  refine ends_of _ _ _ _ hx fun t hn => ?_
  have hq := hn.sameQueues
  exact ⟨(hq.findDesc d.id).trans (completeDesc_gone _ he), fun h => (hq.lNat _ _ _).trans (completeDesc_status _ he h)⟩

end

/-- Settles O20: what is put at a place stands there alone; a head fails its checks, starts or waits; a descriptor that is done leaves. -/
theorem descriptors : Obligations.Descriptors := by
  unfold Obligations.Descriptors
  refine ⟨putAt_stands, fun s g c id d => ?_⟩
  intro m n e level gone
  refine ⟨fun hrun hf hw hord => ⟨fun hc => ends_headFails hf hrun hw hord hc, fun hc ht hn => ?_, fun hc hn h2 hl => ?_⟩,
    fun hf _ _ hh => does_complete_held hf hh, fun hf hd ht hh he _ => ends_complete hf hd ht hh he⟩
  · obtain ⟨r, hr, hm⟩ := request_granted_mngl (m := m.setDesc (m.headed d)) (.desc d.id) ht hn
    exact ends_headStarts hf hrun hw hord hc hr hm
  · refine does_headWaits hf hrun hw hord hc hn ?_
    rw [Bool.eq_false_iff]
    exact fun hg => hl ((grants_iff hn h2).1 hg)

end Sys2Proof.Machine
end

section
/-! PROOFS. What the bulk operations share (R100 to R107, R112, R114): sources that are intact, bytes put at a place, and the completion point. -/

namespace Sys2Proof.Machine

/-! ## Bytes put beside latches and counts -/

theorem Noted.setMngl {m n : Fjoek} (h : Noted m n) (q : Mngl) : Noted { m with mngl := q } { n with mngl := q } := { h with mngl := rfl }

theorem Noted.setDesc {m n : Fjoek} (h : Noted m n) (d : Desc) : Noted (m.setDesc d) (n.setDesc d) := by
  unfold Fjoek.setDesc
  rw [h.mngl]
  exact h.setMngl _

theorem Noted.inStaging {m n : Fjoek} (h : Noted m n) (a k : Nat) : n.inStaging a k = m.inStaging a k := by
  unfold Fjoek.inStaging
  rw [h.seam]

theorem Noted.hbmStore {m n : Fjoek} (h : Noted m n) (a : Nat) (b : List Byte) : Noted (m.hbmStore a b) (n.hbmStore a b) :=
  { h with
    hbm := congrArg (fun t => listBytes t a b) h.hbm
    poison := ⟨congrArg (fun t => rewriteUnits t id a b.length) h.poison.1, congrArg (fun t => rewriteUnits t id a b.length) h.poison.2⟩
    twin := by
      unfold Fjoek.hbmStore Fjoek.happen
      dsimp only
      rw [h.reg _ (by decide), h.twin] }

theorem Noted.hbmWrite {m n : Fjoek} (h : Noted m n) (a : Nat) (b : List Byte) : Noted (m.hbmWrite a b) (n.hbmWrite a b) := by
  unfold Fjoek.hbmWrite Fjoek.hbmPut
  rw [h.inStaging, h.inAperture, h.get STRP_APBASE_base (by decide)]
  split
  · exact h
  · split
    · exact h.hbmStore _ _
    · exact (h.hbmStore _ _).hbmStore _ _

theorem Noted.leasePut {m n : Fjoek} (h : Noted m n) (x o : Nat) (b : List Byte) : Noted (m.leasePut x o b) (n.leasePut x o b) := by
  have hl : n.leaseAt x = m.leaseAt x := by
    unfold Fjoek.leaseAt
    rw [h.mngl]
  unfold Fjoek.leasePut
  rw [hl, h.mngl]
  exact { h with mngl := rfl, twin := by dsimp only; rw [h.twin] }

theorem Noted.putAt {m n : Fjoek} (h : Noted m n) (p : Place) (b : List Byte) : Noted (m.putAt p b) (n.putAt p b) := by
  cases p with
  | cell k o => exact h.leasePut _ _ _
  | mem a => exact h.hbmWrite _ _

/-- Bytes put at several places in turn. -/
theorem Noted.puts {m n : Fjoek} (h : Noted m n) (l : List (Place × List Byte)) :
    Noted (l.foldl (fun n p => n.putAt p.1 p.2) m) (l.foldl (fun n p => n.putAt p.1 p.2) n) := by
  induction l generalizing m n with
  | nil => exact h
  | cons x r ih => exact ih (h.putAt _ _)

/-! ## Sources that are intact -/

/-- The module with other counts of happenings. -/
def Fjoek.tallied (m : Fjoek) (t : Table Nat) : Fjoek := { m with tally := t }

theorem tallied_noted (m : Fjoek) (t : Table Nat) : Noted m (m.tallied t) := noted_tally m t

/-- One unit more is asked for; `one` says which part of the range it holds. -/
def meetUnit (detect : Fjoek → Nat → Bool × Fjoek) (one : Nat → Nat × Nat) (r : List (Nat × Nat) × Fjoek) (u : Nat) :
    List (Nat × Nat) × Fjoek :=
  let q := detect r.2 u
  (if q.1 then r.1 ++ [one u] else r.1, q.2)

section
variable {detect : Fjoek → Nat → Bool × Fjoek} {one : Nat → Nat × Nat}

theorem meetUnits_nil {us : List Nat} {r : List (Nat × Nat) × Fjoek} (h : (us.foldl (meetUnit detect one) r).1 = []) : r.1 = [] := by
  induction us generalizing r with
  | nil => exact h
  | cons u us ih =>
    have hstep : (if (detect r.2 u).1 then r.1 ++ [one u] else r.1) = [] := ih h
    split at hstep
    · exact absurd hstep (by simp)
    · exact hstep

/-- A range of which no part is bad was read as it stood, and each of its units is intact. -/
theorem meetUnits_intact (hd : ∀ m u, (detect m u).1 = false → detect m u = (false, m)) {us : List Nat} {m : Fjoek}
    (h : (us.foldl (meetUnit detect one) ([], m)).1 = []) : ∀ u ∈ us, (detect m u).1 = false := by
  induction us with
  | nil => simp
  | cons u us ih =>
    rw [List.foldl_cons] at h
    have hstep : (if (detect m u).1 then [] ++ [one u] else []) = [] := meetUnits_nil h
    have hu : (detect m u).1 = false := by
      by_contra hc
      rw [if_pos (by simpa using hc)] at hstep
      cases hstep
    have hsame : meetUnit detect one ([], m) u = ([], m) := by
      unfold meetUnit
      rw [hd m u hu]
      rfl
    rw [hsame] at h
    exact List.forall_mem_cons.2 ⟨hu, ih h⟩

theorem meetUnits_of_intact (hd : ∀ m u, (detect m u).1 = false → detect m u = (false, m)) {us : List Nat} {m : Fjoek}
    (h : ∀ u ∈ us, (detect m u).1 = false) : us.foldl (meetUnit detect one) ([], m) = ([], m) := by
  induction us with
  | nil => rfl
  | cons u us ih =>
    obtain ⟨hu, hr⟩ := List.forall_mem_cons.1 h
    have hsame : meetUnit detect one ([], m) u = ([], m) := by
      unfold meetUnit
      rw [hd m u hu]
      rfl
    rw [List.foldl_cons, hsame, ih hr]

end

/-- How a reader meets unit `u` of a place. -/
def Fjoek.unitOf (m : Fjoek) (g : Option Nat) (p : Place) (n : Fjoek) (u : Nat) : Bool × Fjoek :=
  match p with
  | .cell h _ => n.bufDetect g [(m.leaseAt (h % 65536)).byteAddr (64 * u) / 64]
  | .mem _ => n.hbmDetect g (64 * u) 64

theorem unitOf_clean (m : Fjoek) (g : Option Nat) (p : Place) (n : Fjoek) (u : Nat) (h : (m.unitOf g p n u).1 = false) :
    m.unitOf g p n u = (false, n) := by
  cases p with
  | cell k o => exact bufDetect_clean h
  | mem a => exact hbmDetect_clean n g _ _ h

theorem unitOf_tallied (m : Fjoek) (t t' : Table Nat) (g : Option Nat) (p : Place) (u : Nat) :
    ((m.tallied t).unitOf g p (m.tallied t') u).1 = (m.unitOf g p m u).1 := by
  cases p
  · rfl
  · rfl

/-- The part of a range of `n` bytes from `o` that unit `u` holds. -/
def partOf (o n u : Nat) : Nat × Nat := (Nat.max (64 * u) o - o, Nat.min (64 * u + 64) (o + n) - Nat.max (64 * u) o)

/-- A reader of a place meets the units of its range in turn. -/
theorem spans_eq (m : Fjoek) (g : Option Nat) (p : Place) (n : Nat) :
    ∃ t, m.spans g p n = (unitsTouched p.off n).foldl (meetUnit (m.unitOf g p) (partOf p.off n)) ([], m.tallied t) := by
  cases p with
  | cell k o => exact ⟨m.tally, rfl⟩
  | mem a => exact ⟨_, rfl⟩

/-- An intact source is read with no more than counts of happenings, whatever is counted. -/
theorem spans_intact {m : Fjoek} {g : Option Nat} {p : Place} {n : Nat} (h : (m.spans g p n).1 = []) (t : Table Nat) :
    ∃ t', (m.tallied t).spans g p n = ([], m.tallied t') := by
  obtain ⟨t0, h0⟩ := spans_eq m g p n
  obtain ⟨t1, h1⟩ := spans_eq (m.tallied t) g p n
  rw [h0] at h
  have hunits := meetUnits_intact (unitOf_clean m g p) h
  refine ⟨t1, h1.trans (meetUnits_of_intact (unitOf_clean (m.tallied t) g p) fun u hu => ?_)⟩
  exact (unitOf_tallied m t t1 g p u).trans ((unitOf_tallied m m.tally t0 g p u).symm.trans (hunits u hu))

end Sys2Proof.Machine
end

section
/-! PROOFS. Each bulk operation (R99 to R107): a started descriptor whose source is intact puts its result and is done. -/

namespace Sys2Proof.Machine

/-! ## The completion point -/

/-- The descriptor at its completion point, with its code and result. -/
def Desc.done (d : Desc) (code result : Nat) : Desc := { d with phase := .done, code := code, result := result }

theorem fpx_of_op {d : Desc} (h : d.op ≠ 0) : d.fpx = false := by
  unfold Desc.fpx
  rw [beq_false_of_ne h, Bool.false_and]

theorem acted_noted {m n : Fjoek} {d : Desc} (h : Noted m n) (hx : d.fpx = false) (code result : Nat) :
    Noted (m.setDesc (d.done code result)) (n.acted d code result) := by
  have hin : (if code = 7 then n else n.printsIn d) = n := by
    unfold Fjoek.printsIn
    rw [hx, if_neg (fun hc : false = true ∧ 2 ≤ d.ssp => Bool.false_ne_true hc.1), ite_self]
  unfold Fjoek.acted
  dsimp only
  rw [hin]
  exact (h.setDesc _).trans (noted_happen _ _ _)

/-- A command that brings a descriptor to its completion point. -/
theorem does_acted {c : Instr} {s : State} {m n : Fjoek} {d : Desc} {code result : Nat} (hx : exec c s = .next (s.settle (n.acted d code result)))
    (hn : Noted m n) (hfpx : d.fpx = false) : Does c s (m.setDesc (d.done code result)) :=
  does_of _ _ _ _ hx (acted_noted hn hfpx code result)

theorem startedDesc_found {m : Fjoek} {id : Nat} {d : Desc} (hf : m.findDesc id = some d) (hp : d.phase = .started) (hr : m.runs 3 = true)
    (hw : m.twin.waiters = []) : m.startedDesc id d.op = some d := by
  have hawaits : m.awaits d = false := by
    unfold Fjoek.awaits
    rw [hw]
    rfl
  unfold Fjoek.startedDesc
  simp only [hf]
  exact if_pos (by simp [hp, hr, hawaits])

/-- Nothing on a module that is no trailing twin, and holds no print, stands for a block (R359). -/
structure NoPrints (m : Fjoek) : Prop where
  trailing : m.trailing = false
  prints : m.mngl.prints = []
  shadow : m.twin.shadow = []

theorem NoPrints.printAt {m : Fjoek} (h : NoPrints m) (p : Place) (j : Nat) : m.printAt p j = none := by
  unfold Fjoek.printAt
  rw [h.prints, h.shadow]
  split
  · rfl
  · split
    · rfl
    · rfl

theorem NoPrints.heldPrint {m : Fjoek} (h : NoPrints m) (p : Place) (j : Nat) : m.heldPrint p j = none :=
  if_neg (by rw [h.trailing]; exact Bool.false_ne_true)

theorem NoPrints.putAt {m : Fjoek} (h : NoPrints m) (p : Place) (b : List Byte) :
    (m.putAt p b).mngl.prints = [] ∧ (m.putAt p b).twin.shadow = [] := by
  have hstore {n : Fjoek} (hp : n.mngl.prints = []) (hs : n.twin.shadow = []) (a : Nat) (b : List Byte) :
      (n.hbmStore a b).mngl.prints = [] ∧ (n.hbmStore a b).twin.shadow = [] := by
    refine ⟨hp, ?_⟩
    unfold Fjoek.hbmStore Fjoek.happen
    dsimp only
    rw [hs]
    rfl
  cases p with
  | cell k o =>
    refine ⟨?_, h.shadow⟩
    unfold Fjoek.putAt Fjoek.leasePut
    dsimp only
    rw [h.prints]
    rfl
  | mem a =>
    unfold Fjoek.putAt Fjoek.hbmWrite Fjoek.hbmPut
    dsimp only
    split
    · exact ⟨h.prints, h.shadow⟩
    · split
      · exact hstore h.prints h.shadow _ _
      · obtain ⟨hp, hs⟩ := hstore h.prints h.shadow a (b.take (m.get STRP_APBASE_base * 2 ^ 27 - a))
        exact hstore hp hs _ _

theorem setPrint_none {m : Fjoek} (hp : m.mngl.prints = []) (hs : m.twin.shadow = []) (p : Place) (j : Nat) : m.setPrint p j none = m := by
  unfold Fjoek.setPrint
  split
  · rfl
  · cases p with
    | cell k o =>
      have hq : ({ m.mngl with prints := tableErase m.mngl.prints (1024 * (k % 65536) + o / 4096 + j) } : Mngl) = m.mngl := by
        rw [hp, show tableErase ([] : Table Nat) _ = m.mngl.prints from hp.symm]
      exact congrArg (fun q => { m with mngl := q }) hq
    | mem a =>
      have hq : ({ m.twin with shadow := tableErase m.twin.shadow (a / 4096 + j) } : Twin) = m.twin := by
        rw [hs, show tableErase ([] : Table Nat) _ = m.twin.shadow from hs.symm]
      exact congrArg (fun q => { m with twin := q }) hq

theorem setPrints_none {m : Fjoek} (hp : m.mngl.prints = []) (hs : m.twin.shadow = []) (p : Place) {l : List (Option Nat × Nat)}
    (h : ∀ q ∈ l, q.1 = none) : m.each l (fun q m => m.setPrint p q.2 q.1) = m := by
  unfold Fjoek.each
  induction l with
  | nil => rfl
  | cons q r ih =>
    obtain ⟨hq, hr⟩ := List.forall_mem_cons.1 h
    rw [List.foldl_cons]
    dsimp only
    rw [hq, setPrint_none hp hs, ih hr]

theorem hbmStore_regs (m : Fjoek) (a : Nat) (b : List Byte) : (m.hbmStore a b).regs = m.regs := rfl

theorem putAt_regs (m : Fjoek) (p : Place) (b : List Byte) : (m.putAt p b).regs = m.regs := by
  cases p with
  | cell k o => rfl
  | mem a =>
    unfold Fjoek.putAt Fjoek.hbmWrite Fjoek.hbmPut
    dsimp only
    split
    · rfl
    · split
      · exact hbmStore_regs _ _ _
      · rw [hbmStore_regs, hbmStore_regs]

theorem poisonSpans_nil (m : Fjoek) (p : Place) : m.poisonSpans p [] = m := rfl

/-! ## MOVE and FPRINT -/

/-- The endpoints of a MOVE between B and B or H. -/
def Desc.src (d : Desc) : Place := placeOf d.ssp (d.w 2)
def Desc.dst (d : Desc) : Place := placeOf d.dsp (d.w 1)

theorem Desc.src_buffer {d : Desc} (h : d.ssp = 0) : d.src = placeOf 0 (d.w 2) := congrArg (placeOf · (d.w 2)) h

theorem Desc.dst_buffer {d : Desc} (h : d.dsp = 0) : d.dst = placeOf 0 (d.w 1) := congrArg (placeOf · (d.w 1)) h

/-- A MOVE of an intact source puts its bytes at the destination, and nothing else but its end (R100). -/
theorem moveLocal_intact {m : Fjoek} {d : Desc} (hno : NoPrints m) (hx : d.fpx = false) (hmir : m.isOn TWIN_MIRWIN_en = false)
    (hs : (m.spans d.req d.src d.len).1 = []) :
    ∃ t, m.moveLocal d = ((m.tallied t).putAt d.dst (d.src.bytes m d.len)).acted d 0 0 := by
  obtain ⟨t, ht⟩ := spans_intact hs m.tally
  have hnot : NoPrints (m.tallied t) := ⟨hno.trailing, hno.prints, hno.shadow⟩
  obtain ⟨hp, hsh⟩ := hnot.putAt d.dst (d.src.bytes m d.len)
  have hmirror : ((m.tallied t).putAt d.dst (d.src.bytes m d.len)).mirrorBound d = false := by
    have hoff : ((m.tallied t).putAt d.dst (d.src.bytes m d.len)).isOn TWIN_MIRWIN_en = m.isOn TWIN_MIRWIN_en := by
      unfold Fjoek.isOn Fjoek.get Fjoek.reg
      rw [putAt_regs]
      rfl
    unfold Fjoek.mirrorBound
    rw [hoff, hmir, Bool.and_false, Bool.false_and]
  have hprints (n : Fjoek) (k : Nat) (hp : n.mngl.prints = []) (hsh : n.twin.shadow = []) :
      n.each ((List.range k).map fun j => (m.tallied t).printAt d.src j).zipIdx (fun p n => n.setPrint d.dst p.2 p.1) = n := by
    refine setPrints_none hp hsh _ fun q hq => ?_
    obtain ⟨j, -, hj⟩ := List.mem_map.1 (List.fst_mem_of_mem_zipIdx hq)
    exact hj.symm.trans (hnot.printAt _ _)
  refine ⟨t, ?_⟩
  unfold Fjoek.moveLocal
  dsimp only
  rw [show placeOf d.ssp (d.w 2) = d.src from rfl, show placeOf d.dsp (d.w 1) = d.dst from rfl,
    show m.spans d.req d.src d.len = ([], m.tallied t) from ht]
  dsimp only
  rw [hx, if_neg Bool.false_ne_true, poisonSpans_nil, hprints _ _ hp hsh, ite_self, hmirror]
  rfl

/-- The fingerprints of the blocks of a source (R104). -/
def Fjoek.printBytes (m : Fjoek) (d : Desc) (src : Place) : List Byte :=
  (((List.range (d.len / 4096)).map fun j => fprint (nth d.params 0 0) (((src.at (4096 * j)).bytes m 4096).map BitVec.toNat)).map
    (bytesOf 8)).flatten

theorem writePrints_intact {m : Fjoek} (hno : NoPrints m) (d : Desc) (src out : Place) :
    m.writePrints d src out [] = m.putAt out (m.printBytes d src) := by
  unfold Fjoek.writePrints Fjoek.printBytes
  simp only [hno.heldPrint]
  rfl

/-! ## PI, XTS and HASH -/

/-- The blocks that PI of mode 3 makes of a source (R105). -/
def Fjoek.piBytes (m : Fjoek) (d : Desc) (src : Place) : List Byte :=
  ((List.range d.len).map fun i => d.piMade i (((src.bytes m (d.len * d.piData)).drop (i * d.piData)).take d.piData)
    (List.replicate d.piMeta 0)).flatten

/-- The data units of a source under the key pair that the descriptor started with (R106). -/
def Fjoek.xtsBytes (m : Fjoek) (d : Desc) (src : Place) : List Byte :=
  let key := (bytesOf 64 (nth d.params 0 0)).map BitVec.toNat
  (xtsUnits (bitOf d.hi 0) (key.take 32) (key.drop 32) d.unit (d.len / d.unit) (d.w 5) ((src.bytes m d.len).map BitVec.toNat)).map
    (BitVec.ofNat 8)

/-- The digest of a source that is first and last, and zeros up to 128 bytes (R107). -/
def Fjoek.hashBytes (m : Fjoek) (d : Desc) (src : Place) : List Byte :=
  let text := (src.bytes m d.len).map BitVec.toNat
  let q := text.length / 128
  let tail := shaPad d.len (text.drop (128 * q))
  (shaDigest (shaBlocks (tail.length / 128) (shaBlocks q shaInit text) tail)).map (BitVec.ofNat 8) ++ List.replicate 80 0

/-! ## COMPARE -/

theorem firstDiff_same (i : Nat) (l : List Byte) : firstDiff i l l = none := by
  induction l generalizing i with
  | nil => rfl
  | cons x r ih => exact (if_pos rfl).trans (ih (i + 1))

/-- Lists that agree up to an offset and differ there differ first there. -/
theorem firstDiff_at {a b : List Byte} {k : Nat} (ha : k < a.length) (hb : k < b.length) (hne : a[k] ≠ b[k])
    (heq : ∀ j, (h : j < k) → a[j] = b[j]) (i : Nat) : firstDiff i a b = some (i + k) := by
  induction k generalizing a b i with
  | zero =>
    obtain ⟨x, r, rfl⟩ := List.exists_cons_of_length_pos ha
    obtain ⟨y, t, rfl⟩ := List.exists_cons_of_length_pos hb
    exact if_neg hne
  | succ k ih =>
    obtain ⟨x, r, rfl⟩ := List.exists_cons_of_length_pos (Nat.zero_lt_of_lt ha)
    obtain ⟨y, t, rfl⟩ := List.exists_cons_of_length_pos (Nat.zero_lt_of_lt hb)
    have hxy : x = y := heq 0 (Nat.succ_pos k)
    refine (if_pos hxy).trans ?_
    rw [ih (by simpa using ha) (by simpa using hb) (by simpa using hne) (fun j hj => by simpa using heq (j + 1) (by omega))]
    congr 1
    omega

theorem Place.bytes_length (m : Fjoek) (n : Nat) (p : Place) : (p.bytes m n).length = n := by
  cases p with
  | cell k o => simp [Place.bytes, Fjoek.leaseBytes]
  | mem a => simp [Place.bytes, Fjoek.hbmBytes]

/-- Two places whose bytes agree up to an offset and differ there. -/
theorem firstDiff_bytes {m : Fjoek} {p q : Place} {n i : Nat} (hi : i < n)
    (hne : ((p.bytes m n).getD i 0).toNat ≠ ((q.bytes m n).getD i 0).toNat)
    (hsame : ∀ j < i, ((p.bytes m n).getD j 0).toNat = ((q.bytes m n).getD j 0).toNat) :
    firstDiff 0 (p.bytes m n) (q.bytes m n) = some i := by
  have hget (r : Place) {j : Nat} (hj : j < n) : (r.bytes m n).getD j 0 = (r.bytes m n)[j]'(by rwa [r.bytes_length]) :=
    List.getD_eq_getElem _ _ _
  rw [hget p hi, hget q hi] at hne
  refine (firstDiff_at (by rwa [p.bytes_length]) (by rwa [q.bytes_length]) (fun h => hne (congrArg _ h)) (fun j hj => ?_) 0).trans
    (congrArg some (Nat.zero_add i))
  have h := hsame j hj
  rw [hget p (by omega), hget q (by omega)] at h
  exact BitVec.eq_of_toNat_eq h

/-! ## The commands of started descriptors -/

section
variable {s : State} {id : Nat} {d : Desc} (hst : s.m.startedDesc id d.op = some d)
include hst

theorem does_bulkMove (hop : d.op = 0) (hdsp : d.dsp ≤ 1) (hssp : d.ssp ≤ 1) (hx : d.fpx = false) (hmir : s.m.isOn TWIN_MIRWIN_en = false)
    (hs : (s.m.spans d.req d.src d.len).1 = []) (hno : NoPrints s.m) :
    Does (.bulkMove id) s ((s.m.putAt d.dst (d.src.bytes s.m d.len)).setDesc (d.done 0 0)) := by
  obtain ⟨t, ht⟩ := moveLocal_intact hno hx hmir hs
  have hdrive : d.drive = none := if_neg (by omega)
  rw [hop] at hst
  refine does_acted (on_effect (f := fun m => _) ?_) ((tallied_noted _ t).putAt _ _) hx
  simp only [hst, hdrive]
  rw [if_neg (by omega), if_neg (by omega)]
  exact ht

theorem does_bulkFprint (hop : d.op = 3) (hdsp : d.dsp = 0) (hssp : d.ssp = 0) (hs : (s.m.spans d.req d.src d.len).1 = []) (hno : NoPrints s.m) :
    Does (.bulkFprint id) s ((s.m.putAt d.dst (s.m.printBytes d d.src)).setDesc (d.done 0 0)) := by
  rw [Desc.src_buffer hssp] at hs ⊢
  rw [Desc.dst_buffer hdsp]
  obtain ⟨t, ht⟩ := spans_intact hs s.m.tally
  have hnot : NoPrints (s.m.tallied t) := ⟨hno.trailing, hno.prints, hno.shadow⟩
  rw [hop] at hst
  refine does_acted (on_effect (f := fun m => _) ?_) ((tallied_noted _ t).putAt _ _) (fpx_of_op (by omega))
  simp only [hst]
  rw [show s.m.spans d.req (placeOf 0 (d.w 2)) d.len = ([], s.m.tallied t) from ht]
  exact congrArg (fun n => Fjoek.acted n d 0 0) (writePrints_intact hnot d _ _)

/-- PI of mode 3 adds metadata to each block (R105). -/
theorem does_bulkPi_made (hop : d.op = 4) (hmode : d.piMode = 3) (hdsp : d.dsp = 0) (hssp : d.ssp = 0)
    (hs : (s.m.spans d.req d.src (d.len * d.piData)).1 = []) :
    Does (.bulkPi id) s ((s.m.putAt d.dst (s.m.piBytes d d.src)).setDesc (d.done 0 0)) := by
  rw [Desc.src_buffer hssp] at hs ⊢
  rw [Desc.dst_buffer hdsp]
  obtain ⟨t, ht⟩ := spans_intact hs s.m.tally
  rw [hop] at hst
  refine does_acted (on_effect (f := fun m => _) ?_) ((tallied_noted _ t).putAt _ _) (fpx_of_op (by omega))
  simp only [hst, hmode, if_true]
  rw [show s.m.spans d.req (placeOf 0 (d.w 2)) (d.len * d.piData) = ([], s.m.tallied t) from ht]
  rfl

/-- PI of mode 0 verifies each block, up to the first that fails (R105). -/
theorem does_bulkPi_verified (hop : d.op = 4) (hmode : d.piMode = 0) (hssp : d.ssp = 0)
    (hs : (s.m.spans d.req d.src (d.len * (d.piData + d.piMeta))).1 = []) {r : Nat × Nat}
    (hr : d.piVerify d.len 0 (d.src.bytes s.m (d.len * (d.piData + d.piMeta))) = r) :
    Does (.bulkPi id) s (s.m.setDesc
      (Desc.done { d with detail := r.2 } (if r.2 = 0 then 0 else 6) (if r.2 = 0 then 0 else r.1))) := by
  rw [Desc.src_buffer hssp] at hs hr
  obtain ⟨t, ht⟩ := spans_intact hs s.m.tally
  rw [hop] at hst
  refine does_acted (on_effect (f := fun m => _) ?_) (tallied_noted _ t) (fpx_of_op (d := { d with detail := r.2 }) (by
    have : Desc.op { d with detail := r.2 } = d.op := rfl
    omega))
  simp only [hst, hmode, OfNat.zero_ne_ofNat, if_false]
  rw [show s.m.spans d.req (placeOf 0 (d.w 2)) (d.len * (d.piData + d.piMeta)) = ([], s.m.tallied t) from ht]
  dsimp only
  rw [hr]
  rfl

theorem does_bulkXts (hop : d.op = 5) (hdsp : d.dsp = 0) (hssp : d.ssp = 0) (hs : (s.m.spans d.req d.src d.len).1 = []) :
    Does (.bulkXts id) s ((s.m.putAt d.dst (s.m.xtsBytes d d.src)).setDesc (d.done 0 0)) := by
  rw [Desc.src_buffer hssp] at hs ⊢
  rw [Desc.dst_buffer hdsp]
  obtain ⟨t, ht⟩ := spans_intact hs s.m.tally
  rw [hop] at hst
  refine does_acted (on_effect (f := fun m => _) ?_) ((tallied_noted _ t).putAt _ _) (fpx_of_op (by omega))
  simp only [hst]
  rw [show s.m.spans d.req (placeOf 0 (d.w 2)) d.len = ([], s.m.tallied t) from ht]
  rfl

theorem does_bulkHash (hop : d.op = 6) (hfirst : bitOf d.hi 0 = true) (hlast : bitOf d.hi 1 = true) (hdsp : d.dsp = 0) (hssp : d.ssp = 0)
    (hs : (s.m.spans d.req d.src d.len).1 = []) :
    Does (.bulkHash id) s ((s.m.putAt d.dst (s.m.hashBytes d d.src)).setDesc (d.done 0 0)) := by
  rw [Desc.src_buffer hssp] at hs ⊢
  rw [Desc.dst_buffer hdsp]
  obtain ⟨t, ht⟩ := spans_intact hs s.m.tally
  rw [hop] at hst
  refine does_acted (on_effect (f := fun m => _) ?_) ((tallied_noted _ t).putAt _ _) (fpx_of_op (by omega))
  simp only [hst, hfirst, hlast, if_true]
  rw [show s.m.spans d.req (placeOf 0 (d.w 2)) d.len = ([], s.m.tallied t) from ht]
  simp only [Nat.zero_add]
  rfl

/-- FILL writes the pattern w5, repeated from its first byte (R99). -/
theorem does_bulkFill (hop : d.op = 7) : Does (.bulkFill id) s
    ((s.m.putAt d.dst ((List.range d.len).map fun i => BitVec.ofNat 8 (d.w 5 / 256 ^ (i % 8)))).setDesc (d.done 0 0)) := by
  rw [hop] at hst
  refine does_acted (on_effect (f := fun m => _) ?_) (Noted.refl _) (fpx_of_op (by omega))
  have hbytes : ((List.range d.len).map fun i => BitVec.ofNat 8 (d.w 5 / 256 ^ (i % 8))) =
      (List.range d.len).map fun i => nth (bytesOf 8 (d.w 5)) (i % 8) 0 :=
    List.map_congr_left fun i _ => (bytesOf_getD (Nat.mod_lt i (by decide)) _).symm
  simp only [hst]
  rw [hbytes]
  rfl

/-- A comparison of intact operands ends with the offset of the first difference, where there is one (R113). -/
theorem does_bulkCompare (hop : d.op = 8) (hp : (s.m.spans d.req d.dst d.len).1 = []) (hq : (s.m.spans d.req d.src d.len).1 = [])
    {r : Option Nat} (hr : firstDiff 0 (d.dst.bytes s.m d.len) (d.src.bytes s.m d.len) = r) :
    Does (.bulkCompare id) s (s.m.setDesc (d.done (if r.isSome then 5 else 0) (r.getD 0))) := by
  obtain ⟨t, ht⟩ := spans_intact hp s.m.tally
  obtain ⟨t', ht'⟩ := spans_intact hq t
  rw [hop] at hst
  refine does_acted (on_effect (f := fun m => _) ?_) (tallied_noted _ t') (fpx_of_op (by omega))
  unfold Desc.dst Desc.src at hr
  unfold Desc.dst at ht
  unfold Desc.src at ht'
  simp only [hst, hr]
  rw [show s.m.spans d.req (placeOf d.dsp (d.w 1)) d.len = ([], s.m.tallied t) from ht]
  simp only [ht', List.append_nil]
  cases r
  · rfl
  · rfl

end

end Sys2Proof.Machine
end

section
/-! PROOFS. XOR and GFMAC (R101, R102): sums of sources over GF(2^8). -/

namespace Sys2Proof.Machine

/-! ## Sums over GF(2^8), byte by byte -/

theorem gfMulMod_zero (m n b : Nat) : gfMulMod m n 0 b = 0 := by
  induction n generalizing b with
  | zero => rfl
  | succ n ih =>
    unfold gfMulMod
    dsimp only
    rw [show (if 2 * 0 < 256 then 2 * 0 else 2 * 0 ^^^ m) = 0 from rfl, ih, ite_self, Nat.xor_zero]

theorem gfMul_zero (b : Nat) : gfMul 0 b = 0 := gfMulMod_zero _ _ _

theorem gfMul_one : ∀ b < 256, gfMul 1 b = b := by decide +kernel

/-- One source more in a sum. -/
def gfStep (acc : List Nat) (p : Nat × List Byte) : List Nat :=
  (acc.zip (p.2.map BitVec.toNat)).map fun q => q.1 ^^^ gfMul p.1 q.2

theorem gfSum_eq (n : Nat) (l : List (Nat × List Byte)) : gfSum n l = (l.foldl gfStep (List.replicate n 0)).map (BitVec.ofNat 8) := rfl

theorem gfStep_length {acc : List Nat} {p : Nat × List Byte} (h : p.2.length = acc.length) : (gfStep acc p).length = acc.length := by
  simp [gfStep, h]

theorem gfStep_getD {acc : List Nat} {p : Nat × List Byte} (h : p.2.length = acc.length) {i : Nat} (hi : i < acc.length) :
    (gfStep acc p).getD i 0 = acc.getD i 0 ^^^ gfMul p.1 (p.2.getD i 0).toNat := by
  have hp : i < p.2.length := by omega
  simp [gfStep, hi, hp]

theorem gfSteps_length {l : List (Nat × List Byte)} {acc : List Nat} (h : ∀ p ∈ l, p.2.length = acc.length) :
    (l.foldl gfStep acc).length = acc.length := by
  induction l generalizing acc with
  | nil => rfl
  | cons p r ih =>
    obtain ⟨hp, hr⟩ := List.forall_mem_cons.1 h
    have hlen := gfStep_length hp
    exact (ih fun q hq => (hr q hq).trans hlen.symm).trans hlen

theorem gfSteps_getD {l : List (Nat × List Byte)} {acc : List Nat} (h : ∀ p ∈ l, p.2.length = acc.length) {i : Nat}
    (hi : i < acc.length) :
    (l.foldl gfStep acc).getD i 0 = l.foldl (fun v p => v ^^^ gfMul p.1 (p.2.getD i 0).toNat) (acc.getD i 0) := by
  induction l generalizing acc with
  | nil => rfl
  | cons p r ih =>
    obtain ⟨hp, hr⟩ := List.forall_mem_cons.1 h
    have hlen := gfStep_length hp
    rw [List.foldl_cons, List.foldl_cons, ih (fun q hq => (hr q hq).trans hlen.symm) (by omega), gfStep_getD hp hi]

theorem gfSum_length {n : Nat} {l : List (Nat × List Byte)} (h : ∀ p ∈ l, p.2.length = n) : (gfSum n l).length = n := by
  rw [gfSum_eq, List.length_map, gfSteps_length (by simpa using h), List.length_replicate]

theorem gfSum_getD {n : Nat} {l : List (Nat × List Byte)} (h : ∀ p ∈ l, p.2.length = n) {i : Nat} (hi : i < n) :
    ((gfSum n l).getD i 0).toNat = l.foldl (fun v p => v ^^^ gfMul p.1 (p.2.getD i 0).toNat) 0 % 256 := by
  have hacc : ∀ p ∈ l, p.2.length = (List.replicate n 0).length := by simpa using h
  have hin : i < (List.replicate n 0).length := by simpa using hi
  have hsum := gfSteps_getD hacc hin
  rw [show (List.replicate n 0).getD i 0 = 0 by simp [hi]] at hsum
  have hlen : i < (l.foldl gfStep (List.replicate n 0)).length := (gfSteps_length hacc).symm ▸ hin
  rw [← hsum, gfSum_eq]
  simp [hlen]

/-- A sum whose coefficients are a function's first values, 0 where the list of them ends. -/
theorem gfFold_zip {α β : Type} (f : α → β) (g : β → Nat) (c : Nat → Nat) (l : List α) (cs : List Nat) (k v : Nat)
    (h : ∀ q < l.length, cs.getD q 0 = c (k + q)) :
    (cs.zip (l.map f)).foldl (fun v p => v ^^^ gfMul p.1 (g p.2)) v =
      (l.zipIdx k).foldl (fun v p => v ^^^ gfMul (c p.2) (g (f p.1))) v := by
  induction l generalizing cs k v with
  | nil => simp
  | cons x r ih =>
    have hx : cs.getD 0 0 = c k := h 0 (by simp)
    have hr (q : Nat) (hq : q < r.length) : cs.getD (q + 1) 0 = c (k + 1 + q) := by
      rw [h (q + 1) (by simpa using hq), Nat.add_assoc, Nat.add_comm 1 q]
    cases cs with
    | nil =>
      have hnil := ih [] (k + 1) v fun q hq => hr q hq
      rw [List.zipIdx_cons, List.foldl_cons, ← hx, List.getD_nil, gfMul_zero, Nat.xor_zero, ← hnil]
      simp
    | cons e t =>
      rw [List.map_cons, List.zip_cons_cons, List.zipIdx_cons, List.foldl_cons, List.foldl_cons, ih t (k + 1) _ fun q hq => hr q hq, ← hx]
      rfl

theorem xorFold_lt {α : Type} {f : α → Nat} (hf : ∀ x, f x < 256) (l : List α) {v : Nat} (hv : v < 256) :
    l.foldl (fun v x => v ^^^ f x) v < 256 := by
  induction l generalizing v with
  | nil => exact hv
  | cons x r ih => exact ih (Nat.xor_lt_two_pow (n := 8) hv (hf x))

/-- The bytes of a list of dwords. -/
theorem flatten_bytesOf_getD (l : List Nat) (x : Nat) :
    ((l.map (bytesOf 8)).flatten).getD x 0 = BitVec.ofNat 8 (l.getD (x / 8) 0 / 256 ^ (x % 8)) := by
  induction l generalizing x with
  | nil => simp
  | cons w r ih =>
    rw [List.map_cons, List.flatten_cons]
    by_cases hx : x < 8
    · rw [List.getD_append _ _ _ _ (by simpa using hx), bytesOf_getD hx, Nat.div_eq_of_lt hx, Nat.mod_eq_of_lt hx]
      rfl
    · rw [List.getD_append_right _ _ _ _ (by simpa using hx), bytesOf_length, ih, show x / 8 = (x - 8) / 8 + 1 by omega,
        show (x - 8) % 8 = x % 8 by omega]
      rfl

/-! ## The descriptor's sum -/

/-- The coefficients of output `j` of a GFMAC (R101). -/
def Desc.coefs (d : Desc) (j : Nat) : List Nat :=
  ((((((d.params.drop 20).take 8).map (bytesOf 8)).flatten).map BitVec.toNat).drop (16 * j)).take 16

theorem coefs_getD (d : Desc) {j k : Nat} (hj : j < 4) (hk : k < 16) :
    (d.coefs j).getD k 0 = nth d.params (20 + 2 * j + k / 8) 0 / 256 ^ (k % 8) % 256 := by
  have hbytes := flatten_bytesOf_getD ((d.params.drop 20).take 8) (16 * j + k)
  have hword : ((d.params.drop 20).take 8).getD ((16 * j + k) / 8) 0 = nth d.params (20 + 2 * j + k / 8) 0 := by
    unfold nth
    rw [List.getD_eq_getElem?_getD, List.getD_eq_getElem?_getD, List.getElem?_take_of_lt (by omega), List.getElem?_drop]
    congr 2
    omega
  have htake : (d.coefs j).getD k 0 = ((((d.params.drop 20).take 8).map (bytesOf 8)).flatten.getD (16 * j + k) 0).toNat := by
    unfold Desc.coefs
    rw [List.getD_eq_getElem?_getD, List.getElem?_take_of_lt hk, List.getElem?_drop, List.getD_eq_getElem?_getD, List.getElem?_map]
    cases (((d.params.drop 20).take 8).map (bytesOf 8)).flatten[16 * j + k]? <;> rfl
  rw [htake, hbytes, hword, show (16 * j + k) % 8 = k % 8 by omega, BitVec.toNat_ofNat]

/-- Intact sources are read one after the other with no more than counts of happenings. -/
theorem allSpans_intact {m : Fjoek} {g : Option Nat} {n : Nat} {src : List Place} (h : ∀ p ∈ src, (m.spans g p n).1 = [])
    (l : List (List (Nat × Nat))) (t : Table Nat) :
    ∃ t', src.foldl (fun r p => let (s, m) := Fjoek.spans r.2 g p n; (r.1 ++ [s], m)) (l, m.tallied t) =
      (l ++ List.replicate src.length [], m.tallied t') := by
  induction src generalizing l t with
  | nil => exact ⟨t, by simp⟩
  | cons p r ih =>
    obtain ⟨hp, hr⟩ := List.forall_mem_cons.1 h
    obtain ⟨t1, h1⟩ := spans_intact hp t
    obtain ⟨t2, h2⟩ := ih hr (l ++ [[]]) t1
    refine ⟨t2, ?_⟩
    rw [List.foldl_cons]
    dsimp only
    rw [h1]
    refine h2.trans ?_
    rw [List.append_assoc, List.singleton_append, List.length_cons, List.replicate_succ]

/-- Steps that look at the first of each pair alone. -/
theorem each_zip_map {α β : Type} (m : Fjoek) (g : α → β) (l : List α) (f : α → Fjoek → Fjoek) :
    m.each (l.zip (l.map g)) (fun o => f o.1) = m.each l f := by
  unfold Fjoek.each
  rw [← List.foldl_map (f := Prod.fst) (g := fun n o => f o n), List.map_fst_zip (by simp)]

/-- The bytes that an output with coefficients `cs` takes from the sources. -/
def Fjoek.sumBytes (m : Fjoek) (d : Desc) (src : List Place) (cs : List Nat) : List Byte :=
  gfSum d.len (cs.zip (src.map fun p => p.bytes m d.len))

/-- A sum of intact sources puts the bytes of each output, and nothing else but its end (R102). -/
theorem macDesc_intact {m : Fjoek} {d : Desc} {src : List Place} (hno : NoPrints m) (h : ∀ p ∈ src, (m.spans d.req p d.len).1 = [])
    (out : List (Place × List Nat)) : ∃ t, m.macDesc d src out =
      (((out.map fun o => (o.1, m.sumBytes d src o.2)).foldl (fun n p => n.putAt p.1 p.2) (m.tallied t)).acted d 0 0) := by
  obtain ⟨t, ht⟩ := allSpans_intact h [] m.tally
  have hnot : NoPrints (m.tallied t) := ⟨hno.trailing, hno.prints, hno.shadow⟩
  have hflat : (List.replicate src.length ([] : List (Nat × Nat))).flatten = [] := List.flatten_replicate_nil
  have hused (cs : List Nat) :
      (((cs.zip (List.replicate src.length ([] : List (Nat × Nat)))).filter fun q => q.1 != 0).map Prod.snd).flatten = [] := by
    refine List.flatten_eq_nil_iff.2 fun l hl => ?_
    obtain ⟨q, hq, rfl⟩ := List.mem_map.1 hl
    exact List.eq_of_mem_replicate (List.of_mem_zip (List.mem_filter.1 hq).1).2
  have hany : (src.any fun p => (List.range (d.len / 4096)).any fun j => ((m.tallied t).printAt p j).isSome) = false := by
    simp [hnot.printAt]
  refine ⟨t, ?_⟩
  unfold Fjoek.macDesc
  dsimp only
  rw [show src.foldl _ (([] : List (List (Nat × Nat))), m) = (List.replicate src.length [], m.tallied t) from ht]
  simp only [hany, Bool.false_eq_true, and_false, if_false, hused, poisonSpans_nil, hflat]
  rw [List.foldl_map]
  exact congrArg (fun n => Fjoek.acted n d 0 0) (each_zip_map _ _ out fun o n => n.putAt o.1 (m.sumBytes d src o.2))

/-- The sources of an XOR, which the descriptor itself names (R102). -/
def Desc.four (d : Desc) : List Place := ([2, 4, 5, 6].take d.nsrc).map fun i => placeOf 0 (d.w i)

/-- The sources of a GFMAC, and its outputs with their coefficients (R101). -/
def Desc.srcs (d : Desc) : List Place := (d.params.take d.nsrc).map (placeOf 0)
def Desc.outs (d : Desc) : List (Place × List Nat) :=
  (((d.params.drop 16).take d.nout).zipIdx).map fun p => (placeOf 0 p.1, d.coefs p.2)

theorem sumBytes_lengths (m : Fjoek) (d : Desc) (src : List Place) (cs : List Nat) :
    ∀ p ∈ cs.zip (src.map fun p => p.bytes m d.len), p.2.length = d.len := by
  intro p hp
  obtain ⟨q, -, hq⟩ := List.mem_map.1 (List.of_mem_zip hp).2
  exact hq ▸ Place.bytes_length m d.len q

theorem sumBytes_length (m : Fjoek) (d : Desc) (src : List Place) (cs : List Nat) : (m.sumBytes d src cs).length = d.len :=
  gfSum_length (sumBytes_lengths m d src cs)

/-- A byte of a sum, where a function gives the coefficients of the sources. -/
theorem sumBytes_getD {m : Fjoek} {d : Desc} {src : List Place} {cs : List Nat} {c : Nat → Nat}
    (h : ∀ q < src.length, cs.getD q 0 = c q) {i : Nat} (hi : i < d.len) :
    ((m.sumBytes d src cs).getD i 0).toNat =
      src.zipIdx.foldl (fun v p => v ^^^ gfMul (c p.2) ((p.1.bytes m d.len).getD i 0).toNat) 0 % 256 :=
  (gfSum_getD (sumBytes_lengths m d src cs) hi).trans
    (congrArg (· % 256) (gfFold_zip _ (fun b : List Byte => (b.getD i 0).toNat) c src cs 0 0 (by simpa using h)))

theorem sumBytes_ones_getD {m : Fjoek} {d : Desc} {src : List Place} (h : src.length ≤ 4) {i : Nat} (hi : i < d.len) :
    ((m.sumBytes d src [1, 1, 1, 1]).getD i 0).toNat = src.foldl (fun v p => v ^^^ ((p.bytes m d.len).getD i 0).toNat) 0 := by
  have hones (q : Nat) (hq : q < src.length) : ([1, 1, 1, 1] : List Nat).getD q 0 = 1 := by
    have : q < 4 := by omega
    interval_cases q <;> rfl
  have hone (p : Place) : gfMul 1 ((p.bytes m d.len).getD i 0).toNat = ((p.bytes m d.len).getD i 0).toNat := gfMul_one _ (BitVec.isLt _)
  rw [sumBytes_getD (c := fun _ => 1) hones hi]
  simp only [hone]
  rw [← List.foldl_map (f := Prod.fst) (g := fun v (p : Place) => v ^^^ ((p.bytes m d.len).getD i 0).toNat), List.zipIdx_map_fst]
  exact Nat.mod_eq_of_lt (xorFold_lt (fun p : Place => BitVec.isLt _) _ (by omega))

theorem four_length (d : Desc) : d.four.length ≤ 4 := by
  simp [Desc.four]

theorem srcs_length {d : Desc} (hop : d.op = 1) : d.srcs.length ≤ 16 := by
  have hn : d.nsrc = bitsOf d.hi 3 0 + 1 := if_pos hop
  have hlt := bitsOf_lt d.hi 3 0
  have hlen : d.srcs.length ≤ d.nsrc := by simp [Desc.srcs]
  omega

theorem Desc.outs_length (d : Desc) : d.outs.length ≤ 4 := by
  have hlt := bitsOf_lt d.hi 5 4
  have hlen : d.outs.length ≤ d.nout := by simp [Desc.outs]
  unfold Desc.nout at hlen
  omega

theorem Desc.outs_places (d : Desc) : ((d.params.drop 16).take d.nout).map (placeOf 0) = d.outs.map Prod.fst := by
  unfold Desc.outs
  rw [List.map_map, ← List.zipIdx_map_fst 0 ((d.params.drop 16).take d.nout), List.map_map, List.zipIdx_map_fst]
  rfl

theorem Desc.outs_coefs (d : Desc) {j : Nat} (h : j < d.outs.length) : d.outs[j].2 = d.coefs j := by
  simp [Desc.outs]

section
variable {s : State} {id : Nat} {d : Desc} (hst : s.m.startedDesc id d.op = some d)
include hst

theorem does_bulkXor (hop : d.op = 2) (hdsp : d.dsp = 0) (hs : ∀ p ∈ d.four, (s.m.spans d.req p d.len).1 = []) (hno : NoPrints s.m) :
    Does (.bulkXor id) s ((s.m.putAt d.dst (s.m.sumBytes d d.four [1, 1, 1, 1])).setDesc (d.done 0 0)) := by
  rw [Desc.dst_buffer hdsp]
  obtain ⟨t, ht⟩ := macDesc_intact hno hs [(placeOf 0 (d.w 1), [1, 1, 1, 1])]
  rw [hop] at hst
  refine does_acted (on_effect (f := fun m => _) ?_) ((tallied_noted _ t).putAt _ _) (fpx_of_op (by omega))
  simp only [hst]
  exact ht

theorem does_bulkGfmac (hop : d.op = 1) (hs : ∀ p ∈ d.srcs, (s.m.spans d.req p d.len).1 = []) (hno : NoPrints s.m) :
    Does (.bulkGfmac id) s
      (((d.outs.map fun o => (o.1, s.m.sumBytes d d.srcs o.2)).foldl (fun n p => n.putAt p.1 p.2) s.m).setDesc (d.done 0 0)) := by
  obtain ⟨t, ht⟩ := macDesc_intact hno hs d.outs
  rw [hop] at hst
  refine does_acted (on_effect (f := fun m => _) ?_) ((tallied_noted _ t).puts _) (fpx_of_op (by omega))
  simp only [hst]
  exact ht

end

/-! ## The obligation -/

/-- Settles O19: each clause is the rule of its command, for the descriptor that `startedDesc` finds. -/
theorem bulkOperations : Obligations.BulkOperations := by
  unfold Obligations.BulkOperations
  intro s id d m src dst len whole done byte params srcs outs coef four z print first text key hf hph hrun hwait ht hprints hshadow
  have hst : m.startedDesc id d.op = some d := startedDesc_found hf hph hrun hwait
  have hno : NoPrints m := ⟨ht, hprints, hshadow⟩
  refine ⟨?_, ?_, ?_, ?_, ?_, ?_, ?_, ?_, ?_, ?_⟩
  · exact fun hop hdsp hssp hx hmir hs => does_bulkMove hst hop hdsp hssp hx hmir hs hno
  · exact fun hop hdsp hs => ⟨m.sumBytes d d.four [1, 1, 1, 1], sumBytes_length _ _ _ _,
      fun i hi => sumBytes_ones_getD (four_length d) hi, does_bulkXor hst hop hdsp hs hno⟩
  · intro hop hs
    have houts : outs = d.outs.map Prod.fst := d.outs_places
    refine ⟨d.outs.map fun o => m.sumBytes d d.srcs o.2, by rw [houts, List.length_map, List.length_map], fun j hj => ?_, ?_⟩
    · rw [List.length_map] at hj
      have hcs : ∀ q < d.srcs.length, d.outs[j].2.getD q 0 = coef j q := fun q hq =>
        (d.outs_coefs hj).symm ▸ coefs_getD d (hj.trans_le d.outs_length) (hq.trans_le (srcs_length hop))
      rw [List.getD_eq_getElem _ _ (by simpa using hj), List.getElem_map]
      exact ⟨sumBytes_length _ _ _ _, fun i hi => sumBytes_getD hcs hi⟩
    · rw [houts, List.zip_map']
      exact does_bulkGfmac hst hop hs hno
  · exact fun hop hdsp hssp hs => does_bulkFprint hst hop hdsp hssp hs hno
  · exact fun hop hdsp hssp hmode hs => does_bulkPi_made hst hop hmode hdsp hssp hs
  · exact fun hop hssp hmode hs => does_bulkPi_verified hst hop hmode hssp hs rfl
  · exact fun hop hdsp hssp hs => does_bulkXts hst hop hdsp hssp hs
  · exact fun hop hdsp hssp hs hfirst hlast => does_bulkHash hst hop hfirst hlast hdsp hssp hs
  · exact fun hop => does_bulkFill hst hop
  · intro hop hd hs
    refine ⟨fun heq => ?_, fun i hi hne hsame => ?_⟩
    · exact does_bulkCompare hst hop hd hs ((congrArg (firstDiff 0 · _) heq).trans (firstDiff_same 0 _))
    · exact does_bulkCompare hst hop hd hs (firstDiff_bytes hi hne hsame)

end Sys2Proof.Machine
end

section
/-! PROOFS. Pools (R153, R154, R164, R182): a module that trails no lead, with a completion of a lead's write still awaited for the sequence
number of its own next record. -/

namespace Sys2Proof.Machine

/-! ## What a command leaves locked -/

/-- The command completes and leaves stripe `sig` of pool `p` locked. -/
def leavesLocked (c : Instr) (s : State) (p sig : Nat) : Bool :=
  match exec c s with
  | .next t => t.m.stripeLocked p sig
  | _ => false

/-- What a statement says of the command's end, it says of a module with that stripe locked. -/
theorem Ends.locked {c : Instr} {s : State} {p sig : Nat} {P : Fjoek → Prop} (h : Ends c s P) (hl : leavesLocked c s p sig = true) :
    ∃ n, P n ∧ n.stripeLocked p sig = true := by
  obtain ⟨t, ht, -, hp⟩ := h
  unfold leavesLocked at hl
  rw [ht] at hl
  exact ⟨t.m, hp, hl⟩

/-! ## The pool -/

/-- The one row of the least layout (R118, R121): a header, and an entry for each of three members at depth 0. -/
def strayRow : List Nat :=
  let body := [0, 0, 0, 8, 0, 16] ++ List.replicate 1002 0
  [0, 0, 3, 0, 1, 0, 0, 0] ++ (bytesOf 4 (crc32c body)).map BitVec.toNat ++ List.replicate 4 0 ++ body

/-- Two data strips of 16 KiB and one parity over three members. -/
def strayLayout : Layout := { k := 2, m := 1, n := 3, s := 0, u := 16384, rowCount := 1, rows := [strayRow] }

def strayMember (i : Nat) : Member :=
  { serial := 100 + i, state := 0, lbas := 500000, port := some i, epoch := 0, resync := false, entry := i }

/-- An online local pool of four stripes, no member of which is missing. -/
def strayPool : Pool :=
  { uuid := 7, gen := 3, ms := 0, pi := 0, window := 30, portable := false, jx0 := none, jx1 := none, jtargets := [], adopted := false
    layout := strayLayout, reps := 4, kau := Lau strayLayout, next := none, nextReps := 0, members := (List.range 3).map strayMember
    ns := [], map := [], reloc := [], relocAbove := [], online := true, reason := 0, refused := 0, live := (1, 0), liveAbove := (0, 0)
    windows := [], roundDue := false, unitWait := false, auWait := [], scratchGone := [], parity := none, copied := 0, group := 1
    retq := [], groupOf := [] }

/-- The library awaits a lead's completion of a write of record 0, which is not stored yet. No run of the machine leaves such a wait: a
trailing twin enters it with the record that it stores (R164). The statements ask for nothing that rules it out. -/
def strayLib : Lib := { libInit with pools := [(0, some strayPool)], awaited := [⟨0, 0, 0, 0, []⟩] }

/-! ## A destage -/

/-- The first block of stripe 0 is dirty. -/
def strayDirty : Fjoek :=
  { fjoekReset with lib := { strayLib with
      cache := [{ pool := 0, member := 0, epoch := 0, lba := 409600, dirty := true, used := false, slot := 0 }] } }

theorem strayDirty_admitted : strayDirty.lockFree 0 0 0 = true ∧ strayDirty.recRoom strayPool 2 = true ∧ strayDirty.openRecs = [] ∧
    strayDirty.trailing = false ∧ strayDirty.excess strayPool 0 0 0 = 0 ∧ strayDirty.dirtyBlocks strayPool 0 0 0 ≠ [] ∧
    (strayDirty.libDraw strayDirty.destageClass
      (strayDirty.cost (strayDirty.updateCosts strayPool 0 0 0 (strayDirty.dirtyBlocks strayPool 0 0 0)))).1 = true := by
  decide +kernel

/-- The record of the destage, number 0, counts as one with writes out, so it does not retire and its stripe stays locked. -/
theorem strayDirty_locked : leavesLocked (.destage 0 0 0 0 []) { State.reset with m := strayDirty } 0 0 = true := by decide +kernel

/-- A namespace and a fill, for the operands of the statement that its clause about destage does not name. -/
def strayNs : NsRec :=
  { nsid := 1, writeBack := false, encrypted := false, big := true, zeroed := true, pi := 0, ms := 0, aus := 0, xslot := 0xFFFF
    nguid := 0, gen := 0 }
def strayFill : Fill := { pool := 0, member := 0, epoch := 0, lba := 409600, stripe := 0, wcount := 0, lease := 0 }

/-- Refutes O31: a destage whose record has the number of a write that the library still awaits from a lead leaves its stripe locked. -/
theorem not_hostCommands : ¬ Obligations.HostCommands := by
  unfold Obligations.HostCommands
  intro h
  obtain ⟨hlock, hroom, hrecs, htrail, hexcess, hdirty, hdraw⟩ := strayDirty_admitted
  obtain ⟨-, -, -, -, hdestage, -⟩ :=
    h { State.reset with m := strayDirty } 0 0 0 0 0 0 0 0 0 0 false false false [] strayNs strayPool [] strayFill []
  obtain ⟨n, ⟨hfree, -⟩, hheld⟩ :=
    (hdestage rfl rfl rfl hlock hroom hrecs htrail hexcess hdirty hdraw).locked strayDirty_locked
  exact Bool.false_ne_true (hfree.symm.trans hheld)

/-! ## A step of a round -/

/-- The active round of member 1, which has passed no stripe. -/
def strayRound : Round := { emptyRound 0 with kind := 1, fmask := 2, start := 1, cbucket := 1 }

/-- The drive of member 0 cannot read its first block of stripe 0, which the step repairs in place under an INTENT (R182). -/
def strayUnread : Fjoek :=
  Fjoek.setRound { fjoekReset with lib := { strayLib with unread := [mediaKey 100 409600] } } 0 strayRound

theorem strayUnread_next : strayUnread.activeRound 0 0 = some strayRound ∧
    nextStripe strayUnread strayPool 0 0 strayRound (strayUnread.cursor strayPool 0 strayRound).1
      (strayUnread.cursor strayPool 0 strayRound).2 = some (1, 0) := by
  decide +kernel

/-- Nothing is lost, and the two blocks beside the one that cannot be read give it. -/
theorem strayUnread_admitted : strayUnread.lockFree 0 0 darnStrand = true ∧ strayUnread.openRecs = [] ∧ strayUnread.trailing = false ∧
    strayUnread.canPass libStrand 3
      (LU strayLayout * strayPool.blockLen * (pendingStrips strayUnread strayPool 0 0 0 strayRound).length) = true ∧
    (∀ o ∈ List.range (LU strayLayout),
      strayLayout.k ≤ (strayUnread.readableAt strayPool 0 0 0 o).length ∧ strayUnread.goneAt strayPool 0 0 0 o = []) ∧
    strayUnread.recRoom strayPool
      (((List.range (LU strayLayout)).map fun o => Lw strayLayout - (strayUnread.readableAt strayPool 0 0 0 o).length).sum) = true ∧
    (strayUnread.libDraw 3 (strayUnread.cost
      (strayUnread.rebuildCosts strayPool 0 0 0 (pendingStrips strayUnread strayPool 0 0 0 strayRound).length))).1 = true := by
  decide +kernel

/-- The record of the repair does not retire, so the stripe stays locked. -/
theorem strayUnread_locked : leavesLocked (.rebuildStep 0 [] none) { State.reset with m := strayUnread } 0 0 = true := by decide +kernel

/-- A label, for the operand of the statement that its clause about a round's step does not name. -/
def strayLabel : Label :=
  { uuid := 7, gen := 3, nsCrc := 0, mapCrc := 0, ms := 0, pi := 0, window := none, portable := false, jx0 := 0, jx1 := 1
    layout := strayLayout, reps := 4, kau := Lau strayLayout, next := none, members := [], copies := [], reloc := [], relocAbove := [] }

/-- Refutes O32: a round's step that repairs a block under a record with the number of a write that the library still awaits from a lead
leaves its stripe locked. -/
theorem not_poolCommands : ¬ Obligations.PoolCommands := by
  unfold Obligations.PoolCommands
  intro h
  obtain ⟨hround, hnext⟩ := strayUnread_next
  obtain ⟨hlock, hrecs, htrail, hpass, hread, hroom, hdraw⟩ := strayUnread_admitted
  obtain ⟨-, -, -, -, hsteps, -⟩ :=
    h { State.reset with m := strayUnread } 0 0 [] strayLabel [] [] [] strayPool strayPool strayRound 0 0 1 0 0 0
  obtain ⟨-, hstep⟩ := hsteps rfl rfl rfl hround
  obtain ⟨n, ⟨-, -, hfree⟩, hheld⟩ :=
    (hstep hnext hlock hrecs htrail (by decide) (by decide) hpass hread hroom hdraw).locked strayUnread_locked
  exact Bool.false_ne_true (hfree.symm.trans hheld)

end Sys2Proof.Machine
end

section
/-! PROOFS. Drive ports (R208, R214): a port with two raw commands of its own. -/

namespace Sys2Proof.Machine

/-! ## The state -/

/-- Port 5 while a fence is under way: raw command 9 is outstanding beside the fence's command 10, and a second raw command waits for a
slot. No run of the machine leaves two raw commands, since a write of DRV_RCMD is ignored while the first is busy (R208); the statement
asks for nothing that rules it out. -/
def strayPort : DrvPort :=
  { portReset 5 with
    perst := true, queues := true, fencing := true, slots := [⟨9, 64, .raw⟩, ⟨10, 64, .fence⟩]
    waiting := [(64, List.replicate 16 0, .raw)] }

def strayDrive : Fjoek :=
  (((fjoekReset.put (DRV_PCTL_disable 5) 0).put (DRV_PSTAT_up 5) 1).put (DRV_RCMD_busy 5) 1).setPort 5 strayPort

/-- The completion entry of command 9, which succeeded. -/
def strayEntry : List Nat := [0, 0, 0, 9]

/-! ## Its completion -/

theorem strayDrive_matches : ((strayDrive.port 5).slots.find? fun z => z.slot == nth strayEntry 3 0 % 65536) = some ⟨9, 64, .raw⟩ := by
  decide +kernel

/-- DRV_RCQE[3] holds status 7h/C4h of the command that waited, which the refusing port ends as it fills the slot that came free. -/
theorem strayDrive_rcqe : (strayDrive.takeCompletion 5 strayEntry).reg (DRV_RCQE 5 3) = portStatus 0xC4 * 2 ^ 17 := by decide +kernel

/-- A drive's identification, for the operand of the statement that its clause about a raw completion does not name. -/
def strayInfo : DriveInfo :=
  { serial := 0, uuid := 0, gen := 0, lbaBytes := 4096, bar := 0, mdts := 32, dstrd := 0, warn := 70, crit := 80, top := 0 }

/-- Refutes O33: where a second raw command waits at a port that refuses submissions, the completion of the first ends it as well, with
SC 0xC4, and DRV_RCQE holds the second's status and not the entry that was taken. -/
theorem not_drivePorts : ¬ Obligations.DrivePorts := by
  unfold Obligations.DrivePorts
  intro h
  obtain ⟨-, -, -, -, -, -, -, -, -, -, -, -, -, -, -, -, hraw, -⟩ :=
    h { State.reset with m := strayDrive } 5 0 0 strayInfo 0 0 0 [] 0 0 [] strayDesc 0 0 false 0 0 0 strayEntry ⟨9, 64, .raw⟩ false
  obtain ⟨-, -, -, hrcqe⟩ := hraw strayDrive_matches rfl rfl
  have hlast : (strayDrive.takeCompletion 5 strayEntry).reg (DRV_RCQE 5 3) = 9 := hrcqe 3 (by decide)
  exact absurd (strayDrive_rcqe.symm.trans hlast) (by decide)

end Sys2Proof.Machine
end

section
/-! PROOFS. The switch core (R241, R244): a round robin that stands outside the eight classes. -/

namespace Sys2Proof.Machine

/-! ## The queue that a command leaves -/

/-- The queue of class `c` of port `p` where the command completes. -/
def queueLeft (i : Instr) (s : State) (p c : Nat) : List Copy :=
  match exec i s with
  | .next t => t.m.queueOf p c
  | _ => []

/-- What a statement says of the command's end, it says of a module with that queue. -/
theorem Ends.queueLeft {i : Instr} {s : State} {P : Fjoek → Prop} (h : Ends i s P) (p c : Nat) :
    ∃ n, P n ∧ n.queueOf p c = queueLeft i s p c := by
  obtain ⟨t, ht, -, hp⟩ := h
  refine ⟨t.m, hp, ?_⟩
  unfold Machine.queueLeft
  rw [ht]

/-! ## The state -/

/-- A mirror copy of 64 bytes with its FCS. -/
def strayFrame : Frame :=
  { id := 0, bytes := List.replicate 60 0, cells := 1, cls := 0, ingress := 38, stored := 0, loop := false, mcast := false, left := false
    headroom := false, route := none, cluster := none }

/-- MNIC, port 37, is up, and every frame that it sends is mirrored. One copy waits for the mirror port, in queue 304 = 8 × 38 + 0. The
round robin of port 37 stands at 16, the turn of a class 8, whose queue has the same number 8 × 37 + 8. No run of the machine leaves such a
round robin: it starts at 0 and moves among the eight classes (R241). The statement asks for nothing that rules it out. -/
def strayTurn : Fjoek :=
  let m := ((fjoekReset.put SWC_MIRROR_en 1).put SWC_MIRROR_dir 2).put SWC_MIRROR_src 37
  { m with
    hearth := { m.hearth with core := 2 }
    swc := { swcInit with frames := [strayFrame], queues := [(304, [⟨0, false, false⟩])], rotor := [(37, 16)], nextFrame := 1 } }

def strayServed : State := { State.reset with m := strayTurn }

theorem strayTurn_ready : strayTurn.portReady 37 = true ∧ strayTurn.inHold 37 = false ∧ (strayTurn.nextClass 37).map Prod.fst = some 8 ∧
    strayTurn.queueOf 37 8 = [⟨0, false, false⟩] ∧ strayTurn.frame 0 = some strayFrame ∧ strayTurn.residue < 8192 := by
  decide +kernel

/-- The copy leaves, and the mirror copy of its frame joins the queue behind it. -/
theorem strayTurn_left : queueLeft (.egressDequeue 37 .good) strayServed 37 8 = [⟨1, false, false⟩] := by decide +kernel

/-- Refutes O35: port 37 serves "class 8", whose queue is class 0 of the mirror port; the frame that leaves is mirrored into that queue, which
is left with a copy more than the rest of what it held. -/
theorem not_switchCore : ¬ Obligations.SwitchCore := by
  unfold Obligations.SwitchCore
  intro h
  obtain ⟨hready, hhold, hclass, hqueue, hframe, hresidue⟩ := strayTurn_ready
  obtain ⟨⟨d, m'⟩, hnext, rfl⟩ := Option.map_eq_some_iff.1 hclass
  obtain ⟨-, -, -, -, hdequeue, -⟩ :=
    h strayServed 0 0 0 0 .good [] 0 0 0 8 false 37 0 m' strayFrame ⟨0, false, false⟩ []
  obtain ⟨n, ⟨hleft, -⟩, hn⟩ :=
    (hdequeue hready hhold (by decide) hnext hqueue hframe (fun hheld => absurd hheld Bool.false_ne_true)).queueLeft 37 8
  have hempty : n.queueOf 37 8 = [] := hleft (.inr hresidue) (fun hslot => absurd hslot (by decide))
  exact absurd ((hn.trans strayTurn_left).symm.trans hempty) (by decide)

end Sys2Proof.Machine
end

section
/-! PROOFS. Port slots (R218 to R227): reading the registers of a slot, and what flow control, the sensing of lanes and frames that leave the
buffer keep of the slots. -/

namespace Sys2Proof.Machine

/-! ## Fields beside and apart -/

/-- Two fields of one register that share no bit. -/
def Fld.beside (f g : Fld) : Bool := f.ok && g.ok && (decide (f.hi < g.lo) || decide (g.hi < f.lo))

theorem Fld.apart_of_beside {f g : Fld} (h : f.beside g = true) : f.ok = true ∧ g.ok = true ∧ f.apart g = true := by
  simp only [Fld.beside, Bool.and_eq_true, Bool.or_eq_true, decide_eq_true_eq] at h
  obtain ⟨⟨hf, hg⟩, h⟩ := h
  exact ⟨hf, hg, decide_eq_true (.inr h)⟩

section
variable (m : Fjoek) {f g : Fld} (v : Nat)

theorem Fjoek.get_put_beside (h : f.beside g = true) : (m.put f v).get g = m.get g := by
  obtain ⟨hf, hg, h⟩ := Fld.apart_of_beside h
  exact m.get_put_apart f g v hf hg h

theorem Fjoek.isOn_put_beside (h : f.beside g = true) : (m.put f v).isOn g = m.isOn g := by
  unfold Fjoek.isOn
  rw [m.get_put_beside v h]

theorem Fjoek.get_put_ne (h : g.addr ≠ f.addr) : (m.put f v).get g = m.get g := m.get_setReg_ne _ _ _ h

theorem Fjoek.isOn_put_ne (h : g.addr ≠ f.addr) : (m.put f v).isOn g = m.isOn g := by
  unfold Fjoek.isOn
  rw [m.get_put_ne v h]

end

/-- A value fits a field. -/
def Fld.fits (f : Fld) (v : Nat) : Bool := f.ok && decide (v < 2 ^ (f.hi - f.lo + 1))

/-- A value that fits a field is what the field then reads. -/
theorem Fjoek.get_put_fits (m : Fjoek) {f : Fld} {v : Nat} (h : f.fits v = true) : (m.put f v).get f = v := by
  simp only [Fld.fits, Bool.and_eq_true, decide_eq_true_eq] at h
  obtain ⟨hok, hv⟩ := h
  rw [m.get_put_same f v hok, Nat.mod_eq_of_lt hv]

theorem Fjoek.get_lt (m : Fjoek) (f : Fld) : m.get f < 2 ^ (f.hi - f.lo + 1) := bitsOf_lt _ _ _

/-- What no step of a pass changes, the pass does not change. -/
theorem Fjoek.each_keeps {α β : Type} (g : Fjoek → β) (l : List α) (f : α → Fjoek → Fjoek) (h : ∀ x ∈ l, ∀ n, g (f x n) = g n) (m : Fjoek) :
    g (m.each l f) = g m := by
  induction l generalizing m with
  | nil => rfl
  | cons x r ih => exact (ih (fun y hy => h y (.tail _ hy)) (f x m)).trans (h x (.head _) m)

/-! ## What stays of the slots and of the queues -/

/-- The registers of a slot's control, state, causes and settings: those of its window below the counters (spec/09, Registers). -/
def slotReg (a : Nat) : Prop := 0x100000 ≤ a ∧ a < 0x120000 ∧ a % 0x1000 < 0x100

theorem not_slotReg_counter {a : Nat} (h : 0x100 ≤ a % 0x1000) : ¬slotReg a := fun hs => absurd hs.2.2 (by omega)

theorem not_slotReg_above {a : Nat} (h : 0x120000 ≤ a) : ¬slotReg a := fun hs => absurd hs.2.1 (by omega)

/-- `n` has of `m` the slots' registers, faults and releases, every queue of the switch core, and the holds. -/
structure Flowed (m n : Fjoek) : Prop where
  reg : ∀ a, slotReg a → n.reg a = m.reg a
  netp : n.netp = m.netp
  queues : ∀ p c, n.queueOf p c = m.queueOf p c
  holds : n.swc.holds = m.swc.holds

theorem Flowed.of_swc {m n : Fjoek} (hr : ∀ a, slotReg a → n.reg a = m.reg a) (hn : n.netp = m.netp) (hq : n.swc.queues = m.swc.queues)
    (hh : n.swc.holds = m.swc.holds) : Flowed m n where
  reg := hr
  netp := hn
  queues p c := by unfold Fjoek.queueOf; rw [hq]
  holds := hh

theorem Flowed.refl (m : Fjoek) : Flowed m m := .of_swc (fun _ _ => rfl) rfl rfl rfl

theorem Flowed.trans {a b c : Fjoek} (h : Flowed a b) (k : Flowed b c) : Flowed a c where
  reg x hx := (k.reg x hx).trans (h.reg x hx)
  netp := k.netp.trans h.netp
  queues p i := (k.queues p i).trans (h.queues p i)
  holds := k.holds.trans h.holds

theorem Flowed.when {m : Fjoek} (c : Bool) (f : Fjoek → Fjoek) (h : Flowed m (f m)) : Flowed m (m.when c f) := by
  unfold Fjoek.when
  split
  · exact h
  · exact .refl m

theorem Flowed.ite {m a b : Fjoek} {c : Prop} [Decidable c] (h : Flowed m a) (k : Flowed m b) : Flowed m (if c then a else b) := by
  split <;> assumption

theorem Flowed.each {α : Type} (l : List α) (f : α → Fjoek → Fjoek) (h : ∀ x ∈ l, ∀ m, Flowed m (f x m)) (m : Fjoek) :
    Flowed m (m.each l f) := by
  unfold Fjoek.each
  induction l generalizing m with
  | nil => exact .refl m
  | cons x r ih => exact (h x (.head _) m).trans (ih (fun y hy => h y (.tail _ hy)) (f x m))

theorem Flowed.get {m n : Fjoek} (h : Flowed m n) {f : Fld} (hf : slotReg f.addr) : n.get f = m.get f := by
  unfold Fjoek.get
  rw [h.reg _ hf]

theorem Flowed.isOn {m n : Fjoek} (h : Flowed m n) {f : Fld} (hf : slotReg f.addr) : n.isOn f = m.isOn f := by
  unfold Fjoek.isOn
  rw [h.get hf]

theorem Flowed.faulty {m n : Fjoek} (h : Flowed m n) (k : Nat) : n.faulty k = m.faulty k := by
  unfold Fjoek.faulty
  rw [h.netp]

theorem flowed_setReg (m : Fjoek) {a : Nat} (v : Nat) (h : ¬slotReg a) : Flowed m (m.setReg a v) :=
  .of_swc (fun _ hx => m.reg_setReg_ne v fun hxa => h (hxa ▸ hx)) rfl rfl rfl

theorem flowed_put (m : Fjoek) {f : Fld} (v : Nat) (h : ¬slotReg f.addr) : Flowed m (m.put f v) := flowed_setReg m _ h

theorem flowed_count (m : Fjoek) {a : Nat} (n : Nat) (h : ¬slotReg a) (h' : ¬slotReg (a + 4)) : Flowed m (m.count a n) :=
  (flowed_setReg m _ h).trans (flowed_setReg _ _ h')

theorem flowed_happen (m : Fjoek) (e n : Nat) : Flowed m (m.happen e n) := .of_swc (fun _ _ => rfl) rfl rfl rfl

theorem flowed_send (m : Fjoek) (o : OutMsg) : Flowed m (m.send o) := .of_swc (fun _ _ => rfl) rfl rfl rfl

/-- Latches and counts keep all of it. -/
theorem Noted.flowed {m n : Fjoek} (h : Noted m n) : Flowed m n :=
  .of_swc (fun a ha => h.reg a (noting_seam a ⟨ha.1, ha.2.1.trans (by decide)⟩)) h.netp (by rw [h.swc]) (by rw [h.swc])

/-! ## Lanes -/

theorem slotLanes_lt (m : Fjoek) (s : Nat) : ∀ l ∈ m.slotLanes s, l < 4 := by
  intro l hl
  unfold Fjoek.slotLanes at hl
  split at hl <;> simp only [List.mem_cons, List.not_mem_nil, or_false] at hl <;> omega

theorem flowed_senseSnr (m : Fjoek) (s : Nat) : Flowed m (m.senseSnr s) := by
  unfold Fjoek.senseSnr
  refine Flowed.each _ _ (fun l hl n => ?_) m
  have hl := slotLanes_lt m s l hl
  refine Flowed.trans (b := { n with free := n.free + 1 }) (.of_swc (fun _ _ => rfl) rfl rfl rfl) ?_
  exact flowed_put _ _ (not_slotReg_counter (by simp only [NETP_LANE_snr]; omega))

theorem senseSnr_out (m : Fjoek) (s : Nat) : (m.senseSnr s).out = m.out := by
  unfold Fjoek.senseSnr
  refine Fjoek.each_keeps Fjoek.out _ _ (fun _ _ _ => ?_) m
  rfl

/-! ## Flow control of a slot (R225, R238) -/

section
variable (m : Fjoek) (p : Nat)

theorem flowed_pauseClasses (mask : Nat) (on : Bool) : Flowed m (m.pauseClasses p mask on) := by
  unfold Fjoek.pauseClasses
  exact .ite (.refl m) (flowed_put m _ (not_slotReg_above (by simp only [SWC_PSTAT_paused]; omega)))

/-- A counter of a slot. -/
theorem flowed_slotCount {a : Nat} (n : Nat) (h : 0x100 ≤ a % 0x1000 ∧ a % 0x1000 < 0x200) : Flowed m (m.count a n) :=
  flowed_count m n (not_slotReg_counter (by omega)) (not_slotReg_counter (by omega))

theorem flowed_pauseFrame (quanta : Nat) : Flowed m (m.pauseFrame p quanta) := by
  unfold Fjoek.pauseFrame
  refine .ite (.trans ?_ (flowed_pauseClasses _ p _ _)) ?_ <;> refine flowed_slotCount m 1 ?_
  · unfold NETP_PAUSERX_LO; omega
  · unfold NETP_RXCTL_LO; omega

theorem flowed_pfcFrame (enable : Nat) (quanta : List Nat) : Flowed m (m.pfcFrame p enable quanta) := by
  unfold Fjoek.pfcFrame
  refine .ite (Flowed.each _ _ (fun c hc n => ?_) m) ?_
  · have hc := class_lt hc
    have hcount : Flowed n (n.count (NETP_PFCRX_LO p c) 1) := flowed_slotCount n 1 (by unfold NETP_PFCRX_LO; omega)
    exact .ite (hcount.trans (flowed_pauseClasses _ p _ _)) hcount
  · exact flowed_slotCount m 1 (by unfold NETP_RXCTL_LO; omega)

theorem flowed_sendPause (mask quanta : Nat) : Flowed m (m.sendPause p mask quanta) := by
  have htx (n : Fjoek) : Flowed n (n.count (NETP_PAUSETX_LO p) 1) := flowed_slotCount n 1 (by unfold NETP_PAUSETX_LO; omega)
  have hpfc (n : Fjoek) : Flowed n (n.each ((List.range 8).filter fun c => bitOf mask c) fun c m => m.count (NETP_PFCTX_LO p c) 1) :=
    Flowed.each _ _ (fun c hc n => flowed_slotCount n 1 (by have hc := class_lt hc; unfold NETP_PFCTX_LO; omega)) n
  unfold Fjoek.sendPause
  refine .ite (.refl m) ((flowed_send m (.pause p mask quanta (m.slotMac p))).trans (.ite ?_ ?_))
  · exact (htx _).trans (.ite (flowed_pauseFrame _ p _) (.refl _))
  · exact (hpfc _).trans (.ite (flowed_pfcFrame _ p _ _) (.refl _))

theorem flowed_settleXoff : Flowed m (m.settleXoff p) := by
  unfold Fjoek.settleXoff
  have hput (v : Nat) : Flowed m (m.put (SWC_PSTAT_xoff p) v) := flowed_put m v (not_slotReg_above (by simp only [SWC_PSTAT_xoff]; omega))
  refine .ite (.refl m) (.ite (.refl m) (.trans ?_ (Flowed.when _ _ (flowed_sendPause _ p _ _))))
  exact (hput _).trans (Flowed.when _ _ (flowed_sendPause _ p _ _))

end

/-! ## Frames that leave the buffer (R246) -/

theorem flowed_refill (m : Fjoek) : Flowed m m.refill := by
  unfold Fjoek.refill
  refine Flowed.each _ _ (fun _ _ _ => ?_) m
  exact .of_swc (fun _ _ => rfl) rfl rfl rfl

theorem flowed_settleFrame (m : Fjoek) (id : Nat) : Flowed m (m.settleFrame id) := by
  unfold Fjoek.settleFrame
  split
  · exact .refl m
  · rename_i f _
    refine .ite (.refl m) (.trans ?_ (flowed_settleXoff _ f.ingress))
    refine Flowed.trans ?_ (flowed_refill _)
    exact .of_swc (fun _ _ => rfl) rfl rfl rfl

/-- One queue is written, and nothing else of the queues. -/
theorem queueOf_setQueueOf (m : Fjoek) (p c q d : Nat) (l : List Copy) :
    (m.setQueueOf p c l).queueOf q d = if 8 * q + d = 8 * p + c then l else m.queueOf q d := tableGet_set _ _ _ _ _

theorem queueOf_setQueueOf_same (m : Fjoek) (p c : Nat) (l : List Copy) : (m.setQueueOf p c l).queueOf p c = l := by
  rw [queueOf_setQueueOf, if_pos rfl]

theorem Flowed.setQueueOf {m n : Fjoek} (h : Flowed m n) (p c : Nat) (l : List Copy) : Flowed (m.setQueueOf p c l) (n.setQueueOf p c l) where
  reg := h.reg
  netp := h.netp
  queues q d := by simp only [queueOf_setQueueOf, h.queues]
  holds := h.holds

/-- Of two writes of a queue the second stands. -/
theorem flowed_setQueueOf_twice (m : Fjoek) (p c : Nat) (l k : List Copy) :
    Flowed (m.setQueueOf p c k) ((m.setQueueOf p c l).setQueueOf p c k) where
  reg _ _ := rfl
  netp := rfl
  queues q d := by simp only [queueOf_setQueueOf]; split <;> rfl
  holds := rfl

/-- A queue that is empty already is emptied. -/
theorem flowed_setQueueOf_nil {m : Fjoek} {p c : Nat} (h : m.queueOf p c = []) : Flowed (m.setQueueOf p c []) m where
  reg _ _ := rfl
  netp := rfl
  queues q d := by
    rw [queueOf_setQueueOf]
    split
    · rename_i hk
      exact (congrArg (tableGet (fun _ => []) m.swc.queues) hk).trans h
    · rfl
  holds := rfl

/-- The oldest copy of a frame leaves its queue. -/
theorem flowed_dropCopy (m : Fjoek) (p c id : Nat) :
    Flowed (m.setQueueOf p c ((m.queueOf p c).eraseP fun q => q.frame == id)) (m.dropCopy p c id) := by
  unfold Fjoek.dropCopy
  refine .trans ?_ (flowed_settleFrame _ id)
  exact .ite (.of_swc (fun _ _ => rfl) rfl rfl rfl) (.refl _)

theorem flowed_dropped (m : Fjoek) {a : Nat} (n : Nat) (h : 0x120000 ≤ a) : Flowed m (m.dropped a n) :=
  (flowed_count m n (not_slotReg_above h) (not_slotReg_above (by omega))).trans (flowed_happen _ _ _)

/-- Flush one queue of a port, counting each copy (R246). -/
def Fjoek.flushQueue (m : Fjoek) (p c : Nat) : Fjoek :=
  m.each (m.queueOf p c) fun q m => (m.dropped (SWC_FLUSH_LO p) 1).dropCopy p c q.frame

theorem flushPort_eq (m : Fjoek) (p : Nat) : m.flushPort p = (m.endHold p).each (List.range 8) fun c m => m.flushQueue p c := rfl

/-- As many copies leave as stand in the queue, the oldest first. -/
theorem flowed_flushCopies {m : Fjoek} {p c : Nat} {l : List Copy} (h : m.queueOf p c = l) :
    Flowed (m.setQueueOf p c []) (m.each l fun q m => (m.dropped (SWC_FLUSH_LO p) 1).dropCopy p c q.frame) := by
  induction l generalizing m with
  | nil => exact flowed_setQueueOf_nil h
  | cons q r ih =>
    have hdropped : Flowed m (m.dropped (SWC_FLUSH_LO p) 1) := flowed_dropped m 1 (by unfold SWC_FLUSH_LO; omega)
    have hrest : ((m.dropped (SWC_FLUSH_LO p) 1).queueOf p c).eraseP (fun x => x.frame == q.frame) = r := by
      rw [hdropped.queues, h]
      exact List.eraseP_cons_of_pos (beq_self_eq_true q.frame)
    have hdrop := flowed_dropCopy (m.dropped (SWC_FLUSH_LO p) 1) p c q.frame
    rw [hrest] at hdrop
    have hstep : Flowed (m.setQueueOf p c r) ((m.dropped (SWC_FLUSH_LO p) 1).dropCopy p c q.frame) := (hdropped.setQueueOf p c r).trans hdrop
    have hnow := (hstep.queues p c).trans (queueOf_setQueueOf_same m p c r)
    exact ((flowed_setQueueOf_twice m p c r []).trans (hstep.setQueueOf p c [])).trans (ih hnow)

theorem flowed_flushQueue (m : Fjoek) (p c : Nat) : Flowed (m.setQueueOf p c []) (m.flushQueue p c) := flowed_flushCopies rfl

theorem queueOf_flushQueues (m : Fjoek) (p : Nat) (l : List Nat) (j : Nat) :
    (m.each l fun c m => m.flushQueue p c).queueOf p j = if j ∈ l then [] else m.queueOf p j := by
  induction l generalizing m with
  | nil => rfl
  | cons c r ih =>
    have hone : (m.flushQueue p c).queueOf p j = if j = c then [] else m.queueOf p j := by
      rw [(flowed_flushQueue m p c).queues, queueOf_setQueueOf]
      simp only [Nat.add_left_cancel_iff]
    refine (ih (m.flushQueue p c)).trans ?_
    rw [hone]
    by_cases hr : j ∈ r <;> by_cases hc : j = c <;> simp [hr, hc]

/-- No queue of the port holds a copy, and the port is in no hold. -/
def Fjoek.emptied (m : Fjoek) (p : Nat) : Prop := p ∉ m.swc.holds ∧ ∀ j < 8, m.queueOf p j = []

/-- What a flush leaves of the slots, and of the holds of other ports. -/
structure Flushed (m n : Fjoek) (p : Nat) : Prop where
  reg : ∀ a, slotReg a → n.reg a = m.reg a
  emptied : n.emptied p

theorem not_mem_endHold (m : Fjoek) (p : Nat) : p ∉ (m.endHold p).swc.holds := by
  simp [Fjoek.endHold]

theorem flushQueues_kept (m : Fjoek) (p : Nat) (l : List Nat) :
    (∀ a, slotReg a → (m.each l fun c m => m.flushQueue p c).reg a = m.reg a) ∧
      (m.each l fun c m => m.flushQueue p c).swc.holds = m.swc.holds :=
  ⟨fun a ha => Fjoek.each_keeps (fun n => n.reg a) l _ (fun c _ n => (flowed_flushQueue n p c).reg a ha) m,
    Fjoek.each_keeps (fun n => n.swc.holds) l _ (fun c _ n => (flowed_flushQueue n p c).holds) m⟩

theorem flushPort_flushed (m : Fjoek) (p : Nat) : Flushed m (m.flushPort p) p where
  reg := (flushQueues_kept (m.endHold p) p (List.range 8)).1
  emptied := by
    rw [flushPort_eq]
    refine ⟨?_, fun j hj => ?_⟩
    · rw [(flushQueues_kept (m.endHold p) p (List.range 8)).2]
      exact not_mem_endHold m p
    · rw [queueOf_flushQueues, if_pos (List.mem_range.2 hj)]

theorem Flowed.emptied {m n : Fjoek} (h : Flowed m n) {p : Nat} (hm : m.emptied p) : n.emptied p := by
  refine ⟨?_, fun j hj => (h.queues p j).trans (hm.2 j hj)⟩
  rw [h.holds]
  exact hm.1

end Sys2Proof.Machine
end

section
/-! PROOFS. Port slots (R218 to R221, R227): enabling and disabling, quad modes, training, faults and link down. -/

namespace Sys2Proof.Machine

/-! ## Reading a slot's fields -/

theorem slotReg_of {a k : Nat} (ha : 0x100000 ≤ a ∧ a < 0x100100) (hk : k < 32) : slotReg (a + 0x1000 * k) := by
  refine ⟨?_, ?_, ?_⟩ <;> omega

theorem Fjoek.isOn_congr {m n : Fjoek} {f : Fld} (h : n.get f = m.get f) : n.isOn f = m.isOn f := by
  unfold Fjoek.isOn
  rw [h]

/-- A field that reads `v` is on where `v` is not 0. -/
theorem Fjoek.isOn_of_get {m : Fjoek} {f : Fld} {v : Nat} (h : m.get f = v) : m.isOn f = (v != 0) := by
  unfold Fjoek.isOn
  rw [h]

theorem Flushed.get {m n : Fjoek} {p : Nat} (h : Flushed m n p) {f : Fld} (hf : slotReg f.addr) : n.get f = m.get f := by
  unfold Fjoek.get
  rw [h.reg _ hf]

theorem faulty_setFault (m : Fjoek) (k : Nat) (v : Bool) : (m.setFault k v).faulty k = v := tableGet_set_same _ _ _ _

/-! ## `up` (R220) -/

/-- `up` and what its change records in the slot: NETP_ESTAT.link, and NETP_LINKDN where it falls. -/
def Fjoek.upSet (m : Fjoek) (s : Nat) (v : Bool) : Fjoek :=
  if m.isOn (NETP_SSTAT_up s) = v then m
  else ((m.put (NETP_SSTAT_up s) (bnat v)).put (NETP_ESTAT_link s) 1).when (!v) fun m => m.count (NETP_LINKDN_LO s) 1

section
variable (m : Fjoek) {k : Nat} (hk : k < 32) (v : Bool)

theorem isOn_upSet : (m.upSet k v).isOn (NETP_SSTAT_up k) = v := by
  unfold Fjoek.upSet Fjoek.when
  split
  · assumption
  · have hput : ((m.put (NETP_SSTAT_up k) (bnat v)).put (NETP_ESTAT_link k) 1).isOn (NETP_SSTAT_up k) = v :=
      (Fjoek.isOn_put_ne _ 1 (mt Nat.add_right_cancel (by decide))).trans (m.isOn_put_bnat _ v rfl rfl)
    split
    · exact (Fjoek.isOn_count_ne _ _ _ _ (mt Nat.add_right_cancel (by decide))
        (by simp only [NETP_SSTAT_up, NETP_LINKDN_LO]; omega)).trans hput
    · exact hput

/-- A field below the counters keeps its value, but `up` and NETP_ESTAT. -/
theorem get_upSet {f : Fld} (hup : (m.put (NETP_SSTAT_up k) (bnat v)).get f = m.get f) (hlow : f.addr % 0x1000 < 0x100)
    (he : f.addr ≠ NETP_ESTAT k) : (m.upSet k v).get f = m.get f := by
  unfold Fjoek.upSet Fjoek.when
  split
  · rfl
  · have hput := (Fjoek.get_put_ne (m.put (NETP_SSTAT_up k) (bnat v)) (f := NETP_ESTAT_link k) 1 he).trans hup
    split
    · exact (Fjoek.get_count_ne _ _ _ _ (by unfold NETP_LINKDN_LO; omega) (by unfold NETP_LINKDN_LO; omega)).trans hput
    · exact hput

include hk

theorem noted_setUp : Noted (m.upSet k v) (m.setUp k v) := by
  have hcause : Noted ((m.put (NETP_SSTAT_up k) (bnat v)).put (NETP_ESTAT_link k) 1)
      ((m.put (NETP_SSTAT_up k) (bnat v)).cause (NETP_ESTAT_link k) (129 + 2 * k)) :=
    (Noted.refl _).cause _ _ (by omega) (noting_seam _ (by simp only [NETP_ESTAT_link]; omega)) rfl
  obtain ⟨hlo, hhi⟩ := noting_xport (NETP_LINKDN_LO k) (by unfold NETP_LINKDN_LO; omega)
  unfold Fjoek.upSet Fjoek.setUp Fjoek.when
  split
  · exact .refl m
  · simp only
    refine Noted.trans ?_ (logTwin_noted _ _ _ _)
    split
    · exact hcause.count _ _ hlo hhi
    · exact hcause

theorem isOn_setUp : (m.setUp k v).isOn (NETP_SSTAT_up k) = v :=
  ((noted_setUp m hk v).isOn_seam _ (by simp only [NETP_SSTAT_up]; omega)).trans (isOn_upSet m v)

theorem get_setUp {f : Fld} (hup : (m.put (NETP_SSTAT_up k) (bnat v)).get f = m.get f)
    (hf : 0x100000 ≤ f.addr ∧ f.addr < 0x300000 ∧ f.addr % 0x1000 < 0x100) (he : f.addr ≠ NETP_ESTAT k) : (m.setUp k v).get f = m.get f :=
  ((noted_setUp m hk v).get_seam f ⟨hf.1, hf.2.1⟩).trans (get_upSet m v hup hf.2.2 he)

theorem state_setUp : (m.setUp k v).get (NETP_SSTAT_state k) = m.get (NETP_SSTAT_state k) :=
  get_setUp m hk v (m.get_put_beside _ rfl) (by simp only [NETP_SSTAT_state]; omega) (mt Nat.add_right_cancel (by decide))

theorem admin_setUp : (m.setUp k v).get (NETP_SCTL_admin k) = m.get (NETP_SCTL_admin k) :=
  get_setUp m hk v (m.get_put_ne _ (mt Nat.add_right_cancel (by decide))) (by simp only [NETP_SCTL_admin]; omega)
    (mt Nat.add_right_cancel (by decide))

/-- The switch core's global registers stay. -/
theorem get_setUp_global {f : Fld} (hf : 0x140000 ≤ f.addr ∧ f.addr < 0x140100) : (m.setUp k v).get f = m.get f :=
  get_setUp m hk v (m.get_put_ne _ (by simp only [NETP_SSTAT_up]; omega)) (by omega) (by unfold NETP_ESTAT; omega)

end

/-! ## Happenings at a link (R221) -/

theorem noted_onLink (m : Fjoek) (s : Nat) (f : Fjoek → Fjoek) : Noted (f m) (m.onLink s f) := by
  unfold Fjoek.onLink
  simp only
  split
  · exact .refl _
  · exact noted_send _ _

theorem onLink_congr {m : Fjoek} {f g : Fjoek → Fjoek} (h : f m = g m) (s : Nat) : m.onLink s f = m.onLink s g := by
  unfold Fjoek.onLink
  simp only [h]

/-- A change of the remote fault indication is sent. -/
theorem onLink_sends {m : Fjoek} {s : Nat} {f : Fjoek → Fjoek} {b : Bool} (hf : (f m).indicates s = b) (hm : m.indicates s = !b) :
    m.onLink s f = (f m).send (.remoteFault s b) := by
  unfold Fjoek.onLink
  simp only [hf, hm]
  rw [if_neg (by cases b <;> decide)]

/-- A command at a link ends as its happening leaves the module, but for latches and counts. -/
theorem ends_onLink {c : Instr} {st : State} {n : Fjoek} {k : Nat} {g f : Fjoek → Fjoek} {P : Fjoek → Prop} (h : exec c st = st.on g)
    (hg : g st.m = n.onLink k f) (hP : ∀ t, Noted (n.onLink k f) t → P t.unburnt) : Ends c st P :=
  ⟨_, h.trans (on_effect hg), rfl, hP _ (flush_noted _)⟩

/-- A command's effect but for what latches and counts add to it. -/
theorem does_noted {c : Instr} {st : State} {g : Fjoek → Fjoek} {n : Fjoek} (h : exec c st = st.on g) (hn : Noted n (g st.m)) :
    Does c st n :=
  does_of c st n _ h hn

/-! ## Enabling and disabling (R218, R227) -/

theorem slotEnable_wakes {m : Fjoek} {k : Nat} (huse : m.slotInUse k = true) (h0 : m.get (NETP_SSTAT_state k) = 0) :
    m.slotEnable k = (m.put (NETP_SCTL_admin k) 1).put (NETP_SSTAT_state k) 1 := by
  have hstate : (m.put (NETP_SCTL_admin k) 1).get (NETP_SSTAT_state k) = 0 :=
    (m.get_put_ne 1 (mt Nat.add_right_cancel (by decide))).trans h0
  unfold Fjoek.slotEnable
  rw [huse]
  exact if_pos hstate

/-- A slot out of service: transmitters idle, state 0, no fault. -/
def Fjoek.slotIdled (m : Fjoek) (k : Nat) : Fjoek :=
  (((((m.put (NETP_SCTL_admin k) 0).put (NETP_SSTAT_state k) 0).put (NETP_SSTAT_align k) 0).put (NETP_SSTAT_lfault k) 0).put
    (NETP_SSTAT_rfault k) 0).setFault k false

theorem slotDisable_ends {m : Fjoek} {k : Nat} (huse : m.slotInUse k = true) (h0 : m.get (NETP_SSTAT_state k) ≠ 0) :
    m.slotDisable k = m.onLink k fun m => ((m.slotIdled k).setUp k false).flushPort k := by
  have hstate : (m.put (NETP_SCTL_admin k) 0).get (NETP_SSTAT_state k) ≠ 0 := by
    rwa [m.get_put_ne 0 (mt Nat.add_right_cancel (by decide))]
  unfold Fjoek.slotDisable
  rw [huse]
  simp only [Bool.not_true, Bool.false_eq_true, if_false]
  refine onLink_congr ?_ k
  exact if_neg hstate

theorem get_setFault (m : Fjoek) (k : Nat) (v : Bool) (f : Fld) : (m.setFault k v).get f = m.get f := rfl

theorem state_slotIdled (m : Fjoek) (k : Nat) : (m.slotIdled k).get (NETP_SSTAT_state k) = 0 := by
  unfold Fjoek.slotIdled
  rw [get_setFault]
  iterate 3 refine (Fjoek.get_put_beside _ _ rfl).trans ?_
  exact Fjoek.get_put_fits _ rfl

theorem admin_slotIdled (m : Fjoek) (k : Nat) : (m.slotIdled k).get (NETP_SCTL_admin k) = 0 := by
  have hne : NETP_SCTL k ≠ NETP_SSTAT k := mt Nat.add_right_cancel (by decide)
  unfold Fjoek.slotIdled
  rw [get_setFault]
  iterate 4 refine (Fjoek.get_put_ne _ _ hne).trans ?_
  exact Fjoek.get_put_fits _ rfl

theorem ends_slotDisable {st : State} {s : Fin 32} (huse : st.m.slotInUse s.val = true) (h0 : st.m.get (NETP_SSTAT_state s.val) ≠ 0) :
    Ends (.slotDisable s) st fun n => n.isOn (NETP_SCTL_admin s.val) = false ∧ n.get (NETP_SSTAT_state s.val) = 0 ∧
      n.isOn (NETP_SSTAT_up s.val) = false ∧ n.emptied s.val := by
  have hk := s.isLt
  refine ends_onLink (g := fun m => m.slotDisable s.val) rfl (slotDisable_ends huse h0) fun t ht => ?_
  have hflush := flushPort_flushed ((st.m.slotIdled s.val).setUp s.val false) s.val
  have hflow := ((noted_onLink _ _ _).trans ht).flowed
  have hget {f : Fld} (hf : slotReg f.addr) : t.get f = ((st.m.slotIdled s.val).setUp s.val false).get f :=
    (hflow.get hf).trans (hflush.get hf)
  have hadmin := ((hget (slotReg_of (by decide) hk)).trans (admin_setUp _ hk false)).trans (admin_slotIdled st.m s.val)
  have hstate := ((hget (slotReg_of (by decide) hk)).trans (state_setUp _ hk false)).trans (state_slotIdled st.m s.val)
  have hup := (Fjoek.isOn_congr (hget (slotReg_of (by decide) hk))).trans (isOn_setUp _ hk false)
  exact ⟨Fjoek.isOn_of_get hadmin, hstate, hup, hflow.emptied hflush.emptied⟩

/-! ## Quad modes (R219) -/

/-- A quad that may take a mode: every slot of it is out of service and in state 0. -/
theorem quadIdle_iff (m : Fjoek) (q : Nat) :
    ((List.range 4).all fun i => !m.isOn (NETP_SCTL_admin (4 * q + i)) && m.get (NETP_SSTAT_state (4 * q + i)) == 0) = true ↔
      ∀ i < 4, m.isOn (NETP_SCTL_admin (4 * q + i)) = false ∧ m.get (NETP_SSTAT_state (4 * q + i)) = 0 := by
  simp only [List.all_eq_true, List.mem_range, Bool.and_eq_true, Bool.not_eq_true', beq_iff_eq]

theorem does_quadMode {st : State} {q : Fin 8} (mode : Fin 16)
    (h : ∀ i < 4, st.m.isOn (NETP_SCTL_admin (4 * q.val + i)) = false ∧ st.m.get (NETP_SSTAT_state (4 * q.val + i)) = 0) :
    Does (.quadModeWrite q mode) st ((st.m.put (NETP_QCFG_mode q.val) mode.val).put (NETP_QSTAT_busy q.val) 1) :=
  does_on (f := fun m => m.quadMode q.val mode.val) rfl (if_pos ((quadIdle_iff st.m q.val).2 h))

theorem does_quadMode_rejected {st : State} {q : Fin 8} (mode : Fin 16)
    (h : ¬∀ i < 4, st.m.isOn (NETP_SCTL_admin (4 * q.val + i)) = false ∧ st.m.get (NETP_SSTAT_state (4 * q.val + i)) = 0) :
    Does (.quadModeWrite q mode) st (st.m.put (NETP_ESTAT_rej (4 * q.val)) 1) := by
  refine does_noted (g := fun m => m.quadMode q.val mode.val) rfl ?_
  rw [show st.m.quadMode q.val mode.val = _ from if_neg (mt (quadIdle_iff st.m q.val).1 h)]
  exact (Noted.refl st.m).cause _ _ (by omega) (noting_seam _ (by simp only [NETP_ESTAT_rej]; omega)) rfl

/-- A sum of powers of two, one for each number below `n` that satisfies `P`, has exactly those bits. -/
theorem testBit_foldl_flags (P : Nat → Prop) [DecidablePred P] (n : Nat) :
    let v := (List.range n).foldl (fun v q => if P q then v + 2 ^ q else v) 0
    v < 2 ^ n ∧ ∀ j < n, v.testBit j = decide (P j) := by
  induction n with
  | zero => exact ⟨Nat.one_pos, fun j hj => absurd hj (Nat.not_lt_zero j)⟩
  | succ n ih =>
    obtain ⟨hlt, hbit⟩ := ih
    simp only [List.range_succ, List.foldl_append, List.foldl_cons, List.foldl_nil]
    generalize (List.range n).foldl (fun v q => if P q then v + 2 ^ q else v) 0 = v at hlt hbit ⊢
    have hn : v.testBit n = false := Nat.testBit_lt_two_pow hlt
    refine ⟨by split <;> omega, fun j hj => ?_⟩
    rcases Nat.lt_succ_iff_lt_or_eq.1 hj with hj | rfl
    · split
      · rw [Nat.add_comm, Nat.testBit_two_pow_add_gt hj, hbit j hj]
      · exact hbit j hj
    · split
      · rw [Nat.add_comm, Nat.testBit_two_pow_add_eq, hn]
        simp [*]
      · rw [hn]
        simp [*]

/-- A change of a domain's bit writes CLK_DOMSTAT, CLK_STOPC and CLK_ESTAT alone, where the domain has no PLL of its own and holds no
strands. -/
theorem get_setDomain_quads (m : Fjoek) (v : Bool) {f : Fld} (hd : f.addr ≠ CLK_DOMSTAT) (hs : f.addr ≠ CLK_STOPC)
    (he : f.addr ≠ CLK_ESTAT) (hn : noting f.addr = false) : (m.setDomain 6 v).get f = m.get f := by
  unfold Fjoek.setDomain
  split
  · rfl
  · refine (get_cause_ne _ _ _ (by decide) he hn).trans ?_
    have hdom (n : Fjoek) (x : Nat) : (n.put ⟨CLK_DOMSTAT, 6, 6⟩ x).get f = n.get f := Fjoek.get_put_ne n x hd
    cases v
    · exact (Fjoek.get_put_ne _ 1 hs).trans (hdom _ _)
    · exact hdom _ _

theorem bitOf_settleQuads (m : Fjoek) {q : Nat} (hq : q < 8) : bitOf (m.settleQuads.get CLK_QSTAT_run) q =
    decide (m.power = 4 ∧ bitOf m.hearth.lost 6 = false ∧ m.get (NETP_QCFG_mode q) ≠ 0 ∧ m.get (NETP_QCFG_mode q) ≤ 8) := by
  obtain ⟨hlt, hbit⟩ := testBit_foldl_flags (fun q => m.power = 4 ∧ (!bitOf m.hearth.lost 6) = true ∧ m.get (NETP_QCFG_mode q) ≠ 0 ∧
    m.get (NETP_QCFG_mode q) ≤ 8) 8
  unfold Fjoek.settleQuads
  simp only
  rw [get_setDomain_quads _ _ (by decide) (by decide) (by decide) (by decide), Fjoek.get_put_same _ _ _ rfl]
  refine (congrArg (bitOf · q) (Nat.mod_eq_of_lt hlt)).trans ((hbit q hq).trans ?_)
  simp only [Bool.not_eq_true']

theorem ends_quadModeChangeDone (st : State) (q : Fin 8) : Ends (.quadModeChangeDone q) st fun n =>
    n.isOn (NETP_QSTAT_busy q.val) = false ∧ bitOf (n.get CLK_QSTAT_run) q.val =
      decide (st.m.power = 4 ∧ bitOf st.m.hearth.lost 6 = false ∧ st.m.get (NETP_QCFG_mode q.val) ≠ 0 ∧ st.m.get (NETP_QCFG_mode q.val) ≤ 8) := by
  have hq := q.isLt
  refine ends_of _ _ ((st.m.put (NETP_QSTAT_busy q.val) 0).settleQuads) _ rfl fun t ht => ?_
  have hbusy : (NETP_QSTAT_busy q.val).addr = 0x100c04 + 0x4000 * q.val := rfl
  have hmode : (st.m.put (NETP_QSTAT_busy q.val) 0).get (NETP_QCFG_mode q.val) = st.m.get (NETP_QCFG_mode q.val) :=
    Fjoek.get_put_ne _ _ (mt Nat.add_right_cancel (by decide))
  have hpower : (st.m.put (NETP_QSTAT_busy q.val) 0).power = st.m.power :=
    Fjoek.get_put_ne _ _ (by simp only [NETP_QSTAT_busy, HEARTH_STAT_state]; omega)
  refine ⟨?_, ?_⟩
  · rw [ht.isOn_seam _ (by rw [hbusy]; omega)]
    refine Fjoek.isOn_of_get (v := 0) ?_
    show Fjoek.get (Fjoek.setDomain _ 6 _) _ = 0
    rw [get_setDomain_quads _ _ (by rw [hbusy, CLK_DOMSTAT]; omega) (by rw [hbusy, CLK_STOPC]; omega) (by rw [hbusy, CLK_ESTAT]; omega)
      (noting_seam _ (by rw [hbusy]; omega)), Fjoek.get_put_ne _ _ (by rw [hbusy]; simp only [CLK_QSTAT_run]; omega)]
    exact Fjoek.get_put_fits _ rfl
  · rw [ht.get _ (by decide)]
    refine (bitOf_settleQuads _ hq).trans ?_
    rw [hmode, hpower]
    rfl

/-! ## Training (R220, R221) -/

/-- Outside state 2 a slot sends no remote fault indication. -/
theorem indicates_elsewhere {m : Fjoek} {k : Nat} (h : m.get (NETP_SSTAT_state k) ≠ 2) : m.indicates k = false := by
  unfold Fjoek.indicates
  simp [h]

/-- The lanes of a slot are on. -/
def Fjoek.slotTrained (m : Fjoek) (k : Nat) : Fjoek := (m.put (NETP_SSTAT_state k) 2).senseSnr k

section
variable (m : Fjoek) {k : Nat} (hk : k < 32)
include hk

theorem state_slotTrained : (m.slotTrained k).get (NETP_SSTAT_state k) = 2 :=
  ((flowed_senseSnr _ k).get (slotReg_of (by decide) hk)).trans (Fjoek.get_put_fits _ rfl)

theorem indicates_slotTrained (ha : m.isOn (NETP_SSTAT_align k) = false) (hr : m.isOn (NETP_SSTAT_rfault k) = false) :
    (m.slotTrained k).indicates k = true := by
  have halign : (m.slotTrained k).isOn (NETP_SSTAT_align k) = false :=
    ((flowed_senseSnr _ k).isOn (slotReg_of (by decide) hk)).trans ((Fjoek.isOn_put_beside _ _ rfl).trans ha)
  have hfault : (m.slotTrained k).isOn (NETP_SSTAT_rfault k) = false :=
    ((flowed_senseSnr _ k).isOn (slotReg_of (by decide) hk)).trans ((Fjoek.isOn_put_beside _ _ rfl).trans hr)
  unfold Fjoek.indicates
  rw [state_slotTrained m hk, halign, hfault]
  rfl

end

theorem ends_lanesOn {st : State} {s : Fin 32} (h1 : st.m.get (NETP_SSTAT_state s.val) = 1)
    (hb : st.m.isOn (NETP_QSTAT_busy (s.val / 4)) = false) : Ends (.lanesOn s) st fun n => n.get (NETP_SSTAT_state s.val) = 2 ∧
      (st.m.isOn (NETP_SSTAT_align s.val) = false → st.m.isOn (NETP_SSTAT_rfault s.val) = false →
        ∃ o, n.out = st.m.out ++ [.remoteFault s.val true] ++ o) := by
  have hk := s.isLt
  refine ends_onLink (f := fun m => m.slotTrained s.val) rfl (if_pos ⟨h1, by rw [hb]; rfl⟩) fun t ht => ⟨?_, fun ha hr => ?_⟩
  · exact (((noted_onLink _ _ _).trans ht).flowed.get (slotReg_of (by decide) hk)).trans (state_slotTrained st.m hk)
  · have hsends := onLink_sends (f := fun m => m.slotTrained s.val) (indicates_slotTrained st.m hk ha hr)
      (indicates_elsewhere (by rw [h1]; decide))
    obtain ⟨o, ho⟩ := ht.out
    refine ⟨o, ?_⟩
    show t.out = _
    rw [ho, hsends]
    exact congrArg (· ++ [OutMsg.remoteFault s.val true] ++ o) (senseSnr_out (st.m.put (NETP_SSTAT_state s.val) 2) s.val)

/-- FEC and PCS are aligned, and no fault is in force. -/
def Fjoek.slotAligned (m : Fjoek) (k : Nat) : Fjoek :=
  (((((m.senseSnr k).put (NETP_SSTAT_align k) 1).put (NETP_SSTAT_lfault k) 0).put (NETP_SSTAT_rfault k) 0).put
    (NETP_SSTAT_state k) 3).setFault k false

theorem slotAligned_fields (m : Fjoek) (k : Nat) : (m.slotAligned k).get (NETP_SSTAT_state k) = 3 ∧ (m.slotAligned k).faulty k = false ∧
    (m.slotAligned k).get (NETP_SSTAT_align k) = 1 ∧ (m.slotAligned k).get (NETP_SSTAT_lfault k) = 0 ∧
    (m.slotAligned k).get (NETP_SSTAT_rfault k) = 0 := by
  unfold Fjoek.slotAligned
  simp only [get_setFault]
  refine ⟨Fjoek.get_put_fits _ rfl, faulty_setFault _ _ _, ?_, ?_, ?_⟩
  · iterate 3 refine (Fjoek.get_put_beside _ _ rfl).trans ?_
    exact Fjoek.get_put_fits _ rfl
  · iterate 2 refine (Fjoek.get_put_beside _ _ rfl).trans ?_
    exact Fjoek.get_put_fits _ rfl
  · refine (Fjoek.get_put_beside _ _ rfl).trans ?_
    exact Fjoek.get_put_fits _ rfl

theorem slotAligned_out (m : Fjoek) (k : Nat) : (m.slotAligned k).out = m.out := by
  simp only [Fjoek.slotAligned, Fjoek.setFault_out, Fjoek.put_out, senseSnr_out]

theorem exec_linkAligned (st : State) (s : Fin 32) : exec (.linkAligned s) st = st.on fun m =>
    if m.get (NETP_SSTAT_state s.val) = 2 then m.onLink s.val fun m => m.slotAligned s.val else m := rfl

theorem ends_linkAligned {st : State} {s : Fin 32} (h2 : st.m.get (NETP_SSTAT_state s.val) = 2) : Ends (.linkAligned s) st fun n =>
    n.get (NETP_SSTAT_state s.val) = 3 ∧ n.faulty s.val = false ∧ n.isOn (NETP_SSTAT_align s.val) = true ∧
      n.isOn (NETP_SSTAT_lfault s.val) = false ∧ n.isOn (NETP_SSTAT_rfault s.val) = false ∧
      (st.m.indicates s.val = true → ∃ o, n.out = st.m.out ++ [.remoteFault s.val false] ++ o) := by
  have hk := s.isLt
  obtain ⟨hstate, hfault, halign, hl, hr⟩ := slotAligned_fields st.m s.val
  refine ends_onLink (f := fun m => m.slotAligned s.val) (exec_linkAligned st s) (if_pos h2) fun t ht => ?_
  have hflow := ((noted_onLink _ _ _).trans ht).flowed
  have hget {f : Fld} (hf : slotReg f.addr) : t.get f = (st.m.slotAligned s.val).get f := hflow.get hf
  refine ⟨(hget (slotReg_of (by decide) hk)).trans hstate, (hflow.faulty s.val).trans hfault,
    Fjoek.isOn_of_get ((hget (slotReg_of (by decide) hk)).trans halign), Fjoek.isOn_of_get ((hget (slotReg_of (by decide) hk)).trans hl),
    Fjoek.isOn_of_get ((hget (slotReg_of (by decide) hk)).trans hr), fun hi => ?_⟩
  have hsends := onLink_sends (f := fun m => m.slotAligned s.val) (b := false) (indicates_elsewhere (by rw [hstate]; decide)) hi
  obtain ⟨o, ho⟩ := ht.out
  refine ⟨o, ?_⟩
  show t.out = _
  rw [ho, hsends]
  exact congrArg (· ++ [OutMsg.remoteFault s.val false] ++ o) (slotAligned_out st.m s.val)

theorem ends_linkQualified {st : State} {s : Fin 32} (h3 : st.m.get (NETP_SSTAT_state s.val) = 3) : Ends (.linkQualified s) st fun n =>
    n.get (NETP_SSTAT_state s.val) = 4 ∧ n.isOn (NETP_SSTAT_up s.val) = true ∧ s.val ∉ n.swc.holds := by
  have hk := s.isLt
  let up := (st.m.put (NETP_SSTAT_state s.val) 4).setUp s.val true
  refine ends_of _ _ (up.endHold s.val) _ (on_effect (if_pos h3)) fun t ht => ⟨?_, ?_, ?_⟩
  · refine (ht.flowed.get (slotReg_of (by decide) hk)).trans ((state_setUp _ hk true).trans ?_)
    exact Fjoek.get_put_fits _ rfl
  · exact (ht.flowed.isOn (slotReg_of (by decide) hk)).trans (isOn_setUp _ hk true)
  · rw [ht.flowed.holds]
    exact not_mem_endHold up s.val

/-! ## Faults (R220, R221) -/

/-- What a fault of each kind marks in the slot. -/
def Fjoek.faultMark (m : Fjoek) (k : Nat) : LinkFault → Fjoek
  | .align => m.put (NETP_SSTAT_align k) 0
  | .loc => m.put (NETP_SSTAT_lfault k) 1
  | .remote => m.put (NETP_SSTAT_rfault k) 1
  | .fec => m.slotError k NETP_ESTAT_fecdeg

/-- A fault is in force: QUALIFY ends. -/
def Fjoek.inFault (m : Fjoek) (k : Nat) : Fjoek :=
  if (m.setFault k true).get (NETP_SSTAT_state k) = 3 then (m.setFault k true).put (NETP_SSTAT_state k) 2 else m.setFault k true

/-- A fault arises; one that passes the FEC threshold is a fault where the threshold is enabled. -/
def Fjoek.faultArises (m : Fjoek) (k : Nat) (kind : LinkFault) : Fjoek :=
  if kind = .fec ∧ !((m.senseSnr k).faultMark k kind).isOn (NETP_FECTHR_en k) then (m.senseSnr k).faultMark k kind
  else ((m.senseSnr k).faultMark k kind).inFault k

theorem exec_linkFault (st : State) (s : Fin 32) (kind : LinkFault) : exec (.linkFault s kind) st = st.on fun m =>
    if m.get (NETP_SSTAT_state s.val) < 2 then m else m.onLink s.val fun m => m.faultArises s.val kind := by
  cases kind <;> rfl

section
variable (m : Fjoek) (k : Nat)

theorem inFault_faulty : (m.inFault k).faulty k = true := by
  unfold Fjoek.inFault
  split <;> exact faulty_setFault m k true

theorem state_inFault : (m.inFault k).get (NETP_SSTAT_state k) =
    if m.get (NETP_SSTAT_state k) = 3 then 2 else m.get (NETP_SSTAT_state k) := by
  unfold Fjoek.inFault
  rw [get_setFault]
  split
  · exact Fjoek.get_put_fits _ rfl
  · rfl

theorem get_inFault {f : Fld} (h : ∀ n : Fjoek, (n.put (NETP_SSTAT_state k) 2).get f = n.get f) : (m.inFault k).get f = m.get f := by
  unfold Fjoek.inFault
  split
  · exact h _
  · rfl

end

section
variable (m : Fjoek) {k : Nat} (hk : k < 32)
include hk

/-- A cause of a slot's errors is set. -/
theorem slotError_sets (f : Nat → Fld) (hf : (f k).addr = NETP_ESTAT k) (h1 : (f k).hi = (f k).lo) :
    Noted (m.put (f k) 1) (m.slotError k f) :=
  (Noted.refl m).cause _ _ (by omega) (noting_seam _ (by rw [hf, NETP_ESTAT]; omega)) h1

/-- A mark leaves the faults in force and the releases. -/
theorem faultMark_netp (kind : LinkFault) : (m.faultMark k kind).netp = m.netp := by
  cases kind
  case fec => exact (slotError_sets m hk NETP_ESTAT_fecdeg rfl rfl).netp
  case align => exact Fjoek.put_netp m (NETP_SSTAT_align k) 0
  case loc => exact Fjoek.put_netp m (NETP_SSTAT_lfault k) 1
  case remote => exact Fjoek.put_netp m (NETP_SSTAT_rfault k) 1

theorem state_faultMark (kind : LinkFault) : (m.faultMark k kind).get (NETP_SSTAT_state k) = m.get (NETP_SSTAT_state k) := by
  cases kind
  case fec =>
    refine ((slotError_sets m hk NETP_ESTAT_fecdeg rfl rfl).flowed.get (slotReg_of (by decide) hk)).trans ?_
    exact Fjoek.get_put_ne _ _ (mt Nat.add_right_cancel (by decide))
  case align => exact m.get_put_beside (f := NETP_SSTAT_align k) 0 rfl
  case loc => exact m.get_put_beside (f := NETP_SSTAT_lfault k) 1 rfl
  case remote => exact m.get_put_beside (f := NETP_SSTAT_rfault k) 1 rfl

theorem fecthr_faultMark (kind : LinkFault) : (m.faultMark k kind).get (NETP_FECTHR_en k) = m.get (NETP_FECTHR_en k) := by
  cases kind
  case fec =>
    refine ((slotError_sets m hk NETP_ESTAT_fecdeg rfl rfl).flowed.get (slotReg_of (by decide) hk)).trans ?_
    exact Fjoek.get_put_ne _ _ (mt Nat.add_right_cancel (by decide))
  case align => exact m.get_put_ne (f := NETP_SSTAT_align k) 0 (mt Nat.add_right_cancel (by decide))
  case loc => exact m.get_put_ne (f := NETP_SSTAT_lfault k) 1 (mt Nat.add_right_cancel (by decide))
  case remote => exact m.get_put_ne (f := NETP_SSTAT_rfault k) 1 (mt Nat.add_right_cancel (by decide))

/-- The threshold's enable bit stands as it did when the mark is made. -/
theorem fecthr_marked (kind : LinkFault) : ((m.senseSnr k).faultMark k kind).isOn (NETP_FECTHR_en k) = m.isOn (NETP_FECTHR_en k) :=
  Fjoek.isOn_congr ((fecthr_faultMark _ hk kind).trans ((flowed_senseSnr m k).get (slotReg_of (by decide) hk)))

theorem state_marked (kind : LinkFault) : ((m.senseSnr k).faultMark k kind).get (NETP_SSTAT_state k) = m.get (NETP_SSTAT_state k) :=
  (state_faultMark _ hk kind).trans ((flowed_senseSnr m k).get (slotReg_of (by decide) hk))

variable {kind : LinkFault}

theorem faultArises_fault (h : kind ≠ .fec ∨ m.isOn (NETP_FECTHR_en k) = true) :
    m.faultArises k kind = ((m.senseSnr k).faultMark k kind).inFault k := by
  unfold Fjoek.faultArises
  rw [fecthr_marked m hk]
  refine if_neg ?_
  rintro ⟨hkind, hen⟩
  rcases h with h | h
  · exact h hkind
  · rw [h] at hen
    exact absurd hen (by decide)

theorem faultArises_counted (hen : m.isOn (NETP_FECTHR_en k) = false) :
    m.faultArises k .fec = (m.senseSnr k).faultMark k .fec := by
  unfold Fjoek.faultArises
  rw [fecthr_marked m hk, hen]
  exact if_pos ⟨rfl, rfl⟩

theorem faultArises_faulted (h : kind ≠ .fec ∨ m.isOn (NETP_FECTHR_en k) = true) : (m.faultArises k kind).faulty k = true ∧
    (m.faultArises k kind).get (NETP_SSTAT_state k) = if m.get (NETP_SSTAT_state k) = 3 then 2 else m.get (NETP_SSTAT_state k) := by
  rw [faultArises_fault m hk h]
  refine ⟨inFault_faulty _ k, ?_⟩
  rw [state_inFault, state_marked m hk]

omit hk in
/-- What a fault of a kind marks stays marked as it comes into force. -/
theorem get_faultArises {f : Fld} (h : ∀ n : Fjoek, (n.put (NETP_SSTAT_state k) 2).get f = n.get f) :
    (m.faultArises k kind).get f = ((m.senseSnr k).faultMark k kind).get f := by
  unfold Fjoek.faultArises
  split
  · rfl
  · exact get_inFault _ k h

end

section
variable {st : State} {s : Fin 32} (h2 : 2 ≤ st.m.get (NETP_SSTAT_state s.val))
include h2

theorem ends_linkFault {kind : LinkFault} {P : Fjoek → Prop} (hP : ∀ t, Flowed (st.m.faultArises s.val kind) t → P t) :
    Ends (.linkFault s kind) st P :=
  ends_onLink (f := fun m => m.faultArises s.val kind) (exec_linkFault st s kind) (if_neg (Nat.not_lt.2 h2)) fun t ht =>
    hP t.unburnt (((noted_onLink _ _ _).trans ht).flowed.trans (.of_swc (fun _ _ => rfl) rfl rfl rfl))

/-- A fault comes into force, and its field shows it. -/
theorem ends_fault_marked {kind : LinkFault} {f : Fld} {v : Nat} (hkind : kind ≠ .fec) (hf : (NETP_SSTAT_state s.val).beside f = true)
    (ha : f.addr = NETP_SSTAT s.val) (hmark : ∀ n : Fjoek, (n.faultMark s.val kind).get f = v) :
    Ends (.linkFault s kind) st fun n => (n.faulty s.val = true ∧ n.get (NETP_SSTAT_state s.val) =
      if st.m.get (NETP_SSTAT_state s.val) = 3 then 2 else st.m.get (NETP_SSTAT_state s.val)) ∧ n.isOn f = (v != 0) := by
  have hk := s.isLt
  obtain ⟨hfault, hstate⟩ := faultArises_faulted st.m hk (.inl hkind)
  refine ends_linkFault h2 fun t ht => ⟨⟨(ht.faulty s.val).trans hfault, (ht.get (slotReg_of (by decide) hk)).trans hstate⟩,
    Fjoek.isOn_of_get ?_⟩
  refine (ht.get (ha ▸ slotReg_of (by decide) hk)).trans ((get_faultArises st.m fun n => n.get_put_beside 2 hf).trans (hmark _))

theorem ends_fault_fec : Ends (.linkFault s .fec) st fun n => n.isOn (NETP_ESTAT_fecdeg s.val) = true ∧
    if st.m.isOn (NETP_FECTHR_en s.val) then n.faulty s.val = true ∧ n.get (NETP_SSTAT_state s.val) =
      if st.m.get (NETP_SSTAT_state s.val) = 3 then 2 else st.m.get (NETP_SSTAT_state s.val)
    else n.get (NETP_SSTAT_state s.val) = st.m.get (NETP_SSTAT_state s.val) ∧ n.faulty s.val = st.m.faulty s.val := by
  have hk := s.isLt
  refine ends_linkFault h2 fun t ht => ⟨?_, ?_⟩
  · refine (ht.isOn (slotReg_of (by decide) hk)).trans ((Fjoek.isOn_congr (get_faultArises st.m fun n =>
      n.get_put_ne 2 (mt Nat.add_right_cancel (by decide)))).trans ?_)
    refine ((slotError_sets (st.m.senseSnr s.val) hk NETP_ESTAT_fecdeg rfl rfl).flowed.isOn (slotReg_of (by decide) hk)).trans ?_
    exact Fjoek.isOn_put_same _ _ rfl rfl
  · split
    · rename_i hen
      obtain ⟨hfault, hstate⟩ := faultArises_faulted st.m hk (kind := .fec) (.inr hen)
      exact ⟨(ht.faulty s.val).trans hfault, (ht.get (slotReg_of (by decide) hk)).trans hstate⟩
    · rename_i hen
      have hcount := faultArises_counted st.m hk (Bool.eq_false_iff.2 hen)
      refine ⟨(ht.get (slotReg_of (by decide) hk)).trans ?_, ?_⟩
      · rw [hcount]
        exact state_marked st.m hk .fec
      · refine (ht.faulty s.val).trans ?_
        unfold Fjoek.faulty
        rw [hcount, faultMark_netp _ hk, (flowed_senseSnr st.m s.val).netp]

end

theorem does_linkFaultClear {st : State} {s : Fin 32} (h4 : st.m.get (NETP_SSTAT_state s.val) = 4) (hf : st.m.faulty s.val = true) :
    Does (.linkFaultClear s) st ((((((st.m.put (NETP_SSTAT_align s.val) 1).put (NETP_SSTAT_lfault s.val) 0).put
      (NETP_SSTAT_rfault s.val) 0).setFault s.val false).count (NETP_FLAPS_LO s.val) 1).put (NETP_ESTAT_flap s.val) 1) := by
  refine does_noted rfl ?_
  rw [if_pos ⟨h4, hf⟩]
  exact slotError_sets _ s.isLt NETP_ESTAT_flap rfl rfl

end Sys2Proof.Machine
end

section
/-! PROOFS. Port slots (R221, R225, R226, R245): the hold of a port that goes down, PAUSE and PFC. -/

namespace Sys2Proof.Machine

/-! ## The hold of a port (R245 to R247) -/

/-- The port is in hold, as the last to begin, and its frames wait. -/
def Fjoek.holding (m : Fjoek) (p : Nat) : Fjoek :=
  let m : Fjoek := { m with swc := { m.swc with holds := m.swc.holds.filter (· != p) ++ [p] } }
  m.each (List.range 8) fun c m => m.setQueueOf p c ((m.queueOf p c).map fun q => { q with held := true })

theorem startHold_eq (m : Fjoek) (p : Nat) :
    m.startHold p = if m.get SWC_HOLD_hold = 0 then m.flushPort p else (m.holding p).pressure := rfl

section
variable (m : Fjoek) (p : Nat)

theorem reg_holding (a : Nat) : (m.holding p).reg a = m.reg a := by
  unfold Fjoek.holding
  refine (Fjoek.each_keeps (fun n => n.reg a) _ _ (fun _ _ _ => ?_) _).trans ?_ <;> rfl

theorem mem_holding : p ∈ (m.holding p).swc.holds := by
  have hholds : (m.holding p).swc.holds = m.swc.holds.filter (· != p) ++ [p] := by
    unfold Fjoek.holding
    refine (Fjoek.each_keeps (fun n => n.swc.holds) _ _ (fun _ _ _ => ?_) _).trans ?_ <;> rfl
  rw [hholds]
  exact List.mem_append_right _ (.head _)

end

/-- What flushes under pressure leave of the slots. -/
theorem reg_pressLoop (n : Nat) (m : Fjoek) {a : Nat} (ha : slotReg a) : (pressLoop n m).reg a = m.reg a := by
  induction n generalizing m with
  | zero => rfl
  | succ n ih =>
    unfold pressLoop
    split
    · split
      · rfl
      · exact (ih _).trans ((flushPort_flushed m _).reg a ha)
    · rfl

theorem flowed_press (m : Fjoek) : Flowed m (m.cause SWC_STAT_press 193) :=
  Flowed.trans (flowed_put m 1 (not_slotReg_above (by decide)))
    ((Noted.refl m).cause _ _ (by decide) (noting_seam _ (by decide)) rfl).flowed

theorem reg_pressure (m : Fjoek) {a : Nat} (ha : slotReg a) : m.pressure.reg a = m.reg a := by
  unfold Fjoek.pressure
  split
  · exact ((flowed_press _).reg a ha).trans (reg_pressLoop _ m ha)
  · rfl

theorem pressure_unset {m : Fjoek} (h : m.get SWC_PRESS_cells = 0) : m.pressure = m := if_neg fun hp => hp.1 h

theorem reg_startHold (m : Fjoek) (p : Nat) {a : Nat} (ha : slotReg a) : (m.startHold p).reg a = m.reg a := by
  rw [startHold_eq]
  split
  · exact (flushPort_flushed m p).reg a ha
  · exact (reg_pressure _ ha).trans (reg_holding m p a)

theorem startHold_empties {m : Fjoek} (p : Nat) (h : m.get SWC_HOLD_hold = 0) : (m.startHold p).emptied p := by
  rw [startHold_eq, if_pos h]
  exact (flushPort_flushed m p).emptied

theorem mem_startHold {m : Fjoek} (p : Nat) (h : m.get SWC_HOLD_hold ≠ 0) (hp : m.get SWC_PRESS_cells = 0) :
    p ∈ (m.startHold p).swc.holds := by
  have hpress : (m.holding p).get SWC_PRESS_cells = 0 := by
    unfold Fjoek.get
    rw [reg_holding]
    exact hp
  rw [startHold_eq, if_neg h, pressure_unset hpress]
  exact mem_holding m p

/-! ## Link down (R221) -/

/-- A frame that was being sent is cut off, and counted. -/
def Fjoek.cutOff (m : Fjoek) (k : Nat) (sending : Bool) : Fjoek := m.when sending fun m => m.count (NETP_TXABORT_LO k) 1

/-- The slot of a link that went down trains again, and its port is down. -/
def Fjoek.slotDown (m : Fjoek) (k : Nat) : Fjoek := (m.put (NETP_SSTAT_state k) 2).setUp k false

theorem get_cutOff (m : Fjoek) {k : Nat} (sending : Bool) {f : Fld} (h : ¬(0x100100 ≤ f.addr ∧ f.addr < 0x120000)) (hk : k < 32) :
    (m.cutOff k sending).get f = m.get f := by
  unfold Fjoek.cutOff Fjoek.when
  split
  · exact Fjoek.get_count_ne _ _ _ _ (by unfold NETP_TXABORT_LO; omega) (by unfold NETP_TXABORT_LO; omega)
  · rfl

theorem get_slotDown_global (m : Fjoek) {k : Nat} (hk : k < 32) {f : Fld} (hf : 0x140000 ≤ f.addr ∧ f.addr < 0x140100) :
    (m.slotDown k).get f = m.get f :=
  (get_setUp_global _ hk false hf).trans (Fjoek.get_put_ne _ _ (by simp only [NETP_SSTAT_state]; omega))

theorem ends_linkDown {st : State} {s : Fin 32} (sending : Bool) (h4 : st.m.get (NETP_SSTAT_state s.val) = 4)
    (hf : st.m.faulty s.val = true) : Ends (.linkDown s sending) st fun n => n.get (NETP_SSTAT_state s.val) = 2 ∧
      n.isOn (NETP_SSTAT_up s.val) = false ∧
      (if st.m.get SWC_HOLD_hold = 0 then n.emptied s.val else st.m.get SWC_PRESS_cells = 0 → s.val ∈ n.swc.holds) := by
  have hk := s.isLt
  let down := (st.m.cutOff s.val sending).slotDown s.val
  have hglobal {f : Fld} (hfld : 0x140000 ≤ f.addr ∧ f.addr < 0x140100) : down.get f = st.m.get f :=
    (get_slotDown_global _ hk hfld).trans (get_cutOff st.m sending (by omega) hk)
  refine ends_onLink (n := st.m.cutOff s.val sending) (f := fun m => (m.slotDown s.val).startHold s.val)
    (g := fun m => if m.get (NETP_SSTAT_state s.val) = 4 ∧ m.faulty s.val then
      (m.cutOff s.val sending).onLink s.val fun m => (m.slotDown s.val).startHold s.val else m)
    rfl (if_pos ⟨h4, hf⟩) fun t ht => ?_
  have hflow := ((noted_onLink _ _ _).trans ht).flowed
  have hget {f : Fld} (hfld : slotReg f.addr) : t.get f = down.get f := by
    refine (hflow.get hfld).trans ?_
    unfold Fjoek.get
    rw [reg_startHold _ _ hfld]
  refine ⟨?_, ?_, ?_⟩
  · refine (hget (slotReg_of (by decide) hk)).trans ((state_setUp _ hk false).trans ?_)
    exact Fjoek.get_put_fits _ rfl
  · exact (Fjoek.isOn_congr (hget (slotReg_of (by decide) hk))).trans (isOn_setUp _ hk false)
  · split
    · rename_i hhold
      exact hflow.emptied (startHold_empties s.val ((hglobal (by decide)).trans hhold))
    · rename_i hhold
      intro hpress
      show s.val ∈ t.swc.holds
      rw [hflow.holds]
      exact mem_startHold s.val (by rwa [hglobal (by decide)]) ((hglobal (by decide)).trans hpress)

/-! ## Received PAUSE (R225) -/

theorem bne_zero_eq_decide (n : Nat) : (n != 0) = decide (n ≠ 0) := (decide_not (p := n = 0)).symm

theorem slotOpen_iff (m : Fjoek) (k : Nat) :
    m.slotOpen k = true ↔ m.isOn (NETP_SSTAT_up k) = true ∧ m.isOn (NETP_SCTL_admin k) = true := Bool.and_eq_true_iff

theorem Flowed.slotOpen {m n : Fjoek} (h : Flowed m n) {k : Nat} (hk : k < 32) : n.slotOpen k = m.slotOpen k := by
  unfold Fjoek.slotOpen
  rw [h.isOn (slotReg_of (by decide) hk), h.isOn (slotReg_of (by decide) hk)]

theorem Flowed.released {m n : Fjoek} (h : Flowed m n) (k : Nat) : n.released k = m.released k := by
  unfold Fjoek.released
  rw [h.netp]

theorem pauseClasses_open {m : Fjoek} {p : Nat} (h : m.slotOpen p = true) (mask : Nat) (on : Bool) :
    m.pauseClasses p mask on = m.put (SWC_PSTAT_paused p) (if on then m.get (SWC_PSTAT_paused p) ||| (mask - (mask &&& m.released p))
      else m.get (SWC_PSTAT_paused p) - (m.get (SWC_PSTAT_paused p) &&& (mask - (mask &&& m.released p)))) := by
  unfold Fjoek.pauseClasses
  rw [h]
  rfl

/-- A count of a slot leaves the classes that are paused. -/
theorem paused_slotCount (m : Fjoek) {k a : Nat} (n : Nat) (ha : a < 0x120000) :
    (m.count a n).get (SWC_PSTAT_paused k) = m.get (SWC_PSTAT_paused k) :=
  Fjoek.get_count_ne _ _ _ _ (by simp only [SWC_PSTAT_paused]; omega) (by simp only [SWC_PSTAT_paused]; omega)

theorem does_pauseReceive {st : State} {s : Fin 32} (t : BitVec 16) (hup : st.m.isOn (NETP_SSTAT_up s.val) = true)
    (hadmin : st.m.isOn (NETP_SCTL_admin s.val) = true) (h1 : st.m.get (NETP_SCTL_fc s.val) = 1) :
    Does (.pauseReceive s t) st ((st.m.count (NETP_PAUSERX_LO s.val) 1).put (SWC_PSTAT_paused s.val)
      (if t ≠ 0 then st.m.get (SWC_PSTAT_paused s.val) ||| (0xFF - (0xFF &&& st.m.released s.val))
       else st.m.get (SWC_PSTAT_paused s.val) - (st.m.get (SWC_PSTAT_paused s.val) &&& (0xFF - (0xFF &&& st.m.released s.val))))) := by
  have hk := s.isLt
  have hflow : Flowed st.m (st.m.count (NETP_PAUSERX_LO s.val) 1) := flowed_slotCount st.m 1 (by unfold NETP_PAUSERX_LO; omega)
  have hopen := (hflow.slotOpen hk).trans ((slotOpen_iff st.m s.val).2 ⟨hup, hadmin⟩)
  have hquanta : (t.toNat != 0) = decide (t ≠ 0) := by
    rw [bne_zero_eq_decide, decide_eq_decide]
    exact not_congr (BitVec.toNat_inj (y := 0#16))
  refine does_on (f := fun m => m.pauseFrame s.val t.toNat) rfl ((if_pos h1).trans ?_)
  rw [pauseClasses_open hopen, hflow.released, paused_slotCount _ _ (by unfold NETP_PAUSERX_LO; omega), hquanta]
  simp only [decide_eq_true_eq]

theorem does_pauseReceive_unselected {st : State} {s : Fin 32} (t : BitVec 16) (h : st.m.get (NETP_SCTL_fc s.val) ≠ 1) :
    Does (.pauseReceive s t) st (st.m.count (NETP_RXCTL_LO s.val) 1) :=
  does_on (f := fun m => m.pauseFrame s.val t.toNat) rfl (if_neg h)

/-! ## Received PFC (R225, R226) -/

theorem testBit_sub_two_pow_mask (v c j : Nat) : (v - (v &&& 2 ^ c)).testBit j = (v.testBit j && decide (j ≠ c)) := by
  have hwith : v - (v &&& 2 ^ c) = withBits v c c 0 := by
    unfold withBits bitsOf
    rw [Nat.and_two_pow, Nat.toNat_testBit]
    simp
  rw [hwith, withBits_testBit _ _ _ _ _ (Nat.le_refl c)]
  by_cases h : j = c
  · simp [h]
  · rw [if_neg (by omega)]
    simp [h]

/-- A class that is released hears no pause, another its own. -/
theorem heard_two_pow (c r : Nat) : 2 ^ c - (2 ^ c &&& r) = if r.testBit c then 0 else 2 ^ c := by
  rw [Nat.two_pow_and]
  cases r.testBit c <;> simp

theorem testBit_heard (v c r j : Nat) (on : Bool) :
    (if on then v ||| (2 ^ c - (2 ^ c &&& r)) else v - (v &&& (2 ^ c - (2 ^ c &&& r)))).testBit j =
      if j = c ∧ r.testBit c = false then on else v.testBit j := by
  rw [heard_two_pow]
  cases hr : r.testBit c
  · cases on
    · simp only [Bool.false_eq_true, if_false, and_true, testBit_sub_two_pow_mask]
      by_cases h : j = c <;> simp [h]
    · simp only [Bool.false_eq_true, if_false, if_true, and_true, Nat.testBit_or, Nat.testBit_two_pow, eq_comm (a := c)]
      by_cases h : j = c <;> simp [h]
  · cases on <;> simp

/-- What a PFC frame says of one class. -/
def Fjoek.pfcClass (m : Fjoek) (p : Nat) (quanta : List Nat) (c : Nat) : Fjoek :=
  if bitOf ((m.count (NETP_PFCRX_LO p c) 1).get (NETP_PFCCFG_pmask p)) c then
    (m.count (NETP_PFCRX_LO p c) 1).pauseClasses p (2 ^ c) (nth quanta c 0 != 0)
  else m.count (NETP_PFCRX_LO p c) 1

theorem pfcFrame_selected {m : Fjoek} {p : Nat} (h : m.get (NETP_SCTL_fc p) = 2) (enable : Nat) (quanta : List Nat) :
    m.pfcFrame p enable quanta = m.each ((List.range 8).filter fun c => bitOf enable c) fun c m => m.pfcClass p quanta c := if_pos h

section
variable (m : Fjoek) {p : Nat} (quanta : List Nat) {c : Nat} (hc : c < 8)
include hc

theorem flowed_pfcCount : Flowed m (m.count (NETP_PFCRX_LO p c) 1) := flowed_slotCount m 1 (by unfold NETP_PFCRX_LO; omega)

theorem flowed_pfcClass : Flowed m (m.pfcClass p quanta c) := by
  have hcount := flowed_pfcCount m (p := p) hc
  exact .ite (hcount.trans (flowed_pauseClasses _ p _ _)) hcount

theorem paused_pfcClass (hp : p < 32) (hopen : m.slotOpen p = true) {j : Nat} (hj : j < 8) :
    bitOf ((m.pfcClass p quanta c).get (SWC_PSTAT_paused p)) j =
      if j = c ∧ bitOf (m.get (NETP_PFCCFG_pmask p)) c = true ∧ bitOf (m.released p) c = false then nth quanta c 0 != 0
      else bitOf (m.get (SWC_PSTAT_paused p)) j := by
  have hcount := flowed_pfcCount m (p := p) hc
  have hpaused := paused_slotCount m (k := p) (a := NETP_PFCRX_LO p c) 1 (by unfold NETP_PFCRX_LO; omega)
  unfold Fjoek.pfcClass
  rw [hcount.get (slotReg_of (by decide) hp)]
  cases hmask : bitOf (m.get (NETP_PFCCFG_pmask p)) c
  · simp [hpaused]
  · rw [if_pos rfl, pauseClasses_open ((hcount.slotOpen hp).trans hopen), Fjoek.get_put_same _ _ _ rfl, hcount.released, hpaused]
    refine (Nat.testBit_mod_two_pow _ 8 j).trans ?_
    rw [decide_eq_true hj, Bool.true_and, testBit_heard]
    simp [bitOf]

end

/-- The frame says of each class what its own part says, and the classes before it nothing of it. -/
theorem paused_pfcClasses {p : Nat} (hp : p < 32) (quanta : List Nat) {j : Nat} (hj : j < 8) (l : List Nat) (hl : ∀ c ∈ l, c < 8) (m : Fjoek)
    (hopen : m.slotOpen p = true) : bitOf ((m.each l fun c m => m.pfcClass p quanta c).get (SWC_PSTAT_paused p)) j =
      if j ∈ l ∧ bitOf (m.get (NETP_PFCCFG_pmask p)) j = true ∧ bitOf (m.released p) j = false then nth quanta j 0 != 0
      else bitOf (m.get (SWC_PSTAT_paused p)) j := by
  induction l generalizing m with
  | nil => simp [Fjoek.each]
  | cons c r ih =>
    have hc := hl c (.head _)
    have hflow := flowed_pfcClass m (p := p) quanta hc
    refine (ih (fun x hx => hl x (.tail _ hx)) _ ((hflow.slotOpen hp).trans hopen)).trans ?_
    rw [hflow.get (slotReg_of (by decide) hp), hflow.released, paused_pfcClass m quanta hc hp hopen hj]
    by_cases hjc : j = c
    · subst hjc
      split <;> simp_all
    · simp [hjc]

theorem ends_pfcReceive {st : State} {s : Fin 32} (enable : BitVec 8) (qs : List Nat) (hup : st.m.isOn (NETP_SSTAT_up s.val) = true)
    (hadmin : st.m.isOn (NETP_SCTL_admin s.val) = true) (h2 : st.m.get (NETP_SCTL_fc s.val) = 2) :
    Ends (.pfcReceive s enable qs) st fun n => ∀ j < 8, bitOf (n.get (SWC_PSTAT_paused s.val)) j =
      if bitOf enable.toNat j ∧ bitOf (st.m.get (NETP_PFCCFG_pmask s.val)) j ∧ ¬bitOf (st.m.released s.val) j then decide (nth qs j 0 ≠ 0)
      else bitOf (st.m.get (SWC_PSTAT_paused s.val)) j := by
  refine ends_of _ _ _ _ (on_effect (f := fun m => m.pfcFrame s.val enable.toNat qs) (pfcFrame_selected h2 _ qs)) fun t ht j hj => ?_
  rw [ht.get_seam _ (by simp only [SWC_PSTAT_paused]; omega)]
  refine (paused_pfcClasses s.isLt qs hj _ (fun c hc => class_lt hc) st.m ((slotOpen_iff st.m s.val).2 ⟨hup, hadmin⟩)).trans ?_
  simp only [List.mem_filter, List.mem_range, hj, true_and, Bool.not_eq_true, bne_zero_eq_decide]

theorem does_pfcReceive_unselected {st : State} {s : Fin 32} (enable : BitVec 8) (qs : List Nat)
    (h : st.m.get (NETP_SCTL_fc s.val) ≠ 2) : Does (.pfcReceive s enable qs) st (st.m.count (NETP_RXCTL_LO s.val) 1) :=
  does_on (f := fun m => m.pfcFrame s.val enable.toNat qs) rfl (if_neg h)

/-! ## XOFF sent (R225, R238) -/

theorem count_out (m : Fjoek) (a n : Nat) : (m.count a n).out = m.out := rfl

section
variable (m : Fjoek) (p : Nat)

theorem pauseClasses_out (mask : Nat) (on : Bool) : (m.pauseClasses p mask on).out = m.out := by
  unfold Fjoek.pauseClasses
  dsimp only
  split
  · rfl
  · exact m.put_out _ _

theorem pauseFrame_out (quanta : Nat) : (m.pauseFrame p quanta).out = m.out := by
  unfold Fjoek.pauseFrame
  split
  · exact pauseClasses_out _ p _ _
  · rfl

theorem pfcClass_out (quanta : List Nat) (c : Nat) : (m.pfcClass p quanta c).out = m.out := by
  unfold Fjoek.pfcClass
  split
  · exact pauseClasses_out _ p _ _
  · rfl

theorem pfcFrame_out (enable : Nat) (quanta : List Nat) : (m.pfcFrame p enable quanta).out = m.out := by
  by_cases h : m.get (NETP_SCTL_fc p) = 2
  · rw [pfcFrame_selected h]
    exact Fjoek.each_keeps Fjoek.out _ _ (fun c _ n => pfcClass_out n p quanta c) m
  · rw [show m.pfcFrame p enable quanta = m.count (NETP_RXCTL_LO p) 1 from if_neg h]
    rfl

end

/-- What a signal sends, where the slot is up and its transmitter free. -/
theorem sendPause_out {m : Fjoek} {p : Nat} (hup : m.isOn (NETP_SSTAT_up p) = true) (htx : m.isOn (NETP_SSTAT_txsup p) = false)
    (hfc : m.get (NETP_SCTL_fc p) = 1 ∨ m.get (NETP_SCTL_fc p) = 2) (mask quanta : Nat) :
    (m.sendPause p mask quanta).out = m.out ++ [.pause p mask quanta (m.slotMac p)] := by
  have hcounts (n : Fjoek) : (n.each ((List.range 8).filter fun c => bitOf mask c) fun c m => m.count (NETP_PFCTX_LO p c) 1).out = n.out :=
    Fjoek.each_keeps Fjoek.out _ _ (fun c _ n => count_out n _ _) n
  unfold Fjoek.sendPause
  rw [hup, htx, if_neg (by rintro (h | h | ⟨h, h'⟩) <;> [cases h; cases h; exact hfc.elim h h'])]
  dsimp only
  split
  · split
    · exact pauseFrame_out _ p quanta
    · rfl
  · split
    · exact (pfcFrame_out _ p mask _).trans (hcounts _)
    · exact hcounts _

theorem ends_xoffRepeat {st : State} {s : Fin 32} (hup : st.m.isOn (NETP_SSTAT_up s.val) = true)
    (htx : st.m.isOn (NETP_SSTAT_txsup s.val) = false) (hx : st.m.get (SWC_PSTAT_xoff s.val) ≠ 0)
    (hfc : st.m.get (NETP_SCTL_fc s.val) = 1 ∨ st.m.get (NETP_SCTL_fc s.val) = 2) : Ends (.xoffRepeat s) st fun n =>
      ∃ o, n.out = st.m.out ++ [.pause s.val (st.m.get (SWC_PSTAT_xoff s.val)) (st.m.get (NETP_PFCCFG_quanta s.val)) (st.m.slotMac s.val)] ++ o := by
  refine ends_of _ _ (st.m.sendPause s.val _ _) _ (on_effect (f := fun m => if m.get (SWC_PSTAT_xoff s.val) = 0 then m
    else m.sendPause s.val (m.get (SWC_PSTAT_xoff s.val)) (m.get (NETP_PFCCFG_quanta s.val))) (if_neg hx)) fun t ht => ?_
  obtain ⟨o, ho⟩ := ht.out
  exact ⟨o, ho.trans (congrArg (· ++ o) (sendPause_out hup htx hfc _ _))⟩

/-! ## The end of a pause (R225, R226) -/

theorem does_pauseExpiry (st : State) (s : Fin 32) (c : Fin 8) : Does (.pauseExpiry s c) st (st.m.put (SWC_PSTAT_paused s.val)
    (st.m.get (SWC_PSTAT_paused s.val) - (st.m.get (SWC_PSTAT_paused s.val) &&& st.m.pauseGroup s.val c.val))) :=
  does_on (f := fun m => m.put (SWC_PSTAT_paused s.val)
    (m.get (SWC_PSTAT_paused s.val) - (m.get (SWC_PSTAT_paused s.val) &&& m.pauseGroup s.val c.val))) rfl rfl

/-- Classes of a slot are no longer paused. -/
def Fjoek.resumed (m : Fjoek) (k g : Nat) : Fjoek :=
  m.put (SWC_PSTAT_paused k) (m.get (SWC_PSTAT_paused k) - (m.get (SWC_PSTAT_paused k) &&& g))

/-- The classes that pauses of slot `k` pass by. -/
def Fjoek.setReleased (m : Fjoek) (k v : Nat) : Fjoek :=
  { m with netp := { m.netp with released := tableSet (fun _ => 0) m.netp.released k v } }

/-- The watchdog releases classes of a slot. -/
def Fjoek.wdReleased (m : Fjoek) (k g : Nat) : Fjoek :=
  ((m.resumed k g).setReleased k (m.released k ||| g)).count (NETP_PFCWD_LO k) 1

theorem paused_wdReleased (m : Fjoek) {k : Nat} (hk : k < 32) (g : Nat) :
    (m.wdReleased k g).get (SWC_PSTAT_paused k) = m.get (SWC_PSTAT_paused k) - (m.get (SWC_PSTAT_paused k) &&& g) := by
  unfold Fjoek.wdReleased
  rw [paused_slotCount _ _ (by unfold NETP_PFCWD_LO; omega)]
  refine (Fjoek.get_put_same m _ _ rfl).trans (Nat.mod_eq_of_lt ?_)
  exact Nat.lt_of_le_of_lt (Nat.sub_le _ _) (m.get_lt (SWC_PSTAT_paused k))

theorem reg64_wdReleased (m : Fjoek) {k : Nat} (hk : k < 32) (g : Nat) :
    (m.wdReleased k g).reg64 (NETP_PFCWD_LO k) = (m.reg64 (NETP_PFCWD_LO k) + 1) % 2 ^ 64 := by
  have hput (a : Nat) (ha : a < 0x140000) : (m.resumed k g).reg a = m.reg a :=
    Fjoek.reg_setReg_ne _ _ (by simp only [SWC_PSTAT_paused]; omega)
  unfold Fjoek.wdReleased
  rw [Fjoek.reg64_count]
  refine congrArg (fun v => (v + 1) % 2 ^ 64) ?_
  show (m.resumed k g).reg64 (NETP_PFCWD_LO k) = _
  unfold Fjoek.reg64
  rw [hput _ (by unfold NETP_PFCWD_LO; omega), hput _ (by unfold NETP_PFCWD_LO; omega)]

theorem released_setReleased (m : Fjoek) (k v : Nat) : (m.setReleased k v).released k = v := tableGet_set_same _ _ _ _

theorem released_wdReleased (m : Fjoek) (k g : Nat) : (m.wdReleased k g).released k = m.released k ||| g :=
  released_setReleased (m.resumed k g) k _

theorem reg_unburnt (m : Fjoek) (a : Nat) : m.unburnt.reg a = m.reg a := rfl

/-- The cause set at a release leaves what the release wrote. -/
theorem pfcwd_marked (w : Fjoek) {t : Fjoek} {k : Nat} (hk : k < 32) (h : Noted (w.slotError k NETP_ESTAT_pfcwd).unburnt t) :
    t.get (SWC_PSTAT_paused k) = w.get (SWC_PSTAT_paused k) ∧ t.released k = w.released k ∧
      t.reg64 (NETP_PFCWD_LO k) = w.reg64 (NETP_PFCWD_LO k) ∧ t.isOn (NETP_ESTAT_pfcwd k) = true := by
  have hnoted : Noted (w.put (NETP_ESTAT_pfcwd k) 1).unburnt t := (slotError_sets w hk NETP_ESTAT_pfcwd rfl rfl).unburnt.trans h
  have hreg {a : Nat} (ha : 0x100000 ≤ a ∧ a < 0x300000 ∧ a ≠ (NETP_ESTAT_pfcwd k).addr) : t.reg a = w.reg a := by
    obtain ⟨hlow, hhigh, hne⟩ := ha
    exact (hnoted.reg a (noting_seam a ⟨hlow, hhigh⟩)).trans ((reg_unburnt _ a).trans (w.reg_put_ne _ 1 hne))
  refine ⟨?_, ?_, ?_, ?_⟩
  · unfold Fjoek.get
    rw [hreg (by simp only [SWC_PSTAT_paused, NETP_ESTAT_pfcwd]; omega)]
  · unfold Fjoek.released
    rw [hnoted.netp]
    rfl
  · unfold Fjoek.reg64
    rw [hreg (by simp only [NETP_PFCWD_LO, NETP_ESTAT_pfcwd]; omega), hreg (by simp only [NETP_PFCWD_LO, NETP_ESTAT_pfcwd]; omega)]
  · exact (hnoted.isOn_seam _ (by simp only [NETP_ESTAT_pfcwd]; omega)).trans
      ((Fjoek.isOn_unburnt _ _).trans (w.isOn_put_same (NETP_ESTAT_pfcwd k) rfl rfl))

theorem exec_pfcWatchdogRelease (st : State) (s : Fin 32) (c : Fin 8) : exec (.pfcWatchdogRelease s c) st = st.on fun m =>
    if m.get (NETP_PFCCFG_wd s.val) = 0 ∨ !bitOf (m.get (SWC_PSTAT_paused s.val)) c.val then m
    else (m.wdReleased s.val (m.pauseGroup s.val c.val)).slotError s.val NETP_ESTAT_pfcwd := rfl

theorem ends_pfcWatchdogRelease {st : State} {s : Fin 32} {c : Fin 8} (hwd : st.m.get (NETP_PFCCFG_wd s.val) ≠ 0)
    (hpaused : bitOf (st.m.get (SWC_PSTAT_paused s.val)) c.val = true) : Ends (.pfcWatchdogRelease s c) st fun n =>
      n.get (SWC_PSTAT_paused s.val) =
        st.m.get (SWC_PSTAT_paused s.val) - (st.m.get (SWC_PSTAT_paused s.val) &&& st.m.pauseGroup s.val c.val) ∧
      n.released s.val = st.m.released s.val ||| st.m.pauseGroup s.val c.val ∧
      n.reg64 (NETP_PFCWD_LO s.val) = (st.m.reg64 (NETP_PFCWD_LO s.val) + 1) % 2 ^ 64 ∧ n.isOn (NETP_ESTAT_pfcwd s.val) = true := by
  have hk := s.isLt
  have heffect : (if st.m.get (NETP_PFCCFG_wd s.val) = 0 ∨ !bitOf (st.m.get (SWC_PSTAT_paused s.val)) c.val then st.m
      else (st.m.wdReleased s.val (st.m.pauseGroup s.val c.val)).slotError s.val NETP_ESTAT_pfcwd) =
      (st.m.wdReleased s.val (st.m.pauseGroup s.val c.val)).slotError s.val NETP_ESTAT_pfcwd := by
    rw [hpaused]
    exact if_neg fun h => h.elim hwd Bool.false_ne_true
  refine ends_of _ _ _ _ ((exec_pfcWatchdogRelease st s c).trans (on_effect heffect)) fun t ht => ?_
  obtain ⟨hget, hreleased, hcount, hon⟩ := pfcwd_marked _ hk ht
  exact ⟨hget.trans (paused_wdReleased st.m hk _), hreleased.trans (released_wdReleased st.m s.val _),
    hcount.trans (reg64_wdReleased st.m hk _), hon⟩

theorem ends_pfcReleaseEnd (st : State) (s : Fin 32) (c : Fin 8) : Ends (.pfcReleaseEnd s c) st fun n =>
    n.released s.val = st.m.released s.val - (st.m.released s.val &&& st.m.pauseGroup s.val c.val) := by
  refine ends_of _ _ (st.m.setReleased s.val (st.m.released s.val - (st.m.released s.val &&& st.m.pauseGroup s.val c.val))) _ rfl
    fun t ht => ?_
  exact (ht.flowed.released s.val).trans (released_setReleased st.m s.val _)

/-! ## Margins of lanes (R380) -/

theorem ends_serdesMarginSample (st : State) (lane : Fin 48) (t : BitVec 16) : Ends (.serdesMarginSample lane t) st fun n =>
    tableGet (fun _ => 0) n.twin.margins lane.val = t.toNat + 1 := by
  refine ends_of _ _ (st.m.setTwin { st.m.twin with margins := tableSet (fun _ => 0) st.m.twin.margins lane.val (t.toNat + 1) }) _ rfl
    fun n hn => ?_
  rw [hn.field Twin.margins]
  exact tableGet_set_same (fun _ => 0) st.m.twin.margins lane.val (t.toNat + 1)

/-! ## The obligation -/

/-- Settles O34: the happenings of a slot end as its fields, its queues and its messages say. -/
theorem portSlots : Obligations.PortSlots := by
  unfold Obligations.PortSlots
  intro st s q mode sending t enable qs c lane m k state paused released group heard opened idle empty faulted clear
  refine ⟨fun huse h0 => ?_, fun huse h0 => ends_slotDisable huse h0, fun hidle => does_quadMode mode hidle,
    fun hbusy => does_quadMode_rejected mode hbusy, ends_quadModeChangeDone st q, fun h1 hb => ends_lanesOn h1 hb,
    fun h2 => ends_linkAligned h2, fun h3 => ends_linkQualified h3, fun h2 => ⟨?_, ?_, ?_, ends_fault_fec h2⟩,
    fun h4 hf => does_linkFaultClear h4 hf, fun h4 hf => ends_linkDown sending h4 hf,
    fun hopen h1 => does_pauseReceive t hopen.1 hopen.2 h1, fun h => does_pauseReceive_unselected t h,
    fun hopen h2 => ends_pfcReceive enable qs hopen.1 hopen.2 h2, fun h => does_pfcReceive_unselected enable qs h,
    does_pauseExpiry st s c, fun hup htx hx hfc => ends_xoffRepeat hup htx hx hfc,
    fun hwd hpaused => ends_pfcWatchdogRelease hwd hpaused, ends_pfcReleaseEnd st s c, ends_serdesMarginSample st lane t⟩
  · exact does_on (f := fun m => m.slotEnable s.val) rfl (slotEnable_wakes huse h0)
  · exact ends_fault_marked (f := NETP_SSTAT_align s.val) (v := 0) h2 (by decide) rfl rfl fun n => Fjoek.get_put_fits n rfl
  · exact ends_fault_marked (f := NETP_SSTAT_lfault s.val) (v := 1) h2 (by decide) rfl rfl fun n => Fjoek.get_put_fits n rfl
  · exact ends_fault_marked (f := NETP_SSTAT_rfault s.val) (v := 1) h2 (by decide) rfl rfl fun n => Fjoek.get_put_fits n rfl

end Sys2Proof.Machine
end
